-- ==== Sys2Proof/Word.lean ====
section
/-! DEFINITION. The word types of the KX7: bytes, 32-bit register words and 64-bit fields
(00_scope R12: multi-byte fields are little-endian in host memory, device memory and registers). -/

namespace Sys2Proof

/-- A byte of host memory, page memory or a CXL extent. -/
abbrev Byte := BitVec 8

/-- A 32-bit register or command word. -/
abbrev Word := BitVec 32

/-- A 64-bit field of two consecutive words. -/
abbrev Dbl := BitVec 64

end Sys2Proof
end

