-- ==== Sys2Proof/Syntax.lean ====
section
/-! DEFINITION. The commands of the KX7: one constructor of `Instr` per row of spec/opcode_table.json.
The table gives no operand fields: an operand here is what the row's rule takes from outside the
block (a register value, a packet, a sample, the outcome of a media read, the device time `t` in
nanoseconds at which a time-driven row happens), or names the piece of work the row continues
(the number of an accepted command, a page set, a directory slot, a channel). -/

namespace Sys2Proof

/-- Who makes a register access or sends a command: a host port, or the fabric manager over MCTP
(11 R419). -/
inductive Src where
  | port (p : Nat)
  | mctp
  deriving DecidableEq, Repr

/-- Outcome of a media read of a flash page, codeword by codeword (10 R373): corrected bit count,
or uncorrectable by the hard decode. -/
inductive ReadOutcome where
  /-- Hard decode succeeds at retry level `level` (0 = first read) with at most `bits` corrected bits
  in a codeword. -/
  | hard (level bits : Nat)
  /-- Every hard retry fails and the soft decode succeeds. -/
  | soft (bits : Nat)
  /-- Soft decode fails; `stripe` says whether every other page of the stripe reads (10 R373). -/
  | fail (stripe : Bool)
  deriving DecidableEq, Repr

/-- What the programs and the read-back of a segment gave (10 R357, R359): the die positions whose program failed, and what the read-back of a
position gave, where it is not free of errors. -/
structure SegResult where
  failed : List Nat
  back : List (Nat × ReadOutcome)
  deriving DecidableEq, Repr

/-- Which of the two copies of a journal page read back (10 R364). -/
structure PageResult where
  first : Bool
  second : Bool
  deriving DecidableEq, Repr

/-- A read of a line of the broad map, or of a bucket of the stipple map, by its number, and the 512 bits that it gave (10 R355). -/
structure LineRead where
  stip : Bool
  line : Nat
  seen : Nat
  deriving DecidableEq, Repr

/-- A frame of the network side (13 R471 to R488): what the MAC, the parser and the transport read of it, or
put in it. -/
structure Frame where
  /-- Frame length in bytes without preamble. -/
  len : Nat
  /-- Frame check sequence valid. -/
  fcsOk : Bool
  /-- Addressed to this device: MAC of the port, IP of any port (13 R472). -/
  addrOk : Bool
  /-- DSCP of the IP header. -/
  dscp : Nat
  /-- ECN field says congestion experienced. -/
  ce : Bool
  /-- UDP destination port 4791 with a base transport header (13 R474). -/
  roce : Bool
  /-- Invariant CRC valid. -/
  icrcOk : Bool
  /-- BTH opcode. -/
  op : Nat
  /-- BTH partition key. -/
  pkey : Nat
  /-- BTH destination queue pair. -/
  qpn : Nat
  /-- BTH packet sequence number, 24 bits. -/
  psn : Nat
  /-- BTH acknowledge request. -/
  ackReq : Bool
  /-- BTH backward congestion mark. -/
  becn : Bool
  /-- Remote address, R_KEY and total length of the RETH, where there is one. -/
  va : Dbl
  rkey : Word
  dlen : Nat
  /-- FIRST_PSN and PKT_COUNT of the message extension header (13 R476), where there is one; in an
  acknowledgement `firstPsn` is the MSN. -/
  firstPsn : Nat
  pktCount : Nat
  /-- AETH: 0 ACK, 1 NAK PSN sequence error, 2 NAK invalid request, 3 NAK remote access error, 4 RNR NAK. -/
  nak : Nat
  /-- Timer of an RNR NAK in µs. -/
  rnrUs : Nat
  /-- Immediate data, when the opcode carries it. -/
  imm : Option Word
  /-- Payload bytes. -/
  payload : List Byte
  deriving DecidableEq, Repr

/-- A CXL.mem request (11 R406). -/
inductive CxlReq where
  | read (dpa : Nat)
  | write (dpa : Nat) (data : List Byte)
  deriving DecidableEq, Repr

/-- A LUN that answers at start-up (10 R341): where it is, its geometry as its parameter page gives it, its
profile's values, and its bad multi-plane blocks. -/
structure FoundDie where
  ch : Nat
  vol : Nat
  lun : Nat
  /-- The firmware image holds a profile for its IDs. -/
  profile : Bool
  dataBytes : Nat
  spareBytes : Nat
  planes : Nat
  blocks : Nat
  bits : Nat
  wordlines : Nat
  ldpc : Nat
  endurance : Nat
  suspend : Bool
  bad : List Nat
  deriving DecidableEq, Repr

/-- What channel training and discovery find (10 R341, R342), and the duration of recovery in ms. -/
structure FlashFound where
  /-- RATE of each channel, 0 where training fails at 1,600 MT/s. -/
  rates : List Nat
  targets : List Nat
  dies : List FoundDie
  /-- Superblocks of an interrupted SECURE DISCARD whose erase fails on some die positions, and on some of these the zero program too (10 R383,
  R388). -/
  erases : List (Nat × List Nat × List Nat)
  ms : Nat
  deriving DecidableEq, Repr

/-- A soft error in the PSA's memories since the scrubber's last read (04 R143, R144): one or more bits of the result word of an
entry slot of a bank, or an image word of a physical row beyond correction. -/
inductive Upset where
  | word (bank slot : Nat) (double : Bool)
  | image (bank row : Nat)
  deriving DecidableEq, Repr

/-- A read of the scrubber: when, and the soft errors since its last one. -/
structure ScrubRead where
  at_ : Nat
  upsets : List Upset
  deriving DecidableEq, Repr

/-- A BAR0 access over MCTP (11 R419). -/
inductive RegAcc where
  | read (addr : Nat)
  | write (addr : Nat) (v : Word)
  deriving DecidableEq, Repr

/-- The commands and events of spec/opcode_table.json. -/
inductive Instr where
  -- 12: queues
  | sqTail (p q : Nat) (v : Word)
  | cqHead (p q : Nat) (v : Word)
  | push (p q : Nat) (ws : List Word)
  | commandFetch (p : Nat)
  | deferredCompletion (p q : Nat)
  | coalesceTimer (p q t : Nat)
  | undefinedOpcode (id : Nat)
  -- 03, 05: keys, proofs, publication
  | lookup (id : Nat)
  | hash (id : Nat)
  | openProof (id : Nat)
  | renew (id : Nat)
  | openView (id : Nat)
  | closeProof (id : Nat)
  | proofLapse (slot t : Nat)
  | publish (id : Nat)
  | publishClaim (id : Nat)
  | commitPoint (val : Nat)
  | endPoint (val : Nat)
  | retire (id : Nat)
  | cascadeStep (slot : Nat)
  -- 06: tiers
  | placeReserve (id : Nat)
  | placeSet (id : Nat)
  | moveCommit (pset : Nat)
  | copyRelease (pset : Nat)
  | reservationLapse (pset t : Nat)
  | pressureReclaim (tier : Nat)
  | reclaimRetry (tier t : Nat)
  | free (id : Nat)
  | discard (id : Nat)
  | discardRelocation (id : Nat)
  -- 07: delivery and plans
  | deliver (id : Nat)
  | deliverChunk (id : Nat)
  | deliverComplete (id : Nat)
  | planLoad (id : Nat)
  | planUnload (id : Nat)
  -- 09: attention
  | attend (id : Nat)
  | attendSparse (id : Nat)
  | rerotate (id : Nat)
  | repackConvert (id : Nat)
  | repackLandmark (id : Nat)
  -- 12, 17, 11: fences, configuration, statistics, revocation
  | fence (id : Nat)
  | fenceDone (id : Nat)
  | fenceTimeout (id t : Nat)
  | cfgCommit (id : Nat)
  | cfgRollback (id : Nat)
  | cfgCheckEnd (t : Nat)
  | stats (id : Nat)
  | extentRevoke (id : Nat)
  | revokeDrainEnd (id : Nat)
  | compatLookup (id : Nat)
  | compatDeliver (id : Nat)
  | compatFree (id : Nat)
  -- 02: strokes
  | strokeBoundary (t : Nat)
  | syncMessage (t : Nat) (offset : Int)
  | syncLoss (t : Nat)
  | holdoverLimit (t : Nat)
  | ppsEdge (t : Nat)
  | ppsOut (t : Nat)
  | peerDelayRequest (n : Nat)
  | stkPringTail (p : Nat) (v : Word)
  | headerFetch (p : Nat)
  | recordFetch (p t : Nat)
  | windowOpen (c t : Nat)
  | recordStart (c t : Nat)
  | windowClose (c t : Nat)
  | programSummary (p target : Nat)
  -- 04: Prefix Search Array
  | psaInsert (slot : Nat)
  | psaCompaction (slot bank : Nat)
  | psaDrain (bank slot : Nat)
  | psaScrubRead (t : ScrubRead)
  | scrubLate (bank t : Nat)
  | psaTempSample (t : Nat) (temps : List Nat)
  | bankFailed (bank : Nat)
  | psaForceFail (src : Src) (bank : Nat)
  | psaInject (src : Src) (bank : Nat)
  | psaRehome (bank t : Nat)
  | psaRebuild (failing : List Nat)
  -- 08: burin engines
  | operationStart
  | tileEnd (core eng : Nat)
  | operationBoundary (t : Nat)
  | engineFail (core eng cause : Nat)
  | engineWatchdog (core eng t : Nat)
  | periodicSelfTest (core eng t : Nat)
  | selfTestEnd (core eng t : Nat) (pass : Bool)
  | coreFail (core cause : Nat)
  | failEngine (src : Src) (core : Nat) (mask : Word)
  | failCore (src : Src) (core : Nat)
  | brnInject (src : Src) (core : Nat)
  | mergeTimeout (id t : Nat)
  -- 07: prefetch, reads, repair
  | prefetchStep (id : Nat)
  | prefetchReadIssue (id : Nat)
  | layerResident (id layer : Nat)
  | flashOpStart (ch : Nat)
  | flashRead (rid : Nat) (outcomes : List ReadOutcome)
  | t1UncorrectableRead (tier pset page : Nat)
  | t2ReadTimeout (rid t : Nat)
  | repairRequest (slot : Nat)
  | repairResponse (slot : Nat)
  | repairTimeout (slot t : Nat)
  | repairRetry (slot t : Nat)
  -- 10: flash
  | segmentProgrammed (stream : Nat) (result : SegResult)
  | segmentFlush (stream t : Nat)
  | journalFlush (t : Nat)
  | journalPageDurable (result : PageResult)
  | checkpoint (t : Nat)
  | erase (sb : Nat) (bad zeroBad : List Nat)
  | folding (half : Nat)
  | garbageCollection (half : Nat)
  | rewrite (sb : Nat)
  | flashScrub (sb slot t : Nat) (outcome : ReadOutcome)
  | wearLevelling
  | dieFail (die : Nat)
  | dieRebuild (sb : Nat)
  | mapRebuild (entry : LineRead)
  | flashRecovery (found : FlashFound)
  -- 11: host ports and CXL
  | linkUp (p speed width : Nat) (cxl mld : Bool) (ldUp : Nat)
  | dlDown (p : Nat)
  | perstL (p : Nat)
  | cxlMemRequest (p ld : Nat) (req : CxlReq) (ue : Bool)
  | cxlTokenGrant (p ld t : Nat)
  | hdmCommit (p ld dec : Nat) (base size ways gran : Nat)
  | identifyMemoryDevice (p ld : Nat)
  | getHealthInfo (p ld : Nat)
  | getLog (p ld : Nat) (uuid offset len : Nat)
  | getSupportedLogs (p ld : Nat)
  | getEventRecords (p ld log : Nat)
  | clearEventRecords (p ld log : Nat) (handles : List Nat)
  | mailboxUnsupported (p ld op : Nat)
  | tenOpRead (src : Src)
  | tenOpWrite (src : Src)
  | extentActivate
  | tenFm (src : Src) (v : Word)
  | mctpCommand (ws : List Word)
  | mctpRegisterAccess (acc : RegAcc)
  -- 12: queue set control and DMA
  | qsEnable (src : Src) (p q : Nat) (v : Word)
  | qsDisable (src : Src) (p q : Nat) (v : Word)
  | qsDrainEnd (p q : Nat)
  | dmaRun (src : Src) (ch : Nat)
  | dmaKick (src : Src) (ch : Nat)
  | dmaAbort (src : Src) (ch : Nat)
  | dmaResume (src : Src)
  | descriptorFetch (ch : Nat)
  | burstIssue (ch : Nat)
  | burstComplete (ch : Nat)
  | dmaBusError (ch cause : Nat) (onFetch : Bool)
  -- 13: network and transport
  | netPortUp (n t : Nat)
  | netPortDown (n : Nat)
  | loopbackTest (n t : Nat) (pass : Bool)
  | packetReceive (n : Nat) (f : Frame)
  | ackDelay (qpn t : Nat)
  | ackReceive (n : Nat) (f : Frame)
  | cnpReceive (n : Nat) (f : Frame)
  | nakReceive (n : Nat) (f : Frame)
  | rnrRetry (qpn t : Nat)
  | retryTimer (qpn t : Nat)
  | packetSend (qpn : Nat)
  | contextFetch (qpn : Nat)
  | networkRequest (qpn : Nat)
  | arpRequest (n : Nat) (sender target : Word)
  | neighbourSolicitation (n : Nat) (target : List Word)
  | ctxRead (src : Src)
  | ctxWrite (src : Src)
  | ctxForceError (src : Src)
  | ctxForceReset (src : Src)
  | xptTringTail (src : Src) (p : Nat) (v : Word)
  | triggerFetch (p : Nat)
  | counterIdle (tag t : Nat)
  | xptTrigDisarm (src : Src) (tag : Word)
  -- 14: gates
  | gateEvent (n t : Nat)
  | takeover (n t : Nat)
  | frameSelect (n t : Nat)
  -- 15: security
  | bootSequence (kat : Bool)
  | recoveryLoad (src : Src)
  | recoveryLoadDone
  | mailboxUpdate (src : Src)
  | pldmUpdate (image : List Byte)
  | imageStaged
  | svnCommit (src : Src)
  | revoke (src : Src) (slot : Nat)
  | fuseDone (t : Nat)
  | getVersion (tr : Nat) (msg : List Byte)
  | getCapabilities (tr : Nat) (msg : List Byte)
  | negotiateAlgorithms (tr : Nat) (msg : List Byte)
  | getDigests (tr : Nat) (msg : List Byte)
  | getCertificate (tr : Nat) (msg : List Byte)
  | challenge (tr : Nat) (msg : List Byte)
  | getMeasurements (tr : Nat) (msg : List Byte)
  | chunkSend (tr : Nat) (msg : List Byte)
  | chunkGet (tr : Nat) (msg : List Byte)
  | respondIfReady (tr : Nat) (msg : List Byte)
  | spdmUnsupported (tr : Nat) (msg : List Byte)
  | signatureDone
  -- 16: health
  | pathDelaySample (t : Nat) (ps : List Int)
  | ringOscillatorSample (t : Nat) (vs : List Nat)
  | leakageSample (t : Nat) (vs : List Nat)
  | refreshMarginTest (unit margin : Nat)
  | replanStart (t : Nat)
  | replanNow (src : Src)
  | replanEnd (t : Nat) (outs : List Nat)
  | failStack (src : Src) (stack : Nat)
  | stackFail (stack : Nat)
  | ceStormEnd (page t : Nat)
  | rasLogClear (src : Src)
  | fatalReset (t : Nat)
  | warmReset (src : Src) (v : Word)
  | phaseEnd (t : Nat)
  -- 17: registers
  | intStatusClear (src : Src) (page : Nat) (v : Word)
  | intForce (src : Src) (page : Nat) (v : Word)
  | counterClear (src : Src) (addr : Nat) (v : Word)
  | latchingRead (src : Src) (addr : Nat)
  | registerWrite (src : Src) (addr : Nat) (v : Word)
  -- 18: power, thermal, pins
  | telemetryFrame (t : Nat) (railsMw : List Nat) (coreMa : Nat)
  | powerSample (t mv : Nat)
  | clockRaise (t : Nat)
  | telemetryLoss (t : Nat)
  | vrmHotL (low : Bool)
  | tempSample (t : Nat) (temps : List Nat)
  | thermalComparator
  | resetL (t : Nat)
  | pwrGood (level : Bool) (t : Nat)
  | resetRelease (t : Nat)
  | sysRefclkLoss (t : Nat)
  | pcieRefclkLoss (p t : Nat)
  | netRefclkLoss (die t : Nat)
  | dieToDieLinkLoss (die : Nat)
  | perstLRelease (p : Nat)
  | sysRefclkReturn (t : Nat)
  | mctpControlMessage (cmd : Nat) (msg : List Byte)
  | pldmPlatformEvent
  | activateFirmware (msg : List Byte)
  | cdat (p ld : Nat)
  deriving DecidableEq, Repr

end Sys2Proof
end

