-- ==== Sys2Proof/Decode.lean ====
section
/-! DEFINITION. Decoding of command words. spec/opcode_table.json gives no row any bits: every row is
an operation or event of the block, so no word spells a command and the decoder answers none. -/

namespace Sys2Proof

/-- The command that an `nbits`-bit word spells by the table's bits: no row has any. -/
def decodeTableWord (_nbits _w : Nat) : Option Instr := none

end Sys2Proof
end

