-- ==== Sys2Proof/Machine/Bits.lean ====
section
/-! DEFINITION. Bit fields, little-endian bytes (00_scope R12) and sparse tables: the plain data
structures that every block of the model is built from. -/

namespace Sys2Proof.Machine

/-- Field of `n` bits at bit `lo` of a number. -/
def nfld (w lo n : Nat) : Nat := w / 2 ^ lo % 2 ^ n

/-- Field of `n` bits at bit `lo` of a register word. -/
def fld (w : Word) (lo n : Nat) : Nat := nfld w.toNat lo n

/-- Bit `i` of a register word. -/
def bit (w : Word) (i : Nat) : Bool := w.getLsbD i

/-- The word that holds `n` (low 32 bits). -/
def w32 (n : Nat) : Word := BitVec.ofNat 32 n

/-- The word with only bit `i` set. -/
def wbit (i : Nat) : Word := w32 (2 ^ i)

/-- 1 for true. -/
def b2n (b : Bool) : Nat := if b then 1 else 0

/-- Word `i` of a list of words, as a number; absent words are 0. -/
def wd (ws : List Word) (i : Nat) : Nat := (ws.getD i 0).toNat

/-- The 64-bit field in words `i` and `i + 1` (00_scope R12). -/
def wd64 (ws : List Word) (i : Nat) : Nat := wd ws i + 2 ^ 32 * wd ws (i + 1)

/-- Low and high word of a 64-bit number. -/
def split64 (n : Nat) : List Word := [w32 n, w32 (n / 2 ^ 32)]

/-- `k` little-endian bytes of `n`. -/
def leBytes : Nat → Nat → List Byte
  | 0, _ => []
  | k + 1, n => BitVec.ofNat 8 n :: leBytes k (n / 256)

/-- `k` bytes of `n` in network byte order (00 R12). -/
def beBytes (k n : Nat) : List Byte := (leBytes k n).reverse

/-- The number that little-endian bytes spell. -/
def ofLe : List Byte → Nat
  | [] => 0
  | b :: bs => b.toNat + 256 * ofLe bs

/-- The bytes of a list of words, each little-endian. -/
def bytesOf : List Word → List Byte
  | [] => []
  | w :: ws => leBytes 4 w.toNat ++ bytesOf ws

/-- The words of a byte string; a last partial word is zero-filled. Recursion on fuel. -/
def wordsOfAux : Nat → List Byte → List Word
  | 0, _ => []
  | _, [] => []
  | n + 1, bs => w32 (ofLe (bs.take 4)) :: wordsOfAux n (bs.drop 4)

/-- The words of a byte string, little-endian. -/
def wordsOf (bs : List Byte) : List Word := wordsOfAux bs.length bs

/-- `n` rounded up to a multiple of `m`. -/
def roundUp (n m : Nat) : Nat := (n + m - 1) / m * m

/-- Ceiling of a quotient. -/
def ceilDiv' (n m : Nat) : Nat := (n + m - 1) / m

/-! ### Sparse tables: keys strictly rising, no entry equal to the value an absent key has -/

/-- A table from numbers to values that lists only the keys whose value differs from the default. -/
abbrev Sparse (α : Type) := List (Nat × α)

/-- The value at a key; `d` where the table lists none. -/
def sget {α : Type} (l : Sparse α) (d : α) (k : Nat) : α :=
  match l with
  | [] => d
  | (k', v) :: r => if k = k' then v else sget r d k

/-- The table with `v` at key `k`: sorted insertion; writing the default removes the entry. -/
def sset {α : Type} [DecidableEq α] (l : Sparse α) (d : α) (k : Nat) (v : α) : Sparse α :=
  match l with
  | [] => if v = d then [] else [(k, v)]
  | (k', v') :: r =>
    if k < k' then (if v = d then (k', v') :: r else (k, v) :: (k', v') :: r)
    else if k = k' then (if v = d then r else (k, v) :: r)
    else (k', v') :: sset r d k v

/-- Keys strictly rising from a lower bound, and no default value listed. -/
def swf {α : Type} [DecidableEq α] (d : α) : Nat → Sparse α → Bool
  | _, [] => true
  | lo, (k, v) :: r => decide (lo ≤ k) && decide (v ≠ d) && swf d (k + 1) r

/-- Keys strictly rising: the table lists each key once. -/
def Sparse.rising {α : Type} (l : Sparse α) : Prop := l.Pairwise (fun a b => a.1 < b.1)

/-! ### Byte memories -/

/-- A byte memory: the bytes that differ from zero, by rising address. -/
abbrev Mem := List Host.Cell

/-- The canonical form of a byte memory: addresses strictly rising, no zero byte listed. -/
abbrev Mem.wf (m : Mem) : Bool := swf (0 : Byte) 0 m

/-- The byte at an address; an unlisted address reads 0. -/
def Mem.rd (m : Mem) (a : Nat) : Byte := sget m 0 a

/-- The memory with byte `b` at address `a`. -/
def Mem.wr (m : Mem) (a : Nat) (b : Byte) : Mem := sset m 0 a b

/-- `n` bytes from address `a`. -/
def Mem.rdBytes (m : Mem) (a : Nat) : Nat → List Byte
  | 0 => []
  | n + 1 => Mem.rd m a :: Mem.rdBytes m (a + 1) n

/-- The memory with the bytes `bs` from address `a`. -/
def Mem.wrBytes (m : Mem) (a : Nat) : List Byte → Mem
  | [] => m
  | b :: bs => Mem.wrBytes (Mem.wr m a b) (a + 1) bs

/-- The memory with the range of `n` bytes from `a` at zero. -/
def Mem.clear (m : Mem) (a n : Nat) : Mem := m.filter (fun c => decide (c.1 < a ∨ a + n ≤ c.1))

/-! ### Lists -/

/-- The list with the elements that meet `p` replaced by their image. -/
def updIf {α : Type} (l : List α) (p : α → Bool) (f : α → α) : List α :=
  l.map (fun x => if p x then f x else x)

/-- Every key below `n` for which `p` holds. -/
def keysWith (n : Nat) (p : Nat → Bool) : List Nat := (List.range n).filter p

/-- Inserts before the first element that is not better: `le x y` says x may stand before y. -/
def insertBy {α : Type} (le : α → α → Bool) (x : α) : List α → List α
  | [] => [x]
  | y :: r => if le x y then x :: y :: r else y :: insertBy le x r

/-- Stable sort by insertion. -/
def isort {α : Type} (le : α → α → Bool) : List α → List α
  | [] => []
  | x :: r => insertBy le x (isort le r)

/-- Saturating addition of a 32-bit counter (17 R590). -/
def satAdd (w : Word) (n : Nat) : Word := w32 (min (w.toNat + n) 0xFFFFFFFF)

end Sys2Proof.Machine
end

