-- ==== Sys2Proof/Machine/Keccak.lean ====
section
/-! DEFINITION. SHAKE256 over Keccak-f[1600], which 03 R95 and 15 name for chain values and digests,
and the cyclic redundancy checks of 04 R120, 07 R261 and the flash pages. -/

namespace Sys2Proof.Machine

/-- The 25 lanes of a Keccak state, lane `x + 5 y`. -/
abbrev Lanes := List (BitVec 64)

/-- A lane. -/
def lane (a : Lanes) (x y : Nat) : BitVec 64 := a.getD (x % 5 + 5 * (y % 5)) 0

/-- The lanes computed by a function of their coordinates. -/
def mkLanes (f : Nat → Nat → BitVec 64) : Lanes :=
  (List.range 25).map (fun i => f (i % 5) (i / 5))

/-- Column parities and their mixing. -/
def keccakTheta (a : Lanes) : Lanes :=
  let c := fun x => lane a x 0 ^^^ lane a x 1 ^^^ lane a x 2 ^^^ lane a x 3 ^^^ lane a x 4
  let d := (List.range 5).map (fun x => c ((x + 4) % 5) ^^^ (c ((x + 1) % 5)).rotateLeft 1)
  mkLanes (fun x y => lane a x y ^^^ d.getD x 0)

/-- The walk of the rho step from lane (x, y): lane index and rotation of `n` lanes, `r` rotated so far. -/
def keccakWalk : Nat → Nat → Nat → Nat → Nat → List (Nat × Nat)
  | 0, _, _, _, _ => []
  | n + 1, k, r, x, y => (x + 5 * y, (r + k) % 64) :: keccakWalk n (k + 1) (r + k) y ((2 * x + 3 * y) % 5)

/-- Rotation of a lane: the walk of 24 lanes starts at (1, 0) and lane 0 stays. -/
def keccakTurn (walk : List (Nat × Nat)) (i : Nat) : Nat :=
  match walk.find? (fun e => decide (e.1 = i)) with
  | some e => e.2
  | none => 0

/-- Rotation of each lane and their transposition: lane (x, y) goes to (y, 2x + 3y). -/
def keccakRhoPi (a : Lanes) : Lanes :=
  let walk := keccakWalk 24 1 0 1 0
  mkLanes (fun x y =>
    let sx := (x + 3 * y) % 5
    (lane a sx x).rotateLeft (keccakTurn walk (sx + 5 * x)))

/-- Row mixing. -/
def keccakChi (a : Lanes) : Lanes :=
  mkLanes (fun x y => lane a x y ^^^ (~~~(lane a (x + 1) y) &&& lane a (x + 2) y))

/-- One step of the register that draws the round constants: x^8 + x^6 + x^5 + x^4 + 1. -/
def keccakDraw (r : Nat) : Nat := if 128 ≤ r then (2 * r) ^^^ 0x171 else 2 * r

/-- A round's constant, bit `2^j - 1` of which is the j-th draw, and the register after the round. -/
def keccakConst (r : Nat) : BitVec 64 × Nat :=
  (List.range 7).foldl (fun w j =>
    (if w.2 % 2 = 1 then w.1 ^^^ BitVec.twoPow 64 (2 ^ j - 1) else w.1, keccakDraw w.2)) (0, r)

/-- `n` rounds with the register `r`. -/
def keccakRounds : Nat → Nat → Lanes → Lanes
  | 0, _, a => a
  | n + 1, r, a =>
    let rc := keccakConst r
    let b := keccakChi (keccakRhoPi (keccakTheta a))
    keccakRounds n rc.2 ((b.getD 0 0 ^^^ rc.1) :: b.drop 1)

/-- Keccak-f[1600]. -/
def keccakF (a : Lanes) : Lanes := keccakRounds 24 1 a

/-- A block of the rate, in lanes of 8 bytes, mixed into the state. -/
def keccakAbsorb (a : Lanes) (block : List Byte) : Lanes :=
  keccakF ((List.range 25).map (fun i =>
    a.getD i 0 ^^^ BitVec.ofNat 64 (ofLe ((block.drop (8 * i)).take 8))))

/-- Absorbs padded blocks of `rate` bytes; recursion on fuel. -/
def keccakAbsorbAll (rate : Nat) : Nat → Lanes → List Byte → Lanes
  | 0, a, _ => a
  | n + 1, a, bs => if bs.isEmpty then a else keccakAbsorbAll rate n (keccakAbsorb a (bs.take rate)) (bs.drop rate)

/-- The first `n` bytes of the state's lanes. -/
def keccakBytes (a : Lanes) (n : Nat) : List Byte := (a.flatMap (fun l => leBytes 8 l.toNat)).take n

/-- Squeezes blocks of the rate; recursion on fuel. -/
def keccakSqueeze : Nat → Lanes → List Byte
  | 0, _ => []
  | n + 1, a => keccakBytes a 136 ++ keccakSqueeze n (keccakF a)

/-- SHAKE256 (domain bits 1111, padding 10*1): `n` output bytes. -/
def shake256 (bs : List Byte) (n : Nat) : List Byte :=
  let fill := 136 - bs.length % 136
  let pad : List Byte :=
    if fill = 1 then [0x9F] else (0x1F : Byte) :: (List.replicate (fill - 2) 0 ++ [0x80])
  let a := keccakAbsorbAll 136 (bs.length / 136 + 1) (List.replicate 25 0) (bs ++ pad)
  (keccakSqueeze (n / 136 + 1) a).take n

/-- SHA3-512 (domain bits 01, padding 10*1, rate 72 bytes), which 15 R556 names for SPDM. -/
def sha3_512 (bs : List Byte) : List Byte :=
  let fill := 72 - bs.length % 72
  let pad : List Byte :=
    if fill = 1 then [0x86] else (0x06 : Byte) :: (List.replicate (fill - 2) 0 ++ [0x80])
  keccakBytes (keccakAbsorbAll 72 (bs.length / 72 + 1) (List.replicate 25 0) (bs ++ pad)) 64

/-- `k` steps of a left-shifting CRC of width `w`. -/
def crcShift (w poly : Nat) : Nat → Nat → Nat
  | 0, r => r
  | k + 1, r =>
    crcShift w poly k (if r / 2 ^ (w - 1) % 2 = 1 then (r * 2 % 2 ^ w) ^^^ poly else r * 2 % 2 ^ w)

/-- CRC-16, polynomial 0x1021, initial value 0xFFFF (04 R120); most significant bit first, without reflection or final XOR, which the
rule does not give (DESIGN CHOICE, log 177). -/
def crc16 (bs : List Byte) : Nat :=
  bs.foldl (fun r b => crcShift 16 0x1021 8 (r ^^^ (b.toNat * 2 ^ 8))) 0xFFFF

/-- `k` steps of a right-shifting (reflected) CRC. -/
def crcShiftR (poly : Nat) : Nat → Nat → Nat
  | 0, r => r
  | k + 1, r => crcShiftR poly k (if r % 2 = 1 then (r / 2) ^^^ poly else r / 2)

/-- A number of `w` bits with its bits reversed. -/
def bitRev : Nat → Nat → Nat
  | 0, _ => 0
  | w + 1, n => (n % 2) * 2 ^ w + bitRev w (n / 2)

/-- CRC-8 of a broad-map line (10 R353), polynomial 0x07; initial value 0, most significant bit first, without final XOR, over the
line's bytes in address order, which the rule does not give (DESIGN CHOICE, log 189). -/
def crc8 (bs : List Byte) : Nat := bs.foldl (fun r b => crcShift 8 0x07 8 (r ^^^ b.toNat)) 0

/-- CRC-32C (10 R354, R365): the Castagnoli polynomial, reflected, initial value and final XOR all ones. -/
def crc32c (bs : List Byte) : Nat :=
  let poly := bitRev 32 0x1EDC6F41
  (bs.foldl (fun r b => crcShiftR poly 8 (r ^^^ b.toNat)) (2 ^ 32 - 1)) ^^^ (2 ^ 32 - 1)

/-- CRC-64 of the page check (07 R261): reflected, initial value and final XOR all ones. -/
def crc64 (bs : List Byte) : Nat :=
  let poly := bitRev 64 0x42F0E1EBA9EA3693
  (bs.foldl (fun r b => crcShiftR poly 8 (r ^^^ b.toNat)) (2 ^ 64 - 1)) ^^^ (2 ^ 64 - 1)

end Sys2Proof.Machine
end

