-- ==== Sys2Proof/Config.lean ====
section
/-! DEFINITION. What the spec leaves to the part, to the implementation or to a standard it only
names: every constant below is a free value (no body), so no proof can see what it is. -/

namespace Sys2Proof.Config

/-- SLH-DSA-SHAKE-256s verification under FIPS 205 (15 R540): public key, message, signature.
The spec names the algorithm and does not define it. -/
opaque slhVerify256s : List Byte → List Byte → List Byte → Bool

/-- SLH-DSA-SHAKE-256f key generation under FIPS 205 from the 96 seed bytes (15 R553):
the public key. -/
opaque slhPublic256f : List Byte → List Byte

/-- SLH-DSA-SHAKE-256f signature (15 R553 to R558): seeds, message. -/
opaque slhSign256f : List Byte → List Byte → List Byte

/-- The X.509 certificate body for the Alias key (15 R554): Alias public key and FWID. -/
opaque aliasCertificate : List Byte → List Byte → List Byte

/-- The public key that the DeviceID certificate of the identity region names (15 R554). -/
opaque certPublicKey : List Byte → List Byte

/-- The SPDM transcript bytes that a signature covers (15 R557, SPDM 1.3): transport and request. -/
opaque spdmTranscript : Nat → List Byte → List Byte

/-- The digest of the boot ROM's contents (15 R550 measurement 1); the ROM is not in the spec. -/
opaque romContents : List Byte

/-- Which of the values allowed by an accuracy bound the vector unit returns (08 R286, 09 R335):
operation code and operand; the result is reduced to the bound where it is used. -/
opaque roundingChoice : Nat → Word → Nat

/-- Sign and payload bits of a NaN that the vector unit produces (08 R286 says IEEE 754, which leaves them to the
implementation): operation code and operands. -/
opaque nanBits : Nat → Word → Word → Word → Word

/-- Which of the values within 2 ulp of the cosine (0) or sine (1) of a pair's angle is used (09 R335): DELTA, ROPE_THETA,
ROPE_DIMS, pair index. -/
opaque ropeChoice : Nat → Word → Word → Nat → Nat → Nat

/-- Cosine (0) and sine (1) where ROPE_THETA is no positive finite number (09 R335): the spec gives no angle there. -/
opaque ropeFree : Nat → Word → Word → Nat → Nat → Word

/-- Where the rotation of 09 R335 rounds: 0 both products and the sum, 1 the second product and the sum, 2 the first
product and the sum. The spec says "in FP32" and no more. -/
opaque ropeFused : Nat

/-- The plate slice (modulo 16) that a page of a page set in T0 takes while it has room (01 R20; 08 R276): the spec does not
say how pages are laid over slices. Page-set index, page. -/
opaque homeSlice : Nat → Nat → Nat

/-- Engine cycles of a REROTATE or REPACK tile, for which the spec gives no tile time: kind (0 REROTATE, 1 CONVERT, 2 LANDMARK) and
page size of the model. -/
opaque pageTileCycles : Nat → Nat → Nat

/-- The HBM4 stack that holds a page of a page set in T1 (16 R579): page-set index, page. -/
opaque homeStack : Nat → Nat → Nat

/-- The HBM4 stack that holds a 2 MiB unit of a CXL extent (16 R579): extent and unit. -/
opaque extentStack : Nat → Nat → Nat

/-- T1 address of the PSA bank images, "set at start-up" (04 R156). -/
opaque psaImageBase : Dbl

/-- T1 address of directory slot 0, "set at start-up" (05 R199). -/
opaque dirBase : Dbl

/-- IDENT_REV, the silicon revision, 0 to 255 (15 R536, 17 R608): of the part. -/
opaque siliconRev : Nat

/-- IDENT_SERIAL, "from the fuses" (17 R608): of the part. -/
opaque serial : Nat

/-- What of an image's section 0x06 becomes TEN_FM at start-up (11 R429 with 15 R534): the spec gives the section
no layout. Section bytes; reduced mod 3 where it is used. -/
opaque boardTenFm : List Byte → Nat

/-- What of an image's section 0x06 becomes a NET address register at start-up (13 R506): section bytes, port,
offset of the register. -/
opaque boardNet : List Byte → Nat → Nat → Word

/-- A path-delay sample reduced to 0.75 V, 1.4 GHz and 85 °C (16 R562; the spec gives no formula): monitor, measured
slack in ps, ring oscillator in MHz, setpoint in mV, engine step. -/
opaque reduceSlack : Nat → Int → Nat → Nat → Nat → Int

/-- The slack that a re-plan predicts at 105 °C (16 R564; the spec gives no formula): monitor, lowest reduced slack in
ps, setpoint in mV, engine step. -/
opaque predictSlack : Nat → Int → Nat → Nat → Int

/-- How a register rounds a value that its unit does not divide, where the spec does not say (17 R608, 07 R267, 09 R339,
10 R391, 14 R531, 18 R637, 02 R82): register address, exact value; 0 down, 1 up (taken mod 2). -/
opaque regRound : Nat → Nat → Nat

/-- RAS_LOG_HEAD while the log is empty after records have been held (16 R572 names the oldest record held): RAS_LOG_NEXT. -/
opaque emptyLogHead : Nat → Nat

/-- How full the CXL.mem T1 queue is when a response is formed, in percent (11 R414; it depends on timing): a fresh index;
taken mod 101. -/
opaque t1Queue : Nat → Nat

/-- Bytes that the spec leaves undefined at a destination (03 R100, 07 R238, 11 R639, 12 R461):
a fresh index gives a fresh byte. -/
opaque freeByte : Nat → Byte

/-- A number that the spec leaves open (durations within a range, orders): a fresh index. -/
opaque freeNat : Nat → Nat

end Sys2Proof.Config
end

