-- ==== Sys2Proof/Machine/State.lean ====
section
/-! DEFINITION. The state of the KX7: every register, table, queue, counter, mode and pin that the
spec gives the device, as plain data, and its value right after reset. One structure per block;
the registers that software reads and writes whole are in `State.regs` and the banks, the rest is
typed. -/

namespace Sys2Proof.Machine

/-- Faults: the KX7 has no command that stops the machine (00 R17: errors are completion statuses),
so no meaning raises one. -/
inductive Fault where
  deriving DecidableEq, Repr

/-- Refusals. -/
inductive Refusal where
  /-- Raised by a dispatch arm whose command has no meaning yet; safe: the model stops. -/
  | notModelled (mnemonic : String)
  deriving DecidableEq, Repr

/-! ### Statuses, sources, accepted commands (00 R17; 12 R436, R441) -/

/-- Completion statuses (00 R17). -/
inductive Status where
  | ok | late | duplicate | notFound | quota | full | poison | staleProof | revoked | conflict
  | aborted | busError | linkLoop | timeout | multi | readOnly | badCommand | notReady
  deriving DecidableEq, Repr

/-- Status code (00 R17). -/
def Status.code : Status → Nat
  | .ok => 0x00 | .late => 0x01 | .duplicate => 0x02 | .notFound => 0x03 | .quota => 0x04
  | .full => 0x05 | .poison => 0x06 | .staleProof => 0x07 | .revoked => 0x08 | .conflict => 0x09
  | .aborted => 0x0A | .busError => 0x0B | .linkLoop => 0x0C | .timeout => 0x0D | .multi => 0x0E
  | .readOnly => 0x0F | .badCommand => 0x10 | .notReady => 0x11

/-- Where an accepted command came from (00 R16, 12 R438). -/
inductive Source where
  /-- Queue set `q` of port `p`. -/
  | queue (p q : Nat)
  /-- Record `idx` of the program instance `iid` of port `p` (02 R66). -/
  | record (p iid idx : Nat)
  /-- A triggered entry of port `p` with tag `tag` and word 1 of its entry (13 R497, R500). -/
  | trigger (p tag w1 : Nat)
  /-- A network request on connection `qpn` with request number `req` (13 R493). -/
  | net (qpn req : Nat)
  /-- The fabric manager over MCTP (11 R419). -/
  | mctp
  /-- Queue set `q` of port `p`, which has been lost since: no completion is written (11 R426). -/
  | lost (p q : Nat)
  deriving DecidableEq, Repr

/-- How far an accepted command has come. -/
inductive Phase where
  /-- Accepted; its row has not run. -/
  | accepted
  /-- Its row has run and the work goes on. -/
  | running
  deriving DecidableEq, Repr

/-- An operand as it was read: its bytes, or the status of the read. -/
inductive Fetch where
  | bytes (bs : List Byte)
  | failed (st : Status)
  deriving DecidableEq, Repr

/-- Operands read once, at acceptance, start or enabling (07 R233; 09 R305): parameter block or entry list of a
DELIVER; request table and entry list of an ATTEND-class command. -/
structure Held where
  blk : Fetch
  reqs : Fetch
  ents : Fetch
  deriving DecidableEq, Repr

/-- An accepted command (12 R436). -/
structure Live where
  id : Nat
  src : Source
  /-- The tenant it acts for: the scope of 03 R103 (11 R425). -/
  tenant : Nat
  /-- Accepted on a compatibility queue set (00 R4). -/
  compat : Bool
  /-- The 16 command words (12 R441). -/
  ws : List Word
  /-- The tag of its completion. -/
  tag : Nat
  /-- Device time of acceptance, ns. -/
  at_ : Nat
  phase : Phase
  /-- Operands read at acceptance. -/
  held : Option Held := none
  /-- Accepted from the fabric manager: over MCTP, or on a queue set of the port that TEN_FM.SEL names (00 R16). -/
  fm : Bool := false
  /-- The implicit proof that it needed at acceptance was not to be had, with the status of 05 R187. -/
  noView : Option Status := none
  /-- The status that was settled at acceptance (11 R415, R418). -/
  settled : Option Status := none
  /-- The proofs that it names and the snapshot that each had at its start; none for a handle that was stale then (02 R642; 05 R192; 09
  R338). -/
  named : List (Nat × Option Nat) := []
  deriving DecidableEq, Repr

/-- A completion entry that waits for room (12 R437): its command, the eight words without SQ_HEAD and
PHASE, and whether it asks for an interrupt (12 R439). -/
structure Wait where
  id : Nat
  ws : List Word
  int : Bool
  deriving DecidableEq, Repr

/-- STATE of a queue set (12 R433). -/
inductive QState where | disabled | enabled | draining
  deriving DecidableEq, Repr

/-- A queue set (12 R431 to R439). -/
structure QSet where
  state : QState
  cfgErr : Bool
  /-- Bases and sizes as latched at ENABLE (12 R433). -/
  sqBase : Nat
  cqBase : Nat
  sqLog : Nat
  cqLog : Nat
  sqHead : Nat
  sqTail : Nat
  /-- Expected phase of the next submission entry (12 R432). -/
  sqPhase : Bool
  cqTail : Nat
  cqHead : Nat
  cqPhase : Bool
  /-- Completion entries written and not yet freed by CQ_HEAD. -/
  written : Nat
  /-- Completion entries reserved for accepted commands (12 R437). -/
  reserved : Nat
  /-- The pushed copy of the slot at the tail (12 R435). -/
  pushed : Option (List Word)
  /-- Record and summary completions that wait for an entry, oldest first (12 R437). -/
  waits : List Wait
  /-- Entries written since the last message, and the time of the first of them (12 R439). -/
  unsig : Nat
  unsigAt : Option Nat
  /-- Fetching has stopped for want of completion room, and the stop is counted (12 R437). -/
  full : Bool
  deriving DecidableEq, Repr

/-- A queue set after reset: DISABLED (12 R465). -/
def QSet.reset : QSet :=
  { state := .disabled, cfgErr := false, sqBase := 0, cqBase := 0, sqLog := 4, cqLog := 4,
    sqHead := 0, sqTail := 0, sqPhase := true, cqTail := 0, cqHead := 0, cqPhase := true,
    written := 0, reserved := 0, pushed := none, waits := [], unsig := 0, unsigAt := none, full := false }

/-- A member of a FENCE's waited set (12 R447). -/
inductive Member where
  /-- An accepted command, started record, enabled triggered command or network request. -/
  | cmd (id : Nat)
  /-- Descriptor number `n` of DMA channel `ch`. -/
  | desc (ch n : Nat)
  deriving DecidableEq, Repr

/-- An incomplete FENCE (12 R447 to R450). -/
structure Fence where
  id : Nat
  members : List Member
  hold : Bool
  /-- Device time at which TIMEOUT_US ends, when not 0. -/
  deadline : Option Nat
  deriving DecidableEq, Repr

/-- The queue engine (12). -/
structure Que where
  /-- Queue set `64 p + q`. -/
  qs : Sparse QSet
  /-- Next queue set of each port's round-robin (12 R436). -/
  rr0 : Nat
  rr1 : Nat
  /-- Accepted commands without final status, oldest first. -/
  live : List Live
  nextId : Nat
  fences : List Fence
  deriving DecidableEq, Repr

/-! ### DMA engine (12 R453 to R464) -/

/-- STATE of a DMA channel (12 R466). -/
inductive ChState where | stopped | running | idle | halted
  deriving DecidableEq, Repr

/-- The data descriptor a channel is working on (12 R454 to R459). -/
structure Desc where
  /-- Number of this descriptor on its channel. -/
  n : Nat
  /-- Host address it was read from. -/
  addr : Nat
  ws : List Word
  /-- Bytes not yet issued (12 R456). -/
  count : Nat
  /-- Bytes landed at the destination (12 R459). -/
  landed : Nat
  /-- Lengths of bursts issued and not yet landed, oldest first. -/
  flight : List Nat
  halfSent : Bool
  aborting : Bool
  /-- Commands accepted before it was fetched (12 R447): the model's own stamp. -/
  seq : Nat
  /-- The tenant that its channel acts for (12 R453). -/
  tenant : Nat
  /-- Its port was lost with a burst under way (11 R639). -/
  lost : Bool
  deriving DecidableEq, Repr

/-- A DMA channel (12 R453). -/
structure Chan where
  state : ChState
  cause : Nat
  links : Nat
  last : Nat
  residue : Nat
  /-- Address of the next descriptor. -/
  next : Nat
  fetched : Nat
  desc : Option Desc
  deriving DecidableEq, Repr

/-- A channel after reset. -/
def Chan.reset : Chan :=
  { state := .stopped, cause := 0, links := 0, last := 0, residue := 0, next := 0, fetched := 0,
    desc := none }

/-- The DMA engine (12). -/
structure Dma where
  ch : Sparse Chan
  halted : Bool
  cause : Nat
  errCh : Nat
  deriving DecidableEq, Repr

/-! ### Host ports, CXL and the tenant page (11) -/

/-- HPT_LINK.MODE (11 R393). -/
inductive Mode where | down | pcie | sld | mld
  deriving DecidableEq, Repr

/-- An HDM decoder of a logical device (11 R404). -/
structure Hdm where
  committed : Bool
  base : Nat
  size : Nat
  ways : Nat
  gran : Nat
  deriving DecidableEq, Repr

/-- A view mapping: granules of one LD's aperture that show one page (11 R409). -/
structure ViewMap where
  /-- The proof that holds it. -/
  proof : Nat
  ld : Nat
  granule : Nat
  count : Nat
  pset : Nat
  page : Nat
  bytes : Nat
  /-- Tier of the level copy in place when the proof opened (11 R409, R412). -/
  tier : Nat
  deriving DecidableEq, Repr

/-- What a read of a mapped aperture granule sees in the cycle of its acceptance: the mapping, POISON of its page set, and the 64
bytes (11 R409, R411). -/
structure ViewRead where
  map : ViewMap
  poison : Bool
  bytes : List Byte
  deriving DecidableEq, Repr

/-- A CXL.mem request that waits for tokens (11 R413). -/
structure CxlWait where
  ld : Nat
  req : CxlReq
  ue : Bool
  /-- For a read of the aperture, what it saw when it was accepted (11 R411). -/
  view : Option ViewRead
  deriving DecidableEq, Repr

/-- A CXL event record: log (0 informational, 1 warning, 2 failure, 3 fatal), handle, bytes. -/
structure CxlEvent where
  log : Nat
  handle : Nat
  /-- SEQ of the RAS record it carries (16 R575). -/
  seq : Nat
  deriving DecidableEq, Repr

/-- One host port (11). -/
structure Port where
  mode : Mode
  /-- Held in Detect by PERST_L low (18 R624). -/
  perst : Bool
  speed : Nat
  width : Nat
  ldUp : Nat
  /-- HPT_CTRL and HPT_VIEW as latched at the last training (11 R396). -/
  ctrl : Word
  view : Word
  /-- Tokens of each LD's bucket in quarter bytes, and the time they were last filled (11 R413). -/
  tokens : List Nat
  filledAt : Nat
  /-- Time at which a request of the LD last waited (11 R414). -/
  waitedAt : List (Option Nat)
  waits : List CxlWait
  hdm : Sparse Hdm
  views : List ViewMap
  events : List CxlEvent
  nextHandle : Nat
  deriving DecidableEq, Repr

/-- An HDM decoder that is not committed. -/
def Hdm.none : Hdm := { committed := false, base := 0, size := 0, ways := 1, gran := 256 }

/-- A host port after reset: DOWN, buckets full (11 R393, R413, R428). -/
def Port.reset : Port :=
  { mode := .down, perst := false, speed := 0, width := 0, ldUp := 0, ctrl := 0x801, view := 0x10,
    tokens := List.replicate 8 (4 * 256 * 1024), filledAt := 0, waitedAt := List.replicate 8 Option.none,
    waits := [], hdm := [], views := [], events := [], nextHandle := 1 }

/-- An entry of the MSI-X table: message address and data, and its mask (11 R398). -/
structure MsixVec where
  addr : Nat
  data : Word
  masked : Bool
  deriving DecidableEq, Repr

/-- A vector after a reset of its function: masked. -/
def MsixVec.reset : MsixVec := { addr := 0, data := 0, masked := true }

/-- A PCI Express function: what its configuration space and its MSI-X table hold (11 R398, R400). -/
structure PciFn where
  /-- Command register. -/
  cmd : Nat
  /-- Power state D3hot; D0 otherwise. -/
  d3hot : Bool
  /-- The words of the six BAR registers. -/
  bars : Sparse Word
  msixOn : Bool
  /-- Function mask of MSI-X. -/
  fmask : Bool
  vecs : Sparse MsixVec
  /-- Vectors whose pending bit is set. -/
  pba : List Nat
  deriving DecidableEq, Repr

/-- A function after a conventional reset: MSI-X disabled (11 R427). -/
def PciFn.reset : PciFn := { cmd := 0, d3hot := false, bars := [], msixOn := false, fmask := false, vecs := [], pba := [] }

/-- A revocation that has not drained (11 R415 to R417). -/
structure Revoke where
  id : Nat
  /-- 0 CXL extent, 1 host extent. -/
  kind : Nat
  index : Nat
  clearMask : Nat
  clearWriter : Bool
  /-- CXL.mem requests accepted before the point that are not answered: port and LD. -/
  cxl : List (Nat × Nat)
  /-- DMA channels with host reads to the range outstanding: channel and descriptor. -/
  reads : List (Nat × Nat)
  deriving DecidableEq, Repr

/-- The tenant page's tables and operation in progress (11 R421 to R423). -/
structure Ten where
  /-- 16-word records, keyed `4096 * table + index`. -/
  tbl : Sparse (List Word)
  /-- The extent that is going from FREE to ACTIVE, with its new record. -/
  busy : Option (Nat × List Word)
  result : Nat
  short : Nat
  revs : List Revoke
  deriving DecidableEq, Repr

/-! ### Configuration editions (17 R593 to R601) -/

/-- A commit (or rollback) in its limit check: its command, kind and the time it was accepted. -/
structure Check where
  id : Nat
  rollback : Bool
  at_ : Nat
  deriving DecidableEq, Repr

/-- Configuration editions (17). -/
structure Cfg where
  edition : Nat
  prevEdition : Nat
  prevValid : Bool
  /-- The stroke at which the current edition applied; all ones without a stroke (17 R597). -/
  applied : Nat
  joined : Bool
  /-- In its limit check. -/
  check : Option Check
  /-- Armed for the next boundary (17 R594). -/
  armed : Option Check
  last : Nat
  fail : Word
  /-- Pages whose active bank does not govern yet and the edition they still report (17 R598). -/
  lag : Sparse Nat
  deriving DecidableEq, Repr

/-- Start-up phases (17 R605). -/
inductive Startup where | verify | recovery | memory | flash | psa | links | ready
  deriving DecidableEq, Repr

/-- PHASE value (17 R605). -/
def Startup.val : Startup → Nat
  | .verify => 0 | .recovery => 1 | .memory => 2 | .flash => 3 | .psa => 4 | .links => 5 | .ready => 6

/-! ### Keys, directory and proofs (03, 05) -/

/-- A block key with its form (03 R91, R92, R102). FORM 0 tenant adapter-specific, 1 tenant
adapter-agnostic, 2 public adapter-specific, 3 public adapter-agnostic (04 R117). -/
structure Key where
  scope : Nat
  model : Nat
  adapter : Nat
  /-- 0 one-unit, 1 two-unit, 2 four-unit (03 R88). -/
  keyForm : Nat
  /-- HASH field: 96, 224 or 512 bits. -/
  hash : Nat
  deriving DecidableEq, Repr

/-- STATE of a directory slot (05 R158, R159). -/
inductive SState where
  | free | pending | current | retiring | ended
  /-- Extension slot of the head slot `head`. -/
  | ext (head : Nat)
  deriving DecidableEq, Repr

/-- A directory slot (05 R158): the words of a head slot by name. KEYCHK and TIERS are computed from
the key and from the page set, which they mirror. -/
structure Slot where
  state : SState
  key : Key
  form : Nat
  tail : Bool
  pin : Bool
  hot : Bool
  shared : Bool
  poison : Bool
  held : Bool
  edition : Nat
  end_ : Nat
  children : Nat
  /-- Head slot of the parent; none for block 1 and for objects. -/
  parent : Option Nat
  pset : Nat
  publisher : Nat
  lastUse : Nat
  /-- Pages declared unrecoverable and not restored (05 R182, R184). -/
  badPages : List Nat
  deriving DecidableEq, Repr

/-- A free slot. -/
def Slot.free : Slot :=
  { state := .free, key := { scope := 0, model := 0, adapter := 0, keyForm := 0, hash := 0 },
    form := 0, tail := false, pin := false, hot := false, shared := false, poison := false,
    held := false, edition := 0, end_ := 0, children := 0, parent := none, pset := 0,
    publisher := 0, lastUse := 0, badPages := [] }

/-- Why an entry ends (05 R177; 16 R579). -/
inductive EndCause where
  /-- RETIRE without cascade, command `id`. -/
  | retire (id : Nat)
  /-- Member of the cascade of the named slot. -/
  | cascade (root : Nat)
  /-- FREE of a key, command `id` (06 R215). -/
  | free (id : Nat)
  /-- Eviction: tier or quota room, window room, pressure. -/
  | evict
  deriving DecidableEq, Repr

/-- A scheduled commit or end point (05 R163). -/
inductive PointKind where
  /-- Commit of the PENDING slot for the publication `id`. -/
  | commit (slot id : Nat)
  /-- Supersession of `slot`, with its metadata copy in `copy`, for the publication `id` (05 R173). -/
  | super (slot copy id : Nat)
  | end_ (slot : Nat) (cause : EndCause)
  deriving DecidableEq, Repr

/-- A point with its sequence value. -/
structure Point where
  val : Nat
  kind : PointKind
  deriving DecidableEq, Repr

/-- What a cascade was started by (05 R176, R183; 10 R380; 16 R579). -/
inductive CascadeCause where
  | retire (id : Nat)
  | poison
  | discard (id : Nat) (secure : Bool)
  | capacity
  deriving DecidableEq, Repr

/-- A cascade in progress below a RETIRING entry. -/
structure Cascade where
  root : Nat
  cause : CascadeCause
  /-- Entries ended so far. -/
  ended : Nat
  deriving DecidableEq, Repr

/-- An open proof (05 R185 to R192). -/
structure Proof where
  slot : Nat
  gen : Nat
  tenant : Nat
  snapshot : Nat
  openedAt : Nat
  expiry : Nat
  /-- The command whose implicit proof this is (05 R188). -/
  implicit : Option Nat
  deriving DecidableEq, Repr

/-- An accepted publication (05 R168, R169). -/
structure Pub where
  id : Nat
  key : Key
  form : Nat
  flags : Nat
  alloc : Nat
  pset : Nat
  parent : Option Key
  expect : Nat
  /-- The PENDING slot the claim waits on (05 R172). -/
  waitOn : Option Nat
  /-- Claimed: its point is scheduled. -/
  claimed : Bool
  /-- Tier the page set is to move to after the commit (06 R209). -/
  moveTo : Option Nat
  deriving DecidableEq, Repr

/-- A snapshot held by a reader in flight (05 R189, R192). -/
structure Reader where
  id : Nat
  snapshot : Nat
  deriving DecidableEq, Repr

/-- The directory engine (05). -/
structure Dir where
  slots : Sparse Slot
  /-- WINDOW as in force since the last reset (05 R199). -/
  window : Nat
  /-- Next sequence value. -/
  seqNext : Nat
  points : List Point
  mark : Nat
  /-- End filter words by index (05 R195). -/
  filter : Sparse Nat
  proofs : List Proof
  /-- First proof slot never issued since start-up; later returned slots, oldest first (05 R194). -/
  proofFresh : Nat
  proofBack : List Nat
  /-- Proof slots that have ended and whose return waits for a checkpoint (05 R194). -/
  proofWait : List Nat
  /-- Generations: the default of every slot not listed, and the others. -/
  genDef : Nat
  gens : Sparse Nat
  readers : List Reader
  pubs : List Pub
  cascades : List Cascade
  /-- Slots whose PSA entry was invalidated, with the device time from which they may be reused (04 R133). -/
  cool : List (Nat × Nat)
  deriving DecidableEq, Repr

/-! ### Prefix Search Array (04) -/

/-- What the SECDED bits of a word show at a read: no error, one bit, which is corrected, or more (04 R116, R144). -/
inductive Secded where | ok | single | double
  deriving DecidableEq, Repr

/-- A PSA entry: stored cells of all its units as one number, its form (care bits), result word. -/
structure Row where
  data : Nat
  /-- Care bits of the entry's units (04 R118). -/
  care : Nat
  form : Nat
  edition : Nat
  chk : Nat
  dir : Nat
  /-- What the SECDED bits of the result word show at a read (04 R144). -/
  err : Secded
  deriving DecidableEq, Repr

/-- STATE of a PSA bank (04 R156). -/
inductive BState where | empty | active | draining | failed
  deriving DecidableEq, Repr

/-- A PSA bank (04): entries keyed by entry slot, image words by physical row (04 R138). -/
structure Bank where
  state : BState
  /-- 0 one unit, 1 two units, 2 four units: as in force (04 R116). -/
  width : Nat
  rows : Sparse Row
  /-- The bank's image in T1: the 8-byte word of each physical row that is not free. -/
  image : Sparse Nat
  /-- Physical rows whose image word cannot be read (04 R143). -/
  imgBad : List Nat
  scrub : Nat
  passAt : Nat
  passRepairs : Nat
  late : Bool
  inject : Bool
  deriving DecidableEq, Repr

/-- An empty bank. -/
def Bank.reset : Bank :=
  { state := .empty, width := 0, rows := [], image := [], imgBad := [], scrub := 0, passAt := 0, passRepairs := 0,
    late := false, inject := false }

/-- The Prefix Search Array (04). -/
structure Psa where
  bank : Sparse Bank
  tempLevel : Nat
  powerLevel : Nat
  tempC : Nat
  /-- Slots whose publication or PLACE asks for their group to become held (04 R126). -/
  want : List Nat
  /-- The scrubber reads its next row no earlier (04 R140). -/
  scrubAt : Nat
  /-- The next group of a failed bank is re-homed no earlier (04 R150). -/
  rehomeAt : Nat
  /-- Issue slots withheld up to `slotsAt`, in fortieths of a slot (04 R145, R156). -/
  slots : Nat
  slotsAt : Nat
  deriving DecidableEq, Repr

/-! ### Tiers (06) -/

/-- Standing of a page set (06 R200 to R204). -/
inductive RState where
  /-- Unsealed reservation. -/
  | open_
  /-- Sealed by the accepted PUBLISH `id`. -/
  | sealed (id : Nat)
  /-- Left sealed by a PUBLISH that completed CONFLICT. -/
  | stuck
  /-- Published. -/
  | published
  deriving DecidableEq, Repr

/-- A page set (06 R200 to R207). -/
structure PSet where
  gen : Nat
  tenant : Nat
  model : Nat
  object : Bool
  pages : Nat
  pageSize : Nat
  alloc : Nat
  level : Nat
  t0 : Bool
  t1 : Bool
  t2 : Bool
  rstate : RState
  lapseAt : Option Nat
  /-- CRC-64 of each page, computed at publication (07 R261). -/
  checks : List Nat
  /-- Pages of a reservation that were lost before its publication (01 R37). -/
  bad : List Nat
  deriving DecidableEq, Repr

/-- What started a move (06 R209, R210, R222, R225). -/
inductive MoveCause where
  | set (id : Nat)
  | publish
  | pressure
  | plan (id : Nat)
  deriving DecidableEq, Repr

/-- A change of level in progress (06 R210 to R213). -/
structure Move where
  pset : Nat
  target : Nat
  cause : MoveCause
  /-- The copy has committed (or was present) and the copies above wait for release. -/
  releasing : Bool
  /-- The entry has ended: the move is abandoned (06 R229). -/
  gone : Bool
  /-- TIER_PREF that takes effect when the move completes (06 R206, R210). -/
  pref : Option Nat
  /-- ALLOC before the SET that started it and that SET's FLAG_MASK, for a record that is abandoned without effect (02
  R72). -/
  undo : Option (Nat × Nat)
  deriving DecidableEq, Repr

/-- Reads in flight on a page set's copy (06 R211). -/
structure PRead where
  id : Nat
  pset : Nat
  deriving DecidableEq, Repr

/-- The tier manager (06). -/
structure Tier where
  psets : Sparse PSet
  fresh : Nat
  back : List Nat
  gens : Sparse Nat
  moves : List Move
  /-- Plate slice of each page of the page sets with a T0 copy (01 R20; 08 R276). -/
  homes : Sparse (List Nat)
  /-- Changes of level still to be started: page set, tier, and whether only in slack (06 R209; 16 R579). -/
  owed : List (Nat × Nat × Bool)
  reads : List PRead
  /-- Retained copies released to make room or by reclaim and not yet gone (06 R211, R412). -/
  retryAt : List (Nat × Nat)
  /-- MIN_GB, installed T1 etc. enter the capacities; T2 capacity is the flash manager's. -/
  low0 : Bool
  low1 : Bool
  /-- Free space of T0 and T1 stood below LOW_PCT when it was last looked at (06 R230). -/
  under0 : Bool
  under1 : Bool
  deriving DecidableEq, Repr

/-- A location in flash (10 R365): superblock and slot. -/
structure Loc where
  sb : Nat
  slot : Nat
  deriving DecidableEq, Repr

/-! ### Delivery, plans, prefetch and repair (07) -/

/-- State of one entry of a DELIVER (07 R234 to R239). -/
inductive EState where
  /-- Being read and sent. -/
  | active
  /-- Every byte acknowledged, or written to the host. -/
  | done
  | failed (st : Status)
  deriving DecidableEq, Repr

/-- An entry of a DELIVER in flight. -/
structure DEnt where
  pset : Nat
  slot : Nat
  first : Nat
  pages : Nat
  pageSize : Nat
  /-- Where its bytes go: REMOTE_BASE or HOST_BASE plus REMOTE_OFFSET. -/
  addr : Nat
  st : EState
  /-- Bytes read into staging so far, and bytes acknowledged or written. -/
  staged : Nat
  acked : Nat
  multi : Bool
  /-- The last byte of its message has been handed to egress (07 R237). -/
  handed : Bool
  deriving DecidableEq, Repr

/-- Where a DELIVER sends (07 R231). -/
inductive Target where
  | conn (qpn rkey tc : Nat)
  | host (port : Nat)
  deriving DecidableEq, Repr

/-- A DELIVER in flight (07 R231 to R241). -/
structure Dlv where
  id : Nat
  target : Target
  ents : List DEnt
  /-- Plan layer it uses (07 R252): plan slot and layer. -/
  layer : Option (Nat × Nat)
  /-- The last byte has been handed to egress (07 R237). -/
  point : Bool
  deriving DecidableEq, Repr

/-- A loaded plan (07 R242, R243). -/
structure Plan where
  gen : Nat
  valid : Bool
  tenant : Nat
  model : Nat
  /-- Layers ascending: layer number and its objects, each by the key that it is resident under and its form (06 R224). -/
  layers : List (Nat × List (Key × Nat))
  compute : Nat
  deriving DecidableEq, Repr

/-- A plan slot never used: generation 0, which no handle carries. -/
def Plan.none : Plan :=
  { gen := 0, valid := false, tenant := 0, model := 0, layers := [], compute := 0 }

/-- A PLAN_LOAD whose moves are not finished (06 R228). -/
structure PlanJob where
  id : Nat
  slot : Nat
  spilled : Nat
  deriving DecidableEq, Repr

/-- A PLAN_LOAD UNLOAD that waits for started records (07 R245). -/
structure Unload where
  id : Nat
  slot : Nat
  /-- Commands and records with this number or a later one start after it. -/
  since : Nat
  deriving DecidableEq, Repr

/-- A prefetch step in progress (07 R246 to R249). -/
structure Step where
  id : Nat
  plan : Nat
  /-- Instance it belongs to: port and target stroke. -/
  port : Nat
  target : Nat
  first : Nat
  count : Nat
  /-- Layers issued whole so far. -/
  issued : Nat
  /-- Reads of the next layer have been issued. -/
  begun : Bool
  /-- Layers that have been resident. -/
  got : List Nat
  deriving DecidableEq, Repr

/-- A layer held in the T1 cache (07 R249, R250). -/
structure Hold where
  plan : Nat
  layer : Nat
  port : Nat
  target : Nat
  /-- A record of the instance has used the layer. -/
  used : Bool
  deriving DecidableEq, Repr

/-- A page in the T1 cache in front of T2 (01 R24). -/
structure Cached where
  pset : Nat
  page : Nat
  deriving DecidableEq, Repr

/-- A T2 page read (07 R251, R258). -/
structure T2Read where
  rid : Nat
  pset : Nat
  page : Nat
  ch : Nat
  urgent : Bool
  /-- The scheduler's read: counts against PFS_READ.DEPTH. -/
  pfs : Bool
  /-- Started on its channel. -/
  started : Bool
  issuedAt : Nat
  /-- Restores a page of T0 or T1 that could not be read (07 R259). -/
  heal : Bool
  /-- Where it reads: the locations of its page when it started (10 R390). -/
  locs : List Loc := []
  deriving DecidableEq, Repr

/-- Standing of a replica repair (07 R262, R263). -/
inductive RepState where
  /-- Beyond the 256 open pages. -/
  | waiting
  /-- Open: the request is to be sent. -/
  | due
  /-- Sent at this time. -/
  | sent (at_ : Nat)
  /-- The attempt failed at this time; the next one is due later. -/
  | failed (at_ : Nat)
  deriving DecidableEq, Repr

/-- A page under repair: directory slot, page, attempts made (07 R262). -/
structure Repair where
  slot : Nat
  page : Nat
  tries : Nat
  st : RepState
  /-- Repair slot while open (13 R490), and the connection of its request. -/
  rs : Nat
  qpn : Nat
  deriving DecidableEq, Repr

/-- The prefetch scheduler and delivery (07). -/
structure Pfs where
  dlvs : List Dlv
  plans : Sparse Plan
  jobs : List PlanJob
  unloads : List Unload
  steps : List Step
  holds : List Hold
  cache : List Cached
  reads : List T2Read
  nextRid : Nat
  /-- Step that issued the last read on each channel (07 R248): channel, step. -/
  turn : List (Nat × Nat)
  repairs : List Repair
  lastDir : Nat
  lastPage : Nat
  deriving DecidableEq, Repr

/-! ### Attention and the burin engines (08, 09) -/

/-- A partial result record (09 R319): M, L, O, unmasked positions, status. -/
structure Rec where
  m : Word
  l : Word
  o : List Word
  seen : Nat
  /-- STATUS byte. -/
  st : Nat
  deriving DecidableEq, Repr

/-- A tile: one page, one KV head and up to 64 query rows (08 R271). -/
structure Tile where
  ent : Nat
  pset : Nat
  page : Nat
  head : Nat
  /-- Query rows: request and query head. -/
  rows : List (Nat × Nat)
  /-- It reads a page of a page set; a scoring tile whose landmark table lies in host memory reads none. -/
  paged : Bool
  deriving DecidableEq, Repr

/-- What an operation does (09 R324). -/
inductive OpKind where | score | attend | rerotate | convert | landmark | merge
  deriving DecidableEq, Repr

/-- A tile that has been given to an engine, with its result once it has ended (08 R276, R277). -/
structure Given where
  /-- Position in operation order. -/
  n : Nat
  tile : Tile
  core : Nat
  eng : Nat
  startedAt : Nat
  /-- Records by request and query head (attention), or scores. -/
  result : Option (List (Nat × Nat × Rec))
  deriving DecidableEq, Repr

/-- An operation (08 R271). -/
structure Oper where
  id : Nat
  kind : OpKind
  tiles : List Tile
  deriving DecidableEq, Repr

/-- An operation that runs: its dealt tiles, when it started, whether it has restarted (08 R294). -/
structure Running where
  op : Oper
  given : List Given
  at_ : Nat
  restarted : Bool
  /-- What it loaded before its start (08 R274): query bytes by request, landmark table. -/
  queries : List (List Byte)
  lms : List Byte
  deriving DecidableEq, Repr

/-- A request of an ATTEND (09 R309, R313). -/
structure Req where
  limit : Nat
  reqId : Nat
  st : Status
  /-- Page set and directory slot that each entry resolved to. -/
  res : List (Nat × Nat)
  /-- Entries selected (09 R333); all of them for ATTEND. -/
  sel : List Nat
  deriving DecidableEq, Repr

/-- An entry of an ATTEND-class list (09 R310): tokens, target address; for REROTATE and REPACK also
what it resolved to and its status. -/
structure AEnt where
  tokens : Nat
  target : Nat
  pset : Nat
  slot : Nat
  st : Status
  deriving DecidableEq, Repr

/-- Stage of an ATTEND-class command. -/
inductive JStage where
  /-- Scoring operations wait or run (09 R332). -/
  | score
  /-- Operations wait or run. -/
  | ops
  /-- Waiting for merge blocks since this time, with its place among the waiters on tags (09 R325; 13 R500). -/
  | merge (at_ n : Nat)
  /-- The merge operation may run. -/
  | merged
  /-- Waiting for staging room (09 R321). -/
  | stage
  /-- The result block is in staging and waits for its acknowledgement. -/
  | sent
  deriving DecidableEq, Repr

/-- Sources of the sequencer (08 R273). -/
inductive SeqSrc where | program | trigger | queue
  deriving DecidableEq, Repr

/-- An ATTEND-class command in flight (09). -/
structure Job where
  id : Nat
  opcode : Nat
  src : SeqSrc
  /-- The 32 words of the parameter block as read at the start (09 R305). -/
  par : List Word
  model : Nat
  reqs : List Req
  ents : List AEnt
  /-- Query elements as loaded for its next operation: request, bytes of its query array. -/
  queries : List (List Byte)
  /-- Landmark table as loaded (ATTEND_SPARSE). -/
  lms : List Byte
  /-- The status of a load that failed while its operation before ran: it ends when that operation has ended. -/
  err : Option Status
  /-- Scores by request and entry (09 R332). -/
  scores : List (Nat × Nat × Word)
  /-- Operations not started, in order. -/
  ops : List Oper
  /-- Running result by request and query head (09 R324). -/
  recs : List (Nat × Nat × Rec)
  stripe : Nat
  tokens : Nat
  stage : JStage
  multi : Bool
  /-- The result block: complete, in staging or waiting for room there. -/
  block : List Byte
  /-- Records of the block with a NaN in m or l (09 R322). -/
  nan : Nat
  /-- Pages that a REROTATE or REPACK has made: entry, page, bytes. They land when the command's work has ended, so that a
  command that ends ABORTED or TIMEOUT has no effect (01 R36; 02 R72). -/
  writes : List (Nat × Nat × List Byte)
  /-- It has been counted in NPA_STAGE_WAITS (09 R339). -/
  waited : Bool
  deriving DecidableEq, Repr

/-- Near-page attention front end (09). -/
structure Npa where
  jobs : List Job
  deriving DecidableEq, Repr

/-- An engine of a core (08 R292). -/
structure Eng where
  failed : Bool
  /-- Out of the array for its periodic self-test since this time (08 R292). -/
  testing : Option Nat
  lastTest : Nat
  deriving DecidableEq, Repr

/-- An engine that works. -/
def Eng.reset : Eng := { failed := false, testing := none, lastTest := 0 }

/-- A core (08 R269, R292, R295). -/
structure Core where
  failed : Bool
  /-- Word of BRN_FAIL_CAUSE. -/
  cause : Word
  inject : Bool
  /-- ENGINE_EN and CORE_EN as they govern (08 R299, R300). -/
  cfg : Word
  deriving DecidableEq, Repr

/-- A core after reset. -/
def Core.reset : Core := { failed := false, cause := 0, inject := false, cfg := 0x1FF }

/-- The sequencer and the engines (08). -/
structure Brn where
  core : Sparse Core
  /-- Engine `8 core + e`. -/
  eng : Sparse Eng
  run : Option Running
  /-- Command whose next operation is selected and loading (08 R274). -/
  next : Option Nat
  /-- Source in its round and operations it has had (08 R273). -/
  rrSrc : SeqSrc
  rrUsed : Nat
  /-- BRN_SEQ, BRN_NUM and MIN_STEP as they govern (08 R299). -/
  seq : Word
  num : Word
  cap : Nat
  /-- BRN_TEST and BRN_WATCHDOG as they govern. -/
  test : Word
  watchdog : Word
  /-- Governor step, and the effective step in force (08 R298). -/
  gov : Nat
  step : Nat
  /-- Time with an operation running, of the operations that have ended, ns (BRN_ARRAY_BUSY, 08 R300). -/
  busyNs : Nat
  deriving DecidableEq, Repr

/-! ### Strokes (02) -/

/-- Sync state of the stroke timer (02 R51). -/
inductive Sync where | acquiring | locked | holdover | unlocked
  deriving DecidableEq, Repr

/-- Standing of a class window in the current stroke (02 R67). -/
inductive WinSt where | before | open_ | closed
  deriving DecidableEq, Repr

/-- Standing of a program record (02 R66 to R73). -/
inductive RSt where
  | waiting
  /-- Runs as the accepted command `id`. -/
  | started (id : Nat)
  /-- Completion point reached, on time or not; the final status is still open (02 R69). -/
  | point (id : Nat) (late : Bool)
  | final (st : Status)
  deriving DecidableEq, Repr

/-- A record of a fetched instance: its 24 words. -/
structure SRec where
  idx : Nat
  ws : List Word
  /-- Carried to the next window of its class: a layer not resident (07 R253), or held back while the timer
  was UNLOCKED (02 R55). -/
  carried : Bool
  /-- Counted in PFS_LATE_LAYERS (07 R256). -/
  late : Bool
  /-- Operands of an ATTEND-class record, read when it first became startable (02 R55). -/
  frozen : Option Held
  /-- Plan layer that it uses, as its start fixed it (07 R252). -/
  layer : Option (Option (Nat × Nat))
  st : RSt
  deriving DecidableEq, Repr

/-- A held program header (02 R60 to R62). -/
structure Prog where
  port : Nat
  ws : List Word
  target : Nat
  /-- Last stroke it targets. -/
  last : Nat
  /-- Target of the next instance to fetch. -/
  next : Nat
  deriving DecidableEq, Repr

/-- A fetched instance of a program (02 R60). -/
structure Inst where
  iid : Nat
  port : Nat
  target : Nat
  /-- Header words. -/
  ws : List Word
  recs : List SRec
  /-- Its stroke has begun. -/
  active : Bool
  /-- Runs without writing completions: its port was lost (02 R80). -/
  silent : Bool
  deriving DecidableEq, Repr

/-- A new grid that waits for its takeover (02 R46): its first stroke, epoch in ns, period in 10 ns. -/
structure Grid where
  stroke : Nat
  epoch : Nat
  period : Nat
  deriving DecidableEq, Repr

/-- Local time at which a stroke of a grid begins (02 R41). -/
def Grid.startOf (g : Grid) (n : Nat) : Int := (g.epoch : Int) + ((n * (g.period * 10) : Nat) : Int)

/-- Local time of its takeover (02 R46). -/
def Grid.begins (g : Grid) : Int := g.startOf g.stroke

/-- The stroke timer (02). -/
structure Stk where
  sync : Sync
  /-- Local PTP time less device time, ns. -/
  off : Int
  /-- Last measured offset (STK_OFFSET). -/
  offset : Int
  /-- Consecutive in-limit messages of a fresh lock, and whether its step has been made (02 R56). -/
  good : Nat
  stepped : Bool
  /-- Device time of the last valid Sync message. -/
  lastSync : Nat
  /-- Holdover estimate in ns at a device time (02 R53). -/
  est : Nat
  estAt : Nat
  /-- Device time of the last 1PPS edge. -/
  ppsAt : Option Nat
  /-- Device time from which the first boundary is sought (02 R43, R51). -/
  readyAt : Nat
  running : Bool
  stroke : Nat
  /-- Device time of the last boundary. -/
  boundary : Nat
  /-- Grid in force: epoch in ns, period in 10 ns units. -/
  epoch : Nat
  period : Nat
  /-- New grids that wait for their takeovers, the earliest first (02 R46). -/
  take : List Grid
  /-- Windows of the four classes. -/
  win : List WinSt
  progs : List Prog
  insts : List Inst
  nextIid : Nat
  /-- TARGET_STROKE of the header before, on each port's ring (02 R61). -/
  prev0 : Option Nat
  prev1 : Option Nat
  /-- Targets whose overrun is counted (02 R74). -/
  overs : List Nat
  overcommit : Bool
  deriving DecidableEq, Repr

/-- The stroke timer after reset (02 R51, R81). -/
def Stk.reset : Stk :=
  { sync := .acquiring, off := 0, offset := 0, good := 0, stepped := false, lastSync := 0, est := 0, estAt := 0,
    ppsAt := none, readyAt := 0, running := false, stroke := 0, boundary := 0, epoch := 0, period := 1000000,
    take := [], win := [.before, .before, .before, .before], progs := [], insts := [], nextIid := 0,
    prev0 := none, prev1 := none, overs := [], overcommit := false }

/-! ### Flash (10) -/

/-- Geometry shared by the accepted dies, from the die profile (10 R341). -/
structure Geom where
  planes : Nat
  /-- Blocks per plane. -/
  blocks : Nat
  /-- Bits per cell in native mode. -/
  bits : Nat
  wordlines : Nat
  /-- Hard-decision capability per codeword. -/
  ldpc : Nat
  deriving DecidableEq, Repr

/-- Standing of a die (10 R341, R343, R376). -/
inductive DState where | absent | live | failed | rebuilt
  deriving DecidableEq, Repr

/-- A die: row `r`, position `pos` at key `32 r + pos` (10 R343). -/
structure Die where
  st : DState
  /-- Bad multi-plane blocks. -/
  bad : List Nat
  /-- Erase counts by block. -/
  erases : Sparse Nat
  /-- Distinct blocks whose last programs or erases failed in a row (10 R376). -/
  streak : List Nat
  /-- From its own profile (10 R341): the erase count at which a block retires, and whether it permits suspends. -/
  endurance : Nat
  suspend : Bool
  deriving DecidableEq, Repr

/-- A die that is not there. -/
def Die.absent : Die := { st := .absent, bad := [], erases := [], streak := [], endurance := 0, suspend := false }

/-- STATE of a superblock (10 R365). -/
inductive SbState where | free | openSlc | openNative | closed | victim | eraseBegin | retired | meta_
  deriving DecidableEq, Repr

/-- Why a superblock is vacated (10 R362, R371, R374, R376, R379, R381). -/
inductive Vacate where | none | fold | collect | wear | rewrite | rebuild | discard
  deriving DecidableEq, Repr

/-- A superblock (10 R344): SLC or native, its blocks by die position. A FREE one is formed and belongs to the SLC or the native
pool (10 R363). -/
structure Sb where
  st : SbState
  nativeMode : Bool
  blocks : List (Nat × Nat)
  /-- Protected segments (10 R357). -/
  segs : Nat
  /-- Order of closing. -/
  closedAt : Nat
  /-- Reads since erase of the block at each position. -/
  reads : Sparse Nat
  /-- Scheduled for rewrite (10 R374) or for relocation after a die failure (10 R376). -/
  rewrite : Bool
  rebuild : Bool
  /-- Valid slots when it became a victim (10 R372). -/
  was : Nat
  /-- SEQ at its last write (10 R382). -/
  lastSeq : Nat
  /-- The ERASE_BEGIN record is durable (10 R361). -/
  eraseOk : Bool
  /-- Die positions whose block failed a program or verify: marked bad at the erase (10 R359). -/
  badPos : List Nat
  /-- Why it is being vacated. -/
  cause : Vacate
  /-- Device time of the last scrub of a page, plus 1 (10 R375): a data slot by its number, the parity page of stripe `t` by
  `2^19 + t`. -/
  scrubbed : Sparse Nat
  deriving DecidableEq, Repr

/-- A superblock that holds nothing. -/
def Sb.free : Sb :=
  { st := .free, nativeMode := true, blocks := [], segs := 0, closedAt := 0, reads := [], rewrite := false,
    rebuild := false, was := 0, lastSeq := 0, eraseOk := false, badPos := [], cause := .none, scrubbed := [] }

/-- A slot queued for programming (10 R356 to R359). -/
structure WSlot where
  /-- Page set and stipple address; none for a pad slot. -/
  what : Option (Nat × Nat)
  /-- Part of a MAPPED broad unit. -/
  wide : Bool
  /-- Superblock it is relocated from (10 R360). -/
  src : Option Nat
  /-- Device time at which it was queued (10 R358). -/
  at_ : Nat
  deriving DecidableEq, Repr

/-- A write stream: an open superblock and its queue (10 R356). -/
structure Stream where
  sb : Option Nat
  queue : List WSlot
  /-- The flush timer has padded the queue (10 R358). -/
  flushed : Bool
  /-- Its next segment has been counted in FLM_CREDIT_WAITS (10 R372). -/
  short : Bool
  deriving DecidableEq, Repr

/-- A stream without a superblock. -/
def Stream.none : Stream := { sb := Option.none, queue := [], flushed := false, short := false }

/-- Footprint of a T2 copy (10 R382). -/
structure Foot where
  sbs : List Nat
  overflow : Bool
  seq : Nat
  deriving DecidableEq, Repr

/-- Body of a journal record (10 R365). -/
inductive JBody where
  /-- The unused tail of a page: its LEN. -/
  | pad (units : Nat)
  | mapBroad (unit pset : Nat) (new : Loc) (old : Option Loc)
  | mapStip (lstip pset : Nat) (new : Loc) (old : Option Loc)
  | unmap (pset first count : Nat) (secure : Bool)
  /-- The superblock as it stands and its erase count. -/
  | sbState (sb : Nat) (st : SbState) (image : Sb) (erases : Nat)
  /-- Page set, its record, head slot index and image, first stipple address. -/
  | psetCommit (pset : Nat) (v : PSet) (dir : Nat) (image : Slot) (first : Nat)
  | psetRelease (pset dir : Nat) (secure : Bool)
  | dirUpdate (dir : Nat) (image : Slot) (tiers : Nat)
  | seqMark (v : Nat)
  | ckptBegin (n area : Nat)
  | ckptEnd (n seq : Nat)
  | discardBegin (id tag : Nat) (feet : List Foot)
  | discardEnd (id tag : Nat)
  | dieState (die : Nat) (st : DState)
  deriving DecidableEq, Repr

/-- A journal record with its SEQ. -/
structure JRec where
  seq : Nat
  body : JBody
  deriving DecidableEq, Repr

/-- A MAPPED broad unit: its page set and the first of its 16 slots (10 R353). -/
structure BEnt where
  pset : Nat
  loc : Loc
  deriving DecidableEq, Repr

/-- A stipple entry: page set, bucket it lies in, location (10 R354). -/
structure SEnt where
  pset : Nat
  bucket : Nat
  loc : Loc
  deriving DecidableEq, Repr

/-- A committed T2 copy as the journal holds it: the page set, its head slot and that slot's image, the
first stipple address. -/
structure Copy where
  v : PSet
  dir : Nat
  image : Slot
  first : Nat
  deriving DecidableEq, Repr

/-- A DISCARD that waits for its copies to be gone (10 R380, R381). -/
structure Discard where
  id : Nat
  secure : Bool
  /-- Page sets of the ended entries. -/
  psets : List Nat
  ended : Nat
  /-- Superblocks to be erased, once known. -/
  sbs : List Nat
  /-- DISCARD_BEGIN appended; durable. -/
  asked : Bool
  begun : Bool
  /-- DISCARD_END appended; durable. -/
  closing : Bool
  finished : Bool
  residue : Bool
  deriving DecidableEq, Repr

/-- A closed journal page (10 R364): its number in the ring's order, its records, and which of its two copies have read back. -/
structure JPage where
  n : Nat
  recs : List JRec
  ok0 : Bool
  ok1 : Bool
  deriving DecidableEq, Repr

/-- What keeps a die busy (10 R368, R369): a segment of a stream, the erase of a superblock, a journal page. -/
inductive FlashOp where
  | prog (stream : Nat)
  | erase (sb : Nat)
  | page (n : Nat)
  deriving DecidableEq, Repr

/-- A program or erase on a die and the suspends it has had (10 R369). -/
structure Busy where
  op : FlashOp
  susp : Nat
  deriving DecidableEq, Repr

/-- A checkpoint as an area holds it (10 R366): its number, the SEQ of its CKPT_BEGIN, the maps, the superblock table, the
directory entries of the T2 copies, the footprints, the proof generations and the sequence mark. -/
structure Ckpt where
  n : Nat
  seq : Nat
  broad : Sparse BEnt
  stip : Sparse SEnt
  sb : Sparse Sb
  copy : Sparse (Option Copy)
  foot : Sparse (Option Foot)
  gens : Sparse Nat
  genDef : Nat
  mark : Nat
  deriving DecidableEq, Repr

/-- Default of absent table entries of the maps. -/
def Loc.none : Loc := { sb := 2 ^ 19 - 1, slot := 2 ^ 19 - 1 }

/-- The flash media manager (10). What the journal has made durable over the last complete checkpoint is
held as its result: maps, superblocks, copies. -/
structure Flm where
  geom : Geom
  /-- RATE and answering targets of each channel, and excluded dies (10 R391). -/
  rates : List Nat
  targets : List Nat
  excluded : List Nat
  die : Sparse Die
  /-- N_r of each row (10 R347). -/
  rowN : Sparse Nat
  /-- Rows retired (10 R376) or never in use. -/
  retired : List Nat
  sb : Sparse Sb
  closes : Nat
  /-- Exported capacity E in broad units, and T, L, M, K as fixed at start-up (10 R348, R349). -/
  units : Nat
  total : Nat
  slc : Nat
  meta_ : Nat
  /-- OP_PCT as in force since start-up (10 R391). -/
  opPct : Nat
  /-- FLM_SLC.PCT and FLM_SPARE.RESERVE_PCT as in force since start-up (10 R391). -/
  pct : Nat
  reserve : Nat
  /-- PCT, OP_PCT, RESERVE_PCT and JOURNAL_MAX_GIB as the last complete checkpoint records them (17 R604). -/
  saved : Option (Nat × Nat × Nat × Nat)
  /-- Capacity of T2, bytes (06 R218). -/
  cap : Nat
  /-- T1 bytes of the map reserves (01 R25). -/
  mapBytes : Nat
  /-- Maps: broad units and stipple addresses (10 R351 to R354). -/
  broad : Sparse BEnt
  stip : Sparse SEnt
  /-- First stipple address of each page set's copy, written or being written, plus 1, and how many addresses it takes. -/
  first : Sparse Nat
  span : Sparse Nat
  /-- Copies whose UNMAP record is not durable: page set, first address, how many. -/
  dying : List (Nat × Nat × Nat)
  /-- Bucket, plus 1, of every stipple entry that is not inserted yet (10 R354). -/
  stipRes : Sparse Nat
  /-- Raw flash pages (10 R345, R364): the data page of slot `k` of superblock `n` at `2^20 n + k`, the parity page of its stripe
  `t` at `2^20 n + 2^19 + t`; the journal page at die position `p` of stripe `t` of superblock `n` at `2^20 n + 32 t + p`. -/
  media : Sparse (List Byte)
  /-- Committed copies as the journal holds them. -/
  copy : Sparse (Option Copy)
  foot : Sparse (Option Foot)
  /-- Page sets (by handle, as everywhere here) whose PSET_COMMIT is durable and whose move has not committed. -/
  landed : List Nat
  /-- Page sets whose PSET_COMMIT record is appended. -/
  recorded : List Nat
  /-- Stream `3 h + k` of half `h`: k = 0 DATA, 1 FOLD, 2 GC. -/
  stream : Sparse Stream
  /-- Programs and erases in flight by die (10 R369). -/
  busy : Sparse (Option Busy)
  /-- Stream, counted from 1, whose segment the channels of a half are programming (10 R357). -/
  prog : Sparse Nat
  /-- Start, counted from 1, of the foreground program on a channel, and the 1 ms and the ns that foreground work used of it
  there (10 R368). -/
  fgAt : Sparse Nat
  fg : Sparse (Nat × Nat)
  /-- Journal: next SEQ, last durable SEQ, open page and its first record's time, pages in program. -/
  jseq : Nat
  jdurable : Nat
  jopen : List JRec
  jopenAt : Option Nat
  jpages : List JPage
  /-- Journal pages closed so far. -/
  jpageN : Nat
  /-- The ring of J journal superblocks (10 R364), and the superblocks of the two checkpoint areas (10 R348). -/
  jring : List Nat
  areas : List (List Nat)
  /-- Records held back while the journal is full (10 R367), and durable map records whose commit waits for the same reason. -/
  jwait : List JBody
  jheld : List JRec
  /-- Durable records since the CKPT_BEGIN of the last complete checkpoint (10 R366). -/
  jlog : List JRec
  /-- JOURNAL_MAX in bytes as in force since start-up (10 R391). -/
  jmax : Nat
  /-- Journal bytes since the last complete checkpoint's CKPT_BEGIN. -/
  jused : Nat
  jfull : Bool
  /-- Journal bytes since the CKPT_BEGIN of the checkpoint in progress. -/
  jrun : Nat
  /-- Checkpoint in progress; number, time and SEQ of the last CKPT_BEGIN (10 R366). -/
  ckptRun : Bool
  ckptN : Nat
  ckptAt : Nat
  /-- What the two checkpoint areas hold (10 R366): area `n mod 2` the checkpoint number `n`. -/
  ckpt0 : Option Ckpt
  ckpt1 : Option Ckpt
  /-- Generations as the last complete checkpoint wrote them, and written value of every slot that they do not list (05 R194). -/
  gensSaved : Sparse Nat
  savedDef : Nat
  /-- SEQ_MARK as durable (05 R166). -/
  mark : Nat
  /-- Credit in 1/256 slots (10 R372). -/
  credit : Nat
  mode : Nat
  readOnly : Bool
  rebuild : Bool
  discards : List Discard
  recoverMs : Nat
  /-- Wear levelling is at work (10 R379). -/
  wear : Bool
  deriving DecidableEq, Repr

/-- The flash tier before recovery: nothing found. -/
def Flm.reset : Flm :=
  { geom := { planes := 0, blocks := 0, bits := 0, wordlines := 0, ldpc := 0 },
    rates := List.replicate 64 0, targets := List.replicate 64 0, excluded := List.replicate 64 0,
    die := [], rowN := [], retired := [], sb := [], closes := 0, units := 0, total := 0, slc := 0, meta_ := 0,
    opPct := 7, pct := 4, reserve := 2, saved := none, cap := 0, mapBytes := 0, broad := [], stip := [], first := [], span := [], dying := [], stipRes := [], media := [],
    copy := [], foot := [],
    landed := [], recorded := [], stream := [], busy := [], prog := [], fgAt := [], fg := [], jseq := 1, jdurable := 0, jopen := [],
    jopenAt := none, jpages := [], jpageN := 0, jring := [], areas := [], jwait := [], jheld := [], jlog := [], jmax := 32 * 2 ^ 30,
    jused := 0, jfull := false, jrun := 0, ckptRun := false, ckptN := 0, ckptAt := 0,
    ckpt0 := none, ckpt1 := none, gensSaved := [], savedDef := 1, mark := 0, credit := 0, mode := 0, readOnly := false, rebuild := false,
    discards := [], recoverMs := 0, wear := false }

/-! ### Health (16), security (15), power and pins (18) -/

/-- Mean error trend and read offsets of a live die (16 R561, R564): corrected bits and codewords of scrub reads
since the last re-plan, mean in 1/256 bit at the last re-plan, base offsets of SLC and native mode. -/
structure Trend where
  bits : Nat
  words : Nat
  base : Nat
  slc : Nat
  nativeMode : Nat
  deriving DecidableEq, Repr

/-- A die without scrub reads. -/
def Trend.none : Trend := { bits := 0, words := 0, base := 0, slc := 0, nativeMode := 0 }

/-- Outputs of a re-plan (16 R564). -/
structure Outs where
  vf : List Nat
  floor : Nat
  /-- Multiplier code of the twelve memories: plate layers 0 to 3, stacks 0 to 7. -/
  refresh : List Nat
  /-- New offsets: die, SLC, native. -/
  offs : List (Nat × Nat × Nat)
  deriving DecidableEq, Repr

/-- Health (16). -/
structure Hlt where
  /-- HBM4 stacks that have failed. -/
  dead : List Nat
  /-- Extents that were active when a stack failed, with that stack (16 R579): extent, stack. -/
  deadExt : List (Nat × Nat)
  /-- Uncorrectable reads of stacks in the last second: stack, row, time (16 R578). -/
  ues : List (Nat × Nat × Nat)
  /-- Lowest reduced slack of each path-delay monitor since the last re-plan, ps, and at the last re-plan. -/
  slack : Sparse (Option Int)
  slackBase : Sparse (Option Int)
  /-- Ring oscillators, MHz, and leakage sensors, mA. -/
  ro : Sparse Nat
  leak : Sparse Nat
  /-- Measured margin of the twelve memories in 1/100 of the refresh window at x1, since the last re-plan. -/
  margin : Sparse (Option Nat)
  /-- Refresh multiplier codes in force: 0 x1, 1 x2, 2 x4. -/
  refresh : Sparse Nat
  trend : Sparse Trend
  /-- Setpoints by engine step, mV; present setpoint; device time at which it has settled (16 R567; 18 R616). -/
  vf : List Nat
  vcore : Nat
  settleAt : Nat
  /-- A fast-guard raise of the setpoint holds (16 R569, R582). -/
  raised : Bool
  /-- Ageing floor (16 R566). -/
  floor : Nat
  /-- A fast-guard raise of the floor waits for its edition (16 R569). -/
  floorDue : Bool
  ageCrit : Bool
  /-- A re-plan in progress since this time; its outputs that wait for the boundary. -/
  running : Option Nat
  ready : Option Outs
  /-- Device time and stroke of the last re-plan's application. -/
  lastAt : Nat
  lastStroke : Nat
  deriving DecidableEq, Repr

/-- Health after a cold reset (16 R583). -/
def Hlt.reset : Hlt :=
  { dead := [], deadExt := [], ues := [], slack := [], slackBase := [], ro := [], leak := [], margin := [], refresh := [], trend := [],
    vf := List.replicate 9 0x2EE, vcore := 0x2EE, settleAt := 0, raised := false, floor := 0, floorDue := false,
    ageCrit := false, running := none, ready := none, lastAt := 0, lastStroke := 0 }

/-- The fuse block (15 R541). -/
structure Fuse where
  secret : List Byte
  /-- Key slots 0 to 3; none where a slot is not programmed. -/
  keys : List (Option (List Byte))
  /-- Revocation bits. -/
  revoked : Nat
  svn : Nat
  /-- 0 MANUFACTURE, 1 PRODUCTION, 2 DECOMMISSIONED. -/
  life : Nat
  deriving DecidableEq, Repr

/-- Fuses that nothing has programmed. -/
def Fuse.blank : Fuse :=
  { secret := List.replicate 32 0, keys := [none, none, none, none], revoked := 0, svn := 0, life := 0 }

/-- The boot flash (15 R532, R533): the read mode that its SFDP and training allow (0 none, 1 1-1-1, 2 8D-8D-8D),
the bytes programmed from the start of the image region, the certificates of the identity region in chain
order, and whether an erase, a program or a read-back fails. -/
structure Nor where
  mode : Nat
  image : List Byte
  certs : List (List Byte)
  broken : Bool
  deriving DecidableEq, Repr

/-- A load through the mailbox in progress (15 R545, R548). -/
structure Load where
  port : Nat
  /-- MODE 1. -/
  update : Bool
  writeBack : Bool
  /-- The image as read; none when the read drew a bus error. -/
  image : Option (List Byte)
  deriving DecidableEq, Repr

/-- An SPDM message that is being received or sent in chunks (15 R555): handle, next chunk number, bytes. -/
structure Chunk where
  handle : Nat
  seq : Nat
  total : Nat
  bytes : List Byte
  deriving DecidableEq, Repr

/-- Negotiated state of an SPDM transport (15 R555): 0 none, 1 version, 2 capabilities, 3 algorithms. -/
structure Spdm where
  stage : Nat
  ver : Nat
  /-- Messages since GET_VERSION that a signature covers. -/
  vca : List Byte
  log : List Byte
  /-- Large request and large response. -/
  send : Option Chunk
  get : Option Chunk
  /-- A request answered ResponseNotReady: its code and token, and the response once it is signed (15 R558). -/
  later : Option (Nat × Nat)
  done : Option (List Byte)
  deriving DecidableEq, Repr

/-- A transport that has negotiated nothing. -/
def Spdm.none : Spdm :=
  { stage := 0, ver := 0, vca := [], log := [], send := Option.none, get := Option.none, later := Option.none, done := Option.none }

/-- A signing request (15 R558): transport, request code, response without its signature, bytes to be signed. -/
structure SignReq where
  tr : Nat
  code : Nat
  resp : List Byte
  tbs : List Byte
  deriving DecidableEq, Repr

/-- The security block (15). -/
structure Sec where
  fuse : Fuse
  nor : Nor
  /-- Halted after a failed known-answer test (15 R537). -/
  halted : Bool
  /-- SOURCE, SPI_MODE and CAUSE of SEC_BOOT_STATUS. -/
  source : Nat
  spi : Nat
  cause : Nat
  /-- Running image: version, SVN, key slot. -/
  version : Nat
  imageSvn : Nat
  keySlot : Nat
  /-- Measurements 1 to 9 (15 R550). -/
  meas : List (List Byte)
  /-- Seeds of the Alias key (15 R553): none in DECOMMISSIONED. -/
  alias_ : Option (List Byte)
  /-- Certificates of slot 0; none when it is not provisioned (15 R554). -/
  chain : Option (List (List Byte))
  /-- Fuse command in progress: command, slot, the time it was written. -/
  fuseCmd : Option (Nat × Nat × Nat)
  fuseResult : Nat
  load : Option Load
  rcvState : Nat
  rcvOwner : Nat
  rcvCause : Nat
  updState : Nat
  updSource : Nat
  updCause : Nat
  /-- The image of the update that is staged in T1. -/
  updImage : List Byte
  /-- Transports: 0 and 1 the DOE mailboxes of ports 0 and 1, 2 MCTP. -/
  spdm : Sparse Spdm
  signs : List SignReq
  nextToken : Nat
  deriving DecidableEq, Repr

/-- The security block before the boot ROM has run. -/
def Sec.reset : Sec :=
  { fuse := Fuse.blank, nor := { mode := 2, image := [], certs := [], broken := false }, halted := false, source := 0,
    spi := 0, cause := 0, version := 0, imageSvn := 0, keySlot := 0, meas := [], alias_ := none, chain := none,
    fuseCmd := none, fuseResult := 0, load := none, rcvState := 0, rcvOwner := 0, rcvCause := 0, updState := 0,
    updSource := 0, updCause := 0, updImage := [], spdm := [], signs := [], nextToken := 0 }

/-- The power block and the pins of 18. -/
structure Pwr where
  /-- Sensors, degrees C (18 R629). -/
  temps : List Nat
  tempStep : Nat
  /-- Device time since which the hottest core has stayed below ENG_C - HYST_C. -/
  coolSince : Option Nat
  powerStep : Nat
  /-- Device time since which the average has stayed below 97 % (01 R32). -/
  lowSince : Option Nat
  /-- Package power of the last 64 frames, newest first, mW; device time of the last frame. -/
  frames : List Nat
  frameAt : Option Nat
  tlmOk : Bool
  /-- Device time since which frames have arrived and VRM_HOT_L has stayed released (18 R617). -/
  okSince : Option Nat
  forced : Bool
  vrmHot : Bool
  /-- VCORE current in mA, and the die sense in mV with the time since which it has been out of range (16 R571). -/
  coreMa : Nat
  senseMv : Nat
  senseBad : Option Nat
  /-- Package energy since reset, nJ. -/
  energy : Nat
  /-- DRAM sensors whose refresh is doubled (18 R631). -/
  doubled : List Nat
  /-- Sensors at or above their trip point at the last sample (18 R632). -/
  hot : List Nat
  /-- THERM_TRIP_L is asserted: the reset is held (18 R632), or for good (18 R633). -/
  trip : Bool
  dead : Bool
  /-- Held in internal reset: RESET_L low, PWR_GOOD low, SYS_REFCLK lost; device time of the last change. -/
  resetLow : Bool
  pwrBad : Bool
  clkLost : Bool
  heldAt : Nat
  deriving DecidableEq, Repr

/-- The power block after reset (18 R637). -/
def Pwr.reset : Pwr :=
  { temps := List.replicate 40 0, tempStep := 0, coolSince := none, powerStep := 0, lowSince := none,
    frames := [], frameAt := none, tlmOk := false, okSince := none, forced := false, vrmHot := false, coreMa := 0,
    senseMv := 0, senseBad := none, energy := 0, doubled := [], hot := [], trip := false, dead := false,
    resetLow := false, pwrBad := false, clkLost := false, heldAt := 0 }

/-- A record of the RAS log (16 R572). -/
structure RasRec where
  seq : Nat
  cls : Nat
  page : Nat
  cause : Nat
  count : Nat
  stroke : Nat
  offset : Nat
  unit : Nat
  info : Nat
  /-- Device time of the first occurrence. -/
  at_ : Nat
  deriving DecidableEq, Repr

/-- Count of CORRECTED records of a page in its current second (16 R576). -/
structure Storm where
  page : Nat
  since : Nat
  count : Nat
  raised : Bool
  deriving DecidableEq, Repr

/-- The RAS block (16 R570 to R576): the log oldest first. -/
structure Ras where
  log : List RasRec
  next : Nat
  storms : List Storm
  /-- Records whose PLDM platform event has not been sent, oldest first (16 R570). -/
  plat : List RasRec
  /-- Cause, INFO and time of a FATAL error whose reset has not happened (16 R571). -/
  fatal : Option (Nat × Nat × Nat)
  deriving DecidableEq, Repr

/-! ### Network ports and transport (13) -/

/-- A network port (13 R469, R470). -/
structure NetPort where
  up : Bool
  failed : Bool
  /-- Its I/O die is lost (16 R577). -/
  lost : Bool
  /-- Device time since which it has been down. -/
  downAt : Nat
  /-- Device time of its last loopback test. -/
  testAt : Option Nat
  deriving DecidableEq, Repr

/-- A port after reset. -/
def NetPort.reset : NetPort := { up := false, failed := false, lost := false, downAt := 0, testAt := none }

/-- What an outgoing message works for. -/
inductive MsgWork where
  /-- Entry `ent` of the DELIVER `id` (07 R234). -/
  | dlv (id ent : Nat)
  /-- Result block of the ATTEND-class command `id` (09 R321). -/
  | result (id : Nat)
  /-- Response to a network request (13 R495). -/
  | answer (req : Nat)
  /-- Request of the repair in repair slot `rs` (13 R496). -/
  | repair (rs : Nat)
  deriving DecidableEq, Repr

/-- An outgoing message (13 R483). -/
structure Msg where
  mid : Nat
  /-- Traffic class of its packets (13 R485). -/
  tc : Nat
  work : MsgWork
  /-- RDMA WRITE; else SEND. -/
  write : Bool
  va : Nat
  rkey : Nat
  imm : Option Word
  /-- Bytes in all, and the bytes read so far. -/
  total : Nat
  data : List Byte
  /-- PSN of its first packet once that is sent. -/
  first : Option Nat
  /-- Its work failed after its first packet left: the rest goes out as filler, without immediate data. -/
  dead : Bool
  deriving DecidableEq, Repr

/-- An open inbound message (13 R479, R486). -/
structure InMsg where
  first : Nat
  /-- Packets, where known. -/
  count : Nat
  landed : List Nat
  send : Bool
  va : Nat
  rkey : Nat
  dlen : Nat
  imm : Option Word
  /-- Bytes of a SEND by packet number. -/
  parts : List (Nat × List Byte)
  deriving DecidableEq, Repr

/-- STATE of a connection (13 R479). -/
inductive CState where | reset | ready | retry | error
  deriving DecidableEq, Repr

/-- A connection context (13 R479): the host's words, and the device's fields. -/
structure Ctx where
  ws : List Word
  state : CState
  tenant : Nat
  sqPsn : Nat
  una : Nat
  recovery : Nat
  /-- Packets in 24.8 fixed point. -/
  window : Nat
  /-- Expiry, device ns. -/
  timer : Option Nat
  rnrUsed : Nat
  retries : Nat
  epsn : Nat
  msn : Nat
  bitmap : Nat
  nSent : Nat
  nResent : Nat
  nRecv : Nat
  nDup : Nat
  deriving DecidableEq, Repr

/-- A context in RESET. -/
def Ctx.none : Ctx :=
  { ws := [], state := .reset, tenant := 0, sqPsn := 0, una := 0, recovery := 0, window := 0, timer := Option.none,
    rnrUsed := 0, retries := 0, epsn := 0, msn := 0, bitmap := 0, nSent := 0, nResent := 0, nRecv := 0, nDup := 0 }

/-- What a connection has in hand beside its context. -/
structure Conn where
  msgs : List Msg
  /-- Next PSN to send: below SQ_PSN while packets are resent. -/
  nxt : Nat
  /-- SQ_PSN at the entry to RETRY (13 R503). -/
  retryTo : Nat
  /-- End of the wait after an RNR NAK. -/
  rnrUntil : Option Nat
  /-- Count j of 13 R484. -/
  path : Nat
  inb : List InMsg
  /-- In-order packets no ACK covers, the time of the first, and the PSNs that arrived with ECN = CE and that
  no ACK covers yet (13 R488). -/
  uncov : Nat
  uncovAt : Option Nat
  ces : List Nat
  /-- The NAK for the present EPSN is sent (13 R487). -/
  naked : Bool
  /-- SEND messages received complete and not yet taken, oldest first: immediate, bytes. -/
  inbox : List (Option Word × List Byte)
  deriving DecidableEq, Repr

/-- A connection with nothing in hand. -/
def Conn.none : Conn :=
  { msgs := [], nxt := 0, retryTo := 0, rnrUntil := Option.none, path := 0, inb := [], uncov := 0, uncovAt := Option.none,
    ces := [], naked := false, inbox := [] }

/-- A network request that holds a slot (13 R493), its bytes once its message is complete; `decoded` once its
command is accepted. -/
structure NetReq where
  rid : Nat
  qpn : Nat
  /-- PSN of its message's first packet. -/
  first : Nat
  bytes : Option (List Byte)
  decoded : Bool
  deriving DecidableEq, Repr

/-- A tag counter (13 R499). -/
structure TagCnt where
  tag : Nat
  count : Nat
  at_ : Nat
  deriving DecidableEq, Repr

/-- An armed trigger entry (13 R497): its 32 words. -/
structure Armed where
  n : Nat
  port : Nat
  tenant : Nat
  ws : List Word
  deriving DecidableEq, Repr

/-- What a frame carries out of the device. -/
inductive Wire where
  /-- A transport packet: the bytes of its Ethernet, IP and UDP headers, and the rest of the frame. -/
  | roce (head : List Byte) (f : Frame)
  /-- An ARP reply or IPv6 neighbour advertisement for an address of the port (13 R472). -/
  | arp (ip : Word)
  | advert (ip : List Word)
  /-- The answer to a peer-delay request (02 R49). -/
  | peerDelay
  deriving DecidableEq, Repr

/-- A frame in a class queue (14 R510); `waited` once it is counted in GATE_LEN_WAITS. -/
structure EgFrame where
  cls : Nat
  len : Nat
  wire : Wire
  waited : Bool
  deriving DecidableEq, Repr

/-- The operating copy of a gate's configuration (14 R520). -/
structure GateOp where
  /-- Entries: INTERVAL, GATES. -/
  list : List (Nat × Nat)
  /-- CYCLE and guard in 10 ns units; T_base in local PTP ns. -/
  cycle : Nat
  div : Nat
  guard_ : Nat
  base : Int
  /-- Base stroke and offset, from which a regrid computes T_base again. -/
  baseStroke : Nat
  baseOff : Nat
  deriving DecidableEq, Repr

/-- A port's egress gate and policer (14). -/
structure Gate where
  op : GateOp
  /-- Pending takeover at this local PTP time, with the stroke and offset that GATE_TAKEOVER reports. -/
  pend : Option Int
  takeStroke : Nat
  takeOff : Nat
  basePassed : Bool
  /-- After a regrid or step: guard state until this local PTP time (14 R523). -/
  hold : Option Int
  /-- Gates open since the last gate event, the entry and guard flag; device time up to which credit is
  counted. -/
  open_ : Nat
  entry : Nat
  inGuard : Bool
  at_ : Nat
  /-- Credits of the eight classes in 1/640,000 byte. -/
  credit : List Int
  /-- Tokens of the meters in 1/800 byte, and the device time up to which they are filled. -/
  tokens : Sparse Nat
  tokensAt : Nat
  queue : List EgFrame
  /-- End of the transmission in progress, in 10 ps units of device time. -/
  busy : Nat
  deriving DecidableEq, Repr

/-- A gate after reset: free running, credits and meters full (14 R523, R529, R531). -/
def Gate.reset : Gate :=
  { op := { list := [], cycle := 1000000, div := 1, guard_ := 100, base := 0, baseStroke := 0, baseOff := 0 },
    pend := none, takeStroke := 0, takeOff := 0, basePassed := false, hold := none, open_ := 0xFF, entry := 0,
    inGuard := false, at_ := 0, credit := [0, 0, 0, 0, 0, 0, 0, 65536 * 640000], tokens := [], tokensAt := 0,
    queue := [], busy := 0 }

/-- The network side (13, 14). -/
structure Net where
  port : Sparse NetPort
  gate : Sparse Gate
  ctx : Sparse Ctx
  conn : Sparse Conn
  /-- Cached context indices with spill, most recently used first (13 R481). -/
  cached : List Nat
  /-- Packets that wait for a context: index, port, frame (13 R482). -/
  miss : List (Nat × Nat × Frame)
  /-- XPT_SPILL_CFG and XPT_SPILL_BASE as in force since the last reset (13 R507). -/
  spill : Word
  spillBase : Nat
  reqs : List NetReq
  nextReq : Nat
  nextMid : Nat
  tags : List TagCnt
  armed : List Armed
  nextArm : Nat
  ctxResult : Nat
  /-- Bytes in the repair buffers: address `2^21 s + offset` (07 R262). -/
  rbuf : Mem
  /-- Repair slots closed under 07 R264, with their connection (13 R492). -/
  closed : List (Nat × Nat)
  deriving DecidableEq, Repr

/-- The network side after reset. -/
def Net.reset : Net :=
  { port := [], gate := [], ctx := [], conn := [], cached := [], miss := [], spill := 0xE, spillBase := 0, reqs := [],
    nextReq := 0, nextMid := 0, tags := [], armed := [], nextArm := 0, ctxResult := 0, rbuf := [], closed := [] }

/-! ### Messages that leave the device -/

/-- What the device sends, drives or answers. -/
inductive Out where
  /-- MSI-X message: port, vector, and the address and data of its table entry (11 R398; 12 R439, R440, R459). -/
  | msix (port vec addr : Nat) (data : Word)
  /-- Completion of a command over MCTP (11 R419): eight words. -/
  | mctpCompletion (ws : List Word)
  /-- Answer to a register read: source, address, value. -/
  | regRead (src : Src) (addr : Nat) (v : Word)
  /-- CXL.mem read data: port, LD, data, Poison bit, DevLoad (11 R406, R414). -/
  | cxlData (port ld : Nat) (data : List Byte) (poison : Bool) (load : Nat)
  /-- CXL.mem write completion (NDR Cmp) with DevLoad. -/
  | cxlCmp (port ld load : Nat)
  /-- CXL mailbox answer: port, LD, command, return code of CXL 2.0 (0 success, 3 unsupported), payload. -/
  | mailbox (port ld op rc : Nat) (data : List Byte)
  /-- AER Uncorrectable Internal Error on a port (16 R570). -/
  | aer (port : Nat)
  /-- A frame handed to the wire of a network port (14 R510), with the bytes of its transport headers and payload (00 R12; 13 R474 to
  R476). -/
  | frame (port : Nat) (w : Wire) (bytes : List Byte)
  /-- The 100 µs pulse on PPS_OUT (18 R622). -/
  | pps
  /-- DOE data object: port, LD, payload (11 R400). -/
  | doe (port ld : Nat) (data : List Byte)
  /-- MCTP message: type and payload (11 R419; 15 R544, R548, R555; 16 R570). -/
  | mctp (type : Nat) (data : List Byte)
  deriving DecidableEq, Repr

/-! ### The machine -/

/-- H digit of the order code: HBM4 stacks on the substrate (00 R1). -/
inductive HCode where | h4 | h6 | h8
  deriving DecidableEq, Repr

/-- Number of HBM4 stacks. -/
def HCode.stacks : HCode → Nat | .h4 => 4 | .h6 => 6 | .h8 => 8

/-- N digit of the order code: network I/O dies on the substrate (00 R1). -/
inductive NCode where | n1 | n2
  deriving DecidableEq, Repr

/-- Number of network I/O dies. -/
def NCode.dies : NCode → Nat | .n1 => 1 | .n2 => 2

/-- The order code WX7-H<h>N<n> of the part, fixed at assembly (00 R1, R2). -/
structure Part where
  h : HCode
  n : NCode
  deriving DecidableEq, Repr

/-- A range of host memory whose reads or writes draw a bus error: environment data. -/
structure BadRange where
  port : Nat
  base : Nat
  size : Nat
  deriving DecidableEq, Repr

/-- The state of the KX7. -/
structure State where
  /-- The order code (00 R1): no command and no reset changes it (00 R2, 01 R19). -/
  part : Part
  /-- Commands that wait, first in first out. -/
  pending : List Instr
  /-- Device time, ns: never falls. -/
  clk : Nat
  /-- Device time of the last reset. -/
  resetAt : Nat
  /-- Counter of free values: the model's own. -/
  free : Nat
  /-- Messages sent, newest first: the model's own record of the device's outputs. -/
  out : List Out
  /-- Registers with one copy, by BAR0 address; absent = reset value. -/
  regs : Sparse Word
  /-- Active, pending and previous bank (17 R592); absent = reset value. -/
  act : Sparse Word
  pend : Sparse Word
  prev : Sparse Word
  /-- HI words as latched by a read of their LO word (17 R590). -/
  latch : Sparse Word
  /-- Host memory of port 0 and port 1: environment data that the device reads and writes. -/
  host0 : Mem
  host1 : Mem
  bad : List BadRange
  /-- Page bytes by page-set address with the page-set index in place of the handle (06 R203). -/
  page : Mem
  /-- Bytes of active CXL extents by DPA (11 R403). -/
  cxl : Mem
  start : Startup
  /-- The block of the present start-up phase has finished (17 R605): flash map recovery, PSA rebuild. -/
  phaseDone : Bool
  /-- Device time at which the present start-up phase began (17 R607). -/
  phaseAt : Nat
  que : Que
  dma : Dma
  port0 : Port
  port1 : Port
  /-- The functions of the ports: LD `l` of port `p` at `8 p + l` (11 R394, R397, R398, R400). -/
  fns : Sparse PciFn
  ten : Ten
  cfg : Cfg
  dir : Dir
  psa : Psa
  tier : Tier
  pfs : Pfs
  npa : Npa
  brn : Brn
  stk : Stk
  net : Net
  flm : Flm
  hlt : Hlt
  sec : Sec
  pwr : Pwr
  ras : Ras
  deriving DecidableEq, Repr

/-- The machine right after reset. -/
def State.reset : State :=
  { part := { h := .h8, n := .n2 }, pending := [], clk := 0, resetAt := 0, free := 0, out := [], regs := [], act := [], pend := [],
    prev := [], latch := [], host0 := [], host1 := [], bad := [], page := [], cxl := [],
    start := .verify, phaseDone := false, phaseAt := 0,
    que := { qs := [], rr0 := 0, rr1 := 0, live := [], nextId := 0, fences := [] },
    dma := { ch := [], halted := false, cause := 0, errCh := 0 },
    port0 := Port.reset, port1 := Port.reset, fns := [],
    ten := { tbl := [], busy := none, result := 0, short := 0, revs := [] },
    cfg := { edition := 0, prevEdition := 0, prevValid := false, applied := 2 ^ 64 - 1,
             joined := false, check := none, armed := none, last := 0, fail := 0, lag := [] },
    dir := { slots := [], window := 8, seqNext := 1, points := [], mark := 0, filter := [],
             proofs := [], proofFresh := 0, proofBack := [], proofWait := [], genDef := 1, gens := [],
             readers := [], pubs := [], cascades := [], cool := [] },
    psa := { bank := [], tempLevel := 0, powerLevel := 0, tempC := 0, want := [], scrubAt := 0, rehomeAt := 0, slots := 0, slotsAt := 0 },
    tier := { psets := [], fresh := 0, back := [], gens := [], moves := [], homes := [], owed := [], reads := [],
              retryAt := [], low0 := false, low1 := false, under0 := false, under1 := false },
    pfs := { dlvs := [], plans := [], jobs := [], unloads := [], steps := [], holds := [],
             cache := [], reads := [], nextRid := 0, turn := [], repairs := [], lastDir := 0, lastPage := 0 },
    npa := { jobs := [] },
    brn := { core := [], eng := [], run := none, next := none, rrSrc := .program, rrUsed := 0,
             seq := 0x01240019, num := 1, cap := 0, test := 0x000A0064, watchdog := 4, gov := 0,
             step := 0, busyNs := 0 },
    stk := Stk.reset, net := Net.reset,
    flm := Flm.reset, hlt := Hlt.reset, sec := Sec.reset, pwr := Pwr.reset,
    ras := { log := [], next := 0, storms := [], plat := [], fatal := none } }

end Sys2Proof.Machine
end

