-- ==== Sys2Proof/Machine/Regs.lean ====
section
/-! DEFINITION. The register file: the page map (17 R585, R586), the stored registers with their reset
values and writable bits, the two banks of configuration registers (17 R592), counters, latched
pairs (17 R590) and interrupt status (17 R587, R588; 12 R440). -/

namespace Sys2Proof.Machine

/-- The blocks of the page map (17 R585). -/
inductive Block where
  | glb | ident | cfg | stk | psa | bank | dir | tier | pfs | brn | npa | flm | hpt | que | dma
  | net | xpt | gate | ten | sec | hlt | ras | pwr
  deriving DecidableEq, Repr

/-- Block code of PAGE_ID (17 R585). -/
def Block.code : Block → Nat
  | .glb => 0x01 | .ident => 0x02 | .cfg => 0x03 | .stk => 0x04 | .psa => 0x05 | .bank => 0x06
  | .dir => 0x07 | .tier => 0x08 | .pfs => 0x09 | .brn => 0x0A | .npa => 0x0B | .flm => 0x0C
  | .hpt => 0x0D | .que => 0x0E | .dma => 0x0F | .net => 0x10 | .xpt => 0x11 | .gate => 0x12
  | .ten => 0x13 | .sec => 0x14 | .hlt => 0x15 | .ras => 0x16 | .pwr => 0x17

/-- The block and instance of a page; none where the table of 17 R585 lists no page. -/
def pageBlock (page : Nat) : Option (Block × Nat) :=
  if page = 0x00 then some (.glb, 0) else if page = 0x01 then some (.ident, 0)
  else if page = 0x02 then some (.cfg, 0) else if page = 0x03 then some (.stk, 0)
  else if page = 0x07 then some (.psa, 0)
  else if 0x08 ≤ page ∧ page ≤ 0x17 then some (.bank, page - 0x08)
  else if page = 0x18 then some (.dir, 0) else if page = 0x19 then some (.tier, 0)
  else if page = 0x1A then some (.pfs, 0)
  else if 0x20 ≤ page ∧ page ≤ 0x2F then some (.brn, page - 0x20)
  else if page = 0x30 then some (.npa, 0)
  else if 0x38 ≤ page ∧ page ≤ 0x3F then some (.flm, page - 0x38)
  else if 0x40 ≤ page ∧ page ≤ 0x41 then some (.hpt, page - 0x40)
  else if 0x48 ≤ page ∧ page ≤ 0x4F then some (.que, page - 0x48)
  else if 0x50 ≤ page ∧ page ≤ 0x57 then some (.dma, page - 0x50)
  else if 0x60 ≤ page ∧ page ≤ 0x63 then some (.net, page - 0x60)
  else if page = 0x64 then some (.xpt, 0)
  else if 0x68 ≤ page ∧ page ≤ 0x6B then some (.gate, page - 0x68)
  else if page = 0x6C then some (.ten, 0) else if page = 0x70 then some (.sec, 0)
  else if page = 0x78 then some (.hlt, 0) else if page = 0x79 then some (.ras, 0)
  else if page = 0x7C then some (.pwr, 0) else none

/-- Every page of the map, in page order. -/
def pages : List Nat := (List.range 0x80).filter (fun p => (pageBlock p).isSome)

/-- Base address of a page. -/
def pg (page : Nat) : Nat := page * 0x1000

/-- A stored register: offset, reset value, writable bits, and whether it is a configuration
register (17 R592). -/
structure RegDef where
  off : Nat
  reset : Word
  mask : Word
  cfg : Bool
  deriving DecidableEq, Repr

/-- A configuration register. -/
def cr (off : Nat) (reset mask : Word) : RegDef := ⟨off, reset, mask, true⟩

/-- A register with one copy. -/
def rr (off : Nat) (reset mask : Word) : RegDef := ⟨off, reset, mask, false⟩

/-- Defined INT_STATUS bits of a page. -/
def intMask (page : Nat) : Word :=
  match pageBlock page with
  | none => 0
  | some (b, i) =>
    match b with
    | .glb => 7 | .ident => 0 | .cfg => 7 | .stk => 0x3F | .psa => 0x1F | .bank => 7 | .dir => 0xF
    | .tier => 0x3F | .pfs => 0x7F | .brn => if i = 0 then 0x7F else 0xF | .npa => 0xF
    | .flm => if i = 0 then 0x3FFF else 0x1F | .hpt => 0x3F | .que => if i % 4 = 0 then 7 else 0
    | .dma => if i = 0 then 0x3FF else 0x1FF | .net => 0xF | .xpt => 0x3F | .gate => 0x1F | .ten => 7
    | .sec => 0x1F | .hlt => 0x1F | .ras => 0x1F | .pwr => 0x1F

/-- STK registers (02 R82). -/
def stkRegs : List RegDef :=
  [cr 0x100 0 0x3FFFFFFF, cr 0x104 0 0xFFFFFFFF, cr 0x108 0 0xFFFF, cr 0x10C 0xF4240 0x07FFFFFF,
   cr 0x11C 0x8231419D 0x8FFFFFFF, cr 0x124 0x4E20 0x07FFFFFF, cr 0x128 4 0xF, cr 0x12C 0x3E8 0xFFFF,
   cr 0x130 0x04000000 0x07FF07FF, cr 0x134 0x03800000 0x07FF07FF, cr 0x138 0x03C00000 0x07FF07FF,
   cr 0x13C 0x04000000 0x07FF07FF, rr 0x140 0 0xFFFFFFC0, rr 0x144 0 0xFFFFFFFF, rr 0x148 0 0xF,
   rr 0x160 0 0xFFFFFFC0, rr 0x164 0 0xFFFFFFFF, rr 0x168 0 0xF]

/-- PSA registers of page 0x07 and of a bank page (04 R156). -/
def psaRegs : List RegDef :=
  [cr 0x100 7 7, cr 0x104 0x67645F03 0xFFFFFF0F, cr 0x10C 0x03E80100 0xFFFFFFFF,
   cr 0x110 0x0A04 0xFFFF, cr 0x114 0x1000 0xFFFF]

/-- Bank registers (04 R156). -/
def bankRegs : List RegDef := [cr 0x100 1 7, cr 0x11C 0x40 0xFFFF]

/-- DIR registers (05 R199). -/
def dirRegs : List RegDef :=
  [cr 0x100 0x271007D0 0xFFFFFFFF, cr 0x104 0x3C 0xFFFF, cr 0x108 8 0x1F]

/-- TIER registers (06 R230). -/
def tierRegs : List RegDef :=
  [cr 0x100 3 3, cr 0x104 0x502 0xFFFF, cr 0x108 0x402 0xFFFF, cr 0x10C 8 0xFFFF,
   cr 0x110 0xC8 0xFFFF, cr 0x114 0x2710 0xFFFFFF, rr 0x140 0 0xFFFF]

/-- PFS registers (07 R267). -/
def pfsRegs : List RegDef :=
  [cr 0x100 3 3, cr 0x104 2 0xF, cr 0x108 0x10 0xFF, cr 0x10C 6 0xFFFF, cr 0x110 0x4E20 0xFFFFFF,
   cr 0x114 0x08320064 0xFFFFFFFF, cr 0x118 0x30 0xFF, rr 0x120 0 0xFF]
  ++ (List.range 32).flatMap (fun i =>
    [cr (0x200 + 8 * i) 0 0x8000FFFF, cr (0x204 + 8 * i) 0 0xFFFFFF])

/-- BRN registers of core `c` (08 R300). -/
def brnRegs (c : Nat) : List RegDef :=
  cr 0x100 0x1FF 0x1FF ::
  (if c = 0 then
    [cr 0x200 0x01240019 0x0FFF00FF, cr 0x204 1 7, cr 0x208 0 0xF, cr 0x210 0x000A0064 0x00FFFFFF,
     cr 0x214 4 0xF]
   else [])

/-- NPA registers (09 R339). -/
def npaRegs : List RegDef :=
  [cr 0x100 3 3, cr 0x104 0x10 0xFF, cr 0x108 0x7D0 0xFFFFFF, cr 0x10C 0x04000000 0xFFFF0000]

/-- FLM registers of group `g` (10 R391). -/
def flmRegs (g : Nat) : List RegDef :=
  cr 0x100 0xFF 0xFF ::
  (if g = 0 then
    [cr 0x200 0x1F 0x1F, cr 0x204 0x000A3204 0xFFFFFF, cr 0x208 7 0xFF, cr 0x20C 0x191E0F05 0xFFFFFFFF,
     cr 0x210 0x1F4 0xFFFF, cr 0x214 0x00640846 0xFFFF0FFF, cr 0x218 0xA8 0xFFFF,
     cr 0x21C 0x00020A02 0xFFFFFF, cr 0x220 0x003C0020 0xFFFFFFFF, cr 0x224 0x001407D0 0xFFFFFFFF,
     cr 0x228 4 0xF, cr 0x22C 0x80 0xFFFF]
   else [])

/-- HPT registers (11 R428). -/
def hptRegs : List RegDef :=
  [cr 0x100 0x801 0xF11, cr 0x104 0x10 0x1FF]
  ++ (List.range 8).map (fun l => cr (0x110 + 4 * l) 0x01000000 0xFFFFFFFF)

/-- TEN registers (11 R429); TEN_FM and TEN_OP have rows of their own. -/
def tenRegs : List RegDef :=
  [rr 0x100 0 1, rr 0x104 0 3, rr 0x110 0 0x703FF]
  ++ (List.range 16).map (fun i => rr (0x140 + 4 * i) 0 0xFFFFFFFF)

/-- QUE registers of page 0x48 + `k` (12 R465). -/
def queRegs (k : Nat) : List RegDef :=
  (if k % 4 = 0 then
    [rr 0x100 0 0xFFFFF000, rr 0x104 0 0xFFFFFFFF, rr 0x108 0 0x7FF, cr 0x10C 4 0xF, rr 0x110 0 0x1FF]
   else [])
  ++ (List.range 16).flatMap (fun j =>
    let b := 0x400 + 0x40 * j
    [rr b 0 0xFFFFFFC0, rr (b + 4) 0 0xFFFFFFFF, rr (b + 8) 0 0xFFFFFFC0, rr (b + 0xC) 0 0xFFFFFFFF,
     rr (b + 0x10) 0x404 0xF0F, rr (b + 0x14) 0 0x1FF01, rr (b + 0x18) 1 0xFFFF00FF])

/-- DMA registers of page 0x50 + `k` (12 R466). -/
def dmaRegs (k : Nat) : List RegDef :=
  (if k = 0 then [cr 0x108 0x200 0x1FFF] else [])
  ++ (List.range 8).flatMap (fun i =>
    let b := 0x400 + 0x40 * i
    [rr b 0 0x00FF013F, rr (b + 0x10) 0 0xFFFFFFE0, rr (b + 0x14) 0 0xFFFFFFFF])

/-- NET registers (13 R506). -/
def netRegs : List RegDef :=
  [cr 0x100 0x80000008 0x8FFF001B, rr 0x108 0 0xFFFFFFFF, rr 0x10C 0 0xFFFF, rr 0x110 0 0xFFFFFFFF,
   rr 0x114 0 0xFFFFFFFF, rr 0x118 0 0xFFFFFFFF, rr 0x11C 0 0xFFFFFFFF, rr 0x120 0 0xFFFFFFFF,
   rr 0x124 0 0xFFFFFFFF, rr 0x128 0 0xFFFF, cr 0x12C 0xA 0xFFFF, cr 0x130 0x18100800 0xFFFFFFFF,
   cr 0x134 0x38302820 0xFFFFFFFF]

/-- XPT registers (13 R507). -/
def xptRegs : List RegDef :=
  [cr 0x100 7 7, cr 0x104 0x10 0x1FF, cr 0x108 0x10800101 0xFFFFFFFF, cr 0x10C 0x208 0xFFFF,
   cr 0x110 0xA 0xFFFF, cr 0x114 0x400 0x7FF, cr 0x118 0x64 0xFFFF, cr 0x120 0xE 0xC000001F,
   cr 0x124 0 0xFFFFF000, cr 0x128 0 0xFFFFFFFF, rr 0x130 0 0xFFFFFF80, rr 0x134 0 0xFFFFFFFF,
   rr 0x138 0 0xF, rr 0x150 0 0xFFFFFF80, rr 0x154 0 0xFFFFFFFF, rr 0x158 0 0xF,
   rr 0x170 0 0xFFFFF]
  ++ (List.range 64).map (fun i => rr (0x400 + 4 * i) 0 0xFFFFFFFF)

/-- GATE registers (14 R531). -/
def gateRegs : List RegDef :=
  [cr 0x100 3 7, cr 0x104 1 0x01FF007F, cr 0x108 0 0xFFFFFFFF, cr 0x10C 0 0xFFFFFFFF,
   cr 0x110 0 0x07FFFFFF, cr 0x114 0x64 0xFFFF, rr 0x118 0 1]
  ++ (List.range 8).flatMap (fun c =>
    [cr (0x200 + 16 * c) (if c = 7 then 0x800007D0 else 0) 0x8001FFFF,
     cr (0x204 + 16 * c) (if c = 7 then 0x00010000 else 0) 0xFFFFFF])
  ++ (List.range 64).flatMap (fun f =>
    [cr (0x400 + 8 * f) 0 0xC0FF003F, cr (0x404 + 8 * f) 0 0xFFFF3FFF])
  ++ (List.range 64).flatMap (fun m =>
    [cr (0x600 + 8 * m) 0 0x1FFFF, cr (0x604 + 8 * m) 0 0xFFFFFF])
  ++ (List.range 256).flatMap (fun e =>
    [cr (0x800 + 8 * e) 0 0x07FFFFFF, cr (0x804 + 8 * e) 0 0xFF])

/-- SEC registers (15 R560). -/
def secRegs : List RegDef :=
  [rr 0x120 0 3, rr 0x128 0 0xFFFFFF00, rr 0x12C 0 0xFFFFFFFF, rr 0x130 0 0x7FFFFF, rr 0x200 1 0xF]

/-- HLT registers (16 R583). -/
def hltRegs : List RegDef :=
  [cr 0x100 0xF 0xF, cr 0x104 0x18 0xFFFF, cr 0x108 0x00080A19 0xFFFFFF, cr 0x10C 4 0xF,
   cr 0x110 0x14 0xFF, rr 0x130 0 0x1F3F, rr 0x174 0 0x3F1F]

/-- RAS registers (16 R584). -/
def rasRegs : List RegDef :=
  [cr 0x100 3 3, cr 0x104 0x3E8 0xFFFF, rr 0x118 0 0xFFFFFFFF, rr 0x140 0 0x800000FF,
   rr 0x144 0 0xFFFFFFFF]

/-- PWR registers (18 R637). -/
def pwrRegs : List RegDef :=
  [cr 0x100 3 3, cr 0x104 0x3E8 0x7FF, cr 0x108 0x6403 0xFF0F, cr 0x10C 0x23 0xFF, rr 0x130 0 0x3F]

/-- Block-specific stored registers of a page. -/
def pageRegs (page : Nat) : List RegDef :=
  match pageBlock page with
  | none => []
  | some (b, i) =>
    match b with
    | .glb => [rr 0x108 0 0xF, rr 0x10C 0 0xFFFFFFFF] | .ident => [rr 0x114 0 0x80000FFF] | .cfg => [] | .stk => stkRegs | .psa => psaRegs
    | .bank => bankRegs | .dir => dirRegs | .tier => tierRegs | .pfs => pfsRegs | .brn => brnRegs i
    | .npa => npaRegs | .flm => flmRegs i | .hpt => hptRegs | .que => queRegs i | .dma => dmaRegs i
    | .net => netRegs | .xpt => xptRegs | .gate => gateRegs | .ten => tenRegs | .sec => secRegs
    | .hlt => hltRegs | .ras => rasRegs | .pwr => pwrRegs

/-- The stored register at an address: the header's CTRL and INT_ENABLE (17 R587), or one of the
page's own. -/
def regDef (a : Nat) : Option RegDef :=
  let page := a / 0x1000
  let off := a % 0x1000
  if (pageBlock page).isNone then none
  else if off = 0x008 then some (rr 0x008 0 1)
  else if off = 0x014 then some (rr 0x014 0 (intMask page))
  else (pageRegs page).find? (fun d => decide (d.off = off))

/-- Reset value of a stored register; 0 for a counter or status word. -/
def regReset (a : Nat) : Word :=
  match regDef a with
  | some d => d.reset
  | none => 0

/-- A register with one copy. -/
def State.reg (s : State) (a : Nat) : Word := sget s.regs (regReset a) a

/-- A register with one copy, set. -/
def State.setReg (s : State) (a : Nat) (v : Word) : State :=
  { s with regs := sset s.regs (regReset a) a v }

/-- A configuration register in the active bank: what governs the device (17 R592). -/
def State.cfgReg (s : State) (a : Nat) : Word := sget s.act (regReset a) a

/-- A configuration register in the pending bank. -/
def State.pendReg (s : State) (a : Nat) : Word := sget s.pend (regReset a) a

/-- A field of an active configuration register. -/
def State.cfgFld (s : State) (a lo n : Nat) : Nat := fld (s.cfgReg a) lo n

/-- A counter plus `n`, saturating (17 R590). -/
def State.bump (s : State) (a : Nat) (n : Nat := 1) : State := s.setReg a (satAdd (s.reg a) n)

/-- A 64-bit counter of two words plus `n`. -/
def State.bump64 (s : State) (a : Nat) (n : Nat) : State :=
  let v := (s.reg a).toNat + 2 ^ 32 * (s.reg (a + 4)).toNat + n
  (s.setReg a (w32 v)).setReg (a + 4) (w32 (v / 2 ^ 32))

/-- A message sent. -/
def State.send (s : State) (o : Out) : State := { s with out := o :: s.out }

/-! ### Host ports and their functions (11 R392 to R400) -/

/-- A host port. -/
def State.port (s : State) (p : Nat) : Port := if p = 0 then s.port0 else s.port1

/-- A host port, set. -/
def State.setPort (s : State) (p : Nat) (v : Port) : State :=
  if p = 0 then { s with port0 := v } else { s with port1 := v }

/-- The port has lost its link (11 R395), or there is no such port. -/
def State.portDown (s : State) (p : Nat) : Bool := decide (2 ≤ p ∨ (s.port p).mode = .down)

/-- The function of a logical device (11 R394, R397). -/
def State.fn (s : State) (p ld : Nat) : PciFn := sget s.fns PciFn.reset (8 * p + ld)

/-- The function of a logical device, set. -/
def State.setFn (s : State) (p ld : Nat) (v : PciFn) : State := { s with fns := sset s.fns PciFn.reset (8 * p + ld) v }

/-- An entry of a function's MSI-X table. -/
def PciFn.vec (f : PciFn) (v : Nat) : MsixVec := sget f.vecs MsixVec.reset v

/-- A vector whose message does not leave at once: its own mask or the function's. -/
def PciFn.holds (f : PciFn) (v : Nat) : Bool := f.fmask || (f.vec v).masked

/-- The message of a vector of LD 0 leaves with the address and data of its table entry; a masked vector becomes pending; nothing
leaves a lost port, a function with MSI-X disabled, or a device in recovery (11 R398, R400, R426, R427; 15 R544). -/
def State.msix (s : State) (p vec : Nat) : State :=
  let f := s.fn p 0
  if s.portDown p ∨ s.start = .recovery ∨ !f.msixOn then s
  else if f.holds vec then s.setFn p 0 { f with pba := if f.pba.contains vec then f.pba else vec :: f.pba }
  else s.send (.msix p vec (f.vec vec).addr (f.vec vec).data)

/-! ### Interrupt status -/

/-- INT_STATUS AND INT_ENABLE of a page. -/
def State.intPend (s : State) (page : Nat) : Word :=
  s.reg (pg page + 0x10) &&& s.reg (pg page + 0x14)

/-- Some page has an enabled interrupt (12 R440). -/
def State.anyInt (s : State) : Bool := pages.any (fun p => decide (s.intPend p ≠ 0))

/-- The block interrupt message on every port whose QUE_BLK_INT.EN is 1 (12 R440). -/
def State.blockInt (s : State) : State :=
  let one (s : State) (p : Nat) : State :=
    let v := s.reg (pg (0x48 + 4 * p) + 0x110)
    if bit v 8 then s.msix p (fld v 0 8) else s
  one (one s 0) 1

/-- INT_STATUS bits set by an event: a message when the OR over all pages becomes nonzero
(12 R440). -/
def State.raiseBits (s : State) (page : Nat) (v : Word) : State :=
  let a := pg page + 0x10
  let s' := s.setReg a (s.reg a ||| (v &&& intMask page))
  if !s.anyInt && s'.anyInt then s'.blockInt else s'

/-- One INT_STATUS bit set. -/
def State.raise (s : State) (page i : Nat) : State := s.raiseBits page (wbit i)

/-- INT_STATUS bits cleared by a write of 1 (17 R588): another message while the OR stays nonzero. -/
def State.clearInt (s : State) (page : Nat) (v : Word) : State :=
  let a := pg page + 0x10
  let s' := s.setReg a (s.reg a &&& ~~~v)
  if s'.anyInt then s'.blockInt else s'

/-- A write of INT_ENABLE (17 R587): a message when the OR over all pages becomes nonzero by it (12 R440). -/
def State.setEnable (s : State) (page : Nat) (v : Word) : State :=
  let s' := s.setReg (pg page + 0x14) (v &&& intMask page)
  if !s.anyInt && s'.anyInt then s'.blockInt else s'

/-- A counter plus one and its interrupt. -/
def State.count (s : State) (page off i : Nat) : State := (s.bump (pg page + off)).raise page i

/-! ### Counter clears and latched pairs (17 R590) -/

/-- Words that a CNT_CLEAR register clears: first and last offset of each range, from the register's
own field map. -/
def clearRanges (a : Nat) : List (Nat × Nat) :=
  let off := a % 0x1000
  match pageBlock (a / 0x1000) with
  | none => []
  | some (b, i) =>
    if off = 0x1FC then
      match b with
      | .stk => [(0x180, 0x1A0)] | .psa => [(0x180, 0x1A0)] | .dir => [(0x190, 0x1A8)]
      | .tier => [(0x180, 0x1A0)] | .pfs => [(0x180, 0x1A4)] | .brn => [(0x180, 0x198)]
      | .npa => [(0x180, 0x1A0)] | .flm => [(0x180, 0x1A4)] | .hpt => [(0x180, 0x1A0)]
      | .ten => [(0x18C, 0x190)] | .que => if i % 4 = 0 then [(0x180, 0x194)] else []
      | .dma => if i = 0 then [(0x180, 0x18C)] else [] | .net => [(0x180, 0x19C)]
      | .xpt => [(0x1A0, 0x1D4)] | .gate => [(0x180, 0x190), (0x300, 0x3FC)]
      | .sec => [(0x180, 0x18C)] | .hlt => [(0x180, 0x18C)] | .ras => [(0x180, 0x190)]
      | .cfg => [(0x180, 0x18C)] | .pwr => [(0x180, 0x190)]
      | .glb => [] | .ident => [] | .bank => []
    else if off = 0x2FC then
      match b with
      | .brn => if i = 0 then [(0x220, 0x234)] else []
      | .flm => if i = 0 then [(0x2C0, 0x2EC)] else []
      | _ => []
    else []

/-- LO words whose read latches the HI word at the next address. -/
def latchesHi (a : Nat) : Bool :=
  let off := a % 0x1000
  match pageBlock (a / 0x1000) with
  | none => false
  | some (b, i) =>
    match b with
    | .stk => off == 0x110 | .psa => off == 0x180 || off == 0x188
    | .dir => off == 0x118 || off == 0x120 || off == 0x128
    | .brn => off == 0x180 || (i == 0 && (off == 0x220 || off == 0x228))
    | .npa => off == 0x188 | .flm => off == 0x180 || (i == 0 && off == 0x274)
    | .hpt => off == 0x140 || off == 0x180 || off == 0x188 | .ten => off == 0x120
    | .dma => i == 0 && off == 0x180 | .net => off == 0x180 || off == 0x188 | .xpt => off == 0x1A0
    | .gate => off == 0x124 | .hlt => off == 0x128 | .glb => off == 0x120 | .ident => off == 0x10C
    | .cfg => off == 0x108 || off == 0x110 || off == 0x118 | .pwr => off == 0x13C
    | .bank => false | .tier => false | .pfs => false | .que => false | .sec => false | .ras => false

/-- BRN_ARRAY_BUSY at 0: an operation that runs counts from now on. -/
def Brn.clearBusy (b : Brn) (clk : Nat) : Brn :=
  { b with busyNs := 0, run := b.run.map (fun u => { u with at_ := clk }) }

/-- Time with an operation running, in 10 ns (08 R300). -/
def State.arrayBusy (s : State) : Nat :=
  (s.brn.busyNs + (match s.brn.run with
    | some u => s.clk - u.at_
    | none => 0)) / 10

/-- The named counters at 0, PSA_THROTTLE_SLOTS and BRN_ARRAY_BUSY among them. -/
def State.clearCounters (s : State) (a : Nat) : State :=
  { s with brn := if a = pg 0x20 + 0x2FC then s.brn.clearBusy s.clk else s.brn, psa := if a = pg 0x07 + 0x1FC then { s.psa with slots := 0, slotsAt := s.clk } else s.psa, regs := s.regs.filter (fun e =>
      !((clearRanges a).any (fun r => decide (e.1 / 0x1000 = a / 0x1000 ∧ r.1 ≤ e.1 % 0x1000 ∧ e.1 % 0x1000 ≤ r.2)))) }

/-! ### Time -/

/-- Device time moves to `t`, never back. -/
def State.at_ (s : State) (t : Nat) : State := { s with clk := max s.clk t }

/-- Effective throttle level of the PSA (04 R145). -/
def State.psaLevel (s : State) : Nat := max s.psa.tempLevel s.psa.powerLevel

/-- Issue slots withheld so far, in fortieths of a slot: of 700 million a second, level 1 withholds a quarter, level 2 half and
level 3 three quarters (04 R145). -/
def State.psaSlots (s : State) : Nat := s.psa.slots + 7 * s.psaLevel * (s.clk - s.psa.slotsAt)

/-- µs since the last reset (17 R607). -/
def State.uptime (s : State) : Nat := (s.clk - s.resetAt) / 1000

/-- A fresh free value index. -/
def State.fresh (s : State) : Nat × State := (s.free, { s with free := s.free + 1 })

/-! ### Host memory -/

/-- Host memory of a port. -/
def State.host (s : State) (p : Nat) : Mem := if p = 0 then s.host0 else s.host1

/-- Host memory of a port, set. -/
def State.setHost (s : State) (p : Nat) (m : Mem) : State :=
  if p = 0 then { s with host0 := m } else { s with host1 := m }

/-- A host range draws a bus error on a read: an error range, or a lost port. -/
def State.hostReadBad (s : State) (p a n : Nat) : Bool :=
  s.portDown p || s.bad.any (fun r => decide (r.port = p ∧ a < r.base + r.size ∧ r.base < a + n))

/-- A host read: none on a bus error. -/
def State.hostRead (s : State) (p a n : Nat) : Option (List Byte) :=
  if s.hostReadBad p a n then none else some ((s.host p).rdBytes a n)

/-- A host write: none when the port is lost (11 R639). -/
def State.hostWrite (s : State) (p a : Nat) (bs : List Byte) : Option State :=
  if s.portDown p then none else some (s.setHost p ((s.host p).wrBytes a bs))

/-- A host write whose failure nobody learns of: a completion or interrupt to a lost port (11 R426). -/
def State.hostPut (s : State) (p a : Nat) (bs : List Byte) : State :=
  match s.hostWrite p a bs with
  | some s' => s'
  | none => s

/-! ### Token buckets of the logical devices (11 R413) -/

/-- Page of a host port. -/
def hptPage (p : Nat) : Nat := 0x40 + p

/-- HPT_BW of a logical device. -/
def State.hptBw (s : State) (p l : Nat) : Word := s.cfgReg (pg (hptPage p) + 0x110 + 4 * l)

/-- Burst of a bucket in quarter bytes. -/
def State.hptBurst (s : State) (p l : Nat) : Nat := fld (s.hptBw p l) 16 16 * 4096

/-- The buckets of a port filled up to now, at the rates in force. -/
def State.fillTokens (s : State) (p : Nat) : State :=
  let v := s.port p
  let dt := s.clk - v.filledAt
  s.setPort p { v with
    filledAt := s.clk,
    tokens := (List.range 8).map (fun l => min (s.hptBurst p l) (v.tokens.getD l 0 + fld (s.hptBw p l) 0 16 * dt)) }

/-- The buckets of a port full. -/
def State.fullTokens (s : State) (p : Nat) : State :=
  s.setPort p { s.port p with filledAt := s.clk, tokens := (List.range 8).map (fun l => s.hptBurst p l) }

end Sys2Proof.Machine
end

