-- ==== Sys2Proof/Machine/Ops.lean ====
section
/-! DEFINITION. Shared operations over the tables: tenants, bindings, models, host extents (11 R421 to
R425), device parts and capacities (00 R1, 01 R25, R26, 06 R218), start-up phases (17 R605), host
accesses that carry out work of a tenant, and accepted commands. -/

namespace Sys2Proof.Machine

/-! ### Start-up (17 R605) -/

/-- The phase named has ended. -/
def State.reached (s : State) (p : Startup) : Bool :=
  decide (s.start ≠ .recovery) && decide (p.val < s.start.val)

/-- BAR0 answers (17 R605, R544). -/
def State.bar0On (s : State) : Bool := decide (s.start ≠ .verify)

/-- A register page answers a source (17 R586, R605, R544): nothing in VERIFY, pages 0x00, 0x01 and 0x70 in
recovery; a host reaches BAR0 only over a link that is up. -/
def State.pageOn (s : State) (src : Src) (page : Nat) : Bool :=
  s.bar0On
    && (decide (s.start ≠ .recovery) || decide (page = 0x00) || decide (page = 0x01) || decide (page = 0x70))
    && (match src with
      | .port p => !s.portDown p
      | .mctp => true)

/-- A route of 11 R419: MCTP, or the host that TEN_FM.SEL names. -/
def State.fmRoute (s : State) (src : Src) : Bool :=
  match src with
  | .mctp => true
  | .port p => decide (fld (s.reg (pg 0x6C + 0x104)) 0 2 = p + 1)

/-! ### Program records (02 R66 to R73) -/

/-- KIND of a record. -/
def recKind (ws : List Word) : Nat := fld (ws.getD 0 0) 28 4

/-- The embedded command of a record. -/
def recCmd (ws : List Word) : List Word := ws.drop 8

/-- Class of work of a record (02 R66); none for an opcode outside the table. -/
def recClass (ws : List Word) : Option Nat :=
  if recKind ws = 1 then some 0
  else
    let op := fld ((recCmd ws).getD 0 0) 0 8
    if op = 0x0A then some 1
    else if op = 0x0C ∨ op = 0x0D ∨ op = 0x0E ∨ op = 0x0F then some 2
    else if op = 0x07 then some 3
    else none

/-- AFTER of a record. -/
def recAfter (ws : List Word) : Nat := fld (ws.getD 0 0) 0 16

/-- NOT_BEFORE of a record, 10 ns units. -/
def recNotBefore (ws : List Word) : Nat := fld (ws.getD 1 0) 0 27

/-- Window of a class in 10 ns units after the boundary (02 R67). -/
def State.window (s : State) (c : Nat) : Nat × Nat :=
  let w := s.cfgReg (pg 0x03 + 0x130 + 4 * c)
  (s.stk.period * fld w 0 11 / 1024, s.stk.period * fld w 16 11 / 1024)

/-- Standing of a class window. -/
def State.winSt (s : State) (c : Nat) : WinSt := s.stk.win.getD c .before

/-- OK, LATE and MULTI are no error statuses (00 R18; 02 R69). -/
def Status.good (st : Status) : Bool := decide (st = .ok ∨ st = .late ∨ st = .multi)

/-- The AFTER record has reached its completion point without an error status (02 R69). -/
def afterOk (recs : List SRec) (r : SRec) : Bool :=
  decide (recAfter r.ws = 0xFFFF) ||
  (match recs.find? (fun (x : SRec) => decide (x.idx = recAfter r.ws)) with
    | some x => (match x.st with
        | .point _ _ => true
        | .final st => st.good
        | _ => false)
    | none => false)

/-- A record waits and is startable by 02 R69, the tests of 02 R55 and 07 R253, R254 aside. NOT_BEFORE counts from the boundary of
the target stroke only: for a later stroke the spec does not say (DESIGN CHOICE, log 146). -/
def State.mayStart (s : State) (x : Inst) (r : SRec) (c : Nat) : Bool :=
  x.active && decide (r.st = .waiting) && decide (recClass r.ws = some c) && !r.carried
    && decide (s.winSt c = .open_) && afterOk x.recs r
    && (decide (x.target < s.stk.stroke) || decide (s.stk.boundary + recNotBefore r.ws * 10 ≤ s.clk))

/-- What internal work needs (02 R77): the flash channels, the Prefix Search Array, the engines, the memories. -/
inductive Resource where | flash | psa | engines | memory
  deriving DecidableEq, Repr

/-- A record of the class waits for the resource (02 R66, R77): PREFETCH reads and DEMOTE writes flash, DELIVER and ATTEND resolve keys
and read pages of level T2 (07 R236), ATTEND needs the engines, and every class reads or writes T0 or T1. A record that has not started
has read neither its entry list nor its step, so it waits for every flash channel (DEDUCED, log 187). -/
def Resource.wantedBy (r : Resource) (c : Nat) : Bool :=
  match r with
  | .flash => true
  | .psa => decide (c = 1 ∨ c = 2)
  | .engines => decide (c = 2)
  | .memory => true

/-- No startable record waits for the resource (02 R77): internal work may start on it. -/
def State.slack (s : State) (q : Resource) : Bool :=
  !s.stk.insts.any (fun x => x.recs.any (fun r => (List.range 4).any (fun c => q.wantedBy c && s.mayStart x r c)))

/-! ### Tenant tables (11 R421, R422) -/

/-- A record of the tenant page; an empty one reads 0. -/
def State.record (s : State) (table idx : Nat) : List Word := sget s.ten.tbl [] (4096 * table + idx)

/-- A record, set; all zero words are an empty record. -/
def State.setRecord (s : State) (table idx : Nat) (r : List Word) : State :=
  { s with ten := { s.ten with
      tbl := sset s.ten.tbl [] (4096 * table + idx) (if r.all (fun w => decide (w = 0)) then [] else r) } }

/-- Bit `i` of record word `w`. -/
def rbit (r : List Word) (w i : Nat) : Bool := (r.getD w 0).getLsbD i

/-- Field of a record word. -/
def rfld (r : List Word) (w lo n : Nat) : Nat := fld (r.getD w 0) lo n

/-- The listed records of a table: index and words. -/
def State.records (s : State) (table : Nat) : List (Nat × List Word) :=
  (s.ten.tbl.filter (fun e => decide (e.1 / 4096 = table))).map (fun e => (e.1 % 4096, e.2))

/-- The valid record of a tenant ID (11 R422). -/
def State.tenantRec (s : State) (t : Nat) : Option (List Word) :=
  ((s.records 0).find? (fun e => rbit e.2 0 31 && decide (rfld e.2 0 0 16 = t))).map (·.2)

/-- The tenant may publish public entries (03 R106). -/
def State.publicGrant (s : State) (t : Nat) : Bool :=
  match s.tenantRec t with
  | some r => rbit r 0 17
  | none => false

/-- Quota of a tenant in a tier; 0 without one (06 R216). -/
def State.quota (s : State) (t tier : Nat) : Nat :=
  match s.tenantRec t with
  | some r => wd64 r (4 + 2 * tier)
  | none => 0

/-- PROOF_LIMIT of a tenant: 0 is the device limit (11 R422). -/
def State.proofLimit (s : State) (t : Nat) : Nat :=
  match s.tenantRec t with
  | some r => let l := rfld r 2 0 21; if l = 0 then 2 ^ 20 else l
  | none => 2 ^ 20

/-- The tenant of a partition key on the wire (11 R422). -/
def State.tenantOfPKey (s : State) (k : Nat) : Option Nat :=
  ((s.records 0).find? (fun e => rbit e.2 0 31 && decide (rfld e.2 1 0 16 = k))).map
    (fun e => rfld e.2 0 0 16)

/-- The partition key of a tenant. -/
def State.pkeyOf (s : State) (t : Nat) : Nat :=
  match s.tenantRec t with
  | some r => rfld r 1 0 16
  | none => 0

/-- The valid binding of queue set `q` of port `p`: tenant and COMPAT (11 R425, 00 R4). -/
def State.binding (s : State) (p q : Nat) : Option (Nat × Bool) :=
  let r := s.record 1 (64 * p + q)
  if rbit r 0 31 then some (rfld r 0 0 16, rbit r 0 30) else none

/-- The queue set's commands use the version 1 format: its mode is the binding record's COMPAT bit alone, VALID or not (00 R4; 11 R422). -/
def State.compatSet (s : State) (p q : Nat) : Bool := rbit (s.record 1 (64 * p + q)) 0 30

/-! ### Models (03 R86, R88) -/

/-- A model descriptor. -/
structure Model where
  id : Nat
  keyForm : Nat
  layers : Nat
  blockLen : Nat
  headDim : Nat
  heads : Nat
  fmt : Nat
  theta : Word
  ropeDims : Nat
  seed : Nat
  deriving DecidableEq, Repr

/-- The descriptor that a record holds (03 R88). -/
def modelOf (r : List Word) : Model :=
  { id := rfld r 0 0 16, keyForm := rfld r 0 16 2, layers := rfld r 1 16 16, blockLen := rfld r 1 0 9,
    headDim := rfld r 2 16 16, heads := rfld r 2 0 16, fmt := rfld r 3 0 8, theta := r.getD 4 0,
    ropeDims := rfld r 5 0 16, seed := wd64 r 6 }

/-- The valid descriptor of a model ID (03 R90). -/
def State.model (s : State) (m : Nat) : Option Model :=
  ((s.records 2).find? (fun e => rbit e.2 0 31 && decide (rfld e.2 0 0 16 = m))).map
    (fun e => modelOf e.2)

/-- Element bits of a KV_FORMAT (03 R86, R88). -/
def elemBits (fmt : Nat) : Nat :=
  if fmt = 0x04 then 4 else if fmt = 0x05 ∨ fmt = 0x06 then 16 else 8

/-- The format carries E8M0 scales. -/
def isMx (fmt : Nat) : Bool := decide (fmt = 0x03 ∨ fmt = 0x04)

/-- PAGE_SIZE (03 R86). -/
def Model.pageSize (m : Model) : Nat :=
  let e := m.blockLen * m.heads * m.headDim * 2
  roundUp (e * elemBits m.fmt / 8 + (if isMx m.fmt then e / 32 else 0)) 4096

/-! ### Device parts (00 R1, 01 R25, R26) -/

/-- Number of HBM4 stacks of the part (00 R1, R3): a failed stack does not change it. -/
def State.fusedStacks (s : State) : Nat := s.part.h.stacks

/-- Number of network I/O dies of the part (00 R1). -/
def State.fusedDies (s : State) : Nat := s.part.n.dies

/-! ### Host extents (11 R424) -/

/-- Host extent `i` is being revoked (11 R415). -/
def State.hextRevoking (s : State) (i : Nat) : Bool :=
  s.ten.revs.any (fun r => decide (r.kind = 1 ∧ r.index = i))

/-- A valid host extent of the tenant on the port, lost or not, grants the access to the 4 KiB of host memory at `4096 * g` (11 R422, R424). -/
def State.hextPage (s : State) (tenant p g : Nat) (write : Bool) : Bool :=
  (s.records 4).any (fun e =>
    let r := e.2
    rbit r 0 31 && !s.hextRevoking e.1 && (if write then rbit r 0 30 else rbit r 0 29)
      && decide (rfld r 0 16 1 = p % 2) && decide (rfld r 0 0 16 = tenant)
      && decide (wd64 r 1 ≤ 4096 * g) && decide (4096 * (g + 1) ≤ wd64 r 1 + wd64 r 3))

/-- Every TLP of a host access lies wholly in a valid host extent that grants it, no TLP is due, or no check is made (11 R424). A TLP
never crosses 4 KiB (PRESUMED, log 172), and base and size of an extent are multiples of 4 KiB: so each 4 KiB page touched is held to the
extents. -/
def State.hextOk (s : State) (tenant p a n : Nat) (write : Bool) : Bool :=
  !bit (s.reg (pg 0x6C + 0x100)) 0 || decide (n = 0) ||
  (List.range ((a % 4096 + n + 4095) / 4096)).all (fun k => s.hextPage tenant p (a / 4096 + k) write)

/-- A host read of a tenant's work: REVOKED, BUS_ERROR or the bytes. -/
def State.workRead (s : State) (tenant p a n : Nat) : Except Status (List Byte) :=
  if !s.hextOk tenant p a n false then .error .revoked
  else match s.hostRead p a n with
    | some bs => .ok bs
    | none => .error .busError

/-- A host write of a tenant's work (11 R424, R639). -/
def State.workWrite (s : State) (tenant p a : Nat) (bs : List Byte) : Except Status State :=
  if !s.hextOk tenant p a bs.length true then .error .revoked
  else match s.hostWrite p a bs with
    | some s' => .ok s'
    | none => .error .busError

/-! ### Accepted commands (12 R436) -/

/-- An accepted command by its number. -/
def State.live (s : State) (id : Nat) : Option Live := s.que.live.find? (fun l => decide (l.id = id))

/-- Opcode (12 R441). -/
def Live.op (l : Live) : Nat := fld (l.ws.getD 0 0) 0 8

/-- FLAGS word. -/
def Live.flags (l : Live) : Word := l.ws.getD 1 0

/-- A flag bit. -/
def Live.flag (l : Live) (i : Nat) : Bool := bit l.flags i

/-- Word `i` as a number. -/
def Live.w (l : Live) (i : Nat) : Nat := wd l.ws i

/-- Words `i` and `i + 1` as a number. -/
def Live.w64 (l : Live) (i : Nat) : Nat := wd64 l.ws i

/-- The port whose host memory the command's operands lie in (12 R442; 02 R66; 13 R497). A network
request and a command over MCTP have none of their own; port 0 stands. For a command accepted before its port was lost it is no port
that can be reached, also when the port has trained again (11 R426): the port plus 2. -/
def Live.port (l : Live) : Nat :=
  match l.src with
  | .queue p _ => p
  | .record p _ _ => p
  | .trigger p _ _ => p
  | .net _ _ => 0
  | .mctp => 0
  | .lost p _ => p + 2

/-- Host port `p` as a command reaches it: the host that its own queue set was lost with is out of reach (11 R426). -/
def Live.toPort (l : Live) (p : Nat) : Nat :=
  match l.src with
  | .lost p' _ => if p' = p then p + 2 else p
  | _ => p

/-- The command is a stroke-program record. -/
def Live.isRecord (l : Live) : Bool :=
  match l.src with
  | .record _ _ _ => true
  | _ => false

/-- A command marked running. -/
def State.setRunning (s : State) (id : Nat) : State :=
  { s with que := { s.que with
      live := updIf s.que.live (fun l => decide (l.id = id)) (fun l => { l with phase := .running }) } }

/-- A new accepted command; its number is the old `nextId`. -/
def State.accept (s : State) (src : Source) (tenant : Nat) (compat : Bool) (ws : List Word) (tag : Nat) :
    State :=
  { s with que := { s.que with
      live := s.que.live ++ [{ id := s.que.nextId, src := src, tenant := tenant, compat := compat, ws := ws,
                               tag := tag, at_ := s.clk, phase := .accepted }],
      nextId := s.que.nextId + 1 } }

/-- Words 4 to 15 and FLAGS hold only named bits: `flags` is the mask of FLAGS, `masks` those of words
4 to 15 (00 R13, 12 R442). A word that R442 names only for another form of the command (HANDLE without RENEW, VIEW's words without
VIEW, PLAN_ID without UNLOAD, INLINE_HASH without INLINE) counts as reserved (DEDUCED, log 151). -/
def Live.reservedOk (l : Live) (flags : Word) (masks : List Word) : Bool :=
  decide (l.flags &&& ~~~flags = 0) && decide ((l.ws.getD 0 0) &&& 0x7FFF0000 = 0)
    && (List.range 12).all (fun i => decide ((l.ws.getD (i + 4) 0) &&& ~~~(masks.getD i 0) = 0))

/-- What a meaning answers: always a next state. -/
abbrev Res := Host.Outcome State Fault Refusal

/-- The command with its number runs `f` on it while it is newly accepted with opcode `op`; otherwise
nothing happens. -/
def State.onNew (s : State) (id op : Nat) (f : Live → State → State) : State :=
  match s.live id with
  | none => s
  | some l => if l.op = op ∧ l.phase = .accepted ∧ l.compat = false then f l s else s

/-- As `onNew` for a command that runs already. -/
def State.onRunning (s : State) (id : Nat) (f : Live → State → State) : State :=
  match s.live id with
  | none => s
  | some l => if l.phase = .running then f l s else s

end Sys2Proof.Machine
end

