-- ==== Sys2Proof/Machine/Keys.lean ====
section
/-! DEFINITION. Block keys (03 R91 to R106): images, forms, matching, the key check, chain hashes, and
the reading of keys that a command names. -/

namespace Sys2Proof.Machine

/-- Bits of the HASH field by key form (03 R92). -/
def hashBits (kf : Nat) : Nat := if kf = 0 then 96 else if kf = 1 then 224 else 512

/-- Place of ADAPTER in the key; MODEL lies 16 and SCOPE 32 bits above (03 R91, R92). -/
def hdrLo (kf : Nat) : Nat := if kf = 0 then 96 else if kf = 1 then 240 else 528

/-- Bytes of a key image (03 R93). -/
def imageBytes (kf : Nat) : Nat := if kf = 0 then 24 else if kf = 1 then 40 else 72

/-- Bytes of the key itself: 18, 36 or 72 (04 R120). -/
def keyBytes (kf : Nat) : Nat := 18 * 2 ^ kf

/-- The key as a number (03 R91, R92). -/
def Key.num (k : Key) : Nat :=
  k.hash + 2 ^ hdrLo k.keyForm * (k.adapter + 2 ^ 16 * k.model + 2 ^ 32 * k.scope)

/-- The key that an image of the form spells: reserved bits and bytes above the key are 0 (03 R93). -/
def parseKey (kf n : Nat) : Option Key :=
  let k : Key := { scope := nfld n (hdrLo kf + 32) 16, model := nfld n (hdrLo kf + 16) 16,
                   adapter := nfld n (hdrLo kf) 16, keyForm := kf, hash := n % 2 ^ hashBits kf }
  if k.num = n then some k else none

/-- FORM of a command's PUBLIC and ADAPTER_ANY flags (03 R102, 04 R117). -/
def formOf (pub any : Bool) : Nat := 2 * b2n pub + b2n any

/-- The stored key of a form (12 R443). -/
def Key.stored (k : Key) (form tenant : Nat) : Key :=
  { k with scope := if 2 ≤ form then 0xFFFF else tenant,
           adapter := if form % 2 = 1 then 0 else k.adapter }

/-- The lookup key of a tenant (03 R103). -/
def Key.lookup (k : Key) (tenant : Nat) : Key := { k with scope := tenant }

/-- A lookup key matches a stored entry (03 R104). -/
def Key.matches (k e : Key) (form : Nat) : Bool :=
  decide (k.model = e.model ∧ k.hash = e.hash ∧ k.keyForm = e.keyForm)
    && (decide (2 ≤ form) || decide (k.scope = e.scope))
    && (decide (form % 2 = 1) || decide (k.adapter = e.adapter))

/-- Two keys are of one group (04, Groups). -/
def Key.group (k e : Key) : Bool :=
  decide (k.model = e.model ∧ k.hash = e.hash ∧ k.keyForm = e.keyForm)

/-- The key with the fields that the form clears at 0 (04 R118, R120). -/
def Key.masked (k : Key) (form : Nat) : Key :=
  { k with scope := if 2 ≤ form then 0 else k.scope, adapter := if form % 2 = 1 then 0 else k.adapter }

/-- KEYCHK (04 R120). -/
def keyChk (k : Key) (form : Nat) : Nat := crc16 (leBytes (keyBytes k.keyForm) (k.masked form).num)

/-- First bucket of a group (05 R160). -/
def Key.bucket (k : Key) : Nat := (k.hash % 2 ^ 24 ^^^ (k.model * 256)) % 2 ^ 24

/-- The key form among narrower ones whose MODEL field names a valid descriptor of that form: the
narrowest first. A MODEL found only under another width is BAD_COMMAND (03 R94), none NOTFOUND (03
R90). `img kf` is the image of that width. A key image that names no valid model is NOTFOUND whatever its ADAPTER: the spec
does not say whether ADAPTER 0xFFFF is looked at first (DESIGN CHOICE, log 152). -/
def State.keyOfImages (s : State) (img : Nat → Except Status Nat) : Except Status Key :=
  let rec go (kfs : List Nat) (known : Bool) : Except Status Key :=
    match kfs with
    | [] => .error (if known then .badCommand else .notFound)
    | kf :: rest =>
      match img kf with
      | .error e => .error e
      | .ok n =>
        match s.model (nfld n (hdrLo kf + 16) 16) with
        | none => go rest known
        | some m =>
          if m.keyForm = kf then
            match parseKey kf n with
            | none => .error .badCommand
            | some k => if k.adapter = 0xFFFF then .error .badCommand else .ok k
          else go rest true
  go [0, 1, 2] false

/-- The key image at a host address (03 R93, R94; 18 R638). -/
def State.readKey (s : State) (tenant p a : Nat) : Except Status Key :=
  s.keyOfImages (fun kf =>
    match s.workRead tenant p a (imageBytes kf) with
    | .ok bs => .ok (ofLe bs)
    | .error e => .error e)

/-- The key image in a 72-byte field (07 R232, 09 R310, 11 R408). -/
def State.fieldKey (s : State) (bs : List Byte) : Except Status Key :=
  s.keyOfImages (fun _ => .ok (ofLe (bs.take 72)))

/-! ### Chain hashes (03 R95) -/

/-- h_0 of a seed. -/
def chain0 (seed : Nat) : List Byte := shake256 (leBytes 8 seed) 64

/-- The next chain value: previous value, optional segment digest, token bytes (03 R95). -/
def chainNext (h : List Byte) (digest : Option (List Byte)) (tokens : List Byte) : List Byte :=
  let n := tokens.length / 4
  match digest with
  | none => shake256 (h ++ tokens ++ leBytes 4 n) 64
  | some d => shake256 (h ++ d ++ tokens ++ leBytes 4 (n + 2 ^ 31)) 64

/-- HASH field of a chain value (03 R93). -/
def hashField (kf : Nat) (h : List Byte) : Nat := ofLe h % 2 ^ hashBits kf

/-- Chain values of successive blocks of `blockLen` tokens: list of block token bytes. -/
def chainList (h : List Byte) : List (Option (List Byte) × List Byte) → List (List Byte)
  | [] => []
  | (d, t) :: rest => let h' := chainNext h d t; h' :: chainList h' rest

/-- Splits token bytes into blocks of `4 n` bytes; recursion on fuel. -/
def tokenBlocks : Nat → Nat → List Byte → List (List Byte)
  | 0, _, _ => []
  | k + 1, n, bs => bs.take (4 * n) :: tokenBlocks k n (bs.drop (4 * n))

/-! ### Directory slots (05 R158 to R162) -/

/-- A directory slot. -/
def State.slot (s : State) (i : Nat) : Slot := sget s.dir.slots Slot.free i

/-- A directory slot, set. -/
def State.setSlot (s : State) (i : Nat) (v : Slot) : State :=
  { s with dir := { s.dir with slots := sset s.dir.slots Slot.free i v } }

/-- A directory slot, changed. -/
def State.updSlot (s : State) (i : Nat) (f : Slot → Slot) : State := s.setSlot i (f (s.slot i))

/-- Resident: CURRENT or RETIRING (05 R161). -/
def Slot.resident (v : Slot) : Bool := decide (v.state = .current ∨ v.state = .retiring)

/-- Visible at a snapshot (05 R167). -/
def Slot.visible (v : Slot) (snap : Nat) : Bool :=
  decide (v.state = .current ∨ v.state = .retiring ∨ v.state = .ended) && decide (v.edition ≤ snap)
    && (decide (v.end_ = 0) || decide (snap < v.end_))

/-- Head slots of a key's group that meet `p`: index and slot, by index. Slots outside the window count too: after a reset that makes WINDOW
smaller, a recovered entry out there is kept and found (DESIGN CHOICE, log 178). -/
def State.groupSlots (s : State) (k : Key) (p : Slot → Bool) : List (Nat × Slot) :=
  s.dir.slots.filter (fun e => e.2.key.group k && p e.2
    && !(decide (e.2.state = .free)) && !(match e.2.state with | .ext _ => true | _ => false))

/-- The lowest FORM first (03 R105): best of matching slots, and whether more than one form
matched. -/
def bestForm (l : List (Nat × Slot)) : Option (Nat × Slot × Bool) :=
  match l with
  | [] => none
  | e :: r =>
    let b := r.foldl (fun b e => if e.2.form < b.2.form then e else b) e
    some (b.1, b.2, l.any (fun e => decide (e.2.form ≠ b.2.form)))

/-- Directory probe in the current state (05 R161). -/
def State.probe (s : State) (k : Key) : Option (Nat × Slot × Bool) :=
  bestForm (s.groupSlots k (fun v => v.resident && k.matches v.key v.form))

/-- Directory probe in the view of a snapshot (05 R161). -/
def State.probeView (s : State) (k : Key) (snap : Nat) : Option (Nat × Slot × Bool) :=
  bestForm (s.groupSlots k (fun v => v.visible snap && k.matches v.key v.form))

/-- The head slot of exactly this stored key and form that meets `p`. -/
def State.exact (s : State) (k : Key) (form : Nat) (p : Slot → Bool) : Option (Nat × Slot) :=
  (s.groupSlots k (fun v => decide (v.key = k ∧ v.form = form) && p v)).head?

/-- The CURRENT entry of a key and form. -/
def State.current (s : State) (k : Key) (form : Nat) : Option (Nat × Slot) :=
  s.exact k form (fun v => decide (v.state = .current))

/-- Slots of the CURRENT entries among some objects. -/
def State.currentSlots (s : State) (ks : List (Key × Nat)) : List Nat :=
  ks.filterMap (fun k => (s.current k.1 k.2).map (·.1))

/-- Slots of the window of a key in window order (05 R160, R162). -/
def State.windowSlots (s : State) (k : Key) : List Nat :=
  (List.range s.dir.window).flatMap (fun i =>
    let b := (k.bucket + i) % 2 ^ 24
    (List.range 4).map (fun j => 4 * b + j))

/-- A slot is free, counting the slots in `gone` as free. -/
def State.slotFree (s : State) (gone : List Nat) (i : Nat) : Bool :=
  decide ((s.slot i).state = .free) || gone.contains i

/-- A slot may be reused: 64 PSA cycles have passed since its PSA entry was invalidated (04 R133). -/
def State.slotCool (s : State) (i : Nat) : Bool := !s.dir.cool.any (fun e => decide (e.1 = i ∧ s.clk < e.2))

/-- First place of a window for a key whose slots meet `ok`: one slot, or two adjacent slots of one bucket (05 R162). -/
def State.placeIn (s : State) (k : Key) (ok : Nat → Bool) : Option Nat :=
  (s.windowSlots k).find? (fun i => ok i && (decide (k.keyForm = 0) || (decide (i % 4 < 3) && ok (i + 1))))

/-- First free place of a window for a key, whether or not it can be reused at once. -/
def State.freeIn (s : State) (k : Key) (gone : List Nat) : Option Nat := s.placeIn k (s.slotFree gone)

/-- First free place of a window for a key that can be taken now (04 R133; 05 R162). -/
def State.readyIn (s : State) (k : Key) : Option Nat := s.placeIn k (fun i => s.slotFree [] i && s.slotCool i)

/-- Writes a head slot and, for a wide key, its extension slot (05 R159). -/
def State.putHead (s : State) (i : Nat) (v : Slot) : State :=
  let s := s.setSlot i v
  if v.key.keyForm = 0 then s else s.setSlot (i + 1) { Slot.free with state := .ext i }

/-- Frees a head slot and its extension. -/
def State.freeHead (s : State) (i : Nat) : State :=
  let w := decide ((s.slot i).key.keyForm ≠ 0)
  let s := s.setSlot i Slot.free
  if w then s.setSlot (i + 1) Slot.free else s

/-- DIR_SEQ may reach the value: the last recorded mark is not passed (05 R166). Without flash there is no journal to
record a mark, and none holds DIR_SEQ back (log 134). -/
def State.seqOpen (s : State) (val : Nat) : Bool := decide (s.flm.units = 0) || decide (val ≤ s.flm.mark)

/-- DIR_SEQ: the highest value whose point has passed (05 R163), held at the last recorded mark (05 R166). -/
def State.dirSeq (s : State) : Nat :=
  let v := match s.dir.points with
    | [] => s.dir.seqNext - 1
    | p :: _ => p.val - 1
  if s.flm.units = 0 then v else min v s.flm.mark

/-- A point's value passes: with its effect done elsewhere, or abandoned. -/
def State.passPoint (s : State) (val : Nat) : State :=
  { s with dir := { s.dir with points := s.dir.points.filter (fun p => decide (p.val ≠ val)) } }

/-- Index of the end filter word of a group (05 R195). -/
def Key.filterIx (k : Key) : Nat := k.bucket % 2 ^ 18

/-- The end filter takes the larger of its word and END (05 R195). -/
def State.filterEnd (s : State) (k : Key) (e : Nat) : State :=
  { s with dir := { s.dir with
      filter := sset s.dir.filter 0 k.filterIx (max (sget s.dir.filter 0 k.filterIx) e) } }

end Sys2Proof.Machine
end

