-- ==== Sys2Proof/Machine/RasOps.lean ====
section
/-! DEFINITION. The RAS log (16 R570 to R576): one operation writes or merges a record, counts it, and makes
the CXL event records, AER messages and PLDM platform events of its class. -/

namespace Sys2Proof.Machine

/-- Page of the RAS block. -/
def rasPage : Nat := 0x79

/-- Stroke and offset of a record (16 R572): local time since reset while no stroke is running. -/
def State.rasTime (s : State) : Nat × Nat :=
  if s.stk.running then (s.stk.stroke, (s.clk - s.stk.boundary) / 10 % 2 ^ 27)
  else (0, (s.clk - s.resetAt) / 10 % 2 ^ 27)

/-- CORRECTED records of a page in its current second, this one included (16 R576): the state, and whether
the record is suppressed. -/
def State.storm (s : State) (page : Nat) : State × Bool :=
  let old := s.ras.storms.find? (fun x => decide (x.page = page ∧ s.clk < x.since + 1000000000))
  let x : Storm := match old with
    | some x => { x with count := x.count + 1 }
    | none => { page := page, since := s.clk, count := 1, raised := false }
  let past := decide (s.cfgFld (pg rasPage + 0x104) 0 16 < x.count)
  let rest := s.ras.storms.filter (fun y => decide (y.page ≠ page))
  let s := { s with ras := { s.ras with storms := rest ++ [{ x with raised := x.raised || past }] } }
  if past then
    let s := s.bump (pg rasPage + 0x190)
    (if x.raised then s else s.raise rasPage 2, true)
  else (s, false)

/-- CXL event record of a class on the ports in a CXL mode (16 R570): log 0 informational, 1 warning,
2 failure. -/
def State.cxlEvent (s : State) (cls seq : Nat) : State :=
  if !bit (s.cfgReg (pg rasPage + 0x100)) 0 ∨ 2 < cls then s
  else
    let one (s : State) (p : Nat) : State :=
      let v := s.port p
      if v.mode = .sld ∨ v.mode = .mld then
        s.setPort p { v with events := v.events ++ [{ log := cls, handle := v.nextHandle, seq := seq }],
                             nextHandle := v.nextHandle + 1 }
      else s
    one (one s 0) 1

/-- AER messages of a class 2 error on every port whose link is up (16 R570). -/
def State.aer (s : State) : State :=
  let one (s : State) (p : Nat) : State := if (s.port p).mode = .down then s else s.send (.aer p)
  one (one s 0) 1

/-- ERR_LOG0 to ERR_LOG3 of the record's page: written when a record for the page is written or merges (17 R587). -/
def State.errLog (s : State) (r : RasRec) : State :=
  let a := pg r.page
  (((s.setReg (a + 0x20) (w32 r.seq)).setReg (a + 0x24) (w32 (r.cls * 2 ^ 30 + r.cause * 2 ^ 8 + r.count))).setReg
    (a + 0x28) (w32 r.info)).setReg (a + 0x2C) (w32 (r.info / 2 ^ 32))

/-- A record is appended, or overwrites the oldest CORRECTED record of a full log, or is lost (16 R575). -/
def State.rasWrite (s : State) (r : RasRec) : State :=
  let room : Option (List RasRec) :=
    if s.ras.log.length < 1024 then some s.ras.log
    else match s.ras.log.find? (fun x => decide (x.cls = 0)) with
      | some x => some (s.ras.log.filter (fun y => decide (y.seq ≠ x.seq)))
      | none => none
  match room with
  | none => (s.bump (pg rasPage + 0x18C)).raise rasPage 3
  | some log =>
    let s := ({ s with ras := { s.ras with log := log ++ [r], next := s.ras.next + 1 } }).errLog r
    if r.cls = 1 then s.raise rasPage 0 else if r.cls = 2 then s.raise rasPage 1 else s

/-- A record that does not merge. -/
def State.rasNew (s : State) (page cause cls unit info : Nat) : State :=
  let (stroke, off) := s.rasTime
  let r : RasRec := { seq := s.ras.next % 2 ^ 32, cls := cls, page := page, cause := cause, count := 1,
                      stroke := stroke, offset := off, unit := unit, info := info, at_ := s.clk }
  let (s, gone) := if cls = 0 then s.storm page else (s, false)
  if gone then s
  else
    let s := (s.rasWrite r).cxlEvent cls r.seq
    let s := if cls = 2 then s.aer else s
    if cls ≠ 0 ∧ bit (s.cfgReg (pg rasPage + 0x100)) 1 then
      { s with ras := { s.ras with plat := s.ras.plat ++ [r] } }
    else s

/-- An occurrence of an error: merged into the newest record, or a new record (16 R572, R574), with what its
class reports (16 R570). -/
def State.rasRecord (s : State) (page cause cls unit info : Nat) : State :=
  let s := if cls < 3 then s.bump (pg rasPage + 0x180 + 4 * cls) else s
  match s.ras.log.getLast? with
  | some n =>
    if n.page = page ∧ n.cause = cause ∧ n.unit = unit ∧ s.clk < n.at_ + 1000000 then
      let r : RasRec := { n with count := min (n.count + 1) 255 }
      ({ s with ras := { s.ras with log := s.ras.log.dropLast ++ [r] } }).errLog r
    else s.rasNew page cause cls unit info
  | none => s.rasNew page cause cls unit info

end Sys2Proof.Machine
end

