-- ==== Sys2Proof/Machine/Journal.lean ====
section
/-! DEFINITION. The flash journal (10 R364, R365, R367): records and their images, and records appended to pages. The spec gives the
fields of a record's body and not their places: the model packs them from bit 0 in the order of the table, and a record's LEN is the least
that holds them (DESIGN CHOICE, log 86). -/

namespace Sys2Proof.Machine

/-- Page of the flash manager's common registers. -/
def flmPage : Nat := 0x38

/-! ### Page sets as records name them -/

/-- The default of an index without a page set: generation 0, which no handle carries (06 R202). -/
def PSet.none : PSet :=
  { gen := 0, tenant := 0, model := 0, object := false, pages := 0, pageSize := 0, alloc := 0,
    level := 0, t0 := false, t1 := false, t2 := false, rstate := .open_, lapseAt := Option.none, checks := [],
    bad := [] }

/-- Page set at an index. -/
def State.psetAt (s : State) (i : Nat) : PSet := sget s.tier.psets PSet.none i

/-- Index of a handle (06 R202). -/
def psIx (h : Nat) : Nat := h % 2 ^ 26

/-- Handle of an index with its generation (06 R202). -/
def psHandle (gen i : Nat) : Nat := gen * 2 ^ 26 + i

/-- TIERS bits (05 R158). -/
def PSet.tiers (v : PSet) : Nat := b2n v.t0 + 2 * b2n v.t1 + 4 * b2n v.t2

/-! ### Images of records (10 R365) -/

/-- Fields, each a width and a value, packed from bit 0. -/
def packFields : List (Nat × Nat) → Nat
  | [] => 0
  | (w, v) :: r => v % 2 ^ w + 2 ^ w * packFields r

/-- STATE of a directory slot as its image holds it (05 R158). -/
def SState.code : SState → Nat
  | .free => 0 | .pending => 1 | .current => 2 | .retiring => 3 | .ended => 4 | .ext _ => 5

/-- Image of a head slot (05 R158). -/
def Slot.fields (v : Slot) (tiers : Nat) : List (Nat × Nat) :=
  [(16, v.key.scope), (16, v.key.model), (16, v.key.adapter), (3, 0), (1, b2n v.held), (1, b2n v.poison), (1, b2n v.shared),
   (1, b2n v.hot), (1, b2n v.pin), (1, b2n v.tail), (2, v.key.keyForm), (2, v.form), (3, v.state.code), (96, v.key.hash),
   (64, v.edition), (64, v.end_), (32, v.children), (26, v.parent.getD (2 ^ 26 - 1)), (6, 0), (32, v.pset), (3, tiers),
   (13, 0), (16, v.publisher), (32, v.lastUse), (32, 0), (16, keyChk v.key v.form), (16, 0)]

/-- Image of the extension slot of a head slot (05 R159). -/
def Slot.extFields (v : Slot) (head : Nat) : List (Nat × Nat) :=
  [(26, head), (6, 0), (29, 0), (3, 5), (416, v.key.hash / 2 ^ 96), (32, 0)]

/-- Code of a superblock's state (10 R365): in the order of the table. -/
def SbState.code : SbState → Nat
  | .free => 0 | .openSlc => 1 | .openNative => 2 | .closed => 3 | .victim => 4 | .eraseBegin => 5 | .retired => 6 | .meta_ => 7

/-- Code of a die's state (10 R365): LIVE, FAILED, REBUILT. -/
def DState.code : DState → Nat
  | .live => 0 | .failed => 1 | .rebuilt => 2 | .absent => 3

/-- A location as a number: 38 bits, all ones for none (10 R365). -/
def locCode : Option Loc → Nat
  | some l => l.sb * 2 ^ 19 + l.slot
  | none => 2 ^ 38 - 1

/-- A footprint in a record: 16 superblocks, OVERFLOW, SEQ (10 R382). -/
def Foot.fields (x : Foot) : List (Nat × Nat) :=
  (List.range 16).map (fun i => (19, x.sbs.getD i (2 ^ 19 - 1))) ++ [(1, b2n x.overflow), (64, x.seq)]

/-- TYPE of a record (10 R365). -/
def JBody.type : JBody → Nat
  | .pad _ => 0x00 | .mapBroad .. => 0x01 | .mapStip .. => 0x02 | .unmap .. => 0x03 | .sbState .. => 0x04 | .psetCommit .. => 0x05
  | .psetRelease .. => 0x06 | .dirUpdate .. => 0x07 | .seqMark _ => 0x08 | .ckptBegin .. => 0x09 | .ckptEnd .. => 0x0A
  | .discardBegin .. => 0x0B | .discardEnd .. => 0x0C | .dieState .. => 0x0D

/-- Body of a record by the fields of 10 R365. -/
def JBody.fields : JBody → List (Nat × Nat)
  | .pad _ => []
  | .mapBroad u _ new old => [(30, u), (38, locCode (some new)), (38, locCode old)]
  | .mapStip a _ new old => [(34, a), (38, locCode (some new)), (38, locCode old)]
  | .unmap _ first count secure => [(34, first), (34, count), (1, b2n secure)]
  | .sbState sb st b erases =>
    [(19, sb), (3, st.code), (32, erases), (32, (b.blocks.map (fun x => 2 ^ x.1)).sum), (16, b.segs)]
      ++ (List.range 32).map (fun p => (13, ((b.blocks.find? (fun x => decide (x.1 = p))).map (·.2)).getD 0))
  | .psetCommit h v dir image first =>
    [(32, h)] ++ image.fields v.tiers ++ (if image.key.keyForm = 0 then [] else image.extFields dir)
      ++ [(34, first), (16, v.pages), (32, v.pageSize)] ++ v.checks.map (fun c => (64, c))
  | .psetRelease h dir secure => [(32, h), (26, dir), (1, b2n secure)]
  | .dirUpdate dir image tiers => [(26, dir)] ++ image.fields tiers
  | .seqMark v => [(64, v)]
  | .ckptBegin n area => [(32, n), (1, area)]
  | .ckptEnd n seq => [(32, n), (64, seq)]
  | .discardBegin _ tag feet => [(64, tag)] ++ feet.flatMap Foot.fields
  | .discardEnd _ tag => [(64, tag)]
  | .dieState die st => [(6, 32 * (die / 1024) + die % 32), (3, die / 32 % 32 / 4), (2, die / 32 % 4), (2, st.code)]

/-- LEN of a record in 16-byte units, its header included. -/
def JBody.len (b : JBody) : Nat :=
  match b with
  | .pad n => n
  | _ => 1 + ceilDiv' ((b.fields.map (·.1)).sum) 128

/-- A record with a value in its CRC field (10 R365). -/
def JRec.image (r : JRec) (crc : Nat) : List Byte :=
  leBytes 16 (packFields [(16, r.body.len), (8, 0), (8, r.body.type), (64, r.seq), (32, crc)])
    ++ leBytes (16 * (r.body.len - 1)) (packFields r.body.fields)

/-- A record as it is written: CRC is CRC-32C over the record with the CRC field taken as 0 (10 R365). -/
def JRec.bytes (r : JRec) : List Byte := r.image (crc32c (r.image 0))

/-- Units of a page of records. -/
def pageUnits (l : List JRec) : Nat := (l.map (fun r => r.body.len)).sum

/-- A journal page as it is programmed (10 R364). -/
def pageImage (l : List JRec) : List Byte := l.flatMap JRec.bytes

/-! ### Records appended -/

/-- The open page is closed for programming; a PAD record fills its unused tail (10 R364). -/
def Flm.jclose (f : Flm) : Flm :=
  if f.jopen = [] then f
  else
    let n := 1024 - pageUnits f.jopen
    let recs := if n = 0 then f.jopen else f.jopen ++ [{ seq := f.jseq, body := .pad n }]
    { f with jpages := f.jpages ++ [{ n := f.jpageN, recs := recs, ok0 := false, ok1 := false }], jpageN := f.jpageN + 1,
             jseq := if n = 0 then f.jseq else f.jseq + 1, jopen := [], jopenAt := none }

/-- The page that takes a record: the open one, or a new one where the record does not fit whole (10 R364). -/
def Flm.jroom (f : Flm) (b : JBody) : Flm := if 1024 < pageUnits f.jopen + b.len then f.jclose else f

/-- A record appended with the next SEQ (10 R365): whole in a page; a full page is closed. -/
def Flm.jput (f : Flm) (now : Nat) (b : JBody) : Flm :=
  let f := f.jroom b
  let f := { f with jopen := f.jopen ++ [{ seq := f.jseq, body := b }], jseq := f.jseq + 1,
                    jopenAt := some (f.jopenAt.getD now) }
  if 1024 ≤ pageUnits f.jopen then f.jclose else f

/-- The record belongs to a checkpoint, which a full journal lets through (10 R367). -/
def JBody.isCkpt : JBody → Bool
  | .ckptBegin .. => true
  | .ckptEnd .. => true
  | _ => false

/-- A record journaled: held back while the journal is full (10 R367). -/
def State.journal (s : State) (b : JBody) : State :=
  { s with flm := if s.flm.jfull && !b.isCkpt then { s.flm with jwait := s.flm.jwait ++ [b] }
                  else s.flm.jput s.clk b }

/-- Highest erase count of a superblock's blocks: what SB_STATE gives as its erase count (DESIGN CHOICE, log 86). -/
def Flm.sbCount (f : Flm) (n : Nat) : Nat :=
  ((sget f.sb Sb.free n).blocks.map (fun x => sget (sget f.die Die.absent (32 * (n / 8192) + x.1)).erases 0 x.2)).foldl max 0

/-- SB_STATE of a superblock journaled (10 R365). -/
def State.journalSb (s : State) (n : Nat) (st : SbState) : State :=
  s.journal (.sbState n st (sget s.flm.sb Sb.free n) (s.flm.sbCount n))

/-- The flash has been recovered: the journal is there to be written (17 R605). -/
def State.flashOn (s : State) : Bool := s.reached .flash || decide (0 < s.flm.units)

/-- A T2 copy's record in the journal, by page-set handle. -/
def State.copyOf (s : State) (h : Nat) : Option Copy := sget s.flm.copy none h

/-- DIR_UPDATE of a head slot whose page set has a T2 copy (10 R365, R366). -/
def State.dirUpdate (s : State) (i : Nat) : State :=
  if (s.copyOf (s.slot i).pset).isSome then s.journal (.dirUpdate i (s.slot i) (s.psetAt (psIx (s.slot i).pset)).tiers) else s

/-- A SECURE DISCARD is destroying a page set (10 R381). -/
def State.secured (s : State) (h : Nat) : Bool := s.flm.discards.any (fun d => d.secure && d.psets.contains h)

/-- The next sequence mark is journaled once values come within half a step of the last one asked for, a multiple of
2^28 (05 R166; how early is the model's choice, log 134). -/
def State.askMark (s : State) : State :=
  let v := s.dir.seqNext + 2 ^ 27
  if v ≤ s.dir.mark then s
  else
    let m := (v / 2 ^ 28 + 1) * 2 ^ 28
    ({ s with dir := { s.dir with mark := m } }).journal (.seqMark m)

/-- The next value of the sequence is taken by nothing that waits: its point passes in this step. -/
def State.takeVal (s : State) : State := State.askMark { s with dir := { s.dir with seqNext := s.dir.seqNext + 1 } }

/-- A point scheduled with the next value of the sequence (05 R163). -/
def State.schedule (s : State) (k : PointKind) : State :=
  State.takeVal { s with dir := { s.dir with points := s.dir.points ++ [{ val := s.dir.seqNext, kind := k }] } }

/-- An end point can be scheduled and pass at once: no lower value is outstanding, and the mark allows it (05 R163, R166). -/
def State.endReady (s : State) : Bool := decide (s.dir.points = []) && s.seqOpen s.dir.seqNext

end Sys2Proof.Machine
end

