-- ==== Sys2Proof/Machine/PsaOps.lean ====
section
/-! DEFINITION. The Prefix Search Array's operations (04): searching, holding and withdrawing groups,
insertion within a segment, removal. A row update (04 R131) is one step of the model: searches see
the row before it or after it. -/

namespace Sys2Proof.Machine

/-- Stack of a 4 KiB unit of an area that is interleaved across all stacks (16 R579). -/
def State.interleaved (s : State) (base off : Nat) : Nat := (base + off) / 4096 % s.fusedStacks

/-- Stack of the image words of a PSA segment: 8 bytes for each of 64 rows (04 R138). -/
def State.imageStack (s : State) (b seg : Nat) : Nat := s.interleaved Config.psaImageBase.toNat (b * 2 ^ 21 + seg * 512)

/-- A bank. -/
def State.bank (s : State) (b : Nat) : Bank := sget s.psa.bank Bank.reset b

/-- A bank, set. -/
def State.setBank (s : State) (b : Nat) (v : Bank) : State :=
  { s with psa := { s.psa with bank := sset s.psa.bank Bank.reset b v } }

/-- A bank, changed. -/
def State.updBank (s : State) (b : Nat) (f : Bank → Bank) : State := s.setBank b (f (s.bank b))

/-- Entry slots per segment (04 R115). -/
def segSlots (width : Nat) : Nat := 64 / 2 ^ width

/-- Entry slots per bank. -/
def bankSlots (width : Nat) : Nat := 2 ^ 18 / 2 ^ width

/-- Largest group (04 R115). -/
def largestGroup (width : Nat) : Nat := segSlots width - 1

/-- Free entry slots of a bank. -/
def Bank.free (b : Bank) : Nat := bankSlots b.width - b.rows.length

/-- Free entry slots of a segment. -/
def Bank.segFree (b : Bank) (seg : Nat) : Nat :=
  segSlots b.width - (b.rows.filter (fun e => decide (e.1 / segSlots b.width = seg))).length

/-- The segment with the most free slots, lowest number on ties (04 R135): the first segment without
an entry, or else the best of the others. -/
def Bank.bestSeg (b : Bank) : Nat :=
  let used := b.rows.map (fun e => e.1 / segSlots b.width)
  let n := bankSlots b.width / segSlots b.width
  match (List.range (min n (used.length + 1))).find? (fun g => !used.contains g) with
  | some g => g
  | none => used.foldl (fun best g =>
      if b.segFree best < b.segFree g ∨ (b.segFree g = b.segFree best ∧ g < best) then g else best) 0

/-- Active banks of a width, most free slots first, lowest number on ties (04 R135). -/
def State.banksFor (s : State) (width : Nat) : List Nat :=
  let bs := (List.range 16).filter (fun b => decide ((s.bank b).state = .active ∧ (s.bank b).width = width))
  isort (fun a b => decide ((s.bank b).free ≤ (s.bank a).free)) bs

/-- Care bits of a form over a key of `w` units, as a mask (04 R118). -/
def careMask (kf form : Nat) : Nat :=
  let full := 2 ^ (144 * 2 ^ kf) - 1
  let clr := (if 2 ≤ form then 0xFFFF * 2 ^ (hdrLo kf + 32) else 0)
    + (if form % 2 = 1 then 0xFFFF * 2 ^ hdrLo kf else 0)
  full - clr

/-- The row of an entry as one of its group with a FORM (04 R114, R117, R118, R120). -/
def rowAs (i form : Nat) (v : Slot) : Row :=
  { data := v.key.num, care := careMask v.key.keyForm form, form := form, edition := v.edition,
    chk := keyChk v.key form, dir := i, err := .ok }

/-- The row of an entry. -/
def rowOf (i : Nat) (v : Slot) : Row := rowAs i v.form v

/-- A stand-in for an absent row: never stored. -/
def Row.none : Row := { data := 0, care := 0, form := 4, edition := 0, chk := 0, dir := 0, err := .ok }

/-- Image word of a unit of an entry (04 R138): STATE 1 for the head, 2 for a further unit. -/
def imageWord (width u : Nat) (r : Row) : Nat :=
  (if u = 0 then 1 else 2) * 2 ^ 62 + r.form * 2 ^ 60 + width * 2 ^ 58 + r.chk * 2 ^ 32 + r.dir

/-- Writes an entry and the image words of its rows (04 R131, R139). -/
def Bank.put (b : Bank) (j : Nat) (r : Row) : Bank :=
  let w := 2 ^ b.width
  { b with rows := sset b.rows Row.none j r,
           image := (List.range w).foldl (fun m u => sset m 0 (j * w + u) (imageWord b.width u r)) b.image,
           imgBad := b.imgBad.filter (fun x => decide (x / w ≠ j)) }

/-- Empties entry slots: their rows are invalid and their image words free (04 R139). -/
def Bank.drop (b : Bank) (js : List Nat) : Bank :=
  { b with rows := b.rows.filter (fun e => !js.contains e.1),
           image := b.image.filter (fun e => !js.contains (e.1 / 2 ^ b.width)),
           imgBad := b.imgBad.filter (fun x => !js.contains (x / 2 ^ b.width)) }

/-- Entry slots of the entries named by directory index. -/
def Bank.slotsOf (b : Bank) (dirs : List Nat) : List Nat :=
  (b.rows.filter (fun e => dirs.contains e.2.dir)).map (·.1)

/-- Removes the entries named by directory index, with their image words. -/
def Bank.remove (b : Bank) (dirs : List Nat) : Bank := b.drop (b.slotsOf dirs)

/-- Lowest free slot of a segment at or above `p`. -/
def Bank.freeAbove (b : Bank) (seg p : Nat) : Option Nat :=
  ((List.range (segSlots b.width)).map (fun i => seg * segSlots b.width + i)).find?
    (fun j => decide (p ≤ j) && !(b.rows.any (fun e => decide (e.1 = j))))

/-- Highest free slot of a segment below `p`. -/
def Bank.freeBelow (b : Bank) (seg p : Nat) : Option Nat :=
  (((List.range (segSlots b.width)).map (fun i => seg * segSlots b.width + i)).reverse).find?
    (fun j => decide (j < p) && !(b.rows.any (fun e => decide (e.1 = j))))

/-- Words of the slots from `p` up to below `f`, `w` words a slot, written anew one slot up (04 R131, R135). -/
def shiftUp {α : Type} (w : Nat) (new : α → α) (l : Sparse α) (p f : Nat) : Sparse α :=
  l.map (fun e => if p * w ≤ e.1 ∧ e.1 < f * w then (e.1 + w, new e.2) else e)

/-- Words of the slots above `f` and below `p`, `w` words a slot, written anew one slot down (04 R131, R135). -/
def shiftDown {α : Type} (w : Nat) (new : α → α) (l : Sparse α) (f p : Nat) : Sparse α :=
  l.map (fun e => if (f + 1) * w ≤ e.1 ∧ e.1 < p * w then (e.1 - w, new e.2) else e)

/-- A row with its result word written anew (04 R131, R144). -/
def Row.fresh (r : Row) : Row := { r with err := .ok }

/-- Entries and image words of the slots from `p` up to below `f` move one slot up (04 R135). A copy writes its
image words anew, and the slots shifted over have readable ones. -/
def Bank.up (b : Bank) (p f : Nat) : Bank :=
  let w := 2 ^ b.width
  { b with rows := shiftUp 1 Row.fresh b.rows p f, image := shiftUp w id b.image p f,
           imgBad := b.imgBad.filter (fun x => !(decide (p ≤ x / w) && decide (x / w ≤ f))) }

/-- Entries and image words of the slots above `f` and below `p` move one slot down (04 R135). -/
def Bank.down (b : Bank) (f p : Nat) : Bank :=
  let w := 2 ^ b.width
  { b with rows := shiftDown 1 Row.fresh b.rows f p, image := shiftDown w id b.image f p,
           imgBad := b.imgBad.filter (fun x => !(decide (f ≤ x / w) && decide (x / w < p))) }

/-- The resident entries of a key's group, ascending FORM (04 R128). -/
def State.groupEntries (s : State) (k : Key) : List (Nat × Slot) :=
  isort (fun a b => decide (a.2.form ≤ b.2.form)) (s.groupSlots k Slot.resident)

/-- The bank that holds rows of any of the directory indices. -/
def State.bankOf (s : State) (dirs : List Nat) : Option Nat :=
  (List.range 16).find? (fun b =>
    decide ((s.bank b).state ≠ .failed) && (s.bank b).rows.any (fun e => dirs.contains e.2.dir))

/-- A draining bank without entries is EMPTY (04 R116). -/
def State.drainEnd (s : State) (b : Nat) : State :=
  if (s.bank b).state = .draining ∧ (s.bank b).rows = [] then
    (s.updBank b (fun x => { x with state := .empty, image := [], imgBad := [] })).raise (0x08 + b) 1
  else s

/-- Slots of a head: one, or two for a wide key (05 R159). -/
def headSlots (i : Nat) (v : Slot) : List Nat := if v.key.keyForm = 0 then [i] else [i, i + 1]

/-- The slots of an entry that leaves the PSA are not reused for 64 PSA cycles after the invalidation, 92 ns rounded up (04 R133). -/
def State.coolSlots (s : State) (i : Nat) (v : Slot) : State :=
  { s with dir := { s.dir with
      cool := s.dir.cool.filter (fun e => decide (s.clk < e.2)) ++ (headSlots i v).map (fun j => (j, s.clk + 92)) } }

/-- Entries are invalidated and leave a bank, which may have been the last ones of one that drains (04 R116, R128, R133). -/
def State.leaveBank (s : State) (b : Nat) (dirs : List Nat) : State :=
  let gone := ((s.bank b).rows.filter (fun e => dirs.contains e.2.dir)).map (fun e => e.2.dir)
  if gone = [] then s else gone.foldl (fun s i => s.coolSlots i (s.slot i)) ((s.updBank b (·.remove dirs)).drainEnd b)

/-- HELD of every entry of the group (05 R158). -/
def State.setHeld (s : State) (k : Key) (h : Bool) : State :=
  (s.groupSlots k Slot.resident).foldl (fun s e => s.updSlot e.1 (fun v => { v with held := h })) s

/-- The group leaves the PSA: its rows are removed from every bank (04 R128, R130). -/
def State.unhold (s : State) (k : Key) : State :=
  let dirs := (s.groupSlots k (fun _ => true)).map (·.1)
  ((List.range 16).foldl (fun s b => s.leaveBank b dirs) s).setHeld k false

/-- The group is held (04 R125). -/
def State.isHeld (s : State) (k : Key) : Bool :=
  (s.groupSlots k Slot.resident).any (fun e => e.2.held)

/-- Puts entries at the lowest free slots of a segment, in order (04 R128). -/
def Bank.putAll (b : Bank) (seg : Nat) : List (Nat × Slot) → Bank
  | [] => b
  | (i, v) :: r =>
    match b.freeAbove seg 0 with
    | none => b
    | some j => (b.put j (rowOf i v)).putAll seg r

/-- The first bank and segment with `n` free slots, by the rules of 04 R135, from banks in order. Where the bank with the
most free slots has no such segment the next bank is looked at, as R129 and R641 ask, though R135's pseudocode looks at
that one bank only (DEDUCED, log 137). -/
def State.segWith (s : State) (banks : List Nat) (n : Nat) : Option (Nat × Nat) :=
  (banks.find? (fun b => decide (n ≤ (s.bank b).segFree (s.bank b).bestSeg))).map
    (fun b => (b, (s.bank b).bestSeg))

/-- A group becomes held (04 R126, R130, R641) in one of the banks: counted in PSA_WITHDRAWN when it is
too large, in PSA_NOROOM when no segment has room. -/
def State.holdIn (s : State) (k : Key) (banks : List Nat) : State :=
  let es := s.groupEntries k
  if largestGroup k.keyForm < es.length then s.bump (pg 0x07 + 0x19C)
  else match s.segWith banks (es.length + 1) with
    | none => s.count 0x07 0x198 2
    | some (b, seg) => (s.updBank b (fun v => v.putAll seg es)).setHeld k true

/-- A group becomes held under 04 R126. -/
def State.hold (s : State) (k : Key) : State := s.holdIn k (s.banksFor k.keyForm)

/-- Some resident entry of the group carries HOT or SHARED (04 R126). -/
def State.groupHot (s : State) (k : Key) : Bool :=
  (s.groupSlots k Slot.resident).any (fun e => e.2.hot || e.2.shared)

/-- A held group moves from a bank to a segment with `n` free slots of one of the banks; without one it is withdrawn and
counted in PSA_NOROOM (04 R136, R641). Answers the state and the bank and segment. -/
def State.moveGroup (s : State) (k : Key) (es : List (Nat × Slot)) (own : Nat) (banks : List Nat) (n : Nat) :
    State × Option (Nat × Nat) :=
  match s.segWith banks n with
  | none => ((s.unhold k).count 0x07 0x198 2, none)
  | some (b, seg) =>
    let s := s.updBank own (·.remove (es.map (·.1)))
    ((s.updBank b (fun v => v.putAll seg es)).drainEnd own, some (b, seg))

/-- relocate(g, n): own bank first, then the other active banks of the width (04 R136). -/
def State.relocate (s : State) (k : Key) (es : List (Nat × Slot)) (own n : Nat) :
    State × Option (Nat × Nat) :=
  s.moveGroup k es own (own :: (s.banksFor k.keyForm).filter (fun b => decide (b ≠ own))) n

/-- Slot p of 04 R135's insertion: behind the last row of the group with a FORM no higher, or at its first row. -/
def Bank.insertSlot (b : Bank) (seg : Nat) (group : List Nat) (form : Nat) : Nat :=
  let g := b.rows.filter (fun e => group.contains e.2.dir)
  match (g.filter (fun e => decide (e.2.form ≤ form))).getLast? with
  | some e => e.1 + 1
  | none => (g.head?.map (·.1)).getD (seg * segSlots b.width)

/-- Slots whose entries an insertion at `p` moves (04 R135). -/
def Bank.moved (b : Bank) (seg p : Nat) : List Nat :=
  match b.freeAbove seg p, b.freeBelow seg p with
  | some f, _ => (List.range (f - p)).map (fun k => p + k)
  | none, some f => (List.range (p - (f + 1))).map (fun k => f + 1 + k)
  | none, none => []

/-- Insertion of entry `i` in a segment of its group, keeping ascending FORM order (04 R127, R135). -/
def Bank.insertAt (b : Bank) (seg : Nat) (group : List Nat) (i : Nat) (v : Slot) : Bank :=
  let p := b.insertSlot seg group v.form
  match b.freeAbove seg p with
  | some f =>
    (b.up p f).put p (rowOf i v)
  | none =>
    match b.freeBelow seg p with
    | some f =>
      (b.down f p).put (p - 1) (rowOf i v)
    | none => b

/-- An entry is written anew in place, units, result word and image, with its new edition (04 R131, R139; 05 R173). -/
def State.psaEdition (s : State) (i edition : Nat) : State :=
  let r := rowOf i { s.slot i with edition := edition }
  (List.range 16).foldl (fun s b => ((s.bank b).slotsOf [i]).foldl (fun s j => s.updBank b (fun v => v.put j r)) s) s

/-- An entry leaves the PSA at its end point; a group left without HOT or SHARED stops being held
(04 R126, R133). -/
def State.psaRemove (s : State) (i : Nat) (k : Key) : State :=
  let s := (List.range 16).foldl (fun s b => s.leaveBank b [i]) s
  if s.isHeld k && !s.groupHot k then s.unhold k else s

/-! ### Searching (04 R119 to R121) -/

/-- An entry matches a search key (04 R119). -/
def Row.matches (r : Row) (n : Nat) : Bool := decide ((r.data ^^^ n) &&& r.care = 0)

/-- Every matching entry in global address order: bank, slot, row. -/
def State.psaMatches (s : State) (k : Key) : List (Nat × Nat × Row) :=
  (List.range 16).flatMap (fun b =>
    if (s.bank b).state = .active ∧ (s.bank b).width = k.keyForm then
      ((s.bank b).rows.filter (fun e => e.2.matches k.num)).map (fun e => (b, e.1, e.2))
    else [])

/-- A bank fails (04 R148): it takes part in no search; its groups are no longer held. The INFO of its RAS
record names a failure cause whose code the spec does not give: a free value. -/
def State.bankFail (s : State) (b : Nat) : State :=
  if (s.bank b).state = .failed then s
  else
    let s := ((s.bank b).rows.map (fun e => e.2.dir)).foldl
      (fun s i => s.updSlot i (fun v => { v with held := false })) s
    let s := s.updBank b (fun x => { x with state := .failed })
    let s := (s.raise 0x07 4).raise (0x08 + b) 2
    let (f, s) := s.fresh
    s.rasRecord (0x08 + b) 0x0A 2 b (Config.freeNat f)

/-- Global address of an entry slot of a bank (04 R113). -/
def State.rowAddr (s : State) (b j : Nat) : Nat := b * 2 ^ 18 + j * 2 ^ (s.bank b).width

/-- Image word of a physical row. -/
def Bank.imgWord (b : Bank) (r : Nat) : Nat := sget b.image 0 r

/-- A read of a bank's image at a segment is uncorrectable (04 R143): every group of the segment leaves the PSA, the
segment's image words are free, and the T1 read is logged (16 R573). -/
def State.withdrawSeg (s : State) (b seg : Nat) : State :=
  let v := s.bank b
  let rows := v.rows.filter (fun e => decide (e.1 / segSlots v.width = seg))
  let s := rows.foldl (fun s e => if (s.slot e.2.dir).state = .free then s else s.unhold (s.slot e.2.dir).key) s
  let s := (s.updBank b (fun x => { x.drop (rows.map (·.1)) with
    image := x.image.filter (fun e => decide (e.1 / 64 ≠ seg)),
    imgBad := x.imgBad.filter (fun r => decide (r / 64 ≠ seg)) })).drainEnd b
  let k := s.imageStack b seg
  let s := s.rasRecord (0x08 + b) 0x04 1 k (Config.psaImageBase.toNat + b * 2 ^ 21 + seg * 512)
  { s with hlt := { s.hlt with ues := s.hlt.ues.filter (fun e => decide ((e.1, e.2.1) ≠ (k, 2 ^ 65 + b * 2 ^ 12 + seg)))
                                        ++ [(k, 2 ^ 65 + b * 2 ^ 12 + seg, s.clk)] } }

/-- Rewrites an entry from the key of its directory entry, the FORM of its image and the edition of the directory entry,
or empties a slot that should be free (04 R141): its image is not a head's, or its directory entry is not resident. The
repair is counted, logged, and may fail the bank (04 R148). -/
def State.psaRepair (s : State) (b j : Nat) : State :=
  let v := s.bank b
  let m := v.imgWord (j * 2 ^ v.width)
  let i := m % 2 ^ 26
  if v.imgBad.any (fun r => decide (r / 2 ^ v.width = j)) then s.withdrawSeg b (j / segSlots v.width)
  else
    let s :=
      if m / 2 ^ 62 = 1 ∧ (s.slot i).resident then s.setBank b (v.put j (rowAs i (m / 2 ^ 60 % 4) (s.slot i)))
      else (s.setBank b (v.drop [j])).drainEnd b
    let s := ((s.updBank b (fun x => { x with passRepairs := x.passRepairs + 1 })).bump (pg (0x08 + b) + 0x118)).raise
      (0x08 + b) 0
    let s := s.rasRecord (0x08 + b) 0x05 0 b (s.rowAddr b j)
    if s.cfgFld (pg (0x08 + b) + 0x11C) 0 16 < (s.bank b).passRepairs then s.bankFail b else s

/-- A result word is read: one wrong bit is corrected and counted, more are logged (04 R144; 16 R573). -/
def State.wordRead (s : State) (b j : Nat) (r : Row) : State :=
  match r.err with
  | .ok => s
  | .single => s.rasRecord (0x08 + b) 0x01 0 b (s.rowAddr b j)
  | .double => s.rasRecord (0x08 + b) 0x02 1 b (s.rowAddr b j)

/-- The entries that a move copies are read first: a wrong bit of a result word is corrected and counted, and an entry whose word cannot be
read is repaired (04 R141, R144). -/
def State.moveReads (s : State) (b : Nat) (js : List Nat) : State :=
  js.foldl (fun s j => match (s.bank b).rows.find? (fun e => decide (e.1 = j)) with
    | some (_, r) => if r.err = .double then (s.wordRead b j r).psaRepair b j else s.wordRead b j r
    | none => s) s

/-- Entry `i` joins its group in a segment of a bank (04 R135), unless a repair on the way has failed the bank or withdrawn the group. -/
def State.insertIn (s : State) (b seg : Nat) (dirs : List Nat) (i : Nat) (v : Slot) : State :=
  let s := s.moveReads b ((s.bank b).moved seg ((s.bank b).insertSlot seg dirs v.form))
  if (s.bank b).state = .failed ∨ !(s.bank b).rows.any (fun e => dirs.contains e.2.dir) then s
  else (s.updBank b (fun x => x.insertAt seg dirs i v)).updSlot i (fun x => { x with held := true })

/-- Insertion of a new entry into a held group (04 R135): withdrawal when the group grows beyond the
largest size, relocation when its segment has fewer than two free slots. -/
def State.insertHeld (s : State) (i : Nat) (v : Slot) : State :=
  let es := (s.groupEntries v.key).filter (fun e => decide (e.1 ≠ i))
  if largestGroup v.key.keyForm < es.length + 1 then
    (s.unhold v.key).bump (pg 0x07 + 0x19C)
  else
    let dirs := es.map (·.1)
    match s.bankOf dirs with
    | none => s
    | some b =>
      let seg := (((s.bank b).rows.find? (fun e => dirs.contains e.2.dir)).map
        (fun e => e.1 / segSlots (s.bank b).width)).getD 0
      if (s.bank b).segFree seg < 2 then
        match s.relocate v.key es b (es.length + 2) with
        | (s, none) => s
        | (s, some (b, seg)) => s.insertIn b seg dirs i v
      else s.insertIn b seg dirs i v

/-- One search (04 R121): the first match, with its multiple-form flag, or none. A failed key check and a result word
that cannot be read are a miss, counted, and the entry is repaired (04 R141, R144). -/
def State.psaSearch (s : State) (k : Key) : State × Option (Row × Bool) :=
  let s := s.bump64 (pg 0x07 + 0x180) 1
  match s.psaMatches k with
  | [] => (s, none)
  | (b, j, r) :: rest =>
    let s := s.wordRead b j r
    if r.err = .double ∨ keyChk k r.form ≠ r.chk then ((s.count 0x07 0x194 1).psaRepair b j, none)
    else
      let multi := rest.any (fun e => decide (e.2.2.form ≠ r.form))
      let s := s.bump64 (pg 0x07 + 0x188) 1
      ((if multi then s.bump (pg 0x07 + 0x190) else s), some (r, multi))

/-- One probe of LOOKUP in the current state: PSA, then the directory (03 R109): directory index and
whether more than one form matched. -/
def State.lookProbe (s : State) (k : Key) : State × Option (Nat × Bool) :=
  match s.psaSearch k with
  | (s, some (r, m)) => (s, some (r.dir, m))
  | (s, none) => (s, (s.probe k).map (fun x => (x.1, x.2.2)))

/-- One probe in a proof's view (05 R196). Where a PSA hit answers, MULTI counts every form that the PSA holds, those
committed after the proof's snapshot too: the spec does not say whether they count (DESIGN CHOICE, log 138). -/
def State.lookProbeView (s : State) (k : Key) (snap : Nat) : State × Option (Nat × Bool) :=
  match s.psaSearch k with
  | (s, some (r, m)) =>
    if r.edition ≤ snap ∧ sget s.dir.filter 0 k.filterIx ≤ snap then (s, some (r.dir, m))
    else (s, (s.probeView k snap).map (fun x => (x.1, x.2.2)))
  | (s, none) => (s, (s.probeView k snap).map (fun x => (x.1, x.2.2)))

end Sys2Proof.Machine
end

