-- ==== Sys2Proof/Machine/TierOps.lean ====
section
/-! DEFINITION. The tier manager's operations (06): page sets, charges, capacities, making room, page
bytes, the T1 cache, and the end of entries with reclamation (05 R177 to R189). -/

namespace Sys2Proof.Machine

/-- Page set at an index, set. -/
def State.setPset (s : State) (i : Nat) (v : PSet) : State :=
  { s with tier := { s.tier with psets := sset s.tier.psets PSet.none i v } }

/-- Page set at an index, changed. -/
def State.updPset (s : State) (i : Nat) (f : PSet → PSet) : State := s.setPset i (f (s.psetAt i))

/-- The page set that a handle names: generation and index agree (06 R202). -/
def State.psetOf (s : State) (h : Nat) : Option PSet :=
  let v := s.psetAt (psIx h)
  if v.gen ≠ 0 ∧ v.gen = h / 2 ^ 26 then some v else none

/-- Bytes of a page set in T0 or T1 (06 R217). -/
def PSet.bytes (v : PSet) : Nat := v.pages * v.pageSize

/-- Bytes of a copy in T2: every page rounded up to 16 KiB (06 R217). -/
def PSet.t2bytes (v : PSet) : Nat := v.pages * roundUp v.pageSize 16384

/-- Charge of one copy in a tier. -/
def PSet.charge (v : PSet) (t : Nat) : Nat := if t = 2 then v.t2bytes else v.bytes

/-- The page set has a complete committed copy (or its reservation's pages) in a tier. -/
def PSet.has (v : PSet) (t : Nat) : Bool := if t = 0 then v.t0 else if t = 1 then v.t1 else v.t2

/-- A copy present or absent in a tier. -/
def PSet.setHas (v : PSet) (t : Nat) (b : Bool) : PSet :=
  if t = 0 then { v with t0 := b } else if t = 1 then { v with t1 := b } else { v with t2 := b }

/-- Target tier of TIER_PREF: AUTO is T1 (06 R206). -/
def prefTier (alloc : Nat) : Nat := let p := alloc % 4; if p = 3 then 1 else p

/-- The move in progress of a page set (06 R212). -/
def State.moveOf (s : State) (i : Nat) : Option Move := s.tier.moves.find? (fun m => decide (m.pset = i ∧ m.gone = false))

/-- Charge of a page set in a tier: its copy there, and the copy a move is writing (06 R217). -/
def State.psetCharge (s : State) (i : Nat) (v : PSet) (t : Nat) : Nat :=
  if v.has t then v.charge t
  else match s.moveOf i with
    | some m => if m.target = t ∧ m.releasing = false then v.charge t else 0
    | none => 0

/-- A tenant's charge in a tier (06 R217). -/
def State.tenantCharge (s : State) (tenant t : Nat) : Nat :=
  (s.tier.psets.map (fun e => if e.2.tenant = tenant then s.psetCharge e.1 e.2 t else 0)).sum

/-- Every charge in a tier. -/
def State.tierCharge (s : State) (t : Nat) : Nat :=
  (s.tier.psets.map (fun e => s.psetCharge e.1 e.2 t)).sum

/-- Bytes of one plate slice: 2 GB (01 R20). -/
def sliceBytes : Nat := 2000000000

/-- Bytes that T0 copies take in each plate slice, those of one page set left out. -/
def State.sliceFill (s : State) (but : Nat) : List Nat :=
  List.foldl (fun fill e =>
    e.2.foldl (fun fill c => fill.modify c (· + (s.psetAt e.1).pageSize)) fill) (List.replicate 16 0) (s.tier.homes.filter (fun e => decide (e.1 ≠ but) && (s.psetAt e.1).t0))

/-- Slices for pages in turn: the first with room from a preferred one on. -/
def laySlices (pref : Nat → Nat) (size : Nat) : List Nat → List Nat → List Nat
  | [], _ => []
  | p :: ps, fill =>
    let k := (((List.range 16).map (fun j => (pref p + j) % 16)).find? (fun c => decide (fill.getD c 0 + size ≤ sliceBytes))).getD
      (pref p % 16)
    k :: laySlices pref size ps (fill.modify k (· + size))

/-- The pages of a page set with a new T0 copy take their plate slices. How pages are laid over the slices the spec does not
say: a free value, but no slice takes more than it holds (01 R20). -/
def State.plate (s : State) (i : Nat) : State :=
  let v := s.psetAt i
  if v.t0 then
    { s with tier := { s.tier with
        homes := sset s.tier.homes [] i (laySlices (Config.homeSlice i) v.pageSize (List.range v.pages) (s.sliceFill i)) } }
  else s

/-- Plate slice of a page in T0. -/
def State.homeOf (s : State) (i page : Nat) : Nat := (sget s.tier.homes [] i).getD page 0

/-- HBM4 stacks that have not failed (16 R578). -/
def State.liveStacks (s : State) : Nat := s.fusedStacks - s.hlt.dead.length

/-- The HBM4 stack that holds a T1 page (16 R579): the spec does not say how pages lie on stacks, a free choice; a page of
a failed stack lies on the next one that works. -/
def State.stackOf (s : State) (i page : Nat) : Nat :=
  ((((List.range s.fusedStacks).map (fun j => (Config.homeStack i page + j) % s.fusedStacks)).find?
    (fun k => !s.hlt.dead.contains k))).getD 0

/-- T1 taken by the reserves of 01 R25: the maps of the installed flash and the directory. -/
def State.reserves (s : State) : Nat := s.flm.mapBytes + 4 * 2 ^ 30

/-- MiB of the active CXL extents, in MiB (11 R421, R429). -/
def State.exportedMib (s : State) : Nat :=
  ((s.records 3).map (fun e => if rfld e.2 0 30 2 ≠ 0 then 256 * rfld e.2 0 16 12 else 0)).sum

/-- The limit of 01 R26 in MiB: half of T1 after the reserves. -/
def State.exportLimitMib (s : State) : Nat :=
  (s.liveStacks * 48000000000 - s.reserves) / 2 / 2 ^ 20

/-- Placement capacity of a tier (06 R218). -/
def State.capacity (s : State) (t : Nat) : Nat :=
  if t = 0 then 32000000000
  else if t = 1 then
    s.liveStacks * 48000000000
      - (s.reserves + 32 * 2 ^ 20 + s.exportedMib * 2 ^ 20 + s.cfgFld (pg 0x19 + 0x10C) 0 16 * 1000000000)
  else s.flm.cap

/-- Free space of a tier (06 R218), below 0 when its capacity has fallen below what it holds. -/
def State.freeInt (s : State) (t : Nat) : Int := (s.capacity t : Int) - (s.tierCharge t : Int)

/-- Free space of a tier as a count of bytes. -/
def State.freeSpace (s : State) (t : Nat) : Nat := (s.freeInt t).toNat

/-! ### Held snapshots and reclamation (05 R189) -/

/-- Every snapshot that an open proof or a reader in flight holds. -/
def State.snapshots (s : State) : List Nat :=
  s.dir.proofs.map (·.snapshot) ++ s.dir.readers.map (·.snapshot)

/-- DIR_SMIN (05 R189). -/
def State.dirSmin (s : State) : Nat :=
  match s.snapshots with
  | [] => s.dirSeq
  | a :: r => r.foldl min a

/-- Some held snapshot sees an entry with this edition and end. -/
def State.seen (s : State) (edition end_ : Nat) : Bool :=
  s.snapshots.any (fun S => decide (edition ≤ S ∧ S < end_))

/-- An entry that is current now is seen by some held snapshot (06 R219). -/
def State.seenNow (s : State) (v : Slot) : Bool := s.snapshots.any (fun S => decide (v.edition ≤ S))

/-- Data slots of a segment of a superblock: 48 stripes (10 R346). -/
def segData (b : Sb) : Nat := 48 * (b.blocks.length - 1)

/-- A zero slot queued at a time. -/
def padSlot (t : Nat) : WSlot := { what := none, wide := false, src := none, at_ := t }

/-- Write slots that follow `n` others in a stream: a MAPPED unit begins at a multiple of 16, so that it lies in consecutive
slots of one superblock (10 R352); zero slots fill up. -/
def alignWide : Nat → List WSlot → List WSlot
  | _, [] => []
  | n, w :: r =>
    let first : Bool := match w.what with
      | some (_, a) => w.wide && decide (a % 16 = 0)
      | none => false
    let k := if first then (16 - n % 16) % 16 else 0
    List.replicate k (padSlot w.at_) ++ w :: alignWide (n + k + 1) r

/-- The slot belongs to a page set. -/
def WSlot.of (w : WSlot) (h : Nat) : Bool := match w.what with
  | some (x, _) => decide (x = h)
  | none => false

/-- A stream without the queued slots of a page set: among the first `keep`, those of a segment under way or padded, zero slots take
their places. -/
def Stream.without (v : Stream) (keep h : Nat) : Stream :=
  let now := (v.queue.take keep).map (fun w => if w.of h then padSlot w.at_ else w)
  { v with queue := now ++ alignWide 0 ((v.queue.drop keep).filter (fun w => w.what.isSome && !w.of h)) }

/-- Slots of a stream's queue that keep their places: those of its segment while channels program it or once it is padded. -/
def State.keptSlots (s : State) (k : Nat) (v : Stream) : Nat :=
  if sget s.flm.prog 0 (k / 3) = k + 1 ∨ v.flushed then ((v.sb.map (fun n => segData (sget s.flm.sb Sb.free n))).getD 0) else 0

/-- The footprint gains a superblock; the seventeenth is OVERFLOW (10 R382). -/
def Foot.add (x : Foot) (n : Nat) : Foot :=
  if x.sbs.contains n then x
  else if 16 ≤ x.sbs.length then { x with overflow := true } else { x with sbs := x.sbs ++ [n] }

/-- Footprint of a copy gains a superblock, and so does a SECURE DISCARD of it (10 R382, R390). -/
def State.footAdd (s : State) (h n : Nat) : State :=
  let s := { s with flm := { s.flm with
    discards := updIf s.flm.discards (fun d => d.secure && d.psets.contains h && !d.sbs.contains n)
      (fun d => { d with sbs := d.sbs ++ [n] }) } }
  match sget s.flm.foot none h with
  | none => s
  | some x => { s with flm := { s.flm with foot := sset s.flm.foot none h (some (x.add n)) } }

/-- The queued slots of a page set are given up; where channels are programming some, their superblock joins the footprint. -/
def State.forgetSlots (s : State) (h : Nat) : State :=
  let hot := s.flm.stream.filterMap (fun e =>
    if sget s.flm.prog 0 (e.1 / 3) = e.1 + 1 ∧ (e.2.queue.take (s.keptSlots e.1 e.2)).any (fun w => w.of h) then e.2.sb else none)
  let s := hot.foldl (fun s n => s.footAdd h n) s
  { s with flm := { s.flm with
      stream := s.flm.stream.map (fun (e : Nat × Stream) => (e.1, e.2.without (s.keptSlots e.1 e.2) h)) } }

/-- A T2 copy, whole or being written, is released by an UNMAP record (10 R360, R380): its units are collected once that is durable;
until then its addresses stay taken. -/
def State.unmapT2 (s : State) (h : Nat) : State :=
  let f := sget s.flm.first 0 h
  if f = 0 then s
  else
    let n := sget s.flm.span 0 h
    let s := s.forgetSlots h
    let s := { s with flm := { s.flm with
      first := sset s.flm.first 0 h 0, span := sset s.flm.span 0 h 0,
      stipRes := s.flm.stipRes.filter (fun (e : Nat × Nat) => decide (e.1 + 1 < f ∨ f + n ≤ e.1 + 1)),
      dying := s.flm.dying ++ [(h, f - 1, n)],
      recorded := s.flm.recorded.filter (fun x => decide (x ≠ h)),
      landed := s.flm.landed.filter (fun x => decide (x ≠ h)) } }
    s.journal (.unmap h (f - 1) n (s.secured h))

/-- The moves of a page set whose entry ends are abandoned, the new copy of one into T2 freed; one that a SET or a PLAN_LOAD waits for is kept for its
completion (06 R229). -/
def State.goneMoves (s : State) (i : Nat) : State :=
  let isSet := fun (m : Move) => match m.cause with
    | .set _ => true
    | .plan _ => true
    | _ => false
  let v := s.psetAt i
  let s := if s.tier.moves.any (fun m => decide (m.pset = i ∧ m.target = 2 ∧ m.gone = false)) && !v.t2 then
      s.unmapT2 (psHandle v.gen i) else s
  { s with tier := { s.tier with
      moves := (s.tier.moves.filter (fun m => decide (m.pset ≠ i) || isSet m)).map
        (fun m => if m.pset = i then { m with gone := true } else m) } }

/-- Drops the bytes, cache pages, moves and T2 reads of a page set; a T2 copy is unmapped. -/
def State.dropPages (s : State) (i : Nat) : State :=
  let s := s.unmapT2 (psHandle (s.psetAt i).gen i)
  let s := { s with
    page := s.page.clear (i * 2 ^ 32) (2 ^ 32),
    pfs := { s.pfs with cache := s.pfs.cache.filter (fun c => decide (c.pset ≠ i)),
                         reads := s.pfs.reads.filter (fun r => decide (r.pset ≠ i)) } }
  s.goneMoves i

/-- The page set is freed and its index returns to the tail of the free list, its generation
advanced (06 R202). -/
def State.freePset (s : State) (i : Nat) : State :=
  let g := (s.psetAt i).gen
  let s := s.dropPages i
  let s := s.setPset i PSet.none
  { s with tier := { s.tier with back := s.tier.back ++ [i],
                                  gens := sset s.tier.gens 1 i (if g = 63 then 1 else g + 1) } }

/-- An ENDED entry is freed with its extension slot, and its page set returns (05 R189). -/
def State.reclaimSlot (s : State) (i : Nat) : State :=
  let v := s.slot i
  let s := if (s.copyOf v.pset).isSome then s.journal (.psetRelease v.pset i (s.secured v.pset)) else s
  (s.freeHead i).freePset (psIx v.pset)

/-- Every ENDED entry that no held snapshot sees is reclaimed (05 R189). -/
def State.reclaim (s : State) : State :=
  (s.dir.slots.filter (fun e => decide (e.2.state = .ended) && !s.seen e.2.edition e.2.end_)).foldl
    (fun s e => s.reclaimSlot e.1) s

/-! ### Proof slots (05 R194) -/

/-- Generation of a proof slot. -/
def State.proofGen (s : State) (slot : Nat) : Nat := sget s.dir.gens s.dir.genDef slot

/-- One more step would bring the slot's generation 2,047 beyond its last written value: a checkpoint comes first (05 R194).
Without flash there is no journal to write one in (log 134). -/
def State.genFull (s : State) (slot : Nat) : Bool :=
  decide (0 < s.flm.units) && decide (2046 ≤ (s.proofGen slot + 4095 - sget s.flm.gensSaved s.flm.savedDef slot) % 4095)

/-- A proof slot returns to the tail of the free list, its generation advanced by one (05 R194), at once or, while a
checkpoint must come first, when that is complete. -/
def State.returnProof (s : State) (slot : Nat) : State :=
  if s.genFull slot then { s with dir := { s.dir with proofWait := s.dir.proofWait ++ [slot] } }
  else
    let g := s.proofGen slot
    { s with dir := { s.dir with
        proofBack := s.dir.proofBack ++ [slot],
        gens := sset s.dir.gens s.dir.genDef slot (if g = 4095 then 1 else g + 1) } }

/-! ### Evictable entries (05 R177, R178) -/

/-- A claim holds the slot as a parent, or a supersession is claimed on it (05 R177). -/
def State.claimed (s : State) (i : Nat) : Bool :=
  s.dir.points.any (fun p =>
    match p.kind with
    | .commit slot _ => decide ((s.slot slot).parent = some i)
    | .super slot _ _ => decide (slot = i)
    | .end_ _ _ => false)

/-- An end point of the slot is scheduled. -/
def State.ending (s : State) (i : Nat) : Bool :=
  s.dir.points.any (fun p => match p.kind with
    | .end_ j _ => decide (j = i)
    | _ => false)

/-- Evictable (05 R177); an entry whose end is scheduled already is not evictable again. -/
def State.evictable (s : State) (i : Nat) : Bool :=
  let v := s.slot i
  decide (v.state = .current) && !v.pin && decide (v.children = 0) && !s.claimed i && !s.ending i

/-- Eviction order (05 R178): class, LAST_USE as age against the current stroke, DIR_INDEX. -/
def State.evictBefore (s : State) (a b : Nat × Slot) : Bool :=
  let cls := fun (v : Slot) => b2n (v.hot || v.shared)
  let age := fun (v : Slot) => (s.stk.stroke + 2 ^ 32 - v.lastUse) % 2 ^ 32
  decide (cls a.2 < cls b.2)
    || (decide (cls a.2 = cls b.2) && (decide (age b.2 < age a.2)
      || (decide (age a.2 = age b.2) && decide (a.1 ≤ b.1))))

/-- The evictable entries that meet `p`, in eviction order. -/
def State.evictList (s : State) (p : Nat → Slot → Bool) : List (Nat × Slot) :=
  isort s.evictBefore (s.dir.slots.filter (fun e => s.evictable e.1 && p e.1 e.2))

/-- The open repairs of an entry are abandoned; their repair slots take writes that are acknowledged and
discarded (07 R264; 13 R492). -/
def State.abandonRepairs (s : State) (i : Nat) : State :=
  let gone := s.pfs.repairs.filter (fun r => decide (r.slot = i ∧ r.st ≠ .waiting))
  { s with
    pfs := { s.pfs with repairs := s.pfs.repairs.filter (fun r => decide (r.slot ≠ i)) },
    net := { s.net with closed := s.net.closed ++ gone.map (fun r => (r.rs, r.qpn)) } }

/-- The end point of an entry takes place with its value (05 R165): END, filter, PSA, the parent's
reference, reclamation when no held snapshot sees it. An open repair of it is abandoned (07 R264). -/
def State.endEntry (s : State) (i val : Nat) : State :=
  let v := s.slot i
  let s := s.psaRemove i v.key
  let s := (s.setSlot i { v with state := .ended, end_ := val, held := false }).goneMoves (psIx v.pset)
  let s := s.psaRemove i v.key
  let s := (s.filterEnd v.key val).dirUpdate i
  let s := match v.parent with
    | some p => s.updSlot p (fun x => { x with children := x.children - 1 })
    | none => s
  (s.abandonRepairs i).reclaim

/-- An entry is ended at once: its point is scheduled and, where `endReady`, passes. -/
def State.endNow (s : State) (i : Nat) : State := s.takeVal.endEntry i s.dir.seqNext

/-! ### Room (06 R219) -/

/-- Page set index of an entry. -/
def Slot.ps (v : Slot) : Nat := psIx v.pset

/-- The page set is that of a resident entry without PIN: a pinned page set and that of an ENDED entry are never room (06
R206, R219). -/
def State.roomSet (s : State) (i : Nat) : Bool := s.dir.slots.any (fun e => decide (e.2.ps = i) && e.2.resident && !e.2.pin)

/-- Copies in `t` that lie below a higher level and may be released (06 R219): page-set index and page set. The copy that a
move falls back on stays. -/
def State.retained (s : State) (t : Nat) : List (Nat × PSet) :=
  s.tier.psets.filter (fun e => e.2.has t && decide (e.2.level < t) && decide (e.2.rstate = .published) && s.roomSet e.1
    && !s.tier.moves.any (fun m => decide (m.pset = e.1 ∧ m.target = t ∧ m.gone = false)))

/-- Evictable entries of level `t` that no held snapshot sees (06 R219), in eviction order. -/
def State.roomEntries (s : State) (t : Nat) : List (Nat × Slot) :=
  s.evictList (fun _ v => decide ((s.psetAt v.ps).level = t) && !s.seenNow v)

/-- Tenant room and tier room (06 R219); below 0 when a quota or capacity has fallen below what is held. -/
def State.rooms (s : State) (tenant t : Nat) : Int × Int :=
  let es := s.roomEntries t
  let rs := s.retained t
  let ce := fun (l : List (Nat × Slot)) => (l.map (fun e => (s.psetAt e.2.ps).charge t)).sum
  let cr := fun (l : List (Nat × PSet)) => (l.map (fun e => e.2.charge t)).sum
  (((s.quota tenant t + ce (es.filter (fun e => decide (e.2.publisher = tenant)))
      + cr (rs.filter (fun e => decide (e.2.tenant = tenant))) : Nat) : Int) - (s.tenantCharge tenant t : Int),
   s.freeInt t + ((ce es + cr rs : Nat) : Int))

/-- A charge fits the room of `t` with what is used now: quota and free space. -/
def State.fitsNow (s : State) (tenant t b : Nat) : Bool :=
  decide (b = 0) || (decide (s.tenantCharge tenant t + b ≤ s.quota tenant t) && decide (b ≤ s.freeSpace t))

/-- Age of the entry of a page set: the LAST_USE order of retained copies (06 R219). -/
def State.psetAge (s : State) (i : Nat) : Nat :=
  match s.dir.slots.find? (fun e => decide (e.2.ps = i) && e.2.resident) with
  | some e => (s.stk.stroke + 2 ^ 32 - e.2.lastUse) % 2 ^ 32
  | none => 2 ^ 32

/-- Releases the T2 map and the bytes of one retained copy. -/
def State.releaseCopy (s : State) (i t : Nat) : State :=
  let v := s.psetAt i
  let s := s.updPset i (fun v => v.setHas t false)
  let s := if t = 2 then s.unmapT2 (psHandle v.gen i) else s
  s.bump (pg 0x19 + 0x188)

/-- A view maps the page set's copy in a tier (11 R409, R412). -/
def State.viewHolds (s : State) (i t : Nat) : Bool :=
  s.port0.views.any (fun v => decide (v.pset = i ∧ v.tier = t)) || s.port1.views.any (fun v => decide (v.pset = i ∧ v.tier = t))

/-- A view maps a copy of the page set above tier `t` (11 R412). -/
def State.viewed (s : State) (i t : Nat) : Bool := (List.range t).any (fun k => s.viewHolds i k)

/-- Retained copies of a tier that can be released now, those of the tenant `mine` only, lowest LAST_USE first (06 R219). -/
def State.releasable (s : State) (t : Nat) (mine : Nat → Bool) : List (Nat × PSet) :=
  isort (fun a b => decide (s.psetAge b.1 ≤ s.psetAge a.1))
    ((s.retained t).filter (fun e => mine e.2.tenant && !s.viewHolds e.1 t))

/-- Makes room for `b` bytes in `t`: releases retained copies, then ends entries, of the tenant when its
quota binds (06 R219); recursion on fuel. Points outstanding hold the ends back: then the request
waits. -/
def State.makeRoom : Nat → State → Nat → Nat → Nat → State
  | 0, s, _, _, _ => s
  | n + 1, s, tenant, t, b =>
    if s.fitsNow tenant t b then s
    else
      let quotaBinds := decide (s.quota tenant t < s.tenantCharge tenant t + b)
      let mine := fun (x : Nat) => !quotaBinds || decide (x = tenant)
      match s.releasable t mine with
      | e :: _ => State.makeRoom n (s.releaseCopy e.1 t) tenant t b
      | [] =>
        if !s.endReady then s
        else match (s.roomEntries t).filter (fun e => mine e.2.publisher) with
          | e :: _ =>
            State.makeRoom n (((s.endNow e.1).bump (pg 0x18 + 0x19C)).bump (pg 0x19 + 0x18C)) tenant t b
          | [] => s

/-- Outcome of a charge request (06 R219). -/
inductive Room where
  | fits (s : State)
  /-- Room exists, but end points of lower values must pass first. -/
  | wait (s : State)
  | short (st : Status) (shortfall : Nat)

/-- The test of a charge of `b` bytes in `t`: the status and shortfall, or none when it fits (06 R219). Nothing charged
needs no room. -/
def State.requestTest (s : State) (tenant t b : Nat) : Option (Status × Nat) :=
  let (tr, fr) := s.rooms tenant t
  if b = 0 then none
  else if tr < b then some (.quota, (b - min tr fr).toNat)
  else if fr < b then some (.full, (b - min tr fr).toNat) else none

/-- A charge of `b` bytes in `t` is tested and room is made for it (06 R219). -/
def State.request (s : State) (tenant t b : Nat) : Room :=
  match s.requestTest tenant t b with
  | some (st, n) => .short st n
  | none =>
    let s := s.makeRoom (s.dir.slots.length + s.tier.psets.length + 1) tenant t b
    if s.fitsNow tenant t b then .fits s else .wait s

/-- A command refused FULL by tier room is counted (06 R230). -/
def State.countFull (s : State) (st : Status) : State := if st = .full then s.bump (pg 0x19 + 0x198) else s

/-- A command that completes QUOTA is counted, whatever limit it met (06 R230; 05 R187). -/
def State.countQuota (s : State) (st : Status) : State := if st = .quota then s.count 0x19 0x194 4 else s

/-! ### Pages -/

/-- Address of a page's byte in `State.page`: page-set index, page, offset (06 R203). -/
def pageAddr (i page off : Nat) : Nat := i * 2 ^ 32 + page * 2 ^ 21 + off

/-- Bytes of a page from an offset. -/
def State.pageBytes (s : State) (i page off n : Nat) : List Byte := s.page.rdBytes (pageAddr i page off) n

/-- A page set of level T2 is read through the T1 cache (01 R24, 06 R207). -/
def State.cached (s : State) (i page : Nat) : Bool :=
  s.pfs.cache.any (fun c => decide (c.pset = i ∧ c.page = page))

/-- The page is being restored from its T2 copy (07 R259). -/
def State.healing (s : State) (i page : Nat) : Bool :=
  s.pfs.reads.any (fun r => decide (r.pset = i ∧ r.page = page) && r.heal)

/-- The page can be read now: level T0 or T1 and not being restored, or cached. -/
def State.pageReady (s : State) (i page : Nat) : Bool :=
  (decide ((s.psetAt i).level < 2) && !s.healing i page) || s.cached i page

/-- A page of the set is poisoned: its entry, resident or ended, carries POISON (05 R182). -/
def State.psetPoison (s : State) (i : Nat) : Bool := s.dir.slots.any (fun e => e.2.poison && decide (e.2.ps = i))

/-- Target of a page-set address for a write or read by a tenant's work (06 R203): index, page and
offset of an existing reservation of the tenant. -/
def State.rsvAddr (s : State) (tenant a n : Nat) : Option (Nat × Nat × Nat) :=
  let h := a / 2 ^ 32
  let page := nfld a 21 10
  let off := a % 2 ^ 21
  match s.psetOf h with
  | none => none
  | some v =>
    if nfld a 31 1 = 0 ∧ v.tenant = tenant ∧ v.rstate ≠ .published ∧ page < v.pages
        ∧ off + n ≤ v.pageSize then some (psIx h, page, off) else none

/-- The unsealed reservation that a handle names, of the tenant. -/
def State.openRsv (s : State) (tenant h : Nat) : Option PSet :=
  match s.psetOf h with
  | some v => if v.tenant = tenant ∧ v.rstate = .open_ then some v else none
  | none => none

/-- Bytes written to a page set. -/
def State.writePage (s : State) (i page off : Nat) (bs : List Byte) : State :=
  { s with page := s.page.wrBytes (pageAddr i page off) bs }

/-- LAST_USE of an entry takes the current stroke (05 R158). -/
def State.touch (s : State) (slot : Nat) : State :=
  s.updSlot slot (fun v => { v with lastUse := s.stk.stroke % 2 ^ 32 })

/-- A read of a page set counts in LAST_USE of every slot that names it: its entry, or the copy of a replaced edition (05
R158). -/
def State.touchPset (s : State) (i : Nat) : State :=
  (s.dir.slots.filter (fun e => decide (e.2.ps = i) && decide (e.2.state ≠ .free ∧ e.2.state ≠ .pending)
    && !(match e.2.state with | .ext _ => true | _ => false))).foldl (fun s e => s.touch e.1) s

end Sys2Proof.Machine
end

