-- ==== Sys2Proof/Machine/FlashOps.lean ====
section
/-! DEFINITION. The flash media manager's operations (10): geometry and capacity, locations and the maps,
write streams, superblocks that open, are vacated and become erasable, records that take effect when
they are durable, and the mode. -/

namespace Sys2Proof.Machine

/-! ### Dies, rows and capacity (10 R343 to R350) -/

/-- A die by row and position. -/
def Flm.dieAt (f : Flm) (row pos : Nat) : Die := sget f.die Die.absent (32 * row + pos)

/-- A die, changed. -/
def Flm.updDie (f : Flm) (k : Nat) (g : Die → Die) : Flm :=
  { f with die := sset f.die Die.absent k (g (sget f.die Die.absent k)) }

/-- Live positions of a row. -/
def Flm.livePos (f : Flm) (row : Nat) : List Nat :=
  (List.range 32).filter (fun p => decide ((f.dieAt row p).st = .live))

/-- The row is in use (10 R343, R376). -/
def Flm.rowUsed (f : Flm) (row : Nat) : Bool :=
  decide (24 ≤ (f.livePos row).length) && !f.retired.contains row

/-- Channel of a die: its row's half and its position (10 R343). -/
def dieChannel (row pos : Nat) : Nat := 32 * (row / 32) + pos

/-- Good multi-plane blocks of a die. -/
def Flm.good (f : Flm) (d : Die) : Nat := f.geom.blocks - d.bad.length

/-- N_r of a row as it stands (10 R347, R378). -/
def Flm.rowCount (f : Flm) (row : Nat) : Nat := if f.rowUsed row then sget f.rowN 0 row else 0

/-- Rows in use. -/
def Flm.rows (f : Flm) : List Nat := (List.range 64).filter (fun r => f.rowUsed r)

/-- Data dies of a row (10 R344). -/
def Flm.dataDies (f : Flm) (row : Nat) : Nat := (f.livePos row).length - 1

/-- Pages of a block: SLC or native (10 R341). -/
def Flm.pagesOf (f : Flm) (native : Bool) : Nat :=
  if native then f.geom.wordlines * f.geom.bits else f.geom.wordlines

/-- N_r at start-up: fewest good blocks of a live die less the reserve (10 R347). -/
def Flm.rowCapacity (f : Flm) (pct row : Nat) : Nat :=
  match (f.livePos row).map (fun p => f.good (f.dieAt row p)) with
  | [] => 0
  | a :: r => r.foldl min a - ceilDiv' (f.geom.blocks * pct) 100

/-- T, L, M of the rows as they stand (10 R347, R348). -/
def Flm.sbTotal (f : Flm) : Nat := (f.rows.map f.rowCount).sum

/-- M = J + 2K (10 R348). -/
def Flm.metaCount (f : Flm) (maxGib : Nat) : Nat :=
  let cj := 16 * f.pagesOf false * f.geom.planes * 16384
  let cs := 31 * f.pagesOf false * f.geom.planes * 16384
  if cj = 0 then 0 else ceilDiv' (maxGib * 2 ^ 30) cj + 2 + 2 * ceilDiv' 12368709120 cs

/-- L of T superblocks (10 R348). -/
def Flm.slcCount (f : Flm) (t : Nat) : Nat := ceilDiv' (t * f.pct) 100

/-- E (10 R349): the sum Q over the rows and T of the rows as they stand, L of that T, M as fixed at start-up. -/
def Flm.exported (f : Flm) : Nat :=
  let q := (f.rows.map (fun r => f.rowCount r * f.pagesOf true * f.geom.planes * f.dataDies r)).sum
  let t := f.sbTotal
  min 976562500 (q * (t - f.slcCount t - f.meta_) * (100 - f.opPct) / (t * 1600))

/-- Map reserves for E units: broad map and stipple map (01 R25, 10 R350). -/
def mapReserve (e : Nat) : Nat :=
  if e = 0 then 0 else 7000000000 * e / 976562500 / 2097152 * 2097152 + 2 ^ 30

/-! ### Superblocks (10 R344 to R346) -/

/-- A superblock. -/
def Flm.sbAt (f : Flm) (n : Nat) : Sb := sget f.sb Sb.free n

/-- A superblock, changed. -/
def Flm.updSb (f : Flm) (n : Nat) (g : Sb → Sb) : Flm := { f with sb := sset f.sb Sb.free n (g (f.sbAt n)) }

/-- Data slots of a superblock: stripes by data dies (10 R345). -/
def Flm.slotsOf (f : Flm) (b : Sb) : Nat := f.pagesOf b.nativeMode * f.geom.planes * (b.blocks.length - 1)

/-- Segments of a superblock (10 R346). -/
def Flm.segsOf (f : Flm) (b : Sb) : Nat := f.pagesOf b.nativeMode * f.geom.planes / 48

/-- Valid slots of a superblock: 16 for each MAPPED unit and one for each stipple entry in it. -/
def Flm.validSlots (f : Flm) (n : Nat) : Nat :=
  16 * (f.broad.filter (fun e => decide (e.2.loc.sb = n))).length
    + (f.stip.filter (fun e => decide (e.2.loc.sb = n))).length

/-- Superblocks of a row that are formed: all that are not dissolved. -/
def Flm.formedIn (f : Flm) (row : Nat) : List (Nat × Sb) :=
  f.sb.filter (fun e => decide (e.1 / 8192 = row ∧ e.2.st ≠ .retired ∧ e.2.blocks ≠ []))

/-- FREE superblocks of the SLC pool or of the native pool (10 R363). -/
def Flm.freeSbs (f : Flm) (native : Bool) : List (Nat × Sb) :=
  f.sb.filter (fun e => decide (e.2.st = .free ∧ e.2.nativeMode = native ∧ e.2.blocks ≠ []))

/-- Free superblocks of the SLC pool and of the native pool (10 R391). -/
def Flm.freeSlc (f : Flm) : Nat := (f.freeSbs false).length
def Flm.freeNative (f : Flm) : Nat := (f.freeSbs true).length

/-- Superblocks of the SLC pool, free or in use (10 R363). -/
def Flm.slcPool (f : Flm) : Nat :=
  (f.sb.filter (fun e => !e.2.nativeMode && decide (e.2.st ≠ .retired ∧ e.2.st ≠ .meta_ ∧ e.2.blocks ≠ []))).length

/-- Native superblocks (10 R348). -/
def Flm.natives (f : Flm) : Nat := f.sbTotal - f.slc - f.meta_

/-- The free good block with the lowest erase count of a die (10 R379), lowest number on a tie. -/
def Flm.youngBlock (f : Flm) (row pos : Nat) : Option Nat :=
  let d := f.dieAt row pos
  let used := (f.sb.filter (fun e => decide (e.1 / 8192 = row))).flatMap
    (fun e => (e.2.blocks.filter (fun b => decide (b.1 = pos))).map (·.2))
  let ok := fun b => !d.bad.contains b && !used.contains b
  let fresh := (List.range f.geom.blocks).find? (fun b => ok b && decide (sget d.erases 0 b = 0))
  match fresh with
  | some b => some b
  | none =>
    ((d.erases.filter (fun e => ok e.1)).foldl (fun best e =>
      match best with
      | none => some e
      | some x => if e.2 < x.2 then some e else best) (none : Option (Nat × Nat))).map (·.1)

/-- Sum of the erase counts of a superblock's blocks. -/
def Flm.sbErases (f : Flm) (n : Nat) (b : Sb) : Nat :=
  (b.blocks.map (fun x => sget (f.dieAt (n / 8192) x.1).erases 0 x.2)).sum

/-- The FREE native superblock of a row with the lowest erase count (10 R363), the lowest number on a tie. -/
def Flm.youngFree (f : Flm) (row : Nat) : Option Nat :=
  (((f.freeSbs true).filter (fun e => decide (e.1 / 8192 = row))).foldl (fun best e =>
    match best with
    | none => some e
    | some x => if f.sbErases e.1 e.2 < f.sbErases x.1 x.2 then some e else best) (none : Option (Nat × Sb))).map (·.1)

/-- The SLC pool takes a superblock of a row while it holds fewer than L (10 R363). -/
def Flm.fillSlc (f : Flm) (row : Nat) : Flm :=
  if f.slc ≤ f.slcPool then f
  else match f.youngFree row with
    | none => f
    | some n => f.updSb n (fun b => { b with nativeMode := false })

/-- Superblock `n` is formed again from the free blocks with the lowest erase counts, one on each live die (10 R361, R379), while its row
holds fewer than N_r and every die has one; else it is dissolved (10 R378). -/
def Flm.form (f : Flm) (n : Nat) : Flm :=
  let row := n / 8192
  let f := f.updSb n (fun _ => Sb.free)
  let pos := f.livePos row
  let blocks := pos.filterMap (fun p => (f.youngBlock row p).map (fun b => (p, b)))
  if f.rowUsed row ∧ blocks.length = pos.length ∧ (f.formedIn row).length < f.rowCount row then
    f.updSb n (fun _ => { Sb.free with blocks := blocks })
  else f.updSb n (fun _ => { Sb.free with st := .retired })

/-- The FREE superblock of a half and pool that opens next: from the row that has most of them, the lowest numbers first (DESIGN CHOICE,
log 85). -/
def Flm.openPick (f : Flm) (half : Nat) (native : Bool) : Option Nat :=
  let l := (f.freeSbs native).filter (fun e => decide (e.1 / 8192 / 32 = half))
  let n := fun (r : Nat) => (l.filter (fun e => decide (e.1 / 8192 = r))).length
  (l.foldl (fun best e =>
    match best with
    | none => some e
    | some x => if n (x.1 / 8192) < n (e.1 / 8192) then some e else best) (none : Option (Nat × Sb))).map (·.1)

/-- Opens a superblock of a half, SLC or native; SB_STATE is journaled (10 R356, R363, R365). -/
def State.openSb (s : State) (half : Nat) (native : Bool) : Option (Nat × State) :=
  match s.flm.openPick half native with
  | none => none
  | some n =>
    let st : SbState := if native then .openNative else .openSlc
    let s := { s with flm := s.flm.updSb n (fun b =>
      { Sb.free with st := st, nativeMode := native, blocks := b.blocks, lastSeq := s.flm.jseq }) }
    some (n, s.journalSb n st)

/-! ### Locations -/

/-- Location of a stipple address (10 R351 to R354). -/
def Flm.locOf (f : Flm) (a : Nat) : Option Loc :=
  match f.stip.find? (fun e => decide (e.1 = a)) with
  | some e => some e.2.loc
  | none =>
    (f.broad.find? (fun e => decide (e.1 = a / 16))).map
      (fun e => { sb := e.2.loc.sb, slot := e.2.loc.slot + a % 16 })

/-- Position of the die that holds a data slot (10 R344, R345). -/
def Flm.slotPos (f : Flm) (l : Loc) : Nat :=
  let b := f.sbAt l.sb
  let d := b.blocks.length - 1
  let parity := l.sb % b.blocks.length
  ((b.blocks.map (·.1)).eraseIdx parity).getD (l.slot % d) 0

/-- Die key of a data slot. -/
def Flm.slotDie (f : Flm) (l : Loc) : Nat := 32 * (l.sb / 8192) + f.slotPos l

/-- Channel of a data slot. -/
def Flm.slotChannel (f : Flm) (l : Loc) : Nat := dieChannel (l.sb / 8192) (f.slotPos l)

/-- Slots of a page of a page set: 16 KiB each (10 R351). -/
def PSet.slotsPerPage (v : PSet) : Nat := ceilDiv' v.pageSize 16384

/-- Stipple addresses of a page of a T2 copy. -/
def State.pageSlots (s : State) (i page : Nat) : List Nat :=
  let v := s.psetAt i
  let f := sget s.flm.first 0 (psHandle v.gen i)
  if f = 0 then [] else (List.range v.slotsPerPage).map (fun k => f - 1 + page * v.slotsPerPage + k)

/-- Locations of a page of a T2 copy. -/
def State.pageLocs (s : State) (i page : Nat) : List Loc := (s.pageSlots i page).filterMap s.flm.locOf

/-- Page-set index that a T2 page set's handle has. -/
def State.handleOf (s : State) (i : Nat) : Nat := psHandle (s.psetAt i).gen i

/-! ### T2 copies that are written (10 R351, R352, R354, R356) -/

/-- Ranges of stipple addresses in use: first and count. -/
def State.t2Ranges (s : State) : List (Nat × Nat) :=
  s.flm.first.map (fun (e : Nat × Nat) => (e.2 - 1, sget s.flm.span 0 e.1)) ++ s.flm.dying.map (fun x => (x.2.1, x.2.2))

/-- Lowest free run of `n` stipple addresses at a multiple of `align` (which free run is not stated). -/
def State.allocT2 (s : State) (n align : Nat) : Option Nat :=
  let rs := s.t2Ranges
  let cands := isort (fun a b => decide (a ≤ b)) (0 :: rs.map (fun r => roundUp (r.1 + r.2) align))
  cands.find? (fun a => decide (a + n ≤ 16 * s.flm.units)
    && rs.all (fun r => decide (a + n ≤ r.1 ∨ r.1 + r.2 ≤ a)))

/-- Buckets of a stipple address (10 R354). -/
def stipBuckets (a : Nat) : Nat × Nat := (a % 2 ^ 24, (a / 2 ^ 10 % 2 ^ 24) ^^^ 0xA5A5A5)

/-- Entries of a bucket, those included that are to be inserted. -/
def Flm.bucketLoad (f : Flm) (b : Nat) : Nat :=
  (f.stip.filter (fun e => decide (e.2.bucket = b))).length + (f.stipRes.filter (fun (e : Nat × Nat) => decide (e.2 = b + 1))).length

/-- The bucket that takes an entry: more free entries, the first on a tie; none when both are full (10 R354). -/
def Flm.stipBucket (f : Flm) (a : Nat) : Option Nat :=
  let (x, y) := stipBuckets a
  let (m, n) := (f.bucketLoad x, f.bucketLoad y)
  if 4 ≤ m ∧ 4 ≤ n then none else if n < m then some y else some x

/-- Buckets are taken for stipple addresses in turn; none where one finds both of its buckets full (10 R354). -/
def Flm.takeBuckets (f : Flm) : List Nat → Option Flm
  | [] => some f
  | a :: r =>
    match f.stipBucket a with
    | none => none
    | some b => Flm.takeBuckets { f with stipRes := sset f.stipRes 0 a (b + 1) } r

/-- A stream. -/
def State.stream (s : State) (k : Nat) : Stream := sget s.flm.stream Stream.none k

/-- A stream, set. -/
def State.setStream (s : State) (k : Nat) (v : Stream) : State :=
  { s with flm := { s.flm with stream := sset s.flm.stream Stream.none k v } }

/-- Time of the first slot of a stream's next segment (10 R358). -/
def Stream.since (v : Stream) : Option Nat := v.queue.head?.map (·.at_)

/-- Slots queued on a stream. -/
def State.enqueue (s : State) (k : Nat) (ws : List WSlot) : State :=
  if ws = [] then s
  else
    let v := s.stream k
    s.setStream k { v with queue := v.queue ++ alignWide v.queue.length (ws.map (fun w => { w with at_ := s.clk })) }

/-- The DATA stream of the half with fewer slots queued, half 0 on a tie (10 R356). -/
def State.shortData (s : State) : Nat :=
  if (s.stream 3).queue.length < (s.stream 0).queue.length then 3 else 0

/-- Write slots of addresses `first` to `first + n − 1` of a page set: each MAPPED or STIPPLED (10 R352). -/
def copySlots (h first n : Nat) (hot fallback : Bool) : List WSlot :=
  (List.range n).map (fun k =>
    let a := first + k
    let whole := decide (first ≤ a / 16 * 16 ∧ a / 16 * 16 + 16 ≤ first + n)
    { what := some (h, a), wide := fallback || (whole && !hot), src := none, at_ := 0 })

/-- Addresses of the write slots that are not part of MAPPED units. -/
def stipAddrs (ws : List WSlot) : List Nat :=
  ws.filterMap (fun w => if w.wide then none else w.what.map (·.2))

/-- Starts the T2 copy of a page set: addresses, the buckets of its stipple entries, and its slots queued on DATA streams (10 R351, R354,
R356). False when no run of addresses is free. -/
def State.startT2 (s : State) (i : Nat) : State × Bool :=
  let v := s.psetAt i
  let h := s.handleOf i
  let n := v.pages * v.slotsPerPage
  let hot := bit (w32 v.alloc) 3
  let align := if s.cfgFld (pg flmPage + 0x22C) 0 16 * 1024 ≤ v.bytes then 16 else 1
  let run (s : State) (a n : Nat) (wide : Bool) : State :=
    let ws := copySlots h a n hot wide
    let s := { s with flm := { s.flm with first := sset s.flm.first 0 h (a + 1), span := sset s.flm.span 0 h n } }
    if bit (w32 v.alloc) 4 then
      let part := fun half => ws.filter (fun w => match w.what with
        | some (_, x) => decide ((x / 16 - a / 16) % 2 = half)
        | none => false)
      (s.enqueue 0 (part 0)).enqueue 3 (part 1)
    else s.enqueue s.shortData ws
  match s.allocT2 n align with
  | none => (s, false)
  | some a =>
    match s.flm.takeBuckets (stipAddrs (copySlots h a n hot false)) with
    | some f => (run { s with flm := f } a n false, true)
    | none =>
      match s.allocT2 (roundUp n 16) 16 with
      | none => (s, false)
      | some a => (run (s.count flmPage 0x2E0 11) a (roundUp n 16) true, true)

/-- The units of a T2 copy follow a change of HOT (10 R352; 06 R206): set, every MAPPED unit becomes sixteen stipple entries at the slots
that it has, where the buckets have room; cleared, every whole unit is written again as a MAPPED one. -/
def State.hotUnits (s : State) (i : Nat) (hot : Bool) : State :=
  let v := s.psetAt i
  let h := s.handleOf i
  let f := sget s.flm.first 0 h
  let n := sget s.flm.span 0 h
  if f = 0 ∨ v.t2 = false then s
  else if hot then
    (s.flm.broad.filter (fun e => decide (e.2.pset = h))).foldl (fun s e =>
      match s.flm.takeBuckets ((List.range 16).map (fun k => 16 * e.1 + k)) with
      | none => s.count flmPage 0x2E0 11
      | some fl => (List.range 16).foldl (fun s k =>
          let l : Loc := { sb := e.2.loc.sb, slot := e.2.loc.slot + k }
          s.journal (.mapStip (16 * e.1 + k) h l (some l))) { s with flm := fl }) s
  else
    s.enqueue s.shortData ((copySlots h (f - 1) n false false).filter (fun w => w.wide && (match w.what with
      | some (_, a) => s.flm.stip.any (fun e => decide (e.1 / 16 = a / 16))
      | none => false)))

/-- Every slot of a copy has been programmed: none is queued. -/
def State.t2Queued (s : State) (h : Nat) : Bool :=
  s.flm.stream.any (fun e => e.2.queue.any (fun w => match w.what with
    | some (x, _) => decide (x = h)
    | none => false))

/-! ### Vacating superblocks (10 R360 to R362, R371, R374, R376, R379) -/

/-- A victim that holds no valid slot and whose slots are all journaled gets its ERASE_BEGIN (10 R361). -/
def State.eraseReady (s : State) : State :=
  (s.flm.sb.filter (fun e => decide (e.2.st = .victim) && decide (s.flm.validSlots e.1 = 0))).foldl
    (fun s e => ({ s with flm := s.flm.updSb e.1 (fun b => { b with st := .eraseBegin }) }).journalSb e.1 .eraseBegin) s

/-- Valid slots of a superblock as write slots; MAPPED units stay MAPPED (10 R362). -/
def Flm.validList (f : Flm) (n : Nat) : List WSlot :=
  ((f.broad.filter (fun e => decide (e.2.loc.sb = n))).flatMap (fun e =>
      (List.range 16).map (fun k =>
        ({ what := some (e.2.pset, 16 * e.1 + k), wide := true, src := some n, at_ := 0 } : WSlot))))
  ++ (f.stip.filter (fun e => decide (e.2.loc.sb = n))).map (fun e =>
      { what := some (e.2.pset, e.1), wide := false, src := some n, at_ := 0 })

/-- The units that hold a page of a T2 copy as write slots (10 R351, R352). -/
def State.pageUnitsOf (s : State) (i page : Nat) : List WSlot :=
  let h := s.handleOf i
  let as := s.pageSlots i page
  let stips := as.filterMap (fun a => (s.flm.stip.find? (fun e => decide (e.1 = a))).map (fun e =>
    ({ what := some (h, a), wide := false, src := some e.2.loc.sb, at_ := 0 } : WSlot)))
  let units := ((as.filter (fun a => !s.flm.stip.any (fun e => decide (e.1 = a)))).map (fun a => a / 16)).eraseDups
  stips ++ units.flatMap (fun u =>
    match s.flm.broad.find? (fun e => decide (e.1 = u)) with
    | some e => (List.range 16).map (fun k =>
        { what := some (h, 16 * u + k), wide := true, src := some e.2.loc.sb, at_ := 0 })
    | none => [])

/-- A page of a T2 copy is written to a new location (07 R260): like every write of the tier manager, through a DATA
superblock (10 R356). -/
def State.rewritePage (s : State) (i page : Nat) : State := s.enqueue s.shortData (s.pageUnitsOf i page)

/-- Stream of a half that relocation for a cause writes: FOLD for folding, else GC (10 R362, R371). -/
def Vacate.kind (c : Vacate) : Nat := if c = .fold then 1 else 2

/-- The valid slots of a victim are queued on a stream of its half (10 R360). -/
def State.requeue (s : State) (n : Nat) : State :=
  (s.enqueue (3 * (n / 8192 / 32) + (s.flm.sbAt n).cause.kind) (s.flm.validList n)).eraseReady

/-- A superblock becomes a victim for a cause (10 R360). -/
def State.vacate (s : State) (n : Nat) (c : Vacate) : State :=
  let s := { s with flm := s.flm.updSb n (fun b =>
    { b with st := .victim, was := s.flm.validSlots n, rewrite := false, cause := c }) }
  (s.journalSb n .victim).requeue n

/-- Credit of one slot relocated from a superblock with `v` valid slots of `S` (10 R372): in 1/256 slots. -/
def slotCredit (v total : Nat) : Nat := if v = 0 then 0 else min (16 * 256) (256 * (total - v) / v)

/-- Credit added, limited to S of a native superblock of the row with the most data dies (10 R372). -/
def State.addCredit (s : State) (c : Nat) : State :=
  let d := (s.flm.rows.map s.flm.dataDies).foldl max 0
  let cap := s.flm.geom.wordlines * s.flm.geom.bits * s.flm.geom.planes * d * 256
  { s with flm := { s.flm with credit := min cap (s.flm.credit + c) } }

/-! ### Mode (10 R370) -/

/-- The mode that the free native superblocks give. -/
def State.flmModeNow (s : State) : Nat :=
  let n := s.flm.natives
  let share := if n = 0 then 1000 else s.flm.freeNative * 1000 / n
  let g := fun lo => s.cfgFld (pg flmPage + 0x20C) lo 8
  if share < g 0 then 3 else if share < g 8 then 2 else if share < g 16 then 1 else 0

/-- The mode follows the free share; credit returns to 0 with NORMAL (10 R370, R372). -/
def State.updMode (s : State) : State :=
  let m := s.flmModeNow
  if m = s.flm.mode then s
  else
    let s := { s with flm := { s.flm with mode := m, credit := if m = 0 then 0 else s.flm.credit } }
    let s := s.raise flmPage 5
    if m = 3 then s.raise flmPage 6 else s

/-- Free SLC superblocks are fewer than a share of L (10 R362). -/
def State.slcBelow (s : State) (lo : Nat) : Bool :=
  decide (s.flm.freeSlc * 100 < s.cfgFld (pg flmPage + 0x204) lo 8 * s.flm.slc)

/-- Row 5 writes take credit (10 R370). -/
def State.takesCredit (s : State) : Bool := decide (2 ≤ s.flm.mode) || s.slcBelow 16

/-! ### Spares (10 R378, R385 to R387) -/

/-- Spare level in 0.01 %: blocks of all spare pools over all good blocks (10 R385). -/
def Flm.spareLevel (f : Flm) : Nat :=
  let dies := f.rows.flatMap (fun r => (f.livePos r).map (fun p => (r, p)))
  let good := (dies.map (fun d => f.good (f.dieAt d.1 d.2))).sum
  let spare := (dies.map (fun d => f.good (f.dieAt d.1 d.2) - f.rowCount d.1)).sum
  if good = 0 then 0 else spare * 10000 / good

/-- Moves into T2 that have not committed end READ_ONLY (10 R387). -/
def State.readOnlyMoves (s : State) : List Move := s.tier.moves.filter (fun m => decide (m.target = 2) && !m.releasing && !s.flm.landed.contains (s.handleOf m.pset))

/-- SPARE_LOW and the read-only mode, from the spare level (10 R385, R387). The moves it ends are the
caller's. -/
def State.spareCheck (s : State) : State :=
  if s.flm.die = [] then s
  else
    let lvl := s.flm.spareLevel
    let low := 10 * s.cfgFld (pg flmPage + 0x21C) 8 8
    let crit := 10 * s.cfgFld (pg flmPage + 0x21C) 16 8
    let s := if lvl < low then s.raise flmPage 8 else s
    if lvl < crit ∧ s.flm.readOnly = false then
      ({ s with flm := { s.flm with readOnly := true } }).raise flmPage 7
    else s

/-- E computed again (10 R378, R349), with the T of the rows and its L: a fall raises CAPACITY and lowers the T2 capacity. While a failed
die is being rebuilt it waits for the end of the rebuild (01 R40). -/
def State.newExport (s : State) : State :=
  let e := s.flm.exported
  if s.flm.rebuild then s
  else
    let t := s.flm.sbTotal
    let s := { s with flm := { s.flm with total := t, slc := s.flm.slcCount t } }
    if e < s.flm.units then ({ s with flm := { s.flm with units := e, cap := e * 262144 } }).raise flmPage 9 else s

/-- A block of a die retires (10 R378): bad; the die takes a replacement when its superblock is formed again. -/
def State.retireBlock (s : State) (die block : Nat) : State :=
  if (sget s.flm.die Die.absent die).bad.contains block then s
  else
    let s := { s with flm := s.flm.updDie die (fun x => { x with bad := x.bad ++ [block] }) }
    s.bump (pg flmPage + 0x2D0)

/-- Group page and index of a channel (10). -/
def chPage (ch : Nat) : Nat := 0x38 + ch / 8

/-- UNIT of a die in the RAS log: channel × 32 + volume × 4 + LUN (16 R572). -/
def dieUnit (die : Nat) : Nat := dieChannel (die / 32) (die % 32) * 32 + die / 32 % 32

/-- What a die's failure does to a superblock that has a block on it (10 R376): a FREE one goes on without that block, an open one is
closed, and all but FREE ones are to be relocated. -/
def Sb.hurt (b : Sb) (pos closes : Nat) : Sb :=
  if b.st = .free then { b with blocks := b.blocks.filter (fun x => decide (x.1 ≠ pos)) }
  else if b.st = .openSlc ∨ b.st = .openNative then { b with rebuild := true, st := .closed, closedAt := closes }
  else { b with rebuild := true }

/-- A superblock with a block on a die that fails, or of a row that is retired with it (10 R376). -/
def Sb.hit (row pos : Nat) (retire : Bool) (e : Nat × Sb) : Bool :=
  decide (e.1 / 8192 = row ∧ e.2.st ≠ .retired) && (retire || e.2.blocks.any (fun b => decide (b.1 = pos)))

/-- A die fails (10 R376): journaled, its superblocks are scheduled, its row is retired below 24 live
dies. -/
def State.dieFails (s : State) (die : Nat) : State :=
  let row := die / 32
  let pos := die % 32
  if (sget s.flm.die Die.absent die).st ≠ .live then s
  else
    let was := s.flm.rowUsed row
    let s := { s with flm := s.flm.updDie die (fun d => { d with st := .failed }) }
    let s := s.journal (.dieState die .failed)
    let retire := was && decide ((s.flm.livePos row).length < 24)
    let hit := Sb.hit row pos retire
    let gone := fun (x : Option Nat) => match x with
      | some n => hit (n, s.flm.sbAt n)
      | none => false
    let open_ := (s.flm.sb.filter (fun e => hit e && decide (e.2.st = .openSlc ∨ e.2.st = .openNative))).map (·.1)
    let stop := (s.flm.stream.filter (fun e => gone e.2.sb)).map (·.1)
    let s := { s with flm := { s.flm with
      stream := s.flm.stream.map (fun (e : Nat × Stream) =>
        if gone e.2.sb then (e.1, { e.2 with sb := none, flushed := false }) else e),
      prog := s.flm.prog.filter (fun (e : Nat × Nat) => !stop.contains (e.2 - 1))
      sb := s.flm.sb.map (fun (e : Nat × Sb) =>
        if hit e then (e.1, e.2.hurt pos (s.flm.closes + (open_.takeWhile (fun n => decide (n < e.1))).length)) else e)
      closes := s.flm.closes + open_.length
      busy := s.flm.busy.filter (fun (e : Nat × Option Busy) => decide (e.1 ≠ die) && !(e.2.any (fun (b : Busy) => stop.any (fun k => decide (b.op = FlashOp.prog k))))),
      retired := if retire then s.flm.retired ++ [row] else s.flm.retired,
      rebuild := s.flm.rebuild || s.flm.sb.any (fun e => hit e && decide (e.2.st ≠ SbState.free)) } }
    let ch := dieChannel row pos
    let s := (s.bump (pg flmPage + 0x2D4)).raise (chPage ch) 1
    (s.rasRecord (chPage ch) 0x0B 2 (dieUnit die) 0).newExport.spareCheck

/-- A program or erase of a block failed or passed: four failures in a row on distinct blocks fail the die
(10 R376). -/
def State.blockResult (s : State) (die block : Nat) (ok : Bool) : State :=
  let s := { s with flm := s.flm.updDie die (fun d =>
    { d with streak := if ok then [] else if d.streak.contains block then d.streak else d.streak ++ [block] }) }
  if 4 ≤ (sget s.flm.die Die.absent die).streak.length then s.dieFails die else s

/-! ### Records that become durable (10 R360, R364 to R367) -/

/-- Credit of `k` slots that left superblock `sb`. -/
def State.relocCredit (s : State) (old : Option Loc) (k : Nat) : State :=
  match old with
  | none => s
  | some l =>
    let b := s.flm.sbAt l.sb
    if b.st = .victim then s.addCredit (k * slotCredit b.was (s.flm.slotsOf b)) else s

/-- A relocated unit is still where its old location says; a first write has no old location. -/
def State.stillAt (s : State) (a : Nat) (old : Option Loc) : Bool :=
  match old with
  | none => true
  | some l => decide (s.flm.locOf a = some l)

/-- A stipple address belongs to the copy of a page set that is written or being written. -/
def State.t2Has (s : State) (h a : Nat) : Bool :=
  let f := sget s.flm.first 0 h
  decide (f ≠ 0 ∧ f ≤ a + 1 ∧ a + 1 < f + sget s.flm.span 0 h)

/-- Every address of a page set's copy has a location. -/
def State.t2Whole (s : State) (h : Nat) : Bool :=
  let f := sget s.flm.first 0 h
  decide (f ≠ 0) && (List.range (sget s.flm.span 0 h)).all (fun k => (s.flm.locOf (f - 1 + k)).isSome)

/-- The last unit of a demoted page set has committed: its move may commit (10 R360). -/
def State.noteLanded (s : State) (h : Nat) : State :=
  if s.t2Whole h && (s.copyOf h).isSome && !s.flm.landed.contains h
      && s.tier.moves.any (fun m => decide (s.handleOf m.pset = h ∧ m.target = 2 ∧ m.releasing = false ∧ m.gone = false)) then
    { s with flm := { s.flm with landed := s.flm.landed ++ [h] } }
  else s

/-- A stipple entry inserted in the bucket taken for it, or changed in its own (10 R354); a unit whose sixteen addresses have entries is
MAPPED no more. -/
def Flm.putStip (f : Flm) (h a : Nat) (new : Loc) : Flm :=
  let b := match f.stip.find? (fun e => decide (e.1 = a)) with
    | some e => e.2.bucket
    | none => match sget f.stipRes 0 a with
      | 0 => (f.stipBucket a).getD (stipBuckets a).1
      | b + 1 => b
  let f := { f with
    stip := sset f.stip { pset := 0, bucket := 0, loc := Loc.none } a { pset := h, bucket := b, loc := new },
    stipRes := sset f.stipRes 0 a 0 }
  if (List.range 16).all (fun k => f.stip.any (fun e => decide (e.1 = a / 16 * 16 + k))) then
    { f with broad := sset f.broad { pset := 0, loc := Loc.none } (a / 16) { pset := 0, loc := Loc.none } }
  else f

/-- A MAPPED unit put in the broad map; stipple entries of its addresses go. -/
def Flm.putBroad (f : Flm) (h a : Nat) (new : Loc) : Flm :=
  { f with
    broad := sset f.broad { pset := 0, loc := Loc.none } (a / 16) { pset := h, loc := new },
    stip := f.stip.filter (fun e => decide (e.1 / 16 ≠ a / 16)) }

/-- Effect of a map record at its commit (10 R360); a released unit's relocation is invalid (10 R390). -/
def State.mapCommit (s : State) (h a : Nat) (wide : Bool) (new : Loc) (old : Option Loc) : State :=
  if !s.t2Has h a ∨ !s.stillAt a old then s
  else
    let s := s.relocCredit old (if wide then 16 else 1)
    let s := { s with flm := if wide then s.flm.putBroad h a new else s.flm.putStip h a new }
    ((s.footAdd h new.sb).noteLanded h).eraseReady

/-- Superblocks that hold slots of a copy. -/
def Flm.sbsOf (f : Flm) (h : Nat) : List Nat :=
  (((f.broad.filter (fun e => decide (e.2.pset = h))).map (·.2.loc.sb))
    ++ ((f.stip.filter (fun e => decide (e.2.pset = h))).map (·.2.loc.sb))).dedup

/-- Every T2 map entry of a range of addresses goes once its UNMAP record is durable (10 R360, R380). -/
def State.dropMap (s : State) (h first count : Nat) : State :=
  let out := fun (a : Nat) => decide (a < first ∨ first + count ≤ a)
  let s := { s with flm := { s.flm with
    broad := s.flm.broad.filter (fun e => out (16 * e.1)),
    stip := s.flm.stip.filter (fun e => out e.1),
    dying := s.flm.dying.filter (fun x => decide (x.1 ≠ h ∨ x.2.1 ≠ first)),
    copy := if (s.copyOf h).any (fun (c : Copy) => decide (c.first = first)) then sset s.flm.copy none h none else s.flm.copy } }
  s.eraseReady

/-- A durable map record commits (10 R360): step 4 waits while the journal is full (10 R367). -/
def State.commitMap (s : State) (r : JRec) : State :=
  if s.flm.jfull then { s with flm := { s.flm with jheld := s.flm.jheld ++ [r] } }
  else match r.body with
    | .mapBroad u h new old => s.mapCommit h (16 * u) true new old
    | .mapStip a h new old => s.mapCommit h a false new old
    | .unmap h first count _ => s.dropMap h first count
    | _ => s

/-- The records held back by a full journal are appended, and the map changes that waited commit (10 R367). -/
def State.jrelease (s : State) : State :=
  let w := s.flm.jwait
  let d := s.flm.jheld
  let s := { s with flm := { s.flm with jfull := false, jwait := [], jheld := [] } }
  w.foldl (fun s b => s.journal b) (d.foldl (fun s r => s.commitMap r) s)

/-- What area `n mod 2` holds (10 R366). -/
def Flm.area (f : Flm) (n : Nat) : Option Ckpt := if n % 2 = 0 then f.ckpt0 else f.ckpt1

/-- The last complete checkpoint (10 R366). -/
def Flm.lastCkpt (f : Flm) : Option Ckpt := f.area f.ckptN

/-- What a checkpoint that begins now writes into its area (10 R366); `seq` is that of its CKPT_BEGIN. -/
def State.ckptImage (s : State) (n seq : Nat) : Ckpt :=
  let f := s.flm
  { n := n, seq := seq, broad := f.broad, stip := f.stip, sb := f.sb, copy := f.copy, foot := f.foot,
    gens := s.dir.gens, genDef := s.dir.genDef, mark := f.mark }

/-- A checkpoint written into its area. -/
def Flm.putArea (f : Flm) (c : Ckpt) : Flm := if c.n % 2 = 0 then { f with ckpt0 := some c } else { f with ckpt1 := some c }

/-- The checkpoint is complete (10 R366): older journal pages are free, what it wrote of the generations counts as written (05 R194),
and the journal takes records again. -/
def State.ckptDone (s : State) (n : Nat) : State :=
  let c := s.flm.area n
  let s := { s with flm := { s.flm with
    ckptRun := false, ckptN := n, gensSaved := c.elim s.flm.gensSaved (fun (x : Ckpt) => x.gens), savedDef := c.elim s.flm.savedDef (fun (x : Ckpt) => x.genDef)
    jused := s.flm.jrun, jlog := s.flm.jlog.filter (fun r => decide ((c.elim 0 (fun (x : Ckpt) => x.seq)) ≤ r.seq)),
    saved := some (s.flm.pct, s.flm.opPct, s.flm.reserve, s.flm.jmax / 2 ^ 30) } }
  let w := s.dir.proofWait
  let s := w.foldl (fun (s : State) i => s.returnProof i) { s with dir := { s.dir with proofWait := [] } }
  (s.bump (pg flmPage + 0x2D8)).jrelease

/-- A record takes effect when it is durable (10 R360). -/
def State.applyRec (s : State) (r : JRec) : State :=
  let s := { s with flm := { s.flm with jdurable := r.seq, jlog := s.flm.jlog ++ [r] } }
  match r.body with
  | .pad _ => s
  | .mapBroad .. => s.commitMap r
  | .mapStip .. => s.commitMap r
  | .unmap .. => s.commitMap r
  | .sbState n st _ _ =>
    if st = .eraseBegin then { s with flm := s.flm.updSb n (fun b => { b with eraseOk := true }) } else s
  | .psetCommit h v dir image first =>
    let sbs := s.flm.sbsOf h
    let s := { s with flm := { s.flm with
      copy := sset s.flm.copy none h (some { v := v, dir := dir, image := image, first := first }),
      foot := sset s.flm.foot none h (some { sbs := sbs.take 16, overflow := decide (16 < sbs.length), seq := r.seq }) } }
    s.noteLanded h
  | .psetRelease h _ _ => { s with flm := { s.flm with copy := sset s.flm.copy none h none } }
  | .dirUpdate i image _ =>
    match s.copyOf image.pset with
    | none => s
    | some c => { s with flm := { s.flm with
        copy := sset s.flm.copy none image.pset (some { c with dir := i, image := image }) } }
  | .seqMark v => { s with flm := { s.flm with mark := v } }
  | .ckptBegin _ _ => { s with flm := { s.flm with jrun := 0 } }
  | .ckptEnd n _ => s.ckptDone n
  | .discardBegin id _ _ => { s with flm := { s.flm with
      discards := updIf s.flm.discards (fun d => decide (d.id = id)) (fun d => { d with begun := true }) } }
  | .discardEnd id _ => { s with flm := { s.flm with
      discards := updIf s.flm.discards (fun d => decide (d.id = id)) (fun d => { d with finished := true }) } }
  | .dieState _ _ => s

/-! ### Where journal pages lie (10 R364) -/

/-- Journal pages of a ring superblock: 16 die positions by SLC pages by planes. -/
def Flm.ringPages (f : Flm) : Nat := 16 * f.pagesOf false * f.geom.planes

/-- The ring superblock and the stripe that hold journal page `n`; none without a ring. -/
def Flm.ringPlace (f : Flm) (n : Nat) : Option (Nat × Nat) :=
  if f.jring = [] ∨ f.ringPages = 0 then none
  else (f.jring[n / f.ringPages % f.jring.length]?).map (fun sb => (sb, n % f.ringPages / 16))

/-- Die position of a copy of journal page `n`: the second lies 16 higher. -/
def ringPos (n copy : Nat) : Nat := n % 16 + 16 * copy

/-- Die of a copy of journal page `n`. -/
def Flm.ringDie (f : Flm) (n copy : Nat) : Option Nat := (f.ringPlace n).map (fun x => 32 * (x.1 / 8192) + ringPos n copy)

/-- The copy of a journal page is being programmed; without a ring there is nothing to program it on. -/
def Flm.ringBusy (f : Flm) (n copy : Nat) : Bool :=
  match f.ringDie n copy with
  | none => true
  | some d => (sget f.busy none d).any (fun b => decide (b.op = .page n))

/-- A block of a superblock is erased: counted in its group and on its die (10 R379, R391). -/
def State.blockErased (s : State) (n pos block : Nat) : State :=
  let s := s.bump (pg (chPage (dieChannel (n / 8192) pos)) + 0x18C)
  { s with flm := s.flm.updDie (32 * (n / 8192) + pos) (fun d =>
    { d with erases := sset d.erases 0 block (sget d.erases 0 block + 1) }) }

/-- The raw pages of a superblock are gone with its erase. -/
def Flm.wipe (f : Flm) (n : Nat) : Flm := { f with media := f.media.filter (fun e => decide (e.1 / 2 ^ 20 ≠ n)) }

/-- A ring superblock is erased before the ring comes round to it again (10 R364, R366). -/
def State.ringErase (s : State) (n : Nat) : State :=
  match s.flm.ringPlace n with
  | none => s
  | some (sb, _) =>
    if n % s.flm.ringPages = 0 ∧ s.flm.jring.length * s.flm.ringPages ≤ n then
      let s := (s.flm.sbAt sb).blocks.foldl (fun s b => s.blockErased sb b.1 b.2) s
      { s with flm := s.flm.wipe sb }
    else s

/-- Programmed journal bytes count towards JOURNAL_MAX (10 R366, R367). -/
def State.jcount (s : State) : State :=
  let s := { s with flm := { s.flm with jused := s.flm.jused + 16384, jrun := s.flm.jrun + 16384 } }
  if s.flm.jmax ≤ s.flm.jused ∧ s.flm.jfull = false then
    ({ s with flm := { s.flm with jfull := true } }).raise flmPage 10
  else s

/-! ### T2 reads (07 R236, R251) -/

/-- Flash channel of a T2 page: that of its first slot. -/
def State.t2Channel (s : State) (i p : Nat) : Nat :=
  match s.pageLocs i p with
  | l :: _ => s.flm.slotChannel l
  | [] => 0

/-- Queues T2 reads of the pages that are not ready and not on their way (07 R236, R251). -/
def State.needPages (s : State) (i : Nat) (ps : List Nat) (urgent pfs : Bool) : State :=
  ps.foldl (fun s p =>
    if s.pageReady i p then s
    else if s.pfs.reads.any (fun r => decide (r.pset = i ∧ r.page = p)) then
      { s with pfs := { s.pfs with
          reads := updIf s.pfs.reads (fun r => decide (r.pset = i ∧ r.page = p))
            (fun r => { r with urgent := r.urgent || urgent }) } }
    else
      { s with pfs := { s.pfs with
          reads := s.pfs.reads ++ [{ rid := s.pfs.nextRid, pset := i, page := p, ch := s.t2Channel i p,
                                     urgent := urgent, pfs := pfs, started := false, issuedAt := s.clk, heal := false, locs := [] }],
          nextRid := s.pfs.nextRid + 1 } }) s

/-- A page of T0, T1 or the T1 cache that could not be read is read from its T2 copy (07 R259). -/
def State.healPage (s : State) (i p : Nat) : State :=
  let mine := fun (r : T2Read) => decide (r.pset = i ∧ r.page = p)
  let s := { s with pfs := { s.pfs with cache := s.pfs.cache.filter (fun c => decide (c.pset ≠ i ∨ c.page ≠ p)) } }
  if s.pfs.reads.any mine then
    { s with pfs := { s.pfs with
        reads := updIf s.pfs.reads mine (fun r => { r with urgent := true, heal := true }) } }
  else
    { s with pfs := { s.pfs with
        reads := s.pfs.reads ++ [{ rid := s.pfs.nextRid, pset := i, page := p, ch := s.t2Channel i p, urgent := true,
                                   pfs := false, started := false, issuedAt := s.clk, heal := true, locs := [] }],
        nextRid := s.pfs.nextRid + 1 } }

end Sys2Proof.Machine
end

