-- ==== Sys2Proof/Machine/NetBase.lean ====
section
/-! DEFINITION. The network side's tables (13 R467 to R484, R493 to R495): connection contexts, ports, message
posting and the operand addresses of network requests. -/

namespace Sys2Proof.Machine

/-- Page of the transport. -/
def xptPage : Nat := 0x64

/-- Page of network port `n`. -/
def netPage (n : Nat) : Nat := 0x60 + n

/-- Page of the gate of port `n`. -/
def gatePage (n : Nat) : Nat := 0x68 + n

/-- A 24-bit sequence number plus `k`. -/
def psnAdd (a k : Nat) : Nat := (a + k) % 2 ^ 24

/-- Distance from `b` up to `a`, modulo 2^24. -/
def psnSub (a b : Nat) : Nat := (a + 2 ^ 24 - b % 2 ^ 24) % 2 ^ 24

/-! ### Ports -/

/-- A network port. -/
def State.netPort (s : State) (n : Nat) : NetPort := sget s.net.port NetPort.reset n

/-- A network port, set. -/
def State.setNetPort (s : State) (n : Nat) (v : NetPort) : State :=
  { s with net := { s.net with port := sset s.net.port NetPort.reset n v } }

/-- The port exists on the fused part (13 R467). -/
def State.netExists (s : State) (n : Nat) : Bool := decide (n < 2 * s.fusedDies)

/-- The gate of a port. -/
def State.gate (s : State) (n : Nat) : Gate := sget s.net.gate Gate.reset n

/-- The gate of a port, set. -/
def State.setGate (s : State) (n : Nat) (v : Gate) : State :=
  { s with net := { s.net with gate := sset s.net.gate Gate.reset n v } }

/-! ### Contexts (13 R478 to R481) -/

/-- Contexts that exist: with spill 2^ENTRIES_LOG2, else 16,384 (13 R478). -/
def State.ctxCount (s : State) : Nat := if bit s.net.spill 31 then 2 ^ fld s.net.spill 0 5 else 16384

/-- A QPN of an existing context. -/
def State.qpnOk (s : State) (q : Nat) : Bool := decide (0x100000 ≤ q ∧ q < 0x100000 + s.ctxCount)

/-- Context of a QPN. -/
def State.ctx (s : State) (q : Nat) : Ctx := sget s.net.ctx Ctx.none (q - 0x100000)

/-- Context of a QPN, set. -/
def State.setCtx (s : State) (q : Nat) (v : Ctx) : State :=
  { s with net := { s.net with ctx := sset s.net.ctx Ctx.none (q - 0x100000) v } }

/-- What a connection has in hand. -/
def State.conn (s : State) (q : Nat) : Conn := sget s.net.conn Conn.none (q - 0x100000)

/-- What a connection has in hand, set. -/
def State.setConn (s : State) (q : Nat) (v : Conn) : State :=
  { s with net := { s.net with conn := sset s.net.conn Conn.none (q - 0x100000) v } }

/-- Bit of context word 0. -/
def Ctx.bit0 (c : Ctx) (i : Nat) : Bool := bit (c.ws.getD 0 0) i

/-- Field of a context word. -/
def Ctx.fld (c : Ctx) (w lo n : Nat) : Nat := Machine.fld (c.ws.getD w 0) lo n

/-- SPRAY. -/
def Ctx.spray (c : Ctx) : Bool := c.bit0 29

/-- Payload bytes of a full packet. -/
def Ctx.pmtu (c : Ctx) : Nat := 1024 * 2 ^ c.fld 0 12 2

/-- The connection carries packets: READY or RETRY. -/
def Ctx.live (c : Ctx) : Bool := decide (c.state = .ready ∨ c.state = .retry)

/-- Spill is in use (13 R481). -/
def State.spillOn (s : State) : Bool := bit s.net.spill 31

/-- The context is on chip. -/
def State.ctxHere (s : State) (q : Nat) : Bool := !s.spillOn || s.net.cached.contains (q - 0x100000)

/-- STATE code of a context. -/
def CState.code : CState → Nat
  | .reset => 0 | .ready => 1 | .retry => 2 | .error => 3

/-- State of a code. -/
def cstateOf (n : Nat) : CState := if n = 1 then .ready else if n = 2 then .retry else if n = 3 then .error else .reset

/-- RX_PLACE: base address, RKEY and remaining length of the open WRITE (13 R479). -/
def rxPlace (c : Ctx) (k : Conn) : List Word :=
  match k.inb with
  | m :: _ =>
    if c.spray ∨ m.send then [0, 0, 0, 0]
    else split64 m.va ++ [w32 m.rkey, w32 (m.dlen - m.landed.length * c.pmtu)]
  | [] => [0, 0, 0, 0]

/-- RX_MSG0 to RX_MSG3: the open inbound messages (13 R479). -/
def rxMsgs (c : Ctx) (k : Conn) : List Word :=
  (List.range 4).flatMap (fun i =>
    match k.inb[i]? with
    | some m => if c.spray then [w32 m.first, w32 m.count, w32 m.landed.length, m.imm.getD 0] else [0, 0, 0, 0]
    | none => [0, 0, 0, 0])

/-- The 64 words of a context (13 R479). -/
def ctxWords (c : Ctx) (k : Conn) : List Word :=
  let h := fun i => c.ws.getD i 0
  [(h 0 &&& 0x3FFFFFFF) ||| w32 (c.state.code * 2 ^ 30), (h 1 &&& 0xFFFF0000) ||| w32 c.tenant]
    ++ (List.range 10).map (fun i => h (i + 2))
    ++ [w32 c.sqPsn, w32 c.una, w32 c.recovery, w32 c.window, w32 (c.timer.getD 0 / 1000),
        w32 (c.rnrUsed * 256 + c.retries), h 18, h 19, w32 c.epsn, w32 c.msn, h 22, h 23]
    ++ (List.range 8).map (fun i => w32 (c.bitmap / 2 ^ (32 * i)))
    ++ rxPlace c k ++ rxMsgs c k
    ++ [w32 c.nSent, w32 c.nResent, w32 c.nRecv, w32 c.nDup]
    ++ (List.range 8).map (fun i => h (i + 56))

/-- The context that 64 words hold. -/
def ctxOf (ws : List Word) : Ctx :=
  let w := fun i => wd ws i
  { ws := ws, state := cstateOf (fld (ws.getD 0 0) 30 2), tenant := w 1 % 2 ^ 16, sqPsn := w 12 % 2 ^ 24,
    una := w 13 % 2 ^ 24, recovery := w 14 % 2 ^ 24, window := w 15,
    timer := if w 16 = 0 then Option.none else some (w 16 * 1000), rnrUsed := w 17 / 256 % 256, retries := w 17 % 8,
    epsn := w 20 % 2 ^ 24, msn := w 21 % 2 ^ 24,
    bitmap := ((List.range 8).map (fun i => w (24 + i) * 2 ^ (32 * i))).sum,
    nSent := w 52, nResent := w 53, nRecv := w 54, nDup := w 55 }

/-- Host port of the spill table, and the address of an entry (13 R481). -/
def State.spillPort (s : State) : Nat := fld s.net.spill 30 1

/-- Address of the spilled context of a QPN. -/
def State.spillAddr (s : State) (q : Nat) : Nat := s.net.spillBase + 256 * (q - 0x100000)

/-- The context wherever it lives: none while its spill port is lost. -/
def State.ctxPeek (s : State) (q : Nat) : Option Ctx :=
  if s.ctxHere q then some (s.ctx q)
  else (s.hostRead s.spillPort (s.spillAddr q) 256).map (fun bs => ctxOf (wordsOf bs))

/-- Packets of a message. -/
def Msg.packets (m : Msg) (pmtu : Nat) : Nat := max 1 (ceilDiv' m.total pmtu)

/-- A message is posted on a connection (13 R483): its number is the old `nextMid`. -/
def State.post (s : State) (q tc : Nat) (work : MsgWork) (write : Bool) (va rkey : Nat) (imm : Option Word)
    (total : Nat) (data : List Byte) : State :=
  let c := s.conn q
  let m : Msg := { mid := s.net.nextMid, tc := tc, work := work, write := write, va := va, rkey := rkey, imm := imm,
                   total := total, data := data, first := Option.none, dead := false }
  let s := s.setConn q { c with msgs := c.msgs ++ [m] }
  { s with net := { s.net with nextMid := s.net.nextMid + 1 } }

/-- Bytes read into staging for a posted message. -/
def State.postMore (s : State) (q : Nat) (work : MsgWork) (bs : List Byte) : State :=
  let c := s.conn q
  s.setConn q { c with msgs := updIf c.msgs (fun m => decide (m.work = work)) (fun m => { m with data := m.data ++ bs }) }

/-- A message whose work has failed: dropped before its first packet, filler after it. -/
def State.killMsg (s : State) (q : Nat) (work : MsgWork) : State :=
  let c := s.conn q
  let fill := fun (m : Msg) =>
    { m with dead := true, imm := Option.none,
             data := m.data ++ (List.range (m.total - m.data.length)).map (fun i => Config.freeByte (s.free + i)) }
  let used := ((c.msgs.filter (fun m => decide (m.work = work))).map (fun m => m.total - m.data.length)).sum
  let s := s.setConn q { c with
    msgs := (c.msgs.filter (fun m => decide (m.work ≠ work) || m.first.isSome)).map
      (fun m => if m.work = work then fill m else m) }
  { s with free := s.free + used }

/-! ### Network requests (13 R493 to R495) -/

/-- A network request by its number. -/
def State.netReq (s : State) (rid : Nat) : Option NetReq := s.net.reqs.find? (fun r => decide (r.rid = rid))

/-- The response of a network request leaves on its connection, unless that is in ERROR (13 R495); its slot is
free again. -/
def State.netAnswer (s : State) (q rid tag : Nat) (ws : List Word) : State :=
  let ours := (s.netReq rid).any (fun r => decide (r.qpn = q))
  let s := { s with net := { s.net with reqs := s.net.reqs.filter (fun r => decide (r.rid ≠ rid)) } }
  if ours ∧ (s.ctx q).live then
    s.post q ((s.ctx q).fld 0 17 3) (.answer rid) false 0 0 (some (w32 (tag % 2 ^ 24 * 256 + 0xFF))) 32 (bytesOf ws)
  else s

/-! ### Operands (13 R491, R494) -/

/-- Byte address of linear position `k` onward of a page set (13 R491). -/
def linAddr (i pageSize page off k : Nat) : Nat :=
  let x := page * pageSize + off + k
  pageAddr i (x / pageSize) (x % pageSize)

/-- `n` bytes from a linear position. -/
def State.linRead (s : State) (i pageSize page off n : Nat) : List Byte :=
  (List.range n).map (fun k => s.page.rd (linAddr i pageSize page off k))

/-- Bytes written from a linear position. -/
def State.linWrite (s : State) (i pageSize page off : Nat) : Nat → List Byte → State
  | _, [] => s
  | k, b :: bs =>
    let s := { s with page := s.page.wr (linAddr i pageSize page off k) b }
    s.linWrite i pageSize page off (k + 1) bs

/-- A reservation range of a tenant from a page-set address (06 R203; 13 R491): index, page, offset, page
size. `sealed` says whether a sealed one will do. -/
def State.rsvRange (s : State) (tenant a n : Nat) (sealed : Bool) : Option (Nat × Nat × Nat × Nat) :=
  let h := a / 2 ^ 32
  let page := nfld a 21 10
  let off := a % 2 ^ 21
  match s.psetOf h with
  | none => none
  | some v =>
    if nfld a 31 1 = 0 ∧ v.tenant = tenant ∧ (v.rstate = .open_ ∨ (sealed ∧ v.rstate ≠ .published)) ∧ page < v.pages
        ∧ off < v.pageSize ∧ page * v.pageSize + off + n ≤ v.pages * v.pageSize then
      some (psIx h, page, off, v.pageSize)
    else none

/-- An operand read of a command: host memory, or for a network request its inline data or a page-set address
of the connection tenant's reservations (13 R494). An operand that lies outside both is a bad command. -/
def State.opRead (s : State) (l : Live) (a n : Nat) : Except Status (List Byte) :=
  match l.src with
  | .net _ rid =>
    if a < 2 ^ 32 then
      match s.netReq rid with
      | some r =>
        let inl := (r.bytes.getD []).drop 64
        if a + n ≤ inl.length then .ok ((inl.drop a).take n) else .error .badCommand
      | none => .error .badCommand
    else match s.rsvRange l.tenant a n true with
      | some (i, page, off, ps) => .ok (s.linRead i ps page off n)
      | none => .error .badCommand
  | _ => s.workRead l.tenant l.port a n

end Sys2Proof.Machine
end

