-- ==== Sys2Proof/Machine/Complete.lean ====
section
/-! DEFINITION. Completions (12 R437 to R445; 00 R10, R17, R18), messages to vectors, proofs that open and
close (05 R186 to R194), and the end of an accepted command. -/

namespace Sys2Proof.Machine

/-! ### Queue sets -/

/-- A queue set. -/
def State.qset (s : State) (p q : Nat) : QSet := sget s.que.qs QSet.reset (64 * p + q)

/-- A queue set, set. -/
def State.setQset (s : State) (p q : Nat) (v : QSet) : State :=
  { s with que := { s.que with qs := sset s.que.qs QSet.reset (64 * p + q) v } }

/-- BAR0 address of a queue set block (12 R465). -/
def qsAddr (p q : Nat) : Nat := pg (0x48 + 4 * p + q / 16) + 0x400 + 0x40 * (q % 16)

/-- BAR0 address of the port registers of the queue engine. -/
def quePage (p : Nat) : Nat := 0x48 + 4 * p

/-- The message of a queue set's vector for every entry not yet signalled (12 R439). -/
def State.signal (s : State) (p q : Nat) : State :=
  let c := s.reg (qsAddr p q + 0x14)
  (s.setQset p q { s.qset p q with unsig := 0, unsigAt := none }).msix p (fld c 8 8)

/-- Free completion entries of a queue set (12 R437). -/
def QSet.room (v : QSet) : Nat := 2 ^ v.cqLog - v.written - v.reserved

/-- One completion entry written: eight words, of which word 2 takes PHASE and, in the native format,
SQ_HEAD; then coalescing (12 R432, R439, R444). -/
def State.writeCq (s : State) (p q : Nat) (ws : List Word) (native int : Bool) : State :=
  let v := s.qset p q
  let w2 := (ws.getD 2 0) ||| (if v.cqPhase then 0x80000000 else 0)
    ||| (if native then w32 (v.sqHead * 2 ^ 16) else 0)
  let s := s.hostPut p (v.cqBase + 32 * v.cqTail) (bytesOf ((ws.take 2) ++ [w2] ++ (ws.drop 3).take 5))
  let wrap := decide (v.cqTail + 1 = 2 ^ v.cqLog)
  let v := { v with cqTail := if wrap then 0 else v.cqTail + 1,
                    cqPhase := if wrap then !v.cqPhase else v.cqPhase, written := v.written + 1 }
  let c := s.reg (qsAddr p q + 0x14)
  if bit c 16 then
    let v := { v with unsig := v.unsig + 1, unsigAt := some (v.unsigAt.getD s.clk) }
    let s := s.setQset p q v
    let n := fld (s.reg (qsAddr p q + 0x18)) 0 8
    if int || decide (max n 1 ≤ v.unsig) then s.signal p q else s
  else s.setQset p q v

/-- A record's or summary's completion: written, or made to wait for a free entry (12 R437), or for the queue
set to be enabled. It has the native layout also where QSET names a queue set with version 1 entries: the spec gives
SOURCE and STROKE no place in those (DESIGN CHOICE, log 150). -/
def State.postCq (s : State) (id p q : Nat) (ws : List Word) (int : Bool) : State :=
  let v := s.qset p q
  if v.room = 0 ∨ v.waits ≠ [] ∨ v.state = .disabled then
    s.setQset p q { v with waits := v.waits ++ [{ id := id, ws := ws, int := int }] }
  else s.writeCq p q ws true int

/-- A completion's eight words without PHASE and SQ_HEAD (12 R444). -/
def cqWords (tag source op : Nat) (st : Status) (w3 : Word) (rs : List Word) : List Word :=
  split64 tag ++ [w32 (source * 2 ^ 29 + op * 2 ^ 8 + st.code), w3]
    ++ (List.range 4).map (fun i => rs.getD i 0)

/-- A result word that the spec leaves undefined (00 R18). -/
def freeWord (n : Nat) : Word := w32 (Config.freeNat n)

/-- `n` result words that the spec leaves undefined. -/
def State.freeWords (s : State) (n : Nat) : List Word × State :=
  ((List.range n).map (fun i => freeWord (s.free + i)), { s with free := s.free + n })

/-- Opcodes whose result words are defined with every status (12 R445): DELIVER and the ATTEND class. -/
def alwaysDefined (op : Nat) : Bool := decide (op = 0x0A ∨ (0x0C ≤ op ∧ op ≤ 0x0F))

/-- Result words of a command that ends before it has a result: nothing done and no failed entry or request, where they are defined
with every status; else undefined (00 R18; 12 R445). -/
def State.endWords (s : State) (op n : Nat) : List Word × State :=
  if alwaysDefined op then (List.replicate n 0, s) else s.freeWords n

/-- Opcode of a record; 0 for a PREFETCH_STEP. -/
def SRec.op (r : SRec) : Nat := if recKind r.ws = 1 then 0 else fld ((recCmd r.ws).getD 0 0) 0 8

/-- Version 1 status bytes: extended status and status byte (00 R10). -/
def compatStatus (st : Status) : Nat × Nat :=
  match st with
  | .ok => (0, 0x00) | .late => (0, 0x01) | .notFound => (0, 0x03) | .poison => (0, 0x06)
  | .timeout => (0, 0x0D) | .multi => (0, 0x00)
  | st => (st.code, 0x3F)

/-- A version 1 completion (12 R452): word 3 is the page count. -/
def compatWords (tag : Nat) (st : Status) (w3 : Word) : List Word :=
  let (x, b) := compatStatus st
  split64 tag ++ [w32 (x * 2 ^ 8 + b), w3, 0, 0, 0, 0]

/-! ### Proofs (05 R185 to R194) -/

/-- Handle of a proof (05 R185). -/
def Proof.handle (p : Proof) : Nat := p.slot * 2 ^ 12 + p.gen

/-- Proofs that a tenant has open. -/
def State.openProofs (s : State) (tenant : Nat) : Nat :=
  (s.dir.proofs.filter (fun p => decide (p.tenant = tenant))).length

/-- Takes a free proof slot for a tenant: the limit first, then the slots (05 R187); the snapshot is
DIR_SEQ (05 R186). -/
def State.takeProof (s : State) (tenant leaseMs : Nat) (implicit : Option Nat) :
    State × Except Status Proof :=
  if s.proofLimit tenant ≤ s.openProofs tenant then (s, .error .quota)
  else
    let pick : Option (Nat × State) :=
      if s.dir.proofFresh < 2 ^ 20 then
        some (s.dir.proofFresh, { s with dir := { s.dir with proofFresh := s.dir.proofFresh + 1 } })
      else match s.dir.proofBack with
        | i :: r => some (i, { s with dir := { s.dir with proofBack := r } })
        | [] => none
    match pick with
    | none => (s.raise 0x18 2, .error .notReady)
    | some (i, s) =>
      let p : Proof := { slot := i, gen := s.proofGen i, tenant := tenant, snapshot := s.dirSeq,
                         openedAt := s.clk, expiry := s.clk + leaseMs * 1000000, implicit := implicit }
      ({ s with dir := { s.dir with proofs := s.dir.proofs ++ [p] } }, .ok p)

/-- The view mappings of a proof are removed (11 R411). -/
def State.unmapViews (s : State) (slot : Nat) : State :=
  { s with port0 := { s.port0 with views := s.port0.views.filter (fun v => decide (v.proof ≠ slot)) },
           port1 := { s.port1 with views := s.port1.views.filter (fun v => decide (v.proof ≠ slot)) } }

/-- A proof ends: its slot returns, its view is unmapped and what it held back is reclaimed (05 R189, R194; 11 R411). -/
def State.endProof (s : State) (slot : Nat) : State :=
  let s := { s with dir := { s.dir with proofs := s.dir.proofs.filter (fun p => decide (p.slot ≠ slot)) } }
  ((s.returnProof slot).unmapViews slot).reclaim

/-- The open proof of a tenant that a handle names (05 R192). -/
def State.proofOf (s : State) (tenant h : Nat) : Option Proof :=
  s.dir.proofs.find? (fun p => decide (p.handle = h ∧ p.tenant = tenant ∧ p.implicit = none))

/-- A command reads at a snapshot until it completes (05 R192). -/
def State.holdSnapshot (s : State) (id snap : Nat) : State :=
  { s with dir := { s.dir with readers := s.dir.readers ++ [{ id := id, snapshot := snap }] } }

/-- An implicit proof for a command (05 R187, R188). -/
def State.openImplicit (s : State) (id tenant : Nat) : State × Except Status Proof :=
  s.takeProof tenant (s.cfgFld (pg 0x18 + 0x100) 0 16) (some id)

/-- The implicit proof that a command opened at its acceptance (05 R188). -/
def State.implicitOf (s : State) (id : Nat) : Option Proof := s.dir.proofs.find? (fun p => decide (p.implicit = some id))

/-- The view a command reads in: the named proof, or its implicit one, opened at acceptance (05 R188; `Accept.lean`)
or, for a command that was not accepted on a queue, ring or connection, here. A named proof is as it was when the command started (05
R192). The snapshot is held for the command. -/
def State.viewFor (s : State) (id tenant h : Nat) : State × Except Status Nat :=
  if h = 0 then
    match s.implicitOf id with
    | some p => (s.holdSnapshot id p.snapshot, .ok p.snapshot)
    | none => match (s.live id).bind (fun l => l.noView) with
      | some e => (s, .error e)
      | none => match s.openImplicit id tenant with
        | (s, .ok p) => (s.holdSnapshot id p.snapshot, .ok p.snapshot)
        | (s, .error e) => (s, .error e)
  else match (s.live id).bind (fun l => l.named.find? (fun e => decide (e.1 = h))) with
    | some (_, some snap) => (s.holdSnapshot id snap, .ok snap)
    | some (_, none) => (s, .error .staleProof)
    | none => match s.proofOf tenant h with
      | some p => (s.holdSnapshot id p.snapshot, .ok p.snapshot)
      | none => (s, .error .staleProof)

/-! ### The end of a command -/

/-- A command reads at no snapshot any more (05 R189, R192). -/
def State.dropReaders (s : State) (id : Nat) : State :=
  { s with dir := { s.dir with readers := s.dir.readers.filter (fun r => decide (r.id ≠ id)) } }

/-- What a command held is released: snapshots, reads in flight (05 R189). -/
def State.release (s : State) (id : Nat) : State :=
  let s := s.dropReaders id
  ({ s with tier := { s.tier with reads := s.tier.reads.filter (fun r => decide (r.id ≠ id)) } }).reclaim

/-- The completion entry of a command waits for room (12 R437). -/
def State.entryWaits (s : State) (id : Nat) : Bool := s.que.qs.any (fun e => e.2.waits.any (fun w => decide (w.id = id)))

/-- Implicit proofs close when the completion is written (05 R188; 00 R7). -/
def State.closeViews (s : State) (id : Nat) : State :=
  if s.entryWaits id then s
  else (s.dir.proofs.filter (fun p => decide (p.implicit = some id))).foldl (fun s p => s.endProof p.slot) s

/-- Removes an accepted command. -/
def State.dropLive (s : State) (id : Nat) : State :=
  { s with que := { s.que with live := s.que.live.filter (fun l => decide (l.id ≠ id)) } }

/-- Completion of a queue command (12 R436 to R444): its reserved entry is written. -/
def State.completeQueue (s : State) (l : Live) (p q : Nat) (st : Status) (ws : List Word) : State :=
  let v := s.qset p q
  let s := s.setQset p q { v with reserved := v.reserved - 1 }
  let s := if st = .badCommand then s.bump (qsAddr p q + 0x24) else s
  s.writeCq p q ws (!l.compat) false

/-! ### Records of stroke programs (02 R66 to R79) -/

/-- An instance by its number. -/
def State.inst (s : State) (iid : Nat) : Option Inst := s.stk.insts.find? (fun x => decide (x.iid = iid))

/-- An instance, changed. -/
def State.updInst (s : State) (iid : Nat) (f : Inst → Inst) : State :=
  { s with stk := { s.stk with insts := updIf s.stk.insts (fun x => decide (x.iid = iid)) f } }

/-- A record, changed. -/
def State.updRec (s : State) (iid idx : Nat) (f : SRec → SRec) : State :=
  s.updInst iid (fun x => { x with recs := updIf x.recs (fun r => decide (r.idx = idx)) f })

/-- A record of an instance. -/
def Inst.record (x : Inst) (idx : Nat) : Option SRec := x.recs.find? (fun r => decide (r.idx = idx))

/-- The deadline of a class in a target stroke has passed (02 R70, R71). -/
def State.pastDeadline (s : State) (target c : Nat) : Bool :=
  decide (target < s.stk.stroke) || (decide (s.stk.stroke = target) && decide (s.winSt c = .closed))

/-- No entry waits for this completion on behalf of an accepted command. -/
def noId : Nat := 2 ^ 64

/-- A LATE or TIMEOUT record counts an overrun of its target stroke once (02 R74). -/
def State.overrun (s : State) (target : Nat) : State :=
  if s.stk.overs.contains target then s
  else
    let s := { s with stk := { s.stk with overs := s.stk.overs ++ [target] } }
    s.count 0x03 0x180 1

/-- One record takes its final status: counters, completion entry (02 R70, R74, R78). `write` is false where no
entry is written (02 R642). -/
def State.recOne (s : State) (iid idx id : Nat) (st : Status) (rs : List Word) (write : Bool) : State :=
  match s.inst iid with
  | none => s
  | some x =>
    match x.record idx with
    | none => s
    | some r =>
      let c := (recClass r.ws).getD 0
      let s := s.updRec iid idx (fun r => { r with st := .final st })
      let s := if st = .late then s.bump (pg 0x03 + 0x184 + 4 * c)
        else if st = .timeout then s.bump (pg 0x03 + 0x194) else s
      let s := if st = .late ∨ st = .timeout then s.overrun x.target else s
      let w2 := r.ws.getD 2 0
      if bit w2 31 ∧ write ∧ !x.silent then
        s.postCq id x.port (fld w2 24 6)
          (cqWords (wd64 r.ws 4) 1 r.op st (w32 s.stk.stroke) rs) (bit w2 30)
      else s

/-- Every unstarted record whose AFTER record ended with an error ends ABORTED, and so on (02 R73): one pass in
record order, since AFTER names an earlier record. -/
def State.recAborts (s : State) (iid : Nat) : State :=
  match s.inst iid with
  | none => s
  | some x =>
    x.recs.foldl (fun s r =>
      let dead : Bool := match (s.inst iid).bind (fun x => x.record (recAfter r.ws)) with
        | some a => (match a.st with
            | .final st => !st.good
            | _ => false)
        | none => false
      let waits : Bool := match (s.inst iid).bind (fun x => x.record r.idx) with
        | some v => decide (v.st = .waiting)
        | none => false
      if dead && waits && decide (recAfter r.ws ≠ 0xFFFF) then
        let (ws, s) := s.endWords r.op 4
        s.recOne iid r.idx noId .aborted ws true
      else s) s

/-- An instance whose records are all final and that writes no summary is done with (02 R79). -/
def State.instEnd (s : State) (iid : Nat) : State :=
  { s with stk := { s.stk with insts := s.stk.insts.filter (fun x =>
      !(decide (x.iid = iid) && x.active && (x.silent || !bit (x.ws.getD 5 0) 15)
        && x.recs.all (fun r => match r.st with
          | .final _ => true
          | _ => false))) } }

/-- A record ends: its own status, LATE past its deadline (02 R70), then its dependents. -/
def State.recFinal (s : State) (iid idx id : Nat) (st : Status) (rs : List Word) (write : Bool) : State :=
  ((s.recOne iid idx id st rs write).recAborts iid).instEnd iid

/-- The status of a started record that ends with `st`: LATE when its completion point came late (02 R70). -/
def State.recStatus (s : State) (iid idx : Nat) (st : Status) : Status :=
  match (s.inst iid).bind (fun x => (x.record idx).map (fun r => (x, r))) with
  | none => st
  | some (x, r) =>
    let late := match r.st with
      | .point _ l => l
      | _ => s.pastDeadline x.target ((recClass r.ws).getD 0)
    if st.good && late then .late else st

/-- A started record reaches its completion point before its final status (02 R69; 07 R237): it reads at its proof's
snapshot no longer (05 R192). -/
def State.recPoint (s : State) (l : Live) : State :=
  let s := (s.dropReaders l.id).reclaim
  match l.src with
  | .record _ iid idx =>
    match s.inst iid with
    | none => s
    | some x => s.updRec iid idx (fun r => match r.st with
        | .started id => { r with st := .point id (s.pastDeadline x.target ((recClass r.ws).getD 0)) }
        | _ => r)
  | _ => s

/-- A started record whose class window is not open is suspended (02 R67). -/
def State.shut (s : State) (id : Nat) : Bool :=
  match s.live id with
  | none => false
  | some l =>
    match l.src with
    | .record _ iid idx =>
      (match (s.inst iid).bind (fun x => x.record idx) with
        | some r => decide (r.st = .started id) && decide (s.winSt ((recClass r.ws).getD 0) ≠ .open_)
        | none => false)
    | _ => false

/-- The completion of a command goes where its source is told (00 R18; 02 R70; 12 R437, R438; 13 R495, R497). -/
def State.report (s : State) (l : Live) (id : Nat) (st : Status) (w3 : Word) (rs : List Word) : State :=
  match l.src with
  | .queue p q =>
    let w := if l.compat then compatWords l.tag st w3 else cqWords l.tag 0 l.op st w3 rs
    s.completeQueue l p q st w
  | .mctp => s.send (.mctpCompletion (cqWords l.tag 0 l.op st w3 rs))
  | .lost _ _ => s
  | .record _ iid idx => s.recFinal iid idx id (s.recStatus iid idx st) rs true
  | .trigger p _ w1 =>
    let w := w32 w1
    if bit w 31 then s.postCq id p (fld w 24 6) (cqWords l.tag 0 l.op st w3 rs) (bit w 30) else s
  | .net q rid => s.netAnswer q rid l.tag (cqWords l.tag 0 l.op st w3 rs)

/-- A command ends with a status and, where they are defined, word 3 and words 4 to 7 of its result
(00 R18); QUOTA counts (06 R230). -/
def State.complete (s : State) (id : Nat) (st : Status) (res : Option (Word × List Word)) : State :=
  match s.live id with
  | none => s
  | some l =>
    let s := ((s.release id).dropLive id).countQuota st
    let (ws, s) := if l.compat then s.freeWords 5 else s.endWords l.op 5
    let (w3, rs) := match res with
      | some (w3, rs) => (w3, rs)
      | none => (ws.getD 0 0, ws.drop 1)
    (s.report l id st w3 rs).closeViews id

/-- A command ends without a defined result. -/
def State.fail (s : State) (id : Nat) (st : Status) : State := s.complete id st none

/-- A command ends OK with its result words. -/
def State.done (s : State) (id : Nat) (w3 : Word) (rs : List Word) : State :=
  s.complete id .ok (some (w3, rs))

end Sys2Proof.Machine
end

