-- ==== Sys2Proof/Machine/Lookup.lean ====
section
/-! DEFINITION. LOOKUP, HASH and the proof commands (03 R98 to R112; 05 R185 to R194; 11 R408 to R410). -/

namespace Sys2Proof.Machine

/-- `n` bytes of host memory become undefined (03 R100, 11 R639). -/
def State.undefHost (s : State) (p a n : Nat) : State :=
  { (s.setHost (p % 2) ((s.host (p % 2)).wrBytes a ((List.range n).map (fun i => Config.freeByte (s.free + i)))))
      with free := s.free + n }

/-- Output bytes that a HASH may have written when a host access of it draws a bus error are undefined (03 R100; 11 R639); where no
extent grants the write none has been written (11 R424). -/
def State.undefSlots (s : State) (l : Live) (e : Status) (n : Nat) : State :=
  if e = .busError ∧ s.hextOk l.tenant l.port (l.w64 9) n true then s.undefHost l.port (l.w64 9) n else s

/-! ### LOOKUP -/

/-- Bytes of a hash slot (03 R99, FULL_OUT = 0). -/
def slotBytes (kf : Nat) : Nat := if kf = 0 then 16 else if kf = 1 then 32 else 64

/-- What the binary search has found: state, low and high bounds, last match (directory index and
edition), more than one form seen, poisoned entry seen. -/
structure Search where
  s : State
  lo : Nat
  hi : Nat
  last : Nat × Nat
  multi : Bool
  poison : Bool

/-- One probe for the HASH of a block, in a view or in the current state (03 R111). -/
def Search.probe (a : Search) (k : Key) (snap : Option Nat) : Search × Bool :=
  let (s, r) := match snap with
    | none => a.s.lookProbe k
    | some S => a.s.lookProbeView k S
  match r with
  | none => ({ a with s := s }, false)
  | some (i, m) =>
    ({ a with s := s, last := (i, (s.slot i).edition), multi := a.multi || m,
              poison := a.poison || (s.slot i).poison }, true)

/-- The search of 03 R109: recursion on fuel; `key k` is the lookup key of block `k`. -/
def searchLoop : Nat → (Nat → Except Status Key) → Option Nat → Nat → Search → Except Status Search
  | 0, _, _, _, a => .ok a
  | n + 1, key, snap, probe, a =>
    if a.lo < a.hi then
      match key probe with
      | .error e => .error e
      | .ok k =>
        let (a', hit) := a.probe k snap
        let a' := if hit then { a' with lo := probe } else { a' with hi := probe - 1 }
        searchLoop n key snap (a'.lo + (a'.hi - a'.lo + 1) / 2) a'
    else .ok a

/-- Longest resident prefix of `n` blocks and, when all are resident, the tail (03 R109, R110): the
search and whether the tail matched. -/
def prefixSearch (s : State) (key : Nat → Except Status Key) (snap : Option Nat) (n : Nat) (tail : Bool) :
    Except Status (Search × Bool) :=
  match searchLoop (n + 1) key snap n { s := s, lo := 0, hi := n, last := (0, 0), multi := false, poison := false } with
  | .error e => .error e
  | .ok a =>
    if tail ∧ a.lo = n then
      match key (n + 1) with
      | .error e => .error e
      | .ok k => let (a, hit) := a.probe k snap; .ok (a, hit)
    else .ok (a, false)

/-- Result words 4 to 7 of a LOOKUP (12 R445). -/
def lookupResult (a : Search) (tail : Bool) : List Word :=
  [w32 (b2n tail * 2 ^ 31 + b2n a.poison * 2 ^ 30 + a.lo), w32 a.last.1] ++ split64 a.last.2

/-- Status of a LOOKUP (03 R112). -/
def lookupStatus (a : Search) : Status := if a.lo = 0 then .notFound else if a.multi then .multi else .ok

/-- Keys of the blocks of a LOOKUP command: from hash slots in host memory, with an inline last hash,
or from tokens (12 R442). Answers the key function, the number of full blocks and whether a tail is
given. -/
def lookupKeys (l : Live) (m : Model) (s : State) :
    Except Status ((Nat → Except Status Key) × Nat × Bool) :=
  let count := fld (l.ws.getD 6 0) 0 21
  let mk := fun (h : Nat) =>
    ({ scope := l.tenant, model := m.id, adapter := fld (l.ws.getD 4 0) 16 16, keyForm := m.keyForm,
       hash := h } : Key)
  if l.flag 0 then
    match s.opRead l (l.w64 7) (4 * count) with
    | .error e => .error e
    | .ok bs =>
      let n := count / m.blockLen
      let rest := count % m.blockLen
      let blocks := tokenBlocks n m.blockLen bs
      let tailBs := bs.drop (4 * m.blockLen * n)
      let chain := chainList (chain0 m.seed) ((blocks ++ (if rest = 0 then [] else [tailBs])).map (fun b => (none, b)))
      .ok (fun k => .ok (mk (hashField m.keyForm (chain.getD (k - 1) []))), n, l.flag 1 && decide (rest ≠ 0))
  else
    .ok (fun k =>
      if l.flag 2 ∧ k = count then .ok (mk (ofLe (bytesOf (l.ws.drop 9)) % 2 ^ hashBits m.keyForm))
      else match s.opRead l (l.w64 7 + (k - 1) * slotBytes m.keyForm) (slotBytes m.keyForm) with
        | .error e => .error e
        | .ok bs => .ok (mk (ofLe bs % 2 ^ hashBits m.keyForm)), count, l.flag 1)

/-- LOOKUP's own checks (12 R442, 03 R90, 18 R638). -/
def lookupCheck (l : Live) (s : State) : Except Status (Model × Option Nat) :=
  let count := l.w 6
  let all : Word := 0xFFFFFFFF
  if !s.reached .psa then .error .notReady
  else if !(l.reservedOk 7 ([all, all, 0x1FFFFF, all, all] ++ List.replicate 7 (if l.flag 2 then all else 0))) then
    .error .badCommand
  else if count = 0 ∨ (if l.flag 0 then 1048576 else 65536) < count then .error .badCommand
  else if fld (l.ws.getD 4 0) 16 16 = 0xFFFF ∨ (l.flag 2 ∧ l.flag 0) then .error .badCommand
  else match s.model (fld (l.ws.getD 4 0) 0 16) with
    | none => .error .notFound
    | some m =>
      if l.flag 2 ∧ m.keyForm = 2 then .error .badCommand
      else if l.w 5 = 0 then .ok (m, none)
      else match s.proofOf l.tenant (l.w 5) with
        | some p => .ok (m, some p.snapshot)
        | none => .error .staleProof

/-- LOOKUP (03 R109 to R112). -/
def execLookup (id : Nat) (s : State) : Res :=
  .next (s.onNew id 0x01 (fun l s =>
    match lookupCheck l s with
    | .error e => s.fail id e
    | .ok (m, snap) =>
      match lookupKeys l m s with
      | .error e => s.fail id e
      | .ok (key, n, tail) =>
        match prefixSearch s key snap n tail with
        | .error e => s.fail id e
        | .ok (a, t) =>
          if a.lo = 0 then a.s.fail id .notFound
          else a.s.complete id (lookupStatus a) (some (0, lookupResult a t))))

/-! ### HASH -/

/-- The digest list (03 R100, 12 R442): block index within the command, from 0, and digest; none when
it is malformed. -/
def parseDigests : Nat → List Byte → Option (List (Nat × List Byte))
  | 0, _ => some []
  | n + 1, bs =>
    if ofLe ((bs.drop 2).take 6) ≠ 0 then none
    else match parseDigests n (bs.drop 72) with
      | none => none
      | some r => some ((ofLe (bs.take 2), (bs.drop 8).take 64) :: r)

/-- Ascending block order (03 R100): two digests of one block are not in ascending order (DEDUCED, log 153). -/
def ascending : List Nat → Bool
  | a :: b :: r => decide (a < b) && ascending (b :: r)
  | _ => true

/-- An output slot of HASH (03 R99). -/
def hashSlot (kf : Nat) (full : Bool) (h : List Byte) : List Byte :=
  if full then h else leBytes (slotBytes kf) (hashField kf h)

/-- HASH (03 R98 to R100). A bus error on the tokens finds at most the slots before the last one written; with no block to process nothing
is written (11 R424). -/
def execHash (id : Nat) (s : State) : Res :=
  .next (s.onNew id 0x02 (fun l s =>
    let all : Word := 0xFFFFFFFF
    let t := l.w 5
    let nd := l.w 6
    if !s.reached .verify then s.fail id .notReady
    else if !(l.reservedOk 7 [0xFFFF, 0x1FFFFF, 0x1FFFF, all, all, all, all, all, all, all, all, 0])
        ∨ t = 0 ∨ 1048576 < t then s.fail id .badCommand
    else match s.model (l.w 4) with
    | none => s.fail id .notFound
    | some m =>
      let full := t / m.blockLen
      let rest := t % m.blockLen
      let tail := l.flag 0 && decide (rest ≠ 0)
      let n := full + b2n tail
      if 65536 < n then s.fail id .badCommand
      else match (if nd = 0 then .ok [] else s.workRead l.tenant l.port (l.w64 13) (72 * nd)) with
      | .error e => s.fail id e
      | .ok ds =>
        match parseDigests nd ds with
        | none => s.fail id .badCommand
        | some dig =>
          if !ascending (dig.map (·.1)) ∨ dig.any (fun d => decide (n ≤ d.1)) then s.fail id .badCommand
          else
            let start := if l.flag 2 then s.workRead l.tenant l.port (l.w64 11) 64 else .ok (chain0 m.seed)
            match start with
            | .error e => s.fail id e
            | .ok h0 =>
              match s.workRead l.tenant l.port (l.w64 7) (4 * t) with
              | .error e =>
                (s.undefSlots l e ((n - 1) * (if l.flag 1 then 64 else slotBytes m.keyForm))).fail id e
              | .ok bs =>
                let blocks := tokenBlocks full m.blockLen bs ++ (if tail then [bs.drop (4 * m.blockLen * full)] else [])
                let hs := chainList h0 ((List.range blocks.length).map (fun i =>
                  ((dig.find? (fun d => decide (d.1 = i))).map (·.2), blocks.getD i [])))
                let out := hs.flatMap (hashSlot m.keyForm (l.flag 1)) ++ (hs.getLast?.getD [])
                match (if n = 0 then .ok s else s.workWrite l.tenant l.port (l.w64 9) out) with
                | .error e => (s.undefSlots l e out.length).fail id e
                | .ok s => s.done id 0 [w32 n, w32 (if tail then 0 else rest), 0, 0]))

/-! ### Proofs -/

/-- DIR_LEASE.DEFAULT_MS and MAX_MS. -/
def State.leaseDefault (s : State) : Nat := s.cfgFld (pg 0x18 + 0x100) 0 16

/-- DIR_LEASE.MAX_MS. -/
def State.leaseMax (s : State) : Nat := s.cfgFld (pg 0x18 + 0x100) 16 16

/-- The lease granted at an open (05 R190). -/
def State.openLease (s : State) (req : Nat) : Nat :=
  if req = 0 then s.leaseDefault else max 10 (min req s.leaseDefault)

/-- OPEN_PROOF without RENEW or VIEW (05 R186, R187, R190). -/
def execOpenProof (id : Nat) (s : State) : Res :=
  .next (s.onNew id 0x03 (fun l s =>
    if l.flag 0 ∨ l.flag 1 then s
    else if !s.reached .psa then s.fail id .notReady
    else if !(l.reservedOk 3 [0xFFFF]) then s.fail id .badCommand
    else
      let lease := s.openLease (l.w 4)
      match s.takeProof l.tenant lease none with
      | (s, .error e) => s.fail id e
      | (s, .ok p) => s.done id (w32 lease) ([w32 p.handle] ++ split64 p.snapshot ++ [0])))

/-- First 1 µs tick at or after a time (05 R190). -/
def usTick (t : Nat) : Nat := roundUp t 1000

/-- RENEW (05 R191). -/
def execRenew (id : Nat) (s : State) : Res :=
  .next (s.onNew id 0x03 (fun l s =>
    if !(l.flag 0) then s
    else if !s.reached .psa then s.fail id .notReady
    else if l.flag 1 ∨ !(l.reservedOk 3 [0xFFFF, 0xFFFFFFFF]) then s.fail id .badCommand
    else match s.proofOf l.tenant (l.w 5) with
    | none => s.fail id .staleProof
    | some p =>
      if usTick p.expiry ≤ s.clk then s.fail id .staleProof
      else
        let lease := min (max 10 (if l.w 4 = 0 then s.leaseDefault else l.w 4)) s.leaseMax
        let life := p.openedAt + s.cfgFld (pg 0x18 + 0x104) 0 16 * 1000000000
        if life ≤ s.clk then (s.bump (pg 0x18 + 0x1A8)).fail id .conflict
        else
          let e := min (s.clk + lease * 1000000) life
          let s := { s with dir := { s.dir with
            proofs := updIf s.dir.proofs (fun x => decide (x.slot = p.slot)) (fun x => { x with expiry := e }) } }
          s.done id (w32 ((e - s.clk) / 1000000)) ([w32 p.handle] ++ split64 p.snapshot ++ [0])))

/-- One entry of a view list (11 R408): its words, checked and mapped; none when it maps, the status
when it fails (11 R409, R410). `k` is none where the key names no valid model, and so matches no entry. -/
def mapViewEntry (s : State) (p tenant slotNo snap : Nat) (bs : List Byte) (k : Option Key) : State × Option Status :=
  let ws := wordsOf bs
  match k.bind (fun k => s.probeView (k.lookup tenant) snap) with
  | none => (s, some .notFound)
  | some (_, v, _) =>
    let ps := s.psetAt v.ps
    let first := fld (ws.getD 18 0) 0 16
    let cnt0 := fld (ws.getD 18 0) 16 16
    let cnt := if cnt0 = 0 then ps.pages - first else cnt0
    let ld := wd ws 19
    let per := roundUp ps.pageSize 65536 / 65536
    let g0 := wd64 ws 20 / 65536
    let n := cnt * per
    let port := s.port p
    let apert := fld port.view 0 9 * 2 ^ 30 / 65536
    let ldMax := if port.mode = .mld then fld port.ctrl 8 4 else 1
    if v.poison then (s, some .poison)
    else if ps.level = 2 ∨ ldMax ≤ ld ∨ ps.pages < first + cnt0 ∨ ps.pages ≤ first ∨ apert < g0 + n
        ∨ port.views.any (fun m => decide (m.ld = ld ∧ m.granule < g0 + n ∧ g0 < m.granule + m.count)) then
      (s, some .conflict)
    else
      let maps := (List.range cnt).map (fun i =>
        ({ proof := slotNo, ld := ld, granule := g0 + i * per, count := per, pset := v.ps, page := first + i,
           bytes := ps.pageSize, tier := ps.level } : ViewMap))
      (s.setPort p { port with views := port.views ++ maps }, none)

/-- Maps entries from index `i`: state, failures and the first failure's index and status. -/
def mapView (s : State) (p tenant slotNo snap : Nat) : Nat → List (List Byte × Option Key) → Nat × Option (Nat × Status) →
    State × Nat × Option (Nat × Status)
  | _, [], (n, f) => (s, n, f)
  | i, (bs, k) :: r, (n, f) =>
    match mapViewEntry s p tenant slotNo snap bs k with
    | (s', none) => mapView s' p tenant slotNo snap (i + 1) r (n, f)
    | (s', some st) => mapView s' p tenant slotNo snap (i + 1) r (n + 1, some (f.getD (i, st)))

/-- Splits bytes in pieces of `k`; recursion on the count. -/
def pieces (k : Nat) : Nat → List Byte → List (List Byte)
  | 0, _ => []
  | n + 1, bs => bs.take k :: pieces k n (bs.drop k)

/-- Keys of list entries; an error of the first bad one. -/
def State.listKeys (s : State) : List (List Byte) → Except Status (List (List Byte × Key))
  | [] => .ok []
  | e :: r =>
    match s.fieldKey e with
    | .error st => .error st
    | .ok k => match s.listKeys r with
      | .error st => .error st
      | .ok ks => .ok ((e, k) :: ks)

/-- Keys of a view list: none where the key names no valid model, which fails its entry alone (11 R410). -/
def State.viewKeys (s : State) : List (List Byte) → Except Status (List (List Byte × Option Key))
  | [] => .ok []
  | e :: r =>
    match s.fieldKey e, s.viewKeys r with
    | .ok k, .ok ks => .ok ((e, some k) :: ks)
    | .error .notFound, .ok ks => .ok ((e, none) :: ks)
    | .ok _, .error st => .error st
    | .error .notFound, .error st => .error st
    | .error st, _ => .error st

/-- A view entry's reserved fields are 0, its offset is a multiple of 64 KiB (11 R408). -/
def viewEntryOk (bs : List Byte) : Bool :=
  let ws := wordsOf bs
  decide (wd ws 19 < 8) && decide (wd64 ws 20 % 65536 = 0) && (ws.drop 22).all (fun w => decide (w = 0))

/-- Some key of a view list matches entries of more than one form (03 R105). -/
def State.viewMulti (s : State) (tenant snap : Nat) (ks : List (List Byte × Option Key)) : Bool :=
  ks.any (fun e => match e.2.bind (fun k => s.probeView (k.lookup tenant) snap) with
    | some (_, _, multi) => multi
    | none => false)

/-- OPEN_PROOF with VIEW = 1 (11 R408 to R410; MULTI of 03 R105). -/
def execOpenView (id : Nat) (s : State) : Res :=
  .next (s.onNew id 0x03 (fun l s =>
    if l.flag 0 ∨ !(l.flag 1) then s
    else if !s.reached .psa then s.fail id .notReady
    else
      let n := l.w 6
      if !(l.reservedOk 3 [0xFFFF, 0, 0x1FFF, 0xFFFFFFFF, 0xFFFFFFFF]) ∨ n = 0 ∨ 4096 < n then
        s.fail id .badCommand
      else match s.workRead l.tenant l.port (l.w64 7) (128 * n) with
      | .error e => s.fail id e
      | .ok bs =>
        let es := pieces 128 n bs
        if !(es.all viewEntryOk) then s.fail id .badCommand
        else match s.viewKeys es with
        | .error e => s.fail id e
        | .ok ks =>
          let lease := s.openLease (l.w 4)
          match s.takeProof l.tenant lease none with
          | (s, .error e) => s.fail id e
          | (s, .ok p) =>
            let (s, fails, first) := mapView s l.port l.tenant p.slot p.snapshot 0 ks (0, none)
            let w7 := match first with
              | none => 0
              | some (i, st) => st.code * 2 ^ 24 + i * 2 ^ 12 + min fails 4095
            s.complete id (if s.viewMulti l.tenant p.snapshot ks then .multi else .ok)
              (some (w32 lease, [w32 p.handle] ++ split64 p.snapshot ++ [w32 w7]))))

/-- CLOSE_PROOF (05 R193). -/
def execCloseProof (id : Nat) (s : State) : Res :=
  .next (s.onNew id 0x04 (fun l s =>
    if !s.reached .psa then s.fail id .notReady
    else if !(l.reservedOk 0 [0xFFFFFFFF]) then s.fail id .badCommand
    else match s.proofOf l.tenant (l.w 4) with
    | none => s.fail id .staleProof
    | some p => (s.endProof p.slot).done id 0 [0, 0, 0, 0]))

/-- A proof's lease has expired at the tick (05 R190). -/
def execProofLapse (slot t : Nat) (s : State) : Res :=
  let s := s.at_ t
  .next (match s.dir.proofs.find? (fun p => decide (p.slot = slot)) with
    | none => s
    | some p =>
      if p.implicit = none ∧ usTick p.expiry ≤ s.clk then
        (s.endProof slot).bump (pg 0x18 + 0x198)
      else s)

end Sys2Proof.Machine
end

