-- ==== Sys2Proof/Machine/Moves.lean ====
section
/-! DEFINITION. Changes of level (06 R207 to R213): how a move starts, what ends it, and the keys and flags
that PLACE, PUBLISH and their kin name (12 R443). -/

namespace Sys2Proof.Machine

/-- TIER_RSV.LIFE_MS in ns (06 R204). -/
def State.rsvLife (s : State) : Nat := s.cfgFld (pg 0x19 + 0x114) 0 24 * 1000000

/-- A sealed reservation is unsealed, with a new lapse time (05 R168, 06 R204). -/
def State.unseal (s : State) (i : Nat) : State :=
  s.updPset i (fun v => { v with rstate := .open_, lapseAt := some (s.clk + s.rsvLife) })

/-- A reservation stays sealed after CONFLICT, with a lapse time (05 R168, 06 R204). -/
def State.leaveSealed (s : State) (i : Nat) : State :=
  s.updPset i (fun v => { v with rstate := .stuck, lapseAt := some (s.clk + s.rsvLife) })

/-- A slot that carries HOT or SHARED asks for its group to become held (04 R126). -/
def State.wantHeld (s : State) (i : Nat) : State :=
  let v := s.slot i
  if (v.hot || v.shared) && !s.isHeld v.key && !s.psa.want.contains i then
    { s with psa := { s.psa with want := s.psa.want ++ [i] } }
  else s

/-- Flags of a published page set and of its entry take effect at once (06 R210). A group without HOT or SHARED stops being held; one on
which `mask`, the FLAG_MASK of the SET, sets HOT or SHARED asks to be held (04 R126). -/
def State.setFlags (s : State) (i : Nat) (alloc mask : Nat) : State :=
  let v := s.slot i
  let was := bit (w32 (s.psetAt v.ps).alloc) 3
  let s := s.updPset v.ps (fun p => { p with alloc := alloc })
  let s := if was = bit (w32 alloc) 3 then s else s.hotUnits v.ps (bit (w32 alloc) 3)
  let s := s.updSlot i (fun x => { x with pin := bit (w32 alloc) 2, hot := bit (w32 alloc) 3,
                                          shared := bit (w32 alloc) 4 })
  let sets := (bit (w32 mask) 2 && bit (w32 alloc) 3) || (bit (w32 mask) 3 && bit (w32 alloc) 4)
  let s := if s.isHeld v.key && !s.groupHot v.key then s.unhold v.key else if sets then s.wantHeld i else s
  s.dirUpdate i

/-- Effective ALLOC after FLAG_MASK (06 R210; 12 R442). -/
def maskAlloc (old new mask : Nat) : Nat :=
  let pick := fun (m lo n : Nat) => if nfld mask m 1 = 1 then nfld new lo n else nfld old lo n
  pick 0 0 2 + 4 * pick 1 2 1 + 8 * pick 2 3 1 + 16 * pick 3 4 1 + 32 * pick 4 5 1

/-- Head slot of a published page set. -/
def State.slotOfPset (s : State) (i : Nat) : Option Nat :=
  (s.dir.slots.find? (fun e => decide (e.2.ps = i) && e.2.resident)).map (·.1)

/-- TIER_PREF takes effect (06 R206, R210). -/
def State.setPref (s : State) (i : Nat) (pref : Option Nat) : State :=
  match pref with
  | none => s
  | some p => s.updPset i (fun v => { v with alloc := maskAlloc v.alloc p 1 })

/-- What a SET that is abandoned without effect changed at once is taken back (02 R72). -/
def State.undoMove (s : State) (m : Move) : State :=
  match m.undo, s.slotOfPset m.pset with
  | some (old, mask), some i => s.setFlags i (maskAlloc (s.psetAt m.pset).alloc old (mask / 2 * 2)) mask
  | _, _ => s

/-- The move in progress of a page set is removed from the list. -/
def State.dropMove (s : State) (i : Nat) : State :=
  { s with tier := { s.tier with moves := s.tier.moves.filter (fun m => decide (m.pset ≠ i) || m.gone) } }

/-- A page of a page set is declared unrecoverable: no move reads it (06 R213). -/
def State.psetBad (s : State) (i : Nat) : Bool := s.dir.slots.any (fun e => decide (e.2.badPages ≠ [] ∧ e.2.ps = i))

/-- Starts the copy or release of a change of level (06 R210): a copy into T2 takes its addresses and joins
the DATA streams; a copy out of T2 reads its pages through the cache. READ_ONLY, POISON and FULL under R213, R214 and
10 R386. `pref` is the TIER_PREF that takes effect when it completes, `undo` what
an abandoned SET gives back (02 R72). -/
def State.beginMove (s : State) (i target : Nat) (cause : MoveCause) (pref : Option Nat)
    (undo : Option (Nat × Nat)) : Except Status State :=
  let v := s.psetAt i
  let add := fun (s : State) (rel : Bool) =>
    { s with tier := { s.tier with
        moves := s.tier.moves ++ [{ pset := i, target := target, cause := cause, releasing := rel,
                                        gone := false, pref := pref, undo := undo }] } }
  if v.has target then .ok (add s true)
  else if target = 2 ∧ s.flm.readOnly then .error .readOnly
  else if s.psetBad i then .error .poison
  else if target = 2 then
    match s.startT2 i with
      | (_, false) => .error .full
      | (s, true) => .ok (add s false)
  else
    let s := if v.level = 2 then s.needPages i (List.range v.pages) false false else s
    .ok (add s false)

/-! ### Plans whose moves are in progress (06 R228) -/

/-- A plan slot (07 R242). -/
def State.plan (s : State) (slot : Nat) : Plan := sget s.pfs.plans Plan.none slot

/-- A plan slot, set. -/
def State.setPlan (s : State) (slot : Nat) (v : Plan) : State :=
  { s with pfs := { s.pfs with plans := sset s.pfs.plans Plan.none slot v } }

/-- Objects of a plan, each once. -/
def Plan.objects (v : Plan) : List (Key × Nat) := (v.layers.flatMap (·.2)).eraseDups

/-- The predicted stroke time P in 10 ns units (06 R228). -/
def State.planTime (s : State) (v : Plan) : Nat :=
  let bytes := (((v.objects.filterMap (fun k => s.current k.1 k.2)).map (fun e => s.psetAt e.2.ps)).map (fun p =>
    if p.level = 2 then p.bytes else 0)).sum
  let f := ceilDiv' bytes (s.cfgFld (pg 0x19 + 0x110) 0 16 * 10)
  if bytes ≤ s.cfgFld (pg 0x19 + 0x10C) 0 16 * 1000000000 then max v.compute f else v.compute + f

/-- A PLAN_LOAD whose moves have all committed completes, and its plan is loaded (06 R228; 07 R242). -/
def State.planCheck (s : State) (id : Nat) : State :=
  match s.pfs.jobs.find? (fun j => decide (j.id = id)) with
  | none => s
  | some j =>
    if s.tier.moves.any (fun m => decide (m.cause = .plan id)) then s
    else
      let v := s.plan j.slot
      let p := s.planTime v
      let long := decide (s.cfgFld (pg 0x03 + 0x10C) 0 27 < p)
      let s := { s.setPlan j.slot { v with valid := true } with
        pfs := { (s.setPlan j.slot { v with valid := true }).pfs with
          jobs := s.pfs.jobs.filter (fun x => decide (x.id ≠ id)) } }
      s.done id 0 [w32 (j.slot * 256 + v.gen), w32 (b2n long * 2 ^ 31 + j.spilled), w32 p, 0]

/-- A PLAN_LOAD one of whose moves stopped completes with that move's status; its slot stays free. -/
def State.planFail (s : State) (id : Nat) (st : Status) : State :=
  if s.pfs.jobs.any (fun j => decide (j.id = id)) then
    { s with pfs := { s.pfs with jobs := s.pfs.jobs.filter (fun x => decide (x.id ≠ id)) } }.fail id st
  else s

/-- A move stops without effect and its SET, if any, completes with the status (06 R213). -/
def State.stopMove (s : State) (m : Move) (st : Status) : State :=
  let s := s.dropMove m.pset
  let s := if m.target = 2 ∧ (s.psetAt m.pset).t2 = false then s.unmapT2 (s.handleOf m.pset) else s
  match m.cause with
  | .set id => s.fail id st
  | .publish => s
  | .pressure => s
  | .plan id => s.planFail id st

/-- Moves of a page set stop (06 R213). -/
def State.stopMoves (s : State) (i : Nat) (st : Status) : State :=
  (s.tier.moves.filter (fun m => decide (m.pset = i ∧ m.gone = false))).foldl (fun s m => s.stopMove m st) s

/-- A tier that takes a charge, falling to lower tiers while SPILL_OK is 1 (06 R221): the tier used and the
state with room made; tiers up to `last`. `own` are the tiers that need no new charge: those with a copy. -/
def State.chargeTier (s : State) (tenant : Nat) (charge : Nat → Nat) (spill : Bool) (own : Nat → Bool) (last : Nat) :
    Nat → Nat → Except (Status × Nat) (State × Nat × Bool)
  | 0, t => .ok (s, t, true)
  | n + 1, t =>
    if own t then .ok (s, t, true)
    else match s.request tenant t (charge t) with
      | .fits s => .ok (s, t, true)
      | .wait s => .ok (s, t, false)
      | .short st b =>
        if spill ∧ t < last then s.chargeTier tenant charge spill own last n (t + 1) else .error (st, b)

/-- The stored key that a command names, with its form (12 R443): a public form asks for the grant of 03
R106 where `grant` says so. -/
def State.namedKey (s : State) (l : Live) (grant : Bool) : Except Status (Key × Nat) :=
  if grant ∧ l.flag 9 ∧ !s.publicGrant l.tenant then .error .badCommand
  else match s.readKey l.tenant l.port (l.w64 6) with
    | .error e => .error e
    | .ok k =>
      let form := formOf (l.flag 9) (l.flag 10)
      .ok (k.stored form l.tenant, form)

end Sys2Proof.Machine
end

