-- ==== Sys2Proof/Machine/Directory.lean ====
section
/-! DEFINITION. Publication, supersession, retirement and the end of entries (05 R163 to R184, R197). -/

namespace Sys2Proof.Machine

/-! ### PUBLISH: acceptance (05 R168, R171; 12 R442, R443; 06 R201) -/

/-- Key and parent lookup key of a PUBLISH (12 R443). -/
def State.publishKeys (s : State) (l : Live) : Except Status (Key × Option Key) :=
  let form := formOf (l.flag 9) (l.flag 10)
  if l.flag 13 then
    match s.model (fld (l.ws.getD 5 0) 0 16) with
    | none => .error .notFound
    | some m =>
      let n := l.w 12
      let adapter := fld (l.ws.getD 5 0) 16 16
      if n = 0 ∨ (if l.flag 8 then m.blockLen ≤ n else n ≠ m.blockLen) then .error .badCommand
      else match (if l.flag 14 then s.workRead l.tenant l.port (l.w64 8) 64 else .ok (chain0 m.seed)) with
        | .error e => .error e
        | .ok h0 =>
          match s.workRead l.tenant l.port (l.w64 6) (4 * n) with
          | .error e => .error e
          | .ok bs =>
            let k : Key := { scope := l.tenant, model := m.id, adapter := adapter, keyForm := m.keyForm,
                             hash := hashField m.keyForm (chainNext h0 none bs) }
            let p : Key := { k with hash := hashField m.keyForm h0 }
            .ok (k.stored form l.tenant, if l.flag 14 then some p else none)
  else
    match s.readKey l.tenant l.port (l.w64 6) with
    | .error e => .error e
    | .ok k =>
      if l.flag 14 then
        match s.readKey l.tenant l.port (l.w64 8) with
        | .error e => .error e
        | .ok p => .ok (k.stored form l.tenant, some (p.lookup l.tenant))
      else .ok (k.stored form l.tenant, none)

/-- PUBLISH's reserved fields and its rules on flags (12 R442; 03 R106, R638; 06 R201, R205). OBJECT = 1 with TOKENS = 1, for which the spec
gives no status, is refused (DESIGN CHOICE, log 179). -/
def State.publishOk (s : State) (l : Live) : Bool :=
  let all : Word := 0xFFFFFFFF
  l.reservedOk 0x7F3F [all, if l.flag 13 then all else 0, all, all, all, all, all, all,
                       if l.flag 13 then 0x1FF else 0]
    && !(l.flag 9 && !s.publicGrant l.tenant)
    && !(l.flag 13 && decide (fld (l.ws.getD 5 0) 16 16 = 0xFFFF))
    && !(l.flag 12 && (l.flag 14 || l.flag 13))

/-- The reservation that a PUBLISH names: the one that its acceptance sealed (05 R168; `Accept.lean`). -/
def State.pubRsv (s : State) (l : Live) : Option PSet :=
  match s.psetOf (l.w 4) with
  | some v => if v.tenant = l.tenant ∧ v.rstate = .sealed l.id then some v else none
  | none => none

/-- PUBLISH (05 R168): the reservation is sealed; a PUBLISH that ends without effect lifts the seal. -/
def execPublish (id : Nat) (s : State) : Res :=
  .next (s.onNew id 0x05 (fun l s =>
    if !s.reached .psa then s.fail id .notReady
    else match s.pubRsv l with
    | none => if s.publishOk l then s.fail id .notFound else s.fail id .badCommand
    | some v =>
      let i := psIx (l.w 4)
      if !s.publishOk l ∨ v.object ≠ l.flag 12 then (s.unseal i).fail id .badCommand
      else match s.publishKeys l with
        | .error e => (s.unseal i).fail id e
        | .ok (k, p) =>
          if k.model ≠ v.model then (s.unseal i).fail id .badCommand
          else
            let s := s.updPset i (fun v => { v with rstate := .sealed id, lapseAt := none })
            let pub : Pub := { id := id, key := k, form := formOf (l.flag 9) (l.flag 10), flags := l.flags.toNat,
                               alloc := fld l.flags 0 6, pset := i, parent := p, expect := l.w64 10,
                               waitOn := none, claimed := false, moveTo := none }
            ({ s with dir := { s.dir with pubs := s.dir.pubs ++ [pub] } }).setRunning id))

/-! ### The end of a publication (05 R171) -/

/-- An accepted publication. -/
def State.pub (s : State) (id : Nat) : Option Pub := s.dir.pubs.find? (fun p => decide (p.id = id))

/-- Removes a publication. -/
def State.dropPub (s : State) (id : Nat) : State :=
  { s with dir := { s.dir with pubs := s.dir.pubs.filter (fun p => decide (p.id ≠ id)) } }

/-- A publication changed. -/
def State.updPub (s : State) (id : Nat) (f : Pub → Pub) : State :=
  { s with dir := { s.dir with pubs := updIf s.dir.pubs (fun p => decide (p.id = id)) f } }

/-- Result words of a PUBLISH (12 R445). -/
def pubWords (edition slot : Nat) : List Word := split64 edition ++ [w32 slot, 0]

/-- CONFLICT: the reservation stays sealed (05 R168). -/
def State.pubConflict (s : State) (p : Pub) : State :=
  ((s.dropPub p.id).leaveSealed p.pset).fail p.id .conflict

/-- DUPLICATE: the reservation is freed; the completion names the winner (05 R171). -/
def State.pubDuplicate (s : State) (p : Pub) (slot : Nat) : State :=
  let v := s.slot slot
  (((s.dropPub p.id).freePset p.pset).bump (pg 0x18 + 0x194)).complete p.id .duplicate
    (some (0, pubWords v.edition slot))

/-- A status without effect: the seal is lifted (05 R168). -/
def State.pubFail (s : State) (p : Pub) (st : Status) : State :=
  ((s.dropPub p.id).unseal p.pset).fail p.id st

/-- Publications that waited for a slot's commit (05 R172, R174): DUPLICATE, or CONFLICT with SUPERSEDE. -/
def State.wakeCommitted (s : State) (waitSlot slot : Nat) : State :=
  (s.dir.pubs.filter (fun p => decide (p.waitOn = some waitSlot))).foldl (fun s p =>
    if bit (w32 p.flags) 11 then s.pubConflict p else s.pubDuplicate p slot) s

/-- Publications that waited for a slot that was given up are claimed again (05 R172). -/
def State.wakeAborted (s : State) (waitSlot : Nat) : State :=
  { s with dir := { s.dir with
      pubs := updIf s.dir.pubs (fun p => decide (p.waitOn = some waitSlot)) (fun p => { p with waitOn := none }) } }

/-- A publication that a unit failure ends (01 R36; 05 R181): its PENDING slot and its reservation are freed, its value
passes, and it completes ABORTED. -/
def State.abortPub (s : State) (id : Nat) : State :=
  match s.pub id with
  | none => s
  | some p =>
    let s := s.dir.points.foldl (fun s x =>
      match x.kind with
      | .commit slot j =>
        if j = id then
          let par := (s.slot slot).parent
          let s := ((s.passPoint x.val).freeHead slot).wakeAborted slot
          match par with
          | some k => s.updSlot k (fun v => { v with children := v.children - 1 })
          | none => s
        else s
      | .super _ copy j => if j = id then ((s.passPoint x.val).freeHead copy).wakeAborted copy else s
      | _ => s) s
    ((s.dropPub id).freePset p.pset).fail id .aborted

/-- A supersession claimed on an entry that leaves CURRENT completes CONFLICT; its copy slot is freed and
its value passes (05 R173). -/
def State.abandonSuper (s : State) (slot : Nat) : State :=
  s.dir.points.foldl (fun s p =>
    match p.kind with
    | .super sl copy id =>
      if sl = slot then
        let s := ((s.passPoint p.val).freeHead copy).wakeAborted copy
        match s.pub id with
        | some q => s.pubConflict q
        | none => s
      else s
    | _ => s) s

/-! ### RETIRING (05 R173, R176, R181) -/

/-- The entry goes to RETIRING; a supersession claimed on it is given up (05 R173, R181). -/
def State.toRetiring (s : State) (i : Nat) : State :=
  let s := (s.abandonSuper i).updSlot i (fun v => { v with state := .retiring })
  s.dirUpdate i

/-- Starts a cascade below an entry (05 R176). -/
def State.startCascade (s : State) (i : Nat) (cause : CascadeCause) : State :=
  let s := s.toRetiring i
  { s with dir := { s.dir with cascades := s.dir.cascades ++ [{ root := i, cause := cause, ended := 0 }] } }

/-! ### Poison (05 R182 to R184) -/

/-- The replica route of a model: its connection (07 R262). -/
def State.route (s : State) (model : Nat) : Option Nat :=
  ((List.range 32).find? (fun i =>
    let w := s.cfgReg (pg 0x1A + 0x200 + 8 * i)
    bit w 31 && decide (fld w 0 16 = model))).map (fun i => s.cfgFld (pg 0x1A + 0x204 + 8 * i) 0 24)

/-- A page that stays POISON is named in PFS_RPR_LAST (07 R263). -/
def State.lastPoison (s : State) (i page : Nat) : State :=
  { s with pfs := { s.pfs with lastDir := i, lastPage := page } }

/-- A repair of a poisoned page of a pinned entry is asked for; without a route, or with REPAIR_EN = 0, the host
is told (07 R262, R263). -/
def State.askRepair (s : State) (i page : Nat) : State :=
  if s.pfs.repairs.any (fun r => decide (r.slot = i ∧ r.page = page)) then s
  else if bit (s.cfgReg (pg 0x1A + 0x100)) 1 && (s.route (s.slot i).key.model).isSome then
    { s with pfs := { s.pfs with
      repairs := s.pfs.repairs ++ [{ slot := i, page := page, tries := 0, st := .waiting, rs := 0, qpn := 0 }] } }
  else (s.lastPoison i page).raise 0x1A 3

/-- A page of a resident entry is declared unrecoverable (05 R182, R183; 06 R213): POISON, the end of moves,
and the removal of an unpinned entry with its descendants (07 R259). A pinned entry and a SHARED object ask for a repair
(07 R260, R262, R265), which is given up at the end of an unpinned one (log 169). -/
def State.poisonPage (s : State) (i page : Nat) : State :=
  let v := s.slot i
  let obj := v.shared && (s.psetAt v.ps).object
  if !v.resident then s
  else
    let first := !v.poison
    let s := s.setSlot i { v with poison := true,
                                  badPages := if v.badPages.contains page then v.badPages else v.badPages ++ [page] }
    let s := s.stopMoves v.ps .poison
    let s := if first then s.count 0x18 0x1A0 1 else s
    let s := if v.badPages.contains page then s else s.count 0x1A 0x190 2
    let s := if v.pin || obj then s.askRepair i page else s
    let s := if !v.pin && decide (v.state = .current) then s.startCascade i .poison else s
    s.dirUpdate i

/-! ### PUBLISH_CLAIM (05 R162, R169 to R174; 06 R209) -/

/-- The parent check of 03 R107, R84 and 06 R201: the slot index, or CONFLICT. -/
def State.claimParent (s : State) (p : Pub) : State × Except Status (Option Nat) :=
  match p.parent with
  | none => (s, .ok none)
  | some k =>
    if k.model ≠ p.key.model then (s, .error .conflict)
    else match s.lookProbe k with
      | (s, none) => (s, .error .conflict)
      | (s, some (i, _)) =>
        let v := s.slot i
        if v.tail ∨ v.state ≠ .current ∨ (s.psetAt v.ps).object then (s, .error .conflict)
        else (s, .ok (some i))

/-- Outcome of looking for room in a window. -/
inductive WinRoom where
  | at_ (s : State) (i : Nat)
  /-- End points of lower values must pass first, or the slots of an entry that left the PSA may not be reused yet (04 R133):
  the claim is made again. -/
  | wait (s : State)
  | full

/-- Room in the window of a key (05 R162): a free place, or the first entry in eviction order whose end
gives it; `keep` are entries that may not be ended. -/
def State.windowRoom (s : State) (k : Key) (keep : List Nat) : WinRoom :=
  match s.readyIn k with
  | some i => .at_ s i
  | none =>
    if (s.freeIn k []).isSome then .wait s
    else
      let ws := s.windowSlots k
      let es := s.evictList (fun i v => ws.contains i && !keep.contains i && !s.seenNow v)
      match es.find? (fun e => (s.freeIn k (headSlots e.1 e.2)).isSome) with
      | none => .full
      | some e =>
        if !s.endReady then .wait s
        else
          let s := (s.endNow e.1).bump (pg 0x18 + 0x19C)
          match s.readyIn k with
          | some i => .at_ s i
          | none => .wait s

/-- The level change that a PUBLISH's ALLOC asks for is tested at the claim (06 R209, R221): the tier that the page set is to
have, or the status; recursion on fuel. -/
def State.claimTier (s : State) (p : Pub) : Nat → Nat → Except Status Nat
  | 0, t => .ok t
  | n + 1, t =>
    let v := s.psetAt p.pset
    if v.has t then .ok t
    else match s.requestTest v.tenant t (v.charge t) with
      | none => .ok t
      | some (st, _) => if bit (w32 p.alloc) 5 ∧ t < 2 then s.claimTier p n (t + 1) else .error st

/-- The new head slot of a claim (05 R158). -/
def pubSlot (p : Pub) (v : PSet) (edition lastUse : Nat) (parent : Option Nat) : Slot :=
  { Slot.free with
      state := .pending, key := p.key, form := p.form, tail := bit (w32 p.flags) 8,
      pin := bit (w32 p.alloc) 2, hot := bit (w32 p.alloc) 3, shared := bit (w32 p.alloc) 4,
      edition := edition, parent := parent, pset := psHandle v.gen p.pset, publisher := v.tenant,
      lastUse := lastUse }

/-- A publication of a new entry is claimed: PENDING, the parent's reference, its point (05 R163, R169).
LAST_USE before any read is not stated: a free value. -/
def State.claimNew (s : State) (p : Pub) (i : Nat) (parent : Option Nat) (moveTo : Option Nat) : State :=
  let val := s.dir.seqNext
  let (f, s) := s.fresh
  let s := match parent with
    | some j => s.updSlot j (fun v => { v with children := v.children + 1 })
    | none => s
  let s := s.putHead i (pubSlot p (s.psetAt p.pset) val (Config.freeNat f % 2 ^ 32) parent)
  (s.schedule (.commit i p.id)).updPub p.id (fun q => { q with claimed := true, moveTo := moveTo })

/-- A supersession is claimed: the copy of the current entry's metadata in a free slot (05 R173). -/
def State.claimSuper (s : State) (p : Pub) (cur copy : Nat) (moveTo : Option Nat) : State :=
  let s := s.putHead copy { s.slot cur with state := .pending, held := false, children := 0 }
  (s.schedule (.super cur copy p.id)).updPub p.id (fun q => { q with claimed := true, moveTo := moveTo })

/-- What is common to both claims: the charge test, then room in the window; a tier other than the one named is a spill (06
R221). -/
def State.claimRoom (s : State) (p : Pub) (keep : List Nat) (f : State → Nat → Option Nat → State) : State :=
  let v := s.psetAt p.pset
  match s.claimTier p 3 (prefTier p.alloc) with
  | .error st => (s.countFull st).pubFail p st
  | .ok t =>
    match s.windowRoom p.key keep with
    | .wait s => s
    | .full => (s.count 0x18 0x1A4 0).pubFail p .full
    | .at_ s i =>
      f (if t = prefTier p.alloc then s else s.count 0x19 0x1A0 3) i (if t = v.level then none else some t)

/-- PUBLISH_CLAIM (05 R169). -/
def execPublishClaim (id : Nat) (s : State) : Res :=
  .next (match s.pub id with
    | none => s
    | some p =>
      if p.claimed ∨ p.waitOn ≠ none then s
      else
        let live := s.exact p.key p.form Slot.resident
        let pend := s.exact p.key p.form (fun v => decide (v.state = .pending))
        if bit (w32 p.flags) 11 then
          match pend with
          | some (j, _) => s.updPub id (fun q => { q with waitOn := some j })
          | none =>
            match s.current p.key p.form with
            | none => s.pubConflict p
            | some (c, v) =>
              if v.edition ≠ p.expect then s.pubConflict p
              else if v.parent.isSome ≠ p.parent.isSome then s.pubFail p .badCommand
              else match s.claimParent p with
                | (s, .error st) => if st = .conflict then s.pubConflict p else s.pubFail p st
                | (s, .ok par) =>
                  s.claimRoom p ([c] ++ par.toList) (fun s i mv => s.claimSuper p c i mv)
        else match live with
          | some (j, _) => s.pubDuplicate p j
          | none =>
            match pend with
            | some (j, _) => s.updPub id (fun q => { q with waitOn := some j })
            | none =>
              match s.claimParent p with
              | (s, .error st) => if st = .conflict then s.pubConflict p else s.pubFail p st
              | (s, .ok par) => s.claimRoom p par.toList (fun s i mv => s.claimNew p i par mv))

/-! ### COMMIT_POINT (05 R164, R171 to R173) -/

/-- The page set of a committed publication: published, with the PUBLISH's ALLOC (06 R209), the page checks computed (07
R261). -/
def State.pubPset (s : State) (p : Pub) : State :=
  s.updPset p.pset (fun v => { v with
    rstate := .published, alloc := p.alloc, lapseAt := none, bad := [],
    checks := (List.range v.pages).map (fun i => crc64 (s.pageBytes p.pset i 0 v.pageSize)) })

/-- A change of level that is owed is not owed any more. -/
def State.dropOwed (s : State) (i : Nat) : State :=
  { s with tier := { s.tier with owed := s.tier.owed.filter (fun x => decide (x.1 ≠ i)) } }

/-- A move that is owed begins; the read-only flash tier ends one into T2, and an unrecoverable page one that would read it (06 R213). -/
def State.startOwed (s : State) (i t : Nat) : State :=
  match s.beginMove i t .publish none none with
  | .ok s => s.dropOwed i
  | .error e => if e = .readOnly ∨ e = .poison then s.dropOwed i else s

/-- A change of level that the tier manager owes a page set starts, once it finds room (06 R209, R219; 16 R579). -/
def State.payOwed (s : State) (i : Nat) : State :=
  match s.tier.owed.find? (fun x => decide (x.1 = i)) with
  | none => s
  | some (_, t, inSlack) =>
    let v := s.psetAt i
    if v.gen = 0 ∨ v.rstate ≠ .published ∨ v.level = t then s.dropOwed i
    else if (s.moveOf i).isSome ∨ (inSlack ∧ !s.slack .memory) then s
    else if v.has t then s.startOwed i t
    else match s.request v.tenant t (v.charge t) with
        | .fits s => s.startOwed i t
        | .wait s => s
        | .short _ _ => s

/-- The move that follows a commit (06 R209); where it finds no room it stays owed. -/
def State.pubMove (s : State) (p : Pub) : State :=
  match p.moveTo with
  | none => s
  | some t => ({ s with tier := { s.tier with owed := s.tier.owed ++ [(p.pset, t, false)] } }).payOwed p.pset

/-- The commit of a new entry (05 R164): CURRENT; a held group takes it in. -/
def State.commitNew (s : State) (i : Nat) (p : Pub) (val : Nat) : State :=
  let v := s.slot i
  let held := s.isHeld v.key
  let s := s.setSlot i { v with state := .current }
  let s := if held then s.insertHeld i { v with state := .current } else s
  let lost := (s.psetAt p.pset).bad
  let s := (s.pubPset p).bump (pg 0x18 + 0x190)
  let s := if held then s else s.wantHeld i
  let s := ((s.dropPub p.id).pubMove p).done p.id 0 (pubWords val i)
  lost.foldl (fun s j => s.poisonPage i j) (s.wakeCommitted i i)

/-- The commit of a supersession (05 R173): new edition in place, the copy ENDED. -/
def State.commitSuper (s : State) (i copy : Nat) (p : Pub) (val : Nat) : State :=
  let v := s.slot i
  let n := s.psetAt p.pset
  let s := s.setSlot copy { v with state := .ended, end_ := val, held := false, children := 0, parent := none }
  let s := s.dirUpdate copy
  let s := s.setSlot i { v with
    edition := val, pset := psHandle n.gen p.pset, pin := bit (w32 p.alloc) 2, hot := bit (w32 p.alloc) 3,
    shared := bit (w32 p.alloc) 4, poison := false, badPages := [], publisher := n.tenant }
  let s := s.psaEdition i val
  let s := if s.isHeld v.key && !s.groupHot v.key then s.unhold v.key else s.wantHeld i
  let s := s.filterEnd v.key val
  let s := s.abandonRepairs i
  let lost := (s.psetAt p.pset).bad
  let s := (s.pubPset p).bump (pg 0x18 + 0x190)
  let s := ((s.dropPub p.id).pubMove p).done p.id 0 (pubWords val i)
  lost.foldl (fun s j => s.poisonPage i j) (s.wakeCommitted copy i).reclaim

/-- COMMIT_POINT: the first outstanding point, when it is a commit (05 R163, R164), and the mark allows it (05 R166). The
supersession of an entry that is not CURRENT any more completes CONFLICT (05 R173). -/
def execCommitPoint (val : Nat) (s : State) : Res :=
  .next (match s.dir.points with
    | [] => s
    | pt :: _ =>
      if pt.val ≠ val ∨ !s.seqOpen val then s
      else match pt.kind with
        | .end_ _ _ => s
        | .commit i id =>
          match s.pub id with
          | none => s.passPoint val
          | some p => (s.passPoint val).commitNew i p val
        | .super i copy id =>
          match s.pub id with
          | none => s.passPoint val
          | some p =>
            if (s.slot i).state = .current then (s.passPoint val).commitSuper i copy p val
            else (((s.passPoint val).freeHead copy).wakeAborted copy).pubConflict p)

/-! ### RETIRE, cascades and END_POINT (05 R165, R175 to R180) -/

/-- RETIRE (05 R175, R176). -/
def execRetire (id : Nat) (s : State) : Res :=
  .next (s.onNew id 0x06 (fun l s =>
    if !s.reached .psa then s.fail id .notReady
    else if !(l.reservedOk 0x601 [0, 0, 0xFFFFFFFF, 0xFFFFFFFF]) then s.fail id .badCommand
    else match s.namedKey l true with
    | .error e => s.fail id e
    | .ok (k, form) =>
      match s.current k form with
      | none => s.fail id .notFound
      | some (i, v) =>
        if l.flag 0 then (s.startCascade i (.retire id)).setRunning id
        else if v.children ≠ 0 then s.fail id .conflict
        else ((s.toRetiring i).schedule (.end_ i (.retire id))).setRunning id))

/-- `i` reaches `root` through references on parents; recursion on fuel. -/
def State.below (s : State) (root : Nat) : Nat → Nat → Bool
  | 0, _ => false
  | n + 1, i =>
    match (s.slot i).parent with
    | none => false
    | some p => decide (p = root) || s.below root n p

/-- The next entry of a cascade (05 R176): a resident descendant without children, the lowest DIR_INDEX,
and the root last. -/
def State.cascadeNext (s : State) (root : Nat) : Option Nat :=
  let fuel := s.dir.slots.length + 1
  let ds := s.dir.slots.filter (fun e => e.2.resident && s.below root fuel e.1)
  match ds.find? (fun e => decide (e.2.children = 0)) with
  | some e => some e.1
  | none => if (s.slot root).children = 0 then some root else none

/-- CASCADE_STEP (05 R176): one end point of the cascade is scheduled at a time. -/
def execCascadeStep (slot : Nat) (s : State) : Res :=
  .next (match s.dir.cascades.find? (fun c => decide (c.root = slot)) with
    | none => s
    | some _ =>
      if s.dir.points.any (fun p => match p.kind with
        | .end_ _ (.cascade r) => decide (r = slot)
        | _ => false) then s
      else match s.cascadeNext slot with
        | none => s
        | some i => if s.ending i then s else s.schedule (.end_ i (.cascade slot)))

/-- An entry ended by eviction or poison removal is counted (05 R183, R199). -/
def State.countEvicted (s : State) : State := s.bump (pg 0x18 + 0x19C)

/-- A cascade's last entry has ended (05 R176; 10 R380). -/
def State.cascadeDone (s : State) (c : Cascade) : State :=
  let s := { s with dir := { s.dir with cascades := s.dir.cascades.filter (fun x => decide (x.root ≠ c.root)) } }
  match c.cause with
  | .retire id => s.done id 0 [w32 c.ended, 0, 0, 0]
  | .discard id _ => { s with flm := { s.flm with
      discards := updIf s.flm.discards (fun d => decide (d.id = id)) (fun d => { d with ended := c.ended }) } }
  | .poison => s
  | .capacity => s

/-- One entry of a cascade has ended. -/
def State.cascadeEnded (s : State) (root slot : Nat) : State :=
  match s.dir.cascades.find? (fun c => decide (c.root = root)) with
  | none => s
  | some c =>
    let c := { c with ended := c.ended + 1 }
    let s := { s with dir := { s.dir with
      cascades := updIf s.dir.cascades (fun x => decide (x.root = root)) (fun _ => c) } }
    if slot = root then s.cascadeDone c else s

/-- Cascades that an entry belongs to: its own and those of its ancestors (05 R176). -/
def State.cascadesOver (s : State) (i : Nat) : List Cascade :=
  s.dir.cascades.filter (fun c => decide (c.root = i) || s.below c.root (s.dir.slots.length + 1) i)

/-- The removal of poisoned entries, or of those that a lost copy ends, counts in DIR_EVICTED (05 R183, R199). -/
def CascadeCause.evicts : CascadeCause → Bool
  | .poison => true
  | .capacity => true
  | _ => false

/-- An end point whose entry may no longer end is abandoned (05 R179): FREE then completes CONFLICT. -/
def State.abandonEnd (s : State) (val : Nat) (cause : EndCause) : State :=
  let s := s.passPoint val
  match cause with
  | .free id => s.fail id .conflict
  | _ => s

/-- Superblocks of a copy's footprint (10 R382): with OVERFLOW, every one that is not FREE and was written at
or after the carried SEQ. -/
def State.footOf (s : State) (h : Nat) : List Nat :=
  match sget s.flm.foot none h with
  | none => []
  | some x =>
    if x.overflow then
      (s.flm.sb.filter (fun e => decide (e.2.st ≠ .free ∧ x.seq ≤ e.2.lastSeq))).map (·.1)
    else x.sbs

/-- Page sets of a discarded entry are noted before it ends (10 R380). -/
def State.noteDiscard (s : State) (root slot : Nat) : State :=
  match s.dir.cascades.find? (fun c => decide (c.root = root)) with
  | some { cause := .discard id _, .. } =>
    { s with flm := { s.flm with
        discards := updIf s.flm.discards (fun d => decide (d.id = id))
          (fun d => { d with psets := d.psets ++ [(s.slot slot).pset],
                             sbs := if d.secure then (d.sbs ++ s.footOf (s.slot slot).pset).dedup else d.sbs }) } }
  | _ => s

/-- Every page set of a DISCARD has been reclaimed and its T2 copy released (10 R380). -/
def State.discardGone (s : State) (d : Discard) : Bool :=
  !s.dir.cascades.any (fun c => match c.cause with
      | .discard id _ => decide (id = d.id)
      | _ => false)
    && d.psets.all (fun h => (s.psetOf h).isNone && decide (sget s.flm.first 0 h = 0) && !s.flm.dying.any (fun x => decide (x.1 = h)))

/-- A DISCARD completes when its copies are gone, and with SECURE when DISCARD_END is durable (10 R380,
R381, R383). -/
def State.discardCheck (s : State) : State :=
  (s.flm.discards.filter (fun d => s.discardGone d && (!d.secure || d.finished))).foldl (fun s d =>
    let s := { s with flm := { s.flm with discards := s.flm.discards.filter (fun x => decide (x.id ≠ d.id)) } }
    let s := if d.secure then s.bump (pg flmPage + 0x2E4) else s
    s.done d.id 0 [w32 (b2n d.residue), w32 d.ended, 0, 0]) s

/-- The end point of a member of a cascade (05 R173, R176): a supersession claimed on it is given up, and every cascade
that it belongs to counts it. -/
def State.cascadeEnd (s : State) (i val : Nat) : State :=
  let up := s.cascadesOver i
  let s := up.foldl (fun s c => s.noteDiscard c.root i) (s.abandonSuper i)
  let s := (s.passPoint val).endEntry i val
  let s := if up.any (fun c => c.cause.evicts) then s.countEvicted else s
  (up.foldl (fun s c => s.cascadeEnded c.root i) s).discardCheck

/-- The end point of an eviction finds its entry evictable (05 R177, R179). -/
def State.evictNow (s : State) (i : Nat) : Bool :=
  let v := s.slot i
  decide (v.state = .current) && !v.pin && decide (v.children = 0) && !s.claimed i

/-- END_POINT: the first outstanding point, when it is an end (05 R163, R165, R177, R179), and the mark allows it (05 R166).
A RETIRE whose entry an ancestor's cascade has ended first completes at its own point. -/
def execEndPoint (val : Nat) (s : State) : Res :=
  .next (match s.dir.points with
    | [] => s
    | pt :: _ =>
      if pt.val ≠ val ∨ !s.seqOpen val then s
      else match pt.kind with
        | .commit _ _ => s
        | .super _ _ _ => s
        | .end_ i cause =>
          let v := s.slot i
          match cause with
          | .retire id =>
            if v.state ≠ .retiring then (s.passPoint val).done id 0 [1, 0, 0, 0]
            else if v.children ≠ 0 then s
            else ((s.passPoint val).endEntry i val).done id 0 [1, 0, 0, 0]
          | .cascade _ => if v.children ≠ 0 ∨ !v.resident then s.abandonEnd val cause else s.cascadeEnd i val
          | .free id =>
            if s.evictNow i then (((s.passPoint val).endEntry i val).countEvicted).done id 0 [0, 0, 0, 0]
            else s.abandonEnd val cause
          | .evict =>
            if s.evictNow i then ((s.passPoint val).endEntry i val).countEvicted
            else s.abandonEnd val cause)

end Sys2Proof.Machine
end

