-- ==== Sys2Proof/Machine/Tiers.lean ====
section
/-! DEFINITION. PLACE, FREE, moves and pressure reclaim (06). -/

namespace Sys2Proof.Machine

/-! ### PLACE (06 R208 to R214, R221) -/

/-- The next free page-set index and its generation (06 R202). -/
def State.takePset (s : State) : Option (Nat × Nat × State) :=
  let used := s.tier.psets.map (·.1) ++ s.tier.back
  match (List.range (used.length + 1)).find? (fun k =>
      decide (s.tier.fresh + k < 2 ^ 26) && !used.contains (s.tier.fresh + k)) with
  | some k =>
    let i := s.tier.fresh + k
    some (i, sget s.tier.gens 1 i, { s with tier := { s.tier with fresh := i + 1 } })
  | none =>
    match s.tier.back with
    | i :: r => some (i, sget s.tier.gens 1 i, { s with tier := { s.tier with back := r } })
    | [] => none

/-- A refusal of a charge: only the shortfall is defined (12 R445). -/
def State.shortfall (s : State) (id : Nat) (st : Status) (b : Nat) : State :=
  let (ws, s) := (s.countFull st).freeWords 3
  s.complete id st (some (ws.getD 0 0, ws.drop 1 ++ split64 b))

/-- FLAGS of a PLACE that have a name (12 R442). -/
def placeFlags : Word := 0x1F0F3F

/-- PLACE with MODE = RESERVE (06 R208, R214, R221). With no page-set index free it completes FULL without a shortfall (DESIGN CHOICE,
log 182). -/
def execPlaceReserve (id : Nat) (s : State) : Res :=
  .next (s.onNew id 0x07 (fun l s =>
    if l.flag 8 then s
    else if !s.reached .psa then s.fail id .notReady
    else
      let obj := l.flag 11
      let cnt := fld (l.ws.getD 5 0) 0 11
      let lg := fld (l.ws.getD 5 0) 16 5
      if !(l.reservedOk placeFlags [0xFFFF, if obj then 0x1F07FF else 0])
          ∨ (obj ∧ (cnt = 0 ∨ 1024 < cnt ∨ lg < 16 ∨ 21 < lg)) then s.fail id .badCommand
      else match s.model (l.w 4) with
      | none => s.fail id .notFound
      | some m =>
        let alloc := fld l.flags 0 6
        let v : PSet := { gen := 0, tenant := l.tenant, model := m.id, object := obj,
                          pages := if obj then cnt else m.layers,
                          pageSize := if obj then 2 ^ lg else m.pageSize, alloc := alloc, level := 1,
                          t0 := false, t1 := false, t2 := false, rstate := .open_, lapseAt := none,
                          checks := [], bad := [] }
        let t := if alloc % 4 = 0 then 0 else 1
        match s.chargeTier l.tenant v.charge (l.flag 5) (fun _ => false) 1 2 t with
        | .error (st, b) => s.shortfall id st b
        | .ok (s', t', true) =>
          match s'.takePset with
          | none => s.fail id .full
          | some (i, g, s) =>
            let s := s.setPset i ({ v with gen := g, level := t', lapseAt := some (s.clk + s.rsvLife) }.setHas t' true) |>.plate i
            let s := if t' = t then s else s.count 0x19 0x1A0 3
            s.done id 0 [w32 (psHandle g i), w32 t', 0, 0]
        | .ok (s', _, false) => s'))

/-- A SET takes the level `t` (06 R210): at once, or through a move at whose completion TIER_PREF takes effect. The flags
take effect at once, before the copy is laid out by them (06 R206); a move into T2 that the read-only mode refuses, and one that would
read an unrecoverable page, leave the level (06 R213, R214). A level other than that of TIER_PREF is a spill (06 R221). -/
def State.setTo (s : State) (id i alloc mask t : Nat) : State :=
  let p := (s.slot i).ps
  let v := s.psetAt p
  let spilled := fun (s : State) => if t = prefTier alloc then s else s.count 0x19 0x1A0 3
  if t = v.level then ((spilled s).setFlags i alloc mask).done id 0 [0, w32 t, 0, 0]
  else
    let now := maskAlloc alloc v.alloc 1
    match (s.setFlags i now mask).beginMove p t (.set id) (some (alloc % 4)) (some (v.alloc, mask)) with
    | .ok s => (spilled s).setRunning id
    | .error .readOnly => (s.setFlags i now mask).fail id .readOnly
    | .error .poison => (s.setFlags i now mask).fail id .poison
    | .error st => s.shortfall id st (v.charge t - s.freeSpace t)

/-- The level change of a SET (06 R210): what it starts, or what it completes with. -/
def State.setLevel (s : State) (id i alloc mask : Nat) : State :=
  let v := s.psetAt (s.slot i).ps
  let t := prefTier alloc
  if v.has t ∨ (t = 2 ∧ s.flm.readOnly) then s.setTo id i alloc mask t
  else match s.chargeTier v.tenant v.charge (bit (w32 alloc) 5) v.has 2 3 t with
    | .error (st, b) => s.shortfall id st b
    | .ok (s', _, false) => s'
    | .ok (s', t', true) => s'.setTo id i alloc mask t'

/-- PLACE with MODE = SET (06 R210 to R214). -/
def execPlaceSet (id : Nat) (s : State) : Res :=
  .next (s.onNew id 0x07 (fun l s =>
    if !(l.flag 8) then s
    else if !s.reached .psa then s.fail id .notReady
    else
      let mask := fld l.flags 16 5
      if !(l.reservedOk placeFlags [0, 0, 0xFFFFFFFF, 0xFFFFFFFF]) ∨ mask = 0 then s.fail id .badCommand
      else match s.namedKey l true with
      | .error e => s.fail id e
      | .ok (k, form) =>
        match s.current k form with
        | none => s.fail id (if (s.exact k form Slot.resident).isSome then .conflict else .notFound)
        | some (i, e) =>
          let v := s.psetAt e.ps
          let alloc := maskAlloc v.alloc (fld l.flags 0 6) mask
          if mask % 2 = 0 then (s.setFlags i alloc mask).done id 0 [0, w32 v.level, 0, 0]
          else if (s.moveOf e.ps).isSome ∨ s.tier.owed.any (fun x => decide (x.1 = e.ps)) then s.fail id .conflict
          else s.setLevel id i alloc mask))

/-! ### Moves (06 R210, R211, R229) -/

/-- What a completed SET reports (12 R445). -/
def State.moveDone (s : State) (m : Move) : State :=
  let s := (s.dropMove m.pset).setPref m.pset m.pref
  match m.cause with
  | .set id => s.done id 0 [0, w32 m.target, 0, 0]
  | .plan id => s.planCheck id
  | _ => s

/-- TIERS of the entry are journaled while it has a T2 copy (10 R365). -/
def State.journalTiers (s : State) (i : Nat) : State :=
  match s.slotOfPset i with
  | some j => s.dirUpdate j
  | none => s

/-- The copies above the new level are released; TIERS and the level follow (06 R207, R211). -/
def State.releaseAbove (s : State) (i t : Nat) : State :=
  (s.updPset i (fun v => { v with t0 := v.t0 && decide (t = 0), t1 := v.t1 && decide (t ≤ 1), level := t })).journalTiers i

/-- The new copy can commit: a T2 copy's PSET_COMMIT is durable; pages read out of T2 are in the cache. -/
def State.moveReady (s : State) (m : Move) : Bool :=
  let v := s.psetAt m.pset
  if m.target = 2 then s.flm.landed.contains (s.handleOf m.pset)
  else decide (v.level < 2) || (List.range v.pages).all (fun p => s.cached m.pset p)

/-- A move that a suspended record waits for does not go on (02 R67); that of a SET submitted on a queue set moves data in
slack (02 R77; 06 R210), and so does one that pressure has started (06 R222). -/
def State.moveShut (s : State) (m : Move) : Bool :=
  match m.cause with
  | .set id => s.shut id || (!((s.live id).any Live.isRecord) && !s.slack .memory)
  | .pressure => !s.slack .memory
  | _ => false

/-- MOVE_COMMIT (06 R210): a promotion raises the level; a demotion turns to the release of the copies
above. A move whose entry has ended completes NOTFOUND (06 R229). A move that is still owed is tried. -/
def execMoveCommit (pset : Nat) (s : State) : Res :=
  .next (match s.tier.moves.find? (fun m => decide (m.pset = pset) && m.gone) with
    | some m =>
      let s := { s with tier := { s.tier with moves := s.tier.moves.filter (fun x => decide (x ≠ m)) } }
      match m.cause with
      | .set id => s.fail id .notFound
      | .plan id => s.planFail id .notFound
      | _ => s
    | none =>
      match s.moveOf pset with
      | none => s.payOwed pset
      | some m =>
        let v := s.psetAt pset
        if m.releasing ∨ s.moveShut m ∨ !s.moveReady m then s
        else
          let h := s.handleOf pset
          let s := (s.updPset pset (fun v => v.setHas m.target true)).plate pset
          let s := { s with flm := { s.flm with landed := s.flm.landed.filter (fun x => decide (x ≠ h)) } }
          let s := if m.target = 2 then s.hotUnits pset (bit (w32 v.alloc) 3) else s
          if m.target < v.level then
            ((s.updPset pset (fun v => { v with level := m.target })).journalTiers pset |>.bump
              (pg 0x19 + 0x180)).moveDone m
          else
            let s := s.bump (pg 0x19 + 0x184)
            { s with tier := { s.tier with
                moves := updIf s.tier.moves (fun x => decide (x = m)) (fun x => { x with releasing := true }) } })

/-- COPY_RELEASE (06 R211; 11 R412): no read in flight on the upper copies and no view of one of them. -/
def execCopyRelease (pset : Nat) (s : State) : Res :=
  .next (match s.moveOf pset with
    | none => s
    | some m =>
      if !m.releasing ∨ s.moveShut m ∨ s.viewed pset m.target ∨ s.tier.reads.any (fun r => decide (r.pset = pset)) then s
      else (s.releaseAbove pset m.target).moveDone m)

/-! ### Reservations that lapse (06 R204) -/

/-- RESERVATION_LAPSE: the page set's index and the time. -/
def execReservationLapse (pset t : Nat) (s : State) : Res :=
  let s := s.at_ t
  let v := s.psetAt pset
  .next (match v.lapseAt with
    | none => s
    | some e =>
      if e ≤ s.clk ∧ v.gen ≠ 0 ∧ v.rstate ≠ .published then (s.freePset pset).count 0x19 0x19C 2 else s)

/-! ### Pressure reclaim (06 R222, R223) -/

/-- Free space in percent of capacity is below a bound. -/
def State.freeBelow (s : State) (t pct : Nat) : Bool := decide (s.freeSpace t * 100 < pct * s.capacity t)

/-- TIER_WM_T{t} field. -/
def State.watermark (s : State) (t lo : Nat) : Nat := s.cfgFld (pg 0x19 + 0x104 + 4 * t) lo 8

/-- Reclaim of a tier is in progress. -/
def State.reclaiming (s : State) (t : Nat) : Bool := if t = 0 then s.tier.low0 else s.tier.low1

/-- Reclaim of a tier starts or stops. -/
def State.setReclaiming (s : State) (t : Nat) (b : Bool) : State :=
  { s with tier := if t = 0 then { s.tier with low0 := b } else { s.tier with low1 := b } }

/-- Page sets of level `t` that pressure may demote, in the order of 05 R178 (06 R222 step 2). -/
def State.demotable (s : State) (t : Nat) : List (Nat × Slot) :=
  isort s.evictBefore (s.dir.slots.filter (fun e =>
    let v := s.psetAt e.2.ps
    decide (e.2.state = .current) && !e.2.pin && decide (v.level = t)
      && (bit (w32 v.alloc) 5 || decide (v.alloc % 4 = 3)) && (s.moveOf e.2.ps).isNone))

/-- The first demotion of a list whose lower-tier charge fits (06 R222). -/
def State.demoteFirst (s : State) (t : Nat) : List (Nat × Slot) → Option State
  | [] => none
  | e :: r =>
    let v := s.psetAt e.2.ps
    let start := fun (s : State) => match s.beginMove e.2.ps (t + 1) .pressure none none with
      | .ok s => some s
      | .error _ => none
    let go := if v.has (t + 1) then start s
      else match s.request v.tenant (t + 1) (v.charge (t + 1)) with
        | .fits s => start s
        | _ => none
    match go with
    | some s => some s
    | none => s.demoteFirst t r

/-- The first retained copy of a tier that can be released now (06 R222 step 1). -/
def State.releaseFirst (s : State) (t : Nat) : Option State :=
  match s.releasable t (fun _ => true) with
  | e :: _ => some (s.releaseCopy e.1 t)
  | [] => none

/-- Credit for a demotion into T2 (06 R223; 10 R370, R372). -/
def State.demoteCredit (s : State) (t : Nat) : Bool :=
  decide (t = 0) || !s.takesCredit || (decide (s.flm.mode ≠ 3) && decide (256 ≤ s.flm.credit))

/-- One step of pressure reclaim (06 R222); without a candidate RECLAIM_STUCK and a retry after 1 ms. -/
def State.reclaimStep (s : State) (t : Nat) : State :=
  let demote := if bit (s.cfgReg (pg 0x19 + 0x100)) 1 ∧ s.demoteCredit t then s.demoteFirst t (s.demotable t) else none
  match s.releaseFirst t with
  | some s => s
  | none =>
    match demote with
    | some s => s
    | none =>
      match s.evictList (fun _ v => decide ((s.psetAt v.ps).level = t)) with
      | e :: _ =>
        if !s.endReady then s
        else ((s.endNow e.1).countEvicted).bump (pg 0x19 + 0x190)
      | [] =>
        ({ s with tier := { s.tier with
            retryAt := s.tier.retryAt.filter (fun (x : Nat × Nat) => decide (x.1 ≠ t)) ++ [(t, s.clk + 1000000)] } }).raise 0x19 5

/-- Free space of a tier stands below LOW_PCT, as it was last seen. -/
def State.wasLow (s : State) (t : Nat) : Bool := if t = 0 then s.tier.under0 else s.tier.under1

/-- What is seen of LOW_PCT; a fall below it raises LOW_T0 or LOW_T1, whatever RECLAIM_EN is and whether or not reclaim runs (06 R230). -/
def State.noteLow (s : State) (t : Nat) : State :=
  let low := s.freeBelow t (s.watermark t 0)
  let s' := { s with tier := if t = 0 then { s.tier with under0 := low } else { s.tier with under1 := low } }
  if low && !s.wasLow t then s'.raise 0x19 t else s'

/-- Pressure reclaim runs in slack while free space is below HIGH_PCT once it fell below LOW_PCT (06 R222; 02 R77). -/
def State.pressure (s : State) (t : Nat) : State :=
  if 1 < t ∨ !s.reached .psa then s
  else
    let s := s.noteLow t
    let s := if s.wasLow t then s.setReclaiming t true else s
    if !s.reclaiming t then s
    else if !s.freeBelow t (s.watermark t 8) then s.setReclaiming t false
    else if !bit (s.cfgReg (pg 0x19 + 0x100)) 0 then s.setReclaiming t (s.wasLow t)
    else if !(s.slack .memory) then s
    else s.reclaimStep t

/-! ### What a fall of the T2 capacity does (10 R386) -/

/-- Ends scheduled for evictable entries of level T2, in order, until the copies fit (10 R386). -/
def State.endForCapacity (s : State) (need : Nat) : List (Nat × Slot) → State
  | [] => s
  | e :: r =>
    if need = 0 then s
    else (s.schedule (.end_ e.1 .evict)).endForCapacity (need - (s.psetAt e.2.ps).charge 2) r

/-- Retained T2 copies released while the copies exceed the capacity; recursion on fuel. -/
def State.releaseForCapacity : Nat → State → State
  | 0, s => s
  | n + 1, s =>
    if s.tierCharge 2 ≤ s.capacity 2 then s
    else match s.releaseFirst 2 with
      | none => s
      | some s => State.releaseForCapacity n s

/-- Bytes of T2 copies whose entries have ended, or have an end point scheduled: they go without more being ended. -/
def State.leavingT2 (s : State) : Nat :=
  ((s.dir.slots.filter (fun e => decide (e.2.state = .ended) || s.ending e.1)).map (fun e =>
    if (s.psetAt e.2.ps).t2 then (s.psetAt e.2.ps).charge 2 else 0)).sum

/-- While the T2 copies exceed the capacity, retained copies are released and then evictable entries ended (10 R386). -/
def State.trimCapacity (s : State) : State :=
  if s.tierCharge 2 ≤ s.capacity 2 then s
  else
    let s := State.releaseForCapacity (s.tier.psets.length + 1) s
    s.endForCapacity (s.tierCharge 2 - s.capacity 2 - s.leavingT2)
      (s.evictList (fun _ v => decide ((s.psetAt v.ps).level = 2)))

/-- PRESSURE_RECLAIM: one step; not while a retry is awaited. Of T2 it takes the copies that exceed its capacity (10 R386). -/
def execPressureReclaim (tier : Nat) (s : State) : Res :=
  .next (if tier = 2 then s.trimCapacity else if s.tier.retryAt.any (fun x => decide (x.1 = tier)) then s else s.pressure tier)

/-- RECLAIM_RETRY, 1 ms after no candidate was found. -/
def execReclaimRetry (tier t : Nat) (s : State) : Res :=
  let s := s.at_ t
  .next (if s.tier.retryAt.any (fun x => decide (x.1 = tier ∧ x.2 ≤ s.clk)) then
      ({ s with tier := { s.tier with retryAt := s.tier.retryAt.filter (fun x => decide (x.1 ≠ tier)) } }).pressure tier
    else s)

/-! ### FREE (06 R215) -/

/-- FREE of a PSET: a reservation of the tenant; a handle of a published page set is NOTFOUND (DESIGN CHOICE, log 183). -/
def State.freeRsv (s : State) (l : Live) : State :=
  match s.psetOf (l.w 4) with
  | none => s.fail l.id .notFound
  | some v =>
    if v.tenant ≠ l.tenant then s.fail l.id .notFound
    else match v.rstate with
      | .published => s.fail l.id .notFound
      | .sealed _ => s.fail l.id .conflict
      | .open_ => (s.freePset (psIx (l.w 4))).done l.id 0 [0, 0, 0, 0]
      | .stuck => (s.freePset (psIx (l.w 4))).done l.id 0 [0, 0, 0, 0]

/-- FREE of a key: an eviction, which completes at its end point; of an entry whose end point is scheduled already it is CONFLICT (DESIGN
CHOICE, log 184). -/
def State.freeKey (s : State) (l : Live) : State :=
  match s.namedKey l false with
  | .error e => s.fail l.id e
  | .ok (k, form) =>
    match s.current k form with
    | none => s.fail l.id .notFound
    | some (i, _) =>
      if s.evictable i then (s.schedule (.end_ i (.free l.id))).setRunning l.id else s.fail l.id .conflict

/-- FREE (06 R215). -/
def execFree (id : Nat) (s : State) : Res :=
  .next (s.onNew id 0x08 (fun l s =>
    if !s.reached .psa then s.fail id .notReady
    else if l.flag 0 then
      if l.reservedOk 0x601 [0, 0, 0xFFFFFFFF, 0xFFFFFFFF] then s.freeKey l else s.fail id .badCommand
    else if l.reservedOk 0x601 [0xFFFFFFFF] then s.freeRsv l else s.fail id .badCommand))

end Sys2Proof.Machine
end

