-- ==== Sys2Proof/Machine/Psa.lean ====
section
/-! DEFINITION. The rows of the Prefix Search Array (04): insertion, compaction, draining, scrubbing,
throttling, failure, re-homing and the start-up rebuild. -/

namespace Sys2Proof.Machine

/-- PSA_CTRL bit. -/
def State.psaCtrl (s : State) (i : Nat) : Bool := bit (s.cfgReg (pg 0x07 + 0x100)) i

/-- PSA_INSERT (04 R126, R135): the group of a slot that asked for it becomes held. -/
def execPsaInsert (slot : Nat) (s : State) : Res :=
  .next (if s.psa.want.contains slot then
      let s := { s with psa := { s.psa with want := s.psa.want.filter (fun x => decide (x ≠ slot)) } }
      let v := s.slot slot
      if v.resident && s.groupHot v.key && !s.isHeld v.key then s.hold v.key else s
    else s)

/-- Held maximum of a bank: one free slot in every segment (04 R115). -/
def heldMax (width : Nat) : Nat := bankSlots width - bankSlots width / segSlots width

/-- A segment has fewer than SEG_FREE free slots though the fill of its bank allows SEG_FREE in every segment (04 R137). -/
def State.segTight (s : State) (b seg : Nat) : Bool :=
  let n := s.cfgFld (pg 0x07 + 0x110) 0 8
  decide ((s.bank b).segFree seg < n ∧ n * (bankSlots (s.bank b).width / segSlots (s.bank b).width) ≤ (s.bank b).free)

/-- Active banks of a bank's width whose fill lies more than SKEW_PCT of the held maximum below its own, by the bank rule
(04 R135, R137). -/
def State.skewed (s : State) (b : Nat) : List Nat :=
  let skew := heldMax (s.bank b).width * s.cfgFld (pg 0x07 + 0x110) 8 8 / 100
  (s.banksFor (s.bank b).width).filter (fun c => decide (skew < (s.bank b).rows.length - (s.bank c).rows.length))

/-- Segment of a group in a bank. -/
def State.groupSeg (s : State) (b : Nat) (dirs : List Nat) : Option Nat :=
  ((s.bank b).rows.find? (fun e => dirs.contains e.2.dir)).map (fun e => e.1 / segSlots (s.bank b).width)

/-- PSA_COMPACTION (04 R137, R641): in slack the group of `slot`, held in `bank`, is relocated, to another bank where the
fills differ too much and there is room, or else under R136, its own bank first, where the fills differ too much or its segment has too
little room; no reason, no move. -/
def execPsaCompaction (slot bank : Nat) (s : State) : Res :=
  .next (
    let k := (s.slot slot).key
    let es := s.groupEntries k
    let dirs := es.map (·.1)
    if !s.psaCtrl 2 ∨ !(s.slack .psa) ∨ !s.isHeld k then s
    else match s.bankOf dirs with
      | none => s
      | some b =>
        if b ≠ bank ∨ (s.bank b).state ≠ .active then s
        else if (s.segWith (s.skewed b) (es.length + 1)).isSome then (s.moveGroup k es b (s.skewed b) (es.length + 1)).1
        else if s.skewed b ≠ [] then (s.relocate k es b (es.length + 1)).1
        else if (s.groupSeg b dirs).any (s.segTight b) then (s.relocate k es b (es.length + 1)).1
        else s)

/-- PSA_DRAIN (04 R116, R641): the group of `slot` leaves the bank for another one or is withdrawn. -/
def execPsaDrain (bank slot : Nat) (s : State) : Res :=
  .next (
    if (s.bank bank).state ≠ .draining then s
    else
      let v := s.slot slot
      let es := s.groupEntries v.key
      let dirs := es.map (·.1)
      if !(s.bank bank).rows.any (fun e => dirs.contains e.2.dir) then s.drainEnd bank
      else (s.moveGroup v.key es bank (s.banksFor v.key.keyForm) (es.length + 1)).1)

/-- The scrubber's check of a physical row against its image word (04 R140): VALID, and for an entry the care bits of the
row's unit, and at a head the result word and the key check. A result word that cannot be read agrees with nothing. -/
def Bank.scrubOk (b : Bank) (r : Nat) : Bool :=
  let w := 2 ^ b.width
  let m := b.imgWord r
  let form := m / 2 ^ 60 % 4
  let care := fun (x : Row) => decide (x.care / 2 ^ (144 * (r % w)) % 2 ^ 144 = careMask b.width form / 2 ^ (144 * (r % w)) % 2 ^ 144)
  match b.rows.find? (fun e => decide (e.1 = r / w)) with
  | none => decide (m / 2 ^ 62 = 0)
  | some (_, x) =>
    if r % w = 0 then
      decide (m / 2 ^ 62 = 1) && care x && decide (x.err ≠ .double ∧ x.form = form ∧ x.chk = m / 2 ^ 32 % 2 ^ 16 ∧ x.dir = m % 2 ^ 26)
        && decide (crc16 (leBytes (keyBytes b.width) (x.data &&& careMask b.width form)) = m / 2 ^ 32 % 2 ^ 16)
    else decide (m / 2 ^ 62 = 2) && care x

/-- Data bit 0 of the entry at the scrub position is flipped once after INJECT (04 R156). -/
def State.scrubInject (s : State) (b : Nat) : State :=
  let v := s.bank b
  let w := 2 ^ v.width
  if v.inject && decide (v.scrub % w = 0) && v.rows.any (fun e => decide (e.1 = v.scrub / w)) then
    s.setBank b { v with inject := false,
                         rows := v.rows.map (fun e => if e.1 = v.scrub / w then (e.1, { e.2 with data := e.2.data ^^^ 1 }) else e) }
  else s

/-- The result word of the head row at the scrub position is read (04 R144). -/
def State.scrubWord (s : State) (b : Nat) : State :=
  let v := s.bank b
  let w := 2 ^ v.width
  match v.rows.find? (fun e => decide (e.1 = v.scrub / w)) with
  | some (j, r) => if v.scrub % w = 0 then s.wordRead b j r else s
  | none => s

/-- The scrubber moves on; a pass ends with the last row (04 R140, R142). -/
def State.scrubNext (s : State) (b : Nat) : State :=
  if (s.bank b).scrub + 1 = 2 ^ 18 then
    (s.updBank b (fun x => { x with scrub := 0, passRepairs := 0, passAt := s.clk, late := false })).bump
      (pg (0x08 + b) + 0x114)
  else s.updBank b (fun x => { x with scrub := x.scrub + 1 })

/-- Reads the row at the scrub position of a bank, which has failed or not (04 R140 to R143). -/
def State.scrubBank (s : State) (b : Nat) : State :=
  let s := (s.scrubInject b).scrubWord b
  let r := (s.bank b).scrub
  let s :=
    if (s.bank b).imgBad.contains r then s.withdrawSeg b (r / 64)
    else if (s.bank b).scrubOk r then s
    else s.psaRepair b (r / 2 ^ (s.bank b).width)
  s.scrubNext b

/-- A soft error strikes the PSA's memories (04 R143, R144): one bit or more of an entry's result word, or an image word in T1
beyond correction. -/
def State.upset (s : State) : Upset → State
  | .word b j double =>
    if (s.bank b).rows.any (fun e => decide (e.1 = j)) then
      s.updBank b (fun v => { v with rows := v.rows.map (fun e =>
        if e.1 = j then (e.1, { e.2 with err := if double ∨ e.2.err ≠ .ok then .double else .single }) else e) })
    else s
  | .image b r =>
    if r < 2 ^ 18 ∧ b < 16 ∧ !(s.bank b).imgBad.contains r then s.updBank b (fun v => { v with imgBad := v.imgBad ++ [r] }) else s

/-- SCRUB_LATE (04 R142). -/
def execScrubLate (bank t : Nat) (s : State) : Res :=
  let s := s.at_ t
  let v := s.bank bank
  .next (if bank < 16 ∧ s.psaCtrl 1 ∧ v.late = false
        ∧ v.passAt + s.cfgFld (pg 0x07 + 0x10C) 16 16 * 1000000 < s.clk then
      (s.updBank bank (fun x => { x with late := true })).raise 0x07 0
    else s)

/-- Throttle levels set; THROTTLE_CHANGE when the effective level changes. The slots withheld at the old level are counted
up to now. -/
def State.setPsaLevels (s : State) (temp power : Nat) : State :=
  let old := s.psaLevel
  let s := { s with psa := { s.psa with tempLevel := temp, powerLevel := power, slots := s.psaSlots, slotsAt := s.clk } }
  if s.psaLevel ≠ old then s.raise 0x07 3 else s

/-- PSA_TEMP_SAMPLE (04 R146): the hottest of the four sensors. A temperature exactly HYST_C below the level's threshold keeps
the level: the spec says "below ... by HYST_C", and the model asks for more than HYST_C (DESIGN CHOICE, log 139). -/
def execPsaTempSample (t : Nat) (temps : List Nat) (s : State) : Res :=
  let s := s.at_ t
  let hot := temps.foldl max 0
  let step := fun i => s.cfgFld (pg 0x07 + 0x104) (8 * i) 8
  let up := if step 3 ≤ hot then 3 else if step 2 ≤ hot then 2 else if step 1 ≤ hot then 1 else 0
  let cur := s.psa.tempLevel
  let lvl := if cur < up then up
    else if 0 < cur ∧ hot + s.cfgFld (pg 0x07 + 0x104) 0 4 < step cur then cur - 1 else cur
  .next (({ s with psa := { s.psa with tempC := hot } }).setPsaLevels lvl s.psa.powerLevel)

/-- BANK_FAILED (04 R148): a failed self-test or a hard fault. -/
def execBankFailed (bank : Nat) (s : State) : Res := .next (if bank < 16 then s.bankFail bank else s)

/-- PSA_FORCE_FAIL (04 R148): a write of PSA_BANK_TEST.FORCE_FAIL. -/
def execPsaForceFail (src : Src) (bank : Nat) (s : State) : Res :=
  .next (if bank < 16 ∧ s.pageOn src (0x08 + bank) ∧ s.reached .verify then s.bankFail bank else s)

/-- PSA_INJECT (04 R156): a write of PSA_BANK_TEST.INJECT. -/
def execPsaInject (src : Src) (bank : Nat) (s : State) : Res :=
  .next (if bank < 16 ∧ s.pageOn src (0x08 + bank) ∧ s.reached .verify then s.updBank bank (fun x => { x with inject := true }) else s)

/-- The groups with a HOT or SHARED resident entry, each once, in the order of the first such entry's directory slot: the
spec says only that the rebuild scans the directory (DESIGN CHOICE, log 140). -/
def State.hotGroups (s : State) : List Key :=
  ((s.dir.slots.filter (fun e => e.2.resident && (e.2.hot || e.2.shared))).map (fun e => e.2.key)).foldl (fun ks k =>
    if ks.any (fun k' => decide (k'.model = k.model ∧ k'.hash = k.hash)) then ks else ks ++ [k]) []

/-- Every group that R126 makes held becomes held (04 R152). -/
def State.holdAll (s : State) : State := s.hotGroups.foldl (fun s k => s.hold k) s

/-- PSA_BANK_CFG.WIDTH. -/
def State.bankWidth (s : State) (b : Nat) : Nat := s.cfgFld (pg (0x08 + b) + 0x100) 1 2

/-- PSA_BANK_CFG.ENABLE. -/
def State.bankEnable (s : State) (b : Nat) : Bool := bit (s.cfgReg (pg (0x08 + b) + 0x100)) 0

/-- PSA_REBUILD (04 R152): self-test of the enabled banks, then every group. A bank that has failed already stays failed
(R151), and an INJECT written before stays (R156). -/
def execPsaRebuild (failing : List Nat) (s : State) : Res :=
  .next (if s.start ≠ .psa ∨ s.phaseDone then s
    else
      let s := { s with phaseDone := true }
      let s := (List.range 16).foldl (fun s b =>
        if (s.bank b).state = .failed then s
        else
          let s := s.setBank b { Bank.reset with
            inject := (s.bank b).inject, width := s.bankWidth b, state := if s.bankEnable b then .active else .empty, passAt := s.clk }
          if s.bankEnable b && failing.contains b then s.bankFail b else s) s
      s.holdAll)

/-- Bank states after a configuration has been applied (04 R116). -/
def State.psaApply (s : State) : State :=
  (List.range 16).foldl (fun s b =>
    let v := s.bank b
    match v.state with
    | .failed => s
    | .empty =>
      s.setBank b { v with width := s.bankWidth b, state := if s.bankEnable b then .active else .empty }
    | .active => if s.bankEnable b then s else (s.setBank b { v with state := .draining }).drainEnd b
    | .draining => if s.bankEnable b then s.setBank b { v with state := .active } else s) s

end Sys2Proof.Machine
end

