-- ==== Sys2Proof/Machine/Flash.lean ====
section
/-! DEFINITION. The rows of the flash media manager (10): programming, the journal, erases, relocation,
scrubbing, failures, recovery, and DISCARD. -/

namespace Sys2Proof.Machine

/-- FLM_CTRL bit. -/
def State.flmCtrl (s : State) (i : Nat) : Bool := bit (s.cfgReg (pg flmPage + 0x200)) i

/-- What follows a change of the flash tier: while the copies exceed the capacity they are trimmed, read-only ends the moves into
T2, and the mode follows the free share (10 R370, R386, R387). -/
def State.flashSettle (s old : State) : State :=
  let s := s.trimCapacity
  let s := if s.flm.readOnly && !old.flm.readOnly then
      s.readOnlyMoves.foldl (fun s m => s.stopMove m .readOnly) s
    else s
  s.updMode

/-- Corrected bits above which a superblock is rewritten (10 R374). -/
def State.rewriteLimit (s : State) : Nat := s.cfgFld (pg flmPage + 0x214) 0 8 * s.flm.geom.ldpc / 100

/-- A slot's superblock is scheduled for rewrite. -/
def State.scheduleRewrite (s : State) (n : Nat) : State :=
  { s with flm := s.flm.updSb n (fun b => if b.st = SbState.free ∨ b.st = SbState.meta_ then b else { b with rewrite := true }) }

/-! ### Programming (10 R356 to R359, R372) -/

/-- Opens a superblock for a stream that has none (10 R356). -/
def State.ensureSb (s : State) (k : Nat) : State :=
  if (s.stream k).sb.isSome then s
  else match s.openSb (k / 3) (decide (k % 3 ≠ 0)) with
    | none => s
    | some (n, s) => (s.setStream k { s.stream k with sb := some n }).updMode

/-- Row 5 writes of a stream must wait: in mode CRITICAL, and for credit while it is below one slot (10 R370, R372). -/
def State.creditShort (s : State) (k : Nat) : Bool :=
  decide (k % 3 = 0) && s.takesCredit && (decide (s.flm.mode = 3) || decide (s.flm.credit < 256))

/-- SEGMENT_FLUSH (10 R358): the segment that has held data for SEGMENT_US is padded with zero slots. -/
def execSegmentFlush (stream t : Nat) (s : State) : Res :=
  let s := s.at_ t
  .next (match (s.stream stream).since with
    | none => s
    | some t0 =>
      if s.clk < t0 + s.cfgFld (pg flmPage + 0x224) 0 16 * 1000 ∨ s.flm.readOnly then s
      else
        let s := s.ensureSb stream
        let v := s.stream stream
        match v.sb with
        | none => s
        | some n =>
          let seg := segData (s.flm.sbAt n)
          if seg ≤ v.queue.length then s
          else
            (s.setStream stream { v with
              queue := v.queue ++ List.replicate (seg - v.queue.length) (padSlot s.clk),
              flushed := true }).bump (pg flmPage + 0x2EC))

/-- PSET_COMMIT of a moving page set (10 R360, R365), before the map record of its last unit: no slot of it waits for its program or
follows in `rest`. -/
def State.commitRecord (s : State) (h : Nat) (rest : List WSlot) : State :=
  match s.tier.moves.find? (fun m => decide (m.target = 2 ∧ m.releasing = false ∧ m.gone = false ∧ s.handleOf m.pset = h)) with
  | none => s
  | some m =>
    if rest.any (fun w => w.of h) ∨ s.t2Queued h ∨ s.flm.recorded.contains h then s
    else match s.slotOfPset m.pset with
      | none => s
      | some i =>
        ({ s with flm := { s.flm with recorded := s.flm.recorded ++ [h] } }).journal
          (.psetCommit h (s.psetAt m.pset) i (s.slot i) (sget s.flm.first 0 h - 1))

/-- A page read at a location: counted in its group and for its block's read disturb (10 R374, R391). -/
def State.noteRead (s : State) (sb pos n : Nat) : State :=
  let s := s.bump64 (pg (chPage (dieChannel (sb / 8192) pos)) + 0x180) n
  let s := { s with flm := s.flm.updSb sb (fun b =>
    if b.st = SbState.free then b else { b with reads := sset b.reads 0 pos (sget b.reads 0 pos + n) }) }
  if s.cfgFld (pg flmPage + 0x214) 16 16 * 1000 < sget (s.flm.sbAt sb).reads 0 pos then s.scheduleRewrite sb else s

/-- Map records of the slots of a protected segment (10 R360): a MAPPED unit's when its last slot is there; a unit that has become
stipple entries since it was queued is moved entry by entry. The destination joins the footprint (10 R390), and what is relocated has been
read from its old place. `j` is the number of the first slot. -/
def State.mapRecords (s : State) (n : Nat) : Nat → List WSlot → State
  | _, [] => s
  | j, w :: r =>
    let s := match w.what with
      | none => s
      | some (h, a) =>
        if !s.t2Has h a then s
        else
          let s := s.footAdd h n
          let old := w.src.bind (fun _ => s.flm.locOf a)
          let s := match old with
            | some l => s.noteRead l.sb (s.flm.slotPos l) 1
            | none => s
          let wide := w.wide && !(w.src.isSome && s.flm.stip.any (fun e => decide (e.1 / 16 = a / 16)))
          if !wide then (s.commitRecord h r).journal (.mapStip a h { sb := n, slot := j } old)
          else if a % 16 = 15 then
            (s.commitRecord h r).journal (.mapBroad (a / 16) h { sb := n, slot := j - 15 } (w.src.bind (fun _ => s.flm.locOf (a - 15))))
          else s
    s.mapRecords n (j + 1) r

/-- The pages of a segment as programs of a superblock's dies: 48 pages on each, counted in their groups (10 R391). -/
def State.countPrograms (s : State) (n : Nat) : State :=
  (s.flm.sbAt n).blocks.foldl (fun s b => s.bump (pg (chPage (dieChannel (n / 8192) b.1)) + 0x188) 48) s

/-- The read-back of a segment (10 R357): 48 pages on each die. -/
def State.countBack (s : State) (n : Nat) : State :=
  (s.flm.sbAt n).blocks.foldl (fun s b => s.noteRead n b.1 48) s

/-- Programs of a segment that passed end their dies' runs of failures, those that failed add to them (10 R376). -/
def State.programResults (s : State) (n : Nat) (bad : List Nat) : State :=
  (s.flm.sbAt n).blocks.foldl (fun s b => s.blockResult (32 * (n / 8192) + b.1) b.2 (!bad.contains b.1)) s

/-- A program (`bad`) or read-back (`back`) fails (10 R359): counted, the superblock closed at its last protected segment; its data stays
queued at the front of the stream. -/
def State.programFail (s : State) (k n : Nat) (bad back : List Nat) : State :=
  let row := n / 8192
  let all := (bad ++ back).dedup
  let s := s.countPrograms n
  let s := if bad = [] then s.countBack n else s
  let s := { s with flm := { s.flm.updSb n (fun x =>
    { x with st := .closed, closedAt := s.flm.closes, badPos := (x.badPos ++ all).dedup }) with closes := s.flm.closes + 1 } }
  let s := (s.journalSb n .closed).setStream k { s.stream k with sb := none, flushed := false }
  let s := all.foldl (fun s p => s.count (chPage (dieChannel row p)) 0x19C 3) s
  s.programResults n bad

/-- XOR of byte strings, as long as the longer. -/
def xorBytes : List Byte → List Byte → List Byte
  | [], bs => bs
  | as, [] => as
  | a :: as, b :: bs => (a ^^^ b) :: xorBytes as bs

/-- The bytes that a write slot programs: 16 KiB of its page, or zeros (10 R351, R358). -/
def State.slotBytes (s : State) (w : WSlot) : List Byte :=
  match w.what with
  | none => List.replicate 16384 0
  | some (h, a) =>
    let v := s.psetAt (psIx h)
    let k := a - (sget s.flm.first 0 h - 1)
    let page := k / v.slotsPerPage
    let off := k % v.slotsPerPage * 16384
    let n := min 16384 (v.pageSize - off)
    if page < v.pages then s.pageBytes (psIx h) page off n ++ List.replicate (16384 - n) 0 else List.replicate 16384 0

/-- The data pages of a segment and the parity pages of its 48 stripes, each the XOR of its D data pages (10 R345, R357). -/
def State.writeMedia (s : State) (n seg : Nat) (ws : List WSlot) : State :=
  let d := (s.flm.sbAt n).blocks.length - 1
  let data := ws.map s.slotBytes
  let m := data.zipIdx.foldl (fun m x => sset m [] (2 ^ 20 * n + seg * segData (s.flm.sbAt n) + x.2) x.1) s.flm.media
  let m := (List.range 48).foldl (fun m t =>
    sset m [] (2 ^ 20 * n + 2 ^ 19 + seg * 48 + t) (((data.drop (t * d)).take d).foldl xorBytes [])) m
  { s with flm := { s.flm with media := m } }

/-- The segment is protected: its slots get their map records; a full superblock closes (10 R357, R360). -/
def State.programOk (s : State) (k n : Nat) : State :=
  let v := s.stream k
  let b := s.flm.sbAt n
  let seg := segData b
  let now := v.queue.take seg
  let rest := v.queue.drop seg
  let full := decide (b.segs + 1 = s.flm.segsOf b)
  let used := (now.filter (fun w => w.what.isSome)).length
  let s := if k % 3 = 0 ∧ s.takesCredit then
      { s with flm := { s.flm with credit := s.flm.credit - 256 * used } } else s
  let s := (((s.countPrograms n).countBack n).programResults n []).writeMedia n b.segs now
  let s := { s with flm := s.flm.updSb n (fun x => { x with segs := x.segs + 1, lastSeq := s.flm.jseq }) }
  let s := s.setStream k { sb := if full then none else some n, queue := rest, flushed := false, short := false }
  let s := if full then
      State.journalSb { s with flm := { s.flm.updSb n (fun x => { x with st := .closed, closedAt := s.flm.closes }) with
                           closes := s.flm.closes + 1 } } n .closed
    else s
  s.mapRecords n (b.segs * seg) now

/-- Foreground work on a channel ends: its time counts in the current 1 ms (10 R368). -/
def Flm.fgEnd (f : Flm) (clk ch : Nat) : Flm :=
  match sget f.fgAt 0 ch with
  | 0 => f
  | a + 1 =>
    let w := clk / 1000000
    let x := sget f.fg (0, 0) ch
    let old := if x.1 = w then x.2 else 0
    { f with fgAt := sset f.fgAt 0 ch 0, fg := sset f.fg (0, 0) ch (w, old + (clk - max a (w * 1000000))) }

/-- The dies of a half that program a stream's segment are free again. -/
def State.progEnd (s : State) (half : Nat) : State :=
  let f := ((List.range 32).map (fun k => 32 * half + k)).foldl (fun f ch => f.fgEnd s.clk ch) s.flm
  { s with flm := { f with
      busy := f.busy.filter (fun e => !(decide (e.1 / 1024 = half) && e.2.any (fun b => match b.op with
        | .prog _ => true
        | _ => false))),
      prog := sset f.prog 0 half 0 } }

/-- Every die that holds a block of the superblock has started its part of the segment. -/
def State.segStarted (s : State) (k n : Nat) : Bool :=
  (s.flm.sbAt n).blocks.all (fun b => (sget s.flm.busy none (32 * (n / 8192) + b.1)).any (fun x => decide (x.op = .prog k)))

/-- A die position fails the read-back (10 R357): a codeword does not decode by hard decision, or with more corrected bits than the rewrite
threshold of 10 R374. -/
def State.backFails (s : State) (back : List (Nat × ReadOutcome)) : List Nat :=
  back.filterMap (fun x => match x.2 with
    | .hard 0 bits => if s.rewriteLimit < bits then some x.1 else none
    | _ => some x.1)

/-- SEGMENT_PROGRAMMED (10 R357, R359): stream, and what the programs and the read-back gave. The segment is one that FLASH_OP_START has
started on its dies (10 R368). -/
def execSegmentProgrammed (stream : Nat) (r : SegResult) (s : State) : Res :=
  .next (
    if sget s.flm.prog 0 (stream / 3) ≠ stream + 1 then s
    else
      let s := s.ensureSb stream
      let v := s.stream stream
      match v.sb with
      | none => s
      | some n =>
        let seg := segData (s.flm.sbAt n)
        if v.queue.length < seg ∨ seg = 0 ∨ s.flm.readOnly then s.progEnd (stream / 3)
        else if !s.segStarted stream n then s
        else if r.failed = [] ∧ s.backFails r.back = [] then ((s.progEnd (stream / 3)).programOk stream n).flashSettle s
        else ((s.progEnd (stream / 3)).programFail stream n r.failed (s.backFails r.back)).flashSettle s)

/-! ### Journal and checkpoints (10 R364, R366, R367) -/

/-- JOURNAL_FLUSH (10 R364): JOURNAL_US after the open page's first record. -/
def execJournalFlush (t : Nat) (s : State) : Res :=
  let s := s.at_ t
  .next (match s.flm.jopenAt with
    | none => s
    | some t0 =>
      if t0 + s.cfgFld (pg flmPage + 0x224) 16 16 * 1000 ≤ s.clk then { s with flm := s.flm.jclose } else s)

/-- A copy of a journal page that has been programmed and read back: its bytes are in flash, counted in its group (10 R364, R391). -/
def State.ringWrite (s : State) (p : JPage) (copy : Nat) : State :=
  match s.flm.ringPlace p.n, s.flm.ringDie p.n copy with
  | some (sb, t), some d =>
    let s := (s.bump (pg (chPage (dieChannel (d / 32) (d % 32))) + 0x188)).bump64 (pg (chPage (dieChannel (d / 32) (d % 32))) + 0x180) 1
    { s with flm := { s.flm with media := sset s.flm.media [] (2 ^ 20 * sb + 32 * t + d % 32) (pageImage p.recs) } }
  | _, _ => s

/-- The die that programs a copy of a journal page is free again. -/
def Flm.ringFree (f : Flm) (n copy : Nat) : Flm :=
  match f.ringDie n copy with
  | none => f
  | some d => if f.ringBusy n copy then { f with busy := sset f.busy none d none } else f

/-- JOURNAL_PAGE_DURABLE (10 R360, R364): whether the two copies of the oldest closed page read back, of those that are being programmed; a
copy that does not is programmed again. The page is durable with both. -/
def execJournalPageDurable (x : PageResult) (s : State) : Res :=
  .next (match s.flm.jpages with
    | [] => s
    | p :: r =>
      let a := !p.ok0 && x.first && s.flm.ringBusy p.n 0
      let b := !p.ok1 && x.second && s.flm.ringBusy p.n 1
      let s1 := if a then s.ringWrite p 0 else s
      let s2 := if b then s1.ringWrite p 1 else s1
      let s3 := { s2 with flm := (s2.flm.ringFree p.n 0).ringFree p.n 1 }
      let q : JPage := { p with ok0 := p.ok0 || a, ok1 := p.ok1 || b }
      if q.ok0 && q.ok1 then
        let s' := (State.jcount { s3 with flm := { s3.flm with jpages := r } }).ringErase (p.n + 1)
        ((p.recs.foldl (fun s x => s.applyRec x) s').flashSettle s).discardCheck
      else { s3 with flm := { s3.flm with jpages := q :: r } })

/-- A checkpoint is due (10 R366): R194 of 05 forces one for an open proof's slot, or one that waits to return. -/
def State.ckptDue (s : State) : Bool :=
  decide (s.flm.jmax ≤ 2 * s.flm.jused)
    || decide (s.flm.ckptAt + s.cfgFld (pg flmPage + 0x220) 16 16 * 1000000000 ≤ s.clk)
    || decide (s.dir.proofWait ≠ []) || s.dir.proofs.any (fun p => s.genFull p.slot)

/-- CHECKPOINT (10 R366): begins and ends in the journal, and its data goes into the older of the two areas; it is complete when CKPT_END
is durable. -/
def execCheckpoint (t : Nat) (s : State) : Res :=
  let s := s.at_ t
  .next (if s.flm.ckptRun ∨ !s.flashOn ∨ !s.ckptDue then s
    else
      let n := s.flm.ckptN + 1
      let seq := (s.flm.jroom (.ckptBegin n (n % 2))).jseq
      let s := { s with flm := { s.flm.putArea (s.ckptImage n seq) with ckptRun := true, ckptAt := s.clk } }
      (s.journal (.ckptBegin n (n % 2))).journal (.ckptEnd n seq))

/-! ### Erasing (10 R361, R363, R378) -/

/-- No read of the superblock is in flight: a read stays where it started (10 R361, R390). -/
def State.sbUnread (s : State) (n : Nat) : Bool :=
  !s.pfs.reads.any (fun r => r.started && r.locs.any (fun l => decide (l.sb = n)))

/-- One block of an erased superblock (10 R361, R378, R383): counted; it retires after a failure or at the endurance of its die's
profile. -/
def State.eraseBlock (s : State) (n pos block : Nat) (bad : Bool) : State :=
  let die := 32 * (n / 8192) + pos
  let s := s.blockErased n pos block
  let s := s.blockResult die block (!bad)
  let s := if bad then s.count (chPage (dieChannel (n / 8192) pos)) 0x1A0 4 else s
  let d := sget s.flm.die Die.absent die
  if bad || decide (d.endurance ≤ sget d.erases 0 block) || (s.flm.sbAt n).badPos.contains pos then s.retireBlock die block else s

/-- An erased superblock is formed again and joins its pool, or is dissolved with N_r one less and E computed again (10 R361, R363,
R378). -/
def State.reform (s : State) (n : Nat) : State :=
  let row := n / 8192
  let f := s.flm.form n
  if (f.sbAt n).st = .retired then
    let f := if s.flm.rowUsed row ∧ (f.formedIn row).length < f.rowCount row then
        { f with rowN := sset f.rowN 0 row (sget f.rowN 0 row - 1) } else f
    ((State.journalSb { s with flm := f } n .retired).newExport).spareCheck
  else (State.journalSb { s with flm := f.fillSlc row } n .free).spareCheck

/-- A die rebuild has ended: no superblock waits for relocation (10 R376), and the capacity falls (01 R40). -/
def State.rebuildCheck (s : State) : State :=
  if s.flm.rebuild && !s.flm.sb.any (fun e => e.2.rebuild) then
    let ks := (s.flm.die.filter (fun e => decide (e.2.st = .failed))).map (·.1)
    let s := ks.foldl (fun s k => s.journal (.dieState k .rebuilt)) s
    (({ s with flm := { ks.foldl (fun (f : Flm) k => f.updDie k (fun d => { d with st := .rebuilt })) s.flm with
                          rebuild := false } }).raise flmPage 13).newExport
  else s

/-- A superblock that a SECURE DISCARD waits for has been erased (10 R381, R383). -/
def State.discardErased (s : State) (n : Nat) (zeroBad : List Nat) : State :=
  let hit := s.flm.discards.any (fun d => d.secure && d.sbs.contains n)
  let s := if hit then
      zeroBad.foldl (fun s p => (s.dieFails (32 * (n / 8192) + p)).count flmPage 0x2E8 12) s
    else s
  { s with flm := { s.flm with
      discards := s.flm.discards.map (fun d =>
        if d.sbs.contains n then
          { d with sbs := d.sbs.filter (fun x => decide (x ≠ n)),
                   residue := d.residue || (d.secure && decide (zeroBad ≠ [])) }
        else d),
      foot := s.flm.foot.map (fun e => (e.1, e.2.map (fun f => { f with sbs := f.sbs.filter (fun x => decide (x ≠ n)) }))) } }

/-- The counter of 10 R391 that an erased superblock counts in: victims of garbage collection, SLC superblocks folded. -/
def State.countErased (s : State) (b : Sb) : State :=
  match b.cause with
  | .collect => s.bump (pg flmPage + 0x2C0)
  | .fold => s.bump (pg flmPage + 0x2C4)
  | _ => s

/-- A superblock is erased: `bad` are the positions whose block fails, `zeroBad` those that also fail the zero program of
10 R383. One that was emptied with no valid slot gives its slots as credit (10 R372). -/
def State.eraseSb (s : State) (sb : Nat) (bad zeroBad : List Nat) : State :=
  let b := s.flm.sbAt sb
  let live := b.blocks.filter (fun x => decide ((sget s.flm.die Die.absent (32 * (sb / 8192) + x.1)).st = .live))
  let s := live.foldl (fun s x => s.eraseBlock sb x.1 x.2 (bad.contains x.1)) s
  let s := if b.was = 0 then s.addCredit (256 * s.flm.slotsOf b) else s
  let s := s.discardErased sb (zeroBad.filter (fun p => bad.contains p))
  let s := { s with flm := s.flm.wipe sb }
  ((s.countErased b).reform sb).rebuildCheck

/-- ERASE_BEGIN is durable, nothing valid is in the superblock, and no read of it is in flight (10 R361); step 5 waits while the journal is
full (10 R367). -/
def State.mayErase (s : State) (n : Nat) : Bool :=
  let b := s.flm.sbAt n
  decide (b.st = .eraseBegin) && b.eraseOk && decide (s.flm.validSlots n = 0) && s.sbUnread n && !s.flm.jfull

/-- Every block of the superblock is being erased on its die. -/
def State.eraseStarted (s : State) (n : Nat) : Bool :=
  (s.flm.sbAt n).blocks.all (fun b =>
    decide ((sget s.flm.die Die.absent (32 * (n / 8192) + b.1)).st ≠ .live)
      || (sget s.flm.busy none (32 * (n / 8192) + b.1)).any (fun x => decide (x.op = .erase n)))

/-- The dies that erase a superblock are free again. -/
def State.eraseEnd (s : State) (n : Nat) : State :=
  let f := (s.flm.sbAt n).blocks.foldl (fun f b => f.fgEnd s.clk (dieChannel (n / 8192) b.1)) s.flm
  { s with flm := { f with busy := f.busy.filter (fun e => !(e.2.any (fun x => decide (x.op = .erase n)))) } }

/-- ERASE (10 R361): positions whose block fails its erase, and those that also fail the zero program of
R383. FLASH_OP_START has started it on its dies (10 R368). -/
def execErase (sb : Nat) (bad zeroBad : List Nat) (s : State) : Res :=
  .next (if !s.mayErase sb ∨ !s.eraseStarted sb then s else ((s.eraseEnd sb).eraseSb sb bad zeroBad).flashSettle s)

/-! ### Relocation (10 R362, R371, R374, R376, R379) -/

/-- A victim of a half and kind is being vacated. -/
def State.vacating (s : State) (half : Nat) (native : Bool) : Bool :=
  s.flm.sb.any (fun e => decide (e.1 / 8192 / 32 = half ∧ e.2.st = .victim) && decide (e.2.nativeMode = native))

/-- The best of the closed superblocks of a half under an order. -/
def State.pickSb (s : State) (p : Nat × Sb → Bool) (le : Nat × Sb → Nat × Sb → Bool) : Option (Nat × Sb) :=
  (s.flm.sb.filter (fun e => decide (e.2.st = .closed) && p e)).foldl (fun best e =>
    match best with
    | none => some e
    | some b => if le b e then best else some e) none

/-- FOLDING (10 R362): the oldest closed SLC superblock of the half. -/
def execFolding (half : Nat) (s : State) : Res :=
  .next (
    let fg := s.slcBelow 16
    if s.flm.readOnly ∨ s.vacating half false ∨ !(fg || (s.flmCtrl 1 && s.slack .flash && s.slcBelow 8)) then s
    else match s.pickSb (fun e => decide (e.1 / 8192 / 32 = half) && !e.2.nativeMode)
        (fun a b => decide (a.2.closedAt ≤ b.2.closedAt)) with
      | none => s
      | some e => s.vacate e.1 .fold)

/-- GARBAGE_COLLECTION (10 R370, R371): the closed native superblock with the fewest valid slots. -/
def execGarbageCollection (half : Nat) (s : State) : Res :=
  .next (
    let fg := decide (2 ≤ s.flm.mode) || s.slcBelow 16
    if s.flm.readOnly ∨ s.vacating half true ∨ !(fg || (s.flmCtrl 0 && s.slack .flash)) then s
    else match s.pickSb (fun e => decide (e.1 / 8192 / 32 = half) && e.2.nativeMode)
        (fun a b =>
          let (x, y) := (s.flm.validSlots a.1, s.flm.validSlots b.1)
          decide (x < y) || (decide (x = y) && decide (a.2.closedAt ≤ b.2.closedAt))) with
      | none => s
      | some e => s.vacate e.1 .collect)

/-- REWRITE (10 R374): every valid slot of a scheduled superblock is relocated, in slack (02 R77). -/
def execRewrite (sb : Nat) (s : State) : Res :=
  .next (let b := s.flm.sbAt sb
    if s.flm.readOnly ∨ b.st ≠ .closed ∨ b.rewrite = false ∨ !(s.slack .flash) then s
    else (s.vacate sb .rewrite).bump (pg flmPage + 0x2CC))

/-- A superblock of the journal ring or of a checkpoint area moves whole to a FREE superblock of a row with 32 live dies (10 R348, R376;
DEDUCED, log 190); none where there is no such superblock. -/
def State.moveMeta (s : State) (n : Nat) : Option State :=
  let ok := fun (e : Nat × Sb) => decide ((s.flm.livePos (e.1 / 8192)).length = 32)
  match ((s.flm.freeSbs true).find? ok).map (·.1) with
  | none => none
  | some m =>
    let repl := fun (x : Nat) => if x = n then m else x
    let moved := (s.flm.media.filter (fun e => decide (e.1 / 2 ^ 20 = n))).foldl
      (fun (md : Sparse (List Byte)) e => sset md [] (2 ^ 20 * m + e.1 % 2 ^ 20) e.2) s.flm.media
    let f := (s.flm.updSb m (fun b => { b with st := .meta_, nativeMode := false })).updSb n (fun b => { b with st := .victim, cause := .rebuild })
    let s := { s with flm := { f with jring := f.jring.map repl, areas := f.areas.map (fun (l : List Nat) => l.map repl), media := moved } }
    some (((s.journalSb m .meta_).journalSb n .victim).eraseReady)

/-- DIE_REBUILD (10 R376): one superblock with a block on a failed die is relocated, in slack (02 R77). -/
def execDieRebuild (sb : Nat) (s : State) : Res :=
  .next (let b := s.flm.sbAt sb
    if s.flm.readOnly ∨ b.rebuild = false ∨ !(s.slack .flash) then s
    else if b.st = .meta_ then (s.moveMeta sb).getD s
    else if b.st ≠ .closed then s else s.vacate sb .rebuild)

/-- Lowest and highest erase count of a good block (10 R379, R391). -/
def Flm.eraseSpread (f : Flm) : Nat × Nat :=
  let dies := f.rows.flatMap (fun r => (f.livePos r).map (fun p => f.dieAt r p))
  let goodCounts := fun (d : Die) => (d.erases.filter (fun e => !d.bad.contains e.1)).map (·.2)
  let lo := dies.foldl (fun m d =>
    let cs := goodCounts d
    let x := if cs.length < f.good d then 0 else cs.foldl min (cs.headD 0)
    match m with
    | none => some x
    | some y => some (min x y)) (none : Option Nat)
  (lo.getD 0, dies.foldl (fun m d => (goodCounts d).foldl max m) 0)

/-- WEAR_LEVELLING (10 R379): the closed native superblock with the lowest mean erase count. -/
def execWearLevelling (s : State) : Res :=
  .next (
    let (lo, hi) := s.flm.eraseSpread
    let spread := s.cfgFld (pg flmPage + 0x210) 0 16
    let on := decide (spread < hi - lo) || (s.flm.wear && decide (spread * 90 < (hi - lo) * 100))
    let s := { s with flm := { s.flm with wear := on } }
    if !on ∨ !s.flmCtrl 2 ∨ !(s.slack .flash) ∨ s.flm.readOnly then s
    else match s.pickSb (fun e => e.2.nativeMode)
        (fun a b =>
          let x := s.flm.sbErases a.1 a.2 * b.2.blocks.length
          let y := s.flm.sbErases b.1 b.2 * a.2.blocks.length
          decide (x < y) || (decide (x = y) && decide (a.2.closedAt ≤ b.2.closedAt))) with
      | none => s
      | some e => (s.vacate e.1 .wear).bump (pg flmPage + 0x2C8))

/-! ### Media reads (10 R373, R374) -/

/-- INFO of a flash record: superblock and slot (16 R573), as a location (10 R365). -/
def locInfo (l : Loc) : Nat := l.sb * 2 ^ 19 + l.slot

/-- Position of the die that holds a raw page: a data slot's, or the parity die's for a number from 2^19 on (10 R344, R345). -/
def Flm.rawPos (f : Flm) (l : Loc) : Nat :=
  let b := f.sbAt l.sb
  if l.slot < 2 ^ 19 then f.slotPos l else (b.blocks.map (·.1)).getD (l.sb % b.blocks.length) 0

/-- The pages of a failed die are served by the stripe (10 R376); a stripe that has lost two pages cannot be rebuilt (10 R377). A hard
decode beyond FLM_READ.RETRIES is not tried: a soft decode follows (10 R373). -/
def State.slotOutcome (s : State) (l : Loc) (o : ReadOutcome) : ReadOutcome :=
  let dead := fun (pos : Nat) => decide ((s.flm.dieAt (l.sb / 8192) pos).st ≠ .live)
  let others := ((s.flm.sbAt l.sb).blocks.map (·.1)).filter (fun p => decide (p ≠ s.flm.rawPos l))
  let whole := !others.any dead
  if dead (s.flm.rawPos l) then .fail (whole && (match o with
    | .fail x => x
    | _ => true))
  else match o with
    | .hard lvl bits => if lvl ≤ s.cfgFld (pg flmPage + 0x214) 8 8 then .hard lvl bits else .soft bits
    | .soft bits => .soft bits
    | .fail x => .fail (x && whole)

/-- The other pages of a stripe are read for a rebuild (10 R373 step 4). -/
def State.stripeReads (s : State) (l : Loc) : State :=
  ((s.flm.sbAt l.sb).blocks.filter (fun b => decide (b.1 ≠ s.flm.rawPos l)
    && decide ((s.flm.dieAt (l.sb / 8192) b.1).st = .live))).foldl (fun s b => s.noteRead l.sb b.1 1) s

/-- One raw page read and decoded (10 R373, R374): counters, the RAS log, rewrites. True when the page is declared
unrecoverable. -/
def State.slotRead (s : State) (l : Loc) (o : ReadOutcome) : State × Bool :=
  let pos := s.flm.rawPos l
  let dead := decide ((s.flm.dieAt (l.sb / 8192) pos).st ≠ .live)
  let page := chPage (dieChannel (l.sb / 8192) pos)
  let unit := dieUnit (32 * (l.sb / 8192) + pos)
  let o' := s.slotOutcome l o
  let s := if dead then s.bump64 (pg page + 0x180) 1 else s.noteRead l.sb pos 1
  match o' with
  | .hard lvl bits =>
    if lvl = 0 then (if s.rewriteLimit < bits then s.scheduleRewrite l.sb else s, false)
    else (((s.bump (pg page + 0x190)).rasRecord page 0x07 0 unit (locInfo l)).scheduleRewrite l.sb, false)
  | .soft _ => (((s.bump (pg page + 0x190)).rasRecord page 0x07 0 unit (locInfo l)).scheduleRewrite l.sb, false)
  | .fail stripe =>
    let s := if dead then s else s.bump (pg page + 0x190)
    let s := ((s.stripeReads l).bump (pg page + 0x194)).scheduleRewrite l.sb
    if stripe then (s.rasRecord page 0x07 0 unit (locInfo l), false)
    else ((s.count page 0x198 2).rasRecord page 0x08 1 unit (locInfo l), true)

/-- The bytes that a stripe rebuild gives for a data page (10 R345, R373 step 4): the XOR of its stripe's other data pages and of the
parity page. -/
def Flm.rebuiltBytes (f : Flm) (l : Loc) : List Byte :=
  let d := (f.sbAt l.sb).blocks.length - 1
  let t := l.slot / d
  let others := (List.range d).filter (fun k => decide (t * d + k ≠ l.slot))
  (others.map (fun k => sget f.media [] (2 ^ 20 * l.sb + t * d + k))).foldl xorBytes (sget f.media [] (2 ^ 20 * l.sb + 2 ^ 19 + t))

/-- The page of a page set that a location holds. -/
def State.ownerOf (s : State) (l : Loc) : Option (Nat × Nat) :=
  let page := fun (h a : Nat) =>
    let i := psIx h
    (i, (a - (sget s.flm.first 0 h - 1)) / (s.psetAt i).slotsPerPage)
  match s.flm.stip.find? (fun e => decide (e.2.loc = l)) with
  | some e => some (page e.2.pset e.1)
  | none => (s.flm.broad.find? (fun e => decide (e.2.loc.sb = l.sb ∧ e.2.loc.slot ≤ l.slot ∧ l.slot < e.2.loc.slot + 16))).map
      (fun e => page e.2.pset (16 * e.1 + (l.slot - e.2.loc.slot)))

/-- A page is declared unrecoverable: its resident entry takes POISON (05 R182; 07 R259, R260). -/
def State.lostPage (s : State) (i page : Nat) : State :=
  match s.slotOfPset i with
  | none => s
  | some j => s.poisonPage j page

/-- A scrub read counts in the error trend of its die (16 R561). -/
def State.trendAdd (s : State) (l : Loc) (o : ReadOutcome) : State :=
  let add := fun (bits : Nat) =>
    let d := s.flm.slotDie l
    let x := sget s.hlt.trend Trend.none d
    { s with hlt := { s.hlt with trend := sset s.hlt.trend Trend.none d { x with bits := x.bits + bits, words := x.words + 1 } } }
  if !bit (s.cfgReg (pg 0x78 + 0x100)) 0 then s
  else match o with
    | .hard _ b => add b
    | .soft b => add b
    | .fail _ => s

/-! ### Channel time (10 R368, R369) -/

/-- A read starts where its page lies (10 R390). -/
def State.startRead (s : State) (rid : Nat) : State :=
  { s with pfs := { s.pfs with
      reads := updIf s.pfs.reads (fun r => decide (r.rid = rid)) (fun r =>
        { r with started := true, locs := s.pageLocs r.pset r.page }) } }

/-- A move does not go on: its record is suspended (02 R67), or it moves data in slack only and there is none (02 R77; 06 R210, R222). -/
def State.flashShut (s : State) (m : Move) : Bool :=
  s.moveShut m || (match m.cause with
    | .set id => !((s.live id).any Live.isRecord) && !s.slack .flash
    | .pressure => !s.slack .flash
    | _ => false)

/-- An AHEAD read waits for the window of the record that it is for (02 R67), or for slack. -/
def State.readShut (s : State) (r : T2Read) : Bool :=
  !r.urgent && (s.tier.moves.any (fun m => decide (m.pset = r.pset ∧ m.gone = false) && s.flashShut m)
    || (r.pfs && s.pfs.steps.any (fun x => s.shut x.id && (s.plan x.plan).layers.any (fun y =>
      decide (x.first ≤ y.1 ∧ y.1 < x.first + x.count) && (s.currentSlots y.2).any (fun k => decide ((s.slot k).ps = r.pset))))))

/-- The next segment of a stream holds slots of a move that does not go on: it waits as a whole (DESIGN CHOICE, log 191). -/
def State.dataShut (s : State) (k : Nat) : Bool :=
  let v := s.stream k
  let now := v.queue.take ((v.sb.map (fun n => segData (s.flm.sbAt n))).getD v.queue.length)
  s.tier.moves.any (fun m => decide (m.target = 2 ∧ m.releasing = false ∧ m.gone = false) && s.flashShut m
    && now.any (fun w => w.of (s.handleOf m.pset)))

/-- A read of a channel starts, where its die is idle, or where an URGENT read suspends what the die is doing (10 R369). -/
def State.readOn (s : State) (r : T2Read) : Option State :=
  let die := ((s.pageLocs r.pset r.page).head?.map s.flm.slotDie).getD 0
  match sget s.flm.busy none die with
  | none => some (s.startRead r.rid)
  | some b =>
    if r.urgent && s.flmCtrl 4 && (sget s.flm.die Die.absent die).suspend
        && decide (b.susp < s.cfgFld (pg flmPage + 0x228) 0 4) then
      some ((State.startRead { s with flm := { s.flm with busy := sset s.flm.busy none die (some { b with susp := b.susp + 1 }) } } r.rid).bump
        (pg (chPage (dieChannel (die / 32) (die % 32))) + 0x1A4))
    else none

/-- The oldest read of a channel that has the urgency and can start. -/
def State.readStart (s : State) (ch : Nat) (urgent : Bool) : Option State :=
  (s.pfs.reads.filter (fun r => !r.started && decide (r.urgent = urgent) && decide (s.t2Channel r.pset r.page = ch) && !s.readShut r)).findSome?
    s.readOn

/-- A die of a channel starts a program or an erase, where it works and is idle; `fg` counts it as foreground time. -/
def State.opOn (s : State) (ch die : Nat) (op : FlashOp) (fg : Bool) : Option State :=
  if (sget s.flm.die Die.absent die).st ≠ .live ∨ (sget s.flm.busy none die).isSome then none
  else some { s with flm := { s.flm with
    busy := sset s.flm.busy none die (some { op := op, susp := 0 }),
    fgAt := if fg ∧ sget s.flm.fgAt 0 ch = 0 then sset s.flm.fgAt 0 ch (s.clk + 1) else s.flm.fgAt } }

/-- The oldest journal page with a copy to be programmed on the channel (10 R364; row 1). -/
def State.ringStart (s : State) (ch : Nat) : Option State :=
  (s.flm.jpages.flatMap (fun p => [(p.n, 0, p.ok0), (p.n, 1, p.ok1)])).findSome? (fun x =>
    match s.flm.ringDie x.1 x.2.1 with
    | some d => if !x.2.2 ∧ dieChannel (d / 32) (d % 32) = ch then s.opOn ch d (.page x.1) false else none
    | none => none)

/-- A stream has a whole segment to program. -/
def State.streamReady (s : State) (k : Nat) : Bool :=
  match (s.stream k).sb with
  | some n => decide (0 < segData (s.flm.sbAt n)) && decide (segData (s.flm.sbAt n) ≤ (s.stream k).queue.length)
  | none => false

/-- A channel starts its part of the segment of a stream: the one under way in its half, or a new one. -/
def State.progOn (s : State) (ch k : Nat) (fg : Bool) : Option State :=
  let p := sget s.flm.prog 0 (ch / 32)
  if s.flm.readOnly ∨ (s.stream k).queue = [] ∨ (p ≠ 0 ∧ p ≠ k + 1) then none
  else
    let s := s.ensureSb k
    match (s.stream k).sb with
    | none => none
    | some n =>
      if s.streamReady k && (s.flm.sbAt n).blocks.any (fun b => decide (b.1 = ch % 32)) then
        (s.opOn ch (32 * (n / 8192) + ch % 32) (.prog k) fg).map (fun s =>
          { s with flm := { s.flm with prog := sset s.flm.prog 0 (ch / 32) (k + 1) } })
      else none

/-- Writes of the tier manager on a channel (row 5): they wait for credit, which counts once for a segment (10 R370, R372), and what a
suspended record writes waits for its window (02 R67). -/
def State.progData (s : State) (ch : Nat) : Option State :=
  let k := 3 * (ch / 32)
  if sget s.flm.prog 0 (ch / 32) = 0 ∧ s.dataShut k then none
  else match s.progOn ch k false with
  | none => none
  | some s' =>
    if sget s.flm.prog 0 (ch / 32) = 0 ∧ s.creditShort k then
      if (s'.stream k).short then none
      else some ((s.setStream k { s.stream k with short := true }).bump (pg flmPage + 0x2DC))
    else some s'

/-- Row of the work that a superblock's relocation and erase are (10 R368): row 3 for collection and folding in the foreground, row 6 for
rewrites, rebuild and secure discard, row 7 else. -/
def State.causeRow (s : State) (c : Vacate) : Nat :=
  match c with
  | .rewrite | .rebuild | .discard => 6
  | .fold | .collect => if 2 ≤ s.flm.mode ∨ s.slcBelow 16 then 3 else 7
  | .wear | .none => 7

/-- Row of a relocation stream's next segment: that of its oldest slot that is relocated. -/
def State.streamRow (s : State) (k : Nat) : Nat :=
  s.causeRow (((s.stream k).queue.findSome? (fun w => w.src)).elim Vacate.none (fun n => (s.flm.sbAt n).cause))

/-- A relocation of a row starts on a channel: a segment, or the erase of a superblock that it has emptied. -/
def State.relocStart (s : State) (ch row : Nat) : Option State :=
  let ks := isort (fun a b => decide ((((s.stream a).since).getD 0) ≤ (((s.stream b).since).getD 0)))
    ([3 * (ch / 32) + 1, 3 * (ch / 32) + 2].filter (fun k => decide (s.streamRow k = row)))
  match ks.findSome? (fun k => s.progOn ch k (decide (row = 3))) with
  | some s => some s
  | none =>
    if s.flm.readOnly then none
    else (s.flm.sb.filter (fun e => decide (e.1 / 8192 / 32 = ch / 32) && decide (s.causeRow e.2.cause = row)
      && e.2.blocks.any (fun b => decide (b.1 = ch % 32)) && s.mayErase e.1)).findSome?
      (fun e => s.opOn ch (32 * (e.1 / 8192) + ch % 32) (.erase e.1) (decide (row = 3)))

/-- Foreground work has used less than FLM_GC.FG_SHARE of the channel's time in the current 1 ms (10 R368). -/
def State.fgLeft (s : State) (ch : Nat) : Bool :=
  let x := sget s.flm.fg (0, 0) ch
  decide ((if x.1 = s.clk / 1000000 then x.2 else 0) < s.cfgFld (pg flmPage + 0x20C) 24 8 * 10000)

/-- What a channel can start of a row of 10 R368: none when nothing of that row waits that its dies can take. Rows 6 and 7 start in slack
(02 R77). -/
def State.rowStart (s : State) (ch row : Nat) : Option State :=
  match row with
  | 1 => s.ringStart ch
  | 2 => s.readStart ch true
  | 3 => s.relocStart ch 3
  | 4 => s.readStart ch false
  | 5 => s.progData ch
  | 6 => if s.slack .flash then s.relocStart ch 6 else none
  | 7 => if s.slack .flash then s.relocStart ch 7 else none
  | _ => none

/-- The rows of a channel from the highest on: row 3 goes ahead of row 2 within its share (10 R368). -/
def State.rowOrder (s : State) (ch : Nat) : List Nat := if s.fgLeft ch then [1, 3, 2, 4, 5, 6, 7] else [1, 2, 3, 4, 5, 6, 7]

/-- FLASH_OP_START (10 R368, R369; 07 R251; 02 R77): the channel starts the oldest work of the highest row that has work which its dies can
take. -/
def execFlashOpStart (ch : Nat) (s : State) : Res := .next (((s.rowOrder ch).findSome? (s.rowStart ch)).getD s)

/-- Data slots that a segment of a superblock protects, or its parity page: protected pages (10 R345, R357). -/
def Sb.guards (b : Sb) (slot : Nat) : Bool :=
  decide (if slot < 2 ^ 19 then slot < b.segs * segData b else slot - 2 ^ 19 < b.segs * 48)

/-- The page is due for its scrub: none in the last PERIOD_H hours (10 R375). -/
def State.scrubDue (s : State) (b : Sb) (slot : Nat) : Bool :=
  match sget b.scrubbed 0 slot with
  | 0 => true
  | t + 1 => decide (t + s.cfgFld (pg flmPage + 0x218) 0 16 * 3600000000000 ≤ s.clk)

/-- FLASH_SCRUB (10 R375; 16 R561): one protected page of a closed superblock, a data slot by its number or the parity page of stripe `t` by
`2^19 + t`, once in a period, in slack, when its channel has no work of a higher row and its die is idle. -/
def execFlashScrub (sb slot t : Nat) (outcome : ReadOutcome) (s : State) : Res :=
  let s := s.at_ t
  .next (
    let b := s.flm.sbAt sb
    let l : Loc := { sb := sb, slot := slot }
    let pos := s.flm.rawPos l
    let ch := dieChannel (sb / 8192) pos
    if !s.flmCtrl 3 ∨ !(s.slack .flash) ∨ b.st ≠ .closed ∨ !b.guards slot ∨ !s.scrubDue b slot
        ∨ [1, 2, 3, 4, 5, 6].any (fun r => (s.rowStart ch r).isSome) ∨ (sget s.flm.busy none (32 * (sb / 8192) + pos)).isSome then s
    else
      let s := { s with flm := s.flm.updSb sb (fun b => { b with scrubbed := sset b.scrubbed 0 slot (s.clk + 1) }) }
      match (s.trendAdd l outcome).slotRead l outcome with
      | (s, false) => s
      | (s, true) =>
        match if slot < 2 ^ 19 then s.ownerOf l else none with
        | none => s
        | some (i, p) => s.lostPage i p)

/-! ### Failures and rebuilds (10 R355, R376) -/

/-- DIE_FAIL (10 R376): die key `32 row + position`. -/
def execDieFail (die : Nat) (s : State) : Res := .next ((s.dieFails die).flashSettle s)

/-! ### Map lines (10 R353 to R355) -/

/-- Entry of a broad unit (10 R353). -/
def Flm.broadEntry (f : Flm) (u : Nat) : Nat :=
  match f.broad.find? (fun e => decide (e.1 = u)) with
  | some e => packFields [(16, 0), (19, e.2.loc.slot), (19, e.2.loc.sb), (2, 1)]
  | none => packFields [(54, 0), (2, if f.stip.any (fun e => decide (e.1 / 16 = u)) then 2 else 0)]

/-- A broad-map line: nine entries and CHK (10 R353). -/
def Flm.broadLine (f : Flm) (k : Nat) : Nat :=
  let body := packFields ((List.range 9).map (fun j => (56, f.broadEntry (9 * k + j))))
  body + 2 ^ 504 * crc8 (leBytes 63 body)

/-- CHK of a broad-map line holds. -/
def broadLineOk (w : Nat) : Bool := decide (w / 2 ^ 504 = crc8 (leBytes 63 (w % 2 ^ 504)))

/-- A stipple entry (10 R354): its 96 bits above ECHK, then ECHK over them; bytes in address order (DESIGN CHOICE, log 189). -/
def stipImage (a : Nat) (e : SEnt) : Nat :=
  let w := packFields [(22, 0), (19, e.loc.slot), (19, e.loc.sb), (2, 1), (34, a)]
  crc32c (leBytes 12 w) + 2 ^ 32 * w

/-- A stipple bucket's line: four entries, those of free places zero but for ECHK (10 R354). -/
def Flm.stipLine (f : Flm) (b : Nat) : Nat :=
  let es := ((f.stip.filter (fun e => decide (e.2.bucket = b))).map (fun e => stipImage e.1 e.2))
  packFields ((List.range 4).map (fun j => (128, es.getD j (crc32c (leBytes 12 0)))))

/-- ECHK of every entry of a bucket holds. -/
def stipLineOk (w : Nat) : Bool :=
  (List.range 4).all (fun j =>
    let e := w / 2 ^ (128 * j) % 2 ^ 128
    decide (e % 2 ^ 32 = crc32c (leBytes 12 (e / 2 ^ 32))))

/-- Location of an address after a record that names it (10 R355, R365). -/
def JBody.relocate (b : JBody) (a : Nat) (cur : Option Loc) : Option Loc :=
  match b with
  | .mapStip x _ new old => if x = a ∧ (old = none ∨ old = cur) then some new else cur
  | .mapBroad u _ new old =>
    let at_ := fun (l : Loc) => ({ sb := l.sb, slot := l.slot + a % 16 } : Loc)
    if u = a / 16 ∧ (old = none ∨ old.map at_ = cur) then some (at_ new) else cur
  | .unmap _ first count _ => if first ≤ a ∧ a < first + count then none else cur
  | _ => cur

/-- Location of an address as the latest complete checkpoint and the journal records that name it give it (10 R355). -/
def Flm.replayLoc (f : Flm) (a : Nat) : Option Loc :=
  let start : Option Loc := f.lastCkpt.bind (fun c =>
    ((c.stip.find? (fun e => decide (e.1 = a))).map (·.2.loc)).or
      ((c.broad.find? (fun e => decide (e.1 = a / 16))).map (fun e => { sb := e.2.loc.sb, slot := e.2.loc.slot + a % 16 })))
  f.jlog.foldl (fun cur r => r.body.relocate a cur) start

/-- The entries of a line are rebuilt (10 R355). -/
def Flm.rebuildLine (f : Flm) (stip : Bool) (line : Nat) : Flm :=
  if stip then { f with stip := f.stip.map (fun (e : Nat × SEnt) =>
    if e.2.bucket = line then (e.1, { e.2 with loc := (f.replayLoc e.1).getD e.2.loc }) else e) }
  else { f with broad := f.broad.map (fun (e : Nat × BEnt) =>
    if e.1 / 9 = line then (e.1, { e.2 with loc := (f.replayLoc (16 * e.1)).getD e.2.loc }) else e) }

/-- MAP_REBUILD (10 R355): a line of the broad map, or a bucket of the stipple map, was read. A check that fails makes the
KX7 rebuild it, which is logged with the line's index. -/
def execMapRebuild (e : LineRead) (s : State) : Res :=
  .next (if if e.stip then stipLineOk e.seen else broadLineOk e.seen then s
    else State.rasRecord { s with flm := s.flm.rebuildLine e.stip e.line } flmPage 0x06 0 0 e.line)

/-! ### Recovery (10 R341, R342, R388, R389; 05 R194, R198) -/

/-- Geometry of a found LUN, as a tuple to compare (10 R341). -/
def foundShape (d : FoundDie) : List Nat := [d.dataBytes, d.spareBytes, d.planes, d.blocks, d.bits, d.wordlines]

/-- The LUN lies where a channel has one (10 R340): of 64 channels, eight targets and four LUNs. -/
def foundAt (d : FoundDie) : Bool := decide (d.ch < 64 ∧ d.vol < 8 ∧ d.lun < 4)

/-- The die meets the table of 10 R341 and has a profile. -/
def foundOk (d : FoundDie) : Bool :=
  foundAt d && d.profile && decide (d.dataBytes = 16384 ∧ 2048 ≤ d.spareBytes ∧ (d.planes = 2 ∨ d.planes = 4)
    ∧ 512 ≤ d.blocks ∧ d.blocks ≤ 8192 ∧ (d.bits = 3 ∨ d.bits = 4)
    ∧ 144 ≤ d.wordlines ∧ d.wordlines ≤ 1056 ∧ d.wordlines % 24 = 0)

/-- The channel answers and is enabled (10 R342). -/
def State.chOn (s : State) (f : FlashFound) (ch : Nat) : Bool :=
  decide (0 < f.rates.getD ch 0) && bit (s.cfgReg (pg (chPage ch) + 0x100)) (ch % 8)

/-- The geometry that the most LUNs share (10 R341), the first found on a tie (not stated). -/
def majority (ds : List FoundDie) : Option FoundDie :=
  ds.foldl (fun best d =>
    let n := fun (x : FoundDie) => (ds.filter (fun y => decide (foundShape y = foundShape x))).length
    match best with
    | none => some d
    | some b => if n b < n d then some d else best) none

/-- Key of a found die: row index 32 h + 4 v + l, position channel − 32 h (10 R343). -/
def foundKey (d : FoundDie) : Nat := 32 * (32 * (d.ch / 32) + 4 * d.vol + d.lun) + d.ch % 32

/-- The dies of the board as discovery leaves them: standing and erase counts that the journal holds are
kept. -/
def Flm.discover (f : Flm) (ds : List FoundDie) : Flm :=
  ds.foldl (fun f d =>
    f.updDie (foundKey d) (fun o =>
      { o with st := if o.st = .failed ∨ o.st = .rebuilt then o.st else .live,
               bad := (o.bad ++ d.bad).dedup, streak := [], endurance := d.endurance, suspend := d.suspend }))
    { f with die := f.die.map (fun e => (e.1, { e.2 with st := if e.2.st = .live then .absent else e.2.st })) }

/-- Channel training and discovery (10 R340 to R343): a LUN becomes a die when it has a profile, fits the table, and has the geometry that
the most discovered LUNs share; the rest is excluded and counted. A disabled channel is logged (16 R573). -/
def State.flashDiscover (s : State) (f : FlashFound) : State :=
  let found := f.dies.filter foundAt
  let best := majority found
  let take := found.filter (fun d => s.chOn f d.ch && foundOk d && best.any (fun m => decide (foundShape d = foundShape m)))
  let flm := s.flm.discover take
  let used := take.filter (fun d => flm.rowUsed (foundKey d / 32))
  let rates := (List.range 64).map (fun c => if s.chOn f c then min (f.rates.getD c 0) 4 else 0)
  let flm : Flm := { s.flm.discover used with
    geom := match used with
      | [] => { planes := 0, blocks := 0, bits := 0, wordlines := 0, ldpc := 0 }
      | m :: _ => { planes := m.planes, blocks := m.blocks, bits := m.bits, wordlines := m.wordlines, ldpc := m.ldpc },
    rates := rates, targets := (List.range 64).map (fun c => min (f.targets.getD c 0) 8),
    excluded := (List.range 64).map (fun c =>
      (found.filter (fun d => decide (d.ch = c) && !used.contains d)).length) }
  let s := (List.range 64).foldl (fun (s : State) (c : Nat) => if rates.getD c 0 = 0 then s.rasRecord (chPage c) 0x0B 2 (32 * c) 0 else s) { s with flm := flm }
  (List.range 8).foldl (fun (s : State) (g : Nat) =>
    if (List.range 8).any (fun (i : Nat) => decide (rates.getD (8 * g + i) 0 < 4)) then s.raise (0x38 + g) 0 else s) s

/-- Rows of the device with 32 live dies: those that hold metadata superblocks (10 R348). -/
def Flm.fullRows (f : Flm) : List Nat := f.rows.filter (fun r => decide ((f.livePos r).length = 32))

/-- FREE superblocks are formed up to N_r of a row, the lowest numbers that are not in use first, and FREE ones beyond N_r are dissolved
(10 R344, R347). -/
def Flm.formRow (f : Flm) (row : Nat) : Flm :=
  let have_ := f.formedIn row
  let extra := (have_.filter (fun e => decide (e.2.st = .free))).reverse.take (have_.length - f.rowCount row)
  let f := extra.foldl (fun f e => f.updSb e.1 (fun _ => Sb.free)) f
  let todo := ((List.range (f.rowCount row)).filter (fun i =>
    let b := f.sbAt (8192 * row + i)
    decide (b.blocks = [] ∧ (b.st = .free ∨ b.st = .retired)))).map (fun i => 8192 * row + i)
  todo.foldl (fun f n => f.form n) f

/-- Superblocks of the SLC pool taken from the rows in turn, until there are L or no row has one (10 R348; which rows give them is the
model's choice, log 85); recursion on fuel. -/
def Flm.fillPool : Nat → List Nat → Flm → Flm
  | 0, _, f => f
  | _, [], f => f
  | n + 1, r :: rs, f =>
    if f.slc ≤ f.slcPool then f
    else if (f.youngFree r).isSome then Flm.fillPool n (rs ++ [r]) (f.fillSlc r) else Flm.fillPool n rs f

/-- Metadata superblocks (10 R348): the ring of J and two areas of K, those that are there already, then FREE ones of the rows with 32 live
dies, the lowest numbers first (DESIGN CHOICE, log 85). -/
def Flm.formMeta (f : Flm) (j k : Nat) : Flm :=
  if f.jring ≠ [] then f
  else
    let l := (((f.freeSbs true).filter (fun e => f.fullRows.contains (e.1 / 8192))).map (·.1)).take (j + 2 * k)
    let f := l.foldl (fun f n => f.updSb n (fun b => { b with st := .meta_, nativeMode := false })) f
    { f with jring := l.take j, areas := [(l.drop j).take k, (l.drop (j + k)).take k] }

/-- J and K (10 R348). -/
def Flm.ringCount (f : Flm) (maxGib : Nat) : Nat :=
  let cj := f.ringPages * 16384
  if cj = 0 then 0 else ceilDiv' (maxGib * 2 ^ 30) cj + 2
def Flm.areaCount (f : Flm) : Nat :=
  let cs := 31 * f.pagesOf false * f.geom.planes * 16384
  if cs = 0 then 0 else ceilDiv' 12368709120 cs

/-- Capacities fixed at start-up (10 R347 to R350), and the superblocks formed under them. -/
def State.flashCapacity (s : State) : State :=
  let reserve := s.cfgFld (pg flmPage + 0x21C) 0 8
  let gib := s.cfgFld (pg flmPage + 0x220) 0 16
  let f := s.flm
  let f := { f with rowN := (List.range 64).filterMap (fun r =>
      let n := if f.rowUsed r then f.rowCapacity reserve r else 0
      if n = 0 then none else some (r, n)),
                    pct := s.cfgFld (pg flmPage + 0x204) 0 8, opPct := s.cfgFld (pg flmPage + 0x208) 0 8, reserve := reserve,
                    jmax := gib * 2 ^ 30 }
  let t := f.sbTotal
  let f := { f with total := t, slc := f.slcCount t, meta_ := f.metaCount gib }
  let f := f.rows.foldl (fun f r => f.formRow r) f
  let f := f.formMeta (f.ringCount gib) f.areaCount
  let f := Flm.fillPool (f.slc + 64) f.rows f
  let e := f.exported
  { s with flm := { f with units := e, cap := e * 262144, mapBytes := mapReserve e } }

/-- An open superblock is closed at its last protected segment (10 R388), the next in closing order. -/
def Flm.closeOpen (f : Flm) (e : Nat × Sb) : Flm :=
  match e.2.st with
  | .openSlc | .openNative =>
    { f.updSb e.1 (fun b => { b with st := .closed, closedAt := f.closes }) with closes := f.closes + 1 }
  | .eraseBegin => if e.2.eraseOk then f else f.updSb e.1 (fun b => { b with st := .victim })
  | _ => f

/-- A copy whose UNMAP record was lost is still there (10 R388). -/
def State.restoreCopy (s : State) (x : Nat × Nat × Nat) : State :=
  if (s.copyOf x.1).any (fun c => decide (c.first = x.2.1)) then
    { s with flm := { s.flm with first := sset s.flm.first 0 x.1 (x.2.1 + 1), span := sset s.flm.span 0 x.1 x.2.2 } }
  else s

/-- What the journal's replay leaves of the flash manager (10 R388): the records of journal pages of which a copy was programmed take effect,
open superblocks are closed at their last protected segment, records that are not durable are lost, copies of which a unit has no record are
dropped, and relocation of the victims resumes. -/
def State.flashReplay (s : State) : State :=
  let pages := s.flm.jpages
  let s := State.jrelease { s with flm := { s.flm with jwait := [] } }
  let s := pages.foldl (fun s p => p.recs.foldl (fun s x => s.applyRec x) s) { s with flm := { s.flm with jpages := [] } }
  let s := s.flm.dying.foldl (fun s x => s.restoreCopy x) s
  let f := s.flm.sb.foldl (fun f e => f.closeOpen e) s.flm
  let keep := fun (h : Nat) => (sget f.copy none h).isSome && s.t2Whole h
  let f := { f with
    discards := f.discards.filter (fun d => d.begun && !d.finished),
    broad := f.broad.filter (fun e => keep e.2.pset), stip := f.stip.filter (fun e => keep e.2.pset),
    copy := f.copy.filter (fun e => keep e.1),
    first := f.first.filter (fun e => keep e.1), span := f.span.filter (fun e => keep e.1), dying := [], stipRes := [],
    stream := [], busy := [], prog := [], fgAt := [], fg := [], landed := [], recorded := [],
    jseq := f.jdurable + 1, jopen := [], jopenAt := none, jwait := [], jheld := [], jfull := false,
    ckptRun := false, ckptAt := s.clk, credit := 0, readOnly := false }
  (s.flm.sb.filter (fun e => decide ((f.sbAt e.1).st = .victim))).foldl (fun s e => s.requeue e.1) { s with flm := f }

/-- The units of a superblock move to a new one of its half, whose number, free slots and map entries the recovery sets at
once (10 R360, R381, R388). False where no superblock is free. -/
def State.evacuate (s : State) (n : Nat) : State × Bool :=
  let ws := alignWide 0 (s.flm.validList n)
  if ws = [] then (s, true)
  else match s.openSb (n / 8192 / 32) (s.flm.sbAt n).nativeMode with
    | none => (s, false)
    | some (m, s) =>
      let seg := segData (s.flm.sbAt m)
      let f := s.flm.updSb m (fun b =>
        { b with st := .closed, closedAt := s.flm.closes, segs := ceilDiv' ws.length seg, lastSeq := s.flm.jseq })
      let s := { s with flm := { f with closes := s.flm.closes + 1 } }
      let s := s.journalSb m .closed
      let s := ws.zipIdx.foldl (fun s x => match x.1.what with
        | none => s
        | some (h, a) =>
          let old := (s.flm.locOf a).map (fun l => if x.1.wide then { l with slot := l.slot - a % 16 } else l)
          if x.1.wide then
            if a % 16 = 0 then
              (s.journal (.mapBroad (a / 16) h { sb := m, slot := x.2 } old)).mapCommit h a true { sb := m, slot := x.2 } none
            else s
          else (s.journal (.mapStip a h { sb := m, slot := x.2 } old)).mapCommit h a false { sb := m, slot := x.2 } none) s
      ((List.range (ceilDiv' ws.length seg)).foldl (fun s k => s.writeMedia m k ((ws.drop (k * seg)).take seg)) s, true)

/-- A SECURE DISCARD that was cut off after its DISCARD_BEGIN is finished at recovery (10 R388): what else lies in its
superblocks moves, and they are erased, with the failing blocks that recovery finds; without room to move to, they stay victims. -/
def State.finishDiscards (s : State) (bad : List (Nat × List Nat × List Nat)) : State :=
  let dead := ((s.flm.discards.flatMap (fun d => d.sbs)).eraseDups).filter (fun n => decide ((s.flm.sbAt n).st ≠ .free))
  let s := dead.foldl (fun s n =>
    let x := ((bad.find? (fun x => decide (x.1 = n))).map (·.2)).getD ([], [])
    match s.evacuate n with
    | (s, true) => s.eraseSb n x.1 x.2
    | (s, false) => s.vacate n .discard) s
  { s with flm := { s.flm with discards := [] } }

/-- Written generation to start-up generation (05 R194). -/
def mapGen (g : Nat) : Nat := (g + 2047) % 4095 + 1

/-- Children of a slot among the resident slots. -/
def childCount (l : List (Nat × Slot)) (i : Nat) : Nat :=
  (l.filter (fun e => decide (e.2.parent = some i))).length

/-- Entries kept (05 R198): those of which no ancestor has been lost; recursion on fuel. -/
def keepRooted : Nat → List (Nat × Slot) → List (Nat × Slot)
  | 0, l => l
  | n + 1, l =>
    let l' := l.filter (fun e => match e.2.parent with
      | none => true
      | some p => l.any (fun x => decide (x.1 = p)))
    if l'.length = l.length then l else keepRooted n l'

/-- The directory after recovery (05 R198): the entries with a T2 copy, as PSET_COMMIT and DIR_UPDATE records that are durable
hold them (10 R388), and the pinned ones without, which become POISON; of these the ones whose ancestors are kept. An entry
whose end had come before the fault does not come back, and PIN, HOT and SHARED are as the last SET that completed left them, whether or
not their records were durable (01 R35; log 135). -/
def State.recoveredSlots (s : State) : List (Nat × Slot) :=
  let has := fun (v : Slot) => (s.copyOf v.pset).isSome
  let l := (s.dir.slots.filter (fun e => e.2.resident)).filterMap (fun e =>
    match s.copyOf e.2.pset with
    | some c => if c.dir = e.1 ∧ c.image.resident then
        some (e.1, { c.image with pset := e.2.pset, pin := e.2.pin, hot := e.2.hot, shared := e.2.shared }) else none
    | none => if e.2.pin then some e else none)
  let l := keepRooted (l.length + 1) l
  l.map (fun e => (e.1, { e.2 with
    state := .current, held := false, children := childCount l e.1,
    poison := e.2.poison || !has e.2,
    badPages := if has e.2 then e.2.badPages else List.range (s.psetAt (psIx e.2.pset)).pages }))

/-- A page set after recovery: only its T2 copy is left, as its PSET_COMMIT record holds it, with the flags of the entry (01
R38; 05 R198; 06 R205). TIER_PREF and SPILL_OK, which that record does not hold, are those of the copy (DESIGN CHOICE, log 180). -/
def State.recoveredPset (s : State) (v : Slot) : PSet :=
  let p := match s.copyOf v.pset with
    | some c => c.v
    | none => s.psetAt v.ps
  { p with t0 := false, t1 := false, t2 := (s.copyOf v.pset).isSome, level := 2, rstate := .published, lapseAt := none,
           alloc := maskAlloc p.alloc (4 * b2n v.pin + 8 * b2n v.hot + 16 * b2n v.shared) 14 }

/-- What recovery keeps so that no edition and no proof generation is used again (01 R39; 05 R166, R194): DIR_SEQ resumes at the durable
mark, every generation at its start-up value, and a checkpoint that is complete before proofs can open records these as written. A device
without flash has neither mark nor checkpoint: there the sequence goes on, and the generations are mapped as they stand (DEDUCED, log
134). -/
def State.keepOn (s : State) : State :=
  if s.flm.units = 0 then
    { s with dir := { s.dir with genDef := mapGen s.dir.genDef, gens := s.dir.gens.map (fun (e : _ × _) => (e.1, mapGen e.2)) } }
  else
    let def_ := mapGen s.flm.savedDef
    let gens := s.flm.gensSaved.map (fun (e : _ × _) => (e.1, mapGen e.2))
    let n := s.flm.ckptN + 1
    let s := { s with dir := { s.dir with seqNext := s.flm.mark + 1, mark := s.flm.mark, genDef := def_, gens := gens } }
    State.bump { s with
      flm := { s.flm.putArea (s.ckptImage n s.flm.jseq) with
        ckptN := n, ckptAt := s.clk, gensSaved := gens, savedDef := def_, jused := 0, jrun := 0, jlog := [], jfull := false,
        saved := some (s.flm.pct, s.flm.opPct, s.flm.reserve, s.flm.jmax / 2 ^ 30) } } (pg flmPage + 0x2D8)

/-- The directory, the proofs and the tier manager after recovery (05 R166, R194, R198; 06 R202). Entries that the rebuild ends do not count
in DIR_EVICTED (DESIGN CHOICE, log 181). -/
def State.directoryRebuild (s : State) : State :=
  let slots := s.recoveredSlots
  let psets := slots.map (fun e => (e.2.ps, s.recoveredPset e.2))
  let lost := (s.tier.psets.filter (fun e => !psets.any (fun x => decide (x.1 = e.1)))).map (·.1)
  let orphan := (s.flm.first.filter (fun e => !slots.any (fun x => decide (x.2.pset = e.1)))).map (·.1)
  let newBad : Nat := (slots.map (fun e => (e.2.badPages.filter (fun p => !(s.slot e.1).badPages.contains p)).length)).sum
  let newPoison := (slots.filter (fun e => e.2.poison && !(s.slot e.1).poison)).length
  let s := State.keepOn (lost.foldl (fun s i => { s with page := s.page.clear (i * 2 ^ 32) (2 ^ 32) }) s)
  let s := { s with
    dir := { s.dir with
      slots := [], window := s.cfgFld (pg 0x18 + 0x108) 0 5, points := [],
      filter := [], proofs := [], proofFresh := 0, proofBack := [], proofWait := [],
      readers := [], pubs := [], cascades := [], cool := [] },
    tier := { s.tier with psets := [], fresh := 0, back := [], gens := [], moves := [], owed := [], reads := [],
                          retryAt := [], low0 := false, low1 := false, under0 := false, under1 := false },
    pfs := { s.pfs with repairs := [], cache := [], reads := [], dlvs := [], steps := [], holds := [] } }
  let s := slots.foldl (fun s e => s.putHead e.1 e.2) s
  let s := psets.foldl (fun s e => s.setPset e.1 e.2) s
  let s := if newPoison = 0 then s else (s.bump (pg 0x18 + 0x1A0) newPoison).raise 0x18 1
  let s := if newBad = 0 then s else (s.bump (pg 0x1A + 0x190) newBad).raise 0x1A 2
  let s := slots.foldl (fun s e => if e.2.pin then e.2.badPages.foldl (fun s p => s.askRepair e.1 p) s else s) s
  (orphan.foldl (fun s h => s.unmapT2 h) s).askMark

/-- The four values that form superblocks, in the active bank (17 R604). -/
def State.formNow (s : State) : Nat × Nat × Nat × Nat :=
  (s.cfgFld (pg flmPage + 0x204) 0 8, s.cfgFld (pg flmPage + 0x208) 0 8, s.cfgFld (pg flmPage + 0x21C) 0 8,
   s.cfgFld (pg flmPage + 0x220) 0 16)

/-- A bank with the low `n` bits of a register replaced. -/
def bankLow (b : Sparse Word) (a n v : Nat) : Sparse Word :=
  let w := sget b (regReset a) a
  sset b (regReset a) a (w32 (w.toNat / 2 ^ n * 2 ^ n + v % 2 ^ n))

/-- A bank with the recorded values. -/
def formBank (b : Sparse Word) (v : Nat × Nat × Nat × Nat) : Sparse Word :=
  bankLow (bankLow (bankLow (bankLow b (pg flmPage + 0x204) 8 v.1) (pg flmPage + 0x208) 8 v.2.1)
    (pg flmPage + 0x21C) 8 v.2.2.1) (pg flmPage + 0x220) 16 v.2.2.2

/-- Start-up against the values that the superblocks were formed under (17 R604): a cold start loads what a complete
checkpoint recorded into both banks; a warm reset with other active values forms the flash tier again, and every T2
copy is lost. -/
def State.flashForm (s : State) : State :=
  if (s.reg (pg 0x00 + 0x108)).toNat < 2 then
    match s.flm.saved with
    | some v => { s with act := formBank s.act v, pend := formBank s.pend v }
    | none => s
  else
    let was := s.flm.saved.getD (s.flm.pct, s.flm.opPct, s.flm.reserve, s.flm.jmax / 2 ^ 30)
    if was = s.formNow then s
    else { s with flm := { s.flm with
      sb := [], broad := [], stip := [], first := [], span := [], dying := [], copy := [], foot := [], discards := [], saved := none, media := [],
      jring := [], areas := [], jlog := [], jpages := [], jheld := [], ckpt0 := none, ckpt1 := none } }

/-- FLASH_RECOVERY (10 R388, R389; 05 R198): in the FLASH phase of start-up. -/
def execFlashRecovery (found : FlashFound) (s : State) : Res :=
  .next (if s.start ≠ .flash ∨ s.phaseDone then s
    else
      let s := (((s.flashForm.flashDiscover found).flashReplay).flashCapacity).finishDiscards found.erases
      let s := { s with flm := { s.flm with recoverMs := found.ms }, phaseDone := true }
      (s.directoryRebuild.spareCheck).updMode)

/-! ### DISCARD (10 R380 to R384) -/

/-- Resident entries at or below a slot. -/
def State.subtree (s : State) (i : Nat) : List (Nat × Slot) :=
  s.dir.slots.filter (fun e => e.2.resident && (decide (e.1 = i) || s.below i (s.dir.slots.length + 1) e.1))

/-- DISCARD (10 R380, R384); repeated, it completes as soon as its copies are gone. -/
def execDiscard (id : Nat) (s : State) : Res :=
  .next ((s.onNew id 0x09 (fun l s =>
    if !s.reached .psa then s.fail id .notReady
    else if !(l.reservedOk 0x601 [0, 0, 0xFFFFFFFF, 0xFFFFFFFF]) then s.fail id .badCommand
    else match s.namedKey l true with
    | .error e => s.fail id e
    | .ok (k, form) =>
      match s.current k form with
      | none => s.fail id (if (s.exact k form Slot.resident).isSome then .conflict else .notFound)
      | some (i, _) =>
        let sec := l.flag 0
        let parentClaim := s.dir.points.any (fun p => match p.kind with
          | .commit j _ => decide ((s.slot j).parent = some i)
          | _ => false)
        if parentClaim then s.fail id .conflict
        else if sec ∧ s.flm.readOnly ∧ (s.subtree i).any (fun e => (s.psetAt e.2.ps).t2) then s.fail id .readOnly
        else
          let s := s.startCascade i (.discard id sec)
          let d : Discard := { id := id, secure := sec, psets := [], ended := 0, sbs := [],
                               asked := false, begun := false, closing := false, finished := false, residue := false }
          let s := { s with flm := { s.flm with discards := s.flm.discards ++ [d] } }
          s.setRunning id)).discardCheck)

/-- A closed superblock of a footprint is vacated; an open one is closed first (10 R381). -/
def State.vacateFoot (s : State) (n : Nat) : State :=
  let b := s.flm.sbAt n
  if b.st = .openSlc ∨ b.st = .openNative then
    let ks := (s.flm.stream.filter (fun e => decide (e.2.sb = some n))).map (·.1)
    let s := ks.foldl (fun s k => if sget s.flm.prog 0 (k / 3) = k + 1 then s.progEnd (k / 3) else s) s
    let s := { s with flm := { s.flm with
      stream := s.flm.stream.map (fun (e : Nat × Stream) =>
        if e.2.sb = some n then (e.1, { e.2 with sb := none, flushed := false }) else e) } }
    let s := { s with flm := { s.flm.updSb n (fun x => { x with st := .closed, closedAt := s.flm.closes }) with closes := s.flm.closes + 1 } }
    s.vacate n .discard
  else if b.st = .closed then s.vacate n .discard
  else if b.st = SbState.free then s.discardErased n []
  else s

/-- DISCARD_RELOCATION (10 R381): DISCARD_BEGIN, then the footprint's superblocks are vacated, then
DISCARD_END. -/
def execDiscardRelocation (id : Nat) (s : State) : Res :=
  .next (match s.flm.discards.find? (fun d => decide (d.id = id)) with
    | none => s
    | some d =>
      let upd := fun (s : State) (f : Discard → Discard) =>
        { s with flm := { s.flm with discards := updIf s.flm.discards (fun x => decide (x.id = id)) f } }
      if !d.secure ∨ !s.discardGone d then s
      else if !d.asked then (upd s (fun d => { d with asked := true })).journal
        (.discardBegin id ((s.live id).elim 0 (·.tag)) (d.psets.filterMap (fun h => sget s.flm.foot none h)))
      else if !d.begun then s
      else if d.sbs ≠ [] then if s.flm.readOnly then s else d.sbs.foldl (fun s n => s.vacateFoot n) s
      else if !d.closing then (upd s (fun d => { d with closing := true })).journal
        (.discardEnd id ((s.live id).elim 0 (·.tag)))
      else s.discardCheck)

end Sys2Proof.Machine
end

