-- ==== Sys2Proof/Machine/Gates.lean ====
section
/-! DEFINITION. Egress gates, shaping and policing (14 R508 to R531): what a gate holds open at a local PTP time,
the takeover of a new list, the choice of the next frame, the token meters. Local PTP time is device time plus
`stk.off`. -/

namespace Sys2Proof.Machine

/-- Local PTP time, ns. -/
def State.local_ (s : State) : Int := (s.clk : Int) + s.stk.off

/-- A register of the gate of a port, in the active bank. -/
def State.gateReg (s : State) (n off : Nat) : Word := s.cfgReg (pg (gatePage n) + off)

/-! ### The operating list (14 R512 to R516) -/

/-- Start of a stroke under the grid in force (02 R41). -/
def State.strokeStart (s : State) (n : Nat) : Int := (s.stk.epoch : Int) + (n * (s.stk.period * 10) : Nat)

/-- The operating copy that the active bank describes (14 R511, R512, R520). -/
def State.gateOf (s : State) (n : Nat) : GateOp :=
  let cyc := s.gateReg n 0x104
  let base := (s.gateReg n 0x108).toNat + 2 ^ 32 * (s.gateReg n 0x10C).toNat
  let off := fld (s.gateReg n 0x110) 0 27
  { list := (List.range (fld cyc 16 9)).map (fun e =>
      (fld (s.gateReg n (0x800 + 8 * e)) 0 27, fld (s.gateReg n (0x804 + 8 * e)) 0 8)),
    cycle := s.stk.period / fld cyc 0 7, div := fld cyc 0 7, guard_ := fld (s.gateReg n 0x114) 0 16,
    base := s.strokeStart base + (off * 10 : Nat), baseStroke := base, baseOff := off }

/-- Position in the cycle at a local time, ns. -/
def GateOp.pos (g : GateOp) (t : Int) : Nat := ((t - g.base) % ((g.cycle * 10 : Nat) : Int)).toNat

/-- Entry at a position with its end, both in ns from the cycle start; the last entry runs to the cycle end. -/
def entryAt : List (Nat × Nat) → Nat → Nat → Nat → Nat × Nat
  | [], _, _, _ => (0, 0xFF)
  | [e], k, _, _ => (k, e.2)
  | e :: r, k, start, p => if p < start + e.1 * 10 then (k, e.2) else entryAt r (k + 1) (start + e.1 * 10) p

/-- First cycle start at or after a local time. -/
def GateOp.nextStart (g : GateOp) (t : Int) : Int :=
  let p := g.pos t
  if p = 0 then t else t + ((g.cycle * 10 - p : Nat) : Int)

/-- Gates, running entry and guard flag of a list at a local time (14 R513, R515). -/
def GateOp.at_ (g : GateOp) (t : Int) : Nat × Nat × Bool :=
  let p := g.pos t
  let e := entryAt g.list 0 0 p
  if p < g.guard_ * 10 then (0x80, e.1, true)
  else (e.2 % 128 + 128, e.1, false)

/-- The gate runs free (14 R523). -/
def State.freeRun (s : State) (n : Nat) : Bool :=
  !bit (s.gateReg n 0x100) 0 || !s.stk.running || decide (s.stk.sync = .acquiring)

/-- Gates, entry and guard flag of a port now (14 R523). -/
def State.gateNow (s : State) (n : Nat) : Nat × Nat × Bool :=
  let g := s.gate n
  if s.freeRun n then (0xFF, 0, false)
  else match g.hold with
    | some h => if s.local_ < h then (0x80, 0, true) else g.op.at_ s.local_
    | none => g.op.at_ s.local_

/-- Spans of a list in which a class is open, as starts and ends in ns from the cycle start, outside the guard
window (14 R515, R516); recursion over the entries. -/
def openSpans (guard_ cycle : Nat) (c : Nat) : List (Nat × Nat) → Nat → List (Nat × Nat)
  | [], _ => []
  | e :: r, start =>
    let fin := if r = [] then cycle else min cycle (start + e.1 * 10)
    let rest := openSpans guard_ cycle c r fin
    let a := max start guard_
    if e.2.testBit c ∧ a < fin then
      match rest with
      | x :: xs => if x.1 = fin then (a, x.2) :: xs else (a, fin) :: rest
      | [] => [(a, fin)]
    else rest

/-- Windows of a class in a list. -/
def GateOp.windows (g : GateOp) (c : Nat) : List (Nat × Nat) :=
  if g.list = [] then [(g.guard_ * 10, g.cycle * 10)]
  else openSpans (g.guard_ * 10) (g.cycle * 10) c g.list 0

/-- End of the current window of a class, as local time in 10 ps units; none where it has no end (class 7, free
running). -/
def State.windowEnd (s : State) (n c : Nat) : Option Int :=
  if c = 7 ∨ s.freeRun n then none
  else
    let g := (s.gate n).op
    let p := g.pos s.local_
    match (g.windows c).find? (fun w => decide (w.1 ≤ p ∧ p < w.2)) with
    | some w => some ((s.local_ + ((w.2 - p : Nat) : Int)) * 100)
    | none => some (s.local_ * 100)

/-! ### Credits (14 R524 to R526) -/

/-- Credit of a class after some ns with its gate as it stands: it rises while open, up to BURST. -/
def State.creditAfter (s : State) (n c : Nat) (open_ : Bool) (dt : Nat) (x : Int) : Int :=
  let cfg := s.gateReg n (0x200 + 16 * c)
  if bit cfg 31 && open_ then
    min ((fld (s.gateReg n (0x204 + 16 * c)) 0 24 * 640000 : Nat) : Int) (x + ((fld cfg 0 17 * 800 * dt : Nat) : Int))
  else x

/-- Credits counted up to now under the gates held open since the last count. -/
def State.settleCredit (s : State) (n : Nat) : State :=
  let g := s.gate n
  let dt := s.clk - g.at_
  s.setGate n { g with
    at_ := s.clk,
    credit := (List.range 8).map (fun c => s.creditAfter n c (g.open_.testBit c) dt (g.credit.getD c 0)) }

/-- Gates recomputed for now, after the credits are counted; a hold that is over is forgotten. -/
def State.gateRefresh (s : State) (n : Nat) : State :=
  let s := s.settleCredit n
  let (m, e, b) := s.gateNow n
  let g := s.gate n
  let h := match g.hold with
    | some h => if s.local_ < h then some h else none
    | none => none
  s.setGate n { g with open_ := m, entry := e, inGuard := b, hold := h }

/-- GATE_EVENT (14 R516): a cycle start or entry boundary is reached. -/
def execGateEvent (n t : Nat) (s : State) : Res :=
  let s := s.at_ t
  .next (if s.netExists n then s.gateRefresh n else s)

/-! ### Takeover (14 R519 to R523) -/

/-- Offset and registers whose change starts a takeover (14 R519, R522). -/
def takeoverRegs : List Nat :=
  [0x100, 0x104, 0x108, 0x10C, 0x110, 0x114] ++ (List.range 512).map (fun i => 0x800 + 4 * i)

/-- The takeover time for the active bank at a boundary: the time, and whether the base has passed (14 R519). -/
def takeoverAt (g : GateOp) (b : Int) : Int × Bool := if b ≤ g.base then (g.base, false) else (g.nextStart b, true)

/-- A takeover is computed at local time `b` (14 R519, R521). -/
def State.gateArm (s : State) (n : Nat) (b : Int) : State :=
  let (t, late) := takeoverAt (s.gateOf n) b
  let d := (t - s.stk.epoch).toNat
  let g := s.gate n
  let was := g.pend.isSome
  let s := s.setGate n { g with pend := some t, basePassed := late, takeStroke := d / (s.stk.period * 10),
                                takeOff := d % (s.stk.period * 10) / 10 }
  let s := if was then s.raise (gatePage n) 4 else s
  if late then s.raise (gatePage n) 1 else s

/-- The active bank becomes the operating copy, and the page reports its edition (14 R520; 17 R598). -/
def State.gateTake (s : State) (n : Nat) : State :=
  let s := { s with cfg := { s.cfg with lag := s.cfg.lag.filter (fun e => decide (e.1 ≠ gatePage n)) } }
  (s.setGate n { s.gate n with op := s.gateOf n, pend := none, hold := none }).gateRefresh n

/-- TAKEOVER (14 R520). -/
def execTakeover (n t : Nat) (s : State) : Res :=
  let s := s.at_ t
  .next (match (s.gate n).pend with
    | none => s
    | some p =>
      if s.local_ < p then s
      else
        let s := (s.settleCredit n).gateTake n
        let s := (s.bump (pg (gatePage n) + 0x18C)).raise (gatePage n) 0
        if (s.gate n).basePassed then s.bump (pg (gatePage n) + 0x190) else s)

/-- A new grid takes effect (14 R523): cycle and base are computed again, and the guard state holds until the next
cycle start. -/
def State.gateRegrid (s : State) (n : Nat) : State :=
  let g := s.gate n
  let op := { g.op with cycle := s.stk.period / g.op.div,
                        base := s.strokeStart g.op.baseStroke + ((g.op.baseOff * 10 : Nat) : Int) }
  let s := s.setGate n { g with op := op, hold := some (op.nextStart s.local_) }
  let s := match g.pend with
    | some _ => (s.setGate n { s.gate n with pend := none }).gateArm n s.local_
    | none => s
  s.gateRefresh n

/-- Local time is stepped (14 R523). -/
def State.gateStep (s : State) (n : Nat) : State :=
  let g := s.gate n
  (s.setGate n { g with hold := some (g.op.nextStart s.local_) }).gateRefresh n

/-- Ports of the fused part. -/
def State.netPorts (s : State) : List Nat := List.range (2 * s.fusedDies)

/-! ### Meters (14 R527 to R529) -/

/-- Meters filled up to now. -/
def State.settleTokens (s : State) (n : Nat) : State :=
  let g := s.gate n
  let dt := s.clk - g.tokensAt
  s.setGate n { g with
    tokensAt := s.clk,
    tokens := (List.range 64).foldl (fun l m =>
      sset l 0 m (min (fld (s.gateReg n (0x604 + 8 * m)) 0 24 * 800)
        (sget l 0 m + fld (s.gateReg n (0x600 + 8 * m)) 0 17 * dt))) g.tokens }

/-- Class of a received frame (13 R473). -/
def State.rxClass (s : State) (n : Nat) (f : Frame) : Nat :=
  ((List.range 8).find? (fun c =>
    decide (fld (s.cfgReg (pg (netPage n) + 0x130 + 4 * (c / 4))) (8 * (c % 4)) 8 = f.dscp))).getD 0

/-- First filter that matches a frame (14 R527). -/
def State.filterOf (s : State) (n : Nat) (f : Frame) : Option Nat :=
  let c := s.rxClass n f
  (List.range 64).find? (fun i =>
    let w0 := s.gateReg n (0x400 + 8 * i)
    let w1 := s.gateReg n (0x404 + 8 * i)
    bit w0 31 && bit w0 (16 + c) && (!bit w0 30 || (f.roce && decide (f.pkey % 2 ^ 15 = fld w1 16 15))))

/-- A received frame is policed (14 R527, R528): true when it passes. -/
def State.police (s : State) (n : Nat) (f : Frame) : State × Bool :=
  if !bit (s.gateReg n 0x100) 2 then (s, true)
  else match s.filterOf n f with
    | none => (s, true)
    | some i =>
      let m := fld (s.gateReg n (0x400 + 8 * i)) 0 6
      let max := fld (s.gateReg n (0x404 + 8 * i)) 0 14
      let drop := fun (s : State) =>
        ((s.bump (pg (gatePage n) + 0x300 + 4 * m)).count (gatePage n) 0x188 3, false)
      if max ≠ 0 ∧ max < f.len then drop s
      else
        let s := s.settleTokens n
        let g := s.gate n
        let have_ := sget g.tokens 0 m
        if have_ < f.len * 800 then drop s
        else (s.setGate n { g with tokens := sset g.tokens 0 m (have_ - f.len * 800) }, true)

/-! ### Queues and selection (14 R508 to R510, R517, R518) -/

/-- Bytes of the 802.1Q tag of a port's egress frames (13 R471). -/
def State.vlanTag (s : State) (n : Nat) : Nat := if bit (s.cfgReg (pg (netPage n) + 0x100)) 4 then 4 else 0

/-- A frame joins the class queue of a port that is up. -/
def State.enqFrame (s : State) (n cls len : Nat) (w : Wire) : State :=
  if (s.netPort n).up then
    let x : EgFrame := { cls := cls, len := len, wire := w, waited := false }
    s.setGate n { s.gate n with queue := (s.gate n).queue ++ [x] }
  else s

/-- A head frame is longer than every window of its class (14 R518). -/
def State.oversize (s : State) (n : Nat) (f : EgFrame) : Bool :=
  decide (f.cls ≠ 7) && !s.freeRun n
    && ((s.gate n).op.windows f.cls).all (fun w => decide ((w.2 - w.1) * 100 < f.len + 20))

/-- Head frames that are too long are dropped: the frames kept, and how many went. -/
def stripHeads (long : EgFrame → Bool) : List Nat → List EgFrame → List EgFrame × Nat
  | _, [] => ([], 0)
  | seen, f :: r =>
    if !seen.contains f.cls && long f then
      let (q, k) := stripHeads long seen r
      (q, k + 1)
    else
      let (q, k) := stripHeads long (f.cls :: seen) r
      (f :: q, k)

/-- Start of the next transmission in 10 ps units of device time; none while the link is busy past this ns. -/
def State.linkFree (s : State) (n : Nat) : Option Nat :=
  let a := max (s.gate n).busy (s.clk * 100)
  if a < (s.clk + 1) * 100 then some a else none

/-- A head frame fits its window when it starts at `a` (14 R517). -/
def State.frameFits (s : State) (n a : Nat) (f : EgFrame) : Bool :=
  match s.windowEnd n f.cls with
  | none => true
  | some w => decide ((a : Int) + s.stk.off * 100 + ((f.len + 20 : Nat) : Int) ≤ w)

/-- Head frame of a class. -/
def Gate.head (g : Gate) (c : Nat) : Option EgFrame := g.queue.find? (fun f => decide (f.cls = c))

/-- The queue without the head frame of a class. -/
def dropHead (c : Nat) : List EgFrame → List EgFrame
  | [] => []
  | f :: r => if f.cls = c then r else f :: dropHead c r

/-- The head frame of a class is marked as having waited. -/
def markHead (c : Nat) : List EgFrame → List EgFrame
  | [] => []
  | f :: r => if f.cls = c then { f with waited := true } :: r else f :: markHead c r

/-- Frames at the head of an open class that do not fit are counted once each (14 R517). -/
def State.countWaits (s : State) (n a : Nat) : State :=
  (List.range 7).foldl (fun s c =>
    let g := s.gate n
    match g.head c with
    | some f =>
      if g.open_.testBit c && !s.frameFits n a f && !f.waited then
        (s.setGate n { g with queue := markHead c g.queue }).bump (pg (gatePage n) + 0x180)
      else s
    | none => s) s

/-- A class may transmit (14 R510, R525). -/
def State.eligible (s : State) (n a c : Nat) : Bool :=
  let g := s.gate n
  match g.head c with
  | none => false
  | some f =>
    g.open_.testBit c && s.frameFits n a f
      && (!bit (s.gateReg n (0x200 + 16 * c)) 31 || decide (0 ≤ g.credit.getD c 0))

/-! ### Bytes on the wire (00 R12; 13 R474 to R476; BTH, RETH and AETH are laid out as InfiniBand does, PRESUMED, log 197) -/

/-- The base transport header: opcode, pad count and TVer 0, P_Key, BECN, destination queue pair, A bit, PSN (13 R475). -/
def frameBth (f : Frame) : List Byte :=
  beBytes 1 f.op ++ beBytes 1 ((4 - f.payload.length % 4) % 4 * 16) ++ beBytes 2 f.pkey ++ beBytes 1 (64 * b2n f.becn) ++ beBytes 3 f.qpn
    ++ beBytes 1 (128 * b2n f.ackReq) ++ beBytes 3 f.psn

/-- The message extension header of a request packet with SPRAY = 1 (13 R476). -/
def frameMxh (f : Frame) : List Byte := beBytes 8 (f.firstPsn * 2 ^ 40 + f.pktCount * 2 ^ 8)

/-- The RETH: base address, RKEY, total length (13 R476). -/
def frameReth (f : Frame) : List Byte := beBytes 8 f.va.toNat ++ beBytes 4 f.rkey.toNat ++ beBytes 4 f.dlen

/-- Values of the RNR NAK timer in µs, rising: codes 1 on; code 0 is 655,360 µs. -/
def rnrTimes : List Nat :=
  [10, 20, 30, 40, 60, 80, 120, 160, 240, 320, 480, 640, 960, 1280, 1920, 2560, 3840, 5120, 7680, 10240, 15360, 20480,
   30720, 40960, 61440, 81920]

/-- The RNR timer code of a time in us: the shortest that is not below it. -/
def rnrCode (us : Nat) : Nat := ((rnrTimes.zipIdx.find? (fun e => decide (us ≤ e.1))).map (fun e => e.2 + 1)).getD 0

/-- The AETH: syndrome and MSN (13 R488). -/
def frameAeth (f : Frame) : List Byte :=
  beBytes 1 (if f.nak = 0 then 0x1F else if f.nak = 4 then 0x20 + rnrCode f.rnrUs else 0x60 + (f.nak - 1)) ++ beBytes 3 f.firstPsn

/-- BTH, extension headers, and payload with its padding: headers in network byte order. -/
def frameBytes (f : Frame) : List Byte :=
  if f.op = 0x11 then frameBth f ++ frameAeth f
  else
    let spray := decide (f.pktCount ≠ 0)
    let write := decide (6 ≤ f.op)
    frameBth f ++ (if spray then frameMxh f else []) ++ (if write && (spray || [6, 10, 11].contains f.op) then frameReth f else [])
      ++ (match f.imm with
        | some w => beBytes 4 w.toNat
        | none => [])
      ++ f.payload ++ List.replicate ((4 - f.payload.length % 4) % 4) 0

/-- The bytes of a transport packet up to its ICRC; of an address or peer-delay answer none are laid out. -/
def Wire.bytes : Wire → List Byte
  | .roce h f => h ++ frameBytes f
  | .arp _ => []
  | .advert _ => []
  | .peerDelay => []

/-- The frame leaves: the link is busy for its length, its credit falls, the frame counts (14 R517, R524). -/
def State.transmit (s : State) (n a : Nat) (f : EgFrame) : State :=
  let g := s.gate n
  let paid : List Int := if bit (s.gateReg n (0x200 + 16 * f.cls)) 31 then
    g.credit.modify f.cls (fun x => x - (((f.len + 20) * 640000 : Nat) : Int)) else g.credit
  let s := s.setGate n { g with queue := dropHead f.cls g.queue, busy := a + f.len + 20, credit := paid }
  (s.bump64 (pg (netPage n) + 0x188) 1).send (.frame n f.wire f.wire.bytes)

/-- FRAME_SELECT (14 R510): the highest eligible class transmits its head frame. -/
def execFrameSelect (n t : Nat) (s : State) : Res :=
  let s := s.at_ t
  .next (match s.linkFree n with
    | none => s
    | some a =>
      if !(s.netPort n).up then s
      else
        let s := s.gateRefresh n
        let (q, k) := stripHeads (s.oversize n) [] (s.gate n).queue
        let s := s.setGate n { s.gate n with queue := q }
        let s := if k = 0 then s else (s.bump (pg (gatePage n) + 0x184) k).raise (gatePage n) 2
        let s := s.countWaits n a
        match ([7, 6, 5, 4, 3, 2, 1, 0].find? (s.eligible n a)).bind (s.gate n).head with
        | some f => s.transmit n a f
        | none => s)

/-! ### Configuration (14 R519 to R522, R529) -/

/-- Credits and meters stand as of now, before a new configuration governs. -/
def State.gateSettle (s : State) (n : Nat) : State := (s.settleCredit n).settleTokens n

/-- Some register of a list of offsets changed between two banks. -/
def regsChanged (old new : State) (page : Nat) (offs : List Nat) : Bool :=
  offs.any (fun o => decide (old.cfgReg (pg page + o) ≠ new.cfgReg (pg page + o)))

/-- Shapers and meters that a commit changed take their value (14 R529); `old` is the state before it. -/
def State.gateFill (s old : State) (n : Nat) : State :=
  let full := bit (s.gateReg n 0x100) 1
  let ch := regsChanged old s (gatePage n)
  let g := s.gate n
  let credit := (List.range 8).map (fun c =>
    if ch [0x200 + 16 * c, 0x204 + 16 * c] then
      (if full then ((fld (s.gateReg n (0x204 + 16 * c)) 0 24 * 640000 : Nat) : Int) else 0)
    else g.credit.getD c 0)
  let named := ((List.range 64).filter (fun f => ch [0x400 + 8 * f, 0x404 + 8 * f])).flatMap (fun f =>
    [fld (old.gateReg n (0x400 + 8 * f)) 0 6, fld (s.gateReg n (0x400 + 8 * f)) 0 6])
  let tokens := (List.range 64).foldl (fun l m =>
    if named.contains m || ch [0x600 + 8 * m, 0x604 + 8 * m] then
      sset l 0 m (if full then fld (s.gateReg n (0x604 + 8 * m)) 0 24 * 800 else 0)
    else l) g.tokens
  s.setGate n { g with credit := credit, tokens := tokens }

/-- A configuration has applied: what it does to the gate of a port (14 R519 to R522, R529). Without a stroke running
the gate runs free and takes the list at once. -/
def State.gateApply (s old : State) (n : Nat) : State :=
  let s := s.gateFill old n
  if regsChanged old s (gatePage n) takeoverRegs then
    if s.stk.running then s.gateArm n s.local_ else s.gateTake n
  else s.gateRefresh n

end Sys2Proof.Machine
end

