-- ==== Sys2Proof/Machine/Dma.lean ====
section
/-! DEFINITION. The DMA engine (12 R453 to R464): descriptors, bursts, write-backs, errors and aborts. -/

namespace Sys2Proof.Machine

/-- A DMA channel. -/
def State.chan (s : State) (c : Nat) : Chan := sget s.dma.ch Chan.reset c

/-- A DMA channel, set. -/
def State.setChan (s : State) (c : Nat) (v : Chan) : State :=
  { s with dma := { s.dma with ch := sset s.dma.ch Chan.reset c v } }

/-- Register page of a channel and address of its block (12 R466). -/
def dmaPage (c : Nat) : Nat := 0x50 + c / 8

/-- Address of a channel's registers. -/
def dmaAddr (c : Nat) : Nat := pg (dmaPage c) + 0x400 + 0x40 * (c % 8)

/-- Port of a channel. -/
def State.dmaPort (s : State) (c : Nat) : Nat := fld (s.reg (dmaAddr c)) 8 1

/-- The tenant a channel acts for: that of its queue set's binding (12 R453). -/
def State.dmaTenant (s : State) (c : Nat) : Option Nat :=
  (s.binding (s.dmaPort c) (fld (s.reg (dmaAddr c)) 0 6)).map (·.1)

/-- The channel's message (12 R459). -/
def State.dmaMsg (s : State) (c : Nat) : State :=
  s.msix (s.dmaPort c) (fld (s.reg (dmaAddr c)) 16 8)

/-! ### Descriptor fields (12 R454) -/

/-- TYPE. -/
def dmaType (ws : List Word) : Nat := fld (ws.getD 0 0) 28 3

/-- LEN. -/
def dmaLen (ws : List Word) : Nat := fld (ws.getD 1 0) 0 24

/-- A bit of word 0: 27 INT_FULL, 26 INT_HALF, 23 HFIX, 22 DFIX, 21 ROUND. -/
def dmaBit (ws : List Word) (i : Nat) : Bool := bit (ws.getD 0 0) i

/-- SWAP. -/
def dmaSwap (ws : List Word) : Nat := fld (ws.getD 0 0) 24 2

/-- The page set's handle of DEV_ADDR (06 R203). -/
def dmaPset (ws : List Word) : Nat := wd ws 5

/-- Page of DEV_ADDR. -/
def dmaPg (ws : List Word) : Nat := nfld (wd64 ws 4) 21 10

/-- Offset of DEV_ADDR. -/
def dmaOff (ws : List Word) : Nat := wd64 ws 4 % 2 ^ 21

/-- Bytes of the host range from HOST_ADDR and of the device range from DEV_ADDR: 64 with a fixed address
(12 R456). -/
def dmaSpan (ws : List Word) (fix : Nat) : Nat := if dmaBit ws fix then 64 else dmaLen ws

/-- The host range after rounding (12 R455, R457): the 64-byte cover for reads, whole dwords for writes. -/
def dmaRange (ws : List Word) : Nat × Nat :=
  let a := wd64 ws 2
  let n := dmaSpan ws 23
  if dmaBit ws 21 then
    let g := if dmaType ws = 0 then 64 else 4
    let lo := a / g * g
    (lo, roundUp (a + n) g - lo)
  else (a, n)

/-- Address of byte `i` of a transfer on a side that may be fixed (12 R456). -/
def dmaByte (fix : Bool) (base i : Nat) : Nat := base + (if fix then i % 64 else i)

/-- SWAP on a run of whole words (12 R454). -/
def swapBytes (k : Nat) (bs : List Byte) : List Byte :=
  if k = 0 then bs
  else (List.range bs.length).map (fun i =>
    let j := if k = 1 then 3 - i % 4 else (i % 4 + 2) % 4
    bs.getD (i / 4 * 4 + j) 0)

/-! ### The checks before the first beat (12 R455) -/

/-- Malformed (12 R455 row 1; 00 R13). -/
def dmaBad (ws : List Word) : Bool :=
  let h := wd64 ws 2
  let d := wd64 ws 4
  let n := dmaLen ws
  decide (fld (ws.getD 0 0) 0 21 ≠ 0 ∨ fld (ws.getD 1 0) 24 8 ≠ 0 ∨ n = 0 ∨ 2 ≤ dmaType ws ∨ dmaSwap ws = 3
    ∨ (dmaType ws = 0 ∧ wd ws 6 ≠ 0)
    ∨ (dmaSwap ws ≠ 0 ∧ (h % 4 ≠ 0 ∨ d % 4 ≠ 0 ∨ n % 4 ≠ 0))
    ∨ (dmaBit ws 23 = true ∧ (h % 64 ≠ 0 ∨ n % 64 ≠ 0)) ∨ (dmaBit ws 22 = true ∧ (d % 64 ≠ 0 ∨ n % 64 ≠ 0))
    ∨ (dmaBit ws 21 = false ∧ (h % 4 ≠ 0 ∨ n % 4 ≠ 0)))

/-- The entry of a D2H descriptor: visible in its proof, of a scope the tenant can match, with the page set
(12 R454; 03 R104). -/
def State.dmaEntry (s : State) (tenant : Nat) (ws : List Word) : Option (Nat × Slot) :=
  match s.proofOf tenant (wd ws 6) with
  | none => none
  | some p => s.dir.slots.find? (fun e => decide (e.2.pset = dmaPset ws) && e.2.visible p.snapshot
      && decide (e.2.key.scope = tenant ∨ e.2.key.scope = 0xFFFF))

/-- Page and offset of DEV_ADDR lie inside a page set (06 R203). -/
def dmaInside (ws : List Word) (v : PSet) : Bool :=
  decide (nfld (wd64 ws 4) 31 1 = 0 ∧ dmaPg ws < v.pages ∧ dmaOff ws + dmaSpan ws 22 ≤ v.pageSize)

/-- Status of the checks; none when the descriptor may transfer (12 R455). -/
def State.dmaCheck (s : State) (c tenant : Nat) (ws : List Word) : Option Status :=
  let (ha, hn) := dmaRange ws
  let h2d := decide (dmaType ws = 0)
  let byProof := !h2d && decide (wd ws 6 ≠ 0)
  let ent := s.dmaEntry tenant ws
  let conflict :=
    if byProof then ent.isSome && !dmaInside ws (s.psetAt (psIx (dmaPset ws)))
    else if h2d then
      (s.openRsv tenant (dmaPset ws)).isNone || !dmaInside ws (s.psetAt (psIx (dmaPset ws)))
    else (s.rsvAddr tenant (wd64 ws 4) (dmaSpan ws 22)).isNone
  if dmaBad ws then some .badCommand
  else if conflict then some .conflict
  else if !s.hextOk tenant (s.dmaPort c) ha hn (!h2d) then some .revoked
  else if byProof && ent.isNone then some .staleProof
  else none

/-! ### Write-backs (12 R458 to R460) -/

/-- Number under which a channel's transfer holds a snapshot and a copy. -/
def dmaReader (c : Nat) : Nat := 2 ^ 40 + c

/-- The 32-byte write-back of a descriptor (12 R458). -/
def State.dmaWriteBack (s : State) (c addr : Nat) (ws : List Word) (st : Status) (residue : Nat) : State :=
  let w0 := (ws.getD 0 0) &&& 0x7FFFFFFF
  s.hostPut (s.dmaPort c) addr (bytesOf ([w0] ++ (ws.drop 1).take 6 ++ [w32 (st.code * 2 ^ 24 + residue)]))

/-- A descriptor is written back: counters, interrupts (12 R458, R459). -/
def State.dmaReport (s : State) (c addr : Nat) (ws : List Word) (st : Status) (residue : Nat) : State :=
  let s := (s.dmaWriteBack c addr ws st residue).bump (dmaAddr c + 0x18)
  let s := s.setChan c { s.chan c with last := st.code, residue := residue }
  let s := if st = .ok then s else s.raise (dmaPage c) (c % 8)
  if st ≠ .ok ∨ dmaBit ws 27 then s.dmaMsg c else s

/-- The descriptor of a channel ends with a status (12 R456, R458); `stop` makes the channel STOPPED. -/
def State.dmaEnd (s : State) (c : Nat) (st : Status) (stop : Bool) (cause : Nat) : State :=
  match (s.chan c).desc with
  | none => s
  | some d =>
    let s := s.dmaReport c d.addr d.ws st d.count
    let v := s.chan c
    let s := s.setChan c { v with desc := none, links := 0,
                                  state := if stop then .stopped else v.state,
                                  cause := if stop then cause else v.cause }
    s.release (dmaReader c)

/-! ### Errors (12 R461, R462) -/

/-- An H2D descriptor whose reservation takes no writes any more: it is sealed, published or gone (05 R168; 12 R458). -/
def State.dmaShut (s : State) (d : Desc) : Bool := decide (dmaType d.ws = 0) && (s.openRsv d.tenant (dmaPset d.ws)).isNone

/-- Bytes of a BUS_ERROR descriptor from its failed burst onward are undefined at a destination that still takes writes. -/
def State.dmaUndef (s : State) (d : Desc) : State :=
  if dmaType d.ws ≠ 0 ∨ s.dmaShut d then s
  else
    let n := dmaLen d.ws - d.landed
    let a := pageAddr (psIx (dmaPset d.ws)) (dmaPg d.ws) (dmaOff d.ws)
    (List.range n).foldl (fun s i =>
      { s with page := s.page.wr (dmaByte (dmaBit d.ws 22) a (d.landed + i)) (Config.freeByte s.free),
               free := s.free + 1 }) s

/-- Bytes of one burst land at their destination. -/
def State.dmaMove (s : State) (c : Nat) (d : Desc) (n : Nat) : State :=
  let h := fun i => dmaByte (dmaBit d.ws 23) (wd64 d.ws 2) (d.landed + i)
  let v := fun i => dmaByte (dmaBit d.ws 22)
    (pageAddr (psIx (dmaPset d.ws)) (dmaPg d.ws) (dmaOff d.ws)) (d.landed + i)
  let p := s.dmaPort c
  if dmaType d.ws = 0 then
    let bs := swapBytes (dmaSwap d.ws) ((List.range n).map (fun i => (s.host p).rd (h i)))
    { s with page := (List.range n).foldl (fun m i => Mem.wr m (v i) (bs.getD i 0)) s.page }
  else
    let bs := swapBytes (dmaSwap d.ws) ((List.range n).map (fun i => s.page.rd (v i)))
    (s.touchPset (psIx (dmaPset d.ws))).setHost p ((List.range n).foldl (fun m i => Mem.wr m (h i) (bs.getD i 0)) (s.host p))

/-- The half message (12 R459). -/
def State.dmaHalf (s : State) (c : Nat) (d : Desc) : State :=
  if dmaBit d.ws 26 ∧ !d.halfSent ∧ ceilDiv' (dmaLen d.ws) 2 ≤ d.landed then
    (s.setChan c { s.chan c with desc := some { d with halfSent := true } }).dmaMsg c
  else s

/-- Ends the work of every channel: `bad` says which descriptors end BUS_ERROR. Of the others what is issued lands first,
but no beat lands after a seal: that descriptor ends CONFLICT (12 R458, R461). -/
def State.dmaHaltAll (s : State) (bad : Nat → Desc → Bool) : State :=
  s.dma.ch.foldl (fun s e =>
    match (s.chan e.1).desc with
    | none => s
    | some d =>
      if bad e.1 d then (s.dmaUndef d).dmaEnd e.1 .busError false 0
      else if s.dmaShut d ∧ d.flight ≠ [] then s.dmaEnd e.1 .conflict false 0
      else
        let (s, d) := d.flight.foldl (fun (a : State × Desc) n =>
          ((a.1.dmaMove e.1 a.2 n).bump64 (pg 0x50 + 0x180) n, { a.2 with landed := a.2.landed + n })) (s, d)
        (s.dmaHalf e.1 d).dmaEnd e.1 .aborted false 0) s

/-- The engine halts (12 R461): cause 1 UR, 2 CA, 3 poisoned, 4 timeout; `onFetch` when a descriptor fetch of
channel `c` drew the error. -/
def State.dmaHalt (s : State) (c cause : Nat) (onFetch : Bool) : State :=
  let s := s.dmaHaltAll (fun k d =>
    if cause = 4 then decide (dmaType d.ws = 0) && decide (d.flight ≠ [])
    else !onFetch && decide (k = c))
  let s := if onFetch then s.setChan c { s.chan c with cause := 1 } else s
  let s := { s with dma := { s.dma with halted := true, cause := cause, errCh := c } }
  let s := (List.range 64).foldl (fun s k => s.setChan k { s.chan k with state := .halted }) s
  s.count 0x50 0x188 9

/-- DMA_BUS_ERROR (12 R461): a channel has a read outstanding that draws an error. -/
def execDmaBusError (ch cause : Nat) (onFetch : Bool) (s : State) : Res :=
  .next (
    let v := s.chan ch
    let reading : Bool := match v.desc with
      | some d => !onFetch && decide (dmaType d.ws = 0) && decide (d.flight ≠ [])
      | none => onFetch && decide (v.state = .running)
    if reading ∧ 1 ≤ cause ∧ cause ≤ 4 ∧ s.dma.halted = false then s.dmaHalt ch cause onFetch else s)

/-! ### Control (12 R460, R463, R466) -/

/-- RUN (12 R466). -/
def State.dmaStart (s : State) (c : Nat) : State :=
  let v := s.chan c
  if v.state ≠ .stopped then s
  else match s.dmaTenant c with
    | none => s.setChan c { v with cause := 2 }
    | some _ => s.setChan c { v with state := .running, cause := 0, links := 0 }

/-- KICK (12 R460). -/
def State.dmaKickCh (s : State) (c : Nat) : State :=
  let v := s.chan c
  if v.state = .idle then s.setChan c { v with state := .running } else s

/-- ABORT (12 R463): a descriptor in progress ends when what is issued has landed. -/
def State.dmaAbortCh (s : State) (c : Nat) : State :=
  let v := s.chan c
  match v.desc with
  | some d =>
    if v.state ≠ .running then s
    else if d.flight = [] then s.dmaEnd c .aborted true 4
    else s.setChan c { v with desc := some { d with aborting := true } }
  | none =>
    if v.state = .halted then s
    else (s.setChan c { v with state := .stopped, cause := 4 }).raise (dmaPage c) 8

/-- A write of DMA_CH_CTRL: each bit that is 1 acts, ABORT last. -/
def State.dmaCtrl (s : State) (c : Nat) (v : Word) : State :=
  let s := if bit v 0 then s.dmaStart c else s
  let s := if bit v 2 then s.dmaKickCh c else s
  if bit v 1 then s.dmaAbortCh c else s

/-- RESUME (12 R461). -/
def State.dmaResumeAll (s : State) : State :=
  if s.dma.halted then
    let s := { s with dma := { s.dma with halted := false } }
    (List.range 64).foldl (fun s k => s.setChan k { s.chan k with state := .stopped }) s
  else s

/-- DMA_RUN (12 R466). -/
def execDmaRun (src : Src) (ch : Nat) (s : State) : Res :=
  .next (if ch < 64 ∧ s.pageOn src (dmaPage ch) then s.dmaStart ch else s)

/-- DMA_KICK (12 R460). -/
def execDmaKick (src : Src) (ch : Nat) (s : State) : Res :=
  .next (if ch < 64 ∧ s.pageOn src (dmaPage ch) then s.dmaKickCh ch else s)

/-- DMA_ABORT (12 R463). -/
def execDmaAbort (src : Src) (ch : Nat) (s : State) : Res :=
  .next (if ch < 64 ∧ s.pageOn src (dmaPage ch) then s.dmaAbortCh ch else s)

/-- DMA_RESUME (12 R461). -/
def execDmaResume (src : Src) (s : State) : Res := .next (if s.pageOn src 0x50 then s.dmaResumeAll else s)

/-! ### Descriptors and bursts -/

/-- A LINK is malformed (00 R13): reserved bits, or NEXT not 32-byte aligned. -/
def linkBad (ws : List Word) : Bool :=
  decide (fld (ws.getD 0 0) 0 21 ≠ 0 ∨ fld (ws.getD 1 0) 24 8 ≠ 0 ∨ wd64 ws 2 % 32 ≠ 0)

/-- A data descriptor is taken up or written back at once (12 R455). -/
def State.dmaTake (s : State) (c tenant addr : Nat) (ws : List Word) : State :=
  let v := s.chan c
  let s := s.setChan c { v with next := addr + 32, fetched := v.fetched + 1, links := 0, residue := dmaLen ws }
  match s.dmaCheck c tenant ws with
  | some st => s.dmaReport c addr ws st (dmaLen ws)
  | none =>
    let v := s.chan c
    let d : Desc := { n := v.fetched, addr := addr, ws := ws, count := dmaLen ws, landed := 0, flight := [],
                      halfSent := false, aborting := false, seq := s.que.nextId, tenant := tenant, lost := false }
    let s := s.setChan c { v with desc := some d }
    match (if dmaType ws = 1 ∧ wd ws 6 ≠ 0 then s.dmaEntry tenant ws else none), s.proofOf tenant (wd ws 6) with
    | some _, some p =>
      let s := s.holdSnapshot (dmaReader c) p.snapshot
      let r : PRead := { id := dmaReader c, pset := psIx (dmaPset ws) }
      { s with tier := { s.tier with reads := s.tier.reads ++ [r] } }
    | _, _ => s

/-- Follows LINKs to a data descriptor (12 R460); recursion on fuel. -/
def State.dmaFetch : Nat → State → Nat → Nat → State
  | 0, s, _, _ => s
  | n + 1, s, c, tenant =>
    let v := s.chan c
    match s.hostRead (s.dmaPort c) v.next 32 with
    | none => s.dmaHalt c (if s.portDown (s.dmaPort c) then 4 else 1) true
    | some bs =>
      let ws := wordsOf bs
      if !dmaBit ws 31 then s.setChan c { v with state := .idle }
      else if dmaType ws ≠ 2 then s.dmaTake c tenant v.next ws
      else if linkBad ws then
        (s.setChan c { v with next := v.next + 32 }).dmaReport c v.next ws .badCommand 0
      else if v.links = 64 then
        let s := (s.dmaReport c v.next ws .linkLoop 0).bump (pg 0x50 + 0x18C)
        let v := s.chan c
        s.setChan c { v with state := .stopped, cause := 3, next := v.next + 32 }
      else State.dmaFetch n (s.setChan c { v with next := wd64 ws 2, links := v.links + 1 }) c tenant

/-- DESCRIPTOR_FETCH (12 R455, R460): a running channel without a descriptor. -/
def execDescriptorFetch (ch : Nat) (s : State) : Res :=
  .next (
    let v := s.chan ch
    if v.state ≠ .running ∨ v.desc.isSome ∨ s.dma.halted then s
    else match s.dmaTenant ch with
      | none => s.setChan ch { v with state := .stopped, cause := 2 }
      | some t => State.dmaFetch 66 s ch t)

/-- Bytes of the next burst (12 R456): up to BURST, ending at a 64-byte boundary of the host address. -/
def burstLen (burst : Nat) (d : Desc) : Nat :=
  min d.count (burst - (wd64 d.ws 2 + (dmaLen d.ws - d.count)) % 64)

/-- What stops the next burst of a descriptor (11 R415; 12 R458): REVOKED, CONFLICT by a seal, POISON. -/
def State.burstStop (s : State) (c : Nat) (d : Desc) : Option Status :=
  let (ha, hn) := dmaRange d.ws
  let i := psIx (dmaPset d.ws)
  if !s.hextOk d.tenant (s.dmaPort c) ha hn (decide (dmaType d.ws ≠ 0)) then some .revoked
  else if dmaType d.ws = 0 then
    if (s.openRsv d.tenant (dmaPset d.ws)).isNone then some .conflict else none
  else if (s.dir.slots.any (fun e => decide (e.2.pset = dmaPset d.ws) && e.2.poison)) then some .poison
  else if (s.psetAt i).gen ≠ dmaPset d.ws / 2 ^ 26 then some .conflict
  else none

/-- BURST_ISSUE (12 R456): a burst whose page lies in T2 waits for the T2 read. -/
def execBurstIssue (ch : Nat) (s : State) : Res :=
  .next (
    let v := s.chan ch
    match v.desc with
    | none => s
    | some d =>
      if v.state ≠ .running ∨ d.aborting ∨ d.count = 0 then s
      else match s.burstStop ch d with
        | some st => if d.flight = [] then s.dmaEnd ch st false 0 else s
        | none =>
          let i := psIx (dmaPset d.ws)
          if dmaType d.ws = 1 ∧ !s.pageReady i (dmaPg d.ws) then s.needPages i [dmaPg d.ws] false false
          else
            let n := burstLen (s.cfgFld (pg 0x50 + 0x108) 0 13) d
            s.setChan ch { v with residue := d.count - n,
                                  desc := some { d with count := d.count - n, flight := d.flight ++ [n] } })

/-- After a landing: the end of the descriptor, or nothing. -/
def State.dmaLanded (s : State) (c : Nat) : State :=
  match (s.chan c).desc with
  | none => s
  | some d =>
    if d.flight ≠ [] then s
    else if d.count = 0 then s.dmaEnd c .ok d.aborting 4
    else if d.aborting then s.dmaEnd c .aborted true 4
    else s

/-- BURST_COMPLETE (12 R458, R459): the oldest burst lands. -/
def execBurstComplete (ch : Nat) (s : State) : Res :=
  .next (
    let v := s.chan ch
    match v.desc with
    | none => s
    | some d =>
      match d.flight with
      | [] => s
      | n :: r =>
        let p := s.dmaPort ch
        let h := wd64 d.ws 2 + (if dmaBit d.ws 23 then 0 else d.landed)
        let gone := s.portDown p || d.lost
        if gone ∧ dmaType d.ws ≠ 0 then
          let s := s.setChan ch { v with desc := none, state := .stopped }
          s.release (dmaReader ch)
        else if dmaType d.ws = 0 ∧ (gone ∨ s.hostReadBad p h n) then s.dmaHalt ch (if gone then 4 else 1) false
        else if s.dmaShut d then
          (s.setChan ch { v with desc := some { d with flight := [] } }).dmaEnd ch .conflict d.aborting 4
        else
          let s := s.dmaMove ch d n
          let d := { d with landed := d.landed + n, flight := r }
          let s := (s.setChan ch { v with desc := some d }).bump64 (pg 0x50 + 0x180) n
          (s.dmaHalf ch d).dmaLanded ch)

/-- A T2 read that a transfer waits for is abandoned: the descriptor ends TIMEOUT (12 R458; 07 R258). -/
def State.dmaTimeouts (s : State) (pset page : Nat) : State :=
  s.dma.ch.foldl (fun s e =>
    match (s.chan e.1).desc with
    | none => s
    | some d =>
      if dmaType d.ws = 1 ∧ psIx (dmaPset d.ws) = pset ∧ dmaPg d.ws = page ∧ d.count ≠ 0 ∧ d.flight = []
          ∧ !s.pageReady pset page then
        s.dmaEnd e.1 .timeout false 0
      else s) s

end Sys2Proof.Machine
end

