-- ==== Sys2Proof/Machine/Numerics.lean ====
section
/-! DEFINITION. Number formats and arithmetic of the burin engines (08 R278 to R288): exact values, one rounding
where a rule says so, and the vector unit's operations within their stated bounds. -/

namespace Sys2Proof.Machine

/-- A value of any format: NaN with its sign bit, an infinity, or (-1)^neg * m * 2^e exactly (m = 0 is a signed zero). -/
inductive Fp where
  | nan (neg : Bool)
  | inf (neg : Bool)
  | fin (neg : Bool) (m : Nat) (e : Int)
  deriving DecidableEq, Repr

/-- The value is a NaN. -/
def Fp.isNan (x : Fp) : Bool :=
  match x with
  | .nan _ => true
  | _ => false

/-- Floor of log2 of the magnitude of a finite nonzero value. -/
def flog (m : Nat) (e : Int) : Int := (Nat.log2 m : Int) + e

/-- `m * 2^e` in units of `2^lsb`, rounded to nearest with ties to even. -/
def roundNE (m : Nat) (e lsb : Int) : Nat :=
  if lsb ≤ e then m * 2 ^ (e - lsb).toNat
  else
    let k := (lsb - e).toNat
    let q := m / 2 ^ k
    let r := m % 2 ^ k
    if 2 ^ k < 2 * r ∨ (2 * r = 2 ^ k ∧ q % 2 = 1) then q + 1 else q

/-- `m * 2^e` in units of `2^lsb`, truncated toward zero. -/
def roundDown (m : Nat) (e lsb : Int) : Nat :=
  if lsb ≤ e then m * 2 ^ (e - lsb).toNat else m / 2 ^ (lsb - e).toNat

/-- A binary format with an implicit leading bit: exponent and mantissa bits, bias. -/
structure FpFmt where
  eb : Nat
  mb : Nat
  bias : Nat
  deriving DecidableEq, Repr

/-- Exponent of the lowest subnormal bit. -/
def FpFmt.low (f : FpFmt) : Int := 1 - (f.bias : Int) - (f.mb : Int)

/-- Finite value of a code without its special codes. -/
def FpFmt.value (f : FpFmt) (n : Nat) : Fp :=
  let s := decide (nfld n (f.eb + f.mb) 1 = 1)
  let x := nfld n f.mb f.eb
  let m := nfld n 0 f.mb
  if x = 0 then .fin s m f.low else .fin s (2 ^ f.mb + m) ((x : Int) - 1 + f.low)

/-- Unit in the last place of the format at a magnitude. -/
def FpFmt.ulp (f : FpFmt) (m : Nat) (e : Int) : Int := max f.low (flog m e - f.mb)

/-- The code (without sign) of a magnitude given as `q` units of `2^lsb`, `lsb` its unit in the last place. -/
def FpFmt.code (f : FpFmt) (q : Nat) (lsb : Int) : Nat :=
  if q < 2 ^ f.mb then q
  else
    let x := (lsb - f.low).toNat + 1
    (x - 1) * 2 ^ f.mb + q

/-- IEEE 754 binary32, binary16, BF16, and the small formats of 08 R278. -/
def f32 : FpFmt := ⟨8, 23, 127⟩
/-- FP16. -/
def f16 : FpFmt := ⟨5, 10, 15⟩
/-- BF16. -/
def bf16 : FpFmt := ⟨8, 7, 127⟩
/-- FP8 E4M3. -/
def e4m3 : FpFmt := ⟨4, 3, 7⟩
/-- FP8 E5M2. -/
def e5m2 : FpFmt := ⟨5, 2, 15⟩
/-- E2M1, the element of MXFP4. -/
def e2m1 : FpFmt := ⟨2, 1, 1⟩

/-- Value of a code of an IEEE format: the highest exponent field holds infinities and NaNs. -/
def FpFmt.ieee (f : FpFmt) (n : Nat) : Fp :=
  if nfld n f.mb f.eb = 2 ^ f.eb - 1 then
    (if nfld n 0 f.mb = 0 then .inf (decide (nfld n (f.eb + f.mb) 1 = 1)) else .nan (decide (nfld n (f.eb + f.mb) 1 = 1)))
  else f.value n

/-- Value of an FP32 word. -/
def fp (w : Word) : Fp := f32.ieee w.toNat

/-- Value of an element of a KV format (08 R278): code 1 E4M3, 2 E5M2, 3 MXFP8, 4 MXFP4, 5 FP16, 6 BF16. -/
def elemValue (fmt n : Nat) : Fp :=
  if fmt = 1 ∨ fmt = 3 then (if n % 128 = 127 then .nan (decide (nfld n 7 1 = 1)) else e4m3.value n)
  else if fmt = 2 then e5m2.ieee n
  else if fmt = 4 then e2m1.value n
  else if fmt = 5 then f16.ieee n
  else bf16.ieee n

/-! ### FP32 results (08 R282 to R285) -/

/-- The NaN that the array produces (08 R285). -/
def nan32 : Word := 0x7FC00000

/-- An infinity. -/
def inf32 (neg : Bool) : Word := if neg then 0xFF800000 else 0x7F800000

/-- A magnitude code with its sign; beyond the finite range it is infinity. -/
def sign32 (neg : Bool) (c : Nat) : Word := w32 (b2n neg * 2 ^ 31 + min c 0x7F800000)

/-- A subnormal result is flushed to a zero of its sign when FTZ is 1 (08 R284). -/
def flush (ftz : Bool) (w : Word) : Word :=
  if ftz && decide (fld w 23 8 = 0) then w &&& 0x80000000 else w

/-- Rounds to FP32, to nearest with ties to even (08 R282). -/
def round32 (ftz : Bool) : Fp → Word
  | .nan _ => nan32
  | .inf s => inf32 s
  | .fin s m e =>
    if m = 0 then sign32 s 0
    else
      let u := f32.ulp m e
      flush ftz (sign32 s (f32.code (roundNE m e u) u))

/-- Exact product; infinity times zero is NaN (08 R285). -/
def Fp.mul : Fp → Fp → Fp
  | .nan a, _ => .nan a
  | _, .nan b => .nan b
  | .inf a, .inf b => .inf (a != b)
  | .inf a, .fin b m _ => if m = 0 then .nan false else .inf (a != b)
  | .fin a m _, .inf b => if m = 0 then .nan false else .inf (a != b)
  | .fin a m e, .fin b n f => .fin (a != b) (m * n) (e + f)

/-- The value times a power of two. -/
def Fp.scale (x : Fp) (k : Int) : Fp :=
  match x with
  | .fin s m e => .fin s m (e + k)
  | x => x

/-- The least exponent among finite values. -/
def minExp : List Fp → Int → Int
  | [], e => e
  | .fin _ _ f :: r, e => minExp r (min e f)
  | _ :: r, e => minExp r e

/-- Signed integer of a finite value in units of `2^e`. -/
def Fp.units (x : Fp) (e : Int) : Int :=
  match x with
  | .fin s m f => if s then -((m * 2 ^ (f - e).toNat : Nat) : Int) else ((m * 2 ^ (f - e).toNat : Nat) : Int)
  | _ => 0

/-- A negative zero. -/
def Fp.negZero (x : Fp) : Bool :=
  match x with
  | .fin true 0 _ => true
  | _ => false

/-- Exact sum (08 R282, R285): a zero sum is +0, or -0 when every term is -0. -/
def fpSum (xs : List Fp) : Fp :=
  if xs.any Fp.isNan then .nan false
  else
    let pi := xs.any (fun x => decide (x = .inf false))
    let ni := xs.any (fun x => decide (x = .inf true))
    if pi && ni then .nan false else if pi then .inf false else if ni then .inf true
    else
      let e := minExp xs 0
      let n : Int := (xs.map (fun x => x.units e)).sum
      if n = 0 then .fin (xs.all Fp.negZero) 0 0 else .fin (decide (n < 0)) n.natAbs e

/-- Largest product exponent of a group: floor of log2, over its nonzero finite products. -/
def topExp : List Fp → Option Int
  | [] => none
  | .fin _ m e :: r =>
    if m = 0 then topExp r
    else match topExp r with
      | none => some (flog m e)
      | some t => some (max t (flog m e))
  | _ :: r => topExp r

/-- The 48 bits below the largest product exponent are kept (08 R283). -/
def keep48 (xs : List Fp) : List Fp :=
  match topExp xs with
  | none => xs
  | some t => xs.map (fun x => match x with
    | .fin s m e => .fin s (roundDown m e (t - 48)) (t - 48)
    | x => x)

/-! ### The vector unit (08 R286) -/

/-- FP32 addition, correctly rounded. A NaN result of the vector unit is a quiet NaN whose other bits the spec
leaves open: the array's NaN with free bits. -/
def vecNan (op : Nat) (a b c : Word) : Word := nan32 ||| (Config.nanBits op a b c &&& 0x803FFFFF)

/-- Rounds a vector result. -/
def vround (ftz : Bool) (op : Nat) (a b c : Word) (x : Fp) : Word :=
  match x with
  | .nan _ => vecNan op a b c
  | x => round32 ftz x

/-- Addition. -/
def fadd (ftz : Bool) (a b : Word) : Word := vround ftz 0 a b 0 (fpSum [fp a, fp b])

/-- Sign flip. -/
def fneg (a : Word) : Word := a ^^^ 0x80000000

/-- Subtraction. -/
def fsub (ftz : Bool) (a b : Word) : Word := vround ftz 1 a b 0 (fpSum [fp a, fp (fneg b)])

/-- Multiplication. -/
def fmul (ftz : Bool) (a b : Word) : Word := vround ftz 2 a b 0 ((fp a).mul (fp b))

/-- Fused multiply-add `a * b + c` with one rounding. -/
def fma (ftz : Bool) (a b c : Word) : Word := vround ftz 3 a b c (fpSum [(fp a).mul (fp b), fp c])

/-- The value is at most another, both finite or infinite. -/
def Fp.le (x y : Fp) : Bool :=
  match x, y with
  | .nan _, _ => false
  | _, .nan _ => false
  | .inf true, _ => true
  | _, .inf false => true
  | .inf false, _ => decide (y = .inf false)
  | _, .inf true => decide (x = .inf true)
  | x, y => let e := minExp [x, y] 0; decide (x.units e ≤ y.units e)

/-- Maximum: a NaN gives NaN; max(-0, +0) = +0. A subnormal result is flushed when FTZ is 1 (08 R284). -/
def fmax (ftz : Bool) (a b : Word) : Word :=
  if (fp a).isNan || (fp b).isNan then vecNan 4 a b 0
  else if a = 0x80000000 ∧ b = 0 then b
  else if b = 0x80000000 ∧ a = 0 then a
  else flush ftz (if (fp a).le (fp b) then b else a)

/-- Minimum: a NaN gives NaN; min(-0, +0) = -0. -/
def fmin (ftz : Bool) (a b : Word) : Word :=
  if (fp a).isNan || (fp b).isNan then vecNan 7 a b 0
  else if a = 0x80000000 ∧ b = 0 then a
  else if b = 0x80000000 ∧ a = 0 then b
  else flush ftz (if (fp a).le (fp b) then a else b)

/-- The code within `k` units in the last place of an exact magnitude whose FP32 floor is the code `f`: one of the
codes that the bound allows, none below 0; which one, `n` says. `exact` says that the floor is the magnitude itself. -/
def withinOf (n k f : Nat) (exact : Bool) : Nat :=
  let lo := if exact then f - k else f + 1 - k
  lo + n % (f + k + 1 - lo)

/-- The choice of an operation on a word is open. -/
def within (op k f : Nat) (exact : Bool) (a : Word) : Nat := withinOf (Config.roundingChoice op a) k f exact

/-- Integer square root, bit by bit on fuel. -/
def isqrtGo : Nat → Nat → Nat → Nat
  | 0, _, r => r
  | k + 1, n, r => let r' := r + 2 ^ k; isqrtGo k n (if r' * r' ≤ n then r' else r)

/-- Bits of the fixed-point fractions below. -/
def fxBits : Nat := 160

/-- 2^x for a fraction x given by its bits, most significant first: fixed point with `fxBits` fraction bits. `root`
is the current 2^(2^-i). -/
def pow2Go : Nat → Nat → Nat → Nat → Nat → Nat
  | 0, _, _, _, acc => acc
  | n + 1, frac, den, root, acc =>
    let root := isqrtGo (fxBits + 1) (root * 2 ^ fxBits) 0
    let frac := 2 * frac
    if den ≤ frac then pow2Go n (frac - den) den root (acc * root / 2 ^ fxBits)
    else pow2Go n frac den root acc

/-- exp2 within `ulps`, and without error at 0 where `one` says so; the special cases of 08 R286. -/
def exp2In (ulps : Nat) (one ftz : Bool) (a : Word) : Word :=
  match fp a with
  | .nan _ => vecNan 5 a 0 0
  | .inf true => 0
  | .inf false => 0x7F800000
  | .fin s m e =>
    let den : Nat := 2 ^ (-e).toNat
    let num : Int := ((m * 2 ^ e.toNat : Nat) : Int)
    let num := if s then -num else num
    let k := num.fdiv den
    let frac := (num - k * den).toNat
    if one ∧ m = 0 then 0x3F800000
    else if num < -149 * den then 0
    else if 128 * (den : Int) ≤ num then 0x7F800000
    else
      let v := pow2Go 150 frac den (2 * 2 ^ fxBits) (2 ^ fxBits)
      let e' := k - (fxBits : Int)
      let u := f32.ulp v e'
      flush ftz (sign32 false (within 5 ulps (f32.code (roundDown v e' u) u) (decide (frac = 0)) a))

/-- exp2 (08 R286): within 2 ulp. -/
def exp2w (ftz : Bool) (a : Word) : Word := exp2In 2 false ftz a

/-- exp2 of a combine step: exp2(0) is 1, and else within 1 ulp, so that the step keeps the bound of 09 R323 (DEDUCED, log 194). -/
def exp2c (ftz : Bool) (a : Word) : Word := exp2In 1 true ftz a

/-- Reciprocal (08 R286): within 1 ulp. -/
def recipw (ftz : Bool) (a : Word) : Word :=
  match fp a with
  | .nan _ => vecNan 6 a 0 0
  | .inf s => sign32 s 0
  | .fin s m e =>
    if m = 0 then inf32 s
    else
      let q := 2 ^ 128 / m
      let e' := -128 - e
      let u := f32.ulp q e'
      let exact := decide (2 ^ 128 % m = 0) && decide (roundDown q e' u * 2 ^ (u - e').toNat = q)
      flush ftz (sign32 s (within 6 1 (f32.code (roundDown q e' u) u) exact a))

/-- Reciprocal square root (08 R286): within 1 ulp. -/
def rsqrtw (ftz : Bool) (a : Word) : Word :=
  match fp a with
  | .nan _ => vecNan 8 a 0 0
  | .inf s => if s then vecNan 8 a 0 0 else 0
  | .fin s m e =>
    if m = 0 then inf32 s
    else if s then vecNan 8 a 0 0
    else
      let h : Int := if e % 2 = 0 then e else e - 1
      let n := if e % 2 = 0 then m else 2 * m
      let q := isqrtGo 200 (2 ^ 300 / n) 0
      let e' := -150 - h / 2
      let u := f32.ulp q e'
      let exact := decide (q * q * n = 2 ^ 300) && decide (roundDown q e' u * 2 ^ (u - e').toNat = q)
      flush ftz (sign32 false (within 8 1 (f32.code (roundDown q e' u) u) exact a))

/-! ### Products and accumulation (08 R281 to R285) -/

/-- Pieces of `k` elements; recursion on the count. -/
def chunks {α : Type} (k : Nat) : Nat → List α → List (List α)
  | 0, _ => []
  | n + 1, l => if l = [] then [] else l.take k :: chunks k n (l.drop k)

/-- One reduction group: products of elements, with the sum of the two block scales less 254. NaN where a scale byte
is 0xFF (08 R285). -/
def groupSum (wide : Bool) (xs ys : List Fp) (sa sb : Nat) : Fp :=
  if sa = 255 ∨ sb = 255 then .nan false
  else
    let ps := xs.zipWith Fp.mul ys
    (fpSum (if wide then keep48 ps else ps)).scale ((sa : Int) + (sb : Int) - 254)

/-- Accumulation of groups from -0, each addition rounded (08 R282). -/
def accGroups (ftz : Bool) (acc : Word) : List Fp → Word
  | [] => acc
  | g :: r => accGroups ftz (round32 ftz (fpSum [fp acc, fp (round32 ftz g)])) r

/-- An operand of a reduction: its elements, and its block scales (none: 127). -/
structure Operand where
  fmt : Nat
  elems : List Fp
  scales : List Nat
  deriving DecidableEq, Repr

/-- FP16 or BF16. -/
def isWide (fmt : Nat) : Bool := decide (fmt = 5 ∨ fmt = 6)

/-- Scale byte of the block that holds element `i`. -/
def Operand.scale (x : Operand) (i : Nat) : Nat := if isMx x.fmt then x.scales.getD (i / 32) 127 else 127
where
  /-- The format carries E8M0 scales. -/
  isMx (fmt : Nat) : Bool := decide (fmt = 3 ∨ fmt = 4)

/-- The groups of a reduction in order (08 R281). -/
def groups (a b : Operand) : List Fp :=
  let wide := isWide a.fmt || isWide b.fmt
  let g := if wide then 8 else 32
  let n := a.elems.length
  let xs := chunks g n a.elems
  let ys := chunks g n b.elems
  (xs.zip ys).zipIdx.map (fun e => groupSum wide e.1.1 e.1.2 (a.scale (g * e.2)) (b.scale (g * e.2)))

/-- A reduction on a full tile. -/
def dot (ftz : Bool) (a b : Operand) : Word := accGroups ftz 0x80000000 (groups a b)

/-- A reduction whose groups are divided over `count` quarters, `size` consecutive groups each; their sums are added
in quarter order by the vector unit (08 R290). -/
def dotParts (ftz : Bool) (size count : Nat) (a b : Operand) : Word :=
  match (chunks size count (groups a b)).map (accGroups ftz 0x80000000) with
  | [] => 0x80000000
  | p :: r => r.foldl (fadd ftz) p

/-! ### Conversion to stored formats (08 R287, R288) -/

/-- Magnitude code of a finite value in a small format, and whether it lies beyond the largest finite. -/
def smallCode (f : FpFmt) (m : Nat) (e : Int) (top : Nat) : Nat × Bool :=
  if m = 0 then (0, false)
  else
    let u := f.ulp m e
    let c := f.code (roundNE m e u) u
    (c, decide (top < c))

/-- One FP32 value converted to an element of a KV format without block scales (08 R287). -/
def toElem (satE4 satE5 : Bool) (fmt : Nat) (x : Fp) : Nat :=
  let sgn := fun (s : Bool) (f : FpFmt) => b2n s * 2 ^ (f.eb + f.mb)
  if fmt = 1 then
    match x with
    | .nan s => sgn s e4m3 + 0x7F
    | .inf s => sgn s e4m3 + (if satE4 then 0x7E else 0x7F)
    | .fin s m e => let (c, o) := smallCode e4m3 m e 0x7E
                    sgn s e4m3 + (if o then (if satE4 then 0x7E else 0x7F) else c)
  else if fmt = 2 then
    match x with
    | .nan _ => 0x7F
    | .inf s => sgn s e5m2 + 0x7C
    | .fin s m e => let (c, o) := smallCode e5m2 m e 0x7B
                    sgn s e5m2 + (if o then (if satE5 then 0x7B else 0x7C) else c)
  else if fmt = 5 then
    match x with
    | .nan _ => 0x7E00
    | .inf s => sgn s f16 + 0x7C00
    | .fin s m e => let (c, o) := smallCode f16 m e 0x7BFF
                    sgn s f16 + (if o then 0x7C00 else c)
  else
    match x with
    | .nan _ => 0x7FC0
    | .inf s => sgn s bf16 + 0x7F80
    | .fin s m e => let (c, o) := smallCode bf16 m e 0x7F7F
                    sgn s bf16 + (if o then 0x7F80 else c)

/-- Largest floor(log2) of a block's finite nonzero values. -/
def blockTop (xs : List Fp) : Option Int := topExp xs

/-- A block of up to 32 values converted to MXFP8 (fmt 3) or MXFP4 (fmt 4): scale byte and element codes (08 R288). -/
def toMxBlock (fmt : Nat) (xs : List Fp) : Nat × List Nat :=
  let bad := xs.any (fun x => match x with
    | .fin _ _ _ => false
    | _ => true)
  if bad then (0xFF, xs.map (fun _ => 0))
  else match blockTop xs with
    | none => (0, xs.map (fun _ => 0))
    | some t =>
      let emax : Int := if fmt = 3 then 8 else 2
      let k : Int := max (-127) (min 127 (t - emax))
      let f := if fmt = 3 then e4m3 else e2m1
      let top := if fmt = 3 then 0x7E else 7
      ((k + 127).toNat, xs.map (fun x => match x with
        | .fin s m e => b2n s * 2 ^ (f.eb + f.mb) + min top (smallCode f m (e - k) top).1
        | _ => 0))

/-- Values converted to a KV format along their blocks: element codes and scale bytes (08 R287, R288). -/
def convert (satE4 satE5 : Bool) (fmt : Nat) (xs : List Fp) : List Nat × List Nat :=
  if fmt = 3 ∨ fmt = 4 then
    let bs := (chunks 32 xs.length xs).map (toMxBlock fmt)
    (bs.flatMap (fun b => b.2), bs.map (fun b => b.1))
  else (xs.map (toElem satE4 satE5 fmt), [])

end Sys2Proof.Machine
end

