-- ==== Sys2Proof/Machine/Rope.lean ====
section
/-! DEFINITION. Sine and cosine of the angle of a rotated key pair (09 R335): computed in fixed point far beyond the 64 bits
that the rule asks for, and returned within its 2 ulp. -/

namespace Sys2Proof.Machine

/-- Fraction bits of the fixed point. -/
def ropeBits : Nat := 512

/-- Bits of log2 of a mantissa `x` in [1, 2), most significant first: its square is 2 or more for a 1. -/
def log2Go : Nat → Nat → Nat → Nat
  | 0, _, acc => acc
  | n + 1, x, acc =>
    let y := x * x / 2 ^ ropeBits
    if 2 ^ (ropeBits + 1) ≤ y then log2Go n (y / 2) (2 * acc + 1) else log2Go n y (2 * acc)

/-- log2 of m * 2^e, times 2^240. -/
def log2Fixed (m : Nat) (e : Int) : Int :=
  flog m e * 2 ^ 240 + (log2Go 240 (m * 2 ^ ropeBits / 2 ^ Nat.log2 m) 0 : Nat)

/-- The product of the roots 2^(2^-i) that the bits of a fraction name; `root` is the one before. -/
def rootsGo : Nat → Nat → Nat → Nat → Nat
  | 0, _, _, acc => acc
  | n + 1, frac, root, acc =>
    let root := isqrtGo (ropeBits + 1) (root * 2 ^ ropeBits) 0
    if 2 ^ 240 ≤ 2 * frac then rootsGo n (2 * frac - 2 ^ 240) root (acc * root / 2 ^ ropeBits)
    else rootsGo n (2 * frac) root acc

/-- 2^y in fixed point, for y times 2^240. -/
def pow2Fixed (y : Int) : Nat :=
  let k := y.fdiv (2 ^ 240)
  let v := rootsGo 240 (y - k * 2 ^ 240).toNat (2 * 2 ^ ropeBits) (2 ^ ropeBits)
  if 0 ≤ k then v * 2 ^ k.toNat else v / 2 ^ (-k).toNat

/-- arctan of 1/n in fixed point: the alternating series from term `k` on. -/
def atanGo (n : Nat) : Nat → Nat → Nat → Int
  | 0, _, _ => 0
  | f + 1, k, p => (p / (2 * k + 1) : Nat) - atanGo n f (k + 1) (p / (n * n))

/-- 2π in fixed point, by Machin's formula. -/
def twoPi : Int :=
  2 * (16 * atanGo 5 130 0 (2 ^ ropeBits / 5) - 4 * atanGo 239 40 0 (2 ^ ropeBits / 239))

/-- Cosine and sine of `x` by their series: `t` is x^k / k!. -/
def cosSinGo (x : Int) : Nat → Nat → Int → Int × Int
  | 0, _, _ => (0, 0)
  | f + 1, k, t =>
    let (c, s) := cosSinGo x f (k + 1) ((t * x).fdiv (2 ^ ropeBits * (k + 1)))
    match k % 4 with
    | 0 => (c + t, s)
    | 1 => (c, s + t)
    | 2 => (c - t, s)
    | _ => (c, s - t)

/-- The angle DELTA * ROPE_THETA^(-2i / ROPE_DIMS) modulo 2π in fixed point; none where the power is no real number, which
the spec does not cover. -/
def ropeAngle (delta theta : Word) (dims i : Nat) : Option Int :=
  match fp theta with
  | .fin false m e =>
    if m = 0 ∨ dims = 0 then none
    else
      let y := (-(2 * (i : Int) * log2Fixed m e)).fdiv dims
      some ((delta.toInt * (pow2Fixed y : Nat)) % twoPi)
  | _ => none

/-- The FP32 word within 2 ulp of a fixed-point value that `n` chooses; the sign of one near zero is open. -/
def ropeWord (n : Nat) (v : Int) : Word :=
  let m := v.natAbs
  let u := f32.ulp m (-(ropeBits : Int))
  let c := if m = 0 then 0 else f32.code (roundDown m (-(ropeBits : Int)) u) u
  let exact := decide (m = 0 ∨ m = 2 ^ ropeBits)
  sign32 (if m = 0 then decide (n / 8 % 2 = 1) else decide (v < 0)) (withinOf n 2 c exact)

/-- Cosine of a pair's angle (09 R335). -/
def ropeCos (delta theta : Word) (dims i : Nat) : Word :=
  match ropeAngle delta theta dims i with
  | some x => ropeWord (Config.ropeChoice 0 delta theta dims i) (cosSinGo x 200 0 (2 ^ ropeBits)).1
  | none => Config.ropeFree 0 delta theta dims i

/-- Sine of a pair's angle (09 R335). -/
def ropeSin (delta theta : Word) (dims i : Nat) : Word :=
  match ropeAngle delta theta dims i with
  | some x => ropeWord (Config.ropeChoice 1 delta theta dims i) (cosSinGo x 200 0 (2 ^ ropeBits)).2
  | none => Config.ropeFree 1 delta theta dims i

end Sys2Proof.Machine
end

