-- ==== Sys2Proof/Machine/Attention.lean ====
section
/-! DEFINITION. The arithmetic of near-page attention: page layout and queries (09 R301, R302, R309), one page's
partial results (R316, R317), combination (R322), scores and selection (R331 to R333), rotation, conversion and
landmarks (R335 to R337). -/

namespace Sys2Proof.Machine

/-! ### Elements and pages -/

/-- Little-endian 16-bit elements. -/
def halves : List Byte → List Nat
  | a :: b :: r => (a.toNat + 256 * b.toNat) :: halves r
  | _ => []

/-- Element codes of a byte string (09 R302): an MXFP4 byte holds two, the lower-indexed one in bits 3:0. -/
def elemCodes (fmt : Nat) (bs : List Byte) : List Nat :=
  if fmt = 4 then bs.flatMap (fun b => [b.toNat % 16, b.toNat / 16])
  else if isWide fmt then halves bs
  else bs.map (fun b => b.toNat)

/-- Pairs of MXFP4 codes as bytes. -/
def nibbles : List Nat → List Byte
  | a :: b :: r => BitVec.ofNat 8 (a + 16 * b) :: nibbles r
  | [a] => [BitVec.ofNat 8 a]
  | [] => []

/-- The byte string of element codes. -/
def codeBytes (fmt : Nat) (cs : List Nat) : List Byte :=
  if fmt = 4 then nibbles cs
  else if isWide fmt then cs.flatMap (fun c => leBytes 2 c)
  else cs.map (fun c => BitVec.ofNat 8 c)

/-- Bytes of a key or value region (09 R301). -/
def Model.region (m : Model) (fmt : Nat) : Nat := m.heads * m.blockLen * m.headDim * elemBits fmt / 8

/-- What reads a page: offset and length. -/
abbrev PageRd := Nat → Nat → List Byte

/-- Codes and scales of a key: head, token (09 R301). -/
def keyRaw (m : Model) (rd : PageRd) (h j : Nat) : List Nat × List Nat :=
  let d := m.headDim
  let k := h * m.blockLen + j
  (elemCodes m.fmt (rd (k * d * elemBits m.fmt / 8) (d * elemBits m.fmt / 8)),
   if isMx m.fmt then (rd (2 * m.region m.fmt + k * d / 32) (d / 32)).map (fun b => b.toNat) else [])

/-- Codes and scales of a value row: head, dim (09 R301). -/
def valRaw (m : Model) (rd : PageRd) (h c : Nat) : List Nat × List Nat :=
  let n := m.blockLen
  let k := h * m.headDim + c
  (elemCodes m.fmt (rd (m.region m.fmt + k * n * elemBits m.fmt / 8) (n * elemBits m.fmt / 8)),
   if isMx m.fmt then
     (rd (2 * m.region m.fmt + m.heads * n * m.headDim / 32 + k * n / 32) (n / 32)).map (fun b => b.toNat)
   else [])

/-- The operand of codes and scales. -/
def operand (fmt : Nat) (x : List Nat × List Nat) : Operand :=
  { fmt := fmt, elems := x.1.map (elemValue fmt), scales := x.2 }

/-- Exact values of an operand with its scales applied; a scale of 0xFF is NaN (08 R278), whose sign the spec does not
give: a free bit. -/
def Operand.values (x : Operand) : List Fp :=
  x.elems.zipIdx.map (fun e =>
    let sc := x.scale e.2
    if sc = 255 then .nan (bit (Config.nanBits 9 (w32 e.2) 0 0) 31) else e.1.scale ((sc : Int) - 127))

/-- QSTRIDE (09 R309): heads, dim, format. -/
def qStride (qh d fmt : Nat) : Nat :=
  roundUp (qh * d * elemBits fmt / 8 + (if fmt = 3 then qh * d / 32 else 0)) 64

/-- Query head `g` of a request's query bytes (09 R309). -/
def queryOperand (fmt qh d g : Nat) (bs : List Byte) : Operand :=
  let eb := d * elemBits fmt / 8
  operand fmt (elemCodes fmt ((bs.drop (g * eb)).take eb),
    if fmt = 3 then ((bs.drop (qh * eb + g * d / 32)).take (d / 32)).map (fun b => b.toNat) else [])

/-! ### Partial results -/

/-- BRN_NUM.FTZ, SAT_E4M3 and SAT_E5M2 (08 R300). -/
def numFtz (num : Word) : Bool := bit num 2
/-- SAT_E4M3. -/
def numE4 (num : Word) : Bool := bit num 0
/-- SAT_E5M2. -/
def numE5 (num : Word) : Bool := bit num 1

/-- Minus infinity. -/
def negInf : Word := 0xFF800000

/-- A record that is neutral in the combine rule (09 R320). -/
def Rec.neutral (d st : Nat) : Rec := { m := negInf, l := 0, o := List.replicate d 0, seen := 0, st := st }

/-- A plus or minus zero. -/
def isZero (w : Word) : Bool := decide (w &&& 0x7FFFFFFF = 0)

/-- FP8, MXFP8 or MXFP4. -/
def isNarrowFmt (fmt : Nat) : Bool := decide (1 ≤ fmt ∧ fmt ≤ 4)

/-- A tile of so many rows runs in narrow mode (08 R290). -/
def narrowTile (m : Model) (qfmt rows : Nat) : Bool :=
  decide (rows ≤ 16) && isNarrowFmt qfmt && isNarrowFmt m.fmt && decide (m.headDim = 128 ∨ m.headDim = 256)
    && decide (m.blockLen % 64 = 0)

/-- Probabilities in the format in which they enter o (09 R316). -/
def probs (num : Word) (fmt : Nat) (ps : List Word) : Operand :=
  let f := if isWide fmt then fmt else 3
  operand f (convert (numE4 num) (numE5 num) f (ps.map fp))

/-- One query row against one page (09 R315, R316): the first `u` positions are unmasked. -/
def attendRow (m : Model) (rd : PageRd) (num scale : Word) (narrow : Bool) (q : Operand) (h u : Nat) : Rec :=
  let ftz := numFtz num
  let d := m.headDim
  if u = 0 then Rec.neutral d 0
  else
    let qk := fun (j : Nat) =>
      let k := operand m.fmt (keyRaw m rd h j)
      if narrow then dotParts ftz (d / 128) 4 q k else dot ftz q k
    let xs := (List.range u).map (fun j => fmul ftz scale (qk j))
    let mx := xs.tail.foldl (fmax ftz) (xs.headD negInf)
    let ps := xs.map (fun x => exp2w ftz (fsub ftz x mx))
    let p := probs num m.fmt ps
    let parts := max 1 (4 / (d / 64))
    let pv := fun (c : Nat) =>
      let v := operand m.fmt (valRaw m rd h c)
      let v := { v with elems := v.elems.take u }
      if narrow then dotParts ftz (m.blockLen / 32 / parts) parts p v else dot ftz p v
    { m := mx, l := ps.foldl (fadd ftz) 0, o := (List.range d).map pv, seen := u, st := 0 }

/-- combine (09 R322, R323). -/
def combineRec (ftz : Bool) (a b : Rec) : Rec :=
  let st := if a.st = 0 then b.st else a.st
  let r : Rec :=
    if isZero a.l then b
    else if isZero b.l then a
    else
      let mx := fmax ftz a.m b.m
      let fa := exp2c ftz (fsub ftz a.m mx)
      let fb := exp2c ftz (fsub ftz b.m mx)
      let mix := fun (x y : Word) => fma ftz x fa (fmul ftz y fb)
      { m := mx, l := mix a.l b.l, o := a.o.zipWith mix b.o, seen := 0, st := 0 }
  { r with seen := a.seen + b.seen, st := st }

/-- finalize (09 R322). -/
def finalizeRec (ftz : Bool) (r : Rec) : Rec :=
  { r with o := r.o.map (fun x => if isZero r.l then 0 else fmul ftz x (recipw ftz r.l)) }

/-- Combination of a list in its order. -/
def combineAll (ftz : Bool) : List Rec → Option Rec
  | [] => none
  | a :: r => some (r.foldl (combineRec ftz) a)

/-- A record has a NaN in m or l (09 R322). -/
def Rec.isNan (r : Rec) : Bool := (fp r.m).isNan || (fp r.l).isNan

/-- Bytes of a record (09 R319). -/
def Rec.bytes (r : Rec) (qhead reqId : Nat) : List Byte :=
  bytesOf ([r.m, r.l, w32 (qhead * 2 ^ 16 + reqId), w32 r.st, w32 r.seen] ++ List.replicate 11 0 ++ r.o)

/-- The record that 64 + 4 D bytes hold. -/
def recOf (bs : List Byte) : Rec :=
  let ws := wordsOf bs
  { m := ws.getD 0 0, l := ws.getD 1 0, o := ws.drop 16, seen := wd ws 4, st := wd ws 3 % 256 }

/-! ### Scores and selection (09 R331 to R333) -/

/-- LM_BYTES (09 R331). -/
def lmBytes (d : Nat) : Nat := d / 2 + d / 32

/-- Landmark of an entry and head in a table. -/
def landmark (m : Model) (tab : List Byte) (i h : Nat) : Operand :=
  let b := (tab.drop ((i * m.heads + h) * lmBytes m.headDim)).take (lmBytes m.headDim)
  operand 4 (elemCodes 4 (b.take (m.headDim / 2)), (b.drop (m.headDim / 2)).map (fun x => x.toNat))

/-- A query head in MXFP4 (09 R332). -/
def sparseQuery (num : Word) (q : Operand) : Operand := operand 4 (convert (numE4 num) (numE5 num) 4 q.values)

/-- Score of a query head against a landmark (09 R332). -/
def scoreOf (num scale : Word) (q lm : Operand) : Word :=
  fmul (numFtz num) scale (dot (numFtz num) (sparseQuery num q) lm)

/-- Selected entries of a request (09 R333): forced ones, and of the rest the `k` best, the lower index first on a
tie, never one at minus infinity. -/
def selectEntries (n first last k : Nat) (score : Nat → Word) : List Nat :=
  let forced := fun (i : Nat) => decide (i < first ∨ n ≤ i + last)
  let s := fun (i : Nat) => if (fp (score i)).isNan then negInf else score i
  let rest := (List.range n).filter (fun i => !forced i && decide (fp (s i) ≠ .inf true))
  let best := (isort (fun a b => (fp (s b)).le (fp (s a))) rest).take k
  (List.range n).filter (fun i => forced i || best.contains i)

/-! ### Rotation, conversion, landmarks (09 R335 to R337) -/

/-- FP32 word of an exact value. -/
def toWord (x : Fp) : Word := round32 false x

/-- `a * c - b * s` in FP32 (09 R335): where it rounds is open. -/
def ropeSub (ftz : Bool) (a c b s : Word) : Word :=
  if Config.ropeFused % 3 = 0 then fsub ftz (fmul ftz a c) (fmul ftz b s)
  else if Config.ropeFused % 3 = 1 then fma ftz a c (fneg (fmul ftz b s))
  else fma ftz (fneg b) s (fmul ftz a c)

/-- The rotated values of a key (09 R335): `x` its FP32 values. -/
def rotate (m : Model) (ftz split : Bool) (delta : Word) (x : List Word) : List Word :=
  let half := m.ropeDims / 2
  let at_ := fun (i : Nat) => x.getD i 0
  (List.range m.headDim).map (fun d =>
    if m.ropeDims ≤ d then at_ d
    else
      let i := if split then d % half else d / 2
      let lead : Bool := if split then decide (d < half) else decide (d % 2 = 0)
      let a := at_ (if split then i else 2 * i)
      let b := at_ (if split then i + half else 2 * i + 1)
      let c := ropeCos delta m.theta m.ropeDims i
      let s := ropeSin delta m.theta m.ropeDims i
      if lead then ropeSub ftz a c b s else ropeSub ftz a s (fneg b) c)

/-- Codes and scales of a key after rotation (09 R335): rotated dims are converted, or every scale block that holds
one is quantized again. -/
def rotKey (m : Model) (num : Word) (split : Bool) (delta : Word) (raw : List Nat × List Nat) : List Nat × List Nat :=
  let o := operand m.fmt raw
  let vals := o.values
  let rot := rotate m (numFtz num) split delta (vals.map toWord)
  let now := fun (d : Nat) => if d < m.ropeDims then fp (rot.getD d 0) else vals.getD d (.nan false)
  if isMx m.fmt then
    let bs := (List.range (m.headDim / 32)).map (fun k =>
      if 32 * k < m.ropeDims then toMxBlock m.fmt ((List.range 32).map (fun e => now (32 * k + e)))
      else (raw.2.getD k 0, (raw.1.drop (32 * k)).take 32))
    (bs.flatMap (fun b => b.2), bs.map (fun b => b.1))
  else
    (raw.1.zipIdx.map (fun e =>
      if e.2 < m.ropeDims then toElem (numE4 num) (numE5 num) m.fmt (now e.2) else e.1), [])

/-- Heads and tokens in key order. -/
def Model.keyIx (m : Model) : List (Nat × Nat) :=
  (List.range m.heads).flatMap (fun h => (List.range m.blockLen).map (fun j => (h, j)))

/-- Heads and dims in value order. -/
def Model.valIx (m : Model) : List (Nat × Nat) :=
  (List.range m.heads).flatMap (fun h => (List.range m.headDim).map (fun c => (h, c)))

/-- A page after REROTATE (09 R335): keys and key scales new, all other bytes as they were. -/
def rotPage (m : Model) (rd : PageRd) (num : Word) (split : Bool) (delta : Word) (pageSize : Nat) : List Byte :=
  let ks := m.keyIx.map (fun e => rotKey m num split delta (keyRaw m rd e.1 e.2))
  let reg := m.region m.fmt
  let keys := codeBytes m.fmt (ks.flatMap (fun k => k.1))
  let scales := (ks.flatMap (fun k => k.2)).map (fun x => BitVec.ofNat 8 x)
  keys ++ rd reg reg ++ scales ++ rd (2 * reg + scales.length) (pageSize - 2 * reg - scales.length)

/-- A page after REPACK CONVERT (09 R336) in format `fmt`. -/
def convertPage (m : Model) (rd : PageRd) (num : Word) (fmt pageSize : Nat) : List Byte :=
  let one := fun (raw : List Nat × List Nat) => convert (numE4 num) (numE5 num) fmt (operand m.fmt raw).values
  let ks := m.keyIx.map (fun e => one (keyRaw m rd e.1 e.2))
  let vs := m.valIx.map (fun e => one (valRaw m rd e.1 e.2))
  let body := codeBytes fmt (ks.flatMap (fun k => k.1)) ++ codeBytes fmt (vs.flatMap (fun k => k.1))
    ++ ((ks ++ vs).flatMap (fun k => k.2)).map (fun x => BitVec.ofNat 8 x)
  body ++ List.replicate (pageSize - body.length) 0

/-- FP32 word of a count. -/
def natWord (n : Nat) : Word := round32 false (.fin false n 0)

/-- Landmarks of an entry's page (09 R337): for every head LM_BYTES bytes. -/
def pageLandmarks (m : Model) (rd : PageRd) (num : Word) (tokens : Nat) : List Byte :=
  let ftz := numFtz num
  (List.range m.heads).flatMap (fun h =>
    let rows := (List.range tokens).map (fun j => ((operand m.fmt (keyRaw m rd h j)).values).map toWord)
    let sum := match rows with
      | [] => List.replicate m.headDim 0
      | r :: rs => rs.foldl (fun a b => a.zipWith (fadd ftz) b) r
    let mean := sum.map (fun x => fmul ftz x (recipw ftz (natWord tokens)))
    let (cs, ss) := convert (numE4 num) (numE5 num) 4 (mean.map fp)
    codeBytes 4 cs ++ ss.map (fun x => BitVec.ofNat 8 x))

/-! ### Tile times (08 R289, R290; 09 R317) -/

/-- Multiply-accumulates per engine and cycle of a pair of formats (08 R289). -/
def pairRate (a b : Nat) : Nat := if isWide a || isWide b then 2048 else if a = 4 ∧ b = 4 then 8192 else 4096

/-- Engine cycles of an attention tile (08 R289, R290; 09 R317). -/
def attendCycles (m : Model) (qfmt rows : Nat) : Nat :=
  let macs := 64 * m.blockLen * m.headDim
  let qk := ceilDiv' macs (pairRate qfmt m.fmt)
  let pv := ceilDiv' macs (pairRate m.fmt m.fmt)
  let pv := if m.fmt = 4 then ceilDiv' macs 4096 else pv
  if narrowTile m qfmt rows then ceilDiv' qk 4 + 2 + (ceilDiv' pv 4 + 2) else qk + pv

/-- Engine cycles of a scoring tile of `n` landmarks. -/
def scoreCycles (m : Model) (n : Nat) : Nat := ceilDiv' (64 * n * m.headDim) 8192

end Sys2Proof.Machine
end

