-- ==== Sys2Proof/Machine/Accept.lean ====
section
/-! DEFINITION. What a command takes in the cycle of its acceptance, of the start of its record or of its enabling (12 R436; 09 R305):
the operands that are read once, the implicit proof (05 R188), the seal of a PUBLISH (05 R168), and whether the fabric
manager sent it (00 R16), and the revocation point of an EXTENT_REVOKE (11 R415). -/

namespace Sys2Proof.Machine

/-- Bytes of an operand in the space that word 5 of a parameter block names (09 R304); `sealed` says whether a reservation
sealed meanwhile will do. -/
def State.spaceRead (s : State) (l : Live) (space a n : Nat) (sealed : Bool) : Except Status (List Byte) :=
  if space < 2 then s.workRead l.tenant space a n
  else if space = 2 then
    match s.rsvRange l.tenant a n sealed with
    | some (i, page, off, ps) => .ok (s.linRead i ps page off n)
    | none => .error .badCommand
  else .error .badCommand

/-- A read as it is kept. -/
def fetchOf (r : Except Status (List Byte)) : Fetch :=
  match r with
  | .ok bs => .bytes bs
  | .error e => .failed e

/-- What was read. -/
def Fetch.result (f : Fetch) : Except Status (List Byte) :=
  match f with
  | .bytes bs => .ok bs
  | .failed e => .error e

/-- An opcode of the ATTEND class (02 R66). -/
def attendClass (op : Nat) : Bool := decide (0x0C ≤ op ∧ op ≤ 0x0F)

/-- The operands of an ATTEND-class command (09 R305): parameter block, request table (none for REROTATE and REPACK), entry
list. -/
def State.attendHeld (s : State) (l : Live) : Held :=
  match s.workRead l.tenant l.port (l.w64 4) 128 with
  | .error e => { blk := .failed e, reqs := .failed e, ents := .failed e }
  | .ok b =>
    let par := wordsOf b
    let space := fun (i : Nat) => fld (par.getD 5 0) (2 * i) 2
    let reqs : Fetch := if l.op = 0x0C ∨ l.op = 0x0D then
        fetchOf (s.spaceRead l (space 1) (wd64 par 8) (16 * fld (par.getD 6 0) 0 9) false)
      else .bytes []
    { blk := .bytes b, reqs := reqs, ents := fetchOf (s.spaceRead l (space 0) (wd64 par 2) (128 * fld (par.getD 4 0) 0 17) false) }

/-- The operands that a command reads at its acceptance or start: the entry list of a DELIVER (07 R233), those of an
ATTEND-class command. -/
def State.heldOf (s : State) (l : Live) : Option Held :=
  if l.compat then none
  else if attendClass l.op then some (s.attendHeld l)
  else if l.op = 0x0A then
    some { blk := fetchOf (s.opRead l (l.w64 10) (128 * fld (l.ws.getD 9 0) 16 7)), reqs := .bytes [], ents := .bytes [] }
  else none

/-- Word 0 of every record of a request table: its proofs (09 R309). -/
def reqProofs : Nat → List Byte → List Nat
  | 0, _ => []
  | n + 1, bs => ofLe (bs.take 4) :: reqProofs n (bs.drop 16)

/-- The proof words of a DELIVER or an ATTEND-class command, 0 for an implicit proof (07 R231; 09 R308, R309, R312). -/
def Live.proofs (l : Live) : List Nat :=
  match l.held with
  | none => []
  | some h =>
    if l.compat then []
    else if l.op = 0x0A then [l.w 8]
    else if l.op = 0x0C ∨ l.op = 0x0D then
      match h.reqs with
      | .bytes bs => reqProofs (bs.length / 16) bs
      | .failed _ => []
    else match h.blk with
      | .bytes bs => [wd (wordsOf bs) 6]
      | .failed _ => []

/-- The command reads through an implicit proof (05 R188; 00 R7; 07 R231; 09 R308, R312). -/
def Live.needsView (l : Live) : Bool :=
  if l.compat then decide (l.op = 0x01 ∨ l.op = 0x0A) else l.proofs.any (fun p => decide (p = 0))

/-- The proofs that a command names are tested when it starts, and the snapshots of those that are open are held from then on (02 R642; 05
R192; 09 R305, R338). -/
def State.holdNamed (s : State) (l : Live) : State × Live :=
  let named := ((l.proofs.filter (fun h => decide (h ≠ 0))).eraseDups).map (fun h =>
    (h, (s.proofOf l.tenant h).map (fun p => p.snapshot)))
  ((named.filterMap (fun e => e.2)).foldl (fun s snap => s.holdSnapshot l.id snap) s, { l with named := named })

/-- The implicit proof of a command is opened where it needs one; where none is to be had the command keeps the status
(05 R187, R188). -/
def State.openView (s : State) (l : Live) : State × Live :=
  if l.needsView && s.reached .psa then
    match s.openImplicit l.id l.tenant with
    | (s, .ok _) => (s, l)
    | (s, .error e) => (s, { l with noView := some e })
  else (s, l)

/-- A PUBLISH seals the unsealed reservation of its tenant that it names (05 R168). -/
def State.sealAt (s : State) (l : Live) : State :=
  if l.op = 0x05 ∧ l.compat = false ∧ s.reached .psa ∧ (s.openRsv l.tenant (l.w 4)).isSome then
    s.updPset (psIx (l.w 4)) (fun v => { v with rstate := .sealed l.id, lapseAt := none })
  else s

/-- The source of a command is a route of the fabric manager (00 R16; 11 R419). -/
def State.fmSource (s : State) (src : Source) : Bool :=
  match src with
  | .mctp => true
  | .queue p _ => s.fmRoute (.port p)
  | _ => false

/-- A command as it is accepted, with the operands it reads then; `pre` are operands read earlier (02 R55). -/
def State.newLive (s : State) (src : Source) (tenant : Nat) (compat : Bool) (ws : List Word) (tag : Nat) (pre : Option Held) : Live :=
  let l : Live := { id := s.que.nextId, src := src, tenant := tenant, compat := compat, ws := ws, tag := tag, at_ := s.clk,
                    phase := .accepted }
  { l with held := (match pre with
                    | some h => some h
                    | none => s.heldOf l), fm := s.fmSource src }

/-! ### The revocation point (11 R415 to R418) -/

/-- Records of a table (11 R421). -/
def tableSize (t : Nat) : Nat := [1024, 128, 1024, 256, 1024].getD t 0

/-- Host reads to a host extent's range that are outstanding: channel and descriptor (11 R417). -/
def State.hextReads (s : State) (r : List Word) : List (Nat × Nat) :=
  s.dma.ch.filterMap (fun e => match e.2.desc with
    | some d =>
      let (a, n) := dmaRange d.ws
      if dmaType d.ws = 0 ∧ d.flight ≠ [] ∧ d.tenant = rfld r 0 0 16 ∧ s.dmaPort e.1 = rfld r 0 16 1
          ∧ a < wd64 r 1 + wd64 r 3 ∧ wd64 r 1 < a + n then some (e.1, d.n) else none
    | none => none)

/-- A global LD that a revocation removes: it loses its reads and its writes. -/
def Revoke.removes (r : Revoke) (e : List Word) (g : Nat) : Bool := r.clearMask.testBit g && (rfld e 0 0 16).testBit g

/-- A revocation removes the writer. -/
def Revoke.noWriter (r : Revoke) (e : List Word) : Bool := r.clearWriter || r.removes e (rfld e 1 0 4)

/-- The status that an EXTENT_REVOKE fails with at its acceptance; none where it is carried out (00 R13, R16; 11 R418; 17 R605). -/
def State.revokeRefusal (s : State) (l : Live) : Option Status :=
  let kind := b2n (l.flag 0)
  let i := fld (l.ws.getD 4 0) 0 10
  let e := s.record (3 + kind) i
  if !l.fm then some .badCommand
  else if !s.reached .memory then some .notReady
  else if !(l.reservedOk 3 [0x3FF, 0xFFFF]) then some .badCommand
  else if tableSize (3 + kind) ≤ i ∨ (if kind = 0 then decide (rfld e 0 30 2 = 0) else !rbit e 0 31) then some .notFound
  else if s.ten.revs.any (fun r => decide (r.kind = kind ∧ r.index = i)) then some .conflict
  else none

/-- The revocation of an accepted EXTENT_REVOKE: what it removes and what must drain (11 R417). -/
def State.revokeOf (s : State) (l : Live) : Revoke :=
  let kind := b2n (l.flag 0)
  let i := fld (l.ws.getD 4 0) 0 10
  let e := s.record (3 + kind) i
  let r : Revoke := { id := l.id, kind := kind, index := i, clearMask := if kind = 0 then fld (l.ws.getD 5 0) 0 16 else 0,
                      clearWriter := kind = 0 ∧ l.flag 1, cxl := [], reads := if kind = 0 then [] else s.hextReads e }
  let hit := fun (p : Nat) (w : CxlWait) =>
    r.removes e (8 * p + w.ld) || (r.noWriter e && decide (rfld e 1 0 4 = 8 * p + w.ld))
  let waits : Nat → List (Nat × Nat) := fun p => ((s.port p).waits.filter (hit p)).map (fun w => (p, w.ld))
  { r with cxl := if kind = 0 then waits 0 ++ waits 1 else [] }

/-- The revocation point: an EXTENT_REVOKE makes its record REVOKING in the cycle of its acceptance, or settles the status that it
fails with (11 R415, R418). -/
def State.revokeAt (s : State) (l : Live) : State × Live :=
  if l.op ≠ 0x14 ∨ l.compat then (s, l)
  else match s.revokeRefusal l with
    | some e => (s, { l with settled := some e })
    | none =>
      let r := s.revokeOf l
      let e := s.record 3 r.index
      let s := if r.kind = 0 then s.setRecord 3 r.index ([(e.getD 0 0) &&& 0x3FFFFFFF ||| 0x80000000] ++ e.drop 1) else s
      ({ s with ten := { s.ten with revs := s.ten.revs ++ [r] } }, l)

/-- Acceptance, start or enabling of a command that is carried out: it takes its operands, its views, its revocation point and its
seal in that cycle. -/
def State.acceptRun (s : State) (src : Source) (tenant : Nat) (compat : Bool) (ws : List Word) (tag : Nat) (pre : Option Held) :
    State :=
  let (s, l) := s.openView (s.newLive src tenant compat ws tag pre)
  let (s, l) := s.holdNamed l
  let (s, l) := s.revokeAt l
  State.sealAt { s with que := { s.que with live := s.que.live ++ [l], nextId := s.que.nextId + 1 } } l

end Sys2Proof.Machine
end

