-- ==== Sys2Proof/Machine/Queues.lean ====
section
/-! DEFINITION. The queue engine (12 R430 to R452): doorbells and push, acceptance, completion room,
coalescing, enabling and draining, FENCE, STATS and the commands of compatibility queue sets. -/

namespace Sys2Proof.Machine

/-! ### Doorbells (12 R434, R435) -/

/-- A doorbell write that is ignored (12 R434). -/
def State.dbIgnored (s : State) (p : Nat) : State := s.count (quePage p) 0x194 1

/-- A write of SQ_TAIL (12 R434). -/
def State.dbTail (s : State) (p q : Nat) (v : Word) : State :=
  let x := s.qset p q
  if x.state = .enabled ∧ v.toNat < 2 ^ x.sqLog then s.setQset p q { x with sqTail := v.toNat }
  else s.dbIgnored p

/-- A write of CQ_HEAD (12 R434): the entries before the index are free; an index equal to the tail frees all. -/
def State.dbHead (s : State) (p q : Nat) (v : Word) : State :=
  let x := s.qset p q
  if x.state = .enabled ∧ v.toNat < 2 ^ x.cqLog then
    let n := 2 ^ x.cqLog
    let w := (x.cqTail + n - v.toNat) % n
    s.setQset p q { x with cqHead := v.toNat, written := w, full := x.full && decide (n ≤ w + x.reserved) }
  else s.dbIgnored p

/-- SQ_TAIL (12 R434). -/
def execSqTail (p q : Nat) (v : Word) (s : State) : Res := .next (s.dbTail p q v)

/-- CQ_HEAD (12 R434). -/
def execCqHead (p q : Nat) (v : Word) (s : State) : Res := .next (s.dbHead p q v)

/-- PUSH (12 R435). -/
def execPush (p q : Nat) (ws : List Word) (s : State) : Res :=
  .next (
    let x := s.qset p q
    if x.state ≠ .enabled ∨ ws.length ≠ 16 then s.dbIgnored p
    else
      let tail := (x.sqTail + 1) % 2 ^ x.sqLog
      if x.sqHead = x.sqTail then
        (s.setQset p q { x with sqTail := tail, pushed := some ws }).bump (pg (quePage p) + 0x184)
      else (s.setQset p q { x with sqTail := tail }).bump (pg (quePage p) + 0x188))

/-! ### Acceptance (12 R432, R436 to R438; 00 R5; 11 R425) -/

/-- A FENCE with HOLD = 1 of the queue set is incomplete (12 R449). -/
def State.fenced (s : State) (p q : Nat) : Bool :=
  s.que.live.any (fun l => decide (l.src = .queue p q) && decide (l.op = 0x10) && !l.compat && l.flag 1)

/-- The queue set has work that it may fetch. -/
def State.hasWork (s : State) (p q : Nat) : Bool :=
  let x := s.qset p q
  decide (x.state = .enabled) && decide (x.sqHead ≠ x.sqTail) && !s.fenced p q

/-- The 64 bytes at the head: the pushed copy, or the ring slot; none when the ring cannot be read. -/
def State.headCommand (s : State) (p q : Nat) : Option (List Word) :=
  let x := s.qset p q
  match x.pushed with
  | some ws => some ws
  | none => (s.hostRead p (x.sqBase + 64 * x.sqHead) 64).map wordsOf

/-- The head moves past a fetched command. -/
def QSet.fetched (x : QSet) : QSet :=
  if x.sqHead + 1 = 2 ^ x.sqLog then { x with sqHead := 0, sqPhase := !x.sqPhase, pushed := none }
  else { x with sqHead := x.sqHead + 1, pushed := none }

/-- A command with the wrong PHASE: BAD_COMMAND and no other effect (12 R432). -/
def State.phaseError (s : State) (p q : Nat) (ws : List Word) : State :=
  let s := (s.count (quePage p) 0x18C 0).bump (qsAddr p q + 0x24)
  let native := !s.compatSet p q
  let (fs, s) := if native then s.endWords (fld (ws.getD 0 0) 0 8) 5 else s.freeWords 5
  let tag := wd64 ws 2
  let w := if native then cqWords tag 0 (fld (ws.getD 0 0) 0 8) .badCommand (fs.getD 0 0) (fs.drop 1)
    else compatWords tag .badCommand (fs.getD 0 0)
  s.writeCq p q w native false

/-- Opcodes of a compatibility queue set (00 R5). -/
def compatOp (op : Nat) : Bool := decide (op = 0x01 ∨ op = 0x0A ∨ op = 0x08)

/-- One fetched command with the expected PHASE is accepted; a command of the wrong version, without a
binding, or outside the opcodes of its queue set completes BAD_COMMAND (12 R442; 11 R425; 00 R5). -/
def State.acceptQueue (s : State) (p q : Nat) (ws : List Word) : State :=
  let x := s.qset p q
  let s := (s.setQset p q { x with reserved := x.reserved + 1 }).bump (pg (quePage p) + 0x180)
  let s := s.bump (qsAddr p q + 0x20)
  let id := s.que.nextId
  let (tenant, compat) := (s.binding p q).getD (0, s.compatSet p q)
  let w0 := ws.getD 0 0
  if (s.binding p q).isNone ∨ fld w0 8 8 ≠ (if compat then 1 else 2) ∨ (compat ∧ !compatOp (fld w0 0 8)) then
    (s.accept (.queue p q) tenant compat ws (wd64 ws 2)).fail id .badCommand
  else s.acceptRun (.queue p q) tenant compat ws (wd64 ws 2) none

/-- Fetches up to `n` commands of a queue set while it has work and completion room. -/
def State.fetchTurn : Nat → State → Nat → Nat → State
  | 0, s, _, _ => s
  | n + 1, s, p, q =>
    if !s.hasWork p q ∨ (s.qset p q).room = 0 then s
    else match s.headCommand p q with
      | none => s
      | some ws =>
        let x := s.qset p q
        let s := s.setQset p q x.fetched
        let s := if bit (ws.getD 0 0) 31 = x.sqPhase then s.acceptQueue p q ws else s.phaseError p q ws
        State.fetchTurn n s p q

/-- A queue set that has work and no completion entry stops, counted once (12 R437). -/
def State.noteFull (s : State) (p q : Nat) : State :=
  let x := s.qset p q
  if s.hasWork p q ∧ x.room = 0 ∧ x.full = false then
    (s.setQset p q { x with full := true }).count (quePage p) 0x190 2
  else s

/-- Next queue set of a port's round-robin. -/
def State.rr (s : State) (p : Nat) : Nat := if p = 0 then s.que.rr0 else s.que.rr1

/-- The round-robin position, set. -/
def State.setRr (s : State) (p v : Nat) : State :=
  { s with que := if p = 0 then { s.que with rr0 := v } else { s.que with rr1 := v } }

/-- COMMAND_FETCH (12 R436): one round-robin turn of a port. -/
def execCommandFetch (p : Nat) (s : State) : Res :=
  .next (
    if s.portDown p then s
    else
      let s := (List.range 64).foldl (fun s q => s.noteFull p q) s
      match (List.range 64).find? (fun k =>
          let q := (s.rr p + k) % 64
          s.hasWork p q && decide ((s.qset p q).room ≠ 0)) with
      | none => s
      | some k =>
        let q := (s.rr p + k) % 64
        let s := State.fetchTurn (s.cfgFld (pg (quePage p) + 0x10C) 0 4) s p q
        (s.setRr p ((q + 1) % 64)).noteFull p q)

/-- UNDEFINED_OPCODE (00 R15). -/
def execUndefinedOpcode (id : Nat) (s : State) : Res :=
  .next (match s.live id with
    | none => s
    | some l => if l.phase = .accepted ∧ !l.isRecord ∧ (l.op = 0 ∨ 0x14 < l.op) then s.fail id .badCommand else s)

/-! ### Completion room and coalescing (12 R437, R439) -/

/-- DEFERRED_COMPLETION (12 R437): the command's implicit proof closes with it (05 R188). -/
def execDeferredCompletion (p q : Nat) (s : State) : Res :=
  .next (
    let x := s.qset p q
    match x.waits with
    | w :: r =>
      if x.room = 0 ∨ x.state = .disabled then s
      else ((s.setQset p q { x with waits := r }).writeCq p q w.ws true w.int).closeViews w.id
    | [] => s)

/-- COALESCE_TIMER (12 R439). -/
def execCoalesceTimer (p q t : Nat) (s : State) : Res :=
  let s := s.at_ t
  .next (
    let x := s.qset p q
    match x.unsigAt with
    | none => s
    | some a =>
      if bit (s.reg (qsAddr p q + 0x14)) 16 ∧ a + fld (s.reg (qsAddr p q + 0x18)) 16 16 * 1000 ≤ s.clk then
        s.signal p q
      else s)

/-! ### Enabling and draining (12 R433) -/

/-- Both rings lie inside the window, with legal sizes (12 R430, R431, R465). -/
def State.ringsOk (s : State) (p q : Nat) : Bool :=
  let a := qsAddr p q
  let win := (s.reg (pg (quePage p) + 0x100)).toNat + 2 ^ 32 * (s.reg (pg (quePage p) + 0x104)).toNat
  let mib := fld (s.reg (pg (quePage p) + 0x108)) 0 11
  let top := win + mib * 2 ^ 20
  let base := fun (o : Nat) => (s.reg (a + o)).toNat + 2 ^ 32 * (s.reg (a + o + 4)).toNat
  let sq := fld (s.reg (a + 0x10)) 0 4
  let cq := fld (s.reg (a + 0x10)) 8 4
  decide (1 ≤ mib ∧ mib ≤ 1024 ∧ 4 ≤ sq ∧ sq ≤ 12 ∧ 4 ≤ cq ∧ cq ≤ 12)
    && decide (win ≤ base 0 ∧ base 0 + 64 * 2 ^ sq ≤ top) && decide (win ≤ base 8 ∧ base 8 + 32 * 2 ^ cq ≤ top)

/-- A write of 1 to ENABLE of a DISABLED queue set. -/
def State.qsStart (s : State) (p q : Nat) : State :=
  let x := s.qset p q
  let a := qsAddr p q
  if s.ringsOk p q then
    s.setQset p q { QSet.reset with
      state := .enabled, waits := x.waits,
      sqBase := (s.reg a).toNat + 2 ^ 32 * (s.reg (a + 4)).toNat,
      cqBase := (s.reg (a + 8)).toNat + 2 ^ 32 * (s.reg (a + 0xC)).toNat,
      sqLog := fld (s.reg (a + 0x10)) 0 4, cqLog := fld (s.reg (a + 0x10)) 8 4 }
  else s.setQset p q { x with cfgErr := true }

/-- A write of QS_CTRL (12 R433, R465): INT_EN and VECTOR act at once, ENABLE starts or drains. -/
def State.qsCtrl (s : State) (p q : Nat) (v : Word) : State :=
  let s := s.setReg (qsAddr p q + 0x14) (v &&& 0x1FF01)
  let x := s.qset p q
  if bit v 0 then (if x.state = .disabled then s.qsStart p q else s)
  else if x.state = .enabled then s.setQset p q { x with state := .draining, pushed := none }
  else s

/-- QS_ENABLE (12 R433). -/
def execQsEnable (src : Src) (p q : Nat) (v : Word) (s : State) : Res :=
  .next (if bit v 0 ∧ p < 2 ∧ q < 64 ∧ s.pageOn src (quePage p) then s.qsCtrl p q v else s)

/-- QS_DISABLE (12 R433). -/
def execQsDisable (src : Src) (p q : Nat) (v : Word) (s : State) : Res :=
  .next (if bit v 0 = false ∧ p < 2 ∧ q < 64 ∧ s.pageOn src (quePage p) then s.qsCtrl p q v else s)

/-- QS_DRAIN_END (12 R433). -/
def execQsDrainEnd (p q : Nat) (s : State) : Res :=
  .next (
    let x := s.qset p q
    if x.state = .draining ∧ x.reserved = 0 then s.setQset p q { x with state := .disabled } else s)

/-! ### FENCE (12 R447 to R451) -/

/-- Bit of a FENCE's QSET_MASK. -/
def fenceMask (l : Live) (w i : Nat) : Bool := bit (l.ws.getD (w + i / 32) 0) (i % 32)

/-- An accepted command belongs to a FENCE's waited set (12 R447). -/
def fenceTakes (l m : Live) : Bool :=
  decide (m.id < l.id) &&
  (match m.src with
    | .queue p q => (l.flag 0 && decide (l.src = .queue p q)) || fenceMask l 4 (64 * p + q)
    | .record p _ _ => l.flag (2 + p)
    | .trigger _ _ _ => l.flag 4
    | .net _ _ => l.flag 5
    | .mctp => false
    | .lost p q => fenceMask l 4 (64 * p + q))

/-- The waited set of a FENCE (12 R447). -/
def State.fenceSet (s : State) (l : Live) : List Member :=
  (s.que.live.filter (fenceTakes l)).map (fun m => .cmd m.id)
  ++ (s.dma.ch.filterMap (fun e =>
      match e.2.desc with
      | some d => if fenceMask l 8 e.1 && decide (d.seq ≤ l.id) then some (.desc e.1 d.n) else none
      | none => none))

/-- FENCE (12 R447, R449): takes its waited set. -/
def execFence (id : Nat) (s : State) : Res :=
  .next (s.onNew id 0x10 (fun l s =>
    let all : Word := 0xFFFFFFFF
    if !s.reached .verify then s.fail id .notReady
    else if !(l.reservedOk 0x3F [all, all, all, all, all, all, 0xFFFFFF]) then s.fail id .badCommand
    else
      let us := l.w 10
      let f : Fence := { id := id, members := s.fenceSet l, hold := l.flag 1,
                         deadline := if us = 0 then none else some (l.at_ + us * 1000) }
      { s with que := { s.que with fences := s.que.fences ++ [f] } }.setRunning id))

/-- A member has its final status and its completion or write-back is written (12 R448). -/
def State.memberDone (s : State) (m : Member) : Bool :=
  match m with
  | .cmd i => (s.live i).isNone && !s.que.qs.any (fun e => e.2.waits.any (fun w => decide (w.id = i)))
  | .desc c n => match (sget s.dma.ch Chan.reset c).desc with
    | some d => decide (d.n ≠ n)
    | none => true

/-- The FENCE leaves the list. -/
def State.dropFence (s : State) (id : Nat) : State :=
  { s with que := { s.que with fences := s.que.fences.filter (fun f => decide (f.id ≠ id)) } }

/-- FENCE_DONE (12 R448). -/
def execFenceDone (id : Nat) (s : State) : Res :=
  .next (match s.que.fences.find? (fun f => decide (f.id = id)) with
    | none => s
    | some f =>
      if f.members.all (fun m => s.memberDone m) then
        (s.dropFence id).done id 0 [w32 (min f.members.length 0xFFFFFFFF), 0, 0, 0]
      else s)

/-- FENCE_TIMEOUT (12 R450). -/
def execFenceTimeout (id t : Nat) (s : State) : Res :=
  let s := s.at_ t
  .next (match s.que.fences.find? (fun f => decide (f.id = id)) with
    | none => s
    | some f =>
      match f.deadline with
      | none => s
      | some d =>
        if d ≤ s.clk ∧ !(f.members.all (fun m => s.memberDone m)) then
          (s.dropFence id).complete id .timeout (some (0, [w32 (min f.members.length 0xFFFFFFFF), 0, 0, 0]))
        else s)

/-! ### STATS (12 R446) -/

/-- Open reservations of a tenant: page sets not published. -/
def State.openRsvs (s : State) (tenant : Nat) : Nat :=
  (s.tier.psets.filter (fun e => decide (e.2.tenant = tenant ∧ e.2.rstate ≠ .published))).length

/-- The tenant block of STATS. -/
def State.tenantStats (s : State) (t : Nat) : List Word :=
  (List.range 3).flatMap (fun k => split64 (s.tenantCharge t k)) ++ (List.range 3).flatMap (fun k => split64 (s.quota t k))
    ++ [w32 (s.openProofs t), w32 (s.openRsvs t), 0, 0]

/-- The page-set block of STATS. -/
def State.psetStats (s : State) (i : Nat) (v : Slot) : List Word :=
  let p := s.psetAt v.ps
  split64 v.edition ++ [w32 i, w32 v.pset,
    w32 (p.pages * 2 ^ 16 + b2n v.poison * 2 ^ 13 + p.tiers * 2 ^ 10 + p.level * 2 ^ 8 + p.alloc)]
    ++ split64 (s.psetCharge v.ps p 0 + s.psetCharge v.ps p 1 + s.psetCharge v.ps p 2) ++ [w32 v.lastUse]

/-- The block is written at OUT_ADDR and the command ends (12 R446; 11 R639). -/
def State.statsOut (s : State) (l : Live) (ws : List Word) : State :=
  match s.workWrite l.tenant l.port (l.w64 8) (bytesOf ws) with
  | .error e => (s.undefHost l.port (l.w64 8) (if e = .busError then 4 * ws.length else 0)).fail l.id e
  | .ok s => s.done l.id 0 [w32 (4 * ws.length), 0, 0, 0]

/-- STATS (12 R446). -/
def execStats (id : Nat) (s : State) : Res :=
  .next (s.onNew id 0x13 (fun l s =>
    let all : Word := 0xFFFFFFFF
    let kind := fld l.flags 0 2
    if !s.reached .psa then s.fail id .notReady
    else if 2 ≤ kind ∨ !(l.reservedOk 0x603 ([0, 0] ++ (if kind = 1 then [all, all] else [0, 0]) ++ [all, all])) then
      s.fail id .badCommand
    else if kind = 0 then s.statsOut l (s.tenantStats l.tenant)
    else match s.namedKey l false with
    | .error e => s.fail id e
    | .ok (k, form) =>
      match s.current k form with
      | none => s.fail id .notFound
      | some (i, v) => s.statsOut l (s.psetStats i v)))

/-! ### Compatibility queue sets (00 R4 to R11; 12 R452) -/

/-- As `onNew` for a command of a compatibility queue set. -/
def State.onCompat (s : State) (id op : Nat) (f : Live → State → State) : State :=
  match s.live id with
  | none => s
  | some l => if l.op = op ∧ l.phase = .accepted ∧ l.compat = true then f l s else s

/-- The words that version 1 leaves reserved are 0: word 1, words past `n`, and the upper half of word 4. -/
def compatReserved (l : Live) (masks : List Word) : Bool := l.reservedOk 0 ([0xFFFF, 0xFFFFFFFF, 0xFFFFFFFF, 0xFFFFFFFF] ++ masks)

/-- The 144-bit key of a version 1 command (00 R6). -/
def compatKey (l : Live) : Key :=
  { scope := l.tenant, model := l.w 4, adapter := 0, keyForm := 0,
    hash := l.w 5 + 2 ^ 32 * l.w 6 + 2 ^ 64 * l.w 7 }

/-- COMPAT_LOOKUP (12 R452; 00 R6 to R8): the operands are tested before the implicit proof, which no rule ranks (DESIGN CHOICE, log 173). -/
def execCompatLookup (id : Nat) (s : State) : Res :=
  .next (s.onCompat id 0x01 (fun l s =>
    if !s.reached .psa then s.fail id .notReady
    else if !compatReserved l [] then s.fail id .badCommand
    else if (s.model (l.w 4)).isNone then s.fail id .notFound
    else if (s.model (l.w 4)).any (fun m => decide (m.keyForm ≠ 0)) then s.fail id .badCommand
    else match s.viewFor id l.tenant 0 with
    | (s, .error _) => s.fail id .notReady
    | (s, .ok snap) =>
      match s.lookProbeView (compatKey l) snap with
      | (s, none) => s.fail id .notFound
      | (s, some (i, multi)) =>
        s.complete id (if multi then .multi else .ok) (some (w32 (s.psetAt (s.slot i).ps).pages, []))))

/-- COMPAT_FREE (00 R9): the tenant's block without PIN and SHARED. -/
def execCompatFree (id : Nat) (s : State) : Res :=
  .next (s.onCompat id 0x08 (fun l s =>
    if !s.reached .psa then s.fail id .notReady
    else if !compatReserved l [] then s.fail id .badCommand
    else if (s.model (l.w 4)).isNone then s.fail id .notFound
    else if (s.model (l.w 4)).any (fun m => decide (m.keyForm ≠ 0)) then s.fail id .badCommand
    else match s.current (compatKey l) 0 with
      | none => s.fail id .notFound
      | some (i, v) =>
        if !v.pin && !v.shared && s.evictable i then (s.schedule (.end_ i (.free id))).setRunning id
        else s.fail id .conflict))

end Sys2Proof.Machine
end

