-- ==== Sys2Proof/Machine/Delivery.lean ====
section
/-! DEFINITION. DELIVER (07 R231 to R241), its version 1 form (12 R452), and what records use of plan layers
(07 R242, R245, R247, R250, R252). -/

namespace Sys2Proof.Machine

/-- Page of the prefetch scheduler. -/
def pfsPage : Nat := 0x1A

/-! ### Plans and layers (07 R242 to R253) -/

/-- A handle names the plan that a slot holds (07 R242). -/
def Plan.named (v : Plan) (slot tenant h : Nat) : Bool :=
  v.valid && decide (h / 256 = slot ∧ v.gen = h % 256 ∧ v.tenant = tenant)

/-- The loaded plan that a handle names for command `id` of a tenant; a command accepted or started after an unload of
the plan began names it no more (07 R242, R245). -/
def State.planOf (s : State) (id tenant h : Nat) : Option Nat :=
  if (s.plan (h / 256)).named (h / 256) tenant h
      ∧ !(s.pfs.unloads.any (fun u => decide (u.slot = h / 256 ∧ u.since ≤ id))) then
    some (h / 256)
  else none

/-- Objects that a plan lists under a layer. -/
def Plan.at_ (v : Plan) (layer : Nat) : List (Key × Nat) :=
  ((v.layers.find? (fun e => decide (e.1 = layer))).map (·.2)).getD []

/-- Layer count of a plan: one above its highest layer. -/
def Plan.count (v : Plan) : Nat := (v.layers.map (fun e => e.1 + 1)).foldl max 0

/-- Layers of a plan that list an object. -/
def Plan.layersOf (v : Plan) (k : Key × Nat) : List Nat :=
  (v.layers.filter (fun e => e.2.contains k)).map (·.1)

/-- Key and form of the entry in a slot. -/
def State.keyOf (s : State) (i : Nat) : Key × Nat := ((s.slot i).key, (s.slot i).form)

/-- Slots of the objects of a layer that are CURRENT. -/
def State.layerSlots (s : State) (plan layer : Nat) : List Nat := s.currentSlots ((s.plan plan).at_ layer)

/-- Every object of a layer is CURRENT (07 R246). -/
def State.layerCurrent (s : State) (plan layer : Nat) : Bool :=
  ((s.plan plan).at_ layer).all (fun k => (s.current k.1 k.2).isSome)

/-- An object of a layer that has the page set. -/
def State.layerHas (s : State) (plan layer i : Nat) : Bool :=
  (s.layerSlots plan layer).any (fun k => decide ((s.slot k).ps = i))

/-- A layer is resident: every page of its objects is at level T0 or T1 or in the T1 cache (07 R246, R249). -/
def State.layerReady (s : State) (plan layer : Nat) : Bool :=
  (s.layerSlots plan layer).all (fun i =>
    let p := (s.slot i).ps
    decide ((s.psetAt p).level < 2) || (List.range (s.psetAt p).pages).all (fun k => s.cached p k))

/-- Bytes of a layer's objects at level T2. -/
def State.layerBytes (s : State) (plan layer : Nat) : Nat :=
  ((s.layerSlots plan layer).map (fun i =>
    let v := s.psetAt (s.slot i).ps
    if v.level = 2 then v.bytes else 0)).sum

/-! ### Entry lists (07 R232, R233) -/

/-- Reserved fields and alignment of an entry. -/
def dlvEntryOk (bs : List Byte) : Bool :=
  let ws := wordsOf bs
  decide (wd ws 19 = 0) && decide (wd64 ws 20 % 64 = 0) && (ws.drop 22).all (fun w => decide (w = 0))

/-- The bytes of a DELIVER's entry list: as read at its acceptance or start (07 R233), or as they stand. -/
def State.dlvBytes (s : State) (l : Live) : Except Status (List Byte) :=
  match l.held with
  | some h => h.blk.result
  | none => s.opRead l (l.w64 10) (128 * fld (l.ws.getD 9 0) 16 7)

/-- The entry list of a DELIVER, with its keys. -/
def State.dlvList (s : State) (l : Live) : Except Status (List (List Byte × Key)) :=
  match s.dlvBytes l with
  | .error e => .error e
  | .ok bs =>
    let es := pieces 128 (fld (l.ws.getD 9 0) 16 7) bs
    if es.all dlvEntryOk then s.listKeys es else .error .badCommand

/-- The one layer of a plan that the objects of a list name: none when they name none, an error when they name
several (07 R233, R252). -/
def Plan.uses (v : Plan) (ks : List (Key × Nat)) : Except Status (Option Nat) :=
  match ((ks.flatMap v.layersOf).eraseDups) with
  | [] => .ok Option.none
  | [x] => .ok (some x)
  | _ => .error .badCommand

/-- The live command that a record embeds, as far as reading its operands goes: its tenant is that of its QSET
(02 R642). -/
def State.recLive (s : State) (x : Inst) (r : SRec) : Option Live :=
  match s.binding x.port (fld (r.ws.getD 2 0) 24 6) with
  | none => none
  | some (t, _) =>
    some { id := noId, src := .record x.port x.iid r.idx, tenant := t, compat := false, ws := recCmd r.ws,
           tag := wd64 r.ws 4, at_ := s.clk, phase := .accepted }

/-- The entry that a key of a DELIVER names: in the view of its proof, or in the present state when it names none. -/
def State.dlvNames (s : State) (l : Live) (k : Key) : Option Nat :=
  if l.w 8 = 0 then (s.probe (k.lookup l.tenant)).map (fun m => m.1)
  else (s.proofOf l.tenant (l.w 8)).bind (fun p => (s.probeView (k.lookup l.tenant) p.snapshot).map (fun m => m.1))

/-- Plan and layer that a DELIVER record names with its operands as they stand (07 R252). -/
def State.namedLayer (s : State) (x : Inst) (r : SRec) : Option (Nat × Nat) :=
  match s.recLive x r with
  | none => none
  | some l =>
    if recClass r.ws ≠ some 1 ∨ l.w 9 % 2 ^ 16 = 0 then none
    else match s.planOf l.id l.tenant (l.w 9 % 2 ^ 16), s.dlvList l with
      | some p, .ok ks =>
        (match (s.plan p).uses ((ks.filterMap (fun e => s.dlvNames l e.2)).map s.keyOf) with
          | .ok (some y) => some (p, y)
          | _ => none)
      | _, _ => none

/-- Plan and layer that a record uses (07 R252): as its start fixed them, or as its operands stand. -/
def State.recLayer (s : State) (x : Inst) (r : SRec) : Option (Nat × Nat) := r.layer.getD (s.namedLayer x r)

/-- A record has reached its completion point, or its end (02 R66, R69). -/
def SRec.reached (r : SRec) : Bool :=
  match r.st with
  | .point _ _ => true
  | .final _ => true
  | _ => false

/-- A record has its final status. -/
def SRec.isFinal (r : SRec) : Bool :=
  match r.st with
  | .final _ => true
  | _ => false

/-- Layers of a plan that records of an instance use: layer and record. -/
def State.layerUsers (s : State) (plan port target : Nat) : List (Nat × SRec) :=
  (s.stk.insts.filter (fun x => decide (x.port = port ∧ x.target = target))).flatMap (fun x =>
    x.recs.filterMap (fun r => match s.recLayer x r with
      | some (p, y) => if p = plan then some (y, r) else none
      | none => none))

/-- The current layer of a plan in an instance (07 R247); none when no record of it uses the plan. -/
def State.currentLayer (s : State) (plan port target : Nat) : Option Nat :=
  let us := s.layerUsers plan port target
  if us = [] then none
  else
    let open_ := (us.filter (fun u => !u.2.reached)).map (fun (u : Nat × SRec) => u.1)
    some (match open_ with
      | [] => (s.plan plan).count
      | a :: r => r.foldl min a)

/-- Records of its instance that use the layer of a hold. -/
def State.holdUsers (s : State) (h : Hold) : List SRec :=
  ((s.layerUsers h.plan h.port h.target).filter (fun u => decide (u.1 = h.layer))).map (fun u => u.2)

/-- The layer of a hold has ended: every record of the instance that uses it is final (07 R250), also where the instance has
ended with them. A layer that no record uses does not end. -/
def State.holdEnded (s : State) (h : Hold) : Bool :=
  let us := s.holdUsers h
  if s.stk.insts.any (fun x => decide (x.port = h.port ∧ x.target = h.target)) then decide (us ≠ []) && us.all SRec.isFinal
  else h.used

/-- Holds whose layer has ended are released; the others note whether a record has used their layer (07 R250). -/
def State.releaseHolds (s : State) : State :=
  { s with pfs := { s.pfs with holds := (s.pfs.holds.filter (fun h => !s.holdEnded h)).map (fun h =>
      { h with used := h.used || decide (s.holdUsers h ≠ []) }) } }

/-- Holds whose instance lies `past` strokes back expire when its last DELIVER window closes (07 R250); those whose layer
has ended are released first and do not count (07 R266). -/
def State.expireHolds (s : State) (past : Nat) : State :=
  let old := fun (h : Hold) => decide (h.target + past ≤ s.stk.stroke)
  let n := (s.pfs.holds.filter old).length
  let s := { s with pfs := { s.pfs with holds := s.pfs.holds.filter (fun h => !old h) } }
  if n = 0 then s else s.bump (pg pfsPage + 0x19C) n

/-! ### Deliveries in flight -/

/-- A delivery. -/
def State.dlv (s : State) (id : Nat) : Option Dlv := s.pfs.dlvs.find? (fun d => decide (d.id = id))

/-- A delivery, changed. -/
def State.updDlv (s : State) (id : Nat) (f : Dlv → Dlv) : State :=
  { s with pfs := { s.pfs with dlvs := updIf s.pfs.dlvs (fun d => decide (d.id = id)) f } }

/-- Entry `k` of a delivery, changed. -/
def State.updEnt (s : State) (id k : Nat) (f : DEnt → DEnt) : State :=
  s.updDlv id (fun d => { d with ents := d.ents.modify k f })

/-- Bytes of an entry's message. -/
def DEnt.total (e : DEnt) : Nat := e.pages * e.pageSize

/-- Staging chunks that an entry holds: 64 KiB pieces read and not wholly acknowledged (07 R236). -/
def DEnt.chunks (e : DEnt) : Nat :=
  if e.st = .active ∧ e.acked < e.total then ceilDiv' e.staged 65536 - e.acked / 65536 else 0

/-- Staging chunks that all deliveries hold. -/
def State.stageUsed (s : State) : Nat := (s.pfs.dlvs.map (fun d => (d.ents.map DEnt.chunks).sum)).sum

/-- PFS_DLV_STAGE.MAX_MIB in chunks. -/
def State.stageMax (s : State) : Nat := s.cfgFld (pg pfsPage + 0x118) 0 8 * 16

/-- The last byte of an entry's message is with egress, or written to the host, and the entry has not failed. -/
def DEnt.away (e : DEnt) : Bool :=
  e.handed && (match e.st with
    | .failed _ => false
    | _ => true)

/-- The completion point of a delivery: the last byte of every message that has not failed is with egress, or
written to the host (02 R66; 07 R237). A delivery whose entries have all failed takes an error status and has none. -/
def State.dlvPoint (s : State) (id : Nat) : State :=
  match s.dlv id, s.live id with
  | some d, some l =>
    if !d.point ∧ d.ents.all (fun e => e.handed || decide (e.st ≠ .active)) ∧ d.ents.any DEnt.away then
      (s.updDlv id (fun d => { d with point := true })).recPoint l
    else s
  | _, _ => s

/-- The bytes of a failed entry at a host target are undefined (07 R238), also where its port is lost: the whole range where the extent
takes its writes, else what was written before. -/
def State.undefEnt (s : State) (tenant p : Nat) (e : DEnt) : State :=
  let n := if s.hextOk tenant p e.addr e.total true then e.total else e.staged
  s.undefHost p e.addr n

/-- An entry fails (07 R239): its message ends, its staging is free. -/
def State.failEnt (s : State) (id k : Nat) (st : Status) : State :=
  match s.dlv id with
  | none => s
  | some d =>
    match d.ents[k]? with
    | none => s
    | some e =>
      if e.st ≠ .active then s
      else
        let s := (s.updEnt id k (fun e => { e with st := .failed st })).bump (pg pfsPage + 0x1A4)
        let s := match d.target with
          | .conn q _ _ => s.killMsg q (.dlv id k)
          | .host p => s.undefEnt ((s.live id).elim 0 (fun l => l.tenant)) p e
        s.dlvPoint id

/-- Bytes of an entry acknowledged by the consumer, or written to the host. -/
def State.ackEnt (s : State) (id k n : Nat) : State :=
  match s.dlv id with
  | none => s
  | some d =>
    match d.ents[k]? with
    | none => s
    | some e =>
      if e.st ≠ .active then s
      else if e.total ≤ n then
        (s.updEnt id k (fun e => { e with acked := e.total, handed := true, st := .done })).bump (pg pfsPage + 0x1A0)
      else s.updEnt id k (fun e => { e with acked := max e.acked n })

/-- The last byte of an entry's message is handed to egress (07 R237). -/
def State.handEnt (s : State) (id k : Nat) : State :=
  (s.updEnt id k (fun e => { e with handed := true })).dlvPoint id

/-- First entry that is still being read: its index. -/
def Dlv.reading (d : Dlv) : Option (Nat × DEnt) :=
  (d.ents.zipIdx.find? (fun e => decide (e.1.st = .active) && decide (e.1.staged < e.1.total))).map
    (fun e => (e.2, e.1))

/-- Pages that the next chunk of an entry needs. -/
def DEnt.nextPages (e : DEnt) (n : Nat) : List Nat :=
  let a := e.first + e.staged / e.pageSize
  let b := e.first + (e.staged + n - 1) / e.pageSize
  (List.range (b + 1 - a)).map (fun k => a + k)

/-- One chunk of a delivery is read and posted, or written to the host (07 R234 to R236); none when it has to
wait, or has nothing more to read. -/
def State.chunkStep (s : State) (l : Live) : Option State :=
  match s.dlv l.id with
  | none => none
  | some d =>
    match d.reading with
    | none => none
    | some (k, e) =>
      let n := min 65536 (e.total - e.staged)
      if s.shut l.id ∧ e.staged = 0 then none
      else if s.psetPoison e.pset then some (s.failEnt l.id k .poison)
      else if !((e.nextPages n).all (fun p => s.pageReady e.pset p)) then none
      else
        let bs := s.linRead e.pset e.pageSize e.first e.staged n
        let adv := fun (s : State) => (s.touchPset e.pset).updEnt l.id k (fun e => { e with staged := e.staged + n })
        if s.stageMax ≤ s.stageUsed then none
        else match d.target with
        | .conn q rkey tc =>
          if !(s.ctxPeek q).any (fun c => c.live) then some (s.failEnt l.id k .timeout)
          else if e.staged = 0 then
            some (adv (s.post q tc (.dlv l.id k) true e.addr rkey
              (some (w32 (l.tag % 2 ^ 24 * 256 + k))) e.total bs))
          else some (adv (s.postMore q (.dlv l.id k) bs))
        | .host p =>
          match s.workWrite l.tenant p (e.addr + e.staged) bs with
          | .error st => some (s.failEnt l.id k st)
          | .ok s => some (((adv s).ackEnt l.id k (e.staged + n)).dlvPoint l.id)

/-- Chunks are read while staging, pages and the window allow; recursion on fuel. -/
def State.chunkLoop : Nat → Live → State → State
  | 0, _, s => s
  | n + 1, l, s =>
    match s.chunkStep l with
    | some s => State.chunkLoop n l s
    | none => s

/-- Reads on from where a delivery stands; T2 pages that it waits on are URGENT (07 R236, R251). -/
def State.dlvRead (s : State) (l : Live) : State :=
  match s.dlv l.id with
  | none => s
  | some d =>
    let s := d.ents.foldl (fun s e =>
      if e.st = .active ∧ !s.psetPoison e.pset then
        s.needPages e.pset ((List.range e.pages).map (fun p => e.first + p) |>.filter
          (fun p => decide (e.first + e.staged / e.pageSize ≤ p))) true false
      else s) s
    State.chunkLoop ((d.ents.map (fun e => ceilDiv' e.total 65536 + 1)).sum) l s

/-- A new delivery starts: its readers, its uses and its first chunks. -/
def State.startDlv (s : State) (l : Live) (d : Dlv) : State :=
  let used : List DEnt := d.ents.filter (fun e => decide (e.st ≠ .failed .notFound))
  let rs : List PRead := used.map (fun e => { id := l.id, pset := e.pset })
  let s := { s with
    pfs := { s.pfs with dlvs := s.pfs.dlvs ++ [d] },
    tier := { s.tier with reads := s.tier.reads ++ rs } }
  let s := s.bump (pg pfsPage + 0x1A4) (d.ents.filter (fun e => decide (e.st ≠ .active))).length
  let s := match d.target with
    | .conn _ _ _ => s
    | .host p => (used.filter (fun (e : DEnt) => decide (e.st ≠ EState.active))).foldl (fun s e => s.undefEnt l.tenant p e) s
  ((s.setRunning l.id).dlvRead l).dlvPoint l.id

/-- A DELIVER ends before it starts, with its whole result defined (12 R445). -/
def State.dlvFail (s : State) (id : Nat) (st : Status) : State := s.complete id st (some (0, [0, 0, 0, 0]))

/-- An entry of a DELIVER against the proof's view: its key's best match (05 R161), NOTFOUND or POISON (07 R239).
None where FIRST_PAGE and PAGE_COUNT do not fit the page set (07 R233). -/
def State.dlvEntry (s : State) (tenant base snap : Nat) (e : List Byte × Key) : Option DEnt :=
  let ws := wordsOf e.1
  let first := fld (ws.getD 18 0) 0 16
  let cnt := fld (ws.getD 18 0) 16 16
  match s.probeView (e.2.lookup tenant) snap with
  | none => some { pset := 0, slot := 0, first := 0, pages := 0, pageSize := 0, addr := 0, st := .failed .notFound,
                   staged := 0, acked := 0, multi := false, handed := false }
  | some (i, v, multi) =>
    let p := s.psetAt v.ps
    if p.pages < first + cnt ∨ p.pages ≤ first then none
    else some { pset := v.ps, slot := i, first := first, pages := if cnt = 0 then p.pages - first else cnt,
                pageSize := p.pageSize, addr := base + wd64 ws 20, staged := 0, acked := 0, multi := multi,
                handed := false, st := if v.poison then .failed .poison else .active }

/-- Every entry of a list, or none where one does not fit. -/
def State.dlvEntries (s : State) (tenant base snap : Nat) : List (List Byte × Key) → Option (List DEnt)
  | [] => some []
  | e :: r =>
    match s.dlvEntry tenant base snap e, s.dlvEntries tenant base snap r with
    | some x, some xs => some (x :: xs)
    | _, _ => none

/-- The command's own checks (07 R231, R233, R239; 13 R478, R494): the target, or the status. -/
def State.dlvTarget (s : State) (l : Live) : Except Status Target :=
  let all : Word := 0xFFFFFFFF
  let host := l.flag 0
  let isNet : Bool := match l.src with
    | .net _ _ => true
    | _ => false
  let isQueue : Bool := match l.src with
    | .queue _ _ => true
    | _ => false
  let q0 := fld (l.ws.getD 4 0) 0 24
  let q := match l.src with
    | .net q _ => if q0 = 0 then q else q0
    | _ => q0
  let n := fld (l.ws.getD 9 0) 16 7
  let tc := fld l.flags 4 3
  if !s.reached .psa ∨ (!host ∧ !s.reached .links) then .error .notReady
  else if !(l.reservedOk 0x73 [0xFFFFFF, all, all, all, all, 0x7FFFFF, 0xFFFFFF80, all]) then .error .badCommand
  else if isQueue ∧ (s.stk.sync = .acquiring ∨ s.stk.sync = .unlocked) then .error .notReady
  else if n = 0 ∨ 64 < n ∨ (isNet ∧ host) then .error .badCommand
  else if host then .ok (.host (l.toPort (fld l.flags 1 1)))
  else if tc = 7 ∨ !s.qpnOk q then .error .badCommand
  else match s.ctxPeek q with
    | some c => if c.state ≠ .reset ∧ c.tenant ≠ l.tenant then .error .badCommand else .ok (.conn q (l.w 5) tc)
    | none => .ok (.conn q (l.w 5) tc)

/-- DELIVER (07 R231 to R241). -/
def execDeliver (id : Nat) (s : State) : Res :=
  .next (s.onNew id 0x0A (fun l s =>
    match s.dlvTarget l with
    | .error e => s.dlvFail id e
    | .ok tgt =>
      match s.dlvList l with
      | .error e => s.dlvFail id e
      | .ok ks =>
        let h := l.w 9 % 2 ^ 16
        let plan := if h = 0 then none else s.planOf l.id l.tenant h
        if h ≠ 0 ∧ plan.isNone then s.dlvFail id .notFound
        else match s.viewFor id l.tenant (l.w 8) with
        | (s, .error e) => s.dlvFail id e
        | (s, .ok snap) =>
          match s.dlvEntries l.tenant (l.w64 6) snap ks with
          | none => s.dlvFail id .badCommand
          | some es =>
            let found := (es.filter (fun e => decide (e.st ≠ .failed .notFound))).map (fun e => s.keyOf e.slot)
            let layer : Except Status (Option (Nat × Nat)) := match plan with
              | none => .ok none
              | some p => (match (s.plan p).uses found with
                | .ok x => .ok (x.map (fun y => (p, y)))
                | .error e => .error e)
            match layer with
            | .error e => s.dlvFail id e
            | .ok layer => s.startDlv l { id := id, target := tgt, ents := es, layer := layer, point := false }))

/-- DELIVER_CHUNK (07 R236). -/
def execDeliverChunk (id : Nat) (s : State) : Res := .next (s.onRunning id (fun l s => s.dlvRead l))

/-- DONE_MASK and FAIL_STATUS (07 R238). -/
def dlvResult (d : Dlv) : List Word :=
  let mask := ((d.ents.zipIdx.filter (fun e => decide (e.1.st = .done))).map (fun e => 2 ^ e.2)).sum
  let st : Status := (d.ents.findSome? (fun e => match e.st with
    | .failed st => some st
    | _ => none)).getD .ok
  split64 mask ++ [w32 st.code, 0]

/-- Status of a DELIVER whose entries have all ended (07 R238, R239). -/
def dlvStatus (d : Dlv) : Status :=
  if d.ents.any (fun e => decide (e.st = .done)) then (if d.ents.any (fun e => e.multi) then .multi else .ok)
  else match d.ents.head? with
    | some e => (match e.st with
      | .failed st => st
      | _ => .ok)
    | none => .ok

/-- DELIVER_COMPLETE (07 R237, R238): every message has been acknowledged or has failed. -/
def execDeliverComplete (id : Nat) (s : State) : Res :=
  .next (match s.dlv id, s.live id with
    | some d, some l =>
      if d.ents.any (fun e => decide (e.st = .active)) then s
      else
        let s := { s with pfs := { s.pfs with dlvs := s.pfs.dlvs.filter (fun x => decide (x.id ≠ id)) } }
        let sent := ((d.ents.filter (fun e => decide (e.st = .done))).map (fun e => e.pages)).sum
        (s.complete id (dlvStatus d) (some (if l.compat then w32 sent else 0, dlvResult d))).releaseHolds
    | _, _ => s)

/-- A delivery is ended with TIMEOUT and no effect, or with its command (02 R72): its messages stop. -/
def State.dropDlv (s : State) (id : Nat) : State :=
  match s.dlv id with
  | none => s
  | some d =>
    let s := (List.range d.ents.length).foldl (fun s k =>
      match d.target with
      | .conn q _ _ => s.killMsg q (.dlv id k)
      | .host _ => s) s
    { s with pfs := { s.pfs with dlvs := s.pfs.dlvs.filter (fun x => decide (x.id ≠ id)) } }

/-! ### Version 1 (00 R5 to R8, R10; 12 R452) -/

/-- COMPAT_DELIVER: one key, one message, TC 0, through an implicit proof. -/
def execCompatDeliver (id : Nat) (s : State) : Res :=
  .next (s.onCompat id 0x0A (fun l s =>
    let all : Word := 0xFFFFFFFF
    let host := bit (l.ws.getD 8 0) 24
    let q := fld (l.ws.getD 8 0) 0 24
    let first := fld (l.ws.getD 12 0) 0 16
    let cnt := fld (l.ws.getD 12 0) 16 16
    if !s.reached .psa ∨ (!host ∧ !s.reached .links) then s.fail id .notReady
    else if !compatReserved l [0x1FFFFFF, all, all, all, all] then s.fail id .badCommand
    else if s.stk.sync = .acquiring ∨ s.stk.sync = .unlocked then s.fail id .notReady
    else if (s.model (l.w 4)).isNone then s.fail id .notFound
    else if (s.model (l.w 4)).any (fun m => decide (m.keyForm ≠ 0)) then s.fail id .badCommand
    else if !host ∧ (!s.qpnOk q ∨ (s.ctxPeek q).any (fun c => decide (c.state ≠ .reset ∧ c.tenant ≠ l.tenant))) then
      s.fail id .badCommand
    else match s.viewFor id l.tenant 0 with
    | (s, .error _) => s.fail id .notReady
    | (s, .ok snap) =>
      match s.probeView (compatKey l) snap with
      | none => s.fail id .notFound
      | some (i, v, multi) =>
        let p := s.psetAt v.ps
        if p.pages < first + cnt ∨ p.pages ≤ first then s.fail id .badCommand
        else
          let e : DEnt := { pset := v.ps, slot := i, first := first, pages := if cnt = 0 then p.pages - first else cnt,
                            pageSize := p.pageSize, addr := l.w64 10, staged := 0, acked := 0, multi := multi,
                            handed := false, st := if v.poison then .failed .poison else .active }
          let tgt : Target := if host then .host l.port else .conn q (l.w 9) 0
          s.startDlv l { id := id, target := tgt, ents := [e], layer := none, point := false }))

end Sys2Proof.Machine
end

