-- ==== Sys2Proof/Machine/Prefetch.lean ====
section
/-! DEFINITION. Plans (06 R224 to R228; 07 R242 to R245), prefetch steps (07 R246 to R251) and replica repair
(07 R260 to R265; 13 R496). -/

namespace Sys2Proof.Machine

/-! ### PLAN_LOAD (06 R224 to R228) -/

/-- An object of a plan: its layer, its slot, and the tier it is to have. -/
structure PlanObj where
  layer : Nat
  slot : Nat
  tier : Nat
  /-- TIER_PREF as the entry gives it. -/
  pref : Nat
  deriving DecidableEq, Repr

/-- Reserved bits of a plan entry. -/
def planEntryOk (bs : List Byte) : Bool :=
  let ws := wordsOf bs
  decide ((ws.getD 18 0) &&& 0xFCFC = 0) && (ws.drop 19).all (fun w => decide (w = 0))

/-- The objects that a plan's entries name: each a CURRENT object of the tenant's scope or public (06 R224). -/
def State.planObjs (s : State) (tenant : Nat) : List (List Byte × Key) → Option (List PlanObj)
  | [] => some []
  | (bs, k) :: r =>
    let w := (wordsOf bs).getD 18 0
    let form := formOf (bit w 8) (bit w 9)
    match s.current (k.stored form tenant) form, s.planObjs tenant r with
    | some (i, v), some os =>
      if (s.psetAt v.ps).object then
        some ({ layer := fld w 16 16, slot := i, tier := prefTier (fld w 0 2), pref := fld w 0 2 } :: os)
      else none
    | _, _ => none

/-- Bytes that an object adds in its tier (06 R225). -/
def State.planCharge (s : State) (o : PlanObj) : Nat :=
  let v := s.psetAt (s.slot o.slot).ps
  if v.has o.tier then 0 else v.charge o.tier

/-- Each object of a plan once: its first entry, which names the tier that it takes (log 62). -/
def planOnce (os : List PlanObj) : List PlanObj :=
  (os.zipIdx.filter (fun o => !(os.take o.2).any (fun x => decide (x.slot = o.1.slot)))).map (fun o => o.1)

/-- need(t) (06 R225). -/
def State.planNeed (s : State) (os : List PlanObj) (t : Nat) : Nat :=
  (((planOnce os).filter (fun o => decide (o.tier = t))).map s.planCharge).sum

/-- need(t) - room(t), or 0 (06 R225, R226): room(t) is the smaller of tenant room and tier room; a plan that adds nothing
in a tier needs no room there. -/
def State.planLack (s : State) (tenant : Nat) (os : List PlanObj) (t : Nat) : Nat :=
  let (a, b) := s.rooms tenant t
  if s.planNeed os t = 0 then 0 else (s.planNeed os t - min a b).toNat

/-- Layers with an object in a tier, ascending, with the charge that each adds there (06 R227). -/
def State.planLayers (s : State) (os : List PlanObj) (t : Nat) : List (Nat × Nat) :=
  let here := (planOnce os).filter (fun o => decide (o.tier = t))
  let ls := isort (fun a b => decide (a ≤ b)) ((here.map (fun o => o.layer)).eraseDups)
  ls.map (fun x => (x, ((here.filter (fun o => decide (o.layer = x))).map s.planCharge).sum))

/-- Indices floor((i + 0.5) n / m) for i below m (06 R227). -/
def spread (n m : Nat) : List Nat := (List.range m).map (fun i => (2 * i + 1) * n / (2 * m))

/-- The layers to move out of a short tier: the least m, up to the number of layers, whose chosen layers cover the
shortfall; recursion on fuel (06 R227). -/
def chooseLayers (ls : List (Nat × Nat)) (short : Nat) : Nat → Nat → Option (List Nat)
  | 0, _ => none
  | n + 1, m =>
    let chosen := (spread ls.length m).map (fun i => ls.getD i (0, 0))
    if short ≤ (chosen.map (fun e => e.2)).sum then some (chosen.map (fun e => e.1))
    else chooseLayers ls short n (m + 1)

/-- Whole layers of a short tier move to the next lower tier (06 R227): the objects and the layers moved; none when every
layer together does not cover the shortfall. -/
def State.planSpill (s : State) (tenant : Nat) (os : List PlanObj) (t : Nat) : Option (List PlanObj × List Nat) :=
  let short := s.planLack tenant os t
  if short = 0 then some (os, [])
  else
    let ls := s.planLayers os t
    (chooseLayers ls short ls.length 1).map (fun out =>
      (os.map (fun o => if o.tier = t ∧ out.contains o.layer then { o with tier := t + 1 } else o), out))

/-- Shortfalls of T0, T1 and T2. -/
def State.planShort (s : State) (tenant : Nat) (os : List PlanObj) : List Nat :=
  (List.range 3).map (s.planLack tenant os)

/-- FULL when the tier room binds in every short tier, else QUOTA (06 R226). -/
def State.planShortStatus (s : State) (tenant : Nat) (os : List PlanObj) : Status :=
  if (List.range 3).all (fun t =>
      let (a, b) := s.rooms tenant t
      decide (s.planLack tenant os t = 0) || decide (b < a)) then .full else .quota

/-- The completion of a plan that does not fit: words 3 to 7 hold the three shortfalls (12 R445). -/
def State.planRefuse (s : State) (id tenant : Nat) (os : List PlanObj) : State :=
  let sh := s.planShort tenant os
  let n := sh.getD 0 0 % 2 ^ 48 + 2 ^ 48 * (sh.getD 1 0 % 2 ^ 48) + 2 ^ 96 * (sh.getD 2 0 % 2 ^ 48)
  let st := s.planShortStatus tenant os
  (s.countFull st).complete id st
    (some (w32 n, (List.range 4).map (fun i => w32 (n / 2 ^ (32 * (i + 1))))))

/-- Room is made in every tier for what a plan adds there; the flag is false while points must pass first. -/
def State.planRequest (s : State) (tenant : Nat) (os : List PlanObj) : Nat → Nat → State × Bool
  | 0, _ => (s, true)
  | n + 1, t =>
    match s.request tenant t (s.planNeed os t) with
    | .fits s => s.planRequest tenant os n (t + 1)
    | .wait s => (s, false)
    | .short _ _ => (s, false)

/-- The moves of a plan start, and TIER_PREF takes the plan's values, where a move is due at its completion (06 R206, R210,
R228). -/
def State.planMoves (s : State) (id : Nat) : List PlanObj → Except Status State
  | [] => .ok s
  | o :: r =>
    let i := (s.slot o.slot).ps
    let v := s.psetAt i
    if v.level = o.tier then (s.setPref i (some o.pref)).planMoves id r
    else match s.beginMove i o.tier (.plan id) (some o.pref) none with
      | .ok s => s.planMoves id r
      | .error e => .error e

/-- The schedule: layers ascending with their objects (07 R243). -/
def planSchedule (os : List PlanObj) : List (Nat × List Nat) :=
  let ls := isort (fun a b => decide (a ≤ b)) ((os.map (fun o => o.layer)).eraseDups)
  ls.map (fun x => (x, (os.filter (fun o => decide (o.layer = x))).map (fun o => o.slot)))

/-- The first plan slot that neither holds a plan nor is being filled (07 R242). -/
def State.freePlan (s : State) : Option Nat :=
  (List.range 256).find? (fun i => !(s.plan i).valid && !s.pfs.jobs.any (fun j => decide (j.slot = i)))

/-- A plan that fits takes a slot and starts its moves (06 R228; 07 R242). -/
def State.planStart (s : State) (l : Live) (m : Model) (os : List PlanObj) (spilled : Nat) : State :=
  match s.freePlan with
  | none => s.fail l.id .notReady
  | some slot =>
    let g := (s.plan slot).gen
    let v : Plan := { gen := if g = 255 then 1 else g + 1, valid := false, tenant := l.tenant, model := m.id,
                      layers := (planSchedule os).map (fun e => (e.1, e.2.map s.keyOf)), compute := l.w 6 }
    let j : PlanJob := { id := l.id, slot := slot, spilled := spilled }
    let s1 := s.setPlan slot v
    let s1 := { s1 with pfs := { s1.pfs with jobs := s1.pfs.jobs ++ [j] } }
    match s1.planMoves l.id (planOnce os) with
    | .error e => s.fail l.id e
    | .ok s => ((if spilled = 0 then s else (s.bump (pg 0x19 + 0x1A0) spilled).raise 0x19 3).setRunning l.id).planCheck l.id

/-- A plan whose objects are known is tested, spilled and started (06 R225 to R228). -/
def State.planFit (s : State) (l : Live) (m : Model) (os : List PlanObj) : State :=
  let spill := fun (os : List PlanObj) (t : Nat) => if l.flag 1 then s.planSpill l.tenant os t else some (os, [])
  match spill os 0 with
  | none => s.planRefuse l.id l.tenant os
  | some (o1, x0) =>
  match spill o1 1 with
  | none => s.planRefuse l.id l.tenant o1
  | some (o2, x1) =>
  let moved := (x0 ++ x1).eraseDups.length
  if (s.planShort l.tenant o2).any (fun x => decide (0 < x)) then s.planRefuse l.id l.tenant o2
  else if (o2.any (fun o => decide (s.planCharge o ≠ 0) && decide (o.tier = 2))) ∧ s.flm.readOnly then s.fail l.id .readOnly
  else if o2.any (fun o => decide ((s.psetAt (s.slot o.slot).ps).level ≠ o.tier) && (s.moveOf (s.slot o.slot).ps).isSome) then
    s.fail l.id .conflict
  else match s.planRequest l.tenant o2 3 0 with
    | (s, false) => s
    | (s, true) =>
      if o2.any (fun o => decide ((s.slot o.slot).state ≠ .current)) then s.fail l.id .notFound
      else s.planStart l m o2 moved

/-- PLAN_LOAD (06 R224 to R228; 07 R242, R243). -/
def execPlanLoad (id : Nat) (s : State) : Res :=
  .next (s.onNew id 0x0B (fun l s =>
    let all : Word := 0xFFFFFFFF
    let n := l.w 7
    if l.flag 0 then s
    else if !s.reached .psa then s.fail id .notReady
    else if !(l.reservedOk 3 [0xFFFF, 0, all, 0x3FFF, all, all]) ∨ n = 0 ∨ 8192 < n then s.fail id .badCommand
    else match s.model (l.w 4) with
    | none => s.fail id .notFound
    | some m =>
      match s.workRead l.tenant l.port (l.w64 8) (128 * n) with
      | .error e => s.fail id e
      | .ok bs =>
        let es := pieces 128 n bs
        if !(es.all planEntryOk) then s.fail id .badCommand
        else match s.listKeys es with
        | .error e => s.fail id e
        | .ok ks =>
          match s.planObjs l.tenant ks with
          | none => s.fail id .notFound
          | some os =>
            let sched := planSchedule os
            if sched.any (fun e => decide (8 < e.2.length)) ∨ os.any (fun o => decide (m.layers ≤ o.layer)) then
              s.fail id .badCommand
            else if s.freePlan.isNone then s.fail id .notReady
            else s.planFit l m os))

/-- A record with a number below `since` names the plan of a slot (07 R245): a DELIVER with its PLAN_ID, or a
PREFETCH_STEP. -/
def State.planBusy (s : State) (since slot : Nat) : Bool :=
  s.que.live.any (fun l => l.isRecord && decide (l.id < since)
    && ((decide (l.op = 0x0A) && (s.plan slot).named slot l.tenant (l.w 9 % 2 ^ 16))
      || (decide (l.op = 0x00) && (s.plan slot).named slot l.tenant (fld (l.ws.getD 4 0) 16 16))))

/-- PLAN_UNLOAD (07 R245, R266): PLAN_LOAD with UNLOAD = 1 waits for the plan's records that have started by then; a plan that an
unload already waits for is loaded no more. -/
def execPlanUnload (id : Nat) (s : State) : Res :=
  .next (
    let finish := fun (s : State) (slot since : Nat) =>
      if s.planBusy since slot then s
      else
        let v := s.plan slot
        let s := s.setPlan slot { v with valid := false }
        let s := { s with pfs := { s.pfs with holds := s.pfs.holds.filter (fun h => decide (h.plan ≠ slot)),
                                              unloads := s.pfs.unloads.filter (fun u => decide (u.id ≠ id)) } }
        s.done id 0 [0, 0, 0, 0]
    match s.pfs.unloads.find? (fun u => decide (u.id = id)) with
    | some u => finish s u.slot u.since
    | none => s.onNew id 0x0B (fun l s =>
      if !(l.flag 0) then s
      else if !s.reached .psa then s.fail id .notReady
      else if !(l.reservedOk 3 [0xFFFF, 0xFFFF, 0xFFFFFFFF, 0x3FFF, 0xFFFFFFFF, 0xFFFFFFFF]) then s.fail id .badCommand
      else match s.planOf s.que.nextId l.tenant (l.w 5) with
      | none => s.fail id .notFound
      | some slot =>
        let u : Unload := { id := id, slot := slot, since := s.que.nextId }
        let s := { s with pfs := { s.pfs with unloads := s.pfs.unloads ++ [u] } }
        finish (s.setRunning id) slot u.since))

/-! ### The T1 cache in front of T2 (01 R24; 07 R249) -/

/-- Bytes that the T1 cache may take: its minimum and the T1 space that no placement uses (06 R218). -/
def State.cacheMax (s : State) : Nat := s.cfgFld (pg 0x19 + 0x10C) 0 16 * 1000000000 + s.freeSpace 1

/-- Layers of a step. -/
def Step.layers (x : Step) : List Nat := (List.range x.count).map (fun k => x.first + k)

/-- Layers that a step has begun to read and that have not been resident yet; one whose object is no longer CURRENT is passed
over. -/
def State.under (s : State) (x : Step) : List (Nat × Nat) :=
  ((x.layers.take (x.issued + b2n x.begun)).filter (fun y => !x.got.contains y && s.layerCurrent x.plan y)).map (fun y => (x.plan, y))

/-- Layers that are held: plan and layer, each once. -/
def State.heldLayers (s : State) : List (Nat × Nat) := (s.pfs.holds.map (fun h => (h.plan, h.layer))).eraseDups

/-- A page that a hold, a layer under way or a move keeps in the cache. -/
def State.cacheKept (s : State) (c : Cached) : Bool :=
  (s.moveOf c.pset).isSome ||
  (s.heldLayers ++ s.pfs.steps.flatMap s.under).any (fun e => s.layerHas e.1 e.2 c.pset)

/-- Drops the oldest pages that nothing keeps until the cache fits; recursion on fuel. -/
def State.cacheTrim : Nat → State → State
  | 0, s => s
  | n + 1, s =>
    let size := ((s.pfs.cache.filter (fun c => (s.moveOf c.pset).isNone)).map (fun c => (s.psetAt c.pset).pageSize)).sum
    if size ≤ s.cacheMax then s
    else match s.pfs.cache.find? (fun c => !s.cacheKept c) with
      | none => s
      | some c =>
        State.cacheTrim n { s with pfs := { s.pfs with cache := s.pfs.cache.filter (fun x => decide (x ≠ c)) } }

/-- A page lands in the T1 cache. -/
def State.cacheAdd (s : State) (i page : Nat) : State :=
  if s.cached i page then s
  else
    let c : Cached := { pset := i, page := page }
    let s := { s with pfs := { s.pfs with cache := s.pfs.cache ++ [c] } }
    s.cacheTrim s.pfs.cache.length

/-! ### Prefetch steps (07 R246 to R249) -/

/-- A step in progress. -/
def State.step_ (s : State) (id : Nat) : Option Step := s.pfs.steps.find? (fun x => decide (x.id = id))

/-- A step ends. -/
def State.stepEnd (s : State) (id : Nat) (st : Status) : State :=
  let s := { s with pfs := { s.pfs with steps := s.pfs.steps.filter (fun x => decide (x.id ≠ id)) } }
  (s.bump (pg pfsPage + 0x180)).complete id st (some (0, [0, 0, 0, 0]))

/-- A step ends once every layer of it has been resident (07 R249); NOTFOUND where a layer lists an object that is no longer
CURRENT (07 R246), POISON where a page that is not resident is poisoned (07 R260). -/
def State.stepCheck (s : State) (id : Nat) : State :=
  match s.step_ id with
  | none => s
  | some x =>
    let gone := x.layers.filter (fun y => !s.layerCurrent x.plan y)
    let bad := x.layers.any (fun y => !gone.contains y && !s.layerReady x.plan y
      && (s.layerSlots x.plan y).any (fun i => s.psetPoison (s.slot i).ps))
    if bad then s.stepEnd id .poison else
    if x.layers.all (fun y => gone.contains y || (s.layerReady x.plan y && (x.got.contains y || decide (s.layerBytes x.plan y = 0)))) then
      s.stepEnd id (if gone = [] then .ok else .notFound)
    else s

/-- PREFETCH_STEP (07 R246, R248; 02 R66): a started record of that kind; its command words 4 and 5 are record words
6 and 7. -/
def execPrefetchStep (id : Nat) (s : State) : Res :=
  .next (s.onNew id 0x00 (fun l s =>
    match l.src with
    | .record p iid _ =>
      let h := fld (l.ws.getD 4 0) 16 16
      let first := fld (l.ws.getD 4 0) 0 16
      let count := l.w 5
      let target := ((s.inst iid).map (fun x => x.target)).getD 0
      (match s.planOf l.id l.tenant h with
      | none => s.fail id .notFound
      | some slot =>
        if count = 0 ∨ (s.plan slot).count < first + count then s.fail id .badCommand
        else
          let x : Step := { id := id, plan := slot, port := p, target := target, first := first, count := count, issued := 0,
                             begun := false, got := [] }
          let s := { s with pfs := { s.pfs with steps := s.pfs.steps ++ [x] } }.setRunning id
          if bit (s.cfgReg (pg pfsPage + 0x100)) 0 then s.stepCheck id else s.stepEnd id .ok)
    | _ => s))

/-- Pages of a layer that are neither cached nor on their way. -/
def State.layerWants (s : State) (plan layer : Nat) : List (Nat × Nat) :=
  (s.layerSlots plan layer).flatMap (fun i =>
    let p := (s.slot i).ps
    let v := s.psetAt p
    if v.level = 2 then
      ((List.range v.pages).filter (fun k =>
        !s.cached p k && !s.pfs.reads.any (fun r => decide (r.pset = p ∧ r.page = k)))).map (fun k => (p, k))
    else [])

/-- Reads of the scheduler outstanding on a channel (07 R248). -/
def State.chanReads (s : State) (ch : Nat) : Nat := (s.pfs.reads.filter (fun r => decide (r.ch = ch) && r.pfs)).length

/-- Bytes of the T1 cache that some layers take. -/
def State.spaceOf (s : State) (ls : List (Nat × Nat)) : Nat := (ls.map (fun e => s.layerBytes e.1 e.2)).sum

/-- Bytes held (07 R249). -/
def State.heldBytes (s : State) : Nat := s.spaceOf s.heldLayers

/-- Bytes of the layers that are held or under way in any step, with a further layer (07 R249). -/
def State.holdNeed (s : State) (more : Nat × Nat) : Nat :=
  s.spaceOf (s.heldLayers ++ s.pfs.steps.flatMap s.under ++ [more]).eraseDups

/-- PFS_HOLD.MAX_GB in bytes. -/
def State.holdMax (s : State) : Nat := s.cfgFld (pg pfsPage + 0x10C) 0 16 * 1000000000

/-- A layer is held for an instance. -/
def State.isHold (s : State) (x : Step) (layer : Nat) : Bool :=
  s.pfs.holds.any (fun h => decide (h.plan = x.plan ∧ h.layer = layer ∧ h.port = x.port ∧ h.target = x.target))

/-- The layer whose reads a step issues next. -/
def Step.next (x : Step) : Nat := x.first + x.issued

/-- A layer lies beyond the lookahead of the step's instance (07 R247). -/
def State.tooFar (s : State) (x : Step) : Bool :=
  match s.currentLayer x.plan x.port x.target with
  | none => false
  | some c => decide (c + s.cfgFld (pg pfsPage + 0x104) 0 4 < x.next)

/-- A step issues reads now: not suspended, its next layer within the lookahead and within MAX_GB (07 R247, R249). -/
def State.issues (s : State) (x : Step) : Bool :=
  !s.shut x.id && decide (x.issued < x.count) && s.layerCurrent x.plan x.next && !s.tooFar x
    && decide (s.holdNeed (x.plan, x.next) ≤ s.holdMax)

/-- The step whose turn a channel is (07 R248): the steps that have a read for it take turns in the order in which they
started. -/
def State.chanTurn (s : State) (ch : Nat) : Option Nat :=
  let want := s.pfs.steps.filter (fun x => s.issues x
    && (s.layerWants x.plan x.next).any (fun e => decide (s.t2Channel e.1 e.2 = ch)))
  let after := match s.pfs.turn.find? (fun e => decide (e.1 = ch)) with
    | some e => want.filter (fun x => decide (e.2 < x.id))
    | none => []
  ((after ++ want).head?).map (fun x => x.id)

/-- One round of a step: on each channel that holds a page of its layer and whose turn it is, one read while the channel's
depth allows (07 R248). -/
def State.readRound (s : State) (x : Step) : State :=
  let want := s.layerWants x.plan x.next
  let pick := want.zipIdx.filter (fun e =>
    let ch := s.t2Channel e.1.1 e.1.2
    !(want.take e.2).any (fun x => decide (s.t2Channel x.1 x.2 = ch))
      && decide (s.chanReads ch < s.cfgFld (pg pfsPage + 0x108) 0 8) && decide (s.chanTurn ch = some x.id))
  let chs := pick.map (fun e => s.t2Channel e.1.1 e.1.2)
  let turn := s.pfs.turn.filter (fun e => !chs.contains e.1) ++ chs.map (fun ch => (ch, x.id))
  let s := { s with pfs := { s.pfs with
    turn := turn,
    steps := updIf s.pfs.steps (fun z => decide (z.id = x.id)) (fun z => { z with begun := true }) } }
  pick.foldl (fun s e => s.needPages e.1.1 [e.1.2] false true) s

/-- A step goes on to its next layer. -/
def State.stepNext (s : State) (id : Nat) : State :=
  { s with pfs := { s.pfs with
      steps := updIf s.pfs.steps (fun z => decide (z.id = id)) (fun z => { z with issued := z.issued + 1, begun := false }) } }

/-- PREFETCH_READ_ISSUE (07 R246 to R249): the next round of the lowest layer not wholly issued; a step that has issued all its
reads ends where an object has left CURRENT and its other layers are resident. -/
def execPrefetchReadIssue (id : Nat) (s : State) : Res :=
  .next (match s.step_ id with
    | none => s
    | some x =>
      if s.shut id then s
      else if x.count ≤ x.issued then s.stepCheck id
      else if !s.layerCurrent x.plan x.next then (s.stepNext id).stepCheck id
      else if s.tooFar x then s
      else if s.holdMax < s.holdNeed (x.plan, x.next) then s.raise pfsPage 6
      else
        let s := s.readRound x
        if s.layerWants x.plan x.next = [] then s.stepNext id else s)

/-- LAYER_RESIDENT (07 R246, R249): the last page of a layer has landed; the layer is held, within MAX_GB. A layer with an object
that is no longer CURRENT is none to hold. -/
def execLayerResident (id layer : Nat) (s : State) : Res :=
  .next (match s.step_ id with
    | none => s
    | some x =>
      if !x.layers.contains layer then s
      else if !s.layerCurrent x.plan layer then s.stepCheck id
      else if !s.layerReady x.plan layer then s
      else if s.layerBytes x.plan layer = 0 ∨ x.got.contains layer then s.stepCheck id
      else if s.holdMax < s.holdNeed (x.plan, layer) then s.raise pfsPage 6
      else
        let h : Hold := { plan := x.plan, layer := layer, port := x.port, target := x.target, used := false }
        let h := { h with used := decide (s.holdUsers h ≠ []) }
        let s := { s with pfs := { s.pfs with
          holds := if s.isHold x layer then s.pfs.holds else s.pfs.holds ++ [h],
          steps := updIf s.pfs.steps (fun z => decide (z.id = id)) (fun z => { z with got := z.got ++ [layer] }) } }
        s.stepCheck id)

/-! ### Replica repair (07 R261 to R265; 13 R496) -/

/-- The open repair in a repair slot. -/
def State.repairIn (s : State) (rs : Nat) : Option Repair :=
  s.pfs.repairs.find? (fun r => decide (r.rs = rs ∧ r.st ≠ .waiting))

/-- A repair, changed. -/
def State.updRepair (s : State) (r : Repair) (f : Repair → Repair) : State :=
  { s with pfs := { s.pfs with
      repairs := updIf s.pfs.repairs (fun x => decide (x.slot = r.slot ∧ x.page = r.page)) f } }

/-- A repair is closed. -/
def State.dropRepair (s : State) (r : Repair) : State :=
  { s with pfs := { s.pfs with repairs := s.pfs.repairs.filter (fun x => decide (x.slot ≠ r.slot ∨ x.page ≠ r.page)) } }

/-- The network DELIVER of a repair (13 R496): 64 command bytes and the entry. -/
def repairMsg (rs page : Nat) (k : Key) (form : Nat) : List Byte :=
  let cmd : List Word := [0x20A, 0] ++ split64 rs ++ [0, w32 (0x100 + rs), 0, 0, 0, w32 (2 ^ 16), 0, 0, 0, 0, 0, 0]
  bytesOf cmd ++ leBytes 72 (k.masked form).num ++ bytesOf [w32 (2 ^ 16 + page)] ++ List.replicate 52 0

/-- Answers that arrived on a connection for a repair slot: SEND messages whose immediate holds the slot in bits
31:8 and 0xFF in bits 7:0 (13 R495). -/
def repairAnswer (rs : Nat) (m : Option Word × List Byte) : Bool :=
  decide (m.1 = some (w32 (rs * 256 + 0xFF)))

/-- An attempt of a repair is sent on the model's route (07 R262). -/
def State.repairSend (s : State) (r : Repair) (rs q : Nat) : State :=
  let v := s.slot r.slot
  let m := repairMsg rs r.page v.key v.form
  let s := { s with net := { s.net with rbuf := s.net.rbuf.clear (2 ^ 21 * rs) (2 ^ 21),
                                        closed := s.net.closed.filter (fun c => decide (c.1 ≠ rs)) } }
  let s := s.updRepair r (fun x => { x with tries := x.tries + 1, st := .sent s.clk, rs := rs, qpn := q })
  let c := s.conn q
  let s := s.setConn q { c with inbox := c.inbox.filter (fun m => !repairAnswer rs m) }
  if (s.ctxPeek q).any (fun c => c.live) then
    s.post q ((s.ctx q).fld 0 17 3) (.repair rs) false 0 0 none m.length m
  else s

/-- The connection that repairs of an object go over (07 R262): none without a route, or where REPAIR_EN is 0. -/
def State.repairRoute (s : State) (r : Repair) : Option Nat :=
  (s.route (s.slot r.slot).key.model).filter (fun q => bit (s.cfgReg (pg pfsPage + 0x100)) 1 && s.qpnOk q)

/-- A repair that has no route is given up: REPAIR_NEEDED, and the page is named (07 R263). -/
def State.repairNeeded (s : State) (r : Repair) : State :=
  ((s.dropRepair r).raise pfsPage 3).lastPoison r.slot r.page

/-- REPAIR_REQUEST (07 R262, R263): the oldest page that waits takes repair slot `slot`; one that has no route any more is given up. -/
def execRepairRequest (slot : Nat) (s : State) : Res :=
  .next (match s.pfs.repairs.find? (fun r => decide (r.st = .waiting)) with
    | none => s
    | some r =>
      if 256 ≤ slot ∨ (s.repairIn slot).isSome ∨ !s.reached .links then s
      else match s.repairRoute r with
        | none => s.repairNeeded r
        | some q => s.repairSend r slot q)

/-- An attempt has failed: it is tried again RETRY_MS later, or given up when the retries are exhausted (07 R263). -/
def State.repairFails (s : State) (r : Repair) : State :=
  if s.cfgFld (pg pfsPage + 0x114) 24 8 < r.tries then
    ((s.dropRepair r).count pfsPage 0x198 5).lastPoison r.slot r.page
  else s.updRepair r (fun x => { x with st := .failed s.clk })

/-- A page restored to its published bytes (05 R184; 07 R260): POISON clears with the last one; an entry that has
no copy left holds the restored pages in T1; a T2 copy is written to a new location. -/
def State.repairDone (s : State) (r : Repair) (bs : List Byte) : State :=
  let s := (s.dropRepair r).count pfsPage 0x194 4
  let v := s.slot r.slot
  let i := v.ps
  let bad := v.badPages.filter (fun p => decide (p ≠ r.page))
  let s := s.writePage i r.page 0 bs
  let s := s.setSlot r.slot { v with badPages := bad, poison := decide (bad ≠ []) }
  let p := s.psetAt i
  let s := if bad = [] ∧ !p.t0 ∧ !p.t1 ∧ !p.t2 then s.setPset i { p with t1 := true, level := 1 } else s
  let s := if p.t2 then s.rewritePage i r.page else s
  let s := if bad = [] then s.raise 0x18 3 else s
  s.dirUpdate r.slot

/-- REPAIR_RESPONSE (07 R261, R263; 13 R496): the answer for a repair slot is taken and tested. -/
def execRepairResponse (slot : Nat) (s : State) : Res :=
  .next (match s.repairIn slot with
    | none => s
    | some r =>
      match r.st, (s.conn r.qpn).inbox.find? (repairAnswer slot) with
      | .sent _, some m =>
        let c := s.conn r.qpn
        let s := s.setConn r.qpn { c with inbox := c.inbox.erase m }
        let st := fld ((wordsOf m.2).getD 2 0) 0 8
        let p := s.psetAt (s.slot r.slot).ps
        let bs := s.net.rbuf.rdBytes (2 ^ 21 * slot) p.pageSize
        if st ≠ 0 ∨ some (crc64 bs) ≠ p.checks[r.page]? then s.repairFails r
        else s.repairDone r bs
      | _, _ => s)

/-- REPAIR_TIMEOUT (07 R263). -/
def execRepairTimeout (slot t : Nat) (s : State) : Res :=
  let s := s.at_ t
  .next (match s.repairIn slot with
    | none => s
    | some r =>
      match r.st with
      | .sent a => if a + s.cfgFld (pg pfsPage + 0x114) 16 8 * 1000000 ≤ s.clk then s.repairFails r else s
      | _ => s)

/-- REPAIR_RETRY (07 R263): RETRY_MS after a failed attempt the repair is tried again. -/
def execRepairRetry (slot t : Nat) (s : State) : Res :=
  let s := s.at_ t
  .next (match s.repairIn slot with
    | none => s
    | some r =>
      match r.st with
      | .failed a =>
        if s.clk < a + s.cfgFld (pg pfsPage + 0x114) 0 16 * 1000000 then s
        else match s.repairRoute r with
          | some q => s.repairSend r slot q
          | none => s.repairNeeded r
      | _ => s)

end Sys2Proof.Machine
end

