-- ==== Sys2Proof/Machine/Engines.lean ====
section
/-! DEFINITION. The burin engines and the chip sequencer (08 R268 to R300): live engines, tile assignment, jobs and
their operations, what ends a job (09 R318 to R330), tag counters (13 R499, R500), failures. -/

namespace Sys2Proof.Machine

/-- Page of core `c`. -/
def brnPage (c : Nat) : Nat := 0x20 + c

/-- Page of the near-page attention front end. -/
def npaPage : Nat := 0x30

/-! ### Engines and cores -/

/-- A core. -/
def State.core (s : State) (c : Nat) : Core := sget s.brn.core Core.reset c

/-- A core, set. -/
def State.setCore (s : State) (c : Nat) (v : Core) : State :=
  { s with brn := { s.brn with core := sset s.brn.core Core.reset c v } }

/-- Engine `e` of core `c`. -/
def State.engine (s : State) (c e : Nat) : Eng := sget s.brn.eng Eng.reset (8 * c + e)

/-- Engine `e` of core `c`, set. -/
def State.setEngine (s : State) (c e : Nat) (v : Eng) : State :=
  { s with brn := { s.brn with eng := sset s.brn.eng Eng.reset (8 * c + e) v } }

/-- The engine has not failed and is enabled, as its core (08 R292, R300). -/
def State.engOk (s : State) (c e : Nat) : Bool :=
  let k := s.core c
  !k.failed && bit k.cfg 8 && bit k.cfg e && !(s.engine c e).failed

/-- The engine is live: in the array (08 R276). -/
def State.engLive (s : State) (c e : Nat) : Bool := s.engOk c e && (s.engine c e).testing.isNone

/-- Live engines of a core. -/
def State.liveOf (s : State) (c : Nat) : List Nat := (List.range 8).filter (s.engLive c)

/-- Cores with a live engine. -/
def State.liveCores (s : State) : List Nat := (List.range 16).filter (fun c => !(s.liveOf c).isEmpty)

/-- Live engines of the chip. -/
def State.liveEngines (s : State) : Nat := ((List.range 16).map (fun c => (s.liveOf c).length)).sum

/-- Core that serves a slice (08 R295). -/
def State.sliceServer (s : State) (c : Nat) : Nat :=
  if !(s.core c).failed then c
  else
    let b := c ^^^ 1
    match (List.range 16).find? (fun k => !(s.core ((b + k) % 16)).failed) with
    | some k => (b + k) % 16
    | none => c

/-! ### Tile assignment (08 R276) -/

/-- The core whose plate slice holds a tile's page; none for a page outside T0. -/
def State.tileHome (s : State) (t : Tile) : Option Nat :=
  if t.paged ∧ (s.psetAt t.pset).level = 0 then some (s.homeOf t.pset t.page) else none

/-- First loop: tiles to their home cores up to the quotas. -/
def dealHome (home : Tile → Option Nat) (quota : Nat → Nat) : List Nat → List Tile → List (Option Nat)
  | _, [] => []
  | cnt, t :: r =>
    match home t with
    | some c =>
      if cnt.getD c 0 < quota c then some c :: dealHome home quota (cnt.modify c (· + 1)) r
      else none :: dealHome home quota cnt r
    | none => none :: dealHome home quota cnt r

/-- Live core with the lowest assigned(c) / live(c), the lowest number on ties. -/
def lowestCore (live : Nat → Nat) (cnt : List Nat) : List Nat → Nat → Nat
  | [], b => b
  | c :: r, b => lowestCore live cnt r (if cnt.getD c 0 * live b < cnt.getD b 0 * live c then c else b)

/-- Third loop: the tiles not yet given. -/
def dealRest (live : Nat → Nat) (cores : List Nat) : List Nat → List (Option Nat) → List Nat
  | _, [] => []
  | cnt, some c :: r => c :: dealRest live cores cnt r
  | cnt, none :: r =>
    let c := lowestCore live cnt cores (cores.headD 0)
    c :: dealRest live cores (cnt.modify c (· + 1)) r

/-- Fourth loop: the tiles of a core to its live engines in turn. -/
def dealEngines (engs : Nat → List Nat) : List Nat → List Nat → List Nat
  | _, [] => []
  | cnt, c :: r =>
    let es := engs c
    es.getD (cnt.getD c 0 % es.length) 0 :: dealEngines engs (cnt.modify c (· + 1)) r

/-- Tiles per core in a list of cores. -/
def coreCounts (cs : List Nat) : List Nat := (List.range 16).map (fun c => (cs.filter (fun x => decide (x = c))).length)

/-- The tiles of an operation on the live engines (08 R276). -/
def State.deal (s : State) (ts : List Tile) : List Given :=
  let live := fun (c : Nat) => (s.liveOf c).length
  let total := s.liveEngines
  let quota := fun (c : Nat) => if live c = 0 then 0 else ceilDiv' (ts.length * live c) total
  let zero := List.replicate 16 0
  let home := dealHome s.tileHome quota zero ts
  let cores := dealRest live s.liveCores (coreCounts (home.filterMap id)) home
  let engs := dealEngines s.liveOf zero cores
  (ts.zip (cores.zip engs)).zipIdx.map (fun e =>
    ({ n := e.2, tile := e.1.1, core := e.1.2.1, eng := e.1.2.2, startedAt := s.clk, result := none } : Given))

/-! ### Jobs -/

/-- An ATTEND-class command in flight. -/
def State.job (s : State) (id : Nat) : Option Job := s.npa.jobs.find? (fun j => decide (j.id = id))

/-- A job, changed. -/
def State.updJob (s : State) (id : Nat) (f : Job → Job) : State :=
  { s with npa := { s.npa with jobs := updIf s.npa.jobs (fun j => decide (j.id = id)) f } }

/-- Word of the parameter block. -/
def Job.w (j : Job) (i : Nat) : Nat := wd j.par i

/-- Field of a parameter word. -/
def Job.f (j : Job) (i lo n : Nat) : Nat := fld (j.par.getD i 0) lo n

/-- The descriptor of a job's model. -/
def State.jobModel (s : State) (j : Job) : Model := (s.model j.model).getD (modelOf [])

/-- ATTEND or ATTEND_SPARSE: results by request. -/
def Job.isAttend (j : Job) : Bool := decide (j.opcode = 0x0C ∨ j.opcode = 0x0D)

/-- GROUP. -/
def Job.group (j : Job) : Nat := j.f 6 24 8

/-- QFMT. -/
def Job.qfmt (j : Job) : Nat := j.f 6 16 8

/-- Query heads. -/
def State.jobQh (s : State) (j : Job) : Nat := j.group * (s.jobModel j).heads

/-- Tokens of entry `i`, with 0 counted as BLOCK_LEN when it was read (09 R315). -/
def Job.tok (j : Job) (i : Nat) : Nat := ((j.ents[i]?).map (fun e => e.tokens)).getD 0

/-- T_i (09 R315). -/
def Job.before (j : Job) (i : Nat) : Nat := ((j.ents.take i).map (fun e => e.tokens)).sum

/-- Unmasked positions of entry `i` for request `r` (09 R315, selection aside). -/
def Job.unmasked (j : Job) (r i : Nat) : Nat :=
  let lim := ((j.reqs[r]?).map (fun q => q.limit)).getD 0
  if lim = 0 then j.tok i else min (j.tok i) (lim - j.before i)

/-- Request `r` has not failed. -/
def Job.reqOk (j : Job) (r : Nat) : Bool := ((j.reqs[r]?).map (fun q => decide (q.st = .ok))).getD false

/-- Entry `i` of a REROTATE or REPACK has not failed. -/
def Job.entOk (j : Job) (i : Nat) : Bool := ((j.ents[i]?).map (fun e => decide (e.st = .ok))).getD false

/-- A tile without the rows of failed requests. -/
def Job.prune (j : Job) (t : Tile) : Tile := { t with rows := t.rows.filter (fun x => j.reqOk x.1) }

/-- The tile still has work. -/
def Job.hasWork (j : Job) (t : Tile) : Bool :=
  if j.isAttend then !(j.prune t).rows.isEmpty else j.entOk t.ent

/-- Pages that an operation reads: page set and page. -/
def Job.opPages (j : Job) (op : Oper) : List (Nat × Nat) :=
  if op.kind = .score ∨ op.kind = .merge then [] else ((op.tiles.filter j.hasWork).map (fun t => (t.pset, t.page))).eraseDups

/-- Every page of an operation can be read, or is poisoned. -/
def State.opReady (s : State) (j : Job) (op : Oper) : Bool :=
  (j.opPages op).all (fun p => s.pageReady p.1 p.2 || s.psetPoison p.1)

/-- A request of an ATTEND fails (09 R313, R330). -/
def State.failReq (s : State) (id r : Nat) (st : Status) : State :=
  match s.job id with
  | none => s
  | some j =>
    if j.reqOk r then
      (s.updJob id (fun j => { j with reqs := j.reqs.modify r (fun q => { q with st := st }) })).count npaPage 0x190 2
    else s

/-- An entry of a REROTATE or REPACK fails. -/
def State.failAEnt (s : State) (id i : Nat) (st : Status) : State :=
  match s.job id with
  | none => s
  | some j =>
    if j.entOk i then
      (s.updJob id (fun j => { j with ents := j.ents.modify i (fun e => { e with st := st }) })).count npaPage 0x190 2
    else s

/-- Status list of a job: its requests, or its entries. -/
def Job.sts (j : Job) : List Status := if j.isAttend then j.reqs.map (fun q => q.st) else j.ents.map (fun e => e.st)

/-- OK_COUNT, FAIL_INDEX and FAIL_STATUS (09 R329; 12 R445). -/
def Job.result (j : Job) : List Word :=
  let l := j.sts
  let ok := (l.filter (fun x => decide (x = .ok))).length
  match l.zipIdx.find? (fun x => decide (x.1 ≠ .ok)) with
  | some x => [w32 ok, w32 x.2, w32 x.1.code, 0]
  | none => [w32 ok, 0, 0, 0]

/-- Status of a job whose work has ended (09 R330). -/
def Job.status (j : Job) : Status :=
  if j.sts.any (fun x => decide (x = .ok)) then (if j.multi then .multi else .ok) else j.sts.headD .ok

/-- The job's own operations have ended. -/
def Job.worked (j : Job) : Bool :=
  match j.stage with
  | .score | .ops => false
  | _ => true

/-- Result words of a job that ends with a status that is not its own: the failed requests or entries as they stand, and
none completed OK before the operations ended (09 R329; DEDUCED, log 156). -/
def Job.cutResult (j : Job) : List Word := if j.worked then j.result else 0 :: j.result.tail

/-- A job ends: it leaves, and its command completes. `st` none is its own status (09 R329). -/
def State.jobFinish (s : State) (id : Nat) (st : Option Status) : State :=
  match s.job id with
  | none => s
  | some j =>
    let s := { s with npa := { s.npa with jobs := s.npa.jobs.filter (fun x => decide (x.id ≠ id)) } }
    let s := s.bump (pg npaPage + 0x180)
    match st with
    | none => s.complete id j.status (some (0, j.result))
    | some e => s.complete id e (some (0, j.cutResult))

/-! ### Result blocks (09 R318 to R321) -/

/-- Result block size: header and records. -/
def State.blockSize (s : State) (j : Job) : Nat :=
  64 + j.reqs.length * s.jobQh j * (64 + 4 * (s.jobModel j).headDim)

/-- The running result of a request and query head; a failed request's is neutral with its status (09 R320). -/
def State.jobRec (s : State) (j : Job) (r g : Nat) : Rec :=
  let d := (s.jobModel j).headDim
  match j.reqs[r]? with
  | none => Rec.neutral d 0
  | some q =>
    if q.st ≠ .ok then Rec.neutral d q.st.code
    else match j.recs.find? (fun x => decide (x.1 = r ∧ x.2.1 = g)) with
      | some x => x.2.2
      | none => Rec.neutral d 0

/-- Requests and query heads in block order. -/
def State.blockIx (s : State) (j : Job) : List (Nat × Nat) :=
  (List.range j.reqs.length).flatMap (fun r => (List.range (s.jobQh j)).map (fun g => (r, g)))

/-- The result block of records in block order, and how many records have a NaN in m or l (09 R318, R319, R322). -/
def State.blockOf (s : State) (j : Job) (tag : Nat) (recs : List Rec) : List Byte × Nat :=
  let qh := s.jobQh j
  let fin := j.f 16 31 1
  let ftz := numFtz s.brn.num
  let recs := if fin = 1 then recs.map (finalizeRec ftz) else recs
  let ok := ((List.range j.reqs.length).filter (fun r =>
    decide (((recs[r * qh]?).map (fun x => x.st)).getD 0 = 0))).length
  let head := split64 tag ++ split64 j.stripe
    ++ [w32 (qh * 2 ^ 16 + j.reqs.length), w32 ((s.jobModel j).headDim * 2 ^ 16 + j.f 0 0 16),
        w32 (fin * 2 ^ 31 + ok), w32 j.tokens] ++ split64 s.stk.stroke ++ List.replicate 6 0
  (bytesOf head ++ (recs.zip (s.blockIx j)).flatMap (fun x =>
      x.1.bytes x.2.2 (((j.reqs[x.2.1]?).map (fun q => q.reqId)).getD 0)),
   (recs.filter Rec.isNan).length)

/-- The block is made and waits for staging (09 R321). -/
def State.blockMade (s : State) (id tag : Nat) (recs : List Rec) : State :=
  match s.job id with
  | none => s
  | some j =>
    let (b, nan) := s.blockOf j tag recs
    s.updJob id (fun j => { j with block := b, nan := nan, stage := .stage, ops := [] })

/-- Records written with a NaN are counted (09 R322, R339). -/
def State.countNan (s : State) (n : Nat) : State :=
  if n = 0 then s
  else
    let s := s.bump (pg npaPage + 0x19C) n
    if bit (s.cfgReg (pg npaPage + 0x100)) 1 then s.raise npaPage 1 else s

/-- Staging bytes of result blocks (09 R321). -/
def State.npaStaged (s : State) : Nat :=
  ((s.npa.jobs.filter (fun j => decide (j.stage = .sent))).map (fun j => j.block.length)).sum

/-- NPA_STAGE.MAX_MIB in bytes. -/
def State.npaStageMax (s : State) : Nat := s.cfgFld (pg npaPage + 0x104) 0 8 * 2 ^ 20

/-- The block fits; one larger than the pool takes it all. -/
def State.stageFits (s : State) (j : Job) : Bool :=
  decide (s.npaStaged + min j.block.length s.npaStageMax ≤ s.npaStageMax)

/-- The block with STROKE, the stroke in which it is written (09 R318). -/
def Job.stamped (j : Job) (stroke : Nat) : List Byte := j.block.take 32 ++ bytesOf (split64 stroke) ++ j.block.drop 40

/-- The last byte is in staging: the completion point, and the block goes to its target (09 R321); a write that fails leaves its bytes
undefined (11 R639). -/
def State.jobSend (s : State) (j : Job) : State :=
  match s.live j.id with
  | none => s
  | some l =>
    let j := { j with block := j.stamped s.stk.stroke, stage := .sent }
    let s := ((s.updJob j.id (fun _ => j)).countNan j.nan).recPoint l
    let base := wd64 j.par 14
    let tgt := j.f 12 30 2
    if tgt = 0 then
      let q := j.f 12 0 24
      if (s.ctxPeek q).any (fun c => c.live) then
        s.post q (j.f 12 27 3) (.result j.id) true base (j.w 13)
          (some (w32 (l.tag % 2 ^ 24 * 256 + j.f 16 16 8))) j.block.length j.block
      else s.jobFinish j.id (some .timeout)
    else if tgt = 3 then
      match s.rsvRange l.tenant base j.block.length false with
      | some (i, page, off, ps) => (s.linWrite i ps page off 0 j.block).jobFinish j.id none
      | none => s.jobFinish j.id (some .conflict)
    else match s.workWrite l.tenant (l.toPort (tgt - 1)) base j.block with
      | .ok s => s.jobFinish j.id none
      | .error e => (s.undefHost (tgt - 1) base (if e = .busError then j.block.length else 0)).jobFinish j.id (some e)

/-- A job whose block waits for room in staging. -/
def State.stageWaits (s : State) (j : Job) : Bool := decide (j.stage = .stage) && !s.shut j.id

/-- Blocks go to staging in order while they fit; recursion on fuel. -/
def State.stageLoop : Nat → State → State
  | 0, s => s
  | n + 1, s =>
    match s.npa.jobs.find? s.stageWaits with
    | some j => if s.stageFits j then State.stageLoop n (s.jobSend j) else s
    | none => s

/-- Commands that wait for staging are counted, each once (09 R321, R339). -/
def State.countStageWaits (s : State) : State :=
  let new := fun (j : Job) => s.stageWaits j && !j.waited
  let n := (s.npa.jobs.filter new).length
  if n = 0 then s
  else
    (({ s with npa := { s.npa with jobs := updIf s.npa.jobs new (fun j => { j with waited := true }) } }).bump
      (pg npaPage + 0x1A0) n).raise npaPage 3

/-- Staging may have room; what finds none waits. -/
def State.stageCheck (s : State) : State := (s.stageLoop (s.npa.jobs.length + 1)).countStageWaits

/-- A job ends, and what it held of staging is free. -/
def State.jobEnd (s : State) (id : Nat) (st : Option Status) : State := (s.jobFinish id st).stageCheck

/-! ### Tag counters and waiters (13 R499, R500) -/

/-- Count of a tag. -/
def State.tagCount (s : State) (tag : Nat) : Nat :=
  ((s.net.tags.find? (fun t => decide (t.tag = tag))).map (fun t => t.count)).getD 0

/-- Takes `n` arrivals from a tag's counter; one at 0 is freed. -/
def State.tagTake (s : State) (tag n : Nat) : State :=
  { s with net := { s.net with tags := (updIf s.net.tags (fun t => decide (t.tag = tag))
      (fun t => { t with count := t.count - n, at_ := s.clk })).filter (fun t => decide (t.count ≠ 0)) } }

/-- A waiter on a tag: its place, its need, and what it is. -/
inductive Waiter where
  | armed (a : Armed)
  | merge (id : Nat)

/-- The waiters on a tag in the order in which they began to wait (13 R500). -/
def State.waiters (s : State) (tag : Nat) : List (Nat × Nat × Waiter) :=
  let as := (s.net.armed.filter (fun a => decide (wd a.ws 0 = tag))).map (fun a =>
    (a.n, fld (a.ws.getD 1 0) 0 16, Waiter.armed a))
  let ms := s.npa.jobs.filterMap (fun j => match j.stage with
    | .merge _ n => if j.w 17 = tag then some (n, j.f 16 0 6, Waiter.merge j.id) else none
    | _ => none)
  isort (fun a b => decide (a.1 ≤ b.1)) (as ++ ms)

/-- A satisfied waiter: the armed entry's command is enabled, or the merge operation is ready (13 R500; 09 R327). -/
def State.satisfy (s : State) (w : Waiter) : State :=
  match w with
  | .armed a =>
    let s := { s with net := { s.net with armed := s.net.armed.filter (fun x => decide (x.n ≠ a.n)) } }
    s.acceptRun (.trigger a.port (wd a.ws 0) (wd a.ws 1)) a.tenant false (a.ws.drop 16) (wd64 (a.ws.drop 16) 2) none
  | .merge id =>
    s.updJob id (fun j => { j with stage := .merged, ops := [{ id := id, kind := .merge, tiles := [] }] })

/-- The waiters on a tag are tested (13 R500). -/
def State.tagTest (s : State) (tag : Nat) : State :=
  (s.waiters tag).foldl (fun s w =>
    if w.2.1 ≤ s.tagCount tag then (s.tagTake tag w.2.1).satisfy w.2.2 else s) s

/-! ### Cutting commands into operations (09 R324; 08 R271) -/

/-- Consecutive pieces of `k`; recursion on the count. -/
def groupsOf {α : Type} (k : Nat) (l : List α) : List (List α) :=
  (List.range (ceilDiv' l.length k)).map (fun i => (l.drop (i * k)).take k)

/-- Tile time in engine cycles (08 R289; 09 R332); that of a REROTATE or REPACK tile is a free value (log 192). -/
def State.tileCycles (s : State) (j : Job) (kind : OpKind) (t : Tile) : Option Nat :=
  let m := s.jobModel j
  match kind with
  | .attend => some (attendCycles m j.qfmt t.rows.length)
  | .score => some (scoreCycles m (min 64 (j.ents.length - t.ent)))
  | .rerotate => some (Config.pageTileCycles 0 m.pageSize)
  | .convert => some (Config.pageTileCycles 1 m.pageSize)
  | .landmark => some (Config.pageTileCycles 2 m.pageSize)
  | .merge => none

/-- A tile list meets the limits of 08 R271: at 128 engines and 1.4 GHz. -/
def State.opFits (s : State) (j : Job) (kind : OpKind) (ts : List Tile) : Bool :=
  let top := (ts.map (fun t => (s.tileCycles j kind t).getD 0)).foldl max 0
  decide (ts.length ≤ 65536) && decide (ceilDiv' ts.length 128 * top ≤ fld s.brn.seq 0 8 * 1400)

/-- Whole units packed in order; recursion on the units. `cur` is what the open operation holds. -/
def packUnits (fits : List Tile → Bool) : List Tile → List (List Tile) → List (List Tile)
  | cur, [] => if cur = [] then [] else [cur]
  | cur, u :: r =>
    if cur = [] ∨ fits (cur ++ u) then packUnits fits (cur ++ u) r
    else cur :: packUnits fits u r

/-- Tiles of one entry by KV head. -/
def byHead (ts : List Tile) : List (List Tile) :=
  ((ts.map (fun t => t.head)).eraseDups).map (fun h => ts.filter (fun t => decide (t.head = h)))

/-- An entry that exceeds the limits alone, split by heads and then by row groups (09 R324). -/
def splitUnit (fits : List Tile → Bool) (u : List Tile) : List (List Tile) :=
  packUnits fits [] ((byHead u).flatMap (fun h => if fits h then [h] else h.map (fun t => [t])))

/-- Operations of whole units; units too large alone are split; recursion on the units. -/
def cutUnits (fits : List Tile → Bool) : List Tile → List (List Tile) → List (List Tile)
  | cur, [] => if cur = [] then [] else [cur]
  | cur, u :: r =>
    if fits (cur ++ u) then cutUnits fits (cur ++ u) r
    else
      let done := if cur = [] then [] else [cur]
      if fits u then done ++ cutUnits fits u r
      else done ++ splitUnit fits u ++ cutUnits fits [] r

/-- Tiles of an entry: every distinct page that a request resolved it to, by head and groups of 64 rows (08 R271; 09
R314). -/
def State.entryTiles (s : State) (j : Job) (layer i : Nat) : List Tile :=
  let m := s.jobModel j
  let users := (List.range j.reqs.length).filter (fun r => j.reqOk r
    && (((j.reqs[r]?).map (fun q => q.sel.contains i)).getD false))
  let at_ := fun (r : Nat) => (((j.reqs[r]?).bind (fun q => q.res[i]?)).map (fun e => e.1)).getD 0
  ((users.map at_).eraseDups).flatMap (fun p =>
    (List.range m.heads).flatMap (fun h =>
      let rows := (users.filter (fun r => decide (at_ r = p))).flatMap (fun r =>
        (List.range j.group).map (fun g => (r, h * j.group + g)))
      (groupsOf 64 rows).map (fun rs => ({ ent := i, pset := p, page := layer, head := h, rows := rs, paged := true } : Tile))))

/-- The attention operations of a job (09 R324). -/
def State.attendOps (s : State) (j : Job) : List Oper :=
  let units := (List.range j.ents.length).map (fun i => s.entryTiles j (j.f 0 0 16) i)
  (cutUnits (s.opFits j .attend) [] (units.filter (fun u => !u.isEmpty))).map
    (fun ts => ({ id := j.id, kind := .attend, tiles := ts } : Oper))

/-- The page of a page set in which a job's landmarks of an entry and head begin (09 R304, R331); none for a table in host memory. -/
def State.lmPage (s : State) (j : Job) (ent head : Nat) : Option (Nat × Nat) :=
  let m := s.jobModel j
  if j.f 5 6 2 ≠ 2 then none
  else ((s.live j.id).bind (fun l => s.rsvRange l.tenant (wd64 j.par 20) 1 true)).map (fun r =>
    (r.1, r.2.1 + (r.2.2.1 + (ent * m.heads + head) * lmBytes m.headDim) / r.2.2.2))

/-- The scoring operations of an ATTEND_SPARSE (09 R332): tiles of 64 entries, one head and up to 64 rows. -/
def State.scoreOps (s : State) (j : Job) : List Oper :=
  let m := s.jobModel j
  let users := (List.range j.reqs.length).filter j.reqOk
  let units := (List.range (ceilDiv' j.ents.length 64)).map (fun k =>
    (List.range m.heads).flatMap (fun h =>
      (groupsOf 64 (users.flatMap (fun r => (List.range j.group).map (fun g => (r, h * j.group + g))))).map
        (fun rs =>
          let p := s.lmPage j (64 * k) h
          ({ ent := 64 * k, pset := (p.map (·.1)).getD 0, page := (p.map (·.2)).getD 0, head := h, rows := rs,
             paged := p.isSome } : Tile))))
  (cutUnits (s.opFits j .score) [] (units.filter (fun u => !u.isEmpty))).map
    (fun ts => ({ id := j.id, kind := .score, tiles := ts } : Oper))

/-- The operations of a REROTATE or REPACK: one page each, in entry and layer order (09 R324). -/
def State.pageOps (s : State) (j : Job) (kind : OpKind) (layers : List Nat) : List Oper :=
  let m := s.jobModel j
  j.ents.zipIdx.flatMap (fun e =>
    if e.1.st ≠ .ok then []
    else layers.map (fun x => ({ id := j.id, kind := kind, tiles := (List.range m.heads).map (fun h =>
      ({ ent := e.2, pset := e.1.pset, page := x, head := h, rows := [], paged := true } : Tile)) } : Oper)))

/-- The T2 pages that a job's operations need are asked for, URGENT (07 R251). -/
def State.askPages (s : State) (id : Nat) : State :=
  match s.job id with
  | none => s
  | some j =>
    j.ops.foldl (fun s op => (j.opPages op).foldl (fun s p => s.needPages p.1 [p.2] true false) s) s

/-! ### The end of a job's operations -/

/-- The selections of an ATTEND_SPARSE (09 R332, R333). -/
def Job.select (j : Job) : Job :=
  let n := j.ents.length
  let score := fun (r i : Nat) =>
    if j.unmasked r i = 0 then negInf
    else match j.scores.find? (fun x => decide (x.1 = r ∧ x.2.1 = i)) with
      | some x => x.2.2
      | none => negInf
  { j with reqs := j.reqs.zipIdx.map (fun q =>
      { q.1 with sel := selectEntries n (j.f 22 8 8) (j.f 22 0 8) (j.f 22 16 16) (score q.2) }) }

/-- A landmark table as REPACK writes it (09 R337): MODE 1. -/
def Job.isLandmark (j : Job) : Bool := decide (j.opcode = 0x0F) && decide (j.f 7 30 2 = 1)

/-- A page that a REROTATE or REPACK made lands, where its target is still unsealed; otherwise its entry fails (09 R334 to
R338). -/
def State.pageLand (s : State) (j : Job) (l : Live) (w : Nat × Nat × List Byte) : State :=
  let m := s.jobModel j
  match j.ents[w.1]? with
  | none => s
  | some e =>
    if j.isLandmark then
      let size := j.ents.length * m.heads * lmBytes m.headDim
      let off := (w.2.1 - j.f 0 0 16) * roundUp size 64 + w.1 * m.heads * lmBytes m.headDim
      match s.rsvRange l.tenant (wd64 j.par 10) 1 false with
      | some (i, page, o, ps) => s.linWrite i ps page (o + off) 0 w.2.2
      | none => s.failAEnt j.id w.1 .conflict
    else match s.openRsv l.tenant e.target with
      | none => s.failAEnt j.id w.1 .conflict
      | some _ => s.writePage (psIx e.target) w.2.1 0 w.2.2

/-- The pages of a REROTATE or REPACK whose operations have ended land, those of its good entries. -/
def State.pageFlush (s : State) (id : Nat) : State :=
  match s.job id, s.live id with
  | some j, some l => (j.writes.filter (fun w => j.entOk w.1)).foldl (fun s w => s.pageLand j l w) s
  | _, _ => s

/-- The operations of a job have ended: pages land, results merge or are written (09 R324 to R326). -/
def State.opsDone (s : State) (j : Job) (l : Live) : State :=
  if !j.isAttend then (s.pageFlush j.id).jobEnd j.id none
  else if j.f 16 0 6 = 0 then
    (s.blockMade j.id l.tag ((s.blockIx j).map (fun x => s.jobRec j x.1 x.2))).stageCheck
  else
    let n := s.net.nextArm
    let s := { s with net := { s.net with nextArm := n + 1 } }
    (s.updJob j.id (fun j => { j with stage := .merge s.clk n })).tagTest (j.w 17)

/-- A job whose load failed ends; one without operations left goes on: scores select, and where no request selects an entry the operations have ended
at once (09 R324, R332, R333). -/
def State.jobAdvance (s : State) (id : Nat) : State :=
  match s.job id, s.live id with
  | some j, some l =>
    if j.err.isSome then s.jobEnd id j.err
    else if j.ops ≠ [] then s
    else match j.stage with
      | .score =>
        let j := j.select
        let j := { j with ops := s.attendOps j, stage := .ops }
        let s := (s.updJob id (fun _ => j)).askPages id
        if j.ops = [] then s.opsDone j l else s
      | .ops => s.opsDone j l
      | _ => s
  | _, _ => s

/-- Lowest set bit of a mask; recursion on fuel. -/
def lowBit : Nat → Nat → Nat
  | 0, _ => 0
  | n + 1, x => if x % 2 = 1 then 0 else lowBit n (x / 2) + 1

/-- A merge block: mask, tokens, records; none when its header differs (09 R325, R326). -/
def State.mergeBlock (s : State) (j : Job) (bs : List Byte) : Option (Nat × Nat × List Rec) :=
  let ws := wordsOf (bs.take 64)
  let d := (s.jobModel j).headDim
  let qh := s.jobQh j
  let n := j.reqs.length * qh
  if wd ws 4 / 2 ^ 16 = qh ∧ wd ws 4 % 512 = j.reqs.length ∧ wd ws 5 / 2 ^ 16 = d ∧ wd ws 5 % 2 ^ 16 = j.f 0 0 16
      ∧ wd ws 6 / 2 ^ 31 = 0 then
    some (wd64 ws 2, wd ws 7,
      (List.range n).map (fun k => recOf ((bs.drop (64 + k * (64 + 4 * d))).take (64 + 4 * d))))
  else none

/-- No two masks share a bit; an empty mask is no stripe. -/
def disjoint : Nat → List Nat → Bool
  | _, [] => true
  | u, m :: r => decide (m ≠ 0) && decide (u &&& m = 0) && disjoint (u ||| m) r

/-- The merge operation of a job ends (09 R325 to R327). -/
def State.mergeEnd (s : State) (id : Nat) : State :=
  match s.job id, s.live id with
  | some j, some l =>
    let n := j.f 16 0 6
    let size := s.blockSize j
    match s.rsvRange l.tenant (wd64 j.par 18) (n * size) false with
    | none => s.jobEnd id (some .badCommand)
    | some (i, page, off, ps) =>
      let raw := (List.range n).map (fun k => s.linRead i ps page (off + k * size) size)
      let blocks := raw.map (s.mergeBlock j)
      let own := (j.stripe, j.tokens, (s.blockIx j).map (fun x => s.jobRec j x.1 x.2))
      let all := own :: blocks.filterMap (fun b => b)
      if blocks.any (fun b => b.isNone) ∨ !disjoint 0 (all.map (fun b => b.1)) then s.jobEnd id (some .badCommand)
      else
        let sorted := isort (fun a b => decide (lowBit 64 a.1 ≤ lowBit 64 b.1)) all
        let ftz := numFtz s.brn.num
        let recs := match sorted with
          | [] => []
          | b :: r => r.foldl (fun acc x => acc.zipWith (combineRec ftz) x.2.2) b.2.2
        let s := s.bump (pg npaPage + 0x194) n
        let s := s.updJob id (fun j => { j with stripe := (all.map (fun b => b.1)).sum,
                                                tokens := (all.map (fun b => b.2.1)).sum })
        (s.blockMade id l.tag recs).stageCheck
  | _, _ => s

/-! ### The sequencer (08 R271 to R275) -/

/-- Source of a command in the sequencer (08 R273). -/
def seqSrcOf (l : Live) : SeqSrc :=
  match l.src with
  | .record _ _ _ => .program
  | .trigger _ _ _ => .trigger
  | _ => .queue

/-- The job has its place in its source: from its start to the staging of its block, but not while it waits for merge blocks
(08 R273; 09 R321, R327). -/
def Job.inSource (j : Job) : Bool :=
  match j.stage with
  | .merge _ _ | .sent => false
  | _ => true

/-- The command that a source runs (08 R273; 09 R327): one whose merge operation is ready, else the first in order of
acceptance, start or enabling; none while an earlier command has still to read its operands, while the command waits for
staging or for its last operation, or while its record is suspended (02 R67). -/
def State.srcJob (s : State) (src : SeqSrc) : Option Job :=
  let js := isort (fun a b => decide (a.id ≤ b.id)) (s.npa.jobs.filter (fun j => decide (j.src = src) && j.inSource))
  let early := fun (j : Job) => s.que.live.any (fun l =>
    attendClass l.op && decide (l.phase = .accepted) && !l.compat && decide (seqSrcOf l = src) && decide (l.id < j.id))
  let head : Option Job := match js.find? (fun j => decide (j.stage = .merged)) with
    | some j => some j
    | none => match js with
      | j :: _ => if early j then none else some j
      | [] => none
  match head with
  | some j => if j.ops = [] ∨ s.shut j.id then none else some j
  | none => none

/-- The source has an operation ready. -/
def State.srcReady (s : State) (src : SeqSrc) : Bool :=
  match s.srcJob src with
  | some j => (match j.ops with
    | op :: _ => s.opReady j op
    | [] => false)
  | none => false

/-- Weight of a source (08 R273). -/
def State.weight (s : State) : SeqSrc → Nat
  | .program => fld s.brn.seq 16 4
  | .trigger => fld s.brn.seq 20 4
  | .queue => fld s.brn.seq 24 4

/-- The sources after one in the round, itself last. -/
def SeqSrc.after : SeqSrc → List SeqSrc
  | .program => [.trigger, .queue, .program]
  | .trigger => [.queue, .program, .trigger]
  | .queue => [.program, .trigger, .queue]

/-- Weighted round-robin among the sources that have an operation ready (08 R273, R274). -/
def State.pick (s : State) : State :=
  let set := fun (src : SeqSrc) (rr : SeqSrc) (used : Nat) =>
    { s with brn := { s.brn with next := (s.srcJob src).map (fun j => j.id), rrSrc := rr, rrUsed := used } }
  let cur := s.brn.rrSrc
  if s.srcReady cur ∧ s.brn.rrUsed < s.weight cur then set cur cur (s.brn.rrUsed + 1)
  else match cur.after.find? (fun x => s.srcReady x && decide (0 < s.weight x)) with
    | some x => set x x 1
    | none =>
      match [SeqSrc.program, SeqSrc.trigger, SeqSrc.queue].find? s.srcReady with
      | some x => set x cur s.brn.rrUsed
      | none => { s with brn := { s.brn with next := none } }

/-- The arrays that an ATTEND or ATTEND_SPARSE reads: query bytes by request, landmark table (09 R307, R309, R331).
`sealed` says whether a sealed reservation will do. -/
def State.attendArrays (s : State) (l : Live) (par : List Word) (m : Model) (sparse sealed : Bool) :
    Except Status (List (List Byte) × List Byte) :=
  let f := fun (i lo n : Nat) => fld (par.getD i 0) lo n
  let reqs := f 6 0 9
  let stride := qStride (f 6 24 8 * m.heads) m.headDim (f 6 16 8)
  match s.spaceRead l (f 5 4 2) (wd64 par 10) (reqs * stride) sealed with
  | .error e => .error e
  | .ok qs =>
    if sparse then
      match s.spaceRead l (f 5 6 2) (wd64 par 20) (f 4 0 17 * m.heads * lmBytes m.headDim) sealed with
      | .error e => .error e
      | .ok t => .ok (pieces stride reqs qs, t)
    else .ok (pieces stride reqs qs, [])

/-- The queries of a selected operation, and the landmarks of a scoring one, are loaded (08 R274); a read that fails ends
the command with its status, once its running operation has ended. -/
def State.loadOp (s : State) (id : Nat) : State × Bool :=
  match s.job id, s.live id with
  | some j, some l =>
    if !j.isAttend ∨ j.stage = .merged then (s, true)
    else match s.attendArrays l j.par (s.jobModel j) (decide (j.stage = .score)) true with
      | .ok arr => (s.updJob id (fun j => { j with queries := arr.1, lms := arr.2 }), true)
      | .error e =>
        if s.brn.run.any (fun u => decide (u.op.id = id)) then (s.updJob id (fun j => { j with err := some e, ops := [] }), false)
        else (s.jobEnd id (some e), false)
  | _, _ => (s, true)

/-- Selection until a selected operation has loaded; recursion on fuel. -/
def State.selectLoop : Nat → State → State
  | 0, s => { s with brn := { s.brn with next := none } }
  | n + 1, s =>
    let s := s.pick
    match s.brn.next with
    | none => s
    | some id => match s.loadOp id with
      | (s, true) => s
      | (s, false) => State.selectLoop n s

/-- The sequencer selects an operation and loads it (08 R273, R274). -/
def State.select (s : State) : State := s.selectLoop (s.npa.jobs.length + 1)

/-- The record of a window that closes loses its selected operation, and the sequencer selects again (08 R275). -/
def State.reselect (s : State) : State :=
  match s.brn.next with
  | none => s
  | some id => if s.shut id then s.select else s

/-- The selected command, unless its operation may not start (08 R275). -/
def State.selected (s : State) : Option Job :=
  match s.brn.next with
  | none => none
  | some id =>
    match s.job id with
    | some j => if j.ops = [] ∨ s.shut id then none else some j
    | none => none

/-- Requests and entries whose page is poisoned fail before the operation reads it (09 R330, R338). -/
def State.opPoison (s : State) (j : Job) (op : Oper) : State :=
  op.tiles.foldl (fun s t =>
    if op.kind = .score ∨ op.kind = .merge then s
    else if j.isAttend then
      t.rows.foldl (fun s x =>
        match (j.reqs[x.1]?).bind (fun q => q.res[t.ent]?) with
        | some e => if s.psetPoison e.1 then s.failReq j.id x.1 .poison else s
        | none => s) s
    else match j.ents[t.ent]? with
      | some e => if s.psetPoison e.pset then s.failAEnt j.id t.ent .poison else s
      | none => s) s

/-- An operation starts on all live engines, and the next one is selected (08 R272, R274). -/
def State.startOp (s : State) (id : Nat) : State :=
  match s.job id with
  | none => s
  | some j =>
    match j.ops with
    | [] => s
    | op :: rest =>
      let s := s.opPoison j op
      let j := (s.job id).getD j
      let ts := if op.kind = .merge then [] else (op.tiles.filter j.hasWork).map j.prune
      if s.liveEngines = 0 then s.jobEnd id (some .notReady)
      else
        let op := { op with tiles := ts }
        let run : Running := { op := op, given := s.deal ts, at_ := s.clk, restarted := false, queries := j.queries, lms := j.lms }
        let pages := j.opPages op
        let s := (pages.map (fun p => p.1)).eraseDups.foldl (fun s i => s.touchPset i) s
        let s := s.updJob id (fun j => { j with ops := rest })
        let s := (s.bump (pg npaPage + 0x184)).bump64 (pg npaPage + 0x188) pages.length
        { s with brn := { s.brn with run := some run, next := none } }.select

/-! ### The engine clock (08 R298; 01 R33; 16 R567) -/

/-- Engine clock of a step in kHz. -/
def stepKhz (step : Nat) : Nat := 1400000 - 87500 * step

/-- A setpoint is written to the regulator (18 R616). -/
def State.setVcore (s : State) (mv : Nat) : State :=
  { s with hlt := { s.hlt with vcore := mv, settleAt := s.clk + 20000 } }

/-- Setpoint for a step. -/
def State.vfOf (s : State) (step : Nat) : Nat := s.hlt.vf.getD step 0x2EE

/-- A change of step between operations: a rising setpoint settles before the clock rises, a falling one follows the
clock (08 R298; 16 R567). -/
def State.clockStep (s : State) : State :=
  let t := max s.brn.gov s.brn.cap
  if t = s.brn.step then s
  else if t < s.brn.step ∧ s.hlt.vcore < s.vfOf t then s.setVcore (s.vfOf t)
  else if t < s.brn.step ∧ s.clk < s.hlt.settleAt then s
  else
    let s := { s with brn := { s.brn with step := t } }.count (brnPage 0) 0x234 4
    if s.vfOf t < s.hlt.vcore ∧ !s.hlt.raised then s.setVcore (s.vfOf t) else s

/-- The engine configuration applies at an operation boundary (08 R299, R300; 17 R598). -/
def State.brnApply (s : State) : State :=
  let mine := fun (p : Nat) => decide (0x20 ≤ p ∧ p ≤ 0x2F)
  if s.cfg.lag.any (fun e => mine e.1) then
    let s := (List.range 16).foldl (fun s c => s.setCore c { s.core c with cfg := s.cfgReg (pg (brnPage c) + 0x100) }) s
    { s with
      brn := { s.brn with seq := s.cfgReg (pg 0x20 + 0x200), num := s.cfgReg (pg 0x20 + 0x204),
                          cap := s.cfgFld (pg 0x20 + 0x208) 0 4, test := s.cfgReg (pg 0x20 + 0x210),
                          watchdog := s.cfgReg (pg 0x20 + 0x214) },
      cfg := { s.cfg with lag := s.cfg.lag.filter (fun e => !mine e.1) } }
  else s

/-- Between operations: configuration and clock. -/
def State.betweenOps (s : State) : State := if s.brn.run.isNone then s.brnApply.clockStep else s

/-- Pages that the commands at the head of their sources still miss are asked for again. -/
def State.askHeads (s : State) : State :=
  [SeqSrc.program, SeqSrc.trigger, SeqSrc.queue].foldl (fun s x => match s.srcJob x with
    | some j => s.askPages j.id
    | none => s) s

/-- OPERATION_START (08 R272, R274): the selected operation, or one selected now, once its pages are there. -/
def execOperationStart (s : State) : Res :=
  .next (
    if s.brn.run.isSome then s
    else
      let s := s.betweenOps
      let s := if s.selected.isNone then s.select else s
      match s.selected with
      | none => s.askHeads
      | some j =>
        match j.ops with
        | [] => s
        | op :: _ => if s.opReady j op then s.startOp j.id else s.askHeads)

/-! ### Tiles -/

/-- What reads a page. -/
def State.pageRd (s : State) (i page : Nat) : PageRd := fun off n => s.pageBytes i page off n

/-- The result of a tile (09 R316, R332). -/
def State.tileResult (s : State) (j : Job) (kind : OpKind) (t : Tile) : List (Nat × Nat × Rec) :=
  let m := s.jobModel j
  let qh := s.jobQh j
  let q := fun (r g : Nat) => queryOperand j.qfmt qh m.headDim g (j.queries.getD r [])
  let scale := j.par.getD 7 0
  match kind with
  | .attend =>
    let narrow := narrowTile m j.qfmt t.rows.length
    t.rows.map (fun x =>
      (x.1, x.2, attendRow m (s.pageRd t.pset t.page) s.brn.num scale narrow (q x.1 x.2) t.head (j.unmasked x.1 t.ent)))
  | .score =>
    let es := (List.range (min 64 (j.ents.length - t.ent))).map (fun k => t.ent + k)
    let rs := (t.rows.map (fun x => x.1)).eraseDups
    rs.flatMap (fun r => es.map (fun i =>
      let xs := (t.rows.filter (fun x => decide (x.1 = r))).map (fun x =>
        scoreOf s.brn.num scale (q r x.2) (landmark m j.lms i t.head))
      let best := match xs with
        | [] => negInf
        | a :: l => l.foldl (fmax (numFtz s.brn.num)) a
      (r, i, { Rec.neutral 0 0 with m := best })))
  | _ => []

/-- First tile of an engine that has not ended. -/
def Running.current (u : Running) (c e : Nat) : Option Given :=
  u.given.find? (fun g => decide (g.core = c ∧ g.eng = e) && g.result.isNone)

/-- TILE_END (08 R274, R277): the result, made from what the operation loaded, is in core SRAM, and the engine's next tile starts. -/
def execTileEnd (core eng : Nat) (s : State) : Res :=
  .next (match s.brn.run with
    | none => s
    | some u =>
      match u.current core eng with
      | none => s
      | some g =>
        let j := s.job u.op.id
        let res := match j with
          | some j => s.tileResult { j with queries := u.queries, lms := u.lms } u.op.kind g.tile
          | none => []
        let given := updIf u.given (fun x => decide (x.n = g.n)) (fun x => { x with result := some res })
        let next := ({ u with given := given }).current core eng
        let given := match next with
          | some y => updIf given (fun x => decide (x.n = y.n)) (fun x => { x with startedAt := s.clk })
          | none => given
        let s := { s with brn := { s.brn with run := some { u with given := given } } }
        let p := pg (brnPage core)
        let (cycles, s) := match j.bind (fun j => s.tileCycles j u.op.kind g.tile) with
          | some n => (n, s)
          | none => (Config.freeNat s.free, { s with free := s.free + 1 })
        let s := (s.bump (p + 0x188)).bump64 (p + 0x180) cycles
        if (s.core core).inject then
          ((s.setCore core { s.core core with inject := false }).count (brnPage core) 0x190 2).rasRecord
            (brnPage core) 0x01 0 core 0
        else s)

/-- Results of the ended tiles by core: engine order, then tile order (08 R277). -/
def Running.byCore (u : Running) : List (List (Nat × Nat × Rec)) :=
  (List.range 16).map (fun c =>
    (isort (fun a b => decide (a.eng < b.eng ∨ (a.eng = b.eng ∧ a.n ≤ b.n)))
      (u.given.filter (fun g => decide (g.core = c)))).flatMap (fun g => g.result.getD []))

/-- Results of an operation combined per request and query head: in each core, then over the cores (08 R277). -/
def combineOp (ftz : Bool) (cores : List (List (Nat × Nat × Rec))) : List (Nat × Nat × Rec) :=
  let keys := ((cores.flatMap (fun l => l.map (fun x => (x.1, x.2.1))))).eraseDups
  keys.filterMap (fun k =>
    let per := cores.filterMap (fun l =>
      combineAll ftz ((l.filter (fun x => decide ((x.1, x.2.1) = k))).map (fun x => x.2.2)))
    (combineAll ftz per).map (fun r => (k.1, k.2, r)))

/-- Results into the running result, in operation order (09 R324). -/
def mergeRecs (ftz : Bool) (old new : List (Nat × Nat × Rec)) : List (Nat × Nat × Rec) :=
  let same := fun (x y : Nat × Nat × Rec) => decide (x.1 = y.1 ∧ x.2.1 = y.2.1)
  old.map (fun x => match new.find? (same x) with
    | some y => (x.1, x.2.1, combineRec ftz x.2.2 y.2.2)
    | none => x) ++ new.filter (fun y => !old.any (fun x => same x y))

/-- Scores of an operation into the job's (09 R332): the maximum over the query heads. -/
def mergeScores (ftz : Bool) (old : List (Nat × Nat × Word)) (cores : List (List (Nat × Nat × Rec))) : List (Nat × Nat × Word) :=
  cores.flatten.foldl (fun acc x =>
    match acc.find? (fun y => decide (y.1 = x.1 ∧ y.2.1 = x.2.1)) with
    | some y => updIf acc (fun z => decide (z.1 = x.1 ∧ z.2.1 = x.2.1)) (fun z => (z.1, z.2.1, fmax ftz y.2.2 x.2.2.m))
    | none => acc ++ [(x.1, x.2.1, x.2.2.m)]) old

/-- The page of a REROTATE or REPACK operation is made (09 R335 to R337). -/
def State.pageResult (s : State) (j : Job) (kind : OpKind) (t : Tile) : State :=
  let m := s.jobModel j
  let rd := s.pageRd t.pset t.page
  match j.ents[t.ent]? with
  | none => s
  | some e =>
    if e.st ≠ .ok then s
    else
      let bs := match kind with
        | .landmark => pageLandmarks m rd s.brn.num e.tokens
        | .rerotate => rotPage m rd s.brn.num (bit (j.par.getD 7 0) 28) (j.par.getD 8 0) m.pageSize
        | _ =>
          let tm := (s.model (j.f 7 0 16)).getD m
          convertPage m rd s.brn.num tm.fmt tm.pageSize
      s.updJob j.id (fun j => { j with writes := j.writes ++ [(t.ent, t.page, bs)] })

/-- The results of an operation are combined into its command's (08 R277; 09 R324). -/
def State.opResult (s : State) (u : Running) : State :=
  match s.job u.op.id with
  | some j =>
    let ftz := numFtz s.brn.num
    match u.op.kind with
    | .attend => s.updJob j.id (fun j => { j with recs := mergeRecs ftz j.recs (combineOp ftz u.byCore) })
    | .score => s.updJob j.id (fun j => { j with scores := mergeScores ftz j.scores u.byCore })
    | .merge => s.mergeEnd j.id
    | k => (match u.op.tiles with
      | t :: _ => s.pageResult j k t
      | [] => s)
  | none => s

/-- No operation runs any more; the time it ran counts in BRN_ARRAY_BUSY (08 R300). -/
def State.runEnd (s : State) (u : Running) : State :=
  { s with brn := { s.brn with run := none, busyNs := s.brn.busyNs + (s.clk - u.at_) } }

/-- OPERATION_BOUNDARY (08 R272, R299): the operation has ended; configuration and clock steps apply. -/
def execOperationBoundary (t : Nat) (s : State) : Res :=
  let s := s.at_ t
  .next (match s.brn.run with
    | none => s
    | some u =>
      if u.given.any (fun g => g.result.isNone) then s
      else
        let s := (s.runEnd u).bump64 (pg 0x20 + 0x220) 1
        ((s.opResult u).jobAdvance u.op.id).betweenOps)

/-! ### Failures (08 R292 to R297) -/

/-- The command of the operation in flight ends ABORTED (01 R36; 08 R293, R294). -/
def State.abortRun (s : State) : State :=
  match s.brn.run with
  | none => s
  | some u => (s.runEnd u).jobEnd u.op.id (some .aborted)

/-- Word of BRN_FAIL_CAUSE after a failure. -/
def failWord (old : Word) (core : Bool) (eng cause : Nat) : Word :=
  if core then w32 (2 ^ 12 + cause * 2 ^ 8 + fld old 0 3) else w32 (cause * 2 ^ 8 + eng)

/-- An uncorrectable SRAM read is counted (08 R300; 16 R573). -/
def State.sramUe (s : State) (c : Nat) : State :=
  (s.count (brnPage c) 0x194 3).rasRecord (brnPage c) 0x02 1 c 0

/-- A core fails (08 R294): the operation in flight restarts once on the remaining engines. -/
def State.failCore (s : State) (c cause : Nat) : State :=
  if 16 ≤ c ∨ (s.core c).failed then s
  else
    let s := if cause = 5 then s.sramUe c else s
    let s := s.setCore c { s.core c with failed := true, cause := failWord (s.core c).cause true 0 cause }
    let s := (s.raise (brnPage c) 1).rasRecord (brnPage c) 0x0A 2 c cause
    match s.brn.run with
    | none => s
    | some u =>
      if u.restarted ∨ s.liveEngines = 0 then s.abortRun.raise (brnPage 0) 6
      else
        let s := { s with brn := { s.brn with run := some { u with given := s.deal u.op.tiles, restarted := true } } }
        s.count (brnPage 0) 0x230 5

/-- The unended tiles of a failed engine go, in operation order, to the other live engines of its core in turn, or to the
other live cores; without a live engine the command ends (08 R293). -/
def State.replayTiles (s : State) (c e : Nat) : State :=
  match s.brn.run with
  | none => s
  | some u =>
    let hit := fun (g : Given) => decide (g.core = c ∧ g.eng = e) && g.result.isNone
    let lost := isort (fun a b => decide (a.n ≤ b.n)) (u.given.filter hit)
    let rest := u.given.filter (fun g => !hit g)
    if s.liveEngines = 0 then s.abortRun
    else if lost = [] then s
    else
      let es := s.liveOf c
      let gs : List Given :=
        if es ≠ [] then
          lost.zipIdx.map (fun x => { x.1 with eng := es.getD (x.2 % es.length) 0, startedAt := s.clk })
        else
          let cnt := coreCounts (rest.map (fun g => g.core))
          let cores := dealRest (fun k => (s.liveOf k).length) s.liveCores cnt (lost.map (fun _ => none))
          let engs := dealEngines s.liveOf cnt cores
          (lost.zip (cores.zip engs)).map (fun x => { x.1 with core := x.2.1, eng := x.2.2, startedAt := s.clk })
      ({ s with brn := { s.brn with run := some { u with given := rest ++ gs } } }).bump (pg (brnPage c) + 0x18C) gs.length

/-- An engine fails (08 R293); the eighth failure of a core fails the core. -/
def State.failEngineOf (s : State) (c e cause : Nat) : State :=
  if 16 ≤ c ∨ 8 ≤ e ∨ (s.core c).failed ∨ (s.engine c e).failed then s
  else
    let s := if cause = 3 then s.sramUe c else s
    let s := s.setEngine c e { s.engine c e with failed := true, testing := none }
    let s := s.setCore c { s.core c with cause := failWord (s.core c).cause false e cause }
    let s := (s.raise (brnPage c) 0).rasRecord (brnPage c) 0x0A 2 (8 * c + e) cause
    if (List.range 8).all (fun k => (s.engine c k).failed) then s.failCore c 7 else s.replayTiles c e

/-- ENGINE_FAIL (08 R292, R293): the start-up test before link readiness, the periodic test while it runs, SRAM at any
time. -/
def execEngineFail (core eng cause : Nat) (s : State) : Res :=
  .next (
    if (cause = 1 ∧ !s.reached .links) ∨ (cause = 2 ∧ (s.engine core eng).testing.isSome) ∨ cause = 3 then
      s.failEngineOf core eng cause
    else s)

/-- ENGINE_WATCHDOG (08 R292): a tile has not ended within FACTOR times its time at the current clock. -/
def execEngineWatchdog (core eng t : Nat) (s : State) : Res :=
  let s := s.at_ t
  .next (match s.brn.run with
    | none => s
    | some u =>
      match u.current core eng, s.job u.op.id with
      | some g, some j =>
        (match s.tileCycles j u.op.kind g.tile with
          | some n =>
            if g.startedAt * stepKhz s.brn.step + fld s.brn.watchdog 0 4 * n * 1000000 ≤ s.clk * stepKhz s.brn.step then
              s.failEngineOf core eng 4
            else s
          | none => s)
      | _, _ => s)

/-- Some source has an operation ready. -/
def State.anyReady (s : State) : Bool := [SeqSrc.program, SeqSrc.trigger, SeqSrc.queue].any s.srcReady

/-- PERIODIC_SELF_TEST (08 R292; 02 R77): in slack while no operation is ready, or overdue at any boundary. -/
def execPeriodicSelfTest (core eng t : Nat) (s : State) : Res :=
  let s := s.at_ t
  .next (
    let e := s.engine core eng
    let age := s.clk - max e.lastTest s.resetAt
    let step := fld s.brn.test 0 16 * 1000000
    if core < 16 ∧ eng < 8 ∧ s.engOk core eng ∧ e.testing = none ∧ s.brn.run.isNone ∧ s.reached .psa ∧
        ((step ≤ age ∧ !s.anyReady ∧ s.slack .engines) ∨ fld s.brn.test 16 8 * step ≤ age) then
      s.setEngine core eng { e with testing := some s.clk }
    else s)

/-- SELF_TEST_END (08 R292): 40 us later the engine returns, or fails. -/
def execSelfTestEnd (core eng t : Nat) (pass : Bool) (s : State) : Res :=
  let s := s.at_ t
  .next (
    let e := s.engine core eng
    match e.testing with
    | none => s
    | some a =>
      if a + 40000 ≤ s.clk then
        let s := (s.setEngine core eng { e with testing := none, lastTest := s.clk }).bump (pg (brnPage core) + 0x198)
        if pass then s else s.failEngineOf core eng 2
      else s)

/-- CORE_FAIL (08 R292, R294): core SRAM, page fetcher or crossbar port. -/
def execCoreFail (core cause : Nat) (s : State) : Res := .next (if cause = 5 ∨ cause = 6 then s.failCore core cause else s)

/-- BRN_TEST_FORCE.FAIL_ENGINE (08 R292). -/
def State.forceEngines (s : State) (core : Nat) (mask : Word) : State :=
  (List.range 8).foldl (fun s e => if bit mask e then s.failEngineOf core e 8 else s) s

/-- FAIL_ENGINE (08 R292, R300). -/
def execFailEngine (src : Src) (core : Nat) (mask : Word) (s : State) : Res :=
  .next (if core < 16 ∧ s.pageOn src (brnPage core) then s.forceEngines core mask else s)

/-- FAIL_CORE (08 R292, R300). -/
def execFailCore (src : Src) (core : Nat) (s : State) : Res :=
  .next (if core < 16 ∧ s.pageOn src (brnPage core) then s.failCore core 8 else s)

/-- BRN_INJECT (08 R300). -/
def execBrnInject (src : Src) (core : Nat) (s : State) : Res :=
  .next (if core < 16 ∧ s.pageOn src (brnPage core) then s.setCore core { s.core core with inject := true } else s)

/-- MERGE_TIMEOUT (09 R326). -/
def execMergeTimeout (id t : Nat) (s : State) : Res :=
  let s := s.at_ t
  .next (match s.job id with
    | none => s
    | some j =>
      match j.stage with
      | .merge a _ =>
        if a + s.cfgFld (pg npaPage + 0x108) 0 24 * 1000 ≤ s.clk then
          (s.count npaPage 0x198 0).jobEnd id (some .timeout)
        else s
      | _ => s)

/-- A window has opened: jobs that waited at their end go on (02 R67). -/
def State.jobsResume (s : State) : State := s.stageCheck

end Sys2Proof.Machine
end

