-- ==== Sys2Proof/Machine/Npa.lean ====
section
/-! DEFINITION. The near-page attention front end (09 R304 to R314, R328 to R337): the operands of ATTEND,
ATTEND_SPARSE, REROTATE and REPACK, read once when the command starts, their checks, and the views of requests. -/

namespace Sys2Proof.Machine

/-- A command ends before it has a job, with its result words defined (09 R329). -/
def State.npaFail (s : State) (id : Nat) (st : Status) : State :=
  (s.bump (pg npaPage + 0x180)).complete id st (some (0, [0, 0, 0, 0]))

/-! ### Operands (09 R304 to R310) -/

/-- The command's own words: PARAM_ADDR, 64-byte aligned, in host memory of the issuing port (09 R304; 12 R442). -/
def npaWordsOk (l : Live) : Bool :=
  let port : Bool := match l.src with
    | .net _ _ => false
    | .mctp => false
    | _ => true
  port && l.reservedOk 0 [0xFFFFFFFF, 0xFFFFFFFF] && decide (l.w64 4 % 64 = 0)

/-- The parameter block, as read at acceptance, start or enabling (09 R305). -/
def State.paramRead (s : State) (l : Live) : Except Status (List Word) :=
  if !npaWordsOk l then .error .badCommand
  else match (l.held.getD (s.attendHeld l)).blk.result with
    | .ok bs => .ok (wordsOf bs)
    | .error e => .error e

/-- Reserved bits of a parameter block: `masks` from word 0 (00 R13). -/
def paramOk (par : List Word) (masks : List Word) : Bool :=
  (List.range 32).all (fun i => decide ((par.getD i 0) &&& ~~~(masks.getD i 0) = 0))

/-- Masks of words 0 to 5 (09 R306). -/
def commonMasks (layers : Bool) : List Word :=
  [0xFFFF, if layers then 0xFFFF0000 else 0, 0xFFFFFFFF, 0xFFFFFFFF, 0x1FFFF, 0xFF]

/-- Masks of an ATTEND or ATTEND_SPARSE (09 R307, R311). -/
def attendMasks (sparse : Bool) : List Word :=
  let all : Word := 0xFFFFFFFF
  let sp : Word := if sparse then all else 0
  commonMasks false ++ [0xFFFF01FF, all, all, all, all, all, 0xF8FFFFFF, all, all, all, 0x80FF003F, all, all, all, sp, sp, sp]

/-- No space is 3 (09 R304). -/
def spacesOk (w5 : Word) : Bool := (List.range 4).all (fun i => decide (fld w5 (2 * i) 2 ≠ 3))

/-- What an entry names. -/
structure RawEnt where
  /-- REF: directory slot and edition. -/
  ref : Option (Nat × Nat)
  key : Option Key
  tokens : Nat
  target : Nat
  deriving DecidableEq, Repr

/-- Reserved bits of an entry (09 R310); `tgt` says whether TARGET_ADDR has a meaning. -/
def entryOk (tgt : Bool) (ws : List Word) : Bool :=
  let w18 := ws.getD 18 0
  let ref := bit w18 31
  decide (w18 &&& 0x7FFF0000 = 0) && decide (wd ws 19 = 0) && (ws.drop 22).all (fun w => decide (w = 0))
    && (tgt || decide (wd64 ws 20 = 0)) && decide (wd64 ws 20 % 2 ^ 32 = 0)
    && (!ref || (decide (wd ws 2 < 2 ^ 26) && ((ws.drop 3).take 15).all (fun w => decide (w = 0))))

/-- The entries of a list; the status of the first bad one. -/
def State.rawEnts (s : State) (tgt : Bool) : List (List Byte) → Except Status (List RawEnt)
  | [] => .ok []
  | bs :: r =>
    let ws := wordsOf bs
    if !entryOk tgt ws then .error .badCommand
    else
      let w18 := ws.getD 18 0
      let key : Except Status (Option Key) :=
        if bit w18 31 then .ok none
        else match s.fieldKey bs with
          | .ok k => .ok (some k)
          | .error e => .error e
      match key, s.rawEnts tgt r with
      | .error e, _ => .error e
      | _, .error e => .error e
      | .ok k, .ok es =>
        .ok ({ ref := if k.isNone then some (wd ws 2, wd64 ws 0) else none, key := k, tokens := fld w18 0 16,
               target := wd ws 21 } :: es)

/-- Head slots that share a slot's key and form: the slot and the metadata copies of its earlier editions (05 R173). -/
def State.editions (s : State) (i : Nat) : List (Nat × Slot) :=
  let v := s.slot i
  if v.state = .free then []
  else (s.groupSlots v.key (fun x => decide (x.key = v.key ∧ x.form = v.form)))

/-- Model that an entry names. -/
def State.entModel (s : State) (e : RawEnt) : Option Nat :=
  match e.ref, e.key with
  | some (i, ed), _ => ((s.editions i).find? (fun x => decide (x.2.edition = ed))).map (fun x => x.2.key.model)
  | none, some k => some k.model
  | none, none => none

/-- What an entry resolves to in a view (09 R312). -/
def State.resolveEnt (s : State) (tenant snap : Nat) (e : RawEnt) : Option (Nat × Slot × Bool) :=
  match e.ref, e.key with
  | some (i, ed), _ =>
    ((s.editions i).find? (fun x => decide (x.2.edition = ed) && x.2.visible snap)).map (fun x => (x.1, x.2, false))
  | none, some k => s.probeView (k.lookup tenant) snap
  | none, none => none

/-- The one model of an entry list: none where no entry names one, NOTFOUND where it is not valid (03 R90; 09 R311, R330). -/
def State.entsModel (s : State) (es : List RawEnt) : Except Status (Option Model) :=
  match ((es.filterMap s.entModel).eraseDups) with
  | [] => .ok none
  | [x] => (match s.model x with
    | some m => .ok (some m)
    | none => .error .notFound)
  | _ => .error .badCommand

/-- The entry list of a command. -/
def State.entList (s : State) (l : Live) (par : List Word) (tgt : Bool) : Except Status (List RawEnt) :=
  let n := fld (par.getD 4 0) 0 17
  match (l.held.getD (s.attendHeld l)).ents.result with
  | .error e => .error e
  | .ok bs => s.rawEnts tgt (pieces 128 n bs)

/-- An object's pages as layers, tails and tokens: a resolved entry that a command refuses (09 R311). -/
def State.entBad (s : State) (m : Model) (top : Nat) (e : RawEnt) (v : Slot) : Bool :=
  let p := s.psetAt v.ps
  (p.object && (decide (p.pages ≤ top) || decide (p.pageSize < m.pageSize))) || (v.tail && decide (e.tokens = 0))

def RawEnt.tok (e : RawEnt) (m : Model) : Nat := if e.tokens = 0 then m.blockLen else e.tokens

/-! ### ATTEND and ATTEND_SPARSE -/

/-- Checks on the parameter block alone (09 R304 to R307, R311). -/
def State.attendCheck (s : State) (par : List Word) (sparse : Bool) : Bool :=
  let f := fun (i lo n : Nat) => fld (par.getD i 0) lo n
  let n := f 4 0 17
  let q := f 6 16 8
  paramOk par (attendMasks sparse) && spacesOk (par.getD 5 0)
    && decide (1 ≤ n ∧ n ≤ 65536) && decide (1 ≤ f 6 0 9 ∧ f 6 0 9 ≤ 256) && decide (1 ≤ f 6 24 8 ∧ f 6 24 8 ≤ 32)
    && decide (q = 1 ∨ q = 2 ∨ q = 3 ∨ q = 5 ∨ q = 6) && decide (f 16 16 8 ≤ 63)
    && decide (wd64 par 2 % 128 = 0 ∧ wd64 par 8 % 16 = 0 ∧ wd64 par 10 % 64 = 0 ∧ wd64 par 14 % 64 = 0)
    && !(decide (f 12 30 2 = 0) && decide (f 12 27 3 = 7))
    && (decide (f 16 0 6 = 0) || bit (s.cfgReg (pg npaPage + 0x100)) 0) && (decide (f 16 0 6 ≠ 0) || decide (wd par 17 = 0))
    && (!sparse || decide (1 ≤ f 22 16 16 ∧ f 22 16 16 ≤ s.cfgFld (pg npaPage + 0x10C) 16 16))

/-- Checks against the model (09 R279, R311). -/
def attendModelOk (par : List Word) (m : Model) (sparse : Bool) (es : List RawEnt) : Bool :=
  let f := fun (i lo n : Nat) => fld (par.getD i 0) lo n
  let qh := f 6 24 8 * m.heads
  decide (f 0 0 16 < m.layers) && decide (qh ≤ 256) && decide (f 6 0 9 * qh * m.headDim ≤ 4194304)
    && (decide (f 6 16 8 ≠ 3) || decide (m.headDim % 32 = 0)) && (!sparse || decide (m.headDim % 32 = 0))
    && es.all (fun e => decide (e.tokens ≤ m.blockLen))

/-- Conditions outside the operands (08 R296; 09 R328, R330; 13 R478; 17 R605): the status that ends the command. -/
def State.npaWhen (s : State) (l : Live) (par : List Word) (attend : Bool) : Option Status :=
  let tgt := fld (par.getD 12 0) 30 2
  let idle := decide (s.stk.sync = .acquiring ∨ s.stk.sync = .unlocked)
  let held : Bool := match l.src with
    | .queue _ _ => idle
    | .trigger _ _ _ => idle && decide (tgt = 0)
    | _ => false
  let q := fld (par.getD 12 0) 0 24
  if attend && held then some .notReady
  else if s.liveEngines = 0 then some .notReady
  else if attend ∧ tgt = 0 then
    if !s.reached .links then some .notReady
    else if !s.qpnOk q then some .badCommand
    else match s.ctxPeek q with
      | some c => if c.state ≠ .reset ∧ c.tenant ≠ l.tenant then some .badCommand else none
      | none => none
  else none

/-- A request record (09 R309): proof, limit, request number; none where a reserved bit is set. -/
def reqOf (bs : List Byte) : Option (Nat × Nat × Nat) :=
  let ws := wordsOf bs
  if wd ws 2 < 2 ^ 16 ∧ wd ws 3 = 0 then some (wd ws 0, wd ws 1, wd ws 2) else none

/-- The request table. -/
def State.reqTable (s : State) (l : Live) (par : List Word) : Except Status (List (Nat × Nat × Nat)) :=
  let n := fld (par.getD 6 0) 0 9
  match (l.held.getD (s.attendHeld l)).reqs.result with
  | .error e => .error e
  | .ok bs =>
    let rs := (pieces 16 n bs).map reqOf
    if rs.any (fun r => r.isNone) then .error .badCommand else .ok (rs.filterMap (fun r => r))

/-- Snapshots of the requests (09 R312, R313): the requests with PROOF = 0 share one implicit proof; none where a
proof fails. -/
def State.reqViews (s : State) (l : Live) : Option Nat → List (Nat × Nat × Nat) → State × Except Status (List (Option Nat))
  | _, [] => (s, .ok [])
  | shared, r :: rs =>
    let (s, v) : State × Except Status Nat := match shared with
      | some snap => if r.1 = 0 then (s, .ok snap) else s.viewFor l.id l.tenant r.1
      | none => s.viewFor l.id l.tenant r.1
    match v with
    | .error e =>
      if r.1 = 0 then (s, .error e)
      else
        let (s, t) := s.reqViews l shared rs
        (s, t.map (fun xs => none :: xs))
    | .ok snap =>
      let (s, t) := s.reqViews l (if r.1 = 0 then some snap else shared) rs
      (s, t.map (fun xs => some snap :: xs))

/-- A request with the entries it resolved, whether a key matched more than one form, and whether an entry is one
that the command refuses (09 R311 to R313). -/
def State.resolveReq (s : State) (tenant : Nat) (m : Model) (layer : Nat) (es : List RawEnt) (sel : List Nat)
    (r : Nat × Nat × Nat) (snap : Option Nat) : Req × Bool × Bool :=
  match snap with
  | none => ({ limit := r.2.1, reqId := r.2.2, st := .staleProof, res := [], sel := [] }, false, false)
  | some sn =>
    let xs := es.map (fun e => (e, s.resolveEnt tenant sn e))
    let bad := xs.any (fun x => match x.2 with
      | some y => s.entBad m layer x.1 y.2.1
      | none => false)
    let multi := xs.any (fun x => match x.2 with
      | some y => y.2.2
      | none => false)
    if xs.any (fun x => x.2.isNone) then
      ({ limit := r.2.1, reqId := r.2.2, st := .notFound, res := [], sel := [] }, false, bad)
    else
      ({ limit := r.2.1, reqId := r.2.2, st := .ok,
         res := xs.filterMap (fun x => x.2.map (fun y => (y.2.1.ps, y.1))), sel := sel }, multi, bad)

/-- A job joins: its page sets are in use until it ends, its failed requests are counted, its T2 pages are asked
for. -/
def State.jobStart (s : State) (j : Job) (psets : List Nat) : State :=
  let rs : List PRead := psets.eraseDups.map (fun p => { id := j.id, pset := p })
  let bad := (j.sts.filter (fun x => decide (x ≠ .ok))).length
  let s := { s with npa := { s.npa with jobs := s.npa.jobs ++ [j] }, tier := { s.tier with reads := s.tier.reads ++ rs } }
  let s := if bad = 0 then s else (s.bump (pg npaPage + 0x190) bad).raise npaPage 2
  ((s.setRunning j.id).askPages j.id).jobAdvance j.id

/-- An operand that is read later lies in an unsealed reservation of the tenant, where its space is page sets (09 R304). -/
def State.spaceOk (s : State) (l : Live) (space a n : Nat) : Bool :=
  decide (space ≠ 2) || (s.rsvRange l.tenant a n false).isSome

/-- Where the queries, the landmarks, the result and the merge blocks lie (09 R304, R307). -/
def State.attendRoom (s : State) (l : Live) (par : List Word) (m : Model) (sparse : Bool) : Bool :=
  let f := fun (i lo n : Nat) => fld (par.getD i 0) lo n
  let n := f 16 0 6
  let qh := f 6 24 8 * m.heads
  let size := 64 + f 6 0 9 * qh * (64 + 4 * m.headDim)
  (decide (f 12 30 2 ≠ 3) || (s.rsvRange l.tenant (wd64 par 14) size false).isSome)
    && (decide (n = 0) || (s.rsvRange l.tenant (wd64 par 18) (n * size) false).isSome)
    && s.spaceOk l (f 5 4 2) (wd64 par 10) (f 6 0 9 * qStride qh m.headDim (f 6 16 8))
    && (!sparse || s.spaceOk l (f 5 6 2) (wd64 par 20) (f 4 0 17 * m.heads * lmBytes m.headDim))

/-- A job with its requests resolved starts, or its command ends BAD_COMMAND (09 R311 to R314). -/
def State.attendJob (s : State) (l : Live) (par : List Word) (sparse : Bool) (m : Model) (es : List RawEnt)
    (reqs : List (Nat × Nat × Nat)) (snaps : List (Option Nat)) : State :=
  let layer := fld (par.getD 0 0) 0 16
  let sel := if sparse then [] else List.range es.length
  let rs := (reqs.zip snaps).map (fun x => s.resolveReq l.tenant m layer es sel x.1 x.2)
  if rs.any (fun x => x.2.2) then s.npaFail l.id .badCommand
  else
    let ents : List AEnt := es.map (fun e => { tokens := e.tok m, target := 0, pset := 0, slot := 0, st := .ok })
    let j : Job := { id := l.id, opcode := l.op, src := seqSrcOf l, par := par, model := m.id, reqs := rs.map (fun x => x.1),
                     ents := ents, queries := [], lms := [], err := none, scores := [], ops := [], recs := [],
                     stripe := 2 ^ fld (par.getD 16 0) 16 6, tokens := (ents.map (fun e => e.tokens)).sum,
                     stage := if sparse then .score else .ops, multi := rs.any (fun x => x.2.1), block := [], nan := 0, writes := [], waited := false }
    let j := { j with ops := if sparse then s.scoreOps j else s.attendOps j }
    s.jobStart j (j.reqs.flatMap (fun r => r.res.map (fun e => e.1)))

/-- A command none of whose entries names a model: every request or entry has failed, and it ends with the status of the first, with
no result block, which has no layout without a model (09 R313, R330; DESIGN CHOICE, log 193). -/
def State.noModel (s : State) (id : Nat) (sts : List Status) : State :=
  let st := sts.headD .notFound
  ((((s.bump (pg npaPage + 0x190) sts.length).raise npaPage 2).bump (pg npaPage + 0x180))).complete id st
    (some (0, [0, 0, w32 st.code, 0]))

/-- ATTEND and ATTEND_SPARSE from their operands on (09 R305 to R314). -/
def State.attendStart (s : State) (l : Live) (sparse : Bool) : State :=
  if !s.reached .psa then s.npaFail l.id .notReady
  else match s.paramRead l with
  | .error e => s.npaFail l.id e
  | .ok par =>
    if !s.attendCheck par sparse then s.npaFail l.id .badCommand
    else match s.npaWhen l par true with
    | some e => s.npaFail l.id e
    | none =>
      match s.reqTable l par, s.entList l par false with
      | .error e, _ => s.npaFail l.id e
      | _, .error e => s.npaFail l.id e
      | .ok reqs, .ok es =>
        match s.entsModel es with
        | .error e => s.npaFail l.id e
        | .ok none =>
          (match s.reqViews l none reqs with
            | (s, .error e) => s.npaFail l.id e
            | (s, .ok snaps) => s.noModel l.id (snaps.map (fun v => if v.isNone then .staleProof else .notFound)))
        | .ok (some m) =>
          if !attendModelOk par m sparse es ∨ !s.attendRoom l par m sparse then s.npaFail l.id .badCommand
          else match s.reqViews l none reqs with
            | (s, .error e) => s.npaFail l.id e
            | (s, .ok snaps) => s.attendJob l par sparse m es reqs snaps

/-- ATTEND (09 R305 to R330). -/
def execAttend (id : Nat) (s : State) : Res := .next (s.onNew id 0x0C (fun l s => s.attendStart l false))

/-- ATTEND_SPARSE (09 R331 to R333). -/
def execAttendSparse (id : Nat) (s : State) : Res := .next (s.onNew id 0x0D (fun l s => s.attendStart l true))

/-! ### REROTATE and REPACK (09 R334 to R337) -/

/-- What a page command does. -/
inductive PageCmd where | rerotate | convert | landmark
  deriving DecidableEq, Repr

/-- Masks of words 6 to 11 (09 R308). -/
def pageMasks (c : PageCmd) : List Word :=
  let all : Word := 0xFFFFFFFF
  commonMasks true ++ (match c with
    | .rerotate => [all, 0x10000000, all, 0, 0, 0]
    | .convert => [all, 0xFFFF, 0, 0, 0, 0]
    | .landmark => [all, 0x40000000, 0, 0, all, all])

/-- Layers that a command names: none where they exceed the model (09 R306, R311). -/
def layersOf (par : List Word) (m : Model) : Option (List Nat) :=
  let a := fld (par.getD 0 0) 0 16
  let c := fld (par.getD 1 0) 16 16
  let n := if c = 0 then m.layers - a else c
  if a < m.layers ∧ a + c ≤ m.layers then some ((List.range n).map (fun k => a + k)) else none

/-- The model whose reservations the targets are (09 R334, R336): CONVERT may not name one of another shape, and a model
that has no valid descriptor is not found (03 R90). -/
def State.targetModel (s : State) (c : PageCmd) (par : List Word) (m : Model) : Except Status Model :=
  if c ≠ .convert then .ok m
  else match s.model (fld (par.getD 7 0) 0 16) with
    | none => .error .notFound
    | some t =>
      if t.layers = m.layers ∧ t.blockLen = m.blockLen ∧ t.heads = m.heads ∧ t.headDim = m.headDim
          ∧ t.theta = m.theta ∧ t.ropeDims = m.ropeDims then .ok t else .error .badCommand

/-- Every target is an unsealed block reservation of the tenant for the model (09 R334). -/
def State.targetsOk (s : State) (tenant : Nat) (t : Model) (es : List RawEnt) : Bool :=
  es.all (fun e => match s.openRsv tenant e.target with
    | some v => !v.object && decide (v.model = t.id)
    | none => false)

/-- The landmark tables lie in an unsealed reservation of the tenant (09 R304, R337). -/
def State.tablesOk (s : State) (tenant : Nat) (par : List Word) (m : Model) (n layers : Nat) : Bool :=
  decide (m.headDim % 32 = 0) &&
  (s.rsvRange tenant (wd64 par 10) (layers * roundUp (n * m.heads * lmBytes m.headDim) 64) false).isSome

/-- A page command with its entries resolved starts (09 R313, R334). -/
def State.pageJob (s : State) (l : Live) (c : PageCmd) (par : List Word) (m : Model) (layers : List Nat)
    (es : List RawEnt) (snap : Option Nat) : State :=
  let xs := es.map (fun e => (e, snap.bind (fun sn => s.resolveEnt l.tenant sn e)))
  let top := layers.getLast?.getD 0
  if xs.any (fun x => match x.2 with
      | some y => s.entBad m top x.1 y.2.1
      | none => false) then s.npaFail l.id .badCommand
  else
    let none_ : Status := if snap.isNone then .staleProof else .notFound
    let ents : List AEnt := xs.map (fun x => match x.2 with
      | some y => { tokens := x.1.tok m, target := x.1.target, pset := y.2.1.ps, slot := y.1, st := .ok }
      | none => { tokens := x.1.tok m, target := x.1.target, pset := 0, slot := 0, st := none_ })
    let j : Job := { id := l.id, opcode := l.op, src := seqSrcOf l, par := par, model := m.id, reqs := [], ents := ents,
                     queries := [], lms := [], err := none, scores := [], ops := [], recs := [], stripe := 0, tokens := 0,
                     stage := .ops, multi := xs.any (fun x => match x.2 with
                       | some y => y.2.2
                       | none => false), block := [], nan := 0, writes := [], waited := false }
    let kind : OpKind := match c with
      | .rerotate => .rerotate
      | .convert => .convert
      | .landmark => .landmark
    let j := { j with ops := s.pageOps j kind layers }
    s.jobStart j (ents.filterMap (fun e => if e.st = .ok then some e.pset else none))

/-- REROTATE and REPACK from their operands on (09 R305, R306, R308, R334 to R337). -/
def State.pageStart (s : State) (l : Live) (c : PageCmd) (par : List Word) : State :=
  let n := fld (par.getD 4 0) 0 17
  if !(paramOk par (pageMasks c) && spacesOk (par.getD 5 0)) ∨ n = 0 ∨ 4096 < n ∨ wd64 par 2 % 128 ≠ 0 then
    s.npaFail l.id .badCommand
  else match s.npaWhen l par false with
  | some e => s.npaFail l.id e
  | none =>
    match s.entList l par (decide (c ≠ .landmark)) with
    | .error e => s.npaFail l.id e
    | .ok es =>
      match s.entsModel es with
      | .error e => s.npaFail l.id e
      | .ok none =>
        (match s.viewFor l.id l.tenant (wd par 6) with
          | (s, .ok _) => s.noModel l.id (es.map (fun _ => .notFound))
          | (s, .error e) => if e = .staleProof then s.noModel l.id (es.map (fun _ => .staleProof)) else s.npaFail l.id e)
      | .ok (some m) =>
        match layersOf par m, s.targetModel c par m with
        | some layers, .ok t =>
          let fits := if c = .landmark then s.tablesOk l.tenant par m n layers.length else s.targetsOk l.tenant t es
          if !fits ∨ es.any (fun e => decide (m.blockLen < e.tokens)) then s.npaFail l.id .badCommand
          else match s.viewFor l.id l.tenant (wd par 6) with
          | (s, .ok snap) => s.pageJob l c par m layers es (some snap)
          | (s, .error e) => if e = .staleProof then s.pageJob l c par m layers es none else s.npaFail l.id e
        | none, _ => s.npaFail l.id .badCommand
        | _, .error e => s.npaFail l.id e

/-- A page command reads its parameter block and runs, where the block's MODE is the one that `which` takes. -/
def State.pageCommand (s : State) (id op : Nat) (which : Nat → Option PageCmd) : State :=
  s.onNew id op (fun l s =>
    let par := if s.reached .psa then s.paramRead l else .error .notReady
    let mode := match par with
      | .ok p => fld (p.getD 7 0) 30 2
      | .error _ => 0
    match which mode with
    | none => s
    | some c => (match par with
      | .error e => s.npaFail id e
      | .ok p => s.pageStart l c p))

/-- REROTATE (09 R334, R335). -/
def execRerotate (id : Nat) (s : State) : Res := .next (s.pageCommand id 0x0E (fun _ => some .rerotate))

/-- REPACK in every MODE but LANDMARK; a reserved MODE fails its check (09 R336). -/
def execRepackConvert (id : Nat) (s : State) : Res :=
  .next (s.pageCommand id 0x0F (fun m => if m = 1 then none else some .convert))

/-- REPACK in MODE LANDMARK (09 R337). -/
def execRepackLandmark (id : Nat) (s : State) : Res :=
  .next (s.pageCommand id 0x0F (fun m => if m = 1 then some .landmark else none))

end Sys2Proof.Machine
end

