-- ==== Sys2Proof/Machine/Media.lean ====
section
/-! DEFINITION. Page reads that return, fail or are abandoned (07 R258 to R260; 10 R373), and what the work that
waits on a page then does. -/

namespace Sys2Proof.Machine

/-! ### The work that waits on a page -/

/-- Entries of deliveries that have not read the page yet fail (07 R239). -/
def State.dlvPageFails (s : State) (i page : Nat) (st : Status) : State :=
  s.pfs.dlvs.foldl (fun s d =>
    d.ents.zipIdx.foldl (fun s e =>
      if e.1.st = .active ∧ e.1.pset = i ∧ e.1.first ≤ page ∧ page < e.1.first + e.1.pages
          ∧ e.1.staged < (page - e.1.first + 1) * e.1.pageSize then
        s.failEnt d.id e.2 st
      else s) s) s

/-- Requests and entries of attention commands whose operations need the page fail (09 R330). -/
def State.jobPageFails (s : State) (i page : Nat) (st : Status) : State :=
  s.npa.jobs.foldl (fun s j =>
    let running : List Oper := match s.brn.run with
      | some u => if u.op.id = j.id then [u.op] else []
      | none => []
    let ts := ((running ++ j.ops).filter (fun op => decide (op.kind ≠ .score ∧ op.kind ≠ .merge))).flatMap (fun op => op.tiles)
    (ts.filter (fun t => decide (t.pset = i ∧ t.page = page))).foldl (fun s t =>
      if j.isAttend then t.rows.foldl (fun s x => s.failReq j.id x.1 st) s else s.failAEnt j.id t.ent st) s) s

/-- Prefetch steps that fetch the page end (07 R258, R260). -/
def State.stepPageFails (s : State) (i : Nat) (st : Status) : State :=
  s.pfs.steps.foldl (fun s x => if x.layers.any (fun y => s.layerHas x.plan y i) then s.stepEnd x.id st else s) s

/-- A prefetch step of an instance fetches a layer. -/
def State.stepHas (s : State) (x : Inst) (p y : Nat) : Bool :=
  s.pfs.steps.any (fun z => decide (z.port = x.port ∧ z.target = x.target ∧ z.plan = p) && z.layers.contains y)

/-- Records that have not started and use a layer with the page end, where a step of their instance that fetches the layer
ends with it or they were carried for it (07 R253, R257, R258, R260). -/
def State.recPageFails (s : State) (i : Nat) (st : Status) : State :=
  s.stk.insts.foldl (fun s x =>
    x.recs.foldl (fun s r =>
      if x.active ∧ r.st = .waiting then
        match s.recLayer x r with
        | some (p, y) =>
          if s.layerHas p y i ∧ (r.carried ∨ s.stepHas x p y) then
            let (ws, s) := s.endWords r.op 4
            s.recFinal x.iid r.idx noId st ws true
          else s
        | none => s
      else s) s) s

/-- A page could not be read: everything that waits on it ends or fails with the status (07 R258 to R260; 06 R213). -/
def State.pageFailed (s : State) (i page : Nat) (st : Status) : State :=
  let s := s.dlvPageFails i page st
  let s := s.jobPageFails i page st
  let s := s.recPageFails i st
  let s := s.stepPageFails i st
  let s := if st = .timeout then s.dmaTimeouts i page else s
  s.stopMoves i st

/-! ### Reads -/

/-- A T2 read, by its number. -/
def State.read_ (s : State) (rid : Nat) : Option T2Read := s.pfs.reads.find? (fun r => decide (r.rid = rid))

/-- A T2 read is over. -/
def State.dropRead (s : State) (rid : Nat) : State :=
  { s with pfs := { s.pfs with reads := s.pfs.reads.filter (fun r => decide (r.rid ≠ rid)) } }

/-- Every location of a page is read, each with its outcome, without error where none is given: lost or not. -/
def State.pageRead (s : State) (os : List ReadOutcome) : List Loc → State × Bool
  | [] => (s, false)
  | l :: r =>
    let (s, a) := s.slotRead l (os.headD (.hard 0 0))
    let (s, b) := s.pageRead os.tail r
    (s, a || b)

/-- The read of a location is served by the stripe (10 R373 step 4). -/
def State.rebuilt (s : State) (l : Loc) (o : ReadOutcome) : Bool :=
  match s.slotOutcome l o with
  | .fail x => x
  | _ => false

/-- The locations of a page that the stripe serves, with their place in the page: their bytes are the XOR of the stripe's others (10 R345,
R373 step 4). -/
def State.rebuildPage (s : State) (r : T2Read) (os : List ReadOutcome) : State :=
  (r.locs.zip (os ++ List.replicate r.locs.length (.hard 0 0))).zipIdx.foldl (fun s x =>
    if s.rebuilt x.1.1 x.1.2 then
      s.writePage r.pset r.page (x.2 * 16384) ((s.flm.rebuiltBytes x.1.1).take ((s.psetAt r.pset).pageSize - x.2 * 16384))
    else s) s

/-- FLASH_READ (10 R373, R374; 07 R259, R260): the page, read from where it lay when the read started (10 R390), with an outcome for each
slot, lands in the T1 cache, or is declared unrecoverable. -/
def execFlashRead (rid : Nat) (outcomes : List ReadOutcome) (s : State) : Res :=
  .next (match s.read_ rid with
    | none => s
    | some r =>
      if !r.started then s
      else
        let again := (r.locs.zip (outcomes ++ List.replicate r.locs.length (.hard 0 0))).any (fun x => s.rebuilt x.1 x.2)
        let s := s.rebuildPage r outcomes
        let (s, lost) := s.pageRead outcomes r.locs
        let s := s.dropRead rid
        if lost then (s.lostPage r.pset r.page).pageFailed r.pset r.page .poison
        else
          let s := if again || r.heal then s.bump (pg pfsPage + 0x18C) else s
          if (s.psetAt r.pset).level < 2 then s else s.cacheAdd r.pset r.page)

/-- T2_READ_TIMEOUT (07 R258). -/
def execT2ReadTimeout (rid t : Nat) (s : State) : Res :=
  let s := s.at_ t
  .next (match s.read_ rid with
    | none => s
    | some r =>
      if r.issuedAt + s.cfgFld (pg pfsPage + 0x110) 0 24 * 1000 ≤ s.clk then
        ((s.count pfsPage 0x188 1).dropRead rid).pageFailed r.pset r.page .timeout
      else s)

end Sys2Proof.Machine
end

