-- ==== Sys2Proof/Machine/Transport.lean ====
section
/-! DEFINITION. Network ports and transport (13 R467 to R505): ports, packets sent and received, windows and timers,
the context window and spill, network requests, trigger rings and counters. -/

namespace Sys2Proof.Machine

/-- A configuration register of the transport. -/
def State.xptReg (s : State) (off : Nat) : Word := s.cfgReg (pg xptPage + off)

/-- XPT_CTRL.EN. -/
def State.xptOn (s : State) : Bool := bit (s.xptReg 0x100) 0

/-! ### Ports (13 R469, R470) -/

/-- A port is lost: its queue is discarded, and the loss is counted and logged (13 R469; 16 R577). -/
def State.netDown (s : State) (n : Nat) : State :=
  let s := s.settleCredit n
  let s := s.setNetPort n { s.netPort n with up := false, downAt := s.clk }
  let s := s.setGate n { s.gate n with queue := [], busy := 0 }
  (s.count (netPage n) 0x19C 0).rasRecord (netPage n) 0x0C 2 n 0

/-- NET_PORT_UP (13 R469). -/
def execNetPortUp (n t : Nat) (s : State) : Res :=
  let s := s.at_ t
  .next (
    let v := s.netPort n
    if !s.netExists n ∨ v.up ∨ v.failed ∨ v.lost ∨ !s.reached .psa ∨ !bit (s.cfgReg (pg (netPage n) + 0x100)) 31 then s
    else ((s.settleCredit n).setNetPort n { v with up := true }).raise (netPage n) 1)

/-- NET_PORT_DOWN (13 R469). -/
def execNetPortDown (n : Nat) (s : State) : Res := .next (if (s.netPort n).up then s.netDown n else s)

/-- A loopback test is due: at start-up, after 1 s down, then every 10 s (13 R470). -/
def State.testDue (s : State) (n : Nat) : Bool :=
  let v := s.netPort n
  match v.testAt with
  | none => true
  | some a =>
    bit (s.cfgReg (pg (netPage n) + 0x100)) 31
      && (if a ≤ v.downAt then decide (v.downAt + 1000000000 ≤ s.clk) else decide (a + 10000000000 ≤ s.clk))

/-- LOOPBACK_TEST (13 R470): the result of the test. -/
def execLoopbackTest (n t : Nat) (pass : Bool) (s : State) : Res :=
  let s := s.at_ t
  .next (
    let v := s.netPort n
    if !s.netExists n ∨ v.up ∨ v.failed ∨ v.lost ∨ !s.reached .psa ∨ !s.testDue n then s
    else
      let first := v.testAt.isNone
      let s := s.setNetPort n { v with testAt := some s.clk, failed := !pass,
                                       downAt := if first then s.clk else v.downAt }
      if pass then s else (s.raise (netPage n) 3).rasRecord (netPage n) 0x0C 2 n 0)

/-! ### Opcodes and frames (13 R474 to R476) -/

/-- SEND opcodes. -/
def opSend (op : Nat) : Bool := decide (op ≤ 5)

/-- First packet of a message. -/
def opFirst (op : Nat) : Bool := [0, 4, 5, 6, 10, 11].contains op

/-- Last packet of a message. -/
def opLast (op : Nat) : Bool := [2, 3, 4, 5, 8, 9, 10, 11].contains op

/-- Opcode of packet `k` of `n`. -/
def opOf (write : Bool) (imm : Bool) (k n : Nat) : Nat :=
  (if write then 6 else 0)
    + (if n = 1 then (if imm then 5 else 4) else if k = 0 then 0 else if k + 1 = n then (if imm then 3 else 2) else 1)

/-- A frame without content, addressed to the peer of a context. -/
def frameTo (c : Ctx) : Frame :=
  { len := 0, fcsOk := true, addrOk := true, dscp := 0, ce := false, roce := true, icrcOk := true, op := 0,
    pkey := c.fld 1 16 16, qpn := c.fld 2 0 24, psn := 0, ackReq := false, becn := false, va := 0, rkey := 0, dlen := 0,
    firstPsn := 0, pktCount := 0, nak := 0, rnrUs := 0, imm := none, payload := [] }

/-- Bytes of Ethernet, IP, UDP, BTH, ICRC and FCS. -/
def frameBase (c : Ctx) : Nat := 14 + (if c.bit0 25 then 40 else 20) + 8 + 12 + 4 + 4

/-- Ports of a connection that are up (13 R484). -/
def State.upPorts (s : State) (c : Ctx) : List Nat :=
  s.netPorts.filter (fun n => c.bit0 (20 + n) && (s.netPort n).up)

/-- Port, UDP source port and next count of a connection's next packet (13 R484). -/
def State.pathOf (s : State) (c : Ctx) (j : Nat) : Option (Nat × Nat × Nat) :=
  let ups := s.upPorts c
  let base := c.fld 3 16 16
  match ups with
  | [] => none
  | n :: _ =>
    if c.spray then some (ups.getD (j % ups.length) n, (base + j % fld (s.xptReg 0x104) 0 9) % 2 ^ 16, j + 1)
    else some (n, base, j)

/-- The checksum of an IPv4 header whose checksum field is 0: the complement of the one's complement sum of its 16-bit words. -/
def ipSum (bs : List Byte) : Nat :=
  let n := ((List.range (bs.length / 2)).map (fun i => 256 * (bs.getD (2 * i) 0).toNat + (bs.getD (2 * i + 1) 0).toNat)).sum
  let n := n % 65536 + n / 65536
  65535 - (n % 65536 + n / 65536)

/-- A MAC address of a port from its two registers. -/
def State.macAt (s : State) (n off : Nat) : List Byte :=
  beBytes 2 (fld (s.reg (pg (netPage n) + off + 4)) 0 16) ++ beBytes 4 (s.reg (pg (netPage n) + off)).toNat

/-- The Ethernet header of an egress frame of a class: the gateway's MAC and the port's own, and an 802.1Q tag when VLAN_EN is 1
(13 R471, R472). -/
def State.ethHead (s : State) (n cls etype : Nat) : List Byte :=
  let ctrl := s.cfgReg (pg (netPage n) + 0x100)
  s.macAt n 0x124 ++ s.macAt n 0x108 ++ (if bit ctrl 4 then beBytes 2 0x8100 ++ beBytes 2 (cls * 2 ^ 13 + fld ctrl 16 12) else [])
    ++ beBytes 2 etype

/-- IPv4 and UDP, or IPv6 and UDP, headers of a packet with `n` bytes behind them (13 R472 to R474; the standards' layout, PRESUMED,
log 197): ECT(0), UDP destination port 4791, UDP checksum 0. -/
def State.ipHead (s : State) (port : Nat) (c : Ctx) (sport dscp n : Nat) : List Byte :=
  let tos := dscp * 4 + 2
  let dst := bytesOf ((List.range 4).map (fun i => c.ws.getD (5 + i) 0))
  let udp := beBytes 2 sport ++ beBytes 2 4791 ++ beBytes 2 (8 + n) ++ beBytes 2 0
  let hop := beBytes 1 (c.fld 3 8 8)
  if c.bit0 25 then
    let own := (List.range 4).flatMap (fun i => beBytes 4 (s.reg (pg (netPage port) + 0x120 - 4 * i)).toNat)
    beBytes 4 (6 * 2 ^ 28 + tos * 2 ^ 20 + c.fld 4 0 20) ++ beBytes 2 (8 + n) ++ beBytes 1 17 ++ hop ++ own ++ dst ++ udp
  else
    let a := [0x45] ++ beBytes 1 tos ++ beBytes 2 (28 + n) ++ beBytes 2 0 ++ beBytes 2 0x4000 ++ hop ++ beBytes 1 17
    let b := beBytes 4 (s.reg (pg (netPage port) + 0x110)).toNat ++ dst.drop 12
    a ++ beBytes 2 (ipSum (a ++ b)) ++ b ++ udp

/-- A packet is placed on a port, in the queue of its class (13 R473, R485): false where the connection has no port. -/
def State.emit (s : State) (q cls : Nat) (f : Frame) : State × Bool :=
  let c := s.ctx q
  let k := s.conn q
  if !s.xptOn then (s, false)
  else match s.pathOf c k.path with
    | none => (s, false)
    | some (n, sport, j) =>
      let dscp := fld (s.cfgReg (pg (netPage n) + 0x130 + 4 * (cls / 4))) (8 * (cls % 4)) 8
      let head := s.ethHead n cls (if c.bit0 25 then 0x86DD else 0x0800)
        ++ s.ipHead n c sport (dscp % 64) (f.len - (frameBase c - 16))
      let f := { f with len := f.len + s.vlanTag n, dscp := dscp }
      let s := s.setConn q { k with path := j }
      let s := s.setCtx q { c with nSent := (c.nSent + 1) % 2 ^ 32 }
      ((s.bump64 (pg xptPage + 0x1A0) 1).enqFrame n cls f.len (.roce head f), true)

/-! ### Pins and the cache (13 R481, R482) -/

/-- A connection is pinned. -/
def State.isPinned (s : State) (q : Nat) : Bool :=
  let k := s.conn q
  k.msgs.any (fun m => m.first.isSome) || !k.inb.isEmpty || decide ((s.ctx q).state = .retry)
    || s.net.reqs.any (fun r => decide (r.qpn = q))

/-- Pinned contexts. -/
def State.pinned (s : State) : Nat :=
  let a := s.net.conn.map (fun (e : Nat × Conn) => e.1)
  let b := s.net.ctx.map (fun (e : Nat × Ctx) => e.1)
  let c := s.net.reqs.map (fun (r : NetReq) => r.qpn - 0x100000)
  ((a ++ b ++ c).eraseDups.filter (fun i => s.isPinned (0x100000 + i))).length

/-- A connection may open a message (13 R481). -/
def State.mayPin (s : State) (q : Nat) : Bool := s.isPinned q || decide (s.pinned < 12288)

/-- A context was used. -/
def State.useCtx (s : State) (q : Nat) : State :=
  if s.spillOn then
    { s with net := { s.net with cached := (q - 0x100000) :: s.net.cached.erase (q - 0x100000) } }
  else s

/-- The least recently used unpinned context is written back when the cache is full: none when every one is pinned. -/
def State.evictCtx (s : State) : Option State :=
  if s.net.cached.length < 16384 then some s
  else match s.net.cached.reverse.find? (fun i => !s.isPinned (0x100000 + i)) with
    | none => none
    | some i =>
      let q := 0x100000 + i
      let s := s.hostPut s.spillPort (s.spillAddr q) (bytesOf (ctxWords (s.ctx q) (s.conn q)))
      let s := s.setCtx q Ctx.none
      some { s with net := { s.net with cached := s.net.cached.erase i } }

/-- A context is brought on chip: none while its port is lost, its read draws a bus error or nothing can be
evicted. -/
def State.bringCtx (s : State) (q : Nat) : Option State :=
  if s.ctxHere q then some (s.useCtx q)
  else match s.ctxPeek q, (if s.portDown s.spillPort then none else s.evictCtx) with
    | some c, some s => some ((s.setCtx q c).useCtx q)
    | _, _ => none

/-! ### The end of a connection's work (07 R240; 13 R480, R503) -/

/-- Everything that a connection works for ends with the status (07 R240); its network requests answer nobody (13 R495). -/
def State.endWork (s : State) (q : Nat) (st : Status) : State :=
  let msgs := (s.conn q).msgs
  let s := s.setConn q { Conn.none with path := (s.conn q).path }
  let s := { s with net := { s.net with reqs := (s.net.reqs.filter (fun (r : NetReq) => decide (r.qpn ≠ q) || r.decoded)).map (fun (r : NetReq) =>
      if r.qpn = q then { r with qpn := 0 } else r) } }
  let s := s.pfs.dlvs.foldl (fun s d =>
    match d.target with
    | .conn q' _ _ =>
      if q' = q then (List.range d.ents.length).foldl (fun s k => s.failEnt d.id k st) s else s
    | .host _ => s) s
  msgs.foldl (fun s m =>
    match m.work with
    | .result id => s.jobEnd id (some st)
    | _ => s) s

/-- A connection enters ERROR (13 R503). -/
def State.connError (s : State) (q : Nat) (st : Status) : State :=
  let s := (s.setCtx q { s.ctx q with state := .error, timer := none }).raise xptPage 0
  s.endWork q st

/-! ### Acknowledgements sent (13 R487, R488) -/

/-- An acknowledgement or NAK on the connection's ACK_TC. -/
def State.sendAeth (s : State) (q psn nak us : Nat) (becn : Bool) : State × Bool :=
  let c := s.ctx q
  s.emit q (c.fld 0 14 3) { frameTo c with len := frameBase c + 4, op := 0x11, psn := psn, nak := nak, rnrUs := us,
                                           becn := becn, firstPsn := c.msn }

/-- An ACK for EPSN - 1, with BECN for what it newly covers (13 R488). -/
def State.sendAck (s : State) (q : Nat) : State :=
  let c := s.ctx q
  let old := fun (p : Nat) => decide (psnSub c.epsn p ≠ 0 ∧ psnSub c.epsn p < 2 ^ 23)
  match s.sendAeth q (psnSub c.epsn 1) 0 0 ((s.conn q).ces.any old) with
  | (s, true) =>
    let k := s.conn q
    s.setConn q { k with uncov := 0, uncovAt := none, ces := k.ces.filter (fun p => !old p) }
  | (s, false) => s

/-- ACK_DELAY (13 R488). -/
def execAckDelay (qpn t : Nat) (s : State) : Res :=
  let s := s.at_ t
  .next (match (s.conn qpn).uncovAt with
    | some a => if a + fld (s.xptReg 0x10C) 8 8 * 1000 ≤ s.clk ∧ (s.ctx qpn).live then s.sendAck qpn else s
    | none => s)

/-- A NAK that puts the connection in ERROR: 2 invalid request, 3 remote access error (13 R474, R490). -/
def State.nakError (s : State) (q psn nak : Nat) : State :=
  let s := (s.sendAeth q psn nak 0 false).1
  let s := if nak = 3 then s.bump (pg xptPage + 0x1C4) else s
  s.connError q .timeout

/-- An RNR NAK (13 R493). -/
def State.sendRnr (s : State) (q psn : Nat) : State :=
  let us := (rnrTimes.find? (fun x => decide (fld (s.xptReg 0x110) 0 16 ≤ x))).getD 655360
  (s.sendAeth q psn 4 us false).1.bump (pg xptPage + 0x1C8)

/-! ### Tag counters (13 R498, R499) -/

/-- A counted arrival on a tag. -/
def State.arrival (s : State) (tag : Nat) : State :=
  if s.net.tags.any (fun t => decide (t.tag = tag)) then
    let up := fun (t : TagCnt) => { t with count := t.count + 1, at_ := s.clk }
    ({ s with net := { s.net with tags := updIf s.net.tags (fun t => decide (t.tag = tag)) up } }).tagTest tag
  else if s.net.tags.length < 4096 then
    let x : TagCnt := { tag := tag, count := 1, at_ := s.clk }
    ({ s with net := { s.net with tags := s.net.tags ++ [x] } }).tagTest tag
  else s.count xptPage 0x1D0 3

/-- COUNTER_IDLE (13 R499). -/
def execCounterIdle (tag t : Nat) (s : State) : Res :=
  let s := s.at_ t
  .next (match s.net.tags.find? (fun x => decide (x.tag = tag)) with
    | some x =>
      if x.at_ + fld (s.xptReg 0x118) 0 16 * 1000000 ≤ s.clk then
        ({ s with net := { s.net with tags := s.net.tags.filter (fun y => decide (y.tag ≠ tag)) } }).bump (pg xptPage + 0x1D4)
      else s
    | none => s)

/-! ### Inbound messages (13 R486 to R493) -/

/-- Where an accepted write goes (13 R490 to R492). -/
inductive Dest where
  | rsv (i page off pageSize : Nat)
  | repair (rs : Nat)
  | discard

/-- The check of 13 R490 on a write of `n` bytes. -/
def State.writeDest (s : State) (q : Nat) (c : Ctx) (va rkey n : Nat) : Option Dest :=
  if 2 ^ 26 ≤ rkey then
    if c.bit0 26 ∧ rkey = va / 2 ^ 32 then
      (s.rsvRange c.tenant va n false).map (fun x => Dest.rsv x.1 x.2.1 x.2.2.1 x.2.2.2)
    else none
  else if 0x100 ≤ rkey ∧ rkey < 0x200 then
    let rs := rkey - 0x100
    if va + n ≤ 2 ^ 21 ∧ (s.repairIn rs).any (fun r => decide (r.qpn = q)) then some (.repair rs)
    else if s.net.closed.contains (rs, q) then some .discard
    else none
  else none

/-- Payload bytes placed at offset `k` of a message. -/
def State.placeAt (s : State) (d : Dest) (va k : Nat) (bs : List Byte) : State :=
  match d with
  | .rsv i page off ps => s.linWrite i ps page off k bs
  | .repair rs => { s with net := { s.net with rbuf := s.net.rbuf.wrBytes (2 ^ 21 * rs + va + k) bs } }
  | .discard => s

/-- The repair slot of an open repair on this connection that an immediate answers (13 R495, R496). -/
def State.answered (s : State) (q : Nat) (w : Word) : Bool :=
  decide (fld w 0 8 = 0xFF) && (s.repairIn (fld w 8 24)).any (fun r => decide (r.qpn = q))

/-- An immediate that answers a repair on this connection, open or closed under 07 R264. -/
def State.isAnswer (s : State) (q : Nat) (imm : Option Word) : Bool :=
  match imm with
  | none => false
  | some w => s.answered q w || (decide (fld w 0 8 = 0xFF) && s.net.closed.contains (fld w 8 24, q))

/-- SEND messages on a connection are network requests (13 R493). -/
def State.takesReq (s : State) (c : Ctx) : Bool := c.bit0 27 && bit (s.xptReg 0x100) 2

/-- Bytes of a SEND from its packets. -/
def InMsg.bytes (m : InMsg) : List Byte :=
  (isort (fun (a b : Nat × List Byte) => decide (a.1 ≤ b.1)) m.parts).flatMap (fun p => p.2)

/-- Verdict on the packet that opens or continues a message. -/
inductive Opened where
  | ok (m : InMsg) (fresh : Bool)
  | invalid
  | dropped

/-- The inbound message of a packet: the open one, or a new one (13 R486). -/
def State.inMsgOf (s : State) (q : Nat) (f : Frame) : Opened :=
  let c := s.ctx q
  let k := s.conn q
  let new : InMsg := { first := if c.spray then f.firstPsn else f.psn, count := if c.spray then f.pktCount else 0,
                       landed := [], send := opSend f.op, va := f.va.toNat, rkey := f.rkey.toNat, dlen := f.dlen,
                       imm := none, parts := [] }
  if c.spray then
    if psnSub f.psn f.firstPsn ≥ f.pktCount then .invalid
    else match k.inb.find? (fun m => decide (m.first = f.firstPsn)) with
      | some m => if m.send = opSend f.op then .ok m false else .invalid
      | none => if 4 ≤ k.inb.length ∨ !s.mayPin q then .dropped else .ok new true
  else match k.inb with
    | m :: _ => if opFirst f.op ∨ m.send ≠ opSend f.op then .invalid else .ok m false
    | [] => if !opFirst f.op then .invalid else if !s.mayPin q then .dropped else .ok new true

/-- EPSN and RX_BITMAP after the packet at distance `d` has landed; recursion on the window. -/
def slideEpsn : Nat → Nat → Nat → Nat × Nat
  | 0, e, b => (e, b)
  | n + 1, e, b => if b % 2 = 1 then slideEpsn n (psnAdd e 1) (b / 2) else (e, b)

/-- A complete message takes effect (13 R489, R493, R498). -/
def State.inDone (s : State) (q : Nat) (m : InMsg) : State :=
  let c := s.ctx q
  let s := s.setCtx q { c with msn := psnAdd c.msn 1 }
  let k := s.conn q
  let s := s.setConn q { k with inb := k.inb.filter (fun x => decide (x.first ≠ m.first)) }
  let mine := fun (r : NetReq) => decide (r.qpn = q ∧ r.first = m.first) && r.bytes.isNone
  let s :=
    if !m.send then s
    else if s.isAnswer q m.imm then
      let k := s.conn q
      ({ s with net := { s.net with reqs := s.net.reqs.filter (fun r => !mine r) } }).setConn q
        { k with inbox := if m.imm.any (s.answered q) then k.inbox ++ [(m.imm, m.bytes)] else k.inbox }
    else { s with net := { s.net with reqs := updIf s.net.reqs mine (fun r => { r with bytes := some m.bytes }) } }
  match m.imm with
  | some w =>
    if c.bit0 28 && bit (s.xptReg 0x100) 1 then s.arrival (c.fld 2 24 8 * 2 ^ 24 + fld w 8 24) else s
  | none => s

/-- The packet has been placed: EPSN, the message's count, completion, acknowledgement (13 R486 to R489). -/
def State.inLanded (s : State) (q d : Nat) (f : Frame) (m : InMsg) : State :=
  let c := s.ctx q
  let (e, b) := slideEpsn 257 c.epsn (c.bitmap ||| 2 ^ d)
  let adv := psnSub e c.epsn
  let s := s.setCtx q { c with epsn := e, bitmap := b }
  let k := s.conn q
  let m := { m with landed := m.landed ++ [f.psn], imm := if f.imm.isSome then f.imm else m.imm,
                    parts := if m.send then m.parts ++ [(psnSub f.psn m.first, f.payload)] else m.parts }
  let inb : List InMsg := if k.inb.any (fun x => decide (x.first = m.first)) then
    updIf k.inb (fun x => decide (x.first = m.first)) (fun _ => m) else k.inb ++ [m]
  let un := k.uncov + adv
  let s := s.setConn q { k with inb := inb, uncov := un, naked := k.naked && decide (adv = 0),
                                uncovAt := if un = 0 then none else some (k.uncovAt.getD s.clk),
                                ces := if f.ce then k.ces ++ [f.psn] else k.ces }
  let whole := if c.spray then decide (m.landed.length = m.count) else opLast f.op
  let s := if whole then s.inDone q m else s
  if (decide (fld (s.xptReg 0x10C) 0 8 ≤ un) || whole || (f.ackReq && decide (un ≠ 0))) && (s.ctx q).live then s.sendAck q
  else s

/-- A packet in order, or ahead on a sprayed connection, is checked and placed (13 R474, R486, R490, R493). -/
def State.inPlace (s : State) (q d : Nat) (f : Frame) : State :=
  let c := s.ctx q
  if 11 < f.op then s.nakError q f.psn 2
  else match s.inMsgOf q f with
    | .invalid => s.nakError q f.psn 2
    | .dropped => s
    | .ok m fresh =>
      let off := psnSub f.psn m.first * c.pmtu
      if m.send then
        let answers := s.isAnswer q f.imm
        let repairs := s.pfs.repairs.any (fun r => decide (r.qpn = q ∧ r.st ≠ .waiting))
        if fresh ∧ !answers ∧ s.takesReq c then
          if fld (s.xptReg 0x114) 0 11 ≤ s.net.reqs.length then s.sendRnr q f.psn
          else
            let r : NetReq := { rid := s.net.nextReq, qpn := q, first := m.first, bytes := none, decoded := false }
            ({ s with net := { s.net with reqs := s.net.reqs ++ [r], nextReq := s.net.nextReq + 1 } }).inLanded q d f m
        else if fresh ∧ !answers ∧ !repairs then s.nakError q f.psn 2
        else s.inLanded q d f m
      else match s.writeDest q c m.va m.rkey m.dlen with
        | none => s.nakError q f.psn 3
        | some dest =>
          if m.dlen < off + f.payload.length then s.nakError q f.psn 3
          else (s.placeAt dest m.va off f.payload).inLanded q d f m

/-- A duplicate (13 R487). -/
def State.inDup (s : State) (q : Nat) : State :=
  let c := s.ctx q
  ((s.setCtx q { c with nDup := (c.nDup + 1) % 2 ^ 32 }).bump (pg xptPage + 0x1C0)).sendAck q

/-- A request packet is classified by its PSN (13 R487). -/
def State.inPacket (s : State) (q : Nat) (f : Frame) : State :=
  let c := s.ctx q
  let d := psnSub f.psn c.epsn
  if 2 ^ 23 ≤ d then s.inDup q
  else if d = 0 then s.inPlace q d f
  else if c.spray then
    if 256 ≤ d then s.bump (pg xptPage + 0x1BC)
    else if c.bitmap.testBit d then s.inDup q
    else s.inPlace q d f
  else if (s.conn q).naked then s
  else
    let (s, ok) := s.sendAeth q c.epsn 1 0 false
    if ok then s.setConn q { s.conn q with naked := true } else s

/-! ### The requester side (13 R483, R502 to R504) -/

/-- T0 x 2^RETRIES_USED from now; none when TIMEOUT = 0 or nothing is outstanding (13 R502). -/
def State.timerFrom (s : State) (c : Ctx) : Option Nat :=
  let x := c.fld 0 4 5
  if x = 0 ∨ c.una = c.sqPsn then none else some (s.clk + 4096 * 2 ^ x * 2 ^ c.retries)

/-- W after one acknowledged packet without BECN. -/
def windowUp (ai w : Nat) : Nat := min 65536 (w + ai * 65536 / w)

/-- W after `n` acknowledged packets. -/
def windowUps (ai : Nat) : Nat → Nat → Nat
  | 0, w => w
  | n + 1, w => windowUps ai n (windowUp ai w)

/-- A BECN (13 R483): counted; the window falls once per round trip. -/
def State.becn (s : State) (q : Nat) : State :=
  let s := s.bump (pg xptPage + 0x1B4)
  let c := s.ctx q
  let cc := s.xptReg 0x108
  if psnSub c.una c.recovery < 2 ^ 23 then
    s.setCtx q { c with window := 256 * max (fld cc 0 8) (c.window * fld cc 16 8 / 65536), recovery := c.sqPsn }
  else s

/-- What an acknowledgement means for the work of a message: bytes acknowledged, or the whole of it (07 R236, R237;
09 R321). -/
def State.ackWork (s : State) (c : Ctx) (m : Msg) : State :=
  match m.first with
  | none => s
  | some f =>
    let d := psnSub c.una f
    if 2 ^ 23 ≤ d ∨ m.dead then s
    else
      let whole := decide (m.packets c.pmtu ≤ d)
      match m.work with
      | .dlv id k => s.ackEnt id k (if whole then m.total else d * c.pmtu)
      | .result id => if whole then s.jobEnd id none else s
      | .answer _ => s
      | .repair _ => s

/-- A message is acknowledged whole. -/
def Msg.acked (m : Msg) (c : Ctx) : Bool :=
  match m.first with
  | none => false
  | some f => decide (psnSub c.una f < 2 ^ 23) && decide (m.packets c.pmtu ≤ psnSub c.una f)

/-- An ACK (13 R483, R502, R503). -/
def State.inAck (s : State) (q : Nat) (f : Frame) : State :=
  let c := s.ctx q
  let k := s.conn q
  let n := psnSub (psnAdd f.psn 1) c.una
  if n = 0 ∨ psnSub c.sqPsn c.una < n then (if f.becn then s.becn q else s)
  else
    let una := psnAdd f.psn 1
    let w := if f.becn then c.window else windowUps (fld (s.xptReg 0x108) 8 8) n c.window
    let back := decide (c.state = .retry) && decide (psnSub una k.retryTo < 2 ^ 23)
    let c := { c with una := una, window := w, retries := 0, state := if back then CState.ready else c.state }
    let c := { c with timer := s.timerFrom c }
    let nxt := if psnSub k.nxt una < 2 ^ 23 then k.nxt else una
    let s := s.setCtx q c
    let s := s.setConn q { k with nxt := nxt, msgs := k.msgs.filter (fun m => !m.acked c) }
    let s := if f.becn then s.becn q else s
    k.msgs.foldl (fun s m => s.ackWork c m) s

/-- A NAK (13 R503). -/
def State.inNak (s : State) (q : Nat) (f : Frame) : State :=
  let c := s.ctx q
  let k := s.conn q
  let inside := decide (psnSub f.psn c.una < psnSub c.sqPsn c.una)
  if f.nak = 1 then (if inside then s.setConn q { k with nxt := f.psn } else s)
  else if f.nak = 2 then s.connError q .timeout
  else if f.nak = 3 then s.connError q .revoked
  else
    let used := min 255 (c.rnrUsed + 1)
    let s := s.setCtx q { c with rnrUsed := used }
    if c.fld 0 1 3 < 7 ∧ c.fld 0 1 3 < used then s.connError q .timeout
    else if inside then s.setConn q { k with nxt := f.psn, rnrUntil := some (s.clk + f.rnrUs * 1000) }
    else s

/-! ### Reception (13 R477) -/

/-- A transport packet whose context is on chip (13 R477, steps 2 to 6). -/
def State.inCtx (s : State) (q : Nat) (f : Frame) : State :=
  let c := s.ctx q
  if c.state = .reset then s.bump (pg xptPage + 0x1B8)
  else if !c.live then s
  else if f.pkey % 2 ^ 15 ≠ c.fld 1 16 15 ∨ f.pkey / 2 ^ 15 % 2 = 0 then s.bump (pg xptPage + 0x1B8)
  else
    let s := (s.setCtx q { c with nRecv := (c.nRecv + 1) % 2 ^ 32 }).useCtx q
    if f.op = 0x81 then s.becn q
    else if f.op = 0x11 then (if f.nak = 0 then s.inAck q f else s.inNak q f)
    else s.inPacket q f

/-- A received frame (13 R471, R472, R477, R482; 14 R527): counted, checked, policed, and for the transport handed to
its context, or to the miss buffer. -/
def State.rxFrame (s : State) (n : Nat) (f : Frame) : State :=
  if !(s.netPort n).up then s
  else
    let s := s.bump64 (pg (netPage n) + 0x180) 1
    if !f.fcsOk ∨ 9216 < f.len ∨ !f.addrOk then s.bump (pg (netPage n) + 0x198)
    else match s.police n f with
      | (s, false) => s
      | (s, true) =>
        if !f.roce ∨ !f.icrcOk ∨ !s.xptOn then s
        else if !s.qpnOk f.qpn then s.bump (pg xptPage + 0x1B8)
        else if s.ctxHere f.qpn then s.inCtx f.qpn f
        else if s.portDown s.spillPort then s.raise xptPage 2
        else if 512 ≤ s.net.miss.length then s.count xptPage 0x1CC 4
        else { s with net := { s.net with miss := s.net.miss ++ [(f.qpn, n, f)] } }

/-- PACKET_RECEIVE (13 R477). -/
def execPacketReceive (n : Nat) (f : Frame) (s : State) : Res := .next (s.rxFrame n f)

/-- ACK_RECEIVE (13 R483). -/
def execAckReceive (n : Nat) (f : Frame) (s : State) : Res :=
  .next (if f.roce ∧ f.op = 0x11 ∧ f.nak = 0 then s.rxFrame n f else s)

/-- CNP_RECEIVE (13 R474, R483). -/
def execCnpReceive (n : Nat) (f : Frame) (s : State) : Res :=
  .next (if f.roce ∧ f.op = 0x81 then s.rxFrame n f else s)

/-- NAK_RECEIVE (13 R503). -/
def execNakReceive (n : Nat) (f : Frame) (s : State) : Res :=
  .next (if f.roce ∧ f.op = 0x11 ∧ f.nak ≠ 0 then s.rxFrame n f else s)

/-- CONTEXT_FETCH (13 R481, R482): the context comes on chip and its waiting packets are processed in order. -/
def execContextFetch (qpn : Nat) (s : State) : Res :=
  .next (
    let mine := s.net.miss.filter (fun x => decide (x.1 = qpn))
    if s.ctxHere qpn ∨ !s.qpnOk qpn ∨ (mine = [] ∧ (s.conn qpn).msgs = []) then s
    else match s.bringCtx qpn with
      | none => s
      | some s =>
        let s := { s with net := { s.net with miss := s.net.miss.filter (fun x => decide (x.1 ≠ qpn)) } }
        mine.foldl (fun s x => s.inCtx qpn x.2.2) s)

/-! ### Sending (13 R483, R484) -/

/-- Frame of packet `k` of a message (13 R474 to R476). -/
def msgFrame (c : Ctx) (m : Msg) (first k : Nat) : Frame :=
  let n := m.packets c.pmtu
  let bs := (m.data.drop (k * c.pmtu)).take (min c.pmtu (m.total - k * c.pmtu))
  let last := decide (k + 1 = n)
  let reth := m.write && (c.spray || decide (k = 0))
  { frameTo c with
    len := frameBase c + (if c.spray then 8 else 0) + (if reth then 16 else 0)
      + (if last && m.imm.isSome then 4 else 0) + roundUp bs.length 4,
    op := opOf m.write m.imm.isSome k n, psn := psnAdd first k, ackReq := last,
    va := if reth then BitVec.ofNat 64 m.va else 0, rkey := if reth then w32 m.rkey else 0,
    dlen := if reth then m.total else 0,
    firstPsn := if c.spray then first else 0, pktCount := if c.spray then n else 0,
    imm := if last then m.imm else none, payload := bs }

/-- The bytes of packet `k` are in staging. -/
def Msg.staged (m : Msg) (c : Ctx) (k : Nat) : Bool := decide (min m.total ((k + 1) * c.pmtu) ≤ m.data.length)

/-- Started message that holds a PSN, and the packet's place in it. -/
def Conn.msgAt (k : Conn) (c : Ctx) (psn : Nat) : Option (Msg × Nat × Nat) :=
  (k.msgs.filterMap (fun m => match m.first with
    | some f => if psnSub psn f < m.packets c.pmtu then some (m, f, psnSub psn f) else Option.none
    | Option.none => Option.none)).head?

/-- A packet that was sent before is sent again. -/
def State.resend (s : State) (q : Nat) : State :=
  let c := s.ctx q
  let k := s.conn q
  match k.msgAt c k.nxt with
  | none => s
  | some (m, f, i) =>
    match s.emit q m.tc (msgFrame c m f i) with
    | (s, false) => s
    | (s, true) =>
      let s := s.setConn q { s.conn q with nxt := psnAdd k.nxt 1 }
      (s.setCtx q { s.ctx q with nResent := (c.nResent + 1) % 2 ^ 32 }).bump (pg xptPage + 0x1A8)

/-- The next packet of a message leaves for the first time: `i` packets of it have been sent. -/
def State.sendNew (s : State) (q : Nat) (m : Msg) (f i : Nat) : State :=
  let c := s.ctx q
  match s.emit q m.tc (msgFrame c m f i) with
  | (s, false) => s
  | (s, true) =>
    let c1 := { s.ctx q with sqPsn := psnAdd c.sqPsn 1 }
    let c1 := if c.una = c.sqPsn then { c1 with timer := s.timerFrom c1 } else c1
    let s := s.setCtx q c1
    let k := s.conn q
    let up := fun (x : Msg) => { x with first := some f }
    let s := s.setConn q { k with nxt := c1.sqPsn, msgs := updIf k.msgs (fun x => decide (x.mid = m.mid)) up }
    if i + 1 = m.packets c.pmtu then
      match m.work with
      | .dlv id e => if m.dead then s else s.handEnt id e
      | _ => s
    else s

/-- The message belongs to a suspended DELIVER record, which begins no message (02 R67). -/
def State.msgShut (s : State) (m : Msg) : Bool :=
  match m.work with
  | .dlv id _ => s.shut id
  | _ => false

/-- PACKET_SEND (13 R483, R484): the next packet in order, while window, pin, port and staging allow. -/
def execPacketSend (qpn : Nat) (s : State) : Res :=
  .next (
    let c := s.ctx qpn
    let k := s.conn qpn
    if !s.qpnOk qpn ∨ !s.ctxHere qpn ∨ !c.live ∨ k.rnrUntil.isSome then s
    else if min 256 (c.window / 256) ≤ psnSub k.nxt c.una then s
    else
      let s := s.useCtx qpn
      if k.nxt ≠ c.sqPsn then s.resend qpn
      else match k.msgAt c c.sqPsn with
        | some (m, f, i) => if m.staged c i then s.sendNew qpn m f i else s
        | none =>
          match k.msgs.find? (fun m => m.first.isNone) with
          | none => s
          | some m =>
            if 4 ≤ (k.msgs.filter (fun m => m.first.isSome)).length ∨ !s.mayPin qpn ∨ !m.staged c 0 ∨ s.msgShut m then s
            else s.sendNew qpn m c.sqPsn 0)

/-- RNR_RETRY (13 R503): the wait after an RNR NAK is over. -/
def execRnrRetry (qpn t : Nat) (s : State) : Res :=
  let s := s.at_ t
  .next (match (s.conn qpn).rnrUntil with
    | some a => if a ≤ s.clk then s.setConn qpn { s.conn qpn with rnrUntil := none } else s
    | none => s)

/-- RETRY_TIMER (13 R502, R503). -/
def execRetryTimer (qpn t : Nat) (s : State) : Res :=
  let s := s.at_ t
  .next (
    let c := s.ctx qpn
    match c.timer with
    | none => s
    | some e =>
      if s.clk < e ∨ !c.live then s
      else
        let s := s.bump (pg xptPage + 0x1AC)
        if c.fld 0 9 3 ≤ c.retries then (s.count xptPage 0x1B0 1).connError qpn .timeout
        else
          let c1 := { c with state := CState.retry, retries := c.retries + 1,
                             window := 256 * fld (s.xptReg 0x108) 24 8 }
          let c1 := { c1 with timer := s.timerFrom c1 }
          let k := s.conn qpn
          (s.setCtx qpn c1).setConn qpn { k with
            nxt := c.una, rnrUntil := none, retryTo := if c.state = .retry then k.retryTo else c.sqPsn })

/-! ### The context window (13 R480) -/

/-- Word 0 to 63 of the window. -/
def State.ctxWindow (s : State) : List Word := (List.range 64).map (fun i => s.reg (pg xptPage + 0x400 + 4 * i))

/-- Reserved fields, PMTU 3 and TC 7 of a context to be written (13 R479, R480). -/
def ctxWindowBad (ws : List Word) : Bool :=
  let w := fun i => ws.getD i 0
  decide ((w 0) &&& 0x01000001 ≠ 0) || decide (fld (w 0) 12 2 = 3) || decide (fld (w 0) 17 3 = 7)
    || decide ((w 3) &&& 0xFF ≠ 0) || decide ((w 4) &&& 0xFFF00000 ≠ 0) || decide ((w 12) &&& 0xFF000000 ≠ 0)
    || decide ((w 20) &&& 0xFF000000 ≠ 0)
    || ([9, 10, 11, 18, 19, 22, 23] ++ (List.range 8).map (fun i => 56 + i)).any (fun i => decide (w i ≠ 0))

/-- RESULT of the operation. -/
def State.ctxDone (s : State) (r : Nat) : State := { s with net := { s.net with ctxResult := r } }

/-- QPN of the context that XPT_CTX_SEL names. -/
def State.ctxSel (s : State) : Nat := 0x100000 + fld (s.reg (pg xptPage + 0x170)) 0 20

/-- A context operation on a context that exists and can be brought on chip; otherwise RESULT 3. -/
def State.ctxOp (s : State) (src : Src) (f : State → Nat → State) : State :=
  if !s.pageOn src xptPage then s
  else
    let q := s.ctxSel
    if !s.qpnOk q then s.ctxDone 3
    else match s.bringCtx q with
      | none => s.ctxDone 3
      | some s => f s q

/-- XPT_CTX_OP = 1. -/
def State.ctxReadOp (s : State) (q : Nat) : State :=
  let ws := ctxWords (s.ctx q) (s.conn q)
  ((List.range 64).foldl (fun s i => s.setReg (pg xptPage + 0x400 + 4 * i) (ws.getD i 0)) s).ctxDone 0

/-- XPT_CTX_OP = 2. -/
def State.ctxWriteOp (s : State) (q : Nat) : State :=
  let ws := s.ctxWindow
  match s.tenantOfPKey (fld (ws.getD 1 0) 16 16) with
  | none => s.ctxDone 3
  | some t =>
    if (s.ctx q).state ≠ .reset ∨ ctxWindowBad ws then s.ctxDone 3
    else
      let psn := fld (ws.getD 12 0) 0 24
      let c : Ctx := { Ctx.none with ws := ws, state := .ready, tenant := t, sqPsn := psn, una := psn,
                                     epsn := fld (ws.getD 20 0) 0 24, window := 256 * fld (s.xptReg 0x108) 24 8 }
      ((s.setCtx q c).setConn q { Conn.none with nxt := psn, msgs := (s.conn q).msgs }).ctxDone 0

/-- XPT_CTX_OP = 3. -/
def State.ctxErrorOp (s : State) (q : Nat) : State := (s.connError q .timeout).ctxDone 0

/-- XPT_CTX_OP = 4: the connection's work ends, the context is in RESET. -/
def State.ctxResetOp (s : State) (q : Nat) : State :=
  (((s.setCtx q Ctx.none).endWork q .timeout).setConn q Conn.none).ctxDone 0

/-- CTX_READ (13 R480). -/
def execCtxRead (src : Src) (s : State) : Res := .next (s.ctxOp src State.ctxReadOp)

/-- CTX_WRITE (13 R480). -/
def execCtxWrite (src : Src) (s : State) : Res := .next (s.ctxOp src State.ctxWriteOp)

/-- CTX_FORCE_ERROR (13 R480). -/
def execCtxForceError (src : Src) (s : State) : Res := .next (s.ctxOp src State.ctxErrorOp)

/-- CTX_FORCE_RESET (13 R480). -/
def execCtxForceReset (src : Src) (s : State) : Res := .next (s.ctxOp src State.ctxResetOp)

/-! ### Network requests (13 R493 to R495) -/

/-- Opcodes and forms that a network request accepts (13 R494). -/
def netOpOk (ws : List Word) : Bool :=
  let op := fld (ws.getD 0 0) 0 8
  decide (op = 0x01 ∨ op = 0x04) || (decide (op = 0x03) && !bit (ws.getD 1 0) 1) || (decide (op = 0x0A) && !bit (ws.getD 1 0) 0)

/-- NETWORK_REQUEST (13 R493, R494): the oldest complete message of a connection is decoded. -/
def execNetworkRequest (qpn : Nat) (s : State) : Res :=
  .next (match s.net.reqs.find? (fun r => decide (r.qpn = qpn) && r.bytes.isSome && !r.decoded) with
    | none => s
    | some r =>
      let bs := r.bytes.getD []
      let ws := wordsOf (bs.take 64)
      let id := s.que.nextId
      let s := { s with net := { s.net with
        reqs := updIf s.net.reqs (fun x => decide (x.rid = r.rid)) (fun x => { x with decoded := true }) } }
      if bs.length < 64 ∨ 64 + 8192 < bs.length ∨ !netOpOk ws then
        (s.accept (.net qpn r.rid) (s.ctx qpn).tenant false ws (wd64 ws 2)).fail id .badCommand
      else s.acceptRun (.net qpn r.rid) (s.ctx qpn).tenant false ws (wd64 ws 2) none)

/-! ### ARP and neighbour discovery (13 R472; 14 R509) -/

/-- ARP_REQUEST: an answer for an IPv4 address of the KX7, in class 7. -/
def execArpRequest (n : Nat) (_sender target : Word) (s : State) : Res :=
  .next (
    if s.netExists n ∧ target ≠ 0 ∧ s.netPorts.any (fun p => decide (s.reg (pg (netPage p) + 0x110) = target)) then
      s.enqFrame n 7 (64 + s.vlanTag n) (.arp target)
    else s)

/-- IPv6 address of a port. -/
def State.ipv6 (s : State) (n : Nat) : List Word := (List.range 4).map (fun i => s.reg (pg (netPage n) + 0x114 + 4 * i))

/-- NEIGHBOUR_SOLICITATION: an advertisement for an IPv6 address of the KX7, in class 7. -/
def execNeighbourSolicitation (n : Nat) (target : List Word) (s : State) : Res :=
  .next (
    if s.netExists n ∧ target.any (fun w => decide (w ≠ 0)) ∧ s.netPorts.any (fun p => decide (s.ipv6 p = target)) then
      s.enqFrame n 7 (90 + s.vlanTag n) (.advert target)
    else s)

/-! ### Trigger rings (13 R497, R501) -/

/-- Base offset of the registers of a port's trigger ring. -/
def tringAt (p : Nat) : Nat := pg xptPage + 0x130 + 0x20 * p

/-- Bytes of SIZE, HEAD and TAIL. -/
def State.tring (s : State) (p : Nat) : Nat × Nat × Nat :=
  let n := fld (s.reg (tringAt p + 8)) 0 4
  (n, fld (s.reg (tringAt p + 0xC)) 0 12 % 2 ^ n, fld (s.reg (tringAt p + 0x10)) 0 12 % 2 ^ n)

/-- XPT_TRING_TAIL (13 R497). -/
def execXptTringTail (src : Src) (p : Nat) (v : Word) (s : State) : Res :=
  .next (if s.pageOn src xptPage ∧ p < 2 then s.setReg (tringAt p + 0x10) (v &&& 0xFFF) else s)

/-- A trigger entry that may be armed (13 R497): reserved bits, THRESHOLD and opcode. -/
def tringOk (ws : List Word) : Bool :=
  let op := fld (ws.getD 16 0) 0 8
  decide ((ws.getD 1 0) &&& 0x00FF0000 = 0) && decide (fld (ws.getD 1 0) 0 16 ≠ 0)
    && ((ws.drop 2).take 14).all (fun w => decide (w = 0)) && decide (op = 0x0C ∨ op = 0x0D ∨ op = 0x0A)

/-- A completion of a trigger entry that does not run (13 R497, R501). -/
def State.tringEnd (s : State) (p : Nat) (ws : List Word) (st : Status) : State :=
  let w1 := ws.getD 1 0
  if bit w1 31 then
    let (rs, s) := s.endWords (fld (ws.getD 16 0) 0 8) 5
    s.postCq noId p (fld w1 24 6)
      (cqWords (wd64 ws 18) 0 (fld (ws.getD 16 0) 0 8) st (rs.getD 0 0) (rs.drop 1)) (bit w1 30)
  else s

/-- TRIGGER_FETCH (13 R497): the next entry is armed, or refused. -/
def execTriggerFetch (p : Nat) (s : State) : Res :=
  .next (
    let (n, h, t) := s.tring p
    if 2 ≤ p ∨ n < 4 ∨ 12 < n ∨ h = t ∨ 1024 ≤ s.net.armed.length ∨ s.portDown p then s
    else
      let base := (s.reg (tringAt p)).toNat + 2 ^ 32 * (s.reg (tringAt p + 4)).toNat
      let bytes := s.hostRead p (base + 128 * h) 128
      let s := s.setReg (tringAt p + 0xC) (w32 ((h + 1) % 2 ^ n))
      match bytes with
      | none => s
      | some bs =>
        let ws := wordsOf bs
        match s.binding p (fld (ws.getD 1 0) 24 6), tringOk ws with
        | some (tenant, _), true =>
          let a : Armed := { n := s.net.nextArm, port := p, tenant := tenant, ws := ws }
          ({ s with net := { s.net with armed := s.net.armed ++ [a], nextArm := s.net.nextArm + 1 } }).tagTest (wd ws 0)
        | _, _ => (s.tringEnd p ws .badCommand).raise xptPage 5)

/-- A host port disarms its own entries of a tag (13 R501). -/
def State.trigDisarm (s : State) (p : Nat) (tag : Word) : State :=
  let gone := s.net.armed.filter (fun a => decide (a.port = p ∧ wd a.ws 0 = tag.toNat))
  let s := { s with net := { s.net with armed := s.net.armed.filter (fun a => !gone.contains a) } }
  gone.foldl (fun s a => s.tringEnd p a.ws .aborted) s

/-- XPT_TRIG_DISARM (13 R501). -/
def execXptTrigDisarm (src : Src) (tag : Word) (s : State) : Res :=
  .next (match src with
    | .mctp => s
    | .port p => if !s.pageOn src xptPage then s else s.trigDisarm p tag)

end Sys2Proof.Machine
end

