-- ==== Sys2Proof/Machine/CfgEd.lean ====
section
/-! DEFINITION. Configuration editions (17 R592 to R601): commit limits, arming, application at a stroke boundary,
rollback, and the re-plan outputs that join an edition (16 R565, R566, R582). -/

namespace Sys2Proof.Machine

/-- Page of the configuration block. -/
def cfgPage : Nat := 0x02

/-! ### Commit limits (17 R593): a register of a bank `g`, by address, that fails a limit -/

/-- A field of a bank. -/
def bfld (g : Nat → Word) (a lo n : Nat) : Nat := fld (g a) lo n

/-- STK limits (02 R42, R68, R82). -/
def stkBad (g : Nat → Word) (off : Nat) : Bool :=
  let b := pg 0x03
  let f := fun (lo n : Nat) => bfld g (b + off) lo n
  if off = 0x10C then decide (f 0 27 < 25000 ∨ 100000000 < f 0 27)
  else if off = 0x11C then
    decide (f 20 4 = 0 ∨ f 4 8 = 0) || (decide (f 0 4 ≠ 0) && decide (f 0 4 < 9))
  else if off = 0x124 then decide (f 0 27 < 100)
  else if off = 0x128 then decide (f 0 4 = 0)
  else if off = 0x12C then decide (f 0 16 ≤ 2 * bfld g (b + 0x11C) 4 8)
  else if 0x130 ≤ off ∧ off ≤ 0x13C then decide (f 16 11 ≤ f 0 11 ∨ 1024 < f 16 11)
  else false

/-- PSA limits (04 R156). -/
def psaBad (g : Nat → Word) (off : Nat) : Bool :=
  let f := fun (lo n : Nat) => bfld g (pg 0x07 + off) lo n
  if off = 0x104 then decide (f 16 8 ≤ f 8 8 ∨ f 24 8 ≤ f 16 8 ∨ 105 < f 24 8)
  else if off = 0x10C then decide (f 0 16 < 16)
  else if off = 0x114 then decide (f 0 16 = 0)
  else false

/-- DIR and TIER limits (05 R199; 06 R230). -/
def dirTierBad (g : Nat → Word) (page off : Nat) : Bool :=
  let f := fun (lo n : Nat) => bfld g (pg page + off) lo n
  if page = 0x18 then
    if off = 0x100 then
      decide (f 0 16 < 10 ∨ f 16 16 < f 0 16 ∨ 1000 * bfld g (pg 0x18 + 0x104) 0 16 < f 16 16)
    else if off = 0x108 then decide (f 0 5 = 0 ∨ 16 < f 0 5)
    else false
  else if off = 0x104 ∨ off = 0x108 then decide (f 8 8 ≤ f 0 8 ∨ 50 < f 8 8)
  else if off = 0x10C then decide (f 0 16 < 2)
  else if off = 0x110 then decide (f 0 16 = 0 ∨ 230 < f 0 16)
  else if off = 0x114 then decide (f 0 24 < 100)
  else false

/-- PFS limits (07 R267). -/
def pfsBad (g : Nat → Word) (off : Nat) : Bool :=
  let b := pg 0x1A
  let f := fun (lo n : Nat) => bfld g (b + off) lo n
  if off = 0x108 then decide (f 0 8 = 0 ∨ 64 < f 0 8)
  else if off = 0x10C then decide (f 0 16 = 0 ∨ bfld g (pg 0x19 + 0x10C) 0 16 < f 0 16)
  else if off = 0x110 then decide (f 0 24 < 1000)
  else if off = 0x114 then decide (f 0 16 = 0)
  else if off = 0x118 then decide (f 0 8 < 8 ∨ 60 < f 0 8)
  else if 0x200 ≤ off ∧ off % 8 = 0 then
    bit (g (b + off)) 31 && (List.range ((off - 0x200) / 8)).any (fun i =>
      bit (g (b + 0x200 + 8 * i)) 31 && decide (bfld g (b + 0x200 + 8 * i) 0 16 = f 0 16))
  else false

/-- BRN and NPA limits (08 R300; 09 R339). -/
def brnNpaBad (g : Nat → Word) (page off : Nat) : Bool :=
  let f := fun (lo n : Nat) => bfld g (pg page + off) lo n
  if page = 0x20 then
    if off = 0x200 then decide (f 0 8 < 5 ∨ (f 16 4 = 0 ∧ f 20 4 = 0 ∧ f 24 4 = 0))
    else if off = 0x208 then decide (8 < f 0 4)
    else if off = 0x210 then decide (f 0 16 < 10 ∨ f 16 8 < 2)
    else if off = 0x214 then decide (f 0 4 < 2)
    else false
  else if page = 0x30 then
    if off = 0x104 then decide (f 0 8 < 4 ∨ 64 < f 0 8 + bfld g (pg 0x1A + 0x118) 0 8)
    else if off = 0x108 then decide (f 0 24 < 10)
    else if off = 0x10C then decide (f 16 16 = 0 ∨ 4096 < f 16 16)
    else false
  else false

/-- FLM limits (10 R391). -/
def flmBad (g : Nat → Word) (off : Nat) : Bool :=
  let f := fun (lo n : Nat) => bfld g (pg 0x38 + off) lo n
  if off = 0x204 then decide (f 0 8 < 2 ∨ 10 < f 0 8 ∨ f 8 8 ≤ f 16 8)
  else if off = 0x208 then decide (f 0 8 < 3 ∨ 40 < f 0 8)
  else if off = 0x20C then decide (f 8 8 ≤ f 0 8 ∨ f 16 8 ≤ f 8 8 ∨ f 24 8 = 0 ∨ 100 < f 24 8)
  else if off = 0x210 then decide (f 0 16 < 50)
  else if off = 0x214 then decide (f 0 8 < 30 ∨ 95 < f 0 8)
  else if off = 0x21C then decide (f 0 8 < 1 ∨ 10 < f 0 8)
  else if off = 0x220 then decide (f 0 16 < 4 ∨ 64 < f 0 16)
  else if off = 0x224 then decide (f 0 16 < 100)
  else false

/-- NET and XPT limits (13 R506, R507). -/
def netBad (g : Nat → Word) (page off : Nat) : Bool :=
  let f := fun (lo n : Nat) => bfld g (pg page + off) lo n
  if page = 0x64 then
    if off = 0x104 then decide (!([1, 2, 4, 8, 16, 32, 64, 128, 256].contains (f 0 9)))
    else if off = 0x108 then decide (f 24 8 = 0 ∨ f 16 8 = 0 ∨ f 0 8 = 0)
    else if off = 0x10C then decide (f 0 8 = 0)
    else if off = 0x114 then decide (f 0 11 = 0 ∨ 1024 < f 0 11)
    else if off = 0x120 then decide (f 0 5 < 14 ∨ 20 < f 0 5)
    else false
  else if off = 0x100 then decide (f 0 2 = 3)
  else if off = 0x12C then decide (f 0 16 = 0)
  else false

/-- GATE limits (14 R511, R531). -/
def gateBad (g : Nat → Word) (page off : Nat) : Bool :=
  let b := pg page
  let f := fun (lo n : Nat) => bfld g (b + off) lo n
  let div := bfld g (b + 0x104) 0 7
  let per := bfld g (pg 0x03 + 0x10C) 0 27
  let cycle := per / div
  if off = 0x104 then decide (f 0 7 = 0 ∨ 64 < f 0 7 ∨ per % f 0 7 ≠ 0 ∨ 256 < f 16 9)
  else if off = 0x110 then decide (cycle ≤ f 0 27)
  else if off = 0x114 then decide (f 0 16 < 20 ∨ cycle ≤ f 0 16)
  else if 0x200 ≤ off ∧ off < 0x280 ∧ off % 16 = 0 then
    let c := (off - 0x200) / 16
    let on := fun (k : Nat) => if bit (g (b + 0x200 + 16 * k)) 31 then bfld g (b + 0x200 + 16 * k) 0 17 else 0
    decide (80000 < f 0 17) || (decide (on c ≠ 0) && decide (80000 < ((List.range (c + 1)).map on).sum))
  else if 0x600 ≤ off ∧ off < 0x800 ∧ off % 8 = 0 then decide (80000 < f 0 17)
  else if 0x800 ≤ off ∧ off % 8 = 0 then decide ((off - 0x800) / 8 < bfld g (b + 0x104) 16 9 ∧ f 0 27 = 0)
  else false

/-- HPT, QUE, DMA, HLT, RAS and PWR limits (11 R428; 12 R465, R466; 16 R583, R584; 18 R637). -/
def restBad (g : Nat → Word) (page off : Nat) : Bool :=
  let f := fun (lo n : Nat) => bfld g (pg page + off) lo n
  match pageBlock page with
  | some (.hpt, _) =>
    if off = 0x100 then decide (f 8 4 = 0 ∨ 8 < f 8 4) else if off = 0x104 then decide (f 0 9 = 0 ∨ 256 < f 0 9) else false
  | some (.que, _) => decide (off = 0x10C ∧ f 0 4 = 0)
  | some (.dma, _) => decide (off = 0x108) && !([64, 128, 256, 512, 1024, 2048, 4096].contains (f 0 13))
  | some (.hlt, _) =>
    if off = 0x104 then decide (f 0 16 = 0) else if off = 0x108 then decide (f 0 8 ≤ f 8 8)
    else if off = 0x10C then decide (f 0 4 < 2) else if off = 0x110 then decide (f 0 8 = 0) else false
  | some (.ras, _) => decide (off = 0x104 ∧ f 0 16 = 0)
  | some (.pwr, _) =>
    if off = 0x104 then decide (f 0 11 < 400 ∨ 1000 < f 0 11)
    else if off = 0x108 then decide (f 8 8 < 85 ∨ 105 < f 8 8 ∨ f 0 4 = 0)
    else if off = 0x10C then decide (100 < f 0 8) else false
  | _ => false

/-- A register of a bank fails a limit. -/
def limitBad (g : Nat → Word) (page off : Nat) : Bool :=
  match pageBlock page with
  | some (.stk, _) => stkBad g off
  | some (.psa, _) => psaBad g off
  | some (.bank, _) => decide (off = 0x100 ∧ bfld g (pg page + 0x100) 1 2 = 3)
  | some (.dir, _) => dirTierBad g page off
  | some (.tier, _) => dirTierBad g page off
  | some (.pfs, _) => pfsBad g off
  | some (.brn, _) => brnNpaBad g page off
  | some (.npa, _) => brnNpaBad g page off
  | some (.flm, _) => decide (page = 0x38) && flmBad g off
  | some (.net, _) => netBad g page off
  | some (.xpt, _) => netBad g page off
  | some (.gate, _) => gateBad g page off
  | _ => restBad g page off

/-- Configuration registers of the device, in page order and then offset order. -/
def cfgRegs : List (Nat × Nat) :=
  pages.flatMap (fun p => ((isort (fun (a b : RegDef) => decide (a.off ≤ b.off)) ((pageRegs p).filter (fun d => d.cfg))).map
    (fun d => (p, d.off))))

/-- The first register of a bank that fails (17 R593). -/
def firstBad (g : Nat → Word) : Option (Nat × Nat) := cfgRegs.find? (fun r => limitBad g r.1 r.2)

/-- A register of the previous set. -/
def State.prevReg (s : State) (a : Nat) : Word := sget s.prev (regReset a) a

/-! ### Application (17 R596 to R599) -/

/-- Values of a bank differ at an address. -/
def bankDiff (x y : Sparse Word) (a : Nat) : Bool := decide (sget x (regReset a) a ≠ sget y (regReset a) a)

/-- The new bank carries a new grid (02 R46). -/
def gridNew (old new : Sparse Word) : Bool :=
  [0x100, 0x104, 0x108, 0x10C].any (fun o => bankDiff old new (pg 0x03 + o))

/-- Epoch in ns and period of a bank. -/
def gridOf (b : Sparse Word) : Nat × Nat :=
  let g := fun (o : Nat) => sget b (regReset (pg 0x03 + o)) (pg 0x03 + o)
  ((fld (g 0x100) 0 30) + ((g 0x104).toNat + 2 ^ 32 * fld (g 0x108) 0 16) * 1000000000, fld (g 0x10C) 0 27)

/-- The takeover of a new grid for a commit at the boundary `b` (local ns) of stroke `n`: its first stroke, or none
where R47 forbids it. The last stroke begun before it is counted on the grid that governs until then. -/
def State.gridTake (s : State) (new : Sparse Word) (n : Nat) (b : Int) : Option Grid :=
  let (e, p) := gridOf new
  let p10 := p * 10
  let k := if b ≤ (e : Int) then 0 else ceilDiv' (b - e).toNat p10
  let g : Grid := { stroke := k, epoch := e, period := p }
  let (n0, b0, per) : Nat × Int × Nat := match (s.stk.take.filter (fun h => decide (h.begins < g.begins))).getLast? with
    | some h => (h.stroke, h.begins, h.period)
    | none => (n, b, s.stk.period)
  let last : Int := (n0 : Int) - 1 + ((ceilDiv' (g.begins - b0).toNat (per * 10) : Nat) : Int)
  if (k : Int) ≤ last then none else some g

/-- R116: the new bank changes the width of a bank that is enabled or holds something, and has not failed (R151). -/
def State.widthClash (s : State) (new : Sparse Word) : Bool :=
  (List.range 16).any (fun b =>
    let a := pg (0x08 + b) + 0x100
    decide (fld (sget new (regReset a) a) 1 2 ≠ fld (sget s.act (regReset a) a) 1 2)
      && decide ((s.bank b).state ≠ .failed) && (bit (s.cfgReg a) 0 || decide ((s.bank b).state ≠ .empty)))

/-- Offsets whose fields take effect only at reset (05 R199; 10 R391; 13 R507), by page. -/
def resetOnly (page : Nat) : List Nat :=
  if page = 0x18 then [0x108]
  else if page = 0x38 then [0x100, 0x208, 0x21C, 0x220, 0x204]
  else if 0x39 ≤ page ∧ page ≤ 0x3F then [0x100]
  else if page = 0x64 then [0x120, 0x124, 0x128]
  else []

/-- A field of a register that takes effect only at reset has changed. -/
def resetDiff (x y : Sparse Word) (page off : Nat) : Bool :=
  let a := pg page + off
  let m : Word := if page = 0x38 ∧ off = 0x204 then 0xFF else if page = 0x38 ∧ off = 0x21C then 0xFF
    else if page = 0x38 ∧ off = 0x220 then 0xFFFF else 0xFFFFFFFF
  decide ((sget x (regReset a) a) &&& m ≠ (sget y (regReset a) a) &&& m)

/-- Pages that the new bank does not govern yet (17 R598): engines until an operation boundary, gates until their
takeover, host ports until they train, the grid until its takeover, fields that wait for a reset. -/
def State.lagPages (s : State) (new : Sparse Word) (running : Bool) : List Nat :=
  pages.filter (fun p =>
    let ch := fun (o : Nat) => bankDiff s.act new (pg p + o)
    match pageBlock p with
    | some (.brn, _) => true
    | some (.gate, _) => running && takeoverRegs.any ch
    | some (.hpt, _) => ch 0x100 || ch 0x104
    | some (.stk, _) => running && gridNew s.act new
    | _ => (resetOnly p).any (fun o => resetDiff s.act new p o))

/-- The floor holds MIN_STEP of a bank up (16 R566). -/
def floorBank (b : Sparse Word) (floor : Nat) : Sparse Word :=
  let a := pg 0x20 + 0x208
  let v := sget b (regReset a) a
  if fld v 0 4 < floor then sset b (regReset a) a ((v &&& 0xFFFFFFF0) ||| w32 floor) else b

/-- The outputs of a re-plan take effect (16 R564, R567): setpoints, floor, multipliers, read offsets. A raise of the same cycle that
lies higher holds until the next re-plan (16 R582). -/
def State.replanApply (s : State) (o : Outs) : State :=
  let old := s.hlt
  let shifts := (o.offs.map (fun e =>
    let t := sget s.hlt.trend Trend.none e.1
    b2n (decide (t.slc ≠ e.2.1)) + b2n (decide (t.nativeMode ≠ e.2.2)))).sum
  let rose := (List.range 12).filter (fun u => decide (sget s.hlt.refresh 0 u < o.refresh.getD u 0))
  let s := { s with hlt := { s.hlt with
    vf := o.vf, floor := o.floor, ready := none,
    raised := old.raised && decide (old.settleAt = s.clk + 20000) && decide (o.vf.getD s.brn.step 0 < old.vcore), lastAt := s.clk, lastStroke := s.stk.stroke,
    refresh := (List.range 12).foldl (fun l u => sset l 0 u (o.refresh.getD u 0)) s.hlt.refresh,
    trend := o.offs.foldl (fun (l : Sparse Trend) (e : Nat × Nat × Nat) =>
      let t := sget l Trend.none e.1
      sset l Trend.none e.1 { t with slc := e.2.1, nativeMode := e.2.2 }) s.hlt.trend } }
  let s := (s.bump (pg 0x78 + 0x188) rose.length).bump (pg 0x78 + 0x18C) shifts
  let s := if old.floor = o.floor then s else s.raise 0x78 2
  let s := if old.floor < o.floor then s.rasRecord 0x78 0x0D 0 0 o.floor else s
  (rose.foldl (fun (s : State) (u : Nat) => s.rasRecord 0x78 0x0E 0 u (2 ^ (o.refresh.getD u 0))) s).count 0x78 0x180 0

/-- A setpoint that the present step now asks for is written to the regulator (16 R567). -/
def State.settleVcore (s : State) : State :=
  let v := s.vfOf s.brn.step
  if v = s.hlt.vcore ∨ s.hlt.raised then s
  else if s.hlt.vcore < v then s.setVcore v
  else if max s.brn.gov s.brn.cap = s.brn.step ∨ s.brn.run.isNone then s.setVcore v
  else s

/-- A new edition has begun: its number, its stroke, and where it does not govern yet. -/
def State.newEdition (s : State) (lag : List Nat) (joined : Bool) : State :=
  let old := s.cfg.edition
  let keep := lag.foldl (fun l p => if l.any (fun (e : Nat × Nat) => decide (e.1 = p)) then l else sset l 0 p (old + 1)) s.cfg.lag
  ({ s with cfg := { s.cfg with
      edition := old + 1, prevEdition := old, prevValid := true, joined := joined, lag := keep,
      applied := if s.stk.running then s.stk.stroke else 2 ^ 64 - 1 } }).raise cfgPage 0

/-- What the blocks do when a new active bank governs: gates, banks, network ports, engines, setpoints. -/
def State.cfgHooks (s old : State) : State :=
  let s := s.psaApply
  let s := s.netPorts.foldl (fun s n =>
    let a := pg (netPage n) + 0x100
    let m : Word := 0xB
    let s := s.gateApply old n
    if (s.netPort n).up ∧ (old.cfgReg a &&& m ≠ s.cfgReg a &&& m ∨ !bit (s.cfgReg a) 31) then s.netDown n else s) s
  let spare := pg flmPage + 0x21C
  let s := if old.cfgReg spare = s.cfgReg spare then s.updMode else s.spareCheck.flashSettle s
  s.betweenOps.settleVcore

/-- A re-plan's outputs and the recorded floor form an edition of their own, or join one (16 R565; 17 R601). -/
def State.replanJoin (s : State) : State :=
  let s := match s.hlt.ready with
    | some o => s.replanApply o
    | none => s
  { s with hlt := { s.hlt with floorDue := false }, act := floorBank s.act s.hlt.floor }

/-- A re-plan or a raised floor waits for the boundary. -/
def State.replanDue (s : State) : Bool := s.hlt.ready.isSome || s.hlt.floorDue

/-- The bank that a check would make active. -/
def State.checkBank (s : State) (c : Check) : Sparse Word := if c.rollback then s.prev else s.pend

/-- The command of a commit or rollback ends (17 R601). -/
def State.cfgEnd (s : State) (c : Check) (st : Status) : State :=
  let s := { s with cfg := { s.cfg with check := none, armed := none, last := st.code } }
  if st = .ok then
    let s := s.bump (pg cfgPage + (if c.rollback then 0x184 else 0x180))
    s.complete c.id .ok (some (0, split64 s.cfg.edition ++ split64 s.cfg.applied))
  else (s.count cfgPage 0x188 1).fail c.id st

/-- An edition that a re-plan or a raised floor forms alone (16 R565; 17 R601). -/
def State.editionAlone (s : State) : State :=
  let t := { s with prev := s.act }.replanJoin
  (t.newEdition (t.lagPages t.act t.stk.running) true).cfgHooks s

/-- The previous set takes the active bank's values, the active bank the new ones; after a rollback the pending bank takes
them too (17 R596, R599; 16 R566). -/
def State.switchBanks (s : State) (c : Check) : State :=
  let t := { s with prev := s.act, act := floorBank (s.checkBank c) s.hlt.floor }
  if c.rollback then { t with pend := t.act } else t

/-- A new grid (02 R46): its takeover at `take` while strokes run, after the takeovers that come before it; at once while none
does, with no boundary before the commit. -/
def State.newGrid (s : State) (grid : Bool) (take : Option Grid) : State :=
  if !grid then s
  else match take with
    | some g => { s with stk := { s.stk with take := s.stk.take.filter (fun h => decide (h.begins < g.begins)) ++ [g] } }
    | none =>
      if s.stk.running then s
      else { s with stk := { s.stk with epoch := (gridOf s.act).1, period := (gridOf s.act).2, take := [],
                                        readyAt := max s.stk.readyAt s.clk } }

/-- An armed commit or rollback applies, with what a re-plan brings (17 R596, R599, R601; 16 R565); token buckets
have filled at the old rates until then (11 R413). -/
def State.cfgApply (s : State) (c : Check) (grid : Bool) (take : Option Grid) : State :=
  let s := s.netPorts.foldl (fun s n => s.gateSettle n) ((s.fillTokens 0).fillTokens 1)
  let lag := s.lagPages (s.checkBank c) s.stk.running
  let t := s.switchBanks c
  let t := if s.replanDue then t.replanJoin else t
  ((((t.newEdition lag s.replanDue).newGrid grid take).cfgHooks s).cfgEnd c .ok)

/-- The edition of a boundary whose stroke has begun as `s.stk.stroke` at local time `b`, or of a moment without
strokes: an armed commit or rollback, a re-plan, or both (17 R596 to R601; 16 R565). -/
def State.cfgBoundary (s : State) (b : Int) : State :=
  match s.cfg.armed with
  | none => if s.replanDue then s.editionAlone else s
  | some c =>
    let new := s.checkBank c
    let grid := gridNew s.act new
    let take := if grid ∧ s.stk.running then s.gridTake new s.stk.stroke b else none
    if (grid ∧ s.stk.running ∧ take.isNone) ∨ s.widthClash new then
      let t := s.cfgEnd c .conflict
      if s.replanDue then t.editionAlone else t
    else s.cfgApply c grid take

/-- Without a stroke running what waits applies at once (17 R597; 16 R565). -/
def State.cfgNow (s : State) : State := if s.stk.running then s else s.cfgBoundary s.local_

/-! ### The commands -/

/-- Acceptance of a commit or rollback (17 R593, R599, R601). -/
def State.cfgAccept (s : State) (l : Live) (rollback : Bool) : State :=
  let refuse := fun (st : Status) =>
    let s := { s with cfg := { s.cfg with last := st.code } }
    (if st = .notReady then s else s.count cfgPage 0x188 1).fail l.id st
  if !s.reached .verify ∨ s.start = .recovery then refuse .notReady
  else if !(l.reservedOk 0 []) then refuse .badCommand
  else if s.cfg.check.isSome ∨ s.cfg.armed.isSome ∨ (rollback ∧ !s.cfg.prevValid) then refuse .conflict
  else
    { s with cfg := { s.cfg with check := some { id := l.id, rollback := rollback, at_ := s.clk } } }.setRunning l.id

/-- CFG_COMMIT (17 R593). -/
def execCfgCommit (id : Nat) (s : State) : Res := .next (s.onNew id 0x11 (fun l s => s.cfgAccept l false))

/-- CFG_ROLLBACK (17 R599). -/
def execCfgRollback (id : Nat) (s : State) : Res := .next (s.onNew id 0x12 (fun l s => s.cfgAccept l true))

/-- CFG_CHECK_END (17 R593, R594, R597). -/
def execCfgCheckEnd (t : Nat) (s : State) : Res :=
  let s := s.at_ t
  .next (match s.cfg.check with
    | none => s
    | some c =>
      let b := s.checkBank c
      match firstBad (fun a => sget b (regReset a) a) with
      | some (p, o) =>
        { s with cfg := { s.cfg with fail := w32 (2 ^ 31 + p * 2 ^ 16 + o) } }.cfgEnd c .badCommand
      | none => { s with cfg := { s.cfg with check := none, armed := some c } }.cfgNow)

end Sys2Proof.Machine
end

