-- ==== Sys2Proof/Machine/StackFail.lean ====
section
/-! DEFINITION. Failed HBM4 stacks (16 R577 to R580) and uncorrectable reads of T0 and T1 (07 R259). -/

namespace Sys2Proof.Machine

/-- Page of the health block. -/
def hltPage : Nat := 0x78

/-- Stack of a directory slot: 64 bytes each (05 R158). -/
def State.dirStack (s : State) (slot : Nat) : Nat := s.interleaved Config.dirBase.toNat (64 * slot)

/-- Pages of a page set in a stack. -/
def State.pagesIn (s : State) (i stack : Nat) (v : PSet) : List Nat :=
  (List.range v.pages).filter (fun p => decide (s.stackOf i p = stack))

/-- Pages of a reservation are lost: they are POISON when it is published (01 R37; log 136). -/
def State.losePages (s : State) (i : Nat) (gone : List Nat) : State :=
  s.updPset i (fun v => { v with bad := (v.bad ++ gone).eraseDups })

/-- A reservation with pages in a failed stack: the PUBLISH that has sealed it ends ABORTED (01 R36; 05 R181). -/
def State.stackRsv (s : State) (i : Nat) (gone : List Nat) : State :=
  match (s.psetAt i).rstate with
  | .sealed id => if (s.pub id).isSome then s.abortPub id else (s.freePset i).fail id .aborted
  | _ => s.losePages i gone

/-- The level of a page set falls to its T2 copy; while TIER_PREF names T1, a promotion is owed in slack (16 R579), and one
that runs reads its pages from T2. -/
def State.stackFall (s : State) (i : Nat) : State :=
  let v := s.psetAt i
  let s := s.setPset i { v with t1 := false, level := 2 }
  let s := if v.alloc % 4 = 1 then { s with tier := { s.tier with owed := s.tier.owed ++ [(i, 1, true)] } } else s
  match s.moveOf i with
  | some m => if m.target < 2 ∧ !m.releasing then s.needPages i (List.range v.pages) false false else s
  | none => s

/-- A page set whose level copy is in T0 loses its T1 copy. A demotion to T1 whose copy had committed writes that copy again before the T0
copy is released (01 R34, R37; DEDUCED, log 185). -/
def State.stackLower (s : State) (i : Nat) : State :=
  let s := s.updPset i (fun v => { v with t1 := false })
  { s with tier := { s.tier with
      moves := updIf s.tier.moves (fun m => decide (m.pset = i ∧ m.target = 1) && !m.gone) (fun m => { m with releasing := false }) } }

/-- A page set with T1 pages in a failed stack (16 R579). -/
def State.stackPset (s : State) (i : Nat) (gone : List Nat) : State :=
  let v := s.psetAt i
  if !v.t1 ∨ gone = [] then s
  else if v.rstate ≠ .published then s.stackRsv i gone
  else if v.level ≠ 1 then s.stackLower i
  else if v.t2 then s.stackFall i
  else match s.slotOfPset i with
    | none => s
    | some j =>
      if (s.slot j).pin then gone.foldl (fun s p => (s.poisonPage j p).pageFailed i p .poison) s
      else
        let s := gone.foldl (fun s p => s.pageFailed i p .poison) s
        if (s.slot j).state = .current then s.startCascade j .poison else s

/-- Directory slots in a failed stack: entries without a committed T2 copy are handled as 05 R198 steps 4 and 5
handle them (16 R579); the publication of a PENDING one ends ABORTED (05 R181). -/
def State.stackDir (s : State) (stack : Nat) : State :=
  let s := s.dir.points.foldl (fun s p =>
    match p.kind with
    | .commit i id => if s.dirStack i = stack then s.abortPub id else s
    | .super _ copy id => if s.dirStack copy = stack then s.abortPub id else s
    | .end_ _ _ => s) s
  let es := s.dir.slots.filter (fun e => e.2.resident && decide (s.dirStack e.1 = stack) && (s.copyOf e.2.pset).isNone)
  es.foldl (fun s e =>
    let v := s.slot e.1
    if !v.resident then s
    else if v.pin then (List.range (s.psetAt v.ps).pages).foldl (fun s p => s.poisonPage e.1 p) s
    else if v.state = .current then s.startCascade e.1 .poison
    else s) s

/-- Every group with an image entry in a failed stack leaves the PSA (16 R579; 04 R143). -/
def State.stackPsa (s : State) (stack : Nat) : State :=
  (List.range 16).foldl (fun s b =>
    let v := s.bank b
    let hit := v.rows.filter (fun e => decide (s.imageStack b (e.1 / segSlots v.width) = stack))
    let s := hit.foldl (fun s e => if (s.slot e.2.dir).state = .free then s else s.unhold (s.slot e.2.dir).key) s
    s.updBank b (fun x => { x with imgBad := x.imgBad.filter (fun r => decide (s.imageStack b (r / 64) ≠ stack)) })) s

/-- Cached pages in a failed stack are dropped, and those of held layers are read again (16 R579). -/
def State.stackCache (s : State) (lost : List Cached) : State :=
  let s := { s with pfs := { s.pfs with cache := s.pfs.cache.filter (fun c => !lost.contains c) } }
  s.pfs.holds.foldl (fun s h =>
    let again := lost.filter (fun c => s.layerHas h.plan h.layer c.pset)
    again.foldl (fun s c => s.needPages c.pset [c.page] false true) s) s

/-- An HBM4 stack fails (16 R577 to R580); it stays failed until the next reset. The INFO of its record names a cause
whose code the spec does not give: a free value. -/
def State.failStack (s : State) (k : Nat) : State :=
  if s.fusedStacks ≤ k ∨ s.hlt.dead.contains k then s
  else
    let lost := s.pfs.cache.filter (fun c => decide (s.stackOf c.pset c.page = k))
    let sets := s.tier.psets.map (fun e => (e.1, s.pagesIn e.1 k e.2))
    let exts := (s.records 3).filter (fun e => decide (rfld e.2 0 30 2 ≠ 0))
    let s := { s with hlt := { s.hlt with dead := s.hlt.dead ++ [k],
                                          deadExt := s.hlt.deadExt ++ exts.map (fun (e : Nat × List Word) => (e.1, k)) } }
    let (f, s) := s.fresh
    let s := (s.raise hltPage 4).rasRecord hltPage 0x0A 2 k (Config.freeNat f)
    let s := s.stackCache lost
    let s := sets.foldl (fun (s : State) (e : Nat × List Nat) => s.stackPset e.1 e.2) s
    (s.stackDir k).stackPsa k

/-- An uncorrectable read of a stack (16 R578): 16 in distinct rows within one second fail it. The spec does not say
how addresses lie on rows; `row` stands for the row. -/
def State.stackUe (s : State) (k row : Nat) : State :=
  let old := s.hlt.ues.filter (fun e => decide (s.clk < e.2.2 + 1000000000 ∧ (e.1, e.2.1) ≠ (k, row)))
  let s := { s with hlt := { s.hlt with ues := old ++ [(k, row, s.clk)] } }
  if 16 ≤ (s.hlt.ues.filter (fun e => decide (e.1 = k))).length then s.failStack k else s

/-- Stacks with uncorrectable reads in 16 distinct rows within one second fail (16 R578). -/
def State.failStacks (s : State) : State :=
  let s := { s with hlt := { s.hlt with ues := s.hlt.ues.filter (fun e => decide (s.clk < e.2.2 + 1000000000)) } }
  ((List.range 8).filter (fun k => decide (16 ≤ (s.hlt.ues.filter (fun e => decide (e.1 = k))).length))).foldl
    (fun s k => s.failStack k) s

/-- ns of a number of PSA cycles, which are two core cycles of 1.4 GHz each (04 R153; 17 R605). -/
def psaNs (cycles : Nat) : Nat := (cycles * 10 + 6) / 7

/-- PSA_SCRUB_READ (04 R140 to R144): soft errors that have struck since the last read of the scrubber, then one row of each
bank. -/
def execPsaScrubRead (t : ScrubRead) (s : State) : Res :=
  let s := t.upsets.foldl State.upset (s.at_ t.at_)
  .next (if !s.psaCtrl 1 ∨ !s.reached .psa ∨ s.clk < s.psa.scrubAt then s
    else
      let s := { s with psa := { s.psa with scrubAt := s.clk + psaNs (s.cfgFld (pg 0x07 + 0x10C) 0 16) } }
      let slack := s.slack .psa
      ((List.range 16).foldl (fun s b => if !slack ∧ (s.bank b).late = false then s else s.scrubBank b) s).failStacks)

/-- PSA_REHOME (04 R150, R641): in slack the next group of a failed bank, in the order of its image, leaves it for the other
active banks of its width, RATE entries a millisecond. A group that is wanted no more, and an image word beyond reading,
only leave the bank. -/
def execPsaRehome (bank t : Nat) (s : State) : Res :=
  let s := s.at_ t
  .next (if !s.psaCtrl 0 ∨ !(s.slack .psa) ∨ (s.bank bank).state ≠ .failed ∨ s.clk < s.psa.rehomeAt then s
    else match (s.bank bank).image.find? (fun e => decide (e.2 / 2 ^ 62 = 1)) with
      | none => s
      | some (r, m) =>
        if (s.bank bank).imgBad.contains r then (s.withdrawSeg bank (r / 64)).failStacks
        else
          let v := s.slot (m % 2 ^ 26)
          let n := (s.groupEntries v.key).length
          let s := (s.updBank bank (fun x => (x.remove ((s.groupSlots v.key (fun _ => true)).map (·.1))).drop [r / 2 ^ x.width]))
          let s := { s with psa := { s.psa with
            rehomeAt := s.clk + (n * 1000000 + s.cfgFld (pg 0x07 + 0x114) 0 16 - 1) / s.cfgFld (pg 0x07 + 0x114) 0 16 } }
          if v.resident && s.groupHot v.key && !s.isHeld v.key then s.hold v.key else s)

/-- T1_UNCORRECTABLE_READ (07 R259; 16 R573, R578): a page read of tier 0 or 1. The T0 layer that holds a page is a free
value, since the spec does not say how pages lie on layers. -/
def execT1UncorrectableRead (tier pset page : Nat) (s : State) : Res :=
  .next (
    let v := s.psetAt pset
    if 2 ≤ tier ∨ !(v.has tier || (decide (tier = 1) && s.cached pset page)) ∨ v.pages ≤ page then s
    else
      let (k, s) := s.fresh
      let unit := if tier = 0 then Config.freeNat k % 4 else s.stackOf pset page
      let s := s.rasRecord 0x19 0x04 1 unit (psHandle v.gen pset * 2 ^ 32 + page * 2 ^ 21)
      let s :=
        if tier = 0 ∧ v.t1 then s.bump (pg pfsPage + 0x18C)
        else if v.t2 then s.healPage pset page
        else if v.rstate ≠ .published then s.losePages pset [page]
        else (s.lostPage pset page).pageFailed pset page .poison
      if tier = 1 then s.stackUe unit (pset * 2 ^ 11 + page) else s)

/-- FAIL_STACK (16 R578): HLT_CMD.FAIL_STACK is written with a stack number. -/
def execFailStack (src : Src) (stack : Nat) (s : State) : Res :=
  .next (if !s.pageOn src hltPage then s else s.failStack (stack % 8))

/-- STACK_FAIL (16 R578): training fails, or a PHY fault stays. -/
def execStackFail (stack : Nat) (s : State) : Res :=
  .next (if s.start = .verify ∨ s.start = .recovery then s else s.failStack stack)

end Sys2Proof.Machine
end

