-- ==== Sys2Proof/Machine/Strokes.lean ====
section
/-! DEFINITION. The stroke timer (02): time synchronization, the grid, the program rings, class windows, the start of
records, deadlines and summaries. -/

namespace Sys2Proof.Machine

/-- Page of the stroke timer. -/
def stkPage : Nat := 0x03

/-- A field of an STK configuration register. -/
def State.stkFld (s : State) (off lo n : Nat) : Nat := s.cfgFld (pg stkPage + off) lo n

/-- SYNC_LIMIT, ns. -/
def State.syncLimit (s : State) : Nat := s.stkFld 0x11C 4 8

/-- CARRY_MAX, strokes. -/
def State.carryMax (s : State) : Nat := s.stkFld 0x128 0 4

/-! ### The end of started work (02 R72) -/

/-- What an accepted command has in progress ends without effect: its delivery, its prefetch step, its attention
operations, its moves (02 R72). Its command completes with the status. -/
def State.abandon (s : State) (id : Nat) (st : Status) : State :=
  let res := (s.dlv id).map dlvResult
  let s := s.dropDlv id
  let s := match s.brn.run with
    | some u => if u.op.id = id then s.runEnd u else s
    | none => s
  let next := if s.brn.next = some id then none else s.brn.next
  let s := { s with
    pfs := { s.pfs with steps := s.pfs.steps.filter (fun x => decide (x.id ≠ id)) },
    brn := { s.brn with next := next } }
  let s := (s.tier.moves.filter (fun m => decide (m.cause = .set id) && !m.gone)).foldl (fun s m => (s.stopMove m st).undoMove m) s
  if (s.job id).isSome then s.jobEnd id (some st)
  else
    let s := if (s.live id).any (fun l => attendClass l.op) then s.bump (pg npaPage + 0x180) else s
    (s.complete id st (res.map (fun ws => (0, ws)))).stageCheck

/-- A record ends with TIMEOUT (02 R72), started or not. -/
def State.recTimeout (s : State) (iid idx : Nat) : State :=
  match (s.inst iid).bind (fun x => x.record idx) with
  | none => s
  | some r =>
    match r.st with
    | .waiting =>
      let (ws, s) := s.endWords r.op 4
      s.recFinal iid idx noId .timeout ws true
    | .started id => s.abandon id .timeout
    | _ => s

/-- Records of a class that the carry limit ends: `past` strokes beyond their target (02 R72). -/
def State.carryEnd (s : State) (c past : Nat) : State :=
  (s.stk.insts.filter (fun x => x.active && decide (x.target + past ≤ s.stk.stroke))).foldl (fun s x =>
    (x.recs.filter (fun r => decide (recClass r.ws = some c))).foldl (fun s r => s.recTimeout x.iid r.idx) s) s

/-- A class window closes (02 R67, R72). -/
def State.windowShut (s : State) (c : Nat) : State :=
  let s := { s with stk := { s.stk with win := s.stk.win.set c .closed } }
  let s := (s.carryEnd c s.carryMax).releaseHolds
  if c = 1 then s.expireHolds s.carryMax else if c = 2 then s.reselect else s

/-! ### The start of an instance (02 R66) -/

/-- A record that completes BAD_COMMAND whatever its stroke does (02 R66; 12 R442). -/
def State.recBad (s : State) (r : SRec) : Bool :=
  let ws := r.ws
  let z := fun (i lo n : Nat) => decide (fld (ws.getD i 0) lo n ≠ 0)
  let kind := recKind ws
  let after := recAfter ws
  z 0 16 12 || z 1 27 5 || z 2 0 24 || z 3 0 32 || z 7 16 16
    || (match recClass ws with
      | none => true
      | some c => decide ((s.window c).2 ≤ recNotBefore ws))
    || (decide (after ≠ 0xFFFF) && decide (r.idx ≤ after))
    || (if kind = 1 then (recCmd ws).any (fun w => decide (w ≠ 0)) || decide (fld (ws.getD 7 0) 0 16 = 0)
        else decide (kind ≠ 0) || z 6 0 32 || z 7 0 16 || decide (fld ((recCmd ws).getD 0 0) 8 8 ≠ 2))

/-- A header's plans exceed what the windows hold (02 R76). -/
def State.isOver (s : State) (ws : List Word) : Bool :=
  let span := fun (c : Nat) => (s.window c).2 - (s.window c).1
  let gbps := ((List.range (2 * s.fusedDies)).filter (fun n => !(s.netPort n).lost)).length * 100
  decide (span 2 < wd ws 6) || decide (2000 * span 0 < wd ws 7 * 1024) || decide (gbps * 10 * span 1 < wd64 ws 8)

/-- Instances whose target stroke has come become active, and their bad records end (02 R60, R63, R66). -/
def State.activate (s : State) : State :=
  let new := s.stk.insts.filter (fun x => !x.active && decide (x.target ≤ s.stk.stroke))
  let tight := new.any (fun x => s.isOver x.ws)
  let s := { s with stk := { s.stk with
    overcommit := tight,
    insts := updIf s.stk.insts (fun x => decide (x.target ≤ s.stk.stroke)) (fun x => { x with active := true }) } }
  new.foldl (fun s x =>
    ((x.recs.filter s.recBad).foldl (fun s r =>
      let waits := (((s.inst x.iid).bind (fun y => y.record r.idx)).map (fun y => decide (y.st = .waiting))).getD false
      if waits then
        let (ws, s) := s.endWords r.op 4
        s.recFinal x.iid r.idx noId .badCommand ws true
      else s) s).instEnd x.iid) s

/-! ### The boundary (02 R41 to R48, R57) -/

/-- Device time of a local time. -/
def State.devTime (s : State) (t : Int) : Nat := (t - s.stk.off).toNat

/-- Strokes passed over are counted (02 R44, R48, R57). -/
def State.skip (s : State) (k : Nat) : State :=
  if k = 0 then s else (s.bump (pg stkPage + 0x198) k).raise stkPage 3

/-- The takeovers that are due at a local time: the last of them governs, and the gates recompute (02 R46; 14 R523). -/
def State.takeGrid (s : State) (b : Int) : State :=
  match (s.stk.take.filter (fun g => decide (g.begins ≤ b))).getLast? with
  | none => s
  | some g =>
    let n := max s.stk.stroke g.stroke
    let rest := s.stk.take.filter (fun h => decide (b < h.begins))
    let s := { s with
      stk := { s.stk with epoch := g.epoch, period := g.period, take := rest, stroke := n },
      cfg := { s.cfg with lag := s.cfg.lag.filter (fun e => decide (e.1 ≠ stkPage ∨ rest ≠ [])) } }
    s.netPorts.foldl (fun s n => s.gateRegrid n) s

/-- Headers whose program has ended and whose instances are all fetched are released (02 R60). -/
def State.dropHeaders (s : State) : State :=
  { s with stk := { s.stk with progs := s.stk.progs.filter (fun x =>
      !(decide (x.last < x.next) && s.stk.running && decide (x.last < s.stk.stroke))) } }

/-- Stroke `n` begins at local time `b`: what the old stroke leaves open closes, editions and grids apply, and the
instances of the stroke become active. -/
def State.beginStroke (s : State) (n : Nat) (b : Int) : State :=
  let s := if s.stk.running then
      (List.range 4).foldl (fun s c => if s.winSt c = .closed then s else s.windowShut c) s
    else s
  let last := s.stk.stroke
  let was := s.stk.running
  let s := { s with stk := { s.stk with running := true, stroke := n, boundary := s.devTime b,
                                        win := [.before, .before, .before, .before] } }
  let s := ((s.takeGrid b).cfgBoundary b).takeGrid b
  let s := if was then s.skip (s.stk.stroke - last - 1) else s
  let s := s.raise stkPage 0
  let s := s.activate
  let s := (List.range 4).foldl (fun s c => s.carryEnd c (s.carryMax + 1)) s
  let s := if was then s else s.netPorts.foldl (fun s n => s.gateRefresh n) s
  s.dropHeaders.releaseHolds.expireHolds (s.carryMax + 1)

/-- Local start of a stroke, under the grid that will govern it. -/
def State.startOf (s : State) (n : Nat) : Int :=
  match (s.stk.take.filter (fun g => decide (g.stroke ≤ n))).getLast? with
  | some g => g.startOf n
  | none => s.strokeStart n

/-- The next boundary: its stroke and its local time (02 R43, R46). -/
def State.nextBoundary (s : State) : Nat × Int :=
  if s.stk.running then
    let n := s.stk.stroke + 1
    match s.stk.take with
    | g :: _ => if g.begins ≤ s.strokeStart n then (max n g.stroke, g.begins) else (n, s.strokeStart n)
    | [] => (n, s.strokeStart n)
  else
    let r := (s.stk.readyAt : Int) + s.stk.off
    let n := if r ≤ (s.stk.epoch : Int) then 0 else ceilDiv' (r - s.stk.epoch).toNat (s.stk.period * 10)
    (n, s.strokeStart n)

/-- STROKE_BOUNDARY (02 R43 to R48). -/
def execStrokeBoundary (t : Nat) (s : State) : Res :=
  let s := s.at_ t
  .next (
    let (n, b) := s.nextBoundary
    if s.stk.sync = .acquiring ∨ s.local_ < b then s else s.beginStroke n b)

/-! ### Sync states (02 R51 to R57) -/

/-- The sync state changes. -/
def State.setSync (s : State) (x : Sync) : State :=
  if s.stk.sync = x then s
  else
    let s := { s with stk := { s.stk with sync := x } }.raise stkPage 2
    s.netPorts.foldl (fun s n => s.gateRefresh n) s

/-- The stroke after a step of local time (02 R57): the present one goes on, or the timer moves to the stroke that PTP time
has reached. -/
def State.stepStroke (s : State) : State :=
  if s.stk.running then
    let (e, p) : Nat × Nat := match (s.stk.take.filter (fun g => decide (g.begins ≤ s.local_))).getLast? with
      | some g => (g.epoch, g.period)
      | none => (s.stk.epoch, s.stk.period)
    let c := ((s.local_ - e) / ((p * 10 : Nat) : Int)).toNat
    if (e : Int) ≤ s.local_ ∧ s.stk.stroke < c then s.beginStroke c ((e : Int) + ((c * (p * 10) : Nat) : Int))
    else { s with stk := { s.stk with boundary := s.devTime (s.strokeStart s.stk.stroke) } }
  else s

/-- Local time is stepped to PTP time (02 R56, R57). -/
def State.stepTime (s : State) (offset : Int) : State :=
  s.netPorts.foldl (fun s n => s.gateStep n)
    (State.stepStroke { s with stk := { s.stk with off := s.stk.off - offset, stepped := true } })

/-- A message of a fresh lock: the first steps local time, 16 in a row within the limit lock (02 R51, R56). -/
def State.freshLock (s : State) (offset : Int) : State :=
  let good := if offset.natAbs ≤ s.syncLimit then s.stk.good + 1 else 0
  let s := if s.stk.stepped then s else s.stepTime offset
  let s := { s with stk := { s.stk with good := good } }
  if 16 ≤ good then
    let s := if s.stk.sync = .acquiring then { s with stk := { s.stk with readyAt := s.clk } } else s
    s.setSync .locked
  else s

/-- The timer becomes UNLOCKED. -/
def State.unlock (s : State) : State :=
  { s with stk := { s.stk with good := 0, stepped := false } }.setSync .unlocked

/-- SYNC_MESSAGE (02 R51 to R56). -/
def execSyncMessage (t : Nat) (offset : Int) (s : State) : Res :=
  let s := s.at_ t
  let s := { s with stk := { s.stk with offset := offset, lastSync := s.clk } }
  .next (match s.stk.sync with
    | .acquiring => s.freshLock offset
    | .unlocked => s.freshLock offset
    | .locked => if s.stkFld 0x12C 0 16 < offset.natAbs then s.unlock else s
    | .holdover =>
      if offset.natAbs ≤ s.syncLimit then s.setSync .locked
      else if s.stkFld 0x12C 0 16 < offset.natAbs then s.unlock else s)

/-- The expected sync interval in ns (02 R50): LOG_INTERVAL is signed. -/
def State.syncInterval (s : State) : Nat :=
  let v := s.stkFld 0x11C 0 4
  if v < 8 then 1000000000 * 2 ^ v else 1000000000 / 2 ^ (16 - v)

/-- SYNC_LOSS (02 R51, R53). -/
def execSyncLoss (t : Nat) (s : State) : Res :=
  let s := s.at_ t
  .next (
    if s.stk.sync = .locked ∧ s.stk.lastSync + s.stkFld 0x11C 20 4 * s.syncInterval ≤ s.clk then
      ({ s with stk := { s.stk with est := s.stk.offset.natAbs, estAt := s.clk } }.bump (pg stkPage + 0x1A0)).setSync .holdover
    else s)

/-- Holdover error estimate in 10^-9 ns (02 R53). -/
def State.holdEst (s : State) : Nat := s.stk.est * 1000000000 + (s.clk - s.stk.estAt) * s.stkFld 0x11C 12 8

/-- HOLDOVER_LIMIT (02 R51, R53). -/
def execHoldoverLimit (t : Nat) (s : State) : Res :=
  let s := s.at_ t
  .next (if s.stk.sync = .holdover ∧ 2 * s.syncLimit * 1000000000 < s.holdEst then s.unlock else s)

/-- Local time lies within 1 us of a local second boundary (02 R53). -/
def State.nearSecond (s : State) : Bool :=
  let r := (s.local_ % 1000000000).toNat
  decide (r ≤ 1000 ∨ 999999000 ≤ r)

/-- PPS_EDGE (02 R53): the estimate is reset; the phase is corrected by frequency, which device time already is. -/
def execPpsEdge (t : Nat) (s : State) : Res :=
  let s := s.at_ t
  let s := { s with stk := { s.stk with ppsAt := some s.clk } }
  let use : Bool := decide (s.stk.sync = .holdover) && s.nearSecond && bit (s.cfgReg (pg stkPage + 0x11C)) 31
  .next (if use then { s with stk := { s.stk with est := 5 * s.stkFld 0x11C 24 4, estAt := s.clk } } else s)

/-- PPS_OUT (18 R622): a pulse at a local second boundary. -/
def execPpsOut (t : Nat) (s : State) : Res :=
  let s := s.at_ t
  .next (
    if (s.stk.sync = .locked ∨ s.stk.sync = .holdover) ∧ bit (s.cfgReg (pg 0x7C + 0x100)) 1 ∧ s.local_ % 1000000000 = 0 then
      s.send .pps
    else s)

/-- PEER_DELAY_REQUEST (02 R49): the answer leaves in class 7 (14 R509); IEEE 1588's Pdelay_Resp of 54 bytes on Ethernet (PRESUMED,
log 197). -/
def execPeerDelayRequest (n : Nat) (s : State) : Res :=
  .next (s.enqFrame n 7 (72 + s.vlanTag n) .peerDelay)

/-! ### Program rings (02 R59 to R65) -/

/-- Address of a port's ring registers. -/
def pringAddr (p : Nat) : Nat := pg stkPage + 0x140 + 0x20 * p

/-- Headers of a port's ring; 0 while it is disabled. -/
def State.pringSize (s : State) (p : Nat) : Nat :=
  let k := fld (s.reg (pringAddr p + 8)) 0 4
  if k = 0 then 0 else 2 ^ k

/-- A write of a ring's tail: at or above the size it is ignored (02 R59), so at SIZE 0 every write is; a write of SIZE leaves HEAD and TAIL
as they are (DESIGN CHOICE, log 176). -/
def State.pringTail (s : State) (p : Nat) (v : Word) : State :=
  if fld v 0 12 < s.pringSize p then s.setReg (pringAddr p + 0x10) (w32 (fld v 0 12)) else s

/-- STK_PRING_TAIL (02 R59). -/
def execStkPringTail (p : Nat) (v : Word) (s : State) : Res :=
  .next (if p < 2 ∧ s.pageOn (.port p) stkPage then s.pringTail p v else s)

/-- TARGET_STROKE of the header before on a port's ring. -/
def State.prevTarget (s : State) (p : Nat) : Option Nat := if p = 0 then s.stk.prev0 else s.stk.prev1

/-- TARGET_STROKE of the header before, set. -/
def State.setPrevTarget (s : State) (p : Nat) (v : Option Nat) : State :=
  { s with stk := if p = 0 then { s.stk with prev0 := v } else { s.stk with prev1 := v } }

/-- A summary completion for an instance or a header (02 R61, R65, R79; 12 R444, R445). -/
def State.summary (s : State) (p : Nat) (ws : List Word) (st : Status) (target late onTime other timeout : Nat) : State :=
  let w5 := ws.getD 5 0
  if bit w5 15 then
    s.postCq noId p (fld w5 0 6)
      (cqWords (wd64 ws 10) 2 0 st (w32 s.stk.stroke)
        (split64 target ++ [w32 (late * 2 ^ 16 + onTime), w32 (other * 2 ^ 16 + timeout)])) (bit w5 14)
  else s

/-- A header that is not run (02 R61). -/
def headerBad (ws : List Word) : Bool :=
  decide (fld (ws.getD 2 0) 0 5 ≠ 0 ∨ fld (ws.getD 5 0) 16 16 ≠ 0 ∨ fld (ws.getD 5 0) 6 8 ≠ 0)
    || (ws.drop 12).any (fun w => decide (w ≠ 0))
    || decide (fld (ws.getD 4 0) 0 16 = 0 ∨ 4096 < fld (ws.getD 4 0) 0 16)

/-- A header joins the held headers of its port: instances of those before it stop before its target stroke, those
fetched ahead of that stroke too (02 R62). An earlier header is released when its program has ended (02 R60). -/
def State.holdHeader (s : State) (p : Nat) (ws : List Word) : State :=
  let target := wd64 ws 0
  let x : Prog := { port := p, ws := ws, target := target, last := target + fld (ws.getD 4 0) 16 16, next := target }
  let old := s.stk.progs.map (fun y => if y.port = p then
    { y with last := min y.last (target - 1), next := if target = 0 then max y.next 1 else y.next } else y)
  { s with stk := { s.stk with
      progs := old ++ [x],
      insts := s.stk.insts.filter (fun y => y.active || decide (y.port ≠ p ∨ y.target < target)) } }

/-- The stroke timer fetches programs: from the epoch on, and not while ACQUIRING (02 R43, R51). -/
def State.fetches (s : State) (p : Nat) : Bool :=
  (s.stk.running || decide ((s.stk.epoch : Int) ≤ s.local_)) && decide (s.stk.sync ≠ .acquiring) && decide (p < 2) && !s.portDown p

/-- HEADER_FETCH (02 R60, R61, R65). The ring's HEAD moves past a header when the header is read: the spec says only "as it
consumes" (DESIGN CHOICE, log 149). -/
def execHeaderFetch (p : Nat) (s : State) : Res :=
  .next (
    let a := pringAddr p
    let head := fld (s.reg (a + 0xC)) 0 12
    let n := s.pringSize p
    if !s.fetches p ∨ n ≤ head ∨ head = fld (s.reg (a + 0x10)) 0 12
        ∨ 2 ≤ (s.stk.progs.filter (fun x => decide (x.port = p))).length then s
    else
      let base := (s.reg a).toNat + 2 ^ 32 * (s.reg (a + 4)).toNat
      let bs := s.hostRead p (base + 64 * head) 64
      let s := s.setReg (a + 0xC) (w32 ((head + 1) % n))
      match bs with
      | none => s.raise stkPage 5
      | some bs =>
        let ws := wordsOf bs
        let low := match s.prevTarget p with
          | some x => decide (wd64 ws 0 < x)
          | none => false
        let s := s.setPrevTarget p (some (wd64 ws 0))
        if low || headerBad ws then (s.summary p ws .badCommand (wd64 ws 0) 0 0 0 0).raise stkPage 5
        else (s.holdHeader p ws).dropHeaders)

/-- The effective lead in ns (02 R60). -/
def State.lead (s : State) : Nat := min (s.stkFld 0x124 0 27 * 10) (s.stk.period * 5)

/-- The records of an instance, as 24 words each. -/
def recsOf (n : Nat) (bs : List Byte) : List SRec :=
  (List.range n).map (fun i => { idx := i, ws := wordsOf ((bs.drop (96 * i)).take 96), carried := false, late := false,
                                 frozen := none, layer := none, st := .waiting })

/-- A port holds the instance for the next stroke already, or two instances that have not begun: a late one runs in the stroke that follows
its fetch, and stands for the present one (02 R60, R63). -/
def State.instFull (s : State) (p : Nat) : Bool :=
  let ahead := s.stk.insts.filter (fun y => decide (y.port = p) && !y.active)
  ahead.any (fun y => decide (s.stk.stroke < y.target) || !s.stk.running) || decide (2 ≤ ahead.length)

/-- RECORD_FETCH (02 R60, R65, R76). -/
def execRecordFetch (p t : Nat) (s : State) : Res :=
  let s := s.at_ t
  .next (match s.stk.progs.find? (fun x => decide (x.port = p ∧ x.next ≤ x.last)) with
    | none => s
    | some x =>
      if !s.fetches p ∨ s.instFull p
          ∨ s.local_ + (s.lead : Int) < s.startOf x.next then s
      else
        let n := fld (x.ws.getD 4 0) 0 16
        match s.hostRead p (wd64 x.ws 2) (96 * n) with
        | none =>
          let s := { s with stk := { s.stk with progs := s.stk.progs.filter (fun y => decide (y ≠ x)) } }
          let s := s.summary p x.ws .busError x.next 0 0 0 0
          if bit (x.ws.getD 5 0) 15 then s.raise stkPage 5 else s
        | some bs =>
          let y : Inst := { iid := s.stk.nextIid, port := p, target := x.next, ws := x.ws, recs := recsOf n bs,
                            active := false, silent := false }
          let s := { s with stk := { s.stk with
            insts := s.stk.insts ++ [y], nextIid := s.stk.nextIid + 1,
            progs := updIf s.stk.progs (fun z => decide (z = x)) (fun z => { z with next := z.next + 1 }) } }
          let s := if s.isOver x.ws then
              { s with stk := { s.stk with overcommit := true } }.count stkPage 0x19C 4
            else s
          s.dropHeaders)

/-! ### Class windows and the start of records (02 R55, R67 to R69; 07 R253 to R256) -/

/-- The ATTEND-class records that are startable and have not had their operands read have them read now (02 R55): the
single read of 09 R305. -/
def State.freezeReady (s : State) (c : Nat) : State :=
  if c ≠ 2 then s
  else
    { s with stk := { s.stk with insts := s.stk.insts.map (fun (x : Inst) =>
        { x with recs := updIf x.recs (fun r => s.mayStart x r 2 && r.frozen.isNone && decide (recKind r.ws = 0)) (fun (r : SRec) =>
            { r with frozen := (s.recLive x r).map s.attendHeld }) }) } }

/-- WINDOW_OPEN (02 R67, R69): what waited for the window goes on. -/
def execWindowOpen (c t : Nat) (s : State) : Res :=
  let s := s.at_ t
  .next (
    let (a, b) := s.window c
    if c < 4 ∧ s.stk.running ∧ s.winSt c = .before ∧ s.stk.boundary + a * 10 ≤ s.clk ∧ s.clk < s.stk.boundary + b * 10 then
      let mine := fun (r : SRec) => decide (recClass r.ws = some c)
      let insts : List Inst := s.stk.insts.map (fun (x : Inst) =>
        { x with recs := updIf x.recs mine (fun (r : SRec) => { r with carried := false }) })
      (({ s with stk := { s.stk with win := s.stk.win.set c .open_, insts := insts } }).freezeReady c).jobsResume
    else s)

/-- WINDOW_CLOSE (02 R67, R71, R72). -/
def execWindowClose (c t : Nat) (s : State) : Res :=
  let s := s.at_ t
  .next (
    if c < 4 ∧ s.winSt c = .open_ ∧ s.stk.boundary + (s.window c).2 * 10 ≤ s.clk then s.windowShut c else s)

/-- Instances in the order in which their records start (02 R69). An instance fetched late (R63) stands by its target, ahead of
the current stroke's instances, as carried records do: the spec does not place it (DESIGN CHOICE, log 147). -/
def State.instOrder (s : State) : List Inst :=
  isort (fun a b => decide (a.target < b.target ∨ (a.target = b.target ∧ (a.port < b.port ∨ (a.port = b.port ∧ a.iid ≤ b.iid)))))
    s.stk.insts

/-- An ATTEND-class record runs, and does not wait for merge blocks (02 R69; 09 R327). -/
def State.attendBusy (s : State) : Bool :=
  s.stk.insts.any (fun x => x.recs.any (fun r => match r.st with
    | .started id => decide (recClass r.ws = some 2)
        && (match s.job id with
          | some j => (match j.stage with
            | .merge _ _ => false
            | _ => true)
          | none => true)
    | _ => false))

/-- A lower layer of the same plan is used by a record of the instance that has not started (07 R254). -/
def State.layerBlocked (s : State) (x : Inst) (p y : Nat) : Bool :=
  x.recs.any (fun r => decide (r.st = .waiting)
    && (match s.recLayer x r with
      | some (p', y') => decide (p' = p ∧ y' < y)
      | none => false))

/-- Record `idx` of an instance, which uses layer `y` of a plan, is carried, and with it every record that waits and uses a
higher layer (07 R253, R254, R256). -/
def State.carryLayers (s : State) (x : Inst) (idx p y : Nat) : State :=
  let hit := fun (r : SRec) => decide (r.st = .waiting) && (decide (r.idx = idx) || (match s.recLayer x r with
    | some (p', y') => decide (p' = p ∧ y < y')
    | none => false))
  let n := (x.recs.filter (fun r => hit r && !r.late)).length
  let s := s.updInst x.iid (fun z => { z with recs := updIf z.recs hit (fun r => { r with carried := true, late := true }) })
  if n = 0 then s else (s.bump (pg pfsPage + 0x184) n).raise pfsPage 0

/-- The results of a record go to a consumer over the network: TARGET = 0 of the block that was read (09 R307). -/
def SRec.toNetwork (r : SRec) : Bool :=
  match r.frozen with
  | some { blk := .bytes bs, .. } => decide (fld ((wordsOf bs).getD 12 0) 30 2 = 0)
  | _ => false

/-- A record's test in the cycle in which it is startable: it starts, is carried to a later window of its class, or waits. -/
inductive Test where
  | start
  | bad
  | carryLayer (plan layer : Nat)
  | carry
  | pass
  deriving DecidableEq, Repr

/-- The test (02 R55, R69, R642; 07 R253 to R255). -/
def State.recTest (s : State) (x : Inst) (r : SRec) (c : Nat) : Test :=
  match s.recLive x r with
  | none => .bad
  | some l =>
    let loose := decide (s.stk.sync = .unlocked)
    if c = 1 then
      if loose then .carry
      else match s.recLayer x r with
        | some (p, y) => if s.layerBlocked x p y then .pass
            else if s.layerReady p y || !bit (s.cfgReg (pg pfsPage + 0x100)) 0 then .start else .carryLayer p y
        | none => .start
    else if c = 2 then
      if loose && decide (l.op = 0x0C ∨ l.op = 0x0D) && r.toNetwork then .carry
      else if s.attendBusy then .pass else .start
    else .start

/-- The record starts: it is accepted for the tenant of its QSET (02 R642). -/
def State.startRec (s : State) (x : Inst) (r : SRec) : State :=
  match s.recLive x r with
  | none => s
  | some l =>
    let id := s.que.nextId
    let tag := wd64 r.ws 4
    let use := s.recLayer x r
    let ws : List Word := if recKind r.ws = 1 then
        [0, 0] ++ split64 tag ++ [r.ws.getD 6 0, r.ws.getD 7 0] ++ List.replicate 10 0
      else recCmd r.ws
    let s := s.acceptRun (.record x.port x.iid r.idx) l.tenant false ws tag r.frozen
    s.updRec x.iid r.idx (fun r => { r with st := .started id, layer := some use })

/-- Records of a class are tested in order until one starts or ends; carried and passed ones are left behind. -/
def State.recScan (s : State) (c : Nat) : List (Inst × SRec) → State
  | [] => s
  | (x, r) :: rest =>
    let waits := (((s.inst x.iid).bind (fun y => y.record r.idx)).map (fun y => s.mayStart x y c)).getD false
    if !waits then s.recScan c rest
    else match s.recTest x r c with
    | .start => s.startRec x r
    | .bad =>
      let (ws, s) := s.endWords r.op 4
      s.recFinal x.iid r.idx noId .badCommand ws false
    | .carryLayer p y => (s.carryLayers x r.idx p y).recScan c rest
    | .carry => (s.updRec x.iid r.idx (fun r => { r with carried := true })).recScan c rest
    | .pass => if c = 2 then s else s.recScan c rest

/-- RECORD_START (02 R69): the first startable record of a class starts. -/
def execRecordStart (c t : Nat) (s : State) : Res :=
  let s := (s.at_ t).freezeReady c
  .next (s.recScan c (s.instOrder.flatMap (fun x => (x.recs.filter (fun r => s.mayStart x r c)).map (fun r => (x, r)))))

/-! ### Summaries (02 R79) -/

/-- Final status of a record. -/
def SRec.final? (r : SRec) : Option Status :=
  match r.st with
  | .final st => some st
  | _ => none

/-- PROGRAM_SUMMARY (02 R79). -/
def execProgramSummary (p target : Nat) (s : State) : Res :=
  .next (
    match s.stk.insts.find? (fun x => decide (x.port = p ∧ x.target = target) && x.active && !x.silent
        && bit (x.ws.getD 5 0) 15 && x.recs.all SRec.isFinal) with
    | none => s
    | some x =>
      let sts := x.recs.filterMap SRec.final?
      let n := fun (f : Status → Bool) => (sts.filter f).length
      let onTime := n (fun st => decide (st = .ok ∨ st = .multi))
      let late := n (fun st => decide (st = .late))
      let timeout := n (fun st => decide (st = .timeout))
      let other := sts.length - onTime - late - timeout
      let st : Status := if onTime = sts.length then .ok else if onTime + late = sts.length then .late else .conflict
      let s := s.summary p x.ws st target late onTime other timeout
      ({ s with stk := { s.stk with insts := s.stk.insts.filter (fun y => decide (y.iid ≠ x.iid)) } }).releaseHolds)

end Sys2Proof.Machine
end

