-- ==== Sys2Proof/Machine/HostPorts.lean ====
section
/-! DEFINITION. Host ports (11 R392 to R396, R426, R427; 18 R623, R624): training and loss, HDM decoders, CXL.mem
requests with their tokens and load, the CXL mailbox and CDAT. -/

namespace Sys2Proof.Machine

/-! ### Training (11 R392 to R396, R427; 15 R544) -/

/-- The mode that training ends in (11 R393; 15 R544; 17 R605): CXL modes from the LINKS phase on. -/
def State.trainMode (s : State) (p speed width : Nat) (cxl mld : Bool) : Mode :=
  let c := s.cfgReg (pg (hptPage p) + 0x100)
  if s.start = .recovery ∨ s.start.val < 5 ∨ !cxl ∨ !bit c 0 ∨ speed < 4 ∨ width < 8 then .pcie
  else if bit c 4 && mld then .mld else .sld

/-- Queue sets and functions of a port are as after a conventional reset (11 R427). -/
def State.portReset (s : State) (p : Nat) : State :=
  let s := (List.range 64).foldl (fun s q =>
    (s.setQset p q QSet.reset).setReg (qsAddr p q + 0x14) (s.reg (qsAddr p q + 0x14) &&& 0x1FF00)) s
  { s with fns := s.fns.filter (fun e => decide (e.1 / 8 ≠ p)), sec := { s.sec with spdm := sset s.sec.spdm Spdm.none p Spdm.none } }

/-- A rate and a width that a link can have (11 R392). -/
def linkOk (speed width : Nat) : Bool := decide (1 ≤ speed ∧ speed ≤ 5) && [1, 2, 4, 8, 16].contains width

/-- LINK_UP (11 R393, R396, R427): a port that was DOWN comes up as after a conventional reset; one that is up has retrained, which
applies HPT_CTRL and HPT_VIEW and may change its mode (18 R626). -/
def execLinkUp (p speed width : Nat) (cxl mld : Bool) (ldUp : Nat) (s : State) : Res :=
  .next (
    let v := s.port p
    if 2 ≤ p ∨ v.perst ∨ s.start = .verify ∨ !linkOk speed width then s
    else
      let up := decide (v.mode ≠ .down)
      let m := s.trainMode p speed width cxl mld
      let ctrl := s.cfgReg (pg (hptPage p) + 0x100)
      let s := if up then s else s.portReset p
      let s := s.setPort p { v with
        mode := m, speed := speed, width := width, ctrl := ctrl, view := s.cfgReg (pg (hptPage p) + 0x104),
        ldUp := if m = .mld then ldUp % 2 ^ fld ctrl 8 4 else 0,
        waits := if up then v.waits else [], hdm := if up then v.hdm else [], views := if up then v.views else [] }
      let s := { s with cfg := { s.cfg with lag := s.cfg.lag.filter (fun e => decide (e.1 ≠ hptPage p)) } }
      if up then s else s.raise (hptPage p) 1)

/-! ### Loss (11 R395, R426; 02 R80; 13 R501) -/

/-- An accepted command of a lost port writes no completion (11 R426). -/
def Live.loseTo (l : Live) (p : Nat) : Live :=
  match l.src with
  | .queue p' q => if p' = p then { l with src := .lost p q } else l
  | .trigger p' tag w1 => if p' = p then { l with src := .trigger p' tag (w1 % 2 ^ 31) } else l
  | _ => l

/-- A descriptor with a burst under way when its port is lost: the burst fails, also when the port has trained again (11 R639). -/
def Chan.losePort (v : Chan) : Chan := { v with desc := v.desc.map (fun d => { d with lost := d.lost || decide (d.flight ≠ []) }) }

/-- Stroke programs of a lost port (02 R80): headers without a fetched instance are dropped, a program with one ends with its last; the
instances run on without writing completions. -/
def State.loseProgs (s : State) (p : Nat) : State :=
  let ids := (s.stk.insts.filter (fun x => decide (x.port = p))).map (fun x => x.iid)
  let s := { s with stk := { s.stk with
    progs := (s.stk.progs.filter (fun x => decide (x.port ≠ p ∨ x.target < x.next))).map (fun (x : Prog) =>
      if x.port = p then { x with last := min x.last (x.next - 1) } else x),
    insts := updIf s.stk.insts (fun x => decide (x.port = p)) (fun x => { x with silent := true }) } }
  ids.foldl (fun s i => s.instEnd i) s

/-- TEN_FM.SEL takes a value; a change is reported (11 R426, R429). -/
def State.setFm (s : State) (v : Nat) : State :=
  let a := pg 0x6C + 0x104
  if fld (s.reg a) 0 2 = v then s else (s.setReg a (w32 v)).raise 0x6C 2

/-- A port is lost (11 R395, R426); as the spill port it takes the packets that wait for a context with it (13 R482). -/
def State.losePort (s : State) (p : Nat) : State :=
  let v := s.port p
  if 2 ≤ p ∨ v.mode = .down then s
  else
    let s := s.setPort p { v with mode := .down, speed := 0, width := 0, ldUp := 0, waits := [], hdm := [], views := [],
                                  waitedAt := List.replicate 8 none }
    let s := s.loseProgs p
    let gone := (s.que.live.filter (fun (l : Live) => decide (l.src ≠ (l.loseTo p).src))).map (fun l => l.id)
    let s : State := { s with
      dma := { s.dma with ch := s.dma.ch.map (fun (e : Nat × Chan) => (e.1, if s.dmaPort e.1 = p then e.2.losePort else e.2)) },
      pfs := { s.pfs with dlvs := s.pfs.dlvs.map (fun (d : Dlv) =>
        if gone.contains d.id ∧ d.target = Target.host p then { d with target := Target.host (p + 2) } else d) },
      que := { s.que with live := s.que.live.map (fun (l : Live) => l.loseTo p) },
      net := { s.net with armed := s.net.armed.filter (fun a => decide (a.port ≠ p)) },
      ten := { s.ten with revs := s.ten.revs.map (fun (r : Revoke) => { r with cxl := r.cxl.filter (fun (c : Nat × Nat) => decide (c.1 ≠ p)) }) } }
    let s := if s.spillOn ∧ s.spillPort = p then ({ s with net := { s.net with miss := [] } }).raise xptPage 2 else s
    let s := if fld (s.reg (pg 0x6C + 0x104)) 0 2 = p + 1 then s.setFm 0 else s
    let s := s.count (hptPage p) 0x1A0 0
    s.rasRecord (hptPage p) 0x0C 2 p 0

/-- DL_DOWN (11 R395, R426). -/
def execDlDown (p : Nat) (s : State) : Res := .next (s.losePort p)

/-- PERST_L low (18 R624): the link goes down and stays in Detect. -/
def execPerstL (p : Nat) (s : State) : Res :=
  .next (if 2 ≤ p then s else
    let s := s.losePort p
    s.setPort p { s.port p with perst := true })

/-- PERST_L_RELEASE (18 R624): the port may train. -/
def execPerstLRelease (p : Nat) (s : State) : Res :=
  .next (if 2 ≤ p then s else s.setPort p { s.port p with perst := false })

/-- PCIE_REFCLK_LOSS (18 R623): the port is lost. -/
def execPcieRefclkLoss (p t : Nat) (s : State) : Res := .next ((s.at_ t).losePort p)

/-! ### Logical devices (11 R394, R402, R404) -/

/-- A logical device that offers CXL.mem. -/
def State.ldOn (s : State) (p ld : Nat) : Bool :=
  let v := s.port p
  decide (p < 2) && (match v.mode with
    | .sld => decide (ld = 0)
    | .mld => decide (ld < fld v.ctrl 8 4) && v.ldUp.testBit ld
    | _ => false)

/-- Vendor ID, device ID and class code. -/
structure FnId where
  vendor : Nat
  device : Nat
  cls : Nat
  deriving DecidableEq, Repr

/-- The identity of a function of a port in its mode (11 R394, R397): LD 0 or the PCIe function, and the reader LDs of
CXL_MLD; none where the port offers no such function. -/
def State.fnId (s : State) (p ld : Nat) : Option FnId :=
  let v := s.port p
  if 2 ≤ p then none
  else match v.mode with
  | .down => none
  | .pcie => if ld = 0 then some { vendor := 0x1F3C, device := 0x7A07, cls := 0x058000 } else none
  | .sld => if ld = 0 then some { vendor := 0x1F3C, device := 0x7A07, cls := 0x050210 } else none
  | .mld =>
    if ld = 0 then some { vendor := 0x1F3C, device := 0x7A07, cls := 0x050210 }
    else if ld < fld v.ctrl 8 4 then some { vendor := 0x1F3C, device := 0x7A17, cls := 0x050210 }
    else none

/-- HDM_COMMIT (11 R404): a decoder with legal ways and granularity is committed. -/
def execHdmCommit (p ld dec : Nat) (base size ways gran : Nat) (s : State) : Res :=
  .next (
    if s.ldOn p ld ∧ dec < 4 ∧ [1, 2, 4, 8].contains ways ∧ [256, 512, 1024, 2048, 4096, 8192, 16384].contains gran then
      let v := s.port p
      let d : Hdm := { committed := true, base := base, size := size, ways := ways, gran := gran }
      s.setPort p { v with hdm := sset v.hdm Hdm.none (4 * ld + dec) d }
    else s)

/-! ### Tokens and load (11 R413, R414) -/

/-- A request finds its tokens. -/
def State.tokensOk (s : State) (p l : Nat) : Bool :=
  decide (fld (s.hptBw p l) 0 16 = 0) || decide (256 ≤ (s.port p).tokens.getD l 0)

/-- The tokens of one request are taken. -/
def State.takeTokens (s : State) (p l : Nat) : State :=
  if fld (s.hptBw p l) 0 16 = 0 then s
  else s.setPort p { s.port p with tokens := (s.port p).tokens.modify l (fun x => x - 256) }

/-- Fill of the CXL.mem T1 queue in percent when a response is formed: free, as it depends on timing (11 R414). -/
def State.t1Fill (s : State) : Nat := Config.t1Queue s.out.length % 101

/-- DevLoad of a response (11 R414). -/
def State.devLoad (s : State) (p l : Nat) : Nat :=
  let v := s.port p
  let t := v.tokens.getD l 0
  let b := s.hptBurst p l
  let rate := fld (s.hptBw p l) 0 16
  let waited := match v.waitedAt.getD l none with
    | some w => decide (s.clk ≤ w + 1000)
    | none => false
  if waited || v.waits.any (fun x => decide (x.ld = l)) || decide (s.t1Fill = 100) then 3
  else if 8 * t < b ∨ 75 ≤ s.t1Fill then 2
  else if (b ≤ 2 * t ∨ rate = 0) ∧ s.t1Fill < 25 then 0
  else 1

/-! ### Requests (11 R403, R406, R407, R411, R415) -/

/-- Extent that holds a DPA: index and record. -/
def State.extentAt (s : State) (a : Nat) : Option (Nat × List Word) :=
  (s.records 3).find? (fun e =>
    let b := rfld e.2 2 0 11
    decide (rfld e.2 0 30 2 ≠ 0) && decide (b * 2 ^ 28 ≤ a ∧ a < (b + rfld e.2 0 16 12) * 2 ^ 28))

/-- The revocation of a CXL extent in progress. -/
def State.extRevoke (s : State) (x : Nat) : Option Revoke :=
  s.ten.revs.find? (fun r => decide (r.kind = 0 ∧ r.index = x))

/-- The T1 unit of a DPA in an extent lies in a failed stack (16 R579). -/
def State.extentDead (s : State) (x a : Nat) : Bool := s.hlt.deadExt.contains (x, Config.extentStack x (a / 2 ^ 21) % s.fusedStacks)

/-- A read answered with poison (11 R406). -/
def State.cxlPoison (s : State) (p l : Nat) : State :=
  let bs := (List.range 64).map (fun i => Config.freeByte (s.free + i))
  let s := { s with free := s.free + 64 }.count (hptPage p) 0x190 2
  s.send (.cxlData p l bs true (s.devLoad p l))

/-- A read answered with data. -/
def State.cxlReadOk (s : State) (p l : Nat) (bs : List Byte) : State :=
  let s := s.bump64 (pg (hptPage p) + 0x180) 64
  s.send (.cxlData p l bs false (s.devLoad p l))

/-- A write dropped with its cause (11 R406). -/
def State.cxlDrop (s : State) (p l a : Nat) (cause : Nat) : State :=
  let b := pg (hptPage p)
  let s := ((s.setReg (b + 0x140) (w32 a)).setReg (b + 0x144) (w32 (a / 2 ^ 32))).setReg (b + 0x148) (w32 (cause * 2 ^ 8 + l))
  let s := (s.count (hptPage p) 0x194 3).rasRecord (hptPage p) 0x09 0 l a
  s.send (.cxlCmp p l (s.devLoad p l))

/-- An uncorrectable T1 read of an extent is logged (16 R573). -/
def State.cxlUe (s : State) (x a : Nat) : State :=
  let k := Config.extentStack x (a / 2 ^ 21) % s.fusedStacks
  (s.rasRecord 0x19 0x04 1 k a).stackUe k (2 ^ 64 + a / 64)

/-- The line of a DPA. -/
def lineOf (a : Nat) : Nat := a / 64 * 64

/-- What a request sees of the aperture in the cycle of its acceptance; none for a write, an extent's line, or a granule that no view
maps (11 R409, R411). -/
def State.viewRead (s : State) (p l : Nat) (req : CxlReq) : Option ViewRead :=
  match req with
  | .write _ _ => none
  | .read x =>
    let o := lineOf x - 2 ^ 39
    let k := o / 65536
    if lineOf x < 2 ^ 39 then none
    else ((s.port p).views.find? (fun v => decide (v.ld = l ∧ v.granule ≤ k ∧ k < v.granule + v.count))).map (fun v =>
      let q := o - v.granule * 65536
      { map := v, poison := s.psetPoison v.pset,
        bytes := (List.range 64).map (fun i => if q + i < v.bytes then s.page.rd (pageAddr v.pset v.page (q + i)) else 0) })

/-- A CXL.mem read is answered, with what it saw of the aperture; `old` says that it was accepted before the revocation point. -/
def State.cxlRead (s : State) (p l a : Nat) (view : Option ViewRead) (ue old : Bool) : State :=
  let g := 8 * p + l
  if 2 ^ 39 ≤ a then
    if a - 2 ^ 39 < fld (s.port p).view 0 9 * 2 ^ 30 then
      match view with
      | none => (s.count (hptPage p) 0x19C 5).cxlPoison p l
      | some v =>
        let k := s.stackOf v.map.pset v.map.page
        let s := s.touchPset v.map.pset
        if v.poison then s.cxlPoison p l
        else if ue then ((s.rasRecord 0x19 0x04 1 k a).stackUe k (2 ^ 64 + a / 64)).cxlPoison p l
        else s.cxlReadOk p l v.bytes
    else s.cxlPoison p l
  else match s.extentAt a with
    | none => s.cxlPoison p l
    | some (x, e) =>
      let gone : Bool := match s.extRevoke x with
        | some r => !old && r.removes e g
        | none => false
      if !(rfld e 0 0 16).testBit g ∨ gone ∨ s.extentDead x a then s.cxlPoison p l
      else if ue then (s.cxlUe x a).cxlPoison p l
      else s.cxlReadOk p l (s.cxl.rdBytes a 64)

/-- A CXL.mem write is answered. -/
def State.cxlWrite (s : State) (p l a : Nat) (bs : List Byte) (ue old : Bool) : State :=
  let g := 8 * p + l
  let open_ := fun (s : State) => let (k, s) := s.fresh; s.cxlDrop p l a (Config.freeNat k % 4)
  if 2 ^ 39 ≤ a ∧ a < 2 ^ 39 + fld (s.port p).view 0 9 * 2 ^ 30 then s.cxlDrop p l a 2
  else match s.extentAt a with
    | none => s.cxlDrop p l a 3
    | some (x, e) =>
      let isW := bit (e.getD 1 0) 4 && decide (rfld e 1 0 4 = g)
      let gone : Bool := match s.extRevoke x with
        | some r => !old && (r.removes e g || (isW && r.noWriter e))
        | none => false
      if gone then s.cxlDrop p l a 0
      else if !(rfld e 0 0 16).testBit g then s.cxlDrop p l a 3
      else if !isW then s.cxlDrop p l a 1
      else if s.extentDead x a then open_ s
      else if ue then open_ (s.cxlUe x a)
      else
        let s := { s with cxl := s.cxl.wrBytes a (bs.take 64) }.bump64 (pg (hptPage p) + 0x188) 64
        s.send (.cxlCmp p l (s.devLoad p l))

/-- A request that has its tokens is answered, with what it saw of the aperture. -/
def State.cxlAnswer (s : State) (p l : Nat) (req : CxlReq) (view : Option ViewRead) (ue old : Bool) : State :=
  match req with
  | .read a => s.cxlRead p l (lineOf a) view ue old
  | .write a bs => s.cxlWrite p l (lineOf a) bs ue old

/-- CXL_MEM_REQUEST (11 R406, R413): accepted, it is answered or waits for its tokens in order. -/
def execCxlMemRequest (p ld : Nat) (req : CxlReq) (ue : Bool) (s : State) : Res :=
  .next (
    if !s.ldOn p ld ∨ !s.reached .memory then s
    else
      let s := s.fillTokens p
      let v := s.port p
      if !s.tokensOk p ld ∨ v.waits.any (fun x => decide (x.ld = ld)) then
        let w : CxlWait := { ld := ld, req := req, ue := ue, view := s.viewRead p ld req }
        (s.setPort p { v with waits := v.waits ++ [w], waitedAt := v.waitedAt.set ld (some s.clk) }).bump (pg (hptPage p) + 0x198)
      else (s.takeTokens p ld).cxlAnswer p ld req (s.viewRead p ld req) ue false)

/-- One request of an LD that was accepted before a revocation point is answered: each revocation counts it. -/
def State.cxlOld (s : State) (p l : Nat) : State :=
  { s with ten := { s.ten with revs := s.ten.revs.map (fun r => { r with cxl := r.cxl.erase (p, l) }) } }

/-- The extent of a request has a revocation that it was accepted before. -/
def State.reqOld (s : State) (p l : Nat) (req : CxlReq) : Bool :=
  let a := match req with
    | .read a => a
    | .write a _ => a
  match (s.extentAt (lineOf a)).bind (fun x => s.extRevoke x.1) with
  | some r => r.cxl.contains (p, l)
  | none => false

/-- CXL_TOKEN_GRANT (11 R413): the oldest waiting request of an LD proceeds. -/
def execCxlTokenGrant (p ld t : Nat) (s : State) : Res :=
  let s := s.at_ t
  .next (if 2 ≤ p then s else
    let s := s.fillTokens p
    let v := s.port p
    match v.waits.find? (fun x => decide (x.ld = ld)) with
    | none => s
    | some w =>
      if !s.tokensOk p ld then s
      else
        let s := (s.setPort p { v with waits := v.waits.erase w, waitedAt := v.waitedAt.set ld (some s.clk) }).takeTokens p ld
        (s.cxlAnswer p ld w.req w.view w.ue (s.reqOld p ld w.req)).cxlOld p ld)

/-! ### The mailbox (11 R403, R405; CXL 2.0) -/

/-- Bytes that the spec leaves open. -/
def State.freeBytes (s : State) (n : Nat) : List Byte × State :=
  ((List.range n).map (fun i => Config.freeByte (s.free + i)), { s with free := s.free + n })

/-- A mailbox command on a logical device in a CXL mode. -/
def State.onMailbox (s : State) (p ld : Nat) (f : State → State) : State := if s.ldOn p ld then f s else s

/-- Volatile capacity of a port's LDs, bytes (11 R403). -/
def State.ldBytes (s : State) (p : Nat) : Nat := 2 ^ 39 + fld (s.port p).view 0 9 * 2 ^ 30

/-- IDENTIFY_MEMORY_DEVICE (11 R403, R405): capacities in 256 MiB; what the spec does not give is free. -/
def execIdentifyMemoryDevice (p ld : Nat) (s : State) : Res :=
  .next (s.onMailbox p ld (fun s =>
    let (fw, s) := s.freeBytes 16
    let (tail, s) := s.freeBytes 19
    let n := s.ldBytes p / 2 ^ 28
    s.send (.mailbox p ld 0x4000 0 (fw ++ leBytes 8 n ++ leBytes 8 n ++ leBytes 8 0 ++ leBytes 8 0 ++ tail))))

/-- GET_HEALTH_INFO (11 R405): the spec gives no value of its 18 bytes. -/
def execGetHealthInfo (p ld : Nat) (s : State) : Res :=
  .next (s.onMailbox p ld (fun s =>
    let (bs, s) := s.freeBytes 18
    s.send (.mailbox p ld 0x4200 0 bs)))

/-- Opcodes that the mailbox supports (11 R405). -/
def mailboxOps : List Nat := [0x0100, 0x0101, 0x0400, 0x0401, 0x4000, 0x4200]

/-- The command effects log: each supported opcode with no effect. -/
def celBytes : List Byte := mailboxOps.flatMap (fun op => leBytes 2 op ++ leBytes 2 0)

/-- UUID of the command effects log, as the number that its 16 bytes spell in order. -/
def celUuid : Nat := 0x0DA9C0B5BF414B788F7996B1623B3F17

/-- Sixteen bytes of a UUID in order. -/
def uuidBytes (u : Nat) : List Byte := (leBytes 16 u).reverse

/-- GET_SUPPORTED_LOGS (11 R405). -/
def execGetSupportedLogs (p ld : Nat) (s : State) : Res :=
  .next (s.onMailbox p ld (fun s =>
    s.send (.mailbox p ld 0x0400 0 (leBytes 2 1 ++ leBytes 6 0 ++ uuidBytes celUuid ++ leBytes 4 celBytes.length))))

/-- GET_LOG (11 R405): a range of the log; any other log or range is an invalid input. -/
def execGetLog (p ld : Nat) (uuid offset len : Nat) (s : State) : Res :=
  .next (s.onMailbox p ld (fun s =>
    if uuid = celUuid ∧ offset + len ≤ celBytes.length then
      s.send (.mailbox p ld 0x0401 0 ((celBytes.drop offset).take len))
    else s.send (.mailbox p ld 0x0401 2 [])))

/-- Bytes of an event record: its handle and what the spec does not lay out. -/
def State.eventBytes (s : State) (e : CxlEvent) : List Byte × State :=
  let (a, s) := s.freeBytes 20
  let (b, s) := s.freeBytes 106
  (a ++ leBytes 2 e.handle ++ b, s)

/-- Event records one after another. -/
def State.eventsBytes (s : State) : List CxlEvent → List Byte × State
  | [] => ([], s)
  | e :: r =>
    let (a, s) := s.eventBytes e
    let (b, s) := s.eventsBytes r
    (a ++ b, s)

/-- GET_EVENT_RECORDS (11 R405; 16 R570): the records of a log, oldest first. -/
def execGetEventRecords (p ld log : Nat) (s : State) : Res :=
  .next (s.onMailbox p ld (fun s =>
    let es := (s.port p).events.filter (fun e => decide (e.log = log))
    let (bs, s) := s.eventsBytes es
    s.send (.mailbox p ld 0x0100 0 (leBytes 20 0 ++ leBytes 2 es.length ++ leBytes 10 0 ++ bs))))

/-- CLEAR_EVENT_RECORDS (11 R405): the named records of a log go; a handle that names none clears nothing. -/
def execClearEventRecords (p ld log : Nat) (handles : List Nat) (s : State) : Res :=
  .next (s.onMailbox p ld (fun s =>
    let v := s.port p
    let mine := fun (h : Nat) => v.events.any (fun e => decide (e.log = log ∧ e.handle = h))
    if handles.all mine then
      (s.setPort p { v with events := v.events.filter (fun e => !(decide (e.log = log) && handles.contains e.handle)) }).send
        (.mailbox p ld 0x0101 0 [])
    else s.send (.mailbox p ld 0x0101 0x0E [])))

/-- MAILBOX_UNSUPPORTED (11 R405). -/
def execMailboxUnsupported (p ld op : Nat) (s : State) : Res :=
  .next (if mailboxOps.contains op then s else s.onMailbox p ld (fun s => s.send (.mailbox p ld op 3 [])))

/-! ### CDAT (11 R400) -/

/-- Latency and bandwidth structure: data type, base unit, entry. -/
def dslbis (kind unit entry : Nat) : List Byte :=
  leBytes 1 1 ++ leBytes 1 0 ++ leBytes 2 24 ++ leBytes 1 0 ++ leBytes 1 0 ++ leBytes 1 kind ++ leBytes 1 0
    ++ leBytes 8 unit ++ leBytes 2 entry ++ leBytes 6 0

/-- The table of an LD: its memory, 250 ns read latency and its rate in units of 250 MB/s, 64 GB/s where unlimited. -/
def cdatBody (bytes rate : Nat) : List Byte :=
  leBytes 1 0 ++ leBytes 1 0 ++ leBytes 2 24 ++ leBytes 1 0 ++ leBytes 1 0 ++ leBytes 2 0 ++ leBytes 8 0 ++ leBytes 8 bytes
    ++ dslbis 1 1000 250 ++ dslbis 4 250 (if rate = 0 then 256 else rate)

/-- Header with length, revision and checksum. -/
def cdatTable (body : List Byte) : List Byte :=
  let n := body.length + 16
  let sum := ((leBytes 4 n ++ body).map (fun b => b.toNat)).sum + 1
  leBytes 4 n ++ leBytes 1 1 ++ leBytes 1 ((256 - sum % 256) % 256) ++ leBytes 10 0 ++ body

/-- A logical device carries a DOE mailbox: LD 0 on every link that is up, reader LDs in CXL_MLD (11 R394, R400). -/
def State.doeOn (s : State) (p ld : Nat) : Bool :=
  decide (p < 2) && !s.portDown p && (decide (ld = 0) || s.ldOn p ld)

/-- CDAT (11 R400). -/
def execCdat (p ld : Nat) (s : State) : Res :=
  .next (if s.doeOn p ld then s.send (.doe p ld (cdatTable (cdatBody (s.ldBytes p) (fld (s.hptBw p ld) 0 16)))) else s)

end Sys2Proof.Machine
end

