-- ==== Sys2Proof/Machine/Sec.lean ====
section
/-! DEFINITION. Boot, firmware and attestation (15): the boot sequence, the image checks, recovery and updates,
fuse commands, measurements and identity. -/

namespace Sys2Proof.Machine

/-- Page of the security block. -/
def secPage : Nat := 0x70

/-- The device is held in reset, or has halted: nothing runs (15 R537; 18 R618, R623, R624, R632, R633). -/
def State.held (s : State) : Bool :=
  s.sec.halted || s.pwr.trip || s.pwr.dead || s.pwr.resetLow || s.pwr.pwrBad || s.pwr.clkLost

/-- SEC_DENIED (15 R560). -/
def State.secDeny (s : State) : State := s.count secPage 0x18C 0

/-- A start-up phase begins (17 R605). -/
def State.enterPhase (s : State) (p : Startup) : State :=
  ({ s with start := p, phaseAt := s.clk, phaseDone := false }).raise 0x00 0

/-! ### Images (15 R538 to R540) -/

/-- Bytes of an image; what the store does not list is erased flash. -/
def imgSlice (img : List Byte) (off n : Nat) : List Byte :=
  let x := (img.drop off).take n
  x ++ List.replicate (n - x.length) 0xFF

/-- Word `i` of an image. -/
def imgWord (img : List Byte) (i : Nat) : Word := w32 (ofLe (imgSlice img (4 * i) 4))

/-- A field of a word of an image. -/
def imgFld (img : List Byte) (i lo n : Nat) : Nat := fld (imgWord img i) lo n

/-- IMAGE_LEN. -/
def imgLen (img : List Byte) : Nat := (imgWord img 2).toNat

/-- Bytes of the signature trailer (15 R540). -/
def sigBytes : Nat := 29792

/-- A section entry: type, offset, length. -/
structure ImgSec where
  type : Nat
  off : Nat
  len : Nat
  deriving DecidableEq, Repr

/-- The section table (15 R538). -/
def imgSecs (img : List Byte) : List ImgSec :=
  (List.range (min (imgFld img 3 0 8) 6)).map (fun i =>
    { type := imgFld img (32 + 4 * i) 0 8, off := (imgWord img (33 + 4 * i)).toNat,
      len := (imgWord img (34 + 4 * i)).toNat })

/-- Two sections do not overlap. -/
def ImgSec.apart (x y : ImgSec) : Bool := decide (x.off + x.len ≤ y.off ∨ y.off + y.len ≤ x.off)

/-- Check 2 of 15 R536: MAGIC, FORMAT, lengths and section table, for an image of which `avail` bytes are held. -/
def imgHeaderOk (img : List Byte) (avail : Nat) : Bool :=
  let ss := imgSecs img
  decide (imgWord img 0 = 0x37584B49) && decide (imgFld img 1 0 8 = 1)
    && decide (384 ≤ imgLen img ∧ imgLen img + sigBytes ≤ 4194304 ∧ imgLen img + sigBytes ≤ avail)
    && decide (2 ≤ imgFld img 3 0 8 ∧ imgFld img 3 0 8 ≤ 6)
    && ss.all (fun x => decide (1 ≤ x.type ∧ x.type ≤ 6 ∧ 384 ≤ x.off ∧ x.off % 256 = 0 ∧ 1 ≤ x.len
        ∧ x.off + x.len ≤ imgLen img))
    && decide ((ss.map (fun x => x.type)).Nodup) && decide (ss.Pairwise (fun x y => x.apart y))
    && ss.any (fun x => decide (x.type = 1)) && ss.any (fun x => decide (x.type = 2))

/-- PUBLIC_KEY. -/
def imgKey (img : List Byte) : List Byte := imgSlice img 32 64

/-- The key slot that an image's key is in: programmed and not revoked (15 R536 check 3). -/
def Fuse.slotOf (f : Fuse) (img : List Byte) : Option Nat :=
  (List.range 4).find? (fun k => !f.revoked.testBit k && decide ((f.keys.getD k none) = some (shake256 (imgKey img) 32)))

/-- Checks 2 to 6 of 15 R536: the cause of the first that fails, or the key slot. -/
def State.imgCheck (s : State) (img : List Byte) (avail : Nat) : Except Nat Nat :=
  if !imgHeaderOk img avail then .error 2
  else match s.sec.fuse.slotOf img with
    | none => .error 3
    | some k =>
      if !Config.slhVerify256s (imgKey img) (imgSlice img 0 (imgLen img)) (imgSlice img (imgLen img) sigBytes) then
        .error 4
      else if imgFld img 3 8 8 < s.sec.fuse.svn then .error 5
      else if imgFld img 1 16 16 ≠ 0x7A07 ∨ Config.siliconRev < imgFld img 1 8 8 then .error 6
      else .ok k

/-- Bytes of the section of a type; none when it is absent. -/
def imgSec (img : List Byte) (t : Nat) : Option (List Byte) :=
  ((imgSecs img).find? (fun x => decide (x.type = t))).map (fun x => imgSlice img x.off x.len)

/-! ### Measurements and identity (15 R550 to R554) -/

/-- DEBUG_OPEN (15 R543, R560). -/
def Fuse.debugOpen (f : Fuse) : Bool := decide (f.life = 0)

/-- Measurement 9 (15 R550): 16 raw bytes. -/
def Fuse.secState (f : Fuse) (svn slot : Nat) : List Byte :=
  ([f.life, f.svn, svn, slot, f.revoked, b2n f.debugOpen].map (fun n => BitVec.ofNat 8 n)) ++ List.replicate 10 0

/-- Measurements 1 to 9 (15 R550). -/
def measurements (f : Fuse) (img : List Byte) (slot : Nat) : List (List Byte) :=
  [shake256 Config.romContents 64, shake256 (imgSlice img 0 384) 64]
  ++ (List.range 6).map (fun i =>
    match imgSec img (i + 1) with
    | some bs => shake256 bs 64
    | none => List.replicate 64 0)
  ++ [f.secState (imgFld img 3 8 8) slot]

/-- FWID (15 R552). -/
def fwid (meas : List (List Byte)) : List Byte := shake256 meas.flatten 64

/-- "IHLUO-KX7-DEVICEID" in ASCII (15 R553). -/
def deviceIdText : List Byte := [0x49, 0x48, 0x4C, 0x55, 0x4F, 0x2D, 0x4B, 0x58, 0x37, 0x2D, 0x44, 0x45, 0x56, 0x49, 0x43, 0x45, 0x49, 0x44]

/-- "IHLUO-KX7-ALIAS" in ASCII (15 R553). -/
def aliasText : List Byte := [0x49, 0x48, 0x4C, 0x55, 0x4F, 0x2D, 0x4B, 0x58, 0x37, 0x2D, 0x41, 0x4C, 0x49, 0x41, 0x53]

/-- Seeds of the DeviceID key (15 R553). -/
def Fuse.deviceSeeds (f : Fuse) : List Byte := shake256 (deviceIdText ++ f.secret) 96

/-- Seeds of the Alias key (15 R553). -/
def Fuse.aliasSeeds (f : Fuse) (id : List Byte) : List Byte := shake256 (aliasText ++ f.secret ++ id) 96

/-- Certificate slot 0 (15 R554): none when it is not provisioned. -/
def State.certChain (s : State) (alias_ id : List Byte) : Option (List (List Byte)) :=
  let seeds := s.sec.fuse.deviceSeeds
  match s.sec.nor.certs with
  | [root, ca, dev] =>
    if Config.certPublicKey dev = Config.slhPublic256f seeds then
      let body := Config.aliasCertificate (Config.slhPublic256f alias_) id
      some [root, ca, dev, body ++ Config.slhSign256f seeds body]
    else none
  | _ => none

/-- Start-up values from the board configuration (11 R429; 13 R506): TEN_FM after a cold reset, the NET addresses. -/
def State.boardStart (s : State) (img : List Byte) : State :=
  match imgSec img 6 with
  | none => s
  | some bs =>
    let s := if (s.reg (pg 0x00 + 0x108)).toNat < 2 then s.setReg (pg 0x6C + 0x104) (w32 (Config.boardTenFm bs % 3)) else s
    s.netPorts.foldl (fun s n =>
      [0x108, 0x10C, 0x110, 0x114, 0x118, 0x11C, 0x120, 0x124, 0x128].foldl (fun s o =>
        match regDef (pg (0x60 + n) + o) with
        | some d => s.setReg (pg (0x60 + n) + o) (Config.boardNet bs n o &&& d.mask)
        | none => s) s) s

/-- Steps 6 and 7 of 15 R535 on an image that has passed: measurements, keys, handoff. -/
def State.runImage (s : State) (img : List Byte) (slot source : Nat) : State :=
  let f := s.sec.fuse
  let meas := measurements f img slot
  let id := fwid meas
  let s := { s with sec := { s.sec with
    source := source, cause := 0, version := (imgWord img 4).toNat, imageSvn := imgFld img 3 8 8, keySlot := slot,
    meas := meas } }
  let s := if f.life = 2 then { s with sec := { s.sec with alias_ := none, chain := none } }
    else
      let a := f.aliasSeeds id
      let chain := s.certChain a id
      let s := { s with sec := { s.sec with alias_ := some a, chain := chain } }
      if chain.isNone then s.raise secPage 4 else s.bump (pg secPage + 0x184)
  (s.boardStart img).enterPhase .memory

/-- BOOT_SEQUENCE (15 R535 to R537, R544): after a reset whose hold has ended. -/
def execBootSequence (kat : Bool) (s : State) : Res :=
  .next (
    if s.start ≠ .verify ∨ s.held then s
    else if !kat then { s with sec := { s.sec with halted := true, cause := 7, source := 3 } }
    else
      let s := { s with sec := { s.sec with spi := s.sec.nor.mode } }
      let img := s.sec.nor.image
      let r := if s.sec.nor.mode = 0 then .error 1 else s.imgCheck img 4194304
      match r with
      | .error c => ({ s with sec := { s.sec with cause := c, source := 3 } }).enterPhase .recovery
      | .ok k => s.runImage img k 0)

/-! ### Recovery and updates (15 R544 to R549) -/

/-- A length that the mailbox takes (15 R546). -/
def loadLenOk (n : Nat) : Bool := decide (30176 ≤ n ∧ n ≤ 4194304)

/-- An update is in progress (15 R549). -/
def State.updating (s : State) : Bool := decide (1 ≤ s.sec.updState ∧ s.sec.updState ≤ 3)

/-- A load fails. -/
def State.rcvFail (s : State) (p c : Nat) : State :=
  { s with sec := { s.sec with rcvState := 3, rcvOwner := p, rcvCause := c, load := none } }

/-- An update fails (15 R549). -/
def State.updFail (s : State) (c : Nat) : State :=
  ({ s with sec := { s.sec with updState := 5, updCause := c, updImage := [] } }).raise secPage 2

/-- The mailbox's address and length. -/
def State.rcvAddr (s : State) : Nat × Nat :=
  ((s.reg (pg secPage + 0x128)).toNat + 2 ^ 32 * (s.reg (pg secPage + 0x12C)).toNat, fld (s.reg (pg secPage + 0x130)) 0 23)

/-- The load starts: the image is read (15 R545). -/
def State.startLoad (s : State) (p : Nat) (update : Bool) : State :=
  let (a, n) := s.rcvAddr
  let l : Load := { port := p, update := update, writeBack := bit (s.reg (pg secPage + 0x120)) 1, image := s.hostRead p a n }
  { s with sec := { s.sec with load := some l, rcvState := 1, rcvOwner := p, rcvCause := 0 } }

/-- GO on the recovery mailbox with MODE = 0 (15 R545 to R547, R559). -/
def State.rcvGo (s : State) (src : Src) : State :=
  match src with
  | .mctp => s.secDeny
  | .port p =>
    if s.start ≠ .recovery ∨ s.sec.load.isSome then s.secDeny
    else if !loadLenOk s.rcvAddr.2 then s.rcvFail p 9
    else s.startLoad p false

/-- GO on the mailbox with MODE = 1 (15 R548, R549, R559). -/
def State.updGo (s : State) (src : Src) : State :=
  match src with
  | .mctp => s.secDeny
  | .port p =>
    if !s.fmRoute src ∨ s.sec.load.isSome ∨ !s.reached .memory then s.secDeny
    else if s.updating then (s.rcvFail p 11).bump (pg secPage + 0x188)
    else
      let s := { s with sec := { s.sec with updState := 1, updSource := 1, updCause := 0 } }
      if !loadLenOk s.rcvAddr.2 then (s.rcvFail p 9).updFail 9 else s.startLoad p true

/-- MODE of SEC_RCV_CTRL takes a value; WRITE_BACK stays. -/
def State.rcvMode (s : State) (m : Nat) : State :=
  let a := pg secPage + 0x120
  s.setReg a ((s.reg a &&& 2) ||| w32 m)

/-- RECOVERY_LOAD (15 R545): SEC_RCV_CTRL is written with MODE = 0 and GO = 1. -/
def execRecoveryLoad (src : Src) (s : State) : Res :=
  .next (if !s.pageOn src secPage then s else (s.rcvMode 0).rcvGo src)

/-- MAILBOX_UPDATE (15 R548): SEC_RCV_CTRL is written with MODE = 1 and GO = 1. -/
def execMailboxUpdate (src : Src) (s : State) : Res :=
  .next (if !s.pageOn src secPage then s else (s.rcvMode 1).updGo src)

/-- What a failed write leaves in the image region: open. -/
def State.spoil (s : State) (n : Nat) : State :=
  let (bs, s) := s.freeBytes n
  { s with sec := { s.sec with nor := { s.sec.nor with image := bs } } }

/-- RECOVERY_LOAD_DONE (15 R545, R546). -/
def execRecoveryLoadDone (s : State) : Res :=
  .next (match s.sec.load with
    | none => s
    | some l =>
      if l.update ∨ s.start ≠ .recovery then s
      else match l.image with
        | none => s.rcvFail l.port 8
        | some img =>
          match s.imgCheck img img.length with
          | .error c => s.rcvFail l.port c
          | .ok k =>
            if l.writeBack ∧ (s.sec.nor.broken ∨ s.sec.nor.mode = 0) then (s.spoil img.length).rcvFail l.port 10
            else
              let nor := if l.writeBack then { s.sec.nor with image := img } else s.sec.nor
              let s := { s with sec := { s.sec with nor := nor, load := none, rcvState := 2, rcvCause := 0 } }
              s.runImage img k (1 + l.port))

/-- The device answers PLDM and SPDM over MCTP: not in VERIFY, recovery or a halt (15 R544; 18 R628). -/
def State.mctpOn (s : State) : Bool := decide (s.start ≠ .verify) && decide (s.start ≠ .recovery) && !s.held

/-- PLDM_UPDATE (15 R548, R549): the image is staged, or the request is refused with ALREADY_IN_UPDATE_MODE. -/
def execPldmUpdate (image : List Byte) (s : State) : Res :=
  .next (if !s.mctpOn then s
    else if s.updating then (s.bump (pg secPage + 0x188)).send (.mctp 1 [0x81])
    else ({ s with sec := { s.sec with updState := 1, updSource := 0, updCause := 0, updImage := image } }).send (.mctp 1 [0x00]))

/-- The image of the update in progress: none when its read drew a bus error. -/
def State.updBytes (s : State) : Option (List Byte) :=
  if s.sec.updSource = 0 then some s.sec.updImage
  else match s.sec.load with
    | some l => l.image
    | none => none

/-- The mailbox's own status of an update that ends. -/
def State.rcvEnd (s : State) (c : Nat) : State :=
  match s.sec.load with
  | none => s
  | some l =>
    if l.update then { s with sec := { s.sec with load := none, rcvState := if c = 0 then 2 else 3, rcvOwner := l.port, rcvCause := c } }
    else s

/-- IMAGE_STAGED (15 R549). -/
def execImageStaged (s : State) : Res :=
  .next (if s.sec.updState ≠ 1 then s
    else
      let fail := fun (s : State) (c : Nat) => (s.rcvEnd c).updFail c
      match s.updBytes with
      | none => fail s 8
      | some img =>
        match s.imgCheck img img.length with
        | .error c => fail s c
        | .ok _ =>
          if s.sec.nor.broken ∨ s.sec.nor.mode = 0 then fail (s.spoil img.length) 10
          else
            let s := s.rcvEnd 0
            ({ s with sec := { s.sec with nor := { s.sec.nor with image := img }, updState := 4, updCause := 0,
                                          updImage := [] } }).raise secPage 1)

/-- ACTIVATE_FIRMWARE (15 R549): the response requests a reset. -/
def execActivateFirmware (_msg : List Byte) (s : State) : Res :=
  .next (if !s.mctpOn then s else
    let (bs, s) := s.freeBytes 2
    s.send (.mctp 1 (0x00 :: bs)))

/-! ### Fuse commands (15 R542) -/

/-- A fuse command is written with CONFIRM: 1 SVN_COMMIT, 2 REVOKE. -/
def State.fuseStart (s : State) (src : Src) (cmd slot : Nat) : State :=
  if !s.fmRoute src then s.secDeny
  else if s.sec.fuseCmd.isSome then s
  else { s with sec := { s.sec with fuseCmd := some (cmd, slot % 4, s.clk) } }

/-- SVN_COMMIT (15 R542). -/
def execSvnCommit (src : Src) (s : State) : Res := .next (if !s.pageOn src secPage then s else s.fuseStart src 1 0)

/-- REVOKE (15 R542). -/
def execRevoke (src : Src) (slot : Nat) (s : State) : Res :=
  .next (if !s.pageOn src secPage then s else s.fuseStart src 2 slot)

/-- REVOKE of a slot is refused (15 R542): it holds the running image's key, or no programmed slot would stay
unrevoked. -/
def State.revokeRefused (s : State) (k : Nat) : Bool :=
  (decide (s.sec.source ≠ 3) && decide (s.sec.keySlot = k))
    || !(List.range 4).any (fun j => decide (j ≠ k) && (s.sec.fuse.keys.getD j none).isSome && !s.sec.fuse.revoked.testBit j)

/-- FUSE_DONE (15 R542). -/
def execFuseDone (t : Nat) (s : State) : Res :=
  let s := s.at_ t
  .next (match s.sec.fuseCmd with
    | none => s
    | some (cmd, k, _) =>
      let s := { s with sec := { s.sec with fuseCmd := none } }
      let f := s.sec.fuse
      let s := if cmd = 1 then { s with sec := { s.sec with fuse := { f with svn := max f.svn s.sec.imageSvn }, fuseResult := 0 } }
        else if s.revokeRefused k then { s with sec := { s.sec with fuseResult := 1 } }
        else { s with sec := { s.sec with fuse := { f with revoked := f.revoked ||| 2 ^ k }, fuseResult := 0 } }
      s.raise secPage 3)

end Sys2Proof.Machine
end

