-- ==== Sys2Proof/Machine/Hlt.lean ====
section
/-! DEFINITION. Health (16 R561 to R569) and FATAL errors (16 R571): monitors, the margin re-plan, the fast guard. -/

namespace Sys2Proof.Machine

/-- A FATAL error (16 R570, R571): its record, and the reset that follows. A thermal trip takes the place of another
cause (18 R636). -/
def State.fatalError (s : State) (page cause unit info : Nat) : State :=
  let s := s.rasRecord page cause 3 unit info
  if s.ras.fatal.isSome ∧ cause ≠ 0x11 then s
  else { s with ras := { s.ras with fatal := some (cause, info, s.clk) } }

/-- HLT_CTRL bit. -/
def State.hltCtrl (s : State) (i : Nat) : Bool := bit (s.cfgReg (pg hltPage + 0x100)) i

/-- HLT_MARGIN field. -/
def State.hltMargin (s : State) (lo : Nat) : Nat := s.cfgFld (pg hltPage + 0x108) lo 8

/-- Monitors 48 to 63 watch core-clock paths (16 R561). -/
def coreMonitor (i : Nat) : Bool := decide (48 ≤ i)

/-- A monitor's measured slack lies below FAST_PS. -/
def State.tooFast (s : State) (ps : List Int) (i : Nat) : Bool :=
  match ps[i]? with
  | some x => decide (x < (s.hltMargin 8 : Int))
  | none => false

/-- A re-plan starts, unless one runs (16 R563). -/
def State.startReplan (s : State) : State :=
  if s.hlt.running.isSome then s else { s with hlt := { s.hlt with running := some s.clk } }

/-- A fast-guard event is counted, and starts a re-plan (16 R569). -/
def State.guardEvent (s : State) (unit info : Nat) : State :=
  ((s.count hltPage 0x184 1).rasRecord hltPage 0x0D 0 unit info).startReplan

/-- The floor rises by one step (16 R569): into the active MIN_STEP at once, into an edition at the next boundary. -/
def State.raiseFloor (s : State) (i : Nat) : State :=
  let f := min (s.hlt.floor + 1) 8
  let s := { s with hlt := { s.hlt with floor := f, floorDue := true }, act := floorBank s.act f,
                    cfg := { s.cfg with lag := if s.cfg.lag.any (fun e => decide (e.1 = 0x20)) then s.cfg.lag
                                              else sset s.cfg.lag 0 0x20 (s.cfg.edition + 1) } }
  (((s.raise hltPage 2).guardEvent i f).cfgNow).betweenOps

/-- The fast guard on one sample (16 R569). -/
def State.fastGuard (s : State) (ps : List Int) : State :=
  let low := (List.range 64).filter (s.tooFast ps)
  match low with
  | [] => s
  | i :: _ =>
    if s.hlt.vcore < 850 then
      let v := min (s.hlt.vcore + 10) 850
      let s := s.setVcore v
      ({ s with hlt := { s.hlt with raised := true } }).guardEvent i v
    else
      let s := match low.find? (fun i => !coreMonitor i) with
        | some i => s.raiseFloor i
        | none => s
      match low.find? coreMonitor with
      | some i => (s.guardEvent i 850).fatalError hltPage 0x0F i ((ps.getD i 0) % 2 ^ 64).toNat
      | none => s

/-- Slack of a monitor reduced to the reference point (16 R562). -/
def State.reduced (s : State) (i : Nat) (ps : Int) : Int :=
  Config.reduceSlack i ps (sget s.hlt.ro 0 i) s.hlt.vcore s.brn.step

/-- The lowest reduced slack of each monitor (16 R562). -/
def State.noteSlack (s : State) (ps : List Int) : State :=
  (List.range 64).foldl (fun s i =>
    match ps[i]? with
    | none => s
    | some p =>
      let x := s.reduced i p
      let y := match sget s.hlt.slack none i with
        | none => x
        | some o => min o x
      { s with hlt := { s.hlt with slack := sset s.hlt.slack none i (some y) } }) s

/-- PATH_DELAY_SAMPLE (16 R561, R562, R569): the measured slack of monitors 0 to 63, ps. -/
def execPathDelaySample (t : Nat) (ps : List Int) (s : State) : Res :=
  let s := s.at_ t
  .next (if !s.mctpOn ∨ !s.hltCtrl 0 then s
    else
      let s := s.noteSlack ps
      if s.hltCtrl 2 then s.fastGuard ps else s)

/-- Samples into a table of `n` entries. -/
def sampleAll (l : Sparse Nat) (n : Nat) (vs : List Nat) : Sparse Nat :=
  (List.range n).foldl (fun l i =>
    match vs[i]? with
    | some v => sset l 0 i (v % 65536)
    | none => l) l

/-- RING_OSCILLATOR_SAMPLE (16 R561): frequencies of oscillators 0 to 63, MHz. -/
def execRingOscillatorSample (t : Nat) (vs : List Nat) (s : State) : Res :=
  let s := s.at_ t
  .next (if !s.mctpOn ∨ !s.hltCtrl 0 then s else { s with hlt := { s.hlt with ro := sampleAll s.hlt.ro 64 vs } })

/-- LEAKAGE_SAMPLE (16 R561): currents of sensors 0 to 19, mA. -/
def execLeakageSample (t : Nat) (vs : List Nat) (s : State) : Res :=
  let s := s.at_ t
  .next (if !s.mctpOn ∨ !s.hltCtrl 0 then s else { s with hlt := { s.hlt with leak := sampleAll s.hlt.leak 20 vs } })

/-- Memory `u` (plate layers 0 to 3, then stacks 0 to 7) is there and has not failed. -/
def State.memLive (s : State) (u : Nat) : Bool :=
  decide (u < 4 + s.fusedStacks) && (decide (u < 4) || !s.hlt.dead.contains (u - 4))

/-- REFRESH_MARGIN_TEST (16 R561): once per re-plan interval, in slack; the longest refresh interval at which the test
region holds, in 1/100 of the refresh window at x1. -/
def execRefreshMarginTest (unit margin : Nat) (s : State) : Res :=
  .next (if !s.mctpOn ∨ !s.hltCtrl 0 ∨ !s.reached .memory ∨ !(s.slack .memory) ∨ !s.memLive unit ∨ (sget s.hlt.margin none unit).isSome then s
    else { s with hlt := { s.hlt with margin := sset s.hlt.margin none unit (some margin) } })

/-- MIN_RATIO. -/
def State.minRatio (s : State) : Nat := s.cfgFld (pg hltPage + 0x10C) 0 4

/-- The margin meets the ratio at multiplier code `c` (16 R564). -/
def State.marginOk (s : State) (m c : Nat) : Bool := decide (100 * s.minRatio ≤ m * 2 ^ c)

/-- Mean corrected bits of a die since the last re-plan, in 1/256 bit. -/
def Trend.mean (x : Trend) : Nat := if x.words = 0 then x.base else x.bits * 256 / x.words

/-- A trigger of 16 R563 is there. -/
def State.replanTrigger (s : State) : Bool :=
  decide (s.hlt.lastAt + s.cfgFld (pg hltPage + 0x104) 0 16 * 3600000000000 ≤ s.clk)
    || (List.range 64).any (fun i => match sget s.hlt.slack none i, sget s.hlt.slackBase none i with
        | some x, some b => decide (x < b - (s.hltMargin 16 : Int))
        | _, _ => false)
    || s.hlt.margin.any (fun e => match e.2 with
        | some m => s.memLive e.1 && !s.marginOk m (sget s.hlt.refresh 0 e.1)
        | none => false)
    || s.hlt.trend.any (fun e =>
        decide (e.2.base * 100 + s.cfgFld (pg hltPage + 0x110) 0 8 * s.flm.geom.ldpc * 256 < e.2.mean * 100))

/-- REPLAN_START (16 R563). -/
def execReplanStart (t : Nat) (s : State) : Res :=
  let s := s.at_ t
  .next (if s.mctpOn ∧ s.hltCtrl 1 ∧ s.replanTrigger then s.startReplan else s)

/-- A write of HLT_CMD.REPLAN_NOW. -/
def State.replanCmd (s : State) : State := if s.hltCtrl 1 then s.startReplan else s

/-- REPLAN_NOW (16 R563). -/
def execReplanNow (src : Src) (s : State) : Res :=
  .next (if !s.pageOn src hltPage then s else s.replanCmd)

/-- A monitor meets the guard at a setpoint and a step (16 R564). -/
def State.guardOk (s : State) (mv step i : Nat) : Bool :=
  match sget s.hlt.slack none i with
  | none => true
  | some x => decide ((s.hltMargin 0 : Int) ≤ Config.predictSlack i x mv (if coreMonitor i then 0 else step))

/-- The setpoints that a re-plan may choose (16 R564). -/
def setpoints : List Nat := (List.range 41).map (fun k => 650 + 5 * k)

/-- The lowest setpoint at which every monitor meets the guard at a step. -/
def State.planVf (s : State) (step : Nat) : Option Nat :=
  setpoints.find? (fun mv => (List.range 64).all (s.guardOk mv step))

/-- The multiplier code of a memory (16 R564); none when it needs more than x4. Without a measurement the present code
stays. -/
def State.planRefresh (s : State) (u : Nat) : Option Nat :=
  match sget s.hlt.margin none u with
  | none => some (sget s.hlt.refresh 0 u)
  | some m => (List.range 3).find? (s.marginOk m)

/-- New read offsets: die, SLC, native. -/
def triples : Nat → List Nat → List (Nat × Nat × Nat)
  | 0, _ => []
  | n + 1, l =>
    match l with
    | d :: a :: b :: r => (d, a % 256, b % 256) :: triples n r
    | _ => []

/-- The outputs of a re-plan (16 R564). -/
def State.planOuts (s : State) (outs : List Nat) : Outs :=
  { vf := (List.range 9).map (fun k => (s.planVf k).getD 850),
    floor := ((List.range 9).find? (fun k => (s.planVf k).isSome)).getD s.hlt.floor,
    refresh := (List.range 12).map (fun u => (s.planRefresh u).getD 2),
    offs := if s.hltCtrl 3 then triples outs.length outs else [] }

/-- AGE_CRIT is raised for a unit (16 R564, R573). -/
def State.ageCrit (s : State) (unit info : Nat) : State :=
  (({ s with hlt := { s.hlt with ageCrit := true } }).raise hltPage 3).rasRecord hltPage 0x0E 2 unit info

/-- REPLAN_END (16 R564, R565): outputs wait for the next boundary, or apply at once when no stroke is running. The
offsets with the fewest corrected bits come from the media: die, SLC, native. -/
def execReplanEnd (t : Nat) (outs : List Nat) (s : State) : Res :=
  let s := s.at_ t
  .next (if s.hlt.running.isNone then s
    else
      let o := s.planOuts outs
      let bad := (List.range 12).filter (fun u => s.memLive u && (s.planRefresh u).isNone)
      let cores := (List.range 64).filter (fun i => coreMonitor i && !s.guardOk 850 0 i)
      let s := { s with hlt := { s.hlt with
        running := none, ready := some o, ageCrit := false, slackBase := s.hlt.slack, slack := [], margin := [],
        trend := s.hlt.trend.filterMap (fun (e : Nat × Trend) =>
          let x : Trend := { e.2 with base := e.2.mean, bits := 0, words := 0 }
          if x = Trend.none then none else some (e.1, x)) } }
      let s := (bad.filter (fun u => decide (u < 4))).foldl (fun s u => s.ageCrit u 4) s
      let s := match cores with
        | i :: _ => s.ageCrit i 0
        | [] => s
      let s := (bad.filter (fun u => decide (4 ≤ u))).foldl (fun s u => s.failStack (u - 4)) s
      s.cfgNow)

end Sys2Proof.Machine
end

