-- ==== Sys2Proof/Machine/Pwr.lean ====
section
/-! DEFINITION. Power, thermal limits, pins, resets and start-up phases (18 R616 to R633; 01 R29 to R33; 17 R602 to R605),
and the rows of the RAS block (16 R571, R575, R576). -/

namespace Sys2Proof.Machine

/-- Page of the power block. -/
def pwrPage : Nat := 0x7C

/-- What a latched HI word reads after a cold reset (17 R608, R609). -/
def latchReset (a : Nat) : Word :=
  if a = pg 0x01 + 0x110 then w32 (Config.serial / 2 ^ 32) else if a = pg 0x02 + 0x11C then 0xFFFFFFFF else 0

/-- The latched HI words that report the kept edition after a warm reset (17 R602). -/
def State.cfgLatch (s : State) : Sparse Word :=
  let put := fun (l : Sparse Word) (off v : Nat) => sset l (latchReset (pg 0x02 + off)) (pg 0x02 + off) (w32 (v / 2 ^ 32))
  put (put (put [] 0x10C s.cfg.edition) 0x114 s.cfg.prevEdition) 0x11C s.cfg.applied

/-! ### Resets (17 R602; 16 R571; 18 R618, R620, R624) -/

/-- The boot flash's image region when a write of it is cut short (15 R559): between the start of a load that is
written back, or of an update, and its end, for an image that passes its checks. -/
def State.norAfter (s : State) : Nor :=
  let good := fun (o : Option (List Byte)) => match o with
    | some img => (match s.imgCheck img img.length with
        | .ok _ => true
        | .error _ => false)
    | none => false
  let rcv : Bool := match s.sec.load with
    | some l => !l.update && l.writeBack && good l.image
    | none => false
  if rcv || (decide (s.sec.updState = 1) && good s.updBytes) then { s.sec.nor with image := [] } else s.sec.nor

/-- What flash keeps: its tables as the journal holds them; what was queued is lost (10 R388). -/
def Flm.afterReset (f : Flm) : Flm :=
  { f with stream := [], busy := [], prog := [], jopen := [], jopenAt := none, jpages := f.jpages.takeWhile (fun p => p.ok0 || p.ok1),
           jwait := [], jfull := false, landed := [], recorded := [], ckptRun := false }

/-- State that every reset keeps: the order code, the queue, device time, what lies outside the device, fuses, boot flash and flash,
the levels of pins, and the records from which 10 R389 rebuilds the directory. -/
def State.resetBase (s : State) : State :=
  { State.reset with
    part := s.part, pending := s.pending, clk := s.clk, resetAt := s.clk, phaseAt := s.clk, free := s.free, out := s.out,
    host0 := s.host0, host1 := s.host1, bad := s.bad, page := s.page, flm := s.flm.afterReset,
    dir := { State.reset.dir with slots := s.dir.slots },
    tier := { State.reset.tier with psets := s.tier.psets },
    port0 := { Port.reset with perst := s.port0.perst }, port1 := { Port.reset with perst := s.port1.perst },
    sec := { Sec.reset with fuse := s.sec.fuse, nor := s.norAfter, nextToken := s.sec.nextToken },
    pwr := { Pwr.reset with vrmHot := s.pwr.vrmHot, trip := s.pwr.trip, dead := s.pwr.dead, resetLow := s.pwr.resetLow,
                            pwrBad := s.pwr.pwrBad, clkLost := s.pwr.clkLost, heldAt := s.pwr.heldAt },
    hlt := { Hlt.reset with lastAt := s.clk } }

/-- A cold reset with its cause (17 R602, R607). -/
def State.coldReset (s : State) (cause : Nat) : State := s.resetBase.setReg (pg 0x00 + 0x108) (w32 cause)

/-- The blocks take the kept active bank (17 R602, R603). -/
def State.bankStart (s : State) : State :=
  let g := gridOf s.act
  let s := { s with
    stk := { s.stk with epoch := g.1, period := g.2 },
    net := { s.net with spill := s.cfgReg (pg 0x64 + 0x120),
                        spillBase := (s.cfgReg (pg 0x64 + 0x124)).toNat + 2 ^ 32 * (s.cfgReg (pg 0x64 + 0x128)).toNat },
    cfg := { s.cfg with lag := [(0x20, 1)] } }
  let s := s.betweenOps
  let s := { s with cfg := { s.cfg with lag := [] } }
  let old := { s with act := [] }
  s.netPorts.foldl (fun s n => (s.gateFill old n).gateTake n) s

/-- A warm reset with its cause (17 R602, R607; 16 R571; 11 R640); token buckets start full under the kept bank (11 R413). -/
def State.warmReset (s : State) (cause : Nat) : State :=
  let keep := [pg 0x00 + 0x10C, pg 0x79 + 0x140, pg 0x79 + 0x144, pg 0x6C + 0x100, pg 0x6C + 0x104]
  let b := s.resetBase
  let b := { b with
    act := s.act, pend := s.pend, prev := s.prev, latch := s.cfgLatch,
    regs := s.regs.filter (fun e => keep.contains e.1),
    cfg := { b.cfg with edition := s.cfg.edition, prevEdition := s.cfg.prevEdition, prevValid := s.cfg.prevValid,
                        applied := s.cfg.applied },
    ten := { b.ten with tbl := s.ten.tbl },
    hlt := { b.hlt with vf := s.hlt.vf, floor := s.hlt.floor, refresh := s.hlt.refresh, slackBase := s.hlt.slackBase,
                        vcore := s.hlt.vf.getD 0 0x2EE, settleAt := s.clk + 20000, lastAt := s.hlt.lastAt,
                        trend := s.hlt.trend.map (fun (e : Nat × Trend) => (e.1, { e.2 with bits := 0, words := 0 })) } }
  let b := (b.bankStart.fullTokens 0).fullTokens 1
  ((b.setReg (pg 0x00 + 0x108) (w32 cause)).bump (pg 0x00 + 0x10C)).raise 0x00 2

/-- WARM_RESET: a write of GLB_CTRL (17 R607). -/
def State.glbCtrl (s : State) (src : Src) (v : Word) : State :=
  if !s.fmRoute src ∨ fld v 20 12 ≠ 0xA5C then s.count 0x6C 0x190 1
  else if bit v 0 then s.warmReset 2 else s

/-- WARM_RESET (17 R602, R607). -/
def execWarmReset (src : Src) (v : Word) (s : State) : Res :=
  .next (if !s.pageOn src 0x00 then s else s.glbCtrl src v)

/-- Words of a RAS record (16 R572); DEVICE is IDENT_SYSNUM.NUM. -/
def State.rasWords (s : State) (r : RasRec) : List Word :=
  [w32 r.seq, w32 (r.cls * 2 ^ 30 + r.page * 2 ^ 16 + r.cause * 2 ^ 8 + r.count), w32 r.stroke, w32 (r.stroke / 2 ^ 32),
   w32 r.offset, w32 (fld (s.reg (pg 0x01 + 0x114)) 0 12 * 2 ^ 16 + r.unit % 2 ^ 16), w32 r.info, w32 (r.info / 2 ^ 32)]

/-- A PLDM platform event leaves over MCTP: the record it reports. -/
def State.platSend (s : State) (r : RasRec) : State := s.send (.mctp 1 (bytesOf (s.rasWords r)))

/-- FATAL_RESET (16 R571; 18 R632). -/
def execFatalReset (t : Nat) (s : State) : Res :=
  let s := s.at_ t
  .next (match s.ras.fatal with
    | none => s
    | some (cause, info, _) =>
      let up := decide (s.start ≠ .verify) && decide (s.start ≠ .recovery)
      let s := match s.ras.plat.find? (fun r => decide (r.cls = 3)) with
        | some r => if up then s.platSend r else s
        | none => s
      let s := s.warmReset 3
      let s := (s.setReg (pg 0x79 + 0x140) (w32 (2 ^ 31 + cause))).setReg (pg 0x79 + 0x144) (w32 info)
      s.raise 0x79 4)

/-- RESET_L (18 R624): low for 10 us. -/
def execResetL (t : Nat) (s : State) : Res :=
  let s := s.at_ t
  .next (({ s with pwr := { s.pwr with resetLow := true, heldAt := s.clk } }).coldReset 1)

/-- PWR_GOOD (18 R618 to R620, R624): its fall resets, and power restored starts from nothing. -/
def execPwrGood (level : Bool) (t : Nat) (s : State) : Res :=
  let s := s.at_ t
  .next (
    if level then
      if s.pwr.pwrBad then { s with pwr := { s.pwr with pwrBad := false, dead := false, heldAt := s.clk } } else s
    else ({ s with pwr := { s.pwr with pwrBad := true, resetLow := true, trip := false, heldAt := s.clk } }).coldReset 0)

/-- The hold ends: time since reset counts from here. -/
def State.released (s : State) : State := { s with resetAt := s.clk, phaseAt := s.clk }

/-- RESET_RELEASE (18 R618): 100 us after RESET_L is released. -/
def execResetRelease (t : Nat) (s : State) : Res :=
  let s := s.at_ t
  .next (if s.pwr.resetLow ∧ !s.pwr.pwrBad ∧ s.pwr.heldAt + 100000 ≤ s.clk then
      ({ s with pwr := { s.pwr with resetLow := false } }).released
    else s)

/-- SYS_REFCLK_LOSS (18 R623). -/
def execSysRefclkLoss (t : Nat) (s : State) : Res :=
  let s := s.at_ t
  .next (({ s with pwr := { s.pwr with clkLost := true, heldAt := s.clk } }).coldReset 1)

/-- SYS_REFCLK_RETURN (18 R623): the device restarts 100 us after the clock returns. -/
def execSysRefclkReturn (t : Nat) (s : State) : Res :=
  let s := s.at_ t
  .next (if s.pwr.clkLost then ({ s with pwr := { s.pwr with clkLost := false } }).released else s)

/-- THERMAL_COMPARATOR (18 R633): held in reset until power is removed and restored. -/
def execThermalComparator (s : State) : Res := .next (({ s with pwr := { s.pwr with dead := true } }).coldReset 0)

/-- NET_REFCLK_LOSS (18 R623): both ports of the die go down. -/
def execNetRefclkLoss (die t : Nat) (s : State) : Res :=
  let s := s.at_ t
  .next (if s.fusedDies ≤ die then s
    else [2 * die, 2 * die + 1].foldl (fun s n => if (s.netPort n).up then s.netDown n else s) s)

/-- DIE_TO_DIE_LINK_LOSS (16 R577): both ports of the die are lost. -/
def execDieToDieLinkLoss (die : Nat) (s : State) : Res :=
  .next (if s.fusedDies ≤ die then s
    else [2 * die, 2 * die + 1].foldl (fun s n =>
      if (s.netPort n).lost then s
      else
        let s := if (s.netPort n).up then s.netDown n else s.rasRecord (netPage n) 0x0C 2 n 0
        s.setNetPort n { s.netPort n with lost := true }) s)

/-! ### Start-up phases (17 R605, R607) -/

/-- The phase after one whose block has finished start-up. -/
def State.nextPhase (s : State) : Option Startup :=
  match s.start with
  | .memory => some .flash
  | .flash => if s.phaseDone then some .psa else none
  | .psa => if s.phaseDone then some .links else none
  | .links => some .ready
  | _ => none

/-- PHASE_END (17 R605). -/
def execPhaseEnd (t : Nat) (s : State) : Res :=
  let s := s.at_ t
  .next (
    if s.held then s
    else match s.nextPhase with
      | none => s
      | some p =>
        let s := s.setReg (pg 0x00 + 0x110 + 4 * (s.start.val - 2)) (w32 ((s.clk - s.phaseAt) / 1000000))
        let s := s.enterPhase p
        if p = .ready then s.raise 0x00 1 else s)

/-! ### Power (01 R29 to R33; 04 R147; 18 R616, R617) -/

/-- The power block works: the device is up. -/
def State.pwrOn (s : State) : Bool := s.mctpOn

/-- The steps of the power block govern the engine clock (18 R630; 01 R31). -/
def State.govern (s : State) : State :=
  ({ s with brn := { s.brn with gov := max s.pwr.powerStep s.pwr.tempStep } }).betweenOps

/-- AUX_W in mW (18 R617). -/
def State.auxMw (s : State) : Nat := s.cfgFld (pg pwrPage + 0x10C) 0 8 * 1000

/-- LIMIT_W in mW. -/
def State.limitMw (s : State) : Nat := s.cfgFld (pg pwrPage + 0x104) 0 11 * 1000

/-- The 64 us average of package power in mW (01 R29; 18 R617). -/
def State.avgMw (s : State) : Nat :=
  if s.pwr.frames = [] then 0 else s.pwr.frames.sum / s.pwr.frames.length + s.auxMw

/-- TELEMETRY_FRAME (18 R616, R617): a valid frame. -/
def execTelemetryFrame (t : Nat) (railsMw : List Nat) (coreMa : Nat) (s : State) : Res :=
  let s := s.at_ t
  .next (if !s.pwrOn then s
    else
      let p := s.pwr
      let since := if p.vrmHot then none else if p.okSince.isSome then p.okSince else some s.clk
      let free := match since with
        | some a => decide (a + 1000000 ≤ s.clk)
        | none => false
      { s with pwr := { p with
        frames := (railsMw.sum :: p.frames).take 64, frameAt := some s.clk, coreMa := coreMa, tlmOk := true,
        energy := p.energy + railsMw.sum + s.auxMw, okSince := since, forced := p.forced && !free } })

/-- VCORE out of range for 10 us is FATAL (16 R571). -/
def State.senseCore (s : State) (mv : Nat) : State :=
  let out := decide (mv < 600 ∨ 900 < mv)
  let since := if out then (if s.pwr.senseBad.isSome then s.pwr.senseBad else some s.clk) else none
  let s := { s with pwr := { s.pwr with senseMv := mv, senseBad := since } }
  match since with
  | some a => if a + 10000 ≤ s.clk ∧ s.ras.fatal.isNone then s.fatalError pwrPage 0x10 0 mv else s
  | none => s

/-- An action of 01 R29: the engine clock, or at its floor the PSA, one step down. -/
def State.powerDown (s : State) : State :=
  if s.brn.step = 8 then
    (if s.psa.powerLevel < 3 then s.setPsaLevels s.psa.tempLevel (s.psa.powerLevel + 1) else s)
  else if s.pwr.powerStep < 8 then
    (({ s with pwr := { s.pwr with powerStep := s.pwr.powerStep + 1 } }).bump (pg pwrPage + 0x180)).govern
  else s

/-- POWER_SAMPLE (01 R29, R30; 04 R147; 18 R617): the 64 us average, and VCORE at the die's sense point. -/
def execPowerSample (t mv : Nat) (s : State) : Res :=
  let s := s.at_ t
  .next (if !s.pwrOn then s
    else
      let s := s.senseCore mv
      let avg := s.avgMw
      let a := pg pwrPage + 0x190
      let s := if (s.reg a).toNat < avg / 1000 then s.setReg a (w32 (min (avg / 1000) 0x7FF)) else s
      let high := decide (s.limitMw < avg)
      let s := if high then s.raise pwrPage 0 else s
      let low := !s.pwr.forced && decide (avg * 100 < s.limitMw * 97)
      let since := if low then (if s.pwr.lowSince.isSome then s.pwr.lowSince else some s.clk) else none
      let s := { s with pwr := { s.pwr with lowSince := since } }
      if high || s.pwr.forced then s.powerDown else s)

/-- CLOCK_RAISE (01 R32; 04 R147): 1 ms below 97 % of the limit. -/
def execClockRaise (t : Nat) (s : State) : Res :=
  let s := s.at_ t
  .next (match s.pwr.lowSince with
    | none => s
    | some a =>
      if !s.pwrOn ∨ s.clk < a + 1000000 then s
      else
        let s := { s with pwr := { s.pwr with lowSince := some s.clk } }
        if 0 < s.psa.powerLevel then s.setPsaLevels s.psa.tempLevel (s.psa.powerLevel - 1)
        else if 0 < s.pwr.powerStep then ({ s with pwr := { s.pwr with powerStep := s.pwr.powerStep - 1 } }).govern
        else s)

/-- TELEMETRY_LOSS (18 R617): no valid frame for 16 us. -/
def execTelemetryLoss (t : Nat) (s : State) : Res :=
  let s := s.at_ t
  .next (
    let a := s.pwr.frameAt.getD s.resetAt
    if !s.pwrOn ∨ s.clk < a + 16000 ∨ (!s.pwr.tlmOk ∧ s.pwr.forced) then s
    else ({ s with pwr := { s.pwr with tlmOk := false, forced := true, okSince := none } }).count pwrPage 0x18C 4)

/-- VRM_HOT_L (18 R617). -/
def execVrmHotL (low : Bool) (s : State) : Res :=
  .next (
    let was := s.pwr.vrmHot
    if low then
      let s := { s with pwr := { s.pwr with vrmHot := true, forced := true, okSince := none } }
      if was then s else s.count pwrPage 0x188 3
    else { s with pwr := { s.pwr with vrmHot := false, okSince := if s.pwr.tlmOk then some s.clk else none } })

/-! ### Temperature (18 R629 to R632) -/

/-- A sensor of a unit that the part has (18 R629). -/
def State.sensorLive (s : State) (i : Nat) : Bool :=
  !(24 ≤ i && i < 32 && s.fusedStacks ≤ i - 24) && !(32 ≤ i && i < 34 && s.fusedDies ≤ i - 32)

/-- DRAM sensors (18 R629). -/
def dramSensor (i : Nat) : Bool := decide (20 ≤ i ∧ i < 32)

/-- The sample as the device holds it: absent units read 0. -/
def State.sampleTemps (s : State) (temps : List Nat) : List Nat :=
  (List.range 40).map (fun i => if s.sensorLive i then min (temps.getD i 0) 255 else 0)

/-- Sensors at or above their trip point (18 R632). -/
def hotSensors (v : List Nat) : List Nat :=
  (List.range 40).filter (fun i => decide ((if dramSensor i then 105 else 112) ≤ v.getD i 0))

/-- The temperature step after a sample (18 R630). -/
def State.tempGovern (s : State) (v : List Nat) : State :=
  let hot := (v.take 16).foldl max 0
  let eng := s.cfgFld (pg pwrPage + 0x108) 8 8
  let hyst := s.cfgFld (pg pwrPage + 0x108) 0 4
  if !bit (s.cfgReg (pg pwrPage + 0x100)) 0 then
    ({ s with pwr := { s.pwr with tempStep := 0, coolSince := none } }).govern
  else if eng ≤ hot then
    let s := { s with pwr := { s.pwr with coolSince := none } }
    if s.pwr.tempStep < 8 then
      (({ s with pwr := { s.pwr with tempStep := s.pwr.tempStep + 1 } }).count pwrPage 0x184 1).govern
    else s
  else if hot < eng - hyst then
    match s.pwr.coolSince with
    | none => { s with pwr := { s.pwr with coolSince := some s.clk } }
    | some a =>
      if a + 1000000 ≤ s.clk then
        ({ s with pwr := { s.pwr with tempStep := s.pwr.tempStep - 1, coolSince := some s.clk } }).govern
      else s
  else { s with pwr := { s.pwr with coolSince := none } }

/-- DRAM sensors whose refresh is doubled after a sample (18 R631). -/
def doubledAfter (old v : List Nat) : List Nat :=
  (List.range 40).filter (fun i => dramSensor i && (decide (85 < v.getD i 0) || (old.contains i && decide (82 ≤ v.getD i 0))))

/-- A sample while the device works. -/
def State.tempWork (s : State) (v : List Nat) : State :=
  let old := s.pwr
  let warn := (List.range 40).any (fun i => !dramSensor i && decide (105 ≤ v.getD i 0) && decide (old.temps.getD i 0 < 105))
  let hot := hotSensors v
  let s := { s with pwr := { s.pwr with temps := v, doubled := doubledAfter old.doubled v, hot := hot } }
  let s := if warn then s.raise pwrPage 2 else s
  let s := s.tempGovern v
  match hot with
  | i :: _ =>
    if old.hot = [] then s
    else ({ s with pwr := { s.pwr with trip := true } }).fatalError pwrPage 0x11 i (v.getD i 0)
  | [] => s

/-- TEMP_SAMPLE (18 R629 to R632): 40 sensors. -/
def execTempSample (t : Nat) (temps : List Nat) (s : State) : Res :=
  let s := s.at_ t
  .next (
    let v := s.sampleTemps temps
    if s.pwr.trip ∧ s.ras.fatal.isNone then
      let s := { s with pwr := { s.pwr with temps := v } }
      if v.all (fun x => decide (x ≤ 95)) then ({ s with pwr := { s.pwr with trip := false } }).released else s
    else if !s.pwrOn ∧ !s.pwr.trip then s
    else if s.pwr.trip then { s with pwr := { s.pwr with temps := v } }
    else s.tempWork v)

/-! ### The RAS block (16 R570, R575, R576) and MCTP (15 R544) -/

/-- CE_STORM_END (16 R576). -/
def execCeStormEnd (page t : Nat) (s : State) : Res :=
  let s := s.at_ t
  .next { s with ras := { s.ras with
    storms := s.ras.storms.filter (fun x => decide (x.page ≠ page ∨ s.clk < x.since + 1000000000)) } }

/-- The log is emptied. -/
def State.rasClear (s : State) : State := { s with ras := { s.ras with log := [] } }

/-- RAS_LOG_CLEAR (16 R575). -/
def execRasLogClear (src : Src) (s : State) : Res := .next (if !s.pageOn src rasPage then s else s.rasClear)

/-- PLDM_PLATFORM_EVENT (18 R627): the oldest waiting event is taken; SMB_ALERT_L stays asserted while more wait. -/
def execPldmPlatformEvent (s : State) : Res :=
  .next (match s.ras.plat with
    | r :: rest => if s.mctpOn then ({ s with ras := { s.ras with plat := rest } }).platSend r else s
    | [] => s)

/-- MCTP_CONTROL_MESSAGE (15 R544; 18 R628): answered from the end of VERIFY on, in recovery too. The spec gives no
content: command code, completion code 0, and free bytes. -/
def execMctpControlMessage (cmd : Nat) (_msg : List Byte) (s : State) : Res :=
  .next (if s.start = .verify ∨ s.held then s
    else
      let (bs, s) := s.freeBytes 16
      s.send (.mctp 0 ([BitVec.ofNat 8 cmd, 0] ++ bs)))

end Sys2Proof.Machine
end

