-- ==== Sys2Proof/Machine/Functions.lean ====
section
/-! DEFINITION. The functions of the host ports (11 R394, R397, R398, R400, R427; 12 R434): the windows of BAR2 and BAR4 and the
configuration spaces, as an access of a host reaches them. The rows of the table name a register by one address; above
BAR0's 1 MiB the model continues with the windows of the issuing port (DESIGN CHOICE, log 195):

- 0x10_0000 to 0x13_FFFF: BAR2, page q the doorbell page of queue set q;
- 0x14_0000 + 0x1_0000 l: BAR4 of LD l;
- 0x1C_0000 + 0x1000 l: configuration space of LD l. -/

namespace Sys2Proof.Machine

/-- First address past the windows. -/
def fnTop : Nat := 0x1C8000

/-! ### MSI-X (11 R398, R400) -/

/-- Pending vectors that are no longer masked are sent, the oldest first. -/
def State.msixFlush (s : State) (p : Nat) : State :=
  let f := s.fn p 0
  if s.portDown p ∨ s.start = .recovery ∨ !f.msixOn then s
  else (f.pba.filter (fun v => !f.holds v)).reverse.foldl (fun s v => s.send (.msix p v (f.vec v).addr (f.vec v).data))
    (s.setFn p 0 { f with pba := f.pba.filter f.holds })

/-- A word of an MSI-X table entry: address, upper address, data, vector control. -/
def MsixVec.word (m : MsixVec) (i : Nat) : Word :=
  if i = 0 then w32 m.addr else if i = 1 then w32 (m.addr / 2 ^ 32) else if i = 2 then m.data else w32 (b2n m.masked)

/-- A word of an MSI-X table entry, written. -/
def MsixVec.put (m : MsixVec) (i : Nat) (v : Word) : MsixVec :=
  if i = 0 then { m with addr := m.addr / 2 ^ 32 * 2 ^ 32 + v.toNat }
  else if i = 1 then { m with addr := m.addr % 2 ^ 32 + 2 ^ 32 * v.toNat }
  else if i = 2 then { m with data := v }
  else { m with masked := bit v 0 }

/-- A write to the window of BAR4 of a logical device at an offset: the MSI-X table of LD 0; the pending bits are read-only, a reader
LD has no table, and the CXL registers have rows of their own (11 R398). -/
def State.bar4Write (s : State) (p ld off : Nat) (v : Word) : State :=
  if ld ≠ 0 ∨ 0x1000 ≤ off then s
  else
    let f := s.fn p 0
    let k := off / 16
    (s.setFn p 0 { f with vecs := sset f.vecs MsixVec.reset k ((f.vec k).put (off % 16 / 4) v) }).msixFlush p

/-- What a read of the window of BAR4 returns (11 R398); none where the CXL 2.0 specification, not this one, gives the register. -/
def State.bar4Word (s : State) (p ld off : Nat) : Option Word :=
  let f := s.fn p 0
  if 0x8000 ≤ off then none
  else if ld ≠ 0 then some 0
  else if off < 0x1000 then some ((f.vec (off / 16)).word (off % 16 / 4))
  else if 0x2000 ≤ off ∧ off < 0x2020 then
    some (w32 (((List.range 32).map (fun i => if f.pba.contains (8 * (off - 0x2000) + i) then 2 ^ i else 0)).sum))
  else some 0

/-! ### Configuration space (11 R397, R398, R400; the layout of the header and the capabilities is that of PCI Express, PRESUMED, log 196) -/

/-- Size of the BAR whose low word is register `i` of a function; 0 where it implements none. -/
def barSize (ld i : Nat) : Nat :=
  if i = 4 then 0x10000 else if ld ≠ 0 then 0 else if i = 0 then 0x100000 else if i = 2 then 0x40000 else 0

/-- What BAR register `i` stores of a written word: the address above its size, with the type of a 64-bit, non-prefetchable BAR. -/
def barStore (ld i : Nat) (v : Word) : Word :=
  if i % 2 = 1 then (if barSize ld (i - 1) = 0 then 0 else v)
  else if barSize ld i = 0 then 0
  else w32 (v.toNat / barSize ld i * barSize ld i + 4)

/-- The capability headers of a function, and the words that are constants (11 R400). -/
def capWord (ld off : Nat) (cxl : Bool) : Word :=
  if off = 0x34 then 0x40
  else if off = 0x40 then (if ld = 0 then 0x00035001 else 0x00037001)
  else if off = 0x54 then (if ld = 0 then 0x00000004 else 0)
  else if off = 0x58 then (if ld = 0 then 0x00002004 else 0)
  else if off = 0x70 then 0x00020010
  else if off = 0x100 then 0x14020001
  else if off = 0x140 then (if cxl then 0x1602002E else 0x0002002E)
  else if cxl ∧ off = 0x160 then 0x1A010023
  else if cxl ∧ off = 0x164 then 0x03C11E98
  else if cxl ∧ off = 0x1A0 then 0x1D010023
  else if cxl ∧ off = 0x1A4 then 0x02401E98
  else if cxl ∧ off = 0x1A8 then 0x0008
  else if cxl ∧ off = 0x1D0 then 0x00010023
  else if cxl ∧ off = 0x1D4 then 0x01401E98
  else if cxl ∧ off = 0x1D8 then 0x0007
  else if cxl ∧ off = 0x168 then 0x0000
  else 0

/-- A word of a function's configuration space. -/
def State.cfgSpace (s : State) (p ld off : Nat) (n : FnId) : Word :=
  let f := s.fn p ld
  if off = 0x00 then w32 (n.device * 2 ^ 16 + n.vendor)
  else if off = 0x04 then w32 (0x100000 + f.cmd)
  else if off = 0x08 then w32 (n.cls * 2 ^ 8 + Config.siliconRev % 256)
  else if 0x10 ≤ off ∧ off < 0x28 then sget f.bars (barStore ld ((off - 0x10) / 4) 0) ((off - 0x10) / 4)
  else if off = 0x44 then (if f.d3hot then 3 else 0)
  else if off = 0x50 ∧ ld = 0 then w32 (2 ^ 31 * b2n f.msixOn + 2 ^ 30 * b2n f.fmask + 0x00FF7011)
  else capWord ld off (decide ((s.port p).mode = .sld ∨ (s.port p).mode = .mld))

/-- A write to a function's configuration space: the command register, the BARs, D0 and D3hot, and MSI-X enable and function mask. -/
def State.cfgSpaceWrite (s : State) (p ld off : Nat) (v : Word) : State :=
  let f := s.fn p ld
  if off = 0x04 then s.setFn p ld { f with cmd := (v &&& 0x546).toNat }
  else if 0x10 ≤ off ∧ off < 0x28 then
    let i := (off - 0x10) / 4
    s.setFn p ld { f with bars := sset f.bars (barStore ld i 0) i (barStore ld i v) }
  else if off = 0x44 then
    (if fld v 0 2 = 3 then s.setFn p ld { f with d3hot := true } else if fld v 0 2 = 0 then s.setFn p ld { f with d3hot := false } else s)
  else if off = 0x50 ∧ ld = 0 then (s.setFn p 0 { f with msixOn := bit v 31, fmask := bit v 30 }).msixFlush p
  else s

/-! ### An access of a host above BAR0 -/

/-- A write of an aligned word in the windows of a port: BAR2 takes the index doorbells and counts every other offset (12 R434, R435). -/
def State.fnWrite (s : State) (p a : Nat) (v : Word) : State :=
  if s.portDown p then s
  else if a < 0x140000 then
    let q := (a - 0x100000) / 0x1000
    if a % 0x1000 = 0 then s.dbTail p q v else if a % 0x1000 = 4 then s.dbHead p q v else s.dbIgnored p
  else if a < 0x1C0000 then
    let ld := (a - 0x140000) / 0x10000
    if (s.fnId p ld).isSome then s.bar4Write p ld (a % 0x10000) v else s
  else if a < fnTop then
    let ld := (a - 0x1C0000) / 0x1000
    if (s.fnId p ld).isSome then s.cfgSpaceWrite p ld (a % 0x1000) v else s
  else s

/-- A word of the windows of a port as its host reads it: the doorbells are write-only; nothing answers where there is no function;
a CXL register answers a free value. -/
def State.fnRead (s : State) (p a : Nat) : State :=
  let answer := fun (s : State) (v : Word) => s.send (.regRead (.port p) a v)
  if s.portDown p then s
  else if a < 0x140000 then answer s 0
  else if a < 0x1C0000 then
    let ld := (a - 0x140000) / 0x10000
    if (s.fnId p ld).isNone then s
    else match s.bar4Word p ld (a % 0x10000) with
    | some v => answer s v
    | none =>
      let (k, s) := s.fresh
      answer s (w32 (Config.freeNat k))
  else if a < fnTop then
    match s.fnId p ((a - 0x1C0000) / 0x1000) with
    | none => s
    | some n => answer s (s.cfgSpace p ((a - 0x1C0000) / 0x1000) (a % 0x1000) n)
  else s

end Sys2Proof.Machine
end

