-- ==== Sys2Proof/Machine/Tenant.lean ====
section
/-! DEFINITION. The tenant page (11 R419 to R423, R640), extents and their revocation (11 R401, R402, R415 to R418),
and commands over MCTP (11 R419). -/

namespace Sys2Proof.Machine

/-- Page of the tenant tables. -/
def tenPage : Nat := 0x6C

/-- An access that 11 R420 denies. -/
def State.tenDenied (s : State) : State := s.count tenPage 0x190 1

/-- `f` runs for an access by an allowed source; any other is denied (11 R419, R420). -/
def State.onTen (s : State) (src : Src) (f : State → State) : State :=
  if !s.pageOn src tenPage then s else if s.fmRoute src then f s else s.tenDenied

/-! ### The window (11 R421) -/

/-- Table and index that TEN_SEL names. -/
def State.tenSel (s : State) : Nat × Nat :=
  let v := s.reg (pg tenPage + 0x110)
  (fld v 16 3, fld v 0 10)

/-- The sixteen data registers. -/
def State.tenData (s : State) : List Word := (List.range 16).map (fun i => s.reg (pg tenPage + 0x140 + 4 * i))

/-- The data registers, set. -/
def State.setTenData (s : State) (ws : List Word) : State :=
  (List.range 16).foldl (fun s i => s.setReg (pg tenPage + 0x140 + 4 * i) (ws.getD i 0)) s

/-- RESULT of an operation. -/
def State.tenResult (s : State) (r : Nat) : State := { s with ten := { s.ten with result := r } }

/-- A read of the selected record (11 R421). -/
def State.tenRead (s : State) : State :=
  let (t, i) := s.tenSel
  if s.ten.busy.isSome then s
  else if tableSize t ≤ i then s.tenResult 1
  else (s.setTenData (s.record t i)).tenResult 0

/-! ### Checks of a record write (11 R422, R423; 03 R88, R89): the RESULT codes that a write meets -/

/-- A set bit outside the masks. -/
def maskBad (masks : List Word) (r : List Word) : Bool :=
  (List.range 16).any (fun i => decide ((r.getD i 0) &&& ~~~(masks.getD i 0) ≠ 0))

/-- Other valid records of a table. -/
def State.others (s : State) (t i : Nat) : List (List Word) :=
  ((s.records t).filter (fun e => decide (e.1 ≠ i) && rbit e.2 0 31)).map (fun e => e.2)

/-- A tenant has something that keeps its record valid. -/
def State.tenantUsed (s : State) (t : Nat) : Bool :=
  s.tier.psets.any (fun e => decide (e.2.tenant = t)) || s.dir.proofs.any (fun p => decide (p.tenant = t))
    || (s.records 1).any (fun e => rbit e.2 0 31 && decide (rfld e.2 0 0 16 = t))
    || (s.records 4).any (fun e => rbit e.2 0 31 && decide (rfld e.2 0 0 16 = t))
    || s.net.ctx.any (fun e => decide (e.2.state ≠ .reset ∧ e.2.tenant = t))

/-- Codes of a tenant record write. -/
def State.tenantCodes (s : State) (i : Nat) (old new : List Word) : List Nat :=
  let all : Word := 0xFFFFFFFF
  let id := rfld new 0 0 16
  (if id = 0xFFFF ∨ 1048576 < rfld new 2 0 21 then [1] else [])
  ++ (if rbit old 0 31 ∧ (!rbit new 0 31 ∨ id ≠ rfld old 0 0 16) ∧ s.tenantUsed (rfld old 0 0 16) then [2] else [])
  ++ (if maskBad [0x8002FFFF, 0xFFFF, 0x1FFFFF, 0, all, all, all, all, all, all] new ∨
        (rbit new 0 31 ∧ (s.others 0 i).any (fun r =>
          decide (rfld r 0 0 16 = id ∨ rfld r 1 0 16 = rfld new 1 0 16))) then [3] else [])

/-- Codes of a binding record write. -/
def State.bindingCodes (s : State) (i : Nat) (old new : List Word) : List Nat :=
  let port := i / 64
  let compat := ((s.records 1).filter (fun e =>
    decide (e.1 ≠ i ∧ e.1 / 64 = port) && rbit e.2 0 31 && rbit e.2 0 30)).length
  (if rfld new 0 0 16 = 0xFFFF ∨ (rbit new 0 31 ∧ rbit new 0 30 ∧ 8 ≤ compat) then [1] else [])
  ++ (if (s.qset port (i % 64)).state ≠ .disabled ∧ old.getD 0 0 ≠ new.getD 0 0 then [2] else [])
  ++ (if maskBad [0xC000FFFF] new then [3] else [])

/-- A valid descriptor outside its limits (03 R86, R88; 09 R303). -/
def modelBad (r : List Word) : Bool :=
  let m := modelOf r
  decide (m.keyForm = 3 ∨ m.id = 0xFFFF ∨ m.layers = 0 ∨ 1024 < m.layers ∨ m.blockLen < 16 ∨ 256 < m.blockLen
    ∨ m.blockLen % 16 ≠ 0 ∨ m.headDim < 32 ∨ 512 < m.headDim ∨ m.headDim % 16 ≠ 0 ∨ m.heads = 0 ∨ 256 < m.heads
    ∨ m.fmt = 0 ∨ 6 < m.fmt ∨ m.ropeDims % 2 = 1 ∨ m.headDim < m.ropeDims ∨ 2 ^ 21 < m.pageSize
    ∨ ((m.fmt = 3 ∨ m.fmt = 4) ∧ (m.blockLen % 32 ≠ 0 ∨ m.headDim % 32 ≠ 0)))

/-- A block of a model is resident (03 R87, R89). A resident weight object is no block here: the rule's "any block of a model" leaves it
open (DESIGN CHOICE, log 174). -/
def State.modelUsed (s : State) (id : Nat) : Bool :=
  s.dir.slots.any (fun e => e.2.resident && decide (e.2.key.model = id) && !(s.psetAt e.2.ps).object)

/-- Codes of a model record write: while a block of the model is resident every write to its valid descriptor is refused, also one of the
same words (03 R89). -/
def State.modelCodes (s : State) (i : Nat) (old new : List Word) : List Nat :=
  let all : Word := 0xFFFFFFFF
  (if rbit old 0 31 ∧ s.modelUsed (rfld old 0 0 16) then [2] else [])
  ++ (if maskBad [0x8003FFFF, 0xFFFF01FF, all, 0xFF, all, 0xFFFF, all, all] new ∨
        (rbit new 0 31 ∧ (modelBad new ∨ (s.others 2 i).any (fun r => decide (rfld r 0 0 16 = rfld new 0 0 16)))) then [3]
      else [])

/-- Ranges of two extents overlap in DPA. -/
def extOverlap (a b : List Word) : Bool :=
  decide (rfld a 2 0 11 < rfld b 2 0 11 + rfld b 0 16 12 ∧ rfld b 2 0 11 < rfld a 2 0 11 + rfld a 0 16 12)

/-- The write takes access away from an active extent: it clears a READ_MASK bit or WRITER_EN, changes WRITER, SIZE or DPA_BASE, or
frees an extent that still has a reader or the writer (11 R423). -/
def extTakes (old new : List Word) : Bool :=
  let mo := rfld old 0 0 16
  let gone := decide (mo &&& rfld new 0 0 16 ≠ mo)
  let w := bit (old.getD 1 0) 4
  let wr := w && (!bit (new.getD 1 0) 4 || decide (rfld old 1 0 4 ≠ rfld new 1 0 4))
  let moved := decide (rfld old 0 16 12 ≠ rfld new 0 16 12 ∨ rfld old 2 0 11 ≠ rfld new 2 0 11)
  gone || wr || moved || (decide (rfld new 0 30 2 = 0) && (decide (mo ≠ 0) || w))

/-- T1 bytes of an extent. -/
def extBytes (r : List Word) : Nat := rfld r 0 16 12 * 2 ^ 28

/-- The limit that an activation is held to (11 R401, R429). -/
def State.exportLimit (s : State) : Nat := if s.reached .memory then s.exportLimitMib else 0

/-- T1 room for an activation (06 R219; 11 R423). -/
def State.extRoom (s : State) : Int := (s.rooms (2 ^ 16) 1).2

/-- Codes of an extent record write. -/
def State.extentCodes (s : State) (i : Nat) (old new : List Word) : List Nat :=
  let st := rfld new 0 30 2
  let was := rfld old 0 30 2
  let fresh := decide (was = 0 ∧ st = 1)
  (if 2 ≤ st ∨ (st = 1 ∧ rfld new 0 16 12 = 0) then [1] else [])
  ++ (if was = 2 then [2] else [])
  ++ (if maskBad [0xCFFFFFFF, 0x1F, 0x7FF] new ∨
        (bit (new.getD 1 0) 4 ∧ (rfld new 0 0 16).testBit (rfld new 1 0 4) = false)
          ∨ 2048 < rfld new 2 0 11 + rfld new 0 16 12 ∨
        (st = 1 ∧ ((s.records 3).any (fun e => decide (e.1 ≠ i ∧ rfld e.2 0 30 2 ≠ 0) && extOverlap e.2 new))) then [3] else [])
  ++ (if was = 1 ∧ extTakes old new then [4] else [])
  ++ (if fresh ∧ s.extRoom < extBytes new then [5] else [])
  ++ (if fresh ∧ s.exportLimit < s.exportedMib + 256 * rfld new 0 16 12 then [6] else [])

/-- Codes of a host extent record write. -/
def State.hextCodes (s : State) (i : Nat) (old new : List Word) : List Nat :=
  let all : Word := 0xFFFFFFFF
  let size := wd64 new 3
  let lower := fun (b : Nat) => rbit old 0 b && !rbit new 0 b
  (if rbit new 0 31 ∧ (size % 4096 ≠ 0 ∨ size < 4096 ∨ rfld new 0 0 16 = 0xFFFF) then [1] else [])
  ++ (if s.hextRevoking i then [2] else [])
  ++ (if maskBad [0xE001FFFF, 0xFFFFF000, all, all, all] new then [3] else [])
  ++ (if rbit old 0 31 ∧ (lower 31 ∨ lower 30 ∨ lower 29 ∨ rfld old 0 0 17 ≠ rfld new 0 0 17 ∨ wd64 old 1 ≠ wd64 new 1
        ∨ wd64 old 3 ≠ size) then [4] else [])

/-- Codes that a write meets; the lowest is its RESULT. -/
def State.tenCodes (s : State) (t i : Nat) (new : List Word) : List Nat :=
  let old := s.record t i
  if tableSize t ≤ i then [1]
  else if t = 0 then s.tenantCodes i old new
  else if t = 1 then s.bindingCodes i old new
  else if t = 2 then s.modelCodes i old new
  else if t = 3 then s.extentCodes i old new
  else s.hextCodes i old new

/-- A write of the data registers to the selected record (11 R421, R423). -/
def State.tenWrite (s : State) : State :=
  let (t, i) := s.tenSel
  let new := s.tenData
  let codes := s.tenCodes t i new
  if s.ten.busy.isSome then s
  else match codes with
    | c :: r =>
      let low := r.foldl min c
      let s := (s.tenResult low).count tenPage 0x18C 0
      if low = 5 then { s with ten := { s.ten with short := (extBytes new - s.extRoom).toNat } } else s
    | [] =>
      let old := s.record t i
      if t = 3 ∧ rfld old 0 30 2 = 0 ∧ rfld new 0 30 2 = 1 then { s with ten := { s.ten with busy := some (i, new) } }
      else
        let s := if t = 3 ∧ rfld old 0 30 2 = 1 ∧ rfld new 0 30 2 = 0 then
            { s with cxl := s.cxl.clear (rfld old 2 0 11 * 2 ^ 28) (extBytes old) }
          else s
        (s.setRecord t i new).tenResult 0

/-- TEN_OP_READ (11 R421). -/
def execTenOpRead (src : Src) (s : State) : Res := .next (s.onTen src State.tenRead)

/-- TEN_OP_WRITE (11 R421, R423). -/
def execTenOpWrite (src : Src) (s : State) : Res := .next (s.onTen src State.tenWrite)

/-- Room for `b` bytes is freed in T1 for an extent: retained copies, then entries of any tenant (06 R219; 11 R423);
recursion on fuel. -/
def State.freeT1 : Nat → State → Nat → State
  | 0, s, _ => s
  | n + 1, s, b =>
    if b ≤ s.freeSpace 1 then s
    else
      match s.releasable 1 (fun _ => true) with
      | e :: _ => State.freeT1 n (s.releaseCopy e.1 1) b
      | [] =>
        if !s.endReady then s
        else match s.roomEntries 1 with
          | e :: _ => State.freeT1 n (((s.endNow e.1).bump (pg 0x18 + 0x19C)).bump (pg 0x19 + 0x18C)) b
          | [] => s

/-- An activation takes `b` bytes of T1: it waits while points must pass first, else the extent's T1 reads as zero, and is no cache
in front of T2 (01 R26). -/
def State.extentTake (s : State) (i : Nat) (r : List Word) (b : Nat) : State :=
  let s := s.freeT1 (s.dir.slots.length + s.tier.psets.length + 1) b
  if s.freeSpace 1 < b then s
  else
    let s := { s with cxl := s.cxl.clear (rfld r 2 0 11 * 2 ^ 28) b }
    let s := s.setRecord 3 i r
    let s := { s with hlt := { s.hlt with deadExt := s.hlt.deadExt.filter (fun e => decide (e.1 ≠ i)) } }
    let s := s.cacheTrim s.pfs.cache.length
    { s with ten := { s.ten with busy := none, result := 0 } }

/-- EXTENT_ACTIVATE (11 R407, R421): the room is free and the extent's T1 reads as zero; while points must pass first,
BUSY stays. -/
def execExtentActivate (s : State) : Res :=
  .next (match s.ten.busy with
    | none => s
    | some (i, r) => s.extentTake i r (extBytes r))

/-- A write of TEN_FM (11 R419, R429). -/
def State.tenFmWrite (s : State) (v : Word) : State := if fld v 0 2 = 3 then s else s.setFm (fld v 0 2)

/-- TEN_FM (11 R419, R429). -/
def execTenFm (src : Src) (v : Word) (s : State) : Res := .next (s.onTen src (fun s => s.tenFmWrite v))

/-! ### Revocation (11 R415 to R418) -/

/-- A host read of a DMA descriptor is still outstanding. -/
def State.readOpen (s : State) (c : Nat × Nat) : Bool :=
  match (s.chan c.1).desc with
  | some d => decide (d.n = c.2 ∧ d.flight ≠ [])
  | none => false

/-- A revocation has drained: the record takes its new content and the command completes (11 R417). -/
def State.revokeEnd (s : State) (r : Revoke) : State :=
  let t := if r.kind = 0 then 3 else 4
  let e := s.record t r.index
  let ports : List Nat := if r.kind = 0 then (List.range 2).filter (fun p =>
      decide (nfld r.clearMask (8 * p) 8 ≠ 0) || (r.clearWriter && decide (rfld e 1 3 1 = p)))
    else [rfld e 0 16 1]
  let new : List Word := if r.kind = 0 then
      let m := rfld e 0 0 16
      let w1 := e.getD 1 0
      [w32 (2 ^ 30 + rfld e 0 16 12 * 2 ^ 16 + (m - (m &&& r.clearMask))),
       if r.noWriter e then w1 &&& 0xF else w1] ++ e.drop 2
    else [(e.getD 0 0) &&& 0x7FFFFFFF] ++ e.drop 1
  let s := s.setRecord t r.index new
  let s := { s with ten := { s.ten with revs := s.ten.revs.filter (fun x => decide (x.id ≠ r.id)) } }
  let s := ports.foldl (fun s p => s.raise (hptPage p) 4) s
  s.done r.id 0 [0, 0, 0, 0]

/-- Nothing of a revocation is outstanding. -/
def State.revokeDrained (s : State) (r : Revoke) : Bool := decide (r.cxl = []) && !r.reads.any s.readOpen

/-- EXTENT_REVOKE (00 R16; 11 R415 to R418): the revocation stands since its acceptance; with nothing outstanding it ends at once. -/
def execExtentRevoke (id : Nat) (s : State) : Res :=
  .next (s.onNew id 0x14 (fun l s =>
    match s.ten.revs.find? (fun r => decide (r.id = id)) with
    | none => s.fail id (l.settled.getD .notFound)
    | some r => if s.revokeDrained r then s.revokeEnd r else s.setRunning id))

/-- REVOKE_DRAIN_END (11 R417). -/
def execRevokeDrainEnd (id : Nat) (s : State) : Res :=
  .next (match s.ten.revs.find? (fun r => decide (r.id = id)) with
    | none => s
    | some r => if s.revokeDrained r then s.revokeEnd r else s)

/-! ### Commands over MCTP (11 R419) -/

/-- The tenant of a command over MCTP: none, a number that no record carries. -/
def noTenant : Nat := 2 ^ 16

/-- MCTP_COMMAND (11 R419): one 64-byte command is accepted; its completion goes back over MCTP. -/
def execMctpCommand (ws : List Word) (s : State) : Res :=
  .next (
    if s.start = .recovery ∨ s.start = .verify ∨ s.sec.halted then s
    else
      let id := s.que.nextId
      if fld (ws.getD 0 0) 8 8 = 2 then s.acceptRun .mctp noTenant false (ws.take 16) (wd64 ws 2) none
      else (s.accept .mctp noTenant false (ws.take 16) (wd64 ws 2)).fail id .badCommand)

end Sys2Proof.Machine
end

