-- ==== Sys2Proof/Machine/RegRead.lean ====
section
/-! DEFINITION. What a read of a register page returns (17 R585 to R592, R607 to R609 and the register tables of every chapter):
the words that report a block's state, computed from that state, the banks that CTRL.VIEW_PENDING selects, and latched
HI words. -/

namespace Sys2Proof.Machine

/-- A value in units of `u`, as the register at `a` reports it. -/
def inUnit (a v u : Nat) : Nat := v / u + (if v % u = 0 then 0 else Config.regRound a v % 2)

/-- MiB, rounded up (06 R230). -/
def mibUp (v : Nat) : Nat := ceilDiv' v (2 ^ 20)

/-- Bits of the indices below `n` that meet `p`. -/
def bitsOf (n : Nat) (p : Nat → Bool) : Nat := ((List.range n).map (fun i => if p i then 2 ^ i else 0)).sum

/-- GLB registers (17 R607). -/
def State.glbRead (s : State) (off : Nat) : Option Nat :=
  if off = 0x100 then some (2 ^ 31 * b2n (decide (s.start = .ready)) + s.start.val)
  else if off = 0x120 then some s.uptime
  else if off = 0x124 then some (s.uptime / 2 ^ 32)
  else if 0x130 ≤ off ∧ off ≤ 0x13C then
    some (bitsOf 32 (fun i => decide (s.intPend (8 * (off - 0x130) + i) ≠ 0)))
  else none

/-- A network port has not failed and its I/O die is there (17 R608). -/
def State.portLive (s : State) (n : Nat) : Bool := s.netExists n && !(s.netPort n).failed && !(s.netPort n).lost

/-- IDENT registers (17 R608). -/
def State.identRead (s : State) (a off : Nat) : Option Nat :=
  if off = 0x100 then some 0x7A071F3C
  else if off = 0x104 then some (Config.siliconRev % 256)
  else if off = 0x108 then some (s.fusedStacks * 256 + s.fusedDies)
  else if off = 0x10C then some Config.serial
  else if off = 0x110 then some (Config.serial / 2 ^ 32)
  else if off = 0x118 then
    some (3 * 2 ^ 16
      + 2 ^ 12 * bitsOf s.fusedDies (fun d => !(s.netPort (2 * d)).lost)
      + 2 ^ 8 * bitsOf 4 s.portLive + bitsOf s.fusedStacks (fun k => !s.hlt.dead.contains k))
  else if off = 0x11C then some (inUnit a (s.liveStacks * 48000000000) (2 ^ 20))
  else if off = 0x120 then some (100 * ((List.range 4).filter s.portLive).length)
  else none

/-- CFG registers (17 R609). -/
def State.cfgRead (s : State) (off : Nat) : Option Nat :=
  if off = 0x100 then
    some (2 ^ 31 * b2n s.cfg.armed.isSome + 2 ^ 30 * b2n (s.cfg.armed.any (fun c => c.rollback))
      + 2 ^ 29 * b2n s.cfg.prevValid + 2 ^ 28 * b2n s.cfg.joined + s.cfg.last)
  else if off = 0x104 then some s.cfg.fail.toNat
  else if off = 0x108 then some s.cfg.edition
  else if off = 0x10C then some (s.cfg.edition / 2 ^ 32)
  else if off = 0x110 then some s.cfg.prevEdition
  else if off = 0x114 then some (s.cfg.prevEdition / 2 ^ 32)
  else if off = 0x118 then some s.cfg.applied
  else if off = 0x11C then some (s.cfg.applied / 2 ^ 32)
  else none

/-- STATE of the stroke timer (02 R82). -/
def Sync.code : Sync → Nat
  | .acquiring => 0 | .locked => 1 | .holdover => 2 | .unlocked => 3

/-- STK registers (02 R82). HOLD_EST reads 0 outside HOLDOVER, where the spec keeps no estimate (DESIGN CHOICE, log 148);
STK_OFFSET is the low 32 bits of an offset that does not fit them (DESIGN CHOICE, log 175). -/
def State.stkRead (s : State) (a off : Nat) : Option Nat :=
  if off = 0x110 then some s.stk.stroke
  else if off = 0x114 then some (s.stk.stroke / 2 ^ 32)
  else if off = 0x118 then some (BitVec.ofInt 32 s.stk.offset).toNat
  else if off = 0x120 then
    let est := if s.stk.sync = .holdover then min (inUnit a s.holdEst 1000000000) 0xFFFF else 0
    let pps := match s.stk.ppsAt with
      | some t => decide (s.clk < t + 1500000000)
      | none => false
    some (est * 2 ^ 16 + 8 * b2n s.stk.overcommit + 4 * b2n pps + s.stk.sync.code)
  else none

/-- PSA registers of page 0x07 (04 R156). -/
def State.psaRead (s : State) (off : Nat) : Option Nat :=
  let base := if s.reached .memory then Config.psaImageBase.toNat else 0
  if off = 0x108 then
    some (min s.psa.tempC 255 * 2 ^ 24 + s.psaLevel * 16 + s.psa.powerLevel * 4 + s.psa.tempLevel)
  else if off = 0x118 then some base
  else if off = 0x11C then some (base / 2 ^ 32)
  else if off = 0x1A0 then some (min (s.psaSlots / 40960) (2 ^ 32 - 1))
  else none

/-- STATE of a bank (04 R156). -/
def BState.code : BState → Nat
  | .empty => 0 | .active => 1 | .draining => 2 | .failed => 3

/-- Segments of a bank with exactly one free slot (04 R156). -/
def Bank.tight (b : Bank) : Nat :=
  (((b.rows.map (fun e => e.1 / segSlots b.width)).eraseDups).filter (fun g => decide (b.segFree g = 1))).length

/-- Bank registers (04 R156). -/
def State.bankRead (s : State) (i off : Nat) : Option Nat :=
  let b := s.bank i
  if off = 0x104 then some (b.state.code * 2 ^ 30 + b.rows.length)
  else if off = 0x108 then some b.free
  else if off = 0x10C then some b.tight
  else if off = 0x110 then some b.scrub
  else none

/-- Directory slots in a state. -/
def State.slotsIn (s : State) (p : SState → Bool) : Nat := (s.dir.slots.filter (fun e => p e.2.state)).length

/-- DIR registers (05 R199): 0 until the directory has been recovered. -/
def State.dirRead (s : State) (off : Nat) : Option Nat :=
  let base := if s.reached .memory then Config.dirBase.toNat else 0
  let on := fun (v : Nat) => some (if s.reached .flash then v else 0)
  if off = 0x110 then some base
  else if off = 0x114 then some (base / 2 ^ 32)
  else if off = 0x118 then on s.dirSeq
  else if off = 0x11C then on (s.dirSeq / 2 ^ 32)
  else if off = 0x120 then on s.dirSmin
  else if off = 0x124 then on (s.dirSmin / 2 ^ 32)
  else if off = 0x128 then on s.flm.mark
  else if off = 0x12C then on (s.flm.mark / 2 ^ 32)
  else if off = 0x180 then on (s.slotsIn (fun x => decide (x ≠ .free)))
  else if off = 0x184 then on (s.slotsIn (fun x => decide (x = .current ∨ x = .retiring)))
  else if off = 0x188 then on (s.slotsIn (fun x => decide (x = .ended)))
  else if off = 0x18C then on s.dir.proofs.length
  else none

/-- Bytes of the T1 cache that holds T2 copies. -/
def State.cacheBytes (s : State) : Nat :=
  ((s.pfs.cache.filter (fun c => (s.moveOf c.pset).isNone)).map (fun c => (s.psetAt c.pset).pageSize)).sum

/-- TIER registers (06 R230): capacities and charges in MiB rounded up, quotas rounded down; 0 until start-up has set
them. -/
def State.tierRead (s : State) (off : Nat) : Option Nat :=
  let ten := fld (s.reg (pg 0x19 + 0x140)) 0 16
  let on := fun (v : Nat) => some (if s.reached .psa then v else 0)
  let of := fun (v : Nat) => on (if (s.tenantRec ten).isSome then v else 0)
  if off = 0x120 ∨ off = 0x124 ∨ off = 0x128 then on (mibUp (s.capacity ((off - 0x120) / 4)))
  else if off = 0x12C ∨ off = 0x130 ∨ off = 0x134 then on (mibUp (s.freeSpace ((off - 0x12C) / 4)))
  else if off = 0x138 then on (mibUp s.cacheBytes)
  else if off = 0x144 ∨ off = 0x148 ∨ off = 0x14C then of (mibUp (s.tenantCharge ten ((off - 0x144) / 4)))
  else if off = 0x150 ∨ off = 0x154 ∨ off = 0x158 then some (s.quota ten ((off - 0x150) / 4) / 2 ^ 20)
  else if off = 0x15C then of (s.openRsvs ten)
  else none

/-- PFS registers (07 R267). -/
def State.pfsRead (s : State) (a off : Nat) : Option Nat :=
  let v := s.plan (fld (s.reg (pg 0x1A + 0x120)) 0 8)
  if off = 0x124 then some (v.gen * 2 ^ 24 + 2 ^ 23 * b2n v.valid + (if v.valid then v.model else 0))
  else if off = 0x128 then
    let low := (v.layers.filter (fun e => (s.currentSlots e.2).any (fun i => decide ((s.psetAt (s.slot i).ps).level = 2)))).length
    some (if v.valid then low * 2 ^ 16 + v.count else 0)
  else if off = 0x12C then some (inUnit a s.heldBytes (2 ^ 20))
  else if off = 0x130 then some s.stageUsed
  else if off = 0x134 then
    let n := (s.pfs.repairs.filter (fun r => decide (r.st = .waiting))).length
    some (n * 2 ^ 16 + (s.pfs.repairs.length - n))
  else if off = 0x138 then some s.pfs.lastDir
  else if off = 0x13C then some s.pfs.lastPage
  else none

/-- STATE of a core (08 R300). -/
def State.coreCode (s : State) (c : Nat) : Nat :=
  if (s.core c).failed then 2
  else if bit (s.core c).cfg 8 = false then 3
  else if (s.liveOf c).length < 8 then 1 else 0

/-- BRN registers of core `c` (08 R300). -/
def State.brnRead (s : State) (c off : Nat) : Option Nat :=
  if off = 0x104 then
    some (s.coreCode c * 2 ^ 30 + 2 ^ 8 * bitsOf 8 (fun e => (s.engine c e).failed) + bitsOf 8 (s.engLive c))
  else if off = 0x108 then some (s.core c).cause.toNat
  else if off = 0x110 then some (s.sliceServer c)
  else if c = 0 ∧ off = 0x20C then
    some (stepKhz s.brn.step / 1000 * 2 ^ 16 + s.brn.gov * 2 ^ 8 + s.brn.cap * 2 ^ 4 + s.brn.step)
  else if c = 0 ∧ off = 0x228 then some s.arrayBusy
  else if c = 0 ∧ off = 0x22C then some (s.arrayBusy / 2 ^ 32)
  else if c = 0 ∧ off = 0x218 then some (s.liveCores.length * 2 ^ 8 + s.liveEngines)
  else none

/-- NPA registers (09 R339). -/
def State.npaRead (s : State) (a off : Nat) : Option Nat :=
  if off = 0x120 then
    let w := (s.npa.jobs.filter (fun j => match j.stage with
      | .merge _ _ => true
      | _ => false)).length
    let early := (s.que.live.filter (fun l => attendClass l.op && decide (l.phase = .accepted) && !l.compat)).length
    some (w * 2 ^ 16 + (s.npa.jobs.length + early) % 2 ^ 16)
  else if off = 0x124 then some (inUnit a s.npaStaged (2 ^ 20))
  else none

/-- Flash map recovery of this start has finished. -/
def State.flashKnown (s : State) : Bool := s.reached .flash || (decide (s.start = .flash) && s.phaseDone)

/-- Dies of a channel in a state. -/
def Flm.diesIn (f : Flm) (ch : Nat) (p : DState → Bool) : Nat :=
  (f.die.filter (fun e => decide (dieChannel (e.1 / 32) (e.1 % 32) = ch) && p e.2.st)).length

/-- Erase counts of the good blocks of live dies. -/
def Flm.goodErases (f : Flm) : List Nat :=
  (f.die.filter (fun e => decide (e.2.st = .live))).flatMap (fun e =>
    ((List.range f.geom.blocks).filter (fun b => !e.2.bad.contains b)).map (fun b => sget e.2.erases 0 b))

/-- Least element; 0 of an empty list. -/
def leastOf : List Nat → Nat
  | [] => 0
  | x :: r => r.foldl min x

/-- FLM registers of page 0x38 alone (10 R391). -/
def State.flmChipRead (s : State) (a off : Nat) : Option Nat :=
  let f := s.flm
  if off = 0x240 then some f.units
  else if off = 0x244 then some f.geom.ldpc
  else if off = 0x248 then some f.sbTotal
  else if off = 0x24C then some f.meta_
  else if off = 0x250 then some f.slc
  else if off = 0x254 then some f.freeSlc
  else if off = 0x258 then some f.freeNative
  else if off = 0x25C then some (2 ^ 31 * b2n f.readOnly + 2 ^ 30 * b2n f.rebuild + 2 ^ 29 * b2n f.jfull + f.mode)
  else if off = 0x260 then some (f.credit / 256)
  else if off = 0x264 then some f.spareLevel
  else if off = 0x268 then some (leastOf f.goodErases)
  else if off = 0x26C then some (f.goodErases.foldl max 0)
  else if off = 0x270 then some f.stip.length
  else if off = 0x274 then some f.jdurable
  else if off = 0x278 then some (f.jdurable / 2 ^ 32)
  else if off = 0x27C then some (inUnit a f.jused (2 ^ 20))
  else if off = 0x280 then some f.recoverMs
  else none

/-- FLM registers of group `g` (10 R391): 0 until recovery has found the dies. -/
def State.flmRead (s : State) (g a off : Nat) : Option Nat :=
  let f := s.flm
  let v : Option Nat :=
    if off = 0x104 then
      some (2 ^ 8 * bitsOf 8 (fun i => decide (f.rates.getD (8 * g + i) 0 = 0))
        + bitsOf 8 (fun i => decide (f.rates.getD (8 * g + i) 0 ≠ 0)))
    else if 0x120 ≤ off ∧ off ≤ 0x13C then
      let ch := 8 * g + (off - 0x120) / 4
      some (f.rates.getD ch 0 * 2 ^ 28 + f.targets.getD ch 0 * 2 ^ 24 + f.diesIn ch (fun x => decide (x = .live)) * 2 ^ 16
        + f.excluded.getD ch 0 * 2 ^ 8 + f.diesIn ch (fun x => decide (x = .failed ∨ x = .rebuilt)))
    else if g = 0 then s.flmChipRead a off
    else none
  v.map (fun n => if s.flashKnown then n else 0)

/-- MODE (11 R393, R428). -/
def Mode.code : Mode → Nat
  | .down => 0 | .pcie => 1 | .sld => 2 | .mld => 3

/-- HPT registers (11 R428). -/
def State.hptRead (s : State) (p off : Nat) : Option Nat :=
  let v := s.port p
  if off = 0x108 then some (v.mode.code * 2 ^ 30 + v.ldUp * 2 ^ 16 + v.width * 2 ^ 8 + v.speed) else none

/-- STATE of a queue set (12 R465). -/
def QState.code : QState → Nat
  | .disabled => 0 | .enabled => 1 | .draining => 2

/-- QUE registers of page 0x48 + `k` (12 R465). -/
def State.queRead (s : State) (k a off : Nat) : Option Nat :=
  if 0x400 ≤ off ∧ off < 0x800 then
    let p := k / 4
    let q := 16 * (k % 4) + (off - 0x400) / 0x40
    let o := off % 0x40
    let x := s.qset p q
    if o = 0x14 then some ((s.reg a).toNat + 2 * b2n (s.compatSet p q))
    else if o = 0x1C then some (x.state.code * 2 ^ 30 + 2 ^ 29 * b2n x.cfgErr + x.cqTail * 2 ^ 12 + x.sqHead)
    else none
  else none

/-- STATE of a channel (12 R466). -/
def ChState.code : ChState → Nat
  | .stopped => 0 | .running => 1 | .idle => 2 | .halted => 3

/-- DMA registers of page 0x50 + `k` (12 R466). -/
def State.dmaRead (s : State) (k off : Nat) : Option Nat :=
  if k = 0 ∧ off = 0x104 then some (2 ^ 31 * b2n s.dma.halted + s.dma.errCh * 2 ^ 8 + s.dma.cause)
  else if 0x400 ≤ off ∧ off < 0x600 then
    let v := s.chan (8 * k + (off - 0x400) / 0x40)
    let o := off % 0x40
    if o = 0x08 then some (v.state.code * 2 ^ 30 + v.cause * 2 ^ 16 + min v.links 63 * 2 ^ 8 + v.last)
    else if o = 0x0C then some v.residue
    else if o = 0x10 then some v.next
    else if o = 0x14 then some (v.next / 2 ^ 32)
    else none
  else none

/-- NET registers (13 R506): while the port is down no lane is locked. -/
def State.netRead (s : State) (n off : Nat) : Option Nat :=
  let v := s.netPort n
  if off = 0x104 then
    some (2 ^ 28 * b2n v.failed
      + (if v.up then 2 ^ 31 + 2 ^ 30 + 2 ^ 29 * b2n (bit (s.cfgReg (pg (netPage n) + 0x100)) 3) + 0xFF else 0))
  else none

/-- Contexts on chip: those of the cache, or without spill those not in RESET. -/
def State.ctxOnChip (s : State) : Nat :=
  if s.spillOn then s.net.cached.length
  else (s.net.ctx.filter (fun e => decide (e.2.state ≠ .reset))).length

/-- XPT registers (13 R507). -/
def State.xptRead (s : State) (off : Nat) : Option Nat :=
  if off = 0x178 then some s.net.ctxResult
  else if off = 0x180 then some s.ctxOnChip
  else if off = 0x184 then some s.pinned
  else if off = 0x188 then some s.net.armed.length
  else if off = 0x18C then some s.net.tags.length
  else if off = 0x190 then some s.net.reqs.length
  else none

/-- Credit of a class in whole bytes (14 R531), signed. -/
def State.creditBytes (s : State) (n c a : Nat) : Nat :=
  let x := ((s.settleCredit n).gate n).credit.getD c 0
  let up : Int := if x % 640000 = 0 then 0 else ((Config.regRound a (BitVec.ofInt 64 x).toNat % 2 : Nat) : Int)
  (BitVec.ofInt 32 (x / 640000 + up)).toNat

/-- GATE registers (14 R531). -/
def State.gateRead (s : State) (n a off : Nat) : Option Nat :=
  let g := s.gate n
  if off = 0x120 then
    let x := s.gateNow n
    some (2 ^ 31 * b2n (s.freeRun n) + 2 ^ 30 * b2n g.pend.isSome + 2 ^ 29 * b2n g.basePassed + x.2.1 * 2 ^ 16
      + 2 ^ 8 * b2n x.2.2 + x.1)
  else if off = 0x124 then some g.takeStroke
  else if off = 0x128 then some (g.takeStroke / 2 ^ 32)
  else if off = 0x12C then some g.takeOff
  else if off = 0x130 then some g.op.cycle
  else if 0x200 ≤ off ∧ off < 0x280 ∧ off % 16 = 8 then some (s.creditBytes n ((off - 0x200) / 16) a)
  else if 0x800 ≤ off ∧ bit (s.reg (pg (gatePage n) + 0x118)) 0 then
    let e := g.op.list.getD ((off - 0x800) / 8) (0, 0)
    some (if off % 8 = 0 then e.1 else e.2)
  else none

/-- TEN registers (11 R429). -/
def State.tenRegRead (s : State) (off : Nat) : Option Nat :=
  if off = 0x118 then some (2 ^ 31 * b2n s.ten.busy.isSome + s.ten.result)
  else if off = 0x120 then some s.ten.short
  else if off = 0x124 then some (s.ten.short / 2 ^ 32)
  else if off = 0x180 then some ((s.records 0).filter (fun e => rbit e.2 0 31)).length
  else if off = 0x184 then some s.exportedMib
  else if off = 0x188 then some s.exportLimit
  else none

/-- SEC registers (15 R560). -/
def State.secRead (s : State) (off : Nat) : Option Nat :=
  let c := s.sec
  if off = 0x100 then
    some (c.source * 2 ^ 30 + 2 ^ 29 * b2n (decide (s.start = .recovery)) + c.spi * 2 ^ 27 + c.keySlot * 2 ^ 16 + c.cause)
  else if off = 0x104 then some c.version
  else if off = 0x108 then some (c.imageSvn * 2 ^ 8 + c.fuse.svn)
  else if off = 0x10C then
    some (c.keySlot * 2 ^ 16 + c.fuse.revoked % 16 * 2 ^ 8 + bitsOf 4 (fun k => (c.fuse.keys.getD k none).isSome))
  else if off = 0x110 then some (2 ^ 8 * b2n c.fuse.debugOpen + c.fuse.life)
  else if off = 0x118 then some (2 ^ 31 * b2n c.fuseCmd.isSome + c.fuseResult)
  else if off = 0x124 then some (c.rcvState * 2 ^ 30 + c.rcvOwner * 2 ^ 29 + c.rcvCause)
  else if off = 0x140 then some (c.updState * 2 ^ 29 + c.updSource * 2 ^ 8 + c.updCause)
  else if 0x240 ≤ off ∧ off ≤ 0x27C then
    let i := fld (s.reg (pg secPage + 0x200)) 0 4
    let m := if i = 0 then [] else c.meas.getD (i - 1) []
    some (ofLe ((m.drop (off - 0x240)).take 4))
  else none

/-- HLT registers (16 R583). -/
def State.hltRead (s : State) (off : Nat) : Option Nat :=
  let h := s.hlt
  if off = 0x120 then
    some (2 ^ 31 * b2n h.running.isSome + 2 ^ 30 * b2n h.ready.isSome + 2 ^ 29 * b2n h.ageCrit + h.floor * 2 ^ 8
      + bitsOf 8 (fun k => h.dead.contains k))
  else if off = 0x124 then some h.vcore
  else if off = 0x128 then some h.lastStroke
  else if off = 0x12C then some (h.lastStroke / 2 ^ 32)
  else if off = 0x134 then
    let i := fld (s.reg (pg hltPage + 0x130)) 0 6
    let ps : Int := (sget h.slack none i).getD 0
    some (sget h.ro 0 i % 2 ^ 16 * 2 ^ 16 + (BitVec.ofInt 16 ps).toNat)
  else if off = 0x138 then some (sget h.leak 0 (fld (s.reg (pg hltPage + 0x130)) 8 5) % 2 ^ 16)
  else if 0x140 ≤ off ∧ off ≤ 0x160 then some (h.vf.getD ((off - 0x140) / 4) 0)
  else if off = 0x170 then some (((List.range 12).map (fun u => sget h.refresh 0 u * 4 ^ u)).sum)
  else if off = 0x178 then
    let v := s.reg (pg hltPage + 0x174)
    let ch := fld v 8 6
    let t := sget h.trend Trend.none (32 * (32 * (ch / 32) + 4 * fld v 2 3 + fld v 0 2) + ch % 32)
    some (t.slc * 2 ^ 16 + t.nativeMode)
  else none

/-- RAS registers (16 R584). -/
def State.rasRead (s : State) (off : Nat) : Option Nat :=
  let r := s.ras
  if off = 0x110 then
    some (match r.log with
      | x :: _ => x.seq
      | [] => if r.next = 0 then 0 else Config.emptyLogHead r.next)
  else if off = 0x114 then some r.next
  else if 0x120 ≤ off ∧ off ≤ 0x13C then
    match r.log.find? (fun x => decide (x.seq = (s.reg (pg rasPage + 0x118)).toNat)) with
    | some x => some (wd (s.rasWords x) ((off - 0x120) / 4))
    | none => some 0
  else none

/-- The hottest die sensor, lowest index on a tie (18 R637): index and temperature. -/
def hottest (temps : List Nat) : Nat × Nat :=
  temps.zipIdx.foldl (fun best e => if !dramSensor e.2 ∧ best.2 < e.1 then (e.2, e.1) else best) (0, 0)

/-- PWR registers (18 R637). -/
def State.pwrRead (s : State) (a off : Nat) : Option Nat :=
  let p := s.pwr
  let joules := inUnit (pg pwrPage + 0x13C) p.energy 1000000000
  if off = 0x120 then
    some (2 ^ 31 * b2n p.tlmOk + 2 ^ 30 * b2n p.vrmHot + 2 ^ 29 * b2n (decide (p.doubled ≠ [])) + p.tempStep * 2 ^ 8
      + p.powerStep * 2 ^ 4 + s.psa.powerLevel)
  else if off = 0x124 then some (min (inUnit a s.avgMw 1000) 0x7FF)
  else if off = 0x128 then some (min (inUnit a p.coreMa 500) 0xFFF * 2 ^ 16 + p.senseMv % 2 ^ 10)
  else if off = 0x12C then
    let x := hottest p.temps
    some (x.1 * 2 ^ 8 + min x.2 255)
  else if off = 0x134 then some (min (p.temps.getD (fld (s.reg (pg pwrPage + 0x130)) 0 6) 0) 255)
  else if off = 0x138 then some 0x785F6970
  else if off = 0x13C then some joules
  else if off = 0x140 then some (joules / 2 ^ 32)
  else none

/-- The words of a page that report its block's state. -/
def State.blockRead (s : State) (b : Block) (i a off : Nat) : Option Nat :=
  match b with
  | .glb => s.glbRead off | .ident => s.identRead a off | .cfg => s.cfgRead off | .stk => s.stkRead a off
  | .psa => s.psaRead off | .bank => s.bankRead i off | .dir => s.dirRead off | .tier => s.tierRead off
  | .pfs => s.pfsRead a off | .brn => s.brnRead i off | .npa => s.npaRead a off | .flm => s.flmRead i a off
  | .hpt => s.hptRead i off | .que => s.queRead i a off | .dma => s.dmaRead i off | .net => s.netRead i off
  | .xpt => s.xptRead off | .gate => s.gateRead i a off | .ten => s.tenRegRead off | .sec => s.secRead off
  | .hlt => s.hltRead off | .ras => s.rasRead off | .pwr => s.pwrRead a off

/-- A commit or rollback is in its check or armed: pending banks are frozen (17 R593, R595). -/
def State.frozen (s : State) : Bool := s.cfg.check.isSome || s.cfg.armed.isSome

/-- Header words of a page that report state (17 R587, R598). -/
def State.headRead (s : State) (b : Block) (i page off : Nat) : Option Nat :=
  let mine := fun (l : Sparse Word) => l.filter (fun e => decide (e.1 / 0x1000 = page))
  if off = 0x000 then some (b.code * 2 ^ 16 + i * 2 ^ 8 + page)
  else if off = 0x004 then some 0x100
  else if off = 0x00C then
    some (2 ^ 31 * b2n (decide (mine s.act ≠ mine s.pend)) + 2 ^ 30 * b2n s.cfg.armed.isSome)
  else if off = 0x040 then
    let l := sget s.cfg.lag 0 page
    some (if l = 0 then s.cfg.edition else l - 1)
  else none

/-- The page has a block here: pages of an I/O die that the part does not have read 0 (17 R586; 13 R467). -/
def State.pageThere (s : State) (page : Nat) : Option (Block × Nat) :=
  match pageBlock page with
  | some (.net, n) => if s.netExists n then some (.net, n) else none
  | some (.gate, n) => if s.netExists n then some (.gate, n) else none
  | x => x

/-- A register as it stands (17 R587 to R592). -/
def State.liveVal (s : State) (a : Nat) : Word :=
  let page := a / 0x1000
  let off := a % 0x1000
  match s.pageThere page with
  | none => 0
  | some (b, i) =>
    match (if off < 0x100 then s.headRead b i page off else s.blockRead b i a off) with
    | some v => w32 v
    | none =>
      match regDef a with
      | some d => if d.cfg then (if bit (s.reg (pg page + 0x008)) 0 then s.pendReg a else s.cfgReg a) else s.reg a
      | none => s.reg a

/-- A word that returns what a read of its LO word latched (17 R590; 14 R531). -/
def latchedWord (a : Nat) : Bool :=
  (decide (4 ≤ a) && latchesHi (a - 4)) ||
  (match pageBlock (a / 0x1000) with
    | some (.gate, _) => decide (a % 0x1000 = 0x12C)
    | _ => false)

/-- What a register read returns. -/
def State.readVal (s : State) (a : Nat) : Word :=
  if latchedWord a ∧ (s.pageThere (a / 0x1000)).isSome then sget s.latch (latchReset a) a else s.liveVal a

/-- A read of a LO word copies its HI words (17 R590). -/
def State.latchFrom (s : State) (a : Nat) : State :=
  let set := fun (s : State) (b : Nat) => { s with latch := sset s.latch (latchReset b) b (s.liveVal b) }
  if !latchesHi a then s
  else if latchedWord (a + 8) then set (set s (a + 4)) (a + 8) else set s (a + 4)

end Sys2Proof.Machine
end

