-- ==== Sys2Proof/Machine/Spdm.lean ====
section
/-! DEFINITION. The SPDM responder (15 R555 to R558). The manual names SPDM 1.2 and 1.3; the layouts of the messages
are those of DSP0274. PRESUMED (notes/assumptions). -/

namespace Sys2Proof.Machine

/-- Byte `i` of a message. -/
def mb (m : List Byte) (i : Nat) : Nat := (m.getD i 0).toNat

/-- A little-endian number of `k` bytes at byte `i`. -/
def mn (m : List Byte) (i k : Nat) : Nat := ofLe ((m.drop i).take k)

/-- A byte. -/
def by8 (n : Nat) : Byte := BitVec.ofNat 8 n

/-- A transport: 0 and 1 the DOE mailboxes of LD 0 on ports 0 and 1, 2 MCTP. -/
def State.spdm (s : State) (tr : Nat) : Spdm := sget s.sec.spdm Spdm.none tr

/-- A transport, set. -/
def State.setSpdm (s : State) (tr : Nat) (v : Spdm) : State :=
  { s with sec := { s.sec with spdm := sset s.sec.spdm Spdm.none tr v } }

/-- A transport on which SPDM is answered (15 R544, R555). -/
def State.spdmOn (s : State) (tr : Nat) : Bool := decide (tr < 3) && s.mctpOn && (decide (tr = 2) || s.doeOn tr 0)

/-- DataTransferSize (15 R555). -/
def spdmSize (tr : Nat) : Nat := if tr = 2 then 1024 else 65536

/-- MaxSPDMmsgSize (15 R555). -/
def spdmMax : Nat := 65536

/-- A message leaves on a transport. -/
def State.spdmSend (s : State) (tr : Nat) (m : List Byte) : State :=
  s.send (if tr = 2 then .mctp 5 m else .doe tr 0 m)

/-- Version byte of a transport's messages. -/
def Spdm.verByte (v : Spdm) : Nat := if v.stage < 2 then 0x10 else v.ver

/-- ERROR with a code and extended data. -/
def Spdm.error (v : Spdm) (code data : Nat) (ext : List Byte) : List Byte :=
  [by8 v.verByte, 0x7F, by8 code, by8 data] ++ ext

/-- InvalidRequest. -/
def Spdm.invalid (v : Spdm) : List Byte := v.error 0x01 0 []

/-- A response, whole or, where it exceeds DataTransferSize, kept for CHUNK_GET. -/
def State.spdmReply (s : State) (tr : Nat) (m : List Byte) : State :=
  if m.length ≤ spdmSize tr then s.spdmSend tr m
  else
    let v := s.spdm tr
    let h := s.sec.nextToken % 256
    let s := { s with sec := { s.sec with nextToken := s.sec.nextToken + 1 } }
    let c : Chunk := { handle := h, seq := 0, total := m.length, bytes := m }
    (s.setSpdm tr { v with get := some c }).spdmSend tr (v.error 0x0F 0 [by8 h])

/-! ### Requests -/

/-- What a request leads to: a response now, or a response that the Alias key signs first. -/
inductive Ans where
  | now (m : List Byte)
  | sign (m : List Byte)
  deriving DecidableEq, Repr

/-- GET_VERSION: versions 1.2 and 1.3; the transport starts again. -/
def State.spdmVersion (s : State) (tr : Nat) (m : List Byte) : State × Ans :=
  if m.length < 4 then (s, .now (s.spdm tr).invalid)
  else if mb m 0 ≠ 0x10 then (s, .now ((s.spdm tr).error 0x41 0 []))
  else
    let r : List Byte := [0x10, 0x04, 0, 0, 0, 2, 0x00, 0x12, 0x00, 0x13]
    let s := { s with sec := { s.sec with signs := s.sec.signs.filter (fun x => decide (x.tr ≠ tr)) } }
    (s.setSpdm tr { Spdm.none with stage := 1, vca := m ++ r }, .now r)

/-- GET_CAPABILITIES (15 R555). -/
def State.spdmCaps (s : State) (tr : Nat) (m : List Byte) : State × Ans :=
  let v := s.spdm tr
  if v.stage = 0 then (s, .now (v.error 0x04 0 []))
  else if mb m 0 ≠ 0x12 ∧ mb m 0 ≠ 0x13 then (s, .now (v.error 0x41 0 []))
  else if m.length < 20 then (s, .now v.invalid)
  else
    let r : List Byte := [by8 (mb m 0), 0x61, 0, 0, 0, 12, 0, 0] ++ leBytes 4 0x20016 ++ leBytes 4 (spdmSize tr) ++ leBytes 4 spdmMax
    (s.setSpdm tr { v with stage := 2, ver := mb m 0, vca := v.vca ++ m ++ r }, .now r)

/-- The ExtAsym entry of SLH-DSA-SHAKE-256f (15 R556). -/
def extAsym : List Byte := [0x03, 0x00, 0x56, 0x02]

/-- A request offers the values of 15 R556 in every field. -/
def algOk (m : List Byte) : Bool :=
  (mn m 6 1).testBit 0 && (mn m 12 4).testBit 5
    && (List.range (mb m 28)).any (fun i => decide ((m.drop (32 + 4 * i)).take 4 = extAsym))

/-- NEGOTIATE_ALGORITHMS (15 R556). -/
def State.spdmAlgs (s : State) (tr : Nat) (m : List Byte) : State × Ans :=
  let v := s.spdm tr
  if v.stage < 2 then (s, .now (v.error 0x04 0 []))
  else if m.length < 32 ∨ !algOk m then (s, .now v.invalid)
  else
    let r : List Byte := [by8 v.ver, 0x63, 0, 0] ++ leBytes 2 40 ++ [1, 0] ++ leBytes 4 1 ++ leBytes 4 0 ++ leBytes 4 0x20
      ++ List.replicate 12 0 ++ [1, 0, 0, 0] ++ extAsym
    (s.setSpdm tr { v with stage := 3, vca := v.vca ++ m ++ r }, .now r)

/-- Certificate chain of slot 0 (15 R554): its length, the hash of its root, the certificates. -/
def chainBytes (cs : List (List Byte)) : List Byte :=
  let body := sha3_512 (cs.headD []) ++ cs.flatten
  leBytes 4 (4 + body.length) ++ body

/-- A negotiated exchange is part of the transcript. -/
def State.spdmLog (s : State) (tr : Nat) (m r : List Byte) : State :=
  let v := s.spdm tr
  s.setSpdm tr { v with log := v.log ++ m ++ r }

/-- GET_DIGESTS (15 R554). -/
def State.spdmDigests (s : State) (tr : Nat) (m : List Byte) : State × Ans :=
  let v := s.spdm tr
  let sup : Byte := if v.ver = 0x13 then 1 else 0
  let r : List Byte := match s.sec.chain with
    | some c => [by8 v.ver, 0x01, sup, 1] ++ sha3_512 (chainBytes c)
    | none => [by8 v.ver, 0x01, sup, 0]
  (s.spdmLog tr m r, .now r)

/-- GET_CERTIFICATE: slot 0 (15 R555). -/
def State.spdmCert (s : State) (tr : Nat) (m : List Byte) : State × Ans :=
  let v := s.spdm tr
  match s.sec.chain with
  | none => (s, .now v.invalid)
  | some c =>
    let all := chainBytes c
    let off := mn m 4 2
    if m.length < 8 ∨ mb m 2 % 16 ≠ 0 ∨ all.length ≤ off then (s, .now v.invalid)
    else
      let part := (all.drop off).take (min (mn m 6 2) (spdmMax - 8))
      let r : List Byte := [by8 v.ver, 0x02, 0, 0] ++ leBytes 2 part.length
        ++ leBytes 2 (min (all.length - off - part.length) 0xFFFF) ++ part
      (s.spdmLog tr m r, .now r)

/-- A measurement block (15 R557): DMTF format, raw bit stream. -/
def measBlock (i : Nat) (v : List Byte) : List Byte :=
  let type := if i = 1 then 0 else if i = 6 then 3 else 1
  [by8 i, 1] ++ leBytes 2 (3 + v.length) ++ [by8 (0x80 + type)] ++ leBytes 2 v.length ++ v

/-- The block of a measurement index. -/
def State.measOf (s : State) (i : Nat) : List Byte := measBlock i (s.sec.meas.getD (i - 1) [])

/-- Indices 1 to 9. -/
def measAll : List Nat := (List.range 9).map (fun i => i + 1)

/-- CHALLENGE: signed with the Alias key (15 R555). -/
def State.spdmChallenge (s : State) (tr : Nat) (m : List Byte) : State × Ans :=
  let v := s.spdm tr
  let ctx := if v.ver = 0x13 then 8 else 0
  match s.sec.chain with
  | none => (s, .now v.invalid)
  | some c =>
    if m.length < 36 + ctx ∨ mb m 2 ≠ 0 ∨ !([0, 1, 0xFF].contains (mb m 3)) then (s, .now v.invalid)
    else
      let (nonce, s) := s.freeBytes 32
      let sum := if mb m 3 = 0 then [] else sha3_512 (measAll.flatMap s.measOf)
      let r : List Byte := [by8 v.ver, 0x03, 0, 1] ++ sha3_512 (chainBytes c) ++ nonce ++ sum ++ [0, 0]
        ++ (m.drop 36).take ctx
      (s.spdmLog tr m r, .sign r)

/-- GET_MEASUREMENTS (15 R555, R557). -/
def State.spdmMeas (s : State) (tr : Nat) (m : List Byte) : State × Ans :=
  let v := s.spdm tr
  let ctx := if v.ver = 0x13 then 8 else 0
  let signed := (mb m 2).testBit 0
  let op := mb m 3
  let lead := if signed then 37 else 4
  if m.length < lead + ctx ∨ (9 < op ∧ op ≠ 0xFF) ∨ (signed ∧ (mb m 36 % 16 ≠ 0 ∨ s.sec.chain.isNone)) then (s, .now v.invalid)
  else
    let which := if op = 0 then [] else if op = 0xFF then measAll else [op]
    let rec_ := which.flatMap s.measOf
    let (nonce, s) := s.freeBytes 32
    let r : List Byte := [by8 v.ver, 0x60, if op = 0 then 9 else 0, 0, by8 which.length] ++ leBytes 3 rec_.length ++ rec_
      ++ nonce ++ [0, 0] ++ (m.drop lead).take ctx
    (s.spdmLog tr m r, if signed then .sign r else .now r)

/-- UnsupportedRequest (15 R555). -/
def Spdm.unsupported (v : Spdm) (m : List Byte) : List Byte := v.error 0x07 (mb m 1) []

/-- A request after negotiation: version and stage are checked; DECOMMISSIONED answers none (15 R543). -/
def State.spdmNegotiated (s : State) (tr : Nat) (m : List Byte) (f : State → State × Ans) : State × Ans :=
  let v := s.spdm tr
  if s.sec.fuse.life = 2 then (s, .now (v.unsupported m))
  else if v.stage < 3 then (s, .now (v.error 0x04 0 []))
  else if mb m 0 ≠ v.ver then (s, .now (v.error 0x41 0 []))
  else f s

/-- RESPOND_IF_READY (15 R558). -/
def State.spdmReady (s : State) (tr : Nat) (m : List Byte) : State × Ans :=
  let v := s.spdm tr
  if v.later ≠ some (mb m 2, mb m 3) then (s, .now (v.error 0x04 0 []))
  else match v.done with
    | some r => (s.setSpdm tr { v with later := none, done := none }, .now r)
    | none =>
      let (bs, s) := s.freeBytes 2
      (s, .now (v.error 0x42 0 [bs.getD 0 0, by8 (mb m 2), by8 (mb m 3), bs.getD 1 0]))

/-- A request other than CHUNK_SEND and CHUNK_GET. -/
def State.spdmAnswer (s : State) (tr : Nat) (m : List Byte) : State × Ans :=
  let op := mb m 1
  if op = 0x84 then s.spdmVersion tr m
  else if op = 0xE1 then s.spdmCaps tr m
  else if op = 0xE3 then s.spdmAlgs tr m
  else if op = 0x81 then s.spdmNegotiated tr m (fun s => s.spdmDigests tr m)
  else if op = 0x82 then s.spdmNegotiated tr m (fun s => s.spdmCert tr m)
  else if op = 0x83 then s.spdmNegotiated tr m (fun s => s.spdmChallenge tr m)
  else if op = 0xE0 then s.spdmNegotiated tr m (fun s => s.spdmMeas tr m)
  else if op = 0xFF then s.spdmNegotiated tr m (fun s => s.spdmReady tr m)
  else (s, .now ((s.spdm tr).unsupported m))

/-- A signing request joins the queue (15 R558): with two before it the wait would exceed CT, and the answer is
ResponseNotReady; else the response follows when it is signed. -/
def State.spdmQueue (s : State) (tr code : Nat) (r : List Byte) : State × Option (List Byte) :=
  let v := s.spdm tr
  let x : SignReq := { tr := tr, code := code, resp := r,
                       tbs := sha3_512 (Config.spdmTranscript code (v.vca ++ v.log)) }
  let wait := decide (2 ≤ s.sec.signs.length)
  let s := { s with sec := { s.sec with signs := s.sec.signs ++ [x] } }
  if wait then
    let tok := s.sec.nextToken % 256
    let (bs, s) := s.freeBytes 2
    let s := ({ s with sec := { s.sec with nextToken := s.sec.nextToken + 1 } }).setSpdm tr { v with later := some (code, tok), done := none }
    (s, some (v.error 0x42 0 [bs.getD 0 0, by8 code, by8 tok, bs.getD 1 0]))
  else (s, none)

/-- The response to a request, or none while it waits for its signature. -/
def State.spdmResponse (s : State) (tr : Nat) (m : List Byte) : State × Option (List Byte) :=
  let s := s.bump (pg secPage + 0x180)
  match s.spdmAnswer tr m with
  | (s, .now r) => (s, some r)
  | (s, .sign r) => s.spdmQueue tr (mb m 1) r

/-- A request of a code is answered on a transport that answers. -/
def State.spdmRow (s : State) (tr : Nat) (m : List Byte) (ok : Bool) : State :=
  if !s.spdmOn tr ∨ !ok then s
  else match s.spdmResponse tr m with
    | (s, some r) => s.spdmReply tr r
    | (s, none) => s

/-- GET_VERSION. -/
def execGetVersion (tr : Nat) (msg : List Byte) (s : State) : Res := .next (s.spdmRow tr msg (decide (mb msg 1 = 0x84)))

/-- GET_CAPABILITIES. -/
def execGetCapabilities (tr : Nat) (msg : List Byte) (s : State) : Res := .next (s.spdmRow tr msg (decide (mb msg 1 = 0xE1)))

/-- NEGOTIATE_ALGORITHMS. -/
def execNegotiateAlgorithms (tr : Nat) (msg : List Byte) (s : State) : Res := .next (s.spdmRow tr msg (decide (mb msg 1 = 0xE3)))

/-- GET_DIGESTS. -/
def execGetDigests (tr : Nat) (msg : List Byte) (s : State) : Res := .next (s.spdmRow tr msg (decide (mb msg 1 = 0x81)))

/-- GET_CERTIFICATE. -/
def execGetCertificate (tr : Nat) (msg : List Byte) (s : State) : Res := .next (s.spdmRow tr msg (decide (mb msg 1 = 0x82)))

/-- CHALLENGE. -/
def execChallenge (tr : Nat) (msg : List Byte) (s : State) : Res := .next (s.spdmRow tr msg (decide (mb msg 1 = 0x83)))

/-- GET_MEASUREMENTS. -/
def execGetMeasurements (tr : Nat) (msg : List Byte) (s : State) : Res := .next (s.spdmRow tr msg (decide (mb msg 1 = 0xE0)))

/-- RESPOND_IF_READY. -/
def execRespondIfReady (tr : Nat) (msg : List Byte) (s : State) : Res := .next (s.spdmRow tr msg (decide (mb msg 1 = 0xFF)))

/-- The codes of 15 R555 and R558. -/
def spdmCodes : List Nat := [0x81, 0x82, 0x83, 0x84, 0x85, 0x86, 0xE0, 0xE1, 0xE3, 0xFF]

/-- SPDM_UNSUPPORTED: every other request (15 R555). -/
def execSpdmUnsupported (tr : Nat) (msg : List Byte) (s : State) : Res :=
  .next (s.spdmRow tr msg (!spdmCodes.contains (mb msg 1)))

/-! ### Chunks (15 R555) -/

/-- CHUNK_SEND_ACK. -/
def Spdm.ack (v : Spdm) (early : Bool) (h n : Nat) (r : List Byte) : List Byte :=
  [by8 v.verByte, 0x05, if early then 1 else 0, by8 h] ++ leBytes 2 n ++ r

/-- A chunk is refused: what has come of the large request is dropped. -/
def State.chunkBad (s : State) (tr : Nat) (m : List Byte) : State :=
  let v := s.spdm tr
  (s.setSpdm tr { v with send := none }).spdmReply tr (v.ack true (mb m 3) (mn m 4 2) v.invalid)

/-- A chunk of a large request: handle, number, bytes; with the last one the request is answered. -/
def State.chunkTake (s : State) (tr : Nat) (m : List Byte) : State :=
  let v := s.spdm tr
  let n := mn m 4 2
  let head := if n = 0 then 16 else 12
  let size := mn m 8 4
  let part := (m.drop head).take size
  let cur : Option Chunk := if n = 0 then some { handle := mb m 3, seq := 0, total := mn m 12 4, bytes := [] } else v.send
  match cur with
  | none => s.chunkBad tr m
  | some c =>
    let all := c.bytes ++ part
    if c.handle ≠ mb m 3 ∨ c.seq ≠ n ∨ part.length ≠ size ∨ spdmMax < c.total ∨ c.total < all.length then s.chunkBad tr m
    else if !(mb m 2).testBit 0 then
      (s.setSpdm tr { v with send := some { c with seq := n + 1, bytes := all } }).spdmReply tr (v.ack false c.handle n [])
    else if all.length ≠ c.total then s.chunkBad tr m
    else
      let s := s.setSpdm tr { v with send := none }
      if mb all 1 = 0x85 ∨ mb all 1 = 0x86 then s.spdmReply tr (v.ack false c.handle n v.invalid)
      else match s.spdmResponse tr all with
        | (s, some r) =>
          if (v.ack false c.handle n r).length ≤ spdmSize tr then s.spdmReply tr (v.ack false c.handle n r)
          else
            let h := s.sec.nextToken % 256
            let s := { s with sec := { s.sec with nextToken := s.sec.nextToken + 1 } }
            let g : Chunk := { handle := h, seq := 0, total := r.length, bytes := r }
            (s.setSpdm tr { s.spdm tr with get := some g }).spdmSend tr (v.ack false c.handle n (v.error 0x0F 0 [by8 h]))
        | (s, none) => s

/-- CHUNK_SEND. -/
def execChunkSend (tr : Nat) (msg : List Byte) (s : State) : Res :=
  .next (if !s.spdmOn tr ∨ mb msg 1 ≠ 0x85 then s
    else
      let s := s.bump (pg secPage + 0x180)
      let v := s.spdm tr
      if s.sec.fuse.life = 2 then s.spdmReply tr (v.unsupported msg)
      else if v.stage < 2 then s.spdmReply tr (v.error 0x04 0 [])
      else s.chunkTake tr msg)

/-- CHUNK_GET. -/
def execChunkGet (tr : Nat) (msg : List Byte) (s : State) : Res :=
  .next (if !s.spdmOn tr ∨ mb msg 1 ≠ 0x86 then s
    else
      let s := s.bump (pg secPage + 0x180)
      let v := s.spdm tr
      let n := mn msg 4 2
      if s.sec.fuse.life = 2 then s.spdmReply tr (v.unsupported msg)
      else if v.stage < 2 then s.spdmReply tr (v.error 0x04 0 [])
      else match v.get with
        | none => s.spdmReply tr (v.error 0x04 0 [])
        | some c =>
          if c.handle ≠ mb msg 3 ∨ c.seq ≠ n then s.spdmReply tr v.invalid
          else
            let room := spdmSize tr - (if n = 0 then 16 else 12)
            let part := c.bytes.take room
            let rest := c.bytes.drop room
            let last := decide (rest = [])
            let r : List Byte := [by8 v.ver, 0x06, if last then 1 else 0, by8 c.handle] ++ leBytes 2 n ++ [0, 0]
              ++ leBytes 4 part.length ++ (if n = 0 then leBytes 4 c.total else []) ++ part
            (s.setSpdm tr { v with get := if last then none else some { c with seq := n + 1, bytes := rest } }).spdmSend tr r)

/-- SIGNATURE_DONE (15 R558): the oldest signing request is served. -/
def execSignatureDone (s : State) : Res :=
  .next (match s.sec.signs, s.sec.alias_ with
    | x :: rest, some a =>
      let r := x.resp ++ Config.slhSign256f a x.tbs
      let s := ({ s with sec := { s.sec with signs := rest } }).bump (pg secPage + 0x184)
      let v := s.spdm x.tr
      match v.later with
      | some (c, _) =>
        if c = x.code ∧ !rest.any (fun y => decide (y.tr = x.tr ∧ y.code = c)) then s.setSpdm x.tr { v with done := some r }
        else s.spdmReply x.tr r
      | none => s.spdmReply x.tr r
    | _, _ => s)

end Sys2Proof.Machine
end

