-- ==== Sys2Proof/Machine/RegPages.lean ====
section
/-! DEFINITION. Accesses to the register pages (17 R586 to R595; 11 R419, R420): one operation for a write, one for a read,
and the rows of the opcode table that are such accesses. A write of a register that has a row of its own does what that
row does. -/

namespace Sys2Proof.Machine

/-- A refused write of a configuration register (17 R595). -/
def State.cfgRefuse (s : State) : State := s.count 0x02 0x18C 2

/-- A write of a stored register: a configuration register takes it in the pending bank unless the banks are frozen
(17 R588, R592, R595). -/
def State.storeReg (s : State) (a : Nat) (v : Word) : State :=
  match regDef a with
  | none => s
  | some d =>
    if !d.cfg then s.setReg a (v &&& d.mask)
    else if s.frozen then s.cfgRefuse
    else { s with pend := sset s.pend d.reset a (v &&& d.mask) }

/-- Every queue set of a port is DISABLED (12 R465). -/
def State.allDisabled (s : State) (p : Nat) : Bool :=
  (List.range 64).all (fun q => decide ((s.qset p q).state = .disabled))

/-- A write to a page of the queue engine (12 R433, R465). -/
def State.queWrite (s : State) (k a off : Nat) (v : Word) : State :=
  let p := k / 4
  if 0x400 ≤ off ∧ off < 0x800 then
    let q := 16 * (k % 4) + (off - 0x400) / 0x40
    let o := off % 0x40
    if o = 0x14 then s.qsCtrl p q v
    else if o ≤ 0x10 ∧ (s.qset p q).state ≠ .disabled then s
    else s.storeReg a v
  else if 0x100 ≤ off ∧ off ≤ 0x108 ∧ !s.allDisabled p then s
  else s.storeReg a v

/-- A write to a page of the DMA engine (12 R461, R466). -/
def State.dmaWrite (s : State) (k a off : Nat) (v : Word) : State :=
  if k = 0 ∧ off = 0x100 then (if bit v 0 then s.dmaResumeAll else s)
  else if 0x400 ≤ off ∧ off < 0x600 then
    let c := 8 * k + (off - 0x400) / 0x40
    let o := off % 0x40
    let x := s.chan c
    if o = 0x04 then s.dmaCtrl c v
    else if x.state ≠ .stopped then s
    else if o = 0x10 then s.setChan c { x with next := x.next / 2 ^ 32 * 2 ^ 32 + (v &&& 0xFFFFFFE0).toNat }
    else if o = 0x14 then s.setChan c { x with next := x.next % 2 ^ 32 + 2 ^ 32 * v.toNat }
    else s.storeReg a v
  else s.storeReg a v

/-- A write of BRN_TEST_FORCE of a core: the engines it names, the core, an injected bit (08 R300). -/
def State.brnForce (s : State) (c : Nat) (v : Word) : State :=
  let s := s.forceEngines c v
  let s := if bit v 8 then s.failCore c 8 else s
  if bit v 9 then s.setCore c { s.core c with inject := true } else s

/-- A write to the transport page (13 R480, R497, R501). -/
def State.xptWrite (s : State) (src : Src) (a off : Nat) (v : Word) : State :=
  if off = 0x140 ∨ off = 0x160 then s.setReg a (v &&& 0xFFF)
  else if off = 0x164 then (match src with
    | .mctp => s
    | .port p => s.trigDisarm p v)
  else if off = 0x174 then
    let op := fld v 0 3
    if op = 1 then s.ctxOp src State.ctxReadOp
    else if op = 2 then s.ctxOp src State.ctxWriteOp
    else if op = 3 then s.ctxOp src State.ctxErrorOp
    else if op = 4 then s.ctxOp src State.ctxResetOp
    else s
  else s.storeReg a v

/-- A write to the tenant page from a source that 11 R419 allows (11 R421, R429). -/
def State.tenRegWrite (s : State) (a off : Nat) (v : Word) : State :=
  if off = 0x104 then s.tenFmWrite v
  else if off = 0x114 then
    (if s.ten.busy.isSome then s else if fld v 0 2 = 1 then s.tenRead else if fld v 0 2 = 2 then s.tenWrite else s)
  else if (off = 0x110 ∨ (0x140 ≤ off ∧ off ≤ 0x17C)) ∧ s.ten.busy.isSome then s
  else s.storeReg a v

/-- A write to the security page (15 R542, R545, R548, R560). -/
def State.secWrite (s : State) (src : Src) (a off : Nat) (v : Word) : State :=
  if off = 0x114 then
    (if !s.fmRoute src then s.secDeny
     else if fld v 20 12 ≠ 0xA5C then s
     else if fld v 4 2 = 1 then s.fuseStart src 1 0
     else if fld v 4 2 = 2 then s.fuseStart src 2 (fld v 0 2)
     else s)
  else if off = 0x120 then
    let s := s.setReg a (v &&& 3)
    if !bit v 31 then s else if bit v 0 then s.updGo src else s.rcvGo src
  else s.storeReg a v

/-- A write to a block register of a page (17 R588, R591): what the register's chapter gives it, or its storage. -/
def State.blockWrite (s : State) (src : Src) (b : Block) (i a off : Nat) (v : Word) : State :=
  match b with
  | .glb => if off = 0x104 then s.glbCtrl src v else s.storeReg a v
  | .ident => if off = 0x114 ∧ !s.fmRoute src then s.tenDenied else s.storeReg a v
  | .stk =>
    if off = 0x150 then s.pringTail 0 v else if off = 0x170 then s.pringTail 1 v
    else if (off = 0x148 ∨ off = 0x168) ∧ fld v 0 4 ≠ 0 ∧ (fld v 0 4 < 4 ∨ 12 < fld v 0 4) then s
    else s.storeReg a v
  | .bank =>
    if off = 0x120 then
      let s := if bit v 0 then s.bankFail i else s
      if bit v 1 then s.updBank i (fun b => { b with inject := true }) else s
    else s.storeReg a v
  | .brn => if off = 0x10C then s.brnForce i v else s.storeReg a v
  | .que => s.queWrite i a off v
  | .dma => s.dmaWrite i a off v
  | .xpt => s.xptWrite src a off v
  | .gate => if 0x800 ≤ off ∧ bit (s.reg (pg (gatePage i) + 0x118)) 0 then s else s.storeReg a v
  | .ten => s.tenRegWrite a off v
  | .sec => s.secWrite src a off v
  | .hlt =>
    if off = 0x114 then
      let s := if bit v 0 then s.replanCmd else s
      if bit v 8 then s.failStack (fld v 12 3) else s
    else s.storeReg a v
  | .ras => if off = 0x11C then (if bit v 0 then s.rasClear else s) else s.storeReg a v
  | .cfg | .psa | .dir | .tier | .pfs | .npa | .flm | .hpt | .net | .pwr => s.storeReg a v

/-- A write that has reached its page: the common header (17 R587, R588), a counter clear (17 R590), or a register of the
block. -/
def State.pageWrite (s : State) (src : Src) (b : Block) (i a : Nat) (v : Word) : State :=
  let page := a / 0x1000
  let off := a % 0x1000
  if off = 0x010 then s.clearInt page v
  else if off = 0x014 then s.setEnable page v
  else if off = 0x018 then s.raiseBits page v
  else if off < 0x100 then s.storeReg a v
  else if clearRanges a ≠ [] then (if bit v 0 then s.clearCounters a else s)
  else s.blockWrite src b i a off v

/-- A write of one aligned word of BAR0 (17 R586, R589; 11 R420). -/
def State.bar0Write (s : State) (src : Src) (a : Nat) (v : Word) : State :=
  let page := a / 0x1000
  if a % 4 ≠ 0 ∨ 2 ^ 20 ≤ a ∨ !s.pageOn src page then s
  else match s.pageThere page with
    | none => s
    | some (.ten, i) => s.onTen src (fun s => s.pageWrite src .ten i a v)
    | some (b, i) => s.pageWrite src b i a v

/-- A read of one word of BAR0 (17 R586, R589, R590; 11 R420): the answer goes to its source. -/
def State.bar0Read (s : State) (src : Src) (addr : Nat) : State :=
  let a := addr / 4 * 4
  let down : Bool := match src with
    | .port p => s.portDown p
    | .mctp => false
  if 2 ^ 20 ≤ a ∨ !s.bar0On ∨ down then s
  else if !s.pageOn src (a / 0x1000) then s.send (.regRead src a 0)
  else if a / 0x1000 = tenPage ∧ !s.fmRoute src ∧ 8 ≤ a % 0x1000 then s.tenDenied.send (.regRead src a 0)
  else (s.latchFrom a).send (.regRead src a (s.readVal a))

/-- A write of an aligned word by a source: BAR0, or above it a window of the host's port (11 R398; log 195). -/
def State.barWrite (s : State) (src : Src) (a : Nat) (v : Word) : State :=
  if a < 2 ^ 20 then s.bar0Write src a v
  else match src with
    | .port p => if a % 4 ≠ 0 then s else s.fnWrite p a v
    | .mctp => s

/-- A read of a word by a source, as `barWrite`. -/
def State.barRead (s : State) (src : Src) (a : Nat) : State :=
  if a < 2 ^ 20 then s.bar0Read src a
  else match src with
    | .port p => s.fnRead p (a / 4 * 4)
    | .mctp => s

/-! ### Rows -/

/-- INT_STATUS_CLEAR (17 R588): a write of INT_STATUS. -/
def execIntStatusClear (src : Src) (page : Nat) (v : Word) (s : State) : Res := .next (s.bar0Write src (pg page + 0x010) v)

/-- INT_FORCE (17 R587, R588). -/
def execIntForce (src : Src) (page : Nat) (v : Word) (s : State) : Res := .next (s.bar0Write src (pg page + 0x018) v)

/-- COUNTER_CLEAR (17 R590): a write of a CNT_CLEAR register. -/
def execCounterClear (src : Src) (addr : Nat) (v : Word) (s : State) : Res :=
  .next (if clearRanges addr = [] then s else s.bar0Write src addr v)

/-- LATCHING_READ (17 R590): a read of any register; that of a LO word latches its HI word. -/
def execLatchingRead (src : Src) (addr : Nat) (s : State) : Res := .next (s.barRead src addr)

/-- REGISTER_WRITE (17 R588, R592, R595; 11 R398; 12 R434). -/
def execRegisterWrite (src : Src) (addr : Nat) (v : Word) (s : State) : Res := .next (s.barWrite src addr v)

/-- MCTP_REGISTER_ACCESS (11 R419). -/
def execMctpRegisterAccess (acc : RegAcc) (s : State) : Res :=
  .next (if !s.mctpOn then s
    else match acc with
      | .read addr => s.bar0Read .mctp addr
      | .write addr v => s.bar0Write .mctp addr v)

end Sys2Proof.Machine
end

