-- ==== Sys2Proof/Machine/Dispatch.lean ====
section
/-! DEFINITION. The dispatch: one arm per command, each one direct call of its meaning. -/

namespace Sys2Proof.Machine

def exec (i : Instr) (s : State) : Host.Outcome State Fault Refusal :=
  match i with
  | .sqTail p q v => Sys2Proof.Machine.execSqTail p q v s
  | .cqHead p q v => Sys2Proof.Machine.execCqHead p q v s
  | .push p q ws => Sys2Proof.Machine.execPush p q ws s
  | .commandFetch p => Sys2Proof.Machine.execCommandFetch p s
  | .deferredCompletion p q => Sys2Proof.Machine.execDeferredCompletion p q s
  | .coalesceTimer p q t => Sys2Proof.Machine.execCoalesceTimer p q t s
  | .undefinedOpcode id => Sys2Proof.Machine.execUndefinedOpcode id s
  | .lookup id => Sys2Proof.Machine.execLookup id s
  | .hash id => Sys2Proof.Machine.execHash id s
  | .openProof id => Sys2Proof.Machine.execOpenProof id s
  | .renew id => Sys2Proof.Machine.execRenew id s
  | .openView id => Sys2Proof.Machine.execOpenView id s
  | .closeProof id => Sys2Proof.Machine.execCloseProof id s
  | .proofLapse slot t => Sys2Proof.Machine.execProofLapse slot t s
  | .publish id => Sys2Proof.Machine.execPublish id s
  | .publishClaim id => Sys2Proof.Machine.execPublishClaim id s
  | .commitPoint val => Sys2Proof.Machine.execCommitPoint val s
  | .endPoint val => Sys2Proof.Machine.execEndPoint val s
  | .retire id => Sys2Proof.Machine.execRetire id s
  | .cascadeStep slot => Sys2Proof.Machine.execCascadeStep slot s
  | .placeReserve id => Sys2Proof.Machine.execPlaceReserve id s
  | .placeSet id => Sys2Proof.Machine.execPlaceSet id s
  | .moveCommit pset => Sys2Proof.Machine.execMoveCommit pset s
  | .copyRelease pset => Sys2Proof.Machine.execCopyRelease pset s
  | .reservationLapse pset t => Sys2Proof.Machine.execReservationLapse pset t s
  | .pressureReclaim tier => Sys2Proof.Machine.execPressureReclaim tier s
  | .reclaimRetry tier t => Sys2Proof.Machine.execReclaimRetry tier t s
  | .free id => Sys2Proof.Machine.execFree id s
  | .discard id => Sys2Proof.Machine.execDiscard id s
  | .discardRelocation id => Sys2Proof.Machine.execDiscardRelocation id s
  | .deliver id => Sys2Proof.Machine.execDeliver id s
  | .deliverChunk id => Sys2Proof.Machine.execDeliverChunk id s
  | .deliverComplete id => Sys2Proof.Machine.execDeliverComplete id s
  | .planLoad id => Sys2Proof.Machine.execPlanLoad id s
  | .planUnload id => Sys2Proof.Machine.execPlanUnload id s
  | .attend id => Sys2Proof.Machine.execAttend id s
  | .attendSparse id => Sys2Proof.Machine.execAttendSparse id s
  | .rerotate id => Sys2Proof.Machine.execRerotate id s
  | .repackConvert id => Sys2Proof.Machine.execRepackConvert id s
  | .repackLandmark id => Sys2Proof.Machine.execRepackLandmark id s
  | .fence id => Sys2Proof.Machine.execFence id s
  | .fenceDone id => Sys2Proof.Machine.execFenceDone id s
  | .fenceTimeout id t => Sys2Proof.Machine.execFenceTimeout id t s
  | .cfgCommit id => Sys2Proof.Machine.execCfgCommit id s
  | .cfgRollback id => Sys2Proof.Machine.execCfgRollback id s
  | .cfgCheckEnd t => Sys2Proof.Machine.execCfgCheckEnd t s
  | .stats id => Sys2Proof.Machine.execStats id s
  | .extentRevoke id => Sys2Proof.Machine.execExtentRevoke id s
  | .revokeDrainEnd id => Sys2Proof.Machine.execRevokeDrainEnd id s
  | .compatLookup id => Sys2Proof.Machine.execCompatLookup id s
  | .compatDeliver id => Sys2Proof.Machine.execCompatDeliver id s
  | .compatFree id => Sys2Proof.Machine.execCompatFree id s
  | .strokeBoundary t => Sys2Proof.Machine.execStrokeBoundary t s
  | .syncMessage t offset => Sys2Proof.Machine.execSyncMessage t offset s
  | .syncLoss t => Sys2Proof.Machine.execSyncLoss t s
  | .holdoverLimit t => Sys2Proof.Machine.execHoldoverLimit t s
  | .ppsEdge t => Sys2Proof.Machine.execPpsEdge t s
  | .ppsOut t => Sys2Proof.Machine.execPpsOut t s
  | .peerDelayRequest n => Sys2Proof.Machine.execPeerDelayRequest n s
  | .stkPringTail p v => Sys2Proof.Machine.execStkPringTail p v s
  | .headerFetch p => Sys2Proof.Machine.execHeaderFetch p s
  | .recordFetch p t => Sys2Proof.Machine.execRecordFetch p t s
  | .windowOpen c t => Sys2Proof.Machine.execWindowOpen c t s
  | .recordStart c t => Sys2Proof.Machine.execRecordStart c t s
  | .windowClose c t => Sys2Proof.Machine.execWindowClose c t s
  | .programSummary p target => Sys2Proof.Machine.execProgramSummary p target s
  | .psaInsert slot => Sys2Proof.Machine.execPsaInsert slot s
  | .psaCompaction slot bank => Sys2Proof.Machine.execPsaCompaction slot bank s
  | .psaDrain bank slot => Sys2Proof.Machine.execPsaDrain bank slot s
  | .psaScrubRead t => Sys2Proof.Machine.execPsaScrubRead t s
  | .scrubLate bank t => Sys2Proof.Machine.execScrubLate bank t s
  | .psaTempSample t temps => Sys2Proof.Machine.execPsaTempSample t temps s
  | .bankFailed bank => Sys2Proof.Machine.execBankFailed bank s
  | .psaForceFail src bank => Sys2Proof.Machine.execPsaForceFail src bank s
  | .psaInject src bank => Sys2Proof.Machine.execPsaInject src bank s
  | .psaRehome bank t => Sys2Proof.Machine.execPsaRehome bank t s
  | .psaRebuild failing => Sys2Proof.Machine.execPsaRebuild failing s
  | .operationStart => Sys2Proof.Machine.execOperationStart s
  | .tileEnd core eng => Sys2Proof.Machine.execTileEnd core eng s
  | .operationBoundary t => Sys2Proof.Machine.execOperationBoundary t s
  | .engineFail core eng cause => Sys2Proof.Machine.execEngineFail core eng cause s
  | .engineWatchdog core eng t => Sys2Proof.Machine.execEngineWatchdog core eng t s
  | .periodicSelfTest core eng t => Sys2Proof.Machine.execPeriodicSelfTest core eng t s
  | .selfTestEnd core eng t pass => Sys2Proof.Machine.execSelfTestEnd core eng t pass s
  | .coreFail core cause => Sys2Proof.Machine.execCoreFail core cause s
  | .failEngine src core mask => Sys2Proof.Machine.execFailEngine src core mask s
  | .failCore src core => Sys2Proof.Machine.execFailCore src core s
  | .brnInject src core => Sys2Proof.Machine.execBrnInject src core s
  | .mergeTimeout id t => Sys2Proof.Machine.execMergeTimeout id t s
  | .prefetchStep id => Sys2Proof.Machine.execPrefetchStep id s
  | .prefetchReadIssue id => Sys2Proof.Machine.execPrefetchReadIssue id s
  | .layerResident id layer => Sys2Proof.Machine.execLayerResident id layer s
  | .flashOpStart ch => Sys2Proof.Machine.execFlashOpStart ch s
  | .flashRead rid outcomes => Sys2Proof.Machine.execFlashRead rid outcomes s
  | .t1UncorrectableRead tier pset page => Sys2Proof.Machine.execT1UncorrectableRead tier pset page s
  | .t2ReadTimeout rid t => Sys2Proof.Machine.execT2ReadTimeout rid t s
  | .repairRequest slot => Sys2Proof.Machine.execRepairRequest slot s
  | .repairResponse slot => Sys2Proof.Machine.execRepairResponse slot s
  | .repairTimeout slot t => Sys2Proof.Machine.execRepairTimeout slot t s
  | .repairRetry slot t => Sys2Proof.Machine.execRepairRetry slot t s
  | .segmentProgrammed stream result => Sys2Proof.Machine.execSegmentProgrammed stream result s
  | .segmentFlush stream t => Sys2Proof.Machine.execSegmentFlush stream t s
  | .journalFlush t => Sys2Proof.Machine.execJournalFlush t s
  | .journalPageDurable result => Sys2Proof.Machine.execJournalPageDurable result s
  | .checkpoint t => Sys2Proof.Machine.execCheckpoint t s
  | .erase sb bad zeroBad => Sys2Proof.Machine.execErase sb bad zeroBad s
  | .folding half => Sys2Proof.Machine.execFolding half s
  | .garbageCollection half => Sys2Proof.Machine.execGarbageCollection half s
  | .rewrite sb => Sys2Proof.Machine.execRewrite sb s
  | .flashScrub sb slot t outcome => Sys2Proof.Machine.execFlashScrub sb slot t outcome s
  | .wearLevelling => Sys2Proof.Machine.execWearLevelling s
  | .dieFail die => Sys2Proof.Machine.execDieFail die s
  | .dieRebuild sb => Sys2Proof.Machine.execDieRebuild sb s
  | .mapRebuild entry => Sys2Proof.Machine.execMapRebuild entry s
  | .flashRecovery found => Sys2Proof.Machine.execFlashRecovery found s
  | .linkUp p speed width cxl mld ldUp => Sys2Proof.Machine.execLinkUp p speed width cxl mld ldUp s
  | .dlDown p => Sys2Proof.Machine.execDlDown p s
  | .perstL p => Sys2Proof.Machine.execPerstL p s
  | .cxlMemRequest p ld req ue => Sys2Proof.Machine.execCxlMemRequest p ld req ue s
  | .cxlTokenGrant p ld t => Sys2Proof.Machine.execCxlTokenGrant p ld t s
  | .hdmCommit p ld dec base size ways gran => Sys2Proof.Machine.execHdmCommit p ld dec base size ways gran s
  | .identifyMemoryDevice p ld => Sys2Proof.Machine.execIdentifyMemoryDevice p ld s
  | .getHealthInfo p ld => Sys2Proof.Machine.execGetHealthInfo p ld s
  | .getLog p ld uuid offset len => Sys2Proof.Machine.execGetLog p ld uuid offset len s
  | .getSupportedLogs p ld => Sys2Proof.Machine.execGetSupportedLogs p ld s
  | .getEventRecords p ld log => Sys2Proof.Machine.execGetEventRecords p ld log s
  | .clearEventRecords p ld log handles => Sys2Proof.Machine.execClearEventRecords p ld log handles s
  | .mailboxUnsupported p ld op => Sys2Proof.Machine.execMailboxUnsupported p ld op s
  | .tenOpRead src => Sys2Proof.Machine.execTenOpRead src s
  | .tenOpWrite src => Sys2Proof.Machine.execTenOpWrite src s
  | .extentActivate => Sys2Proof.Machine.execExtentActivate s
  | .tenFm src v => Sys2Proof.Machine.execTenFm src v s
  | .mctpCommand ws => Sys2Proof.Machine.execMctpCommand ws s
  | .mctpRegisterAccess acc => Sys2Proof.Machine.execMctpRegisterAccess acc s
  | .qsEnable src p q v => Sys2Proof.Machine.execQsEnable src p q v s
  | .qsDisable src p q v => Sys2Proof.Machine.execQsDisable src p q v s
  | .qsDrainEnd p q => Sys2Proof.Machine.execQsDrainEnd p q s
  | .dmaRun src ch => Sys2Proof.Machine.execDmaRun src ch s
  | .dmaKick src ch => Sys2Proof.Machine.execDmaKick src ch s
  | .dmaAbort src ch => Sys2Proof.Machine.execDmaAbort src ch s
  | .dmaResume src => Sys2Proof.Machine.execDmaResume src s
  | .descriptorFetch ch => Sys2Proof.Machine.execDescriptorFetch ch s
  | .burstIssue ch => Sys2Proof.Machine.execBurstIssue ch s
  | .burstComplete ch => Sys2Proof.Machine.execBurstComplete ch s
  | .dmaBusError ch cause onFetch => Sys2Proof.Machine.execDmaBusError ch cause onFetch s
  | .netPortUp n t => Sys2Proof.Machine.execNetPortUp n t s
  | .netPortDown n => Sys2Proof.Machine.execNetPortDown n s
  | .loopbackTest n t pass => Sys2Proof.Machine.execLoopbackTest n t pass s
  | .packetReceive n f => Sys2Proof.Machine.execPacketReceive n f s
  | .ackDelay qpn t => Sys2Proof.Machine.execAckDelay qpn t s
  | .ackReceive n f => Sys2Proof.Machine.execAckReceive n f s
  | .cnpReceive n f => Sys2Proof.Machine.execCnpReceive n f s
  | .nakReceive n f => Sys2Proof.Machine.execNakReceive n f s
  | .rnrRetry qpn t => Sys2Proof.Machine.execRnrRetry qpn t s
  | .retryTimer qpn t => Sys2Proof.Machine.execRetryTimer qpn t s
  | .packetSend qpn => Sys2Proof.Machine.execPacketSend qpn s
  | .contextFetch qpn => Sys2Proof.Machine.execContextFetch qpn s
  | .networkRequest qpn => Sys2Proof.Machine.execNetworkRequest qpn s
  | .arpRequest n sender target => Sys2Proof.Machine.execArpRequest n sender target s
  | .neighbourSolicitation n target => Sys2Proof.Machine.execNeighbourSolicitation n target s
  | .ctxRead src => Sys2Proof.Machine.execCtxRead src s
  | .ctxWrite src => Sys2Proof.Machine.execCtxWrite src s
  | .ctxForceError src => Sys2Proof.Machine.execCtxForceError src s
  | .ctxForceReset src => Sys2Proof.Machine.execCtxForceReset src s
  | .xptTringTail src p v => Sys2Proof.Machine.execXptTringTail src p v s
  | .triggerFetch p => Sys2Proof.Machine.execTriggerFetch p s
  | .counterIdle tag t => Sys2Proof.Machine.execCounterIdle tag t s
  | .xptTrigDisarm src tag => Sys2Proof.Machine.execXptTrigDisarm src tag s
  | .gateEvent n t => Sys2Proof.Machine.execGateEvent n t s
  | .takeover n t => Sys2Proof.Machine.execTakeover n t s
  | .frameSelect n t => Sys2Proof.Machine.execFrameSelect n t s
  | .bootSequence kat => Sys2Proof.Machine.execBootSequence kat s
  | .recoveryLoad src => Sys2Proof.Machine.execRecoveryLoad src s
  | .recoveryLoadDone => Sys2Proof.Machine.execRecoveryLoadDone s
  | .mailboxUpdate src => Sys2Proof.Machine.execMailboxUpdate src s
  | .pldmUpdate image => Sys2Proof.Machine.execPldmUpdate image s
  | .imageStaged => Sys2Proof.Machine.execImageStaged s
  | .svnCommit src => Sys2Proof.Machine.execSvnCommit src s
  | .revoke src slot => Sys2Proof.Machine.execRevoke src slot s
  | .fuseDone t => Sys2Proof.Machine.execFuseDone t s
  | .getVersion tr msg => Sys2Proof.Machine.execGetVersion tr msg s
  | .getCapabilities tr msg => Sys2Proof.Machine.execGetCapabilities tr msg s
  | .negotiateAlgorithms tr msg => Sys2Proof.Machine.execNegotiateAlgorithms tr msg s
  | .getDigests tr msg => Sys2Proof.Machine.execGetDigests tr msg s
  | .getCertificate tr msg => Sys2Proof.Machine.execGetCertificate tr msg s
  | .challenge tr msg => Sys2Proof.Machine.execChallenge tr msg s
  | .getMeasurements tr msg => Sys2Proof.Machine.execGetMeasurements tr msg s
  | .chunkSend tr msg => Sys2Proof.Machine.execChunkSend tr msg s
  | .chunkGet tr msg => Sys2Proof.Machine.execChunkGet tr msg s
  | .respondIfReady tr msg => Sys2Proof.Machine.execRespondIfReady tr msg s
  | .spdmUnsupported tr msg => Sys2Proof.Machine.execSpdmUnsupported tr msg s
  | .signatureDone => Sys2Proof.Machine.execSignatureDone s
  | .pathDelaySample t ps => Sys2Proof.Machine.execPathDelaySample t ps s
  | .ringOscillatorSample t vs => Sys2Proof.Machine.execRingOscillatorSample t vs s
  | .leakageSample t vs => Sys2Proof.Machine.execLeakageSample t vs s
  | .refreshMarginTest unit margin => Sys2Proof.Machine.execRefreshMarginTest unit margin s
  | .replanStart t => Sys2Proof.Machine.execReplanStart t s
  | .replanNow src => Sys2Proof.Machine.execReplanNow src s
  | .replanEnd t outs => Sys2Proof.Machine.execReplanEnd t outs s
  | .failStack src stack => Sys2Proof.Machine.execFailStack src stack s
  | .stackFail stack => Sys2Proof.Machine.execStackFail stack s
  | .ceStormEnd page t => Sys2Proof.Machine.execCeStormEnd page t s
  | .rasLogClear src => Sys2Proof.Machine.execRasLogClear src s
  | .fatalReset t => Sys2Proof.Machine.execFatalReset t s
  | .warmReset src v => Sys2Proof.Machine.execWarmReset src v s
  | .phaseEnd t => Sys2Proof.Machine.execPhaseEnd t s
  | .intStatusClear src page v => Sys2Proof.Machine.execIntStatusClear src page v s
  | .intForce src page v => Sys2Proof.Machine.execIntForce src page v s
  | .counterClear src addr v => Sys2Proof.Machine.execCounterClear src addr v s
  | .latchingRead src addr => Sys2Proof.Machine.execLatchingRead src addr s
  | .registerWrite src addr v => Sys2Proof.Machine.execRegisterWrite src addr v s
  | .telemetryFrame t railsMw coreMa => Sys2Proof.Machine.execTelemetryFrame t railsMw coreMa s
  | .powerSample t mv => Sys2Proof.Machine.execPowerSample t mv s
  | .clockRaise t => Sys2Proof.Machine.execClockRaise t s
  | .telemetryLoss t => Sys2Proof.Machine.execTelemetryLoss t s
  | .vrmHotL low => Sys2Proof.Machine.execVrmHotL low s
  | .tempSample t temps => Sys2Proof.Machine.execTempSample t temps s
  | .thermalComparator => Sys2Proof.Machine.execThermalComparator s
  | .resetL t => Sys2Proof.Machine.execResetL t s
  | .pwrGood level t => Sys2Proof.Machine.execPwrGood level t s
  | .resetRelease t => Sys2Proof.Machine.execResetRelease t s
  | .sysRefclkLoss t => Sys2Proof.Machine.execSysRefclkLoss t s
  | .pcieRefclkLoss p t => Sys2Proof.Machine.execPcieRefclkLoss p t s
  | .netRefclkLoss die t => Sys2Proof.Machine.execNetRefclkLoss die t s
  | .dieToDieLinkLoss die => Sys2Proof.Machine.execDieToDieLinkLoss die s
  | .perstLRelease p => Sys2Proof.Machine.execPerstLRelease p s
  | .sysRefclkReturn t => Sys2Proof.Machine.execSysRefclkReturn t s
  | .mctpControlMessage cmd msg => Sys2Proof.Machine.execMctpControlMessage cmd msg s
  | .pldmPlatformEvent => Sys2Proof.Machine.execPldmPlatformEvent s
  | .activateFirmware msg => Sys2Proof.Machine.execActivateFirmware msg s
  | .cdat p ld => Sys2Proof.Machine.execCdat p ld s

end Sys2Proof.Machine
end

