-- ==== Sys2Proof/Safety.lean ====
section
/-! DEFINITION. The terms that statements use: what a step leaves unchanged, the forms that hold in every state that
a run reaches, and what no run ever undoes. -/

namespace Sys2Proof.Machine

/-! ### Frames -/

/-- Every register outside the list reads as before. -/
def sameRegsBut (s t : State) (l : List Nat) : Prop := ∀ a, a ∉ l → t.reg a = s.reg a

/-- Every byte of a host's memory outside `n` bytes from `a` of port `p` reads as before; the other port's memory is
untouched. -/
def sameHostBut (s t : State) (p a n : Nat) : Prop :=
  (∀ j, ¬ (a ≤ j ∧ j < a + n) → (t.host p).rd j = (s.host p).rd j) ∧ (p ≠ 0 → t.host0 = s.host0) ∧ (p = 0 → t.host1 = s.host1)

/-! ### Forms that every step keeps -/

/-- Every byte memory is in its canonical form. -/
def State.memOk (s : State) : Bool := s.host0.wf && s.host1.wf && s.page.wf && s.cxl.wf

/-- The keys of every table that a statement reads rise strictly: registers and banks, directory slots, page sets,
superblocks, tenant records, gates, network ports, oscillators, leakage sensors, latched words. -/
def State.keysRise (s : State) : Prop :=
  s.regs.rising ∧ s.act.rising ∧ s.pend.rising ∧ s.prev.rising ∧ Sparse.rising s.dir.slots ∧ Sparse.rising s.tier.psets ∧ Sparse.rising s.flm.sb ∧
    Sparse.rising s.ten.tbl ∧ Sparse.rising s.net.gate ∧ Sparse.rising s.net.port ∧ Sparse.rising s.hlt.ro ∧ Sparse.rising s.hlt.leak ∧ s.latch.rising

/-- What a warm reset keeps of a state, and that everything else starts over (17 R602, R603, R607; 01 R38, R39). -/
def State.warmKept (s u : State) : Prop :=
  u.start = .verify ∧ u.act = s.act ∧ u.pend = s.pend ∧ u.prev = s.prev ∧ u.cfg.edition = s.cfg.edition ∧
    u.cfg.check = none ∧ u.cfg.armed = none ∧ u.ten = { State.reset.ten with tbl := s.ten.tbl } ∧
    u.reg (pg 0x6C + 0x100) = s.reg (pg 0x6C + 0x100) ∧ u.reg (pg 0x6C + 0x104) = s.reg (pg 0x6C + 0x104) ∧
    u.que = State.reset.que ∧ u.dma = State.reset.dma ∧ u.psa = State.reset.psa ∧ u.pfs = State.reset.pfs ∧ u.npa = State.reset.npa ∧
    u.ras = State.reset.ras ∧ u.cxl = [] ∧ u.stk.sync = .acquiring ∧ u.stk.running = false ∧ u.stk.insts = [] ∧
    u.dir.slots = s.dir.slots ∧ u.dir.proofs = [] ∧ u.tier.moves = [] ∧ u.sec.fuse = s.sec.fuse ∧ u.flm = s.flm.afterReset ∧
    u.host0 = s.host0 ∧ u.host1 = s.host1 ∧ u.pending = s.pending

/-- What a fuse block has burnt, seen from an older one (15 R541, R542): the SVN has not fallen, no revocation bit has
been lost, the life cycle has not gone back, and the secret and the key slots that were programmed are as they were. -/
def Fuse.keeps (old new : Fuse) : Prop :=
  old.svn ≤ new.svn ∧ (∀ i, old.revoked.testBit i = true → new.revoked.testBit i = true) ∧ old.life ≤ new.life
    ∧ new.secret = old.secret ∧ new.keys = old.keys

/-- Commands after which the device may have started over: a cold or warm reset, or a register access that can ask for one
(17 R602, R607; 16 R571; 18 R618, R623, R624, R633). -/
def mayReset : Instr → Bool
  | .resetL _ | .pwrGood _ _ | .sysRefclkLoss _ | .thermalComparator | .warmReset _ _ | .fatalReset _ => true
  | .registerWrite _ _ _ | .mctpRegisterAccess _ => true
  | _ => false

/-- Commands after which another set of configuration values may be active, or another stroke running: those, the end of a
check, a boundary or a step of time, a re-plan and what starts or raises one (17 R597; 02 R43, R57; 16 R564, R565; 10 R348). -/
def mayReplace (c : Instr) : Bool :=
  mayReset c || match c with
    | .cfgCheckEnd _ | .strokeBoundary _ | .syncMessage _ _ | .replanEnd _ _ | .pathDelaySample _ _ | .flashRecovery _ => true
    | _ => false

end Sys2Proof.Machine
end

