-- ==== Sys2Proof/Certificates/Slice0/Obligations.lean ====
section
/-! DEFINITION. The statements about the model: for every family of commands the next state that its rule gives, the
rules of the registers, and the forms that every step keeps. -/

open Sys2Proof Sys2Proof.Machine


/-! ### 02: strokes -/

/-- 02 R41, R43, R44, R49, R51 to R57; 18 R622: no stroke begins before its start in local time, nor while ACQUIRING; each
boundary's number is above the last, and one above it with no takeover due; the sync state moves as R51 to R56 say: LOCKED never
steps time, a fresh lock steps it once and needs 16 messages in a row within the limit, and the stroke after a step is the
present one or the one that PTP time has reached. PPS_OUT pulses and peer-delay answers follow their conditions. (Local time is
device time plus an offset that only steps change, and a lock's first message steps it: the model's choice, log entry 30.) -/
def Obligations.TimeIsKept : Prop :=
  (∀ (s : State) (t : Nat), (s.stk.sync = .acquiring ∨ (s.at_ t).local_ < s.nextBoundary.2 → exec (.strokeBoundary t) s = .next (s.at_ t)) ∧
    (s.memOk = true → s.keysRise → s.stk.sync ≠ .acquiring → s.nextBoundary.2 ≤ (s.at_ t).local_ → ∃ u : State, exec (.strokeBoundary t) s = .next u ∧
      u.stk.running = true ∧ (s.stk.running = true → s.stk.stroke < u.stk.stroke) ∧
      (s.cfg.armed = none → s.replanDue = false → s.stk.take = [] → u.stk.stroke = s.nextBoundary.1 ∧ u.act = s.act ∧ u.cfg.edition = s.cfg.edition))) ∧
  (∀ s : State, s.stk.take = [] → 0 < s.stk.period → ∀ n b, s.nextBoundary = (n, b) → b = (s.stk.epoch : Int) + (n : Int) * ((s.stk.period : Int) * 10) ∧
    (s.stk.running = true → n = s.stk.stroke + 1) ∧ (s.stk.running = false → (s.stk.readyAt : Int) + s.stk.off ≤ b ∧
      ∀ k, k < n → (s.stk.epoch : Int) + (k : Int) * ((s.stk.period : Int) * 10) < (s.stk.readyAt : Int) + s.stk.off)) ∧
  (∀ (s : State) (t : Nat) (x : Int), ∀ w, w = ({ s.at_ t with stk := { s.stk with offset := x, lastSync := (s.at_ t).clk } } : State) →
    ∀ lim step, lim = s.syncLimit → step = s.stkFld 0x12C 0 16 →
    (s.stk.sync = .locked → x.natAbs ≤ step → exec (.syncMessage t x) s = .next w) ∧
    (s.stk.sync = .locked ∨ (s.stk.sync = .holdover ∧ lim < x.natAbs) → step < x.natAbs → ∃ u : State, exec (.syncMessage t x) s = .next u ∧
      u.stk = { w.stk with good := 0, stepped := false, sync := .unlocked }) ∧
    (s.stk.sync = .holdover → x.natAbs ≤ lim → ∃ u : State, exec (.syncMessage t x) s = .next u ∧ u.stk = { w.stk with sync := .locked }) ∧
    (s.stk.sync = .holdover → lim < x.natAbs → x.natAbs ≤ step → exec (.syncMessage t x) s = .next w) ∧
    (∀ g, s.stk.sync = .acquiring ∨ s.stk.sync = .unlocked → g = (if x.natAbs ≤ lim then s.stk.good + 1 else 0) →
      (s.stk.stepped = true → ∃ u : State, exec (.syncMessage t x) s = .next u ∧ u.stk.off = s.stk.off ∧ u.stk.good = g ∧
        u.stk.stroke = s.stk.stroke ∧ u.stk.sync = if 16 ≤ g then .locked else s.stk.sync) ∧
      (s.stk.stepped = false → s.stk.running = false → ∃ u : State, exec (.syncMessage t x) s = .next u ∧ u.stk.off = s.stk.off - x ∧
        u.stk.stepped = true ∧ u.stk.good = g ∧ u.stk.running = false ∧ u.stk.sync = if 16 ≤ g then .locked else s.stk.sync) ∧
      (s.stk.stepped = false → s.stk.running = true → s.memOk = true → s.keysRise → ∃ u : State, exec (.syncMessage t x) s = .next u ∧
        u.stk.running = true ∧ s.stk.stroke ≤ u.stk.stroke ∧
        (s.cfg.armed = none → s.replanDue = false → s.stk.take = [] → ∀ l : Int, l = (s.at_ t).local_ - x →
          u.stk.stroke = if (s.stk.epoch : Int) ≤ l then max s.stk.stroke ((l - s.stk.epoch) / ((s.stk.period : Int) * 10)).toNat else s.stk.stroke)))) ∧
  (∀ (s : State) (t : Nat),
    (s.stk.sync = .locked → s.stk.lastSync + s.stkFld 0x11C 20 4 * s.syncInterval ≤ (s.at_ t).clk → ∃ u : State, exec (.syncLoss t) s = .next u ∧
      u.stk = { s.stk with sync := .holdover, est := s.stk.offset.natAbs, estAt := (s.at_ t).clk } ∧
      u.reg (pg 0x03 + 0x1A0) = satAdd (s.reg (pg 0x03 + 0x1A0)) 1) ∧
    (s.stk.sync ≠ .locked ∨ (s.at_ t).clk < s.stk.lastSync + s.stkFld 0x11C 20 4 * s.syncInterval → exec (.syncLoss t) s = .next (s.at_ t)) ∧
    (s.stk.sync = .holdover → 2 * s.syncLimit * 10 ^ 9 < s.stk.est * 10 ^ 9 + ((s.at_ t).clk - s.stk.estAt) * s.stkFld 0x11C 12 8 →
      ∃ u : State, exec (.holdoverLimit t) s = .next u ∧ u.stk = { s.stk with sync := .unlocked, good := 0, stepped := false }) ∧
    (s.stk.sync ≠ .holdover ∨ s.stk.est * 10 ^ 9 + ((s.at_ t).clk - s.stk.estAt) * s.stkFld 0x11C 12 8 ≤ 2 * s.syncLimit * 10 ^ 9 →
      exec (.holdoverLimit t) s = .next (s.at_ t))) ∧
  (∀ (s : State) (t : Nat) (d : Int), d = (s.at_ t).local_ % 10 ^ 9 →
    (s.stk.sync = .holdover → bit (s.cfgReg (pg 0x03 + 0x11C)) 31 = true → d ≤ 1000 ∨ 999999000 ≤ d → exec (.ppsEdge t) s =
      .next { s.at_ t with stk := { s.stk with ppsAt := some (s.at_ t).clk, est := 5 * s.stkFld 0x11C 24 4, estAt := (s.at_ t).clk } }) ∧
    (s.stk.sync ≠ .holdover ∨ bit (s.cfgReg (pg 0x03 + 0x11C)) 31 = false ∨ (1000 < d ∧ d < 999999000) → exec (.ppsEdge t) s =
      .next { s.at_ t with stk := { s.stk with ppsAt := some (s.at_ t).clk } }) ∧
    (s.stk.sync = .locked ∨ s.stk.sync = .holdover → bit (s.cfgReg (pg 0x7C + 0x100)) 1 = true → d = 0 → exec (.ppsOut t) s = .next ((s.at_ t).send .pps)) ∧
    ((s.stk.sync ≠ .locked ∧ s.stk.sync ≠ .holdover) ∨ bit (s.cfgReg (pg 0x7C + 0x100)) 1 = false ∨ d ≠ 0 → exec (.ppsOut t) s = .next (s.at_ t))) ∧
  (∀ (s : State) (n : Nat), ((s.netPort n).up = true → ∃ k, exec (.peerDelayRequest n) s = .next (s.enqFrame n 7 k .peerDelay)) ∧
    ((s.netPort n).up = false → exec (.peerDelayRequest n) s = .next s))

/-- 02 R59 to R63, R65, R67, R69, R72, R79: a ring's tail takes a value below its size; a header is read while fewer than two are held and
the tail has passed it, HEAD passes over it, and one that R61 refuses, or that a bus error ends, runs nothing and raises PROG_ERR; its
instances are fetched one after another from the lead before their targets on; a class window opens and closes once in a stroke; the
first startable record of a class starts, as a command of its own; the summary of an instance waits for all its records. (A record fetch
that a bus error ends takes the program with it, as R65 says the timer moves on to the next header.) -/
def Obligations.ProgramsRunInTheirWindows : Prop :=
  (∀ (s : State) (p : Nat) (v : Word), (2 ≤ p ∨ s.pageOn (.port p) 0x03 = false ∨ s.pringSize p ≤ fld v 0 12 → exec (.stkPringTail p v) s = .next s) ∧
    (p < 2 → s.pageOn (.port p) 0x03 = true → fld v 0 12 < s.pringSize p → exec (.stkPringTail p v) s =
      .next (s.setReg (pringAddr p + 0x10) (w32 (fld v 0 12))))) ∧
  (∀ (s : State) (p head : Nat), head = fld (s.reg (pringAddr p + 0xC)) 0 12 →
    (s.fetches p = false ∨ s.pringSize p ≤ head ∨ head = fld (s.reg (pringAddr p + 0x10)) 0 12 ∨
      2 ≤ (s.stk.progs.filter (fun x => decide (x.port = p))).length → exec (.headerFetch p) s = .next s) ∧
    (s.fetches p = true → head < s.pringSize p → head ≠ fld (s.reg (pringAddr p + 0x10)) 0 12 →
      (s.stk.progs.filter (fun x => decide (x.port = p))).length < 2 → ∀ base, base = (s.reg (pringAddr p)).toNat + 2 ^ 32 * (s.reg (pringAddr p + 4)).toNat →
      ∀ s1, s1 = s.setReg (pringAddr p + 0xC) (w32 ((head + 1) % s.pringSize p)) →
      (s.hostRead p (base + 64 * head) 64 = none → exec (.headerFetch p) s = .next (s1.raise 0x03 5)) ∧
      (∀ bs ws, s.hostRead p (base + 64 * head) 64 = some bs → ws = wordsOf bs →
        ((headerBad ws = true ∨ ∃ x, s.prevTarget p = some x ∧ wd64 ws 0 < x) → exec (.headerFetch p) s =
          .next ((State.summary (s1.setPrevTarget p (some (wd64 ws 0))) p ws .badCommand (wd64 ws 0) 0 0 0 0).raise 0x03 5)) ∧
        (headerBad ws = false → (∀ x, s.prevTarget p = some x → x ≤ wd64 ws 0) → ∃ u : State, exec (.headerFetch p) s = .next u ∧
          ({ port := p, ws := ws, target := wd64 ws 0, last := wd64 ws 0 + fld (ws.getD 4 0) 16 16, next := wd64 ws 0 } : Prog) ∈ u.stk.progs ∧
          (∀ y ∈ u.stk.progs, y.port = p → y.ws = ws ∨ y.last < wd64 ws 0 ∨ y.last < y.next) ∧ (∀ y ∈ u.stk.insts, y ∈ s.stk.insts) ∧
          u.prevTarget p = some (wd64 ws 0) ∧ u.regs = s1.regs)))) ∧
  (∀ (s : State) (p t : Nat) (x : Prog), s.stk.progs.find? (fun x => decide (x.port = p ∧ x.next ≤ x.last)) = some x →
    ((s.at_ t).fetches p = false ∨ (s.at_ t).instFull p = true ∨ (s.at_ t).local_ + (s.lead : Int) < s.startOf x.next →
      exec (.recordFetch p t) s = .next (s.at_ t)) ∧
    ((s.at_ t).fetches p = true → (s.at_ t).instFull p = false → s.startOf x.next ≤ (s.at_ t).local_ + (s.lead : Int) →
      (∀ bs, s.hostRead p (wd64 x.ws 2) (96 * fld (x.ws.getD 4 0) 0 16) = some bs → ∃ u : State, exec (.recordFetch p t) s = .next u ∧
        u.stk.insts = s.stk.insts ++ [{ iid := s.stk.nextIid, port := p, target := x.next, ws := x.ws, recs := recsOf (fld (x.ws.getD 4 0) 0 16) bs, active := false, silent := false }] ∧
        u.stk.nextIid = s.stk.nextIid + 1 ∧ u.que = s.que ∧ u.page = s.page ∧
        (s.isOver x.ws = true → u.reg (pg 0x03 + 0x19C) = satAdd (s.reg (pg 0x03 + 0x19C)) 1 ∧ u.stk.overcommit = true)) ∧
      (s.hostRead p (wd64 x.ws 2) (96 * fld (x.ws.getD 4 0) 0 16) = none → ∀ u : State,
        u = State.summary { s.at_ t with stk := { s.stk with progs := s.stk.progs.filter (fun y => decide (y ≠ x)) } } p x.ws .busError x.next 0 0 0 0 →
        exec (.recordFetch p t) s = .next (if bit (x.ws.getD 5 0) 15 then u.raise 0x03 5 else u)))) ∧
  (∀ (s : State) (p : Nat), s.instFull p = true ↔
    (∃ y ∈ s.stk.insts, y.port = p ∧ y.active = false ∧ (s.stk.stroke < y.target ∨ s.stk.running = false)) ∨
      2 ≤ (s.stk.insts.filter (fun y => decide (y.port = p) && !y.active)).length) ∧
  (∀ (s : State) (p t : Nat), s.stk.progs.find? (fun x => decide (x.port = p ∧ x.next ≤ x.last)) = none → exec (.recordFetch p t) s = .next (s.at_ t)) ∧
  (∀ (s : State) (c t : Nat),
    (4 ≤ c ∨ s.stk.running = false ∨ s.winSt c ≠ .before ∨ (s.at_ t).clk < s.stk.boundary + (s.window c).1 * 10 ∨
      s.stk.boundary + (s.window c).2 * 10 ≤ (s.at_ t).clk → exec (.windowOpen c t) s = .next (s.at_ t)) ∧
    (c < 4 → s.stk.running = true → s.winSt c = .before → s.stk.boundary + (s.window c).1 * 10 ≤ (s.at_ t).clk →
      (s.at_ t).clk < s.stk.boundary + (s.window c).2 * 10 → ∀ w : State,
      w = { s.at_ t with stk := { s.stk with win := s.stk.win.set c .open_, insts := s.stk.insts.map (fun x =>
        { x with recs := updIf x.recs (fun r => decide (recClass r.ws = some c)) (fun r => { r with carried := false }) }) } } →
      exec (.windowOpen c t) s = .next (w.freezeReady c).jobsResume) ∧
    (4 ≤ c ∨ s.winSt c ≠ .open_ ∨ (s.at_ t).clk < s.stk.boundary + (s.window c).2 * 10 → exec (.windowClose c t) s = .next (s.at_ t)) ∧
    (c < 4 → s.winSt c = .open_ → s.stk.boundary + (s.window c).2 * 10 ≤ (s.at_ t).clk → exec (.windowClose c t) s = .next ((s.at_ t).windowShut c) ∧
      ((∀ x ∈ s.stk.insts, x.active = true → s.stk.stroke < x.target + s.carryMax) → ∀ v : State,
        v = State.releaseHolds { s.at_ t with stk := { s.stk with win := s.stk.win.set c .closed } } →
        (s.at_ t).windowShut c = if c = 1 then v.expireHolds v.carryMax else if c = 2 then v.reselect else v))) ∧
  (∀ (s : State) (c t : Nat), ((∀ x ∈ s.stk.insts, ∀ r ∈ x.recs, (s.at_ t).mayStart x r c = false) → exec (.recordStart c t) s = .next (s.at_ t)) ∧
    (∀ (x : Inst) (r : SRec) (l : Live) rest, ∀ w, w = (s.at_ t).freezeReady c →
      w.instOrder.flatMap (fun x => (x.recs.filter (fun r => w.mayStart x r c)).map (fun r => (x, r))) = (x, r) :: rest →
      w.inst x.iid = some x → x.record r.idx = some r → w.recTest x r c = .start → w.recLive x r = some l → ∃ u : State,
      exec (.recordStart c t) s = .next u ∧ u.que.nextId = s.que.nextId + 1 ∧
      (∃ v, u.que.live = s.que.live ++ [v] ∧ v.id = s.que.nextId ∧ v.src = .record x.port x.iid r.idx ∧ v.tenant = l.tenant ∧ v.phase = .accepted ∧
        v.tag = wd64 r.ws 4) ∧
      (∃ y, u.inst x.iid = some y ∧ y.record r.idx = some { r with st := .started s.que.nextId, layer := some (w.recLayer x r) }) ∧
      u.page = s.page ∧ u.host0 = s.host0 ∧ u.host1 = s.host1 ∧ u.net = s.net ∧ u.brn = s.brn ∧ u.npa = s.npa ∧ u.pfs = s.pfs)) ∧
  (∀ (s : State) (x : Inst) (r : SRec) (c : Nat), s.mayStart x r c = true ↔ (x.active = true ∧ r.st = .waiting ∧ recClass r.ws = some c ∧ r.carried = false ∧
    s.winSt c = .open_ ∧ afterOk x.recs r = true ∧ (x.target < s.stk.stroke ∨ s.stk.boundary + recNotBefore r.ws * 10 ≤ s.clk))) ∧
  (∀ (s : State) (p target : Nat), ∀ f, f = s.stk.insts.find? (fun x => decide (x.port = p ∧ x.target = target) && x.active && !x.silent && bit (x.ws.getD 5 0) 15 && x.recs.all SRec.isFinal) →
    (f = none → exec (.programSummary p target) s = .next s) ∧
    (∀ x, f = some x → ∀ sts on late tout, sts = x.recs.filterMap SRec.final? → on = (sts.filter (fun st => decide (st = .ok ∨ st = .multi))).length →
      late = (sts.filter (fun st => decide (st = .late))).length → tout = (sts.filter (fun st => decide (st = .timeout))).length → ∀ s1,
      s1 = s.summary p x.ws (if on = sts.length then .ok else if on + late = sts.length then .late else .conflict) target late on (sts.length - on - late - tout) tout →
      exec (.programSummary p target) s = .next (State.releaseHolds { s1 with stk := { s1.stk with insts := s1.stk.insts.filter (fun y => decide (y.iid ≠ x.iid)) } })))
/-! ### 04: Prefix Search Array -/

/-- 04 R126, R128 to R130, R136, R137, R150, R116, R641: a group that asked for it becomes held, all its entries in ascending FORM
order in one segment with a slot to spare, or is counted in PSA_WITHDRAWN or PSA_NOROOM; compaction, where there is a reason for
it, and draining move a held group whole into such a segment, or withdraw and count it; re-homing takes the first group of the
image out of the failed bank and holds it anew. -/
def Obligations.PsaGroupsHeldWhole : Prop :=
  (∀ (s : State) (slot : Nat), (s.psa.want.contains slot = false → exec (.psaInsert slot) s = .next s) ∧
    (s.psa.want.contains slot = true → ∀ u : State, u = { s with psa := { s.psa with want := s.psa.want.filter (fun x => decide (x ≠ slot)) } } →
      ((s.slot slot).resident = false ∨ s.groupHot (s.slot slot).key = false ∨ s.isHeld (s.slot slot).key = true → exec (.psaInsert slot) s = .next u) ∧
      ((s.slot slot).resident = true → s.groupHot (s.slot slot).key = true → s.isHeld (s.slot slot).key = false → exec (.psaInsert slot) s = .next (u.hold (s.slot slot).key)))) ∧
  (∀ (s : State) (k : Key) (es : List (Nat × Slot)), es = s.groupEntries k →
    (largestGroup k.keyForm < es.length → s.hold k = s.bump (pg 0x07 + 0x19C)) ∧
    (es.length ≤ largestGroup k.keyForm →
      (∀ b seg, s.segWith (s.banksFor k.keyForm) (es.length + 1) = some (b, seg) →
        s.hold k = (s.updBank b (fun v => v.putAll seg es)).setHeld k true) ∧
      (s.segWith (s.banksFor k.keyForm) (es.length + 1) = none → s.hold k = s.count 0x07 0x198 2))) ∧
  (∀ (s : State) (k : Key) (es : List (Nat × Slot)) (own : Nat) (banks : List Nat) (n : Nat),
    (∀ b seg, s.segWith banks n = some (b, seg) → s.moveGroup k es own banks n =
      (((s.updBank own (·.remove (es.map (·.1)))).updBank b (fun x => x.putAll seg es)).drainEnd own, some (b, seg))) ∧
    (s.segWith banks n = none → s.moveGroup k es own banks n = ((s.unhold k).count 0x07 0x198 2, none))) ∧
  (∀ (s : State) (slot bank : Nat) (k : Key) (es : List (Nat × Slot)), k = (s.slot slot).key → es = s.groupEntries k →
    (s.psaCtrl 2 = false ∨ s.slack .psa = false ∨ s.isHeld k = false ∨ s.bankOf (es.map (·.1)) ≠ some bank ∨ (s.bank bank).state ≠ .active →
      exec (.psaCompaction slot bank) s = .next s) ∧
    (s.psaCtrl 2 = true → s.slack .psa = true → s.isHeld k = true → s.bankOf (es.map (·.1)) = some bank → (s.bank bank).state = .active →
      ((s.segWith (s.skewed bank) (es.length + 1)).isSome = true →
        exec (.psaCompaction slot bank) s = .next (s.moveGroup k es bank (s.skewed bank) (es.length + 1)).1) ∧
      (s.skewed bank ≠ [] → s.segWith (s.skewed bank) (es.length + 1) = none → exec (.psaCompaction slot bank) s =
        .next (s.moveGroup k es bank (bank :: (s.banksFor k.keyForm).filter (fun b => decide (b ≠ bank))) (es.length + 1)).1) ∧
      (s.skewed bank = [] → (∀ seg, s.groupSeg bank (es.map (·.1)) = some seg → s.segTight bank seg = false) →
        exec (.psaCompaction slot bank) s = .next s) ∧
      (∀ seg, s.skewed bank = [] → s.groupSeg bank (es.map (·.1)) = some seg → s.segTight bank seg = true → exec (.psaCompaction slot bank) s =
        .next (s.moveGroup k es bank (bank :: (s.banksFor k.keyForm).filter (fun b => decide (b ≠ bank))) (es.length + 1)).1))) ∧
  (∀ (s : State) (slot bank : Nat) (k : Key) (es : List (Nat × Slot)), k = (s.slot slot).key → es = s.groupEntries k →
    ((s.bank bank).state ≠ .draining → exec (.psaDrain bank slot) s = .next s) ∧
    ((s.bank bank).state = .draining →
      ((s.bank bank).rows.any (fun e => (es.map (·.1)).contains e.2.dir) = true →
        exec (.psaDrain bank slot) s = .next (s.moveGroup k es bank (s.banksFor k.keyForm) (es.length + 1)).1) ∧
      ((s.bank bank).rows.any (fun e => (es.map (·.1)).contains e.2.dir) = false → exec (.psaDrain bank slot) s = .next (s.drainEnd bank)))) ∧
  (∀ (s : State) (bank t : Nat), ∀ f, f = (s.bank bank).image.find? (fun e => decide (e.2 / 2 ^ 62 = 1)) →
    (s.psaCtrl 0 = false ∨ (s.at_ t).slack .psa = false ∨ (s.bank bank).state ≠ .failed ∨ (s.at_ t).clk < s.psa.rehomeAt ∨ f = none →
      exec (.psaRehome bank t) s = .next (s.at_ t)) ∧
    (∀ r m v, s.psaCtrl 0 = true → (s.at_ t).slack .psa = true → (s.bank bank).state = .failed → s.psa.rehomeAt ≤ (s.at_ t).clk →
      f = some (r, m) → v = s.slot (m % 2 ^ 26) →
      ((s.bank bank).imgBad.contains r = true → exec (.psaRehome bank t) s = .next ((s.at_ t).withdrawSeg bank (r / 64)).failStacks) ∧
      ((s.bank bank).imgBad.contains r = false → ∀ w u : State,
        w = (s.at_ t).updBank bank (fun x => (x.remove ((s.groupSlots v.key (fun _ => true)).map (·.1))).drop [r / 2 ^ x.width]) →
        u = { w with psa := { w.psa with rehomeAt := (s.at_ t).clk + ((s.groupEntries v.key).length * 1000000 +
          s.cfgFld (pg 0x07 + 0x114) 0 16 - 1) / s.cfgFld (pg 0x07 + 0x114) 0 16 } } →
        exec (.psaRehome bank t) s = .next (if v.resident && s.groupHot v.key && !s.isHeld v.key then u.hold v.key else u))))

/-- 04 R142, R145, R146, R148, R156: the temperature level rises to the step that the hottest sensor reaches and falls one step
below its step less the hysteresis (exactly at it the level stays: the model's choice, log entry 139); a pass that runs past its
limit is late; a bank that fails, by itself or by FORCE_FAIL, is FAILED, its entries are held no more and a class 2 record is
written; INJECT arms one bit error. -/
def Obligations.PsaThrottleAndBankFailure : Prop :=
  (∀ (s : State) (t : Nat) (temps : List Nat) (hot : Nat), hot = temps.foldl max 0 →
    ∃ u, exec (.psaTempSample t temps) s = .next u ∧ u = { s with clk := max s.clk t, psa := u.psa, regs := u.regs, fns := u.fns, out := u.out } ∧
      u.psa = { s.psa with tempC := hot, tempLevel := u.psa.tempLevel, slots := (s.at_ t).psaSlots, slotsAt := max s.clk t } ∧
      (∀ n, 0 < n → n ≤ 3 → s.psa.tempLevel < n → s.cfgFld (pg 0x07 + 0x104) (8 * n) 8 ≤ hot →
        (∀ m, n < m → m ≤ 3 → hot < s.cfgFld (pg 0x07 + 0x104) (8 * m) 8) → u.psa.tempLevel = n) ∧
      ((∀ m, s.psa.tempLevel < m → m ≤ 3 → hot < s.cfgFld (pg 0x07 + 0x104) (8 * m) 8) → 
        (0 < s.psa.tempLevel → hot + s.cfgFld (pg 0x07 + 0x104) 0 4 < s.cfgFld (pg 0x07 + 0x104) (8 * s.psa.tempLevel) 8 →
          u.psa.tempLevel = s.psa.tempLevel - 1) ∧
        (s.psa.tempLevel = 0 ∨ s.cfgFld (pg 0x07 + 0x104) (8 * s.psa.tempLevel) 8 ≤ hot + s.cfgFld (pg 0x07 + 0x104) 0 4 →
          u.psa.tempLevel = s.psa.tempLevel)) ∧
      (max u.psa.tempLevel u.psa.powerLevel = max s.psa.tempLevel s.psa.powerLevel → u.regs = s.regs)) ∧
  (∀ (s : State) (b t : Nat),
    (b < 16 → s.psaCtrl 1 = true → (s.bank b).late = false → (s.bank b).passAt + s.cfgFld (pg 0x07 + 0x10C) 16 16 * 1000000 < max s.clk t →
      exec (.scrubLate b t) s = .next (((s.at_ t).setBank b { s.bank b with late := true }).raise 0x07 0)) ∧
    (16 ≤ b ∨ s.psaCtrl 1 = false ∨ (s.bank b).late = true ∨ max s.clk t ≤ (s.bank b).passAt + s.cfgFld (pg 0x07 + 0x10C) 16 16 * 1000000 →
      exec (.scrubLate b t) s = .next (s.at_ t))) ∧
  (∀ (s : State) (src : Src) (b : Nat),
    (b < 16 → exec (.bankFailed b) s = .next (s.bankFail b) ∧ (s.pageOn src (0x08 + b) = true → s.reached .verify = true →
      exec (.psaForceFail src b) s = .next (s.bankFail b) ∧ exec (.psaInject src b) s = .next (s.setBank b { s.bank b with inject := true }))) ∧
    (16 ≤ b ∨ s.pageOn src (0x08 + b) = false ∨ s.reached .verify = false →
      exec (.psaForceFail src b) s = .next s ∧ exec (.psaInject src b) s = .next s) ∧
    (16 ≤ b → exec (.bankFailed b) s = .next s) ∧
    ((s.bank b).state = .failed → s.bankFail b = s) ∧
    ((s.bank b).state ≠ .failed → ((s.bankFail b).bank b).state = .failed ∧ ∃ v : State,
      s.bankFail b = v.rasRecord (0x08 + b) 0x0A 2 b (Config.freeNat s.free) ∧
      (s.dir.slots.rising → ∀ e ∈ (s.bank b).rows, (v.slot e.2.dir).held = false) ∧
      (∀ i, (∀ e ∈ (s.bank b).rows, e.2.dir ≠ i) → v.slot i = s.slot i)))

/-- 04 R140 to R144, R152: once its time has come a scrub read reads one row of every bank, in slack or of one whose pass is late; a
row that agrees with its image is passed over, one that does not is repaired, and an image that cannot be read takes its groups
out; a pass that ends starts anew, counted, and is late no more. The start-up rebuild makes every enabled bank that passes its
self-test ACTIVE in its configured width and every other one EMPTY, a bank that has failed stays FAILED, and it holds nothing
while no entry is HOT or SHARED. (When soft errors strike is the command's operand, the model's choice: log entry 141.) -/
def Obligations.PsaScrubAndRebuild : Prop :=
  (∀ (s : State) (t : ScrubRead) (w : State), w = t.upsets.foldl State.upset (s.at_ t.at_) →
    (w.psaCtrl 1 = false ∨ w.reached .psa = false ∨ w.clk < w.psa.scrubAt → exec (.psaScrubRead t) s = .next w) ∧
    (w.psaCtrl 1 = true → w.reached .psa = true → w.psa.scrubAt ≤ w.clk → ∀ v : State,
      v = { w with psa := { w.psa with scrubAt := w.clk + psaNs (w.cfgFld (pg 0x07 + 0x10C) 0 16) } } →
      (v.slack .psa = true → exec (.psaScrubRead t) s = .next ((List.range 16).foldl State.scrubBank v).failStacks) ∧
      (v.slack .psa = false → exec (.psaScrubRead t) s =
        .next ((List.range 16).foldl (fun u b => if (u.bank b).late then u.scrubBank b else u) v).failStacks))) ∧
  (∀ (s : State) (b r : Nat), r = (s.bank b).scrub → (s.bank b).inject = false → (∀ e ∈ (s.bank b).rows, e.2.err = .ok) →
    ((s.bank b).imgBad.contains r = false → (s.bank b).scrubOk r = true →
      (r + 1 < 2 ^ 18 → s.scrubBank b = s.setBank b { s.bank b with scrub := r + 1 }) ∧
      (r + 1 = 2 ^ 18 → s.scrubBank b = (s.setBank b { s.bank b with scrub := 0, passRepairs := 0, passAt := s.clk, late := false }).bump
        (pg (0x08 + b) + 0x114))) ∧
    ((s.bank b).imgBad.contains r = false → (s.bank b).scrubOk r = false →
      s.scrubBank b = (s.psaRepair b (r / 2 ^ (s.bank b).width)).scrubNext b) ∧
    ((s.bank b).imgBad.contains r = true → s.scrubBank b = (s.withdrawSeg b (r / 64)).scrubNext b)) ∧
  (∀ (s : State) (failing : List Nat), (s.start ≠ .psa ∨ s.phaseDone = true → exec (.psaRebuild failing) s = .next s) ∧
    (s.start = .psa → s.phaseDone = false → s.clk ≠ 0 →
      s.dir.slots.all (fun e => !(e.2.resident && (e.2.hot || e.2.shared))) = true →
      ∃ t, exec (.psaRebuild failing) s = .next t ∧ t.phaseDone = true ∧ t.page = s.page ∧ t.tier = s.tier ∧
        ∀ b, b < 16 → ((s.bank b).state = .failed → t.bank b = s.bank b) ∧
          ((s.bank b).state ≠ .failed → (s.bankEnable b = false ∨ b ∉ failing → t.bank b = { Bank.reset with
              inject := (s.bank b).inject,
              width := s.bankWidth b, state := if s.bankEnable b then .active else .empty, passAt := s.clk }) ∧
            (s.bankEnable b = true → b ∈ failing → (t.bank b).state = .failed))))

/-! ### 03, 05: keys, lookups, proofs and publication -/

/-- 05 R186, R187, R190 to R194: OPEN_PROOF takes the next free slot with its generation, the snapshot DIR_SEQ and the lease of R190,
unless the tenant is at its limit or no slot is free; RENEW moves the expiry to now plus the lease of R191, limited by the proof's
life, as long as the proof is open, and ends STALE_PROOF from the tick of its lapse on; CLOSE_PROOF ends the proof; a proof whose
expiry's microsecond tick has come ends and counts in DIR_LAPSED; a slot that returns has its generation advanced, at the tail of the
free list. -/
def Obligations.ProofsOpenRenewAndEnd : Prop :=
  (∀ (s : State) (id : Nat) (l : Live), s.live id = some l → l.phase = .accepted → l.compat = false → s.reached .psa = true →
    (l.op = 0x03 → l.flag 0 = false → l.flag 1 = false → l.reservedOk 3 [0xFFFF] = true →
      (s.openProofs l.tenant < s.proofLimit l.tenant → ∀ lease,
        lease = (if l.w 4 = 0 then s.leaseDefault else max 10 (min (l.w 4) s.leaseDefault)) →
        (∀ i d, (s.dir.proofFresh < 2 ^ 20 ∧ i = s.dir.proofFresh ∧ d = { s.dir with proofFresh := s.dir.proofFresh + 1 }) ∨
            (2 ^ 20 ≤ s.dir.proofFresh ∧ ∃ r, s.dir.proofBack = i :: r ∧ d = { s.dir with proofBack := r }) →
          exec (.openProof id) s = .next (State.done
            { s with dir := { d with proofs := s.dir.proofs ++ [⟨i, s.proofGen i, l.tenant, s.dirSeq, s.clk, s.clk + lease * 1000000, none⟩] } }
            id (w32 lease) ([w32 (i * 2 ^ 12 + s.proofGen i)] ++ split64 s.dirSeq ++ [0]))) ∧
        (2 ^ 20 ≤ s.dir.proofFresh → s.dir.proofBack = [] → exec (.openProof id) s = .next ((s.raise 0x18 2).fail id .notReady))) ∧
      (s.proofLimit l.tenant ≤ s.openProofs l.tenant → exec (.openProof id) s = .next (s.fail id .quota))) ∧
    (l.op = 0x03 → l.flag 0 = true → l.flag 1 = false → l.reservedOk 3 [0xFFFF, 0xFFFFFFFF] = true →
      (s.proofOf l.tenant (l.w 5) = none → exec (.renew id) s = .next (s.fail id .staleProof)) ∧
      (∀ p lease life, s.proofOf l.tenant (l.w 5) = some p → lease = min (max 10 (if l.w 4 = 0 then s.leaseDefault else l.w 4)) s.leaseMax →
        life = p.openedAt + s.cfgFld (pg 0x18 + 0x104) 0 16 * 1000000000 →
        (usTick p.expiry ≤ s.clk → exec (.renew id) s = .next (s.fail id .staleProof)) ∧
        (s.clk < usTick p.expiry →
          (s.clk < life → exec (.renew id) s = .next (State.done
            { s with dir := { s.dir with
                proofs := updIf s.dir.proofs (fun x => decide (x.slot = p.slot)) (fun x =>
                  { x with expiry := min (s.clk + lease * 1000000) life }) } }
            id (w32 ((min (s.clk + lease * 1000000) life - s.clk) / 1000000))
            ([w32 p.handle] ++ split64 p.snapshot ++ [0]))) ∧
          (life ≤ s.clk → exec (.renew id) s = .next ((s.bump (pg 0x18 + 0x1A8)).fail id .conflict))))) ∧
    (l.op = 0x04 → l.reservedOk 0 [0xFFFFFFFF] = true →
      (∀ p, s.proofOf l.tenant (l.w 4) = some p →
        exec (.closeProof id) s = .next ((s.endProof p.slot).done id 0 [0, 0, 0, 0])) ∧
      (s.proofOf l.tenant (l.w 4) = none → exec (.closeProof id) s = .next (s.fail id .staleProof)))) ∧
  (∀ (s : State) (slot t : Nat) (p : Proof), s.dir.proofs.find? (fun p => decide (p.slot = slot)) = some p →
    (p.implicit = none → usTick p.expiry ≤ (s.at_ t).clk → exec (.proofLapse slot t) s = .next (((s.at_ t).endProof slot).bump (pg 0x18 + 0x198))) ∧
    (p.implicit ≠ none ∨ (s.at_ t).clk < usTick p.expiry → exec (.proofLapse slot t) s = .next (s.at_ t))) ∧
  (∀ t, t ≤ usTick t ∧ usTick t < t + 1000 ∧ usTick t % 1000 = 0) ∧
  (∀ (s : State) (slot : Nat), (s.endProof slot).dir.proofs = s.dir.proofs.filter (fun p => decide (p.slot ≠ slot)) ∧
    (s.genFull slot = false → (s.returnProof slot).dir.proofBack = s.dir.proofBack ++ [slot] ∧
      (s.dir.gens.rising → (s.returnProof slot).proofGen slot = if s.proofGen slot = 4095 then 1 else s.proofGen slot + 1)))

/-- 03 R109: the binary search of the longest prefix ends with its bounds met, at or below the number of full blocks, and
after a hit of the whole prompt it probes nothing more. -/
def Obligations.PrefixSearchMeetsItsBounds : Prop :=
  ∀ (s : State) (key : Nat → Except Status Key) (snap : Option Nat) (n : Nat) (a : Search),
    searchLoop (n + 1) key snap n { s := s, lo := 0, hi := n, last := (0, 0), multi := false, poison := false } = .ok a →
    a.lo = a.hi ∧ a.lo ≤ n ∧
    (∀ k b, 0 < n → key n = .ok k →
      Search.probe { s := s, lo := 0, hi := n, last := (0, 0), multi := false, poison := false } k snap = (b, true) →
      a = { b with lo := n })

/-- 03 R95, R98 to R100, R105, R112; 11 R408 to R410: a LOOKUP whose checks, hash list and search end in no error ends NOTFOUND when the
search finds no block, MULTI or OK with the result words otherwise; HASH writes the slots of its blocks, each hash or its whole chain
value, and the last chain value after them; OPEN_PROOF with VIEW opens its proof, maps the entries, reports how many failed and the
first failure, and ends MULTI where a key matches more than one form. -/
def Obligations.LookupHashAndView : Prop :=
  ∀ (s : State) (id : Nat) (l : Live), s.live id = some l → l.phase = .accepted → l.compat = false →
    (l.op = 0x01 → (∀ e, lookupCheck l s = .error e → exec (.lookup id) s = .next (s.fail id e)) ∧
      ∀ m snap, lookupCheck l s = .ok (m, snap) → (∀ e, lookupKeys l m s = .error e → exec (.lookup id) s = .next (s.fail id e)) ∧
      ∀ key n tail, lookupKeys l m s = .ok (key, n, tail) →
      (∀ e, prefixSearch s key snap n tail = .error e → exec (.lookup id) s = .next (s.fail id e)) ∧
      ∀ a t, prefixSearch s key snap n tail = .ok (a, t) →
      (a.lo = 0 → exec (.lookup id) s = .next (a.s.fail id .notFound)) ∧
      (a.lo ≠ 0 → exec (.lookup id) s = .next (a.s.complete id (if a.multi then .multi else .ok)
        (some (0, [w32 (b2n t * 2 ^ 31 + b2n a.poison * 2 ^ 30 + a.lo), w32 a.last.1] ++ split64 a.last.2))))) ∧
    (l.op = 0x02 → s.reached .verify = true →
      l.reservedOk 7 [0xFFFF, 0x1FFFFF, 0x1FFFF, 0xFFFFFFFF, 0xFFFFFFFF, 0xFFFFFFFF, 0xFFFFFFFF, 0xFFFFFFFF, 0xFFFFFFFF,
        0xFFFFFFFF, 0xFFFFFFFF, 0] = true → l.w 5 ≠ 0 → l.w 5 ≤ 1048576 → ∀ m tail n ds dig h0 bs,
      s.model (l.w 4) = some m → tail = (l.flag 0 && decide (l.w 5 % m.blockLen ≠ 0)) → n = l.w 5 / m.blockLen + b2n tail → n ≤ 65536 →
      (if l.w 6 = 0 then .ok [] else s.workRead l.tenant l.port (l.w64 13) (72 * l.w 6)) = .ok ds → parseDigests (l.w 6) ds = some dig →
      ascending (dig.map (·.1)) = true → (∀ d ∈ dig, d.1 < n) →
      (if l.flag 2 then s.workRead l.tenant l.port (l.w64 11) 64 else .ok (chain0 m.seed)) = .ok h0 →
      s.workRead l.tenant l.port (l.w64 7) (4 * l.w 5) = .ok bs → ∀ blocks hs out u,
      blocks = tokenBlocks (l.w 5 / m.blockLen) m.blockLen bs ++ (if tail then [bs.drop (4 * m.blockLen * (l.w 5 / m.blockLen))] else []) →
      hs = chainList h0 ((List.range blocks.length).map (fun i => ((dig.find? (fun d => decide (d.1 = i))).map (·.2), blocks.getD i []))) →
      out = hs.flatMap (fun h => if l.flag 1 then h else leBytes (slotBytes m.keyForm) (hashField m.keyForm h)) ++ hs.getLast?.getD [] →
      (if n = 0 then .ok s else s.workWrite l.tenant l.port (l.w64 9) out) = .ok u →
      exec (.hash id) s = .next (u.done id 0 [w32 n, w32 (if tail then 0 else l.w 5 % m.blockLen), 0, 0])) ∧
    (l.op = 0x03 → l.flag 0 = false → l.flag 1 = true → s.reached .psa = true → ∀ bs ks u p v fails first,
      l.reservedOk 3 [0xFFFF, 0, 0x1FFF, 0xFFFFFFFF, 0xFFFFFFFF] = true → l.w 6 ≠ 0 → l.w 6 ≤ 4096 →
      s.workRead l.tenant l.port (l.w64 7) (128 * l.w 6) = .ok bs → (pieces 128 (l.w 6) bs).all viewEntryOk = true →
      s.viewKeys (pieces 128 (l.w 6) bs) = .ok ks → s.takeProof l.tenant (s.openLease (l.w 4)) none = (u, .ok p) →
      mapView u l.port l.tenant p.slot p.snapshot 0 ks (0, none) = (v, fails, first) →
      exec (.openView id) s = .next (v.complete id
        (if ks.any (fun e => match e.2.bind (fun k => v.probeView (k.lookup l.tenant) p.snapshot) with
          | some (_, _, multi) => multi
          | none => false) then .multi else .ok)
        (some (w32 (s.openLease (l.w 4)), [w32 p.handle] ++ split64 p.snapshot ++
          [w32 (match first with
            | none => 0
            | some (i, st) => st.code * 2 ^ 24 + i * 2 ^ 12 + min fails 4095)]))))

/-- 05 R162 to R174: acceptance of a PUBLISH seals the reservation it names, and one that ends without effect lifts the seal; the
claim of a new key in a window with room writes a PENDING slot with the next value of the sequence and schedules its commit, one of a
resident key ends DUPLICATE with the winner's edition and slot, one of a pending key waits for it; a supersession is claimed on the
current entry whose edition it expects, and ends CONFLICT on any other; a commit point in its turn, its value marked, makes the entry
CURRENT, and a supersession's gives a current entry the new edition. -/
def Obligations.PublicationSealsClaimsCommits : Prop :=
  (∀ (s : State) (l : Live), l.op = 0x05 → l.compat = false → s.reached .psa = true → (s.openRsv l.tenant (l.w 4)).isSome = true →
    s.sealAt l = s.updPset (psIx (l.w 4)) (fun v => { v with rstate := .sealed l.id, lapseAt := none })) ∧
  (∀ (s : State) (id : Nat) (l : Live), s.live id = some l → l.op = 0x05 → l.phase = .accepted → l.compat = false → s.reached .psa = true →
    (s.pubRsv l = none → exec (.publish id) s = .next (s.fail id (if s.publishOk l then .notFound else .badCommand))) ∧
    (∀ v i, s.pubRsv l = some v → i = psIx (l.w 4) →
      (s.publishOk l = false ∨ v.object ≠ l.flag 12 → exec (.publish id) s = .next ((s.unseal i).fail id .badCommand)) ∧
      (s.publishOk l = true → v.object = l.flag 12 →
        (∀ e, s.publishKeys l = .error e → exec (.publish id) s = .next ((s.unseal i).fail id e)) ∧
        (∀ k p, s.publishKeys l = .ok (k, p) →
          (k.model ≠ v.model → exec (.publish id) s = .next ((s.unseal i).fail id .badCommand)) ∧
          (k.model = v.model → exec (.publish id) s = .next (State.setRunning
            { s.updPset i (fun v => { v with rstate := .sealed id, lapseAt := none }) with
              dir := { s.dir with pubs := s.dir.pubs ++ [⟨id, k, formOf (l.flag 9) (l.flag 10), l.flags.toNat, fld l.flags 0 6,
                i, p, l.w64 10, none, false, none⟩] } } id)))))) ∧
  (∀ (s : State) (p : Pub) (keep : List Nat) (f : State → Nat → Option Nat → State),
    (∀ st, s.claimTier p 3 (prefTier p.alloc) = .error st → s.claimRoom p keep f = (s.countFull st).pubFail p st) ∧
    (∀ t, s.claimTier p 3 (prefTier p.alloc) = .ok t →
      (∀ w, s.windowRoom p.key keep = .wait w → s.claimRoom p keep f = w) ∧
      (s.windowRoom p.key keep = .full → s.claimRoom p keep f = (s.count 0x18 0x1A4 0).pubFail p .full) ∧
      (∀ w i, s.windowRoom p.key keep = .at_ w i → s.claimRoom p keep f =
        f (if t = prefTier p.alloc then w else w.count 0x19 0x1A0 3) i (if t = (s.psetAt p.pset).level then none else some t)))) ∧
  (∀ (s : State) (id : Nat) (p : Pub), s.pub id = some p →
    (p.claimed = true ∨ p.waitOn ≠ none → exec (.publishClaim id) s = .next s) ∧
    (p.claimed = false → p.waitOn = none → ∀ pend, pend = s.exact p.key p.form (fun v => decide (v.state = .pending)) →
      (bit (w32 p.flags) 11 = false →
        (∀ j v, s.exact p.key p.form Slot.resident = some (j, v) → exec (.publishClaim id) s = .next (s.pubDuplicate p j)) ∧
        (s.exact p.key p.form Slot.resident = none →
          (∀ j v, pend = some (j, v) → exec (.publishClaim id) s = .next (s.updPub id (fun q => { q with waitOn := some j }))) ∧
          (pend = none →
            (∀ u st, s.claimParent p = (u, .error st) →
              exec (.publishClaim id) s = .next (if st = .conflict then u.pubConflict p else u.pubFail p st)) ∧
            (∀ u par, s.claimParent p = (u, .ok par) →
              exec (.publishClaim id) s = .next (u.claimRoom p par.toList (fun w i mv => w.claimNew p i par mv)))))) ∧
      (bit (w32 p.flags) 11 = true →
        (∀ j v, pend = some (j, v) → exec (.publishClaim id) s = .next (s.updPub id (fun q => { q with waitOn := some j }))) ∧
        (pend = none →
          (s.current p.key p.form = none → exec (.publishClaim id) s = .next (s.pubConflict p)) ∧
          (∀ c v, s.current p.key p.form = some (c, v) →
            (v.edition ≠ p.expect → exec (.publishClaim id) s = .next (s.pubConflict p)) ∧
            (v.edition = p.expect → v.parent.isSome ≠ p.parent.isSome → exec (.publishClaim id) s = .next (s.pubFail p .badCommand)) ∧
            (v.edition = p.expect → v.parent.isSome = p.parent.isSome →
              (∀ u st, s.claimParent p = (u, .error st) →
                exec (.publishClaim id) s = .next (if st = .conflict then u.pubConflict p else u.pubFail p st)) ∧
              (∀ u par, s.claimParent p = (u, .ok par) →
                exec (.publishClaim id) s = .next (u.claimRoom p ([c] ++ par.toList) (fun w i mv => w.claimSuper p c i mv))))))))) ∧
  (∀ (s : State) (p : Pub) (i : Nat) (par mv : Option Nat) (u : State), u = s.claimNew p i par mv → (u.slot i).state = .pending ∧
    (u.slot i).edition = s.dir.seqNext ∧ (u.slot i).key = p.key ∧ (u.slot i).form = p.form ∧ (u.slot i).parent = par ∧
    u.dir.seqNext = s.dir.seqNext + 1 ∧ u.dir.points = s.dir.points ++ [⟨s.dir.seqNext, .commit i p.id⟩]) ∧
  (∀ (s : State) (val : Nat),
    (s.dir.points = [] ∨ s.seqOpen val = false ∨ (∃ pt r, s.dir.points = pt :: r ∧ pt.val ≠ val) → exec (.commitPoint val) s = .next s) ∧
    (∀ i id p r, s.dir.points = ⟨val, .commit i id⟩ :: r → s.seqOpen val = true → s.pub id = some p →
      exec (.commitPoint val) s = .next ((s.passPoint val).commitNew i p val)) ∧
    (∀ i copy id p r, s.dir.points = ⟨val, .super i copy id⟩ :: r → s.seqOpen val = true → s.pub id = some p →
      ((s.slot i).state = .current → exec (.commitPoint val) s = .next ((s.passPoint val).commitSuper i copy p val)) ∧
      ((s.slot i).state ≠ .current → exec (.commitPoint val) s = .next ((((s.passPoint val).freeHead copy).wakeAborted copy).pubConflict p)))) ∧
  (∀ (s : State) (i val : Nat) (p : Pub), s.isHeld (s.slot i).key = false → p.moveTo = none → (s.psetAt p.pset).bad = [] →
    (∀ q ∈ s.dir.pubs, q.waitOn = none) → (∀ e ∈ s.dir.slots, e.2.state ≠ .ended) → ∀ u, u = s.commitNew i p val →
    (u.slot i) = { s.slot i with state := .current } ∧ (∀ j, j ≠ i → u.slot j = s.slot j) ∧ u.pub p.id = none)

/-- 05 R163, R165, R166, R175 to R177, R179: RETIRE of an entry without children makes it RETIRING and schedules its end, one with
children ends CONFLICT, and CASCADE starts the removal of its descendants; a cascade step schedules the next end, one at a time; an end
point that has its turn, its value marked, ends its entry, and one whose entry may not end any more is abandoned, where FREE ends
CONFLICT. -/
def Obligations.RetirementEndsEntries : Prop :=
  (∀ (s : State) (id : Nat) (l : Live), s.live id = some l → l.op = 0x06 → l.phase = .accepted →
    l.compat = false → s.reached .psa = true →
    (l.reservedOk 0x601 [0, 0, 0xFFFFFFFF, 0xFFFFFFFF] = false → exec (.retire id) s = .next (s.fail id .badCommand)) ∧
    (l.reservedOk 0x601 [0, 0, 0xFFFFFFFF, 0xFFFFFFFF] = true →
      (∀ e, s.namedKey l true = .error e → exec (.retire id) s = .next (s.fail id e)) ∧
      (∀ k form, s.namedKey l true = .ok (k, form) →
        (s.current k form = none → exec (.retire id) s = .next (s.fail id .notFound)) ∧
        (∀ i v, s.current k form = some (i, v) →
          (l.flag 0 = false → v.children = 0 →
            exec (.retire id) s = .next (((s.toRetiring i).schedule (.end_ i (.retire id))).setRunning id)) ∧
          (l.flag 0 = false → v.children ≠ 0 → exec (.retire id) s = .next (s.fail id .conflict)) ∧
          (l.flag 0 = true → exec (.retire id) s = .next ((s.startCascade i (.retire id)).setRunning id)))))) ∧
  (∀ (s : State) (root : Nat), ∀ busy, busy = s.dir.points.any (fun p => match p.kind with
      | .end_ _ (.cascade r) => decide (r = root)
      | _ => false) →
    ((∀ c ∈ s.dir.cascades, c.root ≠ root) ∨ busy = true ∨ s.cascadeNext root = none → exec (.cascadeStep root) s = .next s) ∧
    (∀ i, (∃ c ∈ s.dir.cascades, c.root = root) → busy = false → s.cascadeNext root = some i →
      exec (.cascadeStep root) s = .next (if s.ending i then s else s.schedule (.end_ i (.cascade root))))) ∧
  (∀ (s : State) (val : Nat), (s.dir.points = [] ∨ s.seqOpen val = false ∨ (∃ pt r, s.dir.points = pt :: r ∧ pt.val ≠ val) →
    exec (.endPoint val) s = .next s)) ∧
  (∀ (s : State) (val i : Nat) (r : List Point), s.seqOpen val = true → ∀ ok, ok = (decide ((s.slot i).state = .current) && !(s.slot i).pin &&
      decide ((s.slot i).children = 0) && !s.claimed i) →
    (s.dir.points = ⟨val, .end_ i .evict⟩ :: r →
      exec (.endPoint val) s = .next (if ok then ((s.passPoint val).endEntry i val).bump (pg 0x18 + 0x19C) else s.passPoint val)) ∧
    (∀ id, s.dir.points = ⟨val, .end_ i (.free id)⟩ :: r → exec (.endPoint val) s =
      .next (if ok then (((s.passPoint val).endEntry i val).bump (pg 0x18 + 0x19C)).done id 0 [0, 0, 0, 0] else (s.passPoint val).fail id .conflict)) ∧
    (∀ id, s.dir.points = ⟨val, .end_ i (.retire id)⟩ :: r →
      ((s.slot i).state = .retiring → (s.slot i).children = 0 →
        exec (.endPoint val) s = .next (((s.passPoint val).endEntry i val).done id 0 [1, 0, 0, 0])) ∧
      ((s.slot i).state = .retiring → (s.slot i).children ≠ 0 → exec (.endPoint val) s = .next s) ∧
      ((s.slot i).state ≠ .retiring → exec (.endPoint val) s = .next ((s.passPoint val).done id 0 [1, 0, 0, 0]))) ∧
    (∀ root, s.dir.points = ⟨val, .end_ i (.cascade root)⟩ :: r →
      ((s.slot i).resident = true → (s.slot i).children = 0 → exec (.endPoint val) s = .next (s.cascadeEnd i val)) ∧
      ((s.slot i).resident = false ∨ (s.slot i).children ≠ 0 → exec (.endPoint val) s = .next (s.passPoint val))))

/-! ### 06: tiers, placement and quotas -/

/-- 06 R200, R202, R204, R208, R214, R219, R221: PLACE RESERVE of a block or an object of a known model takes the next page-set index
with its generation, in T0 for TIER_PREF 0 and in T1 otherwise, or with SPILL_OK in the tier below that has room, holds it with its
lapse time and answers the handle and the tier; a charge that fits no room ends QUOTA or FULL with the shortfall; a reservation
whose lapse time has come is freed, and one that is published or whose time has not come stays. -/
def Obligations.PlaceReservesUntilItLapses : Prop :=
  (∀ (s : State) (id : Nat) (l : Live), s.live id = some l → l.op = 0x07 → l.phase = .accepted → l.compat = false →
    s.reached .psa = true → l.flag 8 = false → ∀ cnt lg, cnt = fld (l.ws.getD 5 0) 0 11 → lg = fld (l.ws.getD 5 0) 16 5 →
    (l.reservedOk placeFlags [0xFFFF, if l.flag 11 then 0x1F07FF else 0] = false ∨
      (l.flag 11 = true ∧ (cnt = 0 ∨ 1024 < cnt ∨ lg < 16 ∨ 21 < lg)) → exec (.placeReserve id) s = .next (s.fail id .badCommand)) ∧
    (l.reservedOk placeFlags [0xFFFF, if l.flag 11 then 0x1F07FF else 0] = true →
      (l.flag 11 = true → cnt ≠ 0 ∧ cnt ≤ 1024 ∧ 16 ≤ lg ∧ lg ≤ 21) →
      (s.model (l.w 4) = none → exec (.placeReserve id) s = .next (s.fail id .notFound)) ∧
      (∀ (m : Model) (v : Machine.PSet) (t : Nat), s.model (l.w 4) = some m → t = (if fld l.flags 0 2 = 0 then 0 else 1) →
        v = { gen := 0, tenant := l.tenant, model := m.id, object := l.flag 11, pages := (if l.flag 11 then cnt else m.layers),
              pageSize := (if l.flag 11 then 2 ^ lg else m.pageSize), alloc := fld l.flags 0 6, level := 1, t0 := false, t1 := false,
              t2 := false, rstate := .open_, lapseAt := none, checks := [], bad := [] } → ∀ r,
        r = s.chargeTier l.tenant v.charge (l.flag 5) (fun _ => false) 1 2 t →
        (∀ u t' i g w x, r = .ok (u, t', true) → u.takePset = some (i, g, w) →
          x = State.plate (w.setPset i (Machine.PSet.setHas ({ v with gen := g, level := t', lapseAt := some (w.clk + w.cfgFld (pg 0x19 + 0x114) 0 24 * 1000000) } : Machine.PSet) t' true)) i →
          exec (.placeReserve id) s = .next ((if t' = t then x else x.count 0x19 0x1A0 3).done id 0 [w32 (g * 2 ^ 26 + i), w32 t', 0, 0])) ∧
        (∀ u t', r = .ok (u, t', true) → u.takePset = none → exec (.placeReserve id) s = .next (s.fail id .full)) ∧
        (∀ u t', r = .ok (u, t', false) → exec (.placeReserve id) s = .next u) ∧
        (∀ st b, r = .error (st, b) → exec (.placeReserve id) s = .next (s.shortfall id st b))))) ∧
  (∀ (s : State) (tenant t b : Nat) (tr fr : Int), s.rooms tenant t = (tr, fr) → 0 < b →
    (tr < (b : Int) → s.request tenant t b = .short .quota (b - min tr fr).toNat) ∧
    ((b : Int) ≤ tr → fr < (b : Int) → s.request tenant t b = .short .full (b - min tr fr).toNat) ∧
    ((b : Int) ≤ tr → (b : Int) ≤ fr → ∀ st n, s.request tenant t b ≠ .short st n)) ∧
  (∀ (s : State) (tenant : Nat) (charge : Nat → Nat) (spill : Bool) (t : Nat), ∀ r, r = s.chargeTier tenant charge spill (fun _ => false) 1 2 t →
    (∀ u, s.request tenant t (charge t) = .fits u → r = .ok (u, t, true)) ∧
    (∀ st b, s.request tenant t (charge t) = .short st b → (spill = false ∨ 1 ≤ t → r = .error (st, b)) ∧
      (spill = true → t = 0 → (∀ u, s.request tenant 1 (charge 1) = .fits u → r = .ok (u, 1, true)) ∧
        (∀ st' b', s.request tenant 1 (charge 1) = .short st' b' → r = .error (st', b'))))) ∧
  (∀ (s : State) (i t : Nat),
    (∀ e, (s.psetAt i).lapseAt = some e → (s.psetAt i).gen ≠ 0 → (s.psetAt i).rstate ≠ .published → e ≤ max s.clk t →
      exec (.reservationLapse i t) s = .next (((s.at_ t).freePset i).count 0x19 0x19C 2)) ∧
    ((s.psetAt i).lapseAt = none ∨ (s.psetAt i).gen = 0 ∨ (s.psetAt i).rstate = .published ∨
      (∃ e, (s.psetAt i).lapseAt = some e ∧ max s.clk t < e) → exec (.reservationLapse i t) s = .next (s.at_ t)))

/-- 06 R210 to R213, R221, R229: a SET that changes flags only ends at once; one that names another tier takes the charge there, or
with SPILL_OK below it, and starts a move, at whose end TIER_PREF takes effect; a second change of level ends CONFLICT, and a move that
would read an unrecoverable page POISON. A promotion
that commits raises the level; a demotion keeps the upper copy until it is released, when no read or view holds it; a move whose entry
has ended ends NOTFOUND. -/
def Obligations.SetChangesLevelInSteps : Prop :=
  (∀ (s : State) (id : Nat) (l : Live), s.live id = some l → l.op = 0x07 → l.phase = .accepted → l.compat = false →
    s.reached .psa = true → l.flag 8 = true →
    (l.reservedOk placeFlags [0, 0, 0xFFFFFFFF, 0xFFFFFFFF] = false ∨ fld l.flags 16 5 = 0 → exec (.placeSet id) s = .next (s.fail id .badCommand)) ∧
    (l.reservedOk placeFlags [0, 0, 0xFFFFFFFF, 0xFFFFFFFF] = true → fld l.flags 16 5 ≠ 0 →
      (∀ e, s.namedKey l true = .error e → exec (.placeSet id) s = .next (s.fail id e)) ∧
      (∀ k form, s.namedKey l true = .ok (k, form) →
        (s.current k form = none → exec (.placeSet id) s =
          .next (s.fail id (if (s.exact k form Slot.resident).isSome then .conflict else .notFound))) ∧
        (∀ i e alloc, s.current k form = some (i, e) → alloc = maskAlloc (s.psetAt e.ps).alloc (fld l.flags 0 6) (fld l.flags 16 5) →
          (fld l.flags 16 5 % 2 = 0 → exec (.placeSet id) s = .next ((s.setFlags i alloc (fld l.flags 16 5)).done id 0 [0, w32 (s.psetAt e.ps).level, 0, 0])) ∧
          (fld l.flags 16 5 % 2 = 1 → (s.moveOf e.ps).isSome = true ∨ s.tier.owed.any (fun x => decide (x.1 = e.ps)) = true →
            exec (.placeSet id) s = .next (s.fail id .conflict)) ∧
          (fld l.flags 16 5 % 2 = 1 → s.moveOf e.ps = none → s.tier.owed.any (fun x => decide (x.1 = e.ps)) = false → exec (.placeSet id) s = .next (s.setLevel id i alloc (fld l.flags 16 5))))))) ∧
  (∀ (s : State) (id i alloc mask t : Nat) (v : Machine.PSet), v = s.psetAt (s.slot i).ps → t = prefTier alloc → ∀ own, own = (v.has t || (decide (t = 2) && s.flm.readOnly)) →
    ∀ r, r = s.chargeTier v.tenant v.charge (bit (w32 alloc) 5) v.has 2 3 t →
    (own = true → s.setLevel id i alloc mask = s.setTo id i alloc mask t) ∧
    (own = false → (∀ u t', r = .ok (u, t', true) → s.setLevel id i alloc mask = u.setTo id i alloc mask t') ∧
      (∀ u t', r = .ok (u, t', false) → s.setLevel id i alloc mask = u) ∧
      (∀ st b, r = .error (st, b) → s.setLevel id i alloc mask = s.shortfall id st b))) ∧
  (∀ (s : State) (id i alloc mask t : Nat) (v : Machine.PSet), v = s.psetAt (s.slot i).ps → ∀ now, now = maskAlloc alloc v.alloc 1 →
    ∀ spilled : State → State, (∀ x, spilled x = if t = prefTier alloc then x else x.count 0x19 0x1A0 3) →
    (t = v.level → s.setTo id i alloc mask t = ((spilled s).setFlags i alloc mask).done id 0 [0, w32 t, 0, 0]) ∧
    (t ≠ v.level → ∀ r, r = (s.setFlags i now mask).beginMove (s.slot i).ps t (.set id) (some (alloc % 4)) (some (v.alloc, mask)) →
      (∀ u, r = .ok u → s.setTo id i alloc mask t = (spilled u).setRunning id) ∧
      (r = .error .readOnly → s.setTo id i alloc mask t = (s.setFlags i now mask).fail id .readOnly) ∧
      (r = .error .poison → s.setTo id i alloc mask t = (s.setFlags i now mask).fail id .poison) ∧
      (∀ st, r = .error st → st ≠ .readOnly → st ≠ .poison → s.setTo id i alloc mask t =
        s.shortfall id st (v.charge t - s.freeSpace t)))) ∧
  (∀ (s : State) (i t : Nat) (c : MoveCause) (pref : Option Nat) (undo : Option (Nat × Nat)),
    (t < 2 → ((s.psetAt i).level < 2 ∧ s.psetBad i = false) ∨ (s.psetAt i).has t = true → s.beginMove i t c pref undo = .ok { s with tier := { s.tier with
      moves := s.tier.moves ++ [⟨i, t, c, (s.psetAt i).has t, false, pref, undo⟩] } }) ∧
    ((s.psetAt i).t2 = false → s.flm.readOnly = true → s.beginMove i 2 c pref undo = .error .readOnly) ∧
    ((s.psetAt i).has t = false → ¬ (t = 2 ∧ s.flm.readOnly = true) → s.psetBad i = true → s.beginMove i t c pref undo = .error .poison)) ∧
  (∀ (s : State) (p : Nat), s.tier.moves.find? (fun m => decide (m.pset = p) && m.gone) = none →
    (s.moveOf p = none → exec (.moveCommit p) s = .next (s.payOwed p) ∧ exec (.copyRelease p) s = .next s) ∧
    (∀ m, s.moveOf p = some m →
      (m.releasing = true ∨ s.moveShut m = true ∨ s.moveReady m = false → exec (.moveCommit p) s = .next s) ∧
      (m.releasing = false → s.moveShut m = false → s.moveReady m = true → ∀ w u : State,
        w = (s.updPset p (fun v => v.setHas m.target true)).plate p →
        u = { w with flm := { w.flm with landed := w.flm.landed.filter (fun x => decide (x ≠ s.handleOf p)) } } →
        ∀ x y : State, x = (if m.target = 2 then u.hotUnits p (bit (w32 (s.psetAt p).alloc) 3) else u) → y = x.bump (pg 0x19 + 0x184) →
        (m.target < (s.psetAt p).level → exec (.moveCommit p) s =
          .next ((((x.updPset p (fun v => { v with level := m.target })).journalTiers p).bump (pg 0x19 + 0x180)).moveDone m)) ∧
        ((s.psetAt p).level ≤ m.target → exec (.moveCommit p) s = .next { y with tier := { y.tier with
          moves := updIf y.tier.moves (fun x => decide (x = m)) (fun x => { x with releasing := true }) } })) ∧
      (m.releasing = false ∨ s.moveShut m = true ∨ s.viewed p m.target = true ∨ s.tier.reads.any (fun r => decide (r.pset = p)) = true →
        exec (.copyRelease p) s = .next s) ∧
      (m.releasing = true → s.moveShut m = false → s.viewed p m.target = false → s.tier.reads.any (fun r => decide (r.pset = p)) = false →
        exec (.copyRelease p) s = .next ((s.releaseAbove p m.target).moveDone m)))) ∧
  (∀ (s : State) (i t : Nat), s.tier.psets.rising → (s.releaseAbove i t).psetAt i =
    { s.psetAt i with t0 := (s.psetAt i).t0 && decide (t = 0), t1 := (s.psetAt i).t1 && decide (t ≤ 1), level := t }) ∧
  (∀ (s : State) (p : Nat) (m : Move), s.tier.moves.find? (fun m => decide (m.pset = p) && m.gone) = some m → ∀ u : State,
    u = { s with tier := { s.tier with moves := s.tier.moves.filter (fun x => decide (x ≠ m)) } } →
    (∀ id, m.cause = .set id → exec (.moveCommit p) s = .next (u.fail id .notFound)) ∧
    (∀ id, m.cause = .plan id → exec (.moveCommit p) s = .next (u.planFail id .notFound)) ∧
    (m.cause = .publish ∨ m.cause = .pressure → exec (.moveCommit p) s = .next u))

/-- 06 R215, R222, R223, R230: free space below LOW_PCT raises LOW_T0 or LOW_T1; while it then stays below HIGH_PCT, pressure reclaim
takes a step in slack: it releases a retained copy when there is one, else starts a demotion where demotions are allowed, else ends
an evictable entry, and without a candidate raises RECLAIM_STUCK and waits 1 ms; the retry then takes the same step. FREE of an
unsealed reservation frees it, of an evictable entry schedules its end, of any other entry ends CONFLICT. -/
def Obligations.PressureReclaimAndFree : Prop :=
  (∀ (s : State), exec (.pressureReclaim 2) s = .next s.trimCapacity ∧ (s.tierCharge 2 ≤ s.capacity 2 → s.trimCapacity = s)) ∧
  (∀ (s : State) (t : Nat), t < 2 → (s.tier.retryAt.any (fun x => decide (x.1 = t)) = true → exec (.pressureReclaim t) s = .next s) ∧
    (s.tier.retryAt.any (fun x => decide (x.1 = t)) = false → exec (.pressureReclaim t) s = .next (s.pressure t))) ∧
  (∀ (s : State) (t : Nat), (2 ≤ t ∨ s.reached .psa = false → s.pressure t = s) ∧ (t < 2 → s.reached .psa = true → ∀ (low : Bool) (v w : State),
    low = s.freeBelow t (s.watermark t 0) →
    v = { s with tier := if t = 0 then { s.tier with under0 := low } else { s.tier with under1 := low } } →
    w = (if low then ((if s.wasLow t then v else v.raise 0x19 t)).setReclaiming t true else v) →
    (w.reclaiming t = false → s.pressure t = w) ∧
    (w.reclaiming t = true → w.freeBelow t (w.watermark t 8) = false → s.pressure t = w.setReclaiming t false) ∧
    (w.reclaiming t = true → w.freeBelow t (w.watermark t 8) = true →
      (bit (s.cfgReg (pg 0x19 + 0x100)) 0 = false → s.pressure t = w.setReclaiming t low) ∧
      (bit (s.cfgReg (pg 0x19 + 0x100)) 0 = true → s.pressure t = if w.slack .memory then w.reclaimStep t else w)))) ∧
  (∀ (s : State) (t : Nat), (∀ u, s.releaseFirst t = some u → s.reclaimStep t = u) ∧
    (s.releaseFirst t = none → ∀ d, d = (if bit (s.cfgReg (pg 0x19 + 0x100)) 1 = true ∧ s.demoteCredit t = true then s.demoteFirst t (s.demotable t) else none) →
      (∀ u, d = some u → s.reclaimStep t = u) ∧
      (d = none → ∀ es, es = s.evictList (fun _ v => decide ((s.psetAt v.ps).level = t)) →
        (∀ e r, es = e :: r → s.reclaimStep t = if s.endReady then ((s.endNow e.1).countEvicted).bump (pg 0x19 + 0x190) else s) ∧
        (es = [] → s.reclaimStep t = State.raise { s with tier := { s.tier with
          retryAt := s.tier.retryAt.filter (fun x => decide (x.1 ≠ t)) ++ [(t, s.clk + 1000000)] } } 0x19 5)))) ∧
  (∀ (s : State) (tier t : Nat), ∀ due, due = s.tier.retryAt.any (fun x => decide (x.1 = tier ∧ x.2 ≤ (s.at_ t).clk)) →
    (due = false → exec (.reclaimRetry tier t) s = .next (s.at_ t)) ∧
    (due = true → exec (.reclaimRetry tier t) s = .next (State.pressure { s.at_ t with tier := { s.tier with
      retryAt := s.tier.retryAt.filter (fun x => decide (x.1 ≠ tier)) } } tier))) ∧
  (∀ (s : State) (id : Nat) (l : Live), s.live id = some l → l.op = 0x08 → l.phase = .accepted → l.compat = false →
    s.reached .psa = true →
    (l.flag 0 = false → l.reservedOk 0x601 [0xFFFFFFFF] = true →
      (s.psetOf (l.w 4) = none → exec (.free id) s = .next (s.fail id .notFound)) ∧
      (∀ v, s.psetOf (l.w 4) = some v →
        (v.tenant ≠ l.tenant ∨ v.rstate = .published → exec (.free id) s = .next (s.fail id .notFound)) ∧
        (v.tenant = l.tenant → (∃ n, v.rstate = .sealed n) → exec (.free id) s = .next (s.fail id .conflict)) ∧
        (v.tenant = l.tenant → v.rstate = .open_ ∨ v.rstate = .stuck →
          exec (.free id) s = .next ((s.freePset (psIx (l.w 4))).done id 0 [0, 0, 0, 0])))) ∧
    (l.flag 0 = true → l.reservedOk 0x601 [0, 0, 0xFFFFFFFF, 0xFFFFFFFF] = true →
      (∀ e, s.namedKey l false = .error e → exec (.free id) s = .next (s.fail id e)) ∧
      (∀ k form, s.namedKey l false = .ok (k, form) →
        (s.current k form = none → exec (.free id) s = .next (s.fail id .notFound)) ∧
        (∀ i e, s.current k form = some (i, e) →
          (s.evictable i = true → exec (.free id) s = .next ((s.schedule (.end_ i (.free id))).setRunning id)) ∧
          (s.evictable i = false → exec (.free id) s = .next (s.fail id .conflict))))))

/-! ### 07: delivery and layer prefetch -/

/-- 07 R231, R233, R236 to R239, R242, R252; 12 R452: a DELIVER that fails a check of its own ends with that status and no bit of
DONE_MASK; one that passes starts its delivery with the entries its view gives and, where it names a plan, with the one layer of
the plan that they lie in; a running one reads on; one with an entry still under way does not end, and one whose entries have all
ended reports exactly the delivered entries in DONE_MASK. A version 1 DELIVER of a key that its view holds starts the one entry,
and of another key ends NOTFOUND. -/
def Obligations.DeliverStartsReadsAndReports : Prop :=
  (∀ (s : State) (id : Nat) (l : Live), s.live id = some l → l.op = 0x0A → l.phase = .accepted → l.compat = false →
    (∀ st, s.dlvTarget l = .error st → exec (.deliver id) s = .next (s.complete id st (some (0, [0, 0, 0, 0])))) ∧
    (∀ tgt st, s.dlvTarget l = .ok tgt → s.dlvList l = .error st → exec (.deliver id) s = .next (s.complete id st (some (0, [0, 0, 0, 0])))) ∧
    (s.reached .links = true → s.reached .psa = true → l.flag 0 = false → fld l.flags 4 3 = 7 →
      l.reservedOk 0x73 [0xFFFFFF, 0xFFFFFFFF, 0xFFFFFFFF, 0xFFFFFFFF, 0xFFFFFFFF, 0x7FFFFF, 0xFFFFFF80, 0xFFFFFFFF] = true →
      s.stk.sync ≠ .acquiring → s.stk.sync ≠ .unlocked → exec (.deliver id) s = .next (s.complete id .badCommand (some (0, [0, 0, 0, 0])))) ∧
    (∀ tgt ks h plan, s.dlvTarget l = .ok tgt → s.dlvList l = .ok ks → h = l.w 9 % 2 ^ 16 →
      plan = (if h = 0 then none else s.planOf l.id l.tenant h) →
      (h ≠ 0 → plan = none → exec (.deliver id) s = .next (s.dlvFail id .notFound)) ∧
      (h = 0 ∨ plan ≠ none →
        (∀ u st, s.viewFor id l.tenant (l.w 8) = (u, .error st) → exec (.deliver id) s = .next (u.dlvFail id st)) ∧
        (∀ u snap, s.viewFor id l.tenant (l.w 8) = (u, .ok snap) →
          (u.dlvEntries l.tenant (l.w64 6) snap ks = none → exec (.deliver id) s = .next (u.dlvFail id .badCommand)) ∧
          (∀ es, u.dlvEntries l.tenant (l.w64 6) snap ks = some es →
            (plan = none → exec (.deliver id) s = .next (u.startDlv l { id := id, target := tgt, ents := es, layer := none, point := false })) ∧
            (∀ p r, plan = some p →
              r = (u.plan p).uses ((es.filter (fun e => decide (e.st ≠ .failed .notFound))).map (fun e => u.keyOf e.slot)) →
              (∀ st, r = .error st → exec (.deliver id) s = .next (u.dlvFail id st)) ∧
              (∀ y, r = .ok y → exec (.deliver id) s =
                .next (u.startDlv l { id := id, target := tgt, ents := es, layer := y.map (fun y => (p, y)), point := false })))))))) ∧
  (∀ (s : State) (id : Nat) (l : Live) (d : Dlv), s.live id = some l → s.dlv id = some d →
    (l.phase = .running → exec (.deliverChunk id) s = .next (s.dlvRead l)) ∧
    (d.ents.any (fun e => decide (e.st = .active)) = true → exec (.deliverComplete id) s = .next s) ∧
    (d.ents.any (fun e => decide (e.st = .active)) = false →
      exec (.deliverComplete id) s = .next
        ((State.complete { s with pfs := { s.pfs with dlvs := s.pfs.dlvs.filter (fun x => decide (x.id ≠ id)) } } id (dlvStatus d)
          (some (if l.compat then w32 (((d.ents.filter (fun e => decide (e.st = .done))).map (fun e => e.pages)).sum) else 0,
            dlvResult d))).releaseHolds))) ∧
  (∀ (d : Dlv) (k : Nat) (e : DEnt), d.ents.length ≤ 64 → d.ents[k]? = some e →
    bit ((dlvResult d).getD (k / 32) 0) (k % 32) = decide (e.st = .done)) ∧
  (∀ (s : State) (id : Nat) (l : Live) (host : Bool) (q first cnt : Nat), s.live id = some l → l.op = 0x0A → l.phase = .accepted →
    l.compat = true → host = bit (l.ws.getD 8 0) 24 → q = fld (l.ws.getD 8 0) 0 24 → first = fld (l.ws.getD 12 0) 0 16 →
    cnt = fld (l.ws.getD 12 0) 16 16 → s.reached .psa = true → (host = true ∨ s.reached .links = true) →
    compatReserved l [0x1FFFFFF, 0xFFFFFFFF, 0xFFFFFFFF, 0xFFFFFFFF, 0xFFFFFFFF] = true → s.stk.sync ≠ .acquiring → s.stk.sync ≠ .unlocked →
    (s.model (l.w 4) = none → exec (.compatDeliver id) s = .next (s.fail id .notFound)) ∧
    (∀ m, s.model (l.w 4) = some m → m.keyForm ≠ 0 → exec (.compatDeliver id) s = .next (s.fail id .badCommand)) ∧
    (∀ m, s.model (l.w 4) = some m → m.keyForm = 0 →
      (host = true ∨ (s.qpnOk q = true ∧ ∀ c, s.ctxPeek q = some c → c.state = .reset ∨ c.tenant = l.tenant)) →
      ∀ u snap, s.viewFor id l.tenant 0 = (u, .ok snap) →
      (u.probeView (compatKey l) snap = none → exec (.compatDeliver id) s = .next (u.fail id .notFound)) ∧
      (∀ i v multi pages, u.probeView (compatKey l) snap = some (i, v, multi) → pages = (u.psetAt v.ps).pages →
        (pages < first + cnt ∨ pages ≤ first → exec (.compatDeliver id) s = .next (u.fail id .badCommand)) ∧
        (first + cnt ≤ pages → first < pages → exec (.compatDeliver id) s = .next (u.startDlv l
          { id := id, target := (if host = true then .host l.port else .conn q (l.w 9) 0), layer := none, point := false, ents := [
            { pset := v.ps, slot := i, first := first, pages := (if cnt = 0 then pages - first else cnt), pageSize := (u.psetAt v.ps).pageSize,
              addr := l.w64 10, st := (if v.poison = true then .failed .poison else .active), staged := 0, acked := 0, multi := multi,
              handed := false }] })))))

/-- 06 R224 to R228; 07 R242, R243, R245: a PLAN_LOAD whose objects are CURRENT and whose layers the model has is tested whole, with
SPILL after moving layers down: one that does not fit moves nothing and reports the shortfalls, one that fits starts its moves; a
plan of more than 8 objects in a layer, or of no object that the tenant sees, ends BAD_COMMAND or NOTFOUND. UNLOAD frees the slot
with its holds once no started record of the plan remains, and waits until then. -/
def Obligations.PlanLoadAndUnload : Prop :=
  (∀ (s : State) (id : Nat) (l : Live) (m : Model) (bs : List Byte) (ks : List (List Byte × Key)), s.live id = some l → l.op = 0x0B →
    l.phase = .accepted → l.compat = false → s.reached .psa = true → l.flag 0 = false →
    l.reservedOk 3 [0xFFFF, 0, 0xFFFFFFFF, 0x3FFF, 0xFFFFFFFF, 0xFFFFFFFF] = true → l.w 7 ≠ 0 → l.w 7 ≤ 8192 →
    s.model (l.w 4) = some m → s.workRead l.tenant l.port (l.w64 8) (128 * l.w 7) = .ok bs →
    (pieces 128 (l.w 7) bs).all planEntryOk = true → s.listKeys (pieces 128 (l.w 7) bs) = .ok ks →
    (s.planObjs l.tenant ks = none → exec (.planLoad id) s = .next (s.fail id .notFound)) ∧
    (∀ os bad, s.planObjs l.tenant ks = some os →
      bad = ((planSchedule os).any (fun e => decide (8 < e.2.length)) || os.any (fun o => decide (m.layers ≤ o.layer))) →
      (bad = true → exec (.planLoad id) s = .next (s.fail id .badCommand)) ∧
      (bad = false → s.freePlan = none → exec (.planLoad id) s = .next (s.fail id .notReady)) ∧
      (bad = false → s.freePlan ≠ none →
        (l.flag 1 = true → s.planSpill l.tenant os 0 = none → exec (.planLoad id) s = .next (s.planRefuse id l.tenant os)) ∧
        (∀ o1 x, l.flag 1 = true → s.planSpill l.tenant os 0 = some (o1, x) → s.planSpill l.tenant o1 1 = none →
          exec (.planLoad id) s = .next (s.planRefuse id l.tenant o1)) ∧
        (∀ (p : List PlanObj) (n : Nat), (l.flag 1 = false ∧ p = os ∧ n = 0) ∨ (l.flag 1 = true ∧ ∃ o1 x y, s.planSpill l.tenant os 0 = some (o1, x) ∧
            s.planSpill l.tenant o1 1 = some (p, y) ∧ n = (x ++ y).eraseDups.length) →
          ((∃ t, t < 3 ∧ 0 < s.planLack l.tenant p t) → exec (.planLoad id) s = .next (s.planRefuse id l.tenant p)) ∧
          ((∀ t, t < 3 → s.planLack l.tenant p t = 0) →
            (s.flm.readOnly = true → (∃ o ∈ p, s.planCharge o ≠ 0 ∧ o.tier = 2) → exec (.planLoad id) s = .next (s.fail id .readOnly)) ∧
            (s.flm.readOnly = false ∨ (∀ o ∈ p, s.planCharge o = 0 ∨ o.tier ≠ 2) →
              ((∃ o ∈ p, (s.psetAt (s.slot o.slot).ps).level ≠ o.tier ∧ (s.moveOf (s.slot o.slot).ps).isSome = true) →
                exec (.planLoad id) s = .next (s.fail id .conflict)) ∧
              ((∀ o ∈ p, (s.psetAt (s.slot o.slot).ps).level = o.tier ∨ s.moveOf (s.slot o.slot).ps = none) →
                (∀ u, s.planRequest l.tenant p 3 0 = (u, false) → exec (.planLoad id) s = .next u) ∧
                (∀ u, s.planRequest l.tenant p 3 0 = (u, true) → (∀ o ∈ p, (u.slot o.slot).state = .current) →
                  exec (.planLoad id) s = .next (u.planStart l m p n))))))))) ∧
  (∀ (s : State) (tenant t : Nat) (os : List PlanObj), 0 < s.planLack tenant os t ↔
    s.planNeed os t ≠ 0 ∧ min (s.rooms tenant t).1 (s.rooms tenant t).2 < (s.planNeed os t : Int)) ∧
  (∀ (s : State) (id slot : Nat) (w : Unload), s.pfs.unloads.find? (fun u => decide (u.id = id)) = some w → slot = w.slot →
    (s.planBusy w.since slot = true → exec (.planUnload id) s = .next s) ∧
    (s.planBusy w.since slot = false → ∀ v : State, v = s.setPlan slot { s.plan slot with valid := false } →
      exec (.planUnload id) s = .next (State.done { v with pfs := { v.pfs with
        holds := v.pfs.holds.filter (fun h => decide (h.plan ≠ slot)), unloads := v.pfs.unloads.filter (fun u => decide (u.id ≠ id)) } } id 0 [0, 0, 0, 0]))) ∧
  (∀ (s : State) (id : Nat) (l : Live), s.live id = some l → l.op = 0x0B → l.phase = .accepted → l.compat = false →
    s.reached .psa = true → l.flag 0 = true → s.pfs.unloads.find? (fun u => decide (u.id = id)) = none →
    l.reservedOk 3 [0xFFFF, 0xFFFF, 0xFFFFFFFF, 0x3FFF, 0xFFFFFFFF, 0xFFFFFFFF] = true →
    (s.planOf s.que.nextId l.tenant (l.w 5) = none → exec (.planUnload id) s = .next (s.fail id .notFound)) ∧
    (∀ (slot : Nat) (u : State), s.planOf s.que.nextId l.tenant (l.w 5) = some slot →
      u = State.setRunning { s with pfs := { s.pfs with unloads := s.pfs.unloads ++ [⟨id, slot, s.que.nextId⟩] } } id →
      (u.planBusy s.que.nextId slot = true → exec (.planUnload id) s = .next u) ∧
      (u.planBusy s.que.nextId slot = false → ∀ v : State, v = u.setPlan slot { u.plan slot with valid := false } →
        exec (.planUnload id) s = .next (State.done { v with pfs := { v.pfs with
          holds := v.pfs.holds.filter (fun h => decide (h.plan ≠ slot)), unloads := v.pfs.unloads.filter (fun u => decide (u.id ≠ id)) } } id 0 [0, 0, 0, 0]))))

/-- 07 R246 to R249, R251: a step of no loaded plan ends NOTFOUND, one of no layer or past the plan's layers BAD_COMMAND, and with
PREFETCH_EN = 0 a step ends OK at once; a step issues nothing while suspended or past the lookahead, past the hold limit it only
raises HOLD_FULL, and otherwise it issues a round of reads of its next layer and goes on when all are issued; a layer whose last page
has landed is held, once, within the limit. -/
def Obligations.PrefetchStepsHoldLayers : Prop :=
  (∀ (s : State) (id p iid idx : Nat) (l : Live), s.live id = some l → l.op = 0 → l.phase = .accepted → l.compat = false →
    l.src = .record p iid idx →
    (s.planOf l.id l.tenant (fld (l.ws.getD 4 0) 16 16) = none → exec (.prefetchStep id) s = .next (s.fail id .notFound)) ∧
    (∀ slot, s.planOf l.id l.tenant (fld (l.ws.getD 4 0) 16 16) = some slot →
      (l.w 5 = 0 ∨ (s.plan slot).count < fld (l.ws.getD 4 0) 0 16 + l.w 5 → exec (.prefetchStep id) s = .next (s.fail id .badCommand)) ∧
      (l.w 5 ≠ 0 → fld (l.ws.getD 4 0) 0 16 + l.w 5 ≤ (s.plan slot).count → ∀ u,
        u = State.setRunning { s with pfs := { s.pfs with steps := s.pfs.steps ++
          [⟨id, slot, p, ((s.inst iid).map (fun x => x.target)).getD 0, fld (l.ws.getD 4 0) 0 16, l.w 5, 0, false, []⟩] } } id →
        (bit (s.cfgReg (pg 0x1A + 0x100)) 0 = true → exec (.prefetchStep id) s = .next (u.stepCheck id)) ∧
        (bit (s.cfgReg (pg 0x1A + 0x100)) 0 = false → exec (.prefetchStep id) s = .next (u.stepEnd id .ok))))) ∧
  (∀ (s : State) (id : Nat) (x : Step) (y : Nat), s.step_ id = some x → y = x.first + x.issued →
    (s.shut id = true → exec (.prefetchReadIssue id) s = .next s) ∧
    (s.shut id = false → x.count ≤ x.issued → exec (.prefetchReadIssue id) s = .next (s.stepCheck id)) ∧
    (s.shut id = false → x.issued < x.count →
      (s.layerCurrent x.plan y = false → exec (.prefetchReadIssue id) s = .next ((s.stepNext id).stepCheck id)) ∧
      (s.layerCurrent x.plan y = true →
        (∀ c, s.currentLayer x.plan x.port x.target = some c → c + s.cfgFld (pg 0x1A + 0x104) 0 4 < y →
          exec (.prefetchReadIssue id) s = .next s) ∧
        ((∀ c, s.currentLayer x.plan x.port x.target = some c → y ≤ c + s.cfgFld (pg 0x1A + 0x104) 0 4) →
          (s.cfgFld (pg 0x1A + 0x10C) 0 16 * 1000000000 < s.holdNeed (x.plan, y) →
            exec (.prefetchReadIssue id) s = .next (s.raise 0x1A 6)) ∧
          (s.holdNeed (x.plan, y) ≤ s.cfgFld (pg 0x1A + 0x10C) 0 16 * 1000000000 →
            exec (.prefetchReadIssue id) s = .next (if (s.readRound x).layerWants x.plan y = [] then (s.readRound x).stepNext id
              else s.readRound x)))))) ∧
  (∀ (s : State) (id y : Nat) (x : Step), s.step_ id = some x →
    (x.layers.contains y = false ∨ (s.layerCurrent x.plan y = true ∧ s.layerReady x.plan y = false) → exec (.layerResident id y) s = .next s) ∧
    (x.layers.contains y = true → s.layerCurrent x.plan y = false → exec (.layerResident id y) s = .next (s.stepCheck id)) ∧
    (x.layers.contains y = true → s.layerCurrent x.plan y = true → s.layerReady x.plan y = true →
      (s.layerBytes x.plan y = 0 ∨ x.got.contains y = true → exec (.layerResident id y) s = .next (s.stepCheck id)) ∧
      (s.layerBytes x.plan y ≠ 0 → x.got.contains y = false →
        (s.cfgFld (pg 0x1A + 0x10C) 0 16 * 1000000000 < s.holdNeed (x.plan, y) → exec (.layerResident id y) s = .next (s.raise 0x1A 6)) ∧
        (∀ used, used = decide (s.holdUsers ⟨x.plan, y, x.port, x.target, false⟩ ≠ []) →
          s.holdNeed (x.plan, y) ≤ s.cfgFld (pg 0x1A + 0x10C) 0 16 * 1000000000 → exec (.layerResident id y) s = .next (State.stepCheck
          { s with pfs := { s.pfs with
            holds := if s.isHold x y then s.pfs.holds else s.pfs.holds ++ [⟨x.plan, y, x.port, x.target, used⟩],
            steps := updIf s.pfs.steps (fun z => decide (z.id = id)) (fun z => { z with got := z.got ++ [y] }) } } id)))))

/-- 10 R368, R369, R373; 02 R77; 07 R251, R258 to R260: a channel starts the first work that its dies can take in the order of the rows:
journal pages, then URGENT reads before foreground collection and folding, which go ahead of them within their share of the channel's time,
then AHEAD reads, the tier manager's writes, and in slack the rest. A read starts on an idle die; a busy one is suspended for an URGENT
read where that is allowed. A read that returns without error lands its page in the T1 cache, and one declared unrecoverable makes it
POISON; one past READ_US is abandoned, counted, and its work ends TIMEOUT with no page poisoned; an uncorrectable T0 or T1 page is read
from a lower copy, and without one it is declared unrecoverable. -/
def Obligations.LowerTierReadsLandOrEnd : Prop :=
  (∀ (s : State) (ch : Nat), (∀ w, s.ringStart ch = some w → exec (.flashOpStart ch) s = .next w) ∧
    (s.ringStart ch = none →
      (∀ w, s.fgLeft ch = true → s.relocStart ch 3 = some w → exec (.flashOpStart ch) s = .next w) ∧
      (∀ w, s.fgLeft ch = false ∨ s.relocStart ch 3 = none → s.readStart ch true = some w → exec (.flashOpStart ch) s = .next w) ∧
      (s.readStart ch true = none → (∀ w, s.relocStart ch 3 = some w → exec (.flashOpStart ch) s = .next w) ∧
        (s.relocStart ch 3 = none → (∀ w, s.readStart ch false = some w → exec (.flashOpStart ch) s = .next w) ∧
          (s.readStart ch false = none → (∀ w, s.progData ch = some w → exec (.flashOpStart ch) s = .next w) ∧
            (s.progData ch = none → (s.slack .flash = false → exec (.flashOpStart ch) s = .next s) ∧
              (s.slack .flash = true → (∀ w, s.relocStart ch 6 = some w → exec (.flashOpStart ch) s = .next w) ∧
                (s.relocStart ch 6 = none → (∀ w, s.relocStart ch 7 = some w → exec (.flashOpStart ch) s = .next w) ∧
                  (s.relocStart ch 7 = none → exec (.flashOpStart ch) s = .next s))))))))) ∧
  (∀ (s : State) (r : T2Read) (die : Nat), die = ((s.pageLocs r.pset r.page).head?.map s.flm.slotDie).getD 0 →
    (sget s.flm.busy none die = none → s.readOn r = some { s with pfs := { s.pfs with
      reads := updIf s.pfs.reads (fun x => decide (x.rid = r.rid)) (fun x => { x with started := true, locs := s.pageLocs x.pset x.page }) } }) ∧
    (∀ b, sget s.flm.busy none die = some b → ∀ may, may = (r.urgent && bit (s.cfgReg (pg 0x38 + 0x200)) 4 && (sget s.flm.die Die.absent die).suspend
        && decide (b.susp < s.cfgFld (pg 0x38 + 0x228) 0 4)) →
      (may = false → s.readOn r = none) ∧
      (may = true → s.readOn r = some ((State.startRead { s with flm := { s.flm with busy := sset s.flm.busy none die (some { b with susp := b.susp + 1 }) } }
        r.rid).bump (pg (chPage (dieChannel (die / 32) (die % 32))) + 0x1A4))))) ∧
  (∀ (s : State) (rid : Nat) (os : List ReadOutcome), (s.read_ rid = none → exec (.flashRead rid os) s = .next s) ∧
    (∀ r, s.read_ rid = some r → (r.started = false → exec (.flashRead rid os) s = .next s) ∧
      (∀ again u lost, r.started = true →
        again = (r.locs.zip (os ++ List.replicate r.locs.length (.hard 0 0))).any (fun x => s.rebuilt x.1 x.2) →
        (s.rebuildPage r os).pageRead os r.locs = (u, lost) →
        (lost = true → exec (.flashRead rid os) s = .next (((u.dropRead rid).lostPage r.pset r.page).pageFailed r.pset r.page .poison)) ∧
        (lost = false → ∀ v : State, v = (if again || r.heal then (u.dropRead rid).bump (pg 0x1A + 0x18C) else u.dropRead rid) →
          exec (.flashRead rid os) s = .next (if (v.psetAt r.pset).level < 2 then v else v.cacheAdd r.pset r.page))))) ∧
  (∀ (s : State) (i p : Nat), s.cached i p = false →
    (((s.pfs.cache ++ [(⟨i, p⟩ : Cached)]).filter (fun c => (s.moveOf c.pset).isNone)).map (fun c => (s.psetAt c.pset).pageSize)).sum ≤ s.cacheMax →
    s.cacheAdd i p = { s with pfs := { s.pfs with cache := s.pfs.cache ++ [{ pset := i, page := p }] } }) ∧
  (∀ (s : State) (rid t : Nat) (r : T2Read), s.read_ rid = some r →
    (r.issuedAt + s.cfgFld (pg 0x1A + 0x110) 0 24 * 1000 ≤ max s.clk t →
      exec (.t2ReadTimeout rid t) s = .next
        ((((s.at_ t).count 0x1A 0x188 1).dropRead rid).pageFailed r.pset r.page .timeout)) ∧
    (max s.clk t < r.issuedAt + s.cfgFld (pg 0x1A + 0x110) 0 24 * 1000 → exec (.t2ReadTimeout rid t) s = .next (s.at_ t))) ∧
  (∀ (s : State) (tier p page : Nat) (v : Machine.PSet), v = s.psetAt p → ∀ here, here = (decide (tier < 2) && decide (page < v.pages) &&
      (v.has tier || (decide (tier = 1) && s.cached p page))) →
    (here = false → exec (.t1UncorrectableRead tier p page) s = .next s) ∧
    (here = true → ∀ (unit : Nat) (w u : State), unit = (if tier = 0 then Config.freeNat s.fresh.1 % 4 else s.fresh.2.stackOf p page) →
      w = s.fresh.2.rasRecord 0x19 0x04 1 unit (psHandle v.gen p * 2 ^ 32 + page * 2 ^ 21) →
      u = (if tier = 0 ∧ v.t1 = true then w.bump (pg 0x1A + 0x18C) else if v.t2 = true then w.healPage p page
        else if v.rstate ≠ .published then w.updPset p (fun v => { v with bad := (v.bad ++ [page]).eraseDups })
        else (w.lostPage p page).pageFailed p page .poison) →
      exec (.t1UncorrectableRead tier p page) s = .next (if tier = 1 then u.stackUe unit (p * 2 ^ 11 + page) else u)))

/-- 07 R260 to R264; 13 R496: the oldest page that waits takes a free repair slot and is asked for on its model's route; an answer
of OK whose page has the check of its publication restores it, and any other answer, or TIMEOUT_MS without one, fails the
attempt; RETRY_MS later it is tried again, and once RETRIES are exhausted it is given up, counted, and named. -/
def Obligations.ReplicaRepair : Prop :=
  (∀ (s : State) (slot : Nat), s.pfs.repairs.find? (fun r => decide (r.st = .waiting)) = none → exec (.repairRequest slot) s = .next s) ∧
  (∀ (s : State) (slot : Nat) (r : Repair), s.pfs.repairs.find? (fun r => decide (r.st = .waiting)) = some r →
    (256 ≤ slot ∨ (s.repairIn slot).isSome = true ∨ s.reached .links = false → exec (.repairRequest slot) s = .next s) ∧
    (slot < 256 → s.repairIn slot = none → s.reached .links = true → (s.route (s.slot r.slot).key.model = none ∨
      bit (s.cfgReg (pg 0x1A + 0x100)) 1 = false) → exec (.repairRequest slot) s = .next (((s.dropRepair r).raise 0x1A 3).lastPoison r.slot r.page)) ∧
    (∀ q, slot < 256 → s.repairIn slot = none → s.reached .links = true → s.route (s.slot r.slot).key.model = some q →
      bit (s.cfgReg (pg 0x1A + 0x100)) 1 = true → s.qpnOk q = true →
      exec (.repairRequest slot) s = .next (s.repairSend r slot q))) ∧
  (∀ (s : State) (slot a : Nat) (r : Repair) (m : Option Word × List Byte), s.repairIn slot = some r → r.st = .sent a →
    (s.conn r.qpn).inbox.find? (fun m => decide (m.1 = some (w32 (slot * 256 + 0xFF)))) = some m → ∀ v bs u,
    v = s.psetAt (s.slot r.slot).ps → bs = s.net.rbuf.rdBytes (2 ^ 21 * slot) v.pageSize →
    u = s.setConn r.qpn { s.conn r.qpn with inbox := (s.conn r.qpn).inbox.erase m } →
    (fld ((wordsOf m.2).getD 2 0) 0 8 = 0 → v.checks[r.page]? = some (crc64 bs) →
      exec (.repairResponse slot) s = .next (u.repairDone r bs)) ∧
    (fld ((wordsOf m.2).getD 2 0) 0 8 ≠ 0 ∨ v.checks[r.page]? ≠ some (crc64 bs) →
      exec (.repairResponse slot) s = .next (u.repairFails r))) ∧
  (∀ (s : State) (r : Repair),
    (s.cfgFld (pg 0x1A + 0x114) 24 8 < r.tries → s.repairFails r = ((s.dropRepair r).count 0x1A 0x198 5).lastPoison r.slot r.page) ∧
    (r.tries ≤ s.cfgFld (pg 0x1A + 0x114) 24 8 → s.repairFails r = s.updRepair r (fun x => { x with st := .failed s.clk }))) ∧
  (∀ (s : State) (slot t a : Nat) (r : Repair), s.repairIn slot = some r →
    (r.st = .sent a →
      (a + s.cfgFld (pg 0x1A + 0x114) 16 8 * 1000000 ≤ max s.clk t → exec (.repairTimeout slot t) s = .next ((s.at_ t).repairFails r)) ∧
      (max s.clk t < a + s.cfgFld (pg 0x1A + 0x114) 16 8 * 1000000 → exec (.repairTimeout slot t) s = .next (s.at_ t))) ∧
    (r.st = .failed a →
      (max s.clk t < a + s.cfgFld (pg 0x1A + 0x114) 0 16 * 1000000 → exec (.repairRetry slot t) s = .next (s.at_ t)) ∧
      (a + s.cfgFld (pg 0x1A + 0x114) 0 16 * 1000000 ≤ max s.clk t → ∀ q, s.route (s.slot r.slot).key.model = some q →
        bit (s.cfgReg (pg 0x1A + 0x100)) 1 = true → s.qpnOk q = true →
        exec (.repairRetry slot t) s = .next ((s.at_ t).repairSend r slot q))))

/-! ### 08: the burin engines -/

/-- 08 R272, R274, R276, R277, R300: an operation starts only while none runs, and only when its pages can be read; every tile of it
is given once, to a live engine; a tile that ends keeps its result, and the operation ends in the boundary at which every
tile has one. -/
def Obligations.OneOperationRunsOnLiveEngines : Prop :=
  (∀ s : State, (s.brn.run.isSome = true → exec .operationStart s = .next s) ∧
    (s.brn.run = none → ∀ w : State, w = (if s.betweenOps.selected.isNone then s.betweenOps.select else s.betweenOps) →
      (w.selected = none → exec .operationStart s = .next w.askHeads) ∧
      (∀ j op rest, w.selected = some j → j.ops = op :: rest →
        (w.opReady j op = true → exec .operationStart s = .next (w.startOp j.id)) ∧
        (w.opReady j op = false → exec .operationStart s = .next w.askHeads)))) ∧
  (∀ (s : State) (ts : List Tile), 0 < s.liveEngines →
    (s.deal ts).map (fun g => g.tile) = ts ∧ (s.deal ts).map (fun g => g.n) = List.range ts.length ∧
    ∀ g ∈ s.deal ts, g.core < 16 ∧ g.eng < 8 ∧ s.engLive g.core g.eng = true ∧ g.result = none) ∧
  (∀ (s : State) (c e : Nat), (s.brn.run = none ∨ (∃ u, s.brn.run = some u ∧ u.current c e = none)) → exec (.tileEnd c e) s = .next s) ∧
  (∀ (s : State) (u : Running) (g : Given) (c e : Nat), s.brn.run = some u → u.current c e = some g →
    (u.given.map (fun x => x.n)).Nodup → (s.core c).inject = false →
    ∃ t v, exec (.tileEnd c e) s = .next t ∧ t.brn.run = some v ∧ v.op = u.op ∧ v.given.length = u.given.length ∧
      (∃ y ∈ v.given, y.n = g.n ∧ y.result = some (match s.job u.op.id with
        | some j => s.tileResult { j with queries := u.queries, lms := u.lms } u.op.kind g.tile
        | none => [])) ∧
      (∀ y ∈ v.given, y.n ≠ g.n → ∃ z ∈ u.given, z.n = y.n ∧ z.tile = y.tile ∧ z.core = y.core ∧ z.eng = y.eng ∧
        z.result = y.result) ∧ t.npa = s.npa ∧ t.page = s.page ∧ t.que = s.que) ∧
  (∀ (s : State) (t : Nat), (s.brn.run = none → exec (.operationBoundary t) s = .next (s.at_ t)) ∧
    (∀ u, s.brn.run = some u →
      (u.given.any (fun g => g.result.isNone) = true → exec (.operationBoundary t) s = .next (s.at_ t)) ∧
      (u.given.any (fun g => g.result.isNone) = false → ∀ v,
        v = State.bump64 { s.at_ t with brn := { s.brn with run := none, busyNs := s.brn.busyNs + (max s.clk t - u.at_) } } (pg 0x20 + 0x220) 1 →
        exec (.operationBoundary t) s = .next ((v.opResult u).jobAdvance u.op.id).betweenOps)))

/-- 08 R292 to R294, R296: a failing engine is FAILED and hands its unended tiles to the other live engines of its core, with
no ended tile lost; a failing core restarts the operation once, with every tile dealt again and no result kept, and the
second failure, or one that leaves no live engine, aborts the command; a failure that is forced is one of cause 8; a watchdog fails
an engine only past FACTOR times the tile's time. -/
def Obligations.FailuresReplayOrRestart : Prop :=
  (∀ (s : State) (c e cause : Nat),
    ((cause = 1 ∧ s.reached .links = false) ∨ (cause = 2 ∧ (s.engine c e).testing.isSome = true) ∨ cause = 3 →
      exec (.engineFail c e cause) s = .next (s.failEngineOf c e cause)) ∧
    (¬ ((cause = 1 ∧ s.reached .links = false) ∨ (cause = 2 ∧ (s.engine c e).testing.isSome = true) ∨ cause = 3) →
      exec (.engineFail c e cause) s = .next s)) ∧
  (∀ (s : State) (c e cause : Nat), c < 16 → e < 8 → (s.core c).failed = false → (s.engine c e).failed = false →
    s.brn.core.rising → s.brn.run = none → (∃ k, k < 8 ∧ k ≠ e ∧ (s.engine c k).failed = false) → ∀ u, u = s.failEngineOf c e cause →
      (u.engine c e).failed = true ∧ u.engLive c e = false ∧ u.core c = { s.core c with cause := w32 (cause * 2 ^ 8 + e) } ∧
      (∀ x k, x < 16 → k < 8 → (x ≠ c ∨ k ≠ e) → u.engine x k = s.engine x k) ∧ u.npa = s.npa ∧ u.que = s.que) ∧
  (∀ (s : State) (c e cause : Nat) (r : Running), c < 16 → e < 8 → (s.core c).failed = false →
    (s.engine c e).failed = false → s.brn.run = some r → (∃ k, k < 8 ∧ k ≠ e ∧ s.engLive c k = true) →
    ∃ v, (s.failEngineOf c e cause).brn.run = some v ∧ v.op = r.op ∧ v.given.length = r.given.length ∧
      (∀ y ∈ v.given, y.result = none → ¬ (y.core = c ∧ y.eng = e)) ∧
      (∀ y ∈ r.given, y.result.isSome = true → y ∈ v.given)) ∧
  (∀ (s : State) (c cause : Nat), (cause = 5 ∨ cause = 6 → exec (.coreFail c cause) s = .next (s.failCore c cause)) ∧
    (cause ≠ 5 → cause ≠ 6 → exec (.coreFail c cause) s = .next s)) ∧
  (∀ (s : State) (c cause : Nat), c < 16 → (s.core c).failed = false →
    (∀ r, s.brn.run = some r → r.restarted = false → (∃ x, x < 16 ∧ x ≠ c ∧ s.liveOf x ≠ []) →
      ∃ v, (s.failCore c cause).brn.run = some v ∧ v.op = r.op ∧ v.restarted = true ∧
        v.given.map (fun g => g.tile) = r.op.tiles ∧ (∀ g ∈ v.given, g.result = none ∧ g.core ≠ c)) ∧
    (∀ r, s.brn.run = some r → (r.restarted = true ∨ ∀ x, x < 16 → x ≠ c → s.liveOf x = []) → ∃ u : State,
      s.failCore c cause = u.abortRun.raise 0x20 6 ∧ u.brn.run = some r ∧ (u.core c).failed = true)) ∧
  (∀ (s : State) (src : Src) (c : Nat) (m : Word),
    (c < 16 → s.pageOn src (0x20 + c) = true → exec (.failCore src c) s = .next (s.failCore c 8) ∧
      exec (.failEngine src c m) s = .next ((List.range 8).foldl (fun s e => if bit m e then s.failEngineOf c e 8 else s) s)) ∧
    (16 ≤ c ∨ s.pageOn src (0x20 + c) = false → exec (.failCore src c) s = .next s ∧ exec (.failEngine src c m) s = .next s)) ∧
  (∀ (s : State) (c e t n : Nat) (u : Running) (g : Given) (j : Job), s.brn.run = some u → u.current c e = some g →
    s.job u.op.id = some j → s.tileCycles j u.op.kind g.tile = some n →
    (g.startedAt * stepKhz s.brn.step + fld s.brn.watchdog 0 4 * n * 1000000 ≤ max s.clk t * stepKhz s.brn.step →
      exec (.engineWatchdog c e t) s = .next ((s.at_ t).failEngineOf c e 4)) ∧
    (max s.clk t * stepKhz s.brn.step < g.startedAt * stepKhz s.brn.step + fld s.brn.watchdog 0 4 * n * 1000000 →
      exec (.engineWatchdog c e t) s = .next (s.at_ t)))

/-- 08 R292, R300; 02 R77: an idle engine whose test is due leaves the array in slack, or once it is overdue in any case; 40 us later
it returns and is counted, or fails with cause 2; an injected error is corrected and logged at the next tile end. -/
def Obligations.SelfTestsAndInjectedErrors : Prop :=
  (∀ (s : State) (c e t step age : Nat), c < 16 → e < 8 → s.engLive c e = true → s.brn.run = none → s.reached .psa = true →
    step = fld s.brn.test 0 16 * 1000000 → age = max s.clk t - max (s.engine c e).lastTest s.resetAt → ∀ u,
    u = (s.at_ t).setEngine c e { s.engine c e with testing := some (max s.clk t) } →
    (fld s.brn.test 16 8 * step ≤ age → exec (.periodicSelfTest c e t) s = .next u) ∧
    (step ≤ age → (s.at_ t).anyReady = false → (s.at_ t).slack .engines = true → exec (.periodicSelfTest c e t) s = .next u) ∧
    (age < fld s.brn.test 16 8 * step → age < step ∨ (s.at_ t).anyReady = true ∨ (s.at_ t).slack .engines = false →
      exec (.periodicSelfTest c e t) s = .next (s.at_ t)) ∧
    (u.engine c e).testing = some (max s.clk t) ∧ u.engLive c e = false) ∧
  (∀ (s : State) (c e t a : Nat) (p : Bool), (s.engine c e).testing = some a →
    (max s.clk t < a + 40000 → exec (.selfTestEnd c e t p) s = .next (s.at_ t)) ∧
    (a + 40000 ≤ max s.clk t → ∀ u, u = State.bump ((s.at_ t).setEngine c e
        { s.engine c e with testing := none, lastTest := max s.clk t }) (pg (0x20 + c) + 0x198) →
      exec (.selfTestEnd c e t p) s = .next (if p then u else u.failEngineOf c e 2))) ∧
  (∀ (s : State) (src : Src) (c : Nat),
    (16 ≤ c ∨ s.pageOn src (0x20 + c) = false → exec (.brnInject src c) s = .next s) ∧
    (c < 16 → s.pageOn src (0x20 + c) = true →
      ∃ u, exec (.brnInject src c) s = .next u ∧ u.core c = { s.core c with inject := true } ∧
        (∀ k, k ≠ c → u.core k = s.core k) ∧ u.regs = s.regs ∧ u.brn.run = s.brn.run)) ∧
  (∀ (s : State) (u : Running) (g : Given) (c e : Nat), s.brn.run = some u → u.current c e = some g →
    (s.core c).inject = true → s.brn.core.rising → ∃ t v : State, exec (.tileEnd c e) s = .next (t.rasRecord (0x20 + c) 0x01 0 c 0) ∧
      v.core c = { s.core c with inject := false } ∧ t = v.count (0x20 + c) 0x190 2)

/-! ### 09: near-page attention -/

/-- 09 R304, R305, R307, R311 to R314, R328, R330: ATTEND and ATTEND_SPARSE take the operands that their acceptance read; a failed
check, a condition outside the operands, or a list that could not be read ends the command with its status and no result; otherwise
the requests take their proofs' views, and the job starts with the requests as they resolve. -/
def Obligations.AttendReadsItsOperandsOnce : Prop :=
  ∀ (s : State) (id : Nat) (l : Live) (sparse : Bool), s.live id = some l → l.op = (if sparse then 0x0D else 0x0C) →
    l.phase = .accepted → l.compat = false → ∀ c, c = (if sparse then .attendSparse id else .attend id) →
    (s.reached .psa = false → exec c s = .next (s.npaFail l.id .notReady)) ∧
    (s.reached .psa = true → l.w64 4 % 64 ≠ 0 → exec c s = .next (s.npaFail l.id .badCommand)) ∧
    (∀ e, s.reached .psa = true → s.paramRead l = .error e → exec c s = .next (s.npaFail l.id e)) ∧
    (∀ par, s.reached .psa = true → s.paramRead l = .ok par →
      (s.attendCheck par sparse = false → exec c s = .next (s.npaFail l.id .badCommand)) ∧
      (s.attendCheck par sparse = true →
        (∀ e, s.npaWhen l par true = some e → exec c s = .next (s.npaFail l.id e)) ∧
        (∀ p qs, l.src = .queue p qs → s.stk.sync = .unlocked ∨ s.stk.sync = .acquiring → s.npaWhen l par true = some .notReady) ∧
        (s.liveEngines = 0 → s.npaWhen l par true = some .notReady) ∧
        (s.npaWhen l par true = none →
          (∀ e, s.reqTable l par = .error e → exec c s = .next (s.npaFail l.id e)) ∧
          (∀ reqs, s.reqTable l par = .ok reqs →
            (∀ e, s.entList l par false = .error e → exec c s = .next (s.npaFail l.id e)) ∧
            (∀ es, s.entList l par false = .ok es →
              (∀ e, s.entsModel es = .error e → exec c s = .next (s.npaFail l.id e)) ∧
              (s.entsModel es = .ok none →
                (∀ u e, s.reqViews l none reqs = (u, .error e) → exec c s = .next (u.npaFail l.id e)) ∧
                (∀ u snaps, s.reqViews l none reqs = (u, .ok snaps) → exec c s = .next (u.noModel l.id (snaps.map (fun v =>
                  if v.isNone then .staleProof else .notFound))))) ∧
              (∀ m, s.entsModel es = .ok (some m) →
                (attendModelOk par m sparse es = false ∨ s.attendRoom l par m sparse = false → exec c s = .next (s.npaFail l.id .badCommand)) ∧
                (attendModelOk par m sparse es = true → s.attendRoom l par m sparse = true →
                  (∀ u e, s.reqViews l none reqs = (u, .error e) → exec c s = .next (u.npaFail l.id e)) ∧
                  (∀ u snaps rs, s.reqViews l none reqs = (u, .ok snaps) → rs = (reqs.zip snaps).map (fun r =>
                      u.resolveReq l.tenant m (fld (par.getD 0 0) 0 16) es (if sparse then [] else List.range es.length) r.1 r.2) →
                    (rs.any (fun x => x.2.2) = true → exec c s = .next (u.npaFail l.id .badCommand)) ∧
                    (rs.any (fun x => x.2.2) = false → ∃ j ps, exec c s = .next (u.jobStart j ps) ∧ j.id = l.id ∧ j.opcode = l.op ∧
                      j.par = par ∧ j.model = m.id ∧ j.reqs = rs.map (fun x => x.1)) ∧
                    (∀ x ∈ rs, (x.1.st = .ok → x.1.res.length = es.length) ∧ (x.1.st ≠ .ok → x.1.res = []))))))))))

/-- 03 R90; 08 R296; 09 R306, R308, R313, R330, R334, R336, R337: REROTATE, REPACK CONVERT and REPACK LANDMARK read one parameter
block, refuse a list of none or more than 4,096 entries, a target that is no open block reservation, or a table outside one, and start
a job of one operation for each entry and layer; a proof that fails makes every entry STALE_PROOF. -/
def Obligations.RerotateAndRepackStart : Prop :=
  ∀ (s : State) (id : Nat) (l : Live) (par : List Word) (k : PageCmd) (c : Instr), s.live id = some l → l.phase = .accepted →
    l.compat = false → s.reached .psa = true → s.paramRead l = .ok par →
    ((k = .rerotate ∧ l.op = 0x0E ∧ c = .rerotate id) ∨ (k = .convert ∧ l.op = 0x0F ∧ fld (par.getD 7 0) 30 2 ≠ 1 ∧ c = .repackConvert id) ∨
      (k = .landmark ∧ l.op = 0x0F ∧ fld (par.getD 7 0) 30 2 = 1 ∧ c = .repackLandmark id)) →
    (paramOk par (pageMasks k) = false ∨ spacesOk (par.getD 5 0) = false ∨ fld (par.getD 4 0) 0 17 = 0 ∨ 4096 < fld (par.getD 4 0) 0 17 ∨
      wd64 par 2 % 128 ≠ 0 → exec c s = .next (s.npaFail l.id .badCommand)) ∧
    (paramOk par (pageMasks k) = true → spacesOk (par.getD 5 0) = true → 0 < fld (par.getD 4 0) 0 17 → fld (par.getD 4 0) 0 17 ≤ 4096 →
      wd64 par 2 % 128 = 0 →
      (s.liveEngines = 0 → exec c s = .next (s.npaFail l.id .notReady)) ∧
      (0 < s.liveEngines →
        (∀ e, s.entList l par (decide (k ≠ .landmark)) = .error e → exec c s = .next (s.npaFail l.id e)) ∧
        (∀ es, s.entList l par (decide (k ≠ .landmark)) = .ok es →
          (∀ e, s.entsModel es = .error e → exec c s = .next (s.npaFail l.id e)) ∧
          (s.entsModel es = .ok none →
            (∀ u snap, s.viewFor l.id l.tenant (wd par 6) = (u, .ok snap) → exec c s = .next (u.noModel l.id (es.map (fun _ => .notFound)))) ∧
            (∀ u, s.viewFor l.id l.tenant (wd par 6) = (u, .error .staleProof) →
              exec c s = .next (u.noModel l.id (es.map (fun _ => .staleProof)))) ∧
            (∀ u e, s.viewFor l.id l.tenant (wd par 6) = (u, .error e) → e ≠ .staleProof → exec c s = .next (u.npaFail l.id e))) ∧
          (∀ m, s.entsModel es = .ok (some m) →
            (layersOf par m = none → exec c s = .next (s.npaFail l.id .badCommand)) ∧
            (∀ layers e, layersOf par m = some layers → s.targetModel k par m = .error e → exec c s = .next (s.npaFail l.id e)) ∧
            (∀ layers t fits, layersOf par m = some layers → s.targetModel k par m = .ok t →
              fits = (if k = .landmark then s.tablesOk l.tenant par m (fld (par.getD 4 0) 0 17) layers.length else s.targetsOk l.tenant t es) →
              (fits = false ∨ (∃ e ∈ es, m.blockLen < e.tokens) → exec c s = .next (s.npaFail l.id .badCommand)) ∧
              (fits = true → (∀ e ∈ es, e.tokens ≤ m.blockLen) →
                (∀ u snap, s.viewFor l.id l.tenant (wd par 6) = (u, .ok snap) → exec c s = .next (u.pageJob l k par m layers es (some snap))) ∧
                (∀ u, s.viewFor l.id l.tenant (wd par 6) = (u, .error .staleProof) → exec c s = .next (u.pageJob l k par m layers es none)) ∧
                (∀ u e, s.viewFor l.id l.tenant (wd par 6) = (u, .error e) → e ≠ .staleProof → exec c s = .next (u.npaFail l.id e))))))))

/-- 09 R318 to R322, R325 to R327, R329, R333: a neutral record changes no record that it is combined with but for the tokens seen and the
status; a result block has its header and one record for every request and query head; a request selects its forced
entries and at most SELECT others, in entry order; a merge that has waited WAIT_US ends TIMEOUT, and one that has not waits on. -/
def Obligations.ResultsCombineAndMerge : Prop :=
  (∀ (ftz : Bool) (r : Rec) (d st : Nat), isZero r.l = false →
    combineRec ftz r (Rec.neutral d 0) = r ∧
    combineRec ftz (Rec.neutral d st) r = { r with st := if st = 0 then r.st else st }) ∧
  (∀ (ftz : Bool) (a b : Rec), (combineRec ftz a b).seen = a.seen + b.seen) ∧
  (∀ (s : State) (j : Job) (tag : Nat) (recs : List Rec), (∀ r ∈ recs, r.o.length = (s.jobModel j).headDim) →
    recs.length = j.reqs.length * s.jobQh j → (s.blockOf j tag recs).1.length = s.blockSize j) ∧
  (∀ (n first last k : Nat) (score : Nat → Word) (i : Nat), i < n →
    ((i < first ∨ n ≤ i + last) → i ∈ selectEntries n first last k score) ∧
    (i ∈ selectEntries n first last k score → ¬ (i < first ∨ n ≤ i + last) → fp (score i) ≠ .inf true ∧ (fp (score i)).isNan = false) ∧
    ((selectEntries n first last k score).filter (fun x => !decide (x < first ∨ n ≤ x + last))).length ≤ k ∧
    (selectEntries n first last k score).Pairwise (· < ·)) ∧
  (∀ (s : State) (id t a n : Nat) (j : Job), s.job id = some j → j.stage = .merge a n →
    (a + s.cfgFld (pg 0x30 + 0x108) 0 24 * 1000 ≤ max s.clk t →
      exec (.mergeTimeout id t) s = .next (((s.at_ t).count 0x30 0x198 0).jobEnd id (some .timeout))) ∧
    (max s.clk t < a + s.cfgFld (pg 0x30 + 0x108) 0 24 * 1000 → exec (.mergeTimeout id t) s = .next (s.at_ t)))

/-! ### 10: the flash tier -/

/-- 10 R357 to R360, R364, R366, R368, R370, R372; 05 R194: a segment that has waited SEGMENT_US is padded with zero slots to a whole
segment and counted; a whole segment that waits for credit is counted once and stays; one whose program passes is protected, one slot
group further in its superblock, and one whose program or read-back fails closes its superblock and keeps its data queued. The open
journal page is closed JOURNAL_US after its first record; the records of a page whose two copies have read back take effect in their
order, and a page with a copy that has not waits; a checkpoint that is due writes its area and appends its two records. (When a die's part
of a segment has started is the model's choice, log entry 163.) -/
def Obligations.FlashProgramsAndCommits : Prop :=
  (∀ (s : State) (k t : Nat), ((s.stream k).since = none → exec (.segmentFlush k t) s = .next (s.at_ t)) ∧
    (∀ t0, (s.stream k).since = some t0 →
      (max s.clk t < t0 + s.cfgFld (pg 0x38 + 0x224) 0 16 * 1000 ∨ s.flm.readOnly = true → exec (.segmentFlush k t) s = .next (s.at_ t)) ∧
      (t0 + s.cfgFld (pg 0x38 + 0x224) 0 16 * 1000 ≤ max s.clk t → s.flm.readOnly = false → ∀ w : State, w = (s.at_ t).ensureSb k →
        ((w.stream k).sb = none → exec (.segmentFlush k t) s = .next w) ∧
        (∀ n seg, (w.stream k).sb = some n → seg = segData (w.flm.sbAt n) →
          (seg ≤ (w.stream k).queue.length → exec (.segmentFlush k t) s = .next w) ∧
          ((w.stream k).queue.length < seg → exec (.segmentFlush k t) s = .next ((w.setStream k { w.stream k with
            queue := (w.stream k).queue ++ List.replicate (seg - (w.stream k).queue.length) (padSlot w.clk),
            flushed := true }).bump (pg 0x38 + 0x2EC))))))) ∧
  (∀ (s : State) (ch k : Nat), k = 3 * (ch / 32) → ∀ first, first = decide (sget s.flm.prog 0 (ch / 32) = 0) →
    ((first && s.dataShut k) = true ∨ s.progOn ch k false = none → s.progData ch = none) ∧
    (∀ w : State, (first && s.dataShut k) = false → s.progOn ch k false = some w →
      ((first && s.creditShort k) = false → s.progData ch = some w) ∧
      ((first && s.creditShort k) = true → s.progData ch = if (w.stream k).short then none
        else some ((s.setStream k { s.stream k with short := true }).bump (pg 0x38 + 0x2DC))))) ∧
  (∀ (s : State) (k : Nat) (x : SegResult), (sget s.flm.prog 0 (k / 3) ≠ k + 1 → exec (.segmentProgrammed k x) s = .next s) ∧
    (sget s.flm.prog 0 (k / 3) = k + 1 → ∀ w : State, w = s.ensureSb k →
      ((w.stream k).sb = none → exec (.segmentProgrammed k x) s = .next w) ∧
      (∀ n seg, (w.stream k).sb = some n → seg = segData (w.flm.sbAt n) →
        ((w.stream k).queue.length < seg ∨ seg = 0 ∨ w.flm.readOnly = true → exec (.segmentProgrammed k x) s = .next (w.progEnd (k / 3))) ∧
        (seg ≤ (w.stream k).queue.length → 0 < seg → w.flm.readOnly = false →
          (w.segStarted k n = false → exec (.segmentProgrammed k x) s = .next w) ∧
          (w.segStarted k n = true → ∀ u, u = w.progEnd (k / 3) →
            (x.failed = [] → w.backFails x.back = [] → exec (.segmentProgrammed k x) s = .next ((u.programOk k n).flashSettle w) ∧
              ((u.programOk k n).flm.sbAt n).segs = (w.flm.sbAt n).segs + 1) ∧
            (x.failed ≠ [] ∨ w.backFails x.back ≠ [] →
              exec (.segmentProgrammed k x) s = .next ((u.programFail k n x.failed (w.backFails x.back)).flashSettle w) ∧
              ((u.programFail k n x.failed (w.backFails x.back)).stream k).queue = (w.stream k).queue)))))) ∧
  (∀ (s : State) (t : Nat), (s.flm.jopenAt = none → exec (.journalFlush t) s = .next (s.at_ t)) ∧
    (∀ t0, s.flm.jopenAt = some t0 →
      (t0 + s.cfgFld (pg 0x38 + 0x224) 16 16 * 1000 ≤ max s.clk t →
        exec (.journalFlush t) s = .next { s.at_ t with flm := s.flm.jclose }) ∧
      (max s.clk t < t0 + s.cfgFld (pg 0x38 + 0x224) 16 16 * 1000 → exec (.journalFlush t) s = .next (s.at_ t)))) ∧
  (∀ (s : State) (x : PageResult), (s.flm.jpages = [] → exec (.journalPageDurable x) s = .next s) ∧
    (∀ (p : JPage) (r : List JPage), s.flm.jpages = p :: r → ∀ a b u v w,
      a = (!p.ok0 && x.first && s.flm.ringBusy p.n 0) → b = (!p.ok1 && x.second && s.flm.ringBusy p.n 1) →
      u = (if a then s.ringWrite p 0 else s) → v = (if b then u.ringWrite p 1 else u) →
      w = { v with flm := (v.flm.ringFree p.n 0).ringFree p.n 1 } →
      ((p.ok0 || a) = true → (p.ok1 || b) = true → exec (.journalPageDurable x) s = .next (((p.recs.foldl (fun s x => s.applyRec x)
        ((State.jcount { w with flm := { w.flm with jpages := r } }).ringErase (p.n + 1))).flashSettle s).discardCheck)) ∧
      ((p.ok0 || a) = false ∨ (p.ok1 || b) = false → exec (.journalPageDurable x) s =
        .next { w with flm := { w.flm with jpages := { p with ok0 := p.ok0 || a, ok1 := p.ok1 || b } :: r } }))) ∧
  (∀ (s : State) (t : Nat), (s.flm.ckptRun = true ∨ s.flashOn = false ∨ (s.at_ t).ckptDue = false → exec (.checkpoint t) s = .next (s.at_ t)) ∧
    (s.flm.ckptRun = false → s.flashOn = true → (s.at_ t).ckptDue = true →
      ∀ n seq, n = s.flm.ckptN + 1 → seq = (s.flm.jroom (.ckptBegin n (n % 2))).jseq →
      exec (.checkpoint t) s = .next ((State.journal { s.at_ t with flm := { s.flm.putArea (s.ckptImage n seq) with ckptRun := true, ckptAt := max s.clk t } }
        (.ckptBegin n (n % 2))).journal (.ckptEnd n seq))))

/-- 10 R355, R361, R362, R370, R371, R373 to R376, R379; 02 R77: folding takes the oldest closed SLC superblock of its half, garbage
collection a closed native one with the fewest valid slots, and neither runs on a read-only tier; a scheduled superblock, one with a
block on a failed die, and the least worn one beyond SPREAD are relocated whole, in slack; an erase that may run leaves its superblock
FREE, or dissolved; a page is scrubbed once in a period when its channel has nothing else to do; a map line is rebuilt and logged when its
check fails, and a die that fails is FAILED. -/
def Obligations.FlashVacatesErasesAndScrubs : Prop :=
  (∀ (s : State) (half : Nat), ∀ on, on = (s.slcBelow 16 || (s.flmCtrl 1 && s.slack .flash && s.slcBelow 8)) → ∀ pick,
    pick = s.pickSb (fun e => decide (e.1 / 8192 / 32 = half) && !e.2.nativeMode) (fun a b => decide (a.2.closedAt ≤ b.2.closedAt)) →
    (s.flm.readOnly = true ∨ s.vacating half false = true ∨ on = false ∨ pick = none → exec (.folding half) s = .next s) ∧
    (∀ e, s.flm.readOnly = false → s.vacating half false = false → on = true → pick = some e →
      exec (.folding half) s = .next (s.vacate e.1 .fold) ∧
      (∀ x, x ∈ s.flm.sb → x.2.st = .closed → x.1 / 8192 / 32 = half → x.2.nativeMode = false → e.2.closedAt ≤ x.2.closedAt))) ∧
  (∀ (s : State) (half : Nat), ∀ on, on = (decide (2 ≤ s.flm.mode) || s.slcBelow 16 || (s.flmCtrl 0 && s.slack .flash)) →
    (s.flm.readOnly = true ∨ s.vacating half true = true ∨ on = false ∨
      (∀ x ∈ s.flm.sb, ¬ (x.2.st = .closed ∧ x.1 / 8192 / 32 = half ∧ x.2.nativeMode = true)) → exec (.garbageCollection half) s = .next s) ∧
    (s.flm.readOnly = false → s.vacating half true = false → on = true →
      (∃ x ∈ s.flm.sb, x.2.st = .closed ∧ x.1 / 8192 / 32 = half ∧ x.2.nativeMode = true) →
      ∃ e, e ∈ s.flm.sb ∧ e.2.st = .closed ∧ e.1 / 8192 / 32 = half ∧ e.2.nativeMode = true ∧
        exec (.garbageCollection half) s = .next (s.vacate e.1 .collect) ∧
        (∀ x, x ∈ s.flm.sb → x.2.st = .closed → x.1 / 8192 / 32 = half → x.2.nativeMode = true →
          s.flm.validSlots e.1 ≤ s.flm.validSlots x.1))) ∧
  (∀ (s : State) (n : Nat), ∀ may, may = (!s.flm.readOnly && s.slack .flash) →
    (may = true → (s.flm.sbAt n).st = .closed → (s.flm.sbAt n).rewrite = true →
      exec (.rewrite n) s = .next ((s.vacate n .rewrite).bump (pg 0x38 + 0x2CC))) ∧
    (may = true → (s.flm.sbAt n).st = .closed → (s.flm.sbAt n).rebuild = true → exec (.dieRebuild n) s = .next (s.vacate n .rebuild)) ∧
    (may = true → (s.flm.sbAt n).st = .meta_ → (s.flm.sbAt n).rebuild = true → exec (.dieRebuild n) s = .next ((s.moveMeta n).getD s)) ∧
    (may = false ∨ (s.flm.sbAt n).st ≠ .closed ∨ (s.flm.sbAt n).rewrite = false → exec (.rewrite n) s = .next s) ∧
    (may = false ∨ ((s.flm.sbAt n).st ≠ .closed ∧ (s.flm.sbAt n).st ≠ .meta_) ∨ (s.flm.sbAt n).rebuild = false → exec (.dieRebuild n) s = .next s)) ∧
  (∀ (s : State) (d spread : Nat) (on : Bool), d = s.flm.eraseSpread.2 - s.flm.eraseSpread.1 → spread = s.cfgFld (pg 0x38 + 0x210) 0 16 →
    on = (decide (spread < d) || (s.flm.wear && decide (spread * 90 < d * 100))) → ∀ u : State,
    u = { s with flm := { s.flm with wear := on } } → ∀ pick, pick = u.pickSb (fun e => e.2.nativeMode) (fun a b =>
      let x := u.flm.sbErases a.1 a.2 * b.2.blocks.length
      let y := u.flm.sbErases b.1 b.2 * a.2.blocks.length
      decide (x < y) || (decide (x = y) && decide (a.2.closedAt ≤ b.2.closedAt))) →
    (on = false ∨ u.flmCtrl 2 = false ∨ u.slack .flash = false ∨ u.flm.readOnly = true ∨ pick = none → exec .wearLevelling s = .next u) ∧
    (∀ e, on = true → u.flmCtrl 2 = true → u.slack .flash = true → u.flm.readOnly = false → pick = some e →
      exec .wearLevelling s = .next ((u.vacate e.1 .wear).bump (pg 0x38 + 0x2C8)))) ∧
  (∀ (s : State) (n : Nat) (bad zeroBad : List Nat),
    ((s.flm.sbAt n).st ≠ .eraseBegin ∨ (s.flm.sbAt n).eraseOk = false ∨ s.flm.validSlots n ≠ 0 ∨ s.sbUnread n = false ∨ s.flm.jfull = true ∨
        s.eraseStarted n = false → exec (.erase n bad zeroBad) s = .next s) ∧
    ((s.flm.sbAt n).st = .eraseBegin → (s.flm.sbAt n).eraseOk = true → s.flm.validSlots n = 0 → s.sbUnread n = true → s.flm.jfull = false →
      s.eraseStarted n = true → Sparse.rising s.flm.sb → ∀ u, u = (s.eraseEnd n).eraseSb n bad zeroBad →
      exec (.erase n bad zeroBad) s = .next (u.flashSettle s) ∧
        ((u.flm.sbAt n).st = .free ∨ (u.flm.sbAt n).st = .retired) ∧ (u.flm.sbAt n).segs = 0)) ∧
  (∀ (s : State) (n slot t : Nat) (o : ReadOutcome) (u : State) (b : Sb) (pos : Nat), u = s.at_ t → b = s.flm.sbAt n →
    pos = s.flm.rawPos ⟨n, slot⟩ → ∀ may, may = (u.flmCtrl 3 && u.slack .flash && decide (b.st = .closed) && b.guards slot && u.scrubDue b slot &&
      [1, 2, 3, 4, 5, 6].all (fun r => (u.rowStart (dieChannel (n / 8192) pos) r).isNone) && (sget s.flm.busy none (32 * (n / 8192) + pos)).isNone) →
    (may = false → exec (.flashScrub n slot t o) s = .next u) ∧
    (∀ v w lost, may = true → v = { u with flm := u.flm.updSb n (fun b => { b with scrubbed := sset b.scrubbed 0 slot (u.clk + 1) }) } →
      (v.trendAdd ⟨n, slot⟩ o).slotRead ⟨n, slot⟩ o = (w, lost) →
      (lost = false ∨ 2 ^ 19 ≤ slot ∨ w.ownerOf ⟨n, slot⟩ = none → exec (.flashScrub n slot t o) s = .next w) ∧
      (∀ i p, lost = true → slot < 2 ^ 19 → w.ownerOf ⟨n, slot⟩ = some (i, p) → exec (.flashScrub n slot t o) s = .next (w.lostPage i p)))) ∧
  (∀ (s : State) (n slot lvl bits pos : Nat), pos = s.flm.rawPos ⟨n, slot⟩ → (s.flm.sbAt n).st = .closed → (s.flm.dieAt (n / 8192) pos).st = .live →
    ∀ u lost, s.slotRead ⟨n, slot⟩ (.hard lvl bits) = (u, lost) → lost = false ∧ u.page = s.page ∧ u.dir = s.dir ∧
      sget (u.flm.sbAt n).reads 0 pos = sget (s.flm.sbAt n).reads 0 pos + 1 ∧
      (0 < lvl → (u.flm.sbAt n).rewrite = true)) ∧
  (∀ (s : State) (die : Nat), exec (.dieFail die) s = .next ((s.dieFails die).flashSettle s) ∧
    ((sget s.flm.die Die.absent die).st = .live → (sget (s.dieFails die).flm.die Die.absent die).st = .failed)) ∧
  (∀ (s : State) (e : LineRead), ∀ ok, ok = (if e.stip then stipLineOk e.seen else broadLineOk e.seen) →
    (ok = true → exec (.mapRebuild e) s = .next s) ∧
    (ok = false → exec (.mapRebuild e) s =
      .next (State.rasRecord { s with flm := s.flm.rebuildLine e.stip e.line } 0x38 0x06 0 0 e.line)))

/-- 10 R380, R381, R384, R388, R389; 05 R166, R198: DISCARD of a CURRENT entry that no claim holds retires it with its descendants;
with SECURE, a T2 copy on a read-only tier stops it. A SECURE DISCARD whose entries are gone journals DISCARD_BEGIN, then relocates what
shares its superblocks, then journals DISCARD_END, one after the other. Recovery ends the FLASH phase's work with a directory of
entries whose T2 copy is durable, and of pinned entries, which are POISON where they have none, no proof, and editions above the
mark. -/
def Obligations.DiscardAndFlashRecovery : Prop :=
  (∀ (s : State) (id : Nat) (l : Live), s.live id = some l → l.op = 0x09 → l.phase = .accepted → l.compat = false → s.reached .psa = true →
    (l.reservedOk 0x601 [0, 0, 0xFFFFFFFF, 0xFFFFFFFF] = false → exec (.discard id) s = .next ((s.fail id .badCommand).discardCheck)) ∧
    (l.reservedOk 0x601 [0, 0, 0xFFFFFFFF, 0xFFFFFFFF] = true →
      (∀ e, s.namedKey l true = .error e → exec (.discard id) s = .next ((s.fail id e).discardCheck)) ∧
      (∀ k form, s.namedKey l true = .ok (k, form) →
        (s.current k form = none → exec (.discard id) s = .next
          ((s.fail id (if (s.exact k form Slot.resident).isSome then .conflict else .notFound)).discardCheck)) ∧
        (∀ i e, s.current k form = some (i, e) → ∀ claim, claim = s.dir.points.any (fun p => match p.kind with
            | .commit j _ => decide ((s.slot j).parent = some i)
            | _ => false) →
          (claim = true → exec (.discard id) s = .next ((s.fail id .conflict).discardCheck)) ∧
          (claim = false → ∀ stop, stop = (l.flag 0 && s.flm.readOnly && (s.subtree i).any (fun e => (s.psetAt e.2.ps).t2)) →
            (stop = true → exec (.discard id) s = .next ((s.fail id .readOnly).discardCheck)) ∧
            (stop = false → ∀ w : State, w = s.startCascade i (.discard id (l.flag 0)) → exec (.discard id) s = .next
              (State.discardCheck (State.setRunning { w with flm := { w.flm with
                discards := w.flm.discards ++ [⟨id, l.flag 0, [], 0, [], false, false, false, false, false⟩] } } id)))))))) ∧
  (∀ (s : State) (id : Nat) (d : Discard), s.flm.discards.find? (fun d => decide (d.id = id)) = some d →
    (d.secure = false ∨ s.discardGone d = false → exec (.discardRelocation id) s = .next s) ∧
    (d.secure = true → s.discardGone d = true →
      (d.asked = false → exec (.discardRelocation id) s = .next (State.journal { s with flm := { s.flm with discards := updIf s.flm.discards (fun x => decide (x.id = id)) (fun d => { d with asked := true }) } } (.discardBegin id ((s.live id).elim 0 (·.tag)) (d.psets.filterMap (fun h => sget s.flm.foot none h))))) ∧
      (d.asked = true → d.begun = false → exec (.discardRelocation id) s = .next s) ∧
      (d.asked = true → d.begun = true → d.sbs ≠ [] →
        exec (.discardRelocation id) s = .next (if s.flm.readOnly then s else d.sbs.foldl (fun s n => s.vacateFoot n) s)) ∧
      (d.asked = true → d.begun = true → d.sbs = [] → d.closing = false → exec (.discardRelocation id) s = .next
        (State.journal { s with flm := { s.flm with discards := updIf s.flm.discards (fun x => decide (x.id = id)) (fun d => { d with closing := true }) } } (.discardEnd id ((s.live id).elim 0 (·.tag))))) ∧
      (d.asked = true → d.begun = true → d.sbs = [] → d.closing = true → exec (.discardRelocation id) s = .next s.discardCheck))) ∧
  (∀ (s : State) (f : FlashFound), (s.start ≠ .flash ∨ s.phaseDone = true → exec (.flashRecovery f) s = .next s) ∧
    (s.start = .flash → s.phaseDone = false → ∀ w v : State,
      w = (((s.flashForm.flashDiscover f).flashReplay).flashCapacity).finishDiscards f.erases →
      v = { w with flm := { w.flm with recoverMs := f.ms }, phaseDone := true } →
      exec (.flashRecovery f) s = .next (v.directoryRebuild.spareCheck).updMode)) ∧
  (∀ v : State, v.directoryRebuild.dir.proofs = [] ∧ (v.flm.units ≠ 0 → v.directoryRebuild.dir.seqNext = v.flm.mark + 1) ∧ v.directoryRebuild.dir.points = [] ∧
    v.directoryRebuild.tier.moves = [] ∧ v.directoryRebuild.pfs.cache = [] ∧
    ∀ e ∈ v.recoveredSlots, e.2.state = .current ∧ e.2.held = false ∧ ((v.copyOf e.2.pset).isSome = true ∨ (e.2.pin = true ∧ e.2.poison = true)))

/-! ### 11: host ports, the CXL pool and the tenant page -/

/-- 11 R392 to R397, R404, R411, R426 to R428; 18 R623, R624, R626: a port that is down or up trains into the mode that the partner and
HPT_CTRL give, and takes HPT_CTRL and HPT_VIEW; one that was down comes up with MSI-X disabled; its functions have the identity of the mode; a lost port is DOWN
with no view, decoder, request or queue-set command left, is counted, and loses the fabric manager's route, while the other port's
link stays as it was; PERST_L holds a port down until it is released. -/
def Obligations.PortsTrainAndAreLost : Prop :=
  (∀ (s : State) (p speed width ldUp : Nat) (cxl mld : Bool),
    (p < 2 → (s.port p).perst = false → s.start ≠ .verify → linkOk speed width = true →
      ∃ u : State, exec (.linkUp p speed width cxl mld ldUp) s = .next u ∧ (u.port p).mode = s.trainMode p speed width cxl mld ∧
        (u.port p).mode ≠ .down ∧ (u.port p).speed = speed ∧ (u.port p).width = width ∧
        (u.port p).ctrl = s.cfgReg (pg (0x40 + p) + 0x100) ∧ (u.port p).view = s.cfgReg (pg (0x40 + p) + 0x104) ∧
        ((s.port p).mode = .down → (u.port p).views = [] ∧ (u.port p).hdm = [] ∧ (u.port p).waits = [] ∧ (u.fn p 0).msixOn = false) ∧
        ((s.port p).mode ≠ .down → (u.port p).views = (s.port p).views ∧ (u.port p).hdm = (s.port p).hdm ∧ u.que = s.que ∧ u.fns = s.fns ∧
          u.regs = s.regs) ∧
        (cxl = false → (u.port p).mode = .pcie) ∧ u.port (1 - p) = s.port (1 - p) ∧ u.dir = s.dir ∧ u.ten = s.ten ∧ u.cxl = s.cxl) ∧
    (2 ≤ p ∨ (s.port p).perst = true ∨ s.start = .verify ∨ linkOk speed width = false →
      exec (.linkUp p speed width cxl mld ldUp) s = .next s)) ∧
  (∀ (s : State) (p : Nat), p < 2 →
    ((s.port p).mode = .down → ∀ ld, s.fnId p ld = none) ∧ ((s.port p).mode = .pcie → s.fnId p 0 = some ⟨0x1F3C, 0x7A07, 0x058000⟩) ∧
    ((s.port p).mode = .sld ∨ (s.port p).mode = .mld → s.fnId p 0 = some ⟨0x1F3C, 0x7A07, 0x050210⟩) ∧
    ((s.port p).mode = .mld → ∀ ld, 0 < ld → ld < fld (s.port p).ctrl 8 4 → s.fnId p ld = some ⟨0x1F3C, 0x7A17, 0x050210⟩)) ∧
  (∀ (s : State) (p t : Nat), exec (.dlDown p) s = .next (s.losePort p) ∧ exec (.pcieRefclkLoss p t) s = .next ((s.at_ t).losePort p) ∧
    (2 ≤ p ∨ (s.port p).mode = .down → s.losePort p = s) ∧
    (p < 2 → (s.port p).mode ≠ .down →
      ((s.losePort p).port p).mode = .down ∧ ((s.losePort p).port p).views = [] ∧ ((s.losePort p).port p).hdm = [] ∧
      ((s.losePort p).port p).waits = [] ∧ ((s.losePort p).port (1 - p)).mode = (s.port (1 - p)).mode ∧
      ((s.losePort p).port (1 - p)).hdm = (s.port (1 - p)).hdm ∧ ((s.losePort p).port (1 - p)).views = (s.port (1 - p)).views ∧
      (∀ l ∈ (s.losePort p).que.live, ∀ q, l.src ≠ .queue p q) ∧ (s.losePort p).ten.tbl = s.ten.tbl ∧
      (∃ v : State, s.losePort p =
        ((if fld (v.reg (pg 0x6C + 0x104)) 0 2 = p + 1 then v.setFm 0 else v).count (0x40 + p) 0x1A0 0).rasRecord (0x40 + p) 0x0C 2 p 0))) ∧
  (∀ (s : State) (p : Nat), p < 2 →
    (∃ u : State, exec (.perstL p) s = .next u ∧ (u.port p).mode = .down ∧ (u.port p).perst = true ∧
      (∀ speed width cxl mld ldUp, exec (.linkUp p speed width cxl mld ldUp) u = .next u)) ∧
    (∃ u : State, exec (.perstLRelease p) s = .next u ∧ u.port p = { s.port p with perst := false } ∧ u.port (1 - p) = s.port (1 - p)))

/-- 11 R402, R404, R406, R407, R411, R413: a CXL.mem write of the extent's writer changes the 64 bytes of its line and nothing else of
memory; a write of any other LD, or to the view window, changes nothing and is dropped with its cause; a read returns the line's bytes
to an LD in READ_MASK, the mapped page set's bytes in the view window, and poison to any other and after an uncorrectable error;
without tokens, or behind a request that waits for them, a request waits, and a grant answers the oldest one. A legal decoder
commits, any other does not. -/
def Obligations.CxlRequestsAreAnswered : Prop :=
  (∀ (s : State) (p ld a : Nat) (bs : List Byte), s.ldOn p ld = true → s.reached .memory = true → ld < 8 →
    (∀ w ∈ (s.port p).waits, w.ld ≠ ld) → (s.fillTokens p).tokensOk p ld = true →
    (∀ x e, lineOf a < 2 ^ 39 → s.extentAt (lineOf a) = some (x, e) → s.extRevoke x = none → s.extentDead x (lineOf a) = false →
      ((rfld e 0 0 16).testBit (8 * p + ld) = true → bit (e.getD 1 0) 4 = true → rfld e 1 0 4 = 8 * p + ld →
        ∃ (u : State) (load : Nat), exec (.cxlMemRequest p ld (.write a bs) false) s = .next u ∧
          u.cxl = s.cxl.wrBytes (lineOf a) (bs.take 64) ∧ u.out = .cxlCmp p ld load :: s.out ∧ u.page = s.page ∧ u.host0 = s.host0 ∧
          u.host1 = s.host1 ∧ u.dir = s.dir ∧ u.ten = s.ten ∧
          (bs.length = 64 → s.cxl.wf = true → u.cxl.wf = true ∧
            (∀ i, i < 64 → u.cxl.rd (lineOf a + i) = bs.getD i 0) ∧
            (∀ j, ¬ (lineOf a ≤ j ∧ j < lineOf a + 64) → u.cxl.rd j = s.cxl.rd j))) ∧
      ((rfld e 0 0 16).testBit (8 * p + ld) = true → ¬ (bit (e.getD 1 0) 4 = true ∧ rfld e 1 0 4 = 8 * p + ld) →
        ∃ (u : State) (load : Nat), exec (.cxlMemRequest p ld (.write a bs) false) s = .next u ∧ u.cxl = s.cxl ∧ u.page = s.page ∧
          u.out.head? = some (.cxlCmp p ld load) ∧ u.reg (pg (0x40 + p) + 0x148) = w32 (0x100 + ld)) ∧
      ((rfld e 0 0 16).testBit (8 * p + ld) = true →
        (∃ (u : State) (load : Nat), exec (.cxlMemRequest p ld (.read a) false) s = .next u ∧
          u.out = .cxlData p ld (s.cxl.rdBytes (lineOf a) 64) false load :: s.out ∧ u.cxl = s.cxl ∧ u.page = s.page) ∧
        (∃ (u : State) (load : Nat) (data : List Byte), exec (.cxlMemRequest p ld (.read a) true) s = .next u ∧
          u.out.head? = some (.cxlData p ld data true load))) ∧
      ((rfld e 0 0 16).testBit (8 * p + ld) = false →
        ∃ (u : State) (load : Nat) (data : List Byte), exec (.cxlMemRequest p ld (.read a) false) s = .next u ∧
          u.out.head? = some (.cxlData p ld data true load) ∧ u.cxl = s.cxl ∧ u.page = s.page ∧
          (∀ y, exec (.cxlMemRequest p ld (.read a) false) { s with cxl := y } = .next { u with cxl := y }))) ∧
    (2 ^ 39 ≤ lineOf a → lineOf a < 2 ^ 39 + fld (s.port p).view 0 9 * 2 ^ 30 →
      (∃ (u : State) (load : Nat), exec (.cxlMemRequest p ld (.write a bs) false) s = .next u ∧ u.cxl = s.cxl ∧ u.page = s.page ∧
        u.out.head? = some (.cxlCmp p ld load) ∧ u.reg (pg (0x40 + p) + 0x148) = w32 (0x200 + ld)) ∧
      (∀ o v, o = lineOf a - 2 ^ 39 → (s.port p).views.find? (fun v => decide (v.ld = ld ∧ v.granule ≤ o / 65536 ∧ o / 65536 < v.granule + v.count)) = some v →
        s.psetPoison v.pset = false → ∃ (u : State) (load : Nat), exec (.cxlMemRequest p ld (.read a) false) s = .next u ∧ u.page = s.page ∧ u.cxl = s.cxl ∧
          u.out = .cxlData p ld ((List.range 64).map (fun i => if o - v.granule * 65536 + i < v.bytes then
            s.page.rd (pageAddr v.pset v.page (o - v.granule * 65536 + i)) else 0)) false load :: s.out))) ∧
  (∀ (s : State) (p ld : Nat) (req : CxlReq) (ue : Bool),
    (s.ldOn p ld = false ∨ s.reached .memory = false → exec (.cxlMemRequest p ld req ue) s = .next s) ∧
    (s.ldOn p ld = true → s.reached .memory = true → (s.fillTokens p).tokensOk p ld = false ∨ (∃ w ∈ (s.port p).waits, w.ld = ld) →
      ∃ u : State, exec (.cxlMemRequest p ld req ue) s = .next u ∧
        (u.port p).waits = (s.port p).waits ++ [{ ld := ld, req := req, ue := ue, view := s.viewRead p ld req }] ∧ u.out = s.out ∧ u.cxl = s.cxl)) ∧
  (∀ (s : State) (p ld t : Nat), p < 2 → ((s.port p).waits.find? (fun x => decide (x.ld = ld)) = none →
      exec (.cxlTokenGrant p ld t) s = .next ((s.at_ t).fillTokens p)) ∧
    (∀ w, (s.port p).waits.find? (fun x => decide (x.ld = ld)) = some w →
      (((s.at_ t).fillTokens p).tokensOk p ld = false → exec (.cxlTokenGrant p ld t) s = .next ((s.at_ t).fillTokens p)) ∧
      (((s.at_ t).fillTokens p).tokensOk p ld = true → ∃ u v : State, exec (.cxlTokenGrant p ld t) s = .next (u.cxlOld p ld) ∧
        u = v.cxlAnswer p ld w.req w.view w.ue (v.reqOld p ld w.req) ∧ (v.port p).waits = (s.port p).waits.erase w))) ∧
  (∀ (s : State) (p ld dec base size ways gran : Nat), s.ldOn p ld = true → dec < 4 →
    (ways ∈ [1, 2, 4, 8] → gran ∈ [256, 512, 1024, 2048, 4096, 8192, 16384] →
      ∃ u : State, exec (.hdmCommit p ld dec base size ways gran) s = .next u ∧
        sget (u.port p).hdm Hdm.none (4 * ld + dec) = { committed := true, base := base, size := size, ways := ways, gran := gran }) ∧
    (ways ∉ [1, 2, 4, 8] ∨ gran ∉ [256, 512, 1024, 2048, 4096, 8192, 16384] →
      exec (.hdmCommit p ld dec base size ways gran) s = .next s))

/-- 11 R400, R403, R405: on a logical device in a CXL mode the mailbox answers each command that it supports, and any other with
return code 3; elsewhere it answers nothing. A CDAT table's bytes sum to 0. (The layouts are those of CXL 2.0, log entry
11.) -/
def Obligations.MailboxAndCdatAnswer : Prop :=
  (∀ (s : State) (p ld : Nat), s.ldOn p ld = false → ∀ c, (c = .identifyMemoryDevice p ld ∨ c = .getHealthInfo p ld ∨
      c = .getSupportedLogs p ld ∨ (∃ u o n, c = .getLog p ld u o n) ∨ (∃ g, c = .getEventRecords p ld g) ∨
      (∃ g hs, c = .clearEventRecords p ld g hs) ∨ (∃ op, c = .mailboxUnsupported p ld op)) → exec c s = .next s) ∧
  (∀ (s : State) (p ld : Nat), s.ldOn p ld = true →
    (∃ (u : State) (b : List Byte), exec (.identifyMemoryDevice p ld) s = .next u ∧ u.out = .mailbox p ld 0x4000 0 b :: s.out ∧
      (b.drop 16).take 32 = leBytes 8 (2048 + 4 * fld (s.port p).view 0 9) ++ leBytes 8 (2048 + 4 * fld (s.port p).view 0 9) ++
        leBytes 8 0 ++ leBytes 8 0 ∧ b.length = 67) ∧
    (∃ (u : State) (b : List Byte), exec (.getHealthInfo p ld) s = .next u ∧ u.out = .mailbox p ld 0x4200 0 b :: s.out ∧ b.length = 18 ∧
      u.regs = s.regs) ∧
    exec (.getSupportedLogs p ld) s = .next (s.send
      (.mailbox p ld 0x0400 0 (leBytes 2 1 ++ leBytes 6 0 ++ uuidBytes celUuid ++ leBytes 4 celBytes.length))) ∧
    (∀ o n, (o + n ≤ celBytes.length → exec (.getLog p ld celUuid o n) s =
        .next (s.send (.mailbox p ld 0x0401 0 ((celBytes.drop o).take n)))) ∧
      (celBytes.length < o + n → exec (.getLog p ld celUuid o n) s = .next (s.send (.mailbox p ld 0x0401 2 []))) ∧
      (∀ x, x ≠ celUuid → exec (.getLog p ld x o n) s = .next (s.send (.mailbox p ld 0x0401 2 [])))) ∧
    (∀ g, ∃ (u : State) (b : List Byte), exec (.getEventRecords p ld g) s = .next u ∧ u.out = .mailbox p ld 0x0100 0 b :: s.out ∧
      b.length = 32 + 128 * ((s.port p).events.filter (fun e => decide (e.log = g))).length ∧ u.port p = s.port p) ∧
    (∀ g hs, (∀ h ∈ hs, ∃ e ∈ (s.port p).events, e.log = g ∧ e.handle = h) → ∃ u : State, exec (.clearEventRecords p ld g hs) s = .next u ∧
      (∀ e, e ∈ (u.port p).events ↔ e ∈ (s.port p).events ∧ ¬ (e.log = g ∧ e.handle ∈ hs))) ∧
    (∀ g hs, (∃ h ∈ hs, ∀ e ∈ (s.port p).events, ¬ (e.log = g ∧ e.handle = h)) → exec (.clearEventRecords p ld g hs) s =
      .next (s.send (.mailbox p ld 0x0101 0x0E []))) ∧
    (∀ op, op ∉ mailboxOps → exec (.mailboxUnsupported p ld op) s = .next (s.send (.mailbox p ld op 3 [])))) ∧
  (∀ (s : State) (p ld : Nat), (s.doeOn p ld = false → exec (.cdat p ld) s = .next s) ∧
    (s.doeOn p ld = true → exec (.cdat p ld) s =
      .next (s.send (.doe p ld (cdatTable (cdatBody (s.ldBytes p) (fld (s.hptBw p ld) 0 16))))))) ∧
  (∀ body : List Byte, (((cdatTable body).map (fun b => b.toNat)).sum) % 256 = 0)

/-- 11 R407, R419 to R423, R429: from any source but the fabric manager's an access to the tenant page is counted and changes
nothing else; a read fills the data registers; a refused write reports the lowest code that it meets and changes no
record; an accepted one changes its record and no other, and no two valid tenant records ever share a TENANT_ID or a
P_KEY; an activation waits for its room, and its extent then reads as zero; TEN_FM takes 0, 1 or 2. -/
def Obligations.TenantPageRecords : Prop :=
  (∀ (s : State) (src : Src) (v : Word), s.pageOn src 0x6C = true → s.fmRoute src = false →
    exec (.tenOpRead src) s = .next (s.count 0x6C 0x190 1) ∧ exec (.tenOpWrite src) s = .next (s.count 0x6C 0x190 1) ∧
    exec (.tenFm src v) s = .next (s.count 0x6C 0x190 1)) ∧
  (∀ (s : State) (src : Src), s.pageOn src 0x6C = true → s.fmRoute src = true → s.ten.busy = none →
    ∀ t i, s.tenSel = (t, i) →
    (tableSize t ≤ i → exec (.tenOpRead src) s = .next (s.tenResult 1)) ∧
    (i < tableSize t → exec (.tenOpRead src) s = .next ((s.setTenData (s.record t i)).tenResult 0)) ∧
    (s.tenCodes t i s.tenData ≠ [] → ∃ u : State, exec (.tenOpWrite src) s = .next u ∧ u.ten.tbl = s.ten.tbl ∧
      u.ten.result ∈ s.tenCodes t i s.tenData ∧ (∀ c ∈ s.tenCodes t i s.tenData, u.ten.result ≤ c) ∧ u.cxl = s.cxl) ∧
    (∀ w : State, w = (if t = 3 ∧ rfld (s.record 3 i) 0 30 2 = 1 ∧ rfld s.tenData 0 30 2 = 0 then
        { s with cxl := s.cxl.clear (rfld (s.record 3 i) 2 0 11 * 2 ^ 28) (extBytes (s.record 3 i)) } else s) →
      s.tenCodes t i s.tenData = [] → (t = 3 → rfld (s.record 3 i) 0 30 2 = 0 → rfld s.tenData 0 30 2 ≠ 1) →
      exec (.tenOpWrite src) s = .next ((w.setRecord t i s.tenData).tenResult 0) ∧
      (∀ t' i', i' < 1024 → i < 1024 → (t', i') ≠ (t, i) → ((w.setRecord t i s.tenData).tenResult 0).record t' i' = s.record t' i')) ∧
    (s.tenCodes t i s.tenData = [] → t = 3 → rfld (s.record 3 i) 0 30 2 = 0 → rfld s.tenData 0 30 2 = 1 →
      exec (.tenOpWrite src) s = .next { s with ten := { s.ten with busy := some (i, s.tenData) } })) ∧
  (∀ (s u : State) (src : Src), Sparse.rising s.ten.tbl →
    (∀ i j, i < 1024 → j < 1024 → i ≠ j → rbit (s.record 0 i) 0 31 = true → rbit (s.record 0 j) 0 31 = true →
      rfld (s.record 0 i) 0 0 16 ≠ rfld (s.record 0 j) 0 0 16 ∧ rfld (s.record 0 i) 1 0 16 ≠ rfld (s.record 0 j) 1 0 16) →
    exec (.tenOpWrite src) s = .next u →
    (∀ i j, i < 1024 → j < 1024 → i ≠ j → rbit (u.record 0 i) 0 31 = true → rbit (u.record 0 j) 0 31 = true →
      rfld (u.record 0 i) 0 0 16 ≠ rfld (u.record 0 j) 0 0 16 ∧ rfld (u.record 0 i) 1 0 16 ≠ rfld (u.record 0 j) 1 0 16)) ∧
  (∀ (s : State) (src : Src), s.ten.busy ≠ none → s.pageOn src 0x6C = true → s.fmRoute src = true →
    exec (.tenOpRead src) s = .next s ∧ exec (.tenOpWrite src) s = .next s) ∧
  (∀ (s : State), (s.ten.busy = none → exec .extentActivate s = .next s) ∧
    (∀ i r, s.ten.busy = some (i, r) → exec .extentActivate s = .next (s.extentTake i r (extBytes r))) ∧
    (∀ i r, s.ten.busy = some (i, r) → i < 256 → extBytes r ≤ s.freeSpace 1 → rfld r 0 30 2 = 1 → s.cxl.wf = true →
      ∃ u : State, exec .extentActivate s = .next u ∧ u.ten.busy = none ∧ u.ten.result = 0 ∧ u.record 3 i = r ∧
        (∀ a, rfld r 2 0 11 * 2 ^ 28 ≤ a → a < rfld r 2 0 11 * 2 ^ 28 + extBytes r → u.cxl.rd a = 0) ∧
        (∀ a, ¬ (rfld r 2 0 11 * 2 ^ 28 ≤ a ∧ a < rfld r 2 0 11 * 2 ^ 28 + extBytes r) → u.cxl.rd a = s.cxl.rd a) ∧
        u.dir = s.dir ∧ u.tier = s.tier ∧ u.page = s.page)) ∧
  (∀ (s : State) (src : Src) (v : Word), s.pageOn src 0x6C = true → s.fmRoute src = true →
    (fld v 0 2 = 3 → exec (.tenFm src v) s = .next s) ∧ (fld v 0 2 ≠ 3 → exec (.tenFm src v) s = .next (s.setFm (fld v 0 2))))

/-- 11 R415 to R419; 00 R16: at its acceptance an EXTENT_REVOKE from another source settles BAD_COMMAND, of a FREE record NOTFOUND, during
a revocation of the record CONFLICT, and any other makes the record REVOKING in that cycle, with the requests that are outstanding;
its row ends a settled command, waits while something is outstanding, and otherwise ends the revocation, which takes the named LDs, or the
host extent; a command that MCTP carries is accepted for no tenant. -/
def Obligations.ExtentsAreRevoked : Prop :=
  (∀ (s : State) (l : Live), l.op = 0x14 → l.compat = false →
    (∀ e, s.revokeRefusal l = some e → s.revokeAt l = (s, { l with settled := some e })) ∧
    (s.revokeRefusal l = none → ∃ u : State, s.revokeAt l = (u, l) ∧ u.ten.revs = s.ten.revs ++ [s.revokeOf l] ∧ u.cxl = s.cxl ∧
      (l.flag 0 = false → rfld (u.record 3 (fld (l.ws.getD 4 0) 0 10)) 0 30 2 = 2) ∧
      (l.flag 0 = true → u.hextRevoking (fld (l.ws.getD 4 0) 0 10) = true)) ∧
    (l.fm = false → s.revokeRefusal l = some .badCommand) ∧
    (l.fm = true → s.reached .memory = false → s.revokeRefusal l = some .notReady) ∧
    (l.fm = true → s.reached .memory = true → l.reservedOk 3 [0x3FF, 0xFFFF] = false → s.revokeRefusal l = some .badCommand) ∧
    (l.fm = true → s.reached .memory = true → l.reservedOk 3 [0x3FF, 0xFFFF] = true →
      ∀ i kind e, i = fld (l.ws.getD 4 0) 0 10 → kind = b2n (l.flag 0) → e = s.record (3 + kind) i →
      (tableSize (3 + kind) ≤ i ∨ (kind = 0 ∧ rfld e 0 30 2 = 0) ∨ (kind = 1 ∧ rbit e 0 31 = false) →
        s.revokeRefusal l = some .notFound) ∧
      (i < tableSize (3 + kind) → (kind = 0 → rfld e 0 30 2 ≠ 0) → (kind = 1 → rbit e 0 31 = true) →
        s.revokeRefusal l = if s.ten.revs.any (fun r => decide (r.kind = kind ∧ r.index = i)) then some .conflict else none)) ∧
    (∀ p w, l.flag 0 = false → p < 2 → w ∈ (s.port p).waits → (rfld (s.record 3 (fld (l.ws.getD 4 0) 0 10)) 0 0 16).testBit (8 * p + w.ld) = true →
      (fld (l.ws.getD 5 0) 0 16).testBit (8 * p + w.ld) = true → (p, w.ld) ∈ (s.revokeOf l).cxl)) ∧
  (∀ (s : State) (id : Nat) (l : Live), s.live id = some l → l.op = 0x14 → l.phase = .accepted → l.compat = false →
    (s.ten.revs.find? (fun r => decide (r.id = id)) = none →
      exec (.extentRevoke id) s = .next (s.fail id (l.settled.getD .notFound))) ∧
    (∀ r, s.ten.revs.find? (fun r => decide (r.id = id)) = some r →
      (s.revokeDrained r = false → exec (.extentRevoke id) s = .next (s.setRunning id)) ∧
      (s.revokeDrained r = true → exec (.extentRevoke id) s = .next (s.revokeEnd r)))) ∧
  (∀ (s : State) (r : Revoke), (s.revokeEnd r).ten.revs = s.ten.revs.filter (fun x => decide (x.id ≠ r.id)) ∧
    (s.revokeEnd r).cxl = s.cxl ∧
    (r.kind = 0 → rfld ((s.revokeEnd r).record 3 r.index) 0 30 2 = 1 ∧
      (∀ g, g < 16 → (rfld ((s.revokeEnd r).record 3 r.index) 0 0 16).testBit g =
        ((rfld (s.record 3 r.index) 0 0 16).testBit g && !r.clearMask.testBit g))) ∧
    (r.kind = 1 → rbit ((s.revokeEnd r).record 4 r.index) 0 31 = false)) ∧
  (∀ (s : State) (id : Nat) (r : Revoke), s.ten.revs.find? (fun r => decide (r.id = id)) = some r →
    (s.revokeDrained r = false → exec (.revokeDrainEnd id) s = .next s) ∧
    (s.revokeDrained r = true → exec (.revokeDrainEnd id) s = .next (s.revokeEnd r))) ∧
  (∀ (s : State) (ws : List Word), (s.start = .recovery ∨ s.start = .verify ∨ s.sec.halted = true → exec (.mctpCommand ws) s = .next s) ∧
    (s.start ≠ .recovery → s.start ≠ .verify → s.sec.halted = false →
      (fld (ws.getD 0 0) 8 8 = 2 → exec (.mctpCommand ws) s = .next (s.acceptRun .mctp (2 ^ 16) false (ws.take 16) (wd64 ws 2) none)) ∧
      (fld (ws.getD 0 0) 8 8 ≠ 2 → exec (.mctpCommand ws) s =
        .next ((s.accept .mctp (2 ^ 16) false (ws.take 16) (wd64 ws 2)).fail s.que.nextId .badCommand))))

/-! ### 12: queues, fences and DMA -/

/-- 12 R434, R435: a doorbell inside the ring of an enabled queue set moves its index; CQ_HEAD frees the entries before it;
a push stands in for the ring slot when the queue is empty, and only moves the tail otherwise. A doorbell of a queue set
that is not ENABLED, an index past the ring, a write to any other offset of the doorbell page, and a push of any other length count in QUE_DB_IGNORED with its interrupt bit
and move no ring index. -/
def Obligations.DoorbellsMoveRingIndices : Prop :=
  (∀ (s : State) (p q o : Nat) (v : Word), q < 64 → o < 0x1000 → o % 4 = 0 → s.portDown p = false →
    (o = 0 → exec (.registerWrite (.port p) (0x100000 + 0x1000 * q + o) v) s = exec (.sqTail p q v) s) ∧
    (o = 4 → exec (.registerWrite (.port p) (0x100000 + 0x1000 * q + o) v) s = exec (.cqHead p q v) s) ∧
    (o ≠ 0 → o ≠ 4 → exec (.registerWrite (.port p) (0x100000 + 0x1000 * q + o) v) s = .next (s.count (0x48 + 4 * p) 0x194 1))) ∧
  (∀ (s : State) (p q : Nat) (c : Instr), p < 2 →
    ((∃ v : Word, c = .sqTail p q v ∧ ((s.qset p q).state ≠ .enabled ∨ 2 ^ (s.qset p q).sqLog ≤ v.toNat)) ∨
     (∃ v : Word, c = .cqHead p q v ∧ ((s.qset p q).state ≠ .enabled ∨ 2 ^ (s.qset p q).cqLog ≤ v.toNat)) ∨
     (∃ ws : List Word, c = .push p q ws ∧ ((s.qset p q).state ≠ .enabled ∨ ws.length ≠ 16))) →
    ∃ t, exec c s = .next t ∧ t = { s with regs := t.regs, fns := t.fns, out := t.out } ∧
      sameRegsBut s t [pg (0x48 + 4 * p) + 0x194, pg (0x48 + 4 * p) + 0x10] ∧
      t.reg (pg (0x48 + 4 * p) + 0x194) = satAdd (s.reg (pg (0x48 + 4 * p) + 0x194)) 1) ∧
  ∀ (s : State) (p q : Nat), (s.qset p q).state = .enabled →
    (∀ v : Word, v.toNat < 2 ^ (s.qset p q).sqLog →
      exec (.sqTail p q v) s = .next (s.setQset p q { s.qset p q with sqTail := v.toNat })) ∧
    (∀ v : Word, v.toNat < 2 ^ (s.qset p q).cqLog →
      ∃ x, exec (.cqHead p q v) s = .next (s.setQset p q x) ∧ x.cqHead = v.toNat ∧
        x.written = ((s.qset p q).cqTail + 2 ^ (s.qset p q).cqLog - v.toNat) % 2 ^ (s.qset p q).cqLog ∧
        (x.room ≠ 0 → x.full = false) ∧
        { x with cqHead := (s.qset p q).cqHead, written := (s.qset p q).written, full := (s.qset p q).full } = s.qset p q) ∧
    (∀ ws : List Word, ws.length = 16 → (s.qset p q).sqHead = (s.qset p q).sqTail →
      exec (.push p q ws) s = .next
        ((s.setQset p q { s.qset p q with sqTail := ((s.qset p q).sqTail + 1) % 2 ^ (s.qset p q).sqLog, pushed := some ws }).bump
          (pg (0x48 + 4 * p) + 0x184))) ∧
    (∀ ws : List Word, ws.length = 16 → (s.qset p q).sqHead ≠ (s.qset p q).sqTail →
      exec (.push p q ws) s = .next
        ((s.setQset p q { s.qset p q with sqTail := ((s.qset p q).sqTail + 1) % 2 ^ (s.qset p q).sqLog }).bump
          (pg (0x48 + 4 * p) + 0x188)))

/-- 12 R432, R436, R437, R442; 00 R5, R15: a fetch turn of a port that is up takes the next queue set in round-robin order that has work
and completion room, hands over up to BURST commands of it, and passes the turn on; with none it accepts nothing. A command at the
head with the expected PHASE is accepted under the next number with its tenant, one completion entry is reserved for it, and the
head moves past it; a command of the other format, of an unbound queue set, or of a version 1 queue set outside its opcodes ends
BAD_COMMAND, and one with the wrong PHASE writes BAD_COMMAND and is not accepted. A command outside the opcode table ends BAD_COMMAND. -/
def Obligations.CommandAccepted : Prop :=
  (∀ (s : State) (p : Nat), (s.portDown p = true → exec (.commandFetch p) s = .next s) ∧
    (s.portDown p = false → ∀ w, w = (List.range 64).foldl (fun s q => s.noteFull p q) s →
      ((∀ q < 64, s.hasWork p q = true → (s.qset p q).room ≠ 0) → w = s) ∧
      ((∀ q < 64, w.hasWork p q = false ∨ (w.qset p q).room = 0) → exec (.commandFetch p) s = .next w) ∧
      (∀ k q, k < 64 → q = (w.rr p + k) % 64 → w.hasWork p q = true → (w.qset p q).room ≠ 0 →
        (∀ j < k, w.hasWork p ((w.rr p + j) % 64) = false ∨ (w.qset p ((w.rr p + j) % 64)).room = 0) →
        exec (.commandFetch p) s = .next
          (((State.fetchTurn (w.cfgFld (pg (0x48 + 4 * p) + 0x10C) 0 4) w p q).setRr p ((q + 1) % 64)).noteFull p q)))) ∧
  (∀ (s : State) (p q n : Nat) (ws : List Word), s.hasWork p q = true → (s.qset p q).room ≠ 0 → s.headCommand p q = some ws →
    ∀ v, v = s.setQset p q (s.qset p q).fetched →
    (bit (ws.getD 0 0) 31 = (s.qset p q).sqPhase → State.fetchTurn (n + 1) s p q = State.fetchTurn n (v.acceptQueue p q ws) p q) ∧
    (bit (ws.getD 0 0) 31 ≠ (s.qset p q).sqPhase → State.fetchTurn (n + 1) s p q = State.fetchTurn n (v.phaseError p q ws) p q ∧
      (v.phaseError p q ws).que.live = s.que.live ∧ (v.phaseError p q ws).que.nextId = s.que.nextId ∧
      ((v.phaseError p q ws).qset p q).written = (s.qset p q).written + 1)) ∧
  (∀ (s : State) (p q : Nat) (ws : List Word), ∀ v w, v = s.setQset p q { s.qset p q with reserved := (s.qset p q).reserved + 1 } →
    w = (v.bump (pg (0x48 + 4 * p) + 0x180)).bump (qsAddr p q + 0x20) →
    (w.binding p q = none → s.acceptQueue p q ws =
      (w.accept (.queue p q) 0 (rbit (w.record 1 (64 * p + q)) 0 30) ws (wd64 ws 2)).fail s.que.nextId .badCommand) ∧
    (∀ tenant compat, w.binding p q = some (tenant, compat) →
      (fld (ws.getD 0 0) 8 8 ≠ (if compat then 1 else 2) ∨ (compat = true ∧ compatOp (fld (ws.getD 0 0) 0 8) = false) →
        s.acceptQueue p q ws = (w.accept (.queue p q) tenant compat ws (wd64 ws 2)).fail s.que.nextId .badCommand) ∧
      (fld (ws.getD 0 0) 8 8 = (if compat then 1 else 2) → (compat = true → compatOp (fld (ws.getD 0 0) 0 8) = true) →
        s.acceptQueue p q ws = w.acceptRun (.queue p q) tenant compat ws (wd64 ws 2) none))) ∧
  (∀ (s : State) (p : Nat) (ws : List Word) (tenant : Nat) (compat : Bool), p < 2 → s.portDown p = false → s.rr p < 64 →
    s.cfgFld (pg (0x48 + 4 * p) + 0x10C) 0 4 = 1 →
    (∀ q < 64, s.hasWork p q = true → (s.qset p q).room ≠ 0) →
    s.hasWork p (s.rr p) = true → s.headCommand p (s.rr p) = some ws → bit (ws.getD 0 0) 31 = (s.qset p (s.rr p)).sqPhase →
    s.binding p (s.rr p) = some (tenant, compat) → fld (ws.getD 0 0) 8 8 = (if compat then 1 else 2) →
    (compat = true → compatOp (fld (ws.getD 0 0) 0 8) = true) →
    ∃ (t : State) (l : Live), exec (.commandFetch p) s = .next t ∧
      t = { s with que := t.que, regs := t.regs, fns := t.fns, out := t.out, dir := t.dir, tier := t.tier } ∧
      t.que.live = s.que.live ++ [l] ∧ l.id = s.que.nextId ∧ l.src = .queue p (s.rr p) ∧ l.tenant = tenant ∧ l.compat = compat ∧
      l.ws = ws ∧ l.tag = wd64 ws 2 ∧ l.at_ = s.clk ∧ l.phase = .accepted ∧
      t.que.nextId = s.que.nextId + 1 ∧ t.rr p = (s.rr p + 1) % 64 ∧
      (t.qset p (s.rr p)).reserved = (s.qset p (s.rr p)).reserved + 1 ∧
      (t.qset p (s.rr p)).sqHead =
        (if (s.qset p (s.rr p)).sqHead + 1 = 2 ^ (s.qset p (s.rr p)).sqLog then 0 else (s.qset p (s.rr p)).sqHead + 1) ∧
      (t.qset p (s.rr p)).pushed = none) ∧
  (∀ (s : State) (id : Nat) (l : Live), s.live id = some l →
    (l.phase = .accepted → l.isRecord = false → l.op = 0 ∨ 0x14 < l.op → exec (.undefinedOpcode id) s = .next (s.fail id .badCommand)) ∧
    (l.phase ≠ .accepted ∨ l.isRecord = true ∨ (1 ≤ l.op ∧ l.op ≤ 0x14) → exec (.undefinedOpcode id) s = .next s))

/-- 12 R437, R439, R444; 05 R188: the oldest waiting completion of a queue set takes the entry at CQ_TAIL: 32 bytes, with the
queue set's PHASE in bit 31 of word 2 and its submission head in bits 27:16; CQ_TAIL moves on and PHASE flips at the
wrap; nothing else of host memory changes, and the command's implicit proof closes. Without room, or while the queue set is
DISABLED, it waits on. The coalescing timer sends the one message of the entries not yet signalled when TIMER has passed, and not before. -/
def Obligations.WaitingCompletionWritten : Prop :=
  (∀ (s : State) (p q : Nat) (w : Wait) (r : List Wait), s.memOk = true → (s.qset p q).waits = w :: r → (s.qset p q).room ≠ 0 →
    (s.qset p q).state ≠ .disabled → s.portDown p = false → w.ws.length = 8 →
    ∃ v : State, exec (.deferredCompletion p q) s = .next (v.closeViews w.id) ∧
      v = { s with que := { s.que with qs := v.que.qs }, fns := v.fns, out := v.out, host0 := v.host0, host1 := v.host1 } ∧
      sameHostBut s v p ((s.qset p q).cqBase + 32 * (s.qset p q).cqTail) 32 ∧
      (v.host p).rdBytes ((s.qset p q).cqBase + 32 * (s.qset p q).cqTail) 32 =
        bytesOf (w.ws.set 2 (w.ws.getD 2 0 ||| (if (s.qset p q).cqPhase then 0x80000000 else 0)
          ||| w32 ((s.qset p q).sqHead * 2 ^ 16))) ∧
      (v.qset p q).waits = r ∧ (v.qset p q).written = (s.qset p q).written + 1 ∧
      (if (s.qset p q).cqTail + 1 = 2 ^ (s.qset p q).cqLog
        then (v.qset p q).cqTail = 0 ∧ (v.qset p q).cqPhase = !(s.qset p q).cqPhase
        else (v.qset p q).cqTail = (s.qset p q).cqTail + 1 ∧ (v.qset p q).cqPhase = (s.qset p q).cqPhase)) ∧
  (∀ (s : State) (id : Nat), s.entryWaits id = false → ∀ p ∈ (s.closeViews id).dir.proofs, p.implicit ≠ some id) ∧
  (∀ (s : State) (p q : Nat), (s.qset p q).waits = [] ∨ (s.qset p q).room = 0 ∨ (s.qset p q).state = .disabled →
    exec (.deferredCompletion p q) s = .next s) ∧
  (∀ (s : State) (p q t a : Nat), (s.qset p q).unsigAt = some a →
    (bit (s.reg (qsAddr p q + 0x14)) 16 = true → a + fld (s.reg (qsAddr p q + 0x18)) 16 16 * 1000 ≤ max s.clk t →
      exec (.coalesceTimer p q t) s = .next
        (((s.at_ t).setQset p q { s.qset p q with unsig := 0, unsigAt := none }).msix p (fld (s.reg (qsAddr p q + 0x14)) 8 8))) ∧
    (bit (s.reg (qsAddr p q + 0x14)) 16 = false ∨ max s.clk t < a + fld (s.reg (qsAddr p q + 0x18)) 16 16 * 1000 →
      exec (.coalesceTimer p q t) s = .next (s.at_ t))) ∧
  (∀ (s : State) (p q t : Nat), (s.qset p q).unsigAt = none → exec (.coalesceTimer p q t) s = .next (s.at_ t))

/-- 12 R433: ENABLE of a DISABLED queue set whose rings lie inside the window latches bases and sizes with indices 0 and
both phases 1; with a ring outside it sets CFG_ERR only; a write of 0 to an ENABLED one makes it DRAINING, and it becomes
DISABLED once no accepted command owes a completion. INT_EN and VECTOR are stored by every such write, which changes nothing else
in the other states. -/
def Obligations.QueueSetLifecycle : Prop :=
  ∀ (s : State) (src : Src) (p q : Nat) (v : Word), ∀ w, w = s.setReg (qsAddr p q + 0x14) (v &&& 0x1FF01) →
    (p < 2 → q < 64 → s.pageOn src (0x48 + 4 * p) = true →
      (bit v 0 = true → (s.qset p q).state = .disabled → w.ringsOk p q = true →
        ∃ t, exec (.qsEnable src p q v) s = .next t ∧ t = { s with que := { s.que with qs := t.que.qs }, regs := t.regs } ∧
          sameRegsBut s t [qsAddr p q + 0x14] ∧
          (t.qset p q).state = .enabled ∧ (t.qset p q).sqHead = 0 ∧ (t.qset p q).sqTail = 0 ∧ (t.qset p q).cqHead = 0 ∧
          (t.qset p q).cqTail = 0 ∧ (t.qset p q).sqPhase = true ∧ (t.qset p q).cqPhase = true ∧
          (t.qset p q).sqBase = (t.reg (qsAddr p q)).toNat + 2 ^ 32 * (t.reg (qsAddr p q + 4)).toNat ∧
          (t.qset p q).cqBase = (t.reg (qsAddr p q + 8)).toNat + 2 ^ 32 * (t.reg (qsAddr p q + 0xC)).toNat ∧
          (t.qset p q).sqLog = fld (t.reg (qsAddr p q + 0x10)) 0 4 ∧ (t.qset p q).cqLog = fld (t.reg (qsAddr p q + 0x10)) 8 4) ∧
      (bit v 0 = true → (s.qset p q).state = .disabled → w.ringsOk p q = false →
        exec (.qsEnable src p q v) s = .next (w.setQset p q { s.qset p q with cfgErr := true })) ∧
      (bit v 0 = true → (s.qset p q).state ≠ .disabled → exec (.qsEnable src p q v) s = .next w) ∧
      (bit v 0 = false → (s.qset p q).state = .enabled →
        exec (.qsDisable src p q v) s = .next (w.setQset p q { s.qset p q with state := .draining, pushed := none })) ∧
      (bit v 0 = false → (s.qset p q).state ≠ .enabled → exec (.qsDisable src p q v) s = .next w)) ∧
    (2 ≤ p ∨ 64 ≤ q ∨ s.pageOn src (0x48 + 4 * p) = false →
      exec (.qsEnable src p q v) s = .next s ∧ exec (.qsDisable src p q v) s = .next s) ∧
    ((s.qset p q).state = .draining → (s.qset p q).reserved = 0 →
      exec (.qsDrainEnd p q) s = .next (s.setQset p q { s.qset p q with state := .disabled })) ∧
    ((s.qset p q).state ≠ .draining ∨ (s.qset p q).reserved ≠ 0 → exec (.qsDrainEnd p q) s = .next s)

/-- 12 R447 to R450: a FENCE takes its waited set and its deadline at its row; it ends OK, with the size of that set, once
every member is done, and not before; at its deadline it ends TIMEOUT and its waited set is left as it was. -/
def Obligations.FenceWaitsForItsSet : Prop :=
  ∀ (s : State) (id : Nat),
    (∀ l : Live, s.live id = some l → l.op = 0x10 → l.phase = .accepted → l.compat = false → s.reached .verify = true →
      l.reservedOk 0x3F [0xFFFFFFFF, 0xFFFFFFFF, 0xFFFFFFFF, 0xFFFFFFFF, 0xFFFFFFFF, 0xFFFFFFFF, 0xFFFFFF] = true →
      exec (.fence id) s = .next (State.setRunning
        { s with que := { s.que with fences := s.que.fences ++ [⟨id, s.fenceSet l, l.flag 1,
          if l.w 10 = 0 then none else some (l.at_ + l.w 10 * 1000)⟩] } } id) ∧
      (∀ m ∈ s.que.live, m.id < l.id →
        (∀ p q, m.src = .queue p q → ((l.flag 0 = true ∧ l.src = .queue p q) ∨
          bit (l.ws.getD (4 + (64 * p + q) / 32) 0) ((64 * p + q) % 32) = true) → Member.cmd m.id ∈ s.fenceSet l) ∧
        (∀ p iid idx, m.src = .record p iid idx → l.flag (2 + p) = true → Member.cmd m.id ∈ s.fenceSet l) ∧
        (∀ p tag w1, m.src = .trigger p tag w1 → l.flag 4 = true → Member.cmd m.id ∈ s.fenceSet l) ∧
        (∀ n r, m.src = .net n r → l.flag 5 = true → Member.cmd m.id ∈ s.fenceSet l))) ∧
    (∀ f : Fence, s.que.fences.find? (fun f => decide (f.id = id)) = some f →
      ((∀ m ∈ f.members, s.memberDone m = true) →
        exec (.fenceDone id) s = .next ((s.dropFence id).done id 0 [w32 (min f.members.length 0xFFFFFFFF), 0, 0, 0])) ∧
      ((∃ m ∈ f.members, s.memberDone m = false) → exec (.fenceDone id) s = .next s ∧
        ∀ t d, f.deadline = some d → d ≤ max s.clk t →
          exec (.fenceTimeout id t) s = .next (((s.at_ t).dropFence id).complete id .timeout
            (some (0, [w32 (min f.members.length 0xFFFFFFFF), 0, 0, 0])))))

/-- 12 R446, R442, R452; 00 R6 to R9; 03 R90, R94: STATS writes the issuing tenant's block, or that of the page set its key names, at
OUT_ADDR and ends OK with the byte count; KIND 2 and 3 and reserved bits end BAD_COMMAND, a key without a current entry NOTFOUND, a
write that no extent grants REVOKED; a version 1 LOOKUP of a key that no entry in view holds ends NOTFOUND, of one that an entry
holds OK or MULTI with its pages, and a version 1 FREE ends the named entry unless it is pinned, shared or not evictable; both end
NOTFOUND without a valid descriptor and BAD_COMMAND where the model's keys are not of one unit. -/
def Obligations.StatsAndVersionOne : Prop :=
  (∀ (s : State) (id : Nat) (l : Live), s.live id = some l → l.phase = .accepted → l.op = 0x13 → l.compat = false →
    (s.reached .psa = false → exec (.stats id) s = .next (s.fail id .notReady)) ∧
    (s.reached .psa = true → ∀ ok, ok = (fun (a : Word) => l.reservedOk 0x603 [0, 0, a, a, 0xFFFFFFFF, 0xFFFFFFFF]) →
      (2 ≤ fld l.flags 0 2 ∨ (fld l.flags 0 2 = 0 ∧ ok 0 = false) ∨ (fld l.flags 0 2 = 1 ∧ ok 0xFFFFFFFF = false) →
        exec (.stats id) s = .next (s.fail id .badCommand)) ∧
      (fld l.flags 0 2 = 0 → ok 0 = true → exec (.stats id) s = .next (s.statsOut l (s.tenantStats l.tenant))) ∧
      (fld l.flags 0 2 = 1 → ok 0xFFFFFFFF = true →
        (∀ e, s.namedKey l false = .error e → exec (.stats id) s = .next (s.fail id e)) ∧
        (∀ k form, s.namedKey l false = .ok (k, form) →
          (s.current k form = none → exec (.stats id) s = .next (s.fail id .notFound)) ∧
          (∀ i v, s.current k form = some (i, v) → exec (.stats id) s = .next (s.statsOut l (s.psetStats i v))))))) ∧
  (∀ (s : State) (l : Live) (ws : List Word), ∀ n, n = 4 * ws.length →
    (s.hextOk l.tenant l.port (l.w64 8) n true = false → s.statsOut l ws = (s.undefHost l.port (l.w64 8) 0).fail l.id .revoked) ∧
    (s.hextOk l.tenant l.port (l.w64 8) n true = true → s.portDown l.port = false → s.statsOut l ws =
      (s.setHost l.port ((s.host l.port).wrBytes (l.w64 8) (bytesOf ws))).done l.id 0 [w32 n, 0, 0, 0])) ∧
  (∀ (s : State) (t i : Nat) (v : Slot), (s.tenantStats t).length = 16 ∧ (s.psetStats i v).length = 8) ∧
  (∀ (s : State) (id : Nat) (l : Live), s.live id = some l → l.phase = .accepted → l.compat = true → ∀ op c,
    ((op = 0x01 ∧ c = Instr.compatLookup id) ∨ (op = 0x08 ∧ c = Instr.compatFree id)) → l.op = op →
    (s.reached .psa = false → exec c s = .next (s.fail id .notReady)) ∧
    (s.reached .psa = true → (compatReserved l [] = false → exec c s = .next (s.fail id .badCommand)) ∧
      (compatReserved l [] = true → (s.model (l.w 4) = none → exec c s = .next (s.fail id .notFound)) ∧
        (∀ m, s.model (l.w 4) = some m → m.keyForm ≠ 0 → exec c s = .next (s.fail id .badCommand))))) ∧
  (∀ (s : State) (id : Nat) (l : Live) (m : Model), s.live id = some l → l.phase = .accepted → s.reached .psa = true → l.compat = true →
    compatReserved l [] = true → s.model (l.w 4) = some m → m.keyForm = 0 →
    (l.op = 0x01 → ∀ t, (∀ e, s.viewFor id l.tenant 0 = (t, .error e) → exec (.compatLookup id) s = .next (t.fail id .notReady)) ∧
      (∀ snap, s.viewFor id l.tenant 0 = (t, .ok snap) → ∀ u,
        (t.lookProbeView (compatKey l) snap = (u, none) → exec (.compatLookup id) s = .next (u.fail id .notFound)) ∧
        (∀ i multi, t.lookProbeView (compatKey l) snap = (u, some (i, multi)) → exec (.compatLookup id) s =
          .next (u.complete id (if multi then .multi else .ok) (some (w32 (u.psetAt (u.slot i).ps).pages, [])))))) ∧
    (l.op = 0x08 → (s.current (compatKey l) 0 = none → exec (.compatFree id) s = .next (s.fail id .notFound)) ∧
      (∀ i v, s.current (compatKey l) 0 = some (i, v) →
        (v.pin = true ∨ v.shared = true ∨ s.evictable i = false → exec (.compatFree id) s = .next (s.fail id .conflict)) ∧
        (v.pin = false → v.shared = false → s.evictable i = true →
          exec (.compatFree id) s = .next ((s.schedule (.end_ i (.free id))).setRunning id)))))

/-- 12 R460, R461, R463, R466: RUN of a STOPPED channel runs it when its queue set is bound and otherwise names BINDING; KICK makes
an IDLE channel run; ABORT of a channel without a descriptor stops it and raises ABORT_DONE, and ends a descriptor in progress
ABORTED once what is issued has landed; RESUME after a halt leaves every channel STOPPED; each does nothing otherwise. A host read of
the engine that draws an error halts every channel, sets HALTED with the cause and the channel, and sets BUS_HALT; the channel whose
descriptor fetch drew it names FETCH. -/
def Obligations.DmaChannelControl : Prop :=
  (∀ (s : State) (src : Src) (c : Nat), c < 64 → s.pageOn src (0x50 + c / 8) = true →
    ((s.chan c).state = .stopped → (s.dmaTenant c).isSome = true →
      exec (.dmaRun src c) s = .next (s.setChan c { s.chan c with state := .running, cause := 0, links := 0 })) ∧
    ((s.chan c).state = .stopped → s.dmaTenant c = none →
      exec (.dmaRun src c) s = .next (s.setChan c { s.chan c with cause := 2 })) ∧
    ((s.chan c).state ≠ .stopped → exec (.dmaRun src c) s = .next s) ∧
    ((s.chan c).state = .idle → exec (.dmaKick src c) s = .next (s.setChan c { s.chan c with state := .running })) ∧
    ((s.chan c).state ≠ .idle → exec (.dmaKick src c) s = .next s) ∧
    ((s.chan c).desc = none → ((s.chan c).state = .halted → exec (.dmaAbort src c) s = .next s) ∧
      ((s.chan c).state ≠ .halted → exec (.dmaAbort src c) s = .next
        ((s.setChan c { s.chan c with state := .stopped, cause := 4 }).raise (0x50 + c / 8) 8))) ∧
    (∀ d, (s.chan c).desc = some d → ((s.chan c).state ≠ .running → exec (.dmaAbort src c) s = .next s) ∧
      ((s.chan c).state = .running → (d.flight = [] → exec (.dmaAbort src c) s = .next (s.dmaEnd c .aborted true 4)) ∧
        (d.flight ≠ [] → exec (.dmaAbort src c) s = .next (s.setChan c { s.chan c with desc := some { d with aborting := true } }))))) ∧
  (∀ (s : State) (src : Src) (c : Nat), 64 ≤ c ∨ s.pageOn src (0x50 + c / 8) = false →
    exec (.dmaRun src c) s = .next s ∧ exec (.dmaKick src c) s = .next s ∧ exec (.dmaAbort src c) s = .next s) ∧
  (∀ (s : State) (src : Src), (s.pageOn src 0x50 = false ∨ s.dma.halted = false → exec (.dmaResume src) s = .next s) ∧
    (s.pageOn src 0x50 = true → s.dma.halted = true → Sparse.rising s.dma.ch → ∃ t, exec (.dmaResume src) s = .next t ∧
      t = { s with dma := { s.dma with halted := false, ch := t.dma.ch } } ∧
      ∀ k, k < 64 → t.chan k = { s.chan k with state := .stopped })) ∧
  (∀ (s : State) (c cause : Nat) (onFetch : Bool), ∀ reading,
    reading = ((onFetch = true ∧ (s.chan c).desc = none ∧ (s.chan c).state = .running) ∨
      (onFetch = false ∧ ∃ d, (s.chan c).desc = some d ∧ dmaType d.ws = 0 ∧ d.flight ≠ [])) →
    (reading → 1 ≤ cause → cause ≤ 4 → s.dma.halted = false →
      ∃ t, exec (.dmaBusError c cause onFetch) s = .next t ∧ t.dma.halted = true ∧ t.dma.cause = cause ∧ t.dma.errCh = c ∧
        (∀ k, k < 64 → (t.chan k).state = .halted) ∧ bit (t.reg (pg 0x50 + 0x10)) 9 = true ∧
        (onFetch = true → c < 64 → (t.chan c).cause = 1)) ∧
    (¬ reading ∨ cause = 0 ∨ 4 < cause ∨ s.dma.halted = true → exec (.dmaBusError c cause onFetch) s = .next s))

/-- 12 R455 to R460: a running channel that finds OWN = 0 becomes IDLE there; a data descriptor that fails its checks is written back
with the status and its whole length left; one that passes them is taken up with its count at LEN; a 65th LINK in a row stops the
channel with LINK_LOOP; a burst takes its bytes off the count when it is issued, up to BURST and to the next 64-byte
boundary, unless a seal, a revocation or poison stops the descriptor; the oldest burst moves its bytes, and the last one to land ends
the descriptor OK. -/
def Obligations.DmaDescriptorRuns : Prop :=
  (∀ (s : State) (c : Nat), (s.chan c).state ≠ .running ∨ (s.chan c).desc.isSome = true ∨ s.dma.halted = true →
    exec (.descriptorFetch c) s = .next s) ∧
  (∀ (s : State) (c : Nat), (s.chan c).state = .running → (s.chan c).desc = none → s.dma.halted = false → s.dmaTenant c = none →
    exec (.descriptorFetch c) s = .next (s.setChan c { s.chan c with state := .stopped, cause := 2 })) ∧
  (∀ (s : State) (c tenant : Nat), (s.chan c).state = .running → s.dma.halted = false → s.dmaTenant c = some tenant → (s.chan c).desc = none →
    (s.hostReadBad (s.dmaPort c) (s.chan c).next 32 = true →
      exec (.descriptorFetch c) s = .next (s.dmaHalt c (if s.portDown (s.dmaPort c) then 4 else 1) true)) ∧
    (s.hostReadBad (s.dmaPort c) (s.chan c).next 32 = false →
      ∀ ws, wordsOf ((s.host (s.dmaPort c)).rdBytes (s.chan c).next 32) = ws →
      (dmaBit ws 31 = false → exec (.descriptorFetch c) s = .next (s.setChan c { s.chan c with state := .idle })) ∧
      (dmaBit ws 31 = true → dmaType ws ≠ 2 → ∀ v, v = s.setChan c { s.chan c with
          next := (s.chan c).next + 32, fetched := (s.chan c).fetched + 1, links := 0, residue := dmaLen ws } →
        (∀ st, v.dmaCheck c tenant ws = some st → exec (.descriptorFetch c) s = .next (v.dmaReport c (s.chan c).next ws st (dmaLen ws))) ∧
        (v.dmaCheck c tenant ws = none → ∃ t, exec (.descriptorFetch c) s = .next t ∧
          t = { s with dma := { s.dma with ch := t.dma.ch }, dir := t.dir, tier := t.tier } ∧
          (dmaType ws = 0 → t.dir = s.dir ∧ t.tier = s.tier) ∧
          t.chan c = { s.chan c with
            next := (s.chan c).next + 32, fetched := (s.chan c).fetched + 1, links := 0, residue := dmaLen ws,
            desc := some ⟨(s.chan c).fetched + 1, (s.chan c).next, ws, dmaLen ws, 0, [], false, false, s.que.nextId, tenant, false⟩ })) ∧
      (dmaBit ws 31 = true → dmaType ws = 2 → linkBad ws = true → exec (.descriptorFetch c) s =
        .next ((s.setChan c { s.chan c with next := (s.chan c).next + 32 }).dmaReport c (s.chan c).next ws .badCommand 0)) ∧
      (dmaBit ws 31 = true → dmaType ws = 2 → linkBad ws = false → (s.chan c).links = 64 → ∃ t, exec (.descriptorFetch c) s = .next t ∧
        (t.chan c).state = .stopped ∧ (t.chan c).cause = 3 ∧ (t.chan c).next = (s.chan c).next + 32 ∧ (t.chan c).last = Status.linkLoop.code))) ∧
  (∀ (s : State) (c : Nat) (d : Desc), (s.chan c).desc = some d →
    ((s.chan c).state ≠ .running ∨ d.aborting = true ∨ d.count = 0 → exec (.burstIssue c) s = .next s) ∧
    ((s.chan c).state = .running → d.aborting = false → d.count ≠ 0 →
      (∀ st, s.burstStop c d = some st → exec (.burstIssue c) s = .next (if d.flight = [] then s.dmaEnd c st false 0 else s)) ∧
      (∀ n, s.burstStop c d = none → dmaType d.ws = 0 ∨ s.pageReady (psIx (dmaPset d.ws)) (dmaPg d.ws) = true →
        n = min d.count (s.cfgFld (pg 0x50 + 0x108) 0 13 - (wd64 d.ws 2 + (dmaLen d.ws - d.count)) % 64) →
        exec (.burstIssue c) s = .next (s.setChan c { s.chan c with
          residue := d.count - n, desc := some { d with count := d.count - n, flight := d.flight ++ [n] } })) ∧
      (s.burstStop c d = none → dmaType d.ws = 1 → s.pageReady (psIx (dmaPset d.ws)) (dmaPg d.ws) = false →
        exec (.burstIssue c) s = .next (s.needPages (psIx (dmaPset d.ws)) [dmaPg d.ws] false false)))) ∧
  (∀ (s : State) (c : Nat) (d : Desc) (n : Nat) (r : List Nat), (s.chan c).desc = some d → d.flight = n :: r → s.portDown (s.dmaPort c) = false → d.lost = false →
    (dmaType d.ws = 0 → s.hostReadBad (s.dmaPort c) (wd64 d.ws 2 + (if dmaBit d.ws 23 then 0 else d.landed)) n = true →
      exec (.burstComplete c) s = .next (s.dmaHalt c 1 false)) ∧
    (dmaType d.ws = 0 → s.hostReadBad (s.dmaPort c) (wd64 d.ws 2 + (if dmaBit d.ws 23 then 0 else d.landed)) n = false → s.dmaShut d = true →
      exec (.burstComplete c) s = .next ((s.setChan c { s.chan c with desc := some { d with flight := [] } }).dmaEnd c .conflict d.aborting 4)) ∧
    ((dmaType d.ws = 0 → s.hostReadBad (s.dmaPort c) (wd64 d.ws 2 + (if dmaBit d.ws 23 then 0 else d.landed)) n = false) →
      s.dmaShut d = false → ∀ x v, x = { d with landed := d.landed + n, flight := r } →
      v = ((s.dmaMove c d n).setChan c { s.chan c with desc := some x }).bump64 (pg 0x50 + 0x180) n →
      exec (.burstComplete c) s = .next ((v.dmaHalf c x).dmaLanded c) ∧
      (dmaBit d.ws 26 = false → r = [] → d.count = 0 → exec (.burstComplete c) s = .next (v.dmaEnd c .ok d.aborting 4)) ∧
      (dmaBit d.ws 26 = false → r ≠ [] ∨ (d.count ≠ 0 ∧ d.aborting = false) → exec (.burstComplete c) s = .next v))) ∧
  (∀ (s : State) (c : Nat), (s.chan c).desc = none → exec (.burstIssue c) s = .next s ∧ exec (.burstComplete c) s = .next s)

/-! ### 13: network ports and transport -/

/-- 13 R469, R470, R472, R478, R480: a port that exists, is enabled, and has neither failed nor lost its die comes up; a port that
goes down discards what is queued on it; a failed loopback test fails the port for good; a host reads and writes a
context through the window, a write is refused with RESULT 3 unless the context is in RESET, its words are legal and its
P_KEY is a tenant's, and a context that is written starts READY with an empty window of INIT packets; an ARP request or a
solicitation for an address of the KX7 is answered in class 7, any other is not. -/
def Obligations.NetworkPortsAndContexts : Prop :=
  (∀ (s : State) (n t : Nat), (s.netPort n).up = false → (s.netPort n).failed = false → (s.netPort n).lost = false →
    (n < 2 * s.fusedDies → s.reached .psa = true → bit (s.cfgReg (pg (0x60 + n) + 0x100)) 31 = true →
      ∃ u : State, exec (.netPortUp n t) s = .next u ∧ (u.netPort n).up = true ∧ (∀ m, m ≠ n → u.netPort m = s.netPort m) ∧
        u.page = s.page ∧ u.net.ctx = s.net.ctx ∧ u.net.conn = s.net.conn) ∧
    (2 * s.fusedDies ≤ n ∨ s.reached .psa = false ∨ bit (s.cfgReg (pg (0x60 + n) + 0x100)) 31 = false →
      exec (.netPortUp n t) s = .next (s.at_ t)) ∧
    (2 * s.fusedDies ≤ n ∨ s.reached .psa = false ∨ (s.at_ t).testDue n = false → ∀ ok, exec (.loopbackTest n t ok) s = .next (s.at_ t)) ∧
    (n < 2 * s.fusedDies → s.reached .psa = true → (s.at_ t).testDue n = true →
      (∃ u : State, exec (.loopbackTest n t false) s = .next u ∧ (u.netPort n).failed = true ∧
        (∀ k, exec (.netPortUp n k) u = .next (u.at_ k))) ∧
      (∃ u : State, exec (.loopbackTest n t true) s = .next u ∧ (u.netPort n).failed = false ∧ (u.netPort n).up = false ∧ u.out = s.out))) ∧
  (∀ (s : State) (n : Nat), ((s.netPort n).up = false → exec (.netPortDown n) s = .next s) ∧
    ((s.netPort n).up = true → exec (.netPortDown n) s = .next (s.netDown n) ∧
      (Sparse.rising s.net.port → Sparse.rising s.net.gate →
        ((s.netDown n).netPort n).up = false ∧ ((s.netDown n).gate n).queue = []))) ∧
  (∀ (s : State) (src : Src), ∀ c, (c = .ctxRead src ∨ c = .ctxWrite src ∨ c = .ctxForceError src ∨ c = .ctxForceReset src) →
    (s.pageOn src 0x64 = false → exec c s = .next s) ∧
    (s.pageOn src 0x64 = true → s.qpnOk s.ctxSel = false ∨ s.bringCtx s.ctxSel = none → exec c s = .next (s.ctxDone 3)) ∧
    (∀ q, q = s.ctxSel → s.spillOn = false → s.bringCtx q = some s) ∧
    (s.pageOn src 0x64 = true → ∀ q v, q = s.ctxSel → s.qpnOk q = true → s.bringCtx q = some v →
      (c = .ctxRead src → ∃ u : State, exec c s = .next u ∧ u = { v with regs := u.regs, net := { v.net with ctxResult := 0 } } ∧
        (v.regs.rising → ∀ i, i < 64 → u.reg (pg 0x64 + 0x400 + 4 * i) = (ctxWords (v.ctx q) (v.conn q)).getD i 0)) ∧
      (c = .ctxWrite src → ((v.ctx q).state ≠ .reset ∨ ctxWindowBad v.ctxWindow = true ∨
        v.tenantOfPKey (fld (v.ctxWindow.getD 1 0) 16 16) = none) → exec c s = .next (v.ctxDone 3)) ∧
      (c = .ctxWrite src → (v.ctx q).state = .reset → ctxWindowBad v.ctxWindow = false →
        ∀ t, v.tenantOfPKey (fld (v.ctxWindow.getD 1 0) 16 16) = some t → ∃ u : State, exec c s = .next u ∧
          (u.ctx q).state = .ready ∧ (u.ctx q).tenant = t ∧ (u.ctx q).ws = v.ctxWindow ∧ (u.ctx q).una = (u.ctx q).sqPsn ∧
          (u.ctx q).sqPsn = fld (v.ctxWindow.getD 12 0) 0 24 ∧ (u.ctx q).window = 256 * fld (s.xptReg 0x108) 24 8 ∧
          u.net.ctxResult = 0 ∧ (∀ r, r - 0x100000 ≠ q - 0x100000 → u.ctx r = v.ctx r)) ∧
      (c = .ctxForceError src → exec c s = .next ((v.connError q .timeout).ctxDone 0)) ∧
      (c = .ctxForceReset src → exec c s = .next
        ((((v.setCtx q Ctx.none).endWork q .timeout).setConn q Conn.none).ctxDone 0)))) ∧
  (∀ (s : State) (n : Nat) (a b : Word) (v6 : List Word),
    (n < 2 * s.fusedDies → b ≠ 0 → (∃ p, p < 2 * s.fusedDies ∧ s.reg (pg (0x60 + p) + 0x110) = b) → ∃ k, exec (.arpRequest n a b) s = .next (s.enqFrame n 7 k (.arp b))) ∧
    (2 * s.fusedDies ≤ n ∨ b = 0 ∨ (∀ p, p < 2 * s.fusedDies → s.reg (pg (0x60 + p) + 0x110) ≠ b) → exec (.arpRequest n a b) s = .next s) ∧
    (n < 2 * s.fusedDies → (∃ w ∈ v6, w ≠ 0) → (∃ p, p < 2 * s.fusedDies ∧ s.ipv6 p = v6) →
      ∃ k, exec (.neighbourSolicitation n v6) s = .next (s.enqFrame n 7 k (.advert v6))) ∧
    (2 * s.fusedDies ≤ n ∨ (∀ w ∈ v6, w = 0) ∨ (∀ p, p < 2 * s.fusedDies → s.ipv6 p ≠ v6) → exec (.neighbourSolicitation n v6) s = .next s))

/-- 13 R471, R474, R477, R482, R483, R487: a frame on a port that is not up is not seen; one with a bad FCS, length or address is
counted and dropped; a transport packet reaches its context, which drops it unless it is live and its P_KEY matches; a
duplicate, an out-of-window packet and a packet ahead on an unsprayed connection place nothing; EPSN advances over exactly
the landed packets; W never passes 256 packets. A packet whose context is not on chip waits for its fetch. -/
def Obligations.PacketsAreReceivedInOrder : Prop :=
  (∀ (s : State) (n : Nat) (f : Frame), (s.netPort n).up = false → exec (.packetReceive n f) s = .next s) ∧
  (∀ (s : State) (n : Nat) (f : Frame), (s.netPort n).up = true → ∀ v, v = s.bump64 (pg (0x60 + n) + 0x180) 1 →
    ((f.fcsOk = false ∨ 9216 < f.len ∨ f.addrOk = false) → exec (.packetReceive n f) s = .next (v.bump (pg (0x60 + n) + 0x198))) ∧
    (f.fcsOk = true → f.len ≤ 9216 → f.addrOk = true → bit (v.gateReg n 0x100) 2 = false →
      (f.roce = false ∨ f.icrcOk = false ∨ v.xptOn = false → exec (.packetReceive n f) s = .next v) ∧
      (f.roce = true → f.icrcOk = true → v.xptOn = true →
        (v.qpnOk f.qpn = false → exec (.packetReceive n f) s = .next (v.bump (pg 0x64 + 0x1B8))) ∧
        (v.qpnOk f.qpn = true → v.ctxHere f.qpn = true → exec (.packetReceive n f) s = .next (v.inCtx f.qpn f)) ∧
        (v.qpnOk f.qpn = true → v.ctxHere f.qpn = false → v.portDown v.spillPort = false → v.net.miss.length < 512 →
          exec (.packetReceive n f) s = .next { v with net := { v.net with miss := v.net.miss ++ [(f.qpn, n, f)] } })))) ∧
  (∀ (s : State) (n : Nat) (f : Frame),
    (f.roce = true → f.op = 0x11 → f.nak = 0 → exec (.ackReceive n f) s = exec (.packetReceive n f) s) ∧
    (f.roce = true → f.op = 0x81 → exec (.cnpReceive n f) s = exec (.packetReceive n f) s) ∧
    (f.roce = true → f.op = 0x11 → f.nak ≠ 0 → exec (.nakReceive n f) s = exec (.packetReceive n f) s) ∧
    (f.op ≠ 0x11 → exec (.ackReceive n f) s = .next s ∧ exec (.nakReceive n f) s = .next s) ∧
    (f.op ≠ 0x81 → exec (.cnpReceive n f) s = .next s)) ∧
  (∀ (s : State) (q : Nat) (f : Frame), ((s.ctx q).state = .reset → s.inCtx q f = s.bump (pg 0x64 + 0x1B8)) ∧
    ((s.ctx q).state = .error → s.inCtx q f = s) ∧
    ((s.ctx q).live = true → (f.pkey % 2 ^ 15 ≠ (s.ctx q).fld 1 16 15 ∨ f.pkey / 2 ^ 15 % 2 = 0) → s.inCtx q f = s.bump (pg 0x64 + 0x1B8)) ∧
    (∀ d, d = psnSub f.psn (s.ctx q).epsn →
      (2 ^ 23 ≤ d → (s.inPacket q f).page = s.page ∧ (s.inPacket q f).net.rbuf = s.net.rbuf ∧ (s.inPacket q f).net.tags = s.net.tags) ∧
      ((s.ctx q).spray = true → 256 ≤ d → d < 2 ^ 23 → s.inPacket q f = s.bump (pg 0x64 + 0x1BC)) ∧
      ((s.ctx q).spray = false → 1 ≤ d → d < 2 ^ 23 → (s.inPacket q f).page = s.page ∧ (s.inPacket q f).net.rbuf = s.net.rbuf ∧
        ((s.conn q).naked = true → s.inPacket q f = s)))) ∧
  (∀ n e b k : Nat, k ≤ n → e < 2 ^ 24 → (∀ i, i < k → b.testBit i = true) → b.testBit k = false →
    slideEpsn n e b = (psnAdd e k, b / 2 ^ k)) ∧
  (∀ ai n w : Nat, 0 < w → w ≤ 65536 → w ≤ windowUps ai n w ∧ windowUps ai n w ≤ 65536) ∧
  (∀ (s : State) (q : Nat), (s.ctxHere q = true → exec (.contextFetch q) s = .next s) ∧
    (∀ u, s.ctxHere q = false → s.qpnOk q = true → (s.conn q).msgs ≠ [] → s.bringCtx q = some u →
      exec (.contextFetch q) s = .next ((s.net.miss.filter (fun x => decide (x.1 = q))).foldl (fun s x => s.inCtx q x.2.2)
        { u with net := { u.net with miss := u.net.miss.filter (fun x => decide (x.1 ≠ q)) } })))

/-- 13 R483, R488, R502, R503; 02 R67: no packet is sent beyond floor(W) or 256 in flight, on a connection that is not READY or RETRY, or
before an RNR wait has passed, and a suspended record begins no message; the packets of a message carry all of its bytes once, in order, and A on the last one
alone; a timer that expires moves to RETRY and resends from UNA_PSN with W = INIT, or, after RETRY_CNT retries, to ERROR;
an ACK is sent DELAY_US after the first packet that none covers. -/
def Obligations.SendingHoldsWindowAndTimers : Prop :=
  (∀ (s : State) (q : Nat), (min 256 ((s.ctx q).window / 256) ≤ psnSub (s.conn q).nxt (s.ctx q).una ∨ (s.ctx q).live = false ∨
      (s.conn q).rnrUntil.isSome = true ∨ s.qpnOk q = false) → exec (.packetSend q) s = .next s) ∧
  (∀ (s : State) (q : Nat), s.qpnOk q = true → s.ctxHere q = true → (s.ctx q).live = true → (s.conn q).rnrUntil = none →
    psnSub (s.conn q).nxt (s.ctx q).una < min 256 ((s.ctx q).window / 256) →
    ((s.conn q).nxt ≠ (s.ctx q).sqPsn → exec (.packetSend q) s = .next ((s.useCtx q).resend q)) ∧
    ((s.conn q).nxt = (s.ctx q).sqPsn →
      (∀ m f i, (s.conn q).msgAt (s.ctx q) (s.ctx q).sqPsn = some (m, f, i) →
        exec (.packetSend q) s = .next (if m.staged (s.ctx q) i then (s.useCtx q).sendNew q m f i else s.useCtx q)) ∧
      ((s.conn q).msgAt (s.ctx q) (s.ctx q).sqPsn = none →
        ((∀ m ∈ (s.conn q).msgs, m.first.isSome = true) → exec (.packetSend q) s = .next (s.useCtx q)) ∧
        (∀ m pre post, (s.conn q).msgs = pre ++ m :: post → (∀ x ∈ pre, x.first.isSome = true) → m.first = none →
          (4 ≤ ((s.conn q).msgs.filter (fun m => m.first.isSome)).length ∨ (s.useCtx q).mayPin q = false ∨ m.staged (s.ctx q) 0 = false ∨
              s.msgShut m = true → exec (.packetSend q) s = .next (s.useCtx q)) ∧
          (((s.conn q).msgs.filter (fun m => m.first.isSome)).length < 4 → (s.useCtx q).mayPin q = true → m.staged (s.ctx q) 0 = true →
            s.msgShut m = false → exec (.packetSend q) s = .next ((s.useCtx q).sendNew q m (s.ctx q).sqPsn 0)))))) ∧
  (∀ (c : Ctx) (m : Msg) (f : Nat), m.data.length = m.total →
    ((List.range (m.packets c.pmtu)).flatMap (fun k => (msgFrame c m f k).payload)) = m.data ∧
    (∀ k, k < m.packets c.pmtu → (msgFrame c m f k).psn = psnAdd f k ∧
      ((msgFrame c m f k).ackReq = true ↔ k + 1 = m.packets c.pmtu) ∧ (opLast (msgFrame c m f k).op = true ↔ k + 1 = m.packets c.pmtu) ∧
      (opFirst (msgFrame c m f k).op = true ↔ k = 0) ∧ (k + 1 ≠ m.packets c.pmtu → (msgFrame c m f k).imm = none))) ∧
  (∀ (s : State) (q t e : Nat), (s.ctx q).timer = some e → (s.ctx q).live = true →
    (max s.clk t < e → exec (.retryTimer q t) s = .next (s.at_ t)) ∧
    (e ≤ max s.clk t → (s.ctx q).retries < (s.ctx q).fld 0 9 3 → ∃ u : State, exec (.retryTimer q t) s = .next u ∧
      (u.ctx q).state = .retry ∧ (u.ctx q).retries = (s.ctx q).retries + 1 ∧ (u.ctx q).window = 256 * fld (s.xptReg 0x108) 24 8 ∧
      (u.ctx q).una = (s.ctx q).una ∧ (u.ctx q).sqPsn = (s.ctx q).sqPsn ∧
      ((s.conn q).msgs ≠ [] → (u.conn q).nxt = (s.ctx q).una ∧ (u.conn q).msgs = (s.conn q).msgs)) ∧
    (e ≤ max s.clk t → (s.ctx q).fld 0 9 3 ≤ (s.ctx q).retries → exec (.retryTimer q t) s =
      .next ((((s.at_ t).bump (pg 0x64 + 0x1AC)).count 0x64 0x1B0 1).connError q .timeout))) ∧
  (∀ (s : State) (q t : Nat), ((s.ctx q).timer = none ∨ (s.ctx q).live = false → exec (.retryTimer q t) s = .next (s.at_ t)) ∧
    ((s.conn q).rnrUntil = none → exec (.rnrRetry q t) s = .next (s.at_ t)) ∧
    ((s.conn q).uncovAt = none ∨ (s.ctx q).live = false → exec (.ackDelay q t) s = .next (s.at_ t))) ∧
  (∀ (s : State) (q t a : Nat), (s.conn q).rnrUntil = some a → (s.conn q).msgs ≠ [] →
    (a ≤ max s.clk t → ∃ u : State, exec (.rnrRetry q t) s = .next u ∧ u.conn q = { s.conn q with rnrUntil := none } ∧ u.ctx q = s.ctx q) ∧
    (max s.clk t < a → exec (.rnrRetry q t) s = .next (s.at_ t))) ∧
  (∀ (s : State) (q t a : Nat), (s.conn q).uncovAt = some a →
    (a + fld (s.xptReg 0x10C) 8 8 * 1000 ≤ max s.clk t → (s.ctx q).live = true → exec (.ackDelay q t) s = .next ((s.at_ t).sendAck q)) ∧
    (max s.clk t < a + fld (s.xptReg 0x10C) 8 8 * 1000 → exec (.ackDelay q t) s = .next (s.at_ t)))

/-- 13 R493, R494, R497 to R501: a complete network request is accepted for its connection's tenant, and one of another opcode or
form ends BAD_COMMAND; a legal trigger entry is armed and tested at once, another completes with BAD_COMMAND; an arrival
counts its tag, without a waiter the count stays, and a satisfied waiter takes its amount from it; an idle counter goes,
and a port disarms its own entries only. -/
def Obligations.RequestsAndTriggers : Prop :=
  (∀ (s : State) (q : Nat), s.net.reqs.find? (fun r => decide (r.qpn = q) && r.bytes.isSome && !r.decoded) = none →
    exec (.networkRequest q) s = .next s) ∧
  (∀ (s : State) (q : Nat) (r : NetReq), s.net.reqs.find? (fun r => decide (r.qpn = q) && r.bytes.isSome && !r.decoded) = some r →
    ∀ bs ws w, r.bytes = some bs → ws = wordsOf (bs.take 64) → w = ({ s with net := { s.net with
        reqs := updIf s.net.reqs (fun x => decide (x.rid = r.rid)) (fun x => { x with decoded := true }) } } : State) →
    ((64 ≤ bs.length ∧ bs.length ≤ 8256 ∧ netOpOk ws = true) →
      exec (.networkRequest q) s = .next (w.acceptRun (.net q r.rid) (s.ctx q).tenant false ws (wd64 ws 2) none)) ∧
    ((bs.length < 64 ∨ 8256 < bs.length ∨ netOpOk ws = false) →
      exec (.networkRequest q) s = .next ((w.accept (.net q r.rid) (s.ctx q).tenant false ws (wd64 ws 2)).fail s.que.nextId .badCommand))) ∧
  (∀ (s : State) (src : Src) (p : Nat) (v : Word), s.pageOn src 0x64 = true → p < 2 →
    exec (.xptTringTail src p v) s = .next (s.setReg (pg 0x64 + 0x130 + 0x20 * p + 0x10) (v &&& 0xFFF))) ∧
  (∀ (s : State) (src : Src) (p : Nat) (v : Word), s.pageOn src 0x64 = false ∨ 2 ≤ p → exec (.xptTringTail src p v) s = .next s) ∧
  (∀ (s : State) (p n h t base : Nat), p < 2 → s.tring p = (n, h, t) → 4 ≤ n → n ≤ 12 → s.portDown p = false →
    base = (s.reg (tringAt p)).toNat + 2 ^ 32 * (s.reg (tringAt p + 4)).toNat →
    (h = t ∨ 1024 ≤ s.net.armed.length → exec (.triggerFetch p) s = .next s) ∧
    (h ≠ t → s.net.armed.length < 1024 → s.hostRead p (base + 128 * h) 128 = none →
      exec (.triggerFetch p) s = .next (s.setReg (tringAt p + 0xC) (w32 ((h + 1) % 2 ^ n)))) ∧
    (∀ bs, h ≠ t → s.net.armed.length < 1024 → s.hostRead p (base + 128 * h) 128 = some bs → ∀ v,
      v = s.setReg (tringAt p + 0xC) (w32 ((h + 1) % 2 ^ n)) →
      (∀ tenant c, s.binding p (fld ((wordsOf bs).getD 1 0) 24 6) = some (tenant, c) → tringOk (wordsOf bs) = true →
        exec (.triggerFetch p) s = .next (State.tagTest { v with net := { v.net with
          armed := s.net.armed ++ [{ n := s.net.nextArm, port := p, tenant := tenant, ws := wordsOf bs }],
          nextArm := s.net.nextArm + 1 } } (wd (wordsOf bs) 0))) ∧
      (tringOk (wordsOf bs) = false ∨ s.binding p (fld ((wordsOf bs).getD 1 0) 24 6) = none →
        exec (.triggerFetch p) s = .next ((v.tringEnd p (wordsOf bs) .badCommand).raise 0x64 5)))) ∧
  (∀ (s : State) (p n h t : Nat), s.tring p = (n, h, t) → 2 ≤ p ∨ n < 4 ∨ 12 < n ∨ s.portDown p = true → exec (.triggerFetch p) s = .next s) ∧
  (∀ (s : State) (tag : Nat), s.waiters tag = [] → s.net.tags.length < 4096 →
    (s.arrival tag).tagCount tag = s.tagCount tag + 1 ∧ (s.arrival tag).net.armed = s.net.armed) ∧
  (∀ (s : State) (tag n : Nat), n ≤ s.tagCount tag → (s.net.tags.map (fun t => t.tag)).Nodup →
    (s.tagTake tag n).tagCount tag = s.tagCount tag - n ∧ (∀ x, x ≠ tag → 0 < s.tagCount x → (s.tagTake tag n).tagCount x = s.tagCount x)) ∧
  (∀ (s : State) (tag t : Nat) (x : TagCnt), s.net.tags.find? (fun x => decide (x.tag = tag)) = some x →
    (x.at_ + fld (s.xptReg 0x118) 0 16 * 1000000 ≤ max s.clk t → ∃ u : State, exec (.counterIdle tag t) s = .next u ∧ u.tagCount tag = 0 ∧
      u.net.armed = s.net.armed) ∧
    (max s.clk t < x.at_ + fld (s.xptReg 0x118) 0 16 * 1000000 → exec (.counterIdle tag t) s = .next (s.at_ t))) ∧
  (∀ (s : State) (tag t : Nat), s.net.tags.find? (fun x => decide (x.tag = tag)) = none → exec (.counterIdle tag t) s = .next (s.at_ t)) ∧
  (∀ (s : State) (tag : Word), exec (.xptTrigDisarm .mctp tag) s = .next s ∧
    (∀ p, s.pageOn (.port p) 0x64 = true → exec (.xptTrigDisarm (.port p) tag) s = .next (s.trigDisarm p tag) ∧
      (∀ a, a ∈ (s.trigDisarm p tag).net.armed ↔ a ∈ s.net.armed ∧ ¬ (a.port = p ∧ wd a.ws 0 = tag.toNat))))

/-! ### 14: egress gates -/

/-- 14 R508, R510, R513, R515, R517 to R520, R524, R525: class 7 is open at every time and alone in the guard window; a port that is
down or busy selects nothing; of the eligible classes the highest transmits its head frame, the classes' own orders kept,
and a class is eligible only with its gate open, a frame that fits and a credit of at least 0; credit never passes BURST
and stands while the gate is closed; a takeover falls on a cycle start at or after the boundary, and then the active
bank's list operates. -/
def Obligations.GatesSelectAndTakeOver : Prop :=
  (∀ (g : GateOp) (t : Int), (g.at_ t).1.testBit 7 = true ∧ (g.pos t < g.guard_ * 10 → (g.at_ t).1 = 0x80 ∧ (g.at_ t).2.2 = true) ∧
    (g.guard_ * 10 ≤ g.pos t → ∀ c, c < 7 → (g.at_ t).1.testBit c = (entryAt g.list 0 0 (g.pos t)).2.testBit c)) ∧
  (∀ (s : State) (n t : Nat), (n < 2 * s.fusedDies → exec (.gateEvent n t) s = .next ((s.at_ t).gateRefresh n) ∧
      (((s.at_ t).gateRefresh n).netPort n = s.netPort n) ∧ ((s.at_ t).gateRefresh n).page = s.page) ∧
    (2 * s.fusedDies ≤ n → exec (.gateEvent n t) s = .next (s.at_ t))) ∧
  (∀ (s : State) (n t a : Nat), ((s.netPort n).up = false → exec (.frameSelect n t) s = .next (s.at_ t)) ∧
    ((s.at_ t).linkFree n = none → exec (.frameSelect n t) s = .next (s.at_ t)) ∧
    ((s.at_ t).linkFree n = some a → (s.netPort n).up = true → ∀ w x v q k, w = (s.at_ t).gateRefresh n →
      stripHeads (w.oversize n) [] (w.gate n).queue = (q, k) → x = w.setGate n { w.gate n with queue := q } →
      v = State.countWaits (if k = 0 then x else (x.bump (pg (0x68 + n) + 0x184) k).raise (0x68 + n) 2) n a →
      ((∀ c < 8, v.eligible n a c = false) → exec (.frameSelect n t) s = .next v) ∧
      (∀ c f, c < 8 → v.eligible n a c = true → (∀ d, c < d → d < 8 → v.eligible n a d = false) → (v.gate n).head c = some f →
        exec (.frameSelect n t) s = .next (v.transmit n a f) ∧ (v.transmit n a f).out = .frame n f.wire f.wire.bytes :: v.out))) ∧
  (∀ (f : Frame), f.op ≠ 0x11 → f.pktCount ≠ 0 → f.pktCount < 2 ^ 24 → f.firstPsn < 2 ^ 24 → (frameBytes f).length = 20 + ((frameBytes f).drop 20).length ∧ ofLe (((frameBytes f).drop 12).take 8).reverse / 2 ^ 40 = f.firstPsn ∧
      ofLe (((frameBytes f).drop 12).take 8).reverse / 2 ^ 8 % 2 ^ 24 = f.pktCount) ∧
  (∀ (s : State) (n a c : Nat), s.eligible n a c = true → (s.gate n).open_.testBit c = true ∧
    (bit (s.gateReg n (0x200 + 16 * c)) 31 = true → 0 ≤ (s.gate n).credit.getD c 0) ∧
    ∃ f, (s.gate n).head c = some f ∧ s.frameFits n a f = true) ∧
  (∀ (c d : Nat) (q : List EgFrame), (dropHead c q).filter (fun f => decide (f.cls = d)) =
    if d = c then (q.filter (fun f => decide (f.cls = c))).tail else q.filter (fun f => decide (f.cls = d))) ∧
  (∀ (s : State) (n c dt : Nat) (x : Int), s.creditAfter n c false dt x = x ∧
    (bit (s.gateReg n (0x200 + 16 * c)) 31 = true → s.creditAfter n c true dt x ≤ (fld (s.gateReg n (0x204 + 16 * c)) 0 24 * 640000 : Nat))) ∧
  (∀ (g : GateOp) (b : Int), 0 < g.cycle → b ≤ (takeoverAt g b).1 ∧ ((takeoverAt g b).1 - g.base) % ((g.cycle * 10 : Nat) : Int) = 0 ∧
    (g.base < b → (takeoverAt g b).1 < b + (g.cycle * 10 : Nat)) ∧ (takeoverAt g b).2 = decide (g.base < b)) ∧
  (∀ (s : State) (n t : Nat), ((s.gate n).pend = none → exec (.takeover n t) s = .next (s.at_ t)) ∧
    (∀ p, (s.gate n).pend = some p → ((s.at_ t).local_ < p → exec (.takeover n t) s = .next (s.at_ t)) ∧
      (p ≤ (s.at_ t).local_ → Sparse.rising s.net.gate → ∃ u : State, exec (.takeover n t) s = .next u ∧
        (u.gate n).op = s.gateOf n ∧ (u.gate n).pend = none ∧ (u.gate n).queue = (s.gate n).queue ∧
        (∀ e ∈ u.cfg.lag, e.1 ≠ 0x68 + n))))

/-! ### 15: boot, firmware and attestation -/

/-- 15 R535 to R537, R543 to R547, R550, R553: after a reset the first check that fails decides CAUSE and sends the device to
recovery; a failed self-test halts it for good; an image that passes runs, is measured, and gives an identity unless the
part is DECOMMISSIONED; in recovery only three pages answer, and the mailbox takes a load of a legal length, which runs
the image when its checks pass and leaves the device in recovery when they do not. -/
def Obligations.BootChecksTheImage : Prop :=
  (∀ (s : State) (img : List Byte) (n : Nat), (imgHeaderOk img n = false → s.imgCheck img n = .error 2) ∧
    (imgHeaderOk img n = true → (s.sec.fuse.slotOf img = none → s.imgCheck img n = .error 3) ∧
      (∀ k, s.sec.fuse.slotOf img = some k → s.sec.fuse.revoked.testBit k = false ∧ k < 4 ∧
        (∀ v, v = Config.slhVerify256s (imgKey img) (imgSlice img 0 (imgLen img)) (imgSlice img (imgLen img) 29792) →
          (v = false → s.imgCheck img n = .error 4) ∧
          (v = true → (imgFld img 3 8 8 < s.sec.fuse.svn → s.imgCheck img n = .error 5) ∧
            (s.sec.fuse.svn ≤ imgFld img 3 8 8 →
              s.imgCheck img n = if imgFld img 1 16 16 = 0x7A07 ∧ imgFld img 1 8 8 ≤ Config.siliconRev then .ok k else .error 6)))))) ∧
  (∀ (s : State) (kat : Bool), (s.start ≠ .verify ∨ s.held = true → exec (.bootSequence kat) s = .next s) ∧
    (s.start = .verify → s.held = false →
      (∃ u : State, exec (.bootSequence false) s = .next u ∧ u.sec.halted = true ∧ u.sec.cause = 7 ∧ (∀ k, exec (.bootSequence k) u = .next u)) ∧
      (∀ c, ((s.sec.nor.mode = 0 ∧ c = 1) ∨ (s.sec.nor.mode ≠ 0 ∧ s.imgCheck s.sec.nor.image 4194304 = .error c)) →
        ∃ u : State, exec (.bootSequence true) s = .next u ∧ u.start = .recovery ∧ u.sec.cause = c ∧ u.sec.source = 3 ∧
          u.sec.fuse = s.sec.fuse ∧ u.sec.nor = s.sec.nor) ∧
      (∀ k, s.sec.nor.mode ≠ 0 → s.imgCheck s.sec.nor.image 4194304 = .ok k →
        ∃ u : State, exec (.bootSequence true) s = .next u ∧ u.start = .memory ∧ u.sec.cause = 0 ∧ u.sec.source = 0 ∧ u.sec.keySlot = k ∧
          u.sec.meas = measurements s.sec.fuse s.sec.nor.image k ∧ u.sec.meas.length = 9 ∧ u.sec.fuse = s.sec.fuse ∧
          (s.sec.fuse.life = 2 → u.sec.alias_ = none ∧ u.sec.chain = none) ∧
          (s.sec.fuse.life ≠ 2 → u.sec.alias_ = some (s.sec.fuse.aliasSeeds (fwid u.sec.meas)))))) ∧
  (∀ (s : State) (src : Src) (p : Nat), s.start = .recovery → s.pageOn src p = true → p = 0 ∨ p = 1 ∨ p = 0x70) ∧
  (∀ (s : State) (src : Src), s.pageOn src 0x70 = true → (s.start ≠ .recovery ∨ s.sec.load.isSome = true ∨ src = .mctp →
      exec (.recoveryLoad src) s = .next ((s.rcvMode 0).secDeny)) ∧
    (∀ p, src = .port p → s.start = .recovery → s.sec.load = none →
      (loadLenOk s.rcvAddr.2 = false → exec (.recoveryLoad src) s = .next ((s.rcvMode 0).rcvFail p 9)) ∧
      (loadLenOk s.rcvAddr.2 = true → ∃ u l, exec (.recoveryLoad src) s = .next u ∧ u.sec.load = some l ∧ l.port = p ∧ l.update = false ∧
        l.image = s.hostRead p s.rcvAddr.1 s.rcvAddr.2 ∧ u.sec.rcvState = 1))) ∧
  (∀ (s : State) (l : Load), s.sec.load = some l → l.update = false → s.start = .recovery →
    (l.image = none → exec .recoveryLoadDone s = .next (s.rcvFail l.port 8)) ∧
    (∀ img, l.image = some img → (∀ c, s.imgCheck img img.length = .error c → exec .recoveryLoadDone s = .next (s.rcvFail l.port c)) ∧
      (∀ k, s.imgCheck img img.length = .ok k →
        (l.writeBack = true → s.sec.nor.broken = true → ∃ u : State, exec .recoveryLoadDone s = .next u ∧ u.sec.rcvState = 3 ∧
          u.sec.rcvCause = 10 ∧ u.start = s.start ∧ u.sec.load = none) ∧
        (l.writeBack = false → ∃ u : State, exec .recoveryLoadDone s = .next u ∧ u.start = .memory ∧ u.sec.source = 1 + l.port ∧
          u.sec.nor = s.sec.nor ∧ u.sec.rcvState = 2) ∧
        (l.writeBack = true → s.sec.nor.broken = false → s.sec.nor.mode ≠ 0 → ∃ u : State, exec .recoveryLoadDone s = .next u ∧
          u.start = .memory ∧ u.sec.nor = { s.sec.nor with image := img }))))

/-- 15 R534, R542, R548, R549: an update comes from PLDM or from the fabric manager's host, one at a time; the image region takes an
image only when it has passed the checks, and the device goes on running the old one; a fuse command from any other route
is counted and ignored; SVN_COMMIT raises the fused SVN to the running image's and never lowers it; REVOKE sets its bit
unless the slot holds the running key or no other slot would stay; nothing that is burnt is ever undone. -/
def Obligations.UpdatesAndFuseCommands : Prop :=
  (∀ (s : State) (src : Src), s.pageOn src 0x70 = true → ∀ w, w = s.rcvMode 1 →
    ((∀ p, src ≠ .port p) ∨ s.fmRoute src = false ∨ s.sec.load.isSome = true ∨ s.reached .memory = false →
      exec (.mailboxUpdate src) s = .next w.secDeny) ∧
    (∀ p, src = .port p → s.fmRoute src = true → s.sec.load = none → s.reached .memory = true →
      (s.updating = true → exec (.mailboxUpdate src) s = .next ((w.rcvFail p 11).bump (pg 0x70 + 0x188))) ∧
      (s.updating = false → loadLenOk s.rcvAddr.2 = true → ∃ u l, exec (.mailboxUpdate src) s = .next u ∧ u.sec.load = some l ∧ l.update = true ∧
        l.image = s.hostRead p s.rcvAddr.1 s.rcvAddr.2 ∧ u.sec.updState = 1 ∧ u.sec.updSource = 1 ∧ u.sec.nor = s.sec.nor))) ∧
  (∀ (s : State) (img : List Byte), s.mctpOn = true →
    (s.updating = true → exec (.pldmUpdate img) s = .next ((s.bump (pg 0x70 + 0x188)).send (.mctp 1 [0x81]))) ∧
    (s.updating = false → ∃ u : State, exec (.pldmUpdate img) s = .next u ∧ u.sec.updState = 1 ∧ u.sec.updImage = img ∧ u.sec.nor = s.sec.nor)) ∧
  (∀ s : State, (s.sec.updState ≠ 1 → exec .imageStaged s = .next s) ∧
    (s.sec.updState = 1 → (s.updBytes = none → ∃ u : State, exec .imageStaged s = .next u ∧ u.sec.updState = 5 ∧ u.sec.updCause = 8 ∧
        u.sec.nor = s.sec.nor) ∧
      (∀ img, s.updBytes = some img →
        (∀ c, s.imgCheck img img.length = .error c → ∃ u : State, exec .imageStaged s = .next u ∧ u.sec.updState = 5 ∧ u.sec.updCause = c ∧
          u.sec.nor = s.sec.nor ∧ u.start = s.start) ∧
        (∀ k, s.imgCheck img img.length = .ok k → s.sec.nor.broken = false → s.sec.nor.mode ≠ 0 →
          ∃ u : State, exec .imageStaged s = .next u ∧ u.sec.updState = 4 ∧ u.sec.nor = { s.sec.nor with image := img } ∧
            u.sec.meas = s.sec.meas ∧ u.sec.keySlot = s.sec.keySlot ∧ u.start = s.start ∧ u.sec.fuse = s.sec.fuse)))) ∧
  (∀ (s : State) (m : List Byte), s.mctpOn = true → ∃ (u : State) (a b : Byte), exec (.activateFirmware m) s = .next u ∧
    u.out = .mctp 1 [0, a, b] :: s.out ∧ u.sec = s.sec ∧ u.regs = s.regs) ∧
  (∀ (s : State) (src : Src) (k : Nat), s.pageOn src 0x70 = true →
    (s.fmRoute src = false → exec (.svnCommit src) s = .next (s.count 0x70 0x18C 0) ∧ exec (.revoke src k) s = .next (s.count 0x70 0x18C 0)) ∧
    (s.fmRoute src = true → s.sec.fuseCmd = none →
      exec (.svnCommit src) s = .next { s with sec := { s.sec with fuseCmd := some (1, 0, s.clk) } } ∧
      exec (.revoke src k) s = .next { s with sec := { s.sec with fuseCmd := some (2, k % 4, s.clk) } })) ∧
  (∀ (s : State) (t cmd k a : Nat), s.sec.fuseCmd = some (cmd, k, a) → ∃ u : State, exec (.fuseDone t) s = .next u ∧ u.sec.fuseCmd = none ∧
    Fuse.keeps s.sec.fuse u.sec.fuse ∧
    (cmd = 1 → u.sec.fuse = { s.sec.fuse with svn := max s.sec.fuse.svn s.sec.imageSvn } ∧ u.sec.fuseResult = 0) ∧
    (cmd = 2 → (s.revokeRefused k = true → u.sec.fuse = s.sec.fuse ∧ u.sec.fuseResult = 1) ∧
      (s.revokeRefused k = false → u.sec.fuse.revoked.testBit k = true ∧ u.sec.fuseResult = 0 ∧ u.sec.fuse.svn = s.sec.fuse.svn ∧
        (s.sec.source ≠ 3 → s.sec.keySlot ≠ k) ∧ (∃ j, j < 4 ∧ j ≠ k ∧ (s.sec.fuse.keys.getD j none).isSome = true ∧
          u.sec.fuse.revoked.testBit j = false)))) ∧
  (∀ (s : State) (t : Nat), s.sec.fuseCmd = none → exec (.fuseDone t) s = .next (s.at_ t))

/-- 15 R543, R554 to R558: an SPDM request is answered only on a transport that is up, with GET_VERSION, GET_CAPABILITIES and
NEGOTIATE_ALGORITHMS in that order; offers without the selected algorithms leave it unnegotiated; other requests before
that, on a DECOMMISSIONED part, or unknown ones are answered with an error; measurements are the nine blocks; a signed
answer waits for its signature, served in order. (The layouts are those of DSP0274, log entry 15.) -/
def Obligations.SpdmResponderAnswers : Prop :=
  (∀ (s : State) (tr : Nat) (m : List Byte), s.spdmOn tr = false → ∀ c ∈ [Instr.getVersion tr m, .getCapabilities tr m,
      .negotiateAlgorithms tr m, .getDigests tr m, .getCertificate tr m, .challenge tr m, .getMeasurements tr m, .respondIfReady tr m,
      .spdmUnsupported tr m, .chunkSend tr m, .chunkGet tr m], exec c s = .next s) ∧
  (∀ (s : State) (tr : Nat) (m : List Byte), s.spdmOn tr = true → ∀ v w, v = s.spdm tr → w = s.bump (pg 0x70 + 0x180) →
    (mb m 1 = 0x84 → mb m 0 = 0x10 → 4 ≤ m.length → ∃ u : State, exec (.getVersion tr m) s = .next u ∧ (u.spdm tr).stage = 1 ∧
      u.out = (if tr = 2 then Out.mctp 5 [0x10, 4, 0, 0, 0, 2, 0, 0x12, 0, 0x13] else .doe tr 0 [0x10, 4, 0, 0, 0, 2, 0, 0x12, 0, 0x13]) :: s.out) ∧
    (mb m 1 = 0xE1 → v.stage ≠ 0 → (mb m 0 = 0x12 ∨ mb m 0 = 0x13) → 20 ≤ m.length → ∃ u : State, exec (.getCapabilities tr m) s = .next u ∧
      (u.spdm tr).stage = 2 ∧ (u.spdm tr).ver = mb m 0) ∧
    (mb m 1 = 0xE3 → 2 ≤ v.stage → 32 ≤ m.length → ∃ u : State, exec (.negotiateAlgorithms tr m) s = .next u ∧
      (u.spdm tr).stage = (if algOk m then 3 else v.stage)) ∧
    (∀ c, ((mb m 1 = 0x81 ∧ c = .getDigests tr m) ∨ (mb m 1 = 0x82 ∧ c = .getCertificate tr m) ∨ (mb m 1 = 0x83 ∧ c = .challenge tr m) ∨
        (mb m 1 = 0xE0 ∧ c = .getMeasurements tr m) ∨ (mb m 1 = 0xFF ∧ c = .respondIfReady tr m)) →
      (s.sec.fuse.life = 2 → exec c s = .next (w.spdmReply tr (v.unsupported m))) ∧
      (s.sec.fuse.life ≠ 2 → v.stage < 3 → exec c s = .next (w.spdmReply tr (v.error 0x04 0 []))) ∧
      (s.sec.fuse.life ≠ 2 → 3 ≤ v.stage → mb m 0 ≠ v.ver → exec c s = .next (w.spdmReply tr (v.error 0x41 0 [])))) ∧
    (s.sec.fuse.life ≠ 2 → 3 ≤ v.stage → mb m 0 = v.ver →
      (mb m 1 = 0x81 → s.sec.chain = none → exec (.getDigests tr m) s = .next ((w.spdmLog tr m [by8 v.ver, 0x01, if v.ver = 0x13 then 1 else 0, 0]).spdmReply
        tr [by8 v.ver, 0x01, if v.ver = 0x13 then 1 else 0, 0])) ∧
      (mb m 1 = 0x82 → s.sec.chain = none → exec (.getCertificate tr m) s = .next (w.spdmReply tr v.invalid)) ∧
      (∀ c all off part, s.sec.chain = some c → all = chainBytes c → off = mn m 4 2 → mb m 1 = 0x82 →
        part = (all.drop off).take (min (mn m 6 2) (spdmMax - 8)) →
        ∀ r : List Byte, r = [by8 v.ver, 0x02, 0, 0] ++ leBytes 2 part.length ++ leBytes 2 (min (all.length - off - part.length) 0xFFFF) ++ part →
        (8 ≤ m.length → mb m 2 % 16 = 0 → off < all.length →
          exec (.getCertificate tr m) s = .next ((w.spdmLog tr m r).spdmReply tr r)) ∧
        (m.length < 8 ∨ mb m 2 % 16 ≠ 0 ∨ all.length ≤ off → exec (.getCertificate tr m) s = .next (w.spdmReply tr v.invalid))) ∧
      (∀ c, s.sec.chain = some c → mb m 1 = 0x83 → 44 ≤ m.length → mb m 2 = 0 → mb m 3 = 0 → s.sec.signs = [] →
        ∃ (u : State) (x : SignReq), exec (.challenge tr m) s = .next u ∧ u.sec.signs = [x] ∧ x.tr = tr ∧ x.code = 0x83 ∧ u.out = s.out) ∧
      (∀ i, mb m 1 = 0xE0 → 1 ≤ i → i ≤ 9 → mb m 3 = i → (mb m 2).testBit 0 = false → 12 ≤ m.length → (s.measOf i).length ≤ 900 →
        ∃ (u : State) (tail : List Byte), exec (.getMeasurements tr m) s = .next u ∧
          u.out.head? = some (if tr = 2 then Out.mctp 5 ([by8 v.ver, 0x60, 0, 0, 1] ++ leBytes 3 (s.measOf i).length ++ s.measOf i ++ tail)
            else .doe tr 0 ([by8 v.ver, 0x60, 0, 0, 1] ++ leBytes 3 (s.measOf i).length ++ s.measOf i ++ tail))) ∧
      (∀ r, mb m 1 = 0xFF → v.later = some (mb m 2, mb m 3) → v.done = some r →
        exec (.respondIfReady tr m) s = .next ((w.setSpdm tr { v with later := none, done := none }).spdmReply tr r))) ∧
    (mb m 1 ∉ spdmCodes → exec (.spdmUnsupported tr m) s = .next (w.spdmReply tr (v.unsupported m))) ∧
    (mb m 1 = 0x85 → s.sec.fuse.life ≠ 2 → (v.stage < 2 → exec (.chunkSend tr m) s = .next (w.spdmReply tr (v.error 0x04 0 []))) ∧
      (2 ≤ v.stage → exec (.chunkSend tr m) s = .next (w.chunkTake tr m))) ∧
    (mb m 1 = 0x86 → s.sec.fuse.life ≠ 2 → 2 ≤ v.stage →
      (v.get = none → exec (.chunkGet tr m) s = .next (w.spdmReply tr (v.error 0x04 0 []))) ∧
      (∀ g, v.get = some g → g.handle = mb m 3 → g.seq = mn m 4 2 → ∃ u : State, exec (.chunkGet tr m) s = .next u ∧
        (∀ g', (u.spdm tr).get = some g' → g'.seq = g.seq + 1 ∧ g'.bytes = g.bytes.drop (spdmSize tr - (if mn m 4 2 = 0 then 16 else 12)))))) ∧
  (∀ (s : State) (a : List Byte) (x : SignReq) (xs : List SignReq), s.sec.signs = x :: xs → s.sec.alias_ = some a →
    ∃ u : State, exec .signatureDone s = .next u ∧ u.sec.signs = xs ∧
      ((s.spdm x.tr).later = none → u = (State.bump { s with sec := { s.sec with signs := xs } } (pg 0x70 + 0x184)).spdmReply x.tr
        (x.resp ++ Config.slhSign256f a x.tbs)))

/-! ### 16: health, failures and the RAS log -/

/-- 16 R561, R562: the monitors run while MON_EN is 1; a path-delay sample lowers the lowest reduced slack of its monitor and
changes nothing else when the fast guard is off or no monitor is below FAST_PS; oscillators, leakage sensors and the
refresh-margin test keep what was measured, the test once per interval and in slack. -/
def Obligations.MonitorsKeepWhatTheyMeasure : Prop :=
  (∀ (s : State) (t : Nat) (ps : List Int) (vs : List Nat), s.mctpOn = false ∨ s.hltCtrl 0 = false →
    exec (.pathDelaySample t ps) s = .next (s.at_ t) ∧ exec (.ringOscillatorSample t vs) s = .next (s.at_ t) ∧
    exec (.leakageSample t vs) s = .next (s.at_ t)) ∧
  (∀ (s : State) (t : Nat) (ps : List Int), s.mctpOn = true → s.hltCtrl 0 = true → ∀ w, w = (s.at_ t).noteSlack ps →
    (s.hltCtrl 2 = false ∨ (∀ i x, i < 64 → ps[i]? = some x → (s.hltMargin 8 : Int) ≤ x) → exec (.pathDelaySample t ps) s = .next w) ∧
    (∃ l, w = { s.at_ t with hlt := { s.hlt with slack := l } }) ∧
    (∀ i x, i < 64 → ps[i]? = some x → ∀ y, y = Config.reduceSlack i x (sget s.hlt.ro 0 i) s.hlt.vcore s.brn.step →
      sget w.hlt.slack none i = some (match sget s.hlt.slack none i with
        | none => y
        | some o => min o y)) ∧
    (∀ i, 64 ≤ i ∨ ps[i]? = none → sget w.hlt.slack none i = sget s.hlt.slack none i)) ∧
  (∀ (s : State) (t : Nat) (vs : List Nat), s.mctpOn = true → s.hltCtrl 0 = true → Sparse.rising s.hlt.ro → Sparse.rising s.hlt.leak →
    (∃ l, exec (.ringOscillatorSample t vs) s = .next { s.at_ t with hlt := { s.hlt with ro := l } } ∧
      ∀ i, sget l 0 i = if i < 64 ∧ i < vs.length then vs.getD i 0 % 65536 else sget s.hlt.ro 0 i) ∧
    (∃ l, exec (.leakageSample t vs) s = .next { s.at_ t with hlt := { s.hlt with leak := l } } ∧
      ∀ i, sget l 0 i = if i < 20 ∧ i < vs.length then vs.getD i 0 % 65536 else sget s.hlt.leak 0 i)) ∧
  (∀ (s : State) (u m : Nat), (s.mctpOn = true → s.hltCtrl 0 = true → s.reached .memory = true → s.slack .memory = true → s.memLive u = true →
      sget s.hlt.margin none u = none → ∃ l, exec (.refreshMarginTest u m) s = .next { s with hlt := { s.hlt with margin := l } } ∧
        sget l none u = some m ∧ ∀ k, k ≠ u → sget l none k = sget s.hlt.margin none k) ∧
    (s.mctpOn = false ∨ s.hltCtrl 0 = false ∨ s.reached .memory = false ∨ s.slack .memory = false ∨ s.memLive u = false ∨ (∃ x, sget s.hlt.margin none u = some x) →
      exec (.refreshMarginTest u m) s = .next s))

/-- 16 R569: below 850 mV the first monitor under FAST_PS raises VCORE by 10 mV, at most to 850; at 850 mV an engine monitor
raises the floor by one step, into the active bank, to be recorded at the next boundary; a core-clock monitor there is
FATAL with cause 0x0F; each starts a re-plan, or is served by the one that runs. (One action per kind and sample, and the first monitor named, are the
model's choice.) -/
def Obligations.FastGuardActs : Prop :=
  ∀ (s : State) (t i : Nat) (ps : List Int) (x : Int), s.mctpOn = true → s.hltCtrl 0 = true → s.hltCtrl 2 = true →
    i < 64 → ps[i]? = some x → x < (s.hltMargin 8 : Int) →
    (∀ k y, k < i → ps[k]? = some y → (s.hltMargin 8 : Int) ≤ y) →
    (s.hlt.vcore < 850 → ∃ u : State, exec (.pathDelaySample t ps) s = .next u ∧ u.hlt.vcore = min (s.hlt.vcore + 10) 850 ∧
      u.hlt.raised = true ∧ u.hlt.settleAt = (s.at_ t).clk + 20000 ∧ u.hlt.running = some (s.hlt.running.getD (s.at_ t).clk) ∧
      u.hlt.floor = s.hlt.floor ∧ u.act = s.act ∧ u.brn = s.brn ∧ u.ras.fatal = s.ras.fatal) ∧
    (850 ≤ s.hlt.vcore → i < 48 → (∀ k y, 48 ≤ k → k < 64 → ps[k]? = some y → (s.hltMargin 8 : Int) ≤ y) → s.stk.running = true →
      ∃ u : State, exec (.pathDelaySample t ps) s = .next u ∧ u.hlt.floor = min (s.hlt.floor + 1) 8 ∧ u.hlt.floorDue = true ∧
        u.act = floorBank s.act (min (s.hlt.floor + 1) 8) ∧ u.prev = s.prev ∧ u.pend = s.pend ∧ u.cfg.edition = s.cfg.edition ∧
        u.hlt.running = some (s.hlt.running.getD (s.at_ t).clk) ∧ u.ras.fatal = s.ras.fatal) ∧
    (850 ≤ s.hlt.vcore → 48 ≤ i → ∃ u : State, exec (.pathDelaySample t ps) s = .next u ∧
      u.hlt.running = some (s.hlt.running.getD (s.at_ t).clk) ∧ u.hlt.floor = s.hlt.floor ∧ u.hlt.vcore = s.hlt.vcore ∧
      u.ras.fatal = match s.ras.fatal with
        | none => some (0x0F, (x % 2 ^ 64).toNat, (s.at_ t).clk)
        | some f => some f)

/-- 16 R563, R564: a re-plan starts at the first of its triggers, and one that arrives while it runs is served by it; its
setpoint for a step is the lowest of 650 to 850 mV at which every monitor meets the guard, its floor the lowest step with
such a setpoint, its multiplier the smallest at which the margin is MIN_RATIO windows; while a stroke runs the outputs wait
and the active bank stands. -/
def Obligations.ReplanChoosesTheLowest : Prop :=
  (∀ (s : State) (t : Nat), (s.mctpOn = true → s.hltCtrl 1 = true → (s.at_ t).replanTrigger = true → s.hlt.running = none →
      exec (.replanStart t) s = .next { s.at_ t with hlt := { s.hlt with running := some (s.at_ t).clk } }) ∧
    (s.mctpOn = false ∨ s.hltCtrl 1 = false ∨ (s.at_ t).replanTrigger = false ∨ s.hlt.running.isSome = true →
      exec (.replanStart t) s = .next (s.at_ t))) ∧
  (∀ s : State, s.replanTrigger = true ↔
    (s.hlt.lastAt + s.cfgFld (pg 0x78 + 0x104) 0 16 * 3600000000000 ≤ s.clk ∨
      (∃ i x b, i < 64 ∧ sget s.hlt.slack none i = some x ∧ sget s.hlt.slackBase none i = some b ∧ (s.hltMargin 16 : Int) < b - x) ∨
      (∃ e m, e ∈ s.hlt.margin ∧ e.2 = some m ∧ s.memLive e.1 = true ∧ m * 2 ^ sget s.hlt.refresh 0 e.1 < 100 * s.minRatio) ∨
      (∃ e, e ∈ s.hlt.trend ∧ e.2.base * 100 + s.cfgFld (pg 0x78 + 0x110) 0 8 * s.flm.geom.ldpc * 256 < e.2.mean * 100))) ∧
  (∀ (s : State) (src : Src), (s.pageOn src 0x78 = false ∨ s.hltCtrl 1 = false ∨ s.hlt.running.isSome = true → exec (.replanNow src) s = .next s) ∧
    (s.pageOn src 0x78 = true → s.hltCtrl 1 = true → s.hlt.running = none →
      exec (.replanNow src) s = .next { s with hlt := { s.hlt with running := some s.clk } })) ∧
  (∀ (s : State) (step v : Nat), s.planVf step = some v →
    v % 5 = 0 ∧ 650 ≤ v ∧ v ≤ 850 ∧ (∀ i, i < 64 → s.guardOk v step i = true) ∧
      ∀ w, w % 5 = 0 → 650 ≤ w → w < v → ∃ i, i < 64 ∧ s.guardOk w step i = false) ∧
  (∀ (s : State) (step : Nat), s.planVf step = none → ∀ w, w % 5 = 0 → 650 ≤ w → w ≤ 850 → ∃ i, i < 64 ∧ s.guardOk w step i = false) ∧
  (∀ (s : State) (mv step i : Nat) (x : Int), sget s.hlt.slack none i = some x → (s.guardOk mv step i = true ↔
    (s.hltMargin 0 : Int) ≤ Config.predictSlack i x mv (if 48 ≤ i then 0 else step))) ∧
  (∀ (s : State) (u m c : Nat), sget s.hlt.margin none u = some m → (s.planRefresh u = some c ↔
    (c < 3 ∧ 100 * s.minRatio ≤ m * 2 ^ c ∧ ∀ d, d < c → m * 2 ^ d < 100 * s.minRatio))) ∧
  (∀ (s : State) (outs : List Nat) (k : Nat), k < 9 → (s.planOuts outs).vf[k]? = some ((s.planVf k).getD 850) ∧
    ((∃ v, s.planVf k = some v) → (∀ j, j < k → s.planVf j = none) → (s.planOuts outs).floor = k)) ∧
  (∀ (s : State) (t : Nat) (outs : List Nat), (s.hlt.running = none → exec (.replanEnd t outs) s = .next (s.at_ t)) ∧
    (s.hlt.running.isSome = true → s.stk.running = true → (∀ u, 4 ≤ u → u < 12 → s.memLive u = true → (s.planRefresh u).isSome = true) →
      ∃ u : State, exec (.replanEnd t outs) s = .next u ∧ u.hlt.running = none ∧ u.hlt.ready = some ((s.at_ t).planOuts outs) ∧
        u.hlt.vf = s.hlt.vf ∧ u.hlt.floor = s.hlt.floor ∧ u.hlt.vcore = s.hlt.vcore ∧ u.act = s.act ∧ u.prev = s.prev ∧ u.pend = s.pend ∧
        u.hlt.dead = s.hlt.dead ∧ u.hlt.slack = [] ∧ u.hlt.margin = [] ∧
        (u.hlt.ageCrit = true ↔ ((∃ m, m < 4 ∧ s.planRefresh m = none) ∨ ∃ i, 48 ≤ i ∧ i < 64 ∧ s.guardOk 850 0 i = false))))

/-- 16 R578, R579: a stack named to HLT_CMD, or one that fails, is added to the failed stacks; one that has failed, or that the part does
not have, changes nothing; cached pages that are lost leave the T1 cache. -/
def Obligations.StacksFailOnce : Prop :=
  (∀ (s : State) (src : Src) (k : Nat), (s.pageOn src 0x78 = false → exec (.failStack src k) s = .next s) ∧
    (s.pageOn src 0x78 = true → exec (.failStack src k) s = .next (s.failStack (k % 8)))) ∧
  (∀ (s : State) (k : Nat), (s.start = .verify ∨ s.start = .recovery → exec (.stackFail k) s = .next s) ∧
    (s.start ≠ .verify → s.start ≠ .recovery → exec (.stackFail k) s = .next (s.failStack k))) ∧
  (∀ (s : State) (k : Nat), (s.fusedStacks ≤ k ∨ k ∈ s.hlt.dead → s.failStack k = s) ∧
    (s.memOk = true → s.keysRise → k < s.fusedStacks → k ∉ s.hlt.dead → k ∈ (s.failStack k).hlt.dead ∧ s.hlt.dead <+: (s.failStack k).hlt.dead)) ∧
  (∀ (s : State) (lost : List Cached), ∀ c ∈ (s.stackCache lost).pfs.cache, c ∈ s.pfs.cache ∧ c ∉ lost) ∧
  (∀ (s : State) (k row : Nat), ∀ u, u = s.stackUe k row → (s.memOk = true → s.keysRise → s.hlt.dead <+: u.hlt.dead) ∧
    ((s.hlt.ues.filter (fun e => decide (e.1 = k ∧ s.clk < e.2.2 + 1000000000))).length < 15 → u.hlt.dead = s.hlt.dead))

/-- 16 R574 to R576: an occurrence of the newest record's page, cause and unit within 1 ms of its first merges into it;
otherwise it is a new record, the newest; a full log gives up its oldest CORRECTED record or, holding none, counts the new one lost; no record
of class 1 to 3 is ever given up; RAS_LOG_CLEAR empties the log; a page's storm ends one second after its first record. -/
def Obligations.RasLogKeepsSevereRecords : Prop :=
  (∀ (s : State) (page cause cls unit info : Nat) (n : RasRec), s.ras.log.getLast? = some n → n.page = page → n.cause = cause →
    n.unit = unit → s.clk < n.at_ + 1000000 →
    (s.rasRecord page cause cls unit info).ras.log = s.ras.log.dropLast ++ [{ n with count := min (n.count + 1) 255 }]) ∧
  (∀ (s : State) (page cause cls unit info : Nat), 1 ≤ cls → s.ras.log.length < 1024 →
    (∀ n, s.ras.log.getLast? = some n → ¬ (n.page = page ∧ n.cause = cause ∧ n.unit = unit ∧ s.clk < n.at_ + 1000000)) →
    ∃ r : RasRec, (s.rasRecord page cause cls unit info).ras.log = s.ras.log ++ [r] ∧ r.seq = s.ras.next % 2 ^ 32 ∧ r.cls = cls ∧ r.page = page ∧
      r.cause = cause ∧ r.count = 1 ∧ r.unit = unit ∧ r.info = info ∧ (s.rasRecord page cause cls unit info).ras.next = s.ras.next + 1) ∧
  (∀ (s : State) (r : RasRec), 1024 ≤ s.ras.log.length → (∀ x ∈ s.ras.log, x.cls ≠ 0) → (s.rasWrite r).ras = s.ras ∧
    (s.rasWrite r).reg (pg 0x79 + 0x18C) = satAdd (s.reg (pg 0x79 + 0x18C)) 1 ∧ bit ((s.rasWrite r).reg (pg 0x79 + 0x10)) 3 = true) ∧
  (∀ (s : State) (r x : RasRec) (pre post : List RasRec), 1024 ≤ s.ras.log.length → s.ras.log = pre ++ x :: post → x.cls = 0 →
    (∀ y ∈ pre, y.cls ≠ 0) → s.ras.log.Pairwise (fun a b => a.seq ≠ b.seq) → (s.rasWrite r).ras.log = pre ++ post ++ [r]) ∧
  (∀ (s : State) (page cause cls unit info : Nat) (x : RasRec), x ∈ s.ras.log → 1 ≤ x.cls → s.ras.log.Pairwise (fun a b => a.seq ≠ b.seq) →
    ∃ y ∈ (s.rasRecord page cause cls unit info).ras.log, y.seq = x.seq ∧ y.cls = x.cls ∧ y.page = x.page ∧ y.cause = x.cause ∧ y.unit = x.unit ∧
      y.info = x.info ∧ (y.count = x.count ∨ y.count = min (x.count + 1) 255)) ∧
  (∀ (s : State) (src : Src), (s.pageOn src 0x79 = false → exec (.rasLogClear src) s = .next s) ∧
    (s.pageOn src 0x79 = true → exec (.rasLogClear src) s = .next { s with ras := { s.ras with log := [] } })) ∧
  (∀ (s : State) (page t : Nat), ∃ u : State, exec (.ceStormEnd page t) s = .next u ∧ u.ras.log = s.ras.log ∧ u.regs = s.regs ∧
    (∀ x ∈ u.ras.storms, x ∈ s.ras.storms ∧ (x.page = page → (s.at_ t).clk < x.since + 1000000000)) ∧
    (∀ x ∈ s.ras.storms, x.page ≠ page → x ∈ u.ras.storms))

/-! ### 17: register pages, editions and phases -/

/-- 17 R586, R588 to R592, R595; 11 R398, R419: an access that is misaligned, outside BAR0 and the windows of the port (log entry 195), or
to a page that does not answer or does not exist changes nothing; a write to the MSI-X table sets the word it names; a message leaves
with the address and data of its table entry, one that is masked becomes pending; INT_STATUS clears the bits written 1 and INT_FORCE sets those the page defines; a CNT_CLEAR write
of 1 sets its counters to 0 and no other register; a register of a page without actions stores its defined bits, a
configuration register in the pending bank only, and not while the banks are frozen; a read of a LO word latches its HI
word; the same accesses reach the pages over MCTP. -/
def Obligations.RegistersTakeAccesses : Prop :=
  (∀ (s : State) (src : Src) (a : Nat) (v : Word), a % 4 ≠ 0 ∨ 0x1C8000 ≤ a ∨ (2 ^ 20 ≤ a ∧ src = .mctp) ∨
      (a < 2 ^ 20 ∧ (s.pageOn src (a / 0x1000) = false ∨ s.pageThere (a / 0x1000) = none)) →
    exec (.registerWrite src a v) s = .next s) ∧
  (∀ (s : State) (p k : Nat) (v : Word), p < 2 → s.portDown p = false → k < 256 → s.fns.rising → (s.fn p 0).vecs.rising →
    ∃ u : State, exec (.registerWrite (.port p) (0x140000 + 16 * k + 8) v) s = .next u ∧ ((u.fn p 0).vec k).data = v ∧
      ((u.fn p 0).vec k).masked = ((s.fn p 0).vec k).masked ∧ (u.fn p 0).msixOn = (s.fn p 0).msixOn ∧ u.regs = s.regs) ∧
  (∀ (s : State) (p vec : Nat), s.portDown p = false → s.start ≠ .recovery →
    ((s.fn p 0).msixOn = false → s.msix p vec = s) ∧
    ((s.fn p 0).msixOn = true → (s.fn p 0).holds vec = false →
      s.msix p vec = s.send (.msix p vec ((s.fn p 0).vec vec).addr ((s.fn p 0).vec vec).data)) ∧
    ((s.fn p 0).msixOn = true → (s.fn p 0).holds vec = true → vec ∈ ((s.msix p vec).fn p 0).pba ∧ (s.msix p vec).out = s.out)) ∧
  (∀ (s : State) (src : Src) (page i : Nat) (b : Block) (v : Word), page < 256 → s.pageThere page = some (b, i) → (b = .ten → s.fmRoute src = true) → s.pageOn src page = true →
    s.regs.rising →
    (∃ u : State, exec (.intStatusClear src page v) s = .next u ∧ u = { s with regs := u.regs, fns := u.fns, out := u.out } ∧
      u.reg (pg page + 0x10) = s.reg (pg page + 0x10) &&& ~~~v ∧ sameRegsBut s u [pg page + 0x10]) ∧
    (∃ u : State, exec (.intForce src page v) s = .next u ∧ u = { s with regs := u.regs, fns := u.fns, out := u.out } ∧
      u.reg (pg page + 0x10) = s.reg (pg page + 0x10) ||| (v &&& intMask page) ∧ sameRegsBut s u [pg page + 0x10])) ∧
  (∀ (s : State) (src : Src) (a i : Nat) (b : Block) (v : Word), a % 4 = 0 → a < 2 ^ 20 → s.pageThere (a / 0x1000) = some (b, i) → (b = .ten → s.fmRoute src = true) →
    s.pageOn src (a / 0x1000) = true → clearRanges a ≠ [] →
    (bit v 0 = false → exec (.counterClear src a v) s = .next s) ∧
    (bit v 0 = true → ∃ u : State, exec (.counterClear src a v) s = .next u ∧ u = { s with regs := u.regs, brn := u.brn, psa := u.psa } ∧
      u.brn = (if a = pg 0x20 + 0x2FC then s.brn.clearBusy s.clk else s.brn) ∧
      u.psa = (if a = pg 0x07 + 0x1FC then { s.psa with slots := 0, slotsAt := s.clk } else s.psa) ∧
      ∀ c, u.reg c = if (clearRanges a).any (fun r => decide (c / 0x1000 = a / 0x1000 ∧ r.1 ≤ c % 0x1000 ∧ c % 0x1000 ≤ r.2)) then regReset c else s.reg c)) ∧
  (∀ (s : State) (src : Src) (a : Nat) (v : Word), clearRanges a = [] → exec (.counterClear src a v) s = .next s) ∧
  (∀ (s : State) (src : Src) (a i : Nat) (b : Block) (v : Word) (d : RegDef), a % 4 = 0 → a < 2 ^ 20 → 0x100 ≤ a % 0x1000 →
    s.pageThere (a / 0x1000) = some (b, i) → b ∈ [Block.cfg, .psa, .dir, .tier, .pfs, .npa, .flm, .hpt, .net, .pwr] → s.pageOn src (a / 0x1000) = true →
    clearRanges a = [] → regDef a = some d →
    (d.cfg = false → s.regs.rising → exec (.registerWrite src a v) s = .next (s.setReg a (v &&& d.mask)) ∧ (s.setReg a (v &&& d.mask)).reg a = v &&& d.mask) ∧
    (d.cfg = true → s.cfg.check = none → s.cfg.armed = none → s.pend.rising → ∃ u : State, exec (.registerWrite src a v) s = .next u ∧
      u = { s with pend := u.pend } ∧ u.pendReg a = v &&& d.mask ∧ ∀ c, c ≠ a → u.pendReg c = s.pendReg c) ∧
    (d.cfg = true → (s.cfg.check.isSome = true ∨ s.cfg.armed.isSome = true) → ∃ u : State, exec (.registerWrite src a v) s = .next u ∧
      u.pend = s.pend ∧ u.act = s.act ∧ u.reg (pg 0x02 + 0x18C) = satAdd (s.reg (pg 0x02 + 0x18C)) 1)) ∧
  (∀ (s : State) (src : Src) (a i : Nat) (b : Block), a % 4 = 0 → a < 2 ^ 20 → s.pageThere (a / 0x1000) = some (b, i) → (b = .ten → s.fmRoute src = true) →
    s.pageOn src (a / 0x1000) = true →
    (latchesHi a = false → exec (.latchingRead src a) s = .next (s.send (.regRead src a (s.readVal a)))) ∧
    (latchesHi a = true → s.latch.rising → ∃ u : State, exec (.latchingRead src a) s = .next u ∧ u = { s with latch := u.latch, out := u.out } ∧
      sget u.latch (latchReset (a + 4)) (a + 4) = s.liveVal (a + 4))) ∧
  (∀ (s : State), s.mctpOn = false → ∀ acc, exec (.mctpRegisterAccess acc) s = .next s) ∧
  (∀ (s : State) (a : Nat) (v : Word), s.mctpOn = true → exec (.mctpRegisterAccess (.write a v)) s = exec (.registerWrite .mctp a v) s ∧
    exec (.mctpRegisterAccess (.read a)) s = exec (.latchingRead .mctp a) s)

/-- 17 R593 to R601; 16 R565: a commit or rollback is refused before MEMORY, with reserved bits set, while another is in its check or
armed, and a rollback without a previous set; otherwise its check begins. A check that finds a register outside its limits
names it in CFG_FAIL and changes no bank; one that passes arms the commit while a stroke runs and applies it at once while
none does. At its boundary it either completes CONFLICT, or the previous set takes the active bank's values, the active bank
the new ones (with MIN_STEP held at the ageing floor), and the edition rises by one. -/
def Obligations.EditionsReplaceTheBanks : Prop :=
  (∀ (s : State) (id : Nat) (l : Live) (rb : Bool) (c : Instr), s.live id = some l → l.phase = .accepted → l.compat = false →
    ((rb = false ∧ l.op = 0x11 ∧ c = .cfgCommit id) ∨ (rb = true ∧ l.op = 0x12 ∧ c = .cfgRollback id)) → ∀ w, w = (fun (n : Nat) =>
      ({ s with cfg := { s.cfg with last := n } } : State)) →
    (s.reached .verify = false ∨ s.start = .recovery → exec c s = .next ((w Status.notReady.code).fail id .notReady)) ∧
    (s.reached .verify = true → s.start ≠ .recovery →
      (l.reservedOk 0 [] = false → exec c s = .next (((w Status.badCommand.code).count 0x02 0x188 1).fail id .badCommand)) ∧
      (l.reservedOk 0 [] = true →
        (s.cfg.check.isSome = true ∨ s.cfg.armed.isSome = true ∨ (rb = true ∧ s.cfg.prevValid = false) →
          exec c s = .next (((w Status.conflict.code).count 0x02 0x188 1).fail id .conflict)) ∧
        (s.cfg.check = none → s.cfg.armed = none → (rb = true → s.cfg.prevValid = true) → ∃ u : State, exec c s = .next u ∧
          u.cfg = { s.cfg with check := some ⟨l.id, rb, s.clk⟩ } ∧ u.act = s.act ∧ u.pend = s.pend ∧ u.prev = s.prev)))) ∧
  (∀ (s : State) (t : Nat), s.cfg.check = none → exec (.cfgCheckEnd t) s = .next (s.at_ t)) ∧
  (∀ (s : State) (t : Nat) (c : Check) (p o : Nat), s.cfg.check = some c → s.memOk = true → s.keysRise →
    firstBad (fun a => sget (s.checkBank c) (regReset a) a) = some (p, o) → ∃ u : State, exec (.cfgCheckEnd t) s = .next u ∧
      u = (State.count { s.at_ t with cfg := { s.cfg with check := none, armed := none, last := Status.badCommand.code, fail := w32 (2 ^ 31 + p * 2 ^ 16 + o) } } 0x02 0x188 1).fail c.id .badCommand ∧
      u.act = s.act ∧ u.prev = s.prev ∧ u.cfg.edition = s.cfg.edition) ∧
  (∀ (g : Nat → Word) (p o : Nat), (firstBad g = some (p, o) → limitBad g p o = true ∧ (p, o) ∈ cfgRegs) ∧
    (firstBad g = none → ∀ r ∈ cfgRegs, limitBad g r.1 r.2 = false)) ∧
  (∀ (s : State) (t : Nat) (c : Check), s.cfg.check = some c → firstBad (fun a => sget (s.checkBank c) (regReset a) a) = none →
    (s.stk.running = true → exec (.cfgCheckEnd t) s = .next { s.at_ t with cfg := { s.cfg with check := none, armed := some c } }) ∧
    (s.stk.running = false → exec (.cfgCheckEnd t) s =
      .next (State.cfgBoundary { s.at_ t with cfg := { s.cfg with check := none, armed := some c } } (s.at_ t).local_))) ∧
  (∀ (s : State) (b : Int) (c : Check), s.cfg.armed = some c → s.memOk = true → s.keysRise → ∀ u, u = s.cfgBoundary b →
    (s.widthClash (s.checkBank c) = true ∨ (gridNew s.act (s.checkBank c) = true ∧ s.stk.running = true ∧
        s.gridTake (s.checkBank c) s.stk.stroke b = none) → s.replanDue = false →
      u = (State.count { s with cfg := { s.cfg with check := none, armed := none, last := Status.conflict.code } } 0x02 0x188 1).fail c.id .conflict ∧
        u.act = s.act ∧ u.prev = s.prev ∧ u.cfg.edition = s.cfg.edition) ∧
    (s.widthClash (s.checkBank c) = false → (gridNew s.act (s.checkBank c) = false ∨ s.stk.running = false ∨
        (s.gridTake (s.checkBank c) s.stk.stroke b).isSome = true) →
      u.cfg.armed = none ∧ u.prev = s.act ∧ u.cfg.edition = s.cfg.edition + 1 ∧
        (s.replanDue = false → u.act = floorBank (s.checkBank c) s.hlt.floor))) ∧
  (∀ (s : State) (b : Int) (o : Outs), s.cfg.armed = none → s.hlt.ready = some o → s.memOk = true → s.keysRise →
    (s.cfgBoundary b).prev = s.act ∧ (s.cfgBoundary b).act = floorBank s.act o.floor ∧ (s.cfgBoundary b).cfg.edition = s.cfg.edition + 1)

/-! ### 18: resets, start-up, power and temperature -/

/-- 17 R602, R605, R607; 16 R571; 18 R618, R623, R624, R632, R633: a cold reset leaves every register at its reset value but
the cause, and every block as it is after reset, and holds the device; a warm reset keeps the banks, the edition, the tenant
tables, the registers that keep their values through it, and counts; a FATAL error ends in a warm reset that reports it. A
phase ends when its block has finished and the next one begins, each at most once; a lost network clock or die takes its
ports down. (The 100 us after RESET_L counts from the device time of the last fall: the model's choice, log entry 68.) -/
def Obligations.ResetsStartOver : Prop :=
  (∀ (s : State) (t : Nat), ∀ p ∈ [(Instr.resetL t, 1), (.pwrGood false t, 0), (.sysRefclkLoss t, 1), (.thermalComparator, 0)],
    ∃ u : State, exec p.1 s = .next u ∧ u.held = true ∧ u.start = .verify ∧ u.reg (pg 0x00 + 0x108) = w32 p.2 ∧
      sameRegsBut State.reset u [pg 0x00 + 0x108] ∧ u.act = [] ∧ u.pend = [] ∧ u.prev = [] ∧ u.latch = [] ∧ u.cfg = State.reset.cfg ∧
      u.que = State.reset.que ∧ u.dma = State.reset.dma ∧ u.ten = State.reset.ten ∧ u.psa = State.reset.psa ∧ u.pfs = State.reset.pfs ∧
      u.npa = State.reset.npa ∧ u.brn = State.reset.brn ∧ u.stk = State.reset.stk ∧ u.net = State.reset.net ∧ u.ras = State.reset.ras ∧ u.cxl = [] ∧
      u.dir.slots = s.dir.slots ∧ u.dir.proofs = [] ∧ u.tier.moves = [] ∧ u.sec.fuse = s.sec.fuse ∧ u.flm = s.flm.afterReset ∧
      u.host0 = s.host0 ∧ u.host1 = s.host1 ∧ u.out = s.out ∧ u.pending = s.pending) ∧
  (∀ (s : State) (t : Nat),
    (s.pwr.pwrBad = false → exec (.pwrGood true t) s = .next (s.at_ t)) ∧
    (s.pwr.pwrBad = true → exec (.pwrGood true t) s =
      .next { s.at_ t with pwr := { s.pwr with pwrBad := false, dead := false, heldAt := (s.at_ t).clk } }) ∧
    (s.pwr.resetLow = false ∨ s.pwr.pwrBad = true ∨ (s.at_ t).clk < s.pwr.heldAt + 100000 → exec (.resetRelease t) s = .next (s.at_ t)) ∧
    (s.pwr.resetLow = true → s.pwr.pwrBad = false → s.pwr.heldAt + 100000 ≤ (s.at_ t).clk → exec (.resetRelease t) s =
      .next { s.at_ t with pwr := { s.pwr with resetLow := false }, resetAt := (s.at_ t).clk, phaseAt := (s.at_ t).clk }) ∧
    (s.pwr.clkLost = false → exec (.sysRefclkReturn t) s = .next (s.at_ t)) ∧
    (s.pwr.clkLost = true → exec (.sysRefclkReturn t) s =
      .next { s.at_ t with pwr := { s.pwr with clkLost := false }, resetAt := (s.at_ t).clk, phaseAt := (s.at_ t).clk })) ∧
  (∀ (s : State) (src : Src) (v : Word),
    (s.pageOn src 0x00 = false → exec (.warmReset src v) s = .next s) ∧
    (s.pageOn src 0x00 = true → s.fmRoute src = false ∨ fld v 20 12 ≠ 0xA5C → exec (.warmReset src v) s = .next (s.count 0x6C 0x190 1)) ∧
    (s.pageOn src 0x00 = true → s.fmRoute src = true → fld v 20 12 = 0xA5C → bit v 0 = false → exec (.warmReset src v) s = .next s) ∧
    (s.pageOn src 0x00 = true → s.fmRoute src = true → fld v 20 12 = 0xA5C → bit v 0 = true → ∃ u : State, exec (.warmReset src v) s = .next u ∧
      s.warmKept u ∧ u.reg (pg 0x00 + 0x10C) = satAdd (s.reg (pg 0x00 + 0x10C)) 1 ∧ (s.regs.rising → u.reg (pg 0x00 + 0x108) = 2))) ∧
  (∀ (s : State) (t : Nat), (s.ras.fatal = none → exec (.fatalReset t) s = .next (s.at_ t)) ∧
    (∀ cause info tm, s.ras.fatal = some (cause, info, tm) → ∃ u : State, exec (.fatalReset t) s = .next u ∧ s.warmKept u ∧
      u.pwr.trip = s.pwr.trip ∧ (s.regs.rising → u.reg (pg 0x00 + 0x108) = 3 ∧ u.reg (pg 0x79 + 0x140) = w32 (2 ^ 31 + cause) ∧ u.reg (pg 0x79 + 0x144) = w32 info))) ∧
  (∀ (s : State) (t : Nat), (s.held = true ∨ s.nextPhase = none → exec (.phaseEnd t) s = .next (s.at_ t)) ∧
    (∀ p, s.held = false → s.nextPhase = some p → ∃ u : State, exec (.phaseEnd t) s = .next u ∧
      u = { s.at_ t with start := p, phaseAt := (s.at_ t).clk, phaseDone := false, regs := u.regs, fns := u.fns, out := u.out } ∧ s.start.val + 1 = p.val ∧
      (s.regs.rising → u.reg (pg 0x00 + 0x110 + 4 * (s.start.val - 2)) = w32 (((s.at_ t).clk - s.phaseAt) / 1000000)))) ∧
  (∀ (s : State) (die t : Nat), (s.fusedDies ≤ die → exec (.netRefclkLoss die t) s = .next (s.at_ t) ∧ exec (.dieToDieLinkLoss die) s = .next s) ∧
    (die < s.fusedDies → s.keysRise →
      (∃ u : State, exec (.netRefclkLoss die t) s = .next u ∧ (∀ n, n / 2 = die → (u.netPort n).up = false ∧ (u.netPort n).lost = (s.netPort n).lost) ∧
        ∀ n, n / 2 ≠ die → u.netPort n = s.netPort n) ∧
      (∃ u : State, exec (.dieToDieLinkLoss die) s = .next u ∧ (∀ n, n / 2 = die → (u.netPort n).lost = true) ∧ ∀ n, n / 2 ≠ die → u.netPort n = s.netPort n)))

/-- 01 R29 to R32; 04 R147; 18 R616, R617, R627 to R632; 15 R544: a valid frame joins the last 64, and none changes the power
step itself; above the limit the engine clock steps down, at its floor the PSA and nothing else; 1 ms below 97 % gives one
step back; lost telemetry or VRM_HOT_L forces steps; each hot sample raises the temperature step to at most 8; a refresh is
doubled above 85 degrees until it falls below 82; two samples with a sensor at its trip point are FATAL. MCTP control
messages are answered, platform events leave oldest first. (One action for each sample, and what a control answer holds
beyond its first two bytes, are the model's choice: log entries 69 and 71.) -/
def Obligations.PowerAndTemperatureGovern : Prop :=
  (∀ (s : State) (t mv : Nat) (rails temps : List Nat) (ma : Nat), s.pwrOn = false →
    exec (.telemetryFrame t rails ma) s = .next (s.at_ t) ∧ exec (.powerSample t mv) s = .next (s.at_ t) ∧ exec (.clockRaise t) s = .next (s.at_ t) ∧
    exec (.telemetryLoss t) s = .next (s.at_ t) ∧ (s.pwr.trip = false → exec (.tempSample t temps) s = .next (s.at_ t))) ∧
  (∀ (s : State) (t ma : Nat) (rails : List Nat), s.pwrOn = true → ∃ p : Pwr, exec (.telemetryFrame t rails ma) s = .next { s.at_ t with pwr := p } ∧
    p.frames = (rails.sum :: s.pwr.frames).take 64 ∧ p.frameAt = some (s.at_ t).clk ∧ p.tlmOk = true ∧ p.coreMa = ma ∧
    p.energy = s.pwr.energy + rails.sum + s.auxMw ∧ p.powerStep = s.pwr.powerStep ∧ p.tempStep = s.pwr.tempStep ∧ p.temps = s.pwr.temps ∧
    (p.forced = true ↔ s.pwr.forced = true ∧ ∀ a, s.pwr.vrmHot = false → s.pwr.okSince = some a → (s.at_ t).clk < a + 1000000)) ∧
  (∀ (s : State) (t mv : Nat), s.pwrOn = true → 600 ≤ mv → mv ≤ 900 →
    (s.pwr.forced = false → s.avgMw ≤ s.limitMw → ∃ u : State, exec (.powerSample t mv) s = .next u ∧ u.brn = s.brn ∧ u.psa = s.psa ∧ u.hlt = s.hlt ∧
      u.pwr.powerStep = s.pwr.powerStep ∧ u.ras = s.ras ∧
      u.pwr.lowSince = if s.avgMw * 100 < s.limitMw * 97 then some (s.pwr.lowSince.getD (s.at_ t).clk) else none) ∧
    (s.pwr.forced = true ∨ s.limitMw < s.avgMw →
      (s.brn.step ≠ 8 → s.pwr.powerStep < 8 → ∃ u : State, exec (.powerSample t mv) s = .next u ∧ u.pwr.powerStep = s.pwr.powerStep + 1 ∧
        u.pwr.lowSince = none ∧ u.psa = s.psa ∧ u.reg (pg 0x7C + 0x180) = satAdd (s.reg (pg 0x7C + 0x180)) 1 ∧ u.ras = s.ras) ∧
      (s.brn.step = 8 → s.psa.powerLevel < 3 → ∃ u : State, exec (.powerSample t mv) s = .next u ∧ u.pwr.powerStep = s.pwr.powerStep ∧
        u.pwr.lowSince = none ∧ u.brn = s.brn ∧ u.psa = { s.psa with powerLevel := s.psa.powerLevel + 1, slots := (s.at_ t).psaSlots, slotsAt := (s.at_ t).clk } ∧
        u.ras = s.ras) ∧
      (s.brn.step ≠ 8 → 8 ≤ s.pwr.powerStep → ∃ u : State, exec (.powerSample t mv) s = .next u ∧ u.pwr.powerStep = s.pwr.powerStep ∧
        u.pwr.lowSince = none ∧ u.brn = s.brn ∧ u.psa = s.psa ∧ u.ras = s.ras) ∧
      (s.brn.step = 8 → 3 ≤ s.psa.powerLevel → ∃ u : State, exec (.powerSample t mv) s = .next u ∧ u.pwr.powerStep = s.pwr.powerStep ∧
        u.brn = s.brn ∧ u.psa = s.psa ∧ u.ras = s.ras))) ∧
  (∀ (s : State) (t mv a : Nat), s.pwrOn = true → mv < 600 ∨ 900 < mv → s.pwr.senseBad = some a → a + 10000 ≤ (s.at_ t).clk → s.ras.fatal = none →
    ∃ u : State, exec (.powerSample t mv) s = .next u ∧ u.ras.fatal = some (0x10, mv, (s.at_ t).clk)) ∧
  (∀ (s : State) (t : Nat), (s.pwr.lowSince = none → exec (.clockRaise t) s = .next (s.at_ t)) ∧
    (∀ a, s.pwr.lowSince = some a → (s.at_ t).clk < a + 1000000 → exec (.clockRaise t) s = .next (s.at_ t)) ∧
    (∀ a, s.pwr.lowSince = some a → s.pwrOn = true → a + 1000000 ≤ (s.at_ t).clk →
      (0 < s.psa.powerLevel → ∃ u : State, exec (.clockRaise t) s = .next u ∧ u.psa = { s.psa with powerLevel := s.psa.powerLevel - 1, slots := (s.at_ t).psaSlots, slotsAt := (s.at_ t).clk } ∧
        u.pwr.powerStep = s.pwr.powerStep ∧ u.brn = s.brn) ∧
      (s.psa.powerLevel = 0 → 0 < s.pwr.powerStep → ∃ u : State, exec (.clockRaise t) s = .next u ∧ u.psa = s.psa ∧
        u.pwr.powerStep + 1 = s.pwr.powerStep ∧ u.pwr.tempStep = s.pwr.tempStep) ∧
      (s.psa.powerLevel = 0 → s.pwr.powerStep = 0 → exec (.clockRaise t) s =
        .next { s.at_ t with pwr := { s.pwr with lowSince := some (s.at_ t).clk } }))) ∧
  (∀ (s : State) (t : Nat), s.pwrOn = true →
    ((s.at_ t).clk < s.pwr.frameAt.getD s.resetAt + 16000 → exec (.telemetryLoss t) s = .next (s.at_ t)) ∧
    (s.pwr.tlmOk = false → s.pwr.forced = true → exec (.telemetryLoss t) s = .next (s.at_ t)) ∧
    (s.pwr.frameAt.getD s.resetAt + 16000 ≤ (s.at_ t).clk → s.pwr.tlmOk = true ∨ s.pwr.forced = false → ∃ u : State, exec (.telemetryLoss t) s = .next u ∧
      u.pwr = { s.pwr with tlmOk := false, forced := true, okSince := none } ∧ u.reg (pg 0x7C + 0x18C) = satAdd (s.reg (pg 0x7C + 0x18C)) 1 ∧
      sameRegsBut s u [pg 0x7C + 0x18C, pg 0x7C + 0x10])) ∧
  (∀ (s : State), (s.pwr.vrmHot = false → ∃ u : State, exec (.vrmHotL true) s = .next u ∧ u.pwr = { s.pwr with vrmHot := true, forced := true, okSince := none } ∧
      u.reg (pg 0x7C + 0x188) = satAdd (s.reg (pg 0x7C + 0x188)) 1 ∧ sameRegsBut s u [pg 0x7C + 0x188, pg 0x7C + 0x10]) ∧
    (s.pwr.vrmHot = true → exec (.vrmHotL true) s = .next { s with pwr := { s.pwr with forced := true, okSince := none } }) ∧
    exec (.vrmHotL false) s = .next { s with pwr := { s.pwr with vrmHot := false, okSince := if s.pwr.tlmOk then some s.clk else none } }) ∧
  (∀ (s : State) (t : Nat) (temps : List Nat), s.pwrOn = true → ∀ v, v = s.sampleTemps temps →
    ∃ u : State, exec (.tempSample t temps) s = .next u ∧ u.pwr.temps = v ∧ u.pwr.powerStep = s.pwr.powerStep ∧ u.psa = s.psa ∧
      u.pwr.tempStep ≤ max s.pwr.tempStep 8 ∧
      (∀ i, i ∈ u.pwr.doubled ↔ i < 40 ∧ 20 ≤ i ∧ i < 32 ∧ (85 < v.getD i 0 ∨ (i ∈ s.pwr.doubled ∧ 82 ≤ v.getD i 0))) ∧
      (bit (s.cfgReg (pg 0x7C + 0x100)) 0 = true → ∀ h, h = (v.take 16).foldl max 0 →
        (s.cfgFld (pg 0x7C + 0x108) 8 8 ≤ h → u.pwr.tempStep = if s.pwr.tempStep < 8 then s.pwr.tempStep + 1 else s.pwr.tempStep) ∧
        (s.cfgFld (pg 0x7C + 0x108) 8 8 - s.cfgFld (pg 0x7C + 0x108) 0 4 ≤ h → h < s.cfgFld (pg 0x7C + 0x108) 8 8 → u.pwr.tempStep = s.pwr.tempStep) ∧
        (h < s.cfgFld (pg 0x7C + 0x108) 8 8 - s.cfgFld (pg 0x7C + 0x108) 0 4 →
          u.pwr.tempStep = match s.pwr.coolSince with
            | none => s.pwr.tempStep
            | some a => if a + 1000000 ≤ (s.at_ t).clk then s.pwr.tempStep - 1 else s.pwr.tempStep)) ∧
      (bit (s.cfgReg (pg 0x7C + 0x100)) 0 = false → u.pwr.tempStep = 0) ∧
      (hotSensors v = [] ∨ s.pwr.hot = [] → u.ras.fatal = s.ras.fatal ∧ u.pwr.trip = s.pwr.trip) ∧
      (∀ i, (hotSensors v).head? = some i → s.pwr.hot ≠ [] → u.pwr.trip = true ∧ u.ras.fatal = some (0x11, v.getD i 0, (s.at_ t).clk))) ∧
  (∀ (s : State) (t : Nat) (temps : List Nat), s.pwr.trip = true → s.ras.fatal = none →
    ((∀ x ∈ s.sampleTemps temps, x ≤ 95) → exec (.tempSample t temps) s =
      .next { s.at_ t with pwr := { s.pwr with temps := s.sampleTemps temps, trip := false }, resetAt := (s.at_ t).clk, phaseAt := (s.at_ t).clk }) ∧
    ((∃ x ∈ s.sampleTemps temps, 95 < x) → exec (.tempSample t temps) s = .next { s.at_ t with pwr := { s.pwr with temps := s.sampleTemps temps } })) ∧
  (∀ (s : State) (t : Nat) (temps : List Nat), s.pwr.trip = true → s.ras.fatal.isSome = true →
    exec (.tempSample t temps) s = .next { s.at_ t with pwr := { s.pwr with temps := s.sampleTemps temps } }) ∧
  (∀ (s : State) (c : Nat) (msg : List Byte), (s.start = .verify ∨ s.held = true → exec (.mctpControlMessage c msg) s = .next s) ∧
    (s.start ≠ .verify → s.held = false → ∃ bs n, exec (.mctpControlMessage c msg) s =
      .next { s with free := n, out := .mctp 0 ([BitVec.ofNat 8 c, 0] ++ bs) :: s.out })) ∧
  (∀ (s : State), (s.ras.plat = [] ∨ s.mctpOn = false → exec .pldmPlatformEvent s = .next s) ∧
    (∀ r rest, s.ras.plat = r :: rest → s.mctpOn = true → exec .pldmPlatformEvent s =
      .next { s with ras := { s.ras with plat := rest }, out := .mctp 1 (bytesOf (s.rasWords r)) :: s.out }))

/-! ### The machine -/

/-- The queue of waiting commands: a step runs the command at the front of the queue on the state with the queue's rest, an empty
queue changes nothing, and every command answers a next state on every state. (The block has no clock of its own: a row whose
condition lies in time carries the device time at which it happens. These are the model's choices, log entries 1 and 2.) -/
def Obligations.StepRunsTheFrontCommand : Prop :=
  (∀ (s : State) (c : Instr) (r : List Instr), step { s with pending := c :: r } = exec c { s with pending := r }) ∧
  (∀ s : State, s.pending = [] → step s = .next s) ∧
  (∀ (c : Instr) (s : State), ∃ u : State, exec c s = .next u)

/-- 17 R602, R605; 02 R51; 12 R433; 13 R480; 16 R575: after reset the phase is VERIFY, every register reads its
reset value, the stroke timer is ACQUIRING with no stroke, no queue set is enabled, no connection is set up, nothing waits, and every
memory and table has its form. (Which command comes first is the sender's.) -/
def Obligations.ResetStateIsAsStated : Prop :=
  State.reset.pending = [] ∧ State.reset.start = .verify ∧ State.reset.held = false ∧
  (∀ a, State.reset.reg a = regReset a ∧ State.reset.cfgReg a = regReset a ∧ State.reset.pendReg a = regReset a) ∧
  State.reset.stk.sync = .acquiring ∧ State.reset.stk.running = false ∧ State.reset.stk.insts = [] ∧ State.reset.stk.progs = [] ∧
  (∀ p q, (State.reset.qset p q).state = .disabled) ∧ (∀ q, (State.reset.ctx q).state = .reset) ∧ (∀ n, (State.reset.netPort n).up = false) ∧
  State.reset.que.live = [] ∧ (∀ n, (State.reset.slot n).state = .free) ∧ State.reset.cfg.edition = 0 ∧ State.reset.cfg.armed = none ∧
  State.reset.ras.log = [] ∧ State.reset.ras.fatal = none ∧ State.reset.hlt.dead = [] ∧ State.reset.out = [] ∧
  State.reset.memOk = true ∧ State.reset.keysRise

/-- 15 R541, R542; 16 R578; 02 R44; 17 R592, R597, R605: what every step keeps. Every byte memory stays in its canonical form and
every table in the order of its keys; device time never falls; only FUSE_DONE changes the fuses, and only one way; unless a
reset can start the device over, the phase never goes back, a failed stack stays failed and the stroke number never falls; and
only the commands named change the active and the previous set of configuration values, the edition, what is armed and the stroke.
(That device time never falls is the model's choice, log entry 2.) -/
def Obligations.EveryStepKeeps : Prop :=
  ∀ s u : State, s.memOk = true → s.keysRise → step s = .next u →
    u.memOk = true ∧ u.keysRise ∧ s.clk ≤ u.clk ∧ s.sec.fuse.keeps u.sec.fuse ∧
    ∀ c r, s.pending = c :: r → u.pending = r ∧
      ((∀ t, c ≠ .fuseDone t) → u.sec.fuse = s.sec.fuse) ∧
      (mayReset c = false → s.start.val ≤ u.start.val ∧ s.hlt.dead <+: u.hlt.dead ∧
        (s.stk.running = true → u.stk.running = true ∧ s.stk.stroke ≤ u.stk.stroke)) ∧
      (mayReplace c = false → u.act = s.act ∧ u.prev = s.prev ∧ u.cfg.edition = s.cfg.edition ∧ u.cfg.armed = s.cfg.armed ∧
        u.stk.running = s.stk.running ∧ u.stk.stroke = s.stk.stroke ∧ u.stk.boundary = s.stk.boundary ∧ u.stk.take = s.stk.take)
end

