-- ==== Sys2Proof/Laws/Bits.lean ====
section
/-! SUPPORT. Laws of sparse tables and byte memories: a read after a write, and the canonical form that every
write keeps. -/

namespace Sys2Proof.Machine

variable {α : Type} [DecidableEq α]

/-- A lower bound may be weakened. -/
theorem swf_mono {d : α} {lo lo' : Nat} (h : lo' ≤ lo) : ∀ {l : Sparse α}, swf d lo l = true → swf d lo' l = true
  | [], _ => rfl
  | (k, v) :: r, hl => by
    simp only [swf, Bool.and_eq_true, decide_eq_true_eq] at hl ⊢
    exact ⟨⟨le_trans h hl.1.1, hl.1.2⟩, hl.2⟩

/-- A canonical table has nothing below its lower bound. -/
theorem sget_below {d : α} {lo k : Nat} (hk : k < lo) : ∀ {l : Sparse α}, swf d lo l = true → sget l d k = d
  | [], _ => rfl
  | (k', v) :: r, hl => by
    simp only [swf, Bool.and_eq_true, decide_eq_true_eq] at hl
    have h1 : k ≠ k' := by omega
    simp only [sget, h1, if_false]
    exact sget_below (lo := k' + 1) (by omega) hl.2

/-- A write keeps the canonical form. -/
theorem swf_sset {d : α} {lo k : Nat} (v : α) (hk : lo ≤ k) :
    ∀ {l : Sparse α}, swf d lo l = true → swf d lo (sset l d k v) = true
  | [], _ => by
    by_cases h : v = d <;> simp [sset, swf, h, hk]
  | (k', v') :: r, hl => by
    have hl' := hl
    simp only [swf, Bool.and_eq_true, decide_eq_true_eq] at hl
    by_cases h1 : k < k'
    · by_cases h : v = d
      · simpa [sset, h1, h] using hl'
      · simp only [sset, h1, if_true, h, if_false, swf, Bool.and_eq_true, decide_eq_true_eq]
        exact ⟨⟨hk, h⟩, ⟨by omega, hl.1.2⟩, hl.2⟩
    · by_cases h2 : k = k'
      · subst h2
        by_cases h : v = d
        · simp only [sset, Nat.lt_irrefl, if_false, if_true, h]
          exact swf_mono (by omega) hl.2
        · simp only [sset, Nat.lt_irrefl, if_false, if_true, h, swf, Bool.and_eq_true, decide_eq_true_eq]
          exact ⟨⟨hl.1.1, h⟩, hl.2⟩
      · simp only [sset, h1, if_false, h2, swf, Bool.and_eq_true, decide_eq_true_eq]
        exact ⟨hl.1, swf_sset v (by omega) hl.2⟩

/-- A read after a write of another key. -/
theorem sget_sset_ne {d e : α} {k j : Nat} (v : α) (h : j ≠ k) : ∀ {l : Sparse α},
    sget (sset l d k v) e j = sget l e j
  | [] => by by_cases hv : v = d <;> simp [sset, sget, hv, h]
  | (k', v') :: r => by
    by_cases h1 : k < k'
    · by_cases hv : v = d <;> simp [sset, sget, h1, hv, h]
    · by_cases h2 : k = k'
      · subst h2
        by_cases hv : v = d <;> simp [sset, sget, hv, h]
      · simp only [sset, h1, if_false, h2, sget, sget_sset_ne v h]

/-- A read after a write of the same key, of a value that is not the default. -/
theorem sget_sset_new {d : α} (k : Nat) {v : α} (hv : v ≠ d) : ∀ {l : Sparse α}, sget (sset l d k v) d k = v
  | [] => by simp [sset, sget, hv]
  | (k', v') :: r => by
    by_cases h1 : k < k'
    · simp [sset, sget, h1, hv]
    · by_cases h2 : k = k'
      · simp [sset, sget, h2, hv]
      · simp only [sset, h1, if_false, h2, sget, sget_sset_new k hv]

/-- A read after a write of the same key. -/
theorem sget_sset_eq {d : α} (k : Nat) (v : α) : ∀ {lo : Nat} {l : Sparse α}, swf d lo l = true →
    sget (sset l d k v) d k = v
  | _, [], _ => by by_cases hv : v = d <;> simp [sset, sget, hv]
  | _, (k', v') :: r, hl => by
    simp only [swf, Bool.and_eq_true, decide_eq_true_eq] at hl
    by_cases h1 : k < k'
    · by_cases hv : v = d
      · have := sget_below (d := d) (k := k) (l := r) (lo := k' + 1) (by omega) hl.2
        simp only [sset, h1, if_true, hv, sget]
        have h3 : k ≠ k' := by omega
        simp [h3, this]
      · simp [sset, sget, h1, hv]
    · by_cases h2 : k = k'
      · subst h2
        by_cases hv : v = d
        · have := sget_below (d := d) (k := k) (l := r) (lo := k + 1) (by omega) hl.2
          simp [sset, hv, this]
        · simp [sset, sget, hv]
      · simp only [sset, h1, if_false, h2, sget, sget_sset_eq k v hl.2]

/-! ### Rising keys -/

omit [DecidableEq α] in
theorem rising_nil : Sparse.rising ([] : Sparse α) := List.Pairwise.nil

omit [DecidableEq α] in
theorem rising_filter (p : Nat × α → Bool) {l : Sparse α} (h : l.rising) : Sparse.rising (l.filter p) := List.Pairwise.filter p h

omit [DecidableEq α] in
theorem rising_map {β : Type} (f : Nat × α → Nat × β) (hf : ∀ e, (f e).1 = e.1) {l : Sparse α} (h : l.rising) :
    Sparse.rising (l.map f) := by
  unfold Sparse.rising at *
  rw [List.pairwise_map]
  exact h.imp (fun hab => by rw [hf, hf]; exact hab)

theorem mem_sset {d v : α} {k : Nat} : ∀ {l : Sparse α} {e : Nat × α}, e ∈ sset l d k v → e.1 = k ∨ e ∈ l
  | [], e, h => by
    by_cases hv : v = d
    · simp [sset, hv] at h
    · simp [sset, hv] at h; exact .inl (by rw [h])
  | (k', v') :: r, e, h => by
    by_cases h1 : k < k'
    · by_cases hv : v = d
      · simp only [sset, h1, hv, if_true] at h; exact .inr h
      · simp only [sset, h1, hv, if_true, if_false] at h
        rcases List.mem_cons.1 h with h | h
        · exact .inl (by rw [h])
        · exact .inr h
    · by_cases h2 : k = k'
      · by_cases hv : v = d
        · simp only [sset, h1, h2, hv, if_true, if_false, Nat.lt_irrefl] at h; exact .inr (List.mem_cons_of_mem _ h)
        · simp only [sset, h2, hv, if_true, if_false, Nat.lt_irrefl] at h
          rcases List.mem_cons.1 h with h | h
          · exact .inl (by rw [h, h2])
          · exact .inr (List.mem_cons_of_mem _ h)
      · simp only [sset, h1, h2, if_false] at h
        rcases List.mem_cons.1 h with h | h
        · exact .inr (by rw [h]; exact List.mem_cons_self)
        · rcases mem_sset h with h | h
          · exact .inl h
          · exact .inr (List.mem_cons_of_mem _ h)

/-- A write keeps the keys rising, whatever the default. -/
theorem rising_sset (d : α) (k : Nat) (v : α) : ∀ {l : Sparse α}, l.rising → Sparse.rising (sset l d k v)
  | [], _ => by by_cases hv : v = d <;> simp [sset, hv, Sparse.rising]
  | (k', v') :: r, h => by
    have h' := h
    unfold Sparse.rising at h
    rw [List.pairwise_cons] at h
    by_cases h1 : k < k'
    · by_cases hv : v = d
      · simp only [sset, h1, hv, if_true]; exact h'
      · simp only [sset, h1, hv, if_true, if_false]
        unfold Sparse.rising
        rw [List.pairwise_cons]
        refine ⟨fun e he => ?_, h'⟩
        rcases List.mem_cons.1 he with he | he
        · rw [he]; exact h1
        · exact Nat.lt_trans h1 (h.1 e he)
    · by_cases h2 : k = k'
      · by_cases hv : v = d
        · simp only [sset, h2, hv, if_true, if_false, Nat.lt_irrefl]; exact h.2
        · simp only [sset, h2, hv, if_true, if_false, Nat.lt_irrefl]
          unfold Sparse.rising
          rw [List.pairwise_cons]
          exact ⟨h.1, h.2⟩
      · simp only [sset, h1, h2, if_false]
        have ih := rising_sset d k v (l := r) h.2
        unfold Sparse.rising at ih ⊢
        rw [List.pairwise_cons]
        refine ⟨fun e he => ?_, ih⟩
        rcases mem_sset he with he | he
        · show k' < e.1; omega
        · exact h.1 e he

omit [DecidableEq α] in
theorem sget_absent {d : α} {k : Nat} : ∀ {l : Sparse α}, (∀ e ∈ l, e.1 ≠ k) → sget l d k = d
  | [], _ => rfl
  | (k', v') :: r, h => by
    have h1 : k ≠ k' := fun e => h (k', v') List.mem_cons_self e.symm
    simp only [sget, h1, if_false]
    exact sget_absent (fun e he => h e (List.mem_cons_of_mem _ he))

/-- A read after a write of the same key, in a table whose keys rise. -/
theorem sget_sset_self (d : α) (k : Nat) (v : α) : ∀ {l : Sparse α}, l.rising → sget (sset l d k v) d k = v
  | [], _ => by by_cases hv : v = d <;> simp [sset, sget, hv]
  | (k', v') :: r, h => by
    unfold Sparse.rising at h
    rw [List.pairwise_cons] at h
    by_cases h1 : k < k'
    · by_cases hv : v = d
      · have h3 : k ≠ k' := by omega
        have := sget_absent (d := d) (k := k) (l := r) (fun e he => by have := h.1 e he; simp only at this; omega)
        simp only [sset, h1, if_true, hv, sget, h3, if_false, this]
      · simp [sset, sget, h1, hv]
    · by_cases h2 : k = k'
      · subst h2
        by_cases hv : v = d
        · have := sget_absent (d := d) (k := k) (l := r) (fun e he => by have := h.1 e he; simp only at this; omega)
          simp [sset, hv, this]
        · simp [sset, sget, hv]
      · simp only [sset, h1, if_false, h2, sget, sget_sset_self d k v h.2]

/-- A range taken out keeps the canonical form. -/
theorem swf_filter {d : α} (p : Nat × α → Bool) : ∀ {lo : Nat} {l : Sparse α}, swf d lo l = true →
    swf d lo (l.filter p) = true
  | _, [], _ => rfl
  | lo, (k, v) :: r, hl => by
    simp only [swf, Bool.and_eq_true, decide_eq_true_eq] at hl
    have hr := swf_filter p hl.2
    by_cases hp : p (k, v) = true
    · simp only [List.filter_cons, hp, if_true, swf, Bool.and_eq_true, decide_eq_true_eq]
      exact ⟨hl.1, hr⟩
    · simp only [List.filter_cons, hp]
      exact swf_mono (by omega) hr

/-! ### Byte memories -/

theorem Mem.wf_wr {m : Mem} (a : Nat) (b : Byte) (h : m.wf = true) : (m.wr a b).wf = true :=
  swf_sset b (Nat.zero_le a) h

theorem Mem.wf_wrBytes : ∀ (bs : List Byte) (m : Mem) (a : Nat), m.wf = true → (m.wrBytes a bs).wf = true
  | [], _, _, h => h
  | b :: bs, m, a, h => Mem.wf_wrBytes bs (m.wr a b) (a + 1) (Mem.wf_wr a b h)

theorem Mem.wf_clear {m : Mem} (a n : Nat) (h : m.wf = true) : (m.clear a n).wf = true := swf_filter _ h

theorem Mem.wf_filter {m : Mem} (p : Host.Cell → Bool) (h : m.wf = true) : Mem.wf (m.filter p) = true := swf_filter p h

/-- A byte read after a byte written: that byte, or what was there. -/
theorem Mem.rd_wr {m : Mem} (h : m.wf = true) (a j : Nat) (b : Byte) :
    (m.wr a b).rd j = if j = a then b else m.rd j := by
  by_cases hj : j = a
  · subst hj; simp only [if_true]; exact sget_sset_eq j b h
  · simp only [hj, if_false]; exact sget_sset_ne b hj

/-- A byte read after bytes written: one of them inside the range, what was there outside. -/
theorem Mem.rd_wrBytes : ∀ (bs : List Byte) (m : Mem) (a j : Nat), m.wf = true →
    (m.wrBytes a bs).rd j = if a ≤ j ∧ j < a + bs.length then bs.getD (j - a) 0 else m.rd j
  | [], m, a, j, _ => by
    simp [Mem.wrBytes]
  | b :: bs, m, a, j, h => by
    simp only [Mem.wrBytes]
    rw [Mem.rd_wrBytes bs (m.wr a b) (a + 1) j (Mem.wf_wr a b h), Mem.rd_wr h]
    by_cases h1 : j = a
    · subst h1
      simp
    · by_cases h2 : a ≤ j ∧ j < a + (b :: bs).length
      · have h3 : a + 1 ≤ j ∧ j < a + 1 + bs.length := by
          simp only [List.length_cons] at h2; omega
        rw [if_pos h3, if_pos h2]
        obtain ⟨k, rfl⟩ : ∃ k, j = a + 1 + k := ⟨j - (a + 1), by omega⟩
        have e1 : a + 1 + k - a = k + 1 := by omega
        have e2 : a + 1 + k - (a + 1) = k := by omega
        simp [e1, e2]
      · have h3 : ¬ (a + 1 ≤ j ∧ j < a + 1 + bs.length) := by
          simp only [List.length_cons] at h2; omega
        rw [if_neg h3, if_neg h2, if_neg h1]

end Sys2Proof.Machine
end

