-- ==== Sys2Proof/Laws/State.lean ====
section
/-! SUPPORT. Field lemmas of the updates of State: what each update leaves as it was, field by field. -/

namespace Sys2Proof.Machine

@[simp] theorem State.setReg_pending (s : State) (a : Nat) (v : Word) : (s.setReg a v).pending = s.pending := rfl
@[simp] theorem State.setReg_clk (s : State) (a : Nat) (v : Word) : (s.setReg a v).clk = s.clk := rfl
@[simp] theorem State.setReg_resetAt (s : State) (a : Nat) (v : Word) : (s.setReg a v).resetAt = s.resetAt := rfl
@[simp] theorem State.setReg_part (s : State) (a : Nat) (v : Word) : (s.setReg a v).part = s.part := rfl
@[simp] theorem State.setReg_free (s : State) (a : Nat) (v : Word) : (s.setReg a v).free = s.free := rfl
@[simp] theorem State.setReg_out (s : State) (a : Nat) (v : Word) : (s.setReg a v).out = s.out := rfl
@[simp] theorem State.setReg_act (s : State) (a : Nat) (v : Word) : (s.setReg a v).act = s.act := rfl
@[simp] theorem State.setReg_pend (s : State) (a : Nat) (v : Word) : (s.setReg a v).pend = s.pend := rfl
@[simp] theorem State.setReg_prev (s : State) (a : Nat) (v : Word) : (s.setReg a v).prev = s.prev := rfl
@[simp] theorem State.setReg_latch (s : State) (a : Nat) (v : Word) : (s.setReg a v).latch = s.latch := rfl
@[simp] theorem State.setReg_host0 (s : State) (a : Nat) (v : Word) : (s.setReg a v).host0 = s.host0 := rfl
@[simp] theorem State.setReg_host1 (s : State) (a : Nat) (v : Word) : (s.setReg a v).host1 = s.host1 := rfl
@[simp] theorem State.setReg_bad (s : State) (a : Nat) (v : Word) : (s.setReg a v).bad = s.bad := rfl
@[simp] theorem State.setReg_page (s : State) (a : Nat) (v : Word) : (s.setReg a v).page = s.page := rfl
@[simp] theorem State.setReg_cxl (s : State) (a : Nat) (v : Word) : (s.setReg a v).cxl = s.cxl := rfl
@[simp] theorem State.setReg_start (s : State) (a : Nat) (v : Word) : (s.setReg a v).start = s.start := rfl
@[simp] theorem State.setReg_phaseDone (s : State) (a : Nat) (v : Word) : (s.setReg a v).phaseDone = s.phaseDone := rfl
@[simp] theorem State.setReg_phaseAt (s : State) (a : Nat) (v : Word) : (s.setReg a v).phaseAt = s.phaseAt := rfl
@[simp] theorem State.setReg_que (s : State) (a : Nat) (v : Word) : (s.setReg a v).que = s.que := rfl
@[simp] theorem State.setReg_dma (s : State) (a : Nat) (v : Word) : (s.setReg a v).dma = s.dma := rfl
@[simp] theorem State.setReg_port0 (s : State) (a : Nat) (v : Word) : (s.setReg a v).port0 = s.port0 := rfl
@[simp] theorem State.setReg_port1 (s : State) (a : Nat) (v : Word) : (s.setReg a v).port1 = s.port1 := rfl
@[simp] theorem State.setReg_ten (s : State) (a : Nat) (v : Word) : (s.setReg a v).ten = s.ten := rfl
@[simp] theorem State.setReg_cfg (s : State) (a : Nat) (v : Word) : (s.setReg a v).cfg = s.cfg := rfl
@[simp] theorem State.setReg_dir (s : State) (a : Nat) (v : Word) : (s.setReg a v).dir = s.dir := rfl
@[simp] theorem State.setReg_psa (s : State) (a : Nat) (v : Word) : (s.setReg a v).psa = s.psa := rfl
@[simp] theorem State.setReg_tier (s : State) (a : Nat) (v : Word) : (s.setReg a v).tier = s.tier := rfl
@[simp] theorem State.setReg_pfs (s : State) (a : Nat) (v : Word) : (s.setReg a v).pfs = s.pfs := rfl
@[simp] theorem State.setReg_npa (s : State) (a : Nat) (v : Word) : (s.setReg a v).npa = s.npa := rfl
@[simp] theorem State.setReg_brn (s : State) (a : Nat) (v : Word) : (s.setReg a v).brn = s.brn := rfl
@[simp] theorem State.setReg_stk (s : State) (a : Nat) (v : Word) : (s.setReg a v).stk = s.stk := rfl
@[simp] theorem State.setReg_net (s : State) (a : Nat) (v : Word) : (s.setReg a v).net = s.net := rfl
@[simp] theorem State.setReg_flm (s : State) (a : Nat) (v : Word) : (s.setReg a v).flm = s.flm := rfl
@[simp] theorem State.setReg_hlt (s : State) (a : Nat) (v : Word) : (s.setReg a v).hlt = s.hlt := rfl
@[simp] theorem State.setReg_sec (s : State) (a : Nat) (v : Word) : (s.setReg a v).sec = s.sec := rfl
@[simp] theorem State.setReg_pwr (s : State) (a : Nat) (v : Word) : (s.setReg a v).pwr = s.pwr := rfl
@[simp] theorem State.setReg_ras (s : State) (a : Nat) (v : Word) : (s.setReg a v).ras = s.ras := rfl
@[simp] theorem State.setReg_fns (s : State) (a : Nat) (v : Word) : (s.setReg a v).fns = s.fns := rfl

@[simp] theorem State.bump_pending (s : State) (a n : Nat) : (s.bump a n).pending = s.pending := rfl
@[simp] theorem State.bump_clk (s : State) (a n : Nat) : (s.bump a n).clk = s.clk := rfl
@[simp] theorem State.bump_resetAt (s : State) (a n : Nat) : (s.bump a n).resetAt = s.resetAt := rfl
@[simp] theorem State.bump_part (s : State) (a n : Nat) : (s.bump a n).part = s.part := rfl
@[simp] theorem State.bump_free (s : State) (a n : Nat) : (s.bump a n).free = s.free := rfl
@[simp] theorem State.bump_out (s : State) (a n : Nat) : (s.bump a n).out = s.out := rfl
@[simp] theorem State.bump_act (s : State) (a n : Nat) : (s.bump a n).act = s.act := rfl
@[simp] theorem State.bump_pend (s : State) (a n : Nat) : (s.bump a n).pend = s.pend := rfl
@[simp] theorem State.bump_prev (s : State) (a n : Nat) : (s.bump a n).prev = s.prev := rfl
@[simp] theorem State.bump_latch (s : State) (a n : Nat) : (s.bump a n).latch = s.latch := rfl
@[simp] theorem State.bump_host0 (s : State) (a n : Nat) : (s.bump a n).host0 = s.host0 := rfl
@[simp] theorem State.bump_host1 (s : State) (a n : Nat) : (s.bump a n).host1 = s.host1 := rfl
@[simp] theorem State.bump_bad (s : State) (a n : Nat) : (s.bump a n).bad = s.bad := rfl
@[simp] theorem State.bump_page (s : State) (a n : Nat) : (s.bump a n).page = s.page := rfl
@[simp] theorem State.bump_cxl (s : State) (a n : Nat) : (s.bump a n).cxl = s.cxl := rfl
@[simp] theorem State.bump_start (s : State) (a n : Nat) : (s.bump a n).start = s.start := rfl
@[simp] theorem State.bump_phaseDone (s : State) (a n : Nat) : (s.bump a n).phaseDone = s.phaseDone := rfl
@[simp] theorem State.bump_phaseAt (s : State) (a n : Nat) : (s.bump a n).phaseAt = s.phaseAt := rfl
@[simp] theorem State.bump_que (s : State) (a n : Nat) : (s.bump a n).que = s.que := rfl
@[simp] theorem State.bump_dma (s : State) (a n : Nat) : (s.bump a n).dma = s.dma := rfl
@[simp] theorem State.bump_port0 (s : State) (a n : Nat) : (s.bump a n).port0 = s.port0 := rfl
@[simp] theorem State.bump_port1 (s : State) (a n : Nat) : (s.bump a n).port1 = s.port1 := rfl
@[simp] theorem State.bump_ten (s : State) (a n : Nat) : (s.bump a n).ten = s.ten := rfl
@[simp] theorem State.bump_cfg (s : State) (a n : Nat) : (s.bump a n).cfg = s.cfg := rfl
@[simp] theorem State.bump_dir (s : State) (a n : Nat) : (s.bump a n).dir = s.dir := rfl
@[simp] theorem State.bump_psa (s : State) (a n : Nat) : (s.bump a n).psa = s.psa := rfl
@[simp] theorem State.bump_tier (s : State) (a n : Nat) : (s.bump a n).tier = s.tier := rfl
@[simp] theorem State.bump_pfs (s : State) (a n : Nat) : (s.bump a n).pfs = s.pfs := rfl
@[simp] theorem State.bump_npa (s : State) (a n : Nat) : (s.bump a n).npa = s.npa := rfl
@[simp] theorem State.bump_brn (s : State) (a n : Nat) : (s.bump a n).brn = s.brn := rfl
@[simp] theorem State.bump_stk (s : State) (a n : Nat) : (s.bump a n).stk = s.stk := rfl
@[simp] theorem State.bump_net (s : State) (a n : Nat) : (s.bump a n).net = s.net := rfl
@[simp] theorem State.bump_flm (s : State) (a n : Nat) : (s.bump a n).flm = s.flm := rfl
@[simp] theorem State.bump_hlt (s : State) (a n : Nat) : (s.bump a n).hlt = s.hlt := rfl
@[simp] theorem State.bump_sec (s : State) (a n : Nat) : (s.bump a n).sec = s.sec := rfl
@[simp] theorem State.bump_pwr (s : State) (a n : Nat) : (s.bump a n).pwr = s.pwr := rfl
@[simp] theorem State.bump_ras (s : State) (a n : Nat) : (s.bump a n).ras = s.ras := rfl
@[simp] theorem State.bump_fns (s : State) (a n : Nat) : (s.bump a n).fns = s.fns := rfl

@[simp] theorem State.atTime_pending (s : State) (t : Nat) : (s.at_ t).pending = s.pending := rfl
@[simp] theorem State.atTime_resetAt (s : State) (t : Nat) : (s.at_ t).resetAt = s.resetAt := rfl
@[simp] theorem State.atTime_part (s : State) (t : Nat) : (s.at_ t).part = s.part := rfl
@[simp] theorem State.atTime_free (s : State) (t : Nat) : (s.at_ t).free = s.free := rfl
@[simp] theorem State.atTime_out (s : State) (t : Nat) : (s.at_ t).out = s.out := rfl
@[simp] theorem State.atTime_regs (s : State) (t : Nat) : (s.at_ t).regs = s.regs := rfl
@[simp] theorem State.atTime_act (s : State) (t : Nat) : (s.at_ t).act = s.act := rfl
@[simp] theorem State.atTime_pend (s : State) (t : Nat) : (s.at_ t).pend = s.pend := rfl
@[simp] theorem State.atTime_prev (s : State) (t : Nat) : (s.at_ t).prev = s.prev := rfl
@[simp] theorem State.atTime_latch (s : State) (t : Nat) : (s.at_ t).latch = s.latch := rfl
@[simp] theorem State.atTime_host0 (s : State) (t : Nat) : (s.at_ t).host0 = s.host0 := rfl
@[simp] theorem State.atTime_host1 (s : State) (t : Nat) : (s.at_ t).host1 = s.host1 := rfl
@[simp] theorem State.atTime_bad (s : State) (t : Nat) : (s.at_ t).bad = s.bad := rfl
@[simp] theorem State.atTime_page (s : State) (t : Nat) : (s.at_ t).page = s.page := rfl
@[simp] theorem State.atTime_cxl (s : State) (t : Nat) : (s.at_ t).cxl = s.cxl := rfl
@[simp] theorem State.atTime_start (s : State) (t : Nat) : (s.at_ t).start = s.start := rfl
@[simp] theorem State.atTime_phaseDone (s : State) (t : Nat) : (s.at_ t).phaseDone = s.phaseDone := rfl
@[simp] theorem State.atTime_phaseAt (s : State) (t : Nat) : (s.at_ t).phaseAt = s.phaseAt := rfl
@[simp] theorem State.atTime_que (s : State) (t : Nat) : (s.at_ t).que = s.que := rfl
@[simp] theorem State.atTime_dma (s : State) (t : Nat) : (s.at_ t).dma = s.dma := rfl
@[simp] theorem State.atTime_port0 (s : State) (t : Nat) : (s.at_ t).port0 = s.port0 := rfl
@[simp] theorem State.atTime_port1 (s : State) (t : Nat) : (s.at_ t).port1 = s.port1 := rfl
@[simp] theorem State.atTime_ten (s : State) (t : Nat) : (s.at_ t).ten = s.ten := rfl
@[simp] theorem State.atTime_cfg (s : State) (t : Nat) : (s.at_ t).cfg = s.cfg := rfl
@[simp] theorem State.atTime_dir (s : State) (t : Nat) : (s.at_ t).dir = s.dir := rfl
@[simp] theorem State.atTime_psa (s : State) (t : Nat) : (s.at_ t).psa = s.psa := rfl
@[simp] theorem State.atTime_tier (s : State) (t : Nat) : (s.at_ t).tier = s.tier := rfl
@[simp] theorem State.atTime_pfs (s : State) (t : Nat) : (s.at_ t).pfs = s.pfs := rfl
@[simp] theorem State.atTime_npa (s : State) (t : Nat) : (s.at_ t).npa = s.npa := rfl
@[simp] theorem State.atTime_brn (s : State) (t : Nat) : (s.at_ t).brn = s.brn := rfl
@[simp] theorem State.atTime_stk (s : State) (t : Nat) : (s.at_ t).stk = s.stk := rfl
@[simp] theorem State.atTime_net (s : State) (t : Nat) : (s.at_ t).net = s.net := rfl
@[simp] theorem State.atTime_flm (s : State) (t : Nat) : (s.at_ t).flm = s.flm := rfl
@[simp] theorem State.atTime_hlt (s : State) (t : Nat) : (s.at_ t).hlt = s.hlt := rfl
@[simp] theorem State.atTime_sec (s : State) (t : Nat) : (s.at_ t).sec = s.sec := rfl
@[simp] theorem State.atTime_pwr (s : State) (t : Nat) : (s.at_ t).pwr = s.pwr := rfl
@[simp] theorem State.atTime_ras (s : State) (t : Nat) : (s.at_ t).ras = s.ras := rfl
@[simp] theorem State.atTime_fns (s : State) (t : Nat) : (s.at_ t).fns = s.fns := rfl

@[simp] theorem State.send_pending (s : State) (o : Out) : (s.send o).pending = s.pending := rfl
@[simp] theorem State.send_clk (s : State) (o : Out) : (s.send o).clk = s.clk := rfl
@[simp] theorem State.send_resetAt (s : State) (o : Out) : (s.send o).resetAt = s.resetAt := rfl
@[simp] theorem State.send_part (s : State) (o : Out) : (s.send o).part = s.part := rfl
@[simp] theorem State.send_free (s : State) (o : Out) : (s.send o).free = s.free := rfl
@[simp] theorem State.send_regs (s : State) (o : Out) : (s.send o).regs = s.regs := rfl
@[simp] theorem State.send_act (s : State) (o : Out) : (s.send o).act = s.act := rfl
@[simp] theorem State.send_pend (s : State) (o : Out) : (s.send o).pend = s.pend := rfl
@[simp] theorem State.send_prev (s : State) (o : Out) : (s.send o).prev = s.prev := rfl
@[simp] theorem State.send_latch (s : State) (o : Out) : (s.send o).latch = s.latch := rfl
@[simp] theorem State.send_host0 (s : State) (o : Out) : (s.send o).host0 = s.host0 := rfl
@[simp] theorem State.send_host1 (s : State) (o : Out) : (s.send o).host1 = s.host1 := rfl
@[simp] theorem State.send_bad (s : State) (o : Out) : (s.send o).bad = s.bad := rfl
@[simp] theorem State.send_page (s : State) (o : Out) : (s.send o).page = s.page := rfl
@[simp] theorem State.send_cxl (s : State) (o : Out) : (s.send o).cxl = s.cxl := rfl
@[simp] theorem State.send_start (s : State) (o : Out) : (s.send o).start = s.start := rfl
@[simp] theorem State.send_phaseDone (s : State) (o : Out) : (s.send o).phaseDone = s.phaseDone := rfl
@[simp] theorem State.send_phaseAt (s : State) (o : Out) : (s.send o).phaseAt = s.phaseAt := rfl
@[simp] theorem State.send_que (s : State) (o : Out) : (s.send o).que = s.que := rfl
@[simp] theorem State.send_dma (s : State) (o : Out) : (s.send o).dma = s.dma := rfl
@[simp] theorem State.send_port0 (s : State) (o : Out) : (s.send o).port0 = s.port0 := rfl
@[simp] theorem State.send_port1 (s : State) (o : Out) : (s.send o).port1 = s.port1 := rfl
@[simp] theorem State.send_ten (s : State) (o : Out) : (s.send o).ten = s.ten := rfl
@[simp] theorem State.send_cfg (s : State) (o : Out) : (s.send o).cfg = s.cfg := rfl
@[simp] theorem State.send_dir (s : State) (o : Out) : (s.send o).dir = s.dir := rfl
@[simp] theorem State.send_psa (s : State) (o : Out) : (s.send o).psa = s.psa := rfl
@[simp] theorem State.send_tier (s : State) (o : Out) : (s.send o).tier = s.tier := rfl
@[simp] theorem State.send_pfs (s : State) (o : Out) : (s.send o).pfs = s.pfs := rfl
@[simp] theorem State.send_npa (s : State) (o : Out) : (s.send o).npa = s.npa := rfl
@[simp] theorem State.send_brn (s : State) (o : Out) : (s.send o).brn = s.brn := rfl
@[simp] theorem State.send_stk (s : State) (o : Out) : (s.send o).stk = s.stk := rfl
@[simp] theorem State.send_net (s : State) (o : Out) : (s.send o).net = s.net := rfl
@[simp] theorem State.send_flm (s : State) (o : Out) : (s.send o).flm = s.flm := rfl
@[simp] theorem State.send_hlt (s : State) (o : Out) : (s.send o).hlt = s.hlt := rfl
@[simp] theorem State.send_sec (s : State) (o : Out) : (s.send o).sec = s.sec := rfl
@[simp] theorem State.send_pwr (s : State) (o : Out) : (s.send o).pwr = s.pwr := rfl
@[simp] theorem State.send_ras (s : State) (o : Out) : (s.send o).ras = s.ras := rfl
@[simp] theorem State.send_fns (s : State) (o : Out) : (s.send o).fns = s.fns := rfl

@[simp] theorem State.setQset_pending (s : State) (p q : Nat) (v : QSet) : (s.setQset p q v).pending = s.pending := rfl
@[simp] theorem State.setQset_clk (s : State) (p q : Nat) (v : QSet) : (s.setQset p q v).clk = s.clk := rfl
@[simp] theorem State.setQset_resetAt (s : State) (p q : Nat) (v : QSet) : (s.setQset p q v).resetAt = s.resetAt := rfl
@[simp] theorem State.setQset_part (s : State) (p q : Nat) (v : QSet) : (s.setQset p q v).part = s.part := rfl
@[simp] theorem State.setQset_free (s : State) (p q : Nat) (v : QSet) : (s.setQset p q v).free = s.free := rfl
@[simp] theorem State.setQset_out (s : State) (p q : Nat) (v : QSet) : (s.setQset p q v).out = s.out := rfl
@[simp] theorem State.setQset_regs (s : State) (p q : Nat) (v : QSet) : (s.setQset p q v).regs = s.regs := rfl
@[simp] theorem State.setQset_act (s : State) (p q : Nat) (v : QSet) : (s.setQset p q v).act = s.act := rfl
@[simp] theorem State.setQset_pend (s : State) (p q : Nat) (v : QSet) : (s.setQset p q v).pend = s.pend := rfl
@[simp] theorem State.setQset_prev (s : State) (p q : Nat) (v : QSet) : (s.setQset p q v).prev = s.prev := rfl
@[simp] theorem State.setQset_latch (s : State) (p q : Nat) (v : QSet) : (s.setQset p q v).latch = s.latch := rfl
@[simp] theorem State.setQset_host0 (s : State) (p q : Nat) (v : QSet) : (s.setQset p q v).host0 = s.host0 := rfl
@[simp] theorem State.setQset_host1 (s : State) (p q : Nat) (v : QSet) : (s.setQset p q v).host1 = s.host1 := rfl
@[simp] theorem State.setQset_bad (s : State) (p q : Nat) (v : QSet) : (s.setQset p q v).bad = s.bad := rfl
@[simp] theorem State.setQset_page (s : State) (p q : Nat) (v : QSet) : (s.setQset p q v).page = s.page := rfl
@[simp] theorem State.setQset_cxl (s : State) (p q : Nat) (v : QSet) : (s.setQset p q v).cxl = s.cxl := rfl
@[simp] theorem State.setQset_start (s : State) (p q : Nat) (v : QSet) : (s.setQset p q v).start = s.start := rfl
@[simp] theorem State.setQset_phaseDone (s : State) (p q : Nat) (v : QSet) : (s.setQset p q v).phaseDone = s.phaseDone := rfl
@[simp] theorem State.setQset_phaseAt (s : State) (p q : Nat) (v : QSet) : (s.setQset p q v).phaseAt = s.phaseAt := rfl
@[simp] theorem State.setQset_dma (s : State) (p q : Nat) (v : QSet) : (s.setQset p q v).dma = s.dma := rfl
@[simp] theorem State.setQset_port0 (s : State) (p q : Nat) (v : QSet) : (s.setQset p q v).port0 = s.port0 := rfl
@[simp] theorem State.setQset_port1 (s : State) (p q : Nat) (v : QSet) : (s.setQset p q v).port1 = s.port1 := rfl
@[simp] theorem State.setQset_ten (s : State) (p q : Nat) (v : QSet) : (s.setQset p q v).ten = s.ten := rfl
@[simp] theorem State.setQset_cfg (s : State) (p q : Nat) (v : QSet) : (s.setQset p q v).cfg = s.cfg := rfl
@[simp] theorem State.setQset_dir (s : State) (p q : Nat) (v : QSet) : (s.setQset p q v).dir = s.dir := rfl
@[simp] theorem State.setQset_psa (s : State) (p q : Nat) (v : QSet) : (s.setQset p q v).psa = s.psa := rfl
@[simp] theorem State.setQset_tier (s : State) (p q : Nat) (v : QSet) : (s.setQset p q v).tier = s.tier := rfl
@[simp] theorem State.setQset_pfs (s : State) (p q : Nat) (v : QSet) : (s.setQset p q v).pfs = s.pfs := rfl
@[simp] theorem State.setQset_npa (s : State) (p q : Nat) (v : QSet) : (s.setQset p q v).npa = s.npa := rfl
@[simp] theorem State.setQset_brn (s : State) (p q : Nat) (v : QSet) : (s.setQset p q v).brn = s.brn := rfl
@[simp] theorem State.setQset_stk (s : State) (p q : Nat) (v : QSet) : (s.setQset p q v).stk = s.stk := rfl
@[simp] theorem State.setQset_net (s : State) (p q : Nat) (v : QSet) : (s.setQset p q v).net = s.net := rfl
@[simp] theorem State.setQset_flm (s : State) (p q : Nat) (v : QSet) : (s.setQset p q v).flm = s.flm := rfl
@[simp] theorem State.setQset_hlt (s : State) (p q : Nat) (v : QSet) : (s.setQset p q v).hlt = s.hlt := rfl
@[simp] theorem State.setQset_sec (s : State) (p q : Nat) (v : QSet) : (s.setQset p q v).sec = s.sec := rfl
@[simp] theorem State.setQset_pwr (s : State) (p q : Nat) (v : QSet) : (s.setQset p q v).pwr = s.pwr := rfl
@[simp] theorem State.setQset_ras (s : State) (p q : Nat) (v : QSet) : (s.setQset p q v).ras = s.ras := rfl
@[simp] theorem State.setQset_fns (s : State) (p q : Nat) (v : QSet) : (s.setQset p q v).fns = s.fns := rfl

@[simp] theorem State.setRr_pending (s : State) (p v : Nat) : (s.setRr p v).pending = s.pending := rfl
@[simp] theorem State.setRr_clk (s : State) (p v : Nat) : (s.setRr p v).clk = s.clk := rfl
@[simp] theorem State.setRr_resetAt (s : State) (p v : Nat) : (s.setRr p v).resetAt = s.resetAt := rfl
@[simp] theorem State.setRr_part (s : State) (p v : Nat) : (s.setRr p v).part = s.part := rfl
@[simp] theorem State.setRr_free (s : State) (p v : Nat) : (s.setRr p v).free = s.free := rfl
@[simp] theorem State.setRr_out (s : State) (p v : Nat) : (s.setRr p v).out = s.out := rfl
@[simp] theorem State.setRr_regs (s : State) (p v : Nat) : (s.setRr p v).regs = s.regs := rfl
@[simp] theorem State.setRr_act (s : State) (p v : Nat) : (s.setRr p v).act = s.act := rfl
@[simp] theorem State.setRr_pend (s : State) (p v : Nat) : (s.setRr p v).pend = s.pend := rfl
@[simp] theorem State.setRr_prev (s : State) (p v : Nat) : (s.setRr p v).prev = s.prev := rfl
@[simp] theorem State.setRr_latch (s : State) (p v : Nat) : (s.setRr p v).latch = s.latch := rfl
@[simp] theorem State.setRr_host0 (s : State) (p v : Nat) : (s.setRr p v).host0 = s.host0 := rfl
@[simp] theorem State.setRr_host1 (s : State) (p v : Nat) : (s.setRr p v).host1 = s.host1 := rfl
@[simp] theorem State.setRr_bad (s : State) (p v : Nat) : (s.setRr p v).bad = s.bad := rfl
@[simp] theorem State.setRr_page (s : State) (p v : Nat) : (s.setRr p v).page = s.page := rfl
@[simp] theorem State.setRr_cxl (s : State) (p v : Nat) : (s.setRr p v).cxl = s.cxl := rfl
@[simp] theorem State.setRr_start (s : State) (p v : Nat) : (s.setRr p v).start = s.start := rfl
@[simp] theorem State.setRr_phaseDone (s : State) (p v : Nat) : (s.setRr p v).phaseDone = s.phaseDone := rfl
@[simp] theorem State.setRr_phaseAt (s : State) (p v : Nat) : (s.setRr p v).phaseAt = s.phaseAt := rfl
@[simp] theorem State.setRr_dma (s : State) (p v : Nat) : (s.setRr p v).dma = s.dma := rfl
@[simp] theorem State.setRr_port0 (s : State) (p v : Nat) : (s.setRr p v).port0 = s.port0 := rfl
@[simp] theorem State.setRr_port1 (s : State) (p v : Nat) : (s.setRr p v).port1 = s.port1 := rfl
@[simp] theorem State.setRr_ten (s : State) (p v : Nat) : (s.setRr p v).ten = s.ten := rfl
@[simp] theorem State.setRr_cfg (s : State) (p v : Nat) : (s.setRr p v).cfg = s.cfg := rfl
@[simp] theorem State.setRr_dir (s : State) (p v : Nat) : (s.setRr p v).dir = s.dir := rfl
@[simp] theorem State.setRr_psa (s : State) (p v : Nat) : (s.setRr p v).psa = s.psa := rfl
@[simp] theorem State.setRr_tier (s : State) (p v : Nat) : (s.setRr p v).tier = s.tier := rfl
@[simp] theorem State.setRr_pfs (s : State) (p v : Nat) : (s.setRr p v).pfs = s.pfs := rfl
@[simp] theorem State.setRr_npa (s : State) (p v : Nat) : (s.setRr p v).npa = s.npa := rfl
@[simp] theorem State.setRr_brn (s : State) (p v : Nat) : (s.setRr p v).brn = s.brn := rfl
@[simp] theorem State.setRr_stk (s : State) (p v : Nat) : (s.setRr p v).stk = s.stk := rfl
@[simp] theorem State.setRr_net (s : State) (p v : Nat) : (s.setRr p v).net = s.net := rfl
@[simp] theorem State.setRr_flm (s : State) (p v : Nat) : (s.setRr p v).flm = s.flm := rfl
@[simp] theorem State.setRr_hlt (s : State) (p v : Nat) : (s.setRr p v).hlt = s.hlt := rfl
@[simp] theorem State.setRr_sec (s : State) (p v : Nat) : (s.setRr p v).sec = s.sec := rfl
@[simp] theorem State.setRr_pwr (s : State) (p v : Nat) : (s.setRr p v).pwr = s.pwr := rfl
@[simp] theorem State.setRr_ras (s : State) (p v : Nat) : (s.setRr p v).ras = s.ras := rfl
@[simp] theorem State.setRr_fns (s : State) (p v : Nat) : (s.setRr p v).fns = s.fns := rfl

@[simp] theorem State.setRunning_pending (s : State) (id : Nat) : (s.setRunning id).pending = s.pending := rfl
@[simp] theorem State.setRunning_clk (s : State) (id : Nat) : (s.setRunning id).clk = s.clk := rfl
@[simp] theorem State.setRunning_resetAt (s : State) (id : Nat) : (s.setRunning id).resetAt = s.resetAt := rfl
@[simp] theorem State.setRunning_part (s : State) (id : Nat) : (s.setRunning id).part = s.part := rfl
@[simp] theorem State.setRunning_free (s : State) (id : Nat) : (s.setRunning id).free = s.free := rfl
@[simp] theorem State.setRunning_out (s : State) (id : Nat) : (s.setRunning id).out = s.out := rfl
@[simp] theorem State.setRunning_regs (s : State) (id : Nat) : (s.setRunning id).regs = s.regs := rfl
@[simp] theorem State.setRunning_act (s : State) (id : Nat) : (s.setRunning id).act = s.act := rfl
@[simp] theorem State.setRunning_pend (s : State) (id : Nat) : (s.setRunning id).pend = s.pend := rfl
@[simp] theorem State.setRunning_prev (s : State) (id : Nat) : (s.setRunning id).prev = s.prev := rfl
@[simp] theorem State.setRunning_latch (s : State) (id : Nat) : (s.setRunning id).latch = s.latch := rfl
@[simp] theorem State.setRunning_host0 (s : State) (id : Nat) : (s.setRunning id).host0 = s.host0 := rfl
@[simp] theorem State.setRunning_host1 (s : State) (id : Nat) : (s.setRunning id).host1 = s.host1 := rfl
@[simp] theorem State.setRunning_bad (s : State) (id : Nat) : (s.setRunning id).bad = s.bad := rfl
@[simp] theorem State.setRunning_page (s : State) (id : Nat) : (s.setRunning id).page = s.page := rfl
@[simp] theorem State.setRunning_cxl (s : State) (id : Nat) : (s.setRunning id).cxl = s.cxl := rfl
@[simp] theorem State.setRunning_start (s : State) (id : Nat) : (s.setRunning id).start = s.start := rfl
@[simp] theorem State.setRunning_phaseDone (s : State) (id : Nat) : (s.setRunning id).phaseDone = s.phaseDone := rfl
@[simp] theorem State.setRunning_phaseAt (s : State) (id : Nat) : (s.setRunning id).phaseAt = s.phaseAt := rfl
@[simp] theorem State.setRunning_dma (s : State) (id : Nat) : (s.setRunning id).dma = s.dma := rfl
@[simp] theorem State.setRunning_port0 (s : State) (id : Nat) : (s.setRunning id).port0 = s.port0 := rfl
@[simp] theorem State.setRunning_port1 (s : State) (id : Nat) : (s.setRunning id).port1 = s.port1 := rfl
@[simp] theorem State.setRunning_ten (s : State) (id : Nat) : (s.setRunning id).ten = s.ten := rfl
@[simp] theorem State.setRunning_cfg (s : State) (id : Nat) : (s.setRunning id).cfg = s.cfg := rfl
@[simp] theorem State.setRunning_dir (s : State) (id : Nat) : (s.setRunning id).dir = s.dir := rfl
@[simp] theorem State.setRunning_psa (s : State) (id : Nat) : (s.setRunning id).psa = s.psa := rfl
@[simp] theorem State.setRunning_tier (s : State) (id : Nat) : (s.setRunning id).tier = s.tier := rfl
@[simp] theorem State.setRunning_pfs (s : State) (id : Nat) : (s.setRunning id).pfs = s.pfs := rfl
@[simp] theorem State.setRunning_npa (s : State) (id : Nat) : (s.setRunning id).npa = s.npa := rfl
@[simp] theorem State.setRunning_brn (s : State) (id : Nat) : (s.setRunning id).brn = s.brn := rfl
@[simp] theorem State.setRunning_stk (s : State) (id : Nat) : (s.setRunning id).stk = s.stk := rfl
@[simp] theorem State.setRunning_net (s : State) (id : Nat) : (s.setRunning id).net = s.net := rfl
@[simp] theorem State.setRunning_flm (s : State) (id : Nat) : (s.setRunning id).flm = s.flm := rfl
@[simp] theorem State.setRunning_hlt (s : State) (id : Nat) : (s.setRunning id).hlt = s.hlt := rfl
@[simp] theorem State.setRunning_sec (s : State) (id : Nat) : (s.setRunning id).sec = s.sec := rfl
@[simp] theorem State.setRunning_pwr (s : State) (id : Nat) : (s.setRunning id).pwr = s.pwr := rfl
@[simp] theorem State.setRunning_ras (s : State) (id : Nat) : (s.setRunning id).ras = s.ras := rfl
@[simp] theorem State.setRunning_fns (s : State) (id : Nat) : (s.setRunning id).fns = s.fns := rfl

@[simp] theorem State.dropLive_pending (s : State) (id : Nat) : (s.dropLive id).pending = s.pending := rfl
@[simp] theorem State.dropLive_clk (s : State) (id : Nat) : (s.dropLive id).clk = s.clk := rfl
@[simp] theorem State.dropLive_resetAt (s : State) (id : Nat) : (s.dropLive id).resetAt = s.resetAt := rfl
@[simp] theorem State.dropLive_part (s : State) (id : Nat) : (s.dropLive id).part = s.part := rfl
@[simp] theorem State.dropLive_free (s : State) (id : Nat) : (s.dropLive id).free = s.free := rfl
@[simp] theorem State.dropLive_out (s : State) (id : Nat) : (s.dropLive id).out = s.out := rfl
@[simp] theorem State.dropLive_regs (s : State) (id : Nat) : (s.dropLive id).regs = s.regs := rfl
@[simp] theorem State.dropLive_act (s : State) (id : Nat) : (s.dropLive id).act = s.act := rfl
@[simp] theorem State.dropLive_pend (s : State) (id : Nat) : (s.dropLive id).pend = s.pend := rfl
@[simp] theorem State.dropLive_prev (s : State) (id : Nat) : (s.dropLive id).prev = s.prev := rfl
@[simp] theorem State.dropLive_latch (s : State) (id : Nat) : (s.dropLive id).latch = s.latch := rfl
@[simp] theorem State.dropLive_host0 (s : State) (id : Nat) : (s.dropLive id).host0 = s.host0 := rfl
@[simp] theorem State.dropLive_host1 (s : State) (id : Nat) : (s.dropLive id).host1 = s.host1 := rfl
@[simp] theorem State.dropLive_bad (s : State) (id : Nat) : (s.dropLive id).bad = s.bad := rfl
@[simp] theorem State.dropLive_page (s : State) (id : Nat) : (s.dropLive id).page = s.page := rfl
@[simp] theorem State.dropLive_cxl (s : State) (id : Nat) : (s.dropLive id).cxl = s.cxl := rfl
@[simp] theorem State.dropLive_start (s : State) (id : Nat) : (s.dropLive id).start = s.start := rfl
@[simp] theorem State.dropLive_phaseDone (s : State) (id : Nat) : (s.dropLive id).phaseDone = s.phaseDone := rfl
@[simp] theorem State.dropLive_phaseAt (s : State) (id : Nat) : (s.dropLive id).phaseAt = s.phaseAt := rfl
@[simp] theorem State.dropLive_dma (s : State) (id : Nat) : (s.dropLive id).dma = s.dma := rfl
@[simp] theorem State.dropLive_port0 (s : State) (id : Nat) : (s.dropLive id).port0 = s.port0 := rfl
@[simp] theorem State.dropLive_port1 (s : State) (id : Nat) : (s.dropLive id).port1 = s.port1 := rfl
@[simp] theorem State.dropLive_ten (s : State) (id : Nat) : (s.dropLive id).ten = s.ten := rfl
@[simp] theorem State.dropLive_cfg (s : State) (id : Nat) : (s.dropLive id).cfg = s.cfg := rfl
@[simp] theorem State.dropLive_dir (s : State) (id : Nat) : (s.dropLive id).dir = s.dir := rfl
@[simp] theorem State.dropLive_psa (s : State) (id : Nat) : (s.dropLive id).psa = s.psa := rfl
@[simp] theorem State.dropLive_tier (s : State) (id : Nat) : (s.dropLive id).tier = s.tier := rfl
@[simp] theorem State.dropLive_pfs (s : State) (id : Nat) : (s.dropLive id).pfs = s.pfs := rfl
@[simp] theorem State.dropLive_npa (s : State) (id : Nat) : (s.dropLive id).npa = s.npa := rfl
@[simp] theorem State.dropLive_brn (s : State) (id : Nat) : (s.dropLive id).brn = s.brn := rfl
@[simp] theorem State.dropLive_stk (s : State) (id : Nat) : (s.dropLive id).stk = s.stk := rfl
@[simp] theorem State.dropLive_net (s : State) (id : Nat) : (s.dropLive id).net = s.net := rfl
@[simp] theorem State.dropLive_flm (s : State) (id : Nat) : (s.dropLive id).flm = s.flm := rfl
@[simp] theorem State.dropLive_hlt (s : State) (id : Nat) : (s.dropLive id).hlt = s.hlt := rfl
@[simp] theorem State.dropLive_sec (s : State) (id : Nat) : (s.dropLive id).sec = s.sec := rfl
@[simp] theorem State.dropLive_pwr (s : State) (id : Nat) : (s.dropLive id).pwr = s.pwr := rfl
@[simp] theorem State.dropLive_ras (s : State) (id : Nat) : (s.dropLive id).ras = s.ras := rfl
@[simp] theorem State.dropLive_fns (s : State) (id : Nat) : (s.dropLive id).fns = s.fns := rfl

@[simp] theorem State.setChan_pending (s : State) (c : Nat) (v : Chan) : (s.setChan c v).pending = s.pending := rfl
@[simp] theorem State.setChan_clk (s : State) (c : Nat) (v : Chan) : (s.setChan c v).clk = s.clk := rfl
@[simp] theorem State.setChan_resetAt (s : State) (c : Nat) (v : Chan) : (s.setChan c v).resetAt = s.resetAt := rfl
@[simp] theorem State.setChan_part (s : State) (c : Nat) (v : Chan) : (s.setChan c v).part = s.part := rfl
@[simp] theorem State.setChan_free (s : State) (c : Nat) (v : Chan) : (s.setChan c v).free = s.free := rfl
@[simp] theorem State.setChan_out (s : State) (c : Nat) (v : Chan) : (s.setChan c v).out = s.out := rfl
@[simp] theorem State.setChan_regs (s : State) (c : Nat) (v : Chan) : (s.setChan c v).regs = s.regs := rfl
@[simp] theorem State.setChan_act (s : State) (c : Nat) (v : Chan) : (s.setChan c v).act = s.act := rfl
@[simp] theorem State.setChan_pend (s : State) (c : Nat) (v : Chan) : (s.setChan c v).pend = s.pend := rfl
@[simp] theorem State.setChan_prev (s : State) (c : Nat) (v : Chan) : (s.setChan c v).prev = s.prev := rfl
@[simp] theorem State.setChan_latch (s : State) (c : Nat) (v : Chan) : (s.setChan c v).latch = s.latch := rfl
@[simp] theorem State.setChan_host0 (s : State) (c : Nat) (v : Chan) : (s.setChan c v).host0 = s.host0 := rfl
@[simp] theorem State.setChan_host1 (s : State) (c : Nat) (v : Chan) : (s.setChan c v).host1 = s.host1 := rfl
@[simp] theorem State.setChan_bad (s : State) (c : Nat) (v : Chan) : (s.setChan c v).bad = s.bad := rfl
@[simp] theorem State.setChan_page (s : State) (c : Nat) (v : Chan) : (s.setChan c v).page = s.page := rfl
@[simp] theorem State.setChan_cxl (s : State) (c : Nat) (v : Chan) : (s.setChan c v).cxl = s.cxl := rfl
@[simp] theorem State.setChan_start (s : State) (c : Nat) (v : Chan) : (s.setChan c v).start = s.start := rfl
@[simp] theorem State.setChan_phaseDone (s : State) (c : Nat) (v : Chan) : (s.setChan c v).phaseDone = s.phaseDone := rfl
@[simp] theorem State.setChan_phaseAt (s : State) (c : Nat) (v : Chan) : (s.setChan c v).phaseAt = s.phaseAt := rfl
@[simp] theorem State.setChan_que (s : State) (c : Nat) (v : Chan) : (s.setChan c v).que = s.que := rfl
@[simp] theorem State.setChan_port0 (s : State) (c : Nat) (v : Chan) : (s.setChan c v).port0 = s.port0 := rfl
@[simp] theorem State.setChan_port1 (s : State) (c : Nat) (v : Chan) : (s.setChan c v).port1 = s.port1 := rfl
@[simp] theorem State.setChan_ten (s : State) (c : Nat) (v : Chan) : (s.setChan c v).ten = s.ten := rfl
@[simp] theorem State.setChan_cfg (s : State) (c : Nat) (v : Chan) : (s.setChan c v).cfg = s.cfg := rfl
@[simp] theorem State.setChan_dir (s : State) (c : Nat) (v : Chan) : (s.setChan c v).dir = s.dir := rfl
@[simp] theorem State.setChan_psa (s : State) (c : Nat) (v : Chan) : (s.setChan c v).psa = s.psa := rfl
@[simp] theorem State.setChan_tier (s : State) (c : Nat) (v : Chan) : (s.setChan c v).tier = s.tier := rfl
@[simp] theorem State.setChan_pfs (s : State) (c : Nat) (v : Chan) : (s.setChan c v).pfs = s.pfs := rfl
@[simp] theorem State.setChan_npa (s : State) (c : Nat) (v : Chan) : (s.setChan c v).npa = s.npa := rfl
@[simp] theorem State.setChan_brn (s : State) (c : Nat) (v : Chan) : (s.setChan c v).brn = s.brn := rfl
@[simp] theorem State.setChan_stk (s : State) (c : Nat) (v : Chan) : (s.setChan c v).stk = s.stk := rfl
@[simp] theorem State.setChan_net (s : State) (c : Nat) (v : Chan) : (s.setChan c v).net = s.net := rfl
@[simp] theorem State.setChan_flm (s : State) (c : Nat) (v : Chan) : (s.setChan c v).flm = s.flm := rfl
@[simp] theorem State.setChan_hlt (s : State) (c : Nat) (v : Chan) : (s.setChan c v).hlt = s.hlt := rfl
@[simp] theorem State.setChan_sec (s : State) (c : Nat) (v : Chan) : (s.setChan c v).sec = s.sec := rfl
@[simp] theorem State.setChan_pwr (s : State) (c : Nat) (v : Chan) : (s.setChan c v).pwr = s.pwr := rfl
@[simp] theorem State.setChan_ras (s : State) (c : Nat) (v : Chan) : (s.setChan c v).ras = s.ras := rfl
@[simp] theorem State.setChan_fns (s : State) (c : Nat) (v : Chan) : (s.setChan c v).fns = s.fns := rfl

@[simp] theorem State.setRecord_pending (s : State) (k i : Nat) (r : List Word) : (s.setRecord k i r).pending = s.pending := rfl
@[simp] theorem State.setRecord_clk (s : State) (k i : Nat) (r : List Word) : (s.setRecord k i r).clk = s.clk := rfl
@[simp] theorem State.setRecord_resetAt (s : State) (k i : Nat) (r : List Word) : (s.setRecord k i r).resetAt = s.resetAt := rfl
@[simp] theorem State.setRecord_part (s : State) (k i : Nat) (r : List Word) : (s.setRecord k i r).part = s.part := rfl
@[simp] theorem State.setRecord_free (s : State) (k i : Nat) (r : List Word) : (s.setRecord k i r).free = s.free := rfl
@[simp] theorem State.setRecord_out (s : State) (k i : Nat) (r : List Word) : (s.setRecord k i r).out = s.out := rfl
@[simp] theorem State.setRecord_regs (s : State) (k i : Nat) (r : List Word) : (s.setRecord k i r).regs = s.regs := rfl
@[simp] theorem State.setRecord_act (s : State) (k i : Nat) (r : List Word) : (s.setRecord k i r).act = s.act := rfl
@[simp] theorem State.setRecord_pend (s : State) (k i : Nat) (r : List Word) : (s.setRecord k i r).pend = s.pend := rfl
@[simp] theorem State.setRecord_prev (s : State) (k i : Nat) (r : List Word) : (s.setRecord k i r).prev = s.prev := rfl
@[simp] theorem State.setRecord_latch (s : State) (k i : Nat) (r : List Word) : (s.setRecord k i r).latch = s.latch := rfl
@[simp] theorem State.setRecord_host0 (s : State) (k i : Nat) (r : List Word) : (s.setRecord k i r).host0 = s.host0 := rfl
@[simp] theorem State.setRecord_host1 (s : State) (k i : Nat) (r : List Word) : (s.setRecord k i r).host1 = s.host1 := rfl
@[simp] theorem State.setRecord_bad (s : State) (k i : Nat) (r : List Word) : (s.setRecord k i r).bad = s.bad := rfl
@[simp] theorem State.setRecord_page (s : State) (k i : Nat) (r : List Word) : (s.setRecord k i r).page = s.page := rfl
@[simp] theorem State.setRecord_cxl (s : State) (k i : Nat) (r : List Word) : (s.setRecord k i r).cxl = s.cxl := rfl
@[simp] theorem State.setRecord_start (s : State) (k i : Nat) (r : List Word) : (s.setRecord k i r).start = s.start := rfl
@[simp] theorem State.setRecord_phaseDone (s : State) (k i : Nat) (r : List Word) : (s.setRecord k i r).phaseDone = s.phaseDone := rfl
@[simp] theorem State.setRecord_phaseAt (s : State) (k i : Nat) (r : List Word) : (s.setRecord k i r).phaseAt = s.phaseAt := rfl
@[simp] theorem State.setRecord_que (s : State) (k i : Nat) (r : List Word) : (s.setRecord k i r).que = s.que := rfl
@[simp] theorem State.setRecord_dma (s : State) (k i : Nat) (r : List Word) : (s.setRecord k i r).dma = s.dma := rfl
@[simp] theorem State.setRecord_port0 (s : State) (k i : Nat) (r : List Word) : (s.setRecord k i r).port0 = s.port0 := rfl
@[simp] theorem State.setRecord_port1 (s : State) (k i : Nat) (r : List Word) : (s.setRecord k i r).port1 = s.port1 := rfl
@[simp] theorem State.setRecord_cfg (s : State) (k i : Nat) (r : List Word) : (s.setRecord k i r).cfg = s.cfg := rfl
@[simp] theorem State.setRecord_dir (s : State) (k i : Nat) (r : List Word) : (s.setRecord k i r).dir = s.dir := rfl
@[simp] theorem State.setRecord_psa (s : State) (k i : Nat) (r : List Word) : (s.setRecord k i r).psa = s.psa := rfl
@[simp] theorem State.setRecord_tier (s : State) (k i : Nat) (r : List Word) : (s.setRecord k i r).tier = s.tier := rfl
@[simp] theorem State.setRecord_pfs (s : State) (k i : Nat) (r : List Word) : (s.setRecord k i r).pfs = s.pfs := rfl
@[simp] theorem State.setRecord_npa (s : State) (k i : Nat) (r : List Word) : (s.setRecord k i r).npa = s.npa := rfl
@[simp] theorem State.setRecord_brn (s : State) (k i : Nat) (r : List Word) : (s.setRecord k i r).brn = s.brn := rfl
@[simp] theorem State.setRecord_stk (s : State) (k i : Nat) (r : List Word) : (s.setRecord k i r).stk = s.stk := rfl
@[simp] theorem State.setRecord_net (s : State) (k i : Nat) (r : List Word) : (s.setRecord k i r).net = s.net := rfl
@[simp] theorem State.setRecord_flm (s : State) (k i : Nat) (r : List Word) : (s.setRecord k i r).flm = s.flm := rfl
@[simp] theorem State.setRecord_hlt (s : State) (k i : Nat) (r : List Word) : (s.setRecord k i r).hlt = s.hlt := rfl
@[simp] theorem State.setRecord_sec (s : State) (k i : Nat) (r : List Word) : (s.setRecord k i r).sec = s.sec := rfl
@[simp] theorem State.setRecord_pwr (s : State) (k i : Nat) (r : List Word) : (s.setRecord k i r).pwr = s.pwr := rfl
@[simp] theorem State.setRecord_ras (s : State) (k i : Nat) (r : List Word) : (s.setRecord k i r).ras = s.ras := rfl
@[simp] theorem State.setRecord_fns (s : State) (k i : Nat) (r : List Word) : (s.setRecord k i r).fns = s.fns := rfl

@[simp] theorem State.setSlot_pending (s : State) (i : Nat) (v : Slot) : (s.setSlot i v).pending = s.pending := rfl
@[simp] theorem State.setSlot_clk (s : State) (i : Nat) (v : Slot) : (s.setSlot i v).clk = s.clk := rfl
@[simp] theorem State.setSlot_resetAt (s : State) (i : Nat) (v : Slot) : (s.setSlot i v).resetAt = s.resetAt := rfl
@[simp] theorem State.setSlot_part (s : State) (i : Nat) (v : Slot) : (s.setSlot i v).part = s.part := rfl
@[simp] theorem State.setSlot_free (s : State) (i : Nat) (v : Slot) : (s.setSlot i v).free = s.free := rfl
@[simp] theorem State.setSlot_out (s : State) (i : Nat) (v : Slot) : (s.setSlot i v).out = s.out := rfl
@[simp] theorem State.setSlot_regs (s : State) (i : Nat) (v : Slot) : (s.setSlot i v).regs = s.regs := rfl
@[simp] theorem State.setSlot_act (s : State) (i : Nat) (v : Slot) : (s.setSlot i v).act = s.act := rfl
@[simp] theorem State.setSlot_pend (s : State) (i : Nat) (v : Slot) : (s.setSlot i v).pend = s.pend := rfl
@[simp] theorem State.setSlot_prev (s : State) (i : Nat) (v : Slot) : (s.setSlot i v).prev = s.prev := rfl
@[simp] theorem State.setSlot_latch (s : State) (i : Nat) (v : Slot) : (s.setSlot i v).latch = s.latch := rfl
@[simp] theorem State.setSlot_host0 (s : State) (i : Nat) (v : Slot) : (s.setSlot i v).host0 = s.host0 := rfl
@[simp] theorem State.setSlot_host1 (s : State) (i : Nat) (v : Slot) : (s.setSlot i v).host1 = s.host1 := rfl
@[simp] theorem State.setSlot_bad (s : State) (i : Nat) (v : Slot) : (s.setSlot i v).bad = s.bad := rfl
@[simp] theorem State.setSlot_page (s : State) (i : Nat) (v : Slot) : (s.setSlot i v).page = s.page := rfl
@[simp] theorem State.setSlot_cxl (s : State) (i : Nat) (v : Slot) : (s.setSlot i v).cxl = s.cxl := rfl
@[simp] theorem State.setSlot_start (s : State) (i : Nat) (v : Slot) : (s.setSlot i v).start = s.start := rfl
@[simp] theorem State.setSlot_phaseDone (s : State) (i : Nat) (v : Slot) : (s.setSlot i v).phaseDone = s.phaseDone := rfl
@[simp] theorem State.setSlot_phaseAt (s : State) (i : Nat) (v : Slot) : (s.setSlot i v).phaseAt = s.phaseAt := rfl
@[simp] theorem State.setSlot_que (s : State) (i : Nat) (v : Slot) : (s.setSlot i v).que = s.que := rfl
@[simp] theorem State.setSlot_dma (s : State) (i : Nat) (v : Slot) : (s.setSlot i v).dma = s.dma := rfl
@[simp] theorem State.setSlot_port0 (s : State) (i : Nat) (v : Slot) : (s.setSlot i v).port0 = s.port0 := rfl
@[simp] theorem State.setSlot_port1 (s : State) (i : Nat) (v : Slot) : (s.setSlot i v).port1 = s.port1 := rfl
@[simp] theorem State.setSlot_ten (s : State) (i : Nat) (v : Slot) : (s.setSlot i v).ten = s.ten := rfl
@[simp] theorem State.setSlot_cfg (s : State) (i : Nat) (v : Slot) : (s.setSlot i v).cfg = s.cfg := rfl
@[simp] theorem State.setSlot_psa (s : State) (i : Nat) (v : Slot) : (s.setSlot i v).psa = s.psa := rfl
@[simp] theorem State.setSlot_tier (s : State) (i : Nat) (v : Slot) : (s.setSlot i v).tier = s.tier := rfl
@[simp] theorem State.setSlot_pfs (s : State) (i : Nat) (v : Slot) : (s.setSlot i v).pfs = s.pfs := rfl
@[simp] theorem State.setSlot_npa (s : State) (i : Nat) (v : Slot) : (s.setSlot i v).npa = s.npa := rfl
@[simp] theorem State.setSlot_brn (s : State) (i : Nat) (v : Slot) : (s.setSlot i v).brn = s.brn := rfl
@[simp] theorem State.setSlot_stk (s : State) (i : Nat) (v : Slot) : (s.setSlot i v).stk = s.stk := rfl
@[simp] theorem State.setSlot_net (s : State) (i : Nat) (v : Slot) : (s.setSlot i v).net = s.net := rfl
@[simp] theorem State.setSlot_flm (s : State) (i : Nat) (v : Slot) : (s.setSlot i v).flm = s.flm := rfl
@[simp] theorem State.setSlot_hlt (s : State) (i : Nat) (v : Slot) : (s.setSlot i v).hlt = s.hlt := rfl
@[simp] theorem State.setSlot_sec (s : State) (i : Nat) (v : Slot) : (s.setSlot i v).sec = s.sec := rfl
@[simp] theorem State.setSlot_pwr (s : State) (i : Nat) (v : Slot) : (s.setSlot i v).pwr = s.pwr := rfl
@[simp] theorem State.setSlot_ras (s : State) (i : Nat) (v : Slot) : (s.setSlot i v).ras = s.ras := rfl
@[simp] theorem State.setSlot_fns (s : State) (i : Nat) (v : Slot) : (s.setSlot i v).fns = s.fns := rfl

@[simp] theorem State.setPset_pending (s : State) (i : Nat) (v : PSet) : (s.setPset i v).pending = s.pending := rfl
@[simp] theorem State.setPset_clk (s : State) (i : Nat) (v : PSet) : (s.setPset i v).clk = s.clk := rfl
@[simp] theorem State.setPset_resetAt (s : State) (i : Nat) (v : PSet) : (s.setPset i v).resetAt = s.resetAt := rfl
@[simp] theorem State.setPset_part (s : State) (i : Nat) (v : PSet) : (s.setPset i v).part = s.part := rfl
@[simp] theorem State.setPset_free (s : State) (i : Nat) (v : PSet) : (s.setPset i v).free = s.free := rfl
@[simp] theorem State.setPset_out (s : State) (i : Nat) (v : PSet) : (s.setPset i v).out = s.out := rfl
@[simp] theorem State.setPset_regs (s : State) (i : Nat) (v : PSet) : (s.setPset i v).regs = s.regs := rfl
@[simp] theorem State.setPset_act (s : State) (i : Nat) (v : PSet) : (s.setPset i v).act = s.act := rfl
@[simp] theorem State.setPset_pend (s : State) (i : Nat) (v : PSet) : (s.setPset i v).pend = s.pend := rfl
@[simp] theorem State.setPset_prev (s : State) (i : Nat) (v : PSet) : (s.setPset i v).prev = s.prev := rfl
@[simp] theorem State.setPset_latch (s : State) (i : Nat) (v : PSet) : (s.setPset i v).latch = s.latch := rfl
@[simp] theorem State.setPset_host0 (s : State) (i : Nat) (v : PSet) : (s.setPset i v).host0 = s.host0 := rfl
@[simp] theorem State.setPset_host1 (s : State) (i : Nat) (v : PSet) : (s.setPset i v).host1 = s.host1 := rfl
@[simp] theorem State.setPset_bad (s : State) (i : Nat) (v : PSet) : (s.setPset i v).bad = s.bad := rfl
@[simp] theorem State.setPset_page (s : State) (i : Nat) (v : PSet) : (s.setPset i v).page = s.page := rfl
@[simp] theorem State.setPset_cxl (s : State) (i : Nat) (v : PSet) : (s.setPset i v).cxl = s.cxl := rfl
@[simp] theorem State.setPset_start (s : State) (i : Nat) (v : PSet) : (s.setPset i v).start = s.start := rfl
@[simp] theorem State.setPset_phaseDone (s : State) (i : Nat) (v : PSet) : (s.setPset i v).phaseDone = s.phaseDone := rfl
@[simp] theorem State.setPset_phaseAt (s : State) (i : Nat) (v : PSet) : (s.setPset i v).phaseAt = s.phaseAt := rfl
@[simp] theorem State.setPset_que (s : State) (i : Nat) (v : PSet) : (s.setPset i v).que = s.que := rfl
@[simp] theorem State.setPset_dma (s : State) (i : Nat) (v : PSet) : (s.setPset i v).dma = s.dma := rfl
@[simp] theorem State.setPset_port0 (s : State) (i : Nat) (v : PSet) : (s.setPset i v).port0 = s.port0 := rfl
@[simp] theorem State.setPset_port1 (s : State) (i : Nat) (v : PSet) : (s.setPset i v).port1 = s.port1 := rfl
@[simp] theorem State.setPset_ten (s : State) (i : Nat) (v : PSet) : (s.setPset i v).ten = s.ten := rfl
@[simp] theorem State.setPset_cfg (s : State) (i : Nat) (v : PSet) : (s.setPset i v).cfg = s.cfg := rfl
@[simp] theorem State.setPset_dir (s : State) (i : Nat) (v : PSet) : (s.setPset i v).dir = s.dir := rfl
@[simp] theorem State.setPset_psa (s : State) (i : Nat) (v : PSet) : (s.setPset i v).psa = s.psa := rfl
@[simp] theorem State.setPset_pfs (s : State) (i : Nat) (v : PSet) : (s.setPset i v).pfs = s.pfs := rfl
@[simp] theorem State.setPset_npa (s : State) (i : Nat) (v : PSet) : (s.setPset i v).npa = s.npa := rfl
@[simp] theorem State.setPset_brn (s : State) (i : Nat) (v : PSet) : (s.setPset i v).brn = s.brn := rfl
@[simp] theorem State.setPset_stk (s : State) (i : Nat) (v : PSet) : (s.setPset i v).stk = s.stk := rfl
@[simp] theorem State.setPset_net (s : State) (i : Nat) (v : PSet) : (s.setPset i v).net = s.net := rfl
@[simp] theorem State.setPset_flm (s : State) (i : Nat) (v : PSet) : (s.setPset i v).flm = s.flm := rfl
@[simp] theorem State.setPset_hlt (s : State) (i : Nat) (v : PSet) : (s.setPset i v).hlt = s.hlt := rfl
@[simp] theorem State.setPset_sec (s : State) (i : Nat) (v : PSet) : (s.setPset i v).sec = s.sec := rfl
@[simp] theorem State.setPset_pwr (s : State) (i : Nat) (v : PSet) : (s.setPset i v).pwr = s.pwr := rfl
@[simp] theorem State.setPset_ras (s : State) (i : Nat) (v : PSet) : (s.setPset i v).ras = s.ras := rfl
@[simp] theorem State.setPset_fns (s : State) (i : Nat) (v : PSet) : (s.setPset i v).fns = s.fns := rfl

@[simp] theorem State.setBank_pending (s : State) (b : Nat) (v : Bank) : (s.setBank b v).pending = s.pending := rfl
@[simp] theorem State.setBank_clk (s : State) (b : Nat) (v : Bank) : (s.setBank b v).clk = s.clk := rfl
@[simp] theorem State.setBank_resetAt (s : State) (b : Nat) (v : Bank) : (s.setBank b v).resetAt = s.resetAt := rfl
@[simp] theorem State.setBank_part (s : State) (b : Nat) (v : Bank) : (s.setBank b v).part = s.part := rfl
@[simp] theorem State.setBank_free (s : State) (b : Nat) (v : Bank) : (s.setBank b v).free = s.free := rfl
@[simp] theorem State.setBank_out (s : State) (b : Nat) (v : Bank) : (s.setBank b v).out = s.out := rfl
@[simp] theorem State.setBank_regs (s : State) (b : Nat) (v : Bank) : (s.setBank b v).regs = s.regs := rfl
@[simp] theorem State.setBank_act (s : State) (b : Nat) (v : Bank) : (s.setBank b v).act = s.act := rfl
@[simp] theorem State.setBank_pend (s : State) (b : Nat) (v : Bank) : (s.setBank b v).pend = s.pend := rfl
@[simp] theorem State.setBank_prev (s : State) (b : Nat) (v : Bank) : (s.setBank b v).prev = s.prev := rfl
@[simp] theorem State.setBank_latch (s : State) (b : Nat) (v : Bank) : (s.setBank b v).latch = s.latch := rfl
@[simp] theorem State.setBank_host0 (s : State) (b : Nat) (v : Bank) : (s.setBank b v).host0 = s.host0 := rfl
@[simp] theorem State.setBank_host1 (s : State) (b : Nat) (v : Bank) : (s.setBank b v).host1 = s.host1 := rfl
@[simp] theorem State.setBank_bad (s : State) (b : Nat) (v : Bank) : (s.setBank b v).bad = s.bad := rfl
@[simp] theorem State.setBank_page (s : State) (b : Nat) (v : Bank) : (s.setBank b v).page = s.page := rfl
@[simp] theorem State.setBank_cxl (s : State) (b : Nat) (v : Bank) : (s.setBank b v).cxl = s.cxl := rfl
@[simp] theorem State.setBank_start (s : State) (b : Nat) (v : Bank) : (s.setBank b v).start = s.start := rfl
@[simp] theorem State.setBank_phaseDone (s : State) (b : Nat) (v : Bank) : (s.setBank b v).phaseDone = s.phaseDone := rfl
@[simp] theorem State.setBank_phaseAt (s : State) (b : Nat) (v : Bank) : (s.setBank b v).phaseAt = s.phaseAt := rfl
@[simp] theorem State.setBank_que (s : State) (b : Nat) (v : Bank) : (s.setBank b v).que = s.que := rfl
@[simp] theorem State.setBank_dma (s : State) (b : Nat) (v : Bank) : (s.setBank b v).dma = s.dma := rfl
@[simp] theorem State.setBank_port0 (s : State) (b : Nat) (v : Bank) : (s.setBank b v).port0 = s.port0 := rfl
@[simp] theorem State.setBank_port1 (s : State) (b : Nat) (v : Bank) : (s.setBank b v).port1 = s.port1 := rfl
@[simp] theorem State.setBank_ten (s : State) (b : Nat) (v : Bank) : (s.setBank b v).ten = s.ten := rfl
@[simp] theorem State.setBank_cfg (s : State) (b : Nat) (v : Bank) : (s.setBank b v).cfg = s.cfg := rfl
@[simp] theorem State.setBank_dir (s : State) (b : Nat) (v : Bank) : (s.setBank b v).dir = s.dir := rfl
@[simp] theorem State.setBank_tier (s : State) (b : Nat) (v : Bank) : (s.setBank b v).tier = s.tier := rfl
@[simp] theorem State.setBank_pfs (s : State) (b : Nat) (v : Bank) : (s.setBank b v).pfs = s.pfs := rfl
@[simp] theorem State.setBank_npa (s : State) (b : Nat) (v : Bank) : (s.setBank b v).npa = s.npa := rfl
@[simp] theorem State.setBank_brn (s : State) (b : Nat) (v : Bank) : (s.setBank b v).brn = s.brn := rfl
@[simp] theorem State.setBank_stk (s : State) (b : Nat) (v : Bank) : (s.setBank b v).stk = s.stk := rfl
@[simp] theorem State.setBank_net (s : State) (b : Nat) (v : Bank) : (s.setBank b v).net = s.net := rfl
@[simp] theorem State.setBank_flm (s : State) (b : Nat) (v : Bank) : (s.setBank b v).flm = s.flm := rfl
@[simp] theorem State.setBank_hlt (s : State) (b : Nat) (v : Bank) : (s.setBank b v).hlt = s.hlt := rfl
@[simp] theorem State.setBank_sec (s : State) (b : Nat) (v : Bank) : (s.setBank b v).sec = s.sec := rfl
@[simp] theorem State.setBank_pwr (s : State) (b : Nat) (v : Bank) : (s.setBank b v).pwr = s.pwr := rfl
@[simp] theorem State.setBank_ras (s : State) (b : Nat) (v : Bank) : (s.setBank b v).ras = s.ras := rfl
@[simp] theorem State.setBank_fns (s : State) (b : Nat) (v : Bank) : (s.setBank b v).fns = s.fns := rfl

@[simp] theorem State.setCore_pending (s : State) (c : Nat) (v : Core) : (s.setCore c v).pending = s.pending := rfl
@[simp] theorem State.setCore_clk (s : State) (c : Nat) (v : Core) : (s.setCore c v).clk = s.clk := rfl
@[simp] theorem State.setCore_resetAt (s : State) (c : Nat) (v : Core) : (s.setCore c v).resetAt = s.resetAt := rfl
@[simp] theorem State.setCore_part (s : State) (c : Nat) (v : Core) : (s.setCore c v).part = s.part := rfl
@[simp] theorem State.setCore_free (s : State) (c : Nat) (v : Core) : (s.setCore c v).free = s.free := rfl
@[simp] theorem State.setCore_out (s : State) (c : Nat) (v : Core) : (s.setCore c v).out = s.out := rfl
@[simp] theorem State.setCore_regs (s : State) (c : Nat) (v : Core) : (s.setCore c v).regs = s.regs := rfl
@[simp] theorem State.setCore_act (s : State) (c : Nat) (v : Core) : (s.setCore c v).act = s.act := rfl
@[simp] theorem State.setCore_pend (s : State) (c : Nat) (v : Core) : (s.setCore c v).pend = s.pend := rfl
@[simp] theorem State.setCore_prev (s : State) (c : Nat) (v : Core) : (s.setCore c v).prev = s.prev := rfl
@[simp] theorem State.setCore_latch (s : State) (c : Nat) (v : Core) : (s.setCore c v).latch = s.latch := rfl
@[simp] theorem State.setCore_host0 (s : State) (c : Nat) (v : Core) : (s.setCore c v).host0 = s.host0 := rfl
@[simp] theorem State.setCore_host1 (s : State) (c : Nat) (v : Core) : (s.setCore c v).host1 = s.host1 := rfl
@[simp] theorem State.setCore_bad (s : State) (c : Nat) (v : Core) : (s.setCore c v).bad = s.bad := rfl
@[simp] theorem State.setCore_page (s : State) (c : Nat) (v : Core) : (s.setCore c v).page = s.page := rfl
@[simp] theorem State.setCore_cxl (s : State) (c : Nat) (v : Core) : (s.setCore c v).cxl = s.cxl := rfl
@[simp] theorem State.setCore_start (s : State) (c : Nat) (v : Core) : (s.setCore c v).start = s.start := rfl
@[simp] theorem State.setCore_phaseDone (s : State) (c : Nat) (v : Core) : (s.setCore c v).phaseDone = s.phaseDone := rfl
@[simp] theorem State.setCore_phaseAt (s : State) (c : Nat) (v : Core) : (s.setCore c v).phaseAt = s.phaseAt := rfl
@[simp] theorem State.setCore_que (s : State) (c : Nat) (v : Core) : (s.setCore c v).que = s.que := rfl
@[simp] theorem State.setCore_dma (s : State) (c : Nat) (v : Core) : (s.setCore c v).dma = s.dma := rfl
@[simp] theorem State.setCore_port0 (s : State) (c : Nat) (v : Core) : (s.setCore c v).port0 = s.port0 := rfl
@[simp] theorem State.setCore_port1 (s : State) (c : Nat) (v : Core) : (s.setCore c v).port1 = s.port1 := rfl
@[simp] theorem State.setCore_ten (s : State) (c : Nat) (v : Core) : (s.setCore c v).ten = s.ten := rfl
@[simp] theorem State.setCore_cfg (s : State) (c : Nat) (v : Core) : (s.setCore c v).cfg = s.cfg := rfl
@[simp] theorem State.setCore_dir (s : State) (c : Nat) (v : Core) : (s.setCore c v).dir = s.dir := rfl
@[simp] theorem State.setCore_psa (s : State) (c : Nat) (v : Core) : (s.setCore c v).psa = s.psa := rfl
@[simp] theorem State.setCore_tier (s : State) (c : Nat) (v : Core) : (s.setCore c v).tier = s.tier := rfl
@[simp] theorem State.setCore_pfs (s : State) (c : Nat) (v : Core) : (s.setCore c v).pfs = s.pfs := rfl
@[simp] theorem State.setCore_npa (s : State) (c : Nat) (v : Core) : (s.setCore c v).npa = s.npa := rfl
@[simp] theorem State.setCore_stk (s : State) (c : Nat) (v : Core) : (s.setCore c v).stk = s.stk := rfl
@[simp] theorem State.setCore_net (s : State) (c : Nat) (v : Core) : (s.setCore c v).net = s.net := rfl
@[simp] theorem State.setCore_flm (s : State) (c : Nat) (v : Core) : (s.setCore c v).flm = s.flm := rfl
@[simp] theorem State.setCore_hlt (s : State) (c : Nat) (v : Core) : (s.setCore c v).hlt = s.hlt := rfl
@[simp] theorem State.setCore_sec (s : State) (c : Nat) (v : Core) : (s.setCore c v).sec = s.sec := rfl
@[simp] theorem State.setCore_pwr (s : State) (c : Nat) (v : Core) : (s.setCore c v).pwr = s.pwr := rfl
@[simp] theorem State.setCore_ras (s : State) (c : Nat) (v : Core) : (s.setCore c v).ras = s.ras := rfl
@[simp] theorem State.setCore_fns (s : State) (c : Nat) (v : Core) : (s.setCore c v).fns = s.fns := rfl

@[simp] theorem State.setEngine_pending (s : State) (c e : Nat) (v : Eng) : (s.setEngine c e v).pending = s.pending := rfl
@[simp] theorem State.setEngine_clk (s : State) (c e : Nat) (v : Eng) : (s.setEngine c e v).clk = s.clk := rfl
@[simp] theorem State.setEngine_resetAt (s : State) (c e : Nat) (v : Eng) : (s.setEngine c e v).resetAt = s.resetAt := rfl
@[simp] theorem State.setEngine_part (s : State) (c e : Nat) (v : Eng) : (s.setEngine c e v).part = s.part := rfl
@[simp] theorem State.setEngine_free (s : State) (c e : Nat) (v : Eng) : (s.setEngine c e v).free = s.free := rfl
@[simp] theorem State.setEngine_out (s : State) (c e : Nat) (v : Eng) : (s.setEngine c e v).out = s.out := rfl
@[simp] theorem State.setEngine_regs (s : State) (c e : Nat) (v : Eng) : (s.setEngine c e v).regs = s.regs := rfl
@[simp] theorem State.setEngine_act (s : State) (c e : Nat) (v : Eng) : (s.setEngine c e v).act = s.act := rfl
@[simp] theorem State.setEngine_pend (s : State) (c e : Nat) (v : Eng) : (s.setEngine c e v).pend = s.pend := rfl
@[simp] theorem State.setEngine_prev (s : State) (c e : Nat) (v : Eng) : (s.setEngine c e v).prev = s.prev := rfl
@[simp] theorem State.setEngine_latch (s : State) (c e : Nat) (v : Eng) : (s.setEngine c e v).latch = s.latch := rfl
@[simp] theorem State.setEngine_host0 (s : State) (c e : Nat) (v : Eng) : (s.setEngine c e v).host0 = s.host0 := rfl
@[simp] theorem State.setEngine_host1 (s : State) (c e : Nat) (v : Eng) : (s.setEngine c e v).host1 = s.host1 := rfl
@[simp] theorem State.setEngine_bad (s : State) (c e : Nat) (v : Eng) : (s.setEngine c e v).bad = s.bad := rfl
@[simp] theorem State.setEngine_page (s : State) (c e : Nat) (v : Eng) : (s.setEngine c e v).page = s.page := rfl
@[simp] theorem State.setEngine_cxl (s : State) (c e : Nat) (v : Eng) : (s.setEngine c e v).cxl = s.cxl := rfl
@[simp] theorem State.setEngine_start (s : State) (c e : Nat) (v : Eng) : (s.setEngine c e v).start = s.start := rfl
@[simp] theorem State.setEngine_phaseDone (s : State) (c e : Nat) (v : Eng) : (s.setEngine c e v).phaseDone = s.phaseDone := rfl
@[simp] theorem State.setEngine_phaseAt (s : State) (c e : Nat) (v : Eng) : (s.setEngine c e v).phaseAt = s.phaseAt := rfl
@[simp] theorem State.setEngine_que (s : State) (c e : Nat) (v : Eng) : (s.setEngine c e v).que = s.que := rfl
@[simp] theorem State.setEngine_dma (s : State) (c e : Nat) (v : Eng) : (s.setEngine c e v).dma = s.dma := rfl
@[simp] theorem State.setEngine_port0 (s : State) (c e : Nat) (v : Eng) : (s.setEngine c e v).port0 = s.port0 := rfl
@[simp] theorem State.setEngine_port1 (s : State) (c e : Nat) (v : Eng) : (s.setEngine c e v).port1 = s.port1 := rfl
@[simp] theorem State.setEngine_ten (s : State) (c e : Nat) (v : Eng) : (s.setEngine c e v).ten = s.ten := rfl
@[simp] theorem State.setEngine_cfg (s : State) (c e : Nat) (v : Eng) : (s.setEngine c e v).cfg = s.cfg := rfl
@[simp] theorem State.setEngine_dir (s : State) (c e : Nat) (v : Eng) : (s.setEngine c e v).dir = s.dir := rfl
@[simp] theorem State.setEngine_psa (s : State) (c e : Nat) (v : Eng) : (s.setEngine c e v).psa = s.psa := rfl
@[simp] theorem State.setEngine_tier (s : State) (c e : Nat) (v : Eng) : (s.setEngine c e v).tier = s.tier := rfl
@[simp] theorem State.setEngine_pfs (s : State) (c e : Nat) (v : Eng) : (s.setEngine c e v).pfs = s.pfs := rfl
@[simp] theorem State.setEngine_npa (s : State) (c e : Nat) (v : Eng) : (s.setEngine c e v).npa = s.npa := rfl
@[simp] theorem State.setEngine_stk (s : State) (c e : Nat) (v : Eng) : (s.setEngine c e v).stk = s.stk := rfl
@[simp] theorem State.setEngine_net (s : State) (c e : Nat) (v : Eng) : (s.setEngine c e v).net = s.net := rfl
@[simp] theorem State.setEngine_flm (s : State) (c e : Nat) (v : Eng) : (s.setEngine c e v).flm = s.flm := rfl
@[simp] theorem State.setEngine_hlt (s : State) (c e : Nat) (v : Eng) : (s.setEngine c e v).hlt = s.hlt := rfl
@[simp] theorem State.setEngine_sec (s : State) (c e : Nat) (v : Eng) : (s.setEngine c e v).sec = s.sec := rfl
@[simp] theorem State.setEngine_pwr (s : State) (c e : Nat) (v : Eng) : (s.setEngine c e v).pwr = s.pwr := rfl
@[simp] theorem State.setEngine_ras (s : State) (c e : Nat) (v : Eng) : (s.setEngine c e v).ras = s.ras := rfl
@[simp] theorem State.setEngine_fns (s : State) (c e : Nat) (v : Eng) : (s.setEngine c e v).fns = s.fns := rfl

@[simp] theorem State.setCtx_pending (s : State) (q : Nat) (v : Ctx) : (s.setCtx q v).pending = s.pending := rfl
@[simp] theorem State.setCtx_clk (s : State) (q : Nat) (v : Ctx) : (s.setCtx q v).clk = s.clk := rfl
@[simp] theorem State.setCtx_resetAt (s : State) (q : Nat) (v : Ctx) : (s.setCtx q v).resetAt = s.resetAt := rfl
@[simp] theorem State.setCtx_part (s : State) (q : Nat) (v : Ctx) : (s.setCtx q v).part = s.part := rfl
@[simp] theorem State.setCtx_free (s : State) (q : Nat) (v : Ctx) : (s.setCtx q v).free = s.free := rfl
@[simp] theorem State.setCtx_out (s : State) (q : Nat) (v : Ctx) : (s.setCtx q v).out = s.out := rfl
@[simp] theorem State.setCtx_regs (s : State) (q : Nat) (v : Ctx) : (s.setCtx q v).regs = s.regs := rfl
@[simp] theorem State.setCtx_act (s : State) (q : Nat) (v : Ctx) : (s.setCtx q v).act = s.act := rfl
@[simp] theorem State.setCtx_pend (s : State) (q : Nat) (v : Ctx) : (s.setCtx q v).pend = s.pend := rfl
@[simp] theorem State.setCtx_prev (s : State) (q : Nat) (v : Ctx) : (s.setCtx q v).prev = s.prev := rfl
@[simp] theorem State.setCtx_latch (s : State) (q : Nat) (v : Ctx) : (s.setCtx q v).latch = s.latch := rfl
@[simp] theorem State.setCtx_host0 (s : State) (q : Nat) (v : Ctx) : (s.setCtx q v).host0 = s.host0 := rfl
@[simp] theorem State.setCtx_host1 (s : State) (q : Nat) (v : Ctx) : (s.setCtx q v).host1 = s.host1 := rfl
@[simp] theorem State.setCtx_bad (s : State) (q : Nat) (v : Ctx) : (s.setCtx q v).bad = s.bad := rfl
@[simp] theorem State.setCtx_page (s : State) (q : Nat) (v : Ctx) : (s.setCtx q v).page = s.page := rfl
@[simp] theorem State.setCtx_cxl (s : State) (q : Nat) (v : Ctx) : (s.setCtx q v).cxl = s.cxl := rfl
@[simp] theorem State.setCtx_start (s : State) (q : Nat) (v : Ctx) : (s.setCtx q v).start = s.start := rfl
@[simp] theorem State.setCtx_phaseDone (s : State) (q : Nat) (v : Ctx) : (s.setCtx q v).phaseDone = s.phaseDone := rfl
@[simp] theorem State.setCtx_phaseAt (s : State) (q : Nat) (v : Ctx) : (s.setCtx q v).phaseAt = s.phaseAt := rfl
@[simp] theorem State.setCtx_que (s : State) (q : Nat) (v : Ctx) : (s.setCtx q v).que = s.que := rfl
@[simp] theorem State.setCtx_dma (s : State) (q : Nat) (v : Ctx) : (s.setCtx q v).dma = s.dma := rfl
@[simp] theorem State.setCtx_port0 (s : State) (q : Nat) (v : Ctx) : (s.setCtx q v).port0 = s.port0 := rfl
@[simp] theorem State.setCtx_port1 (s : State) (q : Nat) (v : Ctx) : (s.setCtx q v).port1 = s.port1 := rfl
@[simp] theorem State.setCtx_ten (s : State) (q : Nat) (v : Ctx) : (s.setCtx q v).ten = s.ten := rfl
@[simp] theorem State.setCtx_cfg (s : State) (q : Nat) (v : Ctx) : (s.setCtx q v).cfg = s.cfg := rfl
@[simp] theorem State.setCtx_dir (s : State) (q : Nat) (v : Ctx) : (s.setCtx q v).dir = s.dir := rfl
@[simp] theorem State.setCtx_psa (s : State) (q : Nat) (v : Ctx) : (s.setCtx q v).psa = s.psa := rfl
@[simp] theorem State.setCtx_tier (s : State) (q : Nat) (v : Ctx) : (s.setCtx q v).tier = s.tier := rfl
@[simp] theorem State.setCtx_pfs (s : State) (q : Nat) (v : Ctx) : (s.setCtx q v).pfs = s.pfs := rfl
@[simp] theorem State.setCtx_npa (s : State) (q : Nat) (v : Ctx) : (s.setCtx q v).npa = s.npa := rfl
@[simp] theorem State.setCtx_brn (s : State) (q : Nat) (v : Ctx) : (s.setCtx q v).brn = s.brn := rfl
@[simp] theorem State.setCtx_stk (s : State) (q : Nat) (v : Ctx) : (s.setCtx q v).stk = s.stk := rfl
@[simp] theorem State.setCtx_flm (s : State) (q : Nat) (v : Ctx) : (s.setCtx q v).flm = s.flm := rfl
@[simp] theorem State.setCtx_hlt (s : State) (q : Nat) (v : Ctx) : (s.setCtx q v).hlt = s.hlt := rfl
@[simp] theorem State.setCtx_sec (s : State) (q : Nat) (v : Ctx) : (s.setCtx q v).sec = s.sec := rfl
@[simp] theorem State.setCtx_pwr (s : State) (q : Nat) (v : Ctx) : (s.setCtx q v).pwr = s.pwr := rfl
@[simp] theorem State.setCtx_ras (s : State) (q : Nat) (v : Ctx) : (s.setCtx q v).ras = s.ras := rfl
@[simp] theorem State.setCtx_fns (s : State) (q : Nat) (v : Ctx) : (s.setCtx q v).fns = s.fns := rfl

@[simp] theorem State.setConn_pending (s : State) (q : Nat) (v : Conn) : (s.setConn q v).pending = s.pending := rfl
@[simp] theorem State.setConn_clk (s : State) (q : Nat) (v : Conn) : (s.setConn q v).clk = s.clk := rfl
@[simp] theorem State.setConn_resetAt (s : State) (q : Nat) (v : Conn) : (s.setConn q v).resetAt = s.resetAt := rfl
@[simp] theorem State.setConn_part (s : State) (q : Nat) (v : Conn) : (s.setConn q v).part = s.part := rfl
@[simp] theorem State.setConn_free (s : State) (q : Nat) (v : Conn) : (s.setConn q v).free = s.free := rfl
@[simp] theorem State.setConn_out (s : State) (q : Nat) (v : Conn) : (s.setConn q v).out = s.out := rfl
@[simp] theorem State.setConn_regs (s : State) (q : Nat) (v : Conn) : (s.setConn q v).regs = s.regs := rfl
@[simp] theorem State.setConn_act (s : State) (q : Nat) (v : Conn) : (s.setConn q v).act = s.act := rfl
@[simp] theorem State.setConn_pend (s : State) (q : Nat) (v : Conn) : (s.setConn q v).pend = s.pend := rfl
@[simp] theorem State.setConn_prev (s : State) (q : Nat) (v : Conn) : (s.setConn q v).prev = s.prev := rfl
@[simp] theorem State.setConn_latch (s : State) (q : Nat) (v : Conn) : (s.setConn q v).latch = s.latch := rfl
@[simp] theorem State.setConn_host0 (s : State) (q : Nat) (v : Conn) : (s.setConn q v).host0 = s.host0 := rfl
@[simp] theorem State.setConn_host1 (s : State) (q : Nat) (v : Conn) : (s.setConn q v).host1 = s.host1 := rfl
@[simp] theorem State.setConn_bad (s : State) (q : Nat) (v : Conn) : (s.setConn q v).bad = s.bad := rfl
@[simp] theorem State.setConn_page (s : State) (q : Nat) (v : Conn) : (s.setConn q v).page = s.page := rfl
@[simp] theorem State.setConn_cxl (s : State) (q : Nat) (v : Conn) : (s.setConn q v).cxl = s.cxl := rfl
@[simp] theorem State.setConn_start (s : State) (q : Nat) (v : Conn) : (s.setConn q v).start = s.start := rfl
@[simp] theorem State.setConn_phaseDone (s : State) (q : Nat) (v : Conn) : (s.setConn q v).phaseDone = s.phaseDone := rfl
@[simp] theorem State.setConn_phaseAt (s : State) (q : Nat) (v : Conn) : (s.setConn q v).phaseAt = s.phaseAt := rfl
@[simp] theorem State.setConn_que (s : State) (q : Nat) (v : Conn) : (s.setConn q v).que = s.que := rfl
@[simp] theorem State.setConn_dma (s : State) (q : Nat) (v : Conn) : (s.setConn q v).dma = s.dma := rfl
@[simp] theorem State.setConn_port0 (s : State) (q : Nat) (v : Conn) : (s.setConn q v).port0 = s.port0 := rfl
@[simp] theorem State.setConn_port1 (s : State) (q : Nat) (v : Conn) : (s.setConn q v).port1 = s.port1 := rfl
@[simp] theorem State.setConn_ten (s : State) (q : Nat) (v : Conn) : (s.setConn q v).ten = s.ten := rfl
@[simp] theorem State.setConn_cfg (s : State) (q : Nat) (v : Conn) : (s.setConn q v).cfg = s.cfg := rfl
@[simp] theorem State.setConn_dir (s : State) (q : Nat) (v : Conn) : (s.setConn q v).dir = s.dir := rfl
@[simp] theorem State.setConn_psa (s : State) (q : Nat) (v : Conn) : (s.setConn q v).psa = s.psa := rfl
@[simp] theorem State.setConn_tier (s : State) (q : Nat) (v : Conn) : (s.setConn q v).tier = s.tier := rfl
@[simp] theorem State.setConn_pfs (s : State) (q : Nat) (v : Conn) : (s.setConn q v).pfs = s.pfs := rfl
@[simp] theorem State.setConn_npa (s : State) (q : Nat) (v : Conn) : (s.setConn q v).npa = s.npa := rfl
@[simp] theorem State.setConn_brn (s : State) (q : Nat) (v : Conn) : (s.setConn q v).brn = s.brn := rfl
@[simp] theorem State.setConn_stk (s : State) (q : Nat) (v : Conn) : (s.setConn q v).stk = s.stk := rfl
@[simp] theorem State.setConn_flm (s : State) (q : Nat) (v : Conn) : (s.setConn q v).flm = s.flm := rfl
@[simp] theorem State.setConn_hlt (s : State) (q : Nat) (v : Conn) : (s.setConn q v).hlt = s.hlt := rfl
@[simp] theorem State.setConn_sec (s : State) (q : Nat) (v : Conn) : (s.setConn q v).sec = s.sec := rfl
@[simp] theorem State.setConn_pwr (s : State) (q : Nat) (v : Conn) : (s.setConn q v).pwr = s.pwr := rfl
@[simp] theorem State.setConn_ras (s : State) (q : Nat) (v : Conn) : (s.setConn q v).ras = s.ras := rfl
@[simp] theorem State.setConn_fns (s : State) (q : Nat) (v : Conn) : (s.setConn q v).fns = s.fns := rfl

@[simp] theorem State.setGate_pending (s : State) (n : Nat) (v : Gate) : (s.setGate n v).pending = s.pending := rfl
@[simp] theorem State.setGate_clk (s : State) (n : Nat) (v : Gate) : (s.setGate n v).clk = s.clk := rfl
@[simp] theorem State.setGate_resetAt (s : State) (n : Nat) (v : Gate) : (s.setGate n v).resetAt = s.resetAt := rfl
@[simp] theorem State.setGate_part (s : State) (n : Nat) (v : Gate) : (s.setGate n v).part = s.part := rfl
@[simp] theorem State.setGate_free (s : State) (n : Nat) (v : Gate) : (s.setGate n v).free = s.free := rfl
@[simp] theorem State.setGate_out (s : State) (n : Nat) (v : Gate) : (s.setGate n v).out = s.out := rfl
@[simp] theorem State.setGate_regs (s : State) (n : Nat) (v : Gate) : (s.setGate n v).regs = s.regs := rfl
@[simp] theorem State.setGate_act (s : State) (n : Nat) (v : Gate) : (s.setGate n v).act = s.act := rfl
@[simp] theorem State.setGate_pend (s : State) (n : Nat) (v : Gate) : (s.setGate n v).pend = s.pend := rfl
@[simp] theorem State.setGate_prev (s : State) (n : Nat) (v : Gate) : (s.setGate n v).prev = s.prev := rfl
@[simp] theorem State.setGate_latch (s : State) (n : Nat) (v : Gate) : (s.setGate n v).latch = s.latch := rfl
@[simp] theorem State.setGate_host0 (s : State) (n : Nat) (v : Gate) : (s.setGate n v).host0 = s.host0 := rfl
@[simp] theorem State.setGate_host1 (s : State) (n : Nat) (v : Gate) : (s.setGate n v).host1 = s.host1 := rfl
@[simp] theorem State.setGate_bad (s : State) (n : Nat) (v : Gate) : (s.setGate n v).bad = s.bad := rfl
@[simp] theorem State.setGate_page (s : State) (n : Nat) (v : Gate) : (s.setGate n v).page = s.page := rfl
@[simp] theorem State.setGate_cxl (s : State) (n : Nat) (v : Gate) : (s.setGate n v).cxl = s.cxl := rfl
@[simp] theorem State.setGate_start (s : State) (n : Nat) (v : Gate) : (s.setGate n v).start = s.start := rfl
@[simp] theorem State.setGate_phaseDone (s : State) (n : Nat) (v : Gate) : (s.setGate n v).phaseDone = s.phaseDone := rfl
@[simp] theorem State.setGate_phaseAt (s : State) (n : Nat) (v : Gate) : (s.setGate n v).phaseAt = s.phaseAt := rfl
@[simp] theorem State.setGate_que (s : State) (n : Nat) (v : Gate) : (s.setGate n v).que = s.que := rfl
@[simp] theorem State.setGate_dma (s : State) (n : Nat) (v : Gate) : (s.setGate n v).dma = s.dma := rfl
@[simp] theorem State.setGate_port0 (s : State) (n : Nat) (v : Gate) : (s.setGate n v).port0 = s.port0 := rfl
@[simp] theorem State.setGate_port1 (s : State) (n : Nat) (v : Gate) : (s.setGate n v).port1 = s.port1 := rfl
@[simp] theorem State.setGate_ten (s : State) (n : Nat) (v : Gate) : (s.setGate n v).ten = s.ten := rfl
@[simp] theorem State.setGate_cfg (s : State) (n : Nat) (v : Gate) : (s.setGate n v).cfg = s.cfg := rfl
@[simp] theorem State.setGate_dir (s : State) (n : Nat) (v : Gate) : (s.setGate n v).dir = s.dir := rfl
@[simp] theorem State.setGate_psa (s : State) (n : Nat) (v : Gate) : (s.setGate n v).psa = s.psa := rfl
@[simp] theorem State.setGate_tier (s : State) (n : Nat) (v : Gate) : (s.setGate n v).tier = s.tier := rfl
@[simp] theorem State.setGate_pfs (s : State) (n : Nat) (v : Gate) : (s.setGate n v).pfs = s.pfs := rfl
@[simp] theorem State.setGate_npa (s : State) (n : Nat) (v : Gate) : (s.setGate n v).npa = s.npa := rfl
@[simp] theorem State.setGate_brn (s : State) (n : Nat) (v : Gate) : (s.setGate n v).brn = s.brn := rfl
@[simp] theorem State.setGate_stk (s : State) (n : Nat) (v : Gate) : (s.setGate n v).stk = s.stk := rfl
@[simp] theorem State.setGate_flm (s : State) (n : Nat) (v : Gate) : (s.setGate n v).flm = s.flm := rfl
@[simp] theorem State.setGate_hlt (s : State) (n : Nat) (v : Gate) : (s.setGate n v).hlt = s.hlt := rfl
@[simp] theorem State.setGate_sec (s : State) (n : Nat) (v : Gate) : (s.setGate n v).sec = s.sec := rfl
@[simp] theorem State.setGate_pwr (s : State) (n : Nat) (v : Gate) : (s.setGate n v).pwr = s.pwr := rfl
@[simp] theorem State.setGate_ras (s : State) (n : Nat) (v : Gate) : (s.setGate n v).ras = s.ras := rfl
@[simp] theorem State.setGate_fns (s : State) (n : Nat) (v : Gate) : (s.setGate n v).fns = s.fns := rfl

@[simp] theorem State.setNetPort_pending (s : State) (n : Nat) (v : NetPort) : (s.setNetPort n v).pending = s.pending := rfl
@[simp] theorem State.setNetPort_clk (s : State) (n : Nat) (v : NetPort) : (s.setNetPort n v).clk = s.clk := rfl
@[simp] theorem State.setNetPort_resetAt (s : State) (n : Nat) (v : NetPort) : (s.setNetPort n v).resetAt = s.resetAt := rfl
@[simp] theorem State.setNetPort_part (s : State) (n : Nat) (v : NetPort) : (s.setNetPort n v).part = s.part := rfl
@[simp] theorem State.setNetPort_free (s : State) (n : Nat) (v : NetPort) : (s.setNetPort n v).free = s.free := rfl
@[simp] theorem State.setNetPort_out (s : State) (n : Nat) (v : NetPort) : (s.setNetPort n v).out = s.out := rfl
@[simp] theorem State.setNetPort_regs (s : State) (n : Nat) (v : NetPort) : (s.setNetPort n v).regs = s.regs := rfl
@[simp] theorem State.setNetPort_act (s : State) (n : Nat) (v : NetPort) : (s.setNetPort n v).act = s.act := rfl
@[simp] theorem State.setNetPort_pend (s : State) (n : Nat) (v : NetPort) : (s.setNetPort n v).pend = s.pend := rfl
@[simp] theorem State.setNetPort_prev (s : State) (n : Nat) (v : NetPort) : (s.setNetPort n v).prev = s.prev := rfl
@[simp] theorem State.setNetPort_latch (s : State) (n : Nat) (v : NetPort) : (s.setNetPort n v).latch = s.latch := rfl
@[simp] theorem State.setNetPort_host0 (s : State) (n : Nat) (v : NetPort) : (s.setNetPort n v).host0 = s.host0 := rfl
@[simp] theorem State.setNetPort_host1 (s : State) (n : Nat) (v : NetPort) : (s.setNetPort n v).host1 = s.host1 := rfl
@[simp] theorem State.setNetPort_bad (s : State) (n : Nat) (v : NetPort) : (s.setNetPort n v).bad = s.bad := rfl
@[simp] theorem State.setNetPort_page (s : State) (n : Nat) (v : NetPort) : (s.setNetPort n v).page = s.page := rfl
@[simp] theorem State.setNetPort_cxl (s : State) (n : Nat) (v : NetPort) : (s.setNetPort n v).cxl = s.cxl := rfl
@[simp] theorem State.setNetPort_start (s : State) (n : Nat) (v : NetPort) : (s.setNetPort n v).start = s.start := rfl
@[simp] theorem State.setNetPort_phaseDone (s : State) (n : Nat) (v : NetPort) : (s.setNetPort n v).phaseDone = s.phaseDone := rfl
@[simp] theorem State.setNetPort_phaseAt (s : State) (n : Nat) (v : NetPort) : (s.setNetPort n v).phaseAt = s.phaseAt := rfl
@[simp] theorem State.setNetPort_que (s : State) (n : Nat) (v : NetPort) : (s.setNetPort n v).que = s.que := rfl
@[simp] theorem State.setNetPort_dma (s : State) (n : Nat) (v : NetPort) : (s.setNetPort n v).dma = s.dma := rfl
@[simp] theorem State.setNetPort_port0 (s : State) (n : Nat) (v : NetPort) : (s.setNetPort n v).port0 = s.port0 := rfl
@[simp] theorem State.setNetPort_port1 (s : State) (n : Nat) (v : NetPort) : (s.setNetPort n v).port1 = s.port1 := rfl
@[simp] theorem State.setNetPort_ten (s : State) (n : Nat) (v : NetPort) : (s.setNetPort n v).ten = s.ten := rfl
@[simp] theorem State.setNetPort_cfg (s : State) (n : Nat) (v : NetPort) : (s.setNetPort n v).cfg = s.cfg := rfl
@[simp] theorem State.setNetPort_dir (s : State) (n : Nat) (v : NetPort) : (s.setNetPort n v).dir = s.dir := rfl
@[simp] theorem State.setNetPort_psa (s : State) (n : Nat) (v : NetPort) : (s.setNetPort n v).psa = s.psa := rfl
@[simp] theorem State.setNetPort_tier (s : State) (n : Nat) (v : NetPort) : (s.setNetPort n v).tier = s.tier := rfl
@[simp] theorem State.setNetPort_pfs (s : State) (n : Nat) (v : NetPort) : (s.setNetPort n v).pfs = s.pfs := rfl
@[simp] theorem State.setNetPort_npa (s : State) (n : Nat) (v : NetPort) : (s.setNetPort n v).npa = s.npa := rfl
@[simp] theorem State.setNetPort_brn (s : State) (n : Nat) (v : NetPort) : (s.setNetPort n v).brn = s.brn := rfl
@[simp] theorem State.setNetPort_stk (s : State) (n : Nat) (v : NetPort) : (s.setNetPort n v).stk = s.stk := rfl
@[simp] theorem State.setNetPort_flm (s : State) (n : Nat) (v : NetPort) : (s.setNetPort n v).flm = s.flm := rfl
@[simp] theorem State.setNetPort_hlt (s : State) (n : Nat) (v : NetPort) : (s.setNetPort n v).hlt = s.hlt := rfl
@[simp] theorem State.setNetPort_sec (s : State) (n : Nat) (v : NetPort) : (s.setNetPort n v).sec = s.sec := rfl
@[simp] theorem State.setNetPort_pwr (s : State) (n : Nat) (v : NetPort) : (s.setNetPort n v).pwr = s.pwr := rfl
@[simp] theorem State.setNetPort_ras (s : State) (n : Nat) (v : NetPort) : (s.setNetPort n v).ras = s.ras := rfl
@[simp] theorem State.setNetPort_fns (s : State) (n : Nat) (v : NetPort) : (s.setNetPort n v).fns = s.fns := rfl

@[simp] theorem State.setFn_pending (s : State) (p ld : Nat) (v : PciFn) : (s.setFn p ld v).pending = s.pending := rfl
@[simp] theorem State.setFn_clk (s : State) (p ld : Nat) (v : PciFn) : (s.setFn p ld v).clk = s.clk := rfl
@[simp] theorem State.setFn_resetAt (s : State) (p ld : Nat) (v : PciFn) : (s.setFn p ld v).resetAt = s.resetAt := rfl
@[simp] theorem State.setFn_part (s : State) (p ld : Nat) (v : PciFn) : (s.setFn p ld v).part = s.part := rfl
@[simp] theorem State.setFn_free (s : State) (p ld : Nat) (v : PciFn) : (s.setFn p ld v).free = s.free := rfl
@[simp] theorem State.setFn_out (s : State) (p ld : Nat) (v : PciFn) : (s.setFn p ld v).out = s.out := rfl
@[simp] theorem State.setFn_regs (s : State) (p ld : Nat) (v : PciFn) : (s.setFn p ld v).regs = s.regs := rfl
@[simp] theorem State.setFn_act (s : State) (p ld : Nat) (v : PciFn) : (s.setFn p ld v).act = s.act := rfl
@[simp] theorem State.setFn_pend (s : State) (p ld : Nat) (v : PciFn) : (s.setFn p ld v).pend = s.pend := rfl
@[simp] theorem State.setFn_prev (s : State) (p ld : Nat) (v : PciFn) : (s.setFn p ld v).prev = s.prev := rfl
@[simp] theorem State.setFn_latch (s : State) (p ld : Nat) (v : PciFn) : (s.setFn p ld v).latch = s.latch := rfl
@[simp] theorem State.setFn_host0 (s : State) (p ld : Nat) (v : PciFn) : (s.setFn p ld v).host0 = s.host0 := rfl
@[simp] theorem State.setFn_host1 (s : State) (p ld : Nat) (v : PciFn) : (s.setFn p ld v).host1 = s.host1 := rfl
@[simp] theorem State.setFn_bad (s : State) (p ld : Nat) (v : PciFn) : (s.setFn p ld v).bad = s.bad := rfl
@[simp] theorem State.setFn_page (s : State) (p ld : Nat) (v : PciFn) : (s.setFn p ld v).page = s.page := rfl
@[simp] theorem State.setFn_cxl (s : State) (p ld : Nat) (v : PciFn) : (s.setFn p ld v).cxl = s.cxl := rfl
@[simp] theorem State.setFn_start (s : State) (p ld : Nat) (v : PciFn) : (s.setFn p ld v).start = s.start := rfl
@[simp] theorem State.setFn_phaseDone (s : State) (p ld : Nat) (v : PciFn) : (s.setFn p ld v).phaseDone = s.phaseDone := rfl
@[simp] theorem State.setFn_phaseAt (s : State) (p ld : Nat) (v : PciFn) : (s.setFn p ld v).phaseAt = s.phaseAt := rfl
@[simp] theorem State.setFn_que (s : State) (p ld : Nat) (v : PciFn) : (s.setFn p ld v).que = s.que := rfl
@[simp] theorem State.setFn_dma (s : State) (p ld : Nat) (v : PciFn) : (s.setFn p ld v).dma = s.dma := rfl
@[simp] theorem State.setFn_port0 (s : State) (p ld : Nat) (v : PciFn) : (s.setFn p ld v).port0 = s.port0 := rfl
@[simp] theorem State.setFn_port1 (s : State) (p ld : Nat) (v : PciFn) : (s.setFn p ld v).port1 = s.port1 := rfl
@[simp] theorem State.setFn_ten (s : State) (p ld : Nat) (v : PciFn) : (s.setFn p ld v).ten = s.ten := rfl
@[simp] theorem State.setFn_cfg (s : State) (p ld : Nat) (v : PciFn) : (s.setFn p ld v).cfg = s.cfg := rfl
@[simp] theorem State.setFn_dir (s : State) (p ld : Nat) (v : PciFn) : (s.setFn p ld v).dir = s.dir := rfl
@[simp] theorem State.setFn_psa (s : State) (p ld : Nat) (v : PciFn) : (s.setFn p ld v).psa = s.psa := rfl
@[simp] theorem State.setFn_tier (s : State) (p ld : Nat) (v : PciFn) : (s.setFn p ld v).tier = s.tier := rfl
@[simp] theorem State.setFn_pfs (s : State) (p ld : Nat) (v : PciFn) : (s.setFn p ld v).pfs = s.pfs := rfl
@[simp] theorem State.setFn_npa (s : State) (p ld : Nat) (v : PciFn) : (s.setFn p ld v).npa = s.npa := rfl
@[simp] theorem State.setFn_brn (s : State) (p ld : Nat) (v : PciFn) : (s.setFn p ld v).brn = s.brn := rfl
@[simp] theorem State.setFn_stk (s : State) (p ld : Nat) (v : PciFn) : (s.setFn p ld v).stk = s.stk := rfl
@[simp] theorem State.setFn_flm (s : State) (p ld : Nat) (v : PciFn) : (s.setFn p ld v).flm = s.flm := rfl
@[simp] theorem State.setFn_hlt (s : State) (p ld : Nat) (v : PciFn) : (s.setFn p ld v).hlt = s.hlt := rfl
@[simp] theorem State.setFn_sec (s : State) (p ld : Nat) (v : PciFn) : (s.setFn p ld v).sec = s.sec := rfl
@[simp] theorem State.setFn_pwr (s : State) (p ld : Nat) (v : PciFn) : (s.setFn p ld v).pwr = s.pwr := rfl
@[simp] theorem State.setFn_ras (s : State) (p ld : Nat) (v : PciFn) : (s.setFn p ld v).ras = s.ras := rfl
@[simp] theorem State.setFn_net (s : State) (p ld : Nat) (v : PciFn) : (s.setFn p ld v).net = s.net := rfl

@[simp] theorem State.setHost_pending (s : State) (p : Nat) (m : Mem) : (s.setHost p m).pending = s.pending := by unfold State.setHost; split <;> rfl
@[simp] theorem State.setHost_clk (s : State) (p : Nat) (m : Mem) : (s.setHost p m).clk = s.clk := by unfold State.setHost; split <;> rfl
@[simp] theorem State.setHost_resetAt (s : State) (p : Nat) (m : Mem) : (s.setHost p m).resetAt = s.resetAt := by unfold State.setHost; split <;> rfl
@[simp] theorem State.setHost_free (s : State) (p : Nat) (m : Mem) : (s.setHost p m).free = s.free := by unfold State.setHost; split <;> rfl
@[simp] theorem State.setHost_out (s : State) (p : Nat) (m : Mem) : (s.setHost p m).out = s.out := by unfold State.setHost; split <;> rfl
@[simp] theorem State.setHost_regs (s : State) (p : Nat) (m : Mem) : (s.setHost p m).regs = s.regs := by unfold State.setHost; split <;> rfl
@[simp] theorem State.setHost_act (s : State) (p : Nat) (m : Mem) : (s.setHost p m).act = s.act := by unfold State.setHost; split <;> rfl
@[simp] theorem State.setHost_pend (s : State) (p : Nat) (m : Mem) : (s.setHost p m).pend = s.pend := by unfold State.setHost; split <;> rfl
@[simp] theorem State.setHost_prev (s : State) (p : Nat) (m : Mem) : (s.setHost p m).prev = s.prev := by unfold State.setHost; split <;> rfl
@[simp] theorem State.setHost_latch (s : State) (p : Nat) (m : Mem) : (s.setHost p m).latch = s.latch := by unfold State.setHost; split <;> rfl
@[simp] theorem State.setHost_bad (s : State) (p : Nat) (m : Mem) : (s.setHost p m).bad = s.bad := by unfold State.setHost; split <;> rfl
@[simp] theorem State.setHost_page (s : State) (p : Nat) (m : Mem) : (s.setHost p m).page = s.page := by unfold State.setHost; split <;> rfl
@[simp] theorem State.setHost_cxl (s : State) (p : Nat) (m : Mem) : (s.setHost p m).cxl = s.cxl := by unfold State.setHost; split <;> rfl
@[simp] theorem State.setHost_start (s : State) (p : Nat) (m : Mem) : (s.setHost p m).start = s.start := by unfold State.setHost; split <;> rfl
@[simp] theorem State.setHost_phaseDone (s : State) (p : Nat) (m : Mem) : (s.setHost p m).phaseDone = s.phaseDone := by unfold State.setHost; split <;> rfl
@[simp] theorem State.setHost_phaseAt (s : State) (p : Nat) (m : Mem) : (s.setHost p m).phaseAt = s.phaseAt := by unfold State.setHost; split <;> rfl
@[simp] theorem State.setHost_que (s : State) (p : Nat) (m : Mem) : (s.setHost p m).que = s.que := by unfold State.setHost; split <;> rfl
@[simp] theorem State.setHost_dma (s : State) (p : Nat) (m : Mem) : (s.setHost p m).dma = s.dma := by unfold State.setHost; split <;> rfl
@[simp] theorem State.setHost_port0 (s : State) (p : Nat) (m : Mem) : (s.setHost p m).port0 = s.port0 := by unfold State.setHost; split <;> rfl
@[simp] theorem State.setHost_port1 (s : State) (p : Nat) (m : Mem) : (s.setHost p m).port1 = s.port1 := by unfold State.setHost; split <;> rfl
@[simp] theorem State.setHost_ten (s : State) (p : Nat) (m : Mem) : (s.setHost p m).ten = s.ten := by unfold State.setHost; split <;> rfl
@[simp] theorem State.setHost_cfg (s : State) (p : Nat) (m : Mem) : (s.setHost p m).cfg = s.cfg := by unfold State.setHost; split <;> rfl
@[simp] theorem State.setHost_dir (s : State) (p : Nat) (m : Mem) : (s.setHost p m).dir = s.dir := by unfold State.setHost; split <;> rfl
@[simp] theorem State.setHost_psa (s : State) (p : Nat) (m : Mem) : (s.setHost p m).psa = s.psa := by unfold State.setHost; split <;> rfl
@[simp] theorem State.setHost_tier (s : State) (p : Nat) (m : Mem) : (s.setHost p m).tier = s.tier := by unfold State.setHost; split <;> rfl
@[simp] theorem State.setHost_pfs (s : State) (p : Nat) (m : Mem) : (s.setHost p m).pfs = s.pfs := by unfold State.setHost; split <;> rfl
@[simp] theorem State.setHost_npa (s : State) (p : Nat) (m : Mem) : (s.setHost p m).npa = s.npa := by unfold State.setHost; split <;> rfl
@[simp] theorem State.setHost_brn (s : State) (p : Nat) (m : Mem) : (s.setHost p m).brn = s.brn := by unfold State.setHost; split <;> rfl
@[simp] theorem State.setHost_stk (s : State) (p : Nat) (m : Mem) : (s.setHost p m).stk = s.stk := by unfold State.setHost; split <;> rfl
@[simp] theorem State.setHost_net (s : State) (p : Nat) (m : Mem) : (s.setHost p m).net = s.net := by unfold State.setHost; split <;> rfl
@[simp] theorem State.setHost_flm (s : State) (p : Nat) (m : Mem) : (s.setHost p m).flm = s.flm := by unfold State.setHost; split <;> rfl
@[simp] theorem State.setHost_hlt (s : State) (p : Nat) (m : Mem) : (s.setHost p m).hlt = s.hlt := by unfold State.setHost; split <;> rfl
@[simp] theorem State.setHost_sec (s : State) (p : Nat) (m : Mem) : (s.setHost p m).sec = s.sec := by unfold State.setHost; split <;> rfl
@[simp] theorem State.setHost_pwr (s : State) (p : Nat) (m : Mem) : (s.setHost p m).pwr = s.pwr := by unfold State.setHost; split <;> rfl
@[simp] theorem State.setHost_ras (s : State) (p : Nat) (m : Mem) : (s.setHost p m).ras = s.ras := by unfold State.setHost; split <;> rfl
@[simp] theorem State.setHost_fns (s : State) (p : Nat) (m : Mem) : (s.setHost p m).fns = s.fns := by unfold State.setHost; split <;> rfl

@[simp] theorem State.setPort_pending (s : State) (p : Nat) (v : Port) : (s.setPort p v).pending = s.pending := by unfold State.setPort; split <;> rfl
@[simp] theorem State.setPort_clk (s : State) (p : Nat) (v : Port) : (s.setPort p v).clk = s.clk := by unfold State.setPort; split <;> rfl
@[simp] theorem State.setPort_resetAt (s : State) (p : Nat) (v : Port) : (s.setPort p v).resetAt = s.resetAt := by unfold State.setPort; split <;> rfl
@[simp] theorem State.setPort_free (s : State) (p : Nat) (v : Port) : (s.setPort p v).free = s.free := by unfold State.setPort; split <;> rfl
@[simp] theorem State.setPort_out (s : State) (p : Nat) (v : Port) : (s.setPort p v).out = s.out := by unfold State.setPort; split <;> rfl
@[simp] theorem State.setPort_regs (s : State) (p : Nat) (v : Port) : (s.setPort p v).regs = s.regs := by unfold State.setPort; split <;> rfl
@[simp] theorem State.setPort_act (s : State) (p : Nat) (v : Port) : (s.setPort p v).act = s.act := by unfold State.setPort; split <;> rfl
@[simp] theorem State.setPort_pend (s : State) (p : Nat) (v : Port) : (s.setPort p v).pend = s.pend := by unfold State.setPort; split <;> rfl
@[simp] theorem State.setPort_prev (s : State) (p : Nat) (v : Port) : (s.setPort p v).prev = s.prev := by unfold State.setPort; split <;> rfl
@[simp] theorem State.setPort_latch (s : State) (p : Nat) (v : Port) : (s.setPort p v).latch = s.latch := by unfold State.setPort; split <;> rfl
@[simp] theorem State.setPort_host0 (s : State) (p : Nat) (v : Port) : (s.setPort p v).host0 = s.host0 := by unfold State.setPort; split <;> rfl
@[simp] theorem State.setPort_host1 (s : State) (p : Nat) (v : Port) : (s.setPort p v).host1 = s.host1 := by unfold State.setPort; split <;> rfl
@[simp] theorem State.setPort_bad (s : State) (p : Nat) (v : Port) : (s.setPort p v).bad = s.bad := by unfold State.setPort; split <;> rfl
@[simp] theorem State.setPort_page (s : State) (p : Nat) (v : Port) : (s.setPort p v).page = s.page := by unfold State.setPort; split <;> rfl
@[simp] theorem State.setPort_cxl (s : State) (p : Nat) (v : Port) : (s.setPort p v).cxl = s.cxl := by unfold State.setPort; split <;> rfl
@[simp] theorem State.setPort_start (s : State) (p : Nat) (v : Port) : (s.setPort p v).start = s.start := by unfold State.setPort; split <;> rfl
@[simp] theorem State.setPort_phaseDone (s : State) (p : Nat) (v : Port) : (s.setPort p v).phaseDone = s.phaseDone := by unfold State.setPort; split <;> rfl
@[simp] theorem State.setPort_phaseAt (s : State) (p : Nat) (v : Port) : (s.setPort p v).phaseAt = s.phaseAt := by unfold State.setPort; split <;> rfl
@[simp] theorem State.setPort_que (s : State) (p : Nat) (v : Port) : (s.setPort p v).que = s.que := by unfold State.setPort; split <;> rfl
@[simp] theorem State.setPort_dma (s : State) (p : Nat) (v : Port) : (s.setPort p v).dma = s.dma := by unfold State.setPort; split <;> rfl
@[simp] theorem State.setPort_ten (s : State) (p : Nat) (v : Port) : (s.setPort p v).ten = s.ten := by unfold State.setPort; split <;> rfl
@[simp] theorem State.setPort_cfg (s : State) (p : Nat) (v : Port) : (s.setPort p v).cfg = s.cfg := by unfold State.setPort; split <;> rfl
@[simp] theorem State.setPort_dir (s : State) (p : Nat) (v : Port) : (s.setPort p v).dir = s.dir := by unfold State.setPort; split <;> rfl
@[simp] theorem State.setPort_psa (s : State) (p : Nat) (v : Port) : (s.setPort p v).psa = s.psa := by unfold State.setPort; split <;> rfl
@[simp] theorem State.setPort_tier (s : State) (p : Nat) (v : Port) : (s.setPort p v).tier = s.tier := by unfold State.setPort; split <;> rfl
@[simp] theorem State.setPort_pfs (s : State) (p : Nat) (v : Port) : (s.setPort p v).pfs = s.pfs := by unfold State.setPort; split <;> rfl
@[simp] theorem State.setPort_npa (s : State) (p : Nat) (v : Port) : (s.setPort p v).npa = s.npa := by unfold State.setPort; split <;> rfl
@[simp] theorem State.setPort_brn (s : State) (p : Nat) (v : Port) : (s.setPort p v).brn = s.brn := by unfold State.setPort; split <;> rfl
@[simp] theorem State.setPort_stk (s : State) (p : Nat) (v : Port) : (s.setPort p v).stk = s.stk := by unfold State.setPort; split <;> rfl
@[simp] theorem State.setPort_net (s : State) (p : Nat) (v : Port) : (s.setPort p v).net = s.net := by unfold State.setPort; split <;> rfl
@[simp] theorem State.setPort_flm (s : State) (p : Nat) (v : Port) : (s.setPort p v).flm = s.flm := by unfold State.setPort; split <;> rfl
@[simp] theorem State.setPort_hlt (s : State) (p : Nat) (v : Port) : (s.setPort p v).hlt = s.hlt := by unfold State.setPort; split <;> rfl
@[simp] theorem State.setPort_sec (s : State) (p : Nat) (v : Port) : (s.setPort p v).sec = s.sec := by unfold State.setPort; split <;> rfl
@[simp] theorem State.setPort_pwr (s : State) (p : Nat) (v : Port) : (s.setPort p v).pwr = s.pwr := by unfold State.setPort; split <;> rfl
@[simp] theorem State.setPort_ras (s : State) (p : Nat) (v : Port) : (s.setPort p v).ras = s.ras := by unfold State.setPort; split <;> rfl
@[simp] theorem State.setPort_fns (s : State) (p : Nat) (v : Port) : (s.setPort p v).fns = s.fns := by unfold State.setPort; split <;> rfl

end Sys2Proof.Machine
end

