-- ==== Sys2Proof/Laws/Regs.lean ====
section
/-! SUPPORT. Laws of the register file (17 R587 to R590; 12 R440): a read after a write, what a counter and an interrupt
event change, and host memory. -/

namespace Sys2Proof.Machine

theorem reg_of_regs {s t : State} (h : t.regs = s.regs) (a : Nat) : t.reg a = s.reg a := by simp [State.reg, h]

theorem reg_setReg_ne (s : State) {a b : Nat} (v : Word) (h : b ≠ a) : (s.setReg a v).reg b = s.reg b :=
  sget_sset_ne _ h

theorem reg_setReg_new (s : State) (a : Nat) {v : Word} (h : v ≠ regReset a) : (s.setReg a v).reg a = v :=
  sget_sset_new _ h

/-- A counter that has counted is not 0. -/
theorem satAdd_one_ne (w : Word) : satAdd w 1 ≠ 0 := by
  intro h
  have := congrArg BitVec.toNat h
  simp [satAdd, w32] at this
  have h2 := w.isLt
  omega

theorem reg_bump_ne (s : State) {a b : Nat} (n : Nat) (h : b ≠ a) : (s.bump a n).reg b = s.reg b := reg_setReg_ne s _ h

theorem reg_bump_one (s : State) {a : Nat} (h : regReset a = 0) : (s.bump a).reg a = satAdd (s.reg a) 1 :=
  reg_setReg_new s a (by rw [h]; exact satAdd_one_ne _)

/-- What an MSI-X message changes: the pending bits of its function, and the record of the messages sent. -/
theorem msix_eq (s : State) (p vec : Nat) : s.msix p vec = { s with fns := (s.msix p vec).fns, out := (s.msix p vec).out } := by
  unfold State.msix State.setFn State.send
  simp only []
  repeat' split
  all_goals rfl

/-- What an interrupt message changes: as an MSI-X message. -/
theorem blockInt_eq (s : State) : s.blockInt = { s with fns := s.blockInt.fns, out := s.blockInt.out } := by
  have one : ∀ (u : State) (p : Nat), u = { s with fns := u.fns, out := u.out } → ∀ v : Word,
      (if bit v 8 then u.msix p (fld v 0 8) else u) = { s with fns := (if bit v 8 then u.msix p (fld v 0 8) else u).fns,
                                                               out := (if bit v 8 then u.msix p (fld v 0 8) else u).out } := by
    intro u p h v
    split
    · conv_lhs => rw [msix_eq]
      generalize u.msix p (fld v 0 8) = w
      rw [h]
    · exact h
  exact one _ 1 (one s 0 rfl _) _

/-- What an interrupt event changes: the INT_STATUS word of its page, pending vectors, and the record of the messages sent. -/
theorem raiseBits_eq (s : State) (page : Nat) (v : Word) :
    s.raiseBits page v = { s.setReg (pg page + 0x10) (s.reg (pg page + 0x10) ||| (v &&& intMask page)) with
      fns := (s.raiseBits page v).fns, out := (s.raiseBits page v).out } := by
  unfold State.raiseBits
  simp only []
  split
  · conv_lhs => rw [blockInt_eq]
  · rfl

theorem raise_eq (s : State) (page i : Nat) :
    s.raise page i = { s.setReg (pg page + 0x10) (s.reg (pg page + 0x10) ||| (wbit i &&& intMask page)) with
      fns := (s.raise page i).fns, out := (s.raise page i).out } := raiseBits_eq s page (wbit i)

theorem raise_regs (s : State) (page i : Nat) : (s.raise page i).regs =
    (s.setReg (pg page + 0x10) (s.reg (pg page + 0x10) ||| (wbit i &&& intMask page))).regs := by
  rw [raise_eq]

theorem reg_raise_ne (s : State) {page i a : Nat} (h : a ≠ pg page + 0x10) : (s.raise page i).reg a = s.reg a := by
  rw [reg_of_regs (raise_regs s page i), reg_setReg_ne _ _ h]

/-- What a counter with its interrupt changes: its word, the INT_STATUS word of its page, pending vectors, and the messages sent. -/
theorem count_eq (s : State) (p o i : Nat) :
    s.count p o i = { s with regs := (s.count p o i).regs, fns := (s.count p o i).fns, out := (s.count p o i).out } := by
  unfold State.count
  rw [raise_eq]; rfl

theorem reg_count_ne (s : State) {p o i a : Nat} (h1 : a ≠ pg p + o) (h2 : a ≠ pg p + 0x10) :
    (s.count p o i).reg a = s.reg a := by
  unfold State.count
  rw [reg_raise_ne _ h2, reg_bump_ne _ _ h1]

theorem reg_count_counter (s : State) {p o i : Nat} (h0 : regReset (pg p + o) = 0) (h : o ≠ 0x10) :
    (s.count p o i).reg (pg p + o) = satAdd (s.reg (pg p + o)) 1 := by
  unfold State.count
  rw [reg_raise_ne _ (by omega), reg_bump_one _ h0]

/-- An interrupt bit that an event sets reads 1, when the page defines it. -/
theorem bit_raise (s : State) {page i : Nat} (hi : i < 32) (hm : (intMask page).getLsbD i = true)
    (hr : regReset (pg page + 0x10) = 0) : bit ((s.raise page i).reg (pg page + 0x10)) i = true := by
  have hw : (wbit i).getLsbD i = true := by
    simp only [wbit, w32, BitVec.getLsbD_ofNat]
    simp [hi]
  have hb : (s.reg (pg page + 0x10) ||| (wbit i &&& intMask page)).getLsbD i = true := by
    simp [BitVec.getLsbD_or, BitVec.getLsbD_and, hw, hm]
  have hne : s.reg (pg page + 0x10) ||| (wbit i &&& intMask page) ≠ regReset (pg page + 0x10) := by
    intro h; rw [hr] at h; rw [h] at hb; simp at hb
  rw [bit, reg_of_regs (raise_regs s page i), reg_setReg_new _ _ hne]
  exact hb

/-! ### Host memory and ports -/

@[simp] theorem host_setHost_eq (s : State) (p : Nat) (m : Mem) : (s.setHost p m).host p = m := by
  unfold State.setHost State.host; split <;> rfl

@[simp] theorem port_setPort_eq (s : State) (p : Nat) (v : Port) : (s.setPort p v).port p = v := by
  unfold State.setPort State.port; split <;> rfl

end Sys2Proof.Machine
end

