-- ==== Sys2Proof/Laws/Ras.lean ====
section
/-! SUPPORT. What the RAS log may change (16 R570 to R576): the registers, the log, the messages sent, pending vectors, and the event
records of the two ports. -/

namespace Sys2Proof.Machine

/-- `t` is `s` but for the registers, the RAS log, the messages sent, pending vectors and the ports. -/
def RasOnly (s t : State) : Prop :=
  t = { s with regs := t.regs, out := t.out, ras := t.ras, port0 := t.port0, port1 := t.port1, fns := t.fns }

theorem RasOnly.refl (s : State) : RasOnly s s := rfl

theorem RasOnly.trans {s t u : State} (h : RasOnly s t) (h' : RasOnly t u) : RasOnly s u := by
  unfold RasOnly at *
  rw [h'] ; rw [h]

theorem rasOnly_setReg (s : State) (a : Nat) (v : Word) : RasOnly s (s.setReg a v) := rfl

theorem rasOnly_bump (s : State) (a n : Nat) : RasOnly s (s.bump a n) := rfl

theorem rasOnly_raise (s : State) (p i : Nat) : RasOnly s (s.raise p i) := by
  unfold RasOnly; conv_lhs => rw [raise_eq]
  conv_rhs => rw [raise_eq]
  rfl

theorem rasOnly_count (s : State) (p o i : Nat) : RasOnly s (s.count p o i) :=
  (rasOnly_bump s _ 1).trans (rasOnly_raise _ p i)

theorem rasOnly_send (s : State) (o : Out) : RasOnly s (s.send o) := rfl

theorem rasOnly_setPort (s : State) (p : Nat) (v : Port) : RasOnly s (s.setPort p v) := by
  unfold RasOnly State.setPort; split <;> rfl

theorem rasOnly_errLog (s : State) (r : RasRec) : RasOnly s (s.errLog r) :=
  (((rasOnly_setReg s _ _).trans (rasOnly_setReg _ _ _)).trans (rasOnly_setReg _ _ _)).trans (rasOnly_setReg _ _ _)

theorem rasOnly_ras (s : State) (v : Ras) : RasOnly s { s with ras := v } := rfl

theorem rasOnly_storm (s : State) (page : Nat) : RasOnly s (s.storm page).1 := by
  unfold State.storm
  simp only []
  split <;> split
  · split
    · exact (rasOnly_ras s _).trans (rasOnly_bump _ _ 1)
    · exact ((rasOnly_ras s _).trans (rasOnly_bump _ _ 1)).trans (rasOnly_raise _ _ _)
  · exact rasOnly_ras s _
  · split
    · exact (rasOnly_ras s _).trans (rasOnly_bump _ _ 1)
    · exact ((rasOnly_ras s _).trans (rasOnly_bump _ _ 1)).trans (rasOnly_raise _ _ _)
  · exact rasOnly_ras s _

theorem rasOnly_cxlEvent (s : State) (cls seq : Nat) : RasOnly s (s.cxlEvent cls seq) := by
  have one : ∀ (s : State) (p : Nat) (v : Port), RasOnly s (if (s.port p).mode = .sld ∨ (s.port p).mode = .mld then
      s.setPort p v else s) := by
    intro s p v; split
    · exact rasOnly_setPort _ _ _
    · rfl
  unfold State.cxlEvent
  split
  · rfl
  · exact (one s 0 _).trans (one _ 1 _)

theorem rasOnly_aer (s : State) : RasOnly s s.aer := by
  have one : ∀ (s : State) (p : Nat), RasOnly s (if (s.port p).mode = .down then s else s.send (.aer p)) := by
    intro s p; split <;> rfl
  exact (one s 0).trans (one _ 1)

theorem rasOnly_rasWrite (s : State) (r : RasRec) : RasOnly s (s.rasWrite r) := by
  unfold State.rasWrite
  simp only []
  split
  · exact (rasOnly_bump _ _ 1).trans (rasOnly_raise _ _ _)
  · split
    · exact ((rasOnly_ras _ _).trans (rasOnly_errLog _ r)).trans (rasOnly_raise _ _ _)
    · split
      · exact ((rasOnly_ras _ _).trans (rasOnly_errLog _ r)).trans (rasOnly_raise _ _ _)
      · exact (rasOnly_ras _ _).trans (rasOnly_errLog _ r)

theorem rasOnly_rasNew (s : State) (page cause cls unit info : Nat) : RasOnly s (s.rasNew page cause cls unit info) := by
  have tail : ∀ (u : State) (r : RasRec), RasOnly s u → RasOnly s
      (let v := (u.rasWrite r).cxlEvent cls r.seq
       let v := if cls = 2 then v.aer else v
       if cls ≠ 0 ∧ bit (v.cfgReg (pg rasPage + 0x100)) 1 then { v with ras := { v.ras with plat := v.ras.plat ++ [r] } }
       else v) := by
    intro u r h
    have h1 : RasOnly s (if cls = 2 then ((u.rasWrite r).cxlEvent cls r.seq).aer else (u.rasWrite r).cxlEvent cls r.seq) := by
      have h2 := (h.trans (rasOnly_rasWrite u r)).trans (rasOnly_cxlEvent _ cls r.seq)
      split
      · exact h2.trans (rasOnly_aer _)
      · exact h2
    have h3 : ∀ w : State, RasOnly s w → RasOnly s (if cls ≠ 0 ∧ bit (w.cfgReg (pg rasPage + 0x100)) 1 then
        { w with ras := { w.ras with plat := w.ras.plat ++ [r] } } else w) := by
      intro w hw
      split
      · exact hw.trans (rasOnly_ras _ _)
      · exact hw
    exact h3 _ h1
  unfold State.rasNew
  by_cases h0 : cls = 0
  · simp only [if_pos h0]
    split
    · exact rasOnly_storm s page
    · exact tail _ _ (rasOnly_storm s page)
  · simp only [if_neg h0]
    exact tail _ _ (RasOnly.refl s)

/-- What recording an error changes. -/
theorem rasOnly_rasRecord (s : State) (page cause cls unit info : Nat) :
    RasOnly s (s.rasRecord page cause cls unit info) := by
  have tail : ∀ u : State, RasOnly s u → RasOnly s (match u.ras.log.getLast? with
      | some n =>
        if n.page = page ∧ n.cause = cause ∧ n.unit = unit ∧ u.clk < n.at_ + 1000000 then
          State.errLog { u with ras := { u.ras with log := u.ras.log.dropLast ++ [{ n with count := min (n.count + 1) 255 }] } }
            { n with count := min (n.count + 1) 255 }
        else u.rasNew page cause cls unit info
      | none => u.rasNew page cause cls unit info) := by
    intro u h
    split
    · split
      · exact (h.trans (rasOnly_ras u _)).trans (rasOnly_errLog _ _)
      · exact h.trans (rasOnly_rasNew _ _ _ _ _ _)
    · exact h.trans (rasOnly_rasNew _ _ _ _ _ _)
  unfold State.rasRecord
  by_cases h0 : cls < 3
  · simp only [if_pos h0]; exact tail _ (rasOnly_bump _ _ 1)
  · simp only [if_neg h0]; exact tail _ (RasOnly.refl s)

end Sys2Proof.Machine
end

