-- ==== Sys2Proof/Laws/KeepBase.lean ====
section
/-! SUPPORT. What almost no operation touches: the queue, the fuses, the previous and the active bank; what only moves one
way: device time, the start-up phase, the failed stacks, the stroke number; and the canonical form of the byte memories and tables. One lemma
for each operation that answers a state, one for each meaning. -/

namespace Sys2Proof.Machine

/-- The keys of every table that statements read rise strictly: registers and banks, directory slots, page sets, superblocks, tenant
records, gates and network ports, oscillators, leakage sensors, latched words. -/
def Tables (regs act pend prev : Sparse Word) (slots : Sparse Slot) (psets : Sparse PSet) (sb : Sparse Sb) (tbl : Sparse (List Word))
    (gate : Sparse Gate) (port : Sparse NetPort) (ro leak : Sparse Nat) (latch : Sparse Word) : Prop :=
  regs.rising ∧ act.rising ∧ pend.rising ∧ prev.rising ∧ slots.rising ∧ psets.rising ∧ sb.rising ∧ tbl.rising ∧ gate.rising ∧
    port.rising ∧ ro.rising ∧ leak.rising ∧ latch.rising

/-- A state `s` that has come from `z`: every memory canonical, queue and fuses as they were, device time no earlier;
without a reset (`r`) the phase, the failed stacks and the stroke number no fewer; without a new edition or a boundary (`b`) the banks,
the edition, what is armed and the stroke as they were. -/
def Keep (b r : Bool) (z s : State) : Prop :=
  (s.host0.wf = true ∧ s.host1.wf = true ∧ s.page.wf = true ∧ s.cxl.wf = true) ∧ s.pending = z.pending ∧ s.sec.fuse = z.sec.fuse ∧
    z.clk ≤ s.clk ∧ (r = true → z.start.val ≤ s.start.val ∧ z.hlt.dead <+: s.hlt.dead ∧ (z.stk.running = true → s.stk.running = true ∧ z.stk.stroke ≤ s.stk.stroke)) ∧ (b = true → s.act = z.act ∧ s.prev = z.prev ∧ s.cfg.edition = z.cfg.edition ∧ s.cfg.armed = z.cfg.armed ∧
      s.stk.running = z.stk.running ∧ s.stk.stroke = z.stk.stroke ∧ s.stk.boundary = z.stk.boundary ∧
      s.stk.take = z.stk.take ∧ s.hlt.ready = z.hlt.ready ∧ s.hlt.floorDue = z.hlt.floorDue) ∧
    Tables s.regs s.act s.pend s.prev s.dir.slots s.tier.psets s.flm.sb s.ten.tbl s.net.gate s.net.port s.hlt.ro s.hlt.leak s.latch

theorem Keep.weaken {b r b' r' : Bool} {z s : State} (hb : b' = true → b = true) (hr : r' = true → r = true) (h : Keep b r z s) :
    Keep b' r' z s := ⟨h.1, h.2.1, h.2.2.1, h.2.2.2.1, fun e => h.2.2.2.2.1 (hr e), fun e => h.2.2.2.2.2.1 (hb e), h.2.2.2.2.2.2⟩

variable {regs act pend prev : Sparse Word} {slots : Sparse Slot} {psets : Sparse PSet} {sb : Sparse Sb} {tbl : Sparse (List Word)}
  {gate : Sparse Gate} {port : Sparse NetPort} {ro leak : Sparse Nat} {latch : Sparse Word}

theorem tables_regs {d v : Word} {k : Nat} (h : Tables regs act pend prev slots psets sb tbl gate port ro leak latch) :
    Tables (sset regs d k v) act pend prev slots psets sb tbl gate port ro leak latch := ⟨rising_sset _ _ _ h.1, h.2.1, h.2.2.1, h.2.2.2.1, h.2.2.2.2.1, h.2.2.2.2.2.1, h.2.2.2.2.2.2.1, h.2.2.2.2.2.2.2.1, h.2.2.2.2.2.2.2.2.1, h.2.2.2.2.2.2.2.2.2.1, h.2.2.2.2.2.2.2.2.2.2.1, h.2.2.2.2.2.2.2.2.2.2.2.1, h.2.2.2.2.2.2.2.2.2.2.2.2⟩

theorem tables_act {d v : Word} {k : Nat} (h : Tables regs act pend prev slots psets sb tbl gate port ro leak latch) :
    Tables regs (sset act d k v) pend prev slots psets sb tbl gate port ro leak latch := ⟨h.1, rising_sset _ _ _ h.2.1, h.2.2.1, h.2.2.2.1, h.2.2.2.2.1, h.2.2.2.2.2.1, h.2.2.2.2.2.2.1, h.2.2.2.2.2.2.2.1, h.2.2.2.2.2.2.2.2.1, h.2.2.2.2.2.2.2.2.2.1, h.2.2.2.2.2.2.2.2.2.2.1, h.2.2.2.2.2.2.2.2.2.2.2.1, h.2.2.2.2.2.2.2.2.2.2.2.2⟩

theorem tables_pend {d v : Word} {k : Nat} (h : Tables regs act pend prev slots psets sb tbl gate port ro leak latch) :
    Tables regs act (sset pend d k v) prev slots psets sb tbl gate port ro leak latch := ⟨h.1, h.2.1, rising_sset _ _ _ h.2.2.1, h.2.2.2.1, h.2.2.2.2.1, h.2.2.2.2.2.1, h.2.2.2.2.2.2.1, h.2.2.2.2.2.2.2.1, h.2.2.2.2.2.2.2.2.1, h.2.2.2.2.2.2.2.2.2.1, h.2.2.2.2.2.2.2.2.2.2.1, h.2.2.2.2.2.2.2.2.2.2.2.1, h.2.2.2.2.2.2.2.2.2.2.2.2⟩

theorem tables_prev {d v : Word} {k : Nat} (h : Tables regs act pend prev slots psets sb tbl gate port ro leak latch) :
    Tables regs act pend (sset prev d k v) slots psets sb tbl gate port ro leak latch := ⟨h.1, h.2.1, h.2.2.1, rising_sset _ _ _ h.2.2.2.1, h.2.2.2.2.1, h.2.2.2.2.2.1, h.2.2.2.2.2.2.1, h.2.2.2.2.2.2.2.1, h.2.2.2.2.2.2.2.2.1, h.2.2.2.2.2.2.2.2.2.1, h.2.2.2.2.2.2.2.2.2.2.1, h.2.2.2.2.2.2.2.2.2.2.2.1, h.2.2.2.2.2.2.2.2.2.2.2.2⟩

theorem tables_slots {d v : Slot} {k : Nat} (h : Tables regs act pend prev slots psets sb tbl gate port ro leak latch) :
    Tables regs act pend prev (sset slots d k v) psets sb tbl gate port ro leak latch := ⟨h.1, h.2.1, h.2.2.1, h.2.2.2.1, rising_sset _ _ _ h.2.2.2.2.1, h.2.2.2.2.2.1, h.2.2.2.2.2.2.1, h.2.2.2.2.2.2.2.1, h.2.2.2.2.2.2.2.2.1, h.2.2.2.2.2.2.2.2.2.1, h.2.2.2.2.2.2.2.2.2.2.1, h.2.2.2.2.2.2.2.2.2.2.2.1, h.2.2.2.2.2.2.2.2.2.2.2.2⟩

theorem tables_psets {d v : PSet} {k : Nat} (h : Tables regs act pend prev slots psets sb tbl gate port ro leak latch) :
    Tables regs act pend prev slots (sset psets d k v) sb tbl gate port ro leak latch := ⟨h.1, h.2.1, h.2.2.1, h.2.2.2.1, h.2.2.2.2.1, rising_sset _ _ _ h.2.2.2.2.2.1, h.2.2.2.2.2.2.1, h.2.2.2.2.2.2.2.1, h.2.2.2.2.2.2.2.2.1, h.2.2.2.2.2.2.2.2.2.1, h.2.2.2.2.2.2.2.2.2.2.1, h.2.2.2.2.2.2.2.2.2.2.2.1, h.2.2.2.2.2.2.2.2.2.2.2.2⟩

theorem tables_sb {d v : Sb} {k : Nat} (h : Tables regs act pend prev slots psets sb tbl gate port ro leak latch) :
    Tables regs act pend prev slots psets (sset sb d k v) tbl gate port ro leak latch := ⟨h.1, h.2.1, h.2.2.1, h.2.2.2.1, h.2.2.2.2.1, h.2.2.2.2.2.1, rising_sset _ _ _ h.2.2.2.2.2.2.1, h.2.2.2.2.2.2.2.1, h.2.2.2.2.2.2.2.2.1, h.2.2.2.2.2.2.2.2.2.1, h.2.2.2.2.2.2.2.2.2.2.1, h.2.2.2.2.2.2.2.2.2.2.2.1, h.2.2.2.2.2.2.2.2.2.2.2.2⟩

theorem tables_tbl {d v : List Word} {k : Nat} (h : Tables regs act pend prev slots psets sb tbl gate port ro leak latch) :
    Tables regs act pend prev slots psets sb (sset tbl d k v) gate port ro leak latch := ⟨h.1, h.2.1, h.2.2.1, h.2.2.2.1, h.2.2.2.2.1, h.2.2.2.2.2.1, h.2.2.2.2.2.2.1, rising_sset _ _ _ h.2.2.2.2.2.2.2.1, h.2.2.2.2.2.2.2.2.1, h.2.2.2.2.2.2.2.2.2.1, h.2.2.2.2.2.2.2.2.2.2.1, h.2.2.2.2.2.2.2.2.2.2.2.1, h.2.2.2.2.2.2.2.2.2.2.2.2⟩

theorem tables_gate {d v : Gate} {k : Nat} (h : Tables regs act pend prev slots psets sb tbl gate port ro leak latch) :
    Tables regs act pend prev slots psets sb tbl (sset gate d k v) port ro leak latch := ⟨h.1, h.2.1, h.2.2.1, h.2.2.2.1, h.2.2.2.2.1, h.2.2.2.2.2.1, h.2.2.2.2.2.2.1, h.2.2.2.2.2.2.2.1, rising_sset _ _ _ h.2.2.2.2.2.2.2.2.1, h.2.2.2.2.2.2.2.2.2.1, h.2.2.2.2.2.2.2.2.2.2.1, h.2.2.2.2.2.2.2.2.2.2.2.1, h.2.2.2.2.2.2.2.2.2.2.2.2⟩

theorem tables_port {d v : NetPort} {k : Nat} (h : Tables regs act pend prev slots psets sb tbl gate port ro leak latch) :
    Tables regs act pend prev slots psets sb tbl gate (sset port d k v) ro leak latch := ⟨h.1, h.2.1, h.2.2.1, h.2.2.2.1, h.2.2.2.2.1, h.2.2.2.2.2.1, h.2.2.2.2.2.2.1, h.2.2.2.2.2.2.2.1, h.2.2.2.2.2.2.2.2.1, rising_sset _ _ _ h.2.2.2.2.2.2.2.2.2.1, h.2.2.2.2.2.2.2.2.2.2.1, h.2.2.2.2.2.2.2.2.2.2.2.1, h.2.2.2.2.2.2.2.2.2.2.2.2⟩

theorem tables_ro {d v : Nat} {k : Nat} (h : Tables regs act pend prev slots psets sb tbl gate port ro leak latch) :
    Tables regs act pend prev slots psets sb tbl gate port (sset ro d k v) leak latch := ⟨h.1, h.2.1, h.2.2.1, h.2.2.2.1, h.2.2.2.2.1, h.2.2.2.2.2.1, h.2.2.2.2.2.2.1, h.2.2.2.2.2.2.2.1, h.2.2.2.2.2.2.2.2.1, h.2.2.2.2.2.2.2.2.2.1, rising_sset _ _ _ h.2.2.2.2.2.2.2.2.2.2.1, h.2.2.2.2.2.2.2.2.2.2.2.1, h.2.2.2.2.2.2.2.2.2.2.2.2⟩

theorem tables_leak {d v : Nat} {k : Nat} (h : Tables regs act pend prev slots psets sb tbl gate port ro leak latch) :
    Tables regs act pend prev slots psets sb tbl gate port ro (sset leak d k v) latch := ⟨h.1, h.2.1, h.2.2.1, h.2.2.2.1, h.2.2.2.2.1, h.2.2.2.2.2.1, h.2.2.2.2.2.2.1, h.2.2.2.2.2.2.2.1, h.2.2.2.2.2.2.2.2.1, h.2.2.2.2.2.2.2.2.2.1, h.2.2.2.2.2.2.2.2.2.2.1, rising_sset _ _ _ h.2.2.2.2.2.2.2.2.2.2.2.1, h.2.2.2.2.2.2.2.2.2.2.2.2⟩

theorem tables_latch {d v : Word} {k : Nat} (h : Tables regs act pend prev slots psets sb tbl gate port ro leak latch) :
    Tables regs act pend prev slots psets sb tbl gate port ro leak (sset latch d k v) := ⟨h.1, h.2.1, h.2.2.1, h.2.2.2.1, h.2.2.2.2.1, h.2.2.2.2.2.1, h.2.2.2.2.2.2.1, h.2.2.2.2.2.2.2.1, h.2.2.2.2.2.2.2.2.1, h.2.2.2.2.2.2.2.2.2.1, h.2.2.2.2.2.2.2.2.2.2.1, h.2.2.2.2.2.2.2.2.2.2.2.1, rising_sset _ _ _ h.2.2.2.2.2.2.2.2.2.2.2.2⟩

theorem updSb_sb (f : Flm) (n : Nat) (g : Sb → Sb) : (f.updSb n g).sb = sset f.sb Sb.free n (g (f.sbAt n)) := rfl

theorem updDie_sb (f : Flm) (k : Nat) (g : Die → Die) : (f.updDie k g).sb = f.sb := rfl

theorem tables_sbMap {sb' : Sparse Sb} (hs : sb.rising → sb'.rising)
    (h : Tables regs act pend prev slots psets sb tbl gate port ro leak latch) :
    Tables regs act pend prev slots psets sb' tbl gate port ro leak latch :=
  ⟨h.1, h.2.1, h.2.2.1, h.2.2.2.1, h.2.2.2.2.1, h.2.2.2.2.2.1, hs h.2.2.2.2.2.2.1, h.2.2.2.2.2.2.2⟩

theorem tables_regsMap {regs' : Sparse Word} (hs : regs.rising → regs'.rising)
    (h : Tables regs act pend prev slots psets sb tbl gate port ro leak latch) :
    Tables regs' act pend prev slots psets sb tbl gate port ro leak latch := ⟨hs h.1, h.2⟩

theorem jclose_sb (f : Flm) : f.jclose.sb = f.sb := by unfold Flm.jclose; split <;> rfl

theorem jroom_sb (f : Flm) (b : JBody) : (f.jroom b).sb = f.sb := by
  unfold Flm.jroom; split
  · exact jclose_sb f
  · rfl

theorem jput_sb (f : Flm) (now : Nat) (b : JBody) : (f.jput now b).sb = f.sb := by
  unfold Flm.jput; simp only []; split
  · rw [jclose_sb]; exact jroom_sb f b
  · exact jroom_sb f b

theorem updSb_rising (f : Flm) (n : Nat) (g : Sb → Sb) (h : f.sb.rising) : (f.updSb n g).sb.rising := rising_sset _ _ _ h

theorem updDies_sb (g : Die → Die) (ks : List Nat) (f : Flm) : (ks.foldl (fun (f : Flm) k => f.updDie k g) f).sb = f.sb := by
  induction ks generalizing f with
  | nil => rfl
  | cons k ks ih => rw [List.foldl_cons, ih]; rfl

theorem tables_noEntries (h : Tables regs act pend prev slots psets sb tbl gate port ro leak latch) :
    Tables regs act pend prev [] [] sb tbl gate port ro leak latch :=
  ⟨h.1, h.2.1, h.2.2.1, h.2.2.2.1, rising_nil, rising_nil, h.2.2.2.2.2.2⟩

theorem tables_banks {act' pend' prev' : Sparse Word} (ha : act'.rising) (hp : pend'.rising) (hr : prev'.rising)
    (h : Tables regs act pend prev slots psets sb tbl gate port ro leak latch) :
    Tables regs act' pend' prev' slots psets sb tbl gate port ro leak latch := ⟨h.1, ha, hp, hr, h.2.2.2.2⟩

/-- A record update elsewhere. -/
theorem keep_mk {β ρ : Bool} {z x : State} {resetAt_ : Nat} {free_ : Nat} {out_ : List Out} {regs_ : Sparse Word} {pend_ : Sparse Word} {latch_ : Sparse Word} {bad_ : List BadRange} {phaseDone_ : Bool} {phaseAt_ : Nat} {que_ : Que} {dma_ : Dma} {port0_ : Port} {port1_ : Port} {fns_ : Sparse PciFn} {ten_ : Ten} {cfg_ : Cfg} {dir_ : Dir} {psa_ : Psa} {tier_ : Tier} {pfs_ : Pfs} {npa_ : Npa} {brn_ : Brn} {stk_ : Stk} {net_ : Net} {flm_ : Flm} {hlt_ : Hlt} {sec_ : Sec} {pwr_ : Pwr} {ras_ : Ras}
    (hK : Keep β ρ z x) (h1 : sec_.fuse = x.sec.fuse) (h2 : hlt_.dead = x.hlt.dead) (h3 : cfg_.edition = x.cfg.edition ∧ cfg_.armed = x.cfg.armed ∧ stk_.running = x.stk.running ∧ stk_.stroke = x.stk.stroke ∧ stk_.boundary = x.stk.boundary ∧ stk_.take = x.stk.take ∧ hlt_.ready = x.hlt.ready ∧ hlt_.floorDue = x.hlt.floorDue)
    (ht : Tables x.regs x.act x.pend x.prev x.dir.slots x.tier.psets x.flm.sb x.ten.tbl x.net.gate x.net.port x.hlt.ro x.hlt.leak x.latch → Tables regs_ x.act pend_ x.prev dir_.slots tier_.psets flm_.sb ten_.tbl net_.gate net_.port hlt_.ro hlt_.leak latch_) :
    Keep β ρ z ⟨x.part, x.pending, x.clk, resetAt_, free_, out_, regs_, x.act, pend_, x.prev, latch_, x.host0, x.host1, bad_, x.page, x.cxl, x.start, phaseDone_, phaseAt_, que_, dma_, port0_, port1_, fns_, ten_, cfg_, dir_, psa_, tier_, pfs_, npa_, brn_, stk_, net_, flm_, hlt_, sec_, pwr_, ras_⟩ := by
  unfold Keep at *; simp only [h1, h2, h3.1, h3.2.1, h3.2.2.1, h3.2.2.2.1, h3.2.2.2.2.1, h3.2.2.2.2.2.1, h3.2.2.2.2.2.2.1, h3.2.2.2.2.2.2.2]; exact ⟨hK.1, hK.2.1, hK.2.2.1, hK.2.2.2.1, hK.2.2.2.2.1, hK.2.2.2.2.2.1, ht hK.2.2.2.2.2.2⟩

/-- Another stack has failed. -/
theorem keep_mkDead {l : List Nat} {β ρ : Bool} {z x : State} {resetAt_ : Nat} {free_ : Nat} {out_ : List Out} {regs_ : Sparse Word} {pend_ : Sparse Word} {latch_ : Sparse Word} {bad_ : List BadRange} {phaseDone_ : Bool} {phaseAt_ : Nat} {que_ : Que} {dma_ : Dma} {port0_ : Port} {port1_ : Port} {fns_ : Sparse PciFn} {ten_ : Ten} {cfg_ : Cfg} {dir_ : Dir} {psa_ : Psa} {tier_ : Tier} {pfs_ : Pfs} {npa_ : Npa} {brn_ : Brn} {stk_ : Stk} {net_ : Net} {flm_ : Flm} {hlt_ : Hlt} {sec_ : Sec} {pwr_ : Pwr} {ras_ : Ras}
    (hK : Keep β ρ z x) (h1 : sec_.fuse = x.sec.fuse) (h2 : hlt_.dead = x.hlt.dead ++ l) (h3 : cfg_.edition = x.cfg.edition ∧ cfg_.armed = x.cfg.armed ∧ stk_.running = x.stk.running ∧ stk_.stroke = x.stk.stroke ∧ stk_.boundary = x.stk.boundary ∧ stk_.take = x.stk.take ∧ hlt_.ready = x.hlt.ready ∧ hlt_.floorDue = x.hlt.floorDue)
    (ht : Tables x.regs x.act x.pend x.prev x.dir.slots x.tier.psets x.flm.sb x.ten.tbl x.net.gate x.net.port x.hlt.ro x.hlt.leak x.latch → Tables regs_ x.act pend_ x.prev dir_.slots tier_.psets flm_.sb ten_.tbl net_.gate net_.port hlt_.ro hlt_.leak latch_) :
    Keep β ρ z ⟨x.part, x.pending, x.clk, resetAt_, free_, out_, regs_, x.act, pend_, x.prev, latch_, x.host0, x.host1, bad_, x.page, x.cxl, x.start, phaseDone_, phaseAt_, que_, dma_, port0_, port1_, fns_, ten_, cfg_, dir_, psa_, tier_, pfs_, npa_, brn_, stk_, net_, flm_, hlt_, sec_, pwr_, ras_⟩ := by
  unfold Keep at *; simp only [h1, h2, h3.1, h3.2.1, h3.2.2.1, h3.2.2.2.1, h3.2.2.2.2.1, h3.2.2.2.2.2.1, h3.2.2.2.2.2.2.1, h3.2.2.2.2.2.2.2]
  exact ⟨hK.1, hK.2.1, hK.2.2.1, hK.2.2.2.1, fun e => ⟨(hK.2.2.2.2.1 e).1, (hK.2.2.2.2.1 e).2.1.trans (List.prefix_append _ _), (hK.2.2.2.2.1 e).2.2⟩, hK.2.2.2.2.2.1, ht hK.2.2.2.2.2.2⟩

/-- An update of the banks. -/
theorem keep_mkBanks {ρ : Bool} {z x : State} {resetAt_ : Nat} {free_ : Nat} {out_ : List Out} {regs_ : Sparse Word} {act_ prev_ : Sparse Word} {pend_ : Sparse Word} {latch_ : Sparse Word} {bad_ : List BadRange} {phaseDone_ : Bool} {phaseAt_ : Nat} {que_ : Que} {dma_ : Dma} {port0_ : Port} {port1_ : Port} {fns_ : Sparse PciFn} {ten_ : Ten} {cfg_ : Cfg} {dir_ : Dir} {psa_ : Psa} {tier_ : Tier} {pfs_ : Pfs} {npa_ : Npa} {brn_ : Brn} {stk_ : Stk} {net_ : Net} {flm_ : Flm} {hlt_ : Hlt} {sec_ : Sec} {pwr_ : Pwr} {ras_ : Ras}
    (hK : Keep false ρ z x) (h1 : sec_.fuse = x.sec.fuse) (h2 : hlt_.dead = x.hlt.dead) (h4 : x.stk.running = true → stk_.running = true ∧ x.stk.stroke ≤ stk_.stroke)
    (ht : Tables x.regs x.act x.pend x.prev x.dir.slots x.tier.psets x.flm.sb x.ten.tbl x.net.gate x.net.port x.hlt.ro x.hlt.leak x.latch → Tables regs_ act_ pend_ prev_ dir_.slots tier_.psets flm_.sb ten_.tbl net_.gate net_.port hlt_.ro hlt_.leak latch_) :
    Keep false ρ z ⟨x.part, x.pending, x.clk, resetAt_, free_, out_, regs_, act_, pend_, prev_, latch_, x.host0, x.host1, bad_, x.page, x.cxl, x.start, phaseDone_, phaseAt_, que_, dma_, port0_, port1_, fns_, ten_, cfg_, dir_, psa_, tier_, pfs_, npa_, brn_, stk_, net_, flm_, hlt_, sec_, pwr_, ras_⟩ := by
  unfold Keep at *; simp only [h1, h2]; exact ⟨hK.1, hK.2.1, hK.2.2.1, hK.2.2.2.1, fun e => ⟨(hK.2.2.2.2.1 e).1, (hK.2.2.2.2.1 e).2.1, fun h => ⟨(h4 ((hK.2.2.2.2.1 e).2.2 h).1).1, Nat.le_trans ((hK.2.2.2.2.1 e).2.2 h).2 (h4 ((hK.2.2.2.2.1 e).2.2 h).1).2⟩⟩, fun e => (nomatch e), ht hK.2.2.2.2.2.2⟩

/-- An update of the banks, the phase and the failed stacks. -/
theorem keep_mkReset {z x : State} {resetAt_ : Nat} {free_ : Nat} {out_ : List Out} {regs_ : Sparse Word} {act_ prev_ : Sparse Word} {start_ : Startup} {pend_ : Sparse Word} {latch_ : Sparse Word} {bad_ : List BadRange} {phaseDone_ : Bool} {phaseAt_ : Nat} {que_ : Que} {dma_ : Dma} {port0_ : Port} {port1_ : Port} {fns_ : Sparse PciFn} {ten_ : Ten} {cfg_ : Cfg} {dir_ : Dir} {psa_ : Psa} {tier_ : Tier} {pfs_ : Pfs} {npa_ : Npa} {brn_ : Brn} {stk_ : Stk} {net_ : Net} {flm_ : Flm} {hlt_ : Hlt} {sec_ : Sec} {pwr_ : Pwr} {ras_ : Ras}
    (hK : Keep false false z x) (h1 : sec_.fuse = x.sec.fuse)
    (ht : Tables x.regs x.act x.pend x.prev x.dir.slots x.tier.psets x.flm.sb x.ten.tbl x.net.gate x.net.port x.hlt.ro x.hlt.leak x.latch → Tables regs_ act_ pend_ prev_ dir_.slots tier_.psets flm_.sb ten_.tbl net_.gate net_.port hlt_.ro hlt_.leak latch_) :
    Keep false false z ⟨x.part, x.pending, x.clk, resetAt_, free_, out_, regs_, act_, pend_, prev_, latch_, x.host0, x.host1, bad_, x.page, x.cxl, start_, phaseDone_, phaseAt_, que_, dma_, port0_, port1_, fns_, ten_, cfg_, dir_, psa_, tier_, pfs_, npa_, brn_, stk_, net_, flm_, hlt_, sec_, pwr_, ras_⟩ := by
  unfold Keep at *; simp only [h1]; exact ⟨hK.1, hK.2.1, hK.2.2.1, hK.2.2.2.1, fun e => (nomatch e), fun e => (nomatch e), ht hK.2.2.2.2.2.2⟩

theorem keep_foldl {β ρ : Bool} {z : State} {α : Type} (f : State → α → State) (l : List α) (s : State) (hK : Keep β ρ z s)
    (hf : ∀ s x, Keep β ρ z s → Keep β ρ z (f s x)) : Keep β ρ z (l.foldl f s) := by
  induction l generalizing s with
  | nil => exact hK
  | cons x l ih => exact ih _ (hf _ _ hK)

theorem keep_pageWf {β ρ : Bool} {z s : State} (h : Keep β ρ z s) : s.page.wf = true := h.1.2.2.1

theorem keep_page {β ρ : Bool} {z : State} (s : State) (m : Mem) (hm : m.wf = true) (hK : Keep β ρ z s) :
    Keep β ρ z { s with page := m } := by unfold Keep at *; grind

theorem keep_cxl {β ρ : Bool} {z : State} (s : State) (m : Mem) (hm : m.wf = true) (hK : Keep β ρ z s) :
    Keep β ρ z { s with cxl := m } := by unfold Keep at *; grind

theorem keep_pageClear {β ρ : Bool} {z : State} (s : State) (a n : Nat) (hK : Keep β ρ z s) :
    Keep β ρ z { s with page := s.page.clear a n } := keep_page s _ (Mem.wf_clear a n hK.1.2.2.1) hK

theorem keep_pageWr {β ρ : Bool} {z : State} (s : State) (a : Nat) (x : Byte) (hK : Keep β ρ z s) :
    Keep β ρ z { s with page := s.page.wr a x } := keep_page s _ (Mem.wf_wr a x hK.1.2.2.1) hK

theorem keep_cxlClear {β ρ : Bool} {z : State} (s : State) (a n : Nat) (hK : Keep β ρ z s) :
    Keep β ρ z { s with cxl := s.cxl.clear a n } := keep_cxl s _ (Mem.wf_clear a n hK.1.2.2.2) hK

theorem keep_cxlBytes {β ρ : Bool} {z : State} (s : State) (a : Nat) (bs : List Byte) (hK : Keep β ρ z s) :
    Keep β ρ z { s with cxl := s.cxl.wrBytes a bs } := keep_cxl s _ (Mem.wf_wrBytes bs _ a hK.1.2.2.2) hK

theorem keep_foldlP {β ρ : Bool} {z : State} {α γ : Type} (f : State × γ → α → State × γ) (l : List α) (p : State × γ) (hK : Keep β ρ z p.1)
    (hf : ∀ p x, Keep β ρ z p.1 → Keep β ρ z (f p x).1) : Keep β ρ z (l.foldl f p).1 := by
  induction l generalizing p with
  | nil => exact hK
  | cons x l ih => exact ih _ (hf _ _ hK)

theorem Mem.wf_foldl {α : Type} (g : α → Nat) (b : α → Byte) (l : List α) (m : Mem) (h : m.wf = true) :
    Mem.wf (l.foldl (fun m i => Mem.wr m (g i) (b i)) m) = true := by
  induction l generalizing m with
  | nil => exact h
  | cons x l ih => exact ih _ (Mem.wf_wr _ _ h)

theorem keep_setReg {β ρ : Bool} {z : State} (s : State) (a : Nat) (v : Word) (hK : Keep β ρ z s) :
    Keep β ρ z (State.setReg s a v) := by
  unfold State.setReg; grind (ematch := 40) (gen := 40) (splits := 40) [keep_mk, tables_regs]

theorem keep_bump {β ρ : Bool} {z : State} (s : State) (a : Nat) (n : Nat := 1) (hK : Keep β ρ z s) :
    Keep β ρ z (State.bump s a n) := by
  unfold State.bump; grind (ematch := 40) (gen := 40) (splits := 40) [keep_setReg]

theorem keep_bump64 {β ρ : Bool} {z : State} (s : State) (a : Nat) (n : Nat) (hK : Keep β ρ z s) :
    Keep β ρ z (State.bump64 s a n) := by
  unfold State.bump64; grind (ematch := 40) (gen := 40) (splits := 40) [keep_setReg]

theorem keep_send {β ρ : Bool} {z : State} (s : State) (o : Out) (hK : Keep β ρ z s) :
    Keep β ρ z (State.send s o) := by
  unfold State.send; grind (ematch := 40) (gen := 40) (splits := 40) [keep_mk]

theorem keep_setFn {β ρ : Bool} {z : State} (s : State) (p ld : Nat) (v : PciFn) (hK : Keep β ρ z s) :
    Keep β ρ z (State.setFn s p ld v) := keep_mk hK rfl rfl ⟨rfl, rfl, rfl, rfl, rfl, rfl, rfl, rfl⟩ id

theorem keep_msix {β ρ : Bool} {z : State} (s : State) (p : Nat) (vec : Nat) (hK : Keep β ρ z s) :
    Keep β ρ z (State.msix s p vec) := by
  unfold State.msix; grind (ematch := 40) (gen := 40) (splits := 40) [keep_send, keep_setFn]

theorem keep_blockInt {β ρ : Bool} {z : State} (s : State) (hK : Keep β ρ z s) :
    Keep β ρ z (State.blockInt s) := by
  unfold State.blockInt; grind (ematch := 40) (gen := 40) (splits := 40) [keep_msix]

theorem keep_raiseBits {β ρ : Bool} {z : State} (s : State) (page : Nat) (v : Word) (hK : Keep β ρ z s) :
    Keep β ρ z (State.raiseBits s page v) := by
  unfold State.raiseBits; grind (ematch := 40) (gen := 40) (splits := 40) [keep_setReg, keep_blockInt]

theorem keep_raise {β ρ : Bool} {z : State} (s : State) (page : Nat) (i : Nat) (hK : Keep β ρ z s) :
    Keep β ρ z (State.raise s page i) := by
  unfold State.raise; grind (ematch := 40) (gen := 40) (splits := 40) [keep_raiseBits]

theorem keep_clearInt {β ρ : Bool} {z : State} (s : State) (page : Nat) (v : Word) (hK : Keep β ρ z s) :
    Keep β ρ z (State.clearInt s page v) := by
  unfold State.clearInt; grind (ematch := 40) (gen := 40) (splits := 40) [keep_setReg, keep_blockInt]

theorem keep_setEnable {β ρ : Bool} {z : State} (s : State) (page : Nat) (v : Word) (hK : Keep β ρ z s) :
    Keep β ρ z (State.setEnable s page v) := by
  unfold State.setEnable; grind (ematch := 40) (gen := 40) (splits := 40) [keep_setReg, keep_blockInt]

theorem keep_count {β ρ : Bool} {z : State} (s : State) (page : Nat) (off : Nat) (i : Nat) (hK : Keep β ρ z s) :
    Keep β ρ z (State.count s page off i) := by
  unfold State.count; grind (ematch := 40) (gen := 40) (splits := 40) [keep_bump, keep_raise]

theorem keep_clearCounters {β ρ : Bool} {z : State} (s : State) (a : Nat) (hK : Keep β ρ z s) : Keep β ρ z (s.clearCounters a) :=
  keep_mk hK rfl rfl ⟨rfl, rfl, rfl, rfl, rfl, rfl, rfl, rfl⟩ (tables_regsMap (rising_filter _))

theorem keep_at_ {β ρ : Bool} {z : State} (s : State) (t : Nat) (hK : Keep β ρ z s) : Keep β ρ z (s.at_ t) := by
  unfold Keep State.at_ at *; grind

theorem keep_fresh {β ρ : Bool} {z : State} (s : State) (hK : Keep β ρ z s) :
    Keep β ρ z (State.fresh s).2 := by
  unfold State.fresh; grind (ematch := 40) (gen := 40) (splits := 40) [keep_mk]

theorem keep_setHost {β ρ : Bool} {z : State} (s : State) (p : Nat) (m : Mem) (hm : m.wf = true) (hK : Keep β ρ z s) :
    Keep β ρ z (s.setHost p m) := by
  unfold Keep State.setHost at *; grind

theorem keep_setPort {β ρ : Bool} {z : State} (s : State) (p : Nat) (v : Port) (hK : Keep β ρ z s) :
    Keep β ρ z (State.setPort s p v) := by
  unfold State.setPort; grind (ematch := 40) (gen := 40) (splits := 40) [keep_mk]

theorem keep_fillTokens {β ρ : Bool} {z : State} (s : State) (p : Nat) (hK : Keep β ρ z s) :
    Keep β ρ z (State.fillTokens s p) := by
  unfold State.fillTokens; grind (ematch := 40) (gen := 40) (splits := 40) [keep_setPort, keep_mk]

theorem keep_fullTokens {β ρ : Bool} {z : State} (s : State) (p : Nat) (hK : Keep β ρ z s) :
    Keep β ρ z (State.fullTokens s p) := by
  unfold State.fullTokens; grind (ematch := 40) (gen := 40) (splits := 40) [keep_setPort, keep_mk]

theorem keep_hostWrite {β ρ : Bool} {z : State} (s : State) (p a : Nat) (bs : List Byte) {w : State} (hw : Keep β ρ z w) {t : State}
    (e : s.hostWrite p a bs = some t) (hK : Keep β ρ z s) : Keep β ρ z t := by
  have hw : (s.host p).wf = true := by unfold Keep at hK; unfold State.host; grind
  unfold State.hostWrite at e; grind (ematch := 40) (gen := 40) (splits := 40) [keep_mk, keep_foldl, keep_setHost, Mem.wf_wrBytes]

theorem keep_hostPut {β ρ : Bool} {z : State} (s : State) (p : Nat) (a : Nat) (bs : List Byte) (hK : Keep β ρ z s) :
    Keep β ρ z (State.hostPut s p a bs) := by
  unfold State.hostPut; grind (ematch := 40) (gen := 40) (splits := 40) [→ keep_hostWrite]

theorem keep_setRecord {β ρ : Bool} {z : State} (s : State) (table : Nat) (idx : Nat) (r : List Word) (hK : Keep β ρ z s) :
    Keep β ρ z (State.setRecord s table idx r) := by
  unfold State.setRecord; grind (ematch := 40) (gen := 40) (splits := 40) [keep_mk, tables_tbl]

theorem keep_workWrite {β ρ : Bool} {z : State} (s : State) (tenant : Nat) (p : Nat) (a : Nat) (bs : List Byte) {w tK : State} (_hw : Keep β ρ z w) (eK : State.workWrite s tenant p a bs = .ok tK) (hK : Keep β ρ z s) :
    Keep β ρ z tK := by
  unfold State.workWrite at eK; grind (ematch := 40) (gen := 40) (splits := 40) [→ keep_hostWrite]

theorem keep_setRunning {β ρ : Bool} {z : State} (s : State) (id : Nat) (hK : Keep β ρ z s) :
    Keep β ρ z (State.setRunning s id) := by
  unfold State.setRunning; grind (ematch := 40) (gen := 40) (splits := 40) [keep_mk]

theorem keep_accept {β ρ : Bool} {z : State} (s : State) (src : Source) (tenant : Nat) (compat : Bool) (ws : List Word) (tag : Nat) (hK : Keep β ρ z s) :
    Keep β ρ z (State.accept s src tenant compat ws tag) := by
  unfold State.accept; grind (ematch := 40) (gen := 40) (splits := 40) [keep_at_, keep_mk]

theorem keep_setSlot {β ρ : Bool} {z : State} (s : State) (i : Nat) (v : Slot) (hK : Keep β ρ z s) :
    Keep β ρ z (State.setSlot s i v) := by
  unfold State.setSlot; grind (ematch := 40) (gen := 40) (splits := 40) [keep_mk, tables_slots]

theorem keep_updSlot {β ρ : Bool} {z : State} (s : State) (i : Nat) (f : Slot → Slot) (hK : Keep β ρ z s) :
    Keep β ρ z (State.updSlot s i f) := by
  unfold State.updSlot; grind (ematch := 40) (gen := 40) (splits := 40) [keep_setSlot]

theorem keep_putHead {β ρ : Bool} {z : State} (s : State) (i : Nat) (v : Slot) (hK : Keep β ρ z s) :
    Keep β ρ z (State.putHead s i v) := by
  unfold State.putHead; grind (ematch := 40) (gen := 40) (splits := 40) [keep_setSlot, keep_mk]

theorem keep_freeHead {β ρ : Bool} {z : State} (s : State) (i : Nat) (hK : Keep β ρ z s) :
    Keep β ρ z (State.freeHead s i) := by
  unfold State.freeHead; grind (ematch := 40) (gen := 40) (splits := 40) [keep_setSlot]

theorem keep_passPoint {β ρ : Bool} {z : State} (s : State) (val : Nat) (hK : Keep β ρ z s) :
    Keep β ρ z (State.passPoint s val) := by
  unfold State.passPoint; grind (ematch := 40) (gen := 40) (splits := 40) [keep_mk]

theorem keep_filterEnd {β ρ : Bool} {z : State} (s : State) (k : Key) (e : Nat) (hK : Keep β ρ z s) :
    Keep β ρ z (State.filterEnd s k e) := by
  unfold State.filterEnd; grind (ematch := 40) (gen := 40) (splits := 40) [keep_mk]

theorem keep_storm {β ρ : Bool} {z : State} (s : State) (page : Nat) (hK : Keep β ρ z s) :
    Keep β ρ z (State.storm s page).1 := by
  unfold State.storm; grind (ematch := 40) (gen := 40) (splits := 40) [keep_bump, keep_raise, keep_count, keep_mk]

theorem keep_cxlEvent {β ρ : Bool} {z : State} (s : State) (cls : Nat) (seq : Nat) (hK : Keep β ρ z s) :
    Keep β ρ z (State.cxlEvent s cls seq) := by
  unfold State.cxlEvent; grind (ematch := 40) (gen := 40) (splits := 40) [keep_setPort, keep_mk]

theorem keep_aer {β ρ : Bool} {z : State} (s : State) (hK : Keep β ρ z s) :
    Keep β ρ z (State.aer s) := by
  unfold State.aer; grind (ematch := 40) (gen := 40) (splits := 40) [keep_send]

theorem keep_errLog {β ρ : Bool} {z : State} (s : State) (r : RasRec) (hK : Keep β ρ z s) :
    Keep β ρ z (State.errLog s r) := by
  unfold State.errLog; grind (ematch := 40) (gen := 40) (splits := 40) [keep_setReg, keep_count]

theorem keep_rasWrite {β ρ : Bool} {z : State} (s : State) (r : RasRec) (hK : Keep β ρ z s) :
    Keep β ρ z (State.rasWrite s r) := by
  unfold State.rasWrite; grind (ematch := 40) (gen := 40) (splits := 40) [keep_bump, keep_raise, keep_errLog, keep_mk]

theorem keep_rasNew {β ρ : Bool} {z : State} (s : State) (page : Nat) (cause : Nat) (cls : Nat) (unit : Nat) (info : Nat) (hK : Keep β ρ z s) :
    Keep β ρ z (State.rasNew s page cause cls unit info) := by
  unfold State.rasNew; grind (ematch := 40) (gen := 40) (splits := 40) [keep_count, keep_at_, keep_storm, keep_cxlEvent, keep_aer, keep_rasWrite, keep_mk]

theorem keep_rasRecord {β ρ : Bool} {z : State} (s : State) (page : Nat) (cause : Nat) (cls : Nat) (unit : Nat) (info : Nat) (hK : Keep β ρ z s) :
    Keep β ρ z (State.rasRecord s page cause cls unit info) := by
  unfold State.rasRecord; grind (ematch := 40) (gen := 40) (splits := 40) [keep_bump, keep_count, keep_at_, keep_errLog, keep_rasNew, keep_mk]

theorem keep_journal {β ρ : Bool} {z : State} (s : State) (b : JBody) (hK : Keep β ρ z s) :
    Keep β ρ z (State.journal s b) := by
  unfold State.journal; grind (ematch := 40) (gen := 40) (splits := 40) [keep_mk, jput_sb]

theorem keep_dirUpdate {β ρ : Bool} {z : State} (s : State) (i : Nat) (hK : Keep β ρ z s) :
    Keep β ρ z (State.dirUpdate s i) := by
  unfold State.dirUpdate; grind (ematch := 40) (gen := 40) (splits := 40) [keep_journal]

theorem keep_journalSb {β ρ : Bool} {z : State} (s : State) (n : Nat) (st : SbState) (hK : Keep β ρ z s) :
    Keep β ρ z (State.journalSb s n st) := keep_journal _ _ hK

theorem keep_footAdd {β ρ : Bool} {z : State} (s : State) (h : Nat) (n : Nat) (hK : Keep β ρ z s) :
    Keep β ρ z (State.footAdd s h n) := by
  unfold State.footAdd; grind (ematch := 40) (gen := 40) (splits := 40) [keep_mk]

theorem keep_forgetSlots {β ρ : Bool} {z : State} (s : State) (h : Nat) (hK : Keep β ρ z s) :
    Keep β ρ z (State.forgetSlots s h) := by
  unfold State.forgetSlots
  exact keep_mk (keep_foldl _ _ s hK (fun s x => keep_footAdd s h x)) rfl rfl ⟨rfl, rfl, rfl, rfl, rfl, rfl, rfl, rfl⟩ id

theorem keep_unmapT2 {β ρ : Bool} {z : State} (s : State) (h : Nat) (hK : Keep β ρ z s) :
    Keep β ρ z (State.unmapT2 s h) := by
  unfold State.unmapT2; grind (ematch := 40) (gen := 40) (splits := 40) [keep_journal, keep_forgetSlots, keep_mk]

theorem keep_askMark {β ρ : Bool} {z : State} (s : State) (hK : Keep β ρ z s) :
    Keep β ρ z (State.askMark s) := by
  unfold State.askMark; simp only []; split
  · exact hK
  · exact keep_journal _ _ (keep_mk hK rfl rfl ⟨rfl, rfl, rfl, rfl, rfl, rfl, rfl, rfl⟩ id)

theorem keep_takeVal {β ρ : Bool} {z : State} (s : State) (hK : Keep β ρ z s) :
    Keep β ρ z (State.takeVal s) := by
  unfold State.takeVal; grind (ematch := 40) (gen := 40) (splits := 40) [keep_askMark, keep_mk]

theorem keep_schedule {β ρ : Bool} {z : State} (s : State) (k : PointKind) (hK : Keep β ρ z s) :
    Keep β ρ z (State.schedule s k) := by
  unfold State.schedule; grind (ematch := 40) (gen := 40) (splits := 40) [keep_takeVal, keep_mk]

theorem keep_setBank {β ρ : Bool} {z : State} (s : State) (b : Nat) (v : Bank) (hK : Keep β ρ z s) :
    Keep β ρ z (State.setBank s b v) := by
  unfold State.setBank; grind (ematch := 40) (gen := 40) (splits := 40) [keep_mk]

theorem keep_updBank {β ρ : Bool} {z : State} (s : State) (b : Nat) (f : Bank → Bank) (hK : Keep β ρ z s) :
    Keep β ρ z (State.updBank s b f) := by
  unfold State.updBank; grind (ematch := 40) (gen := 40) (splits := 40) [keep_setBank]

theorem keep_drainEnd {β ρ : Bool} {z : State} (s : State) (b : Nat) (hK : Keep β ρ z s) :
    Keep β ρ z (State.drainEnd s b) := by
  unfold State.drainEnd; grind (ematch := 40) (gen := 40) (splits := 40) [keep_raise, keep_updBank, keep_mk]

theorem keep_coolSlots {β ρ : Bool} {z : State} (s : State) (i : Nat) (v : Slot) (hK : Keep β ρ z s) :
    Keep β ρ z (State.coolSlots s i v) := by
  unfold State.coolSlots; grind (ematch := 40) (gen := 40) (splits := 40) [keep_mk]

theorem keep_leaveBank {β ρ : Bool} {z : State} (s : State) (b : Nat) (dirs : List Nat) (hK : Keep β ρ z s) :
    Keep β ρ z (State.leaveBank s b dirs) := by
  unfold State.leaveBank; grind (ematch := 40) (gen := 40) (splits := 40) [keep_updBank, keep_drainEnd, keep_coolSlots, keep_foldl]

theorem keep_setHeld {β ρ : Bool} {z : State} (s : State) (k : Key) (h : Bool) (hK : Keep β ρ z s) :
    Keep β ρ z (State.setHeld s k h) := by
  unfold State.setHeld; grind (ematch := 40) (gen := 40) (splits := 40) [keep_updSlot, keep_mk, keep_foldl]

theorem keep_unhold {β ρ : Bool} {z : State} (s : State) (k : Key) (hK : Keep β ρ z s) :
    Keep β ρ z (State.unhold s k) := by
  unfold State.unhold; grind (ematch := 40) (gen := 40) (splits := 40) [keep_leaveBank, keep_setHeld, keep_foldl]

theorem keep_holdIn {β ρ : Bool} {z : State} (s : State) (k : Key) (banks : List Nat) (hK : Keep β ρ z s) :
    Keep β ρ z (State.holdIn s k banks) := by
  unfold State.holdIn; grind (ematch := 40) (gen := 40) (splits := 40) [keep_bump, keep_count, keep_updBank, keep_setHeld]

theorem keep_hold {β ρ : Bool} {z : State} (s : State) (k : Key) (hK : Keep β ρ z s) :
    Keep β ρ z (State.hold s k) := by
  unfold State.hold; grind (ematch := 40) (gen := 40) (splits := 40) [keep_holdIn]

theorem keep_moveGroup {β ρ : Bool} {z : State} (s : State) (k : Key) (es : List (Nat × Slot)) (own : Nat) (banks : List Nat) (n : Nat) (hK : Keep β ρ z s) :
    Keep β ρ z (State.moveGroup s k es own banks n).1 := by
  unfold State.moveGroup; grind (ematch := 40) (gen := 40) (splits := 40) [keep_count, keep_updBank, keep_drainEnd, keep_unhold]

theorem keep_relocate {β ρ : Bool} {z : State} (s : State) (k : Key) (es : List (Nat × Slot)) (own : Nat) (n : Nat) (hK : Keep β ρ z s) :
    Keep β ρ z (State.relocate s k es own n).1 := by
  unfold State.relocate; grind (ematch := 40) (gen := 40) (splits := 40) [keep_moveGroup]

theorem keep_psaEdition {β ρ : Bool} {z : State} (s : State) (i : Nat) (edition : Nat) (hK : Keep β ρ z s) :
    Keep β ρ z (State.psaEdition s i edition) := by
  unfold State.psaEdition; grind (ematch := 40) (gen := 40) (splits := 40) [keep_updBank, keep_mk, keep_foldl]

theorem keep_psaRemove {β ρ : Bool} {z : State} (s : State) (i : Nat) (k : Key) (hK : Keep β ρ z s) :
    Keep β ρ z (State.psaRemove s i k) := by
  unfold State.psaRemove; grind (ematch := 40) (gen := 40) (splits := 40) [keep_leaveBank, keep_unhold, keep_foldl]

theorem keep_bankFail {β ρ : Bool} {z : State} (s : State) (b : Nat) (hK : Keep β ρ z s) :
    Keep β ρ z (State.bankFail s b) := by
  unfold State.bankFail; grind (ematch := 40) (gen := 40) (splits := 40) [keep_raise, keep_fresh, keep_updSlot, keep_rasRecord, keep_updBank, keep_mk, keep_foldl]

theorem keep_withdrawSeg {β ρ : Bool} {z : State} (s : State) (b : Nat) (seg : Nat) (hK : Keep β ρ z s) :
    Keep β ρ z (State.withdrawSeg s b seg) := by
  unfold State.withdrawSeg; grind (ematch := 40) (gen := 40) (splits := 40) [keep_rasRecord, keep_updBank, keep_drainEnd, keep_unhold, keep_mk, keep_foldl]

theorem keep_psaRepair {β ρ : Bool} {z : State} (s : State) (b : Nat) (j : Nat) (hK : Keep β ρ z s) :
    Keep β ρ z (State.psaRepair s b j) := by
  unfold State.psaRepair; grind (ematch := 40) (gen := 40) (splits := 40) [keep_bump, keep_raise, keep_rasRecord, keep_setBank, keep_updBank, keep_drainEnd, keep_bankFail, keep_withdrawSeg, keep_mk]

theorem keep_wordRead {β ρ : Bool} {z : State} (s : State) (b : Nat) (j : Nat) (r : Row) (hK : Keep β ρ z s) :
    Keep β ρ z (State.wordRead s b j r) := by
  unfold State.wordRead; grind (ematch := 40) (gen := 40) (splits := 40) [keep_rasRecord]

theorem keep_moveReads {β ρ : Bool} {z : State} (s : State) (b : Nat) (js : List Nat) (hK : Keep β ρ z s) :
    Keep β ρ z (State.moveReads s b js) := by
  unfold State.moveReads; grind (ematch := 40) (gen := 40) (splits := 40) [keep_wordRead, keep_psaRepair, keep_foldl]

theorem keep_insertIn {β ρ : Bool} {z : State} (s : State) (b seg : Nat) (dirs : List Nat) (i : Nat) (v : Slot) (hK : Keep β ρ z s) :
    Keep β ρ z (State.insertIn s b seg dirs i v) := by
  unfold State.insertIn; grind (ematch := 40) (gen := 40) (splits := 40) [keep_moveReads, keep_updSlot, keep_updBank]

theorem keep_insertHeld {β ρ : Bool} {z : State} (s : State) (i : Nat) (v : Slot) (hK : Keep β ρ z s) :
    Keep β ρ z (State.insertHeld s i v) := by
  unfold State.insertHeld; grind (ematch := 40) (gen := 40) (splits := 40) [keep_bump, keep_unhold, keep_relocate, keep_insertIn]

theorem keep_psaSearch {β ρ : Bool} {z : State} (s : State) (k : Key) (hK : Keep β ρ z s) :
    Keep β ρ z (State.psaSearch s k).1 := by
  unfold State.psaSearch; grind (ematch := 40) (gen := 40) (splits := 40) [keep_bump, keep_bump64, keep_count, keep_psaRepair, keep_wordRead]

theorem keep_lookProbe {β ρ : Bool} {z : State} (s : State) (k : Key) (hK : Keep β ρ z s) :
    Keep β ρ z (State.lookProbe s k).1 := by
  unfold State.lookProbe; grind (ematch := 40) (gen := 40) (splits := 40) [keep_psaSearch]

theorem keep_lookProbeView {β ρ : Bool} {z : State} (s : State) (k : Key) (snap : Nat) (hK : Keep β ρ z s) :
    Keep β ρ z (State.lookProbeView s k snap).1 := by
  unfold State.lookProbeView; grind (ematch := 40) (gen := 40) (splits := 40) [keep_psaSearch]

theorem keep_setPset {β ρ : Bool} {z : State} (s : State) (i : Nat) (v : PSet) (hK : Keep β ρ z s) :
    Keep β ρ z (State.setPset s i v) := by
  unfold State.setPset; grind (ematch := 40) (gen := 40) (splits := 40) [keep_mk, tables_psets]

theorem keep_updPset {β ρ : Bool} {z : State} (s : State) (i : Nat) (f : PSet → PSet) (hK : Keep β ρ z s) :
    Keep β ρ z (State.updPset s i f) := by
  unfold State.updPset; grind (ematch := 40) (gen := 40) (splits := 40) [keep_setPset]

theorem keep_plate {β ρ : Bool} {z : State} (s : State) (i : Nat) (hK : Keep β ρ z s) :
    Keep β ρ z (State.plate s i) := by
  unfold State.plate; grind (ematch := 40) (gen := 40) (splits := 40) [keep_mk]

theorem keep_goneMoves {β ρ : Bool} {z : State} (s : State) (i : Nat) (hK : Keep β ρ z s) :
    Keep β ρ z (State.goneMoves s i) := by
  unfold State.goneMoves; grind (ematch := 40) (gen := 40) (splits := 40) [keep_unmapT2, keep_mk]

theorem keep_dropPages {β ρ : Bool} {z : State} (s : State) (i : Nat) (hK : Keep β ρ z s) : Keep β ρ z (s.dropPages i) := by
  unfold State.dropPages
  have h1 := keep_unmapT2 s (psHandle (s.psetAt i).gen i) hK
  have h2 := keep_page _ _ (Mem.wf_clear (i * 2 ^ 32) (2 ^ 32) (keep_pageWf h1)) h1
  exact keep_goneMoves _ _ (keep_mk h2 rfl rfl ⟨rfl, rfl, rfl, rfl, rfl, rfl, rfl, rfl⟩ id)

theorem keep_freePset {β ρ : Bool} {z : State} (s : State) (i : Nat) (hK : Keep β ρ z s) :
    Keep β ρ z (State.freePset s i) := by
  unfold State.freePset; grind (ematch := 40) (gen := 40) (splits := 40) [keep_setPset, keep_dropPages, keep_mk]

theorem keep_reclaimSlot {β ρ : Bool} {z : State} (s : State) (i : Nat) (hK : Keep β ρ z s) :
    Keep β ρ z (State.reclaimSlot s i) := by
  unfold State.reclaimSlot; grind (ematch := 40) (gen := 40) (splits := 40) [keep_freeHead, keep_journal, keep_freePset]

theorem keep_reclaim {β ρ : Bool} {z : State} (s : State) (hK : Keep β ρ z s) :
    Keep β ρ z (State.reclaim s) := by
  unfold State.reclaim; grind (ematch := 40) (gen := 40) (splits := 40) [keep_reclaimSlot, keep_foldl]

theorem keep_returnProof {β ρ : Bool} {z : State} (s : State) (slot : Nat) (hK : Keep β ρ z s) :
    Keep β ρ z (State.returnProof s slot) := by
  unfold State.returnProof; grind (ematch := 40) (gen := 40) (splits := 40) [keep_mk]

theorem keep_abandonRepairs {β ρ : Bool} {z : State} (s : State) (i : Nat) (hK : Keep β ρ z s) :
    Keep β ρ z (State.abandonRepairs s i) := by
  unfold State.abandonRepairs; grind (ematch := 40) (gen := 40) (splits := 40) [keep_mk]

theorem keep_endEntry {β ρ : Bool} {z : State} (s : State) (i : Nat) (val : Nat) (hK : Keep β ρ z s) :
    Keep β ρ z (State.endEntry s i val) := by
  unfold State.endEntry; grind (ematch := 40) (gen := 40) (splits := 40) [keep_setSlot, keep_updSlot, keep_filterEnd, keep_dirUpdate, keep_psaRemove, keep_goneMoves, keep_reclaim, keep_abandonRepairs, keep_mk]

theorem keep_endNow {β ρ : Bool} {z : State} (s : State) (i : Nat) (hK : Keep β ρ z s) :
    Keep β ρ z (State.endNow s i) := by
  unfold State.endNow; grind (ematch := 40) (gen := 40) (splits := 40) [keep_takeVal, keep_endEntry, keep_mk]

theorem keep_releaseCopy {β ρ : Bool} {z : State} (s : State) (i : Nat) (t : Nat) (hK : Keep β ρ z s) :
    Keep β ρ z (State.releaseCopy s i t) := by
  unfold State.releaseCopy; grind (ematch := 40) (gen := 40) (splits := 40) [keep_bump, keep_unmapT2, keep_updPset]

theorem keep_makeRoom {β ρ : Bool} {z : State} (n : Nat) (s : State) (tenant t m : Nat) (hK : Keep β ρ z s) :
    Keep β ρ z (State.makeRoom n s tenant t m) := by
  induction n generalizing s with
  | zero => exact hK
  | succ n ih => unfold State.makeRoom; grind (ematch := 40) (gen := 40) (splits := 40) [keep_mk, keep_foldl, keep_releaseCopy, keep_endNow, keep_bump]

theorem keep_request_fits {β ρ : Bool} {z : State} (s : State) (tenant t m : Nat) {w : State} (_hw : Keep β ρ z w) {u : State}
    (e : s.request tenant t m = .fits u) (hK : Keep β ρ z s) : Keep β ρ z u := by
  unfold State.request at e; grind (ematch := 40) (gen := 40) (splits := 40) [keep_mk, keep_foldl, keep_makeRoom]

theorem keep_request_wait {β ρ : Bool} {z : State} (s : State) (tenant t m : Nat) {w : State} (_hw : Keep β ρ z w) {u : State}
    (e : s.request tenant t m = .wait u) (hK : Keep β ρ z s) : Keep β ρ z u := by
  unfold State.request at e; grind (ematch := 40) (gen := 40) (splits := 40) [keep_mk, keep_foldl, keep_makeRoom]

theorem keep_countFull {β ρ : Bool} {z : State} (s : State) (st : Status) (hK : Keep β ρ z s) :
    Keep β ρ z (State.countFull s st) := by
  unfold State.countFull; grind (ematch := 40) (gen := 40) (splits := 40) [keep_bump]

theorem keep_countQuota {β ρ : Bool} {z : State} (s : State) (st : Status) (hK : Keep β ρ z s) :
    Keep β ρ z (State.countQuota s st) := by
  unfold State.countQuota; grind (ematch := 40) (gen := 40) (splits := 40) [keep_count]

theorem keep_writePage {β ρ : Bool} {z : State} (s : State) (i page off : Nat) (bs : List Byte) (hK : Keep β ρ z s) :
    Keep β ρ z (s.writePage i page off bs) := keep_page s _ (Mem.wf_wrBytes _ _ _ (keep_pageWf hK)) hK

theorem keep_touch {β ρ : Bool} {z : State} (s : State) (slot : Nat) (hK : Keep β ρ z s) :
    Keep β ρ z (State.touch s slot) := by
  unfold State.touch; grind (ematch := 40) (gen := 40) (splits := 40) [keep_updSlot, keep_mk]

theorem keep_touchPset {β ρ : Bool} {z : State} (s : State) (i : Nat) (hK : Keep β ρ z s) :
    Keep β ρ z (State.touchPset s i) := by
  unfold State.touchPset; grind (ematch := 40) (gen := 40) (splits := 40) [keep_touch, keep_foldl]

theorem keep_openSb {β ρ : Bool} {z : State} (s : State) (half : Nat) (native : Bool) {w : State} (_hw : Keep β ρ z w) {i : Nat} {t : State}
    (e : s.openSb half native = some (i, t)) (hK : Keep β ρ z s) : Keep β ρ z t := by
  unfold State.openSb at e; grind (ematch := 40) (gen := 40) (splits := 40) [keep_mk, tables_sb, updSb_sb, keep_journalSb]

theorem keep_setStream {β ρ : Bool} {z : State} (s : State) (k : Nat) (v : Stream) (hK : Keep β ρ z s) :
    Keep β ρ z (State.setStream s k v) := by
  unfold State.setStream; grind (ematch := 40) (gen := 40) (splits := 40) [keep_mk]

theorem keep_enqueue {β ρ : Bool} {z : State} (s : State) (k : Nat) (ws : List WSlot) (hK : Keep β ρ z s) :
    Keep β ρ z (State.enqueue s k ws) := by
  unfold State.enqueue; grind (ematch := 40) (gen := 40) (splits := 40) [keep_setStream, keep_mk]

theorem takeBuckets_sb (l : List Nat) {f g : Flm} (h : f.takeBuckets l = some g) : g.sb = f.sb := by
  induction l generalizing f with
  | nil => cases h; rfl
  | cons a l ih =>
    unfold Flm.takeBuckets at h; split at h
    · cases h
    · exact (ih h).trans rfl

theorem keep_takeBuckets {β ρ : Bool} {z : State} (s : State) (l : List Nat) {g : Flm} (e : s.flm.takeBuckets l = some g) (hK : Keep β ρ z s) :
    Keep β ρ z { s with flm := g } := keep_mk hK rfl rfl ⟨rfl, rfl, rfl, rfl, rfl, rfl, rfl, rfl⟩ (by rw [takeBuckets_sb l e]; exact id)

theorem keep_startT2 {β ρ : Bool} {z : State} (s : State) (i : Nat) (hK : Keep β ρ z s) :
    Keep β ρ z (State.startT2 s i).1 := by
  have run : ∀ (s : State) (f : Flm) (k : Nat) (c : Bool) (ws v w : List WSlot), Keep β ρ z { s with flm := f } →
      ∀ a b, Keep β ρ z (if c = true then (({ s with flm := { f with first := a, span := b } } : State).enqueue 0 v).enqueue 3 w
        else ({ s with flm := { f with first := a, span := b } } : State).enqueue k ws) := by
    intro s f k c ws v w h a b
    have h : Keep β ρ z ({ s with flm := { f with first := a, span := b } } : State) :=
      keep_mk (x := { s with flm := f }) h rfl rfl ⟨rfl, rfl, rfl, rfl, rfl, rfl, rfl, rfl⟩ id
    split
    · exact keep_enqueue _ _ _ (keep_enqueue _ _ _ h)
    · exact keep_enqueue _ _ _ h
  unfold State.startT2; simp only []
  split
  · exact hK
  · split
    · rename_i e; exact run _ _ _ _ _ _ _ (keep_takeBuckets s _ e hK) _ _
    · split
      · exact hK
      · exact run _ _ _ _ _ _ _ (keep_count s _ _ _ hK) _ _

theorem keep_eraseReady {β ρ : Bool} {z : State} (s : State) (hK : Keep β ρ z s) :
    Keep β ρ z (State.eraseReady s) := by
  unfold State.eraseReady; refine keep_foldl _ _ s hK fun s e h => keep_journalSb _ _ _ (keep_mk h rfl rfl ⟨rfl, rfl, rfl, rfl, rfl, rfl, rfl, rfl⟩ ?_)
  rw [updSb_sb]; exact tables_sb

theorem keep_hotUnits {β ρ : Bool} {z : State} (s : State) (i : Nat) (hot : Bool) (hK : Keep β ρ z s) :
    Keep β ρ z (State.hotUnits s i hot) := by
  unfold State.hotUnits; simp only []
  split
  · exact hK
  · split
    · refine keep_foldl _ _ s hK fun s e h => ?_
      split
      · exact keep_count _ _ _ _ h
      · rename_i g; exact keep_foldl _ _ _ (keep_takeBuckets s _ g h) fun s x h => keep_journal _ _ h
    · exact keep_enqueue _ _ _ hK

theorem keep_rewritePage {β ρ : Bool} {z : State} (s : State) (i : Nat) (page : Nat) (hK : Keep β ρ z s) :
    Keep β ρ z (State.rewritePage s i page) := by
  unfold State.rewritePage; grind (ematch := 40) (gen := 40) (splits := 40) [keep_enqueue]

theorem keep_requeue {β ρ : Bool} {z : State} (s : State) (n : Nat) (hK : Keep β ρ z s) :
    Keep β ρ z (State.requeue s n) := keep_eraseReady _ (keep_enqueue _ _ _ hK)

theorem keep_vacate {β ρ : Bool} {z : State} (s : State) (n : Nat) (c : Vacate) (hK : Keep β ρ z s) :
    Keep β ρ z (State.vacate s n c) := by
  unfold State.vacate; grind (ematch := 40) (gen := 40) (splits := 40) [keep_journalSb, keep_requeue, keep_mk, tables_sb, updSb_sb]

theorem keep_addCredit {β ρ : Bool} {z : State} (s : State) (c : Nat) (hK : Keep β ρ z s) :
    Keep β ρ z (State.addCredit s c) := by
  unfold State.addCredit; grind (ematch := 40) (gen := 40) (splits := 40) [keep_mk]

theorem keep_updMode {β ρ : Bool} {z : State} (s : State) (hK : Keep β ρ z s) :
    Keep β ρ z (State.updMode s) := by
  unfold State.updMode; grind (ematch := 40) (gen := 40) (splits := 40) [keep_raise, keep_mk]

theorem keep_spareCheck {β ρ : Bool} {z : State} (s : State) (hK : Keep β ρ z s) :
    Keep β ρ z (State.spareCheck s) := by
  unfold State.spareCheck; grind (ematch := 40) (gen := 40) (splits := 40) [keep_raise, keep_mk]

theorem keep_newExport {β ρ : Bool} {z : State} (s : State) (hK : Keep β ρ z s) :
    Keep β ρ z (State.newExport s) := by
  unfold State.newExport; grind (ematch := 40) (gen := 40) (splits := 40) [keep_raise, keep_mk]

theorem keep_retireBlock {β ρ : Bool} {z : State} (s : State) (die : Nat) (block : Nat) (hK : Keep β ρ z s) :
    Keep β ρ z (State.retireBlock s die block) := by
  unfold State.retireBlock; grind (ematch := 40) (gen := 40) (splits := 40) [keep_bump, keep_spareCheck, keep_newExport, keep_mk, updDie_sb]

theorem keep_dieFails {β ρ : Bool} {z : State} (s : State) (die : Nat) (hK : Keep β ρ z s) : Keep β ρ z (s.dieFails die) := by
  unfold State.dieFails
  simp only []
  split
  · exact hK
  · refine keep_spareCheck _ (keep_newExport _ (keep_rasRecord _ _ _ _ _ _ (keep_raise _ _ _ (keep_bump _ _ _ ?_))))
    refine keep_mk (keep_journal _ _ (keep_mk hK rfl rfl ⟨rfl, rfl, rfl, rfl, rfl, rfl, rfl, rfl⟩ id)) rfl rfl ⟨rfl, rfl, rfl, rfl, rfl, rfl, rfl, rfl⟩ (tables_sbMap (rising_map _ ?_))
    intro e; split <;> rfl

theorem keep_blockResult {β ρ : Bool} {z : State} (s : State) (die : Nat) (block : Nat) (ok : Bool) (hK : Keep β ρ z s) :
    Keep β ρ z (State.blockResult s die block ok) := by
  unfold State.blockResult; grind (ematch := 40) (gen := 40) (splits := 40) [keep_dieFails, keep_mk, updDie_sb]

theorem keep_relocCredit {β ρ : Bool} {z : State} (s : State) (old : Option Loc) (k : Nat) (hK : Keep β ρ z s) :
    Keep β ρ z (State.relocCredit s old k) := by
  unfold State.relocCredit; grind (ematch := 40) (gen := 40) (splits := 40) [keep_addCredit]

theorem putStip_sb (f : Flm) (h a : Nat) (new : Loc) : (f.putStip h a new).sb = f.sb := by
  unfold Flm.putStip; grind

theorem putBroad_sb (f : Flm) (h a : Nat) (new : Loc) : (f.putBroad h a new).sb = f.sb := rfl

theorem keep_noteLanded {β ρ : Bool} {z : State} (s : State) (h : Nat) (hK : Keep β ρ z s) :
    Keep β ρ z (State.noteLanded s h) := by
  unfold State.noteLanded; grind (ematch := 40) (gen := 40) (splits := 40) [keep_mk]

theorem keep_mapCommit {β ρ : Bool} {z : State} (s : State) (h : Nat) (a : Nat) (wide : Bool) (new : Loc) (old : Option Loc) (hK : Keep β ρ z s) :
    Keep β ρ z (State.mapCommit s h a wide new old) := by
  unfold State.mapCommit; simp only []
  split
  · exact hK
  · refine keep_eraseReady _ (keep_noteLanded _ _ (keep_footAdd _ _ _ (keep_mk (keep_relocCredit s _ _ hK) rfl rfl ⟨rfl, rfl, rfl, rfl, rfl, rfl, rfl, rfl⟩ ?_)))
    split
    · rw [putBroad_sb]; exact id
    · rw [putStip_sb]; exact id

theorem keep_dropMap {β ρ : Bool} {z : State} (s : State) (h first count : Nat) (hK : Keep β ρ z s) :
    Keep β ρ z (State.dropMap s h first count) := by
  unfold State.dropMap; exact keep_eraseReady _ (keep_mk hK rfl rfl ⟨rfl, rfl, rfl, rfl, rfl, rfl, rfl, rfl⟩ id)

theorem keep_commitMap {β ρ : Bool} {z : State} (s : State) (r : JRec) (hK : Keep β ρ z s) :
    Keep β ρ z (State.commitMap s r) := by
  unfold State.commitMap; grind (ematch := 40) (gen := 40) (splits := 40) [keep_mapCommit, keep_dropMap, keep_mk]

theorem keep_jrelease {β ρ : Bool} {z : State} (s : State) (hK : Keep β ρ z s) :
    Keep β ρ z (State.jrelease s) := by
  unfold State.jrelease
  exact keep_foldl _ _ _ (keep_foldl _ _ _ (keep_mk hK rfl rfl ⟨rfl, rfl, rfl, rfl, rfl, rfl, rfl, rfl⟩ id) fun s r h => keep_commitMap s r h) fun s b h => keep_journal s b h

theorem keep_ckptDone {β ρ : Bool} {z : State} (s : State) (n : Nat) (hK : Keep β ρ z s) :
    Keep β ρ z (State.ckptDone s n) := by
  unfold State.ckptDone; grind (ematch := 40) (gen := 40) (splits := 40) [keep_bump, keep_returnProof, keep_jrelease, keep_mk, keep_foldl]

theorem keep_applyRec {β ρ : Bool} {z : State} (s : State) (r : JRec) (hK : Keep β ρ z s) :
    Keep β ρ z (State.applyRec s r) := by
  unfold State.applyRec; grind (ematch := 40) (gen := 40) (splits := 40) [keep_commitMap, keep_noteLanded, keep_ckptDone, keep_mk, tables_sb, updSb_sb]

theorem keep_blockErased {β ρ : Bool} {z : State} (s : State) (n pos block : Nat) (hK : Keep β ρ z s) :
    Keep β ρ z (State.blockErased s n pos block) := by
  unfold State.blockErased; exact keep_mk (keep_bump _ _ _ hK) rfl rfl ⟨rfl, rfl, rfl, rfl, rfl, rfl, rfl, rfl⟩ (by rw [updDie_sb]; exact id)

theorem keep_ringErase {β ρ : Bool} {z : State} (s : State) (n : Nat) (hK : Keep β ρ z s) :
    Keep β ρ z (State.ringErase s n) := by
  unfold State.ringErase; split
  · exact hK
  · split
    · exact keep_mk (keep_foldl _ _ s hK fun s b h => keep_blockErased s _ _ _ h) rfl rfl ⟨rfl, rfl, rfl, rfl, rfl, rfl, rfl, rfl⟩ id
    · exact hK

theorem keep_jcount {β ρ : Bool} {z : State} (s : State) (hK : Keep β ρ z s) :
    Keep β ρ z (State.jcount s) := by
  unfold State.jcount; grind (ematch := 40) (gen := 40) (splits := 40) [keep_raise, keep_mk]

theorem keep_needPages {β ρ : Bool} {z : State} (s : State) (i : Nat) (ps : List Nat) (urgent : Bool) (pfs : Bool) (hK : Keep β ρ z s) :
    Keep β ρ z (State.needPages s i ps urgent pfs) := by
  unfold State.needPages; grind (ematch := 40) (gen := 40) (splits := 40) [keep_mk, keep_foldl]

theorem keep_healPage {β ρ : Bool} {z : State} (s : State) (i : Nat) (p : Nat) (hK : Keep β ρ z s) :
    Keep β ρ z (State.healPage s i p) := by
  unfold State.healPage; grind (ematch := 40) (gen := 40) (splits := 40) [keep_mk]

theorem keep_setNetPort {β ρ : Bool} {z : State} (s : State) (n : Nat) (v : NetPort) (hK : Keep β ρ z s) :
    Keep β ρ z (State.setNetPort s n v) := by
  unfold State.setNetPort; grind (ematch := 40) (gen := 40) (splits := 40) [keep_mk, tables_port]

theorem keep_setGate {β ρ : Bool} {z : State} (s : State) (n : Nat) (v : Gate) (hK : Keep β ρ z s) :
    Keep β ρ z (State.setGate s n v) := by
  unfold State.setGate; grind (ematch := 40) (gen := 40) (splits := 40) [keep_mk, tables_gate]

theorem keep_setCtx {β ρ : Bool} {z : State} (s : State) (q : Nat) (v : Ctx) (hK : Keep β ρ z s) :
    Keep β ρ z (State.setCtx s q v) := by
  unfold State.setCtx; grind (ematch := 40) (gen := 40) (splits := 40) [keep_mk]

theorem keep_setConn {β ρ : Bool} {z : State} (s : State) (q : Nat) (v : Conn) (hK : Keep β ρ z s) :
    Keep β ρ z (State.setConn s q v) := by
  unfold State.setConn; grind (ematch := 40) (gen := 40) (splits := 40) [keep_mk]

theorem keep_post {β ρ : Bool} {z : State} (s : State) (q : Nat) (tc : Nat) (work : MsgWork) (write : Bool) (va : Nat) (rkey : Nat) (imm : Option Word) (total : Nat) (data : List Byte) (hK : Keep β ρ z s) :
    Keep β ρ z (State.post s q tc work write va rkey imm total data) := by
  unfold State.post; grind (ematch := 40) (gen := 40) (splits := 40) [keep_setConn, keep_mk]

theorem keep_postMore {β ρ : Bool} {z : State} (s : State) (q : Nat) (work : MsgWork) (bs : List Byte) (hK : Keep β ρ z s) :
    Keep β ρ z (State.postMore s q work bs) := by
  unfold State.postMore; grind (ematch := 40) (gen := 40) (splits := 40) [keep_setConn, keep_mk]

theorem keep_killMsg {β ρ : Bool} {z : State} (s : State) (q : Nat) (work : MsgWork) (hK : Keep β ρ z s) :
    Keep β ρ z (State.killMsg s q work) := by
  unfold State.killMsg; grind (ematch := 40) (gen := 40) (splits := 40) [keep_setConn, keep_mk]

theorem keep_netAnswer {β ρ : Bool} {z : State} (s : State) (q : Nat) (rid : Nat) (tag : Nat) (ws : List Word) (hK : Keep β ρ z s) :
    Keep β ρ z (State.netAnswer s q rid tag ws) := by
  unfold State.netAnswer; grind (ematch := 40) (gen := 40) (splits := 40) [keep_post, keep_mk]

theorem keep_linWrite {β ρ : Bool} {z : State} (s : State) (i pageSize page off k : Nat) (bs : List Byte) (hK : Keep β ρ z s) :
    Keep β ρ z (s.linWrite i pageSize page off k bs) := by
  induction bs generalizing s k with
  | nil => exact hK
  | cons x bs ih =>
    unfold State.linWrite
    exact ih _ _ (keep_page s _ (Mem.wf_wr _ _ (keep_pageWf hK)) hK)

theorem keep_setQset {β ρ : Bool} {z : State} (s : State) (p : Nat) (q : Nat) (v : QSet) (hK : Keep β ρ z s) :
    Keep β ρ z (State.setQset s p q v) := by
  unfold State.setQset; grind (ematch := 40) (gen := 40) (splits := 40) [keep_mk]

theorem keep_signal {β ρ : Bool} {z : State} (s : State) (p : Nat) (q : Nat) (hK : Keep β ρ z s) :
    Keep β ρ z (State.signal s p q) := by
  unfold State.signal; grind (ematch := 40) (gen := 40) (splits := 40) [keep_setQset, keep_msix, keep_mk]

theorem keep_writeCq {β ρ : Bool} {z : State} (s : State) (p : Nat) (q : Nat) (ws : List Word) (native : Bool) (int : Bool) (hK : Keep β ρ z s) :
    Keep β ρ z (State.writeCq s p q ws native int) := by
  unfold State.writeCq; grind (ematch := 40) (gen := 40) (splits := 40) [keep_hostPut, keep_setQset, keep_signal, keep_mk]

theorem keep_postCq {β ρ : Bool} {z : State} (s : State) (id : Nat) (p : Nat) (q : Nat) (ws : List Word) (int : Bool) (hK : Keep β ρ z s) :
    Keep β ρ z (State.postCq s id p q ws int) := by
  unfold State.postCq; grind (ematch := 40) (gen := 40) (splits := 40) [keep_setQset, keep_writeCq, keep_mk]

theorem keep_freeWords {β ρ : Bool} {z : State} (s : State) (n : Nat) (hK : Keep β ρ z s) :
    Keep β ρ z (State.freeWords s n).2 := by
  unfold State.freeWords; grind (ematch := 40) (gen := 40) (splits := 40) [keep_mk]

theorem keep_endWords {β ρ : Bool} {z : State} (s : State) (op n : Nat) (hK : Keep β ρ z s) :
    Keep β ρ z (State.endWords s op n).2 := by
  unfold State.endWords; grind (ematch := 40) (gen := 40) (splits := 40) [keep_freeWords]

theorem keep_takeProof {β ρ : Bool} {z : State} (s : State) (tenant : Nat) (leaseMs : Nat) (implicit : Option Nat) (hK : Keep β ρ z s) :
    Keep β ρ z (State.takeProof s tenant leaseMs implicit).1 := by
  unfold State.takeProof; grind (ematch := 40) (gen := 40) (splits := 40) [keep_raise, keep_mk]

theorem keep_unmapViews {β ρ : Bool} {z : State} (s : State) (slot : Nat) (hK : Keep β ρ z s) :
    Keep β ρ z (State.unmapViews s slot) := by
  unfold State.unmapViews; grind (ematch := 40) (gen := 40) (splits := 40) [keep_mk]

theorem keep_endProof {β ρ : Bool} {z : State} (s : State) (slot : Nat) (hK : Keep β ρ z s) :
    Keep β ρ z (State.endProof s slot) := by
  unfold State.endProof; grind (ematch := 40) (gen := 40) (splits := 40) [keep_reclaim, keep_returnProof, keep_unmapViews, keep_mk]

theorem keep_holdSnapshot {β ρ : Bool} {z : State} (s : State) (id : Nat) (snap : Nat) (hK : Keep β ρ z s) :
    Keep β ρ z (State.holdSnapshot s id snap) := by
  unfold State.holdSnapshot; grind (ematch := 40) (gen := 40) (splits := 40) [keep_mk]

theorem keep_openImplicit {β ρ : Bool} {z : State} (s : State) (id : Nat) (tenant : Nat) (hK : Keep β ρ z s) :
    Keep β ρ z (State.openImplicit s id tenant).1 := by
  unfold State.openImplicit; grind (ematch := 40) (gen := 40) (splits := 40) [keep_takeProof]

theorem keep_viewFor {β ρ : Bool} {z : State} (s : State) (id : Nat) (tenant : Nat) (h : Nat) (hK : Keep β ρ z s) :
    Keep β ρ z (State.viewFor s id tenant h).1 := by
  unfold State.viewFor; grind (ematch := 40) (gen := 40) (splits := 40) [keep_holdSnapshot, keep_openImplicit]

theorem keep_dropReaders {β ρ : Bool} {z : State} (s : State) (id : Nat) (hK : Keep β ρ z s) :
    Keep β ρ z (State.dropReaders s id) := by
  unfold State.dropReaders; grind (ematch := 40) (gen := 40) (splits := 40) [keep_mk]

theorem keep_release {β ρ : Bool} {z : State} (s : State) (id : Nat) (hK : Keep β ρ z s) :
    Keep β ρ z (State.release s id) := by
  unfold State.release; grind (ematch := 40) (gen := 40) (splits := 40) [keep_reclaim, keep_dropReaders, keep_mk, keep_foldl]

theorem keep_closeViews {β ρ : Bool} {z : State} (s : State) (id : Nat) (hK : Keep β ρ z s) :
    Keep β ρ z (State.closeViews s id) := by
  unfold State.closeViews; grind (ematch := 40) (gen := 40) (splits := 40) [keep_endProof, keep_foldl]

theorem keep_dropLive {β ρ : Bool} {z : State} (s : State) (id : Nat) (hK : Keep β ρ z s) :
    Keep β ρ z (State.dropLive s id) := by
  unfold State.dropLive; grind (ematch := 40) (gen := 40) (splits := 40) [keep_mk]

theorem keep_completeQueue {β ρ : Bool} {z : State} (s : State) (l : Live) (p : Nat) (q : Nat) (st : Status) (ws : List Word) (hK : Keep β ρ z s) :
    Keep β ρ z (State.completeQueue s l p q st ws) := by
  unfold State.completeQueue; grind (ematch := 40) (gen := 40) (splits := 40) [keep_bump, keep_setQset, keep_writeCq, keep_mk]

theorem keep_updInst {β ρ : Bool} {z : State} (s : State) (iid : Nat) (f : Inst → Inst) (hK : Keep β ρ z s) :
    Keep β ρ z (State.updInst s iid f) := by
  unfold State.updInst; grind (ematch := 40) (gen := 40) (splits := 40) [keep_mk]

theorem keep_updRec {β ρ : Bool} {z : State} (s : State) (iid : Nat) (idx : Nat) (f : SRec → SRec) (hK : Keep β ρ z s) :
    Keep β ρ z (State.updRec s iid idx f) := by
  unfold State.updRec; grind (ematch := 40) (gen := 40) (splits := 40) [keep_updInst, keep_mk]

theorem keep_overrun {β ρ : Bool} {z : State} (s : State) (target : Nat) (hK : Keep β ρ z s) :
    Keep β ρ z (State.overrun s target) := by
  unfold State.overrun; grind (ematch := 40) (gen := 40) (splits := 40) [keep_count, keep_mk]

theorem keep_recOne {β ρ : Bool} {z : State} (s : State) (iid : Nat) (idx : Nat) (id : Nat) (st : Status) (rs : List Word) (write : Bool) (hK : Keep β ρ z s) :
    Keep β ρ z (State.recOne s iid idx id st rs write) := by
  unfold State.recOne; grind (ematch := 40) (gen := 40) (splits := 40) [keep_bump, keep_postCq, keep_updRec, keep_overrun, keep_mk]

theorem keep_recAborts {β ρ : Bool} {z : State} (s : State) (iid : Nat) (hK : Keep β ρ z s) :
    Keep β ρ z (State.recAborts s iid) := by
  unfold State.recAborts; grind (ematch := 40) (gen := 40) (splits := 40) [keep_endWords, keep_recOne, keep_foldl]

theorem keep_instEnd {β ρ : Bool} {z : State} (s : State) (iid : Nat) (hK : Keep β ρ z s) :
    Keep β ρ z (State.instEnd s iid) := by
  unfold State.instEnd; grind (ematch := 40) (gen := 40) (splits := 40) [keep_mk]

theorem keep_recFinal {β ρ : Bool} {z : State} (s : State) (iid : Nat) (idx : Nat) (id : Nat) (st : Status) (rs : List Word) (write : Bool) (hK : Keep β ρ z s) :
    Keep β ρ z (State.recFinal s iid idx id st rs write) := by
  unfold State.recFinal; grind (ematch := 40) (gen := 40) (splits := 40) [keep_recOne, keep_recAborts, keep_instEnd]

theorem keep_recPoint {β ρ : Bool} {z : State} (s : State) (l : Live) (hK : Keep β ρ z s) :
    Keep β ρ z (State.recPoint s l) := by
  unfold State.recPoint; grind (ematch := 40) (gen := 40) (splits := 40) [keep_reclaim, keep_dropReaders, keep_updRec, keep_mk]

theorem keep_report {β ρ : Bool} {z : State} (s : State) (l : Live) (id : Nat) (st : Status) (w3 : Word) (rs : List Word) (hK : Keep β ρ z s) :
    Keep β ρ z (State.report s l id st w3 rs) := by
  unfold State.report; grind (ematch := 40) (gen := 40) (splits := 40) [keep_send, keep_netAnswer, keep_postCq, keep_completeQueue, keep_recFinal]

theorem keep_complete {β ρ : Bool} {z : State} (s : State) (id : Nat) (st : Status) (res : Option (Word × List Word)) (hK : Keep β ρ z s) :
    Keep β ρ z (State.complete s id st res) := by
  unfold State.complete; grind (ematch := 40) (gen := 40) (splits := 40) [keep_countQuota, keep_freeWords, keep_endWords, keep_release, keep_closeViews, keep_dropLive, keep_report]

theorem keep_fail {β ρ : Bool} {z : State} (s : State) (id : Nat) (st : Status) (hK : Keep β ρ z s) :
    Keep β ρ z (State.fail s id st) := by
  unfold State.fail; grind (ematch := 40) (gen := 40) (splits := 40) [keep_complete]

theorem keep_done {β ρ : Bool} {z : State} (s : State) (id : Nat) (w3 : Word) (rs : List Word) (hK : Keep β ρ z s) :
    Keep β ρ z (State.done s id w3 rs) := by
  unfold State.done; grind (ematch := 40) (gen := 40) (splits := 40) [keep_complete]

end Sys2Proof.Machine
end

