-- ==== Sys2Proof/Laws/KeepDirectory.lean ====
section
/-! SUPPORT. The lemmas of KeepBase for the operations and meanings of Moves, Lookup, Directory, Tiers, Queues, Delivery, Psa. -/

namespace Sys2Proof.Machine

theorem keep_undefHost {β ρ : Bool} {z : State} (s : State) (p a n : Nat) (hK : Keep β ρ z s) : Keep β ρ z (s.undefHost p a n) := by
  have hw : (s.host (p % 2)).wf = true := by unfold Keep at hK; unfold State.host; grind
  exact keep_mk (keep_setHost s (p % 2) _ (Mem.wf_wrBytes _ _ _ hw) hK) rfl rfl ⟨rfl, rfl, rfl, rfl, rfl, rfl, rfl, rfl⟩ id

theorem keep_undefSlots {β ρ : Bool} {z : State} (s : State) (l : Live) (e : Status) (n : Nat) (hK : Keep β ρ z s) :
    Keep β ρ z (State.undefSlots s l e n) := by
  unfold State.undefSlots; grind (ematch := 40) (gen := 40) (splits := 40) [keep_undefHost]

theorem keep_probe {β ρ : Bool} {z : State} (a : Search) (k : Key) (snap : Option Nat) (hK : Keep β ρ z a.s) :
    Keep β ρ z (a.probe k snap).1.s := by
  unfold Search.probe; grind (ematch := 40) (gen := 40) (splits := 40) [keep_lookProbe, keep_lookProbeView, keep_mk]

theorem keep_searchLoop {β ρ : Bool} {z : State} (n : Nat) (key : Nat → Except Status Key) (snap : Option Nat) (m : Nat) (a : Search)
    {w : State} {u : Search} (_hw : Keep β ρ z w) (e : searchLoop n key snap m a = .ok u) (hK : Keep β ρ z a.s) : Keep β ρ z u.s := by
  induction n generalizing a m with
  | zero => unfold searchLoop at e; grind (ematch := 40) (gen := 40) (splits := 40) 
  | succ n ih => unfold searchLoop at e; grind (ematch := 40) (gen := 40) (splits := 40) [keep_probe]

theorem keep_prefixSearch {β ρ : Bool} {z : State} (s : State) (key : Nat → Except Status Key) (snap : Option Nat) (n : Nat) (tail : Bool)
    {w : State} {u : Search} {f : Bool} (_hw : Keep β ρ z w) (e : prefixSearch s key snap n tail = .ok (u, f)) (hK : Keep β ρ z s) :
    Keep β ρ z u.s := by
  unfold prefixSearch at e; grind (ematch := 40) (gen := 40) (splits := 40) [keep_probe, → keep_searchLoop]

theorem keep_execLookup {β ρ : Bool} {z : State} (id : Nat) (s : State) (hK : Keep β ρ z s) {tK : State} (eK : execLookup id s = .next tK) :
    Keep β ρ z tK := by
  unfold execLookup State.onNew at eK; simp only [Host.Outcome.next.injEq] at eK; subst eK; grind (ematch := 40) (gen := 40) (splits := 40) [keep_complete, keep_fail, keep_prefixSearch]

theorem keep_execHash {β ρ : Bool} {z : State} (id : Nat) (s : State) (hK : Keep β ρ z s) {tK : State} (eK : execHash id s = .next tK) :
    Keep β ρ z tK := by
  unfold execHash State.onNew at eK; simp only [Host.Outcome.next.injEq] at eK; subst eK; grind (ematch := 40) (gen := 40) (splits := 40) [→ keep_workWrite, keep_fail, keep_done, keep_undefSlots]

theorem keep_execOpenProof {β ρ : Bool} {z : State} (id : Nat) (s : State) (hK : Keep β ρ z s) {tK : State} (eK : execOpenProof id s = .next tK) :
    Keep β ρ z tK := by
  unfold execOpenProof State.onNew at eK; simp only [Host.Outcome.next.injEq] at eK; subst eK; grind (ematch := 40) (gen := 40) (splits := 40) [keep_takeProof, keep_fail, keep_done]

theorem keep_execRenew {β ρ : Bool} {z : State} (id : Nat) (s : State) (hK : Keep β ρ z s) {tK : State} (eK : execRenew id s = .next tK) :
    Keep β ρ z tK := by
  unfold execRenew State.onNew at eK; simp only [Host.Outcome.next.injEq] at eK; subst eK; grind (ematch := 40) (gen := 40) (splits := 40) [keep_bump, keep_fail, keep_done, keep_mk]

theorem keep_mapViewEntry {β ρ : Bool} {z : State} (s : State) (p : Nat) (tenant : Nat) (slotNo : Nat) (snap : Nat) (bs : List Byte) (k : Option Key) (hK : Keep β ρ z s) :
    Keep β ρ z (mapViewEntry s p tenant slotNo snap bs k).1 := by
  unfold mapViewEntry; grind (ematch := 40) (gen := 40) (splits := 40) [keep_count, keep_setPort, keep_mk]

theorem keep_mapView {β ρ : Bool} {z : State} (s : State) (p tenant slotNo snap i : Nat) (l : List (List Byte × Option Key))
    (a : Nat × Option (Nat × Status)) (hK : Keep β ρ z s) : Keep β ρ z (mapView s p tenant slotNo snap i l a).1 := by
  induction l generalizing s i a with
  | nil => unfold mapView; exact hK
  | cons x l ih => unfold mapView; grind (ematch := 40) (gen := 40) (splits := 40) [keep_mk, keep_foldl, keep_mapViewEntry]

theorem keep_execOpenView {β ρ : Bool} {z : State} (id : Nat) (s : State) (hK : Keep β ρ z s) {tK : State} (eK : execOpenView id s = .next tK) :
    Keep β ρ z tK := by
  unfold execOpenView State.onNew at eK; simp only [Host.Outcome.next.injEq] at eK; subst eK; grind (ematch := 40) (gen := 40) (splits := 40) [keep_takeProof, keep_complete, keep_fail, keep_mapView]

theorem keep_execCloseProof {β ρ : Bool} {z : State} (id : Nat) (s : State) (hK : Keep β ρ z s) {tK : State} (eK : execCloseProof id s = .next tK) :
    Keep β ρ z tK := by
  unfold execCloseProof State.onNew at eK; simp only [Host.Outcome.next.injEq] at eK; subst eK; grind (ematch := 40) (gen := 40) (splits := 40) [keep_endProof, keep_fail, keep_done]

theorem keep_execProofLapse {β ρ : Bool} {z : State} (slot : Nat) (t : Nat) (s : State) (hK : Keep β ρ z s) {tK : State} (eK : execProofLapse slot t s = .next tK) :
    Keep β ρ z tK := by
  unfold execProofLapse at eK; simp only [Host.Outcome.next.injEq] at eK; subst eK; grind (ematch := 40) (gen := 40) (splits := 40) [keep_bump, keep_at_, keep_endProof]

theorem keep_unseal {β ρ : Bool} {z : State} (s : State) (i : Nat) (hK : Keep β ρ z s) :
    Keep β ρ z (State.unseal s i) := by
  unfold State.unseal; grind (ematch := 40) (gen := 40) (splits := 40) [keep_updPset, keep_mk]

theorem keep_leaveSealed {β ρ : Bool} {z : State} (s : State) (i : Nat) (hK : Keep β ρ z s) :
    Keep β ρ z (State.leaveSealed s i) := by
  unfold State.leaveSealed; grind (ematch := 40) (gen := 40) (splits := 40) [keep_updPset, keep_mk]

theorem keep_wantHeld {β ρ : Bool} {z : State} (s : State) (i : Nat) (hK : Keep β ρ z s) :
    Keep β ρ z (State.wantHeld s i) := by
  unfold State.wantHeld; grind (ematch := 40) (gen := 40) (splits := 40) [keep_mk]

theorem keep_setFlags {β ρ : Bool} {z : State} (s : State) (i : Nat) (alloc mask : Nat) (hK : Keep β ρ z s) :
    Keep β ρ z (State.setFlags s i alloc mask) := by
  unfold State.setFlags; grind (ematch := 40) (gen := 40) (splits := 40) [keep_hotUnits, keep_updSlot, keep_dirUpdate, keep_unhold, keep_updPset, keep_wantHeld, keep_mk]

theorem keep_setPref {β ρ : Bool} {z : State} (s : State) (i : Nat) (pref : Option Nat) (hK : Keep β ρ z s) :
    Keep β ρ z (State.setPref s i pref) := by
  unfold State.setPref; grind (ematch := 40) (gen := 40) (splits := 40) [keep_updPset, keep_mk]

theorem keep_undoMove {β ρ : Bool} {z : State} (s : State) (m : Move) (hK : Keep β ρ z s) :
    Keep β ρ z (State.undoMove s m) := by
  unfold State.undoMove; grind (ematch := 40) (gen := 40) (splits := 40) [keep_setFlags]

theorem keep_dropMove {β ρ : Bool} {z : State} (s : State) (i : Nat) (hK : Keep β ρ z s) :
    Keep β ρ z (State.dropMove s i) := by
  unfold State.dropMove; grind (ematch := 40) (gen := 40) (splits := 40) [keep_mk]

theorem keep_beginMove {β ρ : Bool} {z : State} (s : State) (i : Nat) (target : Nat) (cause : MoveCause) (pref : Option Nat) (undo : Option (Nat × Nat)) {w tK : State} (_hw : Keep β ρ z w) (eK : State.beginMove s i target cause pref undo = .ok tK) (hK : Keep β ρ z s) :
    Keep β ρ z tK := by
  unfold State.beginMove at eK; grind (ematch := 40) (gen := 40) (splits := 40) [keep_startT2, keep_needPages, keep_mk]

theorem keep_setPlan {β ρ : Bool} {z : State} (s : State) (slot : Nat) (v : Plan) (hK : Keep β ρ z s) :
    Keep β ρ z (State.setPlan s slot v) := by
  unfold State.setPlan; grind (ematch := 40) (gen := 40) (splits := 40) [keep_mk]

theorem keep_planCheck {β ρ : Bool} {z : State} (s : State) (id : Nat) (hK : Keep β ρ z s) :
    Keep β ρ z (State.planCheck s id) := by
  unfold State.planCheck; grind (ematch := 40) (gen := 40) (splits := 40) [keep_done, keep_setPlan, keep_mk]

theorem keep_planFail {β ρ : Bool} {z : State} (s : State) (id : Nat) (st : Status) (hK : Keep β ρ z s) :
    Keep β ρ z (State.planFail s id st) := by
  unfold State.planFail; grind (ematch := 40) (gen := 40) (splits := 40) [keep_fail, keep_mk]

theorem keep_stopMove {β ρ : Bool} {z : State} (s : State) (m : Move) (st : Status) (hK : Keep β ρ z s) :
    Keep β ρ z (State.stopMove s m st) := by
  unfold State.stopMove; grind (ematch := 40) (gen := 40) (splits := 40) [keep_unmapT2, keep_fail, keep_dropMove, keep_planFail]

theorem keep_stopMoves {β ρ : Bool} {z : State} (s : State) (i : Nat) (st : Status) (hK : Keep β ρ z s) :
    Keep β ρ z (State.stopMoves s i st) := by
  unfold State.stopMoves; grind (ematch := 40) (gen := 40) (splits := 40) [keep_stopMove, keep_foldl]

theorem keep_chargeTier {β ρ : Bool} {z : State} (s : State) (tenant : Nat) (charge : Nat → Nat) (spill : Bool) (own : Nat → Bool) (last n t : Nat)
    {w : State} (_hw : Keep β ρ z w) {u : State} {i : Nat} {f : Bool}
    (e : s.chargeTier tenant charge spill own last n t = .ok (u, i, f)) (hK : Keep β ρ z s) : Keep β ρ z u := by
  induction n generalizing t with
  | zero => unfold State.chargeTier at e; grind (ematch := 40) (gen := 40) (splits := 40) [keep_mk]
  | succ n ih => unfold State.chargeTier at e; grind (ematch := 40) (gen := 40) (splits := 40) [keep_mk, keep_foldl, → keep_request_fits, → keep_request_wait]

theorem keep_execPublish {β ρ : Bool} {z : State} (id : Nat) (s : State) (hK : Keep β ρ z s) {tK : State} (eK : execPublish id s = .next tK) :
    Keep β ρ z tK := by
  unfold execPublish State.onNew at eK; simp only [Host.Outcome.next.injEq] at eK; subst eK; grind (ematch := 40) (gen := 40) (splits := 40) [keep_setRunning, keep_updPset, keep_fail, keep_unseal, keep_mk]

theorem keep_dropPub {β ρ : Bool} {z : State} (s : State) (id : Nat) (hK : Keep β ρ z s) :
    Keep β ρ z (State.dropPub s id) := by
  unfold State.dropPub; grind (ematch := 40) (gen := 40) (splits := 40) [keep_mk]

theorem keep_updPub {β ρ : Bool} {z : State} (s : State) (id : Nat) (f : Pub → Pub) (hK : Keep β ρ z s) :
    Keep β ρ z (State.updPub s id f) := by
  unfold State.updPub; grind (ematch := 40) (gen := 40) (splits := 40) [keep_mk]

theorem keep_pubConflict {β ρ : Bool} {z : State} (s : State) (p : Pub) (hK : Keep β ρ z s) :
    Keep β ρ z (State.pubConflict s p) := by
  unfold State.pubConflict; grind (ematch := 40) (gen := 40) (splits := 40) [keep_fail, keep_leaveSealed, keep_dropPub]

theorem keep_pubDuplicate {β ρ : Bool} {z : State} (s : State) (p : Pub) (slot : Nat) (hK : Keep β ρ z s) :
    Keep β ρ z (State.pubDuplicate s p slot) := by
  unfold State.pubDuplicate; grind (ematch := 40) (gen := 40) (splits := 40) [keep_bump, keep_freePset, keep_complete, keep_dropPub]

theorem keep_pubFail {β ρ : Bool} {z : State} (s : State) (p : Pub) (st : Status) (hK : Keep β ρ z s) :
    Keep β ρ z (State.pubFail s p st) := by
  unfold State.pubFail; grind (ematch := 40) (gen := 40) (splits := 40) [keep_fail, keep_unseal, keep_dropPub]

theorem keep_wakeCommitted {β ρ : Bool} {z : State} (s : State) (waitSlot : Nat) (slot : Nat) (hK : Keep β ρ z s) :
    Keep β ρ z (State.wakeCommitted s waitSlot slot) := by
  unfold State.wakeCommitted; grind (ematch := 40) (gen := 40) (splits := 40) [keep_pubConflict, keep_pubDuplicate, keep_foldl]

theorem keep_wakeAborted {β ρ : Bool} {z : State} (s : State) (waitSlot : Nat) (hK : Keep β ρ z s) :
    Keep β ρ z (State.wakeAborted s waitSlot) := by
  unfold State.wakeAborted; grind (ematch := 40) (gen := 40) (splits := 40) [keep_mk]

theorem keep_abortPub {β ρ : Bool} {z : State} (s : State) (id : Nat) (hK : Keep β ρ z s) :
    Keep β ρ z (State.abortPub s id) := by
  unfold State.abortPub; grind (ematch := 40) (gen := 40) (splits := 40) [keep_updSlot, keep_freeHead, keep_passPoint, keep_freePset, keep_fail, keep_dropPub, keep_wakeAborted, keep_mk, keep_foldl]

theorem keep_abandonSuper {β ρ : Bool} {z : State} (s : State) (slot : Nat) (hK : Keep β ρ z s) :
    Keep β ρ z (State.abandonSuper s slot) := by
  unfold State.abandonSuper; grind (ematch := 40) (gen := 40) (splits := 40) [keep_freeHead, keep_passPoint, keep_pubConflict, keep_wakeAborted, keep_foldl]

theorem keep_toRetiring {β ρ : Bool} {z : State} (s : State) (i : Nat) (hK : Keep β ρ z s) :
    Keep β ρ z (State.toRetiring s i) := by
  unfold State.toRetiring; grind (ematch := 40) (gen := 40) (splits := 40) [keep_updSlot, keep_dirUpdate, keep_abandonSuper, keep_mk]

theorem keep_startCascade {β ρ : Bool} {z : State} (s : State) (i : Nat) (cause : CascadeCause) (hK : Keep β ρ z s) :
    Keep β ρ z (State.startCascade s i cause) := by
  unfold State.startCascade; grind (ematch := 40) (gen := 40) (splits := 40) [keep_toRetiring, keep_mk]

theorem keep_lastPoison {β ρ : Bool} {z : State} (s : State) (i : Nat) (page : Nat) (hK : Keep β ρ z s) :
    Keep β ρ z (State.lastPoison s i page) := by
  unfold State.lastPoison; grind (ematch := 40) (gen := 40) (splits := 40) [keep_mk]

theorem keep_askRepair {β ρ : Bool} {z : State} (s : State) (i : Nat) (page : Nat) (hK : Keep β ρ z s) :
    Keep β ρ z (State.askRepair s i page) := by
  unfold State.askRepair; grind (ematch := 40) (gen := 40) (splits := 40) [keep_raise, keep_lastPoison, keep_mk]

theorem keep_poisonPage {β ρ : Bool} {z : State} (s : State) (i : Nat) (page : Nat) (hK : Keep β ρ z s) :
    Keep β ρ z (State.poisonPage s i page) := by
  unfold State.poisonPage; grind (ematch := 40) (gen := 40) (splits := 40) [keep_count, keep_setSlot, keep_dirUpdate, keep_stopMoves, keep_startCascade, keep_askRepair, keep_mk]

theorem keep_claimParent {β ρ : Bool} {z : State} (s : State) (p : Pub) (hK : Keep β ρ z s) :
    Keep β ρ z (State.claimParent s p).1 := by
  unfold State.claimParent; grind (ematch := 40) (gen := 40) (splits := 40) [keep_lookProbe]

theorem keep_windowRoom {β ρ : Bool} {z : State} (s : State) (k : Key) (keep : List Nat) {w : State} (_hw : Keep β ρ z w) {u : State} {i : Nat}
    (e : s.windowRoom k keep = .at_ u i) (hK : Keep β ρ z s) : Keep β ρ z u := by
  unfold State.windowRoom at e
  split at e
  · cases e; exact hK
  · split at e
    · cases e
    · simp only [] at e; split at e
      · cases e
      · split at e
        · cases e
        · split at e
          · cases e; exact keep_bump _ _ _ (keep_endNow _ _ hK)
          · cases e

theorem keep_windowWait {β ρ : Bool} {z : State} (s : State) (k : Key) (keep : List Nat) {w : State} (_hw : Keep β ρ z w) {u : State}
    (e : s.windowRoom k keep = .wait u) (hK : Keep β ρ z s) : Keep β ρ z u := by
  unfold State.windowRoom at e
  split at e
  · cases e
  · split at e
    · cases e; exact hK
    · simp only [] at e; split at e
      · cases e
      · split at e
        · cases e; exact hK
        · split at e
          · cases e
          · cases e; exact keep_bump _ _ _ (keep_endNow _ _ hK)

theorem keep_claimNew {β ρ : Bool} {z : State} (s : State) (p : Pub) (i : Nat) (parent : Option Nat) (moveTo : Option Nat) (hK : Keep β ρ z s) :
    Keep β ρ z (State.claimNew s p i parent moveTo) := by
  unfold State.claimNew; grind (ematch := 40) (gen := 40) (splits := 40) [keep_fresh, keep_updSlot, keep_putHead, keep_schedule, keep_updPub, keep_mk]

theorem keep_claimSuper {β ρ : Bool} {z : State} (s : State) (p : Pub) (cur : Nat) (copy : Nat) (moveTo : Option Nat) (hK : Keep β ρ z s) :
    Keep β ρ z (State.claimSuper s p cur copy moveTo) := by
  unfold State.claimSuper; grind (ematch := 40) (gen := 40) (splits := 40) [keep_putHead, keep_schedule, keep_updPub, keep_mk]

theorem keep_claimRoom {β ρ : Bool} {z : State} (s : State) (p : Pub) (keep : List Nat) (f : State → Nat → Option Nat → State)
    (hK : Keep β ρ z s) (hf : ∀ s i o, Keep β ρ z s → Keep β ρ z (f s i o)) : Keep β ρ z (s.claimRoom p keep f) := by
  unfold State.claimRoom; grind (ematch := 40) (gen := 40) (splits := 40) [keep_count, keep_at_, keep_countFull, keep_pubFail, → keep_windowRoom, → keep_windowWait]

theorem keep_execPublishClaim {β ρ : Bool} {z : State} (id : Nat) (s : State) (hK : Keep β ρ z s) {tK : State} (eK : execPublishClaim id s = .next tK) :
    Keep β ρ z tK := by
  unfold execPublishClaim at eK; simp only [Host.Outcome.next.injEq] at eK; subst eK; grind (ematch := 40) (gen := 40) (splits := 40) [keep_updPub, keep_pubConflict, keep_pubDuplicate, keep_pubFail, keep_claimParent, keep_claimNew, keep_claimSuper, keep_claimRoom, keep_mk]

theorem keep_pubPset {β ρ : Bool} {z : State} (s : State) (p : Pub) (hK : Keep β ρ z s) :
    Keep β ρ z (State.pubPset s p) := by
  unfold State.pubPset; grind (ematch := 40) (gen := 40) (splits := 40) [keep_updPset, keep_mk]

theorem keep_dropOwed {β ρ : Bool} {z : State} (s : State) (i : Nat) (hK : Keep β ρ z s) :
    Keep β ρ z (State.dropOwed s i) := by
  unfold State.dropOwed; grind (ematch := 40) (gen := 40) (splits := 40) [keep_mk]

theorem keep_startOwed {β ρ : Bool} {z : State} (s : State) (i : Nat) (t : Nat) (hK : Keep β ρ z s) :
    Keep β ρ z (State.startOwed s i t) := by
  unfold State.startOwed; grind (ematch := 40) (gen := 40) (splits := 40) [→ keep_beginMove, keep_dropOwed]

theorem keep_payOwed {β ρ : Bool} {z : State} (s : State) (i : Nat) (hK : Keep β ρ z s) :
    Keep β ρ z (State.payOwed s i) := by
  unfold State.payOwed; grind (ematch := 40) (gen := 40) (splits := 40) [keep_dropOwed, keep_startOwed, → keep_request_fits, → keep_request_wait]

theorem keep_pubMove {β ρ : Bool} {z : State} (s : State) (p : Pub) (hK : Keep β ρ z s) :
    Keep β ρ z (State.pubMove s p) := by
  unfold State.pubMove; grind (ematch := 40) (gen := 40) (splits := 40) [keep_payOwed, keep_mk, → keep_request_fits, → keep_request_wait]

theorem keep_commitNew {β ρ : Bool} {z : State} (s : State) (i : Nat) (p : Pub) (val : Nat) (hK : Keep β ρ z s) :
    Keep β ρ z (State.commitNew s i p val) := by
  unfold State.commitNew; grind (ematch := 40) (gen := 40) (splits := 40) [keep_bump, keep_setSlot, keep_insertHeld, keep_done, keep_wantHeld, keep_dropPub, keep_wakeCommitted, keep_poisonPage, keep_pubPset, keep_pubMove, keep_mk, keep_foldl]

theorem keep_commitSuper {β ρ : Bool} {z : State} (s : State) (i : Nat) (copy : Nat) (p : Pub) (val : Nat) (hK : Keep β ρ z s) :
    Keep β ρ z (State.commitSuper s i copy p val) := by
  unfold State.commitSuper; grind (ematch := 40) (gen := 40) (splits := 40) [keep_bump, keep_setSlot, keep_filterEnd, keep_dirUpdate, keep_unhold, keep_psaEdition, keep_reclaim, keep_abandonRepairs, keep_done, keep_wantHeld, keep_dropPub, keep_wakeCommitted, keep_poisonPage, keep_pubPset, keep_pubMove, keep_mk, keep_foldl]

theorem keep_execCommitPoint {β ρ : Bool} {z : State} (val : Nat) (s : State) (hK : Keep β ρ z s) {tK : State} (eK : execCommitPoint val s = .next tK) :
    Keep β ρ z tK := by
  unfold execCommitPoint at eK; simp only [Host.Outcome.next.injEq] at eK; subst eK; grind (ematch := 40) (gen := 40) (splits := 40) [keep_freeHead, keep_passPoint, keep_pubConflict, keep_wakeAborted, keep_commitNew, keep_commitSuper]

theorem keep_execRetire {β ρ : Bool} {z : State} (id : Nat) (s : State) (hK : Keep β ρ z s) {tK : State} (eK : execRetire id s = .next tK) :
    Keep β ρ z tK := by
  unfold execRetire State.onNew at eK; simp only [Host.Outcome.next.injEq] at eK; subst eK; grind (ematch := 40) (gen := 40) (splits := 40) [keep_setRunning, keep_schedule, keep_fail, keep_toRetiring, keep_startCascade]

theorem keep_execCascadeStep {β ρ : Bool} {z : State} (slot : Nat) (s : State) (hK : Keep β ρ z s) {tK : State} (eK : execCascadeStep slot s = .next tK) :
    Keep β ρ z tK := by
  unfold execCascadeStep at eK; simp only [Host.Outcome.next.injEq] at eK; subst eK; grind (ematch := 40) (gen := 40) (splits := 40) [keep_schedule]

theorem keep_countEvicted {β ρ : Bool} {z : State} (s : State) (hK : Keep β ρ z s) :
    Keep β ρ z (State.countEvicted s) := by
  unfold State.countEvicted; grind (ematch := 40) (gen := 40) (splits := 40) [keep_bump]

theorem keep_cascadeDone {β ρ : Bool} {z : State} (s : State) (c : Cascade) (hK : Keep β ρ z s) :
    Keep β ρ z (State.cascadeDone s c) := by
  unfold State.cascadeDone; grind (ematch := 40) (gen := 40) (splits := 40) [keep_done, keep_mk]

theorem keep_cascadeEnded {β ρ : Bool} {z : State} (s : State) (root : Nat) (slot : Nat) (hK : Keep β ρ z s) :
    Keep β ρ z (State.cascadeEnded s root slot) := by
  unfold State.cascadeEnded; grind (ematch := 40) (gen := 40) (splits := 40) [keep_cascadeDone, keep_mk]

theorem keep_abandonEnd {β ρ : Bool} {z : State} (s : State) (val : Nat) (cause : EndCause) (hK : Keep β ρ z s) :
    Keep β ρ z (State.abandonEnd s val cause) := by
  unfold State.abandonEnd; grind (ematch := 40) (gen := 40) (splits := 40) [keep_passPoint, keep_fail]

theorem keep_noteDiscard {β ρ : Bool} {z : State} (s : State) (root : Nat) (slot : Nat) (hK : Keep β ρ z s) :
    Keep β ρ z (State.noteDiscard s root slot) := by
  unfold State.noteDiscard; grind (ematch := 40) (gen := 40) (splits := 40) [keep_mk]

theorem keep_discardCheck {β ρ : Bool} {z : State} (s : State) (hK : Keep β ρ z s) :
    Keep β ρ z (State.discardCheck s) := by
  unfold State.discardCheck; grind (ematch := 40) (gen := 40) (splits := 40) [keep_bump, keep_done, keep_mk, keep_foldl]

theorem keep_cascadeEnd {β ρ : Bool} {z : State} (s : State) (i : Nat) (val : Nat) (hK : Keep β ρ z s) :
    Keep β ρ z (State.cascadeEnd s i val) := by
  unfold State.cascadeEnd; grind (ematch := 40) (gen := 40) (splits := 40) [keep_passPoint, keep_endEntry, keep_abandonSuper, keep_countEvicted, keep_cascadeEnded, keep_noteDiscard, keep_discardCheck, keep_foldl]

theorem keep_execEndPoint {β ρ : Bool} {z : State} (val : Nat) (s : State) (hK : Keep β ρ z s) {tK : State} (eK : execEndPoint val s = .next tK) :
    Keep β ρ z tK := by
  unfold execEndPoint at eK; simp only [Host.Outcome.next.injEq] at eK; subst eK; grind (ematch := 40) (gen := 40) (splits := 40) [keep_passPoint, keep_endEntry, keep_done, keep_countEvicted, keep_abandonEnd, keep_cascadeEnd]

theorem keep_takePset {β ρ : Bool} {z : State} (s : State) {w u : State} {i g : Nat} (_hw : Keep β ρ z w)
    (e : s.takePset = some (i, g, u)) (hK : Keep β ρ z s) : Keep β ρ z u := by
  unfold State.takePset at e
  simp only [] at e
  split at e
  · cases e; exact keep_mk hK rfl rfl ⟨rfl, rfl, rfl, rfl, rfl, rfl, rfl, rfl⟩ id
  · split at e
    · cases e; exact keep_mk hK rfl rfl ⟨rfl, rfl, rfl, rfl, rfl, rfl, rfl, rfl⟩ id
    · cases e

theorem keep_shortfall {β ρ : Bool} {z : State} (s : State) (id : Nat) (st : Status) (b : Nat) (hK : Keep β ρ z s) :
    Keep β ρ z (State.shortfall s id st b) := by
  unfold State.shortfall; grind (ematch := 40) (gen := 40) (splits := 40) [keep_countFull, keep_freeWords, keep_complete]

theorem keep_execPlaceReserve {β ρ : Bool} {z : State} (id : Nat) (s : State) (hK : Keep β ρ z s) {tK : State} (eK : execPlaceReserve id s = .next tK) :
    Keep β ρ z tK := by
  unfold execPlaceReserve State.onNew at eK; simp only [Host.Outcome.next.injEq] at eK; subst eK; grind (ematch := 40) (gen := 40) (splits := 40) [keep_count, keep_setPset, keep_plate, keep_fail, keep_done, → keep_chargeTier, → keep_takePset, keep_shortfall, keep_mk]

theorem keep_setTo {β ρ : Bool} {z : State} (s : State) (id : Nat) (i : Nat) (alloc : Nat) (mask : Nat) (t : Nat) (hK : Keep β ρ z s) :
    Keep β ρ z (State.setTo s id i alloc mask t) := by
  unfold State.setTo
  simp only []
  split
  · grind (ematch := 40) (gen := 40) (splits := 40) [keep_setFlags, keep_done, keep_count]
  · split
    · grind (ematch := 40) (gen := 40) (splits := 40) [keep_setFlags, → keep_beginMove, keep_count, keep_setRunning]
    all_goals grind (ematch := 40) (gen := 40) (splits := 40) [keep_setFlags, keep_fail, keep_shortfall]

theorem keep_setLevel {β ρ : Bool} {z : State} (s : State) (id : Nat) (i : Nat) (alloc : Nat) (mask : Nat) (hK : Keep β ρ z s) :
    Keep β ρ z (State.setLevel s id i alloc mask) := by
  unfold State.setLevel; grind (ematch := 40) (gen := 40) (splits := 40) [→ keep_chargeTier, keep_shortfall, keep_setTo]

theorem keep_execPlaceSet {β ρ : Bool} {z : State} (id : Nat) (s : State) (hK : Keep β ρ z s) {tK : State} (eK : execPlaceSet id s = .next tK) :
    Keep β ρ z tK := by
  unfold execPlaceSet State.onNew at eK; simp only [Host.Outcome.next.injEq] at eK; subst eK; grind (ematch := 40) (gen := 40) (splits := 40) [keep_fail, keep_done, keep_setFlags, keep_setLevel]

theorem keep_moveDone {β ρ : Bool} {z : State} (s : State) (m : Move) (hK : Keep β ρ z s) :
    Keep β ρ z (State.moveDone s m) := by
  unfold State.moveDone; grind (ematch := 40) (gen := 40) (splits := 40) [keep_done, keep_setPref, keep_dropMove, keep_planCheck]

theorem keep_journalTiers {β ρ : Bool} {z : State} (s : State) (i : Nat) (hK : Keep β ρ z s) :
    Keep β ρ z (State.journalTiers s i) := by
  unfold State.journalTiers; grind (ematch := 40) (gen := 40) (splits := 40) [keep_dirUpdate]

theorem keep_releaseAbove {β ρ : Bool} {z : State} (s : State) (i : Nat) (t : Nat) (hK : Keep β ρ z s) :
    Keep β ρ z (State.releaseAbove s i t) := by
  unfold State.releaseAbove; grind (ematch := 40) (gen := 40) (splits := 40) [keep_updPset, keep_journalTiers, keep_mk]

theorem keep_execMoveCommit {β ρ : Bool} {z : State} (pset : Nat) (s : State) (hK : Keep β ρ z s) {tK : State} (eK : execMoveCommit pset s = .next tK) :
    Keep β ρ z tK := by
  unfold execMoveCommit at eK; simp only [Host.Outcome.next.injEq] at eK; subst eK; grind (ematch := 40) (gen := 40) (splits := 40) [keep_hotUnits, keep_bump, keep_updPset, keep_plate, keep_fail, keep_planFail, keep_payOwed, keep_moveDone, keep_journalTiers, keep_mk]

theorem keep_execCopyRelease {β ρ : Bool} {z : State} (pset : Nat) (s : State) (hK : Keep β ρ z s) {tK : State} (eK : execCopyRelease pset s = .next tK) :
    Keep β ρ z tK := by
  unfold execCopyRelease at eK; simp only [Host.Outcome.next.injEq] at eK; subst eK; grind (ematch := 40) (gen := 40) (splits := 40) [keep_moveDone, keep_releaseAbove]

theorem keep_execReservationLapse {β ρ : Bool} {z : State} (pset : Nat) (t : Nat) (s : State) (hK : Keep β ρ z s) {tK : State} (eK : execReservationLapse pset t s = .next tK) :
    Keep β ρ z tK := by
  unfold execReservationLapse at eK; simp only [Host.Outcome.next.injEq] at eK; subst eK; grind (ematch := 40) (gen := 40) (splits := 40) [keep_count, keep_at_, keep_freePset]

theorem keep_setReclaiming {β ρ : Bool} {z : State} (s : State) (t : Nat) (b : Bool) (hK : Keep β ρ z s) :
    Keep β ρ z (State.setReclaiming s t b) := by
  unfold State.setReclaiming; grind (ematch := 40) (gen := 40) (splits := 40) [keep_mk]

theorem keep_demoteFirst {β ρ : Bool} {z : State} (s : State) (t : Nat) (l : List (Nat × Slot)) {w : State} (_hw : Keep β ρ z w) {u : State}
    (e : s.demoteFirst t l = some u) (hK : Keep β ρ z s) : Keep β ρ z u := by
  induction l with
  | nil => unfold State.demoteFirst at e; grind (ematch := 40) (gen := 40) (splits := 40) [keep_mk]
  | cons x l ih => unfold State.demoteFirst at e; grind (ematch := 40) (gen := 40) (splits := 40) [keep_mk, keep_foldl, → keep_request_fits, → keep_beginMove]

theorem keep_releaseFirst {β ρ : Bool} {z : State} (s : State) (t : Nat) {w tK : State} (_hw : Keep β ρ z w) (eK : State.releaseFirst s t = some tK) (hK : Keep β ρ z s) :
    Keep β ρ z tK := by
  unfold State.releaseFirst at eK; grind (ematch := 40) (gen := 40) (splits := 40) [keep_releaseCopy]

theorem keep_reclaimStep {β ρ : Bool} {z : State} (s : State) (t : Nat) (hK : Keep β ρ z s) :
    Keep β ρ z (State.reclaimStep s t) := by
  unfold State.reclaimStep; grind (ematch := 40) (gen := 40) (splits := 40) [keep_bump, keep_raise, keep_endNow, keep_countEvicted, → keep_demoteFirst, → keep_releaseFirst, keep_mk]

theorem keep_noteLow {β ρ : Bool} {z : State} (s : State) (t : Nat) (hK : Keep β ρ z s) :
    Keep β ρ z (State.noteLow s t) := by
  unfold State.noteLow; grind (ematch := 40) (gen := 40) (splits := 40) [keep_raise, keep_mk]

theorem keep_pressure {β ρ : Bool} {z : State} (s : State) (t : Nat) (hK : Keep β ρ z s) :
    Keep β ρ z (State.pressure s t) := by
  unfold State.pressure; grind (ematch := 40) (gen := 40) (splits := 40) [keep_noteLow, keep_setReclaiming, keep_reclaimStep]

theorem keep_endForCapacity {β ρ : Bool} {z : State} (s : State) (need : Nat) (l : List (Nat × Slot)) (hK : Keep β ρ z s) :
    Keep β ρ z (s.endForCapacity need l) := by
  induction l generalizing s need with
  | nil => exact hK
  | cons x l ih => unfold State.endForCapacity; grind (ematch := 40) (gen := 40) (splits := 40) [keep_mk, keep_foldl, keep_schedule]

theorem keep_releaseForCapacity {β ρ : Bool} {z : State} (n : Nat) (s : State) (hK : Keep β ρ z s) :
    Keep β ρ z (State.releaseForCapacity n s) := by
  induction n generalizing s with
  | zero => exact hK
  | succ n ih => unfold State.releaseForCapacity; grind (ematch := 40) (gen := 40) (splits := 40) [keep_mk, keep_foldl, → keep_releaseFirst]

theorem keep_trimCapacity {β ρ : Bool} {z : State} (s : State) (hK : Keep β ρ z s) :
    Keep β ρ z (State.trimCapacity s) := by
  unfold State.trimCapacity; grind (ematch := 40) (gen := 40) (splits := 40) [keep_endForCapacity, keep_releaseForCapacity]

theorem keep_execPressureReclaim {β ρ : Bool} {z : State} (tier : Nat) (s : State) (hK : Keep β ρ z s) {tK : State} (eK : execPressureReclaim tier s = .next tK) :
    Keep β ρ z tK := by
  unfold execPressureReclaim at eK; simp only [Host.Outcome.next.injEq] at eK; subst eK; grind (ematch := 40) (gen := 40) (splits := 40) [keep_pressure, keep_trimCapacity]

theorem keep_execReclaimRetry {β ρ : Bool} {z : State} (tier : Nat) (t : Nat) (s : State) (hK : Keep β ρ z s) {tK : State} (eK : execReclaimRetry tier t s = .next tK) :
    Keep β ρ z tK := by
  unfold execReclaimRetry at eK; simp only [Host.Outcome.next.injEq] at eK; subst eK; grind (ematch := 40) (gen := 40) (splits := 40) [keep_at_, keep_pressure, keep_mk]

theorem keep_freeRsv {β ρ : Bool} {z : State} (s : State) (l : Live) (hK : Keep β ρ z s) :
    Keep β ρ z (State.freeRsv s l) := by
  unfold State.freeRsv; grind (ematch := 40) (gen := 40) (splits := 40) [keep_freePset, keep_fail, keep_done]

theorem keep_freeKey {β ρ : Bool} {z : State} (s : State) (l : Live) (hK : Keep β ρ z s) :
    Keep β ρ z (State.freeKey s l) := by
  unfold State.freeKey; grind (ematch := 40) (gen := 40) (splits := 40) [keep_setRunning, keep_schedule, keep_fail]

theorem keep_execFree {β ρ : Bool} {z : State} (id : Nat) (s : State) (hK : Keep β ρ z s) {tK : State} (eK : execFree id s = .next tK) :
    Keep β ρ z tK := by
  unfold execFree State.onNew at eK; simp only [Host.Outcome.next.injEq] at eK; subst eK; grind (ematch := 40) (gen := 40) (splits := 40) [keep_fail, keep_freeRsv, keep_freeKey]

theorem keep_execPsaInsert {β ρ : Bool} {z : State} (slot : Nat) (s : State) (hK : Keep β ρ z s) {tK : State} (eK : execPsaInsert slot s = .next tK) :
    Keep β ρ z tK := by
  unfold execPsaInsert at eK; simp only [Host.Outcome.next.injEq] at eK; subst eK; grind (ematch := 40) (gen := 40) (splits := 40) [keep_hold, keep_mk]

theorem keep_execPsaCompaction {β ρ : Bool} {z : State} (slot : Nat) (bank : Nat) (s : State) (hK : Keep β ρ z s) {tK : State} (eK : execPsaCompaction slot bank s = .next tK) :
    Keep β ρ z tK := by
  unfold execPsaCompaction at eK; simp only [Host.Outcome.next.injEq] at eK; subst eK; grind (ematch := 40) (gen := 40) (splits := 40) [keep_moveGroup, keep_relocate]

theorem keep_execPsaDrain {β ρ : Bool} {z : State} (bank : Nat) (slot : Nat) (s : State) (hK : Keep β ρ z s) {tK : State} (eK : execPsaDrain bank slot s = .next tK) :
    Keep β ρ z tK := by
  unfold execPsaDrain at eK; simp only [Host.Outcome.next.injEq] at eK; subst eK; grind (ematch := 40) (gen := 40) (splits := 40) [keep_drainEnd, keep_moveGroup]

theorem keep_scrubInject {β ρ : Bool} {z : State} (s : State) (b : Nat) (hK : Keep β ρ z s) :
    Keep β ρ z (State.scrubInject s b) := by
  unfold State.scrubInject; grind (ematch := 40) (gen := 40) (splits := 40) [keep_setBank, keep_mk]

theorem keep_scrubWord {β ρ : Bool} {z : State} (s : State) (b : Nat) (hK : Keep β ρ z s) :
    Keep β ρ z (State.scrubWord s b) := by
  unfold State.scrubWord; grind (ematch := 40) (gen := 40) (splits := 40) [keep_wordRead]

theorem keep_scrubNext {β ρ : Bool} {z : State} (s : State) (b : Nat) (hK : Keep β ρ z s) :
    Keep β ρ z (State.scrubNext s b) := by
  unfold State.scrubNext; grind (ematch := 40) (gen := 40) (splits := 40) [keep_bump, keep_updBank, keep_mk]

theorem keep_scrubBank {β ρ : Bool} {z : State} (s : State) (b : Nat) (hK : Keep β ρ z s) :
    Keep β ρ z (State.scrubBank s b) := by
  unfold State.scrubBank; grind (ematch := 40) (gen := 40) (splits := 40) [keep_withdrawSeg, keep_psaRepair, keep_scrubInject, keep_scrubWord, keep_scrubNext, keep_mk]

theorem keep_upset {β ρ : Bool} {z : State} (s : State) (u : Upset) (hK : Keep β ρ z s) :
    Keep β ρ z (State.upset s u) := by
  cases u <;> unfold State.upset <;> grind (ematch := 40) (gen := 40) (splits := 40) [keep_setBank, keep_updBank, keep_mk]

theorem keep_execScrubLate {β ρ : Bool} {z : State} (bank : Nat) (t : Nat) (s : State) (hK : Keep β ρ z s) {tK : State} (eK : execScrubLate bank t s = .next tK) :
    Keep β ρ z tK := by
  unfold execScrubLate at eK; simp only [Host.Outcome.next.injEq] at eK; subst eK; grind (ematch := 40) (gen := 40) (splits := 40) [keep_raise, keep_at_, keep_updBank, keep_mk]

theorem keep_setPsaLevels {β ρ : Bool} {z : State} (s : State) (temp : Nat) (power : Nat) (hK : Keep β ρ z s) :
    Keep β ρ z (State.setPsaLevels s temp power) := by
  unfold State.setPsaLevels; grind (ematch := 40) (gen := 40) (splits := 40) [keep_raise, keep_mk]

theorem keep_execPsaTempSample {β ρ : Bool} {z : State} (t : Nat) (temps : List Nat) (s : State) (hK : Keep β ρ z s) {tK : State} (eK : execPsaTempSample t temps s = .next tK) :
    Keep β ρ z tK := by
  unfold execPsaTempSample at eK; simp only [Host.Outcome.next.injEq] at eK; subst eK; grind (ematch := 40) (gen := 40) (splits := 40) [keep_at_, keep_setPsaLevels, keep_mk, keep_foldl]

theorem keep_execBankFailed {β ρ : Bool} {z : State} (bank : Nat) (s : State) (hK : Keep β ρ z s) {tK : State} (eK : execBankFailed bank s = .next tK) :
    Keep β ρ z tK := by
  unfold execBankFailed at eK; simp only [Host.Outcome.next.injEq] at eK; subst eK; grind (ematch := 40) (gen := 40) (splits := 40) [keep_bankFail]

theorem keep_execPsaForceFail {β ρ : Bool} {z : State} (src : Src) (bank : Nat) (s : State) (hK : Keep β ρ z s) {tK : State} (eK : execPsaForceFail src bank s = .next tK) :
    Keep β ρ z tK := by
  unfold execPsaForceFail at eK; simp only [Host.Outcome.next.injEq] at eK; subst eK; grind (ematch := 40) (gen := 40) (splits := 40) [keep_bankFail]

theorem keep_execPsaInject {β ρ : Bool} {z : State} (src : Src) (bank : Nat) (s : State) (hK : Keep β ρ z s) {tK : State} (eK : execPsaInject src bank s = .next tK) :
    Keep β ρ z tK := by
  unfold execPsaInject at eK; simp only [Host.Outcome.next.injEq] at eK; subst eK; grind (ematch := 40) (gen := 40) (splits := 40) [keep_updBank, keep_mk]

theorem keep_holdAll {β ρ : Bool} {z : State} (s : State) (hK : Keep β ρ z s) :
    Keep β ρ z (State.holdAll s) := by
  unfold State.holdAll; grind (ematch := 40) (gen := 40) (splits := 40) [keep_hold, keep_foldl]

theorem keep_execPsaRebuild {β ρ : Bool} {z : State} (failing : List Nat) (s : State) (hK : Keep β ρ z s) {tK : State} (eK : execPsaRebuild failing s = .next tK) :
    Keep β ρ z tK := by
  unfold execPsaRebuild at eK; simp only [Host.Outcome.next.injEq] at eK; subst eK; grind (ematch := 40) (gen := 40) (splits := 40) [keep_setBank, keep_bankFail, keep_holdAll, keep_mk, keep_foldl]

theorem keep_psaApply {β ρ : Bool} {z : State} (s : State) (hK : Keep β ρ z s) :
    Keep β ρ z (State.psaApply s) := by
  unfold State.psaApply; grind (ematch := 40) (gen := 40) (splits := 40) [keep_setBank, keep_drainEnd, keep_mk, keep_foldl]

theorem keep_settleCredit {β ρ : Bool} {z : State} (s : State) (n : Nat) (hK : Keep β ρ z s) :
    Keep β ρ z (State.settleCredit s n) := by
  unfold State.settleCredit; grind (ematch := 40) (gen := 40) (splits := 40) [keep_at_, keep_setGate, keep_mk]

theorem keep_gateRefresh {β ρ : Bool} {z : State} (s : State) (n : Nat) (hK : Keep β ρ z s) :
    Keep β ρ z (State.gateRefresh s n) := by
  unfold State.gateRefresh; grind (ematch := 40) (gen := 40) (splits := 40) [keep_hold, keep_setGate, keep_settleCredit, keep_mk]

theorem keep_execGateEvent {β ρ : Bool} {z : State} (n : Nat) (t : Nat) (s : State) (hK : Keep β ρ z s) {tK : State} (eK : execGateEvent n t s = .next tK) :
    Keep β ρ z tK := by
  unfold execGateEvent at eK; simp only [Host.Outcome.next.injEq] at eK; subst eK; grind (ematch := 40) (gen := 40) (splits := 40) [keep_at_, keep_gateRefresh]

theorem keep_gateArm {β ρ : Bool} {z : State} (s : State) (n : Nat) (b : Int) (hK : Keep β ρ z s) :
    Keep β ρ z (State.gateArm s n b) := by
  unfold State.gateArm; grind (ematch := 40) (gen := 40) (splits := 40) [keep_raise, keep_setGate, keep_mk]

theorem keep_gateTake {β ρ : Bool} {z : State} (s : State) (n : Nat) (hK : Keep β ρ z s) :
    Keep β ρ z (State.gateTake s n) := by
  unfold State.gateTake; grind (ematch := 40) (gen := 40) (splits := 40) [keep_hold, keep_setGate, keep_gateRefresh, keep_mk]

theorem keep_execTakeover {β ρ : Bool} {z : State} (n : Nat) (t : Nat) (s : State) (hK : Keep β ρ z s) {tK : State} (eK : execTakeover n t s = .next tK) :
    Keep β ρ z tK := by
  unfold execTakeover at eK; simp only [Host.Outcome.next.injEq] at eK; subst eK; grind (ematch := 40) (gen := 40) (splits := 40) [keep_bump, keep_raise, keep_at_, keep_settleCredit, keep_gateTake]

theorem keep_gateRegrid {β ρ : Bool} {z : State} (s : State) (n : Nat) (hK : Keep β ρ z s) :
    Keep β ρ z (State.gateRegrid s n) := by
  unfold State.gateRegrid; grind (ematch := 40) (gen := 40) (splits := 40) [keep_hold, keep_setGate, keep_gateRefresh, keep_gateArm, keep_mk]

theorem keep_gateStep {β ρ : Bool} {z : State} (s : State) (n : Nat) (hK : Keep β ρ z s) :
    Keep β ρ z (State.gateStep s n) := by
  unfold State.gateStep; grind (ematch := 40) (gen := 40) (splits := 40) [keep_hold, keep_setGate, keep_gateRefresh, keep_mk]

theorem keep_settleTokens {β ρ : Bool} {z : State} (s : State) (n : Nat) (hK : Keep β ρ z s) :
    Keep β ρ z (State.settleTokens s n) := by
  unfold State.settleTokens; grind (ematch := 40) (gen := 40) (splits := 40) [keep_setGate, keep_mk, keep_foldl]

theorem keep_police {β ρ : Bool} {z : State} (s : State) (n : Nat) (f : Frame) (hK : Keep β ρ z s) :
    Keep β ρ z (State.police s n f).1 := by
  unfold State.police; grind (ematch := 40) (gen := 40) (splits := 40) [keep_bump, keep_count, keep_setGate, keep_settleTokens, keep_mk]

theorem keep_enqFrame {β ρ : Bool} {z : State} (s : State) (n : Nat) (cls : Nat) (len : Nat) (w : Wire) (hK : Keep β ρ z s) :
    Keep β ρ z (State.enqFrame s n cls len w) := by
  unfold State.enqFrame; grind (ematch := 40) (gen := 40) (splits := 40) [keep_setGate, keep_mk]

theorem keep_countWaits {β ρ : Bool} {z : State} (s : State) (n : Nat) (a : Nat) (hK : Keep β ρ z s) :
    Keep β ρ z (State.countWaits s n a) := by
  unfold State.countWaits; grind (ematch := 40) (gen := 40) (splits := 40) [keep_bump, keep_setGate, keep_mk, keep_foldl]

theorem keep_transmit {β ρ : Bool} {z : State} (s : State) (n : Nat) (a : Nat) (f : EgFrame) (hK : Keep β ρ z s) :
    Keep β ρ z (State.transmit s n a f) := by
  unfold State.transmit; grind (ematch := 40) (gen := 40) (splits := 40) [keep_bump64, keep_send, keep_setGate, keep_mk]

theorem keep_execFrameSelect {β ρ : Bool} {z : State} (n : Nat) (t : Nat) (s : State) (hK : Keep β ρ z s) {tK : State} (eK : execFrameSelect n t s = .next tK) :
    Keep β ρ z tK := by
  unfold execFrameSelect at eK; simp only [Host.Outcome.next.injEq] at eK; subst eK; grind (ematch := 40) (gen := 40) (splits := 40) [keep_bump, keep_raise, keep_at_, keep_setGate, keep_gateRefresh, keep_countWaits, keep_transmit, keep_mk]

theorem keep_gateSettle {β ρ : Bool} {z : State} (s : State) (n : Nat) (hK : Keep β ρ z s) :
    Keep β ρ z (State.gateSettle s n) := by
  unfold State.gateSettle; grind (ematch := 40) (gen := 40) (splits := 40) [keep_settleCredit, keep_settleTokens]

theorem keep_gateFill {β ρ : Bool} {z : State} (s : State) (old : State) (n : Nat) (hK : Keep β ρ z s) :
    Keep β ρ z (State.gateFill s old n) := by
  unfold State.gateFill; grind (ematch := 40) (gen := 40) (splits := 40) [keep_setGate, keep_mk, keep_foldl]

theorem keep_gateApply {β ρ : Bool} {z : State} (s : State) (old : State) (n : Nat) (hK : Keep β ρ z s) :
    Keep β ρ z (State.gateApply s old n) := by
  unfold State.gateApply; grind (ematch := 40) (gen := 40) (splits := 40) [keep_gateRefresh, keep_gateArm, keep_gateTake, keep_gateFill]

theorem keep_setChan {β ρ : Bool} {z : State} (s : State) (c : Nat) (v : Chan) (hK : Keep β ρ z s) :
    Keep β ρ z (State.setChan s c v) := by
  unfold State.setChan; grind (ematch := 40) (gen := 40) (splits := 40) [keep_mk]

theorem keep_dmaMsg {β ρ : Bool} {z : State} (s : State) (c : Nat) (hK : Keep β ρ z s) :
    Keep β ρ z (State.dmaMsg s c) := by
  unfold State.dmaMsg; grind (ematch := 40) (gen := 40) (splits := 40) [keep_send, keep_msix]

theorem keep_dmaWriteBack {β ρ : Bool} {z : State} (s : State) (c : Nat) (addr : Nat) (ws : List Word) (st : Status) (residue : Nat) (hK : Keep β ρ z s) :
    Keep β ρ z (State.dmaWriteBack s c addr ws st residue) := by
  unfold State.dmaWriteBack; grind (ematch := 40) (gen := 40) (splits := 40) [keep_hostPut]

theorem keep_dmaReport {β ρ : Bool} {z : State} (s : State) (c : Nat) (addr : Nat) (ws : List Word) (st : Status) (residue : Nat) (hK : Keep β ρ z s) :
    Keep β ρ z (State.dmaReport s c addr ws st residue) := by
  unfold State.dmaReport; grind (ematch := 40) (gen := 40) (splits := 40) [keep_bump, keep_raise, keep_setChan, keep_dmaMsg, keep_dmaWriteBack, keep_mk]

theorem keep_dmaEnd {β ρ : Bool} {z : State} (s : State) (c : Nat) (st : Status) (stop : Bool) (cause : Nat) (hK : Keep β ρ z s) :
    Keep β ρ z (State.dmaEnd s c st stop cause) := by
  unfold State.dmaEnd; grind (ematch := 40) (gen := 40) (splits := 40) [keep_count, keep_release, keep_setChan, keep_dmaReport, keep_mk]

theorem keep_dmaUndef {β ρ : Bool} {z : State} (s : State) (d : Desc) (hK : Keep β ρ z s) : Keep β ρ z (s.dmaUndef d) := by
  unfold State.dmaUndef
  split
  · exact hK
  · exact keep_foldl _ _ _ hK fun s _ h => keep_mk (keep_pageWr s _ _ h) rfl rfl ⟨rfl, rfl, rfl, rfl, rfl, rfl, rfl, rfl⟩ id

theorem keep_dmaMove {β ρ : Bool} {z : State} (s : State) (c : Nat) (d : Desc) (n : Nat) (hK : Keep β ρ z s) :
    Keep β ρ z (s.dmaMove c d n) := by
  have hw : (s.host (s.dmaPort c)).wf = true := by unfold Keep at hK; unfold State.host; grind
  unfold State.dmaMove
  simp only []
  split
  · exact keep_page s _ (Mem.wf_foldl _ _ _ _ (keep_pageWf hK)) hK
  · exact keep_setHost _ _ _ (Mem.wf_foldl _ _ _ _ hw) (keep_touchPset _ _ hK)

theorem keep_dmaHalf {β ρ : Bool} {z : State} (s : State) (c : Nat) (d : Desc) (hK : Keep β ρ z s) :
    Keep β ρ z (State.dmaHalf s c d) := by
  unfold State.dmaHalf; grind (ematch := 40) (gen := 40) (splits := 40) [keep_setChan, keep_dmaMsg, keep_mk]

theorem keep_dmaHaltAll {β ρ : Bool} {z : State} (s : State) (bad : Nat → Desc → Bool) (hK : Keep β ρ z s) :
    Keep β ρ z (s.dmaHaltAll bad) := by
  unfold State.dmaHaltAll
  refine keep_foldl _ _ _ hK fun s e h => ?_
  split
  · exact h
  · rename_i d _
    split
    · exact keep_dmaEnd _ _ _ _ _ (keep_dmaUndef _ _ h)
    · split
      · exact keep_dmaEnd _ _ _ _ _ h
      · exact keep_dmaEnd _ _ _ _ _ (keep_dmaHalf _ _ _ (keep_foldlP (γ := Desc)
          (fun (a : State × Desc) n => ((a.1.dmaMove e.1 a.2 n).bump64 (pg 0x50 + 0x180) n, { a.2 with landed := a.2.landed + n })) _ (s, d) h
          fun p _ h => keep_bump64 _ _ _ (keep_dmaMove p.1 _ _ _ h)))

theorem keep_dmaHalt {β ρ : Bool} {z : State} (s : State) (c : Nat) (cause : Nat) (onFetch : Bool) (hK : Keep β ρ z s) :
    Keep β ρ z (State.dmaHalt s c cause onFetch) := by
  unfold State.dmaHalt; grind (ematch := 40) (gen := 40) (splits := 40) [keep_count, keep_setChan, keep_dmaHaltAll, keep_mk, keep_foldl]

theorem keep_execDmaBusError {β ρ : Bool} {z : State} (ch : Nat) (cause : Nat) (onFetch : Bool) (s : State) (hK : Keep β ρ z s) {tK : State} (eK : execDmaBusError ch cause onFetch s = .next tK) :
    Keep β ρ z tK := by
  unfold execDmaBusError at eK; simp only [Host.Outcome.next.injEq] at eK; subst eK; grind (ematch := 40) (gen := 40) (splits := 40) [keep_dmaHalt]

theorem keep_dmaStart {β ρ : Bool} {z : State} (s : State) (c : Nat) (hK : Keep β ρ z s) :
    Keep β ρ z (State.dmaStart s c) := by
  unfold State.dmaStart; grind (ematch := 40) (gen := 40) (splits := 40) [keep_setChan, keep_mk]

theorem keep_dmaKickCh {β ρ : Bool} {z : State} (s : State) (c : Nat) (hK : Keep β ρ z s) :
    Keep β ρ z (State.dmaKickCh s c) := by
  unfold State.dmaKickCh; grind (ematch := 40) (gen := 40) (splits := 40) [keep_setChan, keep_mk]

theorem keep_dmaAbortCh {β ρ : Bool} {z : State} (s : State) (c : Nat) (hK : Keep β ρ z s) :
    Keep β ρ z (State.dmaAbortCh s c) := by
  unfold State.dmaAbortCh; grind (ematch := 40) (gen := 40) (splits := 40) [keep_raise, keep_setChan, keep_dmaEnd, keep_mk]

theorem keep_dmaCtrl {β ρ : Bool} {z : State} (s : State) (c : Nat) (v : Word) (hK : Keep β ρ z s) :
    Keep β ρ z (State.dmaCtrl s c v) := by
  unfold State.dmaCtrl; grind (ematch := 40) (gen := 40) (splits := 40) [keep_dmaStart, keep_dmaKickCh, keep_dmaAbortCh]

theorem keep_dmaResumeAll {β ρ : Bool} {z : State} (s : State) (hK : Keep β ρ z s) :
    Keep β ρ z (State.dmaResumeAll s) := by
  unfold State.dmaResumeAll; grind (ematch := 40) (gen := 40) (splits := 40) [keep_setChan, keep_mk, keep_foldl]

theorem keep_execDmaRun {β ρ : Bool} {z : State} (src : Src) (ch : Nat) (s : State) (hK : Keep β ρ z s) {tK : State} (eK : execDmaRun src ch s = .next tK) :
    Keep β ρ z tK := by
  unfold execDmaRun at eK; simp only [Host.Outcome.next.injEq] at eK; subst eK; grind (ematch := 40) (gen := 40) (splits := 40) [keep_dmaStart]

theorem keep_execDmaKick {β ρ : Bool} {z : State} (src : Src) (ch : Nat) (s : State) (hK : Keep β ρ z s) {tK : State} (eK : execDmaKick src ch s = .next tK) :
    Keep β ρ z tK := by
  unfold execDmaKick at eK; simp only [Host.Outcome.next.injEq] at eK; subst eK; grind (ematch := 40) (gen := 40) (splits := 40) [keep_dmaKickCh]

theorem keep_execDmaAbort {β ρ : Bool} {z : State} (src : Src) (ch : Nat) (s : State) (hK : Keep β ρ z s) {tK : State} (eK : execDmaAbort src ch s = .next tK) :
    Keep β ρ z tK := by
  unfold execDmaAbort at eK; simp only [Host.Outcome.next.injEq] at eK; subst eK; grind (ematch := 40) (gen := 40) (splits := 40) [keep_dmaAbortCh]

theorem keep_execDmaResume {β ρ : Bool} {z : State} (src : Src) (s : State) (hK : Keep β ρ z s) {tK : State} (eK : execDmaResume src s = .next tK) :
    Keep β ρ z tK := by
  unfold execDmaResume at eK; simp only [Host.Outcome.next.injEq] at eK; subst eK; grind (ematch := 40) (gen := 40) (splits := 40) [keep_dmaResumeAll]

theorem keep_dmaTake {β ρ : Bool} {z : State} (s : State) (c : Nat) (tenant : Nat) (addr : Nat) (ws : List Word) (hK : Keep β ρ z s) :
    Keep β ρ z (State.dmaTake s c tenant addr ws) := by
  unfold State.dmaTake; grind (ematch := 40) (gen := 40) (splits := 40) [keep_count, keep_holdSnapshot, keep_setChan, keep_dmaReport, keep_mk]

theorem keep_dmaFetch {β ρ : Bool} {z : State} (n : Nat) (s : State) (c tenant : Nat) (hK : Keep β ρ z s) :
    Keep β ρ z (State.dmaFetch n s c tenant) := by
  induction n generalizing s with
  | zero => exact hK
  | succ n ih => unfold State.dmaFetch; grind (ematch := 40) (gen := 40) (splits := 40) [keep_mk, keep_foldl, keep_dmaHalt, keep_setChan, keep_dmaTake, keep_dmaReport, keep_bump]

theorem keep_execDescriptorFetch {β ρ : Bool} {z : State} (ch : Nat) (s : State) (hK : Keep β ρ z s) {tK : State} (eK : execDescriptorFetch ch s = .next tK) :
    Keep β ρ z tK := by
  unfold execDescriptorFetch at eK; simp only [Host.Outcome.next.injEq] at eK; subst eK; grind (ematch := 40) (gen := 40) (splits := 40) [keep_setChan, keep_dmaFetch, keep_mk]

theorem keep_execBurstIssue {β ρ : Bool} {z : State} (ch : Nat) (s : State) (hK : Keep β ρ z s) {tK : State} (eK : execBurstIssue ch s = .next tK) :
    Keep β ρ z tK := by
  unfold execBurstIssue at eK; simp only [Host.Outcome.next.injEq] at eK; subst eK; grind (ematch := 40) (gen := 40) (splits := 40) [keep_count, keep_needPages, keep_setChan, keep_dmaEnd, keep_mk]

theorem keep_dmaLanded {β ρ : Bool} {z : State} (s : State) (c : Nat) (hK : Keep β ρ z s) :
    Keep β ρ z (State.dmaLanded s c) := by
  unfold State.dmaLanded; grind (ematch := 40) (gen := 40) (splits := 40) [keep_count, keep_dmaEnd]

theorem keep_execBurstComplete {β ρ : Bool} {z : State} (ch : Nat) (s : State) (hK : Keep β ρ z s) {tK : State} (eK : execBurstComplete ch s = .next tK) :
    Keep β ρ z tK := by
  unfold execBurstComplete at eK; simp only [Host.Outcome.next.injEq] at eK; subst eK; grind (ematch := 40) (gen := 40) (splits := 40) [keep_bump64, keep_release, keep_setChan, keep_dmaEnd, keep_dmaMove, keep_dmaHalt, keep_dmaHalf, keep_dmaLanded, keep_mk]

theorem keep_dmaTimeouts {β ρ : Bool} {z : State} (s : State) (pset : Nat) (page : Nat) (hK : Keep β ρ z s) :
    Keep β ρ z (State.dmaTimeouts s pset page) := by
  unfold State.dmaTimeouts; grind (ematch := 40) (gen := 40) (splits := 40) [keep_count, keep_dmaEnd, keep_foldl]

theorem keep_openView {β ρ : Bool} {z : State} (s : State) (l : Live) (hK : Keep β ρ z s) :
    Keep β ρ z (State.openView s l).1 := by
  unfold State.openView; grind (ematch := 40) (gen := 40) (splits := 40) [keep_openImplicit, keep_mk]

theorem keep_sealAt {β ρ : Bool} {z : State} (s : State) (l : Live) (hK : Keep β ρ z s) :
    Keep β ρ z (State.sealAt s l) := by
  unfold State.sealAt; grind (ematch := 40) (gen := 40) (splits := 40) [keep_updPset, keep_mk]

theorem keep_revokeAt {β ρ : Bool} {z : State} (s : State) (l : Live) (hK : Keep β ρ z s) :
    Keep β ρ z (State.revokeAt s l).1 := by
  unfold State.revokeAt; grind (ematch := 40) (gen := 40) (splits := 40) [keep_setRecord, keep_mk]

theorem keep_holdNamed {β ρ : Bool} {z : State} (s : State) (l : Live) (hK : Keep β ρ z s) :
    Keep β ρ z (State.holdNamed s l).1 := by
  unfold State.holdNamed; grind (ematch := 40) (gen := 40) (splits := 40) [keep_holdSnapshot, keep_foldl]

theorem keep_acceptRun {β ρ : Bool} {z : State} (s : State) (src : Source) (tenant : Nat) (compat : Bool) (ws : List Word) (tag : Nat) (pre : Option Held) (hK : Keep β ρ z s) :
    Keep β ρ z (State.acceptRun s src tenant compat ws tag pre) := by
  unfold State.acceptRun; grind (ematch := 40) (gen := 40) (splits := 40) [keep_openView, keep_holdNamed, keep_revokeAt, keep_sealAt, keep_mk]

theorem keep_dbIgnored {β ρ : Bool} {z : State} (s : State) (p : Nat) (hK : Keep β ρ z s) :
    Keep β ρ z (State.dbIgnored s p) := by
  unfold State.dbIgnored; grind (ematch := 40) (gen := 40) (splits := 40) [keep_count]

theorem keep_dbTail {β ρ : Bool} {z : State} (s : State) (p q : Nat) (v : Word) (hK : Keep β ρ z s) : Keep β ρ z (s.dbTail p q v) := by
  unfold State.dbTail; grind (ematch := 40) (gen := 40) (splits := 40) [keep_setQset, keep_dbIgnored, keep_mk]

theorem keep_dbHead {β ρ : Bool} {z : State} (s : State) (p q : Nat) (v : Word) (hK : Keep β ρ z s) : Keep β ρ z (s.dbHead p q v) := by
  unfold State.dbHead; grind (ematch := 40) (gen := 40) (splits := 40) [keep_setQset, keep_dbIgnored, keep_mk]

theorem keep_execSqTail {β ρ : Bool} {z : State} (p : Nat) (q : Nat) (v : Word) (s : State) (hK : Keep β ρ z s) {tK : State} (eK : execSqTail p q v s = .next tK) :
    Keep β ρ z tK := by
  unfold execSqTail at eK; simp only [Host.Outcome.next.injEq] at eK; subst eK; exact keep_dbTail s p q v hK

theorem keep_execCqHead {β ρ : Bool} {z : State} (p : Nat) (q : Nat) (v : Word) (s : State) (hK : Keep β ρ z s) {tK : State} (eK : execCqHead p q v s = .next tK) :
    Keep β ρ z tK := by
  unfold execCqHead at eK; simp only [Host.Outcome.next.injEq] at eK; subst eK; exact keep_dbHead s p q v hK

theorem keep_execPush {β ρ : Bool} {z : State} (p : Nat) (q : Nat) (ws : List Word) (s : State) (hK : Keep β ρ z s) {tK : State} (eK : execPush p q ws s = .next tK) :
    Keep β ρ z tK := by
  unfold execPush at eK; simp only [Host.Outcome.next.injEq] at eK; subst eK; grind (ematch := 40) (gen := 40) (splits := 40) [keep_bump, keep_setQset, keep_dbIgnored, keep_mk]

theorem keep_phaseError {β ρ : Bool} {z : State} (s : State) (p : Nat) (q : Nat) (ws : List Word) (hK : Keep β ρ z s) :
    Keep β ρ z (State.phaseError s p q ws) := by
  unfold State.phaseError; grind (ematch := 40) (gen := 40) (splits := 40) [keep_bump, keep_count, keep_writeCq, keep_freeWords, keep_endWords]

theorem keep_acceptQueue {β ρ : Bool} {z : State} (s : State) (p : Nat) (q : Nat) (ws : List Word) (hK : Keep β ρ z s) :
    Keep β ρ z (State.acceptQueue s p q ws) := by
  unfold State.acceptQueue; grind (ematch := 40) (gen := 40) (splits := 40) [keep_bump, keep_accept, keep_setQset, keep_fail, keep_acceptRun, keep_mk]

theorem keep_fetchTurn {β ρ : Bool} {z : State} (n : Nat) (s : State) (p q : Nat) (hK : Keep β ρ z s) :
    Keep β ρ z (State.fetchTurn n s p q) := by
  induction n generalizing s with
  | zero => exact hK
  | succ n ih => unfold State.fetchTurn; grind (ematch := 40) (gen := 40) (splits := 40) [keep_mk, keep_foldl, keep_setQset, keep_acceptQueue, keep_phaseError]

theorem keep_noteFull {β ρ : Bool} {z : State} (s : State) (p : Nat) (q : Nat) (hK : Keep β ρ z s) :
    Keep β ρ z (State.noteFull s p q) := by
  unfold State.noteFull; grind (ematch := 40) (gen := 40) (splits := 40) [keep_count, keep_setQset, keep_mk]

theorem keep_setRr {β ρ : Bool} {z : State} (s : State) (p : Nat) (v : Nat) (hK : Keep β ρ z s) :
    Keep β ρ z (State.setRr s p v) := by
  unfold State.setRr; grind (ematch := 40) (gen := 40) (splits := 40) [keep_mk]

theorem keep_execCommandFetch {β ρ : Bool} {z : State} (p : Nat) (s : State) (hK : Keep β ρ z s) {tK : State} (eK : execCommandFetch p s = .next tK) :
    Keep β ρ z tK := by
  unfold execCommandFetch at eK; simp only [Host.Outcome.next.injEq] at eK; subst eK; grind (ematch := 40) (gen := 40) (splits := 40) [keep_fetchTurn, keep_noteFull, keep_setRr, keep_mk, keep_foldl]

theorem keep_execUndefinedOpcode {β ρ : Bool} {z : State} (id : Nat) (s : State) (hK : Keep β ρ z s) {tK : State} (eK : execUndefinedOpcode id s = .next tK) :
    Keep β ρ z tK := by
  unfold execUndefinedOpcode at eK; simp only [Host.Outcome.next.injEq] at eK; subst eK; grind (ematch := 40) (gen := 40) (splits := 40) [keep_fail]

theorem keep_execDeferredCompletion {β ρ : Bool} {z : State} (p : Nat) (q : Nat) (s : State) (hK : Keep β ρ z s) {tK : State} (eK : execDeferredCompletion p q s = .next tK) :
    Keep β ρ z tK := by
  unfold execDeferredCompletion at eK; simp only [Host.Outcome.next.injEq] at eK; subst eK; grind (ematch := 40) (gen := 40) (splits := 40) [keep_setQset, keep_writeCq, keep_closeViews, keep_mk]

theorem keep_execCoalesceTimer {β ρ : Bool} {z : State} (p : Nat) (q : Nat) (t : Nat) (s : State) (hK : Keep β ρ z s) {tK : State} (eK : execCoalesceTimer p q t s = .next tK) :
    Keep β ρ z tK := by
  unfold execCoalesceTimer at eK; simp only [Host.Outcome.next.injEq] at eK; subst eK; grind (ematch := 40) (gen := 40) (splits := 40) [keep_at_, keep_signal]

theorem keep_qsStart {β ρ : Bool} {z : State} (s : State) (p : Nat) (q : Nat) (hK : Keep β ρ z s) :
    Keep β ρ z (State.qsStart s p q) := by
  unfold State.qsStart; grind (ematch := 40) (gen := 40) (splits := 40) [keep_setQset, keep_mk]

theorem keep_qsCtrl {β ρ : Bool} {z : State} (s : State) (p : Nat) (q : Nat) (v : Word) (hK : Keep β ρ z s) :
    Keep β ρ z (State.qsCtrl s p q v) := by
  unfold State.qsCtrl; grind (ematch := 40) (gen := 40) (splits := 40) [keep_setReg, keep_setQset, keep_qsStart, keep_mk]

theorem keep_execQsEnable {β ρ : Bool} {z : State} (src : Src) (p : Nat) (q : Nat) (v : Word) (s : State) (hK : Keep β ρ z s) {tK : State} (eK : execQsEnable src p q v s = .next tK) :
    Keep β ρ z tK := by
  unfold execQsEnable at eK; simp only [Host.Outcome.next.injEq] at eK; subst eK; grind (ematch := 40) (gen := 40) (splits := 40) [keep_qsCtrl]

theorem keep_execQsDisable {β ρ : Bool} {z : State} (src : Src) (p : Nat) (q : Nat) (v : Word) (s : State) (hK : Keep β ρ z s) {tK : State} (eK : execQsDisable src p q v s = .next tK) :
    Keep β ρ z tK := by
  unfold execQsDisable at eK; simp only [Host.Outcome.next.injEq] at eK; subst eK; grind (ematch := 40) (gen := 40) (splits := 40) [keep_qsCtrl]

theorem keep_execQsDrainEnd {β ρ : Bool} {z : State} (p : Nat) (q : Nat) (s : State) (hK : Keep β ρ z s) {tK : State} (eK : execQsDrainEnd p q s = .next tK) :
    Keep β ρ z tK := by
  unfold execQsDrainEnd at eK; simp only [Host.Outcome.next.injEq] at eK; subst eK; grind (ematch := 40) (gen := 40) (splits := 40) [keep_setQset, keep_mk]

theorem keep_execFence {β ρ : Bool} {z : State} (id : Nat) (s : State) (hK : Keep β ρ z s) {tK : State} (eK : execFence id s = .next tK) :
    Keep β ρ z tK := by
  unfold execFence State.onNew at eK; simp only [Host.Outcome.next.injEq] at eK; subst eK; grind (ematch := 40) (gen := 40) (splits := 40) [keep_at_, keep_setRunning, keep_hold, keep_fail, keep_mk]

theorem keep_dropFence {β ρ : Bool} {z : State} (s : State) (id : Nat) (hK : Keep β ρ z s) :
    Keep β ρ z (State.dropFence s id) := by
  unfold State.dropFence; grind (ematch := 40) (gen := 40) (splits := 40) [keep_mk]

theorem keep_execFenceDone {β ρ : Bool} {z : State} (id : Nat) (s : State) (hK : Keep β ρ z s) {tK : State} (eK : execFenceDone id s = .next tK) :
    Keep β ρ z tK := by
  unfold execFenceDone at eK; simp only [Host.Outcome.next.injEq] at eK; subst eK; grind (ematch := 40) (gen := 40) (splits := 40) [keep_done, keep_dropFence]

theorem keep_execFenceTimeout {β ρ : Bool} {z : State} (id : Nat) (t : Nat) (s : State) (hK : Keep β ρ z s) {tK : State} (eK : execFenceTimeout id t s = .next tK) :
    Keep β ρ z tK := by
  unfold execFenceTimeout at eK; simp only [Host.Outcome.next.injEq] at eK; subst eK; grind (ematch := 40) (gen := 40) (splits := 40) [keep_at_, keep_complete, keep_dropFence]

theorem keep_statsOut {β ρ : Bool} {z : State} (s : State) (l : Live) (ws : List Word) (hK : Keep β ρ z s) :
    Keep β ρ z (State.statsOut s l ws) := by
  unfold State.statsOut; grind (ematch := 40) (gen := 40) (splits := 40) [→ keep_workWrite, keep_fail, keep_done, keep_undefHost]

theorem keep_execStats {β ρ : Bool} {z : State} (id : Nat) (s : State) (hK : Keep β ρ z s) {tK : State} (eK : execStats id s = .next tK) :
    Keep β ρ z tK := by
  unfold execStats State.onNew at eK; simp only [Host.Outcome.next.injEq] at eK; subst eK; grind (ematch := 40) (gen := 40) (splits := 40) [keep_fail, keep_statsOut]

theorem keep_execCompatLookup {β ρ : Bool} {z : State} (id : Nat) (s : State) (hK : Keep β ρ z s) {tK : State} (eK : execCompatLookup id s = .next tK) :
    Keep β ρ z tK := by
  unfold execCompatLookup State.onCompat at eK; simp only [Host.Outcome.next.injEq] at eK; subst eK; grind (ematch := 40) (gen := 40) (splits := 40) [keep_lookProbeView, keep_viewFor, keep_complete, keep_fail]

theorem keep_execCompatFree {β ρ : Bool} {z : State} (id : Nat) (s : State) (hK : Keep β ρ z s) {tK : State} (eK : execCompatFree id s = .next tK) :
    Keep β ρ z tK := by
  unfold execCompatFree State.onCompat at eK; simp only [Host.Outcome.next.injEq] at eK; subst eK; grind (ematch := 40) (gen := 40) (splits := 40) [keep_setRunning, keep_schedule, keep_fail]

theorem keep_releaseHolds {β ρ : Bool} {z : State} (s : State) (hK : Keep β ρ z s) :
    Keep β ρ z (State.releaseHolds s) := by
  unfold State.releaseHolds; grind (ematch := 40) (gen := 40) (splits := 40) [keep_mk]

theorem keep_expireHolds {β ρ : Bool} {z : State} (s : State) (past : Nat) (hK : Keep β ρ z s) :
    Keep β ρ z (State.expireHolds s past) := by
  unfold State.expireHolds; grind (ematch := 40) (gen := 40) (splits := 40) [keep_bump, keep_mk]

theorem keep_updDlv {β ρ : Bool} {z : State} (s : State) (id : Nat) (f : Dlv → Dlv) (hK : Keep β ρ z s) :
    Keep β ρ z (State.updDlv s id f) := by
  unfold State.updDlv; grind (ematch := 40) (gen := 40) (splits := 40) [keep_mk]

theorem keep_updEnt {β ρ : Bool} {z : State} (s : State) (id : Nat) (k : Nat) (f : DEnt → DEnt) (hK : Keep β ρ z s) :
    Keep β ρ z (State.updEnt s id k f) := by
  unfold State.updEnt; grind (ematch := 40) (gen := 40) (splits := 40) [keep_updDlv, keep_mk]

theorem keep_dlvPoint {β ρ : Bool} {z : State} (s : State) (id : Nat) (hK : Keep β ρ z s) :
    Keep β ρ z (State.dlvPoint s id) := by
  unfold State.dlvPoint; grind (ematch := 40) (gen := 40) (splits := 40) [keep_recPoint, keep_updDlv, keep_mk]

theorem keep_undefEnt {β ρ : Bool} {z : State} (s : State) (tenant : Nat) (p : Nat) (e : DEnt) (hK : Keep β ρ z s) :
    Keep β ρ z (State.undefEnt s tenant p e) := by
  unfold State.undefEnt; grind (ematch := 40) (gen := 40) (splits := 40) [keep_undefHost]

theorem keep_failEnt {β ρ : Bool} {z : State} (s : State) (id : Nat) (k : Nat) (st : Status) (hK : Keep β ρ z s) :
    Keep β ρ z (State.failEnt s id k st) := by
  unfold State.failEnt; grind (ematch := 40) (gen := 40) (splits := 40) [keep_bump, keep_killMsg, keep_updEnt, keep_dlvPoint, keep_undefEnt, keep_mk]

theorem keep_ackEnt {β ρ : Bool} {z : State} (s : State) (id : Nat) (k : Nat) (n : Nat) (hK : Keep β ρ z s) :
    Keep β ρ z (State.ackEnt s id k n) := by
  unfold State.ackEnt; grind (ematch := 40) (gen := 40) (splits := 40) [keep_bump, keep_done, keep_updEnt, keep_mk]

theorem keep_handEnt {β ρ : Bool} {z : State} (s : State) (id : Nat) (k : Nat) (hK : Keep β ρ z s) :
    Keep β ρ z (State.handEnt s id k) := by
  unfold State.handEnt; grind (ematch := 40) (gen := 40) (splits := 40) [keep_updEnt, keep_dlvPoint, keep_mk]

theorem keep_chunkStep {β ρ : Bool} {z : State} (s : State) (l : Live) {w tK : State} (_hw : Keep β ρ z w) (eK : State.chunkStep s l = some tK) (hK : Keep β ρ z s) :
    Keep β ρ z tK := by
  unfold State.chunkStep at eK; grind (ematch := 40) (gen := 40) (splits := 40) [→ keep_workWrite, keep_touchPset, keep_post, keep_postMore, keep_updEnt, keep_dlvPoint, keep_failEnt, keep_ackEnt, keep_mk]

theorem keep_chunkLoop {β ρ : Bool} {z : State} (n : Nat) (l : Live) (s : State) (hK : Keep β ρ z s) :
    Keep β ρ z (State.chunkLoop n l s) := by
  induction n generalizing s with
  | zero => exact hK
  | succ n ih => unfold State.chunkLoop; grind (ematch := 40) (gen := 40) (splits := 40) [keep_mk, keep_foldl, → keep_chunkStep]

theorem keep_dlvRead {β ρ : Bool} {z : State} (s : State) (l : Live) (hK : Keep β ρ z s) :
    Keep β ρ z (State.dlvRead s l) := by
  unfold State.dlvRead; grind (ematch := 40) (gen := 40) (splits := 40) [keep_needPages, keep_chunkLoop, keep_foldl]

theorem keep_startDlv {β ρ : Bool} {z : State} (s : State) (l : Live) (d : Dlv) (hK : Keep β ρ z s) :
    Keep β ρ z (State.startDlv s l d) := by
  unfold State.startDlv; grind (ematch := 40) (gen := 40) (splits := 40) [keep_bump, keep_setRunning, keep_dlvPoint, keep_undefEnt, keep_dlvRead, keep_mk, keep_foldl]

theorem keep_dlvFail {β ρ : Bool} {z : State} (s : State) (id : Nat) (st : Status) (hK : Keep β ρ z s) :
    Keep β ρ z (State.dlvFail s id st) := by
  unfold State.dlvFail; grind (ematch := 40) (gen := 40) (splits := 40) [keep_complete]

theorem keep_execDeliver {β ρ : Bool} {z : State} (id : Nat) (s : State) (hK : Keep β ρ z s) {tK : State} (eK : execDeliver id s = .next tK) :
    Keep β ρ z tK := by
  unfold execDeliver State.onNew at eK; simp only [Host.Outcome.next.injEq] at eK; subst eK; grind (ematch := 40) (gen := 40) (splits := 40) [keep_viewFor, keep_startDlv, keep_dlvFail]

theorem keep_execDeliverChunk {β ρ : Bool} {z : State} (id : Nat) (s : State) (hK : Keep β ρ z s) {tK : State} (eK : execDeliverChunk id s = .next tK) :
    Keep β ρ z tK := by
  unfold execDeliverChunk State.onRunning at eK; simp only [Host.Outcome.next.injEq] at eK; subst eK; grind (ematch := 40) (gen := 40) (splits := 40) [keep_dlvRead]

theorem keep_execDeliverComplete {β ρ : Bool} {z : State} (id : Nat) (s : State) (hK : Keep β ρ z s) {tK : State} (eK : execDeliverComplete id s = .next tK) :
    Keep β ρ z tK := by
  unfold execDeliverComplete at eK; simp only [Host.Outcome.next.injEq] at eK; subst eK; grind (ematch := 40) (gen := 40) (splits := 40) [keep_complete, keep_done, keep_releaseHolds, keep_mk]

theorem keep_dropDlv {β ρ : Bool} {z : State} (s : State) (id : Nat) (hK : Keep β ρ z s) :
    Keep β ρ z (State.dropDlv s id) := by
  unfold State.dropDlv; grind (ematch := 40) (gen := 40) (splits := 40) [keep_killMsg, keep_mk, keep_foldl]

theorem keep_execCompatDeliver {β ρ : Bool} {z : State} (id : Nat) (s : State) (hK : Keep β ρ z s) {tK : State} (eK : execCompatDeliver id s = .next tK) :
    Keep β ρ z tK := by
  unfold execCompatDeliver State.onCompat at eK; simp only [Host.Outcome.next.injEq] at eK; subst eK; grind (ematch := 40) (gen := 40) (splits := 40) [keep_viewFor, keep_fail, keep_startDlv]

end Sys2Proof.Machine
end

