-- ==== Sys2Proof/Laws/KeepFlash.lean ====
section
/-! SUPPORT. The lemmas of KeepBase for the operations and meanings of Flash, Prefetch. -/

namespace Sys2Proof.Machine

theorem keep_flashSettle {β ρ : Bool} {z : State} (s : State) (old : State) (hK : Keep β ρ z s) :
    Keep β ρ z (State.flashSettle s old) := by
  unfold State.flashSettle; grind (ematch := 40) (gen := 40) (splits := 40) [keep_updMode, keep_stopMove, keep_trimCapacity, keep_foldl]

theorem keep_ensureSb {β ρ : Bool} {z : State} (s : State) (k : Nat) (hK : Keep β ρ z s) :
    Keep β ρ z (State.ensureSb s k) := by
  unfold State.ensureSb; grind (ematch := 40) (gen := 40) (splits := 40) [→ keep_openSb, keep_setStream, keep_updMode, keep_mk]

theorem keep_execSegmentFlush {β ρ : Bool} {z : State} (stream : Nat) (t : Nat) (s : State) (hK : Keep β ρ z s) {tK : State} (eK : execSegmentFlush stream t s = .next tK) :
    Keep β ρ z tK := by
  unfold execSegmentFlush at eK; simp only [Host.Outcome.next.injEq] at eK; subst eK; grind (ematch := 40) (gen := 40) (splits := 40) [keep_bump, keep_at_, keep_setStream, keep_ensureSb, keep_mk]

theorem keep_scheduleRewrite {β ρ : Bool} {z : State} (s : State) (n : Nat) (hK : Keep β ρ z s) :
    Keep β ρ z (State.scheduleRewrite s n) := by
  unfold State.scheduleRewrite; grind (ematch := 40) (gen := 40) (splits := 40) [keep_mk, tables_sb, updSb_sb]

theorem keep_commitRecord {β ρ : Bool} {z : State} (s : State) (h : Nat) (rest : List WSlot) (hK : Keep β ρ z s) :
    Keep β ρ z (State.commitRecord s h rest) := by
  unfold State.commitRecord; grind (ematch := 40) (gen := 40) (splits := 40) [keep_journal, keep_mk]

theorem keep_noteRead {β ρ : Bool} {z : State} (s : State) (sb pos n : Nat) (hK : Keep β ρ z s) :
    Keep β ρ z (State.noteRead s sb pos n) := by
  unfold State.noteRead; grind (ematch := 40) (gen := 40) (splits := 40) [keep_bump64, keep_scheduleRewrite, keep_mk, tables_sb, updSb_sb]

theorem keep_mapRecords {β ρ : Bool} {z : State} (s : State) (n j : Nat) (l : List WSlot) (hK : Keep β ρ z s) :
    Keep β ρ z (s.mapRecords n j l) := by
  induction l generalizing s j with
  | nil => exact hK
  | cons x l ih => unfold State.mapRecords; grind (ematch := 40) (gen := 40) (splits := 40) [keep_journal, keep_commitRecord, keep_noteRead, keep_footAdd]

theorem keep_countPrograms {β ρ : Bool} {z : State} (s : State) (n : Nat) (hK : Keep β ρ z s) :
    Keep β ρ z (State.countPrograms s n) := keep_foldl _ _ s hK fun s b h => keep_bump s _ _ h

theorem keep_countBack {β ρ : Bool} {z : State} (s : State) (n : Nat) (hK : Keep β ρ z s) :
    Keep β ρ z (State.countBack s n) := keep_foldl _ _ s hK fun s b h => keep_noteRead s _ _ _ h

theorem keep_programResults {β ρ : Bool} {z : State} (s : State) (n : Nat) (bad : List Nat) (hK : Keep β ρ z s) :
    Keep β ρ z (State.programResults s n bad) := keep_foldl _ _ s hK fun s b h => keep_blockResult s _ _ _ h

theorem keep_programFail {β ρ : Bool} {z : State} (s : State) (k n : Nat) (bad back : List Nat) (hK : Keep β ρ z s) :
    Keep β ρ z (State.programFail s k n bad back) := by
  unfold State.programFail; grind (ematch := 40) (gen := 40) (splits := 40) [keep_count, keep_journalSb, keep_setStream, keep_countPrograms, keep_countBack, keep_programResults, keep_mk, keep_foldl, tables_sb, updSb_sb]

theorem keep_writeMedia {β ρ : Bool} {z : State} (s : State) (n seg : Nat) (ws : List WSlot) (hK : Keep β ρ z s) :
    Keep β ρ z (State.writeMedia s n seg ws) := keep_mk hK rfl rfl ⟨rfl, rfl, rfl, rfl, rfl, rfl, rfl, rfl⟩ id

theorem keep_programOk {β ρ : Bool} {z : State} (s : State) (k n : Nat) (hK : Keep β ρ z s) :
    Keep β ρ z (State.programOk s k n) := by
  unfold State.programOk; grind (ematch := 40) (gen := 40) (splits := 40) [keep_journalSb, keep_setStream, keep_mapRecords, keep_countPrograms, keep_countBack, keep_programResults, keep_writeMedia, keep_mk, tables_sb, updSb_sb]

theorem fgEnd_sb (f : Flm) (clk ch : Nat) : (f.fgEnd clk ch).sb = f.sb := by unfold Flm.fgEnd; split <;> rfl

theorem fgEnds_sb (clk : Nat) (l : List Nat) (f : Flm) : (l.foldl (fun f ch => f.fgEnd clk ch) f).sb = f.sb := by
  induction l generalizing f with
  | nil => rfl
  | cons x l ih => rw [List.foldl_cons, ih, fgEnd_sb]

theorem keep_progEnd {β ρ : Bool} {z : State} (s : State) (half : Nat) (hK : Keep β ρ z s) :
    Keep β ρ z (State.progEnd s half) := by
  unfold State.progEnd
  simp only []
  generalize (List.range 32).map (fun k => 32 * half + k) = l
  refine keep_mk hK rfl rfl ⟨rfl, rfl, rfl, rfl, rfl, rfl, rfl, rfl⟩ fun h => ?_
  rw [show ∀ (f : Flm) a b, ({ f with busy := a, prog := b } : Flm).sb = f.sb from fun _ _ _ => rfl, fgEnds_sb]
  exact h

theorem keep_execSegmentProgrammed {β ρ : Bool} {z : State} (stream : Nat) (r : SegResult) (s : State) (hK : Keep β ρ z s) {tK : State} (eK : execSegmentProgrammed stream r s = .next tK) :
    Keep β ρ z tK := by
  unfold execSegmentProgrammed at eK; simp only [Host.Outcome.next.injEq] at eK; subst eK; grind (ematch := 40) (gen := 40) (splits := 40) [keep_flashSettle, keep_ensureSb, keep_programFail, keep_programOk, keep_progEnd, keep_mk]

theorem keep_execJournalFlush {β ρ : Bool} {z : State} (t : Nat) (s : State) (hK : Keep β ρ z s) {tK : State} (eK : execJournalFlush t s = .next tK) :
    Keep β ρ z tK := by
  unfold execJournalFlush at eK; simp only [Host.Outcome.next.injEq] at eK; subst eK; grind (ematch := 40) (gen := 40) (splits := 40) [keep_at_, keep_mk, jclose_sb]

theorem keep_ringWrite {β ρ : Bool} {z : State} (s : State) (p : JPage) (copy : Nat) (hK : Keep β ρ z s) :
    Keep β ρ z (State.ringWrite s p copy) := by
  unfold State.ringWrite; grind (ematch := 40) (gen := 40) (splits := 40) [keep_bump, keep_bump64, keep_mk]

theorem ringFree_sb (f : Flm) (n copy : Nat) : (f.ringFree n copy).sb = f.sb := by unfold Flm.ringFree; grind

theorem keep_execJournalPageDurable {β ρ : Bool} {z : State} (x : PageResult) (s : State) (hK : Keep β ρ z s) {tK : State} (eK : execJournalPageDurable x s = .next tK) :
    Keep β ρ z tK := by
  unfold execJournalPageDurable at eK; simp only [Host.Outcome.next.injEq] at eK; subst eK
  have hw : ∀ (s : State) (c : Bool) (p : JPage) (k : Nat), Keep β ρ z s → Keep β ρ z (if c = true then s.ringWrite p k else s) := by
    intro s c p k h; split
    · exact keep_ringWrite _ _ _ h
    · exact h
  split
  · exact hK
  · have h := fun a b p q => hw _ b q 1 (hw s a p 0 hK)
    split
    · refine keep_discardCheck _ (keep_flashSettle _ _ (keep_foldl _ _ _ (keep_ringErase _ _ (keep_jcount _ (keep_mk (h _ _ _ _) rfl rfl ⟨rfl, rfl, rfl, rfl, rfl, rfl, rfl, rfl⟩ ?_))) fun s r h => keep_applyRec s r h))
      simp only [ringFree_sb]; exact id
    · refine keep_mk (h _ _ _ _) rfl rfl ⟨rfl, rfl, rfl, rfl, rfl, rfl, rfl, rfl⟩ ?_
      simp only [ringFree_sb]; exact id

theorem putArea_sb (f : Flm) (c : Ckpt) : (f.putArea c).sb = f.sb := by unfold Flm.putArea; split <;> rfl

theorem keep_execCheckpoint {β ρ : Bool} {z : State} (t : Nat) (s : State) (hK : Keep β ρ z s) {tK : State} (eK : execCheckpoint t s = .next tK) :
    Keep β ρ z tK := by
  unfold execCheckpoint at eK; simp only [Host.Outcome.next.injEq] at eK; subst eK
  split
  · exact keep_at_ _ _ hK
  · refine keep_journal _ _ (keep_journal _ _ (keep_mk (keep_at_ _ _ hK) rfl rfl ⟨rfl, rfl, rfl, rfl, rfl, rfl, rfl, rfl⟩ ?_))
    simp only [putArea_sb]; exact id

theorem keep_eraseBlock {β ρ : Bool} {z : State} (s : State) (n : Nat) (pos : Nat) (block : Nat) (bad : Bool) (hK : Keep β ρ z s) :
    Keep β ρ z (State.eraseBlock s n pos block bad) := by
  unfold State.eraseBlock; grind (ematch := 40) (gen := 40) (splits := 40) [keep_blockErased, keep_count, keep_retireBlock, keep_blockResult, keep_mk]

theorem form_rising (f : Flm) (n : Nat) (h : f.sb.rising) : (f.form n).sb.rising := by
  unfold Flm.form; simp only []; split <;> exact updSb_rising _ _ _ (updSb_rising _ _ _ h)

theorem fillSlc_rising (f : Flm) (row : Nat) (h : f.sb.rising) : (f.fillSlc row).sb.rising := by
  unfold Flm.fillSlc; split
  · exact h
  · split
    · exact h
    · exact updSb_rising _ _ _ h

theorem flmFoldl_rising {α : Type} (g : Flm → α → Flm) (l : List α) (f : Flm) (h : f.sb.rising)
    (hg : ∀ f x, f.sb.rising → (g f x).sb.rising) : (l.foldl g f).sb.rising := by
  induction l generalizing f with
  | nil => exact h
  | cons x l ih => exact ih _ (hg _ _ h)

theorem keep_reform {β ρ : Bool} {z : State} (s : State) (n : Nat) (hK : Keep β ρ z s) : Keep β ρ z (State.reform s n) := by
  unfold State.reform; simp only []
  split
  · refine keep_spareCheck _ (keep_newExport _ (keep_journalSb _ _ _ (keep_mk hK rfl rfl ⟨rfl, rfl, rfl, rfl, rfl, rfl, rfl, rfl⟩ (tables_sbMap fun h => ?_))))
    split <;> exact form_rising _ _ h
  · exact keep_spareCheck _ (keep_journalSb _ _ _ (keep_mk hK rfl rfl ⟨rfl, rfl, rfl, rfl, rfl, rfl, rfl, rfl⟩ (tables_sbMap fun h => fillSlc_rising _ _ (form_rising _ _ h))))

theorem keep_rebuildCheck {β ρ : Bool} {z : State} (s : State) (hK : Keep β ρ z s) : Keep β ρ z (s.rebuildCheck) := by
  unfold State.rebuildCheck
  simp only []
  split
  · refine keep_newExport _ (keep_raise _ _ _ ?_)
    generalize (s.flm.die.filter (fun e => decide (e.2.st = .failed))).map (·.1) = ks
    have h := keep_foldl (fun s k => s.journal (.dieState k .rebuilt)) ks s hK (fun s _ h => keep_journal s _ h)
    refine keep_mk h rfl rfl ⟨rfl, rfl, rfl, rfl, rfl, rfl, rfl, rfl⟩ ?_
    rw [show ∀ (f : Flm) (b : Bool), ({ f with rebuild := b } : Flm).sb = f.sb from fun _ _ => rfl, updDies_sb]
    exact id
  · exact hK

theorem keep_discardErased {β ρ : Bool} {z : State} (s : State) (n : Nat) (zeroBad : List Nat) (hK : Keep β ρ z s) :
    Keep β ρ z (State.discardErased s n zeroBad) := by
  unfold State.discardErased; grind (ematch := 40) (gen := 40) (splits := 40) [keep_count, keep_dieFails, keep_mk, keep_foldl]

theorem keep_countErased {β ρ : Bool} {z : State} (s : State) (b : Sb) (hK : Keep β ρ z s) :
    Keep β ρ z (State.countErased s b) := by
  unfold State.countErased; grind (ematch := 40) (gen := 40) (splits := 40) [keep_bump]

theorem keep_eraseSb {β ρ : Bool} {z : State} (s : State) (sb : Nat) (bad zeroBad : List Nat) (hK : Keep β ρ z s) :
    Keep β ρ z (State.eraseSb s sb bad zeroBad) := by
  unfold State.eraseSb; simp only []
  refine keep_rebuildCheck _ (keep_reform _ _ (keep_countErased _ _ (keep_mk (keep_discardErased _ _ _ ?_) rfl rfl ⟨rfl, rfl, rfl, rfl, rfl, rfl, rfl, rfl⟩ id)))
  have h := keep_foldl (fun s (x : Nat × Nat) => s.eraseBlock sb x.1 x.2 (bad.contains x.1))
    ((s.flm.sbAt sb).blocks.filter (fun x => decide ((sget s.flm.die Die.absent (32 * (sb / 8192) + x.1)).st = .live))) s hK
    (fun s x h => keep_eraseBlock s _ _ _ _ h)
  split
  · exact keep_addCredit _ _ h
  · exact h

theorem fgEndBlocks_sb (clk n : Nat) (l : List (Nat × Nat)) (f : Flm) :
    (l.foldl (fun f b => f.fgEnd clk (dieChannel n b.1)) f).sb = f.sb := by
  induction l generalizing f with
  | nil => rfl
  | cons x l ih => rw [List.foldl_cons, ih, fgEnd_sb]

theorem keep_eraseEnd {β ρ : Bool} {z : State} (s : State) (n : Nat) (hK : Keep β ρ z s) : Keep β ρ z (State.eraseEnd s n) := by
  unfold State.eraseEnd
  exact keep_mk hK rfl rfl ⟨rfl, rfl, rfl, rfl, rfl, rfl, rfl, rfl⟩ (by simp only [fgEndBlocks_sb]; exact id)

theorem keep_execErase {β ρ : Bool} {z : State} (sb : Nat) (bad zeroBad : List Nat) (s : State) (hK : Keep β ρ z s) {tK : State} (eK : execErase sb bad zeroBad s = .next tK) :
    Keep β ρ z tK := by
  unfold execErase at eK; simp only [Host.Outcome.next.injEq] at eK; subst eK
  split
  · exact hK
  · exact keep_flashSettle _ _ (keep_eraseSb _ _ _ _ (keep_eraseEnd _ _ hK))

theorem keep_execFolding {β ρ : Bool} {z : State} (half : Nat) (s : State) (hK : Keep β ρ z s) {tK : State} (eK : execFolding half s = .next tK) :
    Keep β ρ z tK := by
  unfold execFolding at eK; simp only [Host.Outcome.next.injEq] at eK; subst eK; grind (ematch := 40) (gen := 40) (splits := 40) [keep_vacate, keep_mk]

theorem keep_execGarbageCollection {β ρ : Bool} {z : State} (half : Nat) (s : State) (hK : Keep β ρ z s) {tK : State} (eK : execGarbageCollection half s = .next tK) :
    Keep β ρ z tK := by
  unfold execGarbageCollection at eK; simp only [Host.Outcome.next.injEq] at eK; subst eK; grind (ematch := 40) (gen := 40) (splits := 40) [keep_vacate, keep_mk]

theorem keep_execRewrite {β ρ : Bool} {z : State} (sb : Nat) (s : State) (hK : Keep β ρ z s) {tK : State} (eK : execRewrite sb s = .next tK) :
    Keep β ρ z tK := by
  unfold execRewrite at eK; simp only [Host.Outcome.next.injEq] at eK; subst eK; grind (ematch := 40) (gen := 40) (splits := 40) [keep_bump, keep_vacate]

theorem keep_moveMeta {β ρ : Bool} {z : State} (s : State) (n : Nat) {w tK : State} (_hw : Keep β ρ z w) (eK : s.moveMeta n = some tK) (hK : Keep β ρ z s) : Keep β ρ z tK := by
  unfold State.moveMeta at eK; simp only [] at eK
  split at eK
  · cases eK
  · cases eK
    refine keep_eraseReady _ (keep_journalSb _ _ _ (keep_journalSb _ _ _ (keep_mk hK rfl rfl ⟨rfl, rfl, rfl, rfl, rfl, rfl, rfl, rfl⟩ (tables_sbMap fun h => ?_))))
    exact rising_sset _ _ _ (rising_sset _ _ _ h)

theorem keep_execDieRebuild {β ρ : Bool} {z : State} (sb : Nat) (s : State) (hK : Keep β ρ z s) {tK : State} (eK : execDieRebuild sb s = .next tK) :
    Keep β ρ z tK := by
  unfold execDieRebuild at eK; simp only [Host.Outcome.next.injEq] at eK; subst eK
  split
  · exact hK
  · split
    · cases e : s.moveMeta sb with
      | none => exact hK
      | some t => exact keep_moveMeta s sb hK e hK
    · split
      · exact hK
      · exact keep_vacate _ _ _ hK

theorem keep_execWearLevelling {β ρ : Bool} {z : State} (s : State) (hK : Keep β ρ z s) {tK : State} (eK : execWearLevelling s = .next tK) :
    Keep β ρ z tK := by
  unfold execWearLevelling at eK; simp only [Host.Outcome.next.injEq] at eK; subst eK; grind (ematch := 40) (gen := 40) (splits := 40) [keep_bump, keep_vacate, keep_mk]

theorem keep_stripeReads {β ρ : Bool} {z : State} (s : State) (l : Loc) (hK : Keep β ρ z s) :
    Keep β ρ z (State.stripeReads s l) := keep_foldl _ _ s hK fun s b h => keep_noteRead s _ _ _ h

theorem keep_slotRead {β ρ : Bool} {z : State} (s : State) (l : Loc) (o : ReadOutcome) (hK : Keep β ρ z s) :
    Keep β ρ z (State.slotRead s l o).1 := by
  unfold State.slotRead; grind (ematch := 40) (gen := 40) (splits := 40) [keep_bump, keep_bump64, keep_count, keep_rasRecord, keep_scheduleRewrite, keep_noteRead, keep_stripeReads]

theorem keep_lostPage {β ρ : Bool} {z : State} (s : State) (i : Nat) (page : Nat) (hK : Keep β ρ z s) :
    Keep β ρ z (State.lostPage s i page) := by
  unfold State.lostPage; grind (ematch := 40) (gen := 40) (splits := 40) [keep_poisonPage]

theorem keep_trendAdd {β ρ : Bool} {z : State} (s : State) (l : Loc) (o : ReadOutcome) (hK : Keep β ρ z s) :
    Keep β ρ z (State.trendAdd s l o) := by
  unfold State.trendAdd; grind (ematch := 40) (gen := 40) (splits := 40) [keep_fail, keep_mk]

theorem keep_execFlashScrub {β ρ : Bool} {z : State} (sb : Nat) (slot : Nat) (t : Nat) (outcome : ReadOutcome) (s : State) (hK : Keep β ρ z s) {tK : State} (eK : execFlashScrub sb slot t outcome s = .next tK) :
    Keep β ρ z tK := by
  unfold execFlashScrub at eK; simp only [Host.Outcome.next.injEq] at eK; subst eK; grind (ematch := 40) (gen := 40) (splits := 40) [keep_at_, keep_slotRead, keep_lostPage, keep_trendAdd, keep_mk, tables_sb, updSb_sb]

theorem keep_startRead {β ρ : Bool} {z : State} (s : State) (rid : Nat) (hK : Keep β ρ z s) :
    Keep β ρ z (State.startRead s rid) := by
  unfold State.startRead; grind (ematch := 40) (gen := 40) (splits := 40) [keep_mk]

theorem keep_readOn {β ρ : Bool} {z : State} (s : State) (r : T2Read) {tK : State} (eK : s.readOn r = some tK) (hK : Keep β ρ z s) :
    Keep β ρ z tK := by
  unfold State.readOn at eK; simp only [] at eK
  split at eK
  · cases eK; exact keep_startRead _ _ hK
  · split at eK
    · cases eK; exact keep_bump _ _ _ (keep_startRead _ _ (keep_mk hK rfl rfl ⟨rfl, rfl, rfl, rfl, rfl, rfl, rfl, rfl⟩ id))
    · cases eK

theorem keep_readStart {β ρ : Bool} {z : State} (s : State) (ch : Nat) (urgent : Bool) {tK : State} (eK : s.readStart ch urgent = some tK)
    (hK : Keep β ρ z s) : Keep β ρ z tK := by
  obtain ⟨r, -, h⟩ := List.exists_of_findSome?_eq_some eK
  exact keep_readOn _ _ h hK

theorem keep_opOn {β ρ : Bool} {z : State} (s : State) (ch die : Nat) (op : FlashOp) (fg : Bool) {tK : State} (eK : s.opOn ch die op fg = some tK)
    (hK : Keep β ρ z s) : Keep β ρ z tK := by
  unfold State.opOn at eK
  split at eK
  · cases eK
  · cases eK; exact keep_mk hK rfl rfl ⟨rfl, rfl, rfl, rfl, rfl, rfl, rfl, rfl⟩ id

theorem keep_ringStart {β ρ : Bool} {z : State} (s : State) (ch : Nat) {tK : State} (eK : s.ringStart ch = some tK) (hK : Keep β ρ z s) :
    Keep β ρ z tK := by
  obtain ⟨x, -, h⟩ := List.exists_of_findSome?_eq_some eK
  split at h
  · split at h
    · exact keep_opOn _ _ _ _ _ h hK
    · cases h
  · cases h

theorem keep_progOn {β ρ : Bool} {z : State} (s : State) (ch k : Nat) (fg : Bool) {tK : State} (eK : s.progOn ch k fg = some tK)
    (hK : Keep β ρ z s) : Keep β ρ z tK := by
  unfold State.progOn at eK; simp only [] at eK
  split at eK
  · cases eK
  · split at eK
    · cases eK
    · split at eK
      · obtain ⟨u, e, rfl⟩ := Option.map_eq_some_iff.mp eK
        exact keep_mk (keep_opOn _ _ _ _ _ e (keep_ensureSb _ _ hK)) rfl rfl ⟨rfl, rfl, rfl, rfl, rfl, rfl, rfl, rfl⟩ id
      · cases eK

theorem keep_progData {β ρ : Bool} {z : State} (s : State) (ch : Nat) {tK : State} (eK : s.progData ch = some tK) (hK : Keep β ρ z s) :
    Keep β ρ z tK := by
  unfold State.progData at eK; simp only [] at eK
  split at eK
  · cases eK
  · split at eK
    · cases eK
    · rename_i e; split at eK
      · split at eK
        · cases eK
        · cases eK; exact keep_bump _ _ _ (keep_setStream _ _ _ hK)
      · cases eK; exact keep_progOn _ _ _ _ e hK

theorem keep_relocStart {β ρ : Bool} {z : State} (s : State) (ch row : Nat) {tK : State} (eK : s.relocStart ch row = some tK)
    (hK : Keep β ρ z s) : Keep β ρ z tK := by
  unfold State.relocStart at eK; simp only [] at eK
  split at eK
  · rename_i e; cases eK
    obtain ⟨k, -, h⟩ := List.exists_of_findSome?_eq_some e
    exact keep_progOn _ _ _ _ h hK
  · split at eK
    · cases eK
    · obtain ⟨x, -, h⟩ := List.exists_of_findSome?_eq_some eK
      exact keep_opOn _ _ _ _ _ h hK

theorem keep_rowStart {β ρ : Bool} {z : State} (s : State) (ch row : Nat) {tK : State} (eK : s.rowStart ch row = some tK) (hK : Keep β ρ z s) :
    Keep β ρ z tK := by
  unfold State.rowStart at eK
  split at eK
  · exact keep_ringStart _ _ eK hK
  · exact keep_readStart _ _ _ eK hK
  · exact keep_relocStart _ _ _ eK hK
  · exact keep_readStart _ _ _ eK hK
  · exact keep_progData _ _ eK hK
  · split at eK
    · exact keep_relocStart _ _ _ eK hK
    · cases eK
  · split at eK
    · exact keep_relocStart _ _ _ eK hK
    · cases eK
  · cases eK

theorem keep_execFlashOpStart {β ρ : Bool} {z : State} (ch : Nat) (s : State) (hK : Keep β ρ z s) {tK : State} (eK : execFlashOpStart ch s = .next tK) :
    Keep β ρ z tK := by
  unfold execFlashOpStart at eK; simp only [Host.Outcome.next.injEq] at eK; subst eK
  cases e : (s.rowOrder ch).findSome? (s.rowStart ch) with
  | none => exact hK
  | some t =>
    obtain ⟨row, -, h⟩ := List.exists_of_findSome?_eq_some e
    exact keep_rowStart _ _ _ h hK

theorem keep_execDieFail {β ρ : Bool} {z : State} (die : Nat) (s : State) (hK : Keep β ρ z s) {tK : State} (eK : execDieFail die s = .next tK) :
    Keep β ρ z tK := by
  unfold execDieFail at eK; simp only [Host.Outcome.next.injEq] at eK; subst eK; grind (ematch := 40) (gen := 40) (splits := 40) [keep_dieFails, keep_flashSettle]

theorem rebuildLine_sb (f : Flm) (stip : Bool) (line : Nat) : (f.rebuildLine stip line).sb = f.sb := by unfold Flm.rebuildLine; split <;> rfl

theorem keep_execMapRebuild {β ρ : Bool} {z : State} (e : LineRead) (s : State) (hK : Keep β ρ z s) {tK : State} (eK : execMapRebuild e s = .next tK) :
    Keep β ρ z tK := by
  unfold execMapRebuild at eK; simp only [Host.Outcome.next.injEq] at eK; subst eK
  have h : Keep β ρ z (State.rasRecord { s with flm := s.flm.rebuildLine e.stip e.line } flmPage 0x06 0 0 e.line) :=
    keep_rasRecord _ _ _ _ _ _ (keep_mk hK rfl rfl ⟨rfl, rfl, rfl, rfl, rfl, rfl, rfl, rfl⟩ (by rw [rebuildLine_sb]; exact id))
  split <;> split <;> first | exact hK | exact h

theorem foundDies_sb (g : FoundDie → Die → Die) (l : List FoundDie) (f : Flm) :
    (l.foldl (fun (f : Flm) d => f.updDie (foundKey d) (g d)) f).sb = f.sb := by
  induction l generalizing f with
  | nil => rfl
  | cons x l ih => rw [List.foldl_cons, ih]; rfl

theorem discover_sb (f : Flm) (l : List FoundDie) : (f.discover l).sb = f.sb := by
  unfold Flm.discover; exact foundDies_sb _ l _

theorem keep_flashDiscover {β ρ : Bool} {z : State} (s : State) (f : FlashFound) (hK : Keep β ρ z s) :
    Keep β ρ z (State.flashDiscover s f) := by
  unfold State.flashDiscover
  simp only []
  refine keep_foldl _ _ _ (keep_foldl _ _ _ (keep_mk hK rfl rfl ⟨rfl, rfl, rfl, rfl, rfl, rfl, rfl, rfl⟩ (tables_sbMap fun h => ?_)) fun s c h => ?_) fun s g h => ?_
  · simp only [discover_sb]; exact h
  · split
    · exact keep_rasRecord _ _ _ _ _ _ h
    · exact h
  · split
    · exact keep_raise _ _ _ h
    · exact h

theorem formRow_rising (f : Flm) (row : Nat) (h : f.sb.rising) : (f.formRow row).sb.rising := by
  unfold Flm.formRow
  exact flmFoldl_rising _ _ _ (flmFoldl_rising _ _ _ h fun f x h => updSb_rising _ _ _ h) fun f x h => form_rising _ _ h

theorem fillPool_rising (n : Nat) (l : List Nat) (f : Flm) (h : f.sb.rising) : (Flm.fillPool n l f).sb.rising := by
  induction n generalizing l f with
  | zero => exact h
  | succ n ih =>
    cases l with
    | nil => exact h
    | cons r rs =>
      unfold Flm.fillPool; split
      · exact h
      · split
        · exact ih _ _ (fillSlc_rising _ _ h)
        · exact ih _ _ h

theorem formMeta_rising (f : Flm) (j k : Nat) (h : f.sb.rising) : (f.formMeta j k).sb.rising := by
  unfold Flm.formMeta; split
  · exact h
  · exact flmFoldl_rising _ _ _ h fun f x h => updSb_rising _ _ _ h

theorem keep_flashCapacity {β ρ : Bool} {z : State} (s : State) (hK : Keep β ρ z s) :
    Keep β ρ z (State.flashCapacity s) := by
  unfold State.flashCapacity
  exact keep_mk hK rfl rfl ⟨rfl, rfl, rfl, rfl, rfl, rfl, rfl, rfl⟩ (tables_sbMap fun h =>
    fillPool_rising _ _ _ (formMeta_rising _ _ _ (flmFoldl_rising _ _ _ h fun f x h => formRow_rising _ _ h)))

theorem closeOpen_rising (f : Flm) (e : Nat × Sb) (h : f.sb.rising) : (f.closeOpen e).sb.rising := by
  unfold Flm.closeOpen; split
  · exact rising_sset _ _ _ h
  · exact rising_sset _ _ _ h
  · split
    · exact h
    · exact rising_sset _ _ _ h
  · exact h

theorem keep_restoreCopy {β ρ : Bool} {z : State} (s : State) (x : Nat × Nat × Nat) (hK : Keep β ρ z s) :
    Keep β ρ z (State.restoreCopy s x) := by
  unfold State.restoreCopy; grind (ematch := 40) (gen := 40) (splits := 40) [keep_mk]

theorem keep_flashReplay {β ρ : Bool} {z : State} (s : State) (hK : Keep β ρ z s) : Keep β ρ z (State.flashReplay s) := by
  unfold State.flashReplay
  refine keep_foldl _ _ _ ?_ fun s e h => keep_requeue _ _ h
  have h1 : Keep β ρ z (State.jrelease { s with flm := { s.flm with jwait := [] } }) :=
    keep_jrelease _ (keep_mk hK rfl rfl ⟨rfl, rfl, rfl, rfl, rfl, rfl, rfl, rfl⟩ id)
  generalize State.jrelease { s with flm := { s.flm with jwait := [] } } = u at h1
  have h2 : Keep β ρ z (s.flm.jpages.foldl (fun s p => p.recs.foldl (fun s x => s.applyRec x) s) { u with flm := { u.flm with jpages := [] } }) :=
    keep_foldl _ _ _ (keep_mk h1 rfl rfl ⟨rfl, rfl, rfl, rfl, rfl, rfl, rfl, rfl⟩ id) fun s p h => keep_foldl _ _ s h fun s r h => keep_applyRec s r h
  generalize s.flm.jpages.foldl (fun s p => p.recs.foldl (fun s x => s.applyRec x) s) { u with flm := { u.flm with jpages := [] } } = v at h2
  have h3 : Keep β ρ z (v.flm.dying.foldl (fun s x => s.restoreCopy x) v) := keep_foldl _ _ _ h2 fun s x h => keep_restoreCopy s x h
  exact keep_mk h3 rfl rfl ⟨rfl, rfl, rfl, rfl, rfl, rfl, rfl, rfl⟩ (tables_sbMap fun h => flmFoldl_rising _ _ _ h fun f x h => closeOpen_rising _ _ h)

theorem keep_evacuate {β ρ : Bool} {z : State} (s : State) (n : Nat) (hK : Keep β ρ z s) :
    Keep β ρ z (State.evacuate s n).1 := by
  unfold State.evacuate; grind (ematch := 40) (gen := 40) (splits := 40) [keep_journal, keep_journalSb, → keep_openSb, keep_mapCommit, keep_writeMedia, keep_mk, keep_foldl, tables_sb, updSb_sb]

theorem keep_finishDiscards {β ρ : Bool} {z : State} (s : State) (bad : List (Nat × List Nat × List Nat)) (hK : Keep β ρ z s) :
    Keep β ρ z (State.finishDiscards s bad) := by
  unfold State.finishDiscards; grind (ematch := 40) (gen := 40) (splits := 40) [keep_vacate, keep_eraseSb, keep_evacuate, keep_mk, keep_foldl]

theorem keep_keepOn {β ρ : Bool} {z : State} (s : State) (hK : Keep β ρ z s) :
    Keep β ρ z (State.keepOn s) := by
  unfold State.keepOn; grind (ematch := 40) (gen := 40) (splits := 40) [keep_bump, keep_mk, putArea_sb]

theorem keep_directoryRebuild {β ρ : Bool} {z : State} (s : State) (hK : Keep β ρ z s) :
    Keep β ρ z (State.directoryRebuild s) := by
  unfold State.directoryRebuild; grind (ematch := 40) (gen := 40) (splits := 40) [keep_keepOn, keep_bump, keep_raise, keep_fresh, keep_putHead, keep_unmapT2, keep_askMark, keep_setPset, keep_askRepair, keep_mk, keep_foldl, keep_pageClear, tables_noEntries]

theorem rising_formBank {b : Sparse Word} (v : Nat × Nat × Nat × Nat) (h : b.rising) : (formBank b v).rising :=
  rising_sset _ _ _ (rising_sset _ _ _ (rising_sset _ _ _ (rising_sset _ _ _ h)))

theorem keep_flashForm {ρ : Bool} {z : State} (s : State) (hK : Keep false ρ z s) : Keep false ρ z (State.flashForm s) := by
  unfold State.flashForm
  split
  · split
    · exact keep_mkBanks hK rfl rfl (fun h => ⟨h, Nat.le_refl _⟩) (fun h => tables_banks (rising_formBank _ h.2.1) (rising_formBank _ h.2.2.1) h.2.2.2.1 h)
    · exact hK
  · simp only []
    split
    · exact hK
    · exact keep_mk hK rfl rfl ⟨rfl, rfl, rfl, rfl, rfl, rfl, rfl, rfl⟩ (tables_sbMap fun _ => rising_nil)

theorem keep_execFlashRecovery {ρ : Bool} {z : State} (found : FlashFound) (s : State) (hK : Keep false ρ z s) {tK : State} (eK : execFlashRecovery found s = .next tK) :
    Keep false ρ z tK := by
  unfold execFlashRecovery at eK; simp only [Host.Outcome.next.injEq] at eK; subst eK; grind (ematch := 40) (gen := 40) (splits := 40) [keep_updMode, keep_spareCheck, keep_flashDiscover, keep_flashCapacity, keep_flashReplay, keep_finishDiscards, keep_directoryRebuild, keep_flashForm, keep_mk]

theorem keep_execDiscard {β ρ : Bool} {z : State} (id : Nat) (s : State) (hK : Keep β ρ z s) {tK : State} (eK : execDiscard id s = .next tK) :
    Keep β ρ z tK := by
  unfold execDiscard State.onNew at eK; simp only [Host.Outcome.next.injEq] at eK; subst eK; grind (ematch := 40) (gen := 40) (splits := 40) [keep_setRunning, keep_fail, keep_startCascade, keep_discardCheck, keep_mk]

theorem keep_vacateFoot {β ρ : Bool} {z : State} (s : State) (n : Nat) (hK : Keep β ρ z s) :
    Keep β ρ z (State.vacateFoot s n) := by
  unfold State.vacateFoot; grind (ematch := 40) (gen := 40) (splits := 40) [keep_vacate, keep_discardErased, keep_progEnd, keep_foldl, keep_mk, tables_sb, updSb_sb]

theorem keep_execDiscardRelocation {β ρ : Bool} {z : State} (id : Nat) (s : State) (hK : Keep β ρ z s) {tK : State} (eK : execDiscardRelocation id s = .next tK) :
    Keep β ρ z tK := by
  unfold execDiscardRelocation at eK; simp only [Host.Outcome.next.injEq] at eK; subst eK; grind (ematch := 40) (gen := 40) (splits := 40) [keep_journal, keep_discardCheck, keep_vacateFoot, keep_mk, keep_foldl]

theorem keep_planRefuse {β ρ : Bool} {z : State} (s : State) (id : Nat) (tenant : Nat) (os : List PlanObj) (hK : Keep β ρ z s) :
    Keep β ρ z (State.planRefuse s id tenant os) := by
  unfold State.planRefuse; grind (ematch := 40) (gen := 40) (splits := 40) [keep_countFull, keep_complete]

theorem keep_planRequest {β ρ : Bool} {z : State} (s : State) (tenant : Nat) (os : List PlanObj) (n t : Nat) (hK : Keep β ρ z s) :
    Keep β ρ z (s.planRequest tenant os n t).1 := by
  induction n generalizing s t with
  | zero => exact hK
  | succ n ih => unfold State.planRequest; grind (ematch := 40) (gen := 40) (splits := 40) [keep_mk, keep_foldl, → keep_request_fits, → keep_request_wait]

theorem keep_planMoves {β ρ : Bool} {z : State} (s : State) (id : Nat) (l : List PlanObj) {w : State} (_hw : Keep β ρ z w) {u : State}
    (e : s.planMoves id l = .ok u) (hK : Keep β ρ z s) : Keep β ρ z u := by
  induction l generalizing s with
  | nil => unfold State.planMoves at e; grind (ematch := 40) (gen := 40) (splits := 40) [keep_mk]
  | cons x l ih => unfold State.planMoves at e; grind (ematch := 40) (gen := 40) (splits := 40) [keep_setPref, → keep_beginMove]

theorem keep_planStart {β ρ : Bool} {z : State} (s : State) (l : Live) (m : Model) (os : List PlanObj) (spilled : Nat) (hK : Keep β ρ z s) :
    Keep β ρ z (State.planStart s l m os spilled) := by
  unfold State.planStart; grind (ematch := 40) (gen := 40) (splits := 40) [keep_bump, keep_raise, keep_setRunning, keep_fail, keep_setPlan, keep_planCheck, → keep_planMoves, keep_mk]

theorem keep_planFit {β ρ : Bool} {z : State} (s : State) (l : Live) (m : Model) (os : List PlanObj) (hK : Keep β ρ z s) :
    Keep β ρ z (State.planFit s l m os) := by
  unfold State.planFit; grind (ematch := 40) (gen := 40) (splits := 40) [keep_fail, keep_planRefuse, keep_planRequest, keep_planStart]

theorem keep_execPlanLoad {β ρ : Bool} {z : State} (id : Nat) (s : State) (hK : Keep β ρ z s) {tK : State} (eK : execPlanLoad id s = .next tK) :
    Keep β ρ z tK := by
  unfold execPlanLoad State.onNew at eK; simp only [Host.Outcome.next.injEq] at eK; subst eK; grind (ematch := 40) (gen := 40) (splits := 40) [keep_fail, keep_planFit]

theorem keep_execPlanUnload {β ρ : Bool} {z : State} (id : Nat) (s : State) (hK : Keep β ρ z s) {tK : State} (eK : execPlanUnload id s = .next tK) :
    Keep β ρ z tK := by
  unfold execPlanUnload State.onNew at eK; simp only [Host.Outcome.next.injEq] at eK; subst eK; grind (ematch := 40) (gen := 40) (splits := 40) [keep_setRunning, keep_fail, keep_done, keep_setPlan, keep_mk]

theorem keep_cacheTrim {β ρ : Bool} {z : State} (n : Nat) (s : State) (hK : Keep β ρ z s) :
    Keep β ρ z (State.cacheTrim n s) := by
  induction n generalizing s with
  | zero => exact hK
  | succ n ih => unfold State.cacheTrim; grind (ematch := 40) (gen := 40) (splits := 40) [keep_mk]

theorem keep_cacheAdd {β ρ : Bool} {z : State} (s : State) (i : Nat) (page : Nat) (hK : Keep β ρ z s) :
    Keep β ρ z (State.cacheAdd s i page) := by
  unfold State.cacheAdd; grind (ematch := 40) (gen := 40) (splits := 40) [keep_cacheTrim, keep_mk]

theorem keep_stepEnd {β ρ : Bool} {z : State} (s : State) (id : Nat) (st : Status) (hK : Keep β ρ z s) :
    Keep β ρ z (State.stepEnd s id st) := by
  unfold State.stepEnd; grind (ematch := 40) (gen := 40) (splits := 40) [keep_bump, keep_complete, keep_mk]

theorem keep_stepCheck {β ρ : Bool} {z : State} (s : State) (id : Nat) (hK : Keep β ρ z s) :
    Keep β ρ z (State.stepCheck s id) := by
  unfold State.stepCheck; grind (ematch := 40) (gen := 40) (splits := 40) [keep_at_, keep_stepEnd]

theorem keep_execPrefetchStep {β ρ : Bool} {z : State} (id : Nat) (s : State) (hK : Keep β ρ z s) {tK : State} (eK : execPrefetchStep id s = .next tK) :
    Keep β ρ z tK := by
  unfold execPrefetchStep State.onNew at eK; simp only [Host.Outcome.next.injEq] at eK; subst eK; grind (ematch := 40) (gen := 40) (splits := 40) [keep_count, keep_setRunning, keep_fail, keep_stepEnd, keep_stepCheck, keep_mk]

theorem keep_readRound {β ρ : Bool} {z : State} (s : State) (x : Step) (hK : Keep β ρ z s) :
    Keep β ρ z (State.readRound s x) := by
  unfold State.readRound; grind (ematch := 40) (gen := 40) (splits := 40) [keep_needPages, keep_mk, keep_foldl]

theorem keep_stepNext {β ρ : Bool} {z : State} (s : State) (id : Nat) (hK : Keep β ρ z s) :
    Keep β ρ z (State.stepNext s id) := by
  unfold State.stepNext; grind (ematch := 40) (gen := 40) (splits := 40) [keep_mk]

theorem keep_execPrefetchReadIssue {β ρ : Bool} {z : State} (id : Nat) (s : State) (hK : Keep β ρ z s) {tK : State} (eK : execPrefetchReadIssue id s = .next tK) :
    Keep β ρ z tK := by
  unfold execPrefetchReadIssue at eK; simp only [Host.Outcome.next.injEq] at eK; subst eK
  split
  · exact hK
  · split
    · exact hK
    · split
      · exact keep_stepCheck _ _ hK
      · split
        · exact keep_stepCheck _ _ (keep_stepNext _ _ hK)
        · split
          · exact hK
          · split
            · exact keep_raise _ _ _ hK
            · split
              · exact keep_stepNext _ _ (keep_readRound _ _ hK)
              · exact keep_readRound _ _ hK

theorem keep_execLayerResident {β ρ : Bool} {z : State} (id : Nat) (layer : Nat) (s : State) (hK : Keep β ρ z s) {tK : State} (eK : execLayerResident id layer s = .next tK) :
    Keep β ρ z tK := by
  unfold execLayerResident at eK; simp only [Host.Outcome.next.injEq] at eK; subst eK
  split
  · exact hK
  · split
    · exact hK
    · split
      · exact keep_stepCheck _ _ hK
      · split
        · exact hK
        · split
          · exact keep_stepCheck _ _ hK
          · split
            · exact keep_raise _ _ _ hK
            · exact keep_stepCheck _ _ (keep_mk hK rfl rfl ⟨rfl, rfl, rfl, rfl, rfl, rfl, rfl, rfl⟩ fun h => h)

theorem keep_updRepair {β ρ : Bool} {z : State} (s : State) (r : Repair) (f : Repair → Repair) (hK : Keep β ρ z s) :
    Keep β ρ z (State.updRepair s r f) := by
  unfold State.updRepair; grind (ematch := 40) (gen := 40) (splits := 40) [keep_mk]

theorem keep_dropRepair {β ρ : Bool} {z : State} (s : State) (r : Repair) (hK : Keep β ρ z s) :
    Keep β ρ z (State.dropRepair s r) := by
  unfold State.dropRepair; grind (ematch := 40) (gen := 40) (splits := 40) [keep_mk]

theorem keep_repairSend {β ρ : Bool} {z : State} (s : State) (r : Repair) (rs : Nat) (q : Nat) (hK : Keep β ρ z s) :
    Keep β ρ z (State.repairSend s r rs q) := by
  unfold State.repairSend; grind (ematch := 40) (gen := 40) (splits := 40) [keep_setConn, keep_post, keep_updRepair, keep_mk]

theorem keep_repairNeeded {β ρ : Bool} {z : State} (s : State) (r : Repair) (hK : Keep β ρ z s) :
    Keep β ρ z (State.repairNeeded s r) := by
  unfold State.repairNeeded; grind (ematch := 40) (gen := 40) (splits := 40) [keep_raise, keep_lastPoison, keep_dropRepair]

theorem keep_execRepairRequest {β ρ : Bool} {z : State} (slot : Nat) (s : State) (hK : Keep β ρ z s) {tK : State} (eK : execRepairRequest slot s = .next tK) :
    Keep β ρ z tK := by
  unfold execRepairRequest at eK; simp only [Host.Outcome.next.injEq] at eK; subst eK; grind (ematch := 40) (gen := 40) (splits := 40) [keep_repairSend, keep_repairNeeded]

theorem keep_repairFails {β ρ : Bool} {z : State} (s : State) (r : Repair) (hK : Keep β ρ z s) :
    Keep β ρ z (State.repairFails s r) := by
  unfold State.repairFails; grind (ematch := 40) (gen := 40) (splits := 40) [keep_count, keep_lastPoison, keep_updRepair, keep_dropRepair, keep_mk]

theorem keep_repairDone {β ρ : Bool} {z : State} (s : State) (r : Repair) (bs : List Byte) (hK : Keep β ρ z s) :
    Keep β ρ z (State.repairDone s r bs) := by
  unfold State.repairDone; grind (ematch := 40) (gen := 40) (splits := 40) [keep_raise, keep_count, keep_setSlot, keep_dirUpdate, keep_setPset, keep_writePage, keep_rewritePage, keep_dropRepair, keep_mk, keep_foldl]

theorem keep_execRepairResponse {β ρ : Bool} {z : State} (slot : Nat) (s : State) (hK : Keep β ρ z s) {tK : State} (eK : execRepairResponse slot s = .next tK) :
    Keep β ρ z tK := by
  unfold execRepairResponse at eK; simp only [Host.Outcome.next.injEq] at eK; subst eK; grind (ematch := 40) (gen := 40) (splits := 40) [keep_setConn, keep_repairFails, keep_repairDone, keep_mk]

theorem keep_execRepairTimeout {β ρ : Bool} {z : State} (slot : Nat) (t : Nat) (s : State) (hK : Keep β ρ z s) {tK : State} (eK : execRepairTimeout slot t s = .next tK) :
    Keep β ρ z tK := by
  unfold execRepairTimeout at eK; simp only [Host.Outcome.next.injEq] at eK; subst eK; grind (ematch := 40) (gen := 40) (splits := 40) [keep_at_, keep_repairFails]

theorem keep_execRepairRetry {β ρ : Bool} {z : State} (slot : Nat) (t : Nat) (s : State) (hK : Keep β ρ z s) {tK : State} (eK : execRepairRetry slot t s = .next tK) :
    Keep β ρ z tK := by
  unfold execRepairRetry at eK; simp only [Host.Outcome.next.injEq] at eK; subst eK; grind (ematch := 40) (gen := 40) (splits := 40) [keep_at_, keep_repairNeeded, keep_repairSend]

end Sys2Proof.Machine
end

