-- ==== Sys2Proof/Laws/KeepEngines.lean ====
section
/-! SUPPORT. The lemmas of KeepBase for the operations and meanings of Engines, Npa, Dma, Media. -/

namespace Sys2Proof.Machine

theorem keep_setCore {β ρ : Bool} {z : State} (s : State) (c : Nat) (v : Core) (hK : Keep β ρ z s) :
    Keep β ρ z (State.setCore s c v) := by
  unfold State.setCore; grind (ematch := 40) (gen := 40) (splits := 40) [keep_mk]

theorem keep_setEngine {β ρ : Bool} {z : State} (s : State) (c : Nat) (e : Nat) (v : Eng) (hK : Keep β ρ z s) :
    Keep β ρ z (State.setEngine s c e v) := by
  unfold State.setEngine; grind (ematch := 40) (gen := 40) (splits := 40) [keep_mk]

theorem keep_updJob {β ρ : Bool} {z : State} (s : State) (id : Nat) (f : Job → Job) (hK : Keep β ρ z s) :
    Keep β ρ z (State.updJob s id f) := by
  unfold State.updJob; grind (ematch := 40) (gen := 40) (splits := 40) [keep_mk]

theorem keep_failReq {β ρ : Bool} {z : State} (s : State) (id : Nat) (r : Nat) (st : Status) (hK : Keep β ρ z s) :
    Keep β ρ z (State.failReq s id r st) := by
  unfold State.failReq; grind (ematch := 40) (gen := 40) (splits := 40) [keep_count, keep_updJob, keep_mk]

theorem keep_failAEnt {β ρ : Bool} {z : State} (s : State) (id : Nat) (i : Nat) (st : Status) (hK : Keep β ρ z s) :
    Keep β ρ z (State.failAEnt s id i st) := by
  unfold State.failAEnt; grind (ematch := 40) (gen := 40) (splits := 40) [keep_count, keep_updJob, keep_mk]

theorem keep_jobFinish {β ρ : Bool} {z : State} (s : State) (id : Nat) (st : Option Status) (hK : Keep β ρ z s) :
    Keep β ρ z (State.jobFinish s id st) := by
  unfold State.jobFinish; grind (ematch := 40) (gen := 40) (splits := 40) [keep_bump, keep_complete, keep_mk]

theorem keep_blockMade {β ρ : Bool} {z : State} (s : State) (id : Nat) (tag : Nat) (recs : List Rec) (hK : Keep β ρ z s) :
    Keep β ρ z (State.blockMade s id tag recs) := by
  unfold State.blockMade; grind (ematch := 40) (gen := 40) (splits := 40) [keep_updJob]

theorem keep_countNan {β ρ : Bool} {z : State} (s : State) (n : Nat) (hK : Keep β ρ z s) : Keep β ρ z (State.countNan s n) := by
  unfold State.countNan; grind (ematch := 40) (gen := 40) (splits := 40) [keep_bump, keep_raise]

theorem keep_jobSend {β ρ : Bool} {z : State} (s : State) (j : Job) (hK : Keep β ρ z s) :
    Keep β ρ z (State.jobSend s j) := by
  unfold State.jobSend; grind (ematch := 40) (gen := 40) (splits := 40) [keep_undefHost, keep_countNan, → keep_workWrite, keep_post, keep_linWrite, keep_recPoint, keep_updJob, keep_jobFinish, keep_mk]

theorem keep_stageLoop {β ρ : Bool} {z : State} (n : Nat) (s : State) (hK : Keep β ρ z s) :
    Keep β ρ z (State.stageLoop n s) := by
  induction n generalizing s with
  | zero => exact hK
  | succ n ih => unfold State.stageLoop; grind (ematch := 40) (gen := 40) (splits := 40) [keep_mk, keep_foldl, keep_jobSend]

theorem keep_countStageWaits {β ρ : Bool} {z : State} (s : State) (hK : Keep β ρ z s) :
    Keep β ρ z (State.countStageWaits s) := by
  unfold State.countStageWaits; grind (ematch := 40) (gen := 40) (splits := 40) [keep_bump, keep_raise, keep_mk]

theorem keep_stageCheck {β ρ : Bool} {z : State} (s : State) (hK : Keep β ρ z s) :
    Keep β ρ z (State.stageCheck s) := by
  unfold State.stageCheck; grind (ematch := 40) (gen := 40) (splits := 40) [keep_stageLoop, keep_countStageWaits]

theorem keep_jobEnd {β ρ : Bool} {z : State} (s : State) (id : Nat) (st : Option Status) (hK : Keep β ρ z s) :
    Keep β ρ z (State.jobEnd s id st) := by
  unfold State.jobEnd; grind (ematch := 40) (gen := 40) (splits := 40) [keep_jobFinish, keep_stageCheck]

theorem keep_tagTake {β ρ : Bool} {z : State} (s : State) (tag : Nat) (n : Nat) (hK : Keep β ρ z s) :
    Keep β ρ z (State.tagTake s tag n) := by
  unfold State.tagTake; grind (ematch := 40) (gen := 40) (splits := 40) [keep_count, keep_at_, keep_mk]

theorem keep_satisfy {β ρ : Bool} {z : State} (s : State) (w : Waiter) (hK : Keep β ρ z s) :
    Keep β ρ z (State.satisfy s w) := by
  unfold State.satisfy; grind (ematch := 40) (gen := 40) (splits := 40) [keep_acceptRun, keep_updJob, keep_mk]

theorem keep_tagTest {β ρ : Bool} {z : State} (s : State) (tag : Nat) (hK : Keep β ρ z s) :
    Keep β ρ z (State.tagTest s tag) := by
  unfold State.tagTest; grind (ematch := 40) (gen := 40) (splits := 40) [keep_tagTake, keep_satisfy, keep_foldl]

theorem keep_askPages {β ρ : Bool} {z : State} (s : State) (id : Nat) (hK : Keep β ρ z s) :
    Keep β ρ z (State.askPages s id) := by
  unfold State.askPages; grind (ematch := 40) (gen := 40) (splits := 40) [keep_needPages, keep_foldl]

theorem keep_pageLand {β ρ : Bool} {z : State} (s : State) (j : Job) (l : Live) (w : Nat × Nat × List Byte) (hK : Keep β ρ z s) :
    Keep β ρ z (State.pageLand s j l w) := by
  unfold State.pageLand; grind (ematch := 40) (gen := 40) (splits := 40) [keep_writePage, keep_linWrite, keep_failAEnt]

theorem keep_pageFlush {β ρ : Bool} {z : State} (s : State) (id : Nat) (hK : Keep β ρ z s) :
    Keep β ρ z (State.pageFlush s id) := by
  unfold State.pageFlush; grind (ematch := 40) (gen := 40) (splits := 40) [keep_pageLand, keep_foldl]

theorem keep_opsDone {β ρ : Bool} {z : State} (s : State) (j : Job) (l : Live) (hK : Keep β ρ z s) :
    Keep β ρ z (State.opsDone s j l) := by
  unfold State.opsDone; grind (ematch := 40) (gen := 40) (splits := 40) [keep_updJob, keep_blockMade, keep_stageCheck, keep_jobEnd, keep_tagTest, keep_pageFlush, keep_mk]

theorem keep_jobAdvance {β ρ : Bool} {z : State} (s : State) (id : Nat) (hK : Keep β ρ z s) :
    Keep β ρ z (State.jobAdvance s id) := by
  unfold State.jobAdvance; grind (ematch := 40) (gen := 40) (splits := 40) [keep_jobEnd, keep_updJob, keep_askPages, keep_opsDone, keep_mk]

theorem keep_mergeEnd {β ρ : Bool} {z : State} (s : State) (id : Nat) (hK : Keep β ρ z s) :
    Keep β ρ z (State.mergeEnd s id) := by
  unfold State.mergeEnd; grind (ematch := 40) (gen := 40) (splits := 40) [keep_bump, keep_updJob, keep_blockMade, keep_stageCheck, keep_jobEnd, keep_mk, keep_foldl]

theorem keep_pick {β ρ : Bool} {z : State} (s : State) (hK : Keep β ρ z s) :
    Keep β ρ z (State.pick s) := by
  unfold State.pick; grind (ematch := 40) (gen := 40) (splits := 40) [keep_mk]

theorem keep_loadOp {β ρ : Bool} {z : State} (s : State) (id : Nat) (hK : Keep β ρ z s) :
    Keep β ρ z (State.loadOp s id).1 := by
  unfold State.loadOp; grind (ematch := 40) (gen := 40) (splits := 40) [keep_updJob, keep_jobEnd, keep_mk]

theorem keep_selectLoop {β ρ : Bool} {z : State} (n : Nat) (s : State) (hK : Keep β ρ z s) :
    Keep β ρ z (State.selectLoop n s) := by
  induction n generalizing s with
  | zero => unfold State.selectLoop; grind (ematch := 40) (gen := 40) (splits := 40) [keep_mk]
  | succ n ih => unfold State.selectLoop; grind (ematch := 40) (gen := 40) (splits := 40) [keep_pick, keep_loadOp]

theorem keep_select {β ρ : Bool} {z : State} (s : State) (hK : Keep β ρ z s) :
    Keep β ρ z (State.select s) := by
  unfold State.select; grind (ematch := 40) (gen := 40) (splits := 40) [keep_selectLoop, keep_mk]

theorem keep_reselect {β ρ : Bool} {z : State} (s : State) (hK : Keep β ρ z s) :
    Keep β ρ z (State.reselect s) := by
  unfold State.reselect; grind (ematch := 40) (gen := 40) (splits := 40) [keep_select]

theorem keep_opPoison {β ρ : Bool} {z : State} (s : State) (j : Job) (op : Oper) (hK : Keep β ρ z s) :
    Keep β ρ z (State.opPoison s j op) := by
  unfold State.opPoison; grind (ematch := 40) (gen := 40) (splits := 40) [keep_failReq, keep_failAEnt, keep_foldl]

theorem keep_startOp {β ρ : Bool} {z : State} (s : State) (id : Nat) (hK : Keep β ρ z s) :
    Keep β ρ z (State.startOp s id) := by
  unfold State.startOp; grind (ematch := 40) (gen := 40) (splits := 40) [keep_bump, keep_bump64, keep_at_, keep_touchPset, keep_updJob, keep_jobEnd, keep_select, keep_opPoison, keep_mk, keep_foldl]

theorem keep_setVcore {β ρ : Bool} {z : State} (s : State) (mv : Nat) (hK : Keep β ρ z s) :
    Keep β ρ z (State.setVcore s mv) := by
  unfold State.setVcore; grind (ematch := 40) (gen := 40) (splits := 40) [keep_mk]

theorem keep_clockStep {β ρ : Bool} {z : State} (s : State) (hK : Keep β ρ z s) :
    Keep β ρ z (State.clockStep s) := by
  unfold State.clockStep; grind (ematch := 40) (gen := 40) (splits := 40) [keep_count, keep_setVcore, keep_mk]

theorem keep_brnApply {β ρ : Bool} {z : State} (s : State) (hK : Keep β ρ z s) :
    Keep β ρ z (State.brnApply s) := by
  unfold State.brnApply; grind (ematch := 40) (gen := 40) (splits := 40) [keep_setCore, keep_mk, keep_foldl]

theorem keep_betweenOps {β ρ : Bool} {z : State} (s : State) (hK : Keep β ρ z s) :
    Keep β ρ z (State.betweenOps s) := by
  unfold State.betweenOps; grind (ematch := 40) (gen := 40) (splits := 40) [keep_clockStep, keep_brnApply]

theorem keep_askHeads {β ρ : Bool} {z : State} (s : State) (hK : Keep β ρ z s) :
    Keep β ρ z (State.askHeads s) := by
  unfold State.askHeads; grind (ematch := 40) (gen := 40) (splits := 40) [keep_askPages, keep_foldl]

theorem keep_execOperationStart {β ρ : Bool} {z : State} (s : State) (hK : Keep β ρ z s) {tK : State} (eK : execOperationStart s = .next tK) :
    Keep β ρ z tK := by
  unfold execOperationStart at eK; simp only [Host.Outcome.next.injEq] at eK; subst eK; grind (ematch := 40) (gen := 40) (splits := 40) [keep_select, keep_startOp, keep_betweenOps, keep_askHeads]

theorem keep_execTileEnd {β ρ : Bool} {z : State} (core : Nat) (eng : Nat) (s : State) (hK : Keep β ρ z s) {tK : State} (eK : execTileEnd core eng s = .next tK) :
    Keep β ρ z tK := by
  unfold execTileEnd at eK; simp only [Host.Outcome.next.injEq] at eK; subst eK; grind (ematch := 40) (gen := 40) (splits := 40) [keep_bump, keep_bump64, keep_count, keep_rasRecord, keep_setCore, keep_mk]

theorem keep_pageResult {β ρ : Bool} {z : State} (s : State) (j : Job) (kind : OpKind) (t : Tile) (hK : Keep β ρ z s) :
    Keep β ρ z (State.pageResult s j kind t) := by
  unfold State.pageResult; grind (ematch := 40) (gen := 40) (splits := 40) [keep_updJob, keep_mk]

theorem keep_opResult {β ρ : Bool} {z : State} (s : State) (u : Running) (hK : Keep β ρ z s) :
    Keep β ρ z (State.opResult s u) := by
  unfold State.opResult; grind (ematch := 40) (gen := 40) (splits := 40) [keep_updJob, keep_mergeEnd, keep_pageResult, keep_mk]

theorem keep_runEnd {β ρ : Bool} {z : State} (s : State) (u : Running) (hK : Keep β ρ z s) :
    Keep β ρ z (State.runEnd s u) := by
  unfold State.runEnd; grind (ematch := 40) (gen := 40) (splits := 40) [keep_at_, keep_mk]

theorem keep_execOperationBoundary {β ρ : Bool} {z : State} (t : Nat) (s : State) (hK : Keep β ρ z s) {tK : State} (eK : execOperationBoundary t s = .next tK) :
    Keep β ρ z tK := by
  unfold execOperationBoundary at eK; simp only [Host.Outcome.next.injEq] at eK; subst eK; grind (ematch := 40) (gen := 40) (splits := 40) [keep_bump64, keep_at_, keep_jobAdvance, keep_betweenOps, keep_opResult, keep_runEnd, keep_mk]

theorem keep_abortRun {β ρ : Bool} {z : State} (s : State) (hK : Keep β ρ z s) :
    Keep β ρ z (State.abortRun s) := by
  unfold State.abortRun; grind (ematch := 40) (gen := 40) (splits := 40) [keep_jobEnd, keep_runEnd, keep_mk]

theorem keep_sramUe {β ρ : Bool} {z : State} (s : State) (c : Nat) (hK : Keep β ρ z s) :
    Keep β ρ z (State.sramUe s c) := by
  unfold State.sramUe; grind (ematch := 40) (gen := 40) (splits := 40) [keep_count, keep_rasRecord]

theorem keep_failCore {β ρ : Bool} {z : State} (s : State) (c : Nat) (cause : Nat) (hK : Keep β ρ z s) :
    Keep β ρ z (State.failCore s c cause) := by
  unfold State.failCore; grind (ematch := 40) (gen := 40) (splits := 40) [keep_raise, keep_count, keep_rasRecord, keep_setCore, keep_abortRun, keep_sramUe, keep_mk]

theorem keep_replayTiles {β ρ : Bool} {z : State} (s : State) (c : Nat) (e : Nat) (hK : Keep β ρ z s) :
    Keep β ρ z (State.replayTiles s c e) := by
  unfold State.replayTiles; grind (ematch := 40) (gen := 40) (splits := 40) [keep_bump, keep_abortRun, keep_mk]

theorem keep_failEngineOf {β ρ : Bool} {z : State} (s : State) (c : Nat) (e : Nat) (cause : Nat) (hK : Keep β ρ z s) :
    Keep β ρ z (State.failEngineOf s c e cause) := by
  unfold State.failEngineOf; grind (ematch := 40) (gen := 40) (splits := 40) [keep_raise, keep_rasRecord, keep_setCore, keep_setEngine, keep_sramUe, keep_failCore, keep_replayTiles, keep_mk]

theorem keep_execEngineFail {β ρ : Bool} {z : State} (core : Nat) (eng : Nat) (cause : Nat) (s : State) (hK : Keep β ρ z s) {tK : State} (eK : execEngineFail core eng cause s = .next tK) :
    Keep β ρ z tK := by
  unfold execEngineFail at eK; simp only [Host.Outcome.next.injEq] at eK; subst eK; grind (ematch := 40) (gen := 40) (splits := 40) [keep_failEngineOf]

theorem keep_execEngineWatchdog {β ρ : Bool} {z : State} (core : Nat) (eng : Nat) (t : Nat) (s : State) (hK : Keep β ρ z s) {tK : State} (eK : execEngineWatchdog core eng t s = .next tK) :
    Keep β ρ z tK := by
  unfold execEngineWatchdog at eK; simp only [Host.Outcome.next.injEq] at eK; subst eK; grind (ematch := 40) (gen := 40) (splits := 40) [keep_at_, keep_failEngineOf]

theorem keep_execPeriodicSelfTest {β ρ : Bool} {z : State} (core : Nat) (eng : Nat) (t : Nat) (s : State) (hK : Keep β ρ z s) {tK : State} (eK : execPeriodicSelfTest core eng t s = .next tK) :
    Keep β ρ z tK := by
  unfold execPeriodicSelfTest at eK; simp only [Host.Outcome.next.injEq] at eK; subst eK; grind (ematch := 40) (gen := 40) (splits := 40) [keep_at_, keep_setEngine, keep_mk]

theorem keep_execSelfTestEnd {β ρ : Bool} {z : State} (core : Nat) (eng : Nat) (t : Nat) (pass : Bool) (s : State) (hK : Keep β ρ z s) {tK : State} (eK : execSelfTestEnd core eng t pass s = .next tK) :
    Keep β ρ z tK := by
  unfold execSelfTestEnd at eK; simp only [Host.Outcome.next.injEq] at eK; subst eK; grind (ematch := 40) (gen := 40) (splits := 40) [keep_bump, keep_at_, keep_setEngine, keep_failEngineOf, keep_mk]

theorem keep_execCoreFail {β ρ : Bool} {z : State} (core : Nat) (cause : Nat) (s : State) (hK : Keep β ρ z s) {tK : State} (eK : execCoreFail core cause s = .next tK) :
    Keep β ρ z tK := by
  unfold execCoreFail at eK; simp only [Host.Outcome.next.injEq] at eK; subst eK; grind (ematch := 40) (gen := 40) (splits := 40) [keep_failCore]

theorem keep_forceEngines {β ρ : Bool} {z : State} (s : State) (core : Nat) (mask : Word) (hK : Keep β ρ z s) :
    Keep β ρ z (State.forceEngines s core mask) := by
  unfold State.forceEngines; grind (ematch := 40) (gen := 40) (splits := 40) [keep_failEngineOf, keep_foldl]

theorem keep_execFailEngine {β ρ : Bool} {z : State} (src : Src) (core : Nat) (mask : Word) (s : State) (hK : Keep β ρ z s) {tK : State} (eK : execFailEngine src core mask s = .next tK) :
    Keep β ρ z tK := by
  unfold execFailEngine at eK; simp only [Host.Outcome.next.injEq] at eK; subst eK; grind (ematch := 40) (gen := 40) (splits := 40) [keep_forceEngines]

theorem keep_execFailCore {β ρ : Bool} {z : State} (src : Src) (core : Nat) (s : State) (hK : Keep β ρ z s) {tK : State} (eK : execFailCore src core s = .next tK) :
    Keep β ρ z tK := by
  unfold execFailCore at eK; simp only [Host.Outcome.next.injEq] at eK; subst eK; grind (ematch := 40) (gen := 40) (splits := 40) [keep_failCore]

theorem keep_execBrnInject {β ρ : Bool} {z : State} (src : Src) (core : Nat) (s : State) (hK : Keep β ρ z s) {tK : State} (eK : execBrnInject src core s = .next tK) :
    Keep β ρ z tK := by
  unfold execBrnInject at eK; simp only [Host.Outcome.next.injEq] at eK; subst eK; grind (ematch := 40) (gen := 40) (splits := 40) [keep_setCore, keep_mk]

theorem keep_execMergeTimeout {β ρ : Bool} {z : State} (id : Nat) (t : Nat) (s : State) (hK : Keep β ρ z s) {tK : State} (eK : execMergeTimeout id t s = .next tK) :
    Keep β ρ z tK := by
  unfold execMergeTimeout at eK; simp only [Host.Outcome.next.injEq] at eK; subst eK; grind (ematch := 40) (gen := 40) (splits := 40) [keep_count, keep_at_, keep_jobEnd]

theorem keep_jobsResume {β ρ : Bool} {z : State} (s : State) (hK : Keep β ρ z s) :
    Keep β ρ z (State.jobsResume s) := by
  unfold State.jobsResume; grind (ematch := 40) (gen := 40) (splits := 40) [keep_stageCheck]

theorem keep_npaFail {β ρ : Bool} {z : State} (s : State) (id : Nat) (st : Status) (hK : Keep β ρ z s) :
    Keep β ρ z (State.npaFail s id st) := by
  unfold State.npaFail; grind (ematch := 40) (gen := 40) (splits := 40) [keep_bump, keep_complete]

theorem keep_reqViews {β ρ : Bool} {z : State} (s : State) (l : Live) (o : Option Nat) (rs : List (Nat × Nat × Nat))
    (hK : Keep β ρ z s) : Keep β ρ z (s.reqViews l o rs).1 := by
  induction rs generalizing s o with
  | nil => unfold State.reqViews; exact hK
  | cons x rs ih => unfold State.reqViews; grind (ematch := 40) (gen := 40) (splits := 40) [keep_mk, keep_foldl, keep_viewFor]

theorem keep_jobStart {β ρ : Bool} {z : State} (s : State) (j : Job) (psets : List Nat) (hK : Keep β ρ z s) :
    Keep β ρ z (State.jobStart s j psets) := by
  unfold State.jobStart; grind (ematch := 40) (gen := 40) (splits := 40) [keep_bump, keep_raise, keep_setRunning, keep_askPages, keep_jobAdvance, keep_mk]

theorem keep_noModel {β ρ : Bool} {z : State} (s : State) (id : Nat) (sts : List Status) (hK : Keep β ρ z s) :
    Keep β ρ z (State.noModel s id sts) := by
  unfold State.noModel; grind (ematch := 40) (gen := 40) (splits := 40) [keep_bump, keep_raise, keep_complete]

theorem keep_attendJob {β ρ : Bool} {z : State} (s : State) (l : Live) (par : List Word) (sparse : Bool) (m : Model) (es : List RawEnt) (reqs : List (Nat × Nat × Nat)) (snaps : List (Option Nat)) (hK : Keep β ρ z s) :
    Keep β ρ z (State.attendJob s l par sparse m es reqs snaps) := by
  unfold State.attendJob; grind (ematch := 40) (gen := 40) (splits := 40) [keep_npaFail, keep_jobStart, keep_mk]

theorem keep_attendStart {β ρ : Bool} {z : State} (s : State) (l : Live) (sparse : Bool) (hK : Keep β ρ z s) :
    Keep β ρ z (State.attendStart s l sparse) := by
  unfold State.attendStart; grind (ematch := 40) (gen := 40) (splits := 40) [keep_npaFail, keep_noModel, keep_reqViews, keep_attendJob]

theorem keep_execAttend {β ρ : Bool} {z : State} (id : Nat) (s : State) (hK : Keep β ρ z s) {tK : State} (eK : execAttend id s = .next tK) :
    Keep β ρ z tK := by
  unfold execAttend State.onNew at eK; simp only [Host.Outcome.next.injEq] at eK; subst eK; grind (ematch := 40) (gen := 40) (splits := 40) [keep_attendStart]

theorem keep_execAttendSparse {β ρ : Bool} {z : State} (id : Nat) (s : State) (hK : Keep β ρ z s) {tK : State} (eK : execAttendSparse id s = .next tK) :
    Keep β ρ z tK := by
  unfold execAttendSparse State.onNew at eK; simp only [Host.Outcome.next.injEq] at eK; subst eK; grind (ematch := 40) (gen := 40) (splits := 40) [keep_attendStart]

theorem keep_pageJob {β ρ : Bool} {z : State} (s : State) (l : Live) (c : PageCmd) (par : List Word) (m : Model) (layers : List Nat) (es : List RawEnt) (snap : Option Nat) (hK : Keep β ρ z s) :
    Keep β ρ z (State.pageJob s l c par m layers es snap) := by
  unfold State.pageJob; grind (ematch := 40) (gen := 40) (splits := 40) [keep_npaFail, keep_jobStart, keep_mk]

theorem keep_pageStart {β ρ : Bool} {z : State} (s : State) (l : Live) (c : PageCmd) (par : List Word) (hK : Keep β ρ z s) :
    Keep β ρ z (State.pageStart s l c par) := by
  unfold State.pageStart; grind (ematch := 40) (gen := 40) (splits := 40) [keep_viewFor, keep_npaFail, keep_noModel, keep_pageJob]

theorem keep_pageCommand {β ρ : Bool} {z : State} (s : State) (id : Nat) (op : Nat) (which : Nat → Option PageCmd) (hK : Keep β ρ z s) :
    Keep β ρ z (State.pageCommand s id op which) := by
  unfold State.pageCommand State.onNew; grind (ematch := 40) (gen := 40) (splits := 40) [keep_npaFail, keep_pageStart]

theorem keep_execRerotate {β ρ : Bool} {z : State} (id : Nat) (s : State) (hK : Keep β ρ z s) {tK : State} (eK : execRerotate id s = .next tK) :
    Keep β ρ z tK := by
  unfold execRerotate at eK; simp only [Host.Outcome.next.injEq] at eK; subst eK; grind (ematch := 40) (gen := 40) (splits := 40) [keep_pageCommand]

theorem keep_execRepackConvert {β ρ : Bool} {z : State} (id : Nat) (s : State) (hK : Keep β ρ z s) {tK : State} (eK : execRepackConvert id s = .next tK) :
    Keep β ρ z tK := by
  unfold execRepackConvert at eK; simp only [Host.Outcome.next.injEq] at eK; subst eK; grind (ematch := 40) (gen := 40) (splits := 40) [keep_pageCommand]

theorem keep_execRepackLandmark {β ρ : Bool} {z : State} (id : Nat) (s : State) (hK : Keep β ρ z s) {tK : State} (eK : execRepackLandmark id s = .next tK) :
    Keep β ρ z tK := by
  unfold execRepackLandmark at eK; simp only [Host.Outcome.next.injEq] at eK; subst eK; grind (ematch := 40) (gen := 40) (splits := 40) [keep_pageCommand]

theorem keep_dlvPageFails {β ρ : Bool} {z : State} (s : State) (i : Nat) (page : Nat) (st : Status) (hK : Keep β ρ z s) :
    Keep β ρ z (State.dlvPageFails s i page st) := by
  unfold State.dlvPageFails; grind (ematch := 40) (gen := 40) (splits := 40) [keep_failEnt, keep_foldl]

theorem keep_jobPageFails {β ρ : Bool} {z : State} (s : State) (i page : Nat) (st : Status) (hK : Keep β ρ z s) :
    Keep β ρ z (s.jobPageFails i page st) := by
  unfold State.jobPageFails
  refine keep_foldl _ _ _ hK fun s j h => keep_foldl _ _ _ h fun s t h => ?_
  split
  · exact keep_foldl _ _ _ h fun s x h => keep_failReq _ _ _ _ h
  · exact keep_failAEnt _ _ _ _ h

theorem keep_stepPageFails {β ρ : Bool} {z : State} (s : State) (i : Nat) (st : Status) (hK : Keep β ρ z s) :
    Keep β ρ z (State.stepPageFails s i st) := by
  unfold State.stepPageFails; grind (ematch := 40) (gen := 40) (splits := 40) [keep_stepEnd, keep_foldl]

theorem keep_recPageFails {β ρ : Bool} {z : State} (s : State) (i : Nat) (st : Status) (hK : Keep β ρ z s) :
    Keep β ρ z (State.recPageFails s i st) := by
  unfold State.recPageFails; grind (ematch := 40) (gen := 40) (splits := 40) [keep_endWords, keep_recFinal, keep_foldl]

theorem keep_pageFailed {β ρ : Bool} {z : State} (s : State) (i : Nat) (page : Nat) (st : Status) (hK : Keep β ρ z s) :
    Keep β ρ z (State.pageFailed s i page st) := by
  unfold State.pageFailed; grind (ematch := 40) (gen := 40) (splits := 40) [keep_stopMoves, keep_dmaTimeouts, keep_dlvPageFails, keep_jobPageFails, keep_stepPageFails, keep_recPageFails]

theorem keep_dropRead {β ρ : Bool} {z : State} (s : State) (rid : Nat) (hK : Keep β ρ z s) :
    Keep β ρ z (State.dropRead s rid) := by
  unfold State.dropRead; grind (ematch := 40) (gen := 40) (splits := 40) [keep_mk]

theorem keep_pageRead {β ρ : Bool} {z : State} (s : State) (o : List ReadOutcome) (l : List Loc) (hK : Keep β ρ z s) :
    Keep β ρ z (s.pageRead o l).1 := by
  induction l generalizing s o with
  | nil => exact hK
  | cons x l ih => unfold State.pageRead; grind (ematch := 40) (gen := 40) (splits := 40) [keep_mk, keep_foldl, keep_slotRead]

theorem keep_rebuildPage {β ρ : Bool} {z : State} (s : State) (r : T2Read) (os : List ReadOutcome) (hK : Keep β ρ z s) :
    Keep β ρ z (State.rebuildPage s r os) := by
  unfold State.rebuildPage; grind (ematch := 40) (gen := 40) (splits := 40) [keep_writePage, keep_foldl]

theorem keep_execFlashRead {β ρ : Bool} {z : State} (rid : Nat) (os : List ReadOutcome) (s : State) (hK : Keep β ρ z s) {tK : State} (eK : execFlashRead rid os s = .next tK) :
    Keep β ρ z tK := by
  unfold execFlashRead at eK; simp only [Host.Outcome.next.injEq] at eK; subst eK; grind (ematch := 40) (gen := 40) (splits := 40) [keep_bump, keep_lostPage, keep_cacheAdd, keep_pageFailed, keep_dropRead, keep_pageRead, keep_rebuildPage]

theorem keep_execT2ReadTimeout {β ρ : Bool} {z : State} (rid : Nat) (t : Nat) (s : State) (hK : Keep β ρ z s) {tK : State} (eK : execT2ReadTimeout rid t s = .next tK) :
    Keep β ρ z tK := by
  unfold execT2ReadTimeout at eK; simp only [Host.Outcome.next.injEq] at eK; subst eK; grind (ematch := 40) (gen := 40) (splits := 40) [keep_count, keep_at_, keep_pageFailed, keep_dropRead]

end Sys2Proof.Machine
end

