-- ==== Sys2Proof/Laws/KeepNetwork.lean ====
section
/-! SUPPORT. The lemmas of KeepBase for the operations and meanings of Transport, CfgEd, Strokes, StackFail. -/

namespace Sys2Proof.Machine

theorem keep_netDown {β ρ : Bool} {z : State} (s : State) (n : Nat) (hK : Keep β ρ z s) :
    Keep β ρ z (State.netDown s n) := by
  unfold State.netDown; grind (ematch := 40) (gen := 40) (splits := 40) [keep_count, keep_rasRecord, keep_setNetPort, keep_setGate, keep_settleCredit, keep_mk]

theorem keep_execNetPortUp {β ρ : Bool} {z : State} (n : Nat) (t : Nat) (s : State) (hK : Keep β ρ z s) {tK : State} (eK : execNetPortUp n t s = .next tK) :
    Keep β ρ z tK := by
  unfold execNetPortUp at eK; simp only [Host.Outcome.next.injEq] at eK; subst eK; grind (ematch := 40) (gen := 40) (splits := 40) [keep_raise, keep_at_, keep_setNetPort, keep_settleCredit, keep_mk]

theorem keep_execNetPortDown {β ρ : Bool} {z : State} (n : Nat) (s : State) (hK : Keep β ρ z s) {tK : State} (eK : execNetPortDown n s = .next tK) :
    Keep β ρ z tK := by
  unfold execNetPortDown at eK; simp only [Host.Outcome.next.injEq] at eK; subst eK; grind (ematch := 40) (gen := 40) (splits := 40) [keep_netDown]

theorem keep_execLoopbackTest {β ρ : Bool} {z : State} (n : Nat) (t : Nat) (pass : Bool) (s : State) (hK : Keep β ρ z s) {tK : State} (eK : execLoopbackTest n t pass s = .next tK) :
    Keep β ρ z tK := by
  unfold execLoopbackTest at eK; simp only [Host.Outcome.next.injEq] at eK; subst eK; grind (ematch := 40) (gen := 40) (splits := 40) [keep_raise, keep_at_, keep_rasRecord, keep_setNetPort, keep_mk]

theorem keep_emit {β ρ : Bool} {z : State} (s : State) (q : Nat) (cls : Nat) (f : Frame) (hK : Keep β ρ z s) :
    Keep β ρ z (State.emit s q cls f).1 := by
  unfold State.emit; grind (ematch := 40) (gen := 40) (splits := 40) [keep_bump64, keep_setCtx, keep_setConn, keep_enqFrame, keep_mk]

theorem keep_useCtx {β ρ : Bool} {z : State} (s : State) (q : Nat) (hK : Keep β ρ z s) :
    Keep β ρ z (State.useCtx s q) := by
  unfold State.useCtx; grind (ematch := 40) (gen := 40) (splits := 40) [keep_mk]

theorem keep_evictCtx {β ρ : Bool} {z : State} (s : State) {w tK : State} (_hw : Keep β ρ z w) (eK : State.evictCtx s = some tK) (hK : Keep β ρ z s) :
    Keep β ρ z tK := by
  unfold State.evictCtx at eK; grind (ematch := 40) (gen := 40) (splits := 40) [keep_hostPut, keep_setCtx, keep_mk]

theorem keep_bringCtx {β ρ : Bool} {z : State} (s : State) (q : Nat) {w tK : State} (_hw : Keep β ρ z w) (eK : State.bringCtx s q = some tK) (hK : Keep β ρ z s) :
    Keep β ρ z tK := by
  unfold State.bringCtx at eK; grind (ematch := 40) (gen := 40) (splits := 40) [keep_setCtx, keep_useCtx, → keep_evictCtx]

theorem keep_endWork {β ρ : Bool} {z : State} (s : State) (q : Nat) (st : Status) (hK : Keep β ρ z s) :
    Keep β ρ z (State.endWork s q st) := by
  unfold State.endWork; grind (ematch := 40) (gen := 40) (splits := 40) [keep_setConn, keep_failEnt, keep_jobEnd, keep_mk, keep_foldl]

theorem keep_connError {β ρ : Bool} {z : State} (s : State) (q : Nat) (st : Status) (hK : Keep β ρ z s) :
    Keep β ρ z (State.connError s q st) := by
  unfold State.connError; grind (ematch := 40) (gen := 40) (splits := 40) [keep_raise, keep_setCtx, keep_endWork, keep_mk]

theorem keep_sendAeth {β ρ : Bool} {z : State} (s : State) (q : Nat) (psn : Nat) (nak : Nat) (us : Nat) (becn : Bool) (hK : Keep β ρ z s) :
    Keep β ρ z (State.sendAeth s q psn nak us becn).1 := by
  unfold State.sendAeth; grind (ematch := 40) (gen := 40) (splits := 40) [keep_emit, keep_mk]

theorem keep_sendAck {β ρ : Bool} {z : State} (s : State) (q : Nat) (hK : Keep β ρ z s) :
    Keep β ρ z (State.sendAck s q) := by
  unfold State.sendAck; grind (ematch := 40) (gen := 40) (splits := 40) [keep_setConn, keep_sendAeth, keep_mk]

theorem keep_execAckDelay {β ρ : Bool} {z : State} (qpn : Nat) (t : Nat) (s : State) (hK : Keep β ρ z s) {tK : State} (eK : execAckDelay qpn t s = .next tK) :
    Keep β ρ z tK := by
  unfold execAckDelay at eK; simp only [Host.Outcome.next.injEq] at eK; subst eK; grind (ematch := 40) (gen := 40) (splits := 40) [keep_at_, keep_sendAck]

theorem keep_nakError {β ρ : Bool} {z : State} (s : State) (q : Nat) (psn : Nat) (nak : Nat) (hK : Keep β ρ z s) :
    Keep β ρ z (State.nakError s q psn nak) := by
  unfold State.nakError; grind (ematch := 40) (gen := 40) (splits := 40) [keep_bump, keep_connError, keep_sendAeth]

theorem keep_sendRnr {β ρ : Bool} {z : State} (s : State) (q : Nat) (psn : Nat) (hK : Keep β ρ z s) :
    Keep β ρ z (State.sendRnr s q psn) := by
  unfold State.sendRnr; grind (ematch := 40) (gen := 40) (splits := 40) [keep_bump, keep_sendAeth]

theorem keep_arrival {β ρ : Bool} {z : State} (s : State) (tag : Nat) (hK : Keep β ρ z s) :
    Keep β ρ z (State.arrival s tag) := by
  unfold State.arrival; grind (ematch := 40) (gen := 40) (splits := 40) [keep_count, keep_at_, keep_tagTest, keep_mk]

theorem keep_execCounterIdle {β ρ : Bool} {z : State} (tag : Nat) (t : Nat) (s : State) (hK : Keep β ρ z s) {tK : State} (eK : execCounterIdle tag t s = .next tK) :
    Keep β ρ z tK := by
  unfold execCounterIdle at eK; simp only [Host.Outcome.next.injEq] at eK; subst eK; grind (ematch := 40) (gen := 40) (splits := 40) [keep_bump, keep_at_, keep_mk]

theorem keep_placeAt {β ρ : Bool} {z : State} (s : State) (d : Dest) (va : Nat) (k : Nat) (bs : List Byte) (hK : Keep β ρ z s) :
    Keep β ρ z (State.placeAt s d va k bs) := by
  unfold State.placeAt; grind (ematch := 40) (gen := 40) (splits := 40) [keep_linWrite, keep_mk]

theorem keep_inDone {β ρ : Bool} {z : State} (s : State) (q : Nat) (m : InMsg) (hK : Keep β ρ z s) :
    Keep β ρ z (State.inDone s q m) := by
  unfold State.inDone; grind (ematch := 40) (gen := 40) (splits := 40) [keep_send, keep_setCtx, keep_setConn, keep_arrival, keep_mk]

theorem keep_inLanded {β ρ : Bool} {z : State} (s : State) (q : Nat) (d : Nat) (f : Frame) (m : InMsg) (hK : Keep β ρ z s) :
    Keep β ρ z (State.inLanded s q d f m) := by
  unfold State.inLanded
  extract_lets c m1 whole
  split
  extract_lets adv s1 k inb un s2 s3
  have h2 : Keep β ρ z s2 := keep_setConn _ _ _ (keep_setCtx _ _ _ hK)
  have h3 : Keep β ρ z s3 := by
    show Keep β ρ z (if whole = true then s2.inDone q m1 else s2)
    split
    · exact keep_inDone _ _ _ h2
    · exact h2
  split
  · exact keep_sendAck _ _ h3
  · exact h3

theorem keep_inPlace {β ρ : Bool} {z : State} (s : State) (q : Nat) (d : Nat) (f : Frame) (hK : Keep β ρ z s) :
    Keep β ρ z (State.inPlace s q d f) := by
  unfold State.inPlace; simp only []
  repeat' first | with_reducible exact hK | split | with_reducible apply keep_nakError | with_reducible apply keep_fresh | with_reducible apply keep_send | with_reducible apply keep_sendRnr | with_reducible apply keep_inLanded | with_reducible apply keep_placeAt | refine keep_mk ?_ rfl rfl ⟨rfl, rfl, rfl, rfl, rfl, rfl, rfl, rfl⟩ id

theorem keep_inDup {β ρ : Bool} {z : State} (s : State) (q : Nat) (hK : Keep β ρ z s) :
    Keep β ρ z (State.inDup s q) := by
  unfold State.inDup; grind (ematch := 40) (gen := 40) (splits := 40) [keep_bump, keep_setCtx, keep_sendAck, keep_mk]

theorem keep_inPacket {β ρ : Bool} {z : State} (s : State) (q : Nat) (f : Frame) (hK : Keep β ρ z s) :
    Keep β ρ z (State.inPacket s q f) := by
  unfold State.inPacket; simp only []
  repeat' first | with_reducible exact hK | split | with_reducible apply keep_inDup | with_reducible apply keep_inPlace | with_reducible apply keep_bump | with_reducible apply keep_sendAeth | with_reducible apply keep_setConn | refine keep_mk ?_ rfl rfl ⟨rfl, rfl, rfl, rfl, rfl, rfl, rfl, rfl⟩ id

theorem keep_becn {β ρ : Bool} {z : State} (s : State) (q : Nat) (hK : Keep β ρ z s) :
    Keep β ρ z (State.becn s q) := by
  unfold State.becn; simp only []
  repeat' first | with_reducible exact hK | split | with_reducible apply keep_bump | with_reducible apply keep_setCtx | refine keep_mk ?_ rfl rfl ⟨rfl, rfl, rfl, rfl, rfl, rfl, rfl, rfl⟩ id

theorem keep_ackWork {β ρ : Bool} {z : State} (s : State) (c : Ctx) (m : Msg) (hK : Keep β ρ z s) :
    Keep β ρ z (State.ackWork s c m) := by
  unfold State.ackWork; simp only []
  repeat' first | with_reducible exact hK | split | with_reducible apply keep_ackEnt | with_reducible apply keep_jobEnd

theorem keep_inAck {β ρ : Bool} {z : State} (s : State) (q : Nat) (f : Frame) (hK : Keep β ρ z s) : Keep β ρ z (s.inAck q f) := by
  unfold State.inAck
  simp only []
  split
  · split
    · exact keep_becn _ _ hK
    · exact hK
  · refine keep_foldl _ _ _ ?_ (fun s m h => keep_ackWork _ _ _ h)
    split
    · exact keep_becn _ _ (keep_setConn _ _ _ (keep_setCtx _ _ _ hK))
    · exact keep_setConn _ _ _ (keep_setCtx _ _ _ hK)

theorem keep_inNak {β ρ : Bool} {z : State} (s : State) (q : Nat) (f : Frame) (hK : Keep β ρ z s) :
    Keep β ρ z (State.inNak s q f) := by
  unfold State.inNak; simp only []
  repeat' first | with_reducible exact hK | split | with_reducible apply keep_setConn | with_reducible apply keep_connError | with_reducible apply keep_setCtx | refine keep_mk ?_ rfl rfl ⟨rfl, rfl, rfl, rfl, rfl, rfl, rfl, rfl⟩ id

theorem keep_inCtx {β ρ : Bool} {z : State} (s : State) (q : Nat) (f : Frame) (hK : Keep β ρ z s) :
    Keep β ρ z (State.inCtx s q f) := by
  unfold State.inCtx; grind (ematch := 40) (gen := 40) (splits := 40) [keep_bump, keep_setCtx, keep_useCtx, keep_inPacket, keep_becn, keep_inAck, keep_inNak, keep_mk]

theorem keep_rxFrame {β ρ : Bool} {z : State} (s : State) (n : Nat) (f : Frame) (hK : Keep β ρ z s) :
    Keep β ρ z (State.rxFrame s n f) := by
  unfold State.rxFrame; grind (ematch := 40) (gen := 40) (splits := 40) [keep_bump, keep_bump64, keep_raise, keep_count, keep_police, keep_inCtx, keep_mk]

theorem keep_execPacketReceive {β ρ : Bool} {z : State} (n : Nat) (f : Frame) (s : State) (hK : Keep β ρ z s) {tK : State} (eK : execPacketReceive n f s = .next tK) :
    Keep β ρ z tK := by
  unfold execPacketReceive at eK; simp only [Host.Outcome.next.injEq] at eK; subst eK; grind (ematch := 40) (gen := 40) (splits := 40) [keep_rxFrame]

theorem keep_execAckReceive {β ρ : Bool} {z : State} (n : Nat) (f : Frame) (s : State) (hK : Keep β ρ z s) {tK : State} (eK : execAckReceive n f s = .next tK) :
    Keep β ρ z tK := by
  unfold execAckReceive at eK; simp only [Host.Outcome.next.injEq] at eK; subst eK; grind (ematch := 40) (gen := 40) (splits := 40) [keep_rxFrame]

theorem keep_execCnpReceive {β ρ : Bool} {z : State} (n : Nat) (f : Frame) (s : State) (hK : Keep β ρ z s) {tK : State} (eK : execCnpReceive n f s = .next tK) :
    Keep β ρ z tK := by
  unfold execCnpReceive at eK; simp only [Host.Outcome.next.injEq] at eK; subst eK; grind (ematch := 40) (gen := 40) (splits := 40) [keep_rxFrame]

theorem keep_execNakReceive {β ρ : Bool} {z : State} (n : Nat) (f : Frame) (s : State) (hK : Keep β ρ z s) {tK : State} (eK : execNakReceive n f s = .next tK) :
    Keep β ρ z tK := by
  unfold execNakReceive at eK; simp only [Host.Outcome.next.injEq] at eK; subst eK; grind (ematch := 40) (gen := 40) (splits := 40) [keep_rxFrame]

theorem keep_execContextFetch {β ρ : Bool} {z : State} (qpn : Nat) (s : State) (hK : Keep β ρ z s) {tK : State} (eK : execContextFetch qpn s = .next tK) :
    Keep β ρ z tK := by
  unfold execContextFetch at eK; simp only [Host.Outcome.next.injEq] at eK; subst eK; grind (ematch := 40) (gen := 40) (splits := 40) [→ keep_bringCtx, keep_inCtx, keep_mk, keep_foldl]

theorem keep_resend {β ρ : Bool} {z : State} (s : State) (q : Nat) (hK : Keep β ρ z s) :
    Keep β ρ z (State.resend s q) := by
  unfold State.resend; grind (ematch := 40) (gen := 40) (splits := 40) [keep_bump, keep_setCtx, keep_setConn, keep_emit, keep_mk]

theorem keep_sendNew {β ρ : Bool} {z : State} (s : State) (q : Nat) (m : Msg) (f : Nat) (i : Nat) (hK : Keep β ρ z s) :
    Keep β ρ z (State.sendNew s q m f i) := by
  unfold State.sendNew; grind (ematch := 40) (gen := 40) (splits := 40) [keep_setCtx, keep_setConn, keep_handEnt, keep_emit, keep_mk]

theorem keep_execPacketSend {β ρ : Bool} {z : State} (qpn : Nat) (s : State) (hK : Keep β ρ z s) {tK : State} (eK : execPacketSend qpn s = .next tK) :
    Keep β ρ z tK := by
  unfold execPacketSend at eK; simp only [Host.Outcome.next.injEq] at eK; subst eK; grind (ematch := 40) (gen := 40) (splits := 40) [keep_useCtx, keep_resend, keep_sendNew]

theorem keep_execRnrRetry {β ρ : Bool} {z : State} (qpn : Nat) (t : Nat) (s : State) (hK : Keep β ρ z s) {tK : State} (eK : execRnrRetry qpn t s = .next tK) :
    Keep β ρ z tK := by
  unfold execRnrRetry at eK; simp only [Host.Outcome.next.injEq] at eK; subst eK; grind (ematch := 40) (gen := 40) (splits := 40) [keep_at_, keep_setConn, keep_mk]

theorem keep_execRetryTimer {β ρ : Bool} {z : State} (qpn : Nat) (t : Nat) (s : State) (hK : Keep β ρ z s) {tK : State} (eK : execRetryTimer qpn t s = .next tK) :
    Keep β ρ z tK := by
  unfold execRetryTimer at eK; simp only [Host.Outcome.next.injEq] at eK; subst eK; grind (ematch := 40) (gen := 40) (splits := 40) [keep_bump, keep_count, keep_at_, keep_setCtx, keep_setConn, keep_connError, keep_mk]

theorem keep_ctxDone {β ρ : Bool} {z : State} (s : State) (r : Nat) (hK : Keep β ρ z s) :
    Keep β ρ z (State.ctxDone s r) := by
  unfold State.ctxDone; grind (ematch := 40) (gen := 40) (splits := 40) [keep_mk]

theorem keep_ctxOp {β ρ : Bool} {z : State} (s : State) (src : Src) (f : State → Nat → State) (hK : Keep β ρ z s)
    (hf : ∀ s q, Keep β ρ z s → Keep β ρ z (f s q)) : Keep β ρ z (s.ctxOp src f) := by
  unfold State.ctxOp; grind (ematch := 40) (gen := 40) (splits := 40) [→ keep_bringCtx, keep_ctxDone]

theorem keep_ctxReadOp {β ρ : Bool} {z : State} (s : State) (q : Nat) (hK : Keep β ρ z s) :
    Keep β ρ z (State.ctxReadOp s q) := by
  unfold State.ctxReadOp; grind (ematch := 40) (gen := 40) (splits := 40) [keep_setReg, keep_ctxDone, keep_foldl]

theorem keep_ctxWriteOp {β ρ : Bool} {z : State} (s : State) (q : Nat) (hK : Keep β ρ z s) :
    Keep β ρ z (State.ctxWriteOp s q) := by
  unfold State.ctxWriteOp; grind (ematch := 40) (gen := 40) (splits := 40) [keep_setCtx, keep_setConn, keep_ctxDone, keep_mk]

theorem keep_ctxErrorOp {β ρ : Bool} {z : State} (s : State) (q : Nat) (hK : Keep β ρ z s) :
    Keep β ρ z (State.ctxErrorOp s q) := by
  unfold State.ctxErrorOp; grind (ematch := 40) (gen := 40) (splits := 40) [keep_connError, keep_ctxDone]

theorem keep_ctxResetOp {β ρ : Bool} {z : State} (s : State) (q : Nat) (hK : Keep β ρ z s) :
    Keep β ρ z (State.ctxResetOp s q) := by
  unfold State.ctxResetOp; grind (ematch := 40) (gen := 40) (splits := 40) [keep_setCtx, keep_setConn, keep_endWork, keep_ctxDone]

theorem keep_execCtxRead {β ρ : Bool} {z : State} (src : Src) (s : State) (hK : Keep β ρ z s) {tK : State} (eK : execCtxRead src s = .next tK) :
    Keep β ρ z tK := by
  unfold execCtxRead at eK; simp only [Host.Outcome.next.injEq] at eK; subst eK; grind (ematch := 40) (gen := 40) (splits := 40) [keep_ctxOp, keep_ctxReadOp]

theorem keep_execCtxWrite {β ρ : Bool} {z : State} (src : Src) (s : State) (hK : Keep β ρ z s) {tK : State} (eK : execCtxWrite src s = .next tK) :
    Keep β ρ z tK := by
  unfold execCtxWrite at eK; simp only [Host.Outcome.next.injEq] at eK; subst eK; grind (ematch := 40) (gen := 40) (splits := 40) [keep_ctxOp, keep_ctxWriteOp]

theorem keep_execCtxForceError {β ρ : Bool} {z : State} (src : Src) (s : State) (hK : Keep β ρ z s) {tK : State} (eK : execCtxForceError src s = .next tK) :
    Keep β ρ z tK := by
  unfold execCtxForceError at eK; simp only [Host.Outcome.next.injEq] at eK; subst eK; grind (ematch := 40) (gen := 40) (splits := 40) [keep_ctxOp, keep_ctxErrorOp]

theorem keep_execCtxForceReset {β ρ : Bool} {z : State} (src : Src) (s : State) (hK : Keep β ρ z s) {tK : State} (eK : execCtxForceReset src s = .next tK) :
    Keep β ρ z tK := by
  unfold execCtxForceReset at eK; simp only [Host.Outcome.next.injEq] at eK; subst eK; grind (ematch := 40) (gen := 40) (splits := 40) [keep_ctxOp, keep_ctxResetOp]

theorem keep_execNetworkRequest {β ρ : Bool} {z : State} (qpn : Nat) (s : State) (hK : Keep β ρ z s) {tK : State} (eK : execNetworkRequest qpn s = .next tK) :
    Keep β ρ z tK := by
  unfold execNetworkRequest at eK; simp only [Host.Outcome.next.injEq] at eK; subst eK; grind (ematch := 40) (gen := 40) (splits := 40) [keep_accept, keep_fail, keep_acceptRun, keep_mk]

theorem keep_execArpRequest {β ρ : Bool} {z : State} (n : Nat) (_sender : Word) (target : Word) (s : State) (hK : Keep β ρ z s) {tK : State} (eK : execArpRequest n _sender target s = .next tK) :
    Keep β ρ z tK := by
  unfold execArpRequest at eK; simp only [Host.Outcome.next.injEq] at eK; subst eK; grind (ematch := 40) (gen := 40) (splits := 40) [keep_enqFrame]

theorem keep_execNeighbourSolicitation {β ρ : Bool} {z : State} (n : Nat) (target : List Word) (s : State) (hK : Keep β ρ z s) {tK : State} (eK : execNeighbourSolicitation n target s = .next tK) :
    Keep β ρ z tK := by
  unfold execNeighbourSolicitation at eK; simp only [Host.Outcome.next.injEq] at eK; subst eK; grind (ematch := 40) (gen := 40) (splits := 40) [keep_enqFrame]

theorem keep_execXptTringTail {β ρ : Bool} {z : State} (src : Src) (p : Nat) (v : Word) (s : State) (hK : Keep β ρ z s) {tK : State} (eK : execXptTringTail src p v s = .next tK) :
    Keep β ρ z tK := by
  unfold execXptTringTail at eK; simp only [Host.Outcome.next.injEq] at eK; subst eK; grind (ematch := 40) (gen := 40) (splits := 40) [keep_setReg]

theorem keep_tringEnd {β ρ : Bool} {z : State} (s : State) (p : Nat) (ws : List Word) (st : Status) (hK : Keep β ρ z s) :
    Keep β ρ z (State.tringEnd s p ws st) := by
  unfold State.tringEnd; grind (ematch := 40) (gen := 40) (splits := 40) [keep_postCq, keep_endWords]

theorem keep_execTriggerFetch {β ρ : Bool} {z : State} (p : Nat) (s : State) (hK : Keep β ρ z s) {tK : State} (eK : execTriggerFetch p s = .next tK) :
    Keep β ρ z tK := by
  unfold execTriggerFetch at eK; simp only [Host.Outcome.next.injEq] at eK; subst eK; grind (ematch := 40) (gen := 40) (splits := 40) [keep_setReg, keep_raise, keep_tagTest, keep_tringEnd, keep_mk]

theorem keep_trigDisarm {β ρ : Bool} {z : State} (s : State) (p : Nat) (tag : Word) (hK : Keep β ρ z s) :
    Keep β ρ z (State.trigDisarm s p tag) := by
  unfold State.trigDisarm; grind (ematch := 40) (gen := 40) (splits := 40) [keep_tringEnd, keep_mk, keep_foldl]

theorem keep_execXptTrigDisarm {β ρ : Bool} {z : State} (src : Src) (tag : Word) (s : State) (hK : Keep β ρ z s) {tK : State} (eK : execXptTrigDisarm src tag s = .next tK) :
    Keep β ρ z tK := by
  unfold execXptTrigDisarm at eK; simp only [Host.Outcome.next.injEq] at eK; subst eK; grind (ematch := 40) (gen := 40) (splits := 40) [keep_trigDisarm]

theorem keep_replanApply {ρ : Bool} {z : State} (s : State) (o : Outs) (hK : Keep false ρ z s) :
    Keep false ρ z (State.replanApply s o) := by
  unfold State.replanApply; grind (ematch := 40) (gen := 40) (splits := 40) [keep_bump, keep_raise, keep_count, keep_rasRecord, keep_mk, keep_foldl, keep_mkBanks]

theorem keep_settleVcore {β ρ : Bool} {z : State} (s : State) (hK : Keep β ρ z s) :
    Keep β ρ z (State.settleVcore s) := by
  unfold State.settleVcore; grind (ematch := 40) (gen := 40) (splits := 40) [keep_setVcore]

theorem keep_newEdition {ρ : Bool} {z : State} (s : State) (lag : List Nat) (joined : Bool) (hK : Keep false ρ z s) :
    Keep false ρ z (State.newEdition s lag joined) := by
  unfold State.newEdition; grind (ematch := 40) (gen := 40) (splits := 40) [keep_raise, keep_mk, keep_foldl, keep_mkBanks]

theorem keep_cfgHooks {β ρ : Bool} {z : State} (s : State) (old : State) (hK : Keep β ρ z s) :
    Keep β ρ z (State.cfgHooks s old) := by
  unfold State.cfgHooks; grind (ematch := 40) (gen := 40) (splits := 40) [keep_psaApply, keep_gateApply, keep_betweenOps, keep_netDown, keep_settleVcore, keep_updMode, keep_spareCheck, keep_flashSettle, keep_foldl]

theorem rising_floorBank {b : Sparse Word} (f : Nat) (h : b.rising) : (floorBank b f).rising := by
  unfold floorBank; simp only []; split
  · exact rising_sset _ _ _ h
  · exact h

theorem keep_replanJoin {ρ : Bool} {z : State} (s : State) (hK : Keep false ρ z s) : Keep false ρ z s.replanJoin := by
  have fin : ∀ u : State, Keep false ρ z u → Keep false ρ z { u with hlt := { u.hlt with floorDue := false }, act := floorBank u.act u.hlt.floor } :=
    fun u h => keep_mkBanks h rfl rfl (fun h => ⟨h, Nat.le_refl _⟩) (fun t => tables_banks (rising_floorBank _ t.2.1) t.2.2.1 t.2.2.2.1 t)
  unfold State.replanJoin
  simp only []
  split
  · exact fin _ (keep_replanApply _ _ hK)
  · exact fin _ hK

theorem keep_cfgEnd {ρ : Bool} {z : State} (s : State) (c : Check) (st : Status) (hK : Keep false ρ z s) :
    Keep false ρ z (State.cfgEnd s c st) := by
  unfold State.cfgEnd; grind (ematch := 40) (gen := 40) (splits := 40) [keep_bump, keep_count, keep_complete, keep_fail, keep_mk, keep_mkBanks]

theorem keep_prevAct {ρ : Bool} {z : State} (s : State) (hK : Keep false ρ z s) : Keep false ρ z { s with prev := s.act } :=
  keep_mkBanks hK rfl rfl (fun h => ⟨h, Nat.le_refl _⟩) (fun t => tables_banks t.2.1 t.2.2.1 t.2.1 t)

theorem keep_editionAlone {ρ : Bool} {z : State} (s : State) (hK : Keep false ρ z s) : Keep false ρ z s.editionAlone := by
  have h := keep_replanJoin _ (keep_prevAct s hK)
  unfold State.editionAlone
  generalize State.replanJoin { s with prev := s.act } = t at h
  exact keep_cfgHooks _ s (keep_newEdition t (t.lagPages t.act t.stk.running) true h)

theorem keep_pendAct {ρ : Bool} {z : State} (s : State) (hK : Keep false ρ z s) : Keep false ρ z { s with pend := s.act } :=
  keep_mkBanks hK rfl rfl (fun h => ⟨h, Nat.le_refl _⟩) (fun t => tables_banks t.2.1 t.2.1 t.2.2.2.1 t)

theorem keep_switchBanks {ρ : Bool} {z : State} (s : State) (c : Check) (hK : Keep false ρ z s) : Keep false ρ z (s.switchBanks c) := by
  have h1 : Keep false ρ z { s with prev := s.act, act := floorBank (s.checkBank c) s.hlt.floor } := by
    refine keep_mkBanks hK rfl rfl (fun h => ⟨h, Nat.le_refl _⟩) (fun t => tables_banks (rising_floorBank _ ?_) t.2.2.1 t.2.1 t)
    unfold State.checkBank
    split
    · exact t.2.2.2.1
    · exact t.2.2.1
  unfold State.switchBanks
  generalize ({ s with prev := s.act, act := floorBank (s.checkBank c) s.hlt.floor } : State) = t at h1
  show Keep false ρ z (if c.rollback = true then { t with pend := t.act } else t)
  split
  · exact keep_pendAct t h1
  · exact h1

theorem keep_newGrid {ρ : Bool} {z : State} (s : State) (grid : Bool) (take : Option Grid) (hK : Keep false ρ z s) :
    Keep false ρ z (State.newGrid s grid take) := by
  unfold State.newGrid; grind (ematch := 40) (gen := 40) (splits := 40) [keep_mk, keep_mkBanks]

theorem keep_cfgApply {ρ : Bool} {z : State} (s : State) (c : Check) (grid : Bool) (take : Option Grid) (hK : Keep false ρ z s) :
    Keep false ρ z (s.cfgApply c grid take) := by
  have h0 : Keep false ρ z (s.netPorts.foldl (fun s n => s.gateSettle n) ((s.fillTokens 0).fillTokens 1)) :=
    keep_foldl _ _ _ (keep_fillTokens _ _ (keep_fillTokens _ _ hK)) (fun s n h => keep_gateSettle s n h)
  unfold State.cfgApply
  generalize s.netPorts.foldl (fun s n => s.gateSettle n) ((s.fillTokens 0).fillTokens 1) = u at h0
  show Keep false ρ z ((((State.newEdition (if u.replanDue = true then (u.switchBanks c).replanJoin else u.switchBanks c)
    (u.lagPages (u.checkBank c) u.stk.running) u.replanDue).newGrid grid take).cfgHooks u).cfgEnd c .ok)
  have h1 : Keep false ρ z (if u.replanDue = true then (u.switchBanks c).replanJoin else u.switchBanks c) := by
    split
    · exact keep_replanJoin _ (keep_switchBanks _ _ h0)
    · exact keep_switchBanks _ _ h0
  generalize (if u.replanDue = true then (u.switchBanks c).replanJoin else u.switchBanks c) = v at h1
  exact keep_cfgEnd _ _ _ (keep_cfgHooks _ _ (keep_newGrid _ _ _ (keep_newEdition _ _ _ h1)))

theorem keep_cfgBoundary {ρ : Bool} {z : State} (s : State) (b : Int) (hK : Keep false ρ z s) :
    Keep false ρ z (State.cfgBoundary s b) := by
  unfold State.cfgBoundary; grind (ematch := 40) (gen := 40) (splits := 40) [keep_cfgEnd, keep_editionAlone, keep_cfgApply, keep_prevAct, keep_mkBanks]

theorem keep_cfgNow {ρ : Bool} {z : State} (s : State) (hK : Keep false ρ z s) :
    Keep false ρ z (State.cfgNow s) := by
  unfold State.cfgNow; grind (ematch := 40) (gen := 40) (splits := 40) [keep_cfgBoundary]

theorem keep_cfgAccept {β ρ : Bool} {z : State} (s : State) (l : Live) (rollback : Bool) (hK : Keep β ρ z s) :
    Keep β ρ z (State.cfgAccept s l rollback) := by
  unfold State.cfgAccept; grind (ematch := 40) (gen := 40) (splits := 40) [keep_count, keep_at_, keep_setRunning, keep_fail, keep_mk]

theorem keep_execCfgCommit {β ρ : Bool} {z : State} (id : Nat) (s : State) (hK : Keep β ρ z s) {tK : State} (eK : execCfgCommit id s = .next tK) :
    Keep β ρ z tK := by
  unfold execCfgCommit State.onNew at eK; simp only [Host.Outcome.next.injEq] at eK; subst eK; grind (ematch := 40) (gen := 40) (splits := 40) [keep_cfgAccept]

theorem keep_execCfgRollback {β ρ : Bool} {z : State} (id : Nat) (s : State) (hK : Keep β ρ z s) {tK : State} (eK : execCfgRollback id s = .next tK) :
    Keep β ρ z tK := by
  unfold execCfgRollback State.onNew at eK; simp only [Host.Outcome.next.injEq] at eK; subst eK; grind (ematch := 40) (gen := 40) (splits := 40) [keep_cfgAccept]

theorem keep_execCfgCheckEnd {ρ : Bool} {z : State} (t : Nat) (s : State) (hK : Keep false ρ z s) {tK : State} (eK : execCfgCheckEnd t s = .next tK) :
    Keep false ρ z tK := by
  unfold execCfgCheckEnd at eK; simp only [Host.Outcome.next.injEq] at eK; subst eK; grind (ematch := 40) (gen := 40) (splits := 40) [keep_at_, keep_fail, keep_cfgEnd, keep_cfgNow, keep_mk, keep_mkBanks]

theorem keep_losePages {β ρ : Bool} {z : State} (s : State) (i : Nat) (gone : List Nat) (hK : Keep β ρ z s) :
    Keep β ρ z (State.losePages s i gone) := by
  unfold State.losePages; grind (ematch := 40) (gen := 40) (splits := 40) [keep_updPset, keep_mk]

theorem keep_stackRsv {β ρ : Bool} {z : State} (s : State) (i : Nat) (gone : List Nat) (hK : Keep β ρ z s) :
    Keep β ρ z (State.stackRsv s i gone) := by
  unfold State.stackRsv; grind (ematch := 40) (gen := 40) (splits := 40) [keep_freePset, keep_fail, keep_abortPub, keep_losePages]

theorem keep_stackFall {β ρ : Bool} {z : State} (s : State) (i : Nat) (hK : Keep β ρ z s) :
    Keep β ρ z (State.stackFall s i) := by
  unfold State.stackFall; grind (ematch := 40) (gen := 40) (splits := 40) [keep_setPset, keep_needPages, keep_mk]

theorem keep_stackLower {β ρ : Bool} {z : State} (s : State) (i : Nat) (hK : Keep β ρ z s) :
    Keep β ρ z (State.stackLower s i) := by
  unfold State.stackLower; grind (ematch := 40) (gen := 40) (splits := 40) [keep_updPset, keep_mk]

theorem keep_stackPset {β ρ : Bool} {z : State} (s : State) (i : Nat) (gone : List Nat) (hK : Keep β ρ z s) :
    Keep β ρ z (State.stackPset s i gone) := by
  unfold State.stackPset; grind (ematch := 40) (gen := 40) (splits := 40) [keep_stackLower, keep_setPset, keep_startCascade, keep_poisonPage, keep_pageFailed, keep_stackRsv, keep_stackFall, keep_mk, keep_foldl]

theorem keep_stackDir {β ρ : Bool} {z : State} (s : State) (stack : Nat) (hK : Keep β ρ z s) :
    Keep β ρ z (State.stackDir s stack) := by
  unfold State.stackDir; grind (ematch := 40) (gen := 40) (splits := 40) [keep_abortPub, keep_startCascade, keep_poisonPage, keep_foldl]

theorem keep_stackPsa {β ρ : Bool} {z : State} (s : State) (stack : Nat) (hK : Keep β ρ z s) :
    Keep β ρ z (State.stackPsa s stack) := by
  unfold State.stackPsa; grind (ematch := 40) (gen := 40) (splits := 40) [keep_updBank, keep_unhold, keep_mk, keep_foldl]

theorem keep_stackCache {β ρ : Bool} {z : State} (s : State) (lost : List Cached) (hK : Keep β ρ z s) :
    Keep β ρ z (State.stackCache s lost) := by
  unfold State.stackCache; grind (ematch := 40) (gen := 40) (splits := 40) [keep_needPages, keep_mk, keep_foldl]

theorem keep_failStack {β ρ : Bool} {z : State} (s : State) (k : Nat) (hK : Keep β ρ z s) : Keep β ρ z (s.failStack k) := by
  unfold State.failStack
  split
  · exact hK
  · simp only []
    exact keep_stackPsa _ _ (keep_stackDir _ _ (keep_foldl _ _ _ (keep_stackCache _ _ (keep_rasRecord _ _ _ _ _ _ (keep_raise _ _ _
      (keep_fresh _ (keep_mkDead hK rfl rfl ⟨rfl, rfl, rfl, rfl, rfl, rfl, rfl, rfl⟩ id))))) fun s e h => keep_stackPset _ _ _ h))

theorem keep_stackUe {β ρ : Bool} {z : State} (s : State) (k : Nat) (row : Nat) (hK : Keep β ρ z s) :
    Keep β ρ z (State.stackUe s k row) := by
  unfold State.stackUe; grind (ematch := 40) (gen := 40) (splits := 40) [keep_failStack, keep_mk]

theorem keep_failStacks {β ρ : Bool} {z : State} (s : State) (hK : Keep β ρ z s) :
    Keep β ρ z (State.failStacks s) := by
  unfold State.failStacks; grind (ematch := 40) (gen := 40) (splits := 40) [keep_failStack, keep_mk, keep_foldl]

theorem keep_execPsaScrubRead {β ρ : Bool} {z : State} (t : ScrubRead) (s : State) {tK : State} (eK : execPsaScrubRead t s = .next tK) (hK : Keep β ρ z s) :
    Keep β ρ z tK := by
  unfold execPsaScrubRead at eK; simp only [Host.Outcome.next.injEq] at eK; subst eK; grind (ematch := 40) (gen := 40) (splits := 40) [keep_at_, keep_scrubBank, keep_upset, keep_failStacks, keep_mk, keep_foldl]

theorem keep_execPsaRehome {β ρ : Bool} {z : State} (bank t : Nat) (s : State) {tK : State} (eK : execPsaRehome bank t s = .next tK) (hK : Keep β ρ z s) :
    Keep β ρ z tK := by
  unfold execPsaRehome at eK; simp only [Host.Outcome.next.injEq] at eK; subst eK; grind (ematch := 40) (gen := 40) (splits := 40) [keep_at_, keep_updBank, keep_hold, keep_withdrawSeg, keep_failStacks, keep_mk]

theorem keep_execT1UncorrectableRead {β ρ : Bool} {z : State} (tier : Nat) (pset : Nat) (page : Nat) (s : State) (hK : Keep β ρ z s) {tK : State} (eK : execT1UncorrectableRead tier pset page s = .next tK) :
    Keep β ρ z tK := by
  unfold execT1UncorrectableRead at eK; simp only [Host.Outcome.next.injEq] at eK; subst eK; grind (ematch := 40) (gen := 40) (splits := 40) [keep_bump, keep_fresh, keep_rasRecord, keep_healPage, keep_lostPage, keep_pageFailed, keep_losePages, keep_stackUe]

theorem keep_execFailStack {β ρ : Bool} {z : State} (src : Src) (stack : Nat) (s : State) (hK : Keep β ρ z s) {tK : State} (eK : execFailStack src stack s = .next tK) :
    Keep β ρ z tK := by
  unfold execFailStack at eK; simp only [Host.Outcome.next.injEq] at eK; subst eK; grind (ematch := 40) (gen := 40) (splits := 40) [keep_failStack]

theorem keep_execStackFail {β ρ : Bool} {z : State} (stack : Nat) (s : State) (hK : Keep β ρ z s) {tK : State} (eK : execStackFail stack s = .next tK) :
    Keep β ρ z tK := by
  unfold execStackFail at eK; simp only [Host.Outcome.next.injEq] at eK; subst eK; grind (ematch := 40) (gen := 40) (splits := 40) [keep_failStack]

theorem keep_abandon {β ρ : Bool} {z : State} (s : State) (id : Nat) (st : Status) (hK : Keep β ρ z s) :
    Keep β ρ z (State.abandon s id st) := by
  unfold State.abandon; grind (ematch := 40) (gen := 40) (splits := 40) [keep_complete, keep_bump, keep_mk, keep_undoMove, keep_stopMove, keep_dropDlv, keep_stageCheck, keep_jobEnd, keep_runEnd, keep_mk, keep_foldl]

theorem keep_recTimeout {β ρ : Bool} {z : State} (s : State) (iid : Nat) (idx : Nat) (hK : Keep β ρ z s) :
    Keep β ρ z (State.recTimeout s iid idx) := by
  unfold State.recTimeout; grind (ematch := 40) (gen := 40) (splits := 40) [keep_endWords, keep_recFinal, keep_abandon]

theorem keep_carryEnd {β ρ : Bool} {z : State} (s : State) (c : Nat) (past : Nat) (hK : Keep β ρ z s) :
    Keep β ρ z (State.carryEnd s c past) := by
  unfold State.carryEnd; grind (ematch := 40) (gen := 40) (splits := 40) [keep_recTimeout, keep_foldl]

theorem keep_windowShut {β ρ : Bool} {z : State} (s : State) (c : Nat) (hK : Keep β ρ z s) :
    Keep β ρ z (State.windowShut s c) := by
  unfold State.windowShut; grind (ematch := 40) (gen := 40) (splits := 40) [keep_releaseHolds, keep_expireHolds, keep_reselect, keep_carryEnd, keep_mk]

theorem keep_activate {β ρ : Bool} {z : State} (s : State) (hK : Keep β ρ z s) :
    Keep β ρ z (State.activate s) := by
  unfold State.activate; grind (ematch := 40) (gen := 40) (splits := 40) [keep_endWords, keep_instEnd, keep_recFinal, keep_mk, keep_foldl]

theorem keep_skip {β ρ : Bool} {z : State} (s : State) (k : Nat) (hK : Keep β ρ z s) :
    Keep β ρ z (State.skip s k) := by
  unfold State.skip; grind (ematch := 40) (gen := 40) (splits := 40) [keep_bump, keep_raise]

theorem keep_takeGrid {ρ : Bool} {z : State} (s : State) (b : Int) (hK : Keep false ρ z s) : Keep false ρ z (s.takeGrid b) := by
  unfold State.takeGrid
  split
  · exact hK
  · exact keep_foldl _ _ _ (keep_mkBanks hK rfl rfl (fun h => ⟨h, Nat.le_max_left _ _⟩) id) (fun s n h => keep_gateRegrid s n h)

theorem keep_dropHeaders {β ρ : Bool} {z : State} (s : State) (hK : Keep β ρ z s) :
    Keep β ρ z (State.dropHeaders s) := by
  unfold State.dropHeaders; grind (ematch := 40) (gen := 40) (splits := 40) [keep_mk]

theorem keep_strokeEnd {β ρ : Bool} {z : State} (s : State) (hK : Keep β ρ z s) : Keep β ρ z (if s.stk.running then
      (List.range 4).foldl (fun s c => if s.winSt c = .closed then s else s.windowShut c) s else s) := by
  split
  · refine keep_foldl _ _ _ hK (fun s c h => ?_)
    split
    · exact h
    · exact keep_windowShut s c h
  · exact hK

/-- What follows the boundary itself. -/
theorem keep_strokeWork {β ρ : Bool} {z : State} (s : State) (was : Bool) (hK : Keep β ρ z s) {t : State}
    (e : t = (List.range 4).foldl (fun s c => s.carryEnd c (s.carryMax + 1)) s.activate) :
    Keep β ρ z ((if was then t else t.netPorts.foldl (fun s n => s.gateRefresh n) t).dropHeaders.releaseHolds.expireHolds
      ((if was then t else t.netPorts.foldl (fun s n => s.gateRefresh n) t).dropHeaders.releaseHolds.carryMax + 1)) := by
  have h1 : Keep β ρ z t := by
    subst e; exact keep_foldl _ _ _ (keep_activate _ hK) (fun s c h => keep_carryEnd _ _ _ h)
  refine keep_expireHolds _ _ (keep_releaseHolds _ (keep_dropHeaders _ ?_))
  split
  · exact h1
  · exact keep_foldl _ _ _ h1 (fun s n h => keep_gateRefresh s n h)

theorem keep_beginStroke {ρ : Bool} {z : State} (s : State) (n : Nat) (b : Int) (hn : s.stk.running = true → s.stk.stroke ≤ n) (hK : Keep false ρ z s) :
    Keep false ρ z (s.beginStroke n b) := by
  have key : ∀ t : State, Keep false ρ z t → (t.stk.running = true → t.stk.stroke ≤ n) → ∀ v, Keep false ρ z ({ t with stk := { t.stk with running := true, stroke := n, boundary := v, win := [.before, .before, .before, .before] } } : State) :=
    fun t h hm v => keep_mkBanks h rfl rfl (fun h => ⟨rfl, hm h⟩) id
  have hs := keep_strokeEnd s hK
  have he : ∀ t, t = (if s.stk.running then (List.range 4).foldl (fun s c => if s.winSt c = .closed then s else s.windowShut c) s else s) → t.stk.running = s.stk.running ∧ t.stk.stroke = s.stk.stroke := by
    intro t ht
    have hz : Keep true true s s := ⟨hK.1, rfl, rfl, Nat.le_refl _, fun _ => ⟨Nat.le_refl _, List.prefix_rfl, fun h => ⟨h, Nat.le_refl _⟩⟩, fun _ => ⟨rfl, rfl, rfl, rfl, rfl, rfl, rfl, rfl, rfl, rfl⟩, hK.2.2.2.2.2.2⟩
    have := (keep_strokeEnd s hz).2.2.2.2.2.1 rfl
    rw [← ht] at this
    exact ⟨this.2.2.2.2.1, this.2.2.2.2.2.1⟩
  unfold State.beginStroke
  generalize (if s.stk.running then (List.range 4).foldl (fun s c => if s.winSt c = .closed then s else s.windowShut c) s else s) = t at hs he
  obtain ⟨e1, e2⟩ := he t rfl
  simp only []
  have h2 := keep_takeGrid _ b (keep_cfgBoundary _ b (keep_takeGrid _ b (key t hs (fun h => by rw [e2]; exact hn (e1 ▸ h)) (t.devTime b))))
  generalize State.takeGrid (State.cfgBoundary (State.takeGrid _ b) b) b = u at h2
  have h3 : Keep false ρ z (State.raise (if t.stk.running = true then u.skip (u.stk.stroke - t.stk.stroke - 1) else u) stkPage 0) := by
    refine keep_raise _ _ _ ?_
    split
    · exact keep_skip _ _ h2
    · exact h2
  generalize State.raise (if t.stk.running = true then u.skip (u.stk.stroke - t.stk.stroke - 1) else u) stkPage 0 = w at h3
  exact keep_strokeWork w t.stk.running h3 rfl

theorem nextBoundary_up (s : State) (h : s.stk.running = true) : s.stk.stroke < s.nextBoundary.1 := by
  unfold State.nextBoundary
  rw [if_pos h]
  simp only []
  split
  · split
    · simp only []; omega
    · simp
  · simp

theorem keep_execStrokeBoundary {ρ : Bool} {z : State} (t : Nat) (s : State) (hK : Keep false ρ z s) {tK : State}
    (eK : execStrokeBoundary t s = .next tK) : Keep false ρ z tK := by
  have h := keep_at_ s t hK
  unfold execStrokeBoundary at eK
  simp only [Host.Outcome.next.injEq] at eK; subst eK
  generalize s.at_ t = u at h
  split
  · exact h
  · exact keep_beginStroke _ _ _ (fun hr => Nat.le_of_lt (nextBoundary_up u hr)) h

theorem keep_setSync {β ρ : Bool} {z : State} (s : State) (x : Sync) (hK : Keep β ρ z s) :
    Keep β ρ z (State.setSync s x) := by
  unfold State.setSync; grind (ematch := 40) (gen := 40) (splits := 40) [keep_raise, keep_gateRefresh, keep_mk, keep_foldl]

theorem keep_stepStroke {ρ : Bool} {z : State} (s : State) (hK : Keep false ρ z s) : Keep false ρ z s.stepStroke := by
  have key : ∀ v, Keep false ρ z ({ s with stk := { s.stk with boundary := v } } : State) :=
    fun v => keep_mkBanks hK rfl rfl (fun h => ⟨h, Nat.le_refl _⟩) id
  unfold State.stepStroke
  split
  · split
    simp only []
    split
    · rename_i hc
      exact keep_beginStroke _ _ _ (fun _ => Nat.le_of_lt hc.2) hK
    · exact key _
  · exact hK

theorem keep_stepTime {ρ : Bool} {z : State} (s : State) (offset : Int) (hK : Keep false ρ z s) : Keep false ρ z (s.stepTime offset) :=
  keep_foldl _ _ _ (keep_stepStroke _ (keep_mkBanks hK rfl rfl (fun h => ⟨h, Nat.le_refl _⟩) id)) (fun s n h => keep_gateStep s n h)

theorem keep_freshLock {ρ : Bool} {z : State} (s : State) (offset : Int) (hK : Keep false ρ z s) :
    Keep false ρ z (State.freshLock s offset) := by
  unfold State.freshLock; grind (ematch := 40) (gen := 40) (splits := 40) [keep_setSync, keep_stepTime, keep_mk]

theorem keep_unlock {β ρ : Bool} {z : State} (s : State) (hK : Keep β ρ z s) :
    Keep β ρ z (State.unlock s) := by
  unfold State.unlock; grind (ematch := 40) (gen := 40) (splits := 40) [keep_setSync, keep_mk]

theorem keep_execSyncMessage {ρ : Bool} {z : State} (t : Nat) (offset : Int) (s : State) (hK : Keep false ρ z s) {tK : State} (eK : execSyncMessage t offset s = .next tK) :
    Keep false ρ z tK := by
  unfold execSyncMessage at eK; simp only [Host.Outcome.next.injEq] at eK; subst eK; grind (ematch := 40) (gen := 40) (splits := 40) [keep_at_, keep_setSync, keep_freshLock, keep_unlock, keep_mk]

theorem keep_execSyncLoss {β ρ : Bool} {z : State} (t : Nat) (s : State) (hK : Keep β ρ z s) {tK : State} (eK : execSyncLoss t s = .next tK) :
    Keep β ρ z tK := by
  unfold execSyncLoss at eK; simp only [Host.Outcome.next.injEq] at eK; subst eK; grind (ematch := 40) (gen := 40) (splits := 40) [keep_bump, keep_at_, keep_setSync, keep_mk]

theorem keep_execHoldoverLimit {β ρ : Bool} {z : State} (t : Nat) (s : State) (hK : Keep β ρ z s) {tK : State} (eK : execHoldoverLimit t s = .next tK) :
    Keep β ρ z tK := by
  unfold execHoldoverLimit at eK; simp only [Host.Outcome.next.injEq] at eK; subst eK; grind (ematch := 40) (gen := 40) (splits := 40) [keep_at_, keep_unlock]

theorem keep_execPpsEdge {β ρ : Bool} {z : State} (t : Nat) (s : State) (hK : Keep β ρ z s) {tK : State} (eK : execPpsEdge t s = .next tK) :
    Keep β ρ z tK := by
  unfold execPpsEdge at eK; simp only [Host.Outcome.next.injEq] at eK; subst eK; grind (ematch := 40) (gen := 40) (splits := 40) [keep_at_, keep_mk]

theorem keep_execPpsOut {β ρ : Bool} {z : State} (t : Nat) (s : State) (hK : Keep β ρ z s) {tK : State} (eK : execPpsOut t s = .next tK) :
    Keep β ρ z tK := by
  unfold execPpsOut at eK; simp only [Host.Outcome.next.injEq] at eK; subst eK; grind (ematch := 40) (gen := 40) (splits := 40) [keep_send, keep_at_]

theorem keep_execPeerDelayRequest {β ρ : Bool} {z : State} (n : Nat) (s : State) (hK : Keep β ρ z s) {tK : State} (eK : execPeerDelayRequest n s = .next tK) :
    Keep β ρ z tK := by
  unfold execPeerDelayRequest at eK; simp only [Host.Outcome.next.injEq] at eK; subst eK; exact keep_enqFrame _ _ _ _ _ hK

theorem keep_pringTail {β ρ : Bool} {z : State} (s : State) (p : Nat) (v : Word) (hK : Keep β ρ z s) :
    Keep β ρ z (State.pringTail s p v) := by
  unfold State.pringTail; grind (ematch := 40) (gen := 40) (splits := 40) [keep_setReg]

theorem keep_execStkPringTail {β ρ : Bool} {z : State} (p : Nat) (v : Word) (s : State) (hK : Keep β ρ z s) {tK : State} (eK : execStkPringTail p v s = .next tK) :
    Keep β ρ z tK := by
  unfold execStkPringTail at eK; simp only [Host.Outcome.next.injEq] at eK; subst eK; grind (ematch := 40) (gen := 40) (splits := 40) [keep_pringTail]

theorem keep_setPrevTarget {β ρ : Bool} {z : State} (s : State) (p : Nat) (v : Option Nat) (hK : Keep β ρ z s) :
    Keep β ρ z (State.setPrevTarget s p v) := by
  unfold State.setPrevTarget; grind (ematch := 40) (gen := 40) (splits := 40) [keep_mk]

theorem keep_summary {β ρ : Bool} {z : State} (s : State) (p : Nat) (ws : List Word) (st : Status) (target : Nat) (late : Nat) (onTime : Nat) (other : Nat) (timeout : Nat) (hK : Keep β ρ z s) :
    Keep β ρ z (State.summary s p ws st target late onTime other timeout) := by
  unfold State.summary; grind (ematch := 40) (gen := 40) (splits := 40) [keep_postCq]

theorem keep_holdHeader {β ρ : Bool} {z : State} (s : State) (p : Nat) (ws : List Word) (hK : Keep β ρ z s) :
    Keep β ρ z (State.holdHeader s p ws) := by
  unfold State.holdHeader; grind (ematch := 40) (gen := 40) (splits := 40) [keep_mk]

theorem keep_execHeaderFetch {β ρ : Bool} {z : State} (p : Nat) (s : State) (hK : Keep β ρ z s) {tK : State} (eK : execHeaderFetch p s = .next tK) :
    Keep β ρ z tK := by
  unfold execHeaderFetch at eK; simp only [Host.Outcome.next.injEq] at eK; subst eK; grind (ematch := 40) (gen := 40) (splits := 40) [keep_setReg, keep_raise, keep_dropHeaders, keep_setPrevTarget, keep_summary, keep_holdHeader]

theorem keep_execRecordFetch {β ρ : Bool} {z : State} (p : Nat) (t : Nat) (s : State) (hK : Keep β ρ z s) {tK : State} (eK : execRecordFetch p t s = .next tK) :
    Keep β ρ z tK := by
  unfold execRecordFetch at eK; simp only [Host.Outcome.next.injEq] at eK; subst eK; grind (ematch := 40) (gen := 40) (splits := 40) [keep_raise, keep_count, keep_at_, keep_dropHeaders, keep_summary, keep_mk]

theorem keep_freezeReady {β ρ : Bool} {z : State} (s : State) (c : Nat) (hK : Keep β ρ z s) :
    Keep β ρ z (State.freezeReady s c) := by
  unfold State.freezeReady; grind (ematch := 40) (gen := 40) (splits := 40) [keep_mk]

theorem keep_execWindowOpen {β ρ : Bool} {z : State} (c : Nat) (t : Nat) (s : State) (hK : Keep β ρ z s) {tK : State} (eK : execWindowOpen c t s = .next tK) :
    Keep β ρ z tK := by
  unfold execWindowOpen at eK; simp only [Host.Outcome.next.injEq] at eK; subst eK; grind (ematch := 40) (gen := 40) (splits := 40) [keep_at_, keep_jobsResume, keep_freezeReady, keep_mk]

theorem keep_execWindowClose {β ρ : Bool} {z : State} (c : Nat) (t : Nat) (s : State) (hK : Keep β ρ z s) {tK : State} (eK : execWindowClose c t s = .next tK) :
    Keep β ρ z tK := by
  unfold execWindowClose at eK; simp only [Host.Outcome.next.injEq] at eK; subst eK; grind (ematch := 40) (gen := 40) (splits := 40) [keep_at_, keep_windowShut]

theorem keep_carryLayers {β ρ : Bool} {z : State} (s : State) (x : Inst) (idx : Nat) (p : Nat) (y : Nat) (hK : Keep β ρ z s) :
    Keep β ρ z (State.carryLayers s x idx p y) := by
  unfold State.carryLayers; grind (ematch := 40) (gen := 40) (splits := 40) [keep_bump, keep_raise, keep_updInst, keep_mk]

theorem keep_startRec {β ρ : Bool} {z : State} (s : State) (x : Inst) (r : SRec) (hK : Keep β ρ z s) :
    Keep β ρ z (State.startRec s x r) := by
  unfold State.startRec; grind (ematch := 40) (gen := 40) (splits := 40) [keep_updRec, keep_acceptRun, keep_mk]

theorem keep_recScan {β ρ : Bool} {z : State} (s : State) (c : Nat) (l : List (Inst × SRec)) (hK : Keep β ρ z s) :
    Keep β ρ z (s.recScan c l) := by
  induction l generalizing s with
  | nil => exact hK
  | cons x l ih => unfold State.recScan; grind (ematch := 40) (gen := 40) (splits := 40) [keep_mk, keep_foldl, keep_startRec, keep_endWords, keep_recFinal, keep_carryLayers, keep_updRec]

theorem keep_execRecordStart {β ρ : Bool} {z : State} (c : Nat) (t : Nat) (s : State) (hK : Keep β ρ z s) {tK : State} (eK : execRecordStart c t s = .next tK) :
    Keep β ρ z tK := by
  unfold execRecordStart at eK; simp only [Host.Outcome.next.injEq] at eK; subst eK; grind (ematch := 40) (gen := 40) (splits := 40) [keep_at_, keep_freezeReady, keep_recScan]

theorem keep_execProgramSummary {β ρ : Bool} {z : State} (p : Nat) (target : Nat) (s : State) (hK : Keep β ρ z s) {tK : State} (eK : execProgramSummary p target s = .next tK) :
    Keep β ρ z tK := by
  unfold execProgramSummary at eK; simp only [Host.Outcome.next.injEq] at eK; subst eK; grind (ematch := 40) (gen := 40) (splits := 40) [keep_releaseHolds, keep_summary, keep_mk]

end Sys2Proof.Machine
end

