-- ==== Sys2Proof/Laws/KeepHost.lean ====
section
/-! SUPPORT. The lemmas of KeepBase for the operations and meanings of HostPorts, Sec, Hlt, Pwr. -/

namespace Sys2Proof.Machine

theorem keep_portReset {β ρ : Bool} {z : State} (s : State) (p : Nat) (hK : Keep β ρ z s) :
    Keep β ρ z (State.portReset s p) := by
  unfold State.portReset; grind (ematch := 40) (gen := 40) (splits := 40) [keep_setReg, keep_setQset, keep_mk, keep_foldl]

theorem keep_execLinkUp {β ρ : Bool} {z : State} (p : Nat) (speed : Nat) (width : Nat) (cxl : Bool) (mld : Bool) (ldUp : Nat) (s : State) (hK : Keep β ρ z s) {tK : State} (eK : execLinkUp p speed width cxl mld ldUp s = .next tK) :
    Keep β ρ z tK := by
  unfold execLinkUp at eK; simp only [Host.Outcome.next.injEq] at eK; subst eK; grind (ematch := 40) (gen := 40) (splits := 40) [keep_raise, keep_setPort, keep_portReset, keep_mk]

theorem keep_loseProgs {β ρ : Bool} {z : State} (s : State) (p : Nat) (hK : Keep β ρ z s) :
    Keep β ρ z (State.loseProgs s p) := by
  unfold State.loseProgs; grind (ematch := 40) (gen := 40) (splits := 40) [keep_instEnd, keep_mk, keep_foldl]

theorem keep_setFm {β ρ : Bool} {z : State} (s : State) (v : Nat) (hK : Keep β ρ z s) :
    Keep β ρ z (State.setFm s v) := by
  unfold State.setFm; grind (ematch := 40) (gen := 40) (splits := 40) [keep_setReg, keep_raise]

theorem keep_losePort {β ρ : Bool} {z : State} (s : State) (p : Nat) (hK : Keep β ρ z s) :
    Keep β ρ z (State.losePort s p) := by
  unfold State.losePort; grind (ematch := 40) (gen := 40) (splits := 40) [keep_raise, keep_count, keep_setPort, keep_rasRecord, keep_loseProgs, keep_setFm, keep_mk]

theorem keep_execDlDown {β ρ : Bool} {z : State} (p : Nat) (s : State) (hK : Keep β ρ z s) {tK : State} (eK : execDlDown p s = .next tK) :
    Keep β ρ z tK := by
  unfold execDlDown at eK; simp only [Host.Outcome.next.injEq] at eK; subst eK; grind (ematch := 40) (gen := 40) (splits := 40) [keep_losePort]

theorem keep_execPerstL {β ρ : Bool} {z : State} (p : Nat) (s : State) (hK : Keep β ρ z s) {tK : State} (eK : execPerstL p s = .next tK) :
    Keep β ρ z tK := by
  unfold execPerstL at eK; simp only [Host.Outcome.next.injEq] at eK; subst eK; grind (ematch := 40) (gen := 40) (splits := 40) [keep_setPort, keep_losePort, keep_mk]

theorem keep_execPerstLRelease {β ρ : Bool} {z : State} (p : Nat) (s : State) (hK : Keep β ρ z s) {tK : State} (eK : execPerstLRelease p s = .next tK) :
    Keep β ρ z tK := by
  unfold execPerstLRelease at eK; simp only [Host.Outcome.next.injEq] at eK; subst eK; grind (ematch := 40) (gen := 40) (splits := 40) [keep_setPort, keep_mk]

theorem keep_execPcieRefclkLoss {β ρ : Bool} {z : State} (p : Nat) (t : Nat) (s : State) (hK : Keep β ρ z s) {tK : State} (eK : execPcieRefclkLoss p t s = .next tK) :
    Keep β ρ z tK := by
  unfold execPcieRefclkLoss at eK; simp only [Host.Outcome.next.injEq] at eK; subst eK; grind (ematch := 40) (gen := 40) (splits := 40) [keep_at_, keep_losePort]

theorem keep_execHdmCommit {β ρ : Bool} {z : State} (p : Nat) (ld : Nat) (dec : Nat) (base : Nat) (size : Nat) (ways : Nat) (gran : Nat) (s : State) (hK : Keep β ρ z s) {tK : State} (eK : execHdmCommit p ld dec base size ways gran s = .next tK) :
    Keep β ρ z tK := by
  unfold execHdmCommit at eK; simp only [Host.Outcome.next.injEq] at eK; subst eK; grind (ematch := 40) (gen := 40) (splits := 40) [keep_setPort, keep_mk]

theorem keep_takeTokens {β ρ : Bool} {z : State} (s : State) (p : Nat) (l : Nat) (hK : Keep β ρ z s) :
    Keep β ρ z (State.takeTokens s p l) := by
  unfold State.takeTokens; grind (ematch := 40) (gen := 40) (splits := 40) [keep_setPort, keep_mk]

theorem keep_cxlPoison {β ρ : Bool} {z : State} (s : State) (p : Nat) (l : Nat) (hK : Keep β ρ z s) :
    Keep β ρ z (State.cxlPoison s p l) := by
  unfold State.cxlPoison; grind (ematch := 40) (gen := 40) (splits := 40) [keep_send, keep_count, keep_mk]

theorem keep_cxlReadOk {β ρ : Bool} {z : State} (s : State) (p : Nat) (l : Nat) (bs : List Byte) (hK : Keep β ρ z s) :
    Keep β ρ z (State.cxlReadOk s p l bs) := by
  unfold State.cxlReadOk; grind (ematch := 40) (gen := 40) (splits := 40) [keep_bump64, keep_send]

theorem keep_cxlDrop {β ρ : Bool} {z : State} (s : State) (p : Nat) (l : Nat) (a : Nat) (cause : Nat) (hK : Keep β ρ z s) :
    Keep β ρ z (State.cxlDrop s p l a cause) := by
  unfold State.cxlDrop; grind (ematch := 40) (gen := 40) (splits := 40) [keep_setReg, keep_send, keep_count, keep_rasRecord]

theorem keep_cxlUe {β ρ : Bool} {z : State} (s : State) (x : Nat) (a : Nat) (hK : Keep β ρ z s) :
    Keep β ρ z (State.cxlUe s x a) := by
  unfold State.cxlUe; grind (ematch := 40) (gen := 40) (splits := 40) [keep_rasRecord, keep_stackUe]

theorem keep_cxlRead {β ρ : Bool} {z : State} (s : State) (p : Nat) (l : Nat) (a : Nat) (view : Option ViewRead) (ue : Bool) (old : Bool) (hK : Keep β ρ z s) :
    Keep β ρ z (State.cxlRead s p l a view ue old) := by
  unfold State.cxlRead; simp only []
  repeat' first | with_reducible exact hK | split | with_reducible apply keep_touchPset | with_reducible apply keep_count | with_reducible apply keep_cxlPoison | with_reducible apply keep_rasRecord | with_reducible apply keep_stackUe | with_reducible apply keep_cxlReadOk | with_reducible apply keep_cxlUe

theorem keep_cxlWrite {β ρ : Bool} {z : State} (s : State) (p l a : Nat) (bs : List Byte) (ue old : Bool) (hK : Keep β ρ z s) :
    Keep β ρ z (s.cxlWrite p l a bs ue old) := by
  have ho : ∀ s : State, Keep β ρ z s → Keep β ρ z (s.fresh.2.cxlDrop p l a (Config.freeNat s.fresh.1 % 4)) :=
    fun s h => keep_cxlDrop _ _ _ _ _ (keep_fresh s h)
  unfold State.cxlWrite
  simp only []
  repeat' split
  all_goals first
    | with_reducible exact keep_cxlDrop _ _ _ _ _ hK
    | with_reducible exact ho _ hK
    | with_reducible exact ho _ (keep_cxlUe _ _ _ hK)
    | with_reducible exact keep_send _ _ (keep_bump64 _ _ _ (keep_cxlBytes _ _ _ hK))

theorem keep_cxlAnswer {β ρ : Bool} {z : State} (s : State) (p : Nat) (l : Nat) (req : CxlReq) (view : Option ViewRead) (ue : Bool) (old : Bool) (hK : Keep β ρ z s) :
    Keep β ρ z (State.cxlAnswer s p l req view ue old) := by
  unfold State.cxlAnswer; grind (ematch := 40) (gen := 40) (splits := 40) [keep_cxlRead, keep_cxlWrite]

theorem keep_execCxlMemRequest {β ρ : Bool} {z : State} (p : Nat) (ld : Nat) (req : CxlReq) (ue : Bool) (s : State) (hK : Keep β ρ z s) {tK : State} (eK : execCxlMemRequest p ld req ue s = .next tK) :
    Keep β ρ z tK := by
  unfold execCxlMemRequest at eK; simp only [Host.Outcome.next.injEq] at eK; subst eK; grind (ematch := 40) (gen := 40) (splits := 40) [keep_bump, keep_setPort, keep_fillTokens, keep_takeTokens, keep_cxlAnswer, keep_mk]

theorem keep_cxlOld {β ρ : Bool} {z : State} (s : State) (p : Nat) (l : Nat) (hK : Keep β ρ z s) :
    Keep β ρ z (State.cxlOld s p l) := by
  unfold State.cxlOld; grind (ematch := 40) (gen := 40) (splits := 40) [keep_mk]

theorem keep_execCxlTokenGrant {β ρ : Bool} {z : State} (p : Nat) (ld : Nat) (t : Nat) (s : State) (hK : Keep β ρ z s) {tK : State} (eK : execCxlTokenGrant p ld t s = .next tK) :
    Keep β ρ z tK := by
  unfold execCxlTokenGrant at eK; simp only [Host.Outcome.next.injEq] at eK; subst eK; grind (ematch := 40) (gen := 40) (splits := 40) [keep_at_, keep_setPort, keep_fillTokens, keep_takeTokens, keep_cxlAnswer, keep_cxlOld, keep_mk]

theorem keep_freeBytes {β ρ : Bool} {z : State} (s : State) (n : Nat) (hK : Keep β ρ z s) :
    Keep β ρ z (State.freeBytes s n).2 := by
  unfold State.freeBytes; grind (ematch := 40) (gen := 40) (splits := 40) [keep_mk]

theorem keep_execIdentifyMemoryDevice {β ρ : Bool} {z : State} (p : Nat) (ld : Nat) (s : State) (hK : Keep β ρ z s) {tK : State} (eK : execIdentifyMemoryDevice p ld s = .next tK) :
    Keep β ρ z tK := by
  unfold execIdentifyMemoryDevice State.onMailbox at eK; simp only [Host.Outcome.next.injEq] at eK; subst eK; grind (ematch := 40) (gen := 40) (splits := 40) [keep_send, keep_freeBytes]

theorem keep_execGetHealthInfo {β ρ : Bool} {z : State} (p : Nat) (ld : Nat) (s : State) (hK : Keep β ρ z s) {tK : State} (eK : execGetHealthInfo p ld s = .next tK) :
    Keep β ρ z tK := by
  unfold execGetHealthInfo State.onMailbox at eK; simp only [Host.Outcome.next.injEq] at eK; subst eK; grind (ematch := 40) (gen := 40) (splits := 40) [keep_send, keep_freeBytes]

theorem keep_execGetSupportedLogs {β ρ : Bool} {z : State} (p : Nat) (ld : Nat) (s : State) (hK : Keep β ρ z s) {tK : State} (eK : execGetSupportedLogs p ld s = .next tK) :
    Keep β ρ z tK := by
  unfold execGetSupportedLogs State.onMailbox at eK; simp only [Host.Outcome.next.injEq] at eK; subst eK; grind (ematch := 40) (gen := 40) (splits := 40) [keep_send]

theorem keep_execGetLog {β ρ : Bool} {z : State} (p : Nat) (ld : Nat) (uuid : Nat) (offset : Nat) (len : Nat) (s : State) (hK : Keep β ρ z s) {tK : State} (eK : execGetLog p ld uuid offset len s = .next tK) :
    Keep β ρ z tK := by
  unfold execGetLog State.onMailbox at eK; simp only [Host.Outcome.next.injEq] at eK; subst eK; grind (ematch := 40) (gen := 40) (splits := 40) [keep_send]

theorem keep_eventBytes {β ρ : Bool} {z : State} (s : State) (e : CxlEvent) (hK : Keep β ρ z s) :
    Keep β ρ z (State.eventBytes s e).2 := by
  unfold State.eventBytes; grind (ematch := 40) (gen := 40) (splits := 40) [keep_freeBytes]

theorem keep_eventsBytes {β ρ : Bool} {z : State} (s : State) (l : List CxlEvent) (hK : Keep β ρ z s) :
    Keep β ρ z (s.eventsBytes l).2 := by
  induction l generalizing s with
  | nil => exact hK
  | cons x l ih => unfold State.eventsBytes; grind (ematch := 40) (gen := 40) (splits := 40) [keep_mk, keep_foldl, keep_eventBytes]

theorem keep_execGetEventRecords {β ρ : Bool} {z : State} (p : Nat) (ld : Nat) (log : Nat) (s : State) (hK : Keep β ρ z s) {tK : State} (eK : execGetEventRecords p ld log s = .next tK) :
    Keep β ρ z tK := by
  unfold execGetEventRecords State.onMailbox at eK; simp only [Host.Outcome.next.injEq] at eK; subst eK; grind (ematch := 40) (gen := 40) (splits := 40) [keep_send, keep_eventsBytes]

theorem keep_execClearEventRecords {β ρ : Bool} {z : State} (p : Nat) (ld : Nat) (log : Nat) (handles : List Nat) (s : State) (hK : Keep β ρ z s) {tK : State} (eK : execClearEventRecords p ld log handles s = .next tK) :
    Keep β ρ z tK := by
  unfold execClearEventRecords State.onMailbox at eK; simp only [Host.Outcome.next.injEq] at eK; subst eK; grind (ematch := 40) (gen := 40) (splits := 40) [keep_send, keep_setPort, keep_mk]

theorem keep_execMailboxUnsupported {β ρ : Bool} {z : State} (p : Nat) (ld : Nat) (op : Nat) (s : State) (hK : Keep β ρ z s) {tK : State} (eK : execMailboxUnsupported p ld op s = .next tK) :
    Keep β ρ z tK := by
  unfold execMailboxUnsupported State.onMailbox at eK; simp only [Host.Outcome.next.injEq] at eK; subst eK; grind (ematch := 40) (gen := 40) (splits := 40) [keep_send]

theorem keep_execCdat {β ρ : Bool} {z : State} (p : Nat) (ld : Nat) (s : State) (hK : Keep β ρ z s) {tK : State} (eK : execCdat p ld s = .next tK) :
    Keep β ρ z tK := by
  unfold execCdat at eK; simp only [Host.Outcome.next.injEq] at eK; subst eK; grind (ematch := 40) (gen := 40) (splits := 40) [keep_send]

theorem keep_secDeny {β ρ : Bool} {z : State} (s : State) (hK : Keep β ρ z s) :
    Keep β ρ z (State.secDeny s) := by
  unfold State.secDeny; grind (ematch := 40) (gen := 40) (splits := 40) [keep_count]

theorem keep_enterPhase {β ρ : Bool} {z : State} (s : State) (p : Startup) (hp : ρ = true → z.start.val ≤ p.val) (hK : Keep β ρ z s) :
    Keep β ρ z (s.enterPhase p) := by
  unfold State.enterPhase
  exact keep_raise _ _ _ (by unfold Keep at *; grind)

theorem keep_boardStart {β ρ : Bool} {z : State} (s : State) (img : List Byte) (hK : Keep β ρ z s) :
    Keep β ρ z (State.boardStart s img) := by
  unfold State.boardStart; grind (ematch := 40) (gen := 40) (splits := 40) [keep_setReg, keep_foldl]

theorem keep_runImage {β ρ : Bool} {z : State} (s : State) (img : List Byte) (slot source : Nat) (hz : ρ = true → z.start.val ≤ 2)
    (hK : Keep β ρ z s) : Keep β ρ z (s.runImage img slot source) := by
  unfold State.runImage
  simp only []
  refine keep_enterPhase _ _ hz (keep_boardStart _ _ ?_)
  split
  · exact keep_mk hK rfl rfl ⟨rfl, rfl, rfl, rfl, rfl, rfl, rfl, rfl⟩ id
  · split
    · exact keep_raise _ _ _ (keep_mk hK rfl rfl ⟨rfl, rfl, rfl, rfl, rfl, rfl, rfl, rfl⟩ id)
    · exact keep_bump _ _ _ (keep_mk hK rfl rfl ⟨rfl, rfl, rfl, rfl, rfl, rfl, rfl, rfl⟩ id)

theorem keep_execBootSequence {β ρ : Bool} {z : State} (kat : Bool) (s : State) (hK : Keep β ρ z s) {tK : State}
    (eK : execBootSequence kat s = .next tK) : Keep β ρ z tK := by
  have hz : s.start = .verify → ρ = true → z.start.val = 0 := fun e h => by
    have := (hK.2.2.2.2.1 h).1; rw [e] at this; exact Nat.le_zero.mp this
  unfold execBootSequence at eK; simp only [Host.Outcome.next.injEq] at eK; subst eK
  split
  · exact hK
  · rename_i h
    have hv : s.start = .verify := by by_contra h'; exact h (.inl h')
    split
    · exact keep_mk hK rfl rfl ⟨rfl, rfl, rfl, rfl, rfl, rfl, rfl, rfl⟩ id
    · generalize (if s.sec.nor.mode = 0 then _ else _ : Except Nat Nat) = r
      cases r with
      | error c => exact keep_enterPhase _ _ (fun e => by rw [hz hv e]; exact Nat.zero_le _) (keep_mk hK rfl rfl ⟨rfl, rfl, rfl, rfl, rfl, rfl, rfl, rfl⟩ id)
      | ok k => exact keep_runImage _ _ _ _ (fun e => by rw [hz hv e]; exact Nat.zero_le _) (keep_mk hK rfl rfl ⟨rfl, rfl, rfl, rfl, rfl, rfl, rfl, rfl⟩ id)

theorem keep_rcvFail {β ρ : Bool} {z : State} (s : State) (p : Nat) (c : Nat) (hK : Keep β ρ z s) :
    Keep β ρ z (State.rcvFail s p c) := by
  unfold State.rcvFail; grind (ematch := 40) (gen := 40) (splits := 40) [keep_mk]

theorem keep_updFail {β ρ : Bool} {z : State} (s : State) (c : Nat) (hK : Keep β ρ z s) :
    Keep β ρ z (State.updFail s c) := by
  unfold State.updFail; grind (ematch := 40) (gen := 40) (splits := 40) [keep_raise, keep_mk]

theorem keep_startLoad {β ρ : Bool} {z : State} (s : State) (p : Nat) (update : Bool) (hK : Keep β ρ z s) :
    Keep β ρ z (State.startLoad s p update) := by
  unfold State.startLoad; grind (ematch := 40) (gen := 40) (splits := 40) [keep_mk]

theorem keep_rcvGo {β ρ : Bool} {z : State} (s : State) (src : Src) (hK : Keep β ρ z s) :
    Keep β ρ z (State.rcvGo s src) := by
  unfold State.rcvGo; grind (ematch := 40) (gen := 40) (splits := 40) [keep_secDeny, keep_rcvFail, keep_startLoad]

theorem keep_updGo {β ρ : Bool} {z : State} (s : State) (src : Src) (hK : Keep β ρ z s) :
    Keep β ρ z (State.updGo s src) := by
  unfold State.updGo; grind (ematch := 40) (gen := 40) (splits := 40) [keep_bump, keep_secDeny, keep_rcvFail, keep_updFail, keep_startLoad, keep_mk]

theorem keep_rcvMode {β ρ : Bool} {z : State} (s : State) (m : Nat) (hK : Keep β ρ z s) :
    Keep β ρ z (State.rcvMode s m) := by
  unfold State.rcvMode; grind (ematch := 40) (gen := 40) (splits := 40) [keep_setReg]

theorem keep_execRecoveryLoad {β ρ : Bool} {z : State} (src : Src) (s : State) (hK : Keep β ρ z s) {tK : State} (eK : execRecoveryLoad src s = .next tK) :
    Keep β ρ z tK := by
  unfold execRecoveryLoad at eK; simp only [Host.Outcome.next.injEq] at eK; subst eK; grind (ematch := 40) (gen := 40) (splits := 40) [keep_rcvGo, keep_rcvMode]

theorem keep_execMailboxUpdate {β ρ : Bool} {z : State} (src : Src) (s : State) (hK : Keep β ρ z s) {tK : State} (eK : execMailboxUpdate src s = .next tK) :
    Keep β ρ z tK := by
  unfold execMailboxUpdate at eK; simp only [Host.Outcome.next.injEq] at eK; subst eK; grind (ematch := 40) (gen := 40) (splits := 40) [keep_updGo, keep_rcvMode]

theorem keep_spoil {β ρ : Bool} {z : State} (s : State) (n : Nat) (hK : Keep β ρ z s) :
    Keep β ρ z (State.spoil s n) := by
  unfold State.spoil; grind (ematch := 40) (gen := 40) (splits := 40) [keep_freeBytes, keep_mk]

theorem keep_execRecoveryLoadDone {β ρ : Bool} {z : State} (s : State) (hK : Keep β ρ z s) {tK : State}
    (eK : execRecoveryLoadDone s = .next tK) : Keep β ρ z tK := by
  have hz : s.start = .recovery → ρ = true → z.start.val ≤ 2 := fun e h => by
    have := (hK.2.2.2.2.1 h).1; rw [e] at this; exact Nat.le_succ_of_le this
  unfold execRecoveryLoadDone at eK; simp only [Host.Outcome.next.injEq] at eK; subst eK
  split
  · exact hK
  · split
    · exact hK
    · rename_i h
      have hv : s.start = .recovery := by by_contra h'; exact h (.inr h')
      split
      · exact keep_rcvFail _ _ _ hK
      · split
        · exact keep_rcvFail _ _ _ hK
        · split
          · exact keep_rcvFail _ _ _ (keep_spoil _ _ hK)
          · exact keep_runImage _ _ _ _ (hz hv) (keep_mk hK rfl rfl ⟨rfl, rfl, rfl, rfl, rfl, rfl, rfl, rfl⟩ id)

theorem keep_execPldmUpdate {β ρ : Bool} {z : State} (image : List Byte) (s : State) (hK : Keep β ρ z s) {tK : State} (eK : execPldmUpdate image s = .next tK) :
    Keep β ρ z tK := by
  unfold execPldmUpdate at eK; simp only [Host.Outcome.next.injEq] at eK; subst eK; grind (ematch := 40) (gen := 40) (splits := 40) [keep_bump, keep_send, keep_mk]

theorem keep_rcvEnd {β ρ : Bool} {z : State} (s : State) (c : Nat) (hK : Keep β ρ z s) :
    Keep β ρ z (State.rcvEnd s c) := by
  unfold State.rcvEnd; grind (ematch := 40) (gen := 40) (splits := 40) [keep_mk]

theorem keep_execImageStaged {β ρ : Bool} {z : State} (s : State) (hK : Keep β ρ z s) {tK : State} (eK : execImageStaged s = .next tK) :
    Keep β ρ z tK := by
  unfold execImageStaged at eK; simp only [Host.Outcome.next.injEq] at eK; subst eK; grind (ematch := 40) (gen := 40) (splits := 40) [keep_raise, keep_fail, keep_updFail, keep_spoil, keep_rcvEnd, keep_mk]

theorem keep_execActivateFirmware {β ρ : Bool} {z : State} (_msg : List Byte) (s : State) (hK : Keep β ρ z s) {tK : State} (eK : execActivateFirmware _msg s = .next tK) :
    Keep β ρ z tK := by
  unfold execActivateFirmware at eK; simp only [Host.Outcome.next.injEq] at eK; subst eK; grind (ematch := 40) (gen := 40) (splits := 40) [keep_send, keep_freeBytes]

theorem keep_fuseStart {β ρ : Bool} {z : State} (s : State) (src : Src) (cmd : Nat) (slot : Nat) (hK : Keep β ρ z s) :
    Keep β ρ z (State.fuseStart s src cmd slot) := by
  unfold State.fuseStart; grind (ematch := 40) (gen := 40) (splits := 40) [keep_secDeny, keep_mk]

theorem keep_execSvnCommit {β ρ : Bool} {z : State} (src : Src) (s : State) (hK : Keep β ρ z s) {tK : State} (eK : execSvnCommit src s = .next tK) :
    Keep β ρ z tK := by
  unfold execSvnCommit at eK; simp only [Host.Outcome.next.injEq] at eK; subst eK; grind (ematch := 40) (gen := 40) (splits := 40) [keep_fuseStart]

theorem keep_execRevoke {β ρ : Bool} {z : State} (src : Src) (slot : Nat) (s : State) (hK : Keep β ρ z s) {tK : State} (eK : execRevoke src slot s = .next tK) :
    Keep β ρ z tK := by
  unfold execRevoke at eK; simp only [Host.Outcome.next.injEq] at eK; subst eK; grind (ematch := 40) (gen := 40) (splits := 40) [keep_fuseStart]

theorem keep_execFuseDone {β ρ : Bool} {z : State} (t : Nat) (s : State) (hK : Keep β ρ z s) {tK : State}
    (eK : execFuseDone t s = .next tK) : Keep β ρ { z with sec := { z.sec with fuse := tK.sec.fuse } } tK := by
  have hA := keep_at_ s t hK
  have hR : ∀ (u : State) (v : Sec), Keep β ρ z u → Keep β ρ { z with sec := { z.sec with
      fuse := (({ u with sec := v } : State).raise secPage 3).sec.fuse } } (({ u with sec := v } : State).raise secPage 3) := by
    intro u v h
    have h0 : Keep β ρ { z with sec := { z.sec with fuse := v.fuse } } { u with sec := v } := ⟨h.1, h.2.1, rfl, h.2.2.2⟩
    have h1 := keep_raise _ secPage 3 h0
    have h2 : (({ u with sec := v } : State).raise secPage 3).sec.fuse = v.fuse := h1.2.2.1
    rw [h2]; exact h1
  unfold execFuseDone at eK; simp only [Host.Outcome.next.injEq] at eK; subst eK
  split
  · exact ⟨hA.1, hA.2.1, rfl, hA.2.2.2⟩
  · split
    · exact hR _ _ hA
    · split
      · exact hR _ _ hA
      · exact hR _ _ hA

theorem keep_fatalError {β ρ : Bool} {z : State} (s : State) (page : Nat) (cause : Nat) (unit : Nat) (info : Nat) (hK : Keep β ρ z s) :
    Keep β ρ z (State.fatalError s page cause unit info) := by
  unfold State.fatalError; grind (ematch := 40) (gen := 40) (splits := 40) [keep_rasRecord, keep_mk]

theorem keep_startReplan {β ρ : Bool} {z : State} (s : State) (hK : Keep β ρ z s) :
    Keep β ρ z (State.startReplan s) := by
  unfold State.startReplan; grind (ematch := 40) (gen := 40) (splits := 40) [keep_mk]

theorem keep_guardEvent {β ρ : Bool} {z : State} (s : State) (unit : Nat) (info : Nat) (hK : Keep β ρ z s) :
    Keep β ρ z (State.guardEvent s unit info) := by
  unfold State.guardEvent; grind (ematch := 40) (gen := 40) (splits := 40) [keep_count, keep_rasRecord, keep_startReplan]

theorem keep_raiseFloor {ρ : Bool} {z : State} (s : State) (i : Nat) (hK : Keep false ρ z s) : Keep false ρ z (s.raiseFloor i) := by
  unfold State.raiseFloor
  exact keep_betweenOps _ (keep_cfgNow _ (keep_guardEvent _ _ _ (keep_raise _ _ _
    (keep_mkBanks hK rfl rfl (fun h => ⟨h, Nat.le_refl _⟩) (fun t => tables_banks (rising_floorBank _ t.2.1) t.2.2.1 t.2.2.2.1 t)))))

theorem keep_fastGuard {ρ : Bool} {z : State} (s : State) (ps : List Int) (hK : Keep false ρ z s) :
    Keep false ρ z (State.fastGuard s ps) := by
  unfold State.fastGuard; grind (ematch := 40) (gen := 40) (splits := 40) [keep_setVcore, keep_fatalError, keep_guardEvent, keep_raiseFloor, keep_mk]

theorem keep_noteSlack {β ρ : Bool} {z : State} (s : State) (ps : List Int) (hK : Keep β ρ z s) :
    Keep β ρ z (State.noteSlack s ps) := by
  unfold State.noteSlack; grind (ematch := 40) (gen := 40) (splits := 40) [keep_mk, keep_foldl]

theorem keep_execPathDelaySample {ρ : Bool} {z : State} (t : Nat) (ps : List Int) (s : State) (hK : Keep false ρ z s) {tK : State} (eK : execPathDelaySample t ps s = .next tK) :
    Keep false ρ z tK := by
  unfold execPathDelaySample at eK; simp only [Host.Outcome.next.injEq] at eK; subst eK; grind (ematch := 40) (gen := 40) (splits := 40) [keep_at_, keep_fastGuard, keep_noteSlack]

theorem rising_sampleAll {l : Sparse Nat} (n : Nat) (vs : List Nat) (h : Sparse.rising l) : Sparse.rising (sampleAll l n vs) := by
  unfold sampleAll
  generalize List.range n = r
  induction r generalizing l with
  | nil => exact h
  | cons i r ih =>
    rw [List.foldl_cons]
    apply ih
    split
    · exact rising_sset _ _ _ h
    · exact h

theorem keep_execRingOscillatorSample {β ρ : Bool} {z : State} (t : Nat) (vs : List Nat) (s : State) (hK : Keep β ρ z s) {tK : State}
    (eK : execRingOscillatorSample t vs s = .next tK) : Keep β ρ z tK := by
  have h := keep_at_ s t hK
  unfold execRingOscillatorSample at eK; simp only [Host.Outcome.next.injEq] at eK; subst eK
  split
  · exact h
  · exact keep_mk h rfl rfl ⟨rfl, rfl, rfl, rfl, rfl, rfl, rfl, rfl⟩ (fun t => ⟨t.1, t.2.1, t.2.2.1, t.2.2.2.1, t.2.2.2.2.1, t.2.2.2.2.2.1, t.2.2.2.2.2.2.1, t.2.2.2.2.2.2.2.1,
      t.2.2.2.2.2.2.2.2.1, t.2.2.2.2.2.2.2.2.2.1, rising_sampleAll _ _ t.2.2.2.2.2.2.2.2.2.2.1, t.2.2.2.2.2.2.2.2.2.2.2⟩)

theorem keep_execLeakageSample {β ρ : Bool} {z : State} (t : Nat) (vs : List Nat) (s : State) (hK : Keep β ρ z s) {tK : State}
    (eK : execLeakageSample t vs s = .next tK) : Keep β ρ z tK := by
  have h := keep_at_ s t hK
  unfold execLeakageSample at eK; simp only [Host.Outcome.next.injEq] at eK; subst eK
  split
  · exact h
  · exact keep_mk h rfl rfl ⟨rfl, rfl, rfl, rfl, rfl, rfl, rfl, rfl⟩ (fun t => ⟨t.1, t.2.1, t.2.2.1, t.2.2.2.1, t.2.2.2.2.1, t.2.2.2.2.2.1, t.2.2.2.2.2.2.1, t.2.2.2.2.2.2.2.1,
      t.2.2.2.2.2.2.2.2.1, t.2.2.2.2.2.2.2.2.2.1, t.2.2.2.2.2.2.2.2.2.2.1, rising_sampleAll _ _ t.2.2.2.2.2.2.2.2.2.2.2.1, t.2.2.2.2.2.2.2.2.2.2.2.2⟩)

theorem keep_execRefreshMarginTest {β ρ : Bool} {z : State} (unit : Nat) (margin : Nat) (s : State) (hK : Keep β ρ z s) {tK : State} (eK : execRefreshMarginTest unit margin s = .next tK) :
    Keep β ρ z tK := by
  unfold execRefreshMarginTest at eK; simp only [Host.Outcome.next.injEq] at eK; subst eK; grind (ematch := 40) (gen := 40) (splits := 40) [keep_mk]

theorem keep_execReplanStart {β ρ : Bool} {z : State} (t : Nat) (s : State) (hK : Keep β ρ z s) {tK : State} (eK : execReplanStart t s = .next tK) :
    Keep β ρ z tK := by
  unfold execReplanStart at eK; simp only [Host.Outcome.next.injEq] at eK; subst eK; grind (ematch := 40) (gen := 40) (splits := 40) [keep_at_, keep_startReplan]

theorem keep_replanCmd {β ρ : Bool} {z : State} (s : State) (hK : Keep β ρ z s) :
    Keep β ρ z (State.replanCmd s) := by
  unfold State.replanCmd; grind (ematch := 40) (gen := 40) (splits := 40) [keep_startReplan]

theorem keep_execReplanNow {β ρ : Bool} {z : State} (src : Src) (s : State) (hK : Keep β ρ z s) {tK : State} (eK : execReplanNow src s = .next tK) :
    Keep β ρ z tK := by
  unfold execReplanNow at eK; simp only [Host.Outcome.next.injEq] at eK; subst eK; grind (ematch := 40) (gen := 40) (splits := 40) [keep_replanCmd]

theorem keep_ageCrit {β ρ : Bool} {z : State} (s : State) (unit : Nat) (info : Nat) (hK : Keep β ρ z s) :
    Keep β ρ z (State.ageCrit s unit info) := by
  unfold State.ageCrit; grind (ematch := 40) (gen := 40) (splits := 40) [keep_raise, keep_rasRecord, keep_mk]

theorem keep_execReplanEnd {ρ : Bool} {z : State} (t : Nat) (outs : List Nat) (s : State) (hK : Keep false ρ z s) {tK : State} (eK : execReplanEnd t outs s = .next tK) :
    Keep false ρ z tK := by
  unfold execReplanEnd at eK; simp only [Host.Outcome.next.injEq] at eK; subst eK; grind (ematch := 40) (gen := 40) (splits := 40) [keep_at_, keep_cfgNow, keep_failStack, keep_ageCrit, keep_mk, keep_foldl, keep_mkBanks]

theorem keep_resetBase {z : State} (s : State) (hK : Keep false false z s) : Keep false false z s.resetBase :=
  ⟨⟨hK.1.1, hK.1.2.1, hK.1.2.2.1, rfl⟩, hK.2.1, hK.2.2.1, hK.2.2.2.1, fun e => (nomatch e), fun e => (nomatch e), by
    have h := hK.2.2.2.2.2.2
    exact ⟨rising_nil, rising_nil, rising_nil, rising_nil, h.2.2.2.2.1, h.2.2.2.2.2.1, h.2.2.2.2.2.2.1, rising_nil, rising_nil, rising_nil, rising_nil, rising_nil, rising_nil⟩⟩

theorem keep_coldReset {z : State} (s : State) (cause : Nat) (hK : Keep false false z s) :
    Keep false false z (State.coldReset s cause) := by
  unfold State.coldReset; grind (ematch := 40) (gen := 40) (splits := 40) [keep_setReg, keep_resetBase]

theorem keep_bankStart {β ρ : Bool} {z : State} (s : State) (hK : Keep β ρ z s) : Keep β ρ z s.bankStart := by
  have h1 : ∀ w : State, Keep β ρ z w → ∀ e p n l, Keep β ρ z { w with stk := { w.stk with epoch := e, period := p }, net := { w.net with spill := n, spillBase := l }, cfg := { w.cfg with lag := [(0x20, 1)] } } :=
    fun w h e p n l => keep_mk h rfl rfl ⟨rfl, rfl, rfl, rfl, rfl, rfl, rfl, rfl⟩ id
  have h2 : ∀ w : State, Keep β ρ z w → Keep β ρ z { w with cfg := { w.cfg with lag := [] } } :=
    fun w h => keep_mk h rfl rfl ⟨rfl, rfl, rfl, rfl, rfl, rfl, rfl, rfl⟩ id
  unfold State.bankStart
  have h3 := h2 _ (keep_betweenOps _ (h1 s hK (gridOf s.act).1 (gridOf s.act).2
    (s.cfgReg (pg 0x64 + 0x120)) ((s.cfgReg (pg 0x64 + 0x124)).toNat + 2 ^ 32 * (s.cfgReg (pg 0x64 + 0x128)).toNat)))
  exact keep_foldl _ _ _ h3 (fun s n h => keep_gateTake _ _ (keep_gateFill _ _ _ h))

theorem rising_cfgLatch (s : State) : s.cfgLatch.rising := rising_sset _ _ _ (rising_sset _ _ _ (rising_sset _ _ _ rising_nil))

theorem keep_warmReset {z : State} (s : State) (cause : Nat) (hK : Keep false false z s) : Keep false false z (s.warmReset cause) := by
  have h0 := hK.2.2.2.2.2.2
  unfold State.warmReset
  refine keep_raise _ _ _ (keep_bump _ _ _ (keep_setReg _ _ _ (keep_fullTokens _ _ (keep_fullTokens _ _
    (keep_bankStart _ (keep_mkReset (keep_resetBase s hK) rfl ?_))))))
  intro t
  exact ⟨rising_filter _ h0.1, h0.2.1, h0.2.2.1, h0.2.2.2.1, t.2.2.2.2.1, t.2.2.2.2.2.1, t.2.2.2.2.2.2.1, h0.2.2.2.2.2.2.2.1,
    t.2.2.2.2.2.2.2.2.1, t.2.2.2.2.2.2.2.2.2.1, t.2.2.2.2.2.2.2.2.2.2.1, t.2.2.2.2.2.2.2.2.2.2.2.1, rising_cfgLatch s⟩

theorem keep_glbCtrl {z : State} (s : State) (src : Src) (v : Word) (hK : Keep false false z s) :
    Keep false false z (State.glbCtrl s src v) := by
  unfold State.glbCtrl; grind (ematch := 40) (gen := 40) (splits := 40) [keep_count, keep_warmReset]

theorem keep_execWarmReset {z : State} (src : Src) (v : Word) (s : State) (hK : Keep false false z s) {tK : State} (eK : execWarmReset src v s = .next tK) :
    Keep false false z tK := by
  unfold execWarmReset at eK; simp only [Host.Outcome.next.injEq] at eK; subst eK; grind (ematch := 40) (gen := 40) (splits := 40) [keep_glbCtrl]

theorem keep_platSend {β ρ : Bool} {z : State} (s : State) (r : RasRec) (hK : Keep β ρ z s) :
    Keep β ρ z (State.platSend s r) := by
  unfold State.platSend; grind (ematch := 40) (gen := 40) (splits := 40) [keep_send]

theorem keep_execFatalReset {z : State} (t : Nat) (s : State) (hK : Keep false false z s) {tK : State} (eK : execFatalReset t s = .next tK) :
    Keep false false z tK := by
  unfold execFatalReset at eK; simp only [Host.Outcome.next.injEq] at eK; subst eK; grind (ematch := 40) (gen := 40) (splits := 40) [keep_setReg, keep_raise, keep_at_, keep_warmReset, keep_platSend]

theorem keep_execResetL {z : State} (t : Nat) (s : State) (hK : Keep false false z s) {tK : State} (eK : execResetL t s = .next tK) :
    Keep false false z tK := by
  unfold execResetL at eK; simp only [Host.Outcome.next.injEq] at eK; subst eK; grind (ematch := 40) (gen := 40) (splits := 40) [keep_at_, keep_coldReset, keep_mk]

theorem keep_execPwrGood {z : State} (level : Bool) (t : Nat) (s : State) (hK : Keep false false z s) {tK : State} (eK : execPwrGood level t s = .next tK) :
    Keep false false z tK := by
  unfold execPwrGood at eK; simp only [Host.Outcome.next.injEq] at eK; subst eK; grind (ematch := 40) (gen := 40) (splits := 40) [keep_at_, keep_coldReset, keep_mk]

theorem keep_released {β ρ : Bool} {z : State} (s : State) (hK : Keep β ρ z s) :
    Keep β ρ z (State.released s) := by
  unfold State.released; grind (ematch := 40) (gen := 40) (splits := 40) [keep_mk]

theorem keep_execResetRelease {β ρ : Bool} {z : State} (t : Nat) (s : State) (hK : Keep β ρ z s) {tK : State} (eK : execResetRelease t s = .next tK) :
    Keep β ρ z tK := by
  unfold execResetRelease at eK; simp only [Host.Outcome.next.injEq] at eK; subst eK; grind (ematch := 40) (gen := 40) (splits := 40) [keep_at_, keep_released, keep_mk]

theorem keep_execSysRefclkLoss {z : State} (t : Nat) (s : State) (hK : Keep false false z s) {tK : State} (eK : execSysRefclkLoss t s = .next tK) :
    Keep false false z tK := by
  unfold execSysRefclkLoss at eK; simp only [Host.Outcome.next.injEq] at eK; subst eK; grind (ematch := 40) (gen := 40) (splits := 40) [keep_at_, keep_coldReset, keep_mk]

theorem keep_execSysRefclkReturn {β ρ : Bool} {z : State} (t : Nat) (s : State) (hK : Keep β ρ z s) {tK : State} (eK : execSysRefclkReturn t s = .next tK) :
    Keep β ρ z tK := by
  unfold execSysRefclkReturn at eK; simp only [Host.Outcome.next.injEq] at eK; subst eK; grind (ematch := 40) (gen := 40) (splits := 40) [keep_at_, keep_released, keep_mk]

theorem keep_execThermalComparator {z : State} (s : State) (hK : Keep false false z s) {tK : State} (eK : execThermalComparator s = .next tK) :
    Keep false false z tK := by
  unfold execThermalComparator at eK; simp only [Host.Outcome.next.injEq] at eK; subst eK; grind (ematch := 40) (gen := 40) (splits := 40) [keep_coldReset, keep_mk]

theorem keep_execNetRefclkLoss {β ρ : Bool} {z : State} (die : Nat) (t : Nat) (s : State) (hK : Keep β ρ z s) {tK : State} (eK : execNetRefclkLoss die t s = .next tK) :
    Keep β ρ z tK := by
  unfold execNetRefclkLoss at eK; simp only [Host.Outcome.next.injEq] at eK; subst eK; grind (ematch := 40) (gen := 40) (splits := 40) [keep_at_, keep_netDown, keep_foldl]

theorem keep_execDieToDieLinkLoss {β ρ : Bool} {z : State} (die : Nat) (s : State) (hK : Keep β ρ z s) {tK : State} (eK : execDieToDieLinkLoss die s = .next tK) :
    Keep β ρ z tK := by
  unfold execDieToDieLinkLoss at eK; simp only [Host.Outcome.next.injEq] at eK; subst eK; grind (ematch := 40) (gen := 40) (splits := 40) [keep_rasRecord, keep_setNetPort, keep_netDown, keep_mk, keep_foldl]

theorem nextPhase_le {s : State} {p : Startup} (h : s.nextPhase = some p) : s.start.val ≤ p.val := by
  unfold State.nextPhase at h
  cases e : s.start <;> rw [e] at h <;> simp only [] at h <;> first | (split at h) | skip
  all_goals first | (cases h; decide) | (cases h)

theorem keep_execPhaseEnd {β ρ : Bool} {z : State} (t : Nat) (s : State) (hK : Keep β ρ z s) {tK : State}
    (eK : execPhaseEnd t s = .next tK) : Keep β ρ z tK := by
  have hA := keep_at_ s t hK
  unfold execPhaseEnd at eK; simp only [Host.Outcome.next.injEq] at eK; subst eK
  split
  · exact hA
  · split
    · exact hA
    · rename_i p hp
      have h1 := keep_enterPhase _ p (fun e => le_trans (hA.2.2.2.2.1 e).1 (nextPhase_le hp)) (keep_setReg _ (pg 0x00 + 0x110 + 4 * ((s.at_ t).start.val - 2))
        (w32 (((s.at_ t).clk - (s.at_ t).phaseAt) / 1000000)) hA)
      split
      · exact keep_raise _ _ _ h1
      · exact h1

theorem keep_govern {β ρ : Bool} {z : State} (s : State) (hK : Keep β ρ z s) :
    Keep β ρ z (State.govern s) := by
  unfold State.govern; grind (ematch := 40) (gen := 40) (splits := 40) [keep_betweenOps, keep_mk]

theorem keep_execTelemetryFrame {β ρ : Bool} {z : State} (t : Nat) (railsMw : List Nat) (coreMa : Nat) (s : State) (hK : Keep β ρ z s) {tK : State} (eK : execTelemetryFrame t railsMw coreMa s = .next tK) :
    Keep β ρ z tK := by
  unfold execTelemetryFrame at eK; simp only [Host.Outcome.next.injEq] at eK; subst eK; grind (ematch := 40) (gen := 40) (splits := 40) [keep_at_, keep_mk]

theorem keep_senseCore {β ρ : Bool} {z : State} (s : State) (mv : Nat) (hK : Keep β ρ z s) :
    Keep β ρ z (State.senseCore s mv) := by
  unfold State.senseCore; grind (ematch := 40) (gen := 40) (splits := 40) [keep_fatalError, keep_mk]

theorem keep_powerDown {β ρ : Bool} {z : State} (s : State) (hK : Keep β ρ z s) :
    Keep β ρ z (State.powerDown s) := by
  unfold State.powerDown; grind (ematch := 40) (gen := 40) (splits := 40) [keep_bump, keep_setPsaLevels, keep_govern, keep_mk]

theorem keep_execPowerSample {β ρ : Bool} {z : State} (t : Nat) (mv : Nat) (s : State) (hK : Keep β ρ z s) {tK : State} (eK : execPowerSample t mv s = .next tK) :
    Keep β ρ z tK := by
  unfold execPowerSample at eK; simp only [Host.Outcome.next.injEq] at eK; subst eK; grind (ematch := 40) (gen := 40) (splits := 40) [keep_setReg, keep_raise, keep_at_, keep_senseCore, keep_powerDown, keep_mk]

theorem keep_execClockRaise {β ρ : Bool} {z : State} (t : Nat) (s : State) (hK : Keep β ρ z s) {tK : State} (eK : execClockRaise t s = .next tK) :
    Keep β ρ z tK := by
  unfold execClockRaise at eK; simp only [Host.Outcome.next.injEq] at eK; subst eK; grind (ematch := 40) (gen := 40) (splits := 40) [keep_at_, keep_setPsaLevels, keep_govern, keep_mk]

theorem keep_execTelemetryLoss {β ρ : Bool} {z : State} (t : Nat) (s : State) (hK : Keep β ρ z s) {tK : State} (eK : execTelemetryLoss t s = .next tK) :
    Keep β ρ z tK := by
  unfold execTelemetryLoss at eK; simp only [Host.Outcome.next.injEq] at eK; subst eK; grind (ematch := 40) (gen := 40) (splits := 40) [keep_count, keep_at_, keep_mk]

theorem keep_execVrmHotL {β ρ : Bool} {z : State} (low : Bool) (s : State) (hK : Keep β ρ z s) {tK : State} (eK : execVrmHotL low s = .next tK) :
    Keep β ρ z tK := by
  unfold execVrmHotL at eK; simp only [Host.Outcome.next.injEq] at eK; subst eK; grind (ematch := 40) (gen := 40) (splits := 40) [keep_count, keep_mk]

theorem keep_tempGovern {β ρ : Bool} {z : State} (s : State) (v : List Nat) (hK : Keep β ρ z s) :
    Keep β ρ z (State.tempGovern s v) := by
  unfold State.tempGovern; grind (ematch := 40) (gen := 40) (splits := 40) [keep_count, keep_govern, keep_mk, keep_foldl]

theorem keep_tempWork {β ρ : Bool} {z : State} (s : State) (v : List Nat) (hK : Keep β ρ z s) :
    Keep β ρ z (State.tempWork s v) := by
  unfold State.tempWork; grind (ematch := 40) (gen := 40) (splits := 40) [keep_raise, keep_fatalError, keep_tempGovern, keep_mk]

theorem keep_execTempSample {β ρ : Bool} {z : State} (t : Nat) (temps : List Nat) (s : State) (hK : Keep β ρ z s) {tK : State} (eK : execTempSample t temps s = .next tK) :
    Keep β ρ z tK := by
  unfold execTempSample at eK; simp only [Host.Outcome.next.injEq] at eK; subst eK; grind (ematch := 40) (gen := 40) (splits := 40) [keep_at_, keep_released, keep_tempWork, keep_mk]

theorem keep_execCeStormEnd {β ρ : Bool} {z : State} (page : Nat) (t : Nat) (s : State) (hK : Keep β ρ z s) {tK : State} (eK : execCeStormEnd page t s = .next tK) :
    Keep β ρ z tK := by
  unfold execCeStormEnd at eK; simp only [Host.Outcome.next.injEq] at eK; subst eK; grind (ematch := 40) (gen := 40) (splits := 40) [keep_at_, keep_mk]

theorem keep_rasClear {β ρ : Bool} {z : State} (s : State) (hK : Keep β ρ z s) :
    Keep β ρ z (State.rasClear s) := by
  unfold State.rasClear; grind (ematch := 40) (gen := 40) (splits := 40) [keep_mk]

theorem keep_execRasLogClear {β ρ : Bool} {z : State} (src : Src) (s : State) (hK : Keep β ρ z s) {tK : State} (eK : execRasLogClear src s = .next tK) :
    Keep β ρ z tK := by
  unfold execRasLogClear at eK; simp only [Host.Outcome.next.injEq] at eK; subst eK; grind (ematch := 40) (gen := 40) (splits := 40) [keep_rasClear]

theorem keep_execPldmPlatformEvent {β ρ : Bool} {z : State} (s : State) (hK : Keep β ρ z s) {tK : State} (eK : execPldmPlatformEvent s = .next tK) :
    Keep β ρ z tK := by
  unfold execPldmPlatformEvent at eK; simp only [Host.Outcome.next.injEq] at eK; subst eK; grind (ematch := 40) (gen := 40) (splits := 40) [keep_platSend, keep_mk]

theorem keep_execMctpControlMessage {β ρ : Bool} {z : State} (cmd : Nat) (_msg : List Byte) (s : State) (hK : Keep β ρ z s) {tK : State} (eK : execMctpControlMessage cmd _msg s = .next tK) :
    Keep β ρ z tK := by
  unfold execMctpControlMessage at eK; simp only [Host.Outcome.next.injEq] at eK; subst eK; grind (ematch := 40) (gen := 40) (splits := 40) [keep_send, keep_freeBytes]

end Sys2Proof.Machine
end

