-- ==== Sys2Proof/Laws/KeepRegisters.lean ====
section
/-! SUPPORT. The lemmas of KeepBase for the operations and meanings of Tenant, RegRead, Spdm, RegPages. -/

namespace Sys2Proof.Machine

theorem keep_tenDenied {β ρ : Bool} {z : State} (s : State) (hK : Keep β ρ z s) :
    Keep β ρ z (State.tenDenied s) := by
  unfold State.tenDenied; grind (ematch := 40) (gen := 40) (splits := 40) [keep_count]

theorem keep_setTenData {β ρ : Bool} {z : State} (s : State) (ws : List Word) (hK : Keep β ρ z s) :
    Keep β ρ z (State.setTenData s ws) := by
  unfold State.setTenData; grind (ematch := 40) (gen := 40) (splits := 40) [keep_setReg, keep_foldl]

theorem keep_tenResult {β ρ : Bool} {z : State} (s : State) (r : Nat) (hK : Keep β ρ z s) :
    Keep β ρ z (State.tenResult s r) := by
  unfold State.tenResult; grind (ematch := 40) (gen := 40) (splits := 40) [keep_mk]

theorem keep_tenRead {β ρ : Bool} {z : State} (s : State) (hK : Keep β ρ z s) :
    Keep β ρ z (State.tenRead s) := by
  unfold State.tenRead; grind (ematch := 40) (gen := 40) (splits := 40) [keep_setTenData, keep_tenResult]

theorem keep_tenWrite {β ρ : Bool} {z : State} (s : State) (hK : Keep β ρ z s) :
    Keep β ρ z (State.tenWrite s) := by
  unfold State.tenWrite; grind (ematch := 40) (gen := 40) (splits := 40) [keep_count, keep_setRecord, keep_tenResult, keep_mk, keep_foldl, keep_cxlClear]

theorem keep_execTenOpRead {β ρ : Bool} {z : State} (src : Src) (s : State) (hK : Keep β ρ z s) {tK : State} (eK : execTenOpRead src s = .next tK) :
    Keep β ρ z tK := by
  unfold execTenOpRead State.onTen at eK; simp only [Host.Outcome.next.injEq] at eK; subst eK; grind (ematch := 40) (gen := 40) (splits := 40) [keep_tenRead, keep_tenDenied]

theorem keep_execTenOpWrite {β ρ : Bool} {z : State} (src : Src) (s : State) (hK : Keep β ρ z s) {tK : State} (eK : execTenOpWrite src s = .next tK) :
    Keep β ρ z tK := by
  unfold execTenOpWrite State.onTen at eK; simp only [Host.Outcome.next.injEq] at eK; subst eK; grind (ematch := 40) (gen := 40) (splits := 40) [keep_tenWrite, keep_tenDenied]

theorem keep_freeT1 {β ρ : Bool} {z : State} (n : Nat) (s : State) (m : Nat) (hK : Keep β ρ z s) :
    Keep β ρ z (State.freeT1 n s m) := by
  induction n generalizing s with
  | zero => exact hK
  | succ n ih => unfold State.freeT1; grind (ematch := 40) (gen := 40) (splits := 40) [keep_mk, keep_foldl, keep_releaseCopy, keep_endNow, keep_bump]

theorem keep_extentTake {β ρ : Bool} {z : State} (s : State) (i : Nat) (r : List Word) (b : Nat) (hK : Keep β ρ z s) :
    Keep β ρ z (s.extentTake i r b) := by
  unfold State.extentTake
  have h := keep_freeT1 (s.dir.slots.length + s.tier.psets.length + 1) s b hK
  simp only []
  split
  · exact h
  · have h2 : ∀ w : State, Keep β ρ z w → Keep β ρ z { w with hlt := { w.hlt with deadExt := w.hlt.deadExt.filter (fun e => decide (e.1 ≠ i)) } } :=
      fun w h => keep_mk h rfl rfl ⟨rfl, rfl, rfl, rfl, rfl, rfl, rfl, rfl⟩ id
    have h3 : ∀ w : State, Keep β ρ z w → Keep β ρ z { w with ten := { w.ten with busy := none, result := 0 } } :=
      fun w h => keep_mk h rfl rfl ⟨rfl, rfl, rfl, rfl, rfl, rfl, rfl, rfl⟩ id
    exact h3 _ (keep_cacheTrim _ _ (h2 _ (keep_setRecord _ 3 i r (keep_cxlClear _ (rfld r 2 0 11 * 2 ^ 28) b h))))

theorem keep_execExtentActivate {β ρ : Bool} {z : State} (s : State) (hK : Keep β ρ z s) {tK : State} (eK : execExtentActivate s = .next tK) :
    Keep β ρ z tK := by
  unfold execExtentActivate at eK; simp only [Host.Outcome.next.injEq] at eK; subst eK; grind (ematch := 40) (gen := 40) (splits := 40) [keep_extentTake]

theorem keep_tenFmWrite {β ρ : Bool} {z : State} (s : State) (v : Word) (hK : Keep β ρ z s) :
    Keep β ρ z (State.tenFmWrite s v) := by
  unfold State.tenFmWrite; grind (ematch := 40) (gen := 40) (splits := 40) [keep_setFm]

theorem keep_execTenFm {β ρ : Bool} {z : State} (src : Src) (v : Word) (s : State) (hK : Keep β ρ z s) {tK : State} (eK : execTenFm src v s = .next tK) :
    Keep β ρ z tK := by
  unfold execTenFm State.onTen at eK; simp only [Host.Outcome.next.injEq] at eK; subst eK; grind (ematch := 40) (gen := 40) (splits := 40) [keep_tenFmWrite, keep_tenDenied]

theorem keep_revokeEnd {β ρ : Bool} {z : State} (s : State) (r : Revoke) (hK : Keep β ρ z s) :
    Keep β ρ z (State.revokeEnd s r) := by
  unfold State.revokeEnd; grind (ematch := 40) (gen := 40) (splits := 40) [keep_raise, keep_setRecord, keep_done, keep_mk, keep_foldl]

theorem keep_execExtentRevoke {β ρ : Bool} {z : State} (id : Nat) (s : State) (hK : Keep β ρ z s) {tK : State} (eK : execExtentRevoke id s = .next tK) :
    Keep β ρ z tK := by
  unfold execExtentRevoke State.onNew at eK; simp only [Host.Outcome.next.injEq] at eK; subst eK; grind (ematch := 40) (gen := 40) (splits := 40) [keep_fail, keep_revokeEnd, keep_setRunning]

theorem keep_execRevokeDrainEnd {β ρ : Bool} {z : State} (id : Nat) (s : State) (hK : Keep β ρ z s) {tK : State} (eK : execRevokeDrainEnd id s = .next tK) :
    Keep β ρ z tK := by
  unfold execRevokeDrainEnd at eK; simp only [Host.Outcome.next.injEq] at eK; subst eK; grind (ematch := 40) (gen := 40) (splits := 40) [keep_revokeEnd]

theorem keep_execMctpCommand {β ρ : Bool} {z : State} (ws : List Word) (s : State) (hK : Keep β ρ z s) {tK : State} (eK : execMctpCommand ws s = .next tK) :
    Keep β ρ z tK := by
  unfold execMctpCommand at eK; simp only [Host.Outcome.next.injEq] at eK; subst eK; grind (ematch := 40) (gen := 40) (splits := 40) [keep_accept, keep_fail, keep_acceptRun]

theorem keep_latchFrom {β ρ : Bool} {z : State} (s : State) (a : Nat) (hK : Keep β ρ z s) :
    Keep β ρ z (State.latchFrom s a) := by
  unfold State.latchFrom; grind (ematch := 40) (gen := 40) (splits := 40) [keep_mk, tables_latch]

theorem keep_setSpdm {β ρ : Bool} {z : State} (s : State) (tr : Nat) (v : Spdm) (hK : Keep β ρ z s) :
    Keep β ρ z (State.setSpdm s tr v) := by
  unfold State.setSpdm; grind (ematch := 40) (gen := 40) (splits := 40) [keep_mk]

theorem keep_spdmSend {β ρ : Bool} {z : State} (s : State) (tr : Nat) (m : List Byte) (hK : Keep β ρ z s) :
    Keep β ρ z (State.spdmSend s tr m) := by
  unfold State.spdmSend; grind (ematch := 40) (gen := 40) (splits := 40) [keep_send]

theorem keep_spdmReply {β ρ : Bool} {z : State} (s : State) (tr : Nat) (m : List Byte) (hK : Keep β ρ z s) :
    Keep β ρ z (State.spdmReply s tr m) := by
  unfold State.spdmReply; grind (ematch := 40) (gen := 40) (splits := 40) [keep_setSpdm, keep_spdmSend, keep_mk]

theorem keep_spdmVersion {β ρ : Bool} {z : State} (s : State) (tr : Nat) (m : List Byte) (hK : Keep β ρ z s) :
    Keep β ρ z (State.spdmVersion s tr m).1 := by
  unfold State.spdmVersion; grind (ematch := 40) (gen := 40) (splits := 40) [keep_setSpdm, keep_mk]

theorem keep_spdmCaps {β ρ : Bool} {z : State} (s : State) (tr : Nat) (m : List Byte) (hK : Keep β ρ z s) :
    Keep β ρ z (State.spdmCaps s tr m).1 := by
  unfold State.spdmCaps; grind (ematch := 40) (gen := 40) (splits := 40) [keep_setSpdm, keep_mk]

theorem keep_spdmAlgs {β ρ : Bool} {z : State} (s : State) (tr : Nat) (m : List Byte) (hK : Keep β ρ z s) :
    Keep β ρ z (State.spdmAlgs s tr m).1 := by
  unfold State.spdmAlgs; grind (ematch := 40) (gen := 40) (splits := 40) [keep_setSpdm, keep_mk]

theorem keep_spdmLog {β ρ : Bool} {z : State} (s : State) (tr : Nat) (m : List Byte) (r : List Byte) (hK : Keep β ρ z s) :
    Keep β ρ z (State.spdmLog s tr m r) := by
  unfold State.spdmLog; grind (ematch := 40) (gen := 40) (splits := 40) [keep_setSpdm, keep_mk]

theorem keep_spdmDigests {β ρ : Bool} {z : State} (s : State) (tr : Nat) (m : List Byte) (hK : Keep β ρ z s) :
    Keep β ρ z (State.spdmDigests s tr m).1 := by
  unfold State.spdmDigests; grind (ematch := 40) (gen := 40) (splits := 40) [keep_spdmLog]

theorem keep_spdmCert {β ρ : Bool} {z : State} (s : State) (tr : Nat) (m : List Byte) (hK : Keep β ρ z s) :
    Keep β ρ z (State.spdmCert s tr m).1 := by
  unfold State.spdmCert; grind (ematch := 40) (gen := 40) (splits := 40) [keep_spdmLog]

theorem keep_spdmChallenge {β ρ : Bool} {z : State} (s : State) (tr : Nat) (m : List Byte) (hK : Keep β ρ z s) :
    Keep β ρ z (State.spdmChallenge s tr m).1 := by
  unfold State.spdmChallenge; grind (ematch := 40) (gen := 40) (splits := 40) [keep_freeBytes, keep_spdmLog]

theorem keep_spdmMeas {β ρ : Bool} {z : State} (s : State) (tr : Nat) (m : List Byte) (hK : Keep β ρ z s) :
    Keep β ρ z (State.spdmMeas s tr m).1 := by
  unfold State.spdmMeas; grind (ematch := 40) (gen := 40) (splits := 40) [keep_freeBytes, keep_spdmLog]

theorem keep_spdmNegotiated {β ρ : Bool} {z : State} (s : State) (tr : Nat) (m : List Byte) (f : State → State × Ans) (hK : Keep β ρ z s)
    (hf : ∀ s, Keep β ρ z s → Keep β ρ z (f s).1) : Keep β ρ z (s.spdmNegotiated tr m f).1 := by
  unfold State.spdmNegotiated
  simp only []
  repeat' split
  all_goals first | exact hK | exact hf _ hK

theorem keep_spdmReady {β ρ : Bool} {z : State} (s : State) (tr : Nat) (m : List Byte) (hK : Keep β ρ z s) :
    Keep β ρ z (State.spdmReady s tr m).1 := by
  unfold State.spdmReady; grind (ematch := 40) (gen := 40) (splits := 40) [keep_done, keep_freeBytes, keep_setSpdm, keep_mk]

theorem keep_spdmAnswer {β ρ : Bool} {z : State} (s : State) (tr : Nat) (m : List Byte) (hK : Keep β ρ z s) :
    Keep β ρ z (State.spdmAnswer s tr m).1 := by
  unfold State.spdmAnswer; grind (ematch := 40) (gen := 40) (splits := 40) [keep_spdmVersion, keep_spdmCaps, keep_spdmAlgs, keep_spdmDigests, keep_spdmCert, keep_spdmChallenge, keep_spdmMeas, keep_spdmNegotiated, keep_spdmReady]

theorem keep_spdmQueue {β ρ : Bool} {z : State} (s : State) (tr : Nat) (code : Nat) (r : List Byte) (hK : Keep β ρ z s) :
    Keep β ρ z (State.spdmQueue s tr code r).1 := by
  unfold State.spdmQueue; grind (ematch := 40) (gen := 40) (splits := 40) [keep_done, keep_freeBytes, keep_setSpdm, keep_mk]

theorem keep_spdmResponse {β ρ : Bool} {z : State} (s : State) (tr : Nat) (m : List Byte) (hK : Keep β ρ z s) :
    Keep β ρ z (State.spdmResponse s tr m).1 := by
  unfold State.spdmResponse; grind (ematch := 40) (gen := 40) (splits := 40) [keep_bump, keep_spdmAnswer, keep_spdmQueue]

theorem keep_spdmRow {β ρ : Bool} {z : State} (s : State) (tr : Nat) (m : List Byte) (ok : Bool) (hK : Keep β ρ z s) :
    Keep β ρ z (State.spdmRow s tr m ok) := by
  unfold State.spdmRow; grind (ematch := 40) (gen := 40) (splits := 40) [keep_spdmReply, keep_spdmResponse]

theorem keep_execGetVersion {β ρ : Bool} {z : State} (tr : Nat) (msg : List Byte) (s : State) (hK : Keep β ρ z s) {tK : State} (eK : execGetVersion tr msg s = .next tK) :
    Keep β ρ z tK := by
  unfold execGetVersion at eK; simp only [Host.Outcome.next.injEq] at eK; subst eK; grind (ematch := 40) (gen := 40) (splits := 40) [keep_spdmRow]

theorem keep_execGetCapabilities {β ρ : Bool} {z : State} (tr : Nat) (msg : List Byte) (s : State) (hK : Keep β ρ z s) {tK : State} (eK : execGetCapabilities tr msg s = .next tK) :
    Keep β ρ z tK := by
  unfold execGetCapabilities at eK; simp only [Host.Outcome.next.injEq] at eK; subst eK; grind (ematch := 40) (gen := 40) (splits := 40) [keep_spdmRow]

theorem keep_execNegotiateAlgorithms {β ρ : Bool} {z : State} (tr : Nat) (msg : List Byte) (s : State) (hK : Keep β ρ z s) {tK : State} (eK : execNegotiateAlgorithms tr msg s = .next tK) :
    Keep β ρ z tK := by
  unfold execNegotiateAlgorithms at eK; simp only [Host.Outcome.next.injEq] at eK; subst eK; grind (ematch := 40) (gen := 40) (splits := 40) [keep_spdmRow]

theorem keep_execGetDigests {β ρ : Bool} {z : State} (tr : Nat) (msg : List Byte) (s : State) (hK : Keep β ρ z s) {tK : State} (eK : execGetDigests tr msg s = .next tK) :
    Keep β ρ z tK := by
  unfold execGetDigests at eK; simp only [Host.Outcome.next.injEq] at eK; subst eK; grind (ematch := 40) (gen := 40) (splits := 40) [keep_spdmRow]

theorem keep_execGetCertificate {β ρ : Bool} {z : State} (tr : Nat) (msg : List Byte) (s : State) (hK : Keep β ρ z s) {tK : State} (eK : execGetCertificate tr msg s = .next tK) :
    Keep β ρ z tK := by
  unfold execGetCertificate at eK; simp only [Host.Outcome.next.injEq] at eK; subst eK; grind (ematch := 40) (gen := 40) (splits := 40) [keep_spdmRow]

theorem keep_execChallenge {β ρ : Bool} {z : State} (tr : Nat) (msg : List Byte) (s : State) (hK : Keep β ρ z s) {tK : State} (eK : execChallenge tr msg s = .next tK) :
    Keep β ρ z tK := by
  unfold execChallenge at eK; simp only [Host.Outcome.next.injEq] at eK; subst eK; grind (ematch := 40) (gen := 40) (splits := 40) [keep_spdmRow]

theorem keep_execGetMeasurements {β ρ : Bool} {z : State} (tr : Nat) (msg : List Byte) (s : State) (hK : Keep β ρ z s) {tK : State} (eK : execGetMeasurements tr msg s = .next tK) :
    Keep β ρ z tK := by
  unfold execGetMeasurements at eK; simp only [Host.Outcome.next.injEq] at eK; subst eK; grind (ematch := 40) (gen := 40) (splits := 40) [keep_spdmRow]

theorem keep_execRespondIfReady {β ρ : Bool} {z : State} (tr : Nat) (msg : List Byte) (s : State) (hK : Keep β ρ z s) {tK : State} (eK : execRespondIfReady tr msg s = .next tK) :
    Keep β ρ z tK := by
  unfold execRespondIfReady at eK; simp only [Host.Outcome.next.injEq] at eK; subst eK; grind (ematch := 40) (gen := 40) (splits := 40) [keep_spdmRow]

theorem keep_execSpdmUnsupported {β ρ : Bool} {z : State} (tr : Nat) (msg : List Byte) (s : State) (hK : Keep β ρ z s) {tK : State} (eK : execSpdmUnsupported tr msg s = .next tK) :
    Keep β ρ z tK := by
  unfold execSpdmUnsupported at eK; simp only [Host.Outcome.next.injEq] at eK; subst eK; grind (ematch := 40) (gen := 40) (splits := 40) [keep_spdmRow]

theorem keep_chunkBad {β ρ : Bool} {z : State} (s : State) (tr : Nat) (m : List Byte) (hK : Keep β ρ z s) :
    Keep β ρ z (State.chunkBad s tr m) := by
  unfold State.chunkBad; grind (ematch := 40) (gen := 40) (splits := 40) [keep_send, keep_setSpdm, keep_spdmReply, keep_mk]

theorem keep_chunkTake {β ρ : Bool} {z : State} (s : State) (tr : Nat) (m : List Byte) (hK : Keep β ρ z s) :
    Keep β ρ z (State.chunkTake s tr m) := by
  unfold State.chunkTake; grind (ematch := 40) (gen := 40) (splits := 40) [keep_send, keep_setSpdm, keep_spdmSend, keep_spdmReply, keep_spdmResponse, keep_chunkBad, keep_mk]

theorem keep_execChunkSend {β ρ : Bool} {z : State} (tr : Nat) (msg : List Byte) (s : State) (hK : Keep β ρ z s) {tK : State} (eK : execChunkSend tr msg s = .next tK) :
    Keep β ρ z tK := by
  unfold execChunkSend at eK; simp only [Host.Outcome.next.injEq] at eK; subst eK; grind (ematch := 40) (gen := 40) (splits := 40) [keep_bump, keep_spdmReply, keep_chunkTake]

theorem keep_execChunkGet {β ρ : Bool} {z : State} (tr : Nat) (msg : List Byte) (s : State) (hK : Keep β ρ z s) {tK : State} (eK : execChunkGet tr msg s = .next tK) :
    Keep β ρ z tK := by
  unfold execChunkGet at eK; simp only [Host.Outcome.next.injEq] at eK; subst eK; grind (ematch := 40) (gen := 40) (splits := 40) [keep_bump, keep_setSpdm, keep_spdmSend, keep_spdmReply, keep_mk]

theorem keep_execSignatureDone {β ρ : Bool} {z : State} (s : State) (hK : Keep β ρ z s) {tK : State} (eK : execSignatureDone s = .next tK) :
    Keep β ρ z tK := by
  unfold execSignatureDone at eK; simp only [Host.Outcome.next.injEq] at eK; subst eK; grind (ematch := 40) (gen := 40) (splits := 40) [keep_bump, keep_done, keep_setSpdm, keep_spdmReply, keep_mk]

theorem keep_cfgRefuse {β ρ : Bool} {z : State} (s : State) (hK : Keep β ρ z s) :
    Keep β ρ z (State.cfgRefuse s) := by
  unfold State.cfgRefuse; grind (ematch := 40) (gen := 40) (splits := 40) [keep_count]

theorem keep_storeReg {β ρ : Bool} {z : State} (s : State) (a : Nat) (v : Word) (hK : Keep β ρ z s) :
    Keep β ρ z (State.storeReg s a v) := by
  unfold State.storeReg; grind (ematch := 40) (gen := 40) (splits := 40) [keep_setReg, keep_cfgRefuse, keep_mk, tables_pend]

theorem keep_queWrite {β ρ : Bool} {z : State} (s : State) (k : Nat) (a : Nat) (off : Nat) (v : Word) (hK : Keep β ρ z s) :
    Keep β ρ z (State.queWrite s k a off v) := by
  unfold State.queWrite; grind (ematch := 40) (gen := 40) (splits := 40) [keep_qsCtrl, keep_storeReg]

theorem keep_dmaWrite {β ρ : Bool} {z : State} (s : State) (k : Nat) (a : Nat) (off : Nat) (v : Word) (hK : Keep β ρ z s) :
    Keep β ρ z (State.dmaWrite s k a off v) := by
  unfold State.dmaWrite; grind (ematch := 40) (gen := 40) (splits := 40) [keep_setChan, keep_dmaCtrl, keep_dmaResumeAll, keep_storeReg, keep_mk]

theorem keep_brnForce {β ρ : Bool} {z : State} (s : State) (c : Nat) (v : Word) (hK : Keep β ρ z s) :
    Keep β ρ z (State.brnForce s c v) := by
  unfold State.brnForce; grind (ematch := 40) (gen := 40) (splits := 40) [keep_setCore, keep_failCore, keep_forceEngines, keep_mk]

theorem keep_xptWrite {β ρ : Bool} {z : State} (s : State) (src : Src) (a : Nat) (off : Nat) (v : Word) (hK : Keep β ρ z s) :
    Keep β ρ z (State.xptWrite s src a off v) := by
  unfold State.xptWrite; grind (ematch := 40) (gen := 40) (splits := 40) [keep_setReg, keep_ctxOp, keep_ctxReadOp, keep_ctxWriteOp, keep_ctxErrorOp, keep_ctxResetOp, keep_trigDisarm, keep_storeReg]

theorem keep_tenRegWrite {β ρ : Bool} {z : State} (s : State) (a : Nat) (off : Nat) (v : Word) (hK : Keep β ρ z s) :
    Keep β ρ z (State.tenRegWrite s a off v) := by
  unfold State.tenRegWrite; grind (ematch := 40) (gen := 40) (splits := 40) [keep_tenRead, keep_tenWrite, keep_tenFmWrite, keep_storeReg]

theorem keep_secWrite {β ρ : Bool} {z : State} (s : State) (src : Src) (a : Nat) (off : Nat) (v : Word) (hK : Keep β ρ z s) :
    Keep β ρ z (State.secWrite s src a off v) := by
  unfold State.secWrite; grind (ematch := 40) (gen := 40) (splits := 40) [keep_setReg, keep_secDeny, keep_rcvGo, keep_updGo, keep_fuseStart, keep_storeReg]

theorem keep_blockWrite {z : State} (s : State) (src : Src) (b : Block) (i : Nat) (a : Nat) (off : Nat) (v : Word) (hK : Keep false false z s) :
    Keep false false z (State.blockWrite s src b i a off v) := by
  unfold State.blockWrite; grind (ematch := 40) (gen := 40) (splits := 40) [keep_updBank, keep_bankFail, keep_failStack, keep_pringTail, keep_replanCmd, keep_glbCtrl, keep_rasClear, keep_tenDenied, keep_storeReg, keep_queWrite, keep_dmaWrite, keep_brnForce, keep_xptWrite, keep_tenRegWrite, keep_secWrite, keep_mk]

theorem keep_pageWrite {z : State} (s : State) (src : Src) (b : Block) (i : Nat) (a : Nat) (v : Word) (hK : Keep false false z s) :
    Keep false false z (State.pageWrite s src b i a v) := by
  unfold State.pageWrite; grind (ematch := 40) (gen := 40) (splits := 40) [keep_raiseBits, keep_setEnable, keep_clearInt, keep_clearCounters, keep_storeReg, keep_blockWrite]

theorem keep_bar0Write {z : State} (s : State) (src : Src) (a : Nat) (v : Word) (hK : Keep false false z s) :
    Keep false false z (State.bar0Write s src a v) := by
  unfold State.bar0Write State.onTen; grind (ematch := 40) (gen := 40) (splits := 40) [keep_pageWrite, keep_tenDenied]

theorem keep_bar0Read {β ρ : Bool} {z : State} (s : State) (src : Src) (addr : Nat) (hK : Keep β ρ z s) :
    Keep β ρ z (State.bar0Read s src addr) := by
  unfold State.bar0Read; grind (ematch := 40) (gen := 40) (splits := 40) [keep_send, keep_tenDenied, keep_latchFrom]

/-! ### Writes other than one of GLB_CTRL -/

theorem keep_blockWrite_quiet {β ρ : Bool} {z : State} (s : State) (src : Src) (b : Block) (i a off : Nat) (v : Word)
    (hb : b = .glb → off ≠ 0x104) (hK : Keep β ρ z s) : Keep β ρ z (s.blockWrite src b i a off v) := by
  unfold State.blockWrite; grind (ematch := 40) (gen := 40) (splits := 40) [keep_storeReg, keep_tenDenied, keep_pringTail, keep_bankFail,
    keep_updBank, keep_brnForce, keep_queWrite, keep_dmaWrite, keep_xptWrite, keep_tenRegWrite, keep_secWrite, keep_replanCmd,
    keep_failStack, keep_rasClear]

theorem keep_pageWrite_quiet {β ρ : Bool} {z : State} (s : State) (src : Src) (b : Block) (i a : Nat) (v : Word)
    (hb : b = .glb → a % 0x1000 ≠ 0x104) (hK : Keep β ρ z s) : Keep β ρ z (s.pageWrite src b i a v) := by
  unfold State.pageWrite; grind (ematch := 40) (gen := 40) (splits := 40) [keep_clearInt, keep_setEnable, keep_raiseBits, keep_storeReg, keep_clearCounters,
    keep_blockWrite_quiet]

theorem pageThere_glb {s : State} {page i : Nat} (h : s.pageThere page = some (.glb, i)) : page = 0 := by
  unfold State.pageThere pageBlock at h; grind (splits := 80)

/-- A register write that is none of GLB_CTRL resets nothing and begins no edition. -/
theorem keep_bar0Write_quiet {β ρ : Bool} {z : State} (s : State) (src : Src) (a : Nat) (v : Word) (ha : a ≠ 0x104)
    (hK : Keep β ρ z s) : Keep β ρ z (s.bar0Write src a v) := by
  unfold State.bar0Write
  simp only []
  split
  · exact hK
  · split
    · exact hK
    · unfold State.onTen
      split
      · exact hK
      · split
        · exact keep_pageWrite_quiet _ _ _ _ _ _ (fun e => nomatch e) hK
        · exact keep_tenDenied _ hK
    · rename_i b i _ hp
      exact keep_pageWrite_quiet _ _ _ _ _ _ (fun e => by subst e; have := pageThere_glb hp; omega) hK

theorem pg_ne (page off : Nat) (h : off < 0x1000) (ho : off ≠ 0x104) : pg page + off ≠ 0x104 := by unfold pg; omega

theorem keep_execIntStatusClear {β ρ : Bool} {z : State} (src : Src) (page : Nat) (v : Word) (s : State) (hK : Keep β ρ z s) {tK : State}
    (eK : execIntStatusClear src page v s = .next tK) : Keep β ρ z tK := by
  unfold execIntStatusClear at eK; simp only [Host.Outcome.next.injEq] at eK; subst eK
  exact keep_bar0Write_quiet _ _ _ _ (pg_ne _ _ (by omega) (by omega)) hK

theorem keep_execIntForce {β ρ : Bool} {z : State} (src : Src) (page : Nat) (v : Word) (s : State) (hK : Keep β ρ z s) {tK : State}
    (eK : execIntForce src page v s = .next tK) : Keep β ρ z tK := by
  unfold execIntForce at eK; simp only [Host.Outcome.next.injEq] at eK; subst eK
  exact keep_bar0Write_quiet _ _ _ _ (pg_ne _ _ (by omega) (by omega)) hK

theorem keep_execCounterClear {β ρ : Bool} {z : State} (src : Src) (addr : Nat) (v : Word) (s : State) (hK : Keep β ρ z s) {tK : State}
    (eK : execCounterClear src addr v s = .next tK) : Keep β ρ z tK := by
  unfold execCounterClear at eK; simp only [Host.Outcome.next.injEq] at eK; subst eK
  split
  · exact hK
  · rename_i h
    exact keep_bar0Write_quiet _ _ _ _ (fun e => h (by rw [e]; decide)) hK

theorem keep_msixFlush {β ρ : Bool} {z : State} (s : State) (p : Nat) (hK : Keep β ρ z s) : Keep β ρ z (s.msixFlush p) := by
  unfold State.msixFlush
  simp only []
  split
  · exact hK
  · exact keep_foldl _ _ _ (keep_setFn _ _ _ _ hK) (fun _ _ h => keep_send _ _ h)

theorem keep_bar4Write {β ρ : Bool} {z : State} (s : State) (p ld off : Nat) (v : Word) (hK : Keep β ρ z s) :
    Keep β ρ z (s.bar4Write p ld off v) := by
  unfold State.bar4Write; grind (ematch := 40) (gen := 40) (splits := 40) [keep_msixFlush, keep_setFn]

theorem keep_cfgSpaceWrite {β ρ : Bool} {z : State} (s : State) (p ld off : Nat) (v : Word) (hK : Keep β ρ z s) :
    Keep β ρ z (s.cfgSpaceWrite p ld off v) := by
  unfold State.cfgSpaceWrite; grind (ematch := 40) (gen := 40) (splits := 40) [keep_msixFlush, keep_setFn]

theorem keep_fnWrite {β ρ : Bool} {z : State} (s : State) (p a : Nat) (v : Word) (hK : Keep β ρ z s) : Keep β ρ z (s.fnWrite p a v) := by
  unfold State.fnWrite; grind (ematch := 40) (gen := 40) (splits := 40) [keep_dbTail, keep_dbHead, keep_dbIgnored, keep_bar4Write,
    keep_cfgSpaceWrite]

theorem keep_fnRead {β ρ : Bool} {z : State} (s : State) (p a : Nat) (hK : Keep β ρ z s) : Keep β ρ z (s.fnRead p a) := by
  unfold State.fnRead State.fresh; grind (ematch := 40) (gen := 40) (splits := 40) [keep_send, keep_mk]

theorem keep_barWrite {z : State} (s : State) (src : Src) (a : Nat) (v : Word) (hK : Keep false false z s) :
    Keep false false z (s.barWrite src a v) := by
  unfold State.barWrite; grind (ematch := 40) (gen := 40) (splits := 40) [keep_bar0Write, keep_fnWrite]

theorem keep_barRead {β ρ : Bool} {z : State} (s : State) (src : Src) (a : Nat) (hK : Keep β ρ z s) : Keep β ρ z (s.barRead src a) := by
  unfold State.barRead; grind (ematch := 40) (gen := 40) (splits := 40) [keep_bar0Read, keep_fnRead]

theorem keep_execLatchingRead {β ρ : Bool} {z : State} (src : Src) (addr : Nat) (s : State) (hK : Keep β ρ z s) {tK : State} (eK : execLatchingRead src addr s = .next tK) :
    Keep β ρ z tK := by
  unfold execLatchingRead at eK; simp only [Host.Outcome.next.injEq] at eK; subst eK; exact keep_barRead s src addr hK

theorem keep_execRegisterWrite {z : State} (src : Src) (addr : Nat) (v : Word) (s : State) (hK : Keep false false z s) {tK : State} (eK : execRegisterWrite src addr v s = .next tK) :
    Keep false false z tK := by
  unfold execRegisterWrite at eK; simp only [Host.Outcome.next.injEq] at eK; subst eK; exact keep_barWrite s src addr v hK

theorem keep_execMctpRegisterAccess {z : State} (acc : RegAcc) (s : State) (hK : Keep false false z s) {tK : State} (eK : execMctpRegisterAccess acc s = .next tK) :
    Keep false false z tK := by
  unfold execMctpRegisterAccess at eK; simp only [Host.Outcome.next.injEq] at eK; subst eK; grind (ematch := 40) (gen := 40) (splits := 40) [keep_bar0Write, keep_bar0Read]

end Sys2Proof.Machine
end

