-- ==== Sys2Proof/Laws/Queue.lean ====
section
/-! SUPPORT. Laws of queue sets and DMA channels (12): reads after writes, and what writing one completion entry does. -/

namespace Sys2Proof.Machine

theorem qset_setQset_ne (s : State) {p q p' q' : Nat} (v : QSet) (h : 64 * p' + q' ≠ 64 * p + q) :
    (s.setQset p q v).qset p' q' = s.qset p' q' := sget_sset_ne _ h

theorem qset_setQset_eq (s : State) {p q : Nat} {v : QSet} (h : v ≠ QSet.reset) : (s.setQset p q v).qset p q = v :=
  sget_sset_new _ h

theorem chan_setChan_ne (s : State) {c k : Nat} (v : Chan) (h : k ≠ c) : (s.setChan c v).chan k = s.chan k :=
  sget_sset_ne _ h

theorem chan_setChan_eq (s : State) {c : Nat} {v : Chan} (h : v ≠ Chan.reset) : (s.setChan c v).chan c = v :=
  sget_sset_new _ h

theorem qset_of_qs {s t : State} (h : t.que.qs = s.que.qs) (p q : Nat) : t.qset p q = s.qset p q := by
  simp [State.qset, h]

theorem chan_of_ch {s t : State} (h : t.dma.ch = s.dma.ch) (c : Nat) : t.chan c = s.chan c := by
  simp [State.chan, h]

end Sys2Proof.Machine
end

