-- ==== Sys2Proof/WellFormed.lean ====
section
/-! DEFINITION. Which commands are well formed: operands inside the ranges that the spec gives them (port, queue set,
channel, core, class, page and so on). A meaning answers for every operand; outside these ranges nothing happens. -/

namespace Sys2Proof

/-- A host port (00 R1: two). -/
def portOk (p : Nat) : Bool := decide (p < 2)

/-- A source of register accesses (11 R419). -/
def Src.ok : Src → Bool
  | .port p => portOk p
  | .mctp => true

/-- A queue set (12 R431: 64 on each port). -/
def qsetOk (p q : Nat) : Bool := portOk p && decide (q < 64)

/-- A DMA channel (12 R453: 64). -/
def chanOk (c : Nat) : Bool := decide (c < 64)

/-- A PSA bank (04 R113: 16). -/
def bankOk (b : Nat) : Bool := decide (b < 16)

/-- A soft error lies in the PSA (04 R113). -/
def upsetOk : Upset → Bool
  | .word b j _ => bankOk b && decide (j < 2 ^ 18)
  | .image b r => bankOk b && decide (r < 2 ^ 18)

/-- A core (08 R270: 16). -/
def coreOk (c : Nat) : Bool := decide (c < 16)

/-- An engine of a core (08 R269: 8). -/
def engOk (c e : Nat) : Bool := coreOk c && decide (e < 8)

/-- A network port (13 R467: 4). -/
def netOk (n : Nat) : Bool := decide (n < 4)

/-- A logical device of a host port (11 R393: 8). -/
def ldOk (p ld : Nat) : Bool := portOk p && decide (ld < 8)

/-- A class of program work (02 R66: 4). -/
def classOk (c : Nat) : Bool := decide (c < 4)

/-- A tier with a free-space reclaim (06 R222: T0 and T1). -/
def reclaimOk (t : Nat) : Bool := decide (t < 2)

/-- An SPDM transport (15 R555): the mailbox of each port, and MCTP. -/
def transportOk (t : Nat) : Bool := decide (t < 3)

/-- A register page (11 R398: 256). -/
def pageOk (p : Nat) : Bool := decide (p < 256)

/-- An aligned word of BAR0 (17 R589). -/
def addrOk (a : Nat) : Bool := decide (a % 4 = 0) && decide (a < 2 ^ 20)

/-- An aligned word that a source reaches: BAR0, or for a host the windows of its port above it (17 R589; 11 R398). -/
def reachOk (src : Src) (a : Nat) : Bool :=
  match src with
  | .port _ => decide (a % 4 = 0) && decide (a < 0x1C8000)
  | .mctp => addrOk a

/-- A CXL.mem request: one line of 64 bytes (11 R406). -/
def CxlReq.ok : CxlReq → Bool
  | .read _ => true
  | .write _ d => decide (d.length ≤ 64)

/-- A register access over MCTP. -/
def RegAcc.ok : RegAcc → Bool
  | .read a => addrOk a
  | .write a _ => addrOk a

/-- The command is well formed. -/
def Instr.wf (i : Instr) : Bool :=
  match i with
  | .sqTail p q _ => qsetOk p q
  | .cqHead p q _ => qsetOk p q
  | .push p q ws => qsetOk p q && decide (ws.length = 16)
  | .commandFetch p => portOk p
  | .deferredCompletion p q => qsetOk p q
  | .coalesceTimer p q _ => qsetOk p q
  | .undefinedOpcode _ => true
  | .lookup _ | .hash _ | .openProof _ | .renew _ | .openView _ | .closeProof _ => true
  | .proofLapse slot _ => decide (slot < 2 ^ 20)
  | .publish _ | .publishClaim _ | .commitPoint _ | .endPoint _ | .retire _ => true
  | .cascadeStep slot => decide (slot < 2 ^ 26)
  | .placeReserve _ | .placeSet _ => true
  | .moveCommit ps => decide (ps < 2 ^ 26)
  | .copyRelease ps => decide (ps < 2 ^ 26)
  | .reservationLapse ps _ => decide (ps < 2 ^ 26)
  | .pressureReclaim t => decide (t < 3)
  | .reclaimRetry t _ => reclaimOk t
  | .free _ | .discard _ | .discardRelocation _ | .deliver _ | .deliverChunk _ | .deliverComplete _ => true
  | .planLoad _ | .planUnload _ | .attend _ | .attendSparse _ | .rerotate _ | .repackConvert _ => true
  | .repackLandmark _ | .fence _ | .fenceDone _ | .fenceTimeout _ _ | .cfgCommit _ | .cfgRollback _ => true
  | .cfgCheckEnd _ | .stats _ | .extentRevoke _ | .revokeDrainEnd _ => true
  | .compatLookup _ | .compatDeliver _ | .compatFree _ => true
  | .strokeBoundary _ | .syncMessage _ _ | .syncLoss _ | .holdoverLimit _ | .ppsEdge _ | .ppsOut _ => true
  | .peerDelayRequest n => netOk n
  | .stkPringTail p _ => portOk p
  | .headerFetch p => portOk p
  | .recordFetch p _ => portOk p
  | .windowOpen c _ => classOk c
  | .recordStart c _ => classOk c
  | .windowClose c _ => classOk c
  | .programSummary p _ => portOk p
  | .psaInsert slot => decide (slot < 2 ^ 26)
  | .psaCompaction slot bank => decide (slot < 2 ^ 26 ∧ bank < 16)
  | .psaDrain b slot => bankOk b && decide (slot < 2 ^ 26)
  | .psaScrubRead t => t.upsets.all upsetOk
  | .scrubLate b _ => bankOk b
  | .psaTempSample _ temps => decide (temps.length = 4)
  | .bankFailed b => bankOk b
  | .psaForceFail src b => src.ok && bankOk b
  | .psaInject src b => src.ok && bankOk b
  | .psaRehome b _ => bankOk b
  | .psaRebuild failing => failing.all bankOk
  | .operationStart => true
  | .tileEnd c e => engOk c e
  | .operationBoundary _ => true
  | .engineFail c e _ => engOk c e
  | .engineWatchdog c e _ => engOk c e
  | .periodicSelfTest c e _ => engOk c e
  | .selfTestEnd c e _ _ => engOk c e
  | .coreFail c _ => coreOk c
  | .failEngine src c _ => src.ok && coreOk c
  | .failCore src c => src.ok && coreOk c
  | .brnInject src c => src.ok && coreOk c
  | .mergeTimeout _ _ | .prefetchStep _ | .prefetchReadIssue _ | .layerResident _ _ => true
  | .flashOpStart ch => chanOk ch
  | .flashRead _ _ => true
  | .t1UncorrectableRead tier ps page => decide (tier < 2) && decide (ps < 2 ^ 26) && decide (page < 1024)
  | .t2ReadTimeout _ _ => true
  | .repairRequest slot => decide (slot < 2 ^ 26)
  | .repairResponse slot => decide (slot < 2 ^ 26)
  | .repairTimeout slot _ => decide (slot < 2 ^ 26)
  | .repairRetry slot _ => decide (slot < 2 ^ 26)
  | .segmentProgrammed st r => decide (st < 6) && r.failed.all (fun p => decide (p < 32)) && r.back.all (fun x => decide (x.1 < 32))
  | .segmentFlush st _ => decide (st < 6)
  | .journalFlush _ | .journalPageDurable _ | .checkpoint _ => true
  | .erase sb _ _ => decide (sb < 2 ^ 19)
  | .folding h => decide (h < 2)
  | .garbageCollection h => decide (h < 2)
  | .rewrite sb => decide (sb < 2 ^ 19)
  | .flashScrub sb _ _ _ => decide (sb < 2 ^ 19)
  | .wearLevelling => true
  | .dieFail d => decide (d < 2048)
  | .dieRebuild sb => decide (sb < 2 ^ 19)
  | .mapRebuild e => decide (e.line < if e.stip then 2 ^ 24 else 2 ^ 27) && decide (e.seen < 2 ^ 512)
  | .flashRecovery f => decide (f.rates.length = 64) && decide (f.targets.length = 64) && f.rates.all (fun r => decide (r ≤ 4))
      && f.targets.all (fun n => decide (n ≤ 8)) && f.dies.all (fun d => decide (d.ch < 64) && decide (d.vol < 8) && decide (d.lun < 4))
  | .linkUp p speed width _ _ ldUp =>
      portOk p && decide (1 ≤ speed) && decide (speed ≤ 5) && [1, 2, 4, 8, 16].contains width && decide (ldUp < 256)
  | .dlDown p => portOk p
  | .perstL p => portOk p
  | .cxlMemRequest p ld req _ => ldOk p ld && req.ok
  | .cxlTokenGrant p ld _ => ldOk p ld
  | .hdmCommit p ld _ _ _ _ _ => ldOk p ld
  | .identifyMemoryDevice p ld => ldOk p ld
  | .getHealthInfo p ld => ldOk p ld
  | .getLog p ld _ _ _ => ldOk p ld
  | .getSupportedLogs p ld => ldOk p ld
  | .getEventRecords p ld log => ldOk p ld && decide (log < 4)
  | .clearEventRecords p ld log _ => ldOk p ld && decide (log < 4)
  | .mailboxUnsupported p ld _ => ldOk p ld
  | .tenOpRead src => src.ok
  | .tenOpWrite src => src.ok
  | .extentActivate => true
  | .tenFm src _ => src.ok
  | .mctpCommand ws => decide (ws.length = 16)
  | .mctpRegisterAccess acc => acc.ok
  | .qsEnable src p q v => src.ok && qsetOk p q && v.getLsbD 0
  | .qsDisable src p q v => src.ok && qsetOk p q && !v.getLsbD 0
  | .qsDrainEnd p q => qsetOk p q
  | .dmaRun src c => src.ok && chanOk c
  | .dmaKick src c => src.ok && chanOk c
  | .dmaAbort src c => src.ok && chanOk c
  | .dmaResume src => src.ok
  | .descriptorFetch c => chanOk c
  | .burstIssue c => chanOk c
  | .burstComplete c => chanOk c
  | .dmaBusError c cause _ => chanOk c && decide (1 ≤ cause) && decide (cause ≤ 4)
  | .netPortUp n _ => netOk n
  | .netPortDown n => netOk n
  | .loopbackTest n _ _ => netOk n
  | .packetReceive n _ => netOk n
  | .ackDelay q _ => decide (q < 2 ^ 24)
  | .ackReceive n _ => netOk n
  | .cnpReceive n _ => netOk n
  | .nakReceive n _ => netOk n
  | .rnrRetry q _ => decide (q < 2 ^ 24)
  | .retryTimer q _ => decide (q < 2 ^ 24)
  | .packetSend q => decide (q < 2 ^ 24)
  | .contextFetch q => decide (q < 2 ^ 24)
  | .networkRequest q => decide (q < 2 ^ 24)
  | .arpRequest n _ _ => netOk n
  | .neighbourSolicitation n target => netOk n && decide (target.length = 4)
  | .ctxRead src => src.ok
  | .ctxWrite src => src.ok
  | .ctxForceError src => src.ok
  | .ctxForceReset src => src.ok
  | .xptTringTail src p _ => src.ok && portOk p
  | .triggerFetch p => portOk p
  | .counterIdle tag _ => decide (tag < 2 ^ 32)
  | .xptTrigDisarm src _ => src.ok
  | .gateEvent n _ => netOk n
  | .takeover n _ => netOk n
  | .frameSelect n _ => netOk n
  | .bootSequence _ => true
  | .recoveryLoad src => src.ok
  | .recoveryLoadDone => true
  | .mailboxUpdate src => src.ok
  | .pldmUpdate _ | .imageStaged => true
  | .svnCommit src => src.ok
  | .revoke src slot => src.ok && decide (slot < 4)
  | .fuseDone _ => true
  | .getVersion tr _ => transportOk tr
  | .getCapabilities tr _ => transportOk tr
  | .negotiateAlgorithms tr _ => transportOk tr
  | .getDigests tr _ => transportOk tr
  | .getCertificate tr _ => transportOk tr
  | .challenge tr _ => transportOk tr
  | .getMeasurements tr _ => transportOk tr
  | .chunkSend tr _ => transportOk tr
  | .chunkGet tr _ => transportOk tr
  | .respondIfReady tr _ => transportOk tr
  | .spdmUnsupported tr _ => transportOk tr
  | .signatureDone => true
  | .pathDelaySample _ ps => decide (ps.length = 64)
  | .ringOscillatorSample _ vs => decide (vs.length = 64)
  | .leakageSample _ vs => decide (vs.length = 20)
  | .refreshMarginTest u _ => decide (u < 12)
  | .replanStart _ => true
  | .replanNow src => src.ok
  | .replanEnd _ _ => true
  | .failStack src k => src.ok && decide (k < 8)
  | .stackFail k => decide (k < 8)
  | .ceStormEnd page _ => pageOk page
  | .rasLogClear src => src.ok
  | .fatalReset _ => true
  | .warmReset src _ => src.ok
  | .phaseEnd _ => true
  | .intStatusClear src page _ => src.ok && pageOk page
  | .intForce src page _ => src.ok && pageOk page
  | .counterClear src a _ => src.ok && addrOk a
  | .latchingRead src a => src.ok && reachOk src a
  | .registerWrite src a _ => src.ok && reachOk src a
  | .telemetryFrame _ _ _ | .powerSample _ _ | .clockRaise _ | .telemetryLoss _ | .vrmHotL _ => true
  | .tempSample _ temps => decide (temps.length = 40)
  | .thermalComparator => true
  | .resetL _ | .pwrGood _ _ | .resetRelease _ | .sysRefclkLoss _ => true
  | .pcieRefclkLoss p _ => portOk p
  | .netRefclkLoss die _ => decide (die < 2)
  | .dieToDieLinkLoss die => decide (die < 2)
  | .perstLRelease p => portOk p
  | .sysRefclkReturn _ => true
  | .mctpControlMessage _ _ | .pldmPlatformEvent | .activateFirmware _ => true
  | .cdat p ld => ldOk p ld

end Sys2Proof
end

