-- ==== Sys2Proof/Tests/Slice0.lean ====
section
/-! SUPPORT. Tests: an ill-formed command for each check of WellFormed, and for every statement a small state and operands
that meet its hypotheses together. -/

namespace Sys2Proof.Tests

set_option Elab.async false

open Sys2Proof Sys2Proof.Machine

/-! ### States that the witnesses share -/

/-- The device after start-up, both host ports up. -/
def up : State :=
  { State.reset with start := .ready, dir := { State.reset.dir with genDef := 2049 }, port0 := { Port.reset with mode := .pcie }, port1 := { Port.reset with mode := .pcie } }

/-- A tenant record: valid, tenant 7, partition key 0x8001, quotas of 1 TiB in each tier. -/
def ten7 : List Word := [0x80000007, 0x8001, 0, 0, 0, 0x100, 0, 0x100, 0, 0x100]

/-- Model 3: one-unit keys, 2 layers of 16 tokens, one KV head of 32 FP16 elements: pages of 4 KiB. -/
def model3 : List Word := [0x80000003, 0x00020010, 0x00200001, 5, 0, 0, 0, 0]

/-- Tenant 7 and model 3 are known, and queue set 3 of port 0 is bound to the tenant. -/
def known : State := ((up.setRecord 0 0 ten7).setRecord 1 3 [0x80000007]).setRecord 2 0 model3

/-- Block 1 of a prompt of tenant 7 under model 3 and adapter 5. -/
def key1 : Key := { scope := 7, model := 3, adapter := 5, keyForm := 0, hash := 0x1234 }

/-- Its page set, held in T1. -/
def pset1 : Machine.PSet :=
  { gen := 1, tenant := 7, model := 3, object := false, pages := 2, pageSize := 4096, alloc := 1, level := 1, t0 := false,
    t1 := true, t2 := false, rstate := .published, lapseAt := none, checks := [], bad := [] }

/-- Its directory entry. -/
def slot1 : Slot :=
  { Slot.free with state := .current, key := key1, pset := 0x04000001, publisher := 7, edition := 1 }

/-- The block is resident in slot 17616, the first of its window. -/
def entry : State :=
  let s := (known.setSlot 17616 slot1).setPset 1 pset1
  { s with dir := { s.dir with seqNext := 2 } }

/-- One accepted command of tenant 7 from queue set 3 of port 0, with number 5, and the operands it has read. -/
def withCmd (s : State) (compat : Bool) (ws : List Word) (ph : Phase) : State :=
  let l : Live := { id := 5, src := .queue 0 3, tenant := 7, compat := compat, ws := ws, tag := 9, at_ := 0, phase := ph }
  { s with que := { s.que with live := [{ l with held := s.heldOf l, fm := s.fmSource l.src }], nextId := 6 } }

/-- Sixteen command words. -/
def cmd (ws : List Word) : List Word := ws ++ List.replicate (16 - ws.length) 0

/-! ### 03, 05 -/

/-- A proof of tenant 7 in slot 0. -/
def proof0 : Proof := ⟨0, 2049, 7, 1, 0, 2000000000, none⟩

def proving : State := { entry with dir := { entry.dir with proofs := [proof0], proofFresh := 1 } }

/-- The command that `withCmd` puts in. -/
def cmd5 (s : State) : Live := s.que.live.getD 0 { id := 5, src := .mctp, tenant := 0, compat := false, ws := [], tag := 0, at_ := 0, phase := .running }

/-- The hypotheses that every fresh native command of opcode `op` shares. -/
def fresh (s : State) (op : Nat) : Bool :=
  decide (s.live 5 = some (cmd5 s) ∧ (cmd5 s).op = op ∧ (cmd5 s).phase = .accepted ∧ (cmd5 s).compat = false) && s.reached .psa

def opening : State := withCmd proving false (cmd [0x80000203, 0, 9, 0, 100]) .accepted

theorem test_wit_open : fresh opening 3 = true ∧ (cmd5 opening).flag 0 = false ∧ (cmd5 opening).flag 1 = false ∧
    (cmd5 opening).reservedOk 3 [0xFFFF] = true ∧ opening.openProofs 7 < opening.proofLimit 7 ∧ opening.dir.proofFresh < 2 ^ 20 ∧
    (opening.setRecord 0 0 (ten7.set 2 1)).proofLimit 7 ≤ (opening.setRecord 0 0 (ten7.set 2 1)).openProofs 7 := by decide +kernel

/-- The handle of slot 0 and generation 2,049. -/
theorem test_open_handle : ∃ t, exec (.openProof 5) opening = .next t ∧
    t.dir.proofs.map (fun p => (p.handle, p.snapshot, p.expiry)) = [(2049, 1, 2000000000), (0x1801, 1, 100000000)] :=
  ⟨_, rfl, by decide +kernel⟩

def renewing : State := withCmd proving false (cmd [0x80000203, 1, 9, 0, 100, 2049]) .accepted

theorem test_wit_renew : fresh renewing 3 = true ∧ (cmd5 renewing).flag 0 = true ∧ (cmd5 renewing).flag 1 = false ∧
    (cmd5 renewing).reservedOk 3 [0xFFFF, 0xFFFFFFFF] = true ∧ renewing.proofOf 7 ((cmd5 renewing).w 5) = some proof0 ∧
    renewing.clk < proof0.expiry ∧ renewing.clk < proof0.openedAt + renewing.cfgFld (pg 0x18 + 0x104) 0 16 * 1000000000 := by
  decide +kernel

/-- A proof whose life of 100 us is over at 200 us; one whose slot has its last generation. -/
theorem test_wit_renew_ends : (let s : State := { renewing with clk := 200000, act := [(pg 0x18 + 0x104, 0)] }
    s.clk < usTick proof0.expiry ∧ proof0.openedAt + s.cfgFld (pg 0x18 + 0x104) 0 16 * 1000000000 ≤ s.clk) ∧
    usTick proof0.expiry ≤ ({ renewing with clk := 2000000000 } : State).clk ∧
    (withCmd entry false (cmd [0x80000203, 1, 9, 0, 100, 2049]) .accepted).proofOf 7 2049 = none ∧
    (let d := entry.dir
     let s : State := { entry with dir := { d with proofFresh := 2 ^ 20, proofBack := [4], gens := [(4, 4095)] } }
     2 ^ 20 ≤ s.dir.proofFresh ∧ s.dir.proofBack = [4] ∧ s.proofGen 4 = 4095 ∧ s.genFull 4 = false ∧
      entry.openProofs 7 < entry.proofLimit 7) := by decide +kernel

theorem test_wit_gens : entry.dir.gens.rising := by unfold Sparse.rising; decide +kernel

def closing : State := withCmd proving false (cmd [0x80000204, 0, 9, 0, 2049]) .accepted

theorem test_wit_close : fresh closing 4 = true ∧ (cmd5 closing).reservedOk 0 [0xFFFFFFFF] = true ∧
    closing.proofOf 7 ((cmd5 closing).w 4) = some proof0 ∧
    (withCmd entry false (cmd [0x80000204, 0, 9, 0, 2049]) .accepted).proofOf 7 2049 = none := by decide +kernel

theorem test_wit_lapse : proving.dir.proofs.find? (fun p => decide (p.slot = 0)) = some proof0 ∧ proof0.implicit = none ∧
    (proof0.expiry + 999) / 1000 * 1000 ≤ max proving.clk 2000000000 ∧
    max proving.clk 1999999999 < (proof0.expiry + 999) / 1000 * 1000 := by decide +kernel

/-- LOOKUP of one block by its inline hash. -/
def looking : State := withCmd entry false (cmd [0x80000201, 4, 9, 0, 0x00050003, 0, 1, 0, 0, 0x1234]) .accepted

/-- The search of a LOOKUP that its checks let through: blocks found, MULTI. -/
def found (s : State) : Option (Nat × Bool) :=
  match lookupCheck (cmd5 s) s with
  | .error _ => none
  | .ok (m, snap) =>
    match lookupKeys (cmd5 s) m s with
    | .error _ => none
    | .ok (key, n, tail) =>
      match prefixSearch s key snap n tail with
      | .error _ => none
      | .ok (a, _) => some (a.lo, a.multi)

theorem test_wit_lookup : fresh looking 1 = true ∧ found looking = some (1, false) ∧
    found (withCmd entry false (cmd [0x80000201, 4, 9, 0, 0x00050003, 0, 1, 0, 0, 0x1235]) .accepted) = some (0, false) := by
  decide +kernel

theorem test_wit_search : ∃ k b, (fun _ => (.ok key1 : Except Status Key)) 1 = .ok k ∧
    Search.probe { s := entry, lo := 0, hi := 1, last := (0, 0), multi := false, poison := false } k none = (b, true) :=
  ⟨key1, _, rfl, rfl⟩

/-- HASH of one block of 16 tokens at 0x1000, FULL_OUT, to 0x2000. -/
def hashing : State :=
  withCmd known false (cmd [0x80000202, 2, 9, 0, 3, 16, 0, 0x1000, 0, 0x2000]) .accepted

theorem test_wit_hash : fresh hashing 2 = true ∧ hashing.reached .verify = true ∧
    (cmd5 hashing).reservedOk 7 [0xFFFF, 0x1FFFFF, 0x1FFFF, 0xFFFFFFFF, 0xFFFFFFFF, 0xFFFFFFFF, 0xFFFFFFFF, 0xFFFFFFFF, 0xFFFFFFFF,
        0xFFFFFFFF, 0xFFFFFFFF, 0] = true ∧ (hashing.model ((cmd5 hashing).w 4)).map (·.blockLen) = some 16 ∧
    (cmd5 hashing).w 5 = 1 * 16 ∧ (cmd5 hashing).w 6 = 0 ∧ (cmd5 hashing).flag 0 = false ∧ (cmd5 hashing).flag 1 = true ∧
    (cmd5 hashing).flag 2 = false ∧ (hashing.workRead 7 0 0 0).toOption = some [] ∧
    ((hashing.workRead 7 0 0x1000 64).toOption.map (·.length)) = some 64 ∧
    (hashing.workWrite 7 0 0x2000 (List.replicate 128 0)).toOption.isSome = true := by decide +kernel

/-- OPEN_PROOF with VIEW of one entry list of zeros: no valid key. -/
def viewing : State := withCmd known false (cmd [0x80000203, 2, 9, 0, 0, 0, 1, 0x3000]) .accepted

theorem test_wit_view : fresh viewing 3 = true ∧ (cmd5 viewing).flag 0 = false ∧ (cmd5 viewing).flag 1 = true ∧
    (cmd5 viewing).reservedOk 3 [0xFFFF, 0, 0x1FFF, 0xFFFFFFFF, 0xFFFFFFFF] = true ∧ (cmd5 viewing).w 6 ≠ 0 ∧ (cmd5 viewing).w 6 ≤ 4096 ∧
    (let s := viewing.setHost 0 (Mem.wrBytes [] 0x3000 (leBytes 24 key1.num))
     match s.workRead 7 0 0x3000 128 with
      | .error _ => false
      | .ok bs => (pieces 128 1 bs).all viewEntryOk && (s.viewKeys (pieces 128 1 bs)).toOption.isSome
          && (s.takeProof 7 (s.openLease 0) none).2.toOption.isSome) = true := by decide +kernel

/-- PUBLISH of an open reservation as block 1: key image at 0x1000. -/
def publishing : State :=
  let s := (known.setPset 1 { pset1 with rstate := .open_ }).setHost 0 (Mem.wrBytes [] 0x1000 (leBytes 24 key1.num))
  withCmd s false (cmd [0x80000205, 1, 9, 0, 0x04000001, 0, 0x1000]) .accepted

theorem test_wit_publish : fresh publishing 5 = true ∧
    publishing.openRsv 7 ((cmd5 publishing).w 4) = some { pset1 with rstate := .open_ } ∧ publishing.publishOk (cmd5 publishing) = true ∧
    (cmd5 publishing).flag 12 = false ∧ (publishing.publishKeys (cmd5 publishing)).toOption = some (key1, none) := by decide +kernel

/-- PUBLISH of a free page set, with an unknown flag, of a sealed one, of one of another model; and one of an object. -/
theorem test_wit_publish_bad :
    (let s : State := publishing.setPset 1 { pset1 with rstate := .published }
     s.pubRsv (cmd5 s) = none) ∧
    (let s : State := publishing.setPset 1 { pset1 with rstate := .sealed 5 }
     s.pubRsv (cmd5 s) = some { pset1 with rstate := .sealed 5 }) ∧
    (withCmd publishing false (cmd [0x80000205, 0x80000001, 9, 0, 0x04000001, 0, 0x1000]) .accepted).publishOk
      (cmd5 (withCmd publishing false (cmd [0x80000205, 0x80000001, 9, 0, 0x04000001, 0, 0x1000]) .accepted)) = false ∧
    ((publishing.setHost 0 []).publishKeys (cmd5 publishing)).toOption = none ∧ key1.model = pset1.model ∧ key1.model ≠ 4 := by
  decide +kernel

/-- The publication that `publishing` leads to. -/
def pub5 : Pub := ⟨5, key1, 0, 1, 1, 1, none, 0, none, false, none⟩

def claiming : State := { publishing with dir := { publishing.dir with pubs := [pub5] } }

theorem test_wit_claim : claiming.pub 5 = some pub5 ∧ pub5.claimed = false ∧ pub5.waitOn = none ∧ bit (w32 pub5.flags) 11 = false ∧
    claiming.exact key1 0 Slot.resident = none ∧ claiming.exact key1 0 (fun v => decide (v.state = .pending)) = none ∧
    (claiming.claimTier pub5 3 (prefTier pub5.alloc)).toOption = some 1 ∧ claiming.freeIn key1 [] = some 17616 ∧
    (((claiming.setSlot 17616 slot1).exact key1 0 Slot.resident).map (·.1)) = some 17616 ∧
    (((claiming.setSlot 17616 { slot1 with state := .pending }).exact key1 0 Slot.resident).map (·.1)) = none ∧
    (((claiming.setSlot 17616 { slot1 with state := .pending }).exact key1 0 (fun v => decide (v.state = .pending))).map (·.1))
      = some 17616 := by decide +kernel

/-- Every slot of the block's window holds an object that reads keep. -/
def windowFull : State :=
  { claiming with dir := { claiming.dir with slots := (claiming.windowSlots key1).map (fun i => (i, { slot1 with pin := true })) } }

/-- A publication that supersedes edition 1, and one of a child of the block. -/
def super5 (expect : Nat) : Pub := { pub5 with flags := 0x801, expect := expect }

def child5 : Pub := { pub5 with key := { key1 with hash := 0x77 }, parent := some key1 }

theorem test_wit_claim_ways :
    (match windowFull.windowRoom key1 [] with
      | .full => true
      | _ => false) = true ∧
    (match claiming.windowRoom key1 [] with
      | .at_ _ i => decide (i = 17616)
      | _ => false) = true ∧
    (((claiming.setRecord 0 0 (ten7.set 7 0)).updPset 1 (fun v => { v with t1 := false, level := 2, t2 := true })).claimTier pub5 3 1).toOption
      = none ∧
    bit (w32 (super5 1).flags) 11 = true ∧
    (((claiming.setSlot 17616 slot1).current key1 0).map (fun e => (e.1, e.2.edition, e.2.parent))) = some (17616, 1, none) ∧
    claiming.current key1 0 = none ∧ slot1.edition ≠ (super5 2).expect ∧ slot1.parent.isSome ≠ ({ super5 1 with parent := some key1 } : Pub).parent.isSome ∧
    ((claiming.setSlot 17616 slot1).claimParent child5).2.toOption = some (some 17616) ∧ (claiming.claimParent child5).2.toOption = none := by
  decide +kernel

/-- Two points wait: the value of the first is marked or not. -/
def pointing (units mark : Nat) (k : PointKind) : State :=
  { claiming with dir := { claiming.dir with points := [⟨1, k⟩, ⟨2, .end_ 9 .evict⟩] }, flm := { claiming.flm with units := units, mark := mark } }

theorem test_wit_points : (pointing 4 1 (.commit 17616 5)).seqOpen 1 = true ∧ (pointing 4 0 (.commit 17616 5)).seqOpen 1 = false ∧
    (((pointing 4 1 (.super 17616 17617 5)).setSlot 17616 slot1).slot 17616).state = .current ∧
    ((pointing 4 1 (.super 17616 17617 5)).slot 17616).state ≠ .current := by decide +kernel

theorem test_wit_commit : ({ claiming with dir := { claiming.dir with points := [⟨1, .commit 17616 5⟩] } } : State).pub 5 = some pub5 :=
  rfl

/-- RETIRE of the resident block. -/
def retiring : State :=
  withCmd (entry.setHost 0 (Mem.wrBytes [] 0x1000 (leBytes 24 key1.num))) false (cmd [0x80000206, 0, 9, 0, 0, 0, 0x1000]) .accepted

theorem test_wit_retire : fresh retiring 6 = true ∧
    (cmd5 retiring).reservedOk 0x601 [0, 0, 0xFFFFFFFF, 0xFFFFFFFF] = true ∧
    (retiring.namedKey (cmd5 retiring) true).toOption = some (key1, 0) ∧ retiring.current key1 0 = some (17616, slot1) ∧
    (cmd5 retiring).flag 0 = false ∧ slot1.children = 0 := by decide +kernel

/-- RETIRE and CASCADE of a block with children, and of one that is not resident. -/
theorem test_wit_retire_ways : (retiring.setSlot 17616 { slot1 with children := 1 }).current key1 0 = some (17616, { slot1 with children := 1 }) ∧
    (retiring.setSlot 17616 Slot.free).current key1 0 = none ∧ (cmd5 (withCmd retiring false (cmd [0x80000206, 1, 9, 0, 0, 0, 0x1000]) .accepted)).flag 0 = true ∧
    (cmd5 (withCmd retiring false (cmd [0x80000206, 4, 9, 0, 0, 0, 0x1000]) .accepted)).reservedOk 0x601 [0, 0, 0xFFFFFFFF, 0xFFFFFFFF] = false ∧
    ((retiring.setHost 0 []).namedKey (cmd5 retiring) true).toOption = none := by decide +kernel

def cascading : State :=
  let s := entry.setSlot 17616 { slot1 with state := .retiring }
  { s with dir := { s.dir with cascades := [⟨17616, .poison, 0⟩] } }

theorem test_wit_cascade : cascading.dir.cascades.find? (fun c => decide (c.root = 17616)) = some ⟨17616, .poison, 0⟩ ∧
    cascading.dir.points = [] ∧ cascading.cascadeNext 17616 = some 17616 := by decide +kernel

theorem test_wit_end : (entry.slot 17616).state = .current ∧ (entry.slot 17616).pin = false ∧ (entry.slot 17616).children = 0 ∧
    ((entry.setSlot 17616 { slot1 with pin := true }).slot 17616).pin = true ∧ entry.claimed 17616 = false ∧
    (pointing 4 1 (.end_ 17616 .evict)).seqOpen 1 = true ∧ (pointing 4 1 (.end_ 17616 .evict)).dir.points = [⟨1, .end_ 17616 .evict⟩, ⟨2, .end_ 9 .evict⟩] ∧
    (cascading.slot 17616).state = .retiring ∧ (cascading.slot 17616).children = 0 ∧
    ((cascading.setSlot 17616 { slot1 with state := .retiring, children := 1 }).slot 17616).children ≠ 0 ∧
    (({ cascading with dir := { cascading.dir with points := [⟨2, .end_ 17616 (.cascade 17616)⟩] } } : State).dir.points.any (fun p => match p.kind with
      | .end_ _ (.cascade r) => decide (r = 17616)
      | _ => false)) = true := by decide +kernel

/-- A version 1 command of opcode `op` for HASH `h`; the block is resident without an adapter. -/
def v1 (op h : Nat) : State :=
  withCmd (entry.setSlot 17616 { slot1 with key := { key1 with adapter := 0 } }) true
    (cmd [w32 (0x80000100 + op), 0, 9, 0, 3, w32 h]) .accepted

/-- The probe of a version 1 LOOKUP in its implicit proof: a proof opened, the entry found. -/
def v1found (s : State) : Option (Option (Nat × Bool)) :=
  match s.viewFor 5 7 0 with
  | (_, .error _) => none
  | (t, .ok snap) => some (t.lookProbeView (compatKey (cmd5 s)) snap).2

theorem test_wit_v1 : (v1 1 0x1234).live 5 = some (cmd5 (v1 1 0x1234)) ∧ (cmd5 (v1 1 0x1234)).op = 1 ∧
    (cmd5 (v1 1 0x1234)).compat = true ∧ compatReserved (cmd5 (v1 1 0x1234)) [] = true ∧
    ((v1 1 0x1234).model ((cmd5 (v1 1 0x1234)).w 4)).isSome = true ∧ (v1 1 0x1234).reached .psa = true ∧
    v1found (v1 1 0x1234) = some (some (17616, false)) ∧ v1found (v1 1 0x1235) = some none ∧
    (((v1 8 0x1234).current (compatKey (cmd5 (v1 8 0x1234))) 0).map (·.1)) = some 17616 ∧
    compatReserved (cmd5 (v1 8 0x1234)) [] = true ∧ (v1 8 0x1234).evictable 17616 = true ∧ (slot1.pin || slot1.shared) = false ∧
    ((((v1 8 0x1234).updSlot 17616 (fun v => { v with pin := true })).current (compatKey (cmd5 (v1 8 0x1234))) 0).map (·.2.pin))
      = some true := by decide +kernel

/-! ### 04 -/

def slotHot : Slot := { slot1 with hot := true }

/-- The resident block asks for its group to be held; bank 0 is active. -/
def wanting : State :=
  let s := (entry.setSlot 17616 slotHot).setBank 0 { Bank.reset with state := .active }
  { s with psa := { s.psa with want := [17616] } }

/-- A group of 64 entries, one for each adapter. -/
def crowd : State :=
  { wanting with dir := { wanting.dir with
      slots := (List.range 64).map (fun i => (17616 + i, { slotHot with key := { key1 with adapter := i + 1 } })) } }

theorem test_wit_insert : wanting.psa.want.contains 17616 = true ∧ (wanting.slot 17616).resident = true ∧
    wanting.groupHot key1 = true ∧ wanting.isHeld key1 = false ∧ (wanting.groupEntries key1).length ≤ largestGroup 0 ∧
    wanting.segWith (wanting.banksFor 0) 2 = some (0, 0) ∧ entry.segWith (entry.banksFor 0) 2 = none ∧
    (crowd.slot 17616).resident = true ∧ crowd.groupHot (crowd.slot 17616).key = true ∧ crowd.isHeld (crowd.slot 17616).key = false ∧
    largestGroup 0 < (crowd.groupEntries (crowd.slot 17616).key).length := by decide +kernel

/-- The row of the block in bank 1, beside another one; SEG_FREE of 63 gives compaction a reason to move it. -/
def compactable : State :=
  let s := (wanting.setSlot 17616 { slotHot with held := true }).setBank 1
    (({ Bank.reset with state := .active }.put 5 (rowOf 17616 slotHot)).put 6 (rowOf 17617 { slotHot with key := { key1 with hash := 9 } }))
  { s with act := [(pg 0x07 + 0x110, 0x0A3F)] }

theorem test_wit_compact : compactable.psaCtrl 2 = true ∧ compactable.slack .psa = true ∧ compactable.isHeld key1 = true ∧
    (compactable.bank 0).state = .active ∧ (compactable.bank 0).width = 0 ∧
    compactable.bankOf ((compactable.groupEntries key1).map (·.1)) = some 1 ∧
    compactable.groupSeg 1 ((compactable.groupEntries key1).map (·.1)) = some 0 ∧ compactable.skewed 1 = [] ∧ compactable.segTight 1 0 = true ∧
    compactable.segWith [0] 2 = some (0, 0) := by decide +kernel

def draining : State := compactable.updBank 1 (fun b => { b with state := .draining })

theorem test_wit_psa_drain : (draining.bank 1).state = .draining ∧
    (draining.bank 1).rows.any (fun e => ((draining.groupEntries key1).map (·.1)).contains e.2.dir) = true ∧
    draining.segWith (draining.banksFor 0) 2 = some (0, 0) ∧
    (draining.setBank 0 Bank.reset).segWith ((draining.setBank 0 Bank.reset).banksFor 0) 2 = none := by decide +kernel

def rehoming : State := (compactable.updBank 1 (fun b => { b with state := .failed })).setSlot 17616 slotHot

theorem test_wit_rehome : rehoming.psaCtrl 0 = true ∧ rehoming.slack .psa = true ∧ (rehoming.bank 1).state = .failed ∧
    ((rehoming.bank 1).image.find? (fun e => decide (e.2 / 2 ^ 62 = 1))).map (fun e => (e.1, e.2 % 2 ^ 26)) = some (5, 17616) ∧
    rehoming.psa.rehomeAt ≤ rehoming.clk ∧ (rehoming.bank 1).imgBad.contains 5 = false ∧
    ((rehoming.updBank 1 (fun b => { b with imgBad := [5] })).bank 1).imgBad.contains 5 = true ∧
    rehoming.groupHot key1 = true ∧ rehoming.isHeld key1 = false := by decide +kernel

/-- The PSA hits the inserted row for the tenant and adapter of its key, and no other adapter. -/
theorem test_psa_hit : (compactable.psaMatches key1).map (·.1) = [1] ∧ compactable.psaMatches { key1 with adapter := 6 } = [] := by
  decide +kernel

theorem test_wit_temp : ({ up with psa := { up.psa with tempLevel := 1 } } : State).cfgFld (pg 0x07 + 0x104) (8 * 2) 8 ≤ 100 ∧
    100 < up.cfgFld (pg 0x07 + 0x104) (8 * 3) 8 ∧ 20 + up.cfgFld (pg 0x07 + 0x104) 0 4 < up.cfgFld (pg 0x07 + 0x104) (8 * 1) 8 := by
  decide +kernel

theorem test_wit_late : up.psaCtrl 1 = true ∧ (up.bank 2).late = false ∧
    (up.bank 2).passAt + up.cfgFld (pg 0x07 + 0x10C) 16 16 * 1000000 < max up.clk 2000000000 := by decide +kernel

theorem test_wit_fail : (up.bank 2).state ≠ .failed ∧ up.pageOn (.port 0) (0x08 + 2) = true ∧ up.reached .verify = true := by
  decide +kernel

/-- Only bank 3 works; it stands at its last row. -/
def scrubbing : State :=
  (List.range 16).foldl (fun s b => s.setBank b { Bank.reset with state := if b = 3 then .active else .failed, scrub := 262143 }) up

theorem test_wit_scrub : (scrubbing.bank 3).state ≠ .failed ∧ (∀ q, q < 16 → q ≠ 3 → (scrubbing.bank q).state = .failed) ∧
    (scrubbing.at_ 9).slack .psa = true ∧ scrubbing.psaCtrl 1 = true ∧ scrubbing.reached .psa = true ∧
    (scrubbing.bank 3).inject = false ∧ (scrubbing.bank 3).scrubOk ((scrubbing.bank 3).scrub / 2 ^ (scrubbing.bank 3).width) = true ∧
    (scrubbing.bank 3).scrub + 1 = 2 ^ 18 ∧ (scrubbing.bank 3).imgBad = [] ∧ scrubbing.psa.scrubAt ≤ scrubbing.clk := by decide +kernel

/-- A soft error of an image word, and of the row that stands at the scrub position. -/
theorem test_wit_upset : (let s := (compactable.updBank 1 (fun b => { b with scrub := 5 })).upset (.image 1 5)
    (s.bank 1).imgBad.contains (s.bank 1).scrub = true ∧ (compactable.bank 1).scrubOk 5 = true ∧
    ((compactable.updBank 1 (fun b => { b with image := [] })).bank 1).scrubOk 5 = false) := by decide +kernel

def rebuilding : State := { entry with start := .psa, clk := 5 }

theorem test_wit_rebuild : rebuilding.start = .psa ∧ rebuilding.phaseDone = false ∧ rebuilding.clk ≠ 0 ∧
    rebuilding.dir.slots.all (fun e => !(e.2.resident && (e.2.hot || e.2.shared))) = true := by decide +kernel

/-! ### 06 -/

/-- PLACE RESERVE of one block of model 3 in T1. -/
def placing : State := withCmd known false (cmd [0x80000207, 1, 9, 0, 3]) .accepted

/-- The outcome of a charge request: 0 fits, 1 waits, 2 QUOTA, 3 FULL, with the shortfall. -/
def roomCode (r : Room) : Nat × Nat :=
  match r with
  | .fits _ => (0, 0)
  | .wait _ => (1, 0)
  | .short .quota b => (2, b)
  | .short _ b => (3, b)

theorem test_wit_place : fresh placing 7 = true ∧ (cmd5 placing).flag 8 = false ∧ (cmd5 placing).flag 11 = false ∧
    (cmd5 placing).flag 5 = false ∧ (cmd5 placing).reservedOk placeFlags [0xFFFF, 0] = true ∧
    (placing.model ((cmd5 placing).w 4)).map (fun m => (m.layers, m.pageSize)) = some (2, 4096) ∧
    roomCode (placing.request 7 1 8192) = (0, 0) ∧ placing.takePset.map (fun x => (x.1, x.2.1)) = some (0, 1) ∧
    roomCode ((placing.setRecord 0 0 (ten7.set 7 0)).request 7 1 8192) = (2, 8192) := by decide +kernel

/-- PLACE RESERVE of an object of 1,024 pages of 64 KiB, of 0 pages and of pages of 32 KiB; one that may spill from T0 to T1. -/
def placingObj (flags : Nat) (w5 : Word) : State := withCmd known false (cmd [0x80000207, w32 flags, 9, 0, 3, w5]) .accepted

theorem test_wit_place_object : (cmd5 (placingObj 0x801 0x100400)).flag 11 = true ∧
    (cmd5 (placingObj 0x801 0x100400)).reservedOk placeFlags [0xFFFF, 0x1F07FF] = true ∧
    fld ((cmd5 (placingObj 0x801 0x100400)).ws.getD 5 0) 0 11 = 1024 ∧ fld ((cmd5 (placingObj 0x801 0x100400)).ws.getD 5 0) 16 5 = 16 ∧
    fld ((cmd5 (placingObj 0x801 0x100000)).ws.getD 5 0) 0 11 = 0 ∧ fld ((cmd5 (placingObj 0x801 0x0F0400)).ws.getD 5 0) 16 5 < 16 ∧
    (cmd5 (placingObj 1 1)).reservedOk placeFlags [0xFFFF, 0] = false ∧
    known.model 4 = none ∧ (cmd5 (placingObj 0x20 0)).flag 5 = true ∧ fld (cmd5 (placingObj 0x20 0)).flags 0 2 = 0 ∧
    (match (known.setRecord 0 0 (ten7.set 5 0)).chargeTier 7 (fun _ => 8192) true (fun _ => false) 1 2 0 with
      | .ok (_, t, ok) => decide (t = 1) && ok
      | .error _ => false) = true ∧
    (match (known.setRecord 0 0 (ten7.set 5 0)).chargeTier 7 (fun _ => 8192) false (fun _ => false) 1 2 0 with
      | .error (st, b) => decide (st = .quota ∧ b = 8192)
      | .ok _ => false) = true ∧
    (match known.rooms 7 1 with
      | (tr, fr) => decide (fr < tr)) = true := by decide +kernel

/-- The handle that 06 R202 gives the first reservation of an empty directory. -/
theorem test_first_handle : ∃ t, exec (.placeReserve 5) placing = .next t ∧ (t.psetAt 0).gen * 2 ^ 26 + 0 = 0x04000000 ∧
    (t.psetAt 0).level = 1 ∧ (t.psetAt 0).rstate = .open_ ∧ (t.psetAt 0).lapseAt = some 10000000000 ∧ t.tenantCharge 7 1 = 8192 :=
  ⟨_, rfl, by decide +kernel⟩

/-- A reservation that lapses at 100 ns. -/
def lapsing : State := known.setPset 1 { pset1 with rstate := .open_, lapseAt := some 100 }

theorem test_wit_rsv_lapse : (lapsing.psetAt 1).lapseAt = some 100 ∧ (lapsing.psetAt 1).gen ≠ 0 ∧
    (lapsing.psetAt 1).rstate ≠ .published ∧ 100 ≤ max lapsing.clk 100 ∧ max lapsing.clk 99 < 100 ∧
    up.rooms 9 2 = (0, 0) := by decide +kernel

/-- SET of the resident block: PIN only, and TIER_PREF to T0. -/
def setting (mask alloc : Nat) : State :=
  withCmd (entry.setHost 0 (Mem.wrBytes [] 0x1000 (leBytes 24 key1.num))) false
    (cmd [0x80000207, w32 (mask * 2 ^ 16 + 0x100 + alloc), 9, 0, 0, 0, 0x1000]) .accepted

theorem test_wit_set : fresh (setting 2 4) 7 = true ∧ (cmd5 (setting 2 4)).flag 8 = true ∧
    (cmd5 (setting 2 4)).reservedOk placeFlags [0, 0, 0xFFFFFFFF, 0xFFFFFFFF] = true ∧ fld (cmd5 (setting 2 4)).flags 16 5 % 2 = 0 ∧
    fld (cmd5 (setting 2 4)).flags 16 5 ≠ 0 ∧ ((setting 2 4).namedKey (cmd5 (setting 2 4)) true).toOption = some (key1, 0) ∧
    (setting 2 4).current key1 0 = some (17616, slot1) ∧ fresh (setting 1 0) 7 = true ∧
    (cmd5 (setting 1 0)).reservedOk placeFlags [0, 0, 0xFFFFFFFF, 0xFFFFFFFF] = true ∧
    fld (cmd5 (setting 1 0)).flags 16 5 % 2 = 1 ∧ (setting 1 0).moveOf slot1.ps = none ∧
    ((setting 1 0).namedKey (cmd5 (setting 1 0)) true).toOption = some (key1, 0) ∧
    prefTier (maskAlloc pset1.alloc (fld (cmd5 (setting 1 0)).flags 0 6) 1) = 0 ∧ pset1.has 0 = false ∧ pset1.level = 1 ∧
    roomCode ((setting 1 0).request 7 0 8192) = (0, 0) := by decide +kernel

theorem test_wit_set_ways : fld (cmd5 (setting 0 0)).flags 16 5 = 0 ∧
    ((setting 1 0).setSlot 17616 { slot1 with state := .retiring }).current key1 0 = none ∧
    ((((setting 1 0).setSlot 17616 { slot1 with state := .retiring }).exact key1 0 Slot.resident).map (·.1)) = some 17616 ∧
    (match (setting 1 0).beginMove 1 0 (.set 5) (some 0) (some (1, 1)) with
      | .ok u => decide (u.tier.moves.length = 1)
      | .error _ => false) = true ∧
    (match ({ setting 1 0 with flm := { (setting 1 0).flm with readOnly := true } } : State).beginMove 1 2 (.set 5) (some 0) (some (1, 1)) with
      | .error st => decide (st = .readOnly)
      | .ok _ => false) = true ∧
    (match ((setting 1 0).setSlot 17616 { slot1 with poison := true, badPages := [0] }).beginMove 1 0 (.set 5) (some 0) (some (1, 1)) with
      | .error st => decide (st = .poison)
      | .ok _ => false) = true := by decide +kernel

/-- A move of page set 1. -/
def moveOn (m : Move) : State := { entry with tier := { entry.tier with moves := [m] } }

def promo : Move := ⟨1, 0, .publish, false, false, none, none⟩

def demo : State :=
  { ((moveOn ⟨1, 1, .publish, false, false, none, none⟩).updPset 1 (fun v => { v with level := 0, t0 := true, t1 := false })) with clk := 1 }

theorem test_wit_move : (moveOn promo).tier.moves.find? (fun m => decide (m.pset = 1) && m.gone) = none ∧
    (moveOn promo).moveOf 1 = some promo ∧ (moveOn promo).moveShut promo = false ∧ promo.target < ((moveOn promo).psetAt 1).level ∧
    (moveOn promo).moveReady promo = true ∧ demo.moveReady ⟨1, 1, .publish, false, false, none, none⟩ = true ∧ entry.moveOf 1 = none ∧
    demo.moveOf 1 = some ⟨1, 1, .publish, false, false, none, none⟩ ∧ (demo.psetAt 1).level < 1 ∧ demo.viewed 1 1 = false ∧
    (moveOn { promo with releasing := true }).moveOf 1 = some { promo with releasing := true } ∧
    (moveOn { promo with cause := .set 5, gone := true }).tier.moves.find? (fun m => decide (m.pset = 1) && m.gone) =
      some { promo with cause := .set 5, gone := true } := by decide +kernel

/-- A demotion keeps the upper copy until its release. -/
theorem test_demotion : ∃ t u, exec (.moveCommit 1) demo = .next t ∧ (t.psetAt 1).level = 0 ∧ (t.psetAt 1).tiers = 3 ∧
    exec (.copyRelease 1) t = .next u ∧ (u.psetAt 1).level = 1 ∧ (u.psetAt 1).tiers = 2 :=
  ⟨_, _, rfl, by decide +kernel, by decide +kernel, rfl, by decide +kernel, by decide +kernel⟩

/-- T0 filled to the brim by a page set that the directory does not list as evictable; reclaim of T0 under way, no
demotion allowed. -/
def tight : State :=
  let s := entry.setPset 2 { pset1 with pages := 32000000000, pageSize := 1, level := 0, t0 := true, t1 := false, rstate := .open_ }
  { s with act := [(pg 0x19 + 0x100, 1)], tier := { s.tier with low0 := true } }

theorem test_wit_pressure : bit (tight.cfgReg (pg 0x19 + 0x100)) 0 = true ∧ tight.reached .psa = true ∧ tight.slack .memory = true ∧
    tight.reclaiming 0 = true ∧ tight.freeBelow 0 (tight.watermark 0 8) = true ∧ tight.tier.retryAt = [] ∧
    tight.releaseFirst 0 = none ∧ bit (tight.cfgReg (pg 0x19 + 0x100)) 1 = false ∧
    tight.evictList (fun _ v => decide ((tight.psetAt v.ps).level = 0)) = [] ∧
    ((tight.updPset 1 (fun v => { v with level := 0, t0 := true })).evictList (fun _ v => decide
      (((tight.updPset 1 (fun v => { v with level := 0, t0 := true })).psetAt v.ps).level = 0))).map (·.1) = [17616] ∧
    (tight.updPset 1 (fun v => { v with level := 0, t0 := true })).dir.points = [] ∧
    ((({ tight with act := [], tier := { tight.tier with low0 := false, low1 := true } } : State).updPset 1 (fun v =>
      { v with level := 0, t0 := true })).releaseFirst 1).isSome = true := by decide +kernel

/-- The page set that pressure may demote, T0 full; and a reclaim whose retry is due at 5 ns. -/
def demotable1 : State :=
  let s := tight.updPset 1 (fun v => { v with level := 0, t0 := true, alloc := 0x20 })
  { s with act := [(pg 0x19 + 0x100, 3)] }

theorem test_wit_pressure_ways : bit (demotable1.cfgReg (pg 0x19 + 0x100)) 1 = true ∧ demotable1.demoteCredit 0 = true ∧
    (demotable1.demoteFirst 0 (demotable1.demotable 0)).isSome = true ∧ demotable1.endReady = true ∧
    (let u := { tight.tier with retryAt := [(0, 5)] }
     let s : State := { tight with tier := u }
     s.tier.retryAt.any (fun x => decide (x.1 = 0 ∧ x.2 ≤ (s.at_ 5).clk))) = true ∧
    (let u := { tight.tier with low0 := false }
     let s : State := { tight with tier := u }
     decide (s.reclaiming 0 = false) && s.freeBelow 0 (s.watermark 0 0)) = true ∧ entry.freeBelow 0 (entry.watermark 0 8) = false := by
  decide +kernel

/-- FREE of a reservation by its handle, and of the resident block by its key. -/
def freeing (w1 w4 : Nat) : State :=
  withCmd ((entry.setPset 3 { pset1 with rstate := .open_ }).setHost 0 (Mem.wrBytes [] 0x1000 (leBytes 24 key1.num))) false
    (cmd [0x80000208, w32 w1, 9, 0, w32 w4, 0, if w1 = 0 then 0 else 0x1000]) .accepted

theorem test_wit_free : fresh (freeing 0 0x04000003) 8 = true ∧ (cmd5 (freeing 0 0x04000003)).flag 0 = false ∧
    (cmd5 (freeing 0 0x04000003)).reservedOk 0x601 [0xFFFFFFFF] = true ∧
    ((freeing 0 0x04000003).openRsv 7 0x04000003).isSome = true ∧ (freeing 0 0x04000004).psetOf 0x04000004 = none ∧
    fresh (freeing 1 0) 8 = true ∧ (cmd5 (freeing 1 0)).flag 0 = true ∧
    (cmd5 (freeing 1 0)).reservedOk 0x601 [0, 0, 0xFFFFFFFF, 0xFFFFFFFF] = true ∧
    ((freeing 1 0).namedKey (cmd5 (freeing 1 0)) false).toOption = some (key1, 0) ∧
    ((freeing 0 0x04000003).setPset 3 { pset1 with rstate := .sealed 2 }).psetOf 0x04000003 = some { pset1 with rstate := .sealed 2 } ∧
    (freeing 1 0).current key1 0 = some (17616, slot1) ∧ (freeing 1 0).evictable 17616 = true ∧
    ((freeing 1 0).setSlot 17616 { slot1 with pin := true }).evictable 17616 = false := by decide +kernel

/-! ### 07 -/

/-- An entry list of one entry, the resident block, at 0x4000. -/
def listed : State := entry.setHost 0 (Mem.wrBytes [] 0x4000 (leBytes 24 key1.num))

/-- DELIVER of the list to host port 1 at 0x8000, through an implicit proof. -/
def delivering : State :=
  { withCmd listed false (cmd [0x8000020A, 3, 9, 0, 0, 0, 0x8000, 0, 0, 0x00010000, 0x4000]) .accepted with
    stk := { listed.stk with sync := .locked } }

theorem test_wit_deliver : fresh delivering 0x0A = true ∧ (delivering.dlvTarget (cmd5 delivering)).toOption = some (.host 1) ∧
    ((delivering.dlvList (cmd5 delivering)).toOption.map (fun l => l.map (·.2))) = some [key1] ∧ (cmd5 delivering).w 9 % 2 ^ 16 = 0 ∧
    ((delivering.viewFor 5 7 0).2).toOption = some 1 ∧ (delivering.viewFor 5 7 99).2.toOption = none ∧
    ((withCmd listed false (cmd [0x8000020A, 3, 9]) .accepted).dlvTarget (cmd5 (withCmd listed false (cmd [0x8000020A, 3, 9]) .accepted))).toOption
      = none ∧
    (let s := withCmd ({ listed with bad := [⟨0, 0, 0x10000⟩] } : State) false (cmd [0x8000020A, 3, 9, 0, 0, 0, 0x8000, 0, 0, 0x00010000, 0x4000]) .accepted
     (s.dlvList (cmd5 s)).toOption) = none := by decide +kernel

/-- The two pages arrive at HOST_BASE, and the delivery is done with bit 0 of DONE_MASK. -/
theorem test_deliver_host : ∃ t, exec (.deliver 5) delivering = .next t ∧
    (t.pfs.dlvs.map (fun d => (d.ents.map (fun e => (e.st, e.acked)), dlvResult d))) = [([(.done, 8192)], [1, 0, 0, 0])] :=
  ⟨_, rfl, by decide +kernel⟩

/-- A DELIVER to a connection in class 7, and one whose FIRST_PAGE lies past the block. -/
theorem test_wit_deliver_bad :
    (let s := withCmd listed false (cmd [0x8000020A, 0x70, 9, 0, 0x100000, 0, 0, 0, 0, 0x00010000, 0x4000]) .accepted
     (cmd5 s).flag 0 = false ∧ fld (cmd5 s).flags 4 3 = 7 ∧
      (cmd5 s).reservedOk 0x73 [0xFFFFFF, 0xFFFFFFFF, 0xFFFFFFFF, 0xFFFFFFFF, 0xFFFFFFFF, 0x7FFFFF, 0xFFFFFF80, 0xFFFFFFFF] = true) ∧
    (entry.dlvEntries 7 0 1 [(leBytes 72 key1.num ++ bytesOf [2] ++ List.replicate 52 0, key1)]) = none ∧
    ((entry.dlvEntries 7 0 1 [(leBytes 128 key1.num, key1)]).map (fun l => l.map (fun e => (e.slot, e.pages)))) = some [(17616, 2)] := by
  decide +kernel

/-- A running delivery of one entry to host memory. -/
def dlv1 (st : EState) : State :=
  { withCmd entry false (cmd [0x8000020A, 3, 9]) .running with
    pfs := { entry.pfs with dlvs := [⟨5, .host 1, [⟨1, 17616, 0, 2, 4096, 0x8000, st, 0, 0, false, false⟩], none, false⟩] } }

theorem test_wit_dlv : ((dlv1 .active).live 5).map (fun l => (l.id, l.phase)) = some (5, .running) ∧
    ((dlv1 .active).dlv 5).map (fun d => d.ents.any (fun e => decide (e.st = .active))) = some true ∧
    ((dlv1 .done).dlv 5).map (fun d => d.ents.any (fun e => decide (e.st = .active))) = some false := by decide +kernel

/-- A version 1 DELIVER of the resident block, of one page, to host memory. -/
def v1deliver : State :=
  { withCmd (entry.setSlot 17616 { slot1 with key := { key1 with adapter := 0 } }) true
      (cmd [0x8000010A, 0, 9, 0, 3, 0x1234, 0, 0, 0x01000000, 0, 0x8000, 0, 0x00010000]) .accepted with
    stk := { entry.stk with sync := .locked } }

theorem test_wit_v1deliver_ways : known.model 9 = none ∧
    ((known.setRecord 2 0 (model3.set 0 0x80010003)).model 3).map (fun m => m.keyForm) = some 1 ∧
    (match v1deliver.viewFor 5 7 0 with
      | (_, .error _) => false
      | (u, .ok snap) => (u.probeView { compatKey (cmd5 v1deliver) with hash := 9 } snap).isNone) = true ∧ pset1.pages < 1 + 2 := by
  decide +kernel

theorem test_wit_v1deliver : (cmd5 v1deliver).op = 0x0A ∧ compatReserved (cmd5 v1deliver)
      [0x1FFFFFF, 0xFFFFFFFF, 0xFFFFFFFF, 0xFFFFFFFF, 0xFFFFFFFF] = true ∧ (v1deliver.model ((cmd5 v1deliver).w 4)).isSome = true ∧
    bit ((cmd5 v1deliver).ws.getD 8 0) 24 = true ∧
    (match v1deliver.viewFor 5 7 0 with
      | (_, .error _) => none
      | (u, .ok snap) => (u.probeView (compatKey (cmd5 v1deliver)) snap).map (fun x => (x.1, x.2.1.poison, (u.psetAt x.2.1.ps).pages)))
      = some (17616, false, 2) := by decide +kernel

/-- The resident page set as an object, and a PLAN_LOAD that lists it under layer 0 in T1. -/
def planned (flags w5 n : Nat) : State :=
  let s := (listed.setPset 1 { pset1 with object := true }).setHost 0
    (Mem.wrBytes [] 0x4000 (leBytes 72 key1.num ++ bytesOf [1]))
  withCmd s false (cmd [0x8000020B, w32 flags, 9, 0, 3, w32 w5, 640000, w32 n, if n = 0 then 0 else 0x4000]) .accepted

/-- The plan's objects as its entries name them. -/
def planOf1 (s : State) : Option (List PlanObj) :=
  match s.workRead 7 0 0x4000 128 with
  | .error _ => none
  | .ok bs =>
    match s.listKeys (pieces 128 1 bs) with
    | .error _ => none
    | .ok ks => s.planObjs 7 ks

theorem test_wit_plan : fresh (planned 0 0 1) 0x0B = true ∧ (cmd5 (planned 0 0 1)).flag 0 = false ∧
    (cmd5 (planned 0 0 1)).reservedOk 3 [0xFFFF, 0, 0xFFFFFFFF, 0x3FFF, 0xFFFFFFFF, 0xFFFFFFFF] = true ∧
    (cmd5 (planned 0 0 1)).w 7 = 1 ∧ ((planned 0 0 1).workRead 7 0 0x4000 128).toOption.any (fun bs =>
      (pieces 128 1 bs).all planEntryOk) = true ∧ planOf1 (planned 0 0 1) = some [⟨0, 17616, 1, 1⟩] ∧
    planOf1 ((planned 0 0 1).setPset 1 pset1) = none ∧ (planned 0 0 1).freePlan = some 0 ∧
    ((planned 0 0 1).planShort 7 [⟨0, 17616, 1, 1⟩]) = [0, 0, 0] ∧ (planned 0 0 1).flm.readOnly = false ∧
    (planned 0 0 1).tier.moves = [] ∧ ((planned 0 0 1).planRequest 7 [⟨0, 17616, 1, 1⟩] 3 0).2 = true ∧
    (((planned 0 0 1).setRecord 0 0 (ten7.set 5 0)).planShort 7 [⟨0, 17616, 0, 0⟩]) = [8192, 0, 0] ∧
    (planSchedule (List.replicate 9 ⟨0, 17616, 1, 1⟩)).any (fun e => decide (8 < e.2.length)) = true := by decide +kernel

/-- The chosen layer of the worked example of 06: one layer of 80 moves, layer 40. -/
theorem test_spread : spread 80 1 = [40] ∧
    chooseLayers ((List.range 80).map (fun x => (x, 1677721600))) 717728000 80 1 = [40] := by decide +kernel

def plan1 : Plan := ⟨3, true, 7, 3, [(0, [(key1, 0)])], 0⟩

/-- PLAN_LOAD with UNLOAD = 1 of plan slot 5, generation 3. -/
def unloading : State := (planned 1 0x0503 0).setPlan 5 plan1

def step1 : Step := ⟨8, 5, 0, 20, 0, 1, 0, false, []⟩

theorem test_wit_plan_uses : (plan1.uses [(key1, 0)]).toOption = some (some 0) ∧ (plan1.uses [(key1, 1)]).toOption = some none ∧ entry.keyOf 17616 = (key1, 0) ∧
    ((⟨3, true, 7, 3, [(0, [(key1, 0)]), (1, [(key1, 1)])], 0⟩ : Plan).uses [(key1, 0), (key1, 1)]).toOption = none ∧
    (planned 2 0 1).planLack 7 [⟨0, 17616, 1, 1⟩] 0 = 0 ∧
    (((planned 2 0 1).setRecord 0 0 (ten7.set 5 0)).planSpill 7 [⟨0, 17616, 0, 0⟩] 0).map (fun x => (x.1, x.2)) = some ([⟨0, 17616, 1, 0⟩], [0]) ∧
    ((moveOn promo).moveOf 1).isSome = true ∧ (cmd5 (planned 2 0 1)).flag 1 = true := by decide +kernel

theorem test_wit_unload : (cmd5 unloading).flag 0 = true ∧ unloading.pfs.unloads = [] ∧
    (cmd5 unloading).reservedOk 3 [0xFFFF, 0xFFFF, 0xFFFFFFFF, 0x3FFF, 0xFFFFFFFF, 0xFFFFFFFF] = true ∧
    unloading.planOf unloading.que.nextId 7 ((cmd5 unloading).w 5) = some 5 ∧ unloading.pfs.dlvs = [] ∧ unloading.pfs.steps = [] ∧
    ({ unloading with pfs := { unloading.pfs with steps := [step1] } } : State).pfs.steps.any (fun x => decide (x.plan = 5)) = true ∧
    (unloading.plan 5).gen ≠ 0 ∧ unloading.planBusy 5 5 = false ∧
    ({ unloading with pfs := { unloading.pfs with unloads := [⟨5, 5, 6⟩] } } : State).pfs.unloads.find? (fun u => decide (u.id = 5)) = some ⟨5, 5, 6⟩ := by
  decide +kernel

/-- A PREFETCH_STEP record of plan 0x0503 for layer 0. -/
def stepping (count : Nat) : State :=
  let s := unloading
  { s with que := { s.que with live := [{ cmd5 s with src := .record 0 1 0, ws := cmd [0, 0, 0, 0, 0x05030000, w32 count] }] } }

theorem test_wit_step : (cmd5 (stepping 1)).op = 0 ∧ (cmd5 (stepping 1)).src = .record 0 1 0 ∧
    (stepping 1).planOf 5 7 (fld ((cmd5 (stepping 1)).ws.getD 4 0) 16 16) = some 5 ∧ (cmd5 (stepping 1)).w 5 = 1 ∧
    ((stepping 1).plan 5).count = 1 ∧ (cmd5 (stepping 2)).w 5 = 2 ∧ bit ((stepping 1).cfgReg (pg 0x1A + 0x100)) 0 = true ∧
    entry.planOf 5 7 0x0503 = none := by decide +kernel

/-- The step's record started before an unload with number 6. -/
theorem test_wit_plan_busy : (stepping 1).planBusy 6 5 = true ∧ (stepping 1).planBusy 5 5 = false ∧
    bit (({ stepping 1 with act := [(pg 0x1A + 0x100, 0)] } : State).cfgReg (pg 0x1A + 0x100)) 0 = false := by decide +kernel

/-- Step 1 runs over a layer at level T2 whose page is cached. -/
def fetching : State :=
  let s := (unloading.updPset 1 (fun v => { v with t1 := false, t2 := true, level := 2, pages := 1 }))
  { s with pfs := { s.pfs with steps := [step1], cache := [⟨1, 0⟩] } }

theorem test_wit_fetch : fetching.step_ 8 = some step1 ∧ fetching.shut 8 = false ∧ step1.issued < step1.count ∧
    fetching.layerCurrent 5 0 = true ∧ fetching.currentLayer 5 0 20 = none ∧ fetching.isHold step1 0 = false ∧
    fetching.heldBytes + fetching.layerBytes 5 0 ≤ fetching.cfgFld (pg 0x1A + 0x10C) 0 16 * 1000000000 ∧
    fetching.holdNeed (5, 0) ≤ fetching.cfgFld (pg 0x1A + 0x10C) 0 16 * 1000000000 ∧ step1.got.contains 0 = false ∧
    (fetching.readRound step1).layerWants 5 0 = [] ∧ fetching.layerCurrent 5 1 = true ∧
    ((fetching.setSlot 17616 Slot.free).layerCurrent 5 0) = false ∧
    step1.layers.contains 0 = true ∧ fetching.layerReady 5 0 = true ∧ fetching.layerBytes 5 0 ≠ 0 ∧
    (let s := fetching.updPset 1 (fun v => { v with pageSize := 7000000000 })
     s.cfgFld (pg 0x1A + 0x10C) 0 16 * 1000000000 < s.holdNeed (5, 0) ∧ s.isHold step1 0 = false) := by decide +kernel

/-- Read 4 of page 0 of page set 1 on channel 2, started. -/
def read4 : T2Read := ⟨4, 1, 0, 2, true, false, true, 0, false, [⟨0, 0⟩]⟩

def reading : State :=
  let s := fetching
  { s with
    pfs := { s.pfs with reads := [read4], cache := [] },
    flm := { s.flm with first := [(0x04000001, 1)], stip := [(0, ⟨0x04000001, 0, ⟨0, 0⟩⟩)],
                        sb := [(0, { Sb.free with st := .closed, blocks := (List.range 32).map (fun p => (p, 0)) })],
                        die := (List.range 32).map (fun p => (p, { Die.absent with st := .live, suspend := true })) } }

theorem test_wit_read : reading.read_ 4 = some read4 ∧ reading.pageLocs 1 0 = [⟨0, 0⟩] ∧
    (reading.flm.dieAt 0 (reading.flm.slotPos ⟨0, 0⟩)).st = .live ∧ reading.cached 1 0 = false ∧
    2 ^ 21 ≤ reading.cfgFld (pg 0x19 + 0x10C) 0 16 * 1000000000 ∧ (reading.psetAt 1).pageSize ≤ 2 ^ 21 ∧
    read4.issuedAt + reading.cfgFld (pg 0x1A + 0x110) 0 24 * 1000 ≤ max reading.clk 20000000 ∧
    max reading.clk 19999999 < read4.issuedAt + reading.cfgFld (pg 0x1A + 0x110) 0 24 * 1000 := by decide +kernel

/-- The read is not started yet, and is URGENT or not; its page lies on channel 1. -/
def waiting4 (urgent : Bool) : State := { reading with pfs := { reading.pfs with reads := [{ read4 with urgent := urgent, started := false, locs := [] }] } }

/-- What its die does. -/
def busyDie (s : State) (b : Busy) : State := { s with flm := { s.flm with busy := [(1, some b)] } }

theorem test_wit_channel : (waiting4 true).t2Channel 1 0 = 1 ∧ ((waiting4 true).readStart 1 true).isSome = true ∧ ((waiting4 false).readStart 1 true).isSome = false ∧
    ((waiting4 false).readStart 1 false).isSome = true ∧ ((waiting4 true).relocStart 1 3).isSome = false ∧ ((waiting4 true).ringStart 1).isSome = false ∧
    ((waiting4 true).progData 1).isSome = false ∧ (waiting4 true).fgLeft 1 = true ∧ (waiting4 true).slack .flash = true ∧
    ((busyDie (waiting4 true) ⟨.erase 9, 0⟩).readStart 1 true).isSome = true ∧ ((busyDie (waiting4 true) ⟨.erase 9, 15⟩).readStart 1 true).isSome = false ∧
    ((busyDie (waiting4 false) ⟨.erase 9, 0⟩).readStart 1 false).isSome = false := by decide +kernel

theorem test_wit_read_ends : ((reading.rebuildPage read4 [.hard 0 3]).pageRead [.hard 0 3] read4.locs).2 = false ∧ (reading.pageRead [.fail false] read4.locs).2 = true ∧
    (((reading.pfs.cache ++ [(⟨1, 0⟩ : Cached)]).filter (fun c => (reading.moveOf c.pset).isNone)).map (fun c => (reading.psetAt c.pset).pageSize)).sum
      ≤ reading.cacheMax := by decide +kernel

theorem test_wit_uncorrectable : ((entry.updPset 1 (fun v => { v with t0 := true })).psetAt 1).t0 = true ∧ 1 < pset1.pages ∧
    pset1.t1 = true ∧ ((entry.updPset 1 (fun v => { v with t0 := true, t1 := false })).psetAt 1).t2 = false ∧ pset1.rstate = .published ∧
    entry.reg (pg 0x1A + 0x18C) ≠ 0xFFFFFFFF := by decide +kernel

/-- Page 1 of the resident object is under repair on the route of model 3. -/
def repairing (st : RepState) (tries : Nat) : State :=
  let s := { entry with act := [(pg 0x1A + 0x200, 0x80000003), (pg 0x1A + 0x204, 0x100001)] }
  { s with pfs := { s.pfs with repairs := [⟨17616, 1, tries, st, 0, 0x100001⟩] } }

/-- The answer of status OK (or 2) for repair slot 0 has come. -/
def answered (status : Word) : State :=
  let s := repairing (.sent 0) 1
  s.setConn 0x100001 { s.conn 0x100001 with inbox := [(some 0xFF, bytesOf [0, 0, status])] }

theorem test_wit_repair : (repairing .waiting 0).pfs.repairs.find? (fun r => decide (r.st = .waiting)) =
      some ⟨17616, 1, 0, .waiting, 0, 0x100001⟩ ∧ (repairing .waiting 0).repairIn 0 = none ∧ entry.reached .links = true ∧
    (repairing .waiting 0).route 3 = some 0x100001 ∧ bit ((repairing .waiting 0).cfgReg (pg 0x1A + 0x100)) 1 = true ∧
    (repairing .waiting 0).qpnOk 0x100001 = true ∧ (answered 0).repairIn 0 = some ⟨17616, 1, 1, .sent 0, 0, 0x100001⟩ ∧
    ((answered 0).conn 0x100001).inbox.find? (fun m => decide (m.1 = some (w32 (0 * 256 + 0xFF)))) = some (some 0xFF, bytesOf [0, 0, 0]) ∧
    fld ((wordsOf (bytesOf [0, 0, 0])).getD 2 0) 0 8 = 0 ∧ fld ((wordsOf (bytesOf [0, 0, 2])).getD 2 0) 0 8 ≠ 0 ∧
    0 + (answered 0).cfgFld (pg 0x1A + 0x114) 16 8 * 1000000 ≤ max (answered 0).clk 50000000 ∧
    (repairing (.failed 0) 9).repairIn 0 = some ⟨17616, 1, 9, .failed 0, 0, 0x100001⟩ ∧
    0 + (answered 0).cfgFld (pg 0x1A + 0x114) 0 16 * 1000000 ≤ max (answered 0).clk 100000000 ∧
    (answered 0).cfgFld (pg 0x1A + 0x114) 24 8 < 9 := by decide +kernel

/-- A page of zeros has the check of a page of zeros: the answer is accepted. -/
theorem test_wit_check : crc64 ((answered 0).net.rbuf.rdBytes (2 ^ 21 * 0) 16) = crc64 ((answered 0).pageBytes 1 1 0 16) := by
  decide +kernel

/-- A running DELIVER of the instance uses layer 0 of a plan of 4 layers; the step stands at layer 3. -/
def lookingAhead : State :=
  let s := fetching.setPlan 5 { plan1 with layers := [(0, [(key1, 0)]), (3, [(key1, 0)])] }
  { s with
    stk := { s.stk with insts := [⟨1, 0, 20, [], [⟨0, [], false, false, none, some (some (5, 0)), .started 5⟩], true, false⟩] }
    pfs := { s.pfs with
      dlvs := [⟨5, .host 1, [], some (5, 0), false⟩]
      steps := [{ step1 with first := 3 }] } }

theorem test_wit_lookahead : lookingAhead.step_ 8 = some { step1 with first := 3 } ∧ lookingAhead.currentLayer 5 0 20 = some 0 ∧
    lookingAhead.layerCurrent 5 3 = true ∧ 0 + lookingAhead.cfgFld (pg 0x1A + 0x104) 0 4 < 3 + 0 := by decide +kernel


/-! ### 08, 09 -/

/-- The state after a command. -/
def nx (s : State) (c : Instr) : State := match exec c s with
  | .next t => t
  | _ => s

/-- The parameter block of an ATTEND of layer 1: one entry, one request, one FP16 query head, result to host port 0. -/
def params (w4 w5 w6 w16 : Word) : List Word :=
  [1, 0, 0x2000, 0, w4, w5, w6, 0x3F800000, 0x3000, 0, 0x4000, 0, 0x40000000, 0, 0x6000, 0, w16] ++ List.replicate 15 0

/-- Operands of opcode `op` at 0x1000, an entry list with the resident block at 0x2000, `n` requests without a proof. -/
def operandsOf (base : State) (op : Nat) (par : List Word) (list : List Word) : State :=
  let h := Mem.wrBytes (Mem.wrBytes [] 0x1000 (bytesOf par)) 0x2000 (leBytes 72 key1.num ++ bytesOf list)
  let s := base.setHost 0 h
  withCmd { s with stk := { s.stk with sync := .locked } } false (cmd [w32 (0x80000200 + op), 0, 9, 0, 0x1000]) .accepted

def operands (op : Nat) (par : List Word) : State := operandsOf (entry.setPset 1 { pset1 with t0 := false }) op par [1]

def attending : State := operands 0x0C (params 1 0 0x01050001 0)

theorem test_wit_attend : fresh attending 0x0C = true ∧
    (attending.paramRead (cmd5 attending)).toOption = some (params 1 0 0x01050001 0) ∧
    attending.attendCheck (params 1 0 0x01050001 0) false = true ∧ attending.npaWhen (cmd5 attending) (params 1 0 0x01050001 0) true = none ∧
    (attending.reqTable (cmd5 attending) (params 1 0 0x01050001 0)).toOption = some [(0, 0, 0)] ∧
    ((attending.entList (cmd5 attending) (params 1 0 0x01050001 0) false).toOption.map (fun es => es.map (fun e => (e.key, e.tokens))))
      = some [(some key1, 1)] ∧
    (match attending.entList (cmd5 attending) (params 1 0 0x01050001 0) false with
      | .error _ => none
      | .ok es => (match attending.entsModel es with
        | .error _ => none
        | .ok none => none
        | .ok (some m) => some (m.id, attendModelOk (params 1 0 0x01050001 0) m false es,
            attendModelOk (params 1 0 0x21050001 0) { m with heads := 8 } false es,
            (attending.attendArrays (cmd5 attending) (params 1 0 0x01050001 0) m false false).toOption.isSome,
            attending.attendRoom (cmd5 attending) (params 1 0 0x01050001 0) m false)))
      = some (3, true, false, true, true) ∧
    ((attending.reqViews (cmd5 attending) none [(0, 0, 0)]).2).toOption = some [some 1] := by decide +kernel

theorem test_wit_attend_bad : (operands 0x0C (params 0 0 0x01050001 0)).attendCheck (params 0 0 0x01050001 0) false = false ∧
    (attending.resolveReq 7 (modelOf model3) 1 [⟨none, some { key1 with hash := 1 }, 1, 0⟩] [] (0, 0, 0) (some 1)).1.st = .notFound ∧
    (let s := withCmd entry false (cmd [0x8000020C, 0, 9, 0, 0x1001]) .accepted
     fresh s 0x0C = true ∧ (cmd5 s).w64 4 % 64 ≠ 0) ∧
    (let s := operands 0x0D ((params 1 0 0x01050001 0).set 22 0x00010000)
     fresh s 0x0D = true ∧ s.attendCheck ((params 1 0 0x01050001 0).set 22 0x00010000) true = true) := by decide +kernel

/-- An ATTEND whose operands lie in a lost part of host memory, whose entry names an unknown model, or whose request names no proof. -/
theorem test_wit_attend_ways :
    (let s := withCmd (attending.setHost 0 attending.host0) false (cmd [0x8000020C, 0, 9, 0, 0x1000]) .accepted
     let x := withCmd { s with bad := [⟨0, 0x1000, 64⟩] } false (cmd [0x8000020C, 0, 9, 0, 0x1000]) .accepted
     let y := withCmd { s with bad := [⟨0, 0x2000, 64⟩] } false (cmd [0x8000020C, 0, 9, 0, 0x1000]) .accepted
     let z := withCmd { s with bad := [⟨0, 0x3000, 64⟩] } false (cmd [0x8000020C, 0, 9, 0, 0x1000]) .accepted
     ((s.paramRead (cmd5 s)).toOption.isSome, (x.paramRead (cmd5 x)).toOption.isSome,
      ((y.entList (cmd5 y) (params 1 0 0x01050001 0) false).toOption.map List.length),
      ((z.reqTable (cmd5 z) (params 1 0 0x01050001 0)).toOption.map List.length))) = (true, false, none, none) ∧
    (attending.entsModel [⟨none, some { key1 with model := 9 }, 1, 0⟩]).toOption.isNone = true ∧
    (attending.entsModel [⟨some (9, 1), none, 1, 0⟩]).toOption = some none ∧
    (nx (attending.noModel 5 [.staleProof]) (.attend 5)).npa.jobs = [] ∧
    ((attending.reqViews (cmd5 attending) none [(99, 0, 0)]).2).toOption = some [none] ∧
    attending.entBad (modelOf model3) 1 ⟨none, some key1, 0, 0⟩ { slot1 with tail := true } = true := by decide +kernel

/-- The ATTEND has started: one operation of one tile. -/
def started : State := nx attending (.attend 5)

theorem test_attend_starts : started.npa.jobs.map (fun j => (j.ops.map (fun o => o.tiles.length), j.reqs.map (fun r => r.res)))
    = [([1], [[(1, 17616)]])] := by decide +kernel

theorem test_wit_operation : started.brn.run = none ∧
    started.betweenOps.selected.map (fun j => j.ops.map (fun o => started.betweenOps.opReady j o)) = none ∧
    (started.select.betweenOps.selected.map (fun j => j.ops.map (fun o => started.betweenOps.opReady j o))) = some [true] ∧
    ((started.setPset 1 { pset1 with t1 := false, t2 := true, level := 2 }).npa.jobs.map (fun j => j.ops.map (fun o =>
      (started.setPset 1 { pset1 with t1 := false, t2 := true, level := 2 }).opReady j o))) = [[false]] ∧
    0 < started.liveEngines := by decide +kernel

/-- The operation runs: core 0, engine 0 has its tile. -/
def working : State := nx started .operationStart

theorem test_wit_running : (working.brn.run.map (fun u => ((u.current 0 0).map (fun g => (g.core, g.eng)),
      u.given.any (fun g => g.result.isNone), (u.given.map (fun x => x.n)), u.restarted))) = some (some (0, 0), true, [0], false) ∧
    (working.core 0).inject = false ∧ ((working.setCore 0 { working.core 0 with inject := true }).core 0).inject = true ∧
    (working.brn.run.bind (fun u => (u.current 0 0).bind (fun g => (working.job u.op.id).bind (fun j =>
      working.tileCycles j u.op.kind g.tile)))) = some 32 := by decide +kernel

theorem test_wit_ended : ((nx working (.tileEnd 0 0)).brn.run.map (fun u => u.given.any (fun g => g.result.isNone))) = some false := by
  decide +kernel

theorem test_wit_failures : (working.core 0).failed = false ∧ (working.engine 0 0).failed = false ∧ (up.engine 0 1).failed = false ∧
    up.brn.run = none ∧ working.engLive 0 1 = true ∧ bit (working.core 0).cfg 8 = true ∧ working.liveOf 1 ≠ [] ∧
    up.pageOn (.port 0) 0x20 = true ∧
    (match working.brn.run with
      | none => none
      | some u => (u.given.head?.map (fun g => decide (g.startedAt * stepKhz working.brn.step + fld working.brn.watchdog 0 4 * 32 * 1000000
          ≤ max working.clk 1000000000 * stepKhz working.brn.step))) ) = some true ∧
    (match working.brn.run with
      | none => none
      | some u => (u.given.head?.map (fun g => decide (max working.clk 0 * stepKhz working.brn.step < g.startedAt * stepKhz working.brn.step
          + fld working.brn.watchdog 0 4 * 32 * 1000000)))) = some true := by decide +kernel

/-- The operation has restarted once; and the cores but 0 have failed. -/
def restarted1 : State := match working.brn.run with
  | none => working
  | some u => { working with brn := { working.brn with run := some { u with restarted := true } } }

theorem test_wit_restarted : (restarted1.brn.run.map (fun u => u.restarted)) = some true ∧ State.reset.reached .links = false ∧
    (let s := (List.range 15).foldl (fun s c => s.setCore (c + 1) { s.core (c + 1) with failed := true }) working
     (List.range 16).all (fun x => decide (x = 0) || (s.liveOf x).isEmpty)) = true := by decide +kernel

/-- The replay takes the unended tile of a failed engine to engine 1 of its core; a failed core restarts on core 1. -/
theorem test_failover : ((working.failEngineOf 0 0 2).brn.run.map (fun u => u.given.map (fun g => (g.core, g.eng)))) = some [(0, 1)] ∧
    ((working.failCore 0 5).brn.run.map (fun u => (u.restarted, u.given.map (fun g => (g.core, g.eng))))) = some (true, [(1, 0)]) := by
  decide +kernel

theorem test_wit_selftest : up.engLive 3 4 = true ∧ up.reached .psa = true ∧ 0 < fld up.brn.test 16 8 ∧
    fld up.brn.test 16 8 * (fld up.brn.test 0 16 * 1000000) ≤ max up.clk 100000000000000 - max (up.engine 3 4).lastTest up.resetAt ∧
    max up.clk 5 - max (up.engine 3 4).lastTest up.resetAt < fld up.brn.test 0 16 * 1000000 ∧
    ((up.setEngine 3 4 { up.engine 3 4 with testing := some 7 }).engine 3 4).testing = some 7 ∧ up.anyReady = false ∧
    up.slack .engines = true ∧ up.engLive 3 4 = true := by decide +kernel

/-- The parameter block of a page command on every layer of the resident block. -/
def pageParams (w7 : Word) (rsv : Word) : List Word :=
  [0, 0, 0x2000, 0, 1, 0, 0, w7, 0, 0, 0, rsv] ++ List.replicate 20 0

/-- A page command whose target is the open reservation 2. -/
def paging (op : Nat) (par : List Word) (target : Word) : State :=
  operandsOf ((entry.setPset 1 { pset1 with t0 := false }).setPset 2 { pset1 with rstate := .open_ }) op par [1, 0, 0, target]

/-- What a page command finds: entries, model, target model, layers, targets or tables fit. -/
def paged (s : State) (k : PageCmd) (par : List Word) : Option (List Nat × Bool × Bool) :=
  match s.entList (cmd5 s) par (decide (k ≠ .landmark)) with
  | .error _ => none
  | .ok es => (match s.entsModel es with
    | .error _ => none
    | .ok none => none
    | .ok (some m) => (match layersOf par m, s.targetModel k par m with
      | some x, .ok t => some (es.length :: m.id :: t.id :: x, s.targetsOk 7 t es, s.tablesOk 7 par m 1 x.length)
      | _, _ => none))

def rerotating : State := paging 0x0E (pageParams 0 0) 0x04000002

theorem test_wit_rerotate : fresh rerotating 0x0E = true ∧ (rerotating.paramRead (cmd5 rerotating)).toOption = some (pageParams 0 0) ∧
    paramOk (pageParams 0 0) (pageMasks .rerotate) = true ∧ spacesOk ((pageParams 0 0).getD 5 0) = true ∧ rerotating.liveEngines ≠ 0 ∧
    paged rerotating .rerotate (pageParams 0 0) = some ([1, 3, 3, 0, 1], true, false) ∧
    paged (paging 0x0E (pageParams 0 0) 0x04000001) .rerotate (pageParams 0 0) = some ([1, 3, 3, 0, 1], false, false) ∧
    (rerotating.viewFor 5 7 0).2.toOption = some 1 ∧
    (let s := rerotating.setRecord 0 0 (ten7.set 2 1)
     match ({ s with dir := { s.dir with proofFresh := 2 ^ 20, proofBack := [] } } : State).viewFor 5 7 0 with
      | (_, .error e) => decide (e ≠ .staleProof)
      | (_, .ok _) => false) = true ∧ layersOf ((pageParams 0 0).set 1 0x00030000) (modelOf model3) = none := by decide +kernel

def converting : State := paging 0x0F (pageParams 3 0) 0x04000002

def landmarking : State := paging 0x0F (pageParams 0x40000000 0x04000002) 0

theorem test_wit_repack : fresh converting 0x0F = true ∧ fresh landmarking 0x0F = true ∧
    (converting.paramRead (cmd5 converting)).toOption = some (pageParams 3 0) ∧ fld ((pageParams 3 0).getD 7 0) 30 2 ≠ 1 ∧
    paged converting .convert (pageParams 3 0) = some ([1, 3, 3, 0, 1], true, false) ∧
    fld ((pageParams 0x40000000 0x04000002).getD 7 0) 30 2 = 1 ∧
    paged landmarking .landmark (pageParams 0x40000000 0x04000002) = some ([1, 3, 3, 0, 1], false, true) ∧
    paged landmarking .landmark (pageParams 0x40000000 0x04000001) = some ([1, 3, 3, 0, 1], false, false) ∧
    (landmarking.viewFor 5 7 99).2.toOption = none := by decide +kernel

theorem test_wit_combine : isZero (0x3F800000 : Word) = false ∧
    selectEntries 6 1 1 2 (fun i => if i = 3 then 0x40000000 else if i = 2 then negInf else 0x3F800000) = [0, 1, 3, 5] := by decide +kernel

def merging : Job :=
  { id := 5, opcode := 0x0C, src := .queue, par := params 1 0 0x01050001 1, model := 3, reqs := [], ents := [], queries := [], lms := [], err := none,
    scores := [], ops := [], recs := [], stripe := 1, tokens := 0, stage := .merge 0 0, multi := false, block := [], nan := 0, writes := [],
    waited := false }

theorem test_wit_merge : (State.job { attending with npa := { attending.npa with jobs := [merging] } } 5) = some merging ∧
    0 + attending.cfgFld (pg 0x30 + 0x108) 0 24 * 1000 ≤ max attending.clk 10000000000 ∧
    max attending.clk 5 < 0 + attending.cfgFld (pg 0x30 + 0x108) 0 24 * 1000 := by decide +kernel
/-! ### 10 -/

/-- Row 0 with 32 live dies; superblock 0 closed native, 1 closed SLC, 2 open on stream 0. -/
def flashy : State :=
  { up with
    flm := { up.flm with
      geom := { planes := 4, blocks := 1024, bits := 3, wordlines := 768, ldpc := 100 }
      die := (List.range 32).map (fun p => (p, { Die.absent with st := .live, endurance := 3000, suspend := true }))
      rowN := [(0, 100)]
      slc := 50
      sb := [(0, { Sb.free with st := .closed, nativeMode := true, blocks := (List.range 32).map (fun p => (p, 0)), segs := 1 }),
             (1, { Sb.free with st := .closed, nativeMode := false, blocks := (List.range 32).map (fun p => (p, 1)), segs := 1 }),
             (2, { Sb.free with st := .openSlc, nativeMode := false, blocks := (List.range 32).map (fun p => (p, 2)) })] } }

/-- Stream 0 holds `n` slots since time 0. -/
def streaming (n : Nat) : State :=
  flashy.setStream 0 ⟨some 2, List.replicate n { what := some (0x04000001, 0), wide := false, src := none, at_ := 0 }, false, false⟩

theorem test_wit_flush : ((streaming 1).stream 0).since = some 0 ∧ ((streaming 1).stream 0).sb = some 2 ∧ (streaming 1).flm.readOnly = false ∧
    segData ((streaming 1).flm.sbAt 2) = 1488 ∧ ((streaming 1).stream 0).queue.length = 1 ∧
    0 + (streaming 1).cfgFld (pg 0x38 + 0x224) 0 16 * 1000 ≤ max (streaming 1).clk 2000000 ∧
    max (streaming 1).clk 1999999 < 0 + (streaming 1).cfgFld (pg 0x38 + 0x224) 0 16 * 1000 ∧
    (streaming 1).reg (pg 0x38 + 0x2EC) ≠ 0xFFFFFFFF := by decide +kernel

/-- A whole segment, in a mode. -/
def segmentFull (mode : Nat) : State :=
  { streaming 1488 with flm := { (streaming 1488).flm with slc := 0, mode := mode } }

theorem test_wit_program : ((segmentFull 0).stream 0).queue.length = 1488 ∧ ((segmentFull 0).stream 0).sb = some 2 ∧
    segData ((segmentFull 0).flm.sbAt 2) = 1488 ∧ (segmentFull 0).creditShort 0 = false ∧
    (segmentFull 3).creditShort 0 = true := by decide +kernel

/-- The dies of row 0 have started the segment. -/
def programming : State :=
  let s := segmentFull 0
  { s with flm := { s.flm with prog := [(0, 1)], busy := (List.range 32).map (fun c => (c, some ⟨.prog 0, 0⟩)) } }

theorem test_wit_segment : ((segmentFull 0).progOn 0 0 false).isSome = true ∧ ((streaming 1).progOn 0 0 false).isSome = false ∧
    ((segmentFull 2).progData 0).isSome = true ∧ (segmentFull 2).dataShut 0 = false ∧
    sget programming.flm.prog 0 0 = 1 ∧ (programming.ensureSb 0).segStarted 0 2 = true ∧
    ((programming.ensureSb 0).stream 0).sb = some 2 ∧ (programming.ensureSb 0).backFails [(3, .hard 0 1)] = [] ∧
    (programming.ensureSb 0).backFails [(3, .soft 1)] = [3] ∧
    (({ programming with flm := { programming.flm with busy := [] } } : State).segStarted 0 2) = false ∧
    (((up.setStream 0 ⟨none, [padSlot 0], false, false⟩).ensureSb 0).stream 0).sb = none := by decide +kernel

/-- A full segment of stream 1 waits: foreground work goes ahead of an URGENT read within its share. -/
theorem test_wit_foreground :
    (let q := (segmentFull 2).stream 0
     let s := ((segmentFull 2).setStream 1 { q with queue := q.queue.map (fun w => { w with src := some 1 }) })
     let s : State := { s with flm := s.flm.updSb 1 (fun b => { b with cause := .fold }) }
     (s.relocStart 0 3).isSome && s.fgLeft 0 && !(State.fgLeft { s with flm := { s.flm with fg := [(0, (0, 990000))] } } 0)) = true := by
  decide +kernel

/-- An open journal page with one record since time 0. -/
def journaled : State :=
  { up with flm := { up.flm with jopen := [⟨2, .seqMark 8⟩], jopenAt := some 0, jseq := 3, jpages := [⟨0, [⟨1, .seqMark 7⟩], false, false⟩] } }

theorem test_wit_journal : journaled.flm.jopenAt = some 0 ∧
    0 + journaled.cfgFld (pg 0x38 + 0x224) 16 16 * 1000 ≤ max journaled.clk 20000 ∧
    max journaled.clk 19999 < 0 + journaled.cfgFld (pg 0x38 + 0x224) 16 16 * 1000 ∧
    journaled.flm.jpages = [⟨0, [⟨1, .seqMark 7⟩], false, false⟩] ∧ journaled.flm.ckptRun = false ∧ journaled.flashOn = true ∧
    (journaled.at_ 60000000000).ckptDue = true := by decide +kernel

/-- A durable record takes effect. -/
theorem test_journal_commit : ∃ t, exec (.journalPageDurable ⟨true, true⟩) journaled = .next t ∧ t.flm.mark = 7 ∧ t.flm.jdurable = 1 ∧
    t.flm.jused = 16384 := ⟨_, rfl, by decide +kernel⟩

/-- The check values of CRC-8 and CRC-32C for the nine digits, from the tables of these codes. -/
theorem test_crc : crc8 (leBytes 9 0x393837363534333231) = 0xF4 ∧ crc32c (leBytes 9 0x393837363534333231) = 0xE3069283 := by decide +kernel

theorem test_wit_readonly : ({ flashy with flm := { flashy.flm with readOnly := true } } : State).flm.readOnly = true := rfl

/-- Few free SLC superblocks: folding runs in the foreground. -/
def crowded : State := { flashy with flm := { flashy.flm with slc := 2, mode := 2 } }

theorem test_wit_fold : crowded.vacating 0 false = false ∧ crowded.slcBelow 16 = true ∧
    (crowded.pickSb (fun e => decide (e.1 / 8192 / 32 = 0) && !e.2.nativeMode) (fun a b => decide (a.2.closedAt ≤ b.2.closedAt))).map (·.1)
      = some 1 ∧ crowded.vacating 0 true = false ∧ 2 ≤ crowded.flm.mode ∧
    crowded.flm.sb.any (fun x => decide (x.2.st = .closed ∧ x.1 / 8192 / 32 = 0 ∧ x.2.nativeMode = true)) = true := by decide +kernel

theorem test_wit_rewrite : (({ flashy with flm := flashy.flm.updSb 0 (fun b => { b with rewrite := true, rebuild := true }) } : State).flm.sbAt 0).st
      = .closed ∧
    (({ flashy with flm := flashy.flm.updSb 0 (fun b => { b with rewrite := true, rebuild := true }) } : State).flm.sbAt 0).rewrite = true ∧
    (({ flashy with flm := flashy.flm.updSb 0 (fun b => { b with rewrite := true, rebuild := true }) } : State).flm.sbAt 0).rebuild = true := by
  decide +kernel

/-- A block of die 0 has been erased 600 times. -/
def worn : State := { flashy with flm := flashy.flm.updDie 0 (fun d => { d with erases := [(9, 600)] }) }

theorem test_wit_wear : worn.flmCtrl 2 = true ∧ worn.slack .flash = true ∧
    worn.cfgFld (pg 0x38 + 0x210) 0 16 < worn.flm.eraseSpread.2 - worn.flm.eraseSpread.1 ∧
    (({ worn with flm := { worn.flm with wear := true } } : State).pickSb (fun e => e.2.nativeMode) (fun _ _ => true)).isSome = true := by
  decide +kernel

theorem test_wit_erase : (let s : State := { flashy with flm := flashy.flm.updSb 0 (fun b => { b with st := .eraseBegin, eraseOk := true }) }
    (s.flm.sbAt 0).st = .eraseBegin ∧ (s.flm.sbAt 0).eraseOk = true ∧ s.flm.validSlots 0 = 0 ∧ s.sbUnread 0 = true ∧ s.flm.jfull = false ∧
      (State.eraseStarted { s with flm := { s.flm with busy := (List.range 32).map (fun c => (c, some ⟨.erase 0, 0⟩)) } } 0) = true ∧ s.eraseStarted 0 = false ∧
      swf Sb.free 0 s.flm.sb = true) := by decide +kernel

theorem test_wit_scrub_flash : flashy.flmCtrl 3 = true ∧ (flashy.at_ 5).slack .flash = true ∧ (flashy.flm.sbAt 0).st = .closed ∧
    (flashy.flm.sbAt 0).guards 3 = true ∧ (flashy.at_ 5).scrubDue (flashy.flm.sbAt 0) 3 = true ∧ (flashy.flm.sbAt 0).guards (2 ^ 19) = true ∧
    [1, 2, 3, 4, 5, 6].all (fun r => ((flashy.at_ 5).rowStart 4 r).isNone) = true ∧ flashy.flm.rawPos ⟨0, 3⟩ = 4 ∧
    broadLineOk 1 = false ∧ broadLineOk 0 = true ∧ (flashy.flm.dieAt 0 (flashy.flm.slotPos ⟨0, 3⟩)).st = .live ∧
    (sget flashy.flm.die Die.absent 4).st = .live ∧ (flashy.slotRead ⟨0, 3⟩ (.fail false)).2 = true ∧
    (flashy.slotRead ⟨0, 3⟩ (.hard 1 3)).2 = false ∧ flashy.ownerOf ⟨0, 3⟩ = none := by decide +kernel

theorem test_wit_scrub_owner : reading.ownerOf ⟨0, 0⟩ = some (1, 0) := by decide +kernel

/-- DISCARD of the resident block, with SECURE or not. -/
def discarding (w1 : Word) : State :=
  withCmd (entry.setHost 0 (Mem.wrBytes [] 0x1000 (leBytes 24 key1.num))) false (cmd [0x80000209, w1, 9, 0, 0, 0, 0x1000]) .accepted

theorem test_wit_discard : fresh (discarding 0) 9 = true ∧ (cmd5 (discarding 0)).reservedOk 0x601 [0, 0, 0xFFFFFFFF, 0xFFFFFFFF] = true ∧
    ((discarding 0).namedKey (cmd5 (discarding 0)) true).toOption = some (key1, 0) ∧ (discarding 0).current key1 0 = some (17616, slot1) ∧
    (discarding 0).dir.points = [] ∧ (cmd5 (discarding 0)).flag 0 = false ∧ (cmd5 (discarding 1)).flag 0 = true ∧
    (((discarding 1).updPset 1 (fun v => { v with t2 := true })).subtree 17616).any (fun e =>
      (((discarding 1).updPset 1 (fun v => { v with t2 := true })).psetAt e.2.ps).t2) = true := by decide +kernel

/-- A claim names the block as its parent; a SECURE DISCARD finds a T2 copy on a read-only tier. -/
theorem test_wit_discard_ways :
    (let s := (discarding 1).setSlot 17617 { slot1 with state := .pending, parent := some 17616 }
     ({ s with dir := { s.dir with points := [⟨2, .commit 17617 6⟩] } } : State).dir.points.any (fun p => match p.kind with
      | .commit j _ => decide ((s.slot j).parent = some 17616)
      | _ => false)) = true ∧
    (let s := (discarding 1).updPset 1 (fun v => { v with t2 := true })
     let u : State := { s with flm := { s.flm with readOnly := true } }
     (cmd5 u).flag 0 && u.flm.readOnly && (u.subtree 17616).any (fun e => (u.psetAt e.2.ps).t2)) = true := by decide +kernel

/-- A SECURE DISCARD whose entries are gone. -/
def gone1 (asked begun closing : Bool) (sbs : List Nat) : Discard := ⟨5, true, [], 1, sbs, asked, begun, closing, false, false⟩

theorem test_wit_relocate : flashy.discardGone (gone1 false false false []) = true ∧ flashy.discardGone (gone1 true false false []) = true ∧
    flashy.discardGone (gone1 true true false [0]) = true ∧ flashy.discardGone (gone1 true true false []) = true := by decide +kernel

theorem test_wit_recovery : ({ State.reset with start := .flash } : State).phaseDone = false ∧ State.reset.flm.saved = none ∧
    State.reset.flm.copy = [] ∧ State.reset.dir.slots = [] := by decide +kernel

/-- Start-up values of the worked example of 10: J, K and M for 1,024 blocks of 768 wordlines, and E before its cap. -/
theorem test_meta_count : flashy.flm.metaCount 32 = 61 ∧ mapReserve 976562500 = 6998196224 + 2 ^ 30 := by decide +kernel


/-! ### 11 -/

theorem test_wit_ports : (({ up with port0 := Port.reset } : State).port 0).mode = .down ∧
    (({ up with port0 := Port.reset } : State).port 0).perst = false ∧ up.start ≠ .verify ∧ linkOk 5 16 = true ∧ (up.port 0).mode ≠ .down ∧
    ({ up with port0 := Port.reset } : State).trainMode 0 5 16 true true = .sld ∧ up.trainMode 0 5 4 true true = .pcie := by decide +kernel

/-- Extent 12: 256 MiB at DPA 0, readable by LD 0 of each port, written by LD 0 of port 1. -/
def pool (mask : Nat) : State :=
  let s : State := { up with port0 := { Port.reset with mode := .sld }, port1 := { Port.reset with mode := .sld } }
  s.setRecord 3 12 [w32 (0x40010000 + mask), 0x18, 0]

theorem test_wit_cxl : (pool 0x101).ldOn 1 0 = true ∧ (pool 0x101).ldOn 0 0 = true ∧ (pool 0x101).reached .memory = true ∧
    ((pool 0x101).port 1).waits = [] ∧ fld ((pool 0x101).hptBw 1 0) 0 16 = 0 ∧ lineOf 0x12345 < 2 ^ 39 ∧
    (pool 0x101).extentAt (lineOf 0x12345) = some (12, [0x40010101, 0x18, 0]) ∧ (pool 0x101).extRevoke 12 = none ∧
    (pool 0x101).extentDead 12 (lineOf 0x12345) = false ∧ (0x101 : Nat).testBit (8 * 1 + 0) = true ∧ (0x101 : Nat).testBit (8 * 0 + 0) = true ∧
    (0x100 : Nat).testBit (8 * 0 + 0) = false ∧ rfld [0x40010101, 0x18, 0] 0 0 16 = 0x101 ∧ rfld [0x40010101, 0x18, 0] 1 0 4 = 8 * 1 + 0 ∧
    up.ldOn 0 0 = false := by decide +kernel

/-- A write of the writer changes its line. -/
theorem test_cxl_write : (nx (pool 0x101) (.cxlMemRequest 1 0 (.write 0x7F (List.replicate 64 0xAB)) false)).cxl.rdBytes 0x3F 66
    = 0 :: List.replicate 64 0xAB ++ [0] := by decide +kernel

/-- Port 1's LD 0 is held to one unit of rate and has no tokens. -/
def starved : State :=
  let s := pool 0x101
  { s with act := [(pg 0x41 + 0x110, 0x00010001)], port1 := { s.port1 with tokens := List.replicate 8 0 } }

theorem test_wit_tokens : fld (starved.hptBw 1 0) 0 16 ≠ 0 ∧ ((starved.fillTokens 1).port 1).tokens.getD 0 0 < 256 ∧ starved.ldOn 1 0 = true ∧
    (let s := nx starved (.cxlMemRequest 1 0 (.read 0) false)
     (s.port 1).waits = [⟨0, .read 0, false, none⟩] ∧ ((s.at_ 5).fillTokens 1).tokensOk 1 0 = false ∧
      ((s.at_ 300).fillTokens 1).tokensOk 1 0 = true) := by decide +kernel

theorem test_wit_mailbox : (∃ e ∈ [(⟨1, 7, 3⟩ : CxlEvent)], e.log = 1 ∧ e.handle = 7) ∧ 0x4600 ∉ mailboxOps ∧
    (pool 0x101).doeOn 1 0 = true ∧ up.doeOn 0 1 = false ∧ 2 + 3 ≤ celBytes.length ∧ celBytes.length < 20 + 8 := by decide +kernel

/-- A view of two pages at granule 0 of LD 0, and a request that waits. -/
theorem test_wit_cxl_view : (let p := (pool 0x101).port1
    let s : State := { pool 0x101 with port1 := { p with view := 4, views := [⟨0, 0, 0, 2, 1, 0, 8192, 1⟩], waits := [⟨0, .read 0, false, none⟩] } }
    decide (2 ^ 39 ≤ lineOf (2 ^ 39 + 70000) ∧ lineOf (2 ^ 39 + 70000) < 2 ^ 39 + fld (s.port 1).view 0 9 * 2 ^ 30) &&
      ((s.port 1).views.find? (fun v => decide (v.ld = 0 ∧ v.granule ≤ 70000 / 65536 ∧ 70000 / 65536 < v.granule + v.count))).isSome &&
      !s.psetPoison 1 && decide ((s.port 1).waits ≠ [])) = true := by decide +kernel

/-- The tenant page with TEN_SEL and TEN_DATA0. -/
def tenant (sel d0 : Word) : State := (up.setReg (pg 0x6C + 0x110) sel).setReg (pg 0x6C + 0x140) d0

theorem test_wit_tenant : up.pageOn (.port 0) 0x6C = true ∧ up.fmRoute (.port 0) = false ∧ up.fmRoute .mctp = true ∧ up.pageOn .mctp 0x6C = true ∧
    up.ten.busy = none ∧ (tenant 0x50000 0).tenSel = (5, 0) ∧ tableSize 5 ≤ 0 ∧ (tenant 1 0).tenSel = (0, 1) ∧
    (tenant 1 0x8003FFFF).tenCodes 0 1 (tenant 1 0x8003FFFF).tenData = [1, 3] ∧ (tenant 1 0x80000008).tenCodes 0 1 (tenant 1 0x80000008).tenData = [] ∧
    (tenant 0x30001 0x40010000).tenCodes 3 1 (tenant 0x30001 0x40010000).tenData = [] ∧ swf [] 0 known.ten.tbl = true ∧
    rfld (tenant 0x30001 0x40010000).tenData 0 30 2 = 1 ∧ rfld ((tenant 0x30001 0x40010000).record 3 1) 0 30 2 = 0 := by decide +kernel

/-- The fabric manager on port 0's host. -/
def fm2 (v : Word) : State := (up.setReg (pg 0x6C + 0x104) 1).setReg (pg 0x6C + 0x110) v

/-- A second tenant with tenant 7's TENANT_ID is refused with code 3, and one with its P_KEY. -/
theorem test_tenant_twice : known.tenantCodes 1 [] [0x80000007, 0x8002] = [3] ∧ known.tenantCodes 1 [] [0x80000008, 0x8001] = [3] ∧
    known.tenantCodes 1 [] [0x80000008, 0x8002] = [] := by decide +kernel

/-- A write that frees an ACTIVE extent, one that waits for its activation, and a host extent. -/
theorem test_wit_tenant_ways : (let s := (tenant 0x3000C 0x10000).setRecord 3 12 [0x40010000, 0, 0]
    (s.tenSel = (3, 12) ∧ rfld (s.record 3 12) 0 30 2 = 1 ∧ rfld s.tenData 0 30 2 = 0 ∧ s.tenCodes 3 12 s.tenData = [])) ∧
    (pool 0x101).ten.busy = none ∧ (fm2 0).fmRoute (.port 0) = true ∧ (fm2 0).pageOn (.port 0) 0x6C = true := by decide +kernel

theorem test_wit_activate : (let s : State := { up with ten := { up.ten with busy := some (12, [0x40010101, 0x18, 0]) } }
    extBytes [0x40010101, 0x18, 0] ≤ s.freeSpace 1 ∧ rfld [0x40010101, 0x18, 0] 0 30 2 = 1 ∧ s.cxl.wf = true) := by decide +kernel

/-- EXTENT_REVOKE of LD 0 of port 0 in extent `i`, from the designated host. -/
def revoking (i : Nat) (fm : Word) : State :=
  withCmd ((pool 0x101).setReg (pg 0x6C + 0x104) fm) false (cmd [0x80000214, 0, 9, 0, w32 i, 1]) .accepted

theorem test_wit_revoke : fresh (revoking 12 1) 0x14 = true ∧ (cmd5 (revoking 12 0)).fm = false ∧
    (cmd5 (revoking 12 1)).fm = true ∧ (cmd5 (revoking 12 1)).reservedOk 3 [0x3FF, 0xFFFF] = true ∧
    (cmd5 (revoking 12 1)).flag 0 = false ∧ rfld ((revoking 12 1).record 3 12) 0 30 2 = 1 ∧ rfld ((revoking 13 1).record 3 13) 0 30 2 = 0 ∧
    (revoking 12 1).revokeRefusal (cmd5 (revoking 12 1)) = none ∧ (revoking 13 1).revokeRefusal (cmd5 (revoking 13 1)) = some .notFound ∧
    ((revoking 12 1).revokeAt (cmd5 (revoking 12 1))).1.record 3 12 = [0x80010101, 0x18, 0] ∧
    (nx ((revoking 12 1).revokeAt (cmd5 (revoking 12 1))).1 (.extentRevoke 5)).record 3 12 = [0x40010100, 0x18, 0] := by decide +kernel

/-- EXTENT_REVOKE of host extent 0, of a record that is REVOKING, and of one that a request of LD 0 holds up. -/
theorem test_wit_revoke_ways :
    (let s := withCmd ((revoking 12 1).setRecord 4 0 [0x80000007, 0, 0, 0, 0]) false (cmd [0x80000214, 1, 9, 0, 0, 0]) .accepted
     decide ((cmd5 s).flag 0 = true ∧ rbit (s.record 4 0) 0 31 = true ∧ s.hextReads (s.record 4 0) = [] ∧ (cmd5 s).reservedOk 3 [0x3FF, 0xFFFF] = true ∧
       (cmd5 s).fm = true)) = true ∧
    (let s := revoking 12 1
     ({ s with ten := { s.ten with revs := [⟨4, 0, 12, 1, false, [], []⟩] } } : State).ten.revs.any (fun r => decide (r.kind = 0 ∧ r.index = 12))) = true ∧
    (rfld ((revoking 12 1).record 3 12) 0 0 16).testBit (8 * 0 + 0) = true ∧ (fld ((cmd5 (revoking 12 1)).ws.getD 5 0) 0 16).testBit (8 * 0 + 0) = true ∧
    (let s := withCmd (State.reset.setReg (pg 0x6C + 0x104) 1) false (cmd [0x80000214, 0, 9, 0, 12, 1]) .accepted
     ((cmd5 s).fm, s.reached .memory)) = (true, false) := by decide +kernel

/-- A revocation that one request holds up. -/
def revoke5 (w : List (Nat × Nat)) : Revoke := ⟨5, 0, 12, 1, false, w, []⟩

theorem test_wit_revoke_drain : (let s := revoking 12 1
    (State.revokeDrained s (revoke5 [(0, 0)])) = false ∧ s.revokeDrained (revoke5 []) = true ∧
    [revoke5 []].any (fun r => decide (r.kind = 0 ∧ r.index = 12)) = true ∧
    [revoke5 []].find? (fun r => decide (r.id = 5)) = some (revoke5 [])) := by decide +kernel

theorem test_wit_mctp : up.start ≠ .recovery ∧ up.sec.halted = false ∧ fld (0x00000201 : Word) 8 8 = 2 ∧ fld (0x00000101 : Word) 8 8 ≠ 2 := by
  decide +kernel
/-! ### 12 -/

/-- Queue set 3 of port 0 enabled with 16 entries each way, two commands outstanding. -/
def q3 : QSet := { QSet.reset with state := .enabled, sqTail := 2, cqTail := 1, cqBase := 0x10000 }

def queued : State := known.setQset 0 3 q3

theorem test_wit_doorbells : (queued.qset 0 3).state = .enabled ∧ (5 : Word).toNat < 2 ^ (queued.qset 0 3).sqLog ∧
    (15 : Word).toNat < 2 ^ (queued.qset 0 3).cqLog ∧ (queued.qset 0 3).sqHead ≠ (queued.qset 0 3).sqTail ∧
    ((queued.setQset 0 3 { q3 with sqTail := 0 }).qset 0 3).sqHead = ((queued.setQset 0 3 { q3 with sqTail := 0 }).qset 0 3).sqTail ∧
    2 ^ (queued.qset 0 3).sqLog ≤ (16 : Word).toNat ∧ (queued.qset 0 4).state ≠ .enabled := by decide +kernel

/-- A pushed FENCE at the head of queue set 3, and the turn is its own. -/
def fetchable : State :=
  let s := (queued.setQset 0 3 { q3 with sqTail := 1, pushed := some (cmd [0x80000210, 0, 9]) }).setRr 0 3
  { s with act := [(pg 0x48 + 0x10C, 1)] }

theorem test_wit_accept : fetchable.portDown 0 = false ∧ fetchable.rr 0 < 64 ∧ fetchable.cfgFld (pg 0x48 + 0x10C) 0 4 = 1 ∧
    (∀ q < 64, fetchable.hasWork 0 q = true → (fetchable.qset 0 q).room ≠ 0) ∧ fetchable.hasWork 0 3 = true ∧
    bit ((cmd [0x80000210, 0, 9]).getD 0 0) 31 = (fetchable.qset 0 3).sqPhase ∧ fetchable.binding 0 3 = some (7, false) ∧
    fld ((cmd [0x80000210, 0, 9]).getD 0 0) 8 8 = 2 := by decide +kernel

/-- The head of queue set 3 has the wrong PHASE, is unbound, is of version 1, or finds no room; and a version 1 queue set. -/
theorem test_wit_accept_ways :
    bit ((cmd [0x00000210, 0, 9]).getD 0 0) 31 ≠ (fetchable.qset 0 3).sqPhase ∧
    (fetchable.setRecord 1 3 []).binding 0 3 = none ∧ fld ((cmd [0x80000110, 0, 9]).getD 0 0) 8 8 ≠ 2 ∧
    (fetchable.headCommand 0 3) = some (cmd [0x80000210, 0, 9]) ∧
    (fetchable.setRecord 1 3 [0xC0000007]).binding 0 3 = some (7, true) ∧ compatOp 0x10 = false ∧ compatOp 0x01 = true ∧
    ((fetchable.setQset 0 3 { fetchable.qset 0 3 with written := 16 }).qset 0 3).room = 0 ∧
    (fetchable.setQset 0 3 { fetchable.qset 0 3 with sqTail := 0, pushed := none }).hasWork 0 3 = false ∧
    ({ fetchable with port0 := Port.reset } : State).portDown 0 = true := by decide +kernel

theorem test_accept_fence : ∃ t, exec (.commandFetch 0) fetchable = .next t ∧ t.que.live.map (·.op) = [0x10] ∧
    (t.qset 0 3).sqHead = 1 := ⟨_, rfl, by decide +kernel⟩

theorem test_wit_undefined : ∃ l, (withCmd known false (cmd [0x80000255]) .accepted).live 5 = some l ∧ l.phase = .accepted ∧
    l.isRecord = false ∧ 0x14 < l.op := ⟨_, rfl, by decide +kernel⟩

/-- A record completion that waits at the last entry of the ring. -/
def waiting : State :=
  queued.setQset 0 3 { q3 with cqTail := 15, waits := [⟨1, [9, 0, 0x20000A01, 7, 0, 0, 0, 0], false⟩], unsig := 1, unsigAt := some 0 }

theorem test_wit_deferred : waiting.memOk = true ∧ (waiting.qset 0 3).waits = [⟨1, [9, 0, 0x20000A01, 7, 0, 0, 0, 0], false⟩] ∧
    (waiting.qset 0 3).room ≠ 0 ∧ (waiting.qset 0 3).state ≠ .disabled ∧ waiting.portDown 0 = false ∧
    (waiting.qset 0 3).cqTail + 1 = 2 ^ (waiting.qset 0 3).cqLog ∧ waiting.entryWaits 2 = false ∧
    ((waiting.setQset 0 3 { waiting.qset 0 3 with written := 16 }).qset 0 3).room = 0 := by decide +kernel

theorem test_wit_coalesce : (waiting.qset 0 3).unsigAt = some 0 ∧
    bit ((waiting.setReg (qsAddr 0 3 + 0x14) 0x10001).reg (qsAddr 0 3 + 0x14)) 16 = true ∧
    0 + fld (waiting.reg (qsAddr 0 3 + 0x18)) 16 16 * 1000 ≤ max waiting.clk 5 ∧
    (let s := waiting.setReg (qsAddr 0 3 + 0x18) 0x00010000
     decide (max s.clk 999 < 0 + fld (s.reg (qsAddr 0 3 + 0x18)) 16 16 * 1000)) = true := by decide +kernel

/-- The window of port 0 is set and queue set 4 has its rings inside it. -/
def windowed : State :=
  ((known.setReg (pg 0x48 + 0x108) 1).setReg (qsAddr 0 4) 0x1000).setReg (qsAddr 0 4 + 8) 0x2000

theorem test_wit_enable : windowed.pageOn (.port 0) (0x48 + 4 * 0) = true ∧ bit (0x10001 : Word) 0 = true ∧
    (windowed.qset 0 4).state = .disabled ∧ (windowed.setReg (qsAddr 0 4 + 0x14) (0x10001 &&& 0x1FF01)).ringsOk 0 4 = true ∧
    (known.setReg (qsAddr 0 4 + 0x14) (0x10001 &&& 0x1FF01)).ringsOk 0 4 = false ∧ (queued.qset 0 3).state = .enabled ∧
    queued.pageOn (.port 1) 0x48 = true := by decide +kernel

theorem test_wit_drain : ((queued.setQset 0 3 { q3 with state := .draining }).qset 0 3).state = .draining ∧
    ((queued.setQset 0 3 { q3 with state := .draining }).qset 0 3).reserved = 0 ∧
    ((queued.setQset 0 3 { q3 with state := .draining, reserved := 1 }).qset 0 3).reserved ≠ 0 := by decide +kernel

/-- An accepted FENCE with SELF, and an earlier command of its queue set. -/
def fencing : State :=
  { known with que := { known.que with
      live := [{ id := 4, src := .queue 0 3, tenant := 7, compat := false, ws := cmd [0x8000020A], tag := 8, at_ := 0, phase := .running },
               { id := 5, src := .queue 0 3, tenant := 7, compat := false, ws := cmd [0x80000210, 1, 9], tag := 9, at_ := 0, phase := .accepted }],
      nextId := 6 } }

theorem test_wit_fence : ∃ l, fencing.live 5 = some l ∧ l.op = 0x10 ∧ l.phase = .accepted ∧ l.compat = false ∧
    fencing.reached .verify = true ∧
    l.reservedOk 0x3F [0xFFFFFFFF, 0xFFFFFFFF, 0xFFFFFFFF, 0xFFFFFFFF, 0xFFFFFFFF, 0xFFFFFFFF, 0xFFFFFF] = true ∧
    l.flag 0 = true ∧ l.src = .queue 0 3 := ⟨_, rfl, by decide +kernel⟩

/-- A FENCE with a deadline that waits for command 4. -/
def fenced4 : State := { fencing with que := { fencing.que with fences := [⟨5, [.cmd 4], true, some 1000⟩] } }

theorem test_wit_fence_waits : ∃ f, fenced4.que.fences.find? (fun f => decide (f.id = 5)) = some f ∧
    (∃ m ∈ f.members, fenced4.memberDone m = false) ∧ f.deadline = some 1000 ∧
    (∀ m ∈ f.members, (fenced4.dropLive 4).memberDone m = true) ∧ 1000 ≤ max fenced4.clk 1000 := ⟨_, rfl, by decide +kernel⟩

theorem test_wit_stats : ∃ l, (withCmd known false (cmd [0x80000213, 0, 9]) .accepted).live 5 = some l ∧ l.phase = .accepted ∧
    known.reached .psa = true ∧ l.op = 0x13 ∧ l.compat = false ∧ l.reservedOk 0x603 [0, 0, 0, 0, 0xFFFFFFFF, 0xFFFFFFFF] = true ∧
    fld l.flags 0 2 = 0 ∧ known.portDown l.port = false ∧ known.hextOk l.tenant l.port (l.w64 8) 64 true = true :=
  ⟨_, rfl, by decide +kernel⟩

theorem test_wit_stats_kind : ∃ l, (withCmd known false (cmd [0x80000213, 2, 9]) .accepted).live 5 = some l ∧ l.op = 0x13 ∧
    2 ≤ fld l.flags 0 2 := ⟨_, rfl, by decide +kernel⟩

/-- STATS of the resident page set by its key. -/
def statsOf (w1 : Word) : State :=
  withCmd (entry.setHost 0 (Mem.wrBytes [] 0x1000 (leBytes 24 key1.num))) false (cmd [0x80000213, w1, 9, 0, 0, 0, 0x1000, 0, 0x2000]) .accepted

theorem test_wit_stats_pset : fld (cmd5 (statsOf 1)).flags 0 2 = 1 ∧
    (cmd5 (statsOf 1)).reservedOk 0x603 [0, 0, 0xFFFFFFFF, 0xFFFFFFFF, 0xFFFFFFFF, 0xFFFFFFFF] = true ∧
    ((statsOf 1).namedKey (cmd5 (statsOf 1)) false).toOption = some (key1, 0) ∧ (statsOf 1).current key1 0 = some (17616, slot1) ∧
    ((statsOf 1).setSlot 17616 Slot.free).current key1 0 = none ∧ (({ statsOf 1 with bad := [⟨0, 0, 0x10000⟩] } : State).namedKey (cmd5 (statsOf 1)) false).toOption = none ∧
    (cmd5 (statsOf 0)).reservedOk 0x603 [0, 0, 0, 0, 0xFFFFFFFF, 0xFFFFFFFF] = false ∧
    (let s := (statsOf 0).setRecord 0 0 (ten7.set 2 0x80000000)
     s.hextOk 7 0 0x2000 64 true) = true ∧ State.reset.reached .psa = false := by decide +kernel

theorem test_wit_v1_ways : compatReserved { cmd5 (v1 1 0x1234) with ws := (cmd [0x80000101, 1, 9, 0, 3, 0x1234]) } [] = false ∧
    ((known.setRecord 2 0 (model3.set 0 0x80010003)).model 3).map (fun m => m.keyForm) = some 1 ∧
    (let s := (v1 1 0x1234).setRecord 0 0 (ten7.set 2 1)
     ({ s with dir := { s.dir with proofFresh := 2 ^ 20, proofBack := [] } } : State).viewFor 5 7 0).2.toOption = none := by decide +kernel

/-- An IDLE channel 9 of port 0 under queue set 3. -/
def dmaUp : State := known.setReg (dmaAddr 9) 3

theorem test_wit_dma_control : dmaUp.pageOn (.port 0) (0x50 + 9 / 8) = true ∧ (dmaUp.chan 9).state = .stopped ∧
    (dmaUp.dmaTenant 9).isSome = true ∧ known.dmaTenant 9 = none ∧
    ((dmaUp.setChan 9 { Chan.reset with state := .idle }).chan 9).state = .idle ∧ (dmaUp.chan 9).desc = none ∧
    (dmaUp.chan 9).state ≠ .halted ∧ dmaUp.pageOn (.port 0) 0x50 = true ∧
    ({ dmaUp with dma := { dmaUp.dma with halted := true } } : State).dma.halted = true ∧ State.reset.pageOn (.port 0) 0x51 = false ∧
    ((dmaUp.setChan 9 { Chan.reset with state := .halted }).chan 9).state = .halted := by decide +kernel

theorem test_wit_dma_rising : Sparse.rising dmaUp.dma.ch := by unfold Sparse.rising; decide +kernel

/-- Words of an H2D descriptor of 64 bytes with OWN = 1, into the reservation of page-set index 1. -/
def h2d : List Word := [0x80000000, 64, 0x1000, 0, 0, 0x04000001, 0, 0]

/-- Page set 1 is an open reservation of tenant 7. -/
def reserved : State :=
  dmaUp.setPset 1 { gen := 1, tenant := 7, model := 3, object := false, pages := 4, pageSize := 4096, alloc := 1, level := 1,
                    t0 := false, t1 := true, t2 := false, rstate := .open_, lapseAt := none, checks := [], bad := [] }

def running : State := reserved.setChan 9 { Chan.reset with state := .running, next := 0x4000 }

theorem test_wit_dma_fetch : (running.chan 9).state = .running ∧ running.dma.halted = false ∧
    running.portDown (running.dmaPort 9) = false ∧ running.bad = [] ∧ running.dmaTenant 9 = some 7 ∧ (running.chan 9).desc = none ∧
    dmaBit (wordsOf ((running.host (running.dmaPort 9)).rdBytes (running.chan 9).next 32)) 31 = false := by decide +kernel

def posted : State := running.setHost 0 (Mem.wrBytes [] 0x4000 (bytesOf h2d))

theorem test_wit_dma_take : wordsOf ((posted.host (posted.dmaPort 9)).rdBytes (posted.chan 9).next 32) = h2d ∧
    dmaBit h2d 31 = true ∧ dmaType h2d = 0 ∧
    (posted.setChan 9 { posted.chan 9 with next := 0x4020, fetched := 1, links := 0, residue := 64 }).dmaCheck 9 7 h2d = none := by
  decide +kernel

/-- The descriptor taken up, before and after its burst. -/
def moving (count : Nat) (flight : List Nat) : State :=
  posted.setChan 9 { posted.chan 9 with next := 0x4020, fetched := 1, residue := count,
                                        desc := some ⟨1, 0x4000, h2d, count, 0, flight, false, false, 6, 7, false⟩ }

theorem test_wit_dma_burst : ∃ d, ((moving 64 []).chan 9).desc = some d ∧ d.aborting = false ∧ d.count ≠ 0 ∧ dmaType d.ws = 0 ∧
    (moving 64 []).burstStop 9 d = none := ⟨_, rfl, by decide +kernel⟩

/-- ABORT finds a descriptor with a burst in flight or with none; its reservation is sealed; its list holds a bad or a 65th LINK. -/
theorem test_wit_dma_ways : ((moving 0 [64]).chan 9).state = .running ∧
    (((moving 0 [64]).chan 9).desc.map (fun d => (d.flight, dmaType d.ws))) = some ([64], 0) ∧
    (((moving 64 []).chan 9).desc.map (fun d => d.flight)) = some [] ∧
    (let s := (moving 64 []).updPset 1 (fun v => { v with rstate := .sealed 7 })
     ((s.chan 9).desc.map (fun d => ((s.burstStop 9 d).isSome, s.dmaShut d)))) = some (true, true) ∧
    ((({ moving 0 [64] with bad := [⟨0, 0x1000, 64⟩] } : State).chan 9).desc.map (fun d =>
      ({ moving 0 [64] with bad := [⟨0, 0x1000, 64⟩] } : State).hostReadBad 0 (wd64 d.ws 2 + (if dmaBit d.ws 23 then 0 else d.landed)) 64)) = some true ∧
    (({ running with bad := [⟨0, 0x4000, 32⟩] } : State).hostReadBad 0 0x4000 32) = true ∧
    linkBad [0xA0000001, 0, 0x5000, 0, 0, 0, 0, 0] = true ∧ linkBad [0xA0000000, 0, 0x5000, 0, 0, 0, 0, 0] = false ∧
    dmaType [0xA0000000, 0, 0x5000, 0, 0, 0, 0, 0] = 2 ∧ dmaBit [0xA0000000, 0, 0x5000, 0, 0, 0, 0, 0] 31 = true ∧
    (running.setChan 9 { running.chan 9 with links := 64 }).dmaTenant 9 = some 7 ∧
    (posted.setRecord 1 3 []).dmaTenant 9 = none ∧
    ((posted.setPset 1 { pset1 with rstate := .published }).dmaCheck 9 7 h2d).isSome = true ∧
    dmaType [0x90000000, 64, 0x1000, 0, 0, 0x04000001, 0, 0] = 1 ∧ (fetching.pageReady 1 0) = true ∧ ((reading.updPset 1 (fun v => { v with pages := 2 })).pageReady 1 1) = false := by
  decide +kernel

theorem test_wit_dma_landing : ∃ d, ((moving 0 [64]).chan 9).desc = some d ∧ d.flight = [64] ∧ d.count = 0 ∧ d.aborting = false ∧
    dmaType d.ws = 0 ∧ dmaBit d.ws 26 = false ∧ ((moving 0 [64]).openRsv d.tenant (dmaPset d.ws)).isSome = true :=
  ⟨_, rfl, by decide +kernel⟩


/-! ### 13 -/

theorem test_wit_net_up : (up.netPort 0).up = false ∧ (up.netPort 0).failed = false ∧ (up.netPort 0).lost = false ∧ up.reached .psa = true ∧
    bit (up.cfgReg (pg (0x60 + 0) + 0x100)) 31 = true ∧ (up.at_ 5).testDue 0 = true ∧ State.reset.reached .psa = false := by decide +kernel

/-- Network port 0 is up, and tenant 7 is known. -/
def wired : State := known.setNetPort 0 { NetPort.reset with up := true }

/-- The test of a port that has run, and a port that the part does not have. -/
theorem test_wit_net_ways : (let s := up.setNetPort 0 { NetPort.reset with testAt := some 5, downAt := 9 }
    (s.testDue 0, (s.at_ 1000000009).testDue 0)) = (false, true) ∧ 2 * up.fusedDies ≤ 4 := by decide +kernel

theorem test_wit_net_down : (wired.netPort 0).up = true ∧ swf NetPort.reset 0 wired.net.port = true ∧ swf Gate.reset 0 wired.net.gate = true := by
  decide +kernel

/-- The context window holds a context of P_KEY 0x8001 on ports 0 to 3, PMTU 1,024, TIMEOUT 6, RETRY_CNT 3. -/
def window : State :=
  ((wired.setReg (pg 0x64 + 0x400) 0x2CF00660).setReg (pg 0x64 + 0x404) 0x80010000).setReg (pg 0x64 + 0x430) 5000

theorem test_wit_ctx : window.pageOn (.port 0) 0x64 = true ∧ window.qpnOk window.ctxSel = true ∧ window.spillOn = false ∧
    (window.ctx window.ctxSel).state = .reset ∧ ctxWindowBad window.ctxWindow = false ∧
    window.tenantOfPKey (fld (window.ctxWindow.getD 1 0) 16 16) = some 7 ∧ wired.tenantOfPKey (fld (wired.ctxWindow.getD 1 0) 16 16) = none ∧
    (window.setReg (pg 0x64 + 0x170) 20000).qpnOk (window.setReg (pg 0x64 + 0x170) 20000).ctxSel = false := by decide +kernel

/-- The connection is READY; its window is 16 packets. -/
def ready : State := nx window (.ctxWrite (.port 0))

theorem test_ctx_ready : (ready.ctx 0x100000).state = .ready ∧ (ready.ctx 0x100000).una = 5000 ∧ (ready.ctx 0x100000).window = 4096 := by
  decide +kernel

theorem test_wit_arp : (wired.setReg (pg (0x60 + 1) + 0x110) 0x0A000001).reg (pg (0x60 + 1) + 0x110) = 0x0A000001 ∧ (0x0A000001 : Word) ≠ 0 ∧
    (wired.setReg (pg (0x60 + 1) + 0x114) 1).ipv6 1 = [1, 0, 0, 0] ∧ (∀ p, p < 4 → wired.reg (pg (0x60 + p) + 0x110) ≠ 0x0A000001) ∧
    (∀ p, p < 4 → wired.ipv6 p ≠ [1, 0, 0, 0]) := by decide +kernel

/-- A frame of opcode `op` and PSN `psn` for the connection. -/
def frame (op psn : Nat) : Frame := { frameTo (ready.ctx 0x100000) with len := 100, op := op, psn := psn, qpn := 0x100000, pkey := 0x8001 }

theorem test_wit_frames : (frame 4 0).fcsOk = true ∧ (frame 4 0).len ≤ 9216 ∧ (frame 4 0).addrOk = true ∧ (frame 4 0).roce = true ∧
    (frame 4 0).icrcOk = true ∧ bit ((ready.bump64 (pg (0x60 + 0) + 0x180) 1).gateReg 0 0x100) 2 = false ∧
    (ready.bump64 (pg (0x60 + 0) + 0x180) 1).xptOn = true ∧ (ready.bump64 (pg (0x60 + 0) + 0x180) 1).qpnOk 0x100000 = true ∧
    (ready.bump64 (pg (0x60 + 0) + 0x180) 1).ctxHere 0x100000 = true ∧ (ready.bump64 (pg (0x60 + 0) + 0x180) 1).qpnOk 7 = false ∧
    (ready.ctx 0x100000).live = true ∧ (frame 4 0).pkey % 2 ^ 15 = (ready.ctx 0x100000).fld 1 16 15 ∧ (0x7FF0 : Nat) % 2 ^ 15 ≠
    (ready.ctx 0x100000).fld 1 16 15 ∧ (ready.ctx 0x100000).spray = true ∧ 2 ^ 23 ≤ psnSub 16777215 (ready.ctx 0x100000).epsn ∧
    256 ≤ psnSub 300 (ready.ctx 0x100000).epsn := by decide +kernel

/-- EPSN passes three landed packets and stops at the gap. -/
theorem test_slide : slideEpsn 257 16777215 0x17 = (2, 2) ∧ windowUps 1 1 4096 = 4112 ∧ windowUps 1 9 65530 = 65536 := by decide +kernel

/-- A spilled connection with a message in hand. -/
def spilled : State :=
  let s := known.setConn 0x100005 { Conn.none with msgs := [⟨0, 2, .answer 0, false, 0, 0, none, 4, [1, 2, 3, 4], none, false⟩] }
  { s with net := { s.net with spill := 0x8000000E } }

theorem test_wit_ctx_fetch : spilled.ctxHere 0x100005 = false ∧ spilled.qpnOk 0x100005 = true ∧ (spilled.conn 0x100005).msgs ≠ [] ∧
    (spilled.bringCtx 0x100005).isSome = true ∧ spilled.portDown spilled.spillPort = false ∧ spilled.net.miss.length < 512 := by decide +kernel

/-- Contexts are spilled to a lost port, so one that is not on chip cannot be brought in. -/
theorem test_wit_ctx_lost : (({ spilled with port0 := Port.reset } : State).bringCtx 0x100005) = none ∧
    ({ spilled with port0 := Port.reset } : State).spillOn = true := by decide +kernel

/-- The connection has one message of 2,500 bytes to send. -/
def posting : State := ready.post 0x100000 2 (.answer 0) false 0 0 none 2500 (List.replicate 2500 7)

theorem test_wit_send : posting.qpnOk 0x100000 = true ∧ posting.ctxHere 0x100000 = true ∧ (posting.ctx 0x100000).live = true ∧
    (posting.conn 0x100000).rnrUntil = none ∧ (posting.conn 0x100000).nxt = (posting.ctx 0x100000).sqPsn ∧
    psnSub (posting.conn 0x100000).nxt (posting.ctx 0x100000).una < min 256 ((posting.ctx 0x100000).window / 256) ∧
    ((posting.conn 0x100000).msgs.all (fun m => m.first.isNone && m.staged (posting.ctx 0x100000) 0)) = true ∧
    (posting.useCtx 0x100000).mayPin 0x100000 = true := by decide +kernel

/-- The second packet of the message is in hand; and it is to be sent again. -/
theorem test_wit_send_ways : (let s := nx posting (.packetSend 0x100000)
    (((s.conn 0x100000).msgAt (s.ctx 0x100000) (s.ctx 0x100000).sqPsn).map (fun x => (x.2.1, x.2.2)), decide ((s.conn 0x100000).nxt = (s.ctx 0x100000).sqPsn),
      (s.conn 0x100000).msgs.all (fun m => m.first.isSome))) = (some (5000, 1), true, true) ∧
    (let s := nx (nx posting (.packetSend 0x100000)) (.retryTimer 0x100000 262144)
     decide ((s.conn 0x100000).nxt ≠ (s.ctx 0x100000).sqPsn) && (s.ctx 0x100000).live) = true := by decide +kernel

/-- After its first packet the connection has a timer. -/
theorem test_wit_timer : (let s := nx posting (.packetSend 0x100000)
    (s.ctx 0x100000).timer = some 262144 ∧ (s.ctx 0x100000).live = true ∧ (s.ctx 0x100000).retries < (s.ctx 0x100000).fld 0 9 3 ∧
      (s.conn 0x100000).msgs ≠ [] ∧ (s.ctx 0x100000).sqPsn = 5001 ∧ (s.gate 0).queue.length = 1) := by decide +kernel

theorem test_wit_waits : (let s := posting.setConn 0x100000 { posting.conn 0x100000 with rnrUntil := some 9, uncovAt := some 3 }
    (s.conn 0x100000).rnrUntil = some 9 ∧ (s.conn 0x100000).msgs ≠ [] ∧ (s.conn 0x100000).uncovAt = some 3 ∧
      3 + fld (s.xptReg 0x10C) 8 8 * 1000 ≤ max s.clk 5000 ∧ max s.clk 1 < 3 + fld (s.xptReg 0x10C) 8 8 * 1000) := by decide +kernel

/-- A complete network request: a LOOKUP of 64 bytes. -/
def asked : State :=
  { ready with net := { ready.net with reqs := [⟨0, 0x100000, 0, some (bytesOf (cmd [0x00000201])), false⟩], nextReq := 1 } }

theorem test_wit_request : (asked.net.reqs.find? (fun r => decide (r.qpn = 0x100000) && r.bytes.isSome && !r.decoded)).isSome = true ∧
    (bytesOf (cmd [0x00000201])).length = 64 ∧ netOpOk (wordsOf ((bytesOf (cmd [0x00000201])).take 64)) = true ∧
    netOpOk (wordsOf ((bytesOf (cmd [0x00000205])).take 64)) = false := by decide +kernel

/-- Trigger ring 0 holds one entry at 0x8000: tag 9, ATTEND, or one with a reserved bit. -/
def ringed (w2 : Word) : State :=
  let s := ((ready.setReg (tringAt 0) 0x8000).setReg (tringAt 0 + 8) 4).setReg (tringAt 0 + 0x10) 1
  s.setHost 0 (Mem.wrBytes [] 0x8000 (bytesOf ([9, 0x83000001, w2] ++ List.replicate 13 0 ++ [0x0000020C])))

theorem test_wit_trigger : (ringed 0).tring 0 = (4, 0, 1) ∧ (ringed 0).portDown 0 = false ∧
    ((ringed 0).hostRead 0 (0x8000 + 128 * 0) 128).map (fun bs => (tringOk (wordsOf bs), ((ringed 0).binding 0 (fld ((wordsOf bs).getD 1 0) 24 6)).map
      (fun b => b.1))) = some (true, some 7) ∧
    ((ringed 1).hostRead 0 (0x8000 + 128 * 0) 128).map (fun bs => tringOk (wordsOf bs)) = some false ∧ (ringed 0).net.armed.length < 1024 := by
  decide +kernel

theorem test_wit_trigger_ways : (({ ringed 0 with bad := [⟨0, 0x8000, 128⟩] } : State).hostRead 0 (0x8000 + 128 * 0) 128) = none ∧
    ((ringed 0).setRecord 1 3 []).binding 0 3 = none ∧ ready.tring 0 = (0, 0, 0) ∧
    ((ringed 0).setReg (tringAt 0 + 0x10) 0).tring 0 = (4, 0, 0) := by decide +kernel

/-- Two arrivals on a tag, of which a waiter of one takes one. -/
theorem test_wit_tags : ready.waiters 9 = [] ∧ ready.net.tags.length < 4096 ∧ ((ready.arrival 9).arrival 9).tagCount 9 = 2 ∧
    (((ready.arrival 9).arrival 9).tagTake 9 1).tagCount 9 = 1 ∧ (((ready.arrival 9).arrival 9).net.tags.map (fun t => t.tag)).Nodup ∧
    (ready.arrival 9).net.tags.find? (fun x => decide (x.tag = 9)) = some ⟨9, 1, 0⟩ ∧
    0 + fld ((ready.arrival 9).xptReg 0x118) 0 16 * 1000000 ≤ max (ready.arrival 9).clk 100000000 := by decide +kernel

/-! ### 14 -/

/-- A list of two entries in a cycle of 1,000 units, guard 100: class 2 alone, then class 1. -/
def hatch : GateOp := { list := [(400, 4), (600, 2)], cycle := 1000, div := 1, guard_ := 100, base := 0, baseStroke := 0, baseOff := 0 }

theorem test_hatch : (hatch.at_ 500).1 = 0x80 ∧ (hatch.at_ 2000).1 = 0x84 ∧ (hatch.at_ 14100).1 = 0x82 ∧ hatch.windows 2 = [(1000, 4000)] ∧
    hatch.windows 1 = [(4000, 10000)] ∧ takeoverAt hatch 25001 = (30000, true) ∧ takeoverAt hatch (-5) = (0, false) := by decide +kernel

/-- The worked example of 14 R519: the least cycle start at or after 30.0 ms. -/
theorem test_takeover_example :
    takeoverAt { hatch with cycle := 250000, base := 1000000 } 30000000 = (31000000, true) := by decide +kernel

/-- Two frames wait at port 0, of classes 2 and 7. -/
def egress : State :=
  let f (c : Nat) : EgFrame := { cls := c, len := 100, wire := .arp 1, waited := false }
  wired.setGate 0 { wired.gate 0 with queue := [f 2, f 7] }

theorem test_wit_select : (egress.at_ 9).linkFree 0 = some 900 ∧ (egress.netPort 0).up = true ∧
    (let w := (egress.at_ 9).gateRefresh 0
     let v := State.countWaits (w.setGate 0 { w.gate 0 with queue := (w.gate 0).queue }) 0 900
     stripHeads (w.oversize 0) [] (w.gate 0).queue = ((w.gate 0).queue, 0) ∧ v.eligible 0 900 7 = true ∧ v.eligible 0 900 2 = true ∧
      ((v.gate 0).head 7).isSome = true) ∧ ((nx egress (.frameSelect 0 9)).at_ 9).linkFree 0 = none := by decide +kernel

/-- 13 R476 and the example of 13 R504: FIRST_PSN 5,000 and PKT_COUNT 37 in network byte order, after a BTH of 12 bytes. -/
theorem test_wit_wire : let f : Frame := { frame 8 5036 with firstPsn := 5000, pktCount := 37 }
    f.op ≠ 0x11 ∧ f.pktCount ≠ 0 ∧ f.pktCount < 2 ^ 24 ∧ f.firstPsn < 2 ^ 24 ∧
    ((frameBytes f).drop 12).take 8 = [0, 0x13, 0x88, 0, 0, 0, 0x25, 0] ∧ (frameBytes f).take 1 = [8] ∧
    ((frameBytes f).drop 9).take 3 = [0, 0x13, 0xAC] := by decide +kernel

/-- A frame of class 2 fits no window of a list without class 2, and no class with an empty queue is eligible. -/
theorem test_wit_oversize :
    (let f : EgFrame := { cls := 2, len := 600, wire := .arp 1, waited := false }
     let s := (wired.setGate 0 { wired.gate 0 with queue := [f], op := { hatch with list := [(1000, 2)] } })
     let u : State := { s with stk := { s.stk with sync := .locked, running := true }, act := [(pg 0x68 + 0x100, 1)] }
     (stripHeads (u.oversize 0) [] (u.gate 0).queue).2) = 1 ∧
    ((List.range 8).all (fun c => !wired.eligible 0 900 c)) = true := by decide +kernel

theorem test_wit_takeover : (let s := wired.setGate 0 { wired.gate 0 with pend := some 50 }
    (s.gate 0).pend = some 50 ∧ (s.at_ 3).local_ < 50 ∧ 50 ≤ (s.at_ 60).local_ ∧ swf Gate.reset 0 s.net.gate = true ∧ 4 ≤ (7 : Nat)) := by
  decide +kernel

/-! ### 15 -/

/-- An image of 1,024 bytes: format 1, security version 3, part 0x7A07, sections of types 1 and 2 at 512 and 768. -/
def image0 : List Byte :=
  let w (n : Nat) : List Byte := leBytes 4 n
  w 0x37584B49 ++ w 0x7A070001 ++ w 1024 ++ w 0x302 ++ List.replicate 112 0 ++ w 1 ++ w 512 ++ w 64 ++ w 0 ++ w 2 ++ w 768 ++ w 64 ++
    List.replicate 868 0

/-- Fuses of a PRODUCTION part: the image's key in slot 1, another in slot 2, slot 0 revoked, fused SVN 2. -/
def fuses1 : Fuse :=
  { Fuse.blank with keys := [some [1], some (shake256 (imgKey image0) 32), some [2], none], revoked := 1, svn := 2, life := 1 }

/-- The part with that image, before its boot sequence. -/
def boot1 : State := { State.reset with sec := { Sec.reset with fuse := fuses1, nor := { Sec.reset.nor with image := image0 } } }

theorem test_image : imgHeaderOk image0 30816 = true ∧ imgHeaderOk image0 30815 = false ∧ imgHeaderOk [] 4194304 = false ∧
    imgFld image0 3 8 8 = 3 ∧ imgFld image0 1 16 16 = 0x7A07 ∧ image0.length = 1024 ∧ sigBytes = 29792 := by decide +kernel

theorem test_image_key : fuses1.slotOf image0 = some 1 ∧ Fuse.blank.slotOf image0 = none := by decide +kernel

/-- The image passes its checks wherever its signature verifies: revision 0 is no later than any. -/
theorem test_wit_image_ok (h : Config.slhVerify256s (imgKey image0) (imgSlice image0 0 (imgLen image0)) (imgSlice image0 (imgLen image0) 29792) = true) :
    boot1.imgCheck image0 4194304 = .ok 1 := by
  have h1 : imgHeaderOk image0 4194304 = true := by decide +kernel
  have h2 : boot1.sec.fuse.slotOf image0 = some 1 := by decide +kernel
  have h3 : imgFld image0 3 8 8 = 3 := by decide +kernel
  have h4 : imgFld image0 1 16 16 = 0x7A07 := by decide +kernel
  have h5 : imgFld image0 1 8 8 = 0 := by decide +kernel
  have h6 : boot1.sec.fuse.svn = 2 := rfl
  simp [State.imgCheck, h1, h2, h3, h4, h5, h6, sigBytes, h]

theorem test_wit_boot : State.reset.start = .verify ∧ State.reset.held = false ∧ State.reset.sec.nor.mode ≠ 0 ∧
    State.reset.imgCheck State.reset.sec.nor.image 4194304 = .error 2 ∧ up.start ≠ .verify := by decide +kernel

/-- The device in recovery after a boot from its blank flash, port 0 up over PCIe. -/
def recov : State :=
  { (nx State.reset (.bootSequence true)) with port0 := { Port.reset with mode := .pcie } }

theorem test_boot_blank : recov.start = .recovery ∧ recov.sec.cause = 2 ∧ recov.sec.source = 3 ∧
    (nx State.reset (.bootSequence false)).sec.halted = true := by decide +kernel

theorem test_wit_recovery_mode : recov.start = .recovery ∧ recov.pageOn (.port 0) 0 = true ∧ recov.pageOn (.port 0) 1 = true ∧
    recov.pageOn (.port 0) 0x70 = true ∧ recov.pageOn (.port 0) 0x10 = false ∧ recov.sec.load = none ∧ loadLenOk recov.rcvAddr.2 = false ∧
    loadLenOk ((recov.setReg (pg 0x70 + 0x130) 30176).rcvAddr.2) = true ∧ loadLenOk 30175 = false ∧ loadLenOk 4194304 = true ∧
    loadLenOk 4194305 = false := by decide +kernel

/-- A load through port 0 whose image was read, with the fuses of `boot1`. -/
def loadOf (update writeBack : Bool) (img : Option (List Byte)) : State :=
  { recov with sec := { recov.sec with fuse := fuses1, load := some ⟨0, update, writeBack, img⟩ } }

theorem test_wit_load : (loadOf false false none).sec.load.isSome = true ∧
    (loadOf false false (some [])).imgCheck [] 0 = .error 2 ∧ (loadOf false true (some image0)).sec.nor.broken = false ∧
    (loadOf false true (some image0)).sec.nor.mode ≠ 0 ∧ (nx (loadOf false false none) .recoveryLoadDone).sec.rcvCause = 8 := by decide +kernel

/-- The running device, the fabric manager on port 0's host, the mailbox holding a legal length. -/
def fm0 : State := ((up.setReg (pg 0x6C + 0x104) 1).setReg (pg 0x70 + 0x130) 40000)

theorem test_wit_update : fm0.pageOn (.port 0) 0x70 = true ∧ fm0.fmRoute (.port 0) = true ∧ fm0.fmRoute .mctp = true ∧ fm0.fmRoute (.port 1) = false ∧
    fm0.reached .memory = true ∧ fm0.updating = false ∧ loadLenOk fm0.rcvAddr.2 = true ∧ fm0.mctpOn = true ∧
    (nx fm0 (.mailboxUpdate (.port 0))).updating = true ∧ (nx fm0 (.pldmUpdate [])).updating = true := by decide +kernel

/-- An update staged over PLDM. -/
def staged (img : List Byte) : State :=
  { fm0 with sec := { fm0.sec with updState := 1, updSource := 0, updImage := img } }

theorem test_wit_staged : (staged []).imgCheck [] 0 = .error 2 ∧ (staged []).updBytes = some [] ∧
    (nx (staged []) .imageStaged).sec.updState = 5 ∧ (nx (staged []) .imageStaged).sec.updCause = 2 := by decide +kernel

/-- A fuse command in progress on the fuses of `boot1`, the running image's key in slot 1. -/
def fusing (cmd k : Nat) : State :=
  { fm0 with sec := { fm0.sec with fuse := fuses1, keySlot := 1, imageSvn := 3, source := 0, fuseCmd := some (cmd, k, 0) } }

theorem test_wit_fuse : (fusing 2 1).revokeRefused 1 = true ∧ (fusing 2 2).revokeRefused 2 = false ∧ (fusing 1 0).sec.fuseCmd = some (1, 0, 0) ∧
    (nx (fusing 1 0) (.fuseDone 9)).sec.fuse.svn = 3 ∧ (nx (fusing 2 2) (.fuseDone 9)).sec.fuse.revoked = 5 ∧
    (nx (fusing 2 1) (.fuseDone 9)).sec.fuseResult = 1 := by decide +kernel

/-- SPDM over MCTP at a stage, version 1.2, certificate slot 0 provisioned or not. -/
def spdmAt (stage : Nat) (chain : Option (List (List Byte))) : State :=
  ({ fm0 with sec := { fm0.sec with chain := chain, alias_ := some [1] } } : State).setSpdm 2 { Spdm.none with stage := stage, ver := 0x12 }

theorem test_wit_spdm : fm0.spdmOn 2 = true ∧ fm0.spdmOn 3 = false ∧ fm0.spdmOn 0 = true ∧ ((spdmAt 3 none).spdm 2).stage = 3 ∧
    ((spdmAt 3 none).spdm 2).ver = 0x12 ∧ (spdmAt 3 none).sec.fuse.life ≠ 2 ∧ (spdmAt 3 (some [[], [], [], []])).sec.signs = [] ∧
    (1 : Nat) ∉ spdmCodes ∧ ((nx fm0 (.getVersion 2 [0x10, 0x84, 0, 0])).spdm 2).stage = 1 ∧
    ((nx (spdmAt 1 none) (.getCapabilities 2 ([0x12, 0xE1] ++ List.replicate 18 0))).spdm 2).stage = 2 ∧
    ((nx (spdmAt 2 none) (.negotiateAlgorithms 2 ([0x12, 0xE3] ++ List.replicate 30 0))).spdm 2).stage = 2 := by decide +kernel

/-- A certificate chain from its first byte on. -/
theorem test_wit_certificate : (spdmAt 3 (some [[], [], [], []])).sec.chain = some [[], [], [], []] ∧ (8 : Nat) ≤ (List.replicate 8 (0 : Byte)).length ∧
    mn (List.replicate 8 (0 : Byte)) 4 2 < (chainBytes [[], [], [], []]).length := by
  refine ⟨rfl, by decide, ?_⟩
  simp [chainBytes, leBytes, mn, ofLe]

/-- The offer of 15 R556. -/
def offer : List Byte := [0x12, 0xE3, 0, 0, 36, 0, 1, 0, 0, 0, 0, 0, 0x20, 0, 0, 0] ++ List.replicate 12 0 ++ [1, 0, 0, 0] ++ extAsym

theorem test_algorithms : algOk offer = true ∧ ((nx (spdmAt 2 none) (.negotiateAlgorithms 2 offer)).spdm 2).stage = 3 := by decide +kernel

theorem test_wit_measure : (1 : Nat) ≤ 9 ∧ ((spdmAt 3 none).measOf 9).length ≤ 900 := by
  decide +kernel

/-- SHA3-512 of "abc" (FIPS 202's own example): its first and last bytes. -/
theorem test_sha3_512 : (sha3_512 [0x61, 0x62, 0x63]).take 4 = [0xB7, 0x51, 0x85, 0x0B] ∧
    (sha3_512 [0x61, 0x62, 0x63]).drop 60 = [0x4E, 0xEC, 0x53, 0xF0] := by decide +kernel

theorem test_wit_chunks : (spdmAt 2 none).spdmOn 2 = true ∧
    (let s := (spdmAt 3 none).setSpdm 2 { Spdm.none with stage := 3, ver := 0x12, get := some ⟨7, 0, 3, [1, 2, 3]⟩, later := some (0x83, 4), done := some [9] }
     mb [0x12, 0x86, 0, 7, 0, 0] 3 = 7 ∧ mn [0x12, 0x86, 0, 7, 0, 0] 4 2 = 0 ∧ (s.spdm 2).later = some (0x83, 4) ∧ (s.spdm 2).done = some [9] ∧
     (s.spdm 2).get.isSome = true) := by decide +kernel

theorem test_wit_signing : (let s := spdmAt 3 (some [[], [], [], []])
    let u := { s with sec := { s.sec with signs := [⟨2, 0x83, [], []⟩] } }
    u.sec.signs.length = 1 ∧ u.sec.alias_ = some [1] ∧ (u.spdm 2).later = none) := by decide +kernel

/-! ### 16 -/

/-- The running device with a stroke running, whose monitors and fast guard work (all bits of HLT_CTRL are 1 by default or set). -/
def aged (vcore : Nat) : State :=
  { up with act := sset [] (regReset (pg 0x78 + 0x100)) (pg 0x78 + 0x100) 0xF,
            hlt := { up.hlt with vcore := vcore }, stk := { up.stk with running := true } }

theorem test_wit_monitors : (aged 780).mctpOn = true ∧ (aged 780).hltCtrl 0 = true ∧ (aged 780).hltCtrl 1 = true ∧ (aged 780).hltCtrl 2 = true ∧
    (aged 780).hltMargin 8 = 10 ∧ State.reset.mctpOn = false ∧ swf none 0 (aged 780).hlt.slack = true ∧ swf 0 0 (aged 780).hlt.ro = true ∧
    swf 0 0 (aged 780).hlt.leak = true ∧ (aged 780).reached .memory = true ∧ (aged 780).slack .memory = true ∧ (aged 780).memLive 3 = true ∧
    (aged 780).memLive 11 = true ∧ (aged 780).memLive 12 = false ∧ sget (aged 780).hlt.margin none 3 = none ∧
    (nx (aged 780) (.ringOscillatorSample 5 [900])).hlt.ro = [(0, 900)] ∧ (nx (aged 780) (.leakageSample 5 [0, 70000])).hlt.leak = [(1, 4464)] ∧
    (nx (aged 780) (.refreshMarginTest 3 500)).hlt.margin = [(3, some 500)] := by decide +kernel

/-- Monitor 3 (an engine-clock path) and monitor 50 (a core-clock path) below FAST_PS. -/
theorem test_wit_guard : (3 < 48) ∧ ([20, 20, 20, 9] : List Int)[3]? = some 9 ∧ (9 : Int) < ((aged 780).hltMargin 8 : Int) ∧
    (aged 780).hlt.vcore < 850 ∧ (aged 850).hlt.vcore = 850 ∧ (aged 850).stk.running = true ∧
    (List.replicate 50 (20 : Int) ++ [5])[50]? = some 5 ∧ (aged 850).ras.fatal = none := by decide +kernel

/-- A re-plan running, a trigger at hand. -/
def replanning : State := { aged 780 with hlt := { (aged 780).hlt with running := some 7 } }

theorem test_wit_replan : (aged 780).hlt.running = none ∧ replanning.hlt.running = some 7 ∧ replanning.stk.running = true ∧
    (aged 780).replanTrigger = false ∧ ((aged 780).at_ 86400000000000).replanTrigger = true ∧ (aged 780).pageOn (.port 0) 0x78 = true ∧
    (aged 780).planVf 0 = some 650 ∧ (aged 780).minRatio = 4 ∧
    (State.planRefresh { aged 780 with hlt := { (aged 780).hlt with margin := [(3, some 200), (5, some 99)] } } 3 = some 1) ∧
    (State.planRefresh { aged 780 with hlt := { (aged 780).hlt with margin := [(3, some 200), (5, some 99)] } } 5 = none) ∧
    (nx replanning (.replanEnd 9 [])).hlt.ready.isSome = true := by decide +kernel

/-- No re-plan can answer that no setpoint serves unless the prediction says so: the hypothesis of that clause under an assumption on the
free prediction. -/
theorem test_wit_no_setpoint (h : ∀ mv step, Config.predictSlack 0 5 mv step = 0) :
    State.planVf { aged 780 with hlt := { (aged 780).hlt with slack := [(0, some 5)] } } 0 = none := by
  unfold State.planVf
  rw [List.find?_eq_none]
  intro w _ hc
  rw [List.all_eq_true] at hc
  have := hc 0 (by simp)
  have e : sget [(0, some (5 : Int))] none 0 = some 5 := by decide
  have g : State.hltMargin { aged 780 with hlt := { (aged 780).hlt with slack := [(0, some 5)] } } 0 = 25 := by decide +kernel
  simp [State.guardOk, e, g, h, coreMonitor] at this

theorem test_wit_stack : (aged 780).pageOn (.port 0) 0x78 = true ∧ State.reset.pageOn (.port 0) 0x78 = false ∧ up.start ≠ .verify ∧ up.start ≠ .recovery ∧
    State.reset.start = .verify ∧ up.fusedStacks = 8 ∧ up.memOk = true ∧ (2 : Nat) ∉ up.hlt.dead ∧
    (up.stackUe 2 77).hlt.dead = [] ∧ (State.failStack { up with hlt := { up.hlt with dead := [2] } } 2).hlt.dead = [2] := by decide +kernel

theorem test_wit_up_rises : up.keysRise := by
  refine ⟨?_, ?_, ?_, ?_, ?_, ?_, ?_, ?_, ?_, ?_, ?_, ?_, ?_⟩ <;> unfold Sparse.rising <;> decide +kernel

/-- A record of class `c` with sequence number `q`. -/
def rec16 (q c : Nat) : RasRec := ⟨q, c, 0x78, 0x0A, 1, 0, 0, 2, 0, 0⟩

/-- A log of 1,024 records of class 1. -/
def fullLog : State := { up with ras := { up.ras with log := (List.range 1024).map (fun q => rec16 q 1), next := 1024 } }

theorem test_wit_log : (rec16 5 2).page = 0x78 ∧ (State.rasRecord { up with ras := { up.ras with log := [rec16 5 2] } } 0x78 0x0A 2 2 0).ras.log.length = 1 ∧
    (State.rasRecord { up with ras := { up.ras with log := [rec16 5 2] } } 0x78 0x0A 2 3 0).ras.log.length = 2 ∧
    1024 ≤ fullLog.ras.log.length ∧ fullLog.ras.log.all (fun x => decide (x.cls ≠ 0)) = true ∧ up.pageOn (.port 0) 0x79 = true ∧
    (nx { up with ras := { up.ras with log := [rec16 5 2] } } (.rasLogClear (.port 0))).ras.log = [] := by decide +kernel

theorem test_wit_storm : ((nx { up with ras := { up.ras with storms := [⟨0x18, 5, 3, false⟩, ⟨0x19, 5, 3, false⟩] } } (.ceStormEnd 0x18 1000000005)).ras.storms).length = 1 := by
  decide +kernel

/-! ### 02 -/

/-- The stroke timer in a sync state, 1 s after the epoch, with a period of 10 ms; stroke 100 begins there where a stroke runs. -/
def timer (x : Sync) (run : Bool) : State :=
  let k := known.stk
  { known with clk := 2000000000, stk := { k with sync := x, epoch := 1000000000, running := run, stroke := 100, boundary := 2000000000, lastSync := 2000000000 } }

theorem test_wit_boundary : (timer .acquiring false).stk.sync = .acquiring ∧ (timer .locked true).memOk = true ∧
    (timer .locked true).nextBoundary = (101, 2010000000) ∧ ((timer .locked true).at_ 2009999999).local_ = 2009999999 ∧
    ((timer .locked true).at_ 2010000000).local_ = 2010000000 ∧ (timer .locked true).cfg.armed = none ∧ (timer .locked true).replanDue = false ∧
    (timer .locked true).stk.take = [] ∧ (timer .locked false).nextBoundary = (0, 1000000000) ∧
    (nx (timer .locked true) (.strokeBoundary 2010000000)).stk.stroke = 101 ∧ 0 < (timer .locked true).stk.period := by decide +kernel

/-- The sixteenth good message in a row locks. -/
theorem test_wit_sixteenth : (let k := (timer .acquiring false).stk
    let s : State := { timer .acquiring false with stk := { k with stepped := true, good := 15 } }
    ((nx s (.syncMessage 5 25)).stk.sync, (nx s (.syncMessage 5 26)).stk.sync)) = (.locked, .acquiring) := by decide +kernel

theorem test_wit_keysRise : (timer .locked true).keysRise := by
  refine ⟨?_, ?_, ?_, ?_, ?_, ?_, ?_, ?_, ?_, ?_, ?_, ?_, ?_⟩ <;> unfold Sparse.rising <;> decide +kernel

/-- SYNC_LIMIT is 25 ns and STEP_LIMIT 1,000 ns after reset, so an offset lies on each side of both. -/
theorem test_wit_sync : (timer .holdover true).syncLimit = 25 ∧ (timer .holdover true).stkFld 0x12C 0 16 = 1000 ∧
    (nx (timer .locked true) (.syncMessage 5 1001)).stk.sync = .unlocked ∧ (nx (timer .locked true) (.syncMessage 5 1000)).stk.sync = .locked ∧
    (nx (timer .holdover true) (.syncMessage 5 25)).stk.sync = .locked ∧ (nx (timer .holdover true) (.syncMessage 5 26)).stk.sync = .holdover ∧
    (timer .unlocked true).stk.stepped = false ∧ (nx (timer .unlocked true) (.syncMessage 5 (-20000000))).stk.stroke = 102 ∧
    (nx (timer .unlocked true) (.syncMessage 5 20000000)).stk.stroke = 100 ∧ (nx (timer .unlocked false) (.syncMessage 5 7)).stk.off = -7 ∧
    (nx (nx (timer .unlocked false) (.syncMessage 5 7)) (.syncMessage 9 3)).stk.off = -7 := by decide +kernel

/-- Sync messages come each 2^-3 s, and four missing ones lose the lock; the estimate of 1 us per second passes 40 ns after 40 ms. -/
theorem test_wit_sync_loss : (timer .locked true).stkFld 0x11C 20 4 * (timer .locked true).syncInterval ≤ 500000000 ∧
    (nx (timer .locked true) (.syncLoss 2000000001)).stk.sync = .locked ∧ (nx (timer .locked true) (.syncLoss 3000000000)).stk.sync = .holdover ∧
    (nx (timer .holdover true) (.holdoverLimit 2000000000)).stk.sync = .holdover ∧
    (nx (timer .holdover true) (.holdoverLimit 9000000000)).stk.sync = .unlocked := by decide +kernel

theorem test_wit_pps : ((timer .holdover true).at_ 2000001000).local_ % 10 ^ 9 = 1000 ∧ bit ((timer .holdover true).cfgReg (pg 0x03 + 0x11C)) 31 = true ∧
    bit ((timer .holdover true).cfgReg (pg 0x7C + 0x100)) 1 = true ∧ (nx (timer .holdover true) (.ppsOut 2000000000)).out.length = 1 ∧
    (nx (timer .holdover true) (.ppsOut 2000000001)).out.length = 0 ∧ ((timer .holdover true).at_ 2000001001).local_ % 10 ^ 9 = 1001 ∧ (wired.netPort 0).up = true := by decide +kernel

/-- A header of two records for strokes 102 and 103, with a summary to queue set 3, or one with a reserved bit. -/
def head2 (bad : Nat) : List Word := [102, 0, 0x9000 , 0, 0x00010002, 0x8003 + BitVec.ofNat 32 (bad * 65536), 0, 0, 0, 0, 77, 0, 0, 0, 0, 0]

/-- A DELIVER record of plan 0 at once, and an ATTEND record at once. -/
def rec02 (op : Nat) : List Word := [0xFFFF, 0, 0x03000000, 0, 9, 0, 0, 0] ++ (BitVec.ofNat 32 (op + 512)) :: List.replicate 15 0

/-- A message of a DELIVER record whose window is closed may not begin. -/
theorem test_wit_msg_shut : (let k := known.stk
    let s := withCmd known false (cmd [0x8000020A]) .running
    let i : Inst := ⟨1, 0, 20, [], [⟨0, rec02 0x0A, false, false, none, some none, .started 5⟩], true, false⟩
    let u : State := { s with que := { s.que with live := [{ cmd5 s with src := .record 0 1 0 }] }, stk := { k with insts := [i], win := [.before, .closed, .before, .before] } }
    u.msgShut ⟨0, 2, .dlv 5 0, false, 0, 0, none, 4, [], none, false⟩) = true := by decide +kernel

/-- Ring 0 of the stroke timer holds one header at 0x8000. -/
def headed (bad : Nat) : State :=
  let s := (((timer .locked true).setReg (pringAddr 0) 0x8000).setReg (pringAddr 0 + 8) 4).setReg (pringAddr 0 + 0x10) 1
  s.setHost 0 (Mem.wrBytes (Mem.wrBytes [] 0x8000 (bytesOf (head2 bad))) 0x9000 (bytesOf (rec02 0x0B ++ rec02 0x0C)))

theorem test_wit_header : (headed 0).fetches 0 = true ∧ (headed 0).pringSize 0 = 16 ∧ (headed 0).pageOn (.port 0) 0x03 = true ∧
    fld ((headed 0).reg (pringAddr 0 + 0xC)) 0 12 = 0 ∧ fld ((headed 0).reg (pringAddr 0 + 0x10)) 0 12 = 1 ∧
    ((headed 0).hostRead 0 0x8000 64).map (fun bs => headerBad (wordsOf bs)) = some false ∧
    ((headed 1).hostRead 0 0x8000 64).map (fun bs => headerBad (wordsOf bs)) = some true ∧
    (nx (headed 0) (.headerFetch 0)).stk.progs.map (fun x => (x.target, x.last, x.next)) = [(102, 103, 102)] := by decide +kernel

/-- The header is held. -/
def held1 : State := nx (headed 0) (.headerFetch 0)

theorem test_wit_record_fetch : (held1.stk.progs.find? (fun x => decide (x.port = 0 ∧ x.next ≤ x.last))).isSome = true ∧ held1.stk.insts = [] ∧
    (held1.hostRead 0 0x9000 192).isSome = true ∧ held1.startOf 102 = 2020000000 ∧ held1.lead = 200000 ∧
    held1.isOver (head2 0) = false ∧ held1.isOver [102, 0, 0, 0, 2, 0, 1000000000] = true := by decide +kernel

/-- Host memory of port 0 answers no read. -/
def lost0 (s : State) : State := { s with bad := [⟨0, 0, 0x100000⟩] }

theorem test_wit_programs : (lost0 (headed 0)).hostRead 0 0x8000 64 = none ∧ (lost0 (headed 0)).fetches 0 = true ∧
    (lost0 held1).hostRead 0 0x9000 192 = none ∧ (lost0 held1).fetches 0 = true ∧
    (let k := (headed 0).stk
     ({ headed 0 with stk := { k with prev0 := some 103 } } : State).prevTarget 0) = some 103 ∧ fld 15 0 12 < (headed 0).pringSize 0 ∧
    (headed 0).pringSize 0 ≤ fld 16 0 12 ∧ (headed 0).stk.progs.find? (fun x => decide (x.port = 0 ∧ x.next ≤ x.last)) = none := by
  decide +kernel

/-- Its first instance is active in stroke 102, window 1 open. -/
def running2 : State :=
  let s := nx held1 (.recordFetch 0 2019900000)
  let k := s.stk
  { s with stk := { k with insts := k.insts.map (fun (x : Inst) => { x with active := true }), stroke := 102, boundary := 2019900000, win := [.before, .open_, .open_, .before] } }

theorem test_wit_windows : held1.winSt 2 = .before ∧ (held1.window 2).1 * 10 < (held1.window 2).2 * 10 ∧ held1.stk.insts = [] ∧
    running2.winSt 1 = .open_ ∧ (running2.stk.insts.all (fun x => decide (running2.stk.stroke < x.target + running2.carryMax))) = true ∧
    (nx held1 (.windowOpen 0 2000000000)).winSt 0 = .open_ := by decide +kernel

theorem test_wit_record_start : (match running2.instOrder.flatMap (fun x => (x.recs.filter (fun r => running2.mayStart x r 2)).map (fun r => (x, r))) with
    | (x, r) :: _ => decide (running2.inst x.iid = some x) && decide (x.record r.idx = some r) && decide (running2.recTest x r 2 = .start) && (running2.recLive x r).isSome
    | [] => false) = true ∧ (held1.stk.insts.all (fun x => x.recs.all (fun r => !held1.mayStart x r 2))) = true := by decide +kernel

theorem test_wit_slack_busy : running2.slack .psa = false ∧ running2.slack .flash = false ∧ running2.psaCtrl 1 = true ∧ running2.reached .psa = true ∧
    running2.psa.scrubAt ≤ running2.clk := by decide +kernel

theorem test_wit_summary : (let k := running2.stk
    let s : State := { running2 with stk := { k with insts := k.insts.map (fun (x : Inst) => { x with recs := x.recs.map (fun (r : SRec) => { r with st := .final .ok }) }) } }
    (s.stk.insts.find? (fun x => decide (x.port = 0 ∧ x.target = 102) && x.active && !x.silent && bit (x.ws.getD 5 0) 15 && x.recs.all SRec.isFinal)).isSome = true ∧
    (nx s (.programSummary 0 102)).stk.insts = []) := by decide +kernel

/-! ### 17 -/

theorem test_wit_access : up.pageThere 0x7C = some (.pwr, 0) ∧ (5 : Nat) % 4 ≠ 0 ∧ up.pageThere 0xFF = none ∧ up.pageOn (.port 0) 0x7C = true ∧ State.reset.pageOn (.port 0) 0x7C = false ∧
    clearRanges (pg 0x7C + 0x1FC) ≠ [] ∧ clearRanges (pg 0x7C + 0x130) = [] ∧ (regDef (pg 0x7C + 0x130)).map (fun d => d.cfg) = some false ∧
    (regDef (pg 0x7C + 0x104)).map (fun d => d.cfg) = some true ∧ up.cfg.check = none ∧ up.cfg.armed = none ∧
    latchesHi (pg 0x7C + 0x130) = false ∧ latchesHi (pg 0x60 + 0x180) = true ∧ up.mctpOn = true ∧ State.reset.mctpOn = false := by decide +kernel

/-- A masked vector of an enabled function is held, an unmasked one leaves with the data of its entry. -/
theorem test_wit_windows_of_port : up.portDown 0 = false ∧ up.start ≠ .recovery ∧ (up.fn 0 0).msixOn = false ∧ up.fns.rising ∧ (up.fn 0 0).vecs.rising ∧
    (let s : State := nx (up.setFn 0 0 { PciFn.reset with msixOn := true }) (.registerWrite (.port 0) (0x140000 + 16 * 5 + 12) 0)
     (s.fn 0 0).msixOn = true ∧ (s.fn 0 0).holds 5 = false ∧ (s.fn 0 0).holds 6 = true) := by
  refine ⟨rfl, by decide, rfl, ?_, ?_, by decide +kernel⟩ <;> unfold Sparse.rising <;> decide +kernel

/-- A CFG_COMMIT or CFG_ROLLBACK of the fabric manager's tenant is accepted as number 5. -/
def committing (op : Nat) : State := withCmd up false (cmd [BitVec.ofNat 32 (op + 512)]) .accepted

theorem test_wit_cfg_commit : ((committing 0x11).live 5).map (fun l => (l.op, l.phase, l.compat, l.reservedOk 0 [])) = some (0x11, .accepted, false, true) ∧
    ((committing 0x12).live 5).map (fun l => l.op) = some 0x12 ∧ (committing 0x11).reached .verify = true ∧ State.reset.reached .memory = false ∧
    (committing 0x12).cfg.prevValid = false ∧ (nx (committing 0x11) (.cfgCommit 5)).cfg.check.isSome = true := by decide +kernel

theorem test_wit_commit_ways : State.reset.reached .verify = false ∧ recov.start = .recovery ∧
    (cmd5 (withCmd up false (cmd [0x211, 1]) .accepted)).reservedOk 0 [] = false ∧
    (let s := committing 0x11
     ({ s with cfg := { s.cfg with check := some ⟨4, false, 0⟩ } } : State).cfg.check.isSome) = true ∧
    (let s := committing 0x12
     ({ s with cfg := { s.cfg with prevValid := true } } : State).cfg.prevValid) = true ∧ (nx replanning (.replanEnd 9 [])).hlt.ready.isSome = true := by
  decide +kernel

/-- A check is running, with the reset values or an illegal PERIOD in the pending bank, a stroke running or not. -/
def checking (bank : Sparse Word) (run : Bool) : State :=
  let s := nx (committing 0x11) (.cfgCommit 5)
  { s with pend := bank, stk := { s.stk with running := run } }

theorem mem_of_isort {α : Type} (le : α → α → Bool) (x : α) : ∀ l : List α, x ∈ isort le l → x ∈ l
  | [], h => h
  | y :: l, h => by
    have step : ∀ r : List α, x ∈ insertBy le y r → x = y ∨ x ∈ r := by
      intro r
      induction r with
      | nil => intro h; simpa [insertBy] using h
      | cons z r ih =>
        intro h
        unfold insertBy at h
        split at h
        · exact List.mem_cons.1 h
        · rcases List.mem_cons.1 h with h | h
          · exact .inr (h ▸ List.mem_cons_self)
          · exact (ih h).imp id (List.mem_cons_of_mem z)
    rcases step _ h with h | h
    · exact h ▸ List.mem_cons_self
    · exact List.mem_cons_of_mem y (mem_of_isort le x l h)

/-- No reset value of a page fails a limit of its chapter. -/
def pageFine (p : Nat) : Bool := ((pageRegs p).filter (fun d => d.cfg)).all (fun d => !limitBad regReset p d.off)

theorem test_limits : (pages.all (fun p => decide (0x68 ≤ p ∧ p ≤ 0x6B) || pageFine p)) = true := by decide +kernel
theorem test_limits_gates : pageFine 0x68 = true ∧ pageFine 0x69 = true ∧ pageFine 0x6A = true ∧ pageFine 0x6B = true := by decide +kernel

/-- The reset values pass the check. -/
theorem test_reset_passes : firstBad regReset = none := by
  unfold firstBad
  rw [List.find?_eq_none]
  intro r hr
  unfold cfgRegs at hr
  obtain ⟨p, hp, h⟩ := List.mem_flatMap.1 hr
  obtain ⟨d, hd, rfl⟩ := List.mem_map.1 h
  have h1 := mem_of_isort _ _ _ hd
  have h2 : pageFine p = true := by
    have := List.all_eq_true.1 test_limits p hp
    rcases Bool.or_eq_true_iff.1 this with h | h
    · have h := of_decide_eq_true h
      have e : p = 0x68 ∨ p = 0x69 ∨ p = 0x6A ∨ p = 0x6B := by omega
      obtain ⟨g0, g1, g2, g3⟩ := test_limits_gates
      rcases e with e | e | e | e <;> rw [e]
      · exact g0
      · exact g1
      · exact g2
      · exact g3
    · exact h
  have h3 := List.all_eq_true.1 h2 d h1
  simpa using h3

theorem test_bank_of (b : Sparse Word) (r : Bool) : (checking b r).pend = b ∧ (checking b r).stk.running = r := ⟨rfl, rfl⟩

theorem test_wit_cfg_check : (checking [] true).cfg.check = some ⟨5, false, 0⟩ ∧ (checking [] true).memOk = true ∧
    firstBad (fun a => sget (checking [] true).pend (regReset a) a) = none ∧ (checking [] true).stk.running = true ∧
    (checking [] false).stk.running = false ∧ firstBad (fun a => sget [(0x310C, (5 : Word))] (regReset a) a) = some (0x03, 0x10C) := by
  refine ⟨by decide +kernel, by decide +kernel, ?_, (test_bank_of _ _).2, (test_bank_of _ _).2, by decide +kernel⟩
  rw [(test_bank_of [] true).1]
  exact test_reset_passes

/-- A commit is armed that changes the power limit. -/
def armed1 : State := { checking [(0x7C104, 500)] true with cfg := { (checking [] true).cfg with armed := some ⟨5, false, 0⟩ } }

theorem test_wit_armed : armed1.cfg.armed.isSome = true ∧ (armed1.cfg.armed.map (fun c => (gridNew armed1.act (armed1.checkBank c)))) = some false ∧
    armed1.replanDue = false ∧ (nx replanning (.replanEnd 9 [])).cfg.armed = none := by decide +kernel

/-- A new grid of period 20 ms is taken over at a later boundary, or cannot be: its strokes would begin anew. -/
theorem test_wit_grid : gridNew [] [(pg 0x03 + 0x10C, 2000000)] = true ∧
    ((timer .locked true).gridTake [(pg 0x03 + 0x10C, 500000)] 101 2010000000).isSome = true ∧
    (timer .locked true).gridTake [(pg 0x03 + 0x10C, 2000000), (pg 0x03 + 0x104, 1)] 101 2010000000 = none := by decide +kernel

theorem test_wit_clash : armed1.widthClash [(0x7C104, 500)] = false := by decide +kernel

/-! ### 18 -/

theorem test_wit_reset : (nx up (.resetL 5)).held = true ∧ (nx up (.pwrGood false 5)).pwr.pwrBad = true ∧
    (nx (nx up (.resetL 5)) (.resetRelease 100004)).held = true ∧ (nx (nx up (.resetL 5)) (.resetRelease 100005)).held = false ∧
    (nx up (.sysRefclkLoss 5)).pwr.clkLost = true ∧ up.pwr.clkLost = false ∧ (nx up .thermalComparator).pwr.dead = true := by decide +kernel

theorem test_wit_warm : fm0.pageOn (.port 0) 0x00 = true ∧ fm0.fmRoute (.port 0) = true ∧ fm0.fmRoute (.port 1) = false ∧ fld 0xA5C00001 20 12 = 0xA5C ∧ bit 0xA5C00001 0 = true ∧
    (State.reset.pageOn (.port 0) 0x00) = false ∧ up.ras.fatal = none ∧ (nx (aged 850) (.powerSample 5 1)).ras.fatal = none := by decide +kernel

theorem test_wit_phase : State.reset.nextPhase = none ∧ up.held = false ∧ up.nextPhase = none ∧
    ({ up with start := .memory } : State).nextPhase = some .flash ∧ up.fusedDies = 2 := by decide +kernel

/-- Two samples of the power average lie above its limit of 1,000 W. -/
def loaded : State := nx (nx up (.telemetryFrame 10 [900000, 300000] 5)) (.telemetryFrame 20 [900000, 300000] 5)

theorem test_wit_power : loaded.pwrOn = true ∧ State.reset.pwrOn = false ∧ State.reset.pwr.trip = false ∧ loaded.limitMw < loaded.avgMw ∧ up.avgMw ≤ up.limitMw ∧
    loaded.brn.step ≠ 8 ∧ loaded.pwr.powerStep < 8 ∧ (nx loaded (.powerSample 30 750)).pwr.powerStep = 1 ∧ loaded.psa.powerLevel = 0 ∧
    loaded.pwr.tlmOk = true ∧ 20 + 16000 ≤ (loaded.at_ 16020).clk ∧ (nx up (.powerSample 30 750)).pwr.lowSince = some 30 ∧ loaded.pwr.vrmHot = false ∧
    (nx up (.powerSample 30 500)).pwr.senseBad = some 30 := by decide +kernel

/-- The engine clock at its floor, its last step down with the PSA at its last level, and a trip with a FATAL error. -/
theorem test_wit_power_ways : (let b := loaded.brn
    let p := loaded.psa
    let w := loaded.pwr
    let s : State := { loaded with brn := { b with step := 8 } }
    let x : State := { s with psa := { p with powerLevel := 3 } }
    let y : State := { loaded with pwr := { w with powerStep := 8 } }
    (decide (s.brn.step = 8 ∧ s.psa.powerLevel < 3), decide (x.brn.step = 8 ∧ 3 ≤ x.psa.powerLevel), decide (y.brn.step ≠ 8 ∧ 8 ≤ y.pwr.powerStep)))
      = (true, true, true) ∧
    (let s := nx loaded (.telemetryLoss 16020)
     (s.pwr.tlmOk, s.pwr.forced)) = (false, true) := by decide +kernel

/-- Engine sensor 3 at 113 degrees, DRAM sensor 20 at 90. -/
def hot3 : List Nat := (List.replicate 40 30).set 3 113 |>.set 20 90

theorem test_wit_trip : (let s := nx (nx up (.tempSample 5 hot3)) (.tempSample 6 hot3)
     (s.pwr.trip, s.ras.fatal.isSome)) = (true, true) ∧
    (let s := nx (nx (nx up (.tempSample 5 hot3)) (.tempSample 6 hot3)) (.fatalReset 7)
     (s.pwr.trip, s.ras.fatal.isSome, (s.sampleTemps hot3).all (fun x => decide (x ≤ 95)), (s.sampleTemps (List.replicate 40 30)).all (fun x => decide (x ≤ 95))))
      = (true, false, false, true) := by decide +kernel

theorem test_wit_temperature : hotSensors (up.sampleTemps hot3) = [3] ∧ up.pwr.hot = [] ∧ (nx up (.tempSample 5 hot3)).pwr.tempStep = 1 ∧
    (nx up (.tempSample 5 hot3)).pwr.doubled = [20] ∧ (nx (nx up (.tempSample 5 hot3)) (.tempSample 6 hot3)).pwr.trip = true ∧
    bit (up.cfgReg (pg 0x7C + 0x100)) 0 = true ∧ hotSensors (up.sampleTemps []) = [] := by decide +kernel

theorem test_wit_control : up.start ≠ .verify ∧ up.held = false ∧ State.reset.start = .verify ∧ up.ras.plat = [] ∧
    ({ up with ras := { up.ras with plat := [rec16 5 1] } } : State).mctpOn = true := by decide +kernel

/-! ### WellFormed: an ill-formed term for each check, beside a well-formed one -/

theorem test_wf_port : Instr.wf (.commandFetch 1) = true ∧ Instr.wf (.commandFetch 2) = false := by decide
theorem test_wf_src : Instr.wf (.qsEnable (.port 1) 0 0 1) = true ∧ Instr.wf (.dmaRun (.port 2) 0) = false := by decide
theorem test_wf_qset : Instr.wf (.sqTail 0 63 5) = true ∧ Instr.wf (.sqTail 0 64 5) = false ∧ Instr.wf (.cqHead 2 0 5) = false := by decide
theorem test_wf_qset_bit : Instr.wf (.qsEnable .mctp 0 0 0) = false ∧ Instr.wf (.qsDisable .mctp 0 0 1) = false ∧ Instr.wf (.qsDisable .mctp 0 0 0) = true := by decide
theorem test_wf_push : Instr.wf (.push 0 0 (List.replicate 16 0)) = true ∧ Instr.wf (.push 0 0 (List.replicate 15 0)) = false := by decide
theorem test_wf_chan : Instr.wf (.burstIssue 63) = true ∧ Instr.wf (.burstIssue 64) = false := by decide
theorem test_wf_dma_cause : Instr.wf (.dmaBusError 0 1 0) = true ∧ Instr.wf (.dmaBusError 0 0 0) = false ∧ Instr.wf (.dmaBusError 0 5 0) = false := by decide
theorem test_wf_bank : Instr.wf (.bankFailed 15) = true ∧ Instr.wf (.bankFailed 16) = false ∧ Instr.wf (.psaRebuild [3, 16]) = false := by decide
theorem test_wf_core : Instr.wf (.coreFail 15 0) = true ∧ Instr.wf (.coreFail 16 0) = false := by decide
theorem test_wf_engine : Instr.wf (.tileEnd 15 7) = true ∧ Instr.wf (.tileEnd 15 8) = false ∧ Instr.wf (.tileEnd 16 0) = false := by decide
theorem test_wf_net : Instr.wf (.netPortDown 3) = true ∧ Instr.wf (.netPortDown 4) = false := by decide
theorem test_wf_ld : Instr.wf (.cdat 1 7) = true ∧ Instr.wf (.cdat 1 8) = false ∧ Instr.wf (.cdat 2 0) = false := by decide
theorem test_wf_class : Instr.wf (.windowOpen 3 0) = true ∧ Instr.wf (.windowOpen 4 0) = false := by decide
theorem test_wf_tier : Instr.wf (.pressureReclaim 1) = true ∧ Instr.wf (.pressureReclaim 3) = false ∧ Instr.wf (.t1UncorrectableRead 2 0 0) = false := by decide
theorem test_wf_transport : Instr.wf (.getVersion 2 []) = true ∧ Instr.wf (.getVersion 3 []) = false := by decide
theorem test_wf_page : Instr.wf (.intForce .mctp 255 0) = true ∧ Instr.wf (.intForce .mctp 256 0) = false := by decide
theorem test_wf_addr : Instr.wf (.latchingRead .mctp 0xFFFFC) = true ∧ Instr.wf (.latchingRead .mctp 2) = false ∧ Instr.wf (.latchingRead .mctp 0x100000) = false ∧
    Instr.wf (.latchingRead (.port 0) 0x100000) = true ∧ Instr.wf (.registerWrite (.port 0) 0x1C8000 0) = false := by decide
theorem test_wf_cxl : Instr.wf (.cxlMemRequest 0 0 (.write 0 (List.replicate 64 0)) 0) = true ∧
    Instr.wf (.cxlMemRequest 0 0 (.write 0 (List.replicate 65 0)) 0) = false ∧ Instr.wf (.cxlMemRequest 0 8 (.read 0) 0) = false := by decide
theorem test_wf_reg_acc : Instr.wf (.mctpRegisterAccess (.read 4)) = true ∧ Instr.wf (.mctpRegisterAccess (.write 5 0)) = false := by decide
theorem test_wf_slots : Instr.wf (.psaInsert 67108863) = true ∧ Instr.wf (.psaInsert 67108864) = false ∧ Instr.wf (.proofLapse 1048576 0) = false ∧
    Instr.wf (.moveCommit 67108864) = false ∧ Instr.wf (.t1UncorrectableRead 0 0 1024) = false := by decide
theorem test_wf_flash : Instr.wf (.segmentFlush 5 0) = true ∧ Instr.wf (.segmentFlush 6 0) = false ∧ Instr.wf (.folding 2) = false ∧
    Instr.wf (.rewrite 524288) = false ∧ Instr.wf (.dieFail 2048) = false := by decide
theorem test_wf_flash_found : Instr.wf (.flashRecovery ⟨List.replicate 64 0, List.replicate 64 0, [], [], 0⟩) = true ∧
    Instr.wf (.flashRecovery ⟨List.replicate 63 0, List.replicate 64 0, [], [], 0⟩) = false ∧
    Instr.wf (.flashRecovery ⟨List.replicate 64 0, [], [], [], 0⟩) = false := by decide
theorem test_wf_flash_results : Instr.wf (.segmentProgrammed 5 ⟨[31], [(31, .soft 1)]⟩) = true ∧ Instr.wf (.segmentProgrammed 5 ⟨[32], []⟩) = false ∧
    Instr.wf (.segmentProgrammed 0 ⟨[], [(32, .soft 1)]⟩) = false ∧ Instr.wf (.mapRebuild ⟨true, 2 ^ 24, 0⟩) = false ∧
    Instr.wf (.mapRebuild ⟨false, 2 ^ 24, 0⟩) = true := by decide +kernel
theorem test_wf_link : Instr.wf (.linkUp 0 5 16 false false 255) = true ∧ Instr.wf (.linkUp 0 0 16 false false 0) = false ∧
    Instr.wf (.linkUp 0 6 16 false false 0) = false ∧ Instr.wf (.linkUp 0 5 3 false false 0) = false ∧ Instr.wf (.linkUp 0 5 16 false false 256) = false := by decide
theorem test_wf_events : Instr.wf (.getEventRecords 0 0 3) = true ∧ Instr.wf (.getEventRecords 0 0 4) = false := by decide
theorem test_wf_mctp : Instr.wf (.mctpCommand (List.replicate 16 0)) = true ∧ Instr.wf (.mctpCommand []) = false := by decide
theorem test_wf_qpn : Instr.wf (.packetSend 16777215) = true ∧ Instr.wf (.packetSend 16777216) = false ∧ Instr.wf (.counterIdle 4294967296 0) = false := by decide
theorem test_wf_neighbour : Instr.wf (.neighbourSolicitation 0 [1, 2, 3, 4]) = true ∧ Instr.wf (.neighbourSolicitation 0 [1]) = false := by decide
theorem test_wf_fuse : Instr.wf (.revoke .mctp 3) = true ∧ Instr.wf (.revoke .mctp 4) = false := by decide
theorem test_wf_samples : Instr.wf (.psaTempSample 0 [1, 2, 3, 4]) = true ∧ Instr.wf (.psaTempSample 0 []) = false ∧ Instr.wf (.pathDelaySample 0 []) = false ∧
    Instr.wf (.ringOscillatorSample 0 []) = false ∧ Instr.wf (.leakageSample 0 []) = false ∧ Instr.wf (.tempSample 0 []) = false := by decide
theorem test_wf_units : Instr.wf (.refreshMarginTest 11 0) = true ∧ Instr.wf (.refreshMarginTest 12 0) = false ∧ Instr.wf (.stackFail 8) = false ∧
    Instr.wf (.netRefclkLoss 2 0) = false := by decide

/-! ### The machine -/

theorem test_step_idle : State.reset.pending = [] ∧ step State.reset = .next State.reset := ⟨rfl, rfl⟩

/-- The hypotheses of what every step keeps: reset with a command waiting. -/
theorem test_wit_keeps : ({ State.reset with pending := [.bootSequence false] } : State).memOk = true ∧
    ({ State.reset with pending := [.bootSequence false] } : State).keysRise ∧ mayReset (.bootSequence false) = false ∧
    mayReplace (.bootSequence false) = false ∧ (∀ t, Instr.bootSequence false ≠ .fuseDone t) ∧
    (∃ u, step { State.reset with pending := [.bootSequence false] } = .next u) := by
  refine ⟨by decide, ⟨?_, ?_, ?_, ?_, ?_, ?_, ?_, ?_, ?_, ?_, ?_, ?_, ?_⟩, rfl, rfl, fun t => by simp, ⟨_, rfl⟩⟩ <;> unfold Sparse.rising <;> decide +kernel

theorem test_decode_none : decodeTableWord 0 0 = none ∧ decodeTableWord 32 0xFFFF = none := ⟨rfl, rfl⟩
end Sys2Proof.Tests
end

/-! Power and temperature (18 R616 to R632; 01 R29 to R32): what a note in the registers, the engine clock and a FATAL error
leave unchanged, then each command of the power block. -/

namespace Sys2Proof.Machine

/-! ### What a counter, an interrupt and a status word leave unchanged -/

/-- `t` is `s` but for the registers of the list, pending vectors and the messages sent. -/
def NotesOnly (l : List Nat) (s t : State) : Prop :=
  t = { s with regs := t.regs, fns := t.fns, out := t.out } ∧ sameRegsBut s t l

namespace NotesOnly

variable {l : List Nat} {s t u : State}

theorem refl (l : List Nat) (s : State) : NotesOnly l s s := ⟨rfl, fun _ _ => rfl⟩

theorem trans (h : NotesOnly l s t) (h' : NotesOnly l t u) : NotesOnly l s u :=
  ⟨by rw [h'.1, h.1], fun a ha => (h'.2 a ha).trans (h.2 a ha)⟩

theorem mono {l' : List Nat} (hl : l ⊆ l') (h : NotesOnly l s t) : NotesOnly l' s t :=
  ⟨h.1, fun a ha => h.2 a (fun hm => ha (hl hm))⟩

theorem clk (h : NotesOnly l s t) : t.clk = s.clk := by rw [h.1]
theorem act (h : NotesOnly l s t) : t.act = s.act := by rw [h.1]
theorem psa (h : NotesOnly l s t) : t.psa = s.psa := by rw [h.1]
theorem brn (h : NotesOnly l s t) : t.brn = s.brn := by rw [h.1]
theorem hlt (h : NotesOnly l s t) : t.hlt = s.hlt := by rw [h.1]
theorem pwr (h : NotesOnly l s t) : t.pwr = s.pwr := by rw [h.1]
theorem ras (h : NotesOnly l s t) : t.ras = s.ras := by rw [h.1]

theorem setPwr (h : NotesOnly l s t) (p : Pwr) : NotesOnly l { s with pwr := p } { t with pwr := p } :=
  ⟨by conv_lhs => rw [h.1], h.2⟩

end NotesOnly

theorem notesOnly_setReg (s : State) (a : Nat) (v : Word) : NotesOnly [a] s (s.setReg a v) :=
  ⟨rfl, fun _ hb => reg_setReg_ne s v (by simpa using hb)⟩

theorem notesOnly_raise (s : State) (p i : Nat) : NotesOnly [pg p + 0x10] s (s.raise p i) :=
  ⟨by conv_lhs => rw [raise_eq]
      conv_rhs => rw [raise_eq]
      rfl,
   fun _ hb => reg_raise_ne s (by simpa using hb)⟩

theorem notesOnly_count (s : State) (p o i : Nat) : NotesOnly [pg p + o, pg p + 0x10] s (s.count p o i) :=
  ⟨count_eq s p o i, fun b hb => by
    obtain ⟨ho, hs⟩ : b ≠ pg p + o ∧ b ≠ pg p + 0x10 := by simpa using hb
    exact reg_count_ne s ho hs⟩

/-! ### The engine clock between operations (08 R298; 18 R630) -/

/-- `t` is `s` but for the engines, applied configuration, VCORE, the count of clock changes with its status word, pending
vectors and the messages sent. -/
def ClockOnly (s t : State) : Prop :=
  t = { s with brn := t.brn, cfg := t.cfg, hlt := t.hlt, regs := t.regs, fns := t.fns, out := t.out } ∧
    sameRegsBut s t [pg (brnPage 0) + 0x234, pg (brnPage 0) + 0x10]

theorem ClockOnly.refl (s : State) : ClockOnly s s := ⟨rfl, fun _ _ => rfl⟩

theorem ClockOnly.trans {s t u : State} (h : ClockOnly s t) (h' : ClockOnly t u) : ClockOnly s u :=
  ⟨by rw [h'.1, h.1], fun a ha => (h'.2 a ha).trans (h.2 a ha)⟩

theorem NotesOnly.clockOnly {s t : State} (h : NotesOnly [pg (brnPage 0) + 0x234, pg (brnPage 0) + 0x10] s t) :
    ClockOnly s t := ⟨by rw [h.1], h.2⟩

theorem clockOnly_brn (s : State) (b : Brn) : ClockOnly s { s with brn := b } := ⟨rfl, fun _ _ => rfl⟩

theorem clockOnly_setCore (s : State) (c : Nat) (v : Core) : ClockOnly s (s.setCore c v) := clockOnly_brn s _

theorem clockOnly_brn_cfg (s : State) (b : Brn) (c : Cfg) : ClockOnly s { s with brn := b, cfg := c } :=
  ⟨rfl, fun _ _ => rfl⟩

theorem clockOnly_setVcore (s : State) (mv : Nat) : ClockOnly s (s.setVcore mv) := ⟨rfl, fun _ _ => rfl⟩

theorem clockOnly_foldl {α : Type} (f : State → α → State) (hf : ∀ s c, ClockOnly s (f s c)) :
    ∀ (l : List α) (s : State), ClockOnly s (l.foldl f s)
  | [], s => .refl s
  | c :: l, s => (hf s c).trans (clockOnly_foldl f hf l (f s c))

theorem clockOnly_brnApply (s : State) : ClockOnly s s.brnApply := by
  unfold State.brnApply
  dsimp only
  split
  · exact (clockOnly_foldl _ (fun _ _ => clockOnly_setCore _ _ _) _ s).trans (clockOnly_brn_cfg _ _ _)
  · exact .refl s

theorem clockOnly_clockStep (s : State) : ClockOnly s s.clockStep := by
  have step : ∀ b, ClockOnly s (({ s with brn := b } : State).count (brnPage 0) 0x234 4) := fun b =>
    (clockOnly_brn s b).trans (notesOnly_count _ _ _ _).clockOnly
  unfold State.clockStep
  dsimp only
  split
  · exact .refl s
  · split
    · exact clockOnly_setVcore s _
    · split
      · exact .refl s
      · split
        · exact (step _).trans (clockOnly_setVcore _ _)
        · exact step _

theorem clockOnly_betweenOps (s : State) : ClockOnly s s.betweenOps := by
  unfold State.betweenOps
  split
  · exact (clockOnly_brnApply s).trans (clockOnly_clockStep _)
  · exact .refl s

theorem clockOnly_govern (s : State) : ClockOnly s s.govern :=
  (clockOnly_brn s _).trans (clockOnly_betweenOps _)

@[simp] theorem State.govern_clk (s : State) : s.govern.clk = s.clk := by rw [(clockOnly_govern s).1]
@[simp] theorem State.govern_psa (s : State) : s.govern.psa = s.psa := by rw [(clockOnly_govern s).1]
@[simp] theorem State.govern_pwr (s : State) : s.govern.pwr = s.pwr := by rw [(clockOnly_govern s).1]
@[simp] theorem State.govern_ras (s : State) : s.govern.ras = s.ras := by rw [(clockOnly_govern s).1]

/-- The steps of the power block do not touch its own page. -/
theorem reg_govern_pwrPage (s : State) {o : Nat} (ho : o < 0x1000) : s.govern.reg (pg pwrPage + o) = s.reg (pg pwrPage + o) :=
  (clockOnly_govern s).2 _ (by simp [pg, pwrPage, brnPage]; omega)

/-! ### Throttle levels of the PSA (04 R145, R147) -/

/-- A change of throttle levels touches the PSA and what it reports. -/
theorem setPsaLevels_notes (s : State) (temp power : Nat) : NotesOnly [pg 0x07 + 0x10]
    { s with psa := { s.psa with tempLevel := temp, powerLevel := power, slots := s.psaSlots, slotsAt := s.clk } }
    (s.setPsaLevels temp power) := by
  unfold State.setPsaLevels
  dsimp only
  split
  · exact notesOnly_raise _ _ _
  · exact .refl _ _

/-! ### FATAL errors (16 R571; 18 R636) -/

theorem RasOnly.clk {s t : State} (h : RasOnly s t) : t.clk = s.clk := by rw [h]
theorem RasOnly.psa {s t : State} (h : RasOnly s t) : t.psa = s.psa := by rw [h]
theorem RasOnly.pwr {s t : State} (h : RasOnly s t) : t.pwr = s.pwr := by rw [h]

theorem rasOnly_fatalError (s : State) (page cause unit info : Nat) : RasOnly s (s.fatalError page cause unit info) := by
  have hrec := rasOnly_rasRecord s page cause 3 unit info
  unfold State.fatalError
  dsimp only
  split
  · exact hrec
  · exact hrec.trans (rasOnly_ras _ _)

@[simp] theorem State.errLog_ras (s : State) (r : RasRec) : (s.errLog r).ras = s.ras := rfl

@[simp] theorem State.raise_ras (s : State) (p i : Nat) : (s.raise p i).ras = s.ras := (notesOnly_raise s p i).ras

@[simp] theorem State.cxlEvent_ras (s : State) (cls seq : Nat) : (s.cxlEvent cls seq).ras = s.ras := by
  unfold State.cxlEvent
  dsimp only
  split
  · rfl
  · split <;> split <;> simp

theorem storm_fatal (s : State) (page : Nat) : (s.storm page).1.ras.fatal = s.ras.fatal := by
  unfold State.storm
  dsimp only
  split <;> split
  · split <;> simp
  · rfl
  · split <;> simp
  · rfl

theorem rasWrite_fatal (s : State) (r : RasRec) : (s.rasWrite r).ras.fatal = s.ras.fatal := by
  unfold State.rasWrite
  dsimp only
  split
  · simp
  · split
    · simp
    · split <;> simp

/-- The record of a FATAL error is not yet its reset: only `fatalError` sets the cause. -/
theorem rasRecord_fatal (s : State) (page cause unit info : Nat) :
    (s.rasRecord page cause 3 unit info).ras.fatal = s.ras.fatal := by
  have new : (s.rasNew page cause 3 unit info).ras.fatal = s.ras.fatal := by
    unfold State.rasNew
    dsimp only
    simp only [show (3 : Nat) ≠ 0 by decide, show (3 : Nat) ≠ 2 by decide, if_false, Bool.false_eq_true]
    split <;> simp [rasWrite_fatal]
  unfold State.rasRecord
  simp only [show ¬ (3 : Nat) < 3 by decide, if_false]
  split
  · split
    · rfl
    · exact new
  · exact new

/-- The first FATAL error is the cause of the reset, and a thermal trip always is. -/
theorem fatalError_fatal (s : State) (page cause unit info : Nat) (h : s.ras.fatal = none ∨ cause = 0x11) :
    (s.fatalError page cause unit info).ras.fatal = some (cause, info, s.clk) := by
  have hfree : ¬ ((s.rasRecord page cause 3 unit info).ras.fatal.isSome ∧ cause ≠ 0x11) := by
    rw [rasRecord_fatal]
    rintro ⟨hs, hc⟩
    rcases h with h | h
    · simp [h] at hs
    · exact hc h
  unfold State.fatalError
  simp only [if_neg hfree, (rasOnly_rasRecord s page cause 3 unit info).clk]

/-! ### The power block works (15 R544; 18 R632) -/

/-- A device that a thermal trip holds in reset is not up. -/
theorem trip_of_pwrOn {s : State} (h : s.pwrOn = true) : s.pwr.trip = false := by
  cases htrip : s.pwr.trip with
  | false => rfl
  | true => simp [State.pwrOn, State.mctpOn, State.held, htrip] at h

/-- A device that is down takes only the time of a power command (01 R29; 18 R616, R617, R629). -/
theorem exec_pwrOff {s : State} (hoff : s.pwrOn = false) (t mv : Nat) (rails temps : List Nat) (ma : Nat) :
    exec (.telemetryFrame t rails ma) s = .next (s.at_ t) ∧ exec (.powerSample t mv) s = .next (s.at_ t) ∧
    exec (.clockRaise t) s = .next (s.at_ t) ∧ exec (.telemetryLoss t) s = .next (s.at_ t) ∧
    (s.pwr.trip = false → exec (.tempSample t temps) s = .next (s.at_ t)) := by
  have hoff' : (s.at_ t).pwrOn = false := hoff
  refine ⟨?_, ?_, ?_, ?_, fun htrip => ?_⟩
  · simp [exec, execTelemetryFrame, hoff']
  · simp [exec, execPowerSample, hoff']
  · simp only [exec, execClockRaise, hoff']
    cases h : (s.at_ t).pwr.lowSince <;> simp
  · simp [exec, execTelemetryLoss, hoff']
  · simp [exec, execTempSample, hoff', htrip]

/-! ### Telemetry (18 R616, R617) -/

/-- Device time since which telemetry has been sound, once a frame has arrived. -/
def Pwr.soundSince (p : Pwr) (clk : Nat) : Option Nat :=
  if p.vrmHot then none else if p.okSince.isSome then p.okSince else some clk

/-- A frame ends forced steps when telemetry has been sound for 1 ms. -/
def Pwr.frees (p : Pwr) (clk : Nat) : Bool :=
  match p.soundSince clk with
  | some a => decide (a + 1000000 ≤ clk)
  | none => false

theorem frees_eq_false_iff (p : Pwr) (clk : Nat) :
    p.frees clk = false ↔ ∀ a, p.vrmHot = false → p.okSince = some a → clk < a + 1000000 := by
  unfold Pwr.frees Pwr.soundSince
  cases hhot : p.vrmHot
  · cases hok : p.okSince with
    | none => simp
    | some a => simp
  · simp

/-- The power block after a valid frame. -/
def State.framePwr (s : State) (rails : List Nat) (ma : Nat) : Pwr :=
  { s.pwr with
    frames := (rails.sum :: s.pwr.frames).take 64, frameAt := some s.clk, coreMa := ma, tlmOk := true,
    energy := s.pwr.energy + rails.sum + s.auxMw, okSince := s.pwr.soundSince s.clk, forced := s.pwr.forced && !s.pwr.frees s.clk }

theorem execTelemetryFrame_on {s : State} (hon : s.pwrOn = true) (t ma : Nat) (rails : List Nat) :
    exec (.telemetryFrame t rails ma) s = .next { s.at_ t with pwr := (s.at_ t).framePwr rails ma } := by
  have hon' : (s.at_ t).pwrOn = true := hon
  simp only [exec, execTelemetryFrame, hon', Bool.not_true, Bool.false_eq_true, if_false]
  rfl

theorem framePwr_forced_iff (s : State) (rails : List Nat) (ma : Nat) : (s.framePwr rails ma).forced = true ↔
    s.pwr.forced = true ∧ ∀ a, s.pwr.vrmHot = false → s.pwr.okSince = some a → s.clk < a + 1000000 := by
  rw [← frees_eq_false_iff]
  simp [State.framePwr]

/-- The telemetry is lost: steps are forced. -/
theorem execTelemetryLoss_counts {s : State} (hon : s.pwrOn = true) {t : Nat}
    (hlate : s.pwr.frameAt.getD s.resetAt + 16000 ≤ (s.at_ t).clk) (hnew : s.pwr.tlmOk = true ∨ s.pwr.forced = false) :
    exec (.telemetryLoss t) s = .next (({ s.at_ t with pwr := { s.pwr with tlmOk := false, forced := true, okSince := none } } :
      State).count pwrPage 0x18C 4) := by
  have hon' : (s.at_ t).pwrOn = true := hon
  have hgo : ¬ ((!(s.at_ t).pwrOn) = true ∨ (s.at_ t).clk < s.pwr.frameAt.getD s.resetAt + 16000 ∨
      (!s.pwr.tlmOk) = true ∧ s.pwr.forced = true) := by
    rintro (h | h | ⟨hok, hf⟩)
    · simp [hon'] at h
    · omega
    · rcases hnew with h | h
      · simp [h] at hok
      · simp [h] at hf
  simp only [exec, execTelemetryLoss]
  exact congrArg _ (if_neg hgo)

/-- The telemetry is not lost, or its loss is known: only time moves. -/
theorem execTelemetryLoss_idle {s : State} {t : Nat} (h : (s.at_ t).clk < s.pwr.frameAt.getD s.resetAt + 16000 ∨
    (s.pwr.tlmOk = false ∧ s.pwr.forced = true)) : exec (.telemetryLoss t) s = .next (s.at_ t) := by
  simp only [exec, execTelemetryLoss]
  refine congrArg _ (if_pos (.inr ?_))
  simpa using h

/-- What a counter of the power block with its interrupt changes. -/
theorem count_pwrPage (s : State) {o i : Nat} (h0 : regReset (pg 0x7C + o) = 0) (ho : o ≠ 0x10) :
    (s.count pwrPage o i).pwr = s.pwr ∧ (s.count pwrPage o i).reg (pg 0x7C + o) = satAdd (s.reg (pg 0x7C + o)) 1 ∧
      sameRegsBut s (s.count pwrPage o i) [pg 0x7C + o, pg 0x7C + 0x10] :=
  ⟨(notesOnly_count s _ _ _).pwr, reg_count_counter s h0 ho, (notesOnly_count s _ _ _).2⟩

/-! ### The power sample (01 R29, R30; 04 R147) -/

theorem senseCore_inRange (s : State) {mv : Nat} (hlo : 600 ≤ mv) (hhi : mv ≤ 900) :
    s.senseCore mv = { s with pwr := { s.pwr with senseMv := mv, senseBad := none } } := by
  have hout : ¬ (mv < 600 ∨ 900 < mv) := by omega
  simp [State.senseCore, hout]

theorem senseCore_fatal (s : State) {mv a : Nat} (hout : mv < 600 ∨ 900 < mv) (hbad : s.pwr.senseBad = some a)
    (hlong : a + 10000 ≤ s.clk) (hnone : s.ras.fatal = none) : (s.senseCore mv).ras.fatal = some (0x10, mv, s.clk) := by
  simp only [State.senseCore, hout, hbad, hlong, hnone, decide_true, if_true, Option.isSome_some, Option.isNone_none, and_self]
  exact fatalError_fatal _ _ _ _ _ (.inl hnone)

/-- The time since which the average has stayed below 97 % of the limit, after a sample. -/
def State.lowAfter (s : State) : Option Nat :=
  if !s.pwr.forced && decide (s.avgMw * 100 < s.limitMw * 97) then some (s.pwr.lowSince.getD s.clk) else none

theorem lowAfter_none {s : State} (h : s.pwr.forced = true ∨ s.limitMw < s.avgMw) : s.lowAfter = none := by
  unfold State.lowAfter
  refine if_neg fun hlow => ?_
  simp only [Bool.and_eq_true, Bool.not_eq_true', decide_eq_true_eq] at hlow
  obtain ⟨hforced, hlt⟩ := hlow
  rcases h with h | h
  · simp [h] at hforced
  · omega

theorem avgMw_congr {s t : State} (hp : t.pwr = s.pwr) (ha : t.act = s.act) : t.avgMw = s.avgMw := by
  simp only [State.avgMw, State.auxMw, State.cfgFld, State.cfgReg, hp, ha]

theorem limitMw_congr {s t : State} (ha : t.act = s.act) : t.limitMw = s.limitMw := by
  simp only [State.limitMw, State.cfgFld, State.cfgReg, ha]

/-- A sample notes what it reads, in the status and the highest average; then it acts when the average is above the limit or
steps are forced. -/
theorem execPowerSample_on {s x : State} (hon : s.pwrOn = true) (t mv : Nat) (hx : x = (s.at_ t).senseCore mv) :
    ∃ w : State, NotesOnly [pg pwrPage + 0x190, pg pwrPage + 0x10] { x with pwr := { x.pwr with lowSince := x.lowAfter } } w ∧
      exec (.powerSample t mv) s = .next (if x.pwr.forced = true ∨ x.limitMw < x.avgMw then w.powerDown else w) := by
  have hon' : (s.at_ t).pwrOn = true := hon
  obtain ⟨y, hy, hye⟩ : ∃ y : State, NotesOnly [pg pwrPage + 0x190, pg pwrPage + 0x10] x y ∧
      y = if (x.reg (pg pwrPage + 0x190)).toNat < x.avgMw / 1000 then
        x.setReg (pg pwrPage + 0x190) (w32 (min (x.avgMw / 1000) 0x7FF)) else x := by
    refine ⟨_, ?_, rfl⟩
    split
    · exact (notesOnly_setReg _ _ _).mono (by simp)
    · exact .refl _ _
  obtain ⟨z, hz, hze⟩ : ∃ z : State, NotesOnly [pg pwrPage + 0x190, pg pwrPage + 0x10] x z ∧
      z = if y.limitMw < x.avgMw then y.raise pwrPage 0 else y := by
    refine ⟨_, ?_, rfl⟩
    split
    · exact hy.trans ((notesOnly_raise _ _ _).mono (by simp))
    · exact hy
  have hlow : (if (!z.pwr.forced && decide (x.avgMw * 100 < z.limitMw * 97)) = true then
      (if z.pwr.lowSince.isSome then z.pwr.lowSince else some z.clk) else none) = x.lowAfter := by
    unfold State.lowAfter
    rw [hz.pwr, hz.clk, limitMw_congr hz.act]
    cases x.pwr.lowSince <;> rfl
  refine ⟨{ z with pwr := { x.pwr with lowSince := x.lowAfter } }, hz.setPwr _, ?_⟩
  simp only [exec, execPowerSample, hon', Bool.not_true, Bool.false_eq_true, if_false, ← hx, decide_eq_true_eq]
  rw [← hye, ← hze, hlow, limitMw_congr hy.act, hz.pwr]
  simp only [Bool.or_eq_true, decide_eq_true_eq, or_comm]

/-- A sample with VCORE in range, before it acts. -/
theorem execPowerSample_inRange {s : State} (hon : s.pwrOn = true) (t : Nat) {mv : Nat} (hlo : 600 ≤ mv) (hhi : mv ≤ 900) :
    ∃ w : State, w.clk = (s.at_ t).clk ∧ w.brn = s.brn ∧ w.psa = s.psa ∧ w.hlt = s.hlt ∧ w.ras = s.ras ∧
      w.pwr.powerStep = s.pwr.powerStep ∧ w.pwr.lowSince = (s.at_ t).lowAfter ∧
      sameRegsBut s w [pg pwrPage + 0x190, pg pwrPage + 0x10] ∧
      exec (.powerSample t mv) s = .next (if s.pwr.forced = true ∨ s.limitMw < s.avgMw then w.powerDown else w) := by
  obtain ⟨w, hw, he⟩ := execPowerSample_on hon t mv (senseCore_inRange (s.at_ t) hlo hhi).symm
  exact ⟨w, hw.clk, hw.brn, hw.psa, hw.hlt, hw.ras, by rw [hw.pwr]; rfl, by rw [hw.pwr]; rfl, hw.2, he⟩

/-! ### One action of the power block (01 R29; 04 R147) -/

/-- Above its floor the engine clock steps down. -/
theorem powerDown_clock {s : State} (hstep : s.brn.step ≠ 8) (hp : s.pwr.powerStep < 8) :
    s.powerDown.pwr = { s.pwr with powerStep := s.pwr.powerStep + 1 } ∧ s.powerDown.psa = s.psa ∧ s.powerDown.ras = s.ras ∧
      s.powerDown.reg (pg pwrPage + 0x180) = satAdd (s.reg (pg pwrPage + 0x180)) 1 := by
  have he : s.powerDown = ((({ s with pwr := { s.pwr with powerStep := s.pwr.powerStep + 1 } } : State).bump
      (pg pwrPage + 0x180)).govern) := by simp only [State.powerDown, if_neg hstep, if_pos hp]
  rw [he, reg_govern_pwrPage _ (by decide), reg_bump_one _ (by decide)]
  exact ⟨by simp, by simp, by simp, rfl⟩

/-- At the floor of the engine clock the PSA steps down. -/
theorem powerDown_psa {s : State} (hstep : s.brn.step = 8) (hp : s.psa.powerLevel < 3) :
    s.powerDown.pwr = s.pwr ∧ s.powerDown.brn = s.brn ∧ s.powerDown.ras = s.ras ∧
      s.powerDown.psa = { s.psa with powerLevel := s.psa.powerLevel + 1, slots := s.psaSlots, slotsAt := s.clk } := by
  have he : s.powerDown = s.setPsaLevels s.psa.tempLevel (s.psa.powerLevel + 1) := by
    simp only [State.powerDown, if_pos hstep, if_pos hp]
  have h := setPsaLevels_notes s s.psa.tempLevel (s.psa.powerLevel + 1)
  rw [he]
  exact ⟨h.pwr, h.brn, h.ras, h.psa⟩

/-- With no step left nothing acts. -/
theorem powerDown_none {s : State} (h : (s.brn.step ≠ 8 ∧ 8 ≤ s.pwr.powerStep) ∨ (s.brn.step = 8 ∧ 3 ≤ s.psa.powerLevel)) :
    s.powerDown = s := by
  rcases h with ⟨hstep, hp⟩ | ⟨hstep, hp⟩
  · simp only [State.powerDown, if_neg hstep, if_neg (Nat.not_lt.2 hp)]
  · simp only [State.powerDown, if_pos hstep, if_neg (Nat.not_lt.2 hp)]

theorem powerDown_ras (s : State) : s.powerDown.ras = s.ras := by
  unfold State.powerDown
  split
  · split
    · exact (setPsaLevels_notes s _ _).ras
    · rfl
  · split
    · simp
    · rfl

theorem psaSlots_congr {s t : State} (hp : t.psa = s.psa) (hc : t.clk = s.clk) : t.psaSlots = s.psaSlots := by
  simp only [State.psaSlots, State.psaLevel, hp, hc]

/-! ### One step back (01 R32; 04 R147) -/

/-- The average has not stayed low for 1 ms: only time moves. -/
theorem execClockRaise_idle {s : State} {t : Nat} (h : ∀ a, s.pwr.lowSince = some a → (s.at_ t).clk < a + 1000000) :
    exec (.clockRaise t) s = .next (s.at_ t) := by
  simp only [exec, execClockRaise, State.atTime_pwr]
  cases hl : s.pwr.lowSince with
  | none => rfl
  | some a => exact congrArg _ (if_pos (.inr (h a hl)))

/-- After 1 ms one step back: the PSA first, then the engine clock. -/
theorem execClockRaise_due {s x : State} {t a : Nat} (hl : s.pwr.lowSince = some a) (hon : s.pwrOn = true)
    (hdue : a + 1000000 ≤ (s.at_ t).clk) (hx : x = { s.at_ t with pwr := { s.pwr with lowSince := some (s.at_ t).clk } }) :
    exec (.clockRaise t) s = .next (
      if 0 < s.psa.powerLevel then x.setPsaLevels s.psa.tempLevel (s.psa.powerLevel - 1)
      else if 0 < s.pwr.powerStep then ({ x with pwr := { x.pwr with powerStep := s.pwr.powerStep - 1 } } : State).govern
      else x) := by
  have hon' : (s.at_ t).pwrOn = true := hon
  have hgo : ¬ ((!(s.at_ t).pwrOn) = true ∨ (s.at_ t).clk < a + 1000000) := by
    rintro (h | h)
    · simp [hon'] at h
    · omega
  subst hx
  simp only [exec, execClockRaise, State.atTime_pwr, hl]
  exact congrArg _ (if_neg hgo)

/-! ### Temperature (18 R629 to R632) -/

/-- The temperature step that a sample below ENG_C - HYST_C gives: one step back after 1 ms (18 R630). -/
def State.coolStepAfter (s : State) : Nat :=
  match s.pwr.coolSince with
  | none => s.pwr.tempStep
  | some a => if a + 1000000 ≤ s.clk then s.pwr.tempStep - 1 else s.pwr.tempStep

/-- The temperature step that a sample gives (18 R630). -/
def State.tempStepAfter (s : State) (v : List Nat) : Nat :=
  let hot := (v.take 16).foldl max 0
  let eng := s.cfgFld (pg pwrPage + 0x108) 8 8
  if !bit (s.cfgReg (pg pwrPage + 0x100)) 0 then 0
  else if eng ≤ hot then (if s.pwr.tempStep < 8 then s.pwr.tempStep + 1 else s.pwr.tempStep)
  else if hot < eng - s.cfgFld (pg pwrPage + 0x108) 0 4 then s.coolStepAfter
  else s.pwr.tempStep

theorem coolStepAfter_le (s : State) : s.coolStepAfter ≤ s.pwr.tempStep := by
  unfold State.coolStepAfter
  split
  · exact le_rfl
  · split <;> omega

theorem tempStepAfter_le (s : State) (v : List Nat) : s.tempStepAfter v ≤ max s.pwr.tempStep 8 := by
  have hcool := coolStepAfter_le s
  unfold State.tempStepAfter
  dsimp only
  split
  · omega
  · split
    · split <;> omega
    · split <;> omega

section
variable {s : State} {v : List Nat}

theorem tempStepAfter_off (hctl : bit (s.cfgReg (pg pwrPage + 0x100)) 0 = false) : s.tempStepAfter v = 0 := by
  simp only [State.tempStepAfter, hctl, Bool.not_false, if_true]

variable (hctl : bit (s.cfgReg (pg pwrPage + 0x100)) 0 = true)
include hctl

theorem tempStepAfter_hot (hhot : s.cfgFld (pg pwrPage + 0x108) 8 8 ≤ (v.take 16).foldl max 0) :
    s.tempStepAfter v = if s.pwr.tempStep < 8 then s.pwr.tempStep + 1 else s.pwr.tempStep := by
  simp only [State.tempStepAfter, hctl, Bool.not_true, Bool.false_eq_true, if_false, if_pos hhot]

theorem tempStepAfter_between
    (hlow : s.cfgFld (pg pwrPage + 0x108) 8 8 - s.cfgFld (pg pwrPage + 0x108) 0 4 ≤ (v.take 16).foldl max 0)
    (hhigh : (v.take 16).foldl max 0 < s.cfgFld (pg pwrPage + 0x108) 8 8) : s.tempStepAfter v = s.pwr.tempStep := by
  simp only [State.tempStepAfter, hctl, Bool.not_true, Bool.false_eq_true, if_false, if_neg (Nat.not_le.2 hhigh),
    if_neg (Nat.not_lt.2 hlow)]

theorem tempStepAfter_cool
    (hcool : (v.take 16).foldl max 0 < s.cfgFld (pg pwrPage + 0x108) 8 8 - s.cfgFld (pg pwrPage + 0x108) 0 4) :
    s.tempStepAfter v = s.coolStepAfter := by
  simp only [State.tempStepAfter, hctl, Bool.not_true, Bool.false_eq_true, if_false,
    if_neg (Nat.not_le.2 (lt_of_lt_of_le hcool (Nat.sub_le _ _))), if_pos hcool]

end

/-- The temperature step moves as R630 says, and nothing but the engine clock follows it. -/
theorem tempGovern_ways (s : State) (v : List Nat) :
    (∃ c, (s.tempGovern v).pwr = { s.pwr with tempStep := s.tempStepAfter v, coolSince := c }) ∧
      (s.tempGovern v).psa = s.psa ∧ (s.tempGovern v).ras = s.ras ∧ (s.tempGovern v).clk = s.clk := by
  unfold State.tempGovern State.tempStepAfter State.coolStepAfter
  dsimp only
  split
  · exact ⟨⟨_, State.govern_pwr _⟩, State.govern_psa _, State.govern_ras _, State.govern_clk _⟩
  · split
    · split
      · have h := notesOnly_count { s with pwr := { s.pwr with coolSince := none, tempStep := s.pwr.tempStep + 1 } } pwrPage 0x184 1
        exact ⟨⟨_, (State.govern_pwr _).trans h.pwr⟩, (State.govern_psa _).trans h.psa, (State.govern_ras _).trans h.ras,
          (State.govern_clk _).trans h.clk⟩
      · exact ⟨⟨_, rfl⟩, rfl, rfl, rfl⟩
    · split
      · cases hc : s.pwr.coolSince with
        | none => exact ⟨⟨_, rfl⟩, rfl, rfl, rfl⟩
        | some a =>
          dsimp only
          split
          · exact ⟨⟨_, State.govern_pwr _⟩, State.govern_psa _, State.govern_ras _, State.govern_clk _⟩
          · exact ⟨⟨s.pwr.coolSince, rfl⟩, rfl, rfl, rfl⟩
      · exact ⟨⟨_, rfl⟩, rfl, rfl, rfl⟩

theorem mem_doubledAfter {old v : List Nat} {i : Nat} : i ∈ doubledAfter old v ↔
    i < 40 ∧ 20 ≤ i ∧ i < 32 ∧ (85 < v.getD i 0 ∨ (i ∈ old ∧ 82 ≤ v.getD i 0)) := by
  simp [doubledAfter, dramSensor, and_assoc]

/-- A sample while the device works: what it gives when no trip follows, and the FATAL error of a trip. -/
theorem tempWork_ways (s : State) (v : List Nat) :
    ∃ g : State, (∃ c, g.pwr = { s.pwr with
        temps := v, doubled := doubledAfter s.pwr.doubled v, hot := hotSensors v, tempStep := s.tempStepAfter v, coolSince := c }) ∧
      g.psa = s.psa ∧ g.ras = s.ras ∧ g.clk = s.clk ∧
      (hotSensors v = [] ∨ s.pwr.hot = [] → s.tempWork v = g) ∧
      (∀ i, (hotSensors v).head? = some i → s.pwr.hot ≠ [] →
        s.tempWork v = ({ g with pwr := { g.pwr with trip := true } } : State).fatalError pwrPage 0x11 i (v.getD i 0)) := by
  obtain ⟨x, hx⟩ : ∃ x : State, x = { s with pwr := { s.pwr with
    temps := v, doubled := doubledAfter s.pwr.doubled v, hot := hotSensors v } } := ⟨_, rfl⟩
  obtain ⟨w, hw, hwe⟩ : ∃ w : State, NotesOnly [pg pwrPage + 0x10] x w ∧
      w = if (List.range 40).any (fun i => !dramSensor i && decide (105 ≤ v.getD i 0) && decide (s.pwr.temps.getD i 0 < 105)) then
        x.raise pwrPage 2 else x := by
    refine ⟨_, ?_, rfl⟩
    split
    · exact notesOnly_raise _ _ _
    · exact .refl _ _
  have hstep : w.tempStepAfter v = s.tempStepAfter v := by rw [hw.1, hx]; rfl
  obtain ⟨⟨c, hpwr⟩, hpsa, hras, hclk⟩ := tempGovern_ways w v
  refine ⟨w.tempGovern v, ⟨c, ?_⟩, ?_, ?_, ?_, fun h => ?_, fun i hi hhot => ?_⟩
  · rw [hpwr, hstep, hw.pwr, hx]
  · rw [hpsa, hw.psa, hx]
  · rw [hras, hw.ras, hx]
  · rw [hclk, hw.clk, hx]
  · unfold State.tempWork
    dsimp only
    rw [← hx, ← hwe]
    cases hv : hotSensors v with
    | nil => rfl
    | cons i l =>
      rcases h with h | h
      · simp [hv] at h
      · exact if_pos h
  · unfold State.tempWork
    dsimp only
    rw [← hx, ← hwe]
    cases hv : hotSensors v with
    | nil => simp [hv] at hi
    | cons j l =>
      rw [hv, List.head?_cons, Option.some.injEq] at hi
      subst hi
      exact if_neg hhot

/-- What a sample leaves in the power block, tripped or not; the PSA is not throttled by it. -/
theorem tempWork_pwr (s : State) (v : List Nat) : (s.tempWork v).psa = s.psa ∧
    ∃ c p, (s.tempWork v).pwr = { s.pwr with
      temps := v, doubled := doubledAfter s.pwr.doubled v, hot := hotSensors v, tempStep := s.tempStepAfter v, coolSince := c,
      trip := p } := by
  obtain ⟨g, ⟨c, gpwr⟩, gpsa, -, -, hcalm, htrip⟩ := tempWork_ways s v
  cases hi : hotSensors v with
  | nil =>
    rw [hcalm (.inl hi)]
    exact ⟨gpsa, c, _, hi ▸ gpwr⟩
  | cons i l =>
    by_cases hhot : s.pwr.hot = []
    · rw [hcalm (.inr hhot)]
      exact ⟨gpsa, c, _, hi ▸ gpwr⟩
    · have hf := rasOnly_fatalError { g with pwr := { g.pwr with trip := true } } pwrPage 0x11 i (v.getD i 0)
      rw [htrip i (by simp [hi]) hhot, hf.pwr, hf.psa]
      exact ⟨gpsa, c, true, by rw [gpwr, hi]⟩

/-- A sample without a trip leaves the FATAL error and THERM_TRIP_L as they are. -/
theorem tempWork_calm {s : State} {v : List Nat} (h : hotSensors v = [] ∨ s.pwr.hot = []) :
    (s.tempWork v).ras.fatal = s.ras.fatal ∧ (s.tempWork v).pwr.trip = s.pwr.trip := by
  obtain ⟨g, ⟨c, gpwr⟩, -, gras, -, hcalm, -⟩ := tempWork_ways s v
  rw [hcalm h, gras, gpwr]
  exact ⟨rfl, rfl⟩

/-- Two samples in a row with a sensor at its trip point are FATAL (18 R632). -/
theorem tempWork_trips {s : State} {v : List Nat} {i : Nat} (hi : (hotSensors v).head? = some i) (hhot : s.pwr.hot ≠ []) :
    (s.tempWork v).pwr.trip = true ∧ (s.tempWork v).ras.fatal = some (0x11, v.getD i 0, s.clk) := by
  obtain ⟨g, -, -, -, gclk, -, htrip⟩ := tempWork_ways s v
  have hf := rasOnly_fatalError { g with pwr := { g.pwr with trip := true } } pwrPage 0x11 i (v.getD i 0)
  rw [htrip i hi hhot, hf.pwr, fatalError_fatal _ _ _ _ _ (.inr rfl), ← gclk]
  exact ⟨rfl, rfl⟩

theorem execTempSample_on {s : State} (hon : s.pwrOn = true) (t : Nat) (temps : List Nat) :
    exec (.tempSample t temps) s = .next ((s.at_ t).tempWork (s.sampleTemps temps)) := by
  have hon' : (s.at_ t).pwrOn = true := hon
  simp only [exec, execTempSample, State.atTime_pwr, trip_of_pwrOn hon, hon', Bool.not_true, Bool.false_eq_true, false_and,
    if_false]
  rfl

/-- A trip holds the device until every sensor reads 95 degrees or less (18 R632). -/
theorem execTempSample_trip {s : State} (htrip : s.pwr.trip = true) (t : Nat) (temps : List Nat) :
    exec (.tempSample t temps) s = .next (
      if s.ras.fatal = none ∧ ∀ x ∈ s.sampleTemps temps, x ≤ 95 then
        ({ s.at_ t with pwr := { s.pwr with temps := s.sampleTemps temps, trip := false } } : State).released
      else { s.at_ t with pwr := { s.pwr with temps := s.sampleTemps temps } }) := by
  have hv : (s.at_ t).sampleTemps temps = s.sampleTemps temps := rfl
  simp only [exec, execTempSample, State.atTime_pwr, State.atTime_ras, htrip, hv, Option.isNone_iff_eq_none, List.all_eq_true,
    decide_eq_true_eq, true_and, Bool.not_true, Bool.false_eq_true, and_false, if_false, if_true]
  by_cases hf : s.ras.fatal = none
  · simp only [hf, true_and, if_true]
  · simp only [hf, false_and, if_false]

/-! ### MCTP (15 R544; 18 R627, R628) -/

theorem execMctpControlMessage_down {s : State} (h : s.start = .verify ∨ s.held = true) (c : Nat) (msg : List Byte) :
    exec (.mctpControlMessage c msg) s = .next s := by
  simp only [exec, execMctpControlMessage, if_pos h]

theorem execMctpControlMessage_answers {s : State} (hstart : s.start ≠ .verify) (hheld : s.held = false) (c : Nat)
    (msg : List Byte) : ∃ bs n, exec (.mctpControlMessage c msg) s =
      .next { s with free := n, out := .mctp 0 ([BitVec.ofNat 8 c, 0] ++ bs) :: s.out } := by
  have h : ¬ (s.start = .verify ∨ s.held = true) := by simp [hstart, hheld]
  simp only [exec, execMctpControlMessage, if_neg h]
  exact ⟨_, _, rfl⟩

theorem execPldmPlatformEvent_idle {s : State} (h : s.ras.plat = [] ∨ s.mctpOn = false) :
    exec .pldmPlatformEvent s = .next s := by
  simp only [exec, execPldmPlatformEvent]
  rcases h with h | h
  · rw [h]
  · cases s.ras.plat <;> simp [h]

theorem execPldmPlatformEvent_oldest {s : State} {r : RasRec} {rest : List RasRec} (h : s.ras.plat = r :: rest)
    (hon : s.mctpOn = true) : exec .pldmPlatformEvent s =
      .next { s with ras := { s.ras with plat := rest }, out := .mctp 1 (bytesOf (s.rasWords r)) :: s.out } := by
  simp only [exec, execPldmPlatformEvent, h, hon, if_true]
  rfl

/-! ### The commands of the power block, case by case (01 R29 to R32; 04 R147; 18 R616, R617) -/

section
variable {s : State} {t mv : Nat} (hon : s.pwrOn = true)
include hon

/-- Within the limit a sample times how long the average has stayed low, and does nothing else. -/
theorem powerSample_within (hlo : 600 ≤ mv) (hhi : mv ≤ 900) (hfree : s.pwr.forced = false) (hle : s.avgMw ≤ s.limitMw) :
    ∃ u : State, exec (.powerSample t mv) s = .next u ∧ u.brn = s.brn ∧ u.psa = s.psa ∧ u.hlt = s.hlt ∧
      u.pwr.powerStep = s.pwr.powerStep ∧ u.ras = s.ras ∧
      u.pwr.lowSince = if s.avgMw * 100 < s.limitMw * 97 then some (s.pwr.lowSince.getD (s.at_ t).clk) else none := by
  obtain ⟨w, -, hbrn, hpsa, hhlt, hras, hstep, hlow, -, he⟩ := execPowerSample_inRange hon t hlo hhi
  have hidle : ¬ (s.pwr.forced = true ∨ s.limitMw < s.avgMw) := by
    rintro (h | h)
    · simp [hfree] at h
    · omega
  rw [if_neg hidle] at he
  refine ⟨w, he, hbrn, hpsa, hhlt, hstep, hras, hlow.trans ?_⟩
  have hforced : (s.at_ t).pwr.forced = false := hfree
  simp only [State.lowAfter, hforced, Bool.not_false, Bool.true_and, decide_eq_true_eq]
  rfl

/-- A sample over the limit, or one while steps are forced, takes the action that is left. -/
theorem powerSample_acts (hlo : 600 ≤ mv) (hhi : mv ≤ 900) (hact : s.pwr.forced = true ∨ s.limitMw < s.avgMw) :
    ∃ w : State, w.clk = (s.at_ t).clk ∧ w.brn = s.brn ∧ w.psa = s.psa ∧ w.ras = s.ras ∧ w.pwr.powerStep = s.pwr.powerStep ∧
      w.pwr.lowSince = none ∧ w.reg (pg 0x7C + 0x180) = s.reg (pg 0x7C + 0x180) ∧
      exec (.powerSample t mv) s = .next w.powerDown := by
  obtain ⟨w, hclk, hbrn, hpsa, -, hras, hstep, hlow, hreg, he⟩ := execPowerSample_inRange hon t hlo hhi
  rw [if_pos hact] at he
  exact ⟨w, hclk, hbrn, hpsa, hras, hstep, hlow.trans (lowAfter_none (s := s.at_ t) hact), hreg _ (by decide), he⟩

theorem powerSample_clock (hlo : 600 ≤ mv) (hhi : mv ≤ 900) (hact : s.pwr.forced = true ∨ s.limitMw < s.avgMw)
    (hb : s.brn.step ≠ 8) (hp : s.pwr.powerStep < 8) :
    ∃ u : State, exec (.powerSample t mv) s = .next u ∧ u.pwr.powerStep = s.pwr.powerStep + 1 ∧ u.pwr.lowSince = none ∧
      u.psa = s.psa ∧ u.reg (pg 0x7C + 0x180) = satAdd (s.reg (pg 0x7C + 0x180)) 1 ∧ u.ras = s.ras := by
  obtain ⟨w, -, hbrn, hpsa, hras, hstep, hlow, hreg, he⟩ := powerSample_acts hon hlo hhi hact
  obtain ⟨dpwr, dpsa, dras, dreg⟩ := powerDown_clock (s := w) (by rw [hbrn]; exact hb) (by rw [hstep]; exact hp)
  exact ⟨_, he, by rw [dpwr, hstep], by rw [dpwr, hlow], dpsa.trans hpsa, dreg.trans (congrArg (satAdd · 1) hreg),
    dras.trans hras⟩

theorem powerSample_psa (hlo : 600 ≤ mv) (hhi : mv ≤ 900) (hact : s.pwr.forced = true ∨ s.limitMw < s.avgMw)
    (hb : s.brn.step = 8) (hp : s.psa.powerLevel < 3) :
    ∃ u : State, exec (.powerSample t mv) s = .next u ∧ u.pwr.powerStep = s.pwr.powerStep ∧ u.pwr.lowSince = none ∧
      u.brn = s.brn ∧ u.psa = { s.psa with
        powerLevel := s.psa.powerLevel + 1, slots := (s.at_ t).psaSlots, slotsAt := (s.at_ t).clk } ∧ u.ras = s.ras := by
  obtain ⟨w, hclk, hbrn, hpsa, hras, hstep, hlow, -, he⟩ := powerSample_acts hon hlo hhi hact
  obtain ⟨dpwr, dbrn, dras, dpsa⟩ := powerDown_psa (s := w) (by rw [hbrn]; exact hb) (by rw [hpsa]; exact hp)
  have hslots : w.psaSlots = (s.at_ t).psaSlots := psaSlots_congr hpsa hclk
  exact ⟨_, he, by rw [dpwr, hstep], by rw [dpwr, hlow], dbrn.trans hbrn, by rw [dpsa, hslots, hpsa, hclk], dras.trans hras⟩

/-- With no step left a sample over the limit only ends the low time. -/
theorem powerSample_none (hlo : 600 ≤ mv) (hhi : mv ≤ 900) (hact : s.pwr.forced = true ∨ s.limitMw < s.avgMw)
    (h : (s.brn.step ≠ 8 ∧ 8 ≤ s.pwr.powerStep) ∨ (s.brn.step = 8 ∧ 3 ≤ s.psa.powerLevel)) :
    ∃ u : State, exec (.powerSample t mv) s = .next u ∧ u.pwr.powerStep = s.pwr.powerStep ∧ u.pwr.lowSince = none ∧
      u.brn = s.brn ∧ u.psa = s.psa ∧ u.ras = s.ras := by
  obtain ⟨w, -, hbrn, hpsa, hras, hstep, hlow, -, he⟩ := powerSample_acts hon hlo hhi hact
  rw [powerDown_none (by rwa [hbrn, hpsa, hstep])] at he
  exact ⟨w, he, hstep, hlow, hbrn, hpsa, hras⟩

/-- VCORE out of range for 10 us is FATAL (16 R571). -/
theorem powerSample_fatal {a : Nat} (hout : mv < 600 ∨ 900 < mv) (hbad : s.pwr.senseBad = some a)
    (hlong : a + 10000 ≤ (s.at_ t).clk) (hnone : s.ras.fatal = none) :
    ∃ u : State, exec (.powerSample t mv) s = .next u ∧ u.ras.fatal = some (0x10, mv, (s.at_ t).clk) := by
  obtain ⟨w, hw, he⟩ := execPowerSample_on hon t mv rfl
  have hfatal : w.ras.fatal = some (0x10, mv, (s.at_ t).clk) := by
    rw [hw.ras]
    exact senseCore_fatal (s.at_ t) hout hbad hlong hnone
  refine ⟨_, he, ?_⟩
  split
  · rw [powerDown_ras, hfatal]
  · exact hfatal

variable {a : Nat} (hl : s.pwr.lowSince = some a) (hdue : a + 1000000 ≤ (s.at_ t).clk)
include hl hdue

theorem clockRaise_psa (hp : 0 < s.psa.powerLevel) : ∃ u : State, exec (.clockRaise t) s = .next u ∧
    u.psa = { s.psa with powerLevel := s.psa.powerLevel - 1, slots := (s.at_ t).psaSlots, slotsAt := (s.at_ t).clk } ∧
    u.pwr.powerStep = s.pwr.powerStep ∧ u.brn = s.brn := by
  have he := execClockRaise_due hl hon hdue rfl
  rw [if_pos hp] at he
  have hn := setPsaLevels_notes { s.at_ t with pwr := { s.pwr with lowSince := some (s.at_ t).clk } } s.psa.tempLevel
    (s.psa.powerLevel - 1)
  exact ⟨_, he, hn.psa, by rw [hn.pwr], hn.brn⟩

theorem clockRaise_clock (hp : s.psa.powerLevel = 0) (hq : 0 < s.pwr.powerStep) : ∃ u : State,
    exec (.clockRaise t) s = .next u ∧ u.psa = s.psa ∧ u.pwr.powerStep + 1 = s.pwr.powerStep ∧ u.pwr.tempStep = s.pwr.tempStep := by
  have he := execClockRaise_due hl hon hdue rfl
  rw [if_neg (by omega), if_pos hq] at he
  refine ⟨_, he, State.govern_psa _, ?_, ?_⟩
  · rw [State.govern_pwr]
    exact Nat.sub_add_cancel hq
  · rw [State.govern_pwr]

theorem clockRaise_none (hp : s.psa.powerLevel = 0) (hq : s.pwr.powerStep = 0) : exec (.clockRaise t) s =
    .next { s.at_ t with pwr := { s.pwr with lowSince := some (s.at_ t).clk } } := by
  have he := execClockRaise_due hl hon hdue rfl
  rwa [if_neg (by omega), if_neg (by omega)] at he

end

theorem telemetryLoss_forces {s : State} (hon : s.pwrOn = true) {t : Nat}
    (hlate : s.pwr.frameAt.getD s.resetAt + 16000 ≤ (s.at_ t).clk) (hnew : s.pwr.tlmOk = true ∨ s.pwr.forced = false) :
    ∃ u : State, exec (.telemetryLoss t) s = .next u ∧ u.pwr = { s.pwr with tlmOk := false, forced := true, okSince := none } ∧
      u.reg (pg 0x7C + 0x18C) = satAdd (s.reg (pg 0x7C + 0x18C)) 1 ∧ sameRegsBut s u [pg 0x7C + 0x18C, pg 0x7C + 0x10] :=
  ⟨_, execTelemetryLoss_counts hon hlate hnew, count_pwrPage _ (by decide) (by decide)⟩

theorem vrmHotL_forces {s : State} (hcool : s.pwr.vrmHot = false) :
    ∃ u : State, exec (.vrmHotL true) s = .next u ∧ u.pwr = { s.pwr with vrmHot := true, forced := true, okSince := none } ∧
      u.reg (pg 0x7C + 0x188) = satAdd (s.reg (pg 0x7C + 0x188)) 1 ∧ sameRegsBut s u [pg 0x7C + 0x188, pg 0x7C + 0x10] := by
  refine ⟨_, ?_, count_pwrPage { s with pwr := { s.pwr with vrmHot := true, forced := true, okSince := none } } (i := 3)
    (by decide) (by decide)⟩
  simp only [exec, execVrmHotL, hcool, Bool.false_eq_true, if_true, if_false]

/-- VRM_HOT_L already low: the steps stay forced, and nothing is counted. -/
theorem vrmHotL_again {s : State} (hhot : s.pwr.vrmHot = true) :
    exec (.vrmHotL true) s = .next { s with pwr := { s.pwr with forced := true, okSince := none } } := by
  simp only [exec, execVrmHotL, hhot, if_true]

/-! ### Power and temperature govern (01 R29 to R32; 18 R616 to R632) -/

/-- Settles O57: command after command, the lemma that says what the command does in each of its cases. -/
theorem powerAndTemperatureGovern : Obligations.PowerAndTemperatureGovern := by
  unfold Obligations.PowerAndTemperatureGovern
  refine ⟨fun s t mv rails temps ma hoff => exec_pwrOff hoff t mv rails temps ma,
    fun s t ma rails hon => ⟨_, execTelemetryFrame_on hon t ma rails, rfl, rfl, rfl, rfl, rfl, rfl, rfl, rfl,
      framePwr_forced_iff (s.at_ t) rails ma⟩,
    fun s t mv hon hlo hhi => ⟨powerSample_within hon hlo hhi, fun hact =>
      ⟨powerSample_clock hon hlo hhi hact, powerSample_psa hon hlo hhi hact,
        fun hb hp => powerSample_none hon hlo hhi hact (.inl ⟨hb, hp⟩), fun hb hp => ?bottom⟩⟩,
    fun s t mv a hon => powerSample_fatal hon,
    fun s t => ⟨fun hl => execClockRaise_idle (by simp [hl]),
      fun a hl hlt => execClockRaise_idle (fun b hb => Option.some.inj (hl.symm.trans hb) ▸ hlt),
      fun a hl hon hdue => ⟨clockRaise_psa hon hl hdue, clockRaise_clock hon hl hdue, clockRaise_none hon hl hdue⟩⟩,
    fun s t hon => ⟨fun h => execTelemetryLoss_idle (.inl h), fun ho hf => execTelemetryLoss_idle (.inr ⟨ho, hf⟩),
      telemetryLoss_forces hon⟩,
    fun s => ⟨vrmHotL_forces, vrmHotL_again, rfl⟩,
    fun s t temps hon v hv => ?sample,
    fun s t temps htrip hnone => ⟨fun hcool => ?tripEnds, fun hhot => ?tripHolds⟩,
    fun s t temps htrip hfatal => ?tripFatal,
    fun s c msg => ⟨fun h => execMctpControlMessage_down h c msg, fun hs hh => execMctpControlMessage_answers hs hh c msg⟩,
    fun s => ⟨execPldmPlatformEvent_idle, fun r rest h hup => execPldmPlatformEvent_oldest h hup⟩⟩
  case bottom =>
    obtain ⟨u, he, hstep, -, hrest⟩ := powerSample_none hon hlo hhi hact (t := t) (.inr ⟨hb, hp⟩)
    exact ⟨u, he, hstep, hrest⟩
  case sample =>
    have he := execTempSample_on hon t temps
    rw [← hv] at he
    obtain ⟨hpsa, c, p, hpwr⟩ := tempWork_pwr (s.at_ t) v
    refine ⟨_, he, by rw [hpwr], by rw [hpwr]; rfl, hpsa, ?_, fun i => ?_, fun hctl h hh => ?_, fun hctl => ?_,
      tempWork_calm (s := s.at_ t), fun i => tempWork_trips (s := s.at_ t)⟩
    · rw [hpwr]
      exact tempStepAfter_le (s.at_ t) v
    · rw [hpwr]
      exact mem_doubledAfter
    · rw [hpwr, hh]
      exact ⟨tempStepAfter_hot (s := s.at_ t) hctl, tempStepAfter_between (s := s.at_ t) hctl,
        tempStepAfter_cool (s := s.at_ t) hctl⟩
    · rw [hpwr]
      exact tempStepAfter_off (s := s.at_ t) hctl
  case tripEnds =>
    rw [execTempSample_trip htrip, if_pos ⟨hnone, hcool⟩]
    rfl
  case tripHolds =>
    obtain ⟨x, hx, hhot⟩ := hhot
    rw [execTempSample_trip htrip, if_neg (fun h => Nat.not_lt.2 (h.2 x hx) hhot)]
  case tripFatal =>
    rw [execTempSample_trip htrip, if_neg (fun h => by simp [h.1] at hfatal)]

end Sys2Proof.Machine

/-! Stroke timer (02): what the sync states and the step of local time do, and the stroke that a boundary begins. -/

namespace Sys2Proof.Machine

/-! ### Gates and interrupts leave the stroke timer as it is -/

@[simp] theorem State.raise_stk (s : State) (p i : Nat) : (s.raise p i).stk = s.stk := by rw [(notesOnly_raise s p i).1]

@[simp] theorem State.gateRefresh_stk (s : State) (n : Nat) : (s.gateRefresh n).stk = s.stk := rfl

@[simp] theorem State.gateRefresh_regs (s : State) (n : Nat) : (s.gateRefresh n).regs = s.regs := rfl

@[simp] theorem State.gateStep_stk (s : State) (n : Nat) : (s.gateStep n).stk = s.stk := rfl

/-! ### Sync states (02 R51 to R57) -/

theorem setSync_stk (s : State) (x : Sync) : (s.setSync x).stk = { s.stk with sync := x } := by
  unfold State.setSync
  split
  next h => rw [← h]
  next =>
    exact List.foldlRecOn _ _ (motive := fun t : State => t.stk = { s.stk with sync := x }) (State.raise_stk _ _ _)
      (fun t ht n _ => (State.gateRefresh_stk t n).trans ht)

/-- A change of the sync state notes its interrupt and touches no other register. -/
theorem reg_setSync_ne (s : State) (x : Sync) {a : Nat} (ha : a ≠ pg stkPage + 0x10) : (s.setSync x).reg a = s.reg a := by
  unfold State.setSync
  split
  next => rfl
  next =>
    exact List.foldlRecOn _ _ (motive := fun t : State => t.reg a = s.reg a) (reg_raise_ne _ ha)
      (fun t ht n _ => (reg_of_regs (State.gateRefresh_regs t n) a).trans ht)

theorem unlock_stk (s : State) : s.unlock.stk = { s.stk with good := 0, stepped := false, sync := .unlocked } :=
  setSync_stk _ _

theorem stepTime_stk (s : State) (x : Int) : (s.stepTime x).stk =
    (State.stepStroke { s with stk := { s.stk with off := s.stk.off - x, stepped := true } }).stk :=
  List.foldlRecOn _ _ (motive := fun t : State => t.stk = _) rfl (fun t ht n _ => (State.gateStep_stk t n).trans ht)

theorem stepTime_stk_idle {s : State} (h : s.stk.running = false) (x : Int) :
    (s.stepTime x).stk = { s.stk with off := s.stk.off - x, stepped := true } := by
  rw [stepTime_stk, State.stepStroke]
  exact congrArg State.stk (if_neg (by simp [h]))

/-- A message of a fresh lock counts and may lock; what else it moves is the step of local time, before it. -/
theorem freshLock_stk (s : State) (x : Int) {g : Nat} (hg : g = if x.natAbs ≤ s.syncLimit then s.stk.good + 1 else 0)
    {t : State} (ht : t = if s.stk.stepped then s else s.stepTime x) : ∃ r, (s.freshLock x).stk =
      { t.stk with good := g, readyAt := r, sync := if 16 ≤ g then .locked else t.stk.sync } := by
  simp only [State.freshLock, ← hg, ← ht]
  split
  · by_cases ha : t.stk.sync = .acquiring
    · simp only [ha, if_true]
      exact ⟨_, setSync_stk _ _⟩
    · simp only [ha, if_false]
      exact ⟨_, setSync_stk _ _⟩
  · exact ⟨_, rfl⟩

/-! ### The stroke that a boundary begins (02 R43 to R48) -/

/-- A state whose memories are canonical and whose keys rise has come from itself. -/
theorem keep_self {s : State} (hm : s.memOk = true) (hk : s.keysRise) : Keep true true s s := by
  simp only [State.memOk, Bool.and_eq_true] at hm
  obtain ⟨⟨⟨hhost0, hhost1⟩, hpage⟩, hcxl⟩ := hm
  exact ⟨⟨hhost0, hhost1, hpage, hcxl⟩, rfl, rfl, le_rfl, fun _ => ⟨le_rfl, List.prefix_rfl, fun h => ⟨h, le_rfl⟩⟩,
    fun _ => ⟨rfl, rfl, rfl, rfl, rfl, rfl, rfl, rfl, rfl, rfl⟩, hk⟩

/-- Nothing waits for the boundary: no commit or rollback is armed, no re-plan is due, no takeover waits. -/
def State.quiet (s : State) : Prop := s.cfg.armed = none ∧ s.replanDue = false ∧ s.stk.take = []

/-- The windows that the old stroke has not closed close (02 R72). -/
def State.oldStrokeShut (s : State) : State :=
  if s.stk.running then (List.range 4).foldl (fun s c => if s.winSt c = .closed then s else s.windowShut c) s else s

/-- Stroke `n` has begun at local time `b`, before editions and grids apply. -/
def State.strokeBegun (s : State) (n : Nat) (b : Int) : State :=
  { s.oldStrokeShut with stk := { s.oldStrokeShut.stk with
      running := true, stroke := n, boundary := s.oldStrokeShut.devTime b, win := [.before, .before, .before, .before] } }

theorem Keep.quiet {ρ : Bool} {z s : State} (h : Keep true ρ z s) (hq : z.quiet) : s.quiet := by
  obtain ⟨-, -, -, -, -, hbanks, -⟩ := h
  obtain ⟨-, -, -, harmed, -, -, -, htake, hready, hfloor⟩ := hbanks rfl
  obtain ⟨qarmed, qdue, qtake⟩ := hq
  exact ⟨harmed.trans qarmed, by rw [← qdue, State.replanDue, State.replanDue, hready, hfloor], htake.trans qtake⟩

theorem Keep.running_stroke {β : Bool} {z s : State} (h : Keep β true z s) (hr : z.stk.running = true) :
    s.stk.running = true ∧ z.stk.stroke ≤ s.stk.stroke := by
  obtain ⟨-, -, -, -, hup, -⟩ := h
  obtain ⟨-, -, hstk⟩ := hup rfl
  exact hstk hr

theorem Keep.act_edition {ρ : Bool} {z s : State} (h : Keep true ρ z s) : s.act = z.act ∧ s.cfg.edition = z.cfg.edition := by
  obtain ⟨-, -, -, -, -, hbanks, -⟩ := h
  obtain ⟨hact, -, hed, -⟩ := hbanks rfl
  exact ⟨hact, hed⟩

theorem Keep.stroke {ρ : Bool} {z s : State} (h : Keep true ρ z s) : s.stk.stroke = z.stk.stroke := by
  obtain ⟨-, -, -, -, -, hbanks, -⟩ := h
  obtain ⟨-, -, -, -, -, hstroke, -⟩ := hbanks rfl
  exact hstroke

/-- The state in which a stroke has begun has come from itself, if the state before it had. -/
theorem keep_strokeBegun {s : State} (h : Keep true true s s) (n : Nat) (b : Int) :
    Keep true true (s.strokeBegun n b) (s.strokeBegun n b) := by
  obtain ⟨hmem, -, -, -, -, -, htbl⟩ := keep_strokeEnd s h
  exact ⟨hmem, rfl, rfl, le_rfl, fun _ => ⟨le_rfl, List.prefix_rfl, fun h => ⟨h, le_rfl⟩⟩,
    fun _ => ⟨rfl, rfl, rfl, rfl, rfl, rfl, rfl, rfl, rfl, rfl⟩, htbl⟩

/-- Editions and grids apply first; the rest of a boundary keeps what they leave. -/
theorem keep_beginStroke_from {β ρ : Bool} {z : State} (s : State) (n : Nat) (b : Int)
    (h : Keep β ρ z ((((s.strokeBegun n b).takeGrid b).cfgBoundary b).takeGrid b)) : Keep β ρ z (s.beginStroke n b) := by
  unfold State.strokeBegun State.oldStrokeShut at h
  unfold State.beginStroke
  generalize (if s.stk.running then _ else s) = t at h
  simp only []
  generalize State.takeGrid (State.cfgBoundary (State.takeGrid _ b) b) b = u at h
  have hskip : Keep β ρ z (if t.stk.running = true then u.skip (u.stk.stroke - t.stk.stroke - 1) else u) := by
    split
    · exact keep_skip _ _ h
    · exact h
  have hraise := keep_raise _ stkPage 0 hskip
  generalize State.raise _ stkPage 0 = w at hraise
  exact keep_strokeWork w t.stk.running hraise rfl

/-- Where nothing waits, a boundary applies no edition and no grid. -/
theorem boundary_of_quiet {s : State} (hq : s.quiet) (b : Int) : ((s.takeGrid b).cfgBoundary b).takeGrid b = s := by
  obtain ⟨harmed, hdue, htake⟩ := hq
  have hgrid : s.takeGrid b = s := by simp [State.takeGrid, htake]
  have hcfg : s.cfgBoundary b = s := by simp [State.cfgBoundary, harmed, hdue]
  rw [hgrid, hcfg, hgrid]

/-- A stroke begins, with the number of the boundary or a greater one that a takeover brings. -/
theorem beginStroke_running {s : State} (hm : s.memOk = true) (hk : s.keysRise) (n : Nat) (b : Int) :
    (s.beginStroke n b).stk.running = true ∧ n ≤ (s.beginStroke n b).stk.stroke := by
  have hz : Keep false true (s.strokeBegun n b) (s.strokeBegun n b) :=
    (keep_strokeBegun (keep_self hm hk) n b).weaken (fun h => nomatch h) id
  exact (keep_beginStroke_from s n b
    (keep_takeGrid _ b (keep_cfgBoundary _ b (keep_takeGrid _ b hz)))).running_stroke rfl

/-- Where nothing waits, the stroke of the boundary begins and configuration stays as it is. -/
theorem beginStroke_quiet {s : State} (hm : s.memOk = true) (hk : s.keysRise) (hq : s.quiet) (n : Nat) (b : Int) :
    (s.beginStroke n b).stk.stroke = n ∧ (s.beginStroke n b).act = s.act ∧
      (s.beginStroke n b).cfg.edition = s.cfg.edition := by
  have hold := keep_strokeEnd s (keep_self hm hk)
  have hbegun : (s.strokeBegun n b).quiet := hold.quiet hq
  have hz := keep_strokeBegun (keep_self hm hk) n b
  have h : Keep true true (s.strokeBegun n b) (s.beginStroke n b) :=
    keep_beginStroke_from s n b (by rw [boundary_of_quiet hbegun]; exact hz)
  exact ⟨h.stroke, h.act_edition.1.trans hold.act_edition.1, h.act_edition.2.trans hold.act_edition.2⟩

/-! ### The step of local time (02 R57) -/

/-- The stroke of the grid in force that local time has reached. -/
def State.strokeReached (s : State) : Nat := ((s.local_ - s.stk.epoch) / ((s.stk.period * 10 : Nat) : Int)).toNat

section
variable {s : State} (hr : s.stk.running = true) (hm : s.memOk = true) (hk : s.keysRise)
include hr hm hk

theorem stepStroke_running : s.stepStroke.stk.running = true ∧ s.stk.stroke ≤ s.stepStroke.stk.stroke :=
  (keep_stepStroke s ((keep_self hm hk).weaken (fun h => nomatch h) id)).running_stroke hr

/-- The stroke after a step is the present one, or the one that PTP time has reached. -/
theorem stepStroke_stroke (hq : s.quiet) : s.stepStroke.stk.stroke =
    if (s.stk.epoch : Int) ≤ s.local_ then max s.stk.stroke s.strokeReached else s.stk.stroke := by
  obtain ⟨-, -, htake⟩ := id hq
  have hgo : s.stepStroke = if (s.stk.epoch : Int) ≤ s.local_ ∧ s.stk.stroke < s.strokeReached then
        s.beginStroke s.strokeReached (s.strokeStart s.strokeReached)
      else { s with stk := { s.stk with boundary := s.devTime (s.strokeStart s.stk.stroke) } } := by
    simp only [State.stepStroke, if_pos hr, htake, List.filter_nil, List.getLast?_nil, State.strokeReached, State.strokeStart]
  rw [hgo]
  by_cases he : (s.stk.epoch : Int) ≤ s.local_
  · rw [if_pos he]
    split
    next h => rw [(beginStroke_quiet hm hk hq _ _).1, max_eq_right h.2.le]
    next h => exact (max_eq_left (not_lt.1 (fun hlt => h ⟨he, hlt⟩))).symm
  · rw [if_neg he, if_neg (fun h => he h.1)]

end

/-! ### The next boundary (02 R41, R43) -/

/-- The quotient rounded up: the least multiple that reaches a number. -/
theorem ceilDiv'_le_iff {n m c : Nat} (hm : 0 < m) : ceilDiv' n m ≤ c ↔ n ≤ m * c := ceilDiv_le_iff_le_mul hm

theorem nextBoundary_running {s : State} (htake : s.stk.take = []) (hr : s.stk.running = true) :
    s.nextBoundary = (s.stk.stroke + 1, s.strokeStart (s.stk.stroke + 1)) := by
  simp only [State.nextBoundary, if_pos hr, htake]

/-- Before the first stroke the next boundary is the first of the grid from the time of readiness on. -/
theorem nextBoundary_first {s : State} (hr : s.stk.running = false) (hp : 0 < s.stk.period) : ∃ n,
    s.nextBoundary = (n, s.strokeStart n) ∧ ((s.stk.readyAt : Int) + s.stk.off ≤ s.strokeStart n ∧
      ∀ k < n, s.strokeStart k < (s.stk.readyAt : Int) + s.stk.off) := by
  refine ⟨_, if_neg (by simp [hr]), ?_⟩
  simp only [State.strokeStart]
  split
  next hle => exact ⟨by simpa using hle, fun k hk => absurd hk (Nat.not_lt_zero k)⟩
  next hlt =>
    have hpos : 0 < s.stk.period * 10 := by omega
    refine ⟨?_, fun k hk => ?_⟩
    · have h := (ceilDiv'_le_iff (n := ((s.stk.readyAt : Int) + s.stk.off - s.stk.epoch).toNat) hpos).1 le_rfl
      rw [Nat.mul_comm] at h
      omega
    · have h := mt (ceilDiv'_le_iff hpos).2 (not_le.2 hk)
      rw [Nat.mul_comm] at h
      omega

/-! ### The commands of time synchronization, case by case (02 R43, R49, R51 to R57; 18 R622) -/

theorem strokeBoundary_waits {s : State} {t : Nat} (h : s.stk.sync = .acquiring ∨ (s.at_ t).local_ < s.nextBoundary.2) :
    exec (.strokeBoundary t) s = .next (s.at_ t) :=
  congrArg Host.Outcome.next (if_pos h)

theorem execStrokeBoundary_begins {s : State} {t : Nat} (hsync : s.stk.sync ≠ .acquiring)
    (hdue : s.nextBoundary.2 ≤ (s.at_ t).local_) :
    exec (.strokeBoundary t) s = .next ((s.at_ t).beginStroke s.nextBoundary.1 s.nextBoundary.2) :=
  congrArg Host.Outcome.next (if_neg (by rintro (h | h); exacts [hsync h, not_lt.2 hdue h]))

theorem strokeBoundary_begins {s : State} {t : Nat} (hm : s.memOk = true) (hk : s.keysRise) (hsync : s.stk.sync ≠ .acquiring)
    (hdue : s.nextBoundary.2 ≤ (s.at_ t).local_) : ∃ u : State, exec (.strokeBoundary t) s = .next u ∧
      u.stk.running = true ∧ (s.stk.running = true → s.stk.stroke < u.stk.stroke) ∧
      (s.cfg.armed = none → s.replanDue = false → s.stk.take = [] →
        u.stk.stroke = s.nextBoundary.1 ∧ u.act = s.act ∧ u.cfg.edition = s.cfg.edition) := by
  have hrun := beginStroke_running (s := s.at_ t) hm hk s.nextBoundary.1 s.nextBoundary.2
  exact ⟨_, execStrokeBoundary_begins hsync hdue, hrun.1, fun hr => lt_of_lt_of_le (nextBoundary_up s hr) hrun.2,
    fun harmed hplan htake => beginStroke_quiet (s := s.at_ t) hm hk ⟨harmed, hplan, htake⟩ _ _⟩

theorem nextBoundary_onGrid {s : State} (htake : s.stk.take = []) (hp : 0 < s.stk.period) {n : Nat} {b : Int}
    (h : s.nextBoundary = (n, b)) : b = (s.stk.epoch : Int) + (n : Int) * ((s.stk.period : Int) * 10) ∧
      (s.stk.running = true → n = s.stk.stroke + 1) ∧
      (s.stk.running = false → (s.stk.readyAt : Int) + s.stk.off ≤ b ∧
        ∀ k, k < n → (s.stk.epoch : Int) + (k : Int) * ((s.stk.period : Int) * 10) < (s.stk.readyAt : Int) + s.stk.off) := by
  have hstart : ∀ k, s.strokeStart k = (s.stk.epoch : Int) + (k : Int) * ((s.stk.period : Int) * 10) := fun k => by
    simp [State.strokeStart]
  cases hr : s.stk.running with
  | true =>
    rw [nextBoundary_running htake hr, Prod.mk.injEq] at h
    obtain ⟨rfl, rfl⟩ := h
    exact ⟨hstart _, fun _ => rfl, fun h => absurd h (by decide)⟩
  | false =>
    obtain ⟨k, hk, hready, hfirst⟩ := nextBoundary_first hr hp
    rw [hk, Prod.mk.injEq] at h
    obtain ⟨rfl, rfl⟩ := h
    exact ⟨hstart _, fun h => absurd h (by decide), fun _ => ⟨hready, fun j hj => hstart j ▸ hfirst j hj⟩⟩

/-- A Sync message has measured an offset. -/
def State.measured (s : State) (t : Nat) (x : Int) : State :=
  { s.at_ t with stk := { s.stk with offset := x, lastSync := (s.at_ t).clk } }

/-- What the message leads to in each sync state (02 R51 to R56). -/
def State.syncEnd (s : State) (x : Int) : Sync → State
  | .acquiring => s.freshLock x
  | .unlocked => s.freshLock x
  | .locked => if s.stkFld 0x12C 0 16 < x.natAbs then s.unlock else s
  | .holdover =>
    if x.natAbs ≤ s.syncLimit then s.setSync .locked
    else if s.stkFld 0x12C 0 16 < x.natAbs then s.unlock else s

section
variable {s : State} {t : Nat} {x : Int}

theorem exec_syncMessage (t : Nat) (x : Int) (s : State) : exec (.syncMessage t x) s = execSyncMessage t x s := rfl

theorem execSyncMessage_measured : exec (.syncMessage t x) s = .next ((s.measured t x).syncEnd x s.stk.sync) := by
  unfold State.syncEnd
  cases h : s.stk.sync <;> simp only [exec_syncMessage, execSyncMessage, State.atTime_stk, State.measured, h]

theorem syncMessage_locked (h : s.stk.sync = .locked) (hx : x.natAbs ≤ s.stkFld 0x12C 0 16) :
    exec (.syncMessage t x) s = .next (s.measured t x) := by
  rw [execSyncMessage_measured, h]
  exact congrArg _ (if_neg (not_lt.2 hx))

/-- An offset beyond STEP_LIMIT unlocks (02 R54). -/
theorem syncMessage_unlocks (h : s.stk.sync = .locked ∨ (s.stk.sync = .holdover ∧ s.syncLimit < x.natAbs))
    (hx : s.stkFld 0x12C 0 16 < x.natAbs) : ∃ u : State, exec (.syncMessage t x) s = .next u ∧
      u.stk = { (s.measured t x).stk with good := 0, stepped := false, sync := .unlocked } := by
  refine ⟨(s.measured t x).unlock, ?_, unlock_stk _⟩
  rw [execSyncMessage_measured]
  rcases h with h | ⟨h, hlim⟩ <;> rw [h]
  · exact congrArg _ (if_pos hx)
  · exact congrArg _ ((if_neg (not_le.2 hlim)).trans (if_pos hx))

theorem syncMessage_relocks (h : s.stk.sync = .holdover) (hx : x.natAbs ≤ s.syncLimit) :
    ∃ u : State, exec (.syncMessage t x) s = .next u ∧ u.stk = { (s.measured t x).stk with sync := .locked } := by
  refine ⟨(s.measured t x).setSync .locked, ?_, setSync_stk _ _⟩
  rw [execSyncMessage_measured, h]
  exact congrArg _ (if_pos hx)

theorem syncMessage_holds (h : s.stk.sync = .holdover) (hlim : s.syncLimit < x.natAbs) (hx : x.natAbs ≤ s.stkFld 0x12C 0 16) :
    exec (.syncMessage t x) s = .next (s.measured t x) := by
  rw [execSyncMessage_measured, h]
  exact congrArg _ ((if_neg (not_le.2 hlim)).trans (if_neg (not_lt.2 hx)))

section
variable {g : Nat} (h : s.stk.sync = .acquiring ∨ s.stk.sync = .unlocked)
  (hg : g = if x.natAbs ≤ s.syncLimit then s.stk.good + 1 else 0)
include h hg

/-- A message of a fresh lock, by the state in which it leaves local time. -/
theorem syncMessage_fresh {v : State} (hv : v = if s.stk.stepped then s.measured t x else (s.measured t x).stepTime x) :
    ∃ u : State, exec (.syncMessage t x) s = .next u ∧
      ∃ r, u.stk = { v.stk with good := g, readyAt := r, sync := if 16 ≤ g then .locked else v.stk.sync } := by
  refine ⟨(s.measured t x).freshLock x, ?_, freshLock_stk (s.measured t x) x hg hv⟩
  rw [execSyncMessage_measured]
  rcases h with h | h
  · rw [h, State.syncEnd]
  · rw [h, State.syncEnd]

theorem syncMessage_stepped (hs : s.stk.stepped = true) : ∃ u : State, exec (.syncMessage t x) s = .next u ∧
    u.stk.off = s.stk.off ∧ u.stk.good = g ∧ u.stk.stroke = s.stk.stroke ∧
    u.stk.sync = if 16 ≤ g then .locked else s.stk.sync := by
  obtain ⟨u, he, r, hu⟩ := syncMessage_fresh h hg (t := t) (if_pos hs).symm
  exact ⟨u, he, by rw [hu]; exact ⟨rfl, rfl, rfl, rfl⟩⟩

theorem syncMessage_steps_idle (hs : s.stk.stepped = false) (hr : s.stk.running = false) :
    ∃ u : State, exec (.syncMessage t x) s = .next u ∧ u.stk.off = s.stk.off - x ∧ u.stk.stepped = true ∧ u.stk.good = g ∧
      u.stk.running = false ∧ u.stk.sync = if 16 ≤ g then .locked else s.stk.sync := by
  obtain ⟨u, he, r, hu⟩ := syncMessage_fresh h hg (t := t) (if_neg (by simp [hs])).symm
  rw [stepTime_stk_idle (s := s.measured t x) hr x] at hu
  exact ⟨u, he, by rw [hu]; exact ⟨rfl, rfl, rfl, hr, rfl⟩⟩

theorem syncMessage_steps_running (hs : s.stk.stepped = false) (hr : s.stk.running = true) (hm : s.memOk = true)
    (hk : s.keysRise) : ∃ u : State, exec (.syncMessage t x) s = .next u ∧
      u.stk.running = true ∧ s.stk.stroke ≤ u.stk.stroke ∧
      (s.cfg.armed = none → s.replanDue = false → s.stk.take = [] → ∀ l : Int, l = (s.at_ t).local_ - x → u.stk.stroke =
        if (s.stk.epoch : Int) ≤ l then max s.stk.stroke ((l - s.stk.epoch) / ((s.stk.period : Int) * 10)).toNat
        else s.stk.stroke) := by
  obtain ⟨u, he, r, hu⟩ := syncMessage_fresh h hg (t := t) (if_neg (by simp [hs])).symm
  rw [stepTime_stk] at hu
  obtain ⟨v, hv⟩ : ∃ v : State, v = { s.measured t x with
    stk := { (s.measured t x).stk with off := (s.measured t x).stk.off - x, stepped := true } } := ⟨_, rfl⟩
  rw [← hv] at hu
  have hvr : v.stk.running = true := by rw [hv]; exact hr
  have hvm : v.memOk = true := by rw [hv]; exact hm
  have hvk : v.keysRise := by rw [hv]; exact hk
  have hvs : v.stk.stroke = s.stk.stroke := by rw [hv]; rfl
  obtain ⟨hrun, hup⟩ := stepStroke_running hvr hvm hvk
  refine ⟨u, he, by rw [hu]; exact hrun, by rw [hu, ← hvs]; exact hup, fun harmed hplan htake l hl => ?_⟩
  have hl' : l = v.local_ := by
    rw [hl, hv]
    exact Int.add_sub_assoc _ _ _
  have hreached : v.strokeReached = ((l - s.stk.epoch) / ((s.stk.period : Int) * 10)).toNat := by
    rw [State.strokeReached, ← hl', hv, Nat.cast_mul]
    rfl
  have hepoch : v.stk.epoch = s.stk.epoch := by rw [hv]; rfl
  rw [hu]
  refine (stepStroke_stroke hvr hvm hvk (by rw [hv]; exact ⟨harmed, hplan, htake⟩)).trans ?_
  rw [hreached, hvs, hepoch, ← hl']

end

/-! ### Holdover (02 R53) -/

theorem syncLoss_holdover (h : s.stk.sync = .locked)
    (hdue : s.stk.lastSync + s.stkFld 0x11C 20 4 * s.syncInterval ≤ (s.at_ t).clk) :
    ∃ u : State, exec (.syncLoss t) s = .next u ∧
      u.stk = { s.stk with sync := .holdover, est := s.stk.offset.natAbs, estAt := (s.at_ t).clk } ∧
      u.reg (pg 0x03 + 0x1A0) = satAdd (s.reg (pg 0x03 + 0x1A0)) 1 := by
  refine ⟨_, congrArg Host.Outcome.next (if_pos ⟨h, hdue⟩), setSync_stk _ _, ?_⟩
  rw [reg_setSync_ne _ _ (by decide)]
  exact reg_bump_one _ (by decide)

theorem syncLoss_idle (h : s.stk.sync ≠ .locked ∨ (s.at_ t).clk < s.stk.lastSync + s.stkFld 0x11C 20 4 * s.syncInterval) :
    exec (.syncLoss t) s = .next (s.at_ t) :=
  congrArg Host.Outcome.next (if_neg (by rintro ⟨hl, hd⟩; rcases h with h | h; exacts [h hl, not_lt.2 hd h]))

theorem holdoverLimit_unlocks (h : s.stk.sync = .holdover) (hest : 2 * s.syncLimit * 10 ^ 9 <
      s.stk.est * 10 ^ 9 + ((s.at_ t).clk - s.stk.estAt) * s.stkFld 0x11C 12 8) :
    ∃ u : State, exec (.holdoverLimit t) s = .next u ∧ u.stk = { s.stk with sync := .unlocked, good := 0, stepped := false } :=
  ⟨_, congrArg Host.Outcome.next (if_pos ⟨h, hest⟩), unlock_stk _⟩

theorem holdoverLimit_idle (h : s.stk.sync ≠ .holdover ∨
      s.stk.est * 10 ^ 9 + ((s.at_ t).clk - s.stk.estAt) * s.stkFld 0x11C 12 8 ≤ 2 * s.syncLimit * 10 ^ 9) :
    exec (.holdoverLimit t) s = .next (s.at_ t) :=
  congrArg Host.Outcome.next (if_neg (by rintro ⟨hh, he⟩; rcases h with h | h; exacts [h hh, not_lt.2 h he]))

/-! ### Pulses (02 R53; 18 R622) -/

section
variable {d : Int} (hd : d = (s.at_ t).local_ % 10 ^ 9)
include hd

/-- The phase in the second decides whether an edge lies near a second boundary. -/
theorem nearSecond_iff : (s.at_ t).nearSecond = true ↔ d ≤ 1000 ∨ 999999000 ≤ d := by
  have h0 : 0 ≤ (s.at_ t).local_ % 1000000000 := Int.emod_nonneg _ (by decide)
  have hd' : (s.at_ t).local_ % 1000000000 = d := hd.symm
  rw [State.nearSecond, decide_eq_true_iff]
  omega

theorem execPpsEdge_cases : exec (.ppsEdge t) s = .next (
    if s.stk.sync = .holdover ∧ (d ≤ 1000 ∨ 999999000 ≤ d) ∧ bit (s.cfgReg (pg stkPage + 0x11C)) 31 = true then
      { s.at_ t with stk := { s.stk with ppsAt := some (s.at_ t).clk, est := 5 * s.stkFld 0x11C 24 4, estAt := (s.at_ t).clk } }
    else { s.at_ t with stk := { s.stk with ppsAt := some (s.at_ t).clk } }) := by
  refine congrArg Host.Outcome.next (if_congr ?_ rfl rfl)
  rw [Bool.and_eq_true, Bool.and_eq_true, decide_eq_true_iff, and_assoc]
  exact and_congr_right fun _ => and_congr_left fun _ => nearSecond_iff hd

theorem execPpsOut_cases : exec (.ppsOut t) s = .next (
    if (s.stk.sync = .locked ∨ s.stk.sync = .holdover) ∧ bit (s.cfgReg (pg 0x7C + 0x100)) 1 = true ∧ d = 0 then
      (s.at_ t).send .pps else s.at_ t) := by
  subst hd
  rfl

end
end

theorem peerDelayRequest_answers {s : State} {n : Nat} :
    ((s.netPort n).up = true → ∃ k, exec (.peerDelayRequest n) s = .next (s.enqFrame n 7 k .peerDelay)) ∧
    ((s.netPort n).up = false → exec (.peerDelayRequest n) s = .next s) :=
  ⟨fun _ => ⟨_, rfl⟩, fun h => congrArg Host.Outcome.next (if_neg (by simp [h]))⟩

/-- Settles O1: command after command, the lemma that says what the command does in each of its cases. -/
theorem timeIsKept : Obligations.TimeIsKept := by
  unfold Obligations.TimeIsKept
  refine ⟨fun s t => ⟨strokeBoundary_waits, strokeBoundary_begins⟩, fun s htake hp n b => nextBoundary_onGrid htake hp,
    fun s t x w hw lim step hlim hstep => ?message,
    fun s t => ⟨syncLoss_holdover, syncLoss_idle, holdoverLimit_unlocks, holdoverLimit_idle⟩,
    fun s t d hd => ⟨fun hs hb hnear => ?edgeUsed, fun h => ?edgeOnly, fun hs hb h0 => ?pulse, fun h => ?noPulse⟩,
    fun s n => peerDelayRequest_answers⟩
  case message =>
    subst hw hlim hstep
    exact ⟨syncMessage_locked, syncMessage_unlocks, syncMessage_relocks, syncMessage_holds, fun g h hg =>
      ⟨syncMessage_stepped h hg, syncMessage_steps_idle h hg, syncMessage_steps_running h hg⟩⟩
  case edgeUsed => rw [execPpsEdge_cases hd, if_pos ⟨hs, hnear, hb⟩]
  case edgeOnly =>
    refine (execPpsEdge_cases hd).trans (congrArg _ (if_neg ?_))
    rintro ⟨hs, hnear, hb⟩
    rcases h with h | h | h
    · exact h hs
    · exact Bool.false_ne_true (h.symm.trans hb)
    · omega
  case pulse => rw [execPpsOut_cases hd, if_pos ⟨hs, hb, h0⟩]
  case noPulse =>
    refine (execPpsOut_cases hd).trans (congrArg _ (if_neg ?_))
    rintro ⟨hs, hb, h0⟩
    rcases h with ⟨hl, hh⟩ | h | h
    · exact hs.elim hl hh
    · exact Bool.false_ne_true (h.symm.trans hb)
    · exact h h0

end Sys2Proof.Machine

/-! Stroke programs (02): rings and headers, record fetches, class windows, the start of records and summaries. -/

namespace Sys2Proof.Machine

/-! ### Counters leave the blocks as they are -/

@[simp] theorem State.count_stk (s : State) (p o i : Nat) : (s.count p o i).stk = s.stk := by rw [count_eq]
@[simp] theorem State.count_que (s : State) (p o i : Nat) : (s.count p o i).que = s.que := by rw [count_eq]
@[simp] theorem State.count_page (s : State) (p o i : Nat) : (s.count p o i).page = s.page := by rw [count_eq]

/-! ### Rings and headers (02 R59 to R62, R65) -/

theorem stkPringTail_ignored {s : State} {p : Nat} {v : Word}
    (h : 2 ≤ p ∨ s.pageOn (.port p) 0x03 = false ∨ s.pringSize p ≤ fld v 0 12) : exec (.stkPringTail p v) s = .next s := by
  refine congrArg Host.Outcome.next ?_
  split
  next hon =>
    obtain ⟨hp, hpage⟩ := hon
    refine if_neg (not_lt.2 ?_)
    rcases h with h | h | h
    · omega
    · exact absurd (h.symm.trans hpage) Bool.false_ne_true
    · exact h
  next => rfl

theorem stkPringTail_set {s : State} {p : Nat} {v : Word} (hp : p < 2) (hpage : s.pageOn (.port p) 0x03 = true)
    (hv : fld v 0 12 < s.pringSize p) :
    exec (.stkPringTail p v) s = .next (s.setReg (pringAddr p + 0x10) (w32 (fld v 0 12))) :=
  congrArg Host.Outcome.next ((if_pos ⟨hp, hpage⟩).trans (if_pos hv))

/-- HEAD of a port's ring. -/
def State.pringHead (s : State) (p : Nat) : Nat := fld (s.reg (pringAddr p + 0xC)) 0 12

/-- Address of the header at HEAD. -/
def State.headerAt (s : State) (p : Nat) : Nat :=
  (s.reg (pringAddr p)).toNat + 2 ^ 32 * (s.reg (pringAddr p + 4)).toNat + 64 * s.pringHead p

/-- HEAD has passed over a header. -/
def State.headPassed (s : State) (p : Nat) : State :=
  s.setReg (pringAddr p + 0xC) (w32 ((s.pringHead p + 1) % s.pringSize p))

/-- A port's next header is read now: the tail has passed it and fewer than two are held (02 R60). -/
def State.headerDue (s : State) (p : Nat) : Prop :=
  s.fetches p = true ∧ s.pringHead p < s.pringSize p ∧ s.pringHead p ≠ fld (s.reg (pringAddr p + 0x10)) 0 12 ∧
    (s.stk.progs.filter (fun x => decide (x.port = p))).length < 2

/-- The target of a header lies before that of the header before it (02 R61). -/
def State.targetFalls (s : State) (p : Nat) (ws : List Word) : Bool := (s.prevTarget p).any (fun x => decide (wd64 ws 0 < x))

theorem headerFetch_idle {s : State} {p : Nat} (h : s.fetches p = false ∨ s.pringSize p ≤ s.pringHead p ∨
    s.pringHead p = fld (s.reg (pringAddr p + 0x10)) 0 12 ∨
    2 ≤ (s.stk.progs.filter (fun x => decide (x.port = p))).length) : exec (.headerFetch p) s = .next s :=
  congrArg Host.Outcome.next (if_pos (by rwa [Bool.not_eq_true']))

/-- What the read of a header leads to: none on a bus error, else its bytes (02 R61, R65). -/
def State.headerEnd (s : State) (p : Nat) : Option (List Byte) → State
  | none => s.raise 0x03 5
  | some bs =>
    let ws := wordsOf bs
    let s1 := s.setPrevTarget p (some (wd64 ws 0))
    if s.targetFalls p ws || headerBad ws then (s1.summary p ws .badCommand (wd64 ws 0) 0 0 0 0).raise 0x03 5
    else (s1.holdHeader p ws).dropHeaders

theorem execHeaderFetch_due {s : State} {p : Nat} (h : s.headerDue p) :
    exec (.headerFetch p) s = .next ((s.headPassed p).headerEnd p (s.hostRead p (s.headerAt p) 64)) := by
  obtain ⟨hf, hn, htail, hheld⟩ := h
  refine congrArg Host.Outcome.next ((if_neg ?_).trans ?_)
  · rw [Bool.not_eq_true', hf]
    rintro (h | h | h | h)
    exacts [absurd h (by decide), not_lt.2 h hn, htail h, not_lt.2 h hheld]
  · unfold State.headerAt State.pringHead
    dsimp only
    cases s.hostRead p _ 64 with
    | none => rfl
    | some bs =>
      unfold State.headerEnd State.targetFalls State.headPassed State.pringHead
      dsimp only
      cases (s.setReg _ _).prevTarget p <;> rfl

theorem headerFetch_busError {s : State} {p : Nat} (h : s.headerDue p) (hread : s.hostRead p (s.headerAt p) 64 = none) :
    exec (.headerFetch p) s = .next ((s.headPassed p).raise 0x03 5) := by
  rw [execHeaderFetch_due h, hread]
  rfl

theorem targetFalls_headPassed (s : State) (p : Nat) (ws : List Word) : (s.headPassed p).targetFalls p ws = s.targetFalls p ws := rfl

theorem targetFalls_iff {s : State} {p : Nat} {ws : List Word} :
    s.targetFalls p ws = true ↔ ∃ x, s.prevTarget p = some x ∧ wd64 ws 0 < x := by
  simp [State.targetFalls, Option.any_eq_true]

section
variable {s : State} {p : Nat} (h : s.headerDue p) {bs : List Byte} (hread : s.hostRead p (s.headerAt p) 64 = some bs)
include h hread

theorem headerFetch_refused (hbad : headerBad (wordsOf bs) = true ∨ ∃ x, s.prevTarget p = some x ∧ wd64 (wordsOf bs) 0 < x) :
    exec (.headerFetch p) s = .next ((((s.headPassed p).setPrevTarget p (some (wd64 (wordsOf bs) 0))).summary p (wordsOf bs)
      .badCommand (wd64 (wordsOf bs) 0) 0 0 0 0).raise 0x03 5) := by
  rw [execHeaderFetch_due h, hread]
  refine congrArg _ (if_pos ?_)
  rwa [targetFalls_headPassed, Bool.or_eq_true, targetFalls_iff, or_comm]

theorem headerFetch_held (hgood : headerBad (wordsOf bs) = false)
    (hrises : ∀ x, s.prevTarget p = some x → x ≤ wd64 (wordsOf bs) 0) : exec (.headerFetch p) s =
      .next (((s.headPassed p).setPrevTarget p (some (wd64 (wordsOf bs) 0))).holdHeader p (wordsOf bs)).dropHeaders := by
  rw [execHeaderFetch_due h, hread]
  refine congrArg _ (if_neg ?_)
  rw [targetFalls_headPassed, Bool.or_eq_true, targetFalls_iff, hgood]
  rintro (⟨x, hx, hlt⟩ | h)
  exacts [not_lt.2 (hrises x hx) hlt, absurd h (by decide)]

end

/-- Of the headers only those go whose program has ended. -/
theorem mem_progs_dropHeaders {s : State} {x : Prog} : x ∈ s.dropHeaders.stk.progs ↔
    x ∈ s.stk.progs ∧ (x.last < x.next → s.stk.running = true → s.stk.stroke ≤ x.last) := by
  simp only [State.dropHeaders, List.mem_filter, Bool.not_eq_true', Bool.and_eq_false_iff, decide_eq_false_iff_not,
    imp_iff_not_or, Bool.not_eq_true, not_lt, or_assoc]

/-- A header as it is held when it joins: nothing of its program has been fetched. -/
def progOf (p : Nat) (ws : List Word) : Prog :=
  { port := p, ws := ws, target := wd64 ws 0, last := wd64 ws 0 + fld (ws.getD 4 0) 16 16, next := wd64 ws 0 }

theorem mem_progs_holdHeader {s : State} {p : Nat} {ws : List Word} {y : Prog} : y ∈ (s.holdHeader p ws).stk.progs ↔
    y = progOf p ws ∨ ∃ z ∈ s.stk.progs, y = if z.port = p then
      { z with last := min z.last (wd64 ws 0 - 1), next := if wd64 ws 0 = 0 then max z.next 1 else z.next } else z := by
  simp only [State.holdHeader, List.mem_append, List.mem_map, List.mem_singleton, progOf, eq_comm (b := y)]
  rw [or_comm]

/-- The programs of a port before its new header stop before its target (02 R62). -/
theorem progs_stop_before_header {s : State} {p : Nat} {ws : List Word} {y : Prog} (hy : y ∈ (s.holdHeader p ws).stk.progs)
    (hp : y.port = p) : y.ws = ws ∨ y.last < wd64 ws 0 ∨ y.last < y.next := by
  rcases mem_progs_holdHeader.1 hy with rfl | ⟨z, -, rfl⟩
  · exact .inl rfl
  · right
    by_cases hz : z.port = p
    · simp only [if_pos hz]
      by_cases h0 : wd64 ws 0 = 0
      · right
        simp only [h0, if_true]
        omega
      · left
        omega
    · exact absurd hp (by rwa [if_neg hz])

theorem headerFetch_joins {s : State} {p : Nat} (h : s.headerDue p) {bs : List Byte} {ws : List Word}
    (hread : s.hostRead p (s.headerAt p) 64 = some bs) (hws : ws = wordsOf bs) (hgood : headerBad ws = false)
    (hrises : ∀ x, s.prevTarget p = some x → x ≤ wd64 ws 0) : ∃ u : State, exec (.headerFetch p) s = .next u ∧
      progOf p ws ∈ u.stk.progs ∧ (∀ y ∈ u.stk.progs, y.port = p → y.ws = ws ∨ y.last < wd64 ws 0 ∨ y.last < y.next) ∧
      (∀ y ∈ u.stk.insts, y ∈ s.stk.insts) ∧ u.prevTarget p = some (wd64 ws 0) ∧ u.regs = (s.headPassed p).regs := by
  subst hws
  refine ⟨_, headerFetch_held h hread hgood hrises, ?_, fun y hy => ?_, fun y hy => ?_, ?_, rfl⟩
  · rw [mem_progs_dropHeaders, mem_progs_holdHeader]
    exact ⟨.inl rfl, fun hlt => absurd hlt (not_lt.2 (Nat.le_add_right _ _))⟩
  · exact progs_stop_before_header (mem_progs_dropHeaders.1 hy).1
  · have hsame : ((s.headPassed p).setPrevTarget p (some (wd64 (wordsOf bs) 0))).stk.insts = s.stk.insts := by
      unfold State.setPrevTarget
      simp only
      split <;> rfl
    exact hsame ▸ List.mem_of_mem_filter hy
  · unfold State.prevTarget State.dropHeaders State.holdHeader State.setPrevTarget
    simp only
    split <;> rfl

/-! ### Record fetches (02 R60, R63, R65, R76) -/

theorem exec_recordFetch (p t : Nat) (s : State) : exec (.recordFetch p t) s = execRecordFetch p t s := rfl

/-- The fetch of a header's next records is put off: no fetch now, no room, or before the lead (02 R60, R63). -/
theorem recordFetch_waits {s : State} {p t : Nat} {x : Prog}
    (hx : s.stk.progs.find? (fun x => decide (x.port = p ∧ x.next ≤ x.last)) = some x)
    (h : (s.at_ t).fetches p = false ∨ (s.at_ t).instFull p = true ∨ (s.at_ t).local_ + (s.lead : Int) < s.startOf x.next) :
    exec (.recordFetch p t) s = .next (s.at_ t) := by
  simp only [exec_recordFetch, execRecordFetch, State.atTime_stk, hx]
  exact congrArg _ (if_pos (by rwa [Bool.not_eq_true']))

theorem recordFetch_none {s : State} {p : Nat} (t : Nat)
    (hx : s.stk.progs.find? (fun x => decide (x.port = p ∧ x.next ≤ x.last)) = none) :
    exec (.recordFetch p t) s = .next (s.at_ t) := by
  simp only [exec_recordFetch, execRecordFetch, State.atTime_stk, hx]

/-- What a header asks for next, as it is held with its records read. -/
def State.fetched (s : State) (p : Nat) (x : Prog) (bs : List Byte) : Inst :=
  { iid := s.stk.nextIid, port := p, target := x.next, ws := x.ws, recs := recsOf (fld (x.ws.getD 4 0) 0 16) bs,
    active := false, silent := false }

/-- The state that holds it. -/
def State.withFetched (s : State) (p : Nat) (x : Prog) (bs : List Byte) : State :=
  { s with stk := { s.stk with
    insts := s.stk.insts ++ [s.fetched p x bs], nextIid := s.stk.nextIid + 1,
    progs := updIf s.stk.progs (fun z => decide (z = x)) (fun z => { z with next := z.next + 1 }) } }

/-- Plans that exceed what the windows hold are noted (02 R76). -/
def State.notedOver (s : State) (ws : List Word) : State :=
  if s.isOver ws then ({ s with stk := { s.stk with overcommit := true } } : State).count stkPage 0x19C 4 else s

/-- A header whose records could not be read is dropped (02 R65). -/
def State.fetchFailed (s : State) (p : Nat) (x : Prog) : State :=
  State.summary { s with stk := { s.stk with progs := s.stk.progs.filter (fun y => decide (y ≠ x)) } } p x.ws .busError x.next 0 0 0 0

/-- What the read of a header's records leads to: none on a bus error, else its bytes. -/
def State.fetchEnd (s : State) (p : Nat) (x : Prog) : Option (List Byte) → State
  | none => if bit (x.ws.getD 5 0) 15 then (s.fetchFailed p x).raise 0x03 5 else s.fetchFailed p x
  | some bs => ((s.withFetched p x bs).notedOver x.ws).dropHeaders

section
variable {s : State} {p t : Nat} {x : Prog}
  (hx : s.stk.progs.find? (fun x => decide (x.port = p ∧ x.next ≤ x.last)) = some x)
  (hf : (s.at_ t).fetches p = true) (hroom : (s.at_ t).instFull p = false)
  (hlead : s.startOf x.next ≤ (s.at_ t).local_ + (s.lead : Int))
include hx hf hroom hlead

theorem execRecordFetch_due : exec (.recordFetch p t) s =
    .next ((s.at_ t).fetchEnd p x ((s.at_ t).hostRead p (wd64 x.ws 2) (96 * fld (x.ws.getD 4 0) 0 16))) := by
  simp only [exec_recordFetch, execRecordFetch, State.atTime_stk, hx]
  refine congrArg _ ((if_neg ?_).trans ?_)
  · rw [Bool.not_eq_true', hf, hroom]
    rintro (h | h | h)
    exacts [absurd h (by decide), absurd h (by decide), not_lt.2 hlead h]
  · cases (s.at_ t).hostRead p _ _ <;> rfl

theorem recordFetch_busError (hread : s.hostRead p (wd64 x.ws 2) (96 * fld (x.ws.getD 4 0) 0 16) = none) :
    exec (.recordFetch p t) s = .next (
      if bit (x.ws.getD 5 0) 15 then ((s.at_ t).fetchFailed p x).raise 0x03 5 else (s.at_ t).fetchFailed p x) :=
  (execRecordFetch_due hx hf hroom hlead).trans (congrArg (fun r => Host.Outcome.next ((s.at_ t).fetchEnd p x r)) hread)

end

/-- Plans that are noted add nothing but the note. -/
theorem notedOver_frame (s : State) (ws : List Word) : (s.notedOver ws).stk.insts = s.stk.insts ∧
    (s.notedOver ws).stk.nextIid = s.stk.nextIid ∧ (s.notedOver ws).que = s.que ∧ (s.notedOver ws).page = s.page := by
  unfold State.notedOver
  split
  · simp
  · exact ⟨rfl, rfl, rfl, rfl⟩

theorem notedOver_over {s : State} {ws : List Word} (h : s.isOver ws = true) :
    (s.notedOver ws).reg (pg 0x03 + 0x19C) = satAdd (s.reg (pg 0x03 + 0x19C)) 1 ∧ (s.notedOver ws).stk.overcommit = true := by
  rw [State.notedOver, if_pos h]
  exact ⟨reg_count_counter _ (by decide) (by decide), by simp⟩

theorem recordFetch_reads {s : State} {p t : Nat} {x : Prog}
    (hx : s.stk.progs.find? (fun x => decide (x.port = p ∧ x.next ≤ x.last)) = some x)
    (hf : (s.at_ t).fetches p = true) (hroom : (s.at_ t).instFull p = false)
    (hlead : s.startOf x.next ≤ (s.at_ t).local_ + (s.lead : Int)) {bs : List Byte}
    (hread : s.hostRead p (wd64 x.ws 2) (96 * fld (x.ws.getD 4 0) 0 16) = some bs) :
    ∃ u : State, exec (.recordFetch p t) s = .next u ∧ u.stk.insts = s.stk.insts ++ [s.fetched p x bs] ∧
      u.stk.nextIid = s.stk.nextIid + 1 ∧ u.que = s.que ∧ u.page = s.page ∧
      (s.isOver x.ws = true → u.reg (pg 0x03 + 0x19C) = satAdd (s.reg (pg 0x03 + 0x19C)) 1 ∧ u.stk.overcommit = true) := by
  obtain ⟨hinsts, hiid, hque, hpage⟩ := notedOver_frame ((s.at_ t).withFetched p x bs) x.ws
  have he : exec (.recordFetch p t) s = .next ((s.at_ t).fetchEnd p x (some bs)) :=
    (execRecordFetch_due hx hf hroom hlead).trans (congrArg (fun r => Host.Outcome.next ((s.at_ t).fetchEnd p x r)) hread)
  exact ⟨_, he, hinsts, hiid, hque, hpage, fun hover => notedOver_over (s := (s.at_ t).withFetched p x bs) hover⟩

theorem instFull_iff {s : State} {p : Nat} : s.instFull p = true ↔
    (∃ y ∈ s.stk.insts, y.port = p ∧ y.active = false ∧ (s.stk.stroke < y.target ∨ s.stk.running = false)) ∨
      2 ≤ (s.stk.insts.filter (fun y => decide (y.port = p) && !y.active)).length := by
  simp only [State.instFull, Bool.or_eq_true, decide_eq_true_eq, List.any_eq_true, List.mem_filter, Bool.and_eq_true,
    Bool.not_eq_true', and_assoc]

/-! ### Class windows (02 R67, R72) -/

section
variable {s : State} {c t : Nat}

theorem windowOpen_idle (h : 4 ≤ c ∨ s.stk.running = false ∨ s.winSt c ≠ .before ∨
    (s.at_ t).clk < s.stk.boundary + (s.window c).1 * 10 ∨ s.stk.boundary + (s.window c).2 * 10 ≤ (s.at_ t).clk) :
    exec (.windowOpen c t) s = .next (s.at_ t) := by
  refine congrArg Host.Outcome.next (if_neg ?_)
  rintro ⟨hc, hr, hw, ha, hb⟩
  rcases h with h | h | h | h | h
  exacts [not_lt.2 h hc, Bool.false_ne_true (h.symm.trans hr), h hw, not_lt.2 ha h, not_lt.2 h hb]

theorem windowOpen_opens (hc : c < 4) (hr : s.stk.running = true) (hw : s.winSt c = .before)
    (ha : s.stk.boundary + (s.window c).1 * 10 ≤ (s.at_ t).clk) (hb : (s.at_ t).clk < s.stk.boundary + (s.window c).2 * 10)
    {w : State} (he : w = { s.at_ t with stk := { s.stk with win := s.stk.win.set c .open_, insts := s.stk.insts.map (fun x =>
      { x with recs := updIf x.recs (fun r => decide (recClass r.ws = some c)) (fun r => { r with carried := false }) }) } }) :
    exec (.windowOpen c t) s = .next (w.freezeReady c).jobsResume := by
  subst he
  exact congrArg Host.Outcome.next (if_pos ⟨hc, hr, hw, ha, hb⟩)

theorem windowClose_idle (h : 4 ≤ c ∨ s.winSt c ≠ .open_ ∨ (s.at_ t).clk < s.stk.boundary + (s.window c).2 * 10) :
    exec (.windowClose c t) s = .next (s.at_ t) := by
  refine congrArg Host.Outcome.next (if_neg ?_)
  rintro ⟨hc, hw, hb⟩
  rcases h with h | h | h
  exacts [not_lt.2 h hc, h hw, not_lt.2 hb h]

theorem windowClose_shuts (hc : c < 4) (hw : s.winSt c = .open_) (hb : s.stk.boundary + (s.window c).2 * 10 ≤ (s.at_ t).clk) :
    exec (.windowClose c t) s = .next ((s.at_ t).windowShut c) :=
  congrArg Host.Outcome.next (if_pos ⟨hc, hw, hb⟩)

end

/-- No active work is past the carry limit: none ends by it (02 R72). -/
theorem carryEnd_none {s : State} {past : Nat} (c : Nat)
    (h : ∀ x ∈ s.stk.insts, x.active = true → s.stk.stroke < x.target + past) : s.carryEnd c past = s := by
  have hnone : s.stk.insts.filter (fun x => x.active && decide (x.target + past ≤ s.stk.stroke)) = [] :=
    List.filter_eq_nil_iff.2 fun x hx hover => by
      simp only [Bool.and_eq_true, decide_eq_true_eq] at hover
      exact not_lt.2 hover.2 (h x hx hover.1)
  rw [State.carryEnd, hnone, List.foldl_nil]

theorem windowShut_carries {s : State} {c : Nat} (h : ∀ x ∈ s.stk.insts, x.active = true → s.stk.stroke < x.target + s.carryMax)
    {v : State} (hv : v = State.releaseHolds { s with stk := { s.stk with win := s.stk.win.set c .closed } }) :
    s.windowShut c = if c = 1 then v.expireHolds v.carryMax else if c = 2 then v.reselect else v := by
  have hcarry := carryEnd_none (s := { s with stk := { s.stk with win := s.stk.win.set c .closed } }) c h
  unfold State.windowShut
  dsimp only
  rw [show State.carryMax { s with stk := { s.stk with win := s.stk.win.set c .closed } } = s.carryMax from rfl, hcarry, ← hv]

/-! ### Acceptance of a command that is carried out (12 R436; 05 R168, R188; 11 R415) -/

/-- `t` is `s` but for the directory, page sets, tenant tables, registers, pending vectors and the messages sent. -/
def AcceptOnly (s t : State) : Prop :=
  t = { s with dir := t.dir, tier := t.tier, ten := t.ten, regs := t.regs, fns := t.fns, out := t.out }

theorem AcceptOnly.refl (s : State) : AcceptOnly s s := rfl

theorem AcceptOnly.trans {s t u : State} (h : AcceptOnly s t) (h' : AcceptOnly t u) : AcceptOnly s u := by
  unfold AcceptOnly at *
  rw [h', h]

theorem AcceptOnly.que {s t : State} (h : AcceptOnly s t) : t.que = s.que := by rw [h]

theorem NotesOnly.acceptOnly {l : List Nat} {s t : State} (h : NotesOnly l s t) : AcceptOnly s t := by
  obtain ⟨h, -⟩ := h
  unfold AcceptOnly
  conv_lhs => rw [h]
  conv_rhs => rw [h]

theorem acceptOnly_dir (s : State) (d : Dir) : AcceptOnly s { s with dir := d } := rfl

theorem acceptOnly_takeProof (s : State) (tenant leaseMs : Nat) (i : Option Nat) :
    AcceptOnly s (s.takeProof tenant leaseMs i).1 := by
  unfold State.takeProof
  split
  · exact .refl s
  · dsimp only
    split
    · exact (notesOnly_raise s 0x18 2).acceptOnly
    next i u hpick =>
      have hu : AcceptOnly s u := by
        split at hpick
        · cases hpick
          exact acceptOnly_dir s _
        · split at hpick <;> cases hpick
          exact acceptOnly_dir s _
      exact hu.trans (acceptOnly_dir u _)

/-- The two commands differ only in what acceptance settles: operands, views, status. -/
def SameCommand (l m : Live) : Prop := m.id = l.id ∧ m.src = l.src ∧ m.tenant = l.tenant ∧ m.phase = l.phase ∧ m.tag = l.tag

theorem SameCommand.trans {l m n : Live} (h : SameCommand l m) (h' : SameCommand m n) : SameCommand l n := by
  obtain ⟨hid, hsrc, hten, hph, htag⟩ := h
  obtain ⟨hid', hsrc', hten', hph', htag'⟩ := h'
  exact ⟨hid'.trans hid, hsrc'.trans hsrc, hten'.trans hten, hph'.trans hph, htag'.trans htag⟩

theorem openView_accepts (s : State) (l : Live) : AcceptOnly s (s.openView l).1 ∧ SameCommand l (s.openView l).2 := by
  have htake := acceptOnly_takeProof s l.tenant (s.cfgFld (pg 0x18 + 0x100) 0 16) (some l.id)
  unfold State.openView State.openImplicit
  split
  · split
    next heq => exact ⟨by rw [heq] at htake; exact htake, rfl, rfl, rfl, rfl, rfl⟩
    next heq => exact ⟨by rw [heq] at htake; exact htake, rfl, rfl, rfl, rfl, rfl⟩
  · exact ⟨.refl s, rfl, rfl, rfl, rfl, rfl⟩

theorem holdNamed_accepts (s : State) (l : Live) : AcceptOnly s (s.holdNamed l).1 ∧ SameCommand l (s.holdNamed l).2 :=
  ⟨List.foldlRecOn _ _ (motive := fun t : State => AcceptOnly s t) (.refl s) (fun t h _ _ => h.trans (acceptOnly_dir t _)),
    rfl, rfl, rfl, rfl, rfl⟩

theorem revokeAt_accepts (s : State) (l : Live) : AcceptOnly s (s.revokeAt l).1 ∧ SameCommand l (s.revokeAt l).2 := by
  unfold State.revokeAt
  split
  · exact ⟨.refl s, rfl, rfl, rfl, rfl, rfl⟩
  · split
    · exact ⟨.refl s, rfl, rfl, rfl, rfl, rfl⟩
    · dsimp only
      split <;> exact ⟨rfl, rfl, rfl, rfl, rfl, rfl⟩

theorem acceptOnly_sealAt (s : State) (l : Live) : AcceptOnly s (s.sealAt l) := by
  unfold State.sealAt
  split <;> rfl

/-- The command joins the live ones under the next number; beyond that acceptance moves what its operands, views and seal
need. -/
theorem acceptRun_joins (s : State) (src : Source) (tenant : Nat) (compat : Bool) (ws : List Word) (tag : Nat)
    (pre : Option Held) : ∃ v : Live, AcceptOnly { s with que := { s.que with
        live := s.que.live ++ [v], nextId := s.que.nextId + 1 } } (s.acceptRun src tenant compat ws tag pre) ∧
      v.id = s.que.nextId ∧ v.src = src ∧ v.tenant = tenant ∧ v.phase = .accepted ∧ v.tag = tag := by
  obtain ⟨l0, hl0⟩ : ∃ l, l = s.newLive src tenant compat ws tag pre := ⟨_, rfl⟩
  have h1 := openView_accepts s l0
  have h2 := holdNamed_accepts (s.openView l0).1 (s.openView l0).2
  have h3 := revokeAt_accepts ((s.openView l0).1.holdNamed (s.openView l0).2).1 ((s.openView l0).1.holdNamed (s.openView l0).2).2
  have hrun : s.acceptRun src tenant compat ws tag pre =
      (let r := ((s.openView l0).1.holdNamed (s.openView l0).2).1.revokeAt ((s.openView l0).1.holdNamed (s.openView l0).2).2
       State.sealAt { r.1 with que := { r.1.que with live := r.1.que.live ++ [r.2], nextId := r.1.que.nextId + 1 } } r.2) := by
    rw [hl0]
    rfl
  generalize ((s.openView l0).1.holdNamed (s.openView l0).2).1.revokeAt ((s.openView l0).1.holdNamed (s.openView l0).2).2 = r
    at h3 hrun
  obtain ⟨hr, hid, hsrc, hten, hph, htag⟩ : AcceptOnly s r.1 ∧ SameCommand l0 r.2 :=
    ⟨(h1.1.trans h2.1).trans h3.1, (h1.2.trans h2.2).trans h3.2⟩
  subst hl0
  refine ⟨r.2, ?_, hid, hsrc, hten, hph, htag⟩
  rw [hrun]
  refine AcceptOnly.trans ?_ (acceptOnly_sealAt _ _)
  unfold AcceptOnly at hr ⊢
  rw [hr]

/-! ### The start of records (02 R55, R69) -/

/-- The element found after an update that keeps what is sought: the update of the one found before. -/
theorem find?_updIf {α : Type} {p q : α → Bool} {f : α → α} (hf : ∀ x, q x = true → p (f x) = p x) (l : List α) :
    (updIf l q f).find? p = (l.find? p).map (fun x => if q x then f x else x) := by
  have hkeep : (p ∘ fun x => if q x then f x else x) = p := by
    funext x
    by_cases hq : q x = true
    · simp [hq, hf x hq]
    · simp [hq]
  rw [updIf, List.find?_map, hkeep]

/-- A record that is updated by its number. -/
theorem inst_updRec {s : State} {x : Inst} {r : SRec} (hx : s.inst x.iid = some x) (hr : x.record r.idx = some r)
    {f : SRec → SRec} (hf : ∀ r, (f r).idx = r.idx) :
    ∃ y, (s.updRec x.iid r.idx f).inst x.iid = some y ∧ y.record r.idx = some (f r) := by
  refine ⟨{ x with recs := updIf x.recs (fun v => decide (v.idx = r.idx)) f }, ?_, ?_⟩
  · have h := find?_updIf (p := fun v : Inst => decide (v.iid = x.iid)) (q := fun v : Inst => decide (v.iid = x.iid))
      (f := fun v => { v with recs := updIf v.recs (fun v => decide (v.idx = r.idx)) f }) (fun _ _ => rfl) s.stk.insts
    unfold State.inst at hx ⊢
    refine h.trans ?_
    rw [hx]
    simp
  · have h := find?_updIf (p := fun v : SRec => decide (v.idx = r.idx)) (q := fun v => decide (v.idx = r.idx)) (f := f)
      (fun v _ => by rw [hf]) x.recs
    unfold Inst.record at hr ⊢
    refine h.trans ?_
    rw [hr]
    simp

theorem mem_insertBy {α : Type} {le : α → α → Bool} {x y : α} : ∀ {l : List α}, x ∈ insertBy le y l → x = y ∨ x ∈ l
  | [], h => .inl (List.mem_singleton.1 h)
  | z :: l, h => by
    unfold insertBy at h
    split at h
    · exact List.mem_cons.1 h
    · rcases List.mem_cons.1 h with h | h
      · exact .inr (h ▸ List.mem_cons_self)
      · exact (mem_insertBy h).imp_right (List.mem_cons_of_mem z)

theorem mem_isort {α : Type} {le : α → α → Bool} {x : α} : ∀ {l : List α}, x ∈ isort le l → x ∈ l
  | _ :: _, h => (mem_insertBy h).elim (fun h => h ▸ List.mem_cons_self) (fun h => List.mem_cons_of_mem _ (mem_isort h))

/-- The operands of its startable records are read (02 R55). -/
def State.instReady (s : State) (x : Inst) : Inst :=
  { x with
    recs := updIf x.recs (fun r => s.mayStart x r 2 && r.frozen.isNone && decide (recKind r.ws = 0))
      (fun r => { r with frozen := (s.recLive x r).map s.attendHeld }) }

theorem freezeReady_attend (s : State) :
    s.freezeReady 2 = { s with stk := { s.stk with insts := s.stk.insts.map s.instReady } } := rfl

theorem freezeReady_other (s : State) {c : Nat} (h : c ≠ 2) : s.freezeReady c = s := if_pos h

theorem instReady_none {s : State} {x : Inst} (h : ∀ r ∈ x.recs, s.mayStart x r 2 = false) : s.instReady x = x := by
  have hrecs : (s.instReady x).recs = x.recs :=
    (List.map_congr_left fun r hr => by simp [h r hr]).trans (List.map_id' x.recs)
  calc s.instReady x = { x with recs := (s.instReady x).recs } := rfl
    _ = x := by rw [hrecs]

/-- With nothing startable no operands are read. -/
theorem freezeReady_none {s : State} {c : Nat} (h : ∀ x ∈ s.stk.insts, ∀ r ∈ x.recs, s.mayStart x r c = false) :
    s.freezeReady c = s := by
  by_cases hc : c = 2
  · subst hc
    rw [freezeReady_attend, List.map_congr_left (fun x hx => instReady_none (h x hx)), List.map_id']
  · exact freezeReady_other s hc

/-- The reading of operands changes nothing but the records. -/
theorem freezeReady_frame (s : State) (c : Nat) : ∃ k, s.freezeReady c = { s with stk := k } := by
  by_cases hc : c = 2
  · exact hc ▸ ⟨_, freezeReady_attend s⟩
  · exact ⟨s.stk, freezeReady_other s hc⟩

theorem exec_recordStart (c t : Nat) (s : State) : exec (.recordStart c t) s = execRecordStart c t s := rfl

theorem recordStart_idle {s : State} {c t : Nat} (h : ∀ x ∈ s.stk.insts, ∀ r ∈ x.recs, (s.at_ t).mayStart x r c = false) :
    exec (.recordStart c t) s = .next (s.at_ t) := by
  have hnone : (s.at_ t).instOrder.flatMap (fun x => (x.recs.filter (fun r => (s.at_ t).mayStart x r c)).map (fun r => (x, r)))
      = [] := List.flatMap_eq_nil_iff.2 fun x hx => by
    rw [List.map_eq_nil_iff, List.filter_eq_nil_iff]
    exact fun r hr => Bool.not_eq_true _ ▸ h x (mem_isort hx) r hr
  simp only [exec_recordStart, execRecordStart, freezeReady_none (s := s.at_ t) h, hnone, State.recScan]

/-- The first record on the list starts if its test says so. -/
theorem recScan_start {s : State} {c : Nat} {x : Inst} {r : SRec} {rest : List (Inst × SRec)} (hx : s.inst x.iid = some x)
    (hr : x.record r.idx = some r) (hmay : s.mayStart x r c = true) (htest : s.recTest x r c = .start) :
    s.recScan c ((x, r) :: rest) = s.startRec x r := by
  simp only [State.recScan, hx, hr, hmay, htest, Option.bind_some, Option.map_some, Option.getD_some, Bool.not_true,
    Bool.false_eq_true, if_false]

/-- Record `r` of `x` has started in `u` as a command of its own, accepted for a tenant; nothing else has begun. -/
def State.startedIn (s u : State) (x : Inst) (r : SRec) (tenant : Nat) (layer : Option (Nat × Nat)) : Prop :=
  u.que.nextId = s.que.nextId + 1 ∧
  (∃ v : Live, u.que.live = s.que.live ++ [v] ∧ v.id = s.que.nextId ∧ v.src = .record x.port x.iid r.idx ∧ v.tenant = tenant ∧
    v.phase = .accepted ∧ v.tag = wd64 r.ws 4) ∧
  (∃ y : Inst, u.inst x.iid = some y ∧ y.record r.idx = some { r with st := .started s.que.nextId, layer := some layer }) ∧
  u.page = s.page ∧ u.host0 = s.host0 ∧ u.host1 = s.host1 ∧ u.net = s.net ∧ u.brn = s.brn ∧ u.npa = s.npa ∧ u.pfs = s.pfs

/-- A record that starts is a command of its own, accepted for the tenant of its queue set (02 R642). -/
theorem startRec_joins {s : State} {x : Inst} {r : SRec} {l : Live} (hx : s.inst x.iid = some x)
    (hr : x.record r.idx = some r) (hl : s.recLive x r = some l) :
    s.startedIn (s.startRec x r) x r l.tenant (s.recLayer x r) := by
  obtain ⟨ws, hws⟩ : ∃ ws, s.startRec x r = (s.acceptRun (.record x.port x.iid r.idx) l.tenant false ws (wd64 r.ws 4)
      r.frozen).updRec x.iid r.idx (fun r' => { r' with st := .started s.que.nextId, layer := some (s.recLayer x r) }) := by
    simp only [State.startRec, hl]
    exact ⟨_, rfl⟩
  obtain ⟨v, hrun, hv⟩ := acceptRun_joins s (.record x.port x.iid r.idx) l.tenant false ws (wd64 r.ws 4) r.frozen
  generalize s.acceptRun _ _ _ ws _ _ = u at hrun hws
  have hstarted := inst_updRec (s := u) (by rw [hrun]; exact hx) hr
    (f := fun r' => { r' with st := .started s.que.nextId, layer := some (s.recLayer x r) }) (fun _ => rfl)
  rw [hws]
  refine ⟨congrArg Que.nextId hrun.que, ⟨v, congrArg Que.live hrun.que, hv⟩, hstarted, ?_⟩
  rw [hrun]
  exact ⟨rfl, rfl, rfl, rfl, rfl, rfl, rfl⟩

theorem recordStart_starts {s : State} {c t : Nat} {x : Inst} {r : SRec} {l : Live} {rest : List (Inst × SRec)} {w : State}
    (hw : w = (s.at_ t).freezeReady c)
    (hfirst : w.instOrder.flatMap (fun x => (x.recs.filter (fun r => w.mayStart x r c)).map (fun r => (x, r))) = (x, r) :: rest)
    (hx : w.inst x.iid = some x) (hr : x.record r.idx = some r) (htest : w.recTest x r c = .start)
    (hl : w.recLive x r = some l) : ∃ u : State,
      exec (.recordStart c t) s = .next u ∧ s.startedIn u x r l.tenant (w.recLayer x r) := by
  have hmay : w.mayStart x r c = true := by
    have hmem : (x, r) ∈ w.instOrder.flatMap (fun x => (x.recs.filter (fun r => w.mayStart x r c)).map (fun r => (x, r))) :=
      hfirst ▸ List.mem_cons_self
    simp only [List.mem_flatMap, List.mem_map, List.mem_filter, Prod.mk.injEq] at hmem
    obtain ⟨_, -, _, ⟨-, hmay⟩, rfl, rfl⟩ := hmem
    exact hmay
  obtain ⟨k, hk⟩ := freezeReady_frame (s.at_ t) c
  rw [hk] at hw
  subst hw
  exact ⟨_, by simp only [exec_recordStart, execRecordStart, hk, hfirst, recScan_start hx hr hmay htest],
    startRec_joins hx hr hl⟩

theorem mayStart_iff {s : State} {x : Inst} {r : SRec} {c : Nat} : s.mayStart x r c = true ↔
    (x.active = true ∧ r.st = .waiting ∧ recClass r.ws = some c ∧ r.carried = false ∧ s.winSt c = .open_ ∧
      afterOk x.recs r = true ∧ (x.target < s.stk.stroke ∨ s.stk.boundary + recNotBefore r.ws * 10 ≤ s.clk)) := by
  simp only [State.mayStart, Bool.and_eq_true, Bool.or_eq_true, Bool.not_eq_true', decide_eq_true_eq, and_assoc]

/-! ### Summaries (02 R79) -/

/-- What a port's summary of a target stroke is written for: active, not silent, asked for, all records final. -/
def State.summaryDue (s : State) (p target : Nat) : Option Inst :=
  s.stk.insts.find? (fun x => decide (x.port = p ∧ x.target = target) && x.active && !x.silent &&
    bit (x.ws.getD 5 0) 15 && x.recs.all SRec.isFinal)

theorem exec_programSummary (p target : Nat) (s : State) :
    exec (.programSummary p target) s = execProgramSummary p target s := rfl

theorem programSummary_waits {s : State} {p target : Nat} (h : s.summaryDue p target = none) :
    exec (.programSummary p target) s = .next s := by
  unfold State.summaryDue at h
  simp only [exec_programSummary, execProgramSummary, h]

theorem programSummary_writes {s : State} {p target : Nat} {x : Inst} (h : s.summaryDue p target = some x) {sts : List Status}
    {on late tout : Nat} (hsts : sts = x.recs.filterMap SRec.final?)
    (hon : on = (sts.filter (fun st => decide (st = .ok ∨ st = .multi))).length)
    (hlate : late = (sts.filter (fun st => decide (st = .late))).length)
    (htout : tout = (sts.filter (fun st => decide (st = .timeout))).length) {s1 : State}
    (hs1 : s1 = s.summary p x.ws (if on = sts.length then .ok else if on + late = sts.length then .late else .conflict) target
      late on (sts.length - on - late - tout) tout) :
    exec (.programSummary p target) s = .next (State.releaseHolds
      { s1 with stk := { s1.stk with insts := s1.stk.insts.filter (fun y => decide (y.iid ≠ x.iid)) } }) := by
  subst hs1 hon hlate htout hsts
  unfold State.summaryDue at h
  simp only [exec_programSummary, execProgramSummary, h]

/-! ### Programs run in their windows (02 R59 to R63, R65, R67, R69, R72, R79) -/

/-- Settles O2: command after command, the lemma that says what the command does in each of its cases. -/
theorem programsRunInTheirWindows : Obligations.ProgramsRunInTheirWindows := by
  unfold Obligations.ProgramsRunInTheirWindows
  refine ⟨fun s p v => ⟨stkPringTail_ignored, stkPringTail_set⟩, fun s p head hhead => ?header,
    fun s p t x hx => ⟨recordFetch_waits hx, fun hf hroom hlead =>
      ⟨fun bs => recordFetch_reads hx hf hroom hlead, fun hread u hu => hu ▸ recordFetch_busError hx hf hroom hlead hread⟩⟩,
    fun s p => instFull_iff, fun s p t => recordFetch_none t,
    fun s c t => ⟨windowOpen_idle, fun hc hr hw ha hb w => windowOpen_opens hc hr hw ha hb, windowClose_idle,
      fun hc hw hb => ⟨windowClose_shuts hc hw hb, fun h v => windowShut_carries (s := s.at_ t) h⟩⟩,
    fun s c t => ⟨recordStart_idle, fun x r l rest w => recordStart_starts⟩, fun s x r c => mayStart_iff,
    fun s p target f hf => ?summary⟩
  case header =>
    subst hhead
    refine ⟨headerFetch_idle, fun hf hn htail hheld base hbase s1 hs1 => ?_⟩
    subst hbase hs1
    have hdue : s.headerDue p := ⟨hf, hn, htail, hheld⟩
    refine ⟨headerFetch_busError hdue, fun bs ws hread hws => ⟨fun hbad => ?_, headerFetch_joins hdue hread hws⟩⟩
    subst hws
    exact headerFetch_refused hdue hread hbad
  case summary =>
    subst hf
    exact ⟨programSummary_waits, fun x hx sts on late tout hsts hon hlate htout s1 =>
      programSummary_writes hx hsts hon hlate htout⟩

end Sys2Proof.Machine

/-! Block keys (03): the search for the longest resident run of blocks, LOOKUP, HASH and the views of OPEN_PROOF; and the start of
REROTATE and REPACK (09). -/

namespace Sys2Proof.Machine

/-! ### A command just accepted -/

/-- Command `id` is `l`, of opcode `op`, accepted and not yet started. -/
def State.Fresh (s : State) (id op : Nat) (l : Live) : Prop :=
  s.live id = some l ∧ l.op = op ∧ l.phase = .accepted ∧ l.compat = false

theorem State.Fresh.onNew {s : State} {id op : Nat} {l : Live} (h : s.Fresh id op l) (f : Live → State → State) :
    s.onNew id op f = f l s := by
  obtain ⟨hlive, hop, hphase, hcompat⟩ := h
  simp only [State.onNew, hlive, hop, hphase, hcompat, and_self, if_true]

/-! ### The search for the longest resident run of blocks (03 R109) -/

theorem Search.probe_lo (x : Search) (k : Key) (snap : Option Nat) : (x.probe k snap).1.lo = x.lo := by
  unfold Search.probe
  dsimp only
  split <;> rfl

theorem Search.probe_hi (x : Search) (k : Key) (snap : Option Nat) : (x.probe k snap).1.hi = x.hi := by
  unfold Search.probe
  dsimp only
  split <;> rfl

/-- The search after its probe of block `p`: a hit raises the lower bound to it, a miss takes the upper bound below it. -/
def Search.narrow (x : Search) (k : Key) (snap : Option Nat) (p : Nat) : Search :=
  if (x.probe k snap).2 then { (x.probe k snap).1 with lo := p } else { (x.probe k snap).1 with hi := p - 1 }

theorem searchLoop_met {x : Search} (h : ¬ x.lo < x.hi) (f : Nat) (key : Nat → Except Status Key) (snap : Option Nat) (p : Nat) :
    searchLoop f key snap p x = .ok x := by
  cases f with
  | zero => rfl
  | succ f => exact if_neg h

theorem searchLoop_probes {x : Search} (h : x.lo < x.hi) {key : Nat → Except Status Key} {p : Nat} {k : Key} (hk : key p = .ok k)
    (f : Nat) (snap : Option Nat) : searchLoop (f + 1) key snap p x =
      searchLoop f key snap ((x.narrow k snap p).lo + ((x.narrow k snap p).hi - (x.narrow k snap p).lo + 1) / 2) (x.narrow k snap p) := by
  simp only [searchLoop, if_pos h, hk, Search.narrow]

/-- A probe between the bounds leaves them in order and nearer each other. -/
theorem Search.narrow_bounds {x : Search} {p : Nat} (hlo : x.lo < p) (hhi : p ≤ x.hi) (k : Key) (snap : Option Nat) :
    (x.narrow k snap p).lo ≤ (x.narrow k snap p).hi ∧ (x.narrow k snap p).hi ≤ x.hi ∧
      (x.narrow k snap p).hi - (x.narrow k snap p).lo < x.hi - x.lo := by
  unfold Search.narrow
  split <;> simp only [probe_lo, probe_hi] <;> omega

/-- With fuel for every block between its bounds, the search ends where they meet. -/
theorem searchLoop_meets {key : Nat → Except Status Key} {snap : Option Nat} {a : Search} (f : Nat) :
    ∀ {p : Nat} {x : Search}, searchLoop f key snap p x = .ok a → x.hi - x.lo < f → x.lo ≤ x.hi →
      (x.lo < x.hi → x.lo < p ∧ p ≤ x.hi) → a.lo = a.hi ∧ a.hi ≤ x.hi := by
  induction f with
  | zero => exact fun _ hf => absurd hf (Nat.not_lt_zero _)
  | succ f ih =>
    intro p x ha hf hle hp
    by_cases h : x.lo < x.hi
    · obtain ⟨hlo, hhi⟩ := hp h
      cases hk : key p with
      | error e => simp [searchLoop, h, hk] at ha
      | ok k =>
        obtain ⟨hle', hhi', hnear⟩ := x.narrow_bounds hlo hhi k snap
        rw [searchLoop_probes h hk] at ha
        obtain ⟨hmet, hbelow⟩ := ih ha (by omega) hle' (by omega)
        exact ⟨hmet, hbelow.trans hhi'⟩
    · rw [searchLoop_met h] at ha
      cases ha
      exact ⟨by omega, le_rfl⟩

/-- After a hit at its upper bound the search has ended. -/
theorem searchLoop_whole {x b : Search} {key : Nat → Except Status Key} {snap : Option Nat} {k : Key} (h : x.lo < x.hi)
    (hk : key x.hi = .ok k) (hit : x.probe k snap = (b, true)) (f : Nat) :
    searchLoop (f + 1) key snap x.hi x = .ok { b with lo := x.hi } := by
  have hb : b.hi = x.hi := by rw [← x.probe_hi k snap, hit]
  have hnarrow : x.narrow k snap x.hi = { b with lo := x.hi } := by simp only [Search.narrow, hit, if_true]
  rw [searchLoop_probes h hk, hnarrow, searchLoop_met]
  simp only [hb, lt_self_iff_false, not_false_eq_true]

/-- Settles O7: `searchLoop_meets` from the bounds 0 and `n`, and `searchLoop_whole` at the first probe. -/
theorem prefixSearchMeetsItsBounds : Obligations.PrefixSearchMeetsItsBounds := by
  unfold Obligations.PrefixSearchMeetsItsBounds
  intro s key snap n a ha
  obtain ⟨hmet, hbelow⟩ := searchLoop_meets (n + 1) ha (Nat.lt_succ_self n) n.zero_le (fun h => ⟨h, le_rfl⟩)
  refine ⟨hmet, hmet.trans_le hbelow, fun k b hn hk hit => ?_⟩
  exact Except.ok.inj (ha.symm.trans (searchLoop_whole hn hk hit n))

/-! ### LOOKUP (03 R112; 12 R442, R445) -/

theorem exec_lookup (id : Nat) (s : State) : exec (.lookup id) s = execLookup id s := rfl

section
variable {s : State} {id : Nat} {l : Live} (hnew : s.Fresh id 0x01 l)
include hnew

theorem lookup_refused {e : Status} (hcheck : lookupCheck l s = .error e) : exec (.lookup id) s = .next (s.fail id e) := by
  simp only [exec_lookup, execLookup, hnew.onNew, hcheck]

variable {m : Model} {snap : Option Nat} (hcheck : lookupCheck l s = .ok (m, snap))
include hcheck

theorem lookup_keysError {e : Status} (hkeys : lookupKeys l m s = .error e) : exec (.lookup id) s = .next (s.fail id e) := by
  simp only [exec_lookup, execLookup, hnew.onNew, hcheck, hkeys]

variable {key : Nat → Except Status Key} {n : Nat} {tail : Bool} (hkeys : lookupKeys l m s = .ok (key, n, tail))
include hkeys

theorem lookup_searchError {e : Status} (hsearch : prefixSearch s key snap n tail = .error e) :
    exec (.lookup id) s = .next (s.fail id e) := by
  simp only [exec_lookup, execLookup, hnew.onNew, hcheck, hkeys, hsearch]

variable {a : Search} {t : Bool} (hsearch : prefixSearch s key snap n tail = .ok (a, t))
include hsearch

theorem lookup_notFound (hnone : a.lo = 0) : exec (.lookup id) s = .next (a.s.fail id .notFound) := by
  simp only [exec_lookup, execLookup, hnew.onNew, hcheck, hkeys, hsearch, if_pos hnone]

theorem lookup_found (hsome : a.lo ≠ 0) : exec (.lookup id) s =
    .next (a.s.complete id (if a.multi then .multi else .ok) (some (0, lookupResult a t))) := by
  simp only [exec_lookup, execLookup, hnew.onNew, hcheck, hkeys, hsearch, lookupStatus, if_neg hsome]

end

/-! ### HASH (03 R98 to R100) -/

/-- The reserved bits, token count and digest count of a HASH are in range (12 R442). -/
def Live.hashWordsOk (l : Live) : Prop :=
  l.reservedOk 7 [0xFFFF, 0x1FFFFF, 0x1FFFF, 0xFFFFFFFF, 0xFFFFFFFF, 0xFFFFFFFF, 0xFFFFFFFF, 0xFFFFFFFF, 0xFFFFFFFF,
    0xFFFFFFFF, 0xFFFFFFFF, 0] = true ∧ l.w 5 ≠ 0 ∧ l.w 5 ≤ 1048576

/-- A HASH takes the tokens after its last full block as a block of their own. -/
def Live.hashTail (l : Live) (m : Model) : Bool := l.flag 0 && decide (l.w 5 % m.blockLen ≠ 0)

/-- Blocks of a HASH. -/
def Live.hashCount (l : Live) (m : Model) : Nat := l.w 5 / m.blockLen + b2n (l.hashTail m)

/-- What a HASH reads: its model `m`, digests `dig`, first chain value `h0` and tokens `bs`, and none of them is refused. -/
def State.HashReads (s : State) (l : Live) (m : Model) (dig : List (Nat × List Byte)) (h0 bs : List Byte) : Prop :=
  s.model (l.w 4) = some m ∧ l.hashCount m ≤ 65536 ∧
  (∃ ds, (if l.w 6 = 0 then .ok [] else s.workRead l.tenant l.port (l.w64 13) (72 * l.w 6)) = .ok ds ∧
    parseDigests (l.w 6) ds = some dig) ∧
  ascending (dig.map (·.1)) = true ∧ (∀ d ∈ dig, d.1 < l.hashCount m) ∧
  (if l.flag 2 then s.workRead l.tenant l.port (l.w64 11) 64 else .ok (chain0 m.seed)) = .ok h0 ∧
  s.workRead l.tenant l.port (l.w64 7) (4 * l.w 5) = .ok bs

/-- Blocks of a HASH whose tokens are `bs`. -/
def Live.hashBlocks (l : Live) (m : Model) (bs : List Byte) : List (List Byte) :=
  tokenBlocks (l.w 5 / m.blockLen) m.blockLen bs ++
    (if l.hashTail m then [bs.drop (4 * m.blockLen * (l.w 5 / m.blockLen))] else [])

/-- Chain values of a HASH, each from the one before it, its block and the digest of the block if one is given. -/
def Live.hashChain (l : Live) (m : Model) (dig : List (Nat × List Byte)) (h0 bs : List Byte) : List (List Byte) :=
  chainList h0 ((List.range (l.hashBlocks m bs).length).map (fun i =>
    ((dig.find? (fun d => decide (d.1 = i))).map (·.2), (l.hashBlocks m bs).getD i [])))

/-- Output of a HASH: a slot for each chain value, then the last chain value whole. -/
def Live.hashOut (l : Live) (m : Model) (hs : List (List Byte)) : List Byte :=
  hs.flatMap (hashSlot m.keyForm (l.flag 1)) ++ hs.getLast?.getD []

theorem exec_hash (id : Nat) (s : State) : exec (.hash id) s = execHash id s := rfl

/-- A HASH that reads all its operands and writes its output completes with its blocks and the tokens it left over. -/
theorem hash_writes {s u : State} {id : Nat} {l : Live} {m : Model} {dig : List (Nat × List Byte)} {h0 bs : List Byte}
    (hnew : s.Fresh id 0x02 l) (hup : s.reached .verify = true) (hwords : l.hashWordsOk) (h : s.HashReads l m dig h0 bs)
    (hwrite : (if l.hashCount m = 0 then .ok s else
      s.workWrite l.tenant l.port (l.w64 9) (l.hashOut m (l.hashChain m dig h0 bs))) = .ok u) :
    exec (.hash id) s = .next (u.done id 0 [w32 (l.hashCount m), w32 (if l.hashTail m then 0 else l.w 5 % m.blockLen), 0, 0]) := by
  obtain ⟨hres, hpos, hmax⟩ := hwords
  obtain ⟨hmodel, hmany, ⟨ds, hread, hparse⟩, hasc, hwithin, hstart, htok⟩ := h
  have hfits : dig.any (fun d => decide (l.hashCount m ≤ d.1)) = false :=
    List.any_eq_false.2 fun d hd => by simpa using hwithin d hd
  have hcount := not_lt.2 hmany
  unfold Live.hashCount Live.hashTail at hfits hcount
  unfold Live.hashCount Live.hashTail Live.hashOut Live.hashChain Live.hashBlocks Live.hashTail at hwrite
  simp only [exec_hash, execHash, hnew.onNew, hup, hres, hpos, not_lt.2 hmax, hmodel, hcount, hread, hparse, hasc, hfits,
    hstart, htok, hwrite, Bool.not_true, Bool.false_eq_true, or_self, if_false, Live.hashCount, Live.hashTail]
  rfl

/-! ### OPEN_PROOF with VIEW (03 R105; 11 R408 to R410) -/

theorem exec_openView (id : Nat) (s : State) : exec (.openView id) s = execOpenView id s := rfl

/-- The view list of an OPEN_PROOF is read and none of its entries is refused: its entries with their keys. -/
def State.ViewReads (s : State) (l : Live) (ks : List (List Byte × Option Key)) : Prop :=
  l.reservedOk 3 [0xFFFF, 0, 0x1FFF, 0xFFFFFFFF, 0xFFFFFFFF] = true ∧ l.w 6 ≠ 0 ∧ l.w 6 ≤ 4096 ∧
  ∃ bs, s.workRead l.tenant l.port (l.w64 7) (128 * l.w 6) = .ok bs ∧
    (pieces 128 (l.w 6) bs).all viewEntryOk = true ∧ s.viewKeys (pieces 128 (l.w 6) bs) = .ok ks

/-- Result word 7 of an OPEN_PROOF with VIEW: how many entries failed, and the first failure. -/
def viewFailures (fails : Nat) : Option (Nat × Status) → Nat
  | none => 0
  | some (i, st) => st.code * 2 ^ 24 + i * 2 ^ 12 + min fails 4095

theorem openView_maps {s u v : State} {id : Nat} {l : Live} {ks : List (List Byte × Option Key)} {p : Proof} {fails : Nat}
    {first : Option (Nat × Status)} (hnew : s.Fresh id 0x03 l) (hrenew : l.flag 0 = false) (hview : l.flag 1 = true)
    (hup : s.reached .psa = true) (h : s.ViewReads l ks) (hproof : s.takeProof l.tenant (s.openLease (l.w 4)) none = (u, .ok p))
    (hmap : mapView u l.port l.tenant p.slot p.snapshot 0 ks (0, none) = (v, fails, first)) :
    exec (.openView id) s = .next (v.complete id (if v.viewMulti l.tenant p.snapshot ks then .multi else .ok)
      (some (w32 (s.openLease (l.w 4)), [w32 p.handle] ++ split64 p.snapshot ++ [w32 (viewFailures fails first)]))) := by
  obtain ⟨hwords, hpos, hmax, bs, hread, hok, hkeys⟩ := h
  simp only [exec_openView, execOpenView, hnew.onNew, hrenew, hview, hup, hwords, hpos, not_lt.2 hmax, hread, hok,
    hkeys, hproof, hmap, Bool.not_true, Bool.false_eq_true, or_self, if_false]
  rfl

/-- Settles O8: the outcomes of LOOKUP one by one, then HASH and the view by what they read. -/
theorem lookupHashAndView : Obligations.LookupHashAndView := by
  unfold Obligations.LookupHashAndView
  intro s id l hl hph hc
  refine ⟨fun hop => ?lookup, fun hop hup hres hpos hmax m tail n ds dig h0 bs hm htail hn hcount hread hparse hasc hwithin
    hstart htok blocks hs out u hblocks hhs hout hwrite => ?hash, fun hop hrenew hview hup bs ks u p v fails first hres hpos hmax
    hread hok hkeys hproof hmap => ?view⟩
  case lookup =>
    have hnew : s.Fresh id 0x01 l := ⟨hl, hop, hph, hc⟩
    exact ⟨fun e => lookup_refused hnew, fun m snap hcheck => ⟨fun e => lookup_keysError hnew hcheck, fun key n tail hkeys =>
      ⟨fun e => lookup_searchError hnew hcheck hkeys, fun a t hsearch =>
        ⟨lookup_notFound hnew hcheck hkeys hsearch, lookup_found hnew hcheck hkeys hsearch⟩⟩⟩⟩
  case hash =>
    subst htail hn hblocks hhs hout
    exact hash_writes ⟨hl, hop, hph, hc⟩ hup ⟨hres, hpos, hmax⟩
      ⟨hm, hcount, ⟨ds, hread, hparse⟩, hasc, hwithin, hstart, htok⟩ hwrite
  case view =>
    rw [openView_maps ⟨hl, hop, hph, hc⟩ hrenew hview hup ⟨hres, hpos, hmax, bs, hread, hok, hkeys⟩ hproof hmap]
    cases first <;> rfl

/-! ### REROTATE and REPACK (09 R305, R306, R308, R334 to R337) -/

/-- Command `c` is the page command `k`, the parameter block `par` of a REPACK telling which of the two. -/
def PageCmd.IsFor (k : PageCmd) (c : Instr) (id op : Nat) (par : List Word) : Prop :=
  (k = .rerotate ∧ op = 0x0E ∧ c = .rerotate id) ∨ (k = .convert ∧ op = 0x0F ∧ fld (par.getD 7 0) 30 2 ≠ 1 ∧ c = .repackConvert id) ∨
    (k = .landmark ∧ op = 0x0F ∧ fld (par.getD 7 0) 30 2 = 1 ∧ c = .repackLandmark id)

theorem pageCommand_starts {s : State} {id op : Nat} {l : Live} {par : List Word} {k : PageCmd} {which : Nat → Option PageCmd}
    (hnew : s.Fresh id op l) (hup : s.reached .psa = true) (hpar : s.paramRead l = .ok par)
    (hwhich : which (fld (par.getD 7 0) 30 2) = some k) : s.pageCommand id op which = s.pageStart l k par := by
  simp only [State.pageCommand, hnew.onNew, hup, hpar, hwhich, if_true]

theorem exec_rerotate (id : Nat) (s : State) : exec (.rerotate id) s = execRerotate id s := rfl
theorem exec_repackConvert (id : Nat) (s : State) : exec (.repackConvert id) s = execRepackConvert id s := rfl
theorem exec_repackLandmark (id : Nat) (s : State) : exec (.repackLandmark id) s = execRepackLandmark id s := rfl

theorem exec_pageCmd {s : State} {id : Nat} {l : Live} {par : List Word} {k : PageCmd} {c : Instr} (hnew : s.Fresh id l.op l)
    (hup : s.reached .psa = true) (hpar : s.paramRead l = .ok par) (hk : k.IsFor c id l.op par) :
    exec c s = .next (s.pageStart l k par) := by
  rcases hk with ⟨rfl, hop, rfl⟩ | ⟨rfl, hop, hmode, rfl⟩ | ⟨rfl, hop, hmode, rfl⟩ <;> rw [hop] at hnew
  · rw [exec_rerotate, execRerotate, pageCommand_starts hnew hup hpar rfl]
  · rw [exec_repackConvert, execRepackConvert, pageCommand_starts hnew hup hpar (if_neg hmode)]
  · rw [exec_repackLandmark, execRepackLandmark, pageCommand_starts hnew hup hpar (if_pos hmode)]

/-- Outside its operands a page command waits for nothing but a live engine (08 R296). -/
theorem npaWhen_page (s : State) (l : Live) (par : List Word) :
    s.npaWhen l par false = if s.liveEngines = 0 then some .notReady else none := by
  simp only [State.npaWhen, Bool.false_and, Bool.false_eq_true, false_and, if_false]

/-- The parameter block of a page command names no reserved bit or space, 1 to 4,096 entries and an aligned list. -/
def PageCmd.ParOk (k : PageCmd) (par : List Word) : Prop :=
  paramOk par (pageMasks k) = true ∧ spacesOk (par.getD 5 0) = true ∧ 0 < fld (par.getD 4 0) 0 17 ∧
  fld (par.getD 4 0) 0 17 ≤ 4096 ∧ wd64 par 2 % 128 = 0

/-- A page command opens the view of its proof and goes on, without a snapshot where the proof is stale (09 R313). -/
def State.withView (s : State) (l : Live) (par : List Word) (f : State → Option Nat → State) : State :=
  match s.viewFor l.id l.tenant (wd par 6) with
  | (u, .ok snap) => f u (some snap)
  | (u, .error e) => if e = .staleProof then f u none else u.npaFail l.id e

section
variable {s u : State} {l : Live} {par : List Word} {f : State → Option Nat → State}

theorem withView_ok {snap : Nat} (h : s.viewFor l.id l.tenant (wd par 6) = (u, .ok snap)) : s.withView l par f = f u (some snap) := by
  simp only [State.withView, h]

theorem withView_stale (h : s.viewFor l.id l.tenant (wd par 6) = (u, .error .staleProof)) : s.withView l par f = f u none := by
  simp only [State.withView, h, if_true]

theorem withView_error {e : Status} (h : s.viewFor l.id l.tenant (wd par 6) = (u, .error e)) (he : e ≠ .staleProof) :
    s.withView l par f = u.npaFail l.id e := by
  simp only [State.withView, h, if_neg he]

end

/-- What a page command writes fits: the landmark tables in their reservation, or every target a reservation for the model. -/
def State.pageFits (s : State) (l : Live) (k : PageCmd) (par : List Word) (m t : Model) (layers : List Nat) (es : List RawEnt) : Bool :=
  if k = .landmark then s.tablesOk l.tenant par m (fld (par.getD 4 0) 0 17) layers.length else s.targetsOk l.tenant t es

section
variable {s : State} {l : Live} {k : PageCmd} {par : List Word}

theorem pageStart_badBlock (h : paramOk par (pageMasks k) = false ∨ spacesOk (par.getD 5 0) = false ∨ fld (par.getD 4 0) 0 17 = 0 ∨
    4096 < fld (par.getD 4 0) 0 17 ∨ wd64 par 2 % 128 ≠ 0) : s.pageStart l k par = s.npaFail l.id .badCommand := by
  simp only [State.pageStart]
  rw [if_pos]
  rwa [Bool.not_eq_true', Bool.and_eq_false_iff, or_assoc]

variable (hok : k.ParOk par)
include hok

theorem PageCmd.ParOk.passes : ¬ ((!(paramOk par (pageMasks k) && spacesOk (par.getD 5 0))) = true ∨ fld (par.getD 4 0) 0 17 = 0 ∨
    4096 < fld (par.getD 4 0) 0 17 ∨ wd64 par 2 % 128 ≠ 0) := by
  obtain ⟨hmasks, hspaces, hpos, hmax, halign⟩ := hok
  simp only [hmasks, hspaces, halign, hpos.ne', not_lt.2 hmax, Bool.and_self, Bool.not_true, Bool.false_eq_true, ne_eq,
    not_true_eq_false, or_self, not_false_eq_true]

theorem pageStart_noEngine (hdead : s.liveEngines = 0) : s.pageStart l k par = s.npaFail l.id .notReady := by
  simp only [State.pageStart, if_neg hok.passes, npaWhen_page, if_pos hdead]

variable (hlive : 0 < s.liveEngines)
include hlive

theorem pageStart_entsError {e : Status} (hents : s.entList l par (decide (k ≠ .landmark)) = .error e) :
    s.pageStart l k par = s.npaFail l.id e := by
  simp only [State.pageStart, if_neg hok.passes, npaWhen_page, if_neg hlive.ne', hents]

variable {es : List RawEnt} (hents : s.entList l par (decide (k ≠ .landmark)) = .ok es)
include hents

theorem pageStart_modelError {e : Status} (hmodel : s.entsModel es = .error e) : s.pageStart l k par = s.npaFail l.id e := by
  simp only [State.pageStart, if_neg hok.passes, npaWhen_page, if_neg hlive.ne', hents, hmodel]

/-- No entry names a model: the view is opened, and every entry fails alone. -/
theorem pageStart_noModel (hmodel : s.entsModel es = .ok none) : s.pageStart l k par = s.withView l par
    (fun u snap => u.noModel l.id (es.map (fun _ => if snap.isNone then .staleProof else .notFound))) := by
  simp only [State.pageStart, if_neg hok.passes, npaWhen_page, if_neg hlive.ne', hents, hmodel]
  rfl

variable {m : Model} (hmodel : s.entsModel es = .ok (some m))
include hmodel

theorem pageStart_badLayers (hlayers : layersOf par m = none) : s.pageStart l k par = s.npaFail l.id .badCommand := by
  simp only [State.pageStart, if_neg hok.passes, npaWhen_page, if_neg hlive.ne', hents, hmodel, hlayers]

variable {layers : List Nat} (hlayers : layersOf par m = some layers)
include hlayers

theorem pageStart_targetError {e : Status} (htarget : s.targetModel k par m = .error e) :
    s.pageStart l k par = s.npaFail l.id e := by
  simp only [State.pageStart, if_neg hok.passes, npaWhen_page, if_neg hlive.ne', hents, hmodel, hlayers, htarget]

variable {t : Model} (htarget : s.targetModel k par m = .ok t)
include htarget

/-- The view is opened and the job starts, without a snapshot where the proof is stale, if what it writes fits and no entry has
more tokens than a block. -/
theorem pageStart_target : s.pageStart l k par =
    if s.pageFits l k par m t layers es = false ∨ ∃ e ∈ es, m.blockLen < e.tokens then s.npaFail l.id .badCommand
    else s.withView l par (fun u snap => u.pageJob l k par m layers es snap) := by
  simp only [State.pageStart, if_neg hok.passes, npaWhen_page, if_neg hlive.ne', hents, hmodel, hlayers, htarget]
  simp only [Bool.not_eq_true', List.any_eq_true, decide_eq_true_eq]
  rfl

end

/-- Settles O23: a page command runs `pageStart` on its parameter block; then the outcomes of `pageStart` one by one. -/
theorem rerotateAndRepackStart : Obligations.RerotateAndRepackStart := by
  unfold Obligations.RerotateAndRepackStart
  intro s id l par k c hl hph hc hup hpar hk
  rw [exec_pageCmd ⟨hl, rfl, hph, hc⟩ hup hpar hk]
  refine ⟨fun h => congrArg _ (pageStart_badBlock h), fun hmasks hspaces hpos hmax halign => ?_⟩
  have hok : k.ParOk par := ⟨hmasks, hspaces, hpos, hmax, halign⟩
  refine ⟨fun hdead => congrArg _ (pageStart_noEngine hok hdead), fun hlive => ⟨fun e hents =>
    congrArg _ (pageStart_entsError hok hlive hents), fun es hents => ⟨fun e hmodel =>
    congrArg _ (pageStart_modelError hok hlive hents hmodel), fun hmodel => ?noModel, fun m hmodel => ⟨fun hlayers =>
    congrArg _ (pageStart_badLayers hok hlive hents hmodel hlayers), fun layers e hlayers htarget =>
    congrArg _ (pageStart_targetError hok hlive hents hmodel hlayers htarget), fun layers t fits hlayers htarget hfits => ?target⟩⟩⟩⟩
  case noModel =>
    rw [pageStart_noModel hok hlive hents hmodel]
    exact ⟨fun u snap hv => congrArg _ (withView_ok hv), fun u hv => congrArg _ (withView_stale hv),
      fun u e hv he => congrArg _ (withView_error hv he)⟩
  case target =>
    obtain rfl : fits = s.pageFits l k par m t layers es := hfits
    rw [pageStart_target hok hlive hents hmodel hlayers htarget]
    refine ⟨fun h => congrArg _ (if_pos h), fun hfit htok => ?_⟩
    rw [if_neg (by simpa [hfit] using htok)]
    exact ⟨fun u snap hv => congrArg _ (withView_ok hv), fun u hv => congrArg _ (withView_stale hv),
      fun u e hv he => congrArg _ (withView_error hv he)⟩

end Sys2Proof.Machine

/-! The groups that the PSA holds (04): how they become held, move and leave. -/

namespace Sys2Proof.Machine

/-! ### A group becomes held (04 R126, R128, R130, R641) -/

/-- The wish of a slot, met or not, is taken off the list. -/
def State.unwanted (s : State) (slot : Nat) : State :=
  { s with psa := { s.psa with want := s.psa.want.filter (fun x => decide (x ≠ slot)) } }

/-- The group of a slot is still to become held: the slot is resident, the group HOT or SHARED and not held yet. -/
def State.holdDue (s : State) (v : Slot) : Bool := v.resident && s.groupHot v.key && !s.isHeld v.key

theorem holdDue_iff {s : State} {v : Slot} : s.holdDue v = true ↔
    v.resident = true ∧ s.groupHot v.key = true ∧ s.isHeld v.key = false := by
  simp [State.holdDue, and_assoc]

theorem psaInsert_unasked {s : State} {slot : Nat} (h : s.psa.want.contains slot = false) :
    exec (.psaInsert slot) s = .next s := congrArg Host.Outcome.next (if_neg (Bool.not_eq_true _ ▸ h))

theorem psaInsert_asked {s : State} {slot : Nat} (h : s.psa.want.contains slot = true) : exec (.psaInsert slot) s =
    .next (if s.holdDue (s.slot slot) then (s.unwanted slot).hold (s.slot slot).key else s.unwanted slot) :=
  congrArg Host.Outcome.next (if_pos h)

theorem psaInsert_drops {s : State} {slot : Nat} (h : s.psa.want.contains slot = true)
    (hnot : (s.slot slot).resident = false ∨ s.groupHot (s.slot slot).key = false ∨ s.isHeld (s.slot slot).key = true) :
    exec (.psaInsert slot) s = .next (s.unwanted slot) := by
  rw [psaInsert_asked h, if_neg]
  rw [holdDue_iff]
  rintro ⟨hres, hhot, hheld⟩
  rcases hnot with h | h | h
  · simp [hres] at h
  · simp [hhot] at h
  · simp [hheld] at h

theorem psaInsert_holds {s : State} {slot : Nat} (h : s.psa.want.contains slot = true) (hres : (s.slot slot).resident = true)
    (hhot : s.groupHot (s.slot slot).key = true) (hheld : s.isHeld (s.slot slot).key = false) :
    exec (.psaInsert slot) s = .next ((s.unwanted slot).hold (s.slot slot).key) := by
  rw [psaInsert_asked h, if_pos (holdDue_iff.2 ⟨hres, hhot, hheld⟩)]

section
variable {s : State} {k : Key}

theorem hold_tooLarge (h : largestGroup k.keyForm < (s.groupEntries k).length) : s.hold k = s.bump (pg 0x07 + 0x19C) := if_pos h

variable (hle : (s.groupEntries k).length ≤ largestGroup k.keyForm)
include hle

theorem hold_room {b seg : Nat} (h : s.segWith (s.banksFor k.keyForm) ((s.groupEntries k).length + 1) = some (b, seg)) :
    s.hold k = (s.updBank b (fun v => v.putAll seg (s.groupEntries k))).setHeld k true := by
  simp only [State.hold, State.holdIn, if_neg (not_lt.2 hle), h]

theorem hold_noRoom (h : s.segWith (s.banksFor k.keyForm) ((s.groupEntries k).length + 1) = none) :
    s.hold k = s.count 0x07 0x198 2 := by
  simp only [State.hold, State.holdIn, if_neg (not_lt.2 hle), h]

end

/-! ### A held group moves (04 R116, R136, R137, R641) -/

theorem moveGroup_room {s : State} {banks : List Nat} {n b seg : Nat} (h : s.segWith banks n = some (b, seg)) (k : Key)
    (es : List (Nat × Slot)) (own : Nat) : s.moveGroup k es own banks n =
      (((s.updBank own (·.remove (es.map (·.1)))).updBank b (fun x => x.putAll seg es)).drainEnd own, some (b, seg)) := by
  simp only [State.moveGroup, h]

theorem moveGroup_noRoom {s : State} {banks : List Nat} {n : Nat} (h : s.segWith banks n = none) (k : Key)
    (es : List (Nat × Slot)) (own : Nat) : s.moveGroup k es own banks n = ((s.unhold k).count 0x07 0x198 2, none) := by
  simp only [State.moveGroup, h]

theorem segWith_nil (s : State) (n : Nat) : s.segWith [] n = none := rfl

theorem psaDrain_idle {s : State} {bank : Nat} (h : (s.bank bank).state ≠ .draining) (slot : Nat) :
    exec (.psaDrain bank slot) s = .next s := congrArg Host.Outcome.next (if_pos h)

section
variable {s : State} {slot bank : Nat} {k : Key} {es : List (Nat × Slot)} (hk : k = (s.slot slot).key) (hes : es = s.groupEntries k)
include hk hes

theorem psaCompaction_idle (h : s.psaCtrl 2 = false ∨ s.slack .psa = false ∨ s.isHeld k = false ∨
    s.bankOf (es.map (·.1)) ≠ some bank ∨ (s.bank bank).state ≠ .active) : exec (.psaCompaction slot bank) s = .next s := by
  subst hk hes
  refine congrArg Host.Outcome.next ?_
  dsimp only
  split
  next => rfl
  next hrun =>
    simp only [Bool.not_eq_true', not_or, Bool.not_eq_false] at hrun
    obtain ⟨hctrl, hslack, hheld⟩ := hrun
    split
    next => rfl
    next b hb =>
      refine if_pos ?_
      rcases h with h | h | h | h | h
      · simp [hctrl] at h
      · simp [hslack] at h
      · simp [hheld] at h
      · exact .inl fun e => h (e ▸ hb)
      · by_cases e : b = bank
        · exact .inr (e ▸ h)
        · exact .inl e

/-- Compaction that runs: to a bank that is less full, or else by R136, or not at all. -/
theorem psaCompaction_runs (hctrl : s.psaCtrl 2 = true) (hslack : s.slack .psa = true) (hheld : s.isHeld k = true)
    (hbank : s.bankOf (es.map (·.1)) = some bank) (hact : (s.bank bank).state = .active) : exec (.psaCompaction slot bank) s = .next (
      if (s.segWith (s.skewed bank) (es.length + 1)).isSome then (s.moveGroup k es bank (s.skewed bank) (es.length + 1)).1
      else if s.skewed bank ≠ [] then (s.relocate k es bank (es.length + 1)).1
      else if (s.groupSeg bank (es.map (·.1))).any (s.segTight bank) then (s.relocate k es bank (es.length + 1)).1
      else s) := by
  subst hk hes
  refine congrArg Host.Outcome.next ?_
  simp only [hctrl, hslack, hheld, hbank, hact, Bool.not_true, Bool.false_eq_true, or_self, ne_eq, not_true_eq_false, if_false]

theorem psaDrain_runs (h : (s.bank bank).state = .draining) : exec (.psaDrain bank slot) s = .next (
    if !(s.bank bank).rows.any (fun e => (es.map (·.1)).contains e.2.dir) then s.drainEnd bank
    else (s.moveGroup k es bank (s.banksFor k.keyForm) (es.length + 1)).1) := by
  subst hk hes
  exact congrArg Host.Outcome.next (if_neg (not_not.2 h))

end

/-! ### Re-homing (04 R150, R641) -/

/-- The head word of the first group in the image of a bank: its physical row and the word. -/
def Bank.firstHead (b : Bank) : Option (Nat × Nat) := b.image.find? (fun e => decide (e.2 / 2 ^ 62 = 1))

theorem psaRehome_idle {s : State} {bank t : Nat} (h : s.psaCtrl 0 = false ∨ (s.at_ t).slack .psa = false ∨
    (s.bank bank).state ≠ .failed ∨ (s.at_ t).clk < s.psa.rehomeAt ∨ (s.bank bank).firstHead = none) :
    exec (.psaRehome bank t) s = .next (s.at_ t) := by
  refine congrArg Host.Outcome.next ?_
  dsimp only
  split
  next => rfl
  next hrun =>
    simp only [Bool.not_eq_true', not_or, Bool.not_eq_false] at hrun
    obtain ⟨hctrl, hslack, hfailed, htime⟩ := hrun
    have hnone : (s.bank bank).firstHead = none := by
      rcases h with h | h | h | h | h
      · exact absurd (h.symm.trans hctrl) Bool.false_ne_true
      · exact absurd (h.symm.trans hslack) Bool.false_ne_true
      · exact absurd h hfailed
      · exact absurd h htime
      · exact h
    split
    next => rfl
    next r m hsome => exact absurd (hnone.symm.trans hsome) (Option.some_ne_none _).symm

/-- The first group leaves the failed bank, and is held anew if that is due. -/
def State.rehomed (s : State) (bank r : Nat) (v : Slot) : State :=
  let w := s.updBank bank (fun x => (x.remove ((s.groupSlots v.key (fun _ => true)).map (·.1))).drop [r / 2 ^ x.width])
  { w with psa := { w.psa with rehomeAt := s.clk + ((s.groupEntries v.key).length * 1000000 +
      s.cfgFld (pg 0x07 + 0x114) 0 16 - 1) / s.cfgFld (pg 0x07 + 0x114) 0 16 } }

section
variable {s : State} {bank t r m : Nat} (hctrl : s.psaCtrl 0 = true) (hslack : (s.at_ t).slack .psa = true)
  (hfailed : (s.bank bank).state = .failed) (htime : s.psa.rehomeAt ≤ (s.at_ t).clk)
  (hhead : (s.bank bank).firstHead = some (r, m))
include hctrl hslack hfailed htime hhead

theorem psaRehome_runs : exec (.psaRehome bank t) s = .next (
    if (s.bank bank).imgBad.contains r then ((s.at_ t).withdrawSeg bank (r / 64)).failStacks
    else if s.holdDue (s.slot (m % 2 ^ 26)) then ((s.at_ t).rehomed bank r (s.slot (m % 2 ^ 26))).hold (s.slot (m % 2 ^ 26)).key
    else (s.at_ t).rehomed bank r (s.slot (m % 2 ^ 26))) := by
  have hgo : ¬ ((!(s.at_ t).psaCtrl 0) = true ∨ (!(s.at_ t).slack .psa) = true ∨ ((s.at_ t).bank bank).state ≠ .failed ∨
      (s.at_ t).clk < (s.at_ t).psa.rehomeAt) := by
    rintro (h | h | h | h)
    · simp [show (s.at_ t).psaCtrl 0 = true from hctrl] at h
    · simp [hslack] at h
    · exact h hfailed
    · exact absurd h (not_lt.2 htime)
  refine congrArg Host.Outcome.next ((if_neg hgo).trans ?_)
  have hhead' : ((s.at_ t).bank bank).image.find? (fun e => decide (e.2 / 2 ^ 62 = 1)) = some (r, m) := hhead
  rw [hhead']
  rfl

end

/-- Settles O3: the commands on held groups case by case, over the outcomes of `hold` and `moveGroup`. -/
theorem psaGroupsHeldWhole : Obligations.PsaGroupsHeldWhole := by
  unfold Obligations.PsaGroupsHeldWhole
  refine ⟨fun s slot => ⟨psaInsert_unasked, fun hw u hu => ?insert⟩,
    fun s k es hes => hes ▸ ⟨hold_tooLarge, fun hle => ⟨fun b seg => hold_room hle, hold_noRoom hle⟩⟩,
    fun s k es own banks n => ⟨fun b seg h => moveGroup_room h k es own, fun h => moveGroup_noRoom h k es own⟩,
    fun s slot bank k es hk hes => ⟨psaCompaction_idle hk hes, fun hctrl hslack hheld hbank hact => ?compact⟩,
    fun s slot bank k es hk hes => ⟨fun h => psaDrain_idle h slot, fun hd => ?drain⟩,
    fun s bank t f hf => hf ▸ ⟨psaRehome_idle, fun r m v hctrl hslack hfailed htime hhead hv => ?rehome⟩⟩
  case insert =>
    subst hu
    exact ⟨psaInsert_drops hw, psaInsert_holds hw⟩
  case compact =>
    rw [psaCompaction_runs hk hes hctrl hslack hheld hbank hact]
    refine ⟨fun h => congrArg _ (if_pos h), fun hskew hnone => ?_, fun hskew hloose => ?_, fun seg hskew hseg htight => ?_⟩
    · rw [if_neg (by simp [hnone]), if_pos hskew]
      rfl
    · rw [hskew, segWith_nil, if_neg (by simp), if_neg (by simp), if_neg]
      cases hseg : s.groupSeg bank (es.map (·.1)) with
      | none => simp
      | some seg => simp [hloose seg hseg]
    · rw [hskew, segWith_nil, if_neg (by simp), if_neg (by simp), if_pos (by simp [hseg, htight])]
      rfl
  case drain =>
    rw [psaDrain_runs hk hes hd]
    exact ⟨fun h => congrArg _ (if_neg (by rw [h]; decide)), fun h => congrArg _ (if_pos (by rw [h]; decide))⟩
  case rehome =>
    subst hv
    rw [psaRehome_runs hctrl hslack hfailed htime hhead]
    refine ⟨fun h => congrArg _ (if_pos h), fun h w u hw hu => ?_⟩
    subst hw hu
    rw [if_neg (by rw [h]; decide)]
    rfl

end Sys2Proof.Machine

/-! The PSA's temperature levels, failed banks and injected errors (04). -/

namespace Sys2Proof.Machine

/-! ### Throttling by temperature (04 R145, R146) -/

/-- The temperature of a throttle step. -/
def State.stepTemp (s : State) (n : Nat) : Nat := s.cfgFld (pg 0x07 + 0x104) (8 * n) 8

/-- The highest throttle step that a temperature reaches. -/
def State.stepReached (s : State) (hot : Nat) : Nat :=
  if s.stepTemp 3 ≤ hot then 3 else if s.stepTemp 2 ≤ hot then 2 else if s.stepTemp 1 ≤ hot then 1 else 0

theorem stepReached_le {s : State} {hot n : Nat} (h : ∀ m, n < m → m ≤ 3 → hot < s.stepTemp m) : s.stepReached hot ≤ n := by
  have reached : ∀ m, m ≤ 3 → s.stepTemp m ≤ hot → m ≤ n := fun m hm hle =>
    not_lt.1 fun hlt => absurd (h m hlt hm) (not_lt.2 hle)
  unfold State.stepReached
  split
  next h3 => exact reached 3 le_rfl h3
  next =>
    split
    next h2 => exact reached 2 (by decide) h2
    next =>
      split
      next h1 => exact reached 1 (by decide) h1
      next => exact Nat.zero_le n

theorem le_stepReached {s : State} {hot n : Nat} (hn : n ≤ 3) (h : s.stepTemp n ≤ hot) : n ≤ s.stepReached hot := by
  unfold State.stepReached
  split
  next => exact hn
  next h3 =>
    have hn3 : n ≠ 3 := fun e => h3 (e ▸ h)
    split
    next => omega
    next h2 =>
      have hn2 : n ≠ 2 := fun e => h2 (e ▸ h)
      split
      next => omega
      next h1 =>
        have hn1 : n ≠ 1 := fun e => h1 (e ▸ h)
        omega

/-- The temperature level after a sample. -/
def State.tempLevelAfter (s : State) (hot : Nat) : Nat :=
  if s.psa.tempLevel < s.stepReached hot then s.stepReached hot
  else if 0 < s.psa.tempLevel ∧ hot + s.cfgFld (pg 0x07 + 0x104) 0 4 < s.stepTemp s.psa.tempLevel then s.psa.tempLevel - 1
  else s.psa.tempLevel

section
variable {s : State} {hot : Nat}

theorem tempLevelAfter_rises {n : Nat} (hn : n ≤ 3) (hlow : s.psa.tempLevel < n) (hreach : s.stepTemp n ≤ hot)
    (hmax : ∀ m, n < m → m ≤ 3 → hot < s.stepTemp m) : s.tempLevelAfter hot = n := by
  have heq : s.stepReached hot = n := le_antisymm (stepReached_le hmax) (le_stepReached hn hreach)
  simp only [State.tempLevelAfter, heq, hlow, if_true]

variable (hmax : ∀ m, s.psa.tempLevel < m → m ≤ 3 → hot < s.stepTemp m)
include hmax

theorem tempLevelAfter_falls (hpos : 0 < s.psa.tempLevel)
    (hcool : hot + s.cfgFld (pg 0x07 + 0x104) 0 4 < s.stepTemp s.psa.tempLevel) :
    s.tempLevelAfter hot = s.psa.tempLevel - 1 := (if_neg (not_lt.2 (stepReached_le hmax))).trans (if_pos ⟨hpos, hcool⟩)

theorem tempLevelAfter_stays (h : s.psa.tempLevel = 0 ∨
    s.stepTemp s.psa.tempLevel ≤ hot + s.cfgFld (pg 0x07 + 0x104) 0 4) : s.tempLevelAfter hot = s.psa.tempLevel := by
  refine (if_neg (not_lt.2 (stepReached_le hmax))).trans (if_neg ?_)
  rintro ⟨hpos, hcool⟩
  omega

end

/-- A sample at a time notes the temperature of the hottest sensor. -/
def State.sampled (s : State) (t hot : Nat) : State := { s.at_ t with psa := { s.psa with tempC := hot } }

theorem exec_psaTempSample (t : Nat) (temps : List Nat) (s : State) : exec (.psaTempSample t temps) s =
    .next ((s.sampled t (temps.foldl max 0)).setPsaLevels (s.tempLevelAfter (temps.foldl max 0)) s.psa.powerLevel) := rfl

/-- Levels with the same maximum as before are no THROTTLE_CHANGE. -/
theorem setPsaLevels_quiet {s : State} {temp power : Nat} (h : max temp power = s.psaLevel) :
    (s.setPsaLevels temp power).regs = s.regs := by
  have hdef : s.setPsaLevels temp power =
      { s with psa := { s.psa with tempLevel := temp, powerLevel := power, slots := s.psaSlots, slotsAt := s.clk } } :=
    if_neg (not_not.2 h)
  rw [hdef]

/-! ### Late scrub passes (04 R142) -/

theorem scrubLate_late {s : State} {b t : Nat} (hb : b < 16) (hctrl : s.psaCtrl 1 = true) (hnew : (s.bank b).late = false)
    (hover : (s.bank b).passAt + s.cfgFld (pg 0x07 + 0x10C) 16 16 * 1000000 < max s.clk t) : exec (.scrubLate b t) s =
      .next (((s.at_ t).setBank b { s.bank b with late := true }).raise 0x07 0) :=
  congrArg Host.Outcome.next (if_pos ⟨hb, hctrl, hnew, hover⟩)

theorem scrubLate_idle {s : State} {b t : Nat} (h : 16 ≤ b ∨ s.psaCtrl 1 = false ∨ (s.bank b).late = true ∨
    max s.clk t ≤ (s.bank b).passAt + s.cfgFld (pg 0x07 + 0x10C) 16 16 * 1000000) : exec (.scrubLate b t) s = .next (s.at_ t) := by
  refine congrArg Host.Outcome.next (if_neg ?_)
  rintro ⟨hb, hctrl, hnew, hover⟩
  rcases h with h | h | h | h
  · omega
  · exact absurd (h.symm.trans hctrl) Bool.false_ne_true
  · exact absurd (hnew.symm.trans h) Bool.false_ne_true
  · exact absurd hover (not_lt.2 h)

/-! ### Banks and directory slots: a read after a write -/

theorem bank_setBank_ne (s : State) {b c : Nat} (v : Bank) (h : c ≠ b) : (s.setBank b v).bank c = s.bank c := sget_sset_ne v h

theorem bank_setBank_new (s : State) (b : Nat) {v : Bank} (h : v ≠ Bank.reset) : (s.setBank b v).bank b = v := sget_sset_new b h

theorem bank_of_psa {s t : State} (h : t.psa = s.psa) (b : Nat) : t.bank b = s.bank b := by simp only [State.bank, h]

/-- A bank whose state is not EMPTY is not the bank of the reset. -/
theorem Bank.ne_reset_of_state {v : Bank} (h : v.state ≠ .empty) : v ≠ Bank.reset := fun e => h (e ▸ rfl)

theorem slot_of_dir {s t : State} (h : t.dir = s.dir) (i : Nat) : t.slot i = s.slot i := by simp only [State.slot, h]

theorem slot_setSlot_ne (s : State) {i j : Nat} (v : Slot) (h : j ≠ i) : (s.setSlot i v).slot j = s.slot j := sget_sset_ne v h

theorem slot_setSlot_self {s : State} (h : s.dir.slots.rising) (i : Nat) (v : Slot) : (s.setSlot i v).slot i = v :=
  sget_sset_self _ i v h

theorem rising_setSlot {s : State} (h : s.dir.slots.rising) (i : Nat) (v : Slot) : (s.setSlot i v).dir.slots.rising :=
  rising_sset _ i v h

/-! ### Slots that are held no more (04 R148) -/

/-- The slots of a list are held no more. -/
def State.dropHeld (s : State) (l : List Nat) : State := l.foldl (fun s i => s.updSlot i (fun v => { v with held := false })) s

theorem dropHeld_frame : ∀ (l : List Nat) (s : State), s.dropHeld l = { s with dir := (s.dropHeld l).dir }
  | [], _ => rfl
  | i :: l, s => by
    have ih := dropHeld_frame l (s.updSlot i (fun v => { v with held := false }))
    exact ih

theorem slot_dropHeld_other : ∀ {l : List Nat} {s : State} {i : Nat}, i ∉ l → (s.dropHeld l).slot i = s.slot i
  | [], _, _, _ => rfl
  | _ :: l, s, i, h => by
    obtain ⟨hj, hl⟩ : i ≠ _ ∧ i ∉ l := by simpa using h
    exact (slot_dropHeld_other (l := l) hl).trans (slot_setSlot_ne s _ hj)

/-- A slot of the list, and one that was not held before, is not held after. -/
theorem held_dropHeld : ∀ {l : List Nat} {s : State} {i : Nat}, s.dir.slots.rising → i ∈ l ∨ (s.slot i).held = false →
    ((s.dropHeld l).slot i).held = false
  | [], _, _, _, h => h.resolve_left List.not_mem_nil
  | j :: l, s, i, hr, h => by
    refine held_dropHeld (l := l) (s := s.updSlot j _) (rising_setSlot hr j _) ?_
    by_cases hij : i = j
    · subst hij
      exact .inr (by rw [State.updSlot, slot_setSlot_self hr])
    · refine h.imp (fun hm => (List.mem_cons.1 hm).resolve_left hij) fun hh => ?_
      rwa [State.updSlot, slot_setSlot_ne s _ hij]

/-! ### A bank fails (04 R148) -/

/-- Directory indices of the entries of a bank. -/
def Bank.dirs (b : Bank) : List Nat := b.rows.map (fun e => e.2.dir)

/-- A bank is FAILED and its entries are held no more: before the failure is noted. -/
def State.bankDown (s : State) (b : Nat) : State :=
  (s.dropHeld (s.bank b).dirs).updBank b (fun x => { x with state := .failed })

/-- A bank has failed, but for the record of the failure. -/
def State.bankNoted (s : State) (b : Nat) : State :=
  let v := ((s.bankDown b).raise 0x07 4).raise (0x08 + b) 2
  { v with free := s.free + 1 }

theorem bankFail_failed {s : State} {b : Nat} (h : (s.bank b).state = .failed) : s.bankFail b = s := if_pos h

theorem dropHeld_psa (s : State) (l : List Nat) : (s.dropHeld l).psa = s.psa := by rw [dropHeld_frame]

theorem dropHeld_free (s : State) (l : List Nat) : (s.dropHeld l).free = s.free := by rw [dropHeld_frame]

/-- What the failure of a bank notes changes registers, pending vectors, the messages sent and the free values. -/
theorem bankNoted_frame (s : State) (b : Nat) : s.bankNoted b = { s.bankDown b with
    regs := (s.bankNoted b).regs, fns := (s.bankNoted b).fns, out := (s.bankNoted b).out, free := s.free + 1 } := by
  have h : NotesOnly [pg 0x07 + 0x10, pg (0x08 + b) + 0x10] (s.bankDown b) (((s.bankDown b).raise 0x07 4).raise (0x08 + b) 2) :=
    ((notesOnly_raise _ _ _).mono (by simp)).trans ((notesOnly_raise _ _ _).mono (by simp))
  unfold State.bankNoted
  dsimp only
  conv_lhs => rw [h.1]

theorem bankNoted_psa (s : State) (b : Nat) : (s.bankNoted b).psa = (s.bankDown b).psa := by rw [bankNoted_frame]

theorem bankNoted_dir (s : State) (b : Nat) : (s.bankNoted b).dir = (s.dropHeld (s.bank b).dirs).dir := by
  rw [bankNoted_frame]
  rfl

theorem bankFail_records {s : State} {b : Nat} (h : (s.bank b).state ≠ .failed) :
    s.bankFail b = (s.bankNoted b).rasRecord (0x08 + b) 0x0A 2 b (Config.freeNat s.free) := by
  have hfree : (((s.bankDown b).raise 0x07 4).raise (0x08 + b) 2).free = s.free := by
    rw [(notesOnly_raise _ _ _).1, (notesOnly_raise _ _ _).1]
    exact dropHeld_free s _
  have hdef : s.bankFail b = (((s.bankDown b).raise 0x07 4).raise (0x08 + b) 2).fresh.2.rasRecord (0x08 + b) 0x0A 2 b
      (Config.freeNat (((s.bankDown b).raise 0x07 4).raise (0x08 + b) 2).free) := by
    unfold State.bankFail State.bankDown State.dropHeld Bank.dirs
    exact if_neg h
  rw [hdef, State.fresh, State.bankNoted, hfree]

theorem bankFail_psa {s : State} {b : Nat} (h : (s.bank b).state ≠ .failed) : (s.bankFail b).psa = (s.bankDown b).psa := by
  rw [bankFail_records h, (rasOnly_rasRecord _ _ _ _ _ _).psa, bankNoted_psa]

/-- A bank that fails is FAILED, and else as it was. -/
theorem bank_bankDown_self (s : State) (b : Nat) : (s.bankDown b).bank b = { s.bank b with state := .failed } := by
  have hb : (s.dropHeld (s.bank b).dirs).bank b = s.bank b := bank_of_psa (dropHeld_psa s _) b
  rw [State.bankDown, State.updBank, hb]
  exact bank_setBank_new _ b (Bank.ne_reset_of_state (by simp))

theorem bank_bankDown_ne (s : State) {b c : Nat} (h : c ≠ b) : (s.bankDown b).bank c = s.bank c :=
  (bank_setBank_ne _ _ h).trans (bank_of_psa (dropHeld_psa s _) c)

theorem bank_bankFail_self {s : State} {b : Nat} (h : (s.bank b).state ≠ .failed) :
    (s.bankFail b).bank b = { s.bank b with state := .failed } :=
  (bank_of_psa (bankFail_psa h) b).trans (bank_bankDown_self s b)

theorem bank_bankFail_ne (s : State) {b c : Nat} (h : c ≠ b) : (s.bankFail b).bank c = s.bank c := by
  by_cases hf : (s.bank b).state = .failed
  · rw [bankFail_failed hf]
  · exact (bank_of_psa (bankFail_psa hf) c).trans (bank_bankDown_ne s h)

theorem exec_bankFailed (b : Nat) (s : State) : exec (.bankFailed b) s = .next (if b < 16 then s.bankFail b else s) := rfl

theorem exec_psaForceFail (src : Src) (b : Nat) (s : State) : exec (.psaForceFail src b) s =
    .next (if b < 16 ∧ s.pageOn src (0x08 + b) = true ∧ s.reached .verify = true then s.bankFail b else s) := rfl

theorem exec_psaInject (src : Src) (b : Nat) (s : State) : exec (.psaInject src b) s =
    .next (if b < 16 ∧ s.pageOn src (0x08 + b) = true ∧ s.reached .verify = true then
      s.setBank b { s.bank b with inject := true } else s) := rfl

/-- Settles O4: the temperature level by its three cases; a failed bank by the slots and banks that `bankFail` writes. -/
theorem psaThrottleAndBankFailure : Obligations.PsaThrottleAndBankFailure := by
  unfold Obligations.PsaThrottleAndBankFailure
  refine ⟨fun s t temps hot hhot => ?temp, fun s b t => ⟨scrubLate_late, scrubLate_idle⟩,
    fun s src b => ⟨fun hb => ⟨?failed, fun hpage hup => ?forced⟩, fun h => ?closed, fun hb => ?noBank, bankFail_failed,
      fun hok => ⟨?state, s.bankNoted b, bankFail_records hok, fun hr e he => ?held, fun i hi => ?other⟩⟩⟩
  case temp =>
    subst hhot
    have hnotes := setPsaLevels_notes (s.sampled t (temps.foldl max 0)) (s.tempLevelAfter (temps.foldl max 0)) s.psa.powerLevel
    refine ⟨_, exec_psaTempSample t temps s, ?_, ?_, ?_, ?_, ?_⟩
    · conv_lhs => rw [hnotes.1]
      conv_rhs => rw [hnotes.1]
      rfl
    · rw [hnotes.psa]
      rfl
    · rw [hnotes.psa]
      exact fun n _ hn hlow hreach hmax => tempLevelAfter_rises hn hlow hreach hmax
    · rw [hnotes.psa]
      exact fun hmax => ⟨tempLevelAfter_falls hmax, tempLevelAfter_stays hmax⟩
    · rw [hnotes.psa]
      exact fun h => setPsaLevels_quiet (s := s.sampled t (temps.foldl max 0)) h
  case failed => rw [exec_bankFailed, if_pos hb]
  case forced =>
    have hgo : b < 16 ∧ s.pageOn src (0x08 + b) = true ∧ s.reached .verify = true := ⟨hb, hpage, hup⟩
    rw [exec_psaForceFail, exec_psaInject, if_pos hgo, if_pos hgo]
    exact ⟨rfl, rfl⟩
  case closed =>
    have hno : ¬ (b < 16 ∧ s.pageOn src (0x08 + b) = true ∧ s.reached .verify = true) := by
      rintro ⟨hb, hpage, hup⟩
      rcases h with h | h | h
      · omega
      · exact absurd (h.symm.trans hpage) Bool.false_ne_true
      · exact absurd (h.symm.trans hup) Bool.false_ne_true
    rw [exec_psaForceFail, exec_psaInject, if_neg hno, if_neg hno]
    exact ⟨rfl, rfl⟩
  case noBank => rw [exec_bankFailed, if_neg (not_lt.2 hb)]
  case state => rw [bank_bankFail_self hok]
  case held =>
    rw [slot_of_dir (bankNoted_dir s b)]
    exact held_dropHeld hr (.inl (List.mem_map_of_mem he))
  case other =>
    rw [slot_of_dir (bankNoted_dir s b)]
    refine slot_dropHeld_other fun hm => ?_
    obtain ⟨e, he, hdir⟩ := List.mem_map.1 hm
    exact hi e he hdir

end Sys2Proof.Machine

/-! The PSA's scrubber and its start-up rebuild (04). -/

namespace Sys2Proof.Machine

/-! ### When the scrubber reads (04 R140) -/

/-- The read is taken, and the time of the next one is set. -/
def State.scrubTaken (s : State) : State :=
  { s with psa := { s.psa with scrubAt := s.clk + psaNs (s.cfgFld (pg 0x07 + 0x10C) 0 16) } }

section
variable {s w : State} {t : ScrubRead} (hw : w = t.upsets.foldl State.upset (s.at_ t.at_))
include hw

theorem psaScrubRead_idle (h : w.psaCtrl 1 = false ∨ w.reached .psa = false ∨ w.clk < w.psa.scrubAt) :
    exec (.psaScrubRead t) s = .next w := by
  subst hw
  exact congrArg Host.Outcome.next (if_pos (by simpa only [Bool.not_eq_true'] using h))

theorem psaScrubRead_due (hctrl : w.psaCtrl 1 = true) (hup : w.reached .psa = true) (htime : w.psa.scrubAt ≤ w.clk) :
    exec (.psaScrubRead t) s = .next ((List.range 16).foldl (fun u b =>
      if (!w.scrubTaken.slack .psa) = true ∧ (u.bank b).late = false then u else u.scrubBank b) w.scrubTaken).failStacks := by
  subst hw
  refine congrArg Host.Outcome.next (if_neg ?_)
  rintro (h | h | h)
  · simp [hctrl] at h
  · simp [hup] at h
  · exact absurd h (not_lt.2 htime)

/-- In slack the read is of every bank. -/
theorem psaScrubRead_slack (hctrl : w.psaCtrl 1 = true) (hup : w.reached .psa = true) (htime : w.psa.scrubAt ≤ w.clk)
    (hslack : w.scrubTaken.slack .psa = true) :
    exec (.psaScrubRead t) s = .next ((List.range 16).foldl State.scrubBank w.scrubTaken).failStacks := by
  rw [psaScrubRead_due hw hctrl hup htime]
  simp only [hslack, Bool.not_true, Bool.false_eq_true, false_and, if_false]

/-- Out of slack it is of the banks whose pass is late. -/
theorem psaScrubRead_busy (hctrl : w.psaCtrl 1 = true) (hup : w.reached .psa = true) (htime : w.psa.scrubAt ≤ w.clk)
    (hslack : w.scrubTaken.slack .psa = false) : exec (.psaScrubRead t) s =
      .next ((List.range 16).foldl (fun u b => if (u.bank b).late then u.scrubBank b else u) w.scrubTaken).failStacks := by
  have hstep : ∀ (u : State) (b : Nat),
      (if (!w.scrubTaken.slack .psa) = true ∧ (u.bank b).late = false then u else u.scrubBank b) =
        if (u.bank b).late then u.scrubBank b else u := by
    intro u b
    cases hl : (u.bank b).late <;> simp [hslack]
  rw [psaScrubRead_due hw hctrl hup htime]
  simp only [hstep]

end

/-! ### The row that is read (04 R140 to R144) -/

section
variable {s : State} {b : Nat}

theorem scrubInject_none (h : (s.bank b).inject = false) : s.scrubInject b = s := if_neg (by simp [h])

/-- Sound result words are read without a note. -/
theorem scrubWord_sound (h : ∀ e ∈ (s.bank b).rows, e.2.err = .ok) : s.scrubWord b = s := by
  unfold State.scrubWord
  dsimp only
  split
  next j r hr =>
    have hok : r.err = .ok := h _ (List.mem_of_find?_eq_some hr)
    simp only [State.wordRead, hok, ite_self]
  next => rfl

variable (hinject : (s.bank b).inject = false) (hsound : ∀ e ∈ (s.bank b).rows, e.2.err = .ok)
include hinject hsound

theorem scrubBank_sound : s.scrubBank b = State.scrubNext (
    if (s.bank b).imgBad.contains (s.bank b).scrub then s.withdrawSeg b ((s.bank b).scrub / 64)
    else if (s.bank b).scrubOk (s.bank b).scrub then s
    else s.psaRepair b ((s.bank b).scrub / 2 ^ (s.bank b).width)) b := by
  simp only [State.scrubBank, scrubInject_none hinject, scrubWord_sound hsound]

theorem scrubBank_unreadable (hbad : (s.bank b).imgBad.contains (s.bank b).scrub = true) :
    s.scrubBank b = (s.withdrawSeg b ((s.bank b).scrub / 64)).scrubNext b := by
  rw [scrubBank_sound hinject hsound, if_pos hbad]

variable (hgood : (s.bank b).imgBad.contains (s.bank b).scrub = false)
include hgood

theorem scrubBank_repairs (hwrong : (s.bank b).scrubOk (s.bank b).scrub = false) :
    s.scrubBank b = (s.psaRepair b ((s.bank b).scrub / 2 ^ (s.bank b).width)).scrubNext b := by
  rw [scrubBank_sound hinject hsound, hgood, hwrong]
  rfl

theorem scrubBank_passes (hright : (s.bank b).scrubOk (s.bank b).scrub = true) : s.scrubBank b = s.scrubNext b := by
  rw [scrubBank_sound hinject hsound, hgood, hright]
  rfl

end

theorem scrubNext_row {s : State} {b : Nat} (h : (s.bank b).scrub + 1 ≠ 2 ^ 18) :
    s.scrubNext b = s.setBank b { s.bank b with scrub := (s.bank b).scrub + 1 } := if_neg h

theorem scrubNext_pass {s : State} {b : Nat} (h : (s.bank b).scrub + 1 = 2 ^ 18) : s.scrubNext b =
    (s.setBank b { s.bank b with scrub := 0, passRepairs := 0, passAt := s.clk, late := false }).bump (pg (0x08 + b) + 0x114) :=
  if_pos h

/-! ### The start-up rebuild (04 R152; R151, R156) -/

/-- An empty bank as its configuration has it. -/
def State.configuredBank (s : State) (b : Nat) : Bank :=
  { Bank.reset with
    inject := (s.bank b).inject, width := s.bankWidth b, state := if s.bankEnable b then .active else .empty, passAt := s.clk }

/-- The rebuild of a bank: it is set up and, if enabled, tested. -/
def State.rebuildBank (failing : List Nat) (s : State) (b : Nat) : State :=
  if (s.bank b).state = .failed then s
  else if s.bankEnable b && failing.contains b then (s.setBank b (s.configuredBank b)).bankFail b
  else s.setBank b (s.configuredBank b)

/-- Every bank set up and tested. -/
def State.psaRebuilt (s : State) (failing : List Nat) : State :=
  (List.range 16).foldl (State.rebuildBank failing) { s with phaseDone := true }

theorem psaRebuild_idle {s : State} (h : s.start ≠ .psa ∨ s.phaseDone = true) (failing : List Nat) :
    exec (.psaRebuild failing) s = .next s := congrArg Host.Outcome.next (if_pos h)

theorem psaRebuild_due {s : State} (hstart : s.start = .psa) (hnew : s.phaseDone = false) (failing : List Nat) :
    exec (.psaRebuild failing) s = .next (s.psaRebuilt failing).holdAll :=
  congrArg Host.Outcome.next (if_neg (by simp [hstart, hnew]))

/-- `t` is `s` but for the banks and what a failed bank notes. -/
def BanksOnly (s t : State) : Prop := t = { s with
  psa := t.psa, free := t.free, regs := t.regs, out := t.out, ras := t.ras, port0 := t.port0, port1 := t.port1, fns := t.fns }

namespace BanksOnly

variable {s t u : State}

theorem refl (s : State) : BanksOnly s s := rfl

theorem trans (h : BanksOnly s t) (h' : BanksOnly t u) : BanksOnly s u := by
  unfold BanksOnly at *
  rw [h', h]

theorem clk (h : BanksOnly s t) : t.clk = s.clk := by rw [h]
theorem act (h : BanksOnly s t) : t.act = s.act := by rw [h]
theorem dir (h : BanksOnly s t) : t.dir = s.dir := by rw [h]
theorem page (h : BanksOnly s t) : t.page = s.page := by rw [h]
theorem tier (h : BanksOnly s t) : t.tier = s.tier := by rw [h]
theorem phaseDone (h : BanksOnly s t) : t.phaseDone = s.phaseDone := by rw [h]

end BanksOnly

theorem RasOnly.banksOnly {s t : State} (h : RasOnly s t) : BanksOnly s t := by
  unfold BanksOnly
  rw [h]

theorem banksOnly_setBank (s : State) (b : Nat) (v : Bank) : BanksOnly s (s.setBank b v) := rfl

/-- A bank without entries that fails leaves the directory as it is. -/
theorem banksOnly_bankFail {s : State} {b : Nat} (h : (s.bank b).rows = []) : BanksOnly s (s.bankFail b) := by
  by_cases hf : (s.bank b).state = .failed
  · rw [bankFail_failed hf]
    exact .refl s
  · have hdown : s.bankDown b = s.setBank b { s.bank b with state := .failed } := by
      have hdirs : (s.bank b).dirs = [] := by rw [Bank.dirs, h]; rfl
      rw [State.bankDown, hdirs]
      rfl
    have hnoted : BanksOnly s (s.bankNoted b) := by
      unfold BanksOnly
      rw [bankNoted_frame, hdown]
      rfl
    have hrecord : BanksOnly (s.bankNoted b) (s.bankFail b) := by
      rw [bankFail_records hf]
      exact (rasOnly_rasRecord _ _ _ _ _ _).banksOnly
    exact hnoted.trans hrecord

section
variable (failing : List Nat) {s : State} {b : Nat}

theorem configuredBank_ne_reset (hclk : s.clk ≠ 0) : s.configuredBank b ≠ Bank.reset := fun h =>
  hclk (congrArg Bank.passAt h)

theorem rebuildBank_frame (s : State) (b : Nat) (hclk : s.clk ≠ 0) : BanksOnly s (s.rebuildBank failing b) := by
  unfold State.rebuildBank
  split
  · exact .refl s
  · split
    · refine (banksOnly_setBank s b _).trans (banksOnly_bankFail ?_)
      rw [bank_setBank_new s b (configuredBank_ne_reset hclk)]
      rfl
    · exact banksOnly_setBank s b _

theorem bank_rebuildBank_ne (s : State) {c : Nat} (h : c ≠ b) : (s.rebuildBank failing b).bank c = s.bank c := by
  unfold State.rebuildBank
  split
  · rfl
  · split
    · rw [bank_bankFail_ne _ h, bank_setBank_ne s _ h]
    · exact bank_setBank_ne s _ h

/-- A bank after the rebuild. -/
def State.rebuiltBank (s : State) (b : Nat) : Bank :=
  if (s.bank b).state = .failed then s.bank b
  else if s.bankEnable b && failing.contains b then { s.configuredBank b with state := .failed }
  else s.configuredBank b

theorem bank_rebuildBank_self (hclk : s.clk ≠ 0) : (s.rebuildBank failing b).bank b = s.rebuiltBank failing b := by
  have hset : (s.setBank b (s.configuredBank b)).bank b = s.configuredBank b :=
    bank_setBank_new s b (configuredBank_ne_reset hclk)
  unfold State.rebuildBank State.rebuiltBank
  split
  · rfl
  · split
    next htest =>
      have hlive : (s.configuredBank b).state ≠ .failed := by
        simp [State.configuredBank, (Bool.and_eq_true _ _ ▸ htest).1]
      rw [bank_bankFail_self (hset.symm ▸ hlive), hset]
    next => exact hset

/-- What the rebuild makes of a bank is the matter of that bank, its configuration and the time. -/
theorem rebuiltBank_congr {t : State} (hbank : t.bank b = s.bank b) (hact : t.act = s.act) (hclk : t.clk = s.clk) :
    t.rebuiltBank failing b = s.rebuiltBank failing b := by
  have hreg : ∀ a, t.cfgReg a = s.cfgReg a := fun a => congrArg (fun l => sget l (regReset a) a) hact
  have henable : t.bankEnable b = s.bankEnable b := congrArg (bit · 0) (hreg _)
  have hwidth : t.bankWidth b = s.bankWidth b := congrArg (fld · 1 2) (hreg _)
  have hconf : t.configuredBank b = s.configuredBank b := by
    unfold State.configuredBank
    rw [hbank, henable, hwidth, hclk]
  unfold State.rebuiltBank
  rw [hbank, henable, hconf]

theorem foldl_rebuildBank : ∀ (l : List Nat) {s : State}, l.Nodup → s.clk ≠ 0 →
    BanksOnly s (l.foldl (State.rebuildBank failing) s) ∧
      ∀ b, (l.foldl (State.rebuildBank failing) s).bank b = if b ∈ l then s.rebuiltBank failing b else s.bank b
  | [], s, _, _ => ⟨.refl s, fun b => (if_neg List.not_mem_nil).symm⟩
  | c :: l, s, hl, hclk => by
    obtain ⟨hc, hl⟩ := List.nodup_cons.1 hl
    have hone := rebuildBank_frame failing s c hclk
    obtain ⟨hframe, hbanks⟩ := foldl_rebuildBank l (s := s.rebuildBank failing c) hl (hone.clk ▸ hclk)
    refine ⟨hone.trans hframe, fun b => (hbanks b).trans ?_⟩
    by_cases hbc : b = c
    · subst hbc
      rw [if_neg hc, if_pos List.mem_cons_self, bank_rebuildBank_self failing hclk]
    · have hb := bank_rebuildBank_ne failing s hbc
      rw [rebuiltBank_congr failing hb hone.act hone.clk, hb]
      simp only [List.mem_cons, hbc, false_or]

/-- The rebuild sets up the 16 banks and ends its phase. -/
theorem psaRebuilt_banks (hclk : s.clk ≠ 0) : BanksOnly { s with phaseDone := true } (s.psaRebuilt failing) ∧
    ∀ b, b < 16 → (s.psaRebuilt failing).bank b = s.rebuiltBank failing b := by
  obtain ⟨hframe, hbanks⟩ := foldl_rebuildBank failing (List.range 16) (s := { s with phaseDone := true }) List.nodup_range hclk
  refine ⟨hframe, fun b hb => (hbanks b).trans ?_⟩
  rw [if_pos (List.mem_range.2 hb)]
  exact rebuiltBank_congr failing rfl rfl rfl

end

/-- While no entry is HOT or SHARED no group is held. -/
theorem holdAll_none {s : State} (h : s.dir.slots.all (fun e => !(e.2.resident && (e.2.hot || e.2.shared))) = true) :
    s.holdAll = s := by
  have hnone : s.dir.slots.filter (fun e => e.2.resident && (e.2.hot || e.2.shared)) = [] := by
    simpa only [List.filter_eq_nil_iff, List.all_eq_true, Bool.not_eq_true', Bool.not_eq_true] using h
  have hgroups : s.hotGroups = [] := by
    unfold State.hotGroups
    rw [hnone]
    rfl
  unfold State.holdAll
  rw [hgroups]
  rfl

/-- Settles O5: a scrub read by when it is due and what row it meets; the rebuild by an induction over its banks. -/
theorem psaScrubAndRebuild : Obligations.PsaScrubAndRebuild := by
  unfold Obligations.PsaScrubAndRebuild
  refine ⟨fun s t w hw => ⟨psaScrubRead_idle hw, fun hctrl hup htime v hv => ?read⟩, fun s b r hr hinject hsound => ?row,
    fun s failing => ⟨fun h => psaRebuild_idle h failing, fun hstart hnew hclk hcold => ?rebuild⟩⟩
  case read =>
    subst hv
    exact ⟨psaScrubRead_slack hw hctrl hup htime, psaScrubRead_busy hw hctrl hup htime⟩
  case row =>
    subst hr
    refine ⟨fun hgood hright => ?_, scrubBank_repairs hinject hsound, scrubBank_unreadable hinject hsound⟩
    rw [scrubBank_passes hinject hsound hgood hright]
    exact ⟨fun h => scrubNext_row h.ne, scrubNext_pass⟩
  case rebuild =>
    obtain ⟨hframe, hbanks⟩ := psaRebuilt_banks failing hclk
    have hcold' : (s.psaRebuilt failing).holdAll = s.psaRebuilt failing := holdAll_none (by rw [hframe.dir]; exact hcold)
    refine ⟨s.psaRebuilt failing, hcold' ▸ psaRebuild_due hstart hnew failing, hframe.phaseDone, hframe.page, hframe.tier,
      fun b hb => ?_⟩
    rw [hbanks b hb, State.rebuiltBank]
    refine ⟨fun hf => if_pos hf, fun hf => ?_⟩
    rw [if_neg hf]
    refine ⟨fun hok => if_neg fun htest => ?_, fun hon hfail => ?_⟩
    · obtain ⟨hon, hfail⟩ : s.bankEnable b = true ∧ b ∈ failing := by simpa using htest
      rcases hok with h | h
      · exact absurd (h.symm.trans hon) Bool.false_ne_true
      · exact h hfail
    · rw [if_pos (by simp [hon, hfail])]

end Sys2Proof.Machine

/-! Proofs (05 R185 to R194): how they open, are renewed, closed and lapse, and how their slots return. -/

namespace Sys2Proof.Machine

/-! ### What reclamation leaves of the directory (05 R189) -/

/-- What every step of a fold keeps, the fold keeps. -/
theorem foldl_keeps {α β : Type} {g : State → β} {f : State → α → State} (hf : ∀ s a, g (f s a) = g s) (l : List α)
    (s : State) : g (l.foldl f s) = g s :=
  List.foldlRecOn l f (motive := fun t => g t = g s) rfl fun t ht a _ => (hf t a).trans ht

@[simp] theorem State.journal_dir (s : State) (b : JBody) : (s.journal b).dir = s.dir := rfl

theorem State.footAdd_dir (s : State) (h n : Nat) : (s.footAdd h n).dir = s.dir := by
  unfold State.footAdd
  dsimp only
  split <;> rfl

theorem State.forgetSlots_dir (s : State) (h : Nat) : (s.forgetSlots h).dir = s.dir :=
  foldl_keeps (g := State.dir) (fun s n => s.footAdd_dir h n) _ s

@[simp] theorem State.unmapT2_dir (s : State) (h : Nat) : (s.unmapT2 h).dir = s.dir := by
  unfold State.unmapT2
  dsimp only
  split
  · rfl
  · exact s.forgetSlots_dir h

@[simp] theorem State.goneMoves_dir (s : State) (i : Nat) : (s.goneMoves i).dir = s.dir := by
  unfold State.goneMoves
  dsimp only
  split
  · exact s.unmapT2_dir _
  · rfl

@[simp] theorem State.dropPages_dir (s : State) (i : Nat) : (s.dropPages i).dir = s.dir := by
  simp only [State.dropPages, State.goneMoves_dir, State.unmapT2_dir]

/-- Freeing a page set is no matter of the directory. -/
@[simp] theorem State.freePset_dir (s : State) (i : Nat) : (s.freePset i).dir = s.dir := by
  simp only [State.freePset, State.setPset_dir, State.dropPages_dir]

theorem State.freeHead_proofs (s : State) (i : Nat) : (s.freeHead i).dir.proofs = s.dir.proofs := by
  unfold State.freeHead
  dsimp only
  split <;> rfl

theorem State.reclaimSlot_proofs (s : State) (i : Nat) : (s.reclaimSlot i).dir.proofs = s.dir.proofs := by
  unfold State.reclaimSlot
  dsimp only
  rw [State.freePset_dir, State.freeHead_proofs]
  split
  · rw [State.journal_dir]
  · rfl

/-- Reclamation ends no proof. -/
@[simp] theorem State.reclaim_proofs (s : State) : s.reclaim.dir.proofs = s.dir.proofs := by
  unfold State.reclaim
  refine foldl_keeps (g := fun s => s.dir.proofs) (fun s e => ?_) _ s
  exact s.reclaimSlot_proofs e.1

/-! ### The next free proof slot (05 R186, R187, R194) -/

/-- Slot `i` is the next free proof slot, never issued before or the oldest that has returned; `d` is the directory without it. -/
def State.NextProofSlot (s : State) (i : Nat) (d : Dir) : Prop :=
  (s.dir.proofFresh < 2 ^ 20 ∧ i = s.dir.proofFresh ∧ d = { s.dir with proofFresh := s.dir.proofFresh + 1 }) ∨
    (2 ^ 20 ≤ s.dir.proofFresh ∧ ∃ r, s.dir.proofBack = i :: r ∧ d = { s.dir with proofBack := r })

/-- The proof that a tenant opens in a slot: of the slot's generation, at the present DIR_SEQ. -/
def State.proofIn (s : State) (i tenant leaseMs : Nat) (implicit : Option Nat) : Proof :=
  ⟨i, s.proofGen i, tenant, s.dirSeq, s.clk, s.clk + leaseMs * 1000000, implicit⟩

section
variable {s : State} {tenant : Nat}

theorem takeProof_quota (h : s.proofLimit tenant ≤ s.openProofs tenant) (leaseMs : Nat) (implicit : Option Nat) :
    s.takeProof tenant leaseMs implicit = (s, .error .quota) := if_pos h

variable (hlimit : s.openProofs tenant < s.proofLimit tenant) (leaseMs : Nat) (implicit : Option Nat)
include hlimit

theorem takeProof_noSlot (hfresh : 2 ^ 20 ≤ s.dir.proofFresh) (hback : s.dir.proofBack = []) :
    s.takeProof tenant leaseMs implicit = (s.raise 0x18 2, .error .notReady) := by
  simp only [State.takeProof, if_neg (not_le.2 hlimit), if_neg (not_lt.2 hfresh), hback]

theorem takeProof_slot {i : Nat} {d : Dir} (h : s.NextProofSlot i d) : s.takeProof tenant leaseMs implicit =
    ({ s with dir := { d with proofs := s.dir.proofs ++ [s.proofIn i tenant leaseMs implicit] } },
      .ok (s.proofIn i tenant leaseMs implicit)) := by
  rcases h with ⟨hfresh, rfl, rfl⟩ | ⟨hfresh, r, hback, rfl⟩
  · simp only [State.takeProof, if_neg (not_le.2 hlimit), if_pos hfresh]
    rfl
  · simp only [State.takeProof, if_neg (not_le.2 hlimit), if_neg (not_lt.2 hfresh), hback]
    rfl

end

/-! ### OPEN_PROOF (05 R186, R187, R190) -/

theorem exec_openProof (id : Nat) (s : State) : exec (.openProof id) s = execOpenProof id s := rfl

section
variable {s : State} {id : Nat} {l : Live} (hnew : s.Fresh id 0x03 l) (hrenew : l.flag 0 = false) (hview : l.flag 1 = false)
  (hup : s.reached .psa = true) (hwords : l.reservedOk 3 [0xFFFF] = true)
include hnew hrenew hview hup hwords

theorem openProof_refused {u : State} {e : Status} (h : s.takeProof l.tenant (s.openLease (l.w 4)) none = (u, .error e)) :
    exec (.openProof id) s = .next (u.fail id e) := by
  simp only [exec_openProof, execOpenProof, hnew.onNew, hrenew, hview, hup, hwords, h, Bool.not_true, Bool.false_eq_true, or_self,
    if_false]

theorem openProof_opens {u : State} {p : Proof} (h : s.takeProof l.tenant (s.openLease (l.w 4)) none = (u, .ok p)) :
    exec (.openProof id) s =
      .next (u.done id (w32 (s.openLease (l.w 4))) ([w32 p.handle] ++ split64 p.snapshot ++ [0])) := by
  simp only [exec_openProof, execOpenProof, hnew.onNew, hrenew, hview, hup, hwords, h, Bool.not_true, Bool.false_eq_true, or_self,
    if_false]

end

/-! ### RENEW (05 R191) -/

/-- The lease that a RENEW grants for the one it asks for (05 R191). -/
def State.renewLease (s : State) (req : Nat) : Nat := min (max 10 (if req = 0 then s.leaseDefault else req)) s.leaseMax

/-- The end of a proof's life: no lease reaches beyond it (05 R191). -/
def State.lifeEnd (s : State) (p : Proof) : Nat := p.openedAt + s.cfgFld (pg 0x18 + 0x104) 0 16 * 1000000000

/-- A proof's expiry after a RENEW now. -/
def State.renewedUntil (s : State) (p : Proof) (req : Nat) : Nat := min (s.clk + s.renewLease req * 1000000) (s.lifeEnd p)

theorem exec_renew (id : Nat) (s : State) : exec (.renew id) s = execRenew id s := rfl

section
variable {s : State} {id : Nat} {l : Live} (hnew : s.Fresh id 0x03 l) (hrenew : l.flag 0 = true) (hview : l.flag 1 = false)
  (hup : s.reached .psa = true) (hwords : l.reservedOk 3 [0xFFFF, 0xFFFFFFFF] = true)
include hnew hrenew hview hup hwords

theorem renew_unknown (hnone : s.proofOf l.tenant (l.w 5) = none) : exec (.renew id) s = .next (s.fail id .staleProof) := by
  simp only [exec_renew, execRenew, hnew.onNew, hrenew, hview, hup, hwords, hnone, Bool.not_true, Bool.false_eq_true, or_self, if_false]

variable {p : Proof} (hp : s.proofOf l.tenant (l.w 5) = some p)
include hp

theorem renew_lapsed (h : usTick p.expiry ≤ s.clk) : exec (.renew id) s = .next (s.fail id .staleProof) := by
  simp only [exec_renew, execRenew, hnew.onNew, hrenew, hview, hup, hwords, hp, h, Bool.not_true, Bool.false_eq_true, or_self, if_false,
    if_true]

variable (hopen : s.clk < usTick p.expiry)
include hopen

theorem renew_lifeOver (h : s.lifeEnd p ≤ s.clk) : exec (.renew id) s = .next ((s.bump (pg 0x18 + 0x1A8)).fail id .conflict) := by
  unfold State.lifeEnd at h
  simp only [exec_renew, execRenew, hnew.onNew, hrenew, hview, hup, hwords, hp, not_le.2 hopen, h, Bool.not_true, Bool.false_eq_true,
    or_self, if_false, if_true]

theorem renew_moves (h : s.clk < s.lifeEnd p) : exec (.renew id) s = .next (State.done
    { s with dir := { s.dir with
        proofs := updIf s.dir.proofs (fun x => decide (x.slot = p.slot)) (fun x => { x with expiry := s.renewedUntil p (l.w 4) }) } }
    id (w32 ((s.renewedUntil p (l.w 4) - s.clk) / 1000000)) ([w32 p.handle] ++ split64 p.snapshot ++ [0])) := by
  unfold State.lifeEnd at h
  simp only [exec_renew, execRenew, hnew.onNew, hrenew, hview, hup, hwords, hp, not_le.2 hopen, not_le.2 h, Bool.not_true,
    Bool.false_eq_true, or_self, if_false]
  rfl

end

/-! ### CLOSE_PROOF and lapse (05 R190, R193) -/

theorem exec_closeProof (id : Nat) (s : State) : exec (.closeProof id) s = execCloseProof id s := rfl

section
variable {s : State} {id : Nat} {l : Live} (hnew : s.Fresh id 0x04 l) (hup : s.reached .psa = true)
  (hwords : l.reservedOk 0 [0xFFFFFFFF] = true)
include hnew hup hwords

theorem closeProof_ends {p : Proof} (hp : s.proofOf l.tenant (l.w 4) = some p) :
    exec (.closeProof id) s = .next ((s.endProof p.slot).done id 0 [0, 0, 0, 0]) := by
  simp only [exec_closeProof, execCloseProof, hnew.onNew, hup, hwords, hp, Bool.not_true, Bool.false_eq_true, if_false]

theorem closeProof_unknown (hnone : s.proofOf l.tenant (l.w 4) = none) :
    exec (.closeProof id) s = .next (s.fail id .staleProof) := by
  simp only [exec_closeProof, execCloseProof, hnew.onNew, hup, hwords, hnone, Bool.not_true, Bool.false_eq_true, if_false]

end

theorem exec_proofLapse (slot t : Nat) (s : State) : exec (.proofLapse slot t) s = execProofLapse slot t s := rfl

section
variable {s : State} {slot : Nat} {p : Proof} (hp : s.dir.proofs.find? (fun p => decide (p.slot = slot)) = some p) (t : Nat)
include hp

theorem proofLapse_ends (hnamed : p.implicit = none) (htick : usTick p.expiry ≤ (s.at_ t).clk) :
    exec (.proofLapse slot t) s = .next (((s.at_ t).endProof slot).bump (pg 0x18 + 0x198)) := by
  simp only [exec_proofLapse, execProofLapse, State.atTime_dir, hp, if_pos (And.intro hnamed htick)]

theorem proofLapse_stays (h : p.implicit ≠ none ∨ (s.at_ t).clk < usTick p.expiry) :
    exec (.proofLapse slot t) s = .next (s.at_ t) := by
  have hstays : ¬ (p.implicit = none ∧ usTick p.expiry ≤ (s.at_ t).clk) := by
    rintro ⟨hnamed, htick⟩
    rcases h with h | h
    · exact h hnamed
    · exact absurd htick (not_le.2 h)
  simp only [exec_proofLapse, execProofLapse, State.atTime_dir, hp, if_neg hstays]

end

/-- The tick of a time is the first whole microsecond not before it. -/
theorem usTick_bounds (t : Nat) : t ≤ usTick t ∧ usTick t < t + 1000 ∧ usTick t % 1000 = 0 := by
  unfold usTick roundUp
  omega

/-! ### The slot of a proof that has ended returns (05 R194) -/

theorem returnProof_proofs (s : State) (slot : Nat) : (s.returnProof slot).dir.proofs = s.dir.proofs := by
  unfold State.returnProof
  split <;> rfl

/-- The end of a proof takes it and no other off the list. -/
theorem endProof_proofs (s : State) (slot : Nat) :
    (s.endProof slot).dir.proofs = s.dir.proofs.filter (fun p => decide (p.slot ≠ slot)) := by
  unfold State.endProof
  rw [State.reclaim_proofs]
  exact returnProof_proofs _ slot

section
variable {s : State} {slot : Nat} (hroom : s.genFull slot = false)
include hroom

theorem returnProof_back : (s.returnProof slot).dir.proofBack = s.dir.proofBack ++ [slot] := by
  rw [State.returnProof, hroom]
  rfl

theorem returnProof_gen (hrising : s.dir.gens.rising) :
    (s.returnProof slot).proofGen slot = if s.proofGen slot = 4095 then 1 else s.proofGen slot + 1 := by
  rw [State.returnProof, hroom]
  exact sget_sset_self _ slot _ hrising

end

/-- Settles O6: OPEN_PROOF by what `takeProof` answers, RENEW by the order of tick, present and end of life, and the end of a
proof by what `endProof` and `returnProof` write. -/
theorem proofsOpenRenewAndEnd : Obligations.ProofsOpenRenewAndEnd := by
  unfold Obligations.ProofsOpenRenewAndEnd
  refine ⟨fun s id l hl hph hc hup => ⟨fun hop hrenew hview hwords => ?opens, fun hop hrenew hview hwords => ?renew,
    fun hop hwords => ?close⟩, fun s slot t p hp => ⟨proofLapse_ends hp t, proofLapse_stays hp t⟩, usTick_bounds,
    fun s slot => ⟨endProof_proofs s slot, fun hroom => ⟨returnProof_back hroom, returnProof_gen hroom⟩⟩⟩
  case opens =>
    have hnew : s.Fresh id 0x03 l := ⟨hl, hop, hph, hc⟩
    refine ⟨fun hlimit lease hlease => ⟨fun i d hslot => ?_, fun hfresh hback => ?_⟩, fun hlimit => ?_⟩
    · subst hlease
      have hopens := openProof_opens hnew hrenew hview hup hwords (takeProof_slot hlimit _ none hslot)
      exact hopens
    · exact openProof_refused hnew hrenew hview hup hwords (takeProof_noSlot hlimit _ none hfresh hback)
    · exact openProof_refused hnew hrenew hview hup hwords (takeProof_quota hlimit _ none)
  case renew =>
    have hnew : s.Fresh id 0x03 l := ⟨hl, hop, hph, hc⟩
    refine ⟨renew_unknown hnew hrenew hview hup hwords, fun p lease life hp hlease hlife => ?_⟩
    subst hlease hlife
    exact ⟨renew_lapsed hnew hrenew hview hup hwords hp, fun hopen =>
      ⟨renew_moves hnew hrenew hview hup hwords hp hopen, renew_lifeOver hnew hrenew hview hup hwords hp hopen⟩⟩
  case close =>
    have hnew : s.Fresh id 0x04 l := ⟨hl, hop, hph, hc⟩
    exact ⟨fun p => closeProof_ends hnew hup hwords, closeProof_unknown hnew hup hwords⟩

end Sys2Proof.Machine

/-! Retirement (05 R163 to R166, R175 to R179): RETIRE, the steps of a cascade, and end points in their turn. -/

namespace Sys2Proof.Machine

/-! ### RETIRE (05 R175, R176) -/

theorem exec_retire (id : Nat) (s : State) : exec (.retire id) s = execRetire id s := rfl

section
variable {s : State} {id : Nat} {l : Live} (hnew : s.Fresh id 0x06 l) (hup : s.reached .psa = true)
include hnew hup

theorem retire_reserved (hwords : l.reservedOk 0x601 [0, 0, 0xFFFFFFFF, 0xFFFFFFFF] = false) :
    exec (.retire id) s = .next (s.fail id .badCommand) := by
  simp only [exec_retire, execRetire, hnew.onNew, hup, hwords, Bool.not_true, Bool.not_false, Bool.false_eq_true, if_false, if_true]

variable (hwords : l.reservedOk 0x601 [0, 0, 0xFFFFFFFF, 0xFFFFFFFF] = true)
include hwords

theorem retire_noKey {e : Status} (hkey : s.namedKey l true = .error e) : exec (.retire id) s = .next (s.fail id e) := by
  simp only [exec_retire, execRetire, hnew.onNew, hup, hwords, hkey, Bool.not_true, Bool.false_eq_true, if_false]

variable {k : Key} {form : Nat} (hkey : s.namedKey l true = .ok (k, form))
include hkey

theorem retire_notFound (hnone : s.current k form = none) : exec (.retire id) s = .next (s.fail id .notFound) := by
  simp only [exec_retire, execRetire, hnew.onNew, hup, hwords, hkey, hnone, Bool.not_true, Bool.false_eq_true, if_false]

variable {i : Nat} {v : Slot} (hcur : s.current k form = some (i, v))
include hcur

theorem retire_cascade (hflag : l.flag 0 = true) :
    exec (.retire id) s = .next ((s.startCascade i (.retire id)).setRunning id) := by
  simp only [exec_retire, execRetire, hnew.onNew, hup, hwords, hkey, hcur, hflag, Bool.not_true, Bool.false_eq_true, if_false, if_true]

variable (hflag : l.flag 0 = false)
include hflag

theorem retire_conflict (hchildren : v.children ≠ 0) : exec (.retire id) s = .next (s.fail id .conflict) := by
  simp only [exec_retire, execRetire, hnew.onNew, hup, hwords, hkey, hcur, hflag, if_pos hchildren, Bool.not_true, Bool.false_eq_true,
    if_false]

theorem retire_schedules (hleaf : v.children = 0) :
    exec (.retire id) s = .next (((s.toRetiring i).schedule (.end_ i (.retire id))).setRunning id) := by
  simp only [exec_retire, execRetire, hnew.onNew, hup, hwords, hkey, hcur, hflag, if_neg (not_not.2 hleaf), Bool.not_true,
    Bool.false_eq_true, if_false]

end

/-! ### The steps of a cascade (05 R176) -/

/-- The point ends a member of the cascade of a root. -/
def PointKind.endsOf (root : Nat) : PointKind → Bool
  | .end_ _ (.cascade r) => decide (r = root)
  | _ => false

/-- An end of the cascade is scheduled and has not passed. -/
def State.cascadeBusy (s : State) (root : Nat) : Bool := s.dir.points.any (fun p => p.kind.endsOf root)

/-- One end of the cascade is scheduled, if none is outstanding and an entry is there to end. -/
def State.cascadeTurn (s : State) (root : Nat) : State :=
  if s.cascadeBusy root then s
  else (s.cascadeNext root).elim s (fun i => if s.ending i then s else s.schedule (.end_ i (.cascade root)))

theorem exec_cascadeStep (root : Nat) (s : State) : exec (.cascadeStep root) s = execCascadeStep root s := rfl

theorem cascadeStep_none {s : State} {root : Nat} (h : ∀ c ∈ s.dir.cascades, c.root ≠ root) :
    exec (.cascadeStep root) s = .next s := by
  have hfind : s.dir.cascades.find? (fun c => decide (c.root = root)) = none := by simpa using h
  simp only [exec_cascadeStep, execCascadeStep, hfind]

theorem cascadeStep_turn {s : State} {root : Nat} (h : ∃ c ∈ s.dir.cascades, c.root = root) :
    exec (.cascadeStep root) s = .next (s.cascadeTurn root) := by
  obtain ⟨c, hfind⟩ : ∃ c, s.dir.cascades.find? (fun c => decide (c.root = root)) = some c :=
    Option.isSome_iff_exists.1 (by simpa using h)
  simp only [exec_cascadeStep, execCascadeStep, hfind]
  unfold State.cascadeTurn
  cases s.cascadeNext root <;> rfl

theorem cascadeStep_idle {s : State} {root : Nat} (h : (∀ c ∈ s.dir.cascades, c.root ≠ root) ∨ s.cascadeBusy root = true ∨
    s.cascadeNext root = none) : exec (.cascadeStep root) s = .next s := by
  by_cases hroot : ∃ c ∈ s.dir.cascades, c.root = root
  · rw [cascadeStep_turn hroot]
    rcases h with h | h | h
    · obtain ⟨c, hc, heq⟩ := hroot
      exact absurd heq (h c hc)
    · rw [State.cascadeTurn, if_pos h]
    · rw [State.cascadeTurn, h, Option.elim_none, ite_self]
  · exact cascadeStep_none fun c hc heq => hroot ⟨c, hc, heq⟩

theorem cascadeStep_schedules {s : State} {root i : Nat} (h : ∃ c ∈ s.dir.cascades, c.root = root)
    (hfree : s.cascadeBusy root = false) (hnext : s.cascadeNext root = some i) :
    exec (.cascadeStep root) s = .next (if s.ending i then s else s.schedule (.end_ i (.cascade root))) := by
  simp only [cascadeStep_turn h, State.cascadeTurn, hfree, hnext, Bool.false_eq_true, if_false, Option.elim_some]

/-! ### The turn of a point (05 R163, R166) -/

/-- The point of a value does not have its turn: it is not the first outstanding one, or the mark holds its value back. -/
def State.NoTurn (s : State) (val : Nat) : Prop :=
  s.dir.points = [] ∨ s.seqOpen val = false ∨ ∃ pt r, s.dir.points = pt :: r ∧ pt.val ≠ val

/-- The point of kind `k` with this value has its turn: it is the first outstanding one, and the mark allows its value. -/
def State.Turn (s : State) (val : Nat) (k : PointKind) : Prop :=
  (∃ r, s.dir.points = ⟨val, k⟩ :: r) ∧ s.seqOpen val = true

/-- A first point without its turn has another value, or one that the mark holds back. -/
theorem State.NoTurn.first {s : State} {val : Nat} (h : s.NoTurn val) {pt : Point} {r : List Point} (hpts : s.dir.points = pt :: r) :
    pt.val ≠ val ∨ (!s.seqOpen val) = true := by
  rcases h with h | h | ⟨pt', r', h, hval⟩
  · exact absurd (h.symm.trans hpts) (List.cons_ne_nil pt r).symm
  · exact .inr (by rw [h]; rfl)
  · cases h.symm.trans hpts
    exact .inl hval

/-! ### END_POINT (05 R163, R165, R177, R179) -/

theorem exec_endPoint (val : Nat) (s : State) : exec (.endPoint val) s = execEndPoint val s := rfl

theorem endPoint_idle {s : State} {val : Nat} (h : s.NoTurn val) : exec (.endPoint val) s = .next s := by
  rw [exec_endPoint, execEndPoint]
  cases hpts : s.dir.points with
  | nil => rfl
  | cons pt r => exact congrArg Host.Outcome.next (if_pos (h.first hpts))

section
variable {s : State} {val i : Nat}

theorem endPoint_evict (h : s.Turn val (.end_ i .evict)) : exec (.endPoint val) s = .next (
    if s.evictNow i then ((s.passPoint val).endEntry i val).countEvicted else s.passPoint val) := by
  obtain ⟨⟨r, hpts⟩, hopen⟩ := h
  simp only [exec_endPoint, execEndPoint, State.abandonEnd, hpts, hopen, ne_eq, not_true_eq_false, Bool.not_true, Bool.false_eq_true,
    or_self, if_false]

/-- FREE ends with its entry, or CONFLICT where that may not end any more. -/
theorem endPoint_free {id : Nat} (h : s.Turn val (.end_ i (.free id))) : exec (.endPoint val) s = .next (
    if s.evictNow i then (((s.passPoint val).endEntry i val).countEvicted).done id 0 [0, 0, 0, 0]
    else (s.passPoint val).fail id .conflict) := by
  obtain ⟨⟨r, hpts⟩, hopen⟩ := h
  simp only [exec_endPoint, execEndPoint, State.abandonEnd, hpts, hopen, ne_eq, not_true_eq_false, Bool.not_true, Bool.false_eq_true,
    or_self, if_false]

section
variable {id : Nat} (h : s.Turn val (.end_ i (.retire id)))
include h

/-- An entry that a cascade has ended before leaves its RETIRE only to complete. -/
theorem endPoint_retired (hgone : (s.slot i).state ≠ .retiring) :
    exec (.endPoint val) s = .next ((s.passPoint val).done id 0 [1, 0, 0, 0]) := by
  obtain ⟨⟨r, hpts⟩, hopen⟩ := h
  simp only [exec_endPoint, execEndPoint, hpts, hopen, if_pos hgone, ne_eq, not_true_eq_false, Bool.not_true, Bool.false_eq_true,
    or_self, if_false]

variable (hstate : (s.slot i).state = .retiring)
include hstate

theorem endPoint_retire_waits (hchildren : (s.slot i).children ≠ 0) : exec (.endPoint val) s = .next s := by
  obtain ⟨⟨r, hpts⟩, hopen⟩ := h
  simp only [exec_endPoint, execEndPoint, hpts, hopen, if_neg (not_not.2 hstate), if_pos hchildren, ne_eq, not_true_eq_false,
    Bool.not_true, Bool.false_eq_true, or_self, if_false]

theorem endPoint_retire_ends (hleaf : (s.slot i).children = 0) :
    exec (.endPoint val) s = .next (((s.passPoint val).endEntry i val).done id 0 [1, 0, 0, 0]) := by
  obtain ⟨⟨r, hpts⟩, hopen⟩ := h
  simp only [exec_endPoint, execEndPoint, hpts, hopen, if_neg (not_not.2 hstate), if_neg (not_not.2 hleaf), ne_eq, not_true_eq_false,
    Bool.not_true, Bool.false_eq_true, or_self, if_false]

end

/-- A member of a cascade ends, or its end is abandoned where it has children or is not resident any more. -/
theorem endPoint_cascade {root : Nat} (h : s.Turn val (.end_ i (.cascade root))) : exec (.endPoint val) s = .next (
    if (s.slot i).children ≠ 0 ∨ (!(s.slot i).resident) = true then s.passPoint val else s.cascadeEnd i val) := by
  obtain ⟨⟨r, hpts⟩, hopen⟩ := h
  simp only [exec_endPoint, execEndPoint, State.abandonEnd, hpts, hopen, ne_eq, not_true_eq_false, Bool.not_true, Bool.false_eq_true,
    or_self, if_false]

end

/-- Settles O10: RETIRE by what its key names, a cascade by its turn, and an end point by the cause it ends its entry for. -/
theorem retirementEndsEntries : Obligations.RetirementEndsEntries := by
  unfold Obligations.RetirementEndsEntries
  refine ⟨fun s id l hl hop hph hc hup => ?retire, fun s root busy hbusy => ?step, fun s val => endPoint_idle,
    fun s val i r hopen ok hok => ?point⟩
  case retire =>
    have hnew : s.Fresh id 0x06 l := ⟨hl, hop, hph, hc⟩
    exact ⟨retire_reserved hnew hup, fun hwords => ⟨fun e => retire_noKey hnew hup hwords, fun k form hkey =>
      ⟨retire_notFound hnew hup hwords hkey, fun i v hcur => ⟨retire_schedules hnew hup hwords hkey hcur,
        retire_conflict hnew hup hwords hkey hcur, retire_cascade hnew hup hwords hkey hcur⟩⟩⟩⟩
  case step =>
    have hbusy' : busy = s.cascadeBusy root := hbusy
    subst hbusy'
    exact ⟨cascadeStep_idle, fun i => cascadeStep_schedules⟩
  case point =>
    subst hok
    refine ⟨fun h => endPoint_evict ⟨⟨r, h⟩, hopen⟩, fun id h => endPoint_free ⟨⟨r, h⟩, hopen⟩,
      fun id h => ⟨endPoint_retire_ends ⟨⟨r, h⟩, hopen⟩, endPoint_retire_waits ⟨⟨r, h⟩, hopen⟩,
        endPoint_retired ⟨⟨r, h⟩, hopen⟩⟩,
      fun root h => ?_⟩
    rw [endPoint_cascade ⟨⟨r, h⟩, hopen⟩]
    refine ⟨fun hres hleaf => congrArg _ (if_neg ?_), fun hgone => congrArg _ (if_pos ?_)⟩
    · rintro (hchildren | hout)
      · exact hchildren hleaf
      · simp [hres] at hout
    · rcases hgone with hout | hchildren
      · exact .inr (by rw [hout]; rfl)
      · exact .inl hchildren

end Sys2Proof.Machine

/-! Publication (05 R158, R162 to R174): PUBLISH seals and joins, a claim takes a slot, a commit point gives the entry its edition. -/

namespace Sys2Proof.Machine

/-! ### The end of a command leaves the directory's entries (00 R18; 05 R188, R189) -/

@[simp] theorem State.msix_dir (s : State) (p vec : Nat) : (s.msix p vec).dir = s.dir := by rw [msix_eq]

@[simp] theorem State.count_dir (s : State) (p o i : Nat) : (s.count p o i).dir = s.dir := by rw [count_eq]

@[simp] theorem State.hostPut_dir (s : State) (p a : Nat) (bs : List Byte) : (s.hostPut p a bs).dir = s.dir := by
  unfold State.hostPut State.hostWrite
  by_cases h : s.portDown p = true <;> simp [h]

theorem State.signal_dir (s : State) (p q : Nat) : (s.signal p q).dir = s.dir := State.msix_dir _ _ _

@[simp] theorem State.writeCq_dir (s : State) (p q : Nat) (ws : List Word) (native int : Bool) :
    (s.writeCq p q ws native int).dir = s.dir := by
  simp only [State.writeCq, apply_ite State.dir, State.signal_dir, State.setQset_dir, State.hostPut_dir, ite_self]

@[simp] theorem State.postCq_dir (s : State) (id p q : Nat) (ws : List Word) (int : Bool) :
    (s.postCq id p q ws int).dir = s.dir := by
  simp only [State.postCq, apply_ite State.dir, State.setQset_dir, State.writeCq_dir, ite_self]

@[simp] theorem State.endWords_dir (s : State) (op n : Nat) : (s.endWords op n).2.dir = s.dir := by
  unfold State.endWords
  split <;> rfl

theorem State.overrun_dir (s : State) (target : Nat) : (s.overrun target).dir = s.dir := by
  unfold State.overrun
  split
  · rfl
  · exact State.count_dir _ _ _ _

theorem State.updRec_dir (s : State) (iid idx : Nat) (f : SRec → SRec) : (s.updRec iid idx f).dir = s.dir := rfl

@[simp] theorem State.recOne_dir (s : State) (iid idx id : Nat) (st : Status) (rs : List Word) (write : Bool) :
    (s.recOne iid idx id st rs write).dir = s.dir := by
  unfold State.recOne
  split
  · rfl
  · split
    · rfl
    · simp only [apply_ite State.dir, State.postCq_dir, State.overrun_dir, State.bump_dir, State.updRec_dir, ite_self]

theorem State.recAborts_dir (s : State) (iid : Nat) : (s.recAborts iid).dir = s.dir := by
  unfold State.recAborts
  split
  · rfl
  · refine foldl_keeps (g := State.dir) (fun s r => ?_) _ s
    simp only [apply_ite State.dir, State.recOne_dir, State.endWords_dir, ite_self]

theorem State.recFinal_dir (s : State) (iid idx id : Nat) (st : Status) (rs : List Word) (write : Bool) :
    (s.recFinal iid idx id st rs write).dir = s.dir := (State.recAborts_dir _ iid).trans (s.recOne_dir _ _ _ _ _ _)

theorem State.netAnswer_dir (s : State) (q rid tag : Nat) (ws : List Word) : (s.netAnswer q rid tag ws).dir = s.dir := by
  unfold State.netAnswer
  dsimp only
  split <;> rfl

theorem State.completeQueue_dir (s : State) (l : Live) (p q : Nat) (st : Status) (ws : List Word) :
    (s.completeQueue l p q st ws).dir = s.dir := by
  simp only [State.completeQueue, State.writeCq_dir, apply_ite State.dir, State.bump_dir, State.setQset_dir, ite_self]

/-- Where a completion goes is no matter of the directory. -/
theorem State.report_dir (s : State) (l : Live) (id : Nat) (st : Status) (w3 : Word) (rs : List Word) :
    (s.report l id st w3 rs).dir = s.dir := by
  unfold State.report
  split
  · exact s.completeQueue_dir l _ _ st _
  · rfl
  · rfl
  · exact s.recFinal_dir _ _ _ _ _ _
  · dsimp only
    split
    · exact s.postCq_dir _ _ _ _ _
    · rfl
  · exact s.netAnswer_dir _ _ _ _

/-- No entry is ENDED. -/
def State.NoneEnded (s : State) : Prop := ∀ e ∈ s.dir.slots, e.2.state ≠ .ended

/-- Slots and publications are the same. -/
def SameEntries (s t : State) : Prop := t.dir.slots = s.dir.slots ∧ t.dir.pubs = s.dir.pubs

namespace SameEntries

variable {s t u : State}

theorem refl (s : State) : SameEntries s s := ⟨rfl, rfl⟩

theorem of_dir (h : t.dir = s.dir) : SameEntries s t := by simp only [SameEntries, h, and_self]

theorem trans (h : SameEntries s t) (h' : SameEntries t u) : SameEntries s u :=
  ⟨h'.1.trans h.1, h'.2.trans h.2⟩

theorem noneEnded (h : SameEntries s t) (hs : s.NoneEnded) : t.NoneEnded := by
  unfold State.NoneEnded
  rw [h.1]
  exact hs

theorem slot (h : SameEntries s t) (i : Nat) : t.slot i = s.slot i := by simp only [State.slot, h.1]

theorem pub (h : SameEntries s t) (id : Nat) : t.pub id = s.pub id := by simp only [State.pub, h.2]

end SameEntries

section
variable {s : State} (hs : s.NoneEnded)
include hs

/-- Where no entry is ENDED nothing is reclaimed. -/
theorem reclaim_none : s.reclaim = s := by
  have hnone : s.dir.slots.filter (fun e => decide (e.2.state = .ended) && !s.seen e.2.edition e.2.end_) = [] :=
    List.filter_eq_nil_iff.2 fun e he => by simp [hs e he]
  rw [State.reclaim, hnone]
  rfl

theorem sameEntries_endProof (slot : Nat) : SameEntries s (s.endProof slot) := by
  have hreturn : ∀ u : State, SameEntries u ((u.returnProof slot).unmapViews slot) := fun u => by
    unfold State.returnProof
    split <;> exact ⟨rfl, rfl⟩
  have hlist : SameEntries s { s with dir := { s.dir with proofs := s.dir.proofs.filter (fun p => decide (p.slot ≠ slot)) } } :=
    ⟨rfl, rfl⟩
  have hboth := hlist.trans (hreturn _)
  unfold State.endProof
  dsimp only
  rw [reclaim_none (hboth.noneEnded hs)]
  exact hboth

theorem sameEntries_closeViews (id : Nat) : SameEntries s (s.closeViews id) := by
  unfold State.closeViews
  split
  · exact .refl s
  · refine List.foldlRecOn _ _ (motive := SameEntries s) (.refl s) fun t ht p _ => ?_
    exact ht.trans (sameEntries_endProof (ht.noneEnded hs) p.slot)

theorem sameEntries_release (id : Nat) : SameEntries s (s.release id) := by
  have hdrop : SameEntries s { s.dropReaders id with
      tier := { s.tier with reads := s.tier.reads.filter (fun r => decide (r.id ≠ id)) } } := ⟨rfl, rfl⟩
  unfold State.release
  exact (reclaim_none (hdrop.noneEnded hs)).symm ▸ hdrop

/-- A command that ends leaves slots and publications as they are. -/
theorem sameEntries_complete (id : Nat) (st : Status) (res : Option (Word × List Word)) : SameEntries s (s.complete id st res) := by
  unfold State.complete
  split
  · exact .refl s
  next l _ =>
    have hquota : ∀ u : State, SameEntries u ((u.dropLive id).countQuota st) := fun u => .of_dir (by
      unfold State.countQuota
      split
      · exact State.count_dir _ _ _ _
      · rfl)
    have hwords : ∀ u : State, SameEntries u (if l.compat then u.freeWords 5 else u.endWords l.op 5).2 := fun u => .of_dir (by
      split
      · rfl
      · exact u.endWords_dir _ _)
    have hbefore := ((sameEntries_release hs id).trans (hquota _)).trans (hwords _)
    have hreport := fun w3 rs => hbefore.trans (.of_dir (State.report_dir _ l id st w3 rs))
    exact (hreport _ _).trans (sameEntries_closeViews ((hreport _ _).noneEnded hs) id)

end

/-! ### PUBLISH: the seal and the publication (05 R168, R171) -/

theorem sealAt_seals {s : State} {l : Live} (hop : l.op = 0x05) (hc : l.compat = false) (hup : s.reached .psa = true)
    (hrsv : (s.openRsv l.tenant (l.w 4)).isSome = true) :
    s.sealAt l = s.updPset (psIx (l.w 4)) (fun v => { v with rstate := .sealed l.id, lapseAt := none }) :=
  if_pos ⟨hop, hc, hup, hrsv⟩

/-- The publication of a key that a PUBLISH enters, not yet claimed. -/
def Live.publication (l : Live) (id : Nat) (k : Key) (parent : Option Key) : Pub :=
  ⟨id, k, formOf (l.flag 9) (l.flag 10), l.flags.toNat, fld l.flags 0 6, psIx (l.w 4), parent, l.w64 10, none, false, none⟩

theorem exec_publish (id : Nat) (s : State) : exec (.publish id) s = execPublish id s := rfl

section
variable {s : State} {id : Nat} {l : Live} (hnew : s.Fresh id 0x05 l) (hup : s.reached .psa = true)
include hnew hup

theorem publish_noReservation (hrsv : s.pubRsv l = none) :
    exec (.publish id) s = .next (s.fail id (if s.publishOk l then .notFound else .badCommand)) := by
  simp only [exec_publish, execPublish, hnew.onNew, hup, hrsv, apply_ite (s.fail id), Bool.not_true, Bool.false_eq_true, if_false]

variable {v : PSet} (hrsv : s.pubRsv l = some v)
include hrsv

theorem publish_badWords (h : s.publishOk l = false ∨ v.object ≠ l.flag 12) :
    exec (.publish id) s = .next ((s.unseal (psIx (l.w 4))).fail id .badCommand) := by
  simp only [exec_publish, execPublish, hnew.onNew, hup, hrsv, Bool.not_eq_true', if_pos h, Bool.true_eq_false, if_false]

variable (hok : s.publishOk l = true) (hobject : v.object = l.flag 12)
include hok hobject

theorem publish_noKey {e : Status} (hkeys : s.publishKeys l = .error e) :
    exec (.publish id) s = .next ((s.unseal (psIx (l.w 4))).fail id e) := by
  simp only [exec_publish, execPublish, hnew.onNew, hup, hrsv, hok, hobject, hkeys, Bool.not_true, Bool.false_eq_true, ne_eq,
    not_true_eq_false, or_self, if_false]

variable {k : Key} {parent : Option Key} (hkeys : s.publishKeys l = .ok (k, parent))
include hkeys

theorem publish_otherModel (hmodel : k.model ≠ v.model) :
    exec (.publish id) s = .next ((s.unseal (psIx (l.w 4))).fail id .badCommand) := by
  simp only [exec_publish, execPublish, hnew.onNew, hup, hrsv, hok, hobject, hkeys, if_pos hmodel, Bool.not_true, Bool.false_eq_true,
    ne_eq, not_true_eq_false, or_self, if_false]

theorem publish_enters (hmodel : k.model = v.model) : exec (.publish id) s = .next (State.setRunning
    { s.updPset (psIx (l.w 4)) (fun v => { v with rstate := .sealed id, lapseAt := none }) with
      dir := { s.dir with pubs := s.dir.pubs ++ [l.publication id k parent] } } id) := by
  simp only [exec_publish, execPublish, hnew.onNew, hup, hrsv, hok, hobject, hkeys, if_neg (not_not.2 hmodel), Bool.not_true,
    Bool.false_eq_true, ne_eq, not_true_eq_false, or_self, if_false]
  rfl

end

/-! ### Room for a claim (05 R162; 06 R209, R221) -/

section
variable {s : State} {p : Pub} (keep : List Nat) (f : State → Nat → Option Nat → State)

theorem claimRoom_noTier {st : Status} (htier : s.claimTier p 3 (prefTier p.alloc) = .error st) :
    s.claimRoom p keep f = (s.countFull st).pubFail p st := by
  simp only [State.claimRoom, htier]

variable {keep} {t : Nat} (htier : s.claimTier p 3 (prefTier p.alloc) = .ok t)
include htier

theorem claimRoom_waits {w : State} (h : s.windowRoom p.key keep = .wait w) : s.claimRoom p keep f = w := by
  simp only [State.claimRoom, htier, h]

theorem claimRoom_full (h : s.windowRoom p.key keep = .full) :
    s.claimRoom p keep f = (s.count 0x18 0x1A4 0).pubFail p .full := by
  simp only [State.claimRoom, htier, h]

/-- A claim in another tier than the one asked for is a spill; one in another than the page set's owes a move. -/
theorem claimRoom_claims {w : State} {i : Nat} (h : s.windowRoom p.key keep = .at_ w i) : s.claimRoom p keep f =
    f (if t = prefTier p.alloc then w else w.count 0x19 0x1A0 3) i (if t = (s.psetAt p.pset).level then none else some t) := by
  simp only [State.claimRoom, htier, h]

end

/-! ### PUBLISH_CLAIM (05 R169 to R174) -/

/-- A claim goes on with its parent, or ends with the status of the parent check. -/
def State.withParent (s : State) (p : Pub) (f : State → Option Nat → State) : State :=
  match s.claimParent p with
  | (u, .error st) => if st = .conflict then u.pubConflict p else u.pubFail p st
  | (u, .ok par) => f u par

/-- The PENDING slot of a publication's key and form. -/
def State.pendingOf (s : State) (p : Pub) : Option (Nat × Slot) := s.exact p.key p.form (fun v => decide (v.state = .pending))

section
variable {s u : State} {p : Pub} {f : State → Option Nat → State}

theorem withParent_refused {st : Status} (h : s.claimParent p = (u, .error st)) :
    s.withParent p f = if st = .conflict then u.pubConflict p else u.pubFail p st := by
  simp only [State.withParent, h]

theorem withParent_ok {par : Option Nat} (h : s.claimParent p = (u, .ok par)) : s.withParent p f = f u par := by
  simp only [State.withParent, h]

end

theorem exec_publishClaim (id : Nat) (s : State) : exec (.publishClaim id) s = execPublishClaim id s := rfl

section
variable {s : State} {id : Nat} {p : Pub} (hp : s.pub id = some p)
include hp

theorem publishClaim_idle (h : p.claimed = true ∨ p.waitOn ≠ none) : exec (.publishClaim id) s = .next s := by
  simp only [exec_publishClaim, execPublishClaim, hp, if_pos h]

variable (hclaimed : p.claimed = false) (hwait : p.waitOn = none)
include hclaimed hwait

section
variable (hnew : bit (w32 p.flags) 11 = false)
include hnew

theorem claimNew_duplicate {j : Nat} {v : Slot} (hlive : s.exact p.key p.form Slot.resident = some (j, v)) :
    exec (.publishClaim id) s = .next (s.pubDuplicate p j) := by
  simp only [exec_publishClaim, execPublishClaim, hp, hclaimed, hwait, hnew, hlive, Bool.false_eq_true, ne_eq, not_true_eq_false,
    or_self, if_false]

variable (hlive : s.exact p.key p.form Slot.resident = none)
include hlive

theorem claimNew_waits {j : Nat} {v : Slot} (hpend : s.pendingOf p = some (j, v)) :
    exec (.publishClaim id) s = .next (s.updPub id (fun q => { q with waitOn := some j })) := by
  unfold State.pendingOf at hpend
  simp only [exec_publishClaim, execPublishClaim, hp, hclaimed, hwait, hnew, hlive, hpend, Bool.false_eq_true, ne_eq,
    not_true_eq_false, or_self, if_false]

theorem claimNew_claims (hpend : s.pendingOf p = none) : exec (.publishClaim id) s =
    .next (s.withParent p (fun u par => u.claimRoom p par.toList (fun w i mv => w.claimNew p i par mv))) := by
  unfold State.pendingOf at hpend
  simp only [exec_publishClaim, execPublishClaim, hp, hclaimed, hwait, hnew, hlive, hpend, Bool.false_eq_true, ne_eq,
    not_true_eq_false, or_self, if_false]
  rfl

end

section
variable (hsuper : bit (w32 p.flags) 11 = true)
include hsuper

theorem claimSuper_waits {j : Nat} {v : Slot} (hpend : s.pendingOf p = some (j, v)) :
    exec (.publishClaim id) s = .next (s.updPub id (fun q => { q with waitOn := some j })) := by
  unfold State.pendingOf at hpend
  simp only [exec_publishClaim, execPublishClaim, hp, hclaimed, hwait, hsuper, hpend, Bool.false_eq_true, ne_eq, not_true_eq_false,
    or_self, if_false, if_true]

variable (hpend : s.pendingOf p = none)
include hpend

theorem claimSuper_noEntry (hcur : s.current p.key p.form = none) : exec (.publishClaim id) s = .next (s.pubConflict p) := by
  unfold State.pendingOf at hpend
  simp only [exec_publishClaim, execPublishClaim, hp, hclaimed, hwait, hsuper, hpend, hcur, Bool.false_eq_true, ne_eq,
    not_true_eq_false, or_self, if_false, if_true]

variable {c : Nat} {v : Slot} (hcur : s.current p.key p.form = some (c, v))
include hcur

theorem claimSuper_otherEdition (hedition : v.edition ≠ p.expect) : exec (.publishClaim id) s = .next (s.pubConflict p) := by
  unfold State.pendingOf at hpend
  simp only [exec_publishClaim, execPublishClaim, hp, hclaimed, hwait, hsuper, hpend, hcur, if_pos hedition, Bool.false_eq_true, ne_eq,
    not_true_eq_false, or_self, if_false, if_true]

variable (hedition : v.edition = p.expect)
include hedition

theorem claimSuper_otherParent (hparent : v.parent.isSome ≠ p.parent.isSome) :
    exec (.publishClaim id) s = .next (s.pubFail p .badCommand) := by
  unfold State.pendingOf at hpend
  simp only [exec_publishClaim, execPublishClaim, hp, hclaimed, hwait, hsuper, hpend, hcur, if_neg (not_not.2 hedition),
    if_pos hparent, Bool.false_eq_true, ne_eq, not_true_eq_false, or_self, if_false, if_true]

theorem claimSuper_claims (hparent : v.parent.isSome = p.parent.isSome) : exec (.publishClaim id) s =
    .next (s.withParent p (fun u par => u.claimRoom p ([c] ++ par.toList) (fun w i mv => w.claimSuper p c i mv))) := by
  unfold State.pendingOf at hpend
  simp only [exec_publishClaim, execPublishClaim, hp, hclaimed, hwait, hsuper, hpend, hcur,
    if_neg (not_not.2 hedition), if_neg (not_not.2 hparent), Bool.false_eq_true, ne_eq, not_true_eq_false, or_self, if_false, if_true]
  rfl

end

end

/-! ### The slot and the point of a new entry (05 R158, R159, R163, R166) -/

/-- A head slot that is written reads as written. -/
theorem slot_putHead_self (s : State) (i : Nat) {v : Slot} (h : v ≠ Slot.free) : (s.putHead i v).slot i = v := by
  have hset : (s.setSlot i v).slot i = v := sget_sset_new i h
  unfold State.putHead
  dsimp only
  split
  · exact hset
  · exact (slot_setSlot_ne _ _ (by omega)).trans hset

theorem putHead_seqNext (s : State) (i : Nat) (v : Slot) : (s.putHead i v).dir.seqNext = s.dir.seqNext := by
  unfold State.putHead
  dsimp only
  split <;> rfl

theorem putHead_points (s : State) (i : Nat) (v : Slot) : (s.putHead i v).dir.points = s.dir.points := by
  unfold State.putHead
  dsimp only
  split <;> rfl

/-- A mark is asked for in the journal, or it is not yet time. -/
theorem askMark_cases (s : State) : s.askMark = s ∨
    ∃ m, s.askMark = State.journal { s with dir := { s.dir with mark := m } } (.seqMark m) := by
  unfold State.askMark
  dsimp only
  split
  · exact .inl rfl
  · exact .inr ⟨_, rfl⟩

/-- Asking for a mark changes of the directory only the mark. -/
theorem askMark_dir (s : State) : s.askMark.dir = { s.dir with mark := s.askMark.dir.mark } := by
  rcases askMark_cases s with h | ⟨m, h⟩
  · rw [h]
  · rw [h, State.journal_dir]

/-- A point that is scheduled takes the next value of the sequence. -/
theorem schedule_dir (s : State) (k : PointKind) : (s.schedule k).dir = { s.dir with
    points := s.dir.points ++ [⟨s.dir.seqNext, k⟩], seqNext := s.dir.seqNext + 1, mark := (s.schedule k).dir.mark } :=
  askMark_dir _

section
variable (s : State) (id : Nat) (f : Pub → Pub)

theorem updPub_slot (i : Nat) : (s.updPub id f).slot i = s.slot i := rfl
theorem updPub_seqNext : (s.updPub id f).dir.seqNext = s.dir.seqNext := rfl
theorem updPub_points : (s.updPub id f).dir.points = s.dir.points := rfl

end

/-- The parent of a new entry, if it has one, counts a child. -/
def State.addChild (s : State) (parent : Option Nat) : State :=
  match parent with
  | some j => s.updSlot j (fun v => { v with children := v.children + 1 })
  | none => s

theorem addChild_seqNext (s : State) (parent : Option Nat) : (s.addChild parent).dir.seqNext = s.dir.seqNext := by
  cases parent <;> rfl

theorem addChild_points (s : State) (parent : Option Nat) : (s.addChild parent).dir.points = s.dir.points := by
  cases parent <;> rfl

/-- The directory in which a new entry is PENDING, before its point is scheduled. -/
def State.pendingIn (s : State) (i : Nat) (v : Slot) (parent : Option Nat) : State :=
  (State.addChild { s with free := s.free + 1 } parent).putHead i v

theorem pendingIn_seqNext (s : State) (i : Nat) (v : Slot) (parent : Option Nat) :
    (s.pendingIn i v parent).dir.seqNext = s.dir.seqNext := (putHead_seqNext _ i v).trans (addChild_seqNext _ parent)

theorem pendingIn_points (s : State) (i : Nat) (v : Slot) (parent : Option Nat) :
    (s.pendingIn i v parent).dir.points = s.dir.points := (putHead_points _ i v).trans (addChild_points _ parent)

theorem claimNew_eq (s : State) (p : Pub) (i : Nat) (parent moveTo : Option Nat) : ∃ v : Slot,
    (v.state = .pending ∧ v.edition = s.dir.seqNext ∧ v.key = p.key ∧ v.form = p.form ∧ v.parent = parent) ∧
    s.claimNew p i parent moveTo = ((s.pendingIn i v parent).schedule (.commit i p.id)).updPub p.id
      (fun q => { q with claimed := true, moveTo := moveTo }) := by
  refine ⟨pubSlot p ((State.addChild { s with free := s.free + 1 } parent).psetAt p.pset) s.dir.seqNext
    (Config.freeNat s.free % 2 ^ 32) parent, ⟨rfl, rfl, rfl, rfl, rfl⟩, ?_⟩
  cases parent <;> rfl

/-- A claimed entry is PENDING in its slot, with the value under which its commit is scheduled. -/
theorem claimNew_pending (s : State) (p : Pub) (i : Nat) (parent moveTo : Option Nat) {u : State}
    (hu : u = s.claimNew p i parent moveTo) : (u.slot i).state = .pending ∧
    (u.slot i).edition = s.dir.seqNext ∧ (u.slot i).key = p.key ∧ (u.slot i).form = p.form ∧ (u.slot i).parent = parent ∧
    u.dir.seqNext = s.dir.seqNext + 1 ∧ u.dir.points = s.dir.points ++ [⟨s.dir.seqNext, .commit i p.id⟩] := by
  obtain ⟨v, ⟨hstate, hedition, hkey, hform, hparent⟩, heq⟩ := claimNew_eq s p i parent moveTo
  have hne : v ≠ Slot.free := fun h => by rw [h] at hstate; cases hstate
  have hdir := schedule_dir (s.pendingIn i v parent) (.commit i p.id)
  rw [pendingIn_seqNext, pendingIn_points] at hdir
  have hslot : u.slot i = v := by
    calc u.slot i = sget ((s.pendingIn i v parent).schedule (.commit i p.id)).dir.slots Slot.free i := by
          rw [hu, heq, updPub_slot, State.slot]
      _ = (s.pendingIn i v parent).slot i := by rw [hdir, State.slot]
      _ = v := slot_putHead_self _ i hne
  rw [hslot, hu, heq, updPub_seqNext, updPub_points, hdir]
  exact ⟨hstate, hedition, hkey, hform, hparent, rfl, rfl⟩

/-! ### COMMIT_POINT (05 R163, R164, R166, R173) -/

theorem exec_commitPoint (val : Nat) (s : State) : exec (.commitPoint val) s = execCommitPoint val s := rfl

theorem commitPoint_idle {s : State} {val : Nat} (h : s.NoTurn val) : exec (.commitPoint val) s = .next s := by
  rw [exec_commitPoint, execCommitPoint]
  cases hpts : s.dir.points with
  | nil => rfl
  | cons pt r => exact congrArg Host.Outcome.next (if_pos (h.first hpts))

section
variable {s : State} {val i id : Nat} {p : Pub} (hp : s.pub id = some p)
include hp

theorem commitPoint_new (h : s.Turn val (.commit i id)) :
    exec (.commitPoint val) s = .next ((s.passPoint val).commitNew i p val) := by
  obtain ⟨⟨r, hpts⟩, hopen⟩ := h
  simp only [exec_commitPoint, execCommitPoint, hpts, hopen, hp, ne_eq, not_true_eq_false, Bool.not_true, Bool.false_eq_true,
    or_self, if_false]

/-- The supersession of an entry that is not CURRENT any more is given up. -/
theorem commitPoint_super {copy : Nat} (h : s.Turn val (.super i copy id)) : exec (.commitPoint val) s = .next (
    if (s.slot i).state = .current then (s.passPoint val).commitSuper i copy p val
    else (((s.passPoint val).freeHead copy).wakeAborted copy).pubConflict p) := by
  obtain ⟨⟨r, hpts⟩, hopen⟩ := h
  simp only [exec_commitPoint, execCommitPoint, hpts, hopen, hp, ne_eq, not_true_eq_false, Bool.not_true, Bool.false_eq_true,
    or_self, if_false]

end

/-! ### The commit of a new entry (05 R164) -/

theorem mem_sset_value {α : Type} [DecidableEq α] (l : Sparse α) (d : α) (k : Nat) (v : α) {e : Nat × α}
    (h : e ∈ sset l d k v) : e = (k, v) ∨ e ∈ l := by
  fun_induction sset l d k v <;> grind

@[simp] theorem State.wantHeld_dir (s : State) (i : Nat) : (s.wantHeld i).dir = s.dir := by
  unfold State.wantHeld
  dsimp only
  split <;> rfl

/-- The entry of slot `i` is CURRENT and its publication is off the list; its page set is published. -/
def State.committed (s : State) (i : Nat) (p : Pub) : State :=
  ((((s.setSlot i { s.slot i with state := .current }).pubPset p).bump (pg 0x18 + 0x190)).wantHeld i).dropPub p.id

theorem committed_dir (s : State) (i : Nat) (p : Pub) : (s.committed i p).dir = { s.dir with
    slots := sset s.dir.slots Slot.free i { s.slot i with state := .current },
    pubs := s.dir.pubs.filter (fun q => decide (q.id ≠ p.id)) } := by
  unfold State.committed State.dropPub
  dsimp only
  rw [State.wantHeld_dir]
  rfl

theorem wakeCommitted_none {s : State} (h : ∀ q ∈ s.dir.pubs, q.waitOn = none) (j i : Nat) : s.wakeCommitted j i = s := by
  have hnone : s.dir.pubs.filter (fun p => decide (p.waitOn = some j)) = [] :=
    List.filter_eq_nil_iff.2 fun q hq => by simp [h q hq]
  rw [State.wakeCommitted, hnone]
  rfl

section
variable {s : State} {i : Nat} {p : Pub} (hheld : s.isHeld (s.slot i).key = false) (hmove : p.moveTo = none)
  (hbad : (s.psetAt p.pset).bad = [])
include hheld hmove hbad

/-- A commit into no held group, that owes no move and has lost no page, ends its PUBLISH and wakes those that wait. -/
theorem commitNew_plain (val : Nat) :
    s.commitNew i p val = ((s.committed i p).done p.id 0 (pubWords val i)).wakeCommitted i i := by
  have hbad' : ((s.setSlot i { s.slot i with state := .current }).psetAt p.pset).bad = [] := hbad
  simp only [State.commitNew, State.pubMove, hheld, hmove, hbad', Bool.false_eq_true, if_false, List.foldl_nil]
  rfl

/-- With no other publication waiting and nothing to reclaim, the commit changes its own slot and no other. -/
theorem commitNew_slots (hwaits : ∀ q ∈ s.dir.pubs, q.waitOn = none) (hended : s.NoneEnded) (val : Nat) {u : State}
    (hu : u = s.commitNew i p val) :
    u.slot i = { s.slot i with state := .current } ∧ (∀ j, j ≠ i → u.slot j = s.slot j) ∧ u.pub p.id = none := by
  have hdir := committed_dir s i p
  have hnone : (s.committed i p).NoneEnded := by
    unfold State.NoneEnded
    rw [hdir]
    intro e he
    rcases mem_sset_value _ _ _ _ he with rfl | he
    · simp
    · exact hended e he
  have hdone := sameEntries_complete hnone p.id .ok (some (0, pubWords val i))
  have hwaits' : ∀ q ∈ ((s.committed i p).done p.id 0 (pubWords val i)).dir.pubs, q.waitOn = none := by
    obtain ⟨-, hpubs⟩ := hdone
    unfold State.done
    rw [hpubs, hdir]
    exact fun q hq => hwaits q (List.mem_of_mem_filter hq)
  have hsame : SameEntries (s.committed i p) u := by
    rw [hu, commitNew_plain hheld hmove hbad, wakeCommitted_none hwaits']
    exact hdone
  refine ⟨?_, fun j hj => ?_, ?_⟩
  · rw [hsame.slot, State.slot, hdir]
    exact sget_sset_new i fun h => by cases congrArg Slot.state h
  · rw [hsame.slot, State.slot, hdir]
    exact sget_sset_ne _ hj
  · rw [hsame.pub, State.pub, hdir]
    simp

end

/-- Settles O9: PUBLISH and its claim outcome by outcome, then what a claim and a commit write. -/
theorem publicationSealsClaimsCommits : Obligations.PublicationSealsClaimsCommits := by
  unfold Obligations.PublicationSealsClaimsCommits
  refine ⟨fun s l hop hc hup => sealAt_seals hop hc hup, fun s id l hl hop hph hc hup => ?publish,
    fun s p keep f => ⟨fun st => claimRoom_noTier keep f, fun t htier => ⟨fun w => claimRoom_waits f htier, claimRoom_full f htier,
      fun w i => claimRoom_claims f htier⟩⟩,
    fun s id p hp => ⟨publishClaim_idle hp, fun hclaimed hwait pend hpend => ⟨fun hnew => ?new, fun hsuper => ?super⟩⟩,
    fun s p i par mv u => claimNew_pending s p i par mv,
    fun s val => ⟨commitPoint_idle, fun i id p r hpts hopen hp => commitPoint_new hp ⟨⟨r, hpts⟩, hopen⟩,
      fun i copy id p r hpts hopen hp => ?commit⟩,
    fun s i val p hheld hmove hbad hwaits hended u => commitNew_slots hheld hmove hbad hwaits hended val⟩
  case publish =>
    have hnew : s.Fresh id 0x05 l := ⟨hl, hop, hph, hc⟩
    refine ⟨publish_noReservation hnew hup, fun v i hrsv hi => ?_⟩
    subst hi
    exact ⟨publish_badWords hnew hup hrsv, fun hok hobject => ⟨fun e => publish_noKey hnew hup hrsv hok hobject, fun k parent hkeys =>
      ⟨publish_otherModel hnew hup hrsv hok hobject hkeys, publish_enters hnew hup hrsv hok hobject hkeys⟩⟩⟩
  case new =>
    subst hpend
    refine ⟨fun j v => claimNew_duplicate hp hclaimed hwait hnew, fun hlive =>
      ⟨fun j v => claimNew_waits hp hclaimed hwait hnew hlive, fun hnone => ?_⟩⟩
    rw [claimNew_claims hp hclaimed hwait hnew hlive hnone]
    exact ⟨fun u st h => congrArg _ (withParent_refused h), fun u par h => congrArg _ (withParent_ok h)⟩
  case super =>
    subst hpend
    refine ⟨fun j v => claimSuper_waits hp hclaimed hwait hsuper, fun hnone =>
      ⟨claimSuper_noEntry hp hclaimed hwait hsuper hnone, fun c v hcur =>
        ⟨claimSuper_otherEdition hp hclaimed hwait hsuper hnone hcur,
          claimSuper_otherParent hp hclaimed hwait hsuper hnone hcur, fun hedition hparent => ?_⟩⟩⟩
    rw [claimSuper_claims hp hclaimed hwait hsuper hnone hcur hedition hparent]
    exact ⟨fun u st h => congrArg _ (withParent_refused h), fun u par h => congrArg _ (withParent_ok h)⟩
  case commit =>
    rw [commitPoint_super hp ⟨⟨r, hpts⟩, hopen⟩]
    exact ⟨fun h => congrArg _ (if_pos h), fun h => congrArg _ (if_neg h)⟩

end Sys2Proof.Machine

/-! Reservations (06 R200 to R204, R208, R214, R219, R221): what a charge finds, what PLACE RESERVE makes of it, and when a
reservation lapses. -/

namespace Sys2Proof.Machine

/-! ### The room of a charge (06 R219) -/

section
variable {s : State} {tenant t b : Nat} {tr fr : Int} (hrooms : s.rooms tenant t = (tr, fr)) (hb : 0 < b)
include hrooms hb

/-- The tenant's own room binds first. -/
theorem request_quota (h : tr < (b : Int)) : s.request tenant t b = .short .quota (b - min tr fr).toNat := by
  simp only [State.request, State.requestTest, hrooms, if_neg hb.ne', if_pos h]

theorem request_full (htr : (b : Int) ≤ tr) (h : fr < (b : Int)) : s.request tenant t b = .short .full (b - min tr fr).toNat := by
  simp only [State.request, State.requestTest, hrooms, if_neg hb.ne', if_neg (not_lt.2 htr), if_pos h]

/-- A charge within both rooms fits, at once or after a wait. -/
theorem request_fits_or_waits (htr : (b : Int) ≤ tr) (hfr : (b : Int) ≤ fr) (st : Status) (n : Nat) :
    s.request tenant t b ≠ .short st n := by
  simp only [State.request, State.requestTest, hrooms, if_neg hb.ne', if_neg (not_lt.2 htr), if_neg (not_lt.2 hfr)]
  split <;> exact Room.noConfusion

end

/-! ### The tier that takes a charge (06 R221) -/

section
variable {s : State} {tenant t : Nat} {charge : Nat → Nat} {own : Nat → Bool} (hown : own t = false) (spill : Bool) (last n : Nat)
include hown

theorem chargeTier_fits {u : State} (h : s.request tenant t (charge t) = .fits u) :
    s.chargeTier tenant charge spill own last (n + 1) t = .ok (u, t, true) := by
  simp only [State.chargeTier, hown, h, Bool.false_eq_true, if_false]

/-- A charge that does not fit goes to the next tier down where it may spill. -/
theorem chargeTier_short {st : Status} {b : Nat} (h : s.request tenant t (charge t) = .short st b) :
    s.chargeTier tenant charge spill own last (n + 1) t =
      if spill = true ∧ t < last then s.chargeTier tenant charge spill own last n (t + 1) else .error (st, b) := by
  simp only [State.chargeTier, hown, h, Bool.false_eq_true, if_false]

end

/-! ### PLACE RESERVE (06 R208, R214, R221) -/

/-- A RESERVE with a reserved bit set, or of an object whose page count or page size lies out of range (06 R208). -/
def Live.reserveBad (l : Live) : Prop :=
  l.reservedOk placeFlags [0xFFFF, if l.flag 11 then 0x1F07FF else 0] = false ∨
    (l.flag 11 = true ∧ (fld (l.ws.getD 5 0) 0 11 = 0 ∨ 1024 < fld (l.ws.getD 5 0) 0 11 ∨ fld (l.ws.getD 5 0) 16 5 < 16 ∨
      21 < fld (l.ws.getD 5 0) 16 5))

/-- The page set that a RESERVE asks for, not yet in any tier (06 R200, R208). -/
def Live.reservation (l : Live) (m : Model) : PSet :=
  { gen := 0, tenant := l.tenant, model := m.id, object := l.flag 11,
    pages := (if l.flag 11 then fld (l.ws.getD 5 0) 0 11 else m.layers),
    pageSize := (if l.flag 11 then 2 ^ fld (l.ws.getD 5 0) 16 5 else m.pageSize), alloc := fld l.flags 0 6, level := 1,
    t0 := false, t1 := false, t2 := false, rstate := .open_, lapseAt := none, checks := [], bad := [] }

/-- The tier that a RESERVE asks for: T0 for TIER_PREF 0, T1 otherwise. -/
def Live.reserveTier (l : Live) : Nat := if fld l.flags 0 2 = 0 then 0 else 1

/-- The charge of a RESERVE, tested and made. -/
def State.reserveCharge (s : State) (l : Live) (m : Model) : Except (Status × Nat) (State × Nat × Bool) :=
  s.chargeTier l.tenant (l.reservation m).charge (l.flag 5) (fun _ => false) 1 2 l.reserveTier

/-- Page set `i` holds a reservation of generation `g` in tier `t`, laid out there, until it lapses (06 R202, R204). -/
def State.reserveIn (s : State) (v : PSet) (i g t : Nat) : State :=
  (s.setPset i (PSet.setHas { v with gen := g, level := t, lapseAt := some (s.clk + s.rsvLife) } t true)).plate i

/-- TIER_PREF are the two low bits of ALLOC. -/
theorem fld_alloc_mod (w : Word) : fld w 0 6 % 4 = fld w 0 2 := by
  simp only [fld, nfld, pow_zero, Nat.div_one]
  omega

theorem exec_placeReserve (id : Nat) (s : State) : exec (.placeReserve id) s = execPlaceReserve id s := rfl

section
variable {s : State} {id : Nat} {l : Live} (hnew : s.Fresh id 0x07 l) (hup : s.reached .psa = true) (hmode : l.flag 8 = false)
include hnew hup hmode

theorem placeReserve_badWords (h : l.reserveBad) : exec (.placeReserve id) s = .next (s.fail id .badCommand) := by
  unfold Live.reserveBad at h
  simp only [exec_placeReserve, execPlaceReserve, hnew.onNew, hmode, hup, Bool.not_eq_true', if_pos h, Bool.true_eq_false,
    Bool.false_eq_true, if_false]

variable (hwords : ¬ l.reserveBad)
include hwords

theorem placeReserve_noModel (hmodel : s.model (l.w 4) = none) : exec (.placeReserve id) s = .next (s.fail id .notFound) := by
  unfold Live.reserveBad at hwords
  simp only [exec_placeReserve, execPlaceReserve, hnew.onNew, hmode, hup, hmodel, Bool.not_eq_true', if_neg hwords, Bool.true_eq_false,
    Bool.false_eq_true, if_false]

variable {m : Model} (hmodel : s.model (l.w 4) = some m)
include hmodel

/-- A RESERVE of a known model does what its charge answers. -/
theorem placeReserve_charges : exec (.placeReserve id) s = .next (
    match s.reserveCharge l m with
    | .error (st, b) => s.shortfall id st b
    | .ok (u, t, true) =>
      match u.takePset with
      | none => s.fail id .full
      | some (i, g, w) =>
        (if t = l.reserveTier then w.reserveIn (l.reservation m) i g t
          else (w.reserveIn (l.reservation m) i g t).count 0x19 0x1A0 3).done id 0 [w32 (psHandle g i), w32 t, 0, 0]
    | .ok (u, _, false) => u) := by
  unfold Live.reserveBad at hwords
  simp only [exec_placeReserve, execPlaceReserve, hnew.onNew, hmode, hup, hmodel, Bool.not_eq_true', if_neg hwords, Bool.true_eq_false,
    Bool.false_eq_true, if_false, fld_alloc_mod]
  rfl

theorem placeReserve_refused {st : Status} {b : Nat} (h : s.reserveCharge l m = .error (st, b)) :
    exec (.placeReserve id) s = .next (s.shortfall id st b) := by
  simp only [placeReserve_charges hnew hup hmode hwords hmodel, h]

theorem placeReserve_waits {u : State} {t : Nat} (h : s.reserveCharge l m = .ok (u, t, false)) :
    exec (.placeReserve id) s = .next u := by
  simp only [placeReserve_charges hnew hup hmode hwords hmodel, h]

variable {u : State} {t : Nat} (hcharge : s.reserveCharge l m = .ok (u, t, true))
include hcharge

theorem placeReserve_noIndex (h : u.takePset = none) : exec (.placeReserve id) s = .next (s.fail id .full) := by
  simp only [placeReserve_charges hnew hup hmode hwords hmodel, hcharge, h]

theorem placeReserve_holds {i g : Nat} {w : State} (h : u.takePset = some (i, g, w)) : exec (.placeReserve id) s = .next (
    (if t = l.reserveTier then w.reserveIn (l.reservation m) i g t
      else (w.reserveIn (l.reservation m) i g t).count 0x19 0x1A0 3).done id 0 [w32 (psHandle g i), w32 t, 0, 0]) := by
  simp only [placeReserve_charges hnew hup hmode hwords hmodel, hcharge, h]

end

/-! ### The lapse of a reservation (06 R204) -/

/-- The lapse time of a reservation has come by `t`, and it is not published. -/
def State.lapses (s : State) (i t : Nat) : Prop :=
  ∃ e, (s.psetAt i).lapseAt = some e ∧ (s.psetAt i).gen ≠ 0 ∧ (s.psetAt i).rstate ≠ .published ∧ e ≤ max s.clk t

theorem exec_reservationLapse (i t : Nat) (s : State) : exec (.reservationLapse i t) s = execReservationLapse i t s := rfl

@[simp] theorem psetAt_atTime (s : State) (t i : Nat) : (s.at_ t).psetAt i = s.psetAt i := rfl

section
variable {s : State} {i t : Nat}

theorem reservationLapse_frees (h : s.lapses i t) :
    exec (.reservationLapse i t) s = .next (((s.at_ t).freePset i).count 0x19 0x19C 2) := by
  obtain ⟨e, hlapse, hgen, hstate, htime⟩ := h
  simp only [exec_reservationLapse, execReservationLapse, psetAt_atTime, hlapse]
  exact congrArg _ (if_pos ⟨htime, hgen, hstate⟩)

theorem reservationLapse_stays (h : ¬ s.lapses i t) : exec (.reservationLapse i t) s = .next (s.at_ t) := by
  simp only [exec_reservationLapse, execReservationLapse, psetAt_atTime]
  cases hlapse : (s.psetAt i).lapseAt with
  | none => rfl
  | some e => exact congrArg _ (if_neg fun ⟨htime, hgen, hstate⟩ => h ⟨e, hlapse, hgen, hstate, htime⟩)

end

/-- Settles O11: PLACE RESERVE by what `chargeTier` and `takePset` answer, a charge by its rooms, and a lapse by its time. -/
theorem placeReservesUntilItLapses : Obligations.PlaceReservesUntilItLapses := by
  unfold Obligations.PlaceReservesUntilItLapses
  refine ⟨fun s id l hl hop hph hc hup hmode cnt lg hcnt hlg => ?place,
    fun s tenant t b tr fr hrooms hb => ⟨request_quota hrooms hb, request_full hrooms hb, request_fits_or_waits hrooms hb⟩,
    fun s tenant charge spill t r hr => ?tier, fun s i t => ⟨fun e hlapse hgen hstate htime => ?frees, fun h => ?stays⟩⟩
  case place =>
    have hnew : s.Fresh id 0x07 l := ⟨hl, hop, hph, hc⟩
    subst hcnt hlg
    refine ⟨placeReserve_badWords hnew hup hmode, fun hres hobject => ?_⟩
    have hwords : ¬ l.reserveBad := by
      rintro (h | ⟨hobj, h⟩)
      · exact Bool.false_ne_true (h.symm.trans hres)
      · obtain ⟨hcnt, hmax, hlo, hhi⟩ := hobject hobj
        omega
    refine ⟨placeReserve_noModel hnew hup hmode hwords, fun m v t hmodel ht hv r hr => ?_⟩
    subst hv ht hr
    refine ⟨fun u t' i g w x hr htake hx => ?_, fun u t' => placeReserve_noIndex hnew hup hmode hwords hmodel,
      fun u t' => placeReserve_waits hnew hup hmode hwords hmodel, fun st b => placeReserve_refused hnew hup hmode hwords hmodel⟩
    subst hx
    exact placeReserve_holds hnew hup hmode hwords hmodel hr htake
  case tier =>
    subst hr
    refine ⟨fun u h => chargeTier_fits rfl spill 1 1 h, fun st b h => ?_⟩
    rw [chargeTier_short rfl spill 1 1 h]
    refine ⟨fun hstop => if_neg ?_, fun hspill ht => ?_⟩
    · rintro ⟨hspill, ht⟩
      rcases hstop with hno | hlow
      · simp [hno] at hspill
      · omega
    · subst ht
      rw [if_pos ⟨hspill, Nat.zero_lt_one⟩]
      exact ⟨fun u h1 => chargeTier_fits rfl spill 1 0 h1, fun st' b' h1 =>
        (chargeTier_short rfl spill 1 0 h1).trans (if_neg fun hlow => Nat.lt_irrefl 1 hlow.2)⟩
  case frees => exact reservationLapse_frees ⟨e, hlapse, hgen, hstate, htime⟩
  case stays =>
    refine reservationLapse_stays ?_
    rintro ⟨e, hlapse, hgen, hstate, htime⟩
    rcases h with h | h | h | ⟨e', he', hlate⟩
    · simp [h] at hlapse
    · exact hgen h
    · exact hstate h
    · cases hlapse.symm.trans he'
      omega

end Sys2Proof.Machine

/-! Changes of level (06 R207, R210 to R213, R221, R229): PLACE SET, how a move starts, how it commits and what it releases. -/

namespace Sys2Proof.Machine

/-! ### PLACE SET (06 R210, R212) -/

theorem exec_placeSet (id : Nat) (s : State) : exec (.placeSet id) s = execPlaceSet id s := rfl

section
variable {s : State} {id : Nat} {l : Live} (hnew : s.Fresh id 0x07 l) (hup : s.reached .psa = true) (hmode : l.flag 8 = true)
include hnew hup hmode

theorem placeSet_badWords (h : l.reservedOk placeFlags [0, 0, 0xFFFFFFFF, 0xFFFFFFFF] = false ∨ fld l.flags 16 5 = 0) :
    exec (.placeSet id) s = .next (s.fail id .badCommand) := by
  simp only [exec_placeSet, execPlaceSet, hnew.onNew, hmode, hup, Bool.not_eq_true', if_pos h, Bool.true_eq_false, if_false]

variable (hwords : l.reservedOk placeFlags [0, 0, 0xFFFFFFFF, 0xFFFFFFFF] = true) (hmask : fld l.flags 16 5 ≠ 0)
include hwords hmask

theorem placeSet_noKey {e : Status} (hkey : s.namedKey l true = .error e) : exec (.placeSet id) s = .next (s.fail id e) := by
  simp only [exec_placeSet, execPlaceSet, hnew.onNew, hmode, hup, hwords, hmask, hkey, Bool.not_true, Bool.false_eq_true, or_self,
    if_false]

variable {k : Key} {form : Nat} (hkey : s.namedKey l true = .ok (k, form))
include hkey

theorem placeSet_noEntry (hnone : s.current k form = none) : exec (.placeSet id) s =
    .next (s.fail id (if (s.exact k form Slot.resident).isSome then .conflict else .notFound)) := by
  simp only [exec_placeSet, execPlaceSet, hnew.onNew, hmode, hup, hwords, hmask, hkey, hnone, Bool.not_true, Bool.false_eq_true,
    or_self, if_false]

variable {i : Nat} {e : Slot} (hcur : s.current k form = some (i, e))
include hcur

/-- A SET that leaves TIER_PREF alone changes the flags and ends. -/
theorem placeSet_flags (heven : fld l.flags 16 5 % 2 = 0) : exec (.placeSet id) s = .next (
    (s.setFlags i (maskAlloc (s.psetAt e.ps).alloc (fld l.flags 0 6) (fld l.flags 16 5)) (fld l.flags 16 5)).done id 0
      [0, w32 (s.psetAt e.ps).level, 0, 0]) := by
  simp only [exec_placeSet, execPlaceSet, hnew.onNew, hmode, hup, hwords, hmask, hkey, hcur, if_pos heven, Bool.not_true,
    Bool.false_eq_true, or_self, if_false]

variable (hodd : fld l.flags 16 5 % 2 = 1)
include hodd

/-- A page set changes level once at a time, a change that is still owed included. -/
theorem placeSet_conflict (h : (s.moveOf e.ps).isSome = true ∨ s.tier.owed.any (fun x => decide (x.1 = e.ps)) = true) :
    exec (.placeSet id) s = .next (s.fail id .conflict) := by
  simp only [exec_placeSet, execPlaceSet, hnew.onNew, hmode, hup, hwords, hmask, hkey, hcur, hodd, Nat.one_ne_zero, if_pos h,
    Bool.not_true, Bool.false_eq_true, or_self, if_false]

theorem placeSet_level (hmove : s.moveOf e.ps = none) (howed : s.tier.owed.any (fun x => decide (x.1 = e.ps)) = false) :
    exec (.placeSet id) s = .next (s.setLevel id i (maskAlloc (s.psetAt e.ps).alloc (fld l.flags 0 6) (fld l.flags 16 5))
      (fld l.flags 16 5)) := by
  simp only [exec_placeSet, execPlaceSet, hnew.onNew, hmode, hup, hwords, hmask, hkey, hcur, hodd, hmove, howed, Nat.one_ne_zero,
    Option.isSome_none, Bool.not_true, Bool.false_eq_true, or_self, if_false]

end

/-! ### The tier that a SET takes (06 R210, R221) -/

/-- No charge is needed in the tier that a SET names: a copy lies there, or T2 takes none any more. -/
def State.setOwns (s : State) (i alloc : Nat) : Bool :=
  (s.psetAt (s.slot i).ps).has (prefTier alloc) || (decide (prefTier alloc = 2) && s.flm.readOnly)

/-- The charge of a SET's new copy, tested and made. -/
def State.setCharge (s : State) (i alloc : Nat) : Except (Status × Nat) (State × Nat × Bool) :=
  s.chargeTier (s.psetAt (s.slot i).ps).tenant (s.psetAt (s.slot i).ps).charge (bit (w32 alloc) 5) (s.psetAt (s.slot i).ps).has 2 3
    (prefTier alloc)

theorem setLevel_eq (s : State) (id i alloc mask : Nat) : s.setLevel id i alloc mask =
    if s.setOwns i alloc then s.setTo id i alloc mask (prefTier alloc)
    else match s.setCharge i alloc with
      | .error (st, b) => s.shortfall id st b
      | .ok (u, _, false) => u
      | .ok (u, t, true) => u.setTo id i alloc mask t := by
  simp only [State.setOwns, Bool.or_eq_true, Bool.and_eq_true, decide_eq_true_eq]
  rfl

section
variable {s : State} {i alloc : Nat} (id mask : Nat)

theorem setLevel_owned (h : s.setOwns i alloc = true) :
    s.setLevel id i alloc mask = s.setTo id i alloc mask (prefTier alloc) := by
  simp only [setLevel_eq, h, if_true]

variable (hown : s.setOwns i alloc = false)
include hown

theorem setLevel_takes {u : State} {t : Nat} (h : s.setCharge i alloc = .ok (u, t, true)) :
    s.setLevel id i alloc mask = u.setTo id i alloc mask t := by
  simp only [setLevel_eq, hown, h, Bool.false_eq_true, if_false]

theorem setLevel_waits {u : State} {t : Nat} (h : s.setCharge i alloc = .ok (u, t, false)) : s.setLevel id i alloc mask = u := by
  simp only [setLevel_eq, hown, h, Bool.false_eq_true, if_false]

theorem setLevel_refused {st : Status} {b : Nat} (h : s.setCharge i alloc = .error (st, b)) :
    s.setLevel id i alloc mask = s.shortfall id st b := by
  simp only [setLevel_eq, hown, h, Bool.false_eq_true, if_false]

end

/-! ### A SET with its tier known (06 R210, R213, R214, R221) -/

/-- A level other than the one asked for counts as a spill. -/
def State.spilledTo (alloc t : Nat) (s : State) : State := if t = prefTier alloc then s else s.count 0x19 0x1A0 3

/-- The page set's ALLOC while its level has not changed yet: TIER_PREF stays as it is. -/
def State.allocNow (s : State) (i alloc : Nat) : Nat := maskAlloc alloc (s.psetAt (s.slot i).ps).alloc 1

/-- The move of a SET, from the state in which its flags have taken effect. -/
def State.setMove (s : State) (id i alloc mask t : Nat) : Except Status State :=
  (s.setFlags i (s.allocNow i alloc) mask).beginMove (s.slot i).ps t (.set id) (some (alloc % 4))
    (some ((s.psetAt (s.slot i).ps).alloc, mask))

section
variable {s : State} {i alloc t : Nat} (id mask : Nat)

theorem setTo_here (h : t = (s.psetAt (s.slot i).ps).level) :
    s.setTo id i alloc mask t = ((s.spilledTo alloc t).setFlags i alloc mask).done id 0 [0, w32 t, 0, 0] := if_pos h

variable (hlevel : t ≠ (s.psetAt (s.slot i).ps).level)
include hlevel

theorem setTo_elsewhere : s.setTo id i alloc mask t =
    match s.setMove id i alloc mask t with
    | .ok u => (u.spilledTo alloc t).setRunning id
    | .error .readOnly => (s.setFlags i (s.allocNow i alloc) mask).fail id .readOnly
    | .error .poison => (s.setFlags i (s.allocNow i alloc) mask).fail id .poison
    | .error st => s.shortfall id st ((s.psetAt (s.slot i).ps).charge t - s.freeSpace t) := if_neg hlevel

variable {id mask}

theorem setTo_moves {u : State} (h : s.setMove id i alloc mask t = .ok u) :
    s.setTo id i alloc mask t = (u.spilledTo alloc t).setRunning id := by
  rw [setTo_elsewhere id mask hlevel, h]

theorem setTo_readOnly (h : s.setMove id i alloc mask t = .error .readOnly) :
    s.setTo id i alloc mask t = (s.setFlags i (s.allocNow i alloc) mask).fail id .readOnly := by
  rw [setTo_elsewhere id mask hlevel, h]

theorem setTo_poison (h : s.setMove id i alloc mask t = .error .poison) :
    s.setTo id i alloc mask t = (s.setFlags i (s.allocNow i alloc) mask).fail id .poison := by
  rw [setTo_elsewhere id mask hlevel, h]

theorem setTo_refused {st : Status} (h : s.setMove id i alloc mask t = .error st) (hro : st ≠ .readOnly) (hpoison : st ≠ .poison) :
    s.setTo id i alloc mask t = s.shortfall id st ((s.psetAt (s.slot i).ps).charge t - s.freeSpace t) := by
  rw [setTo_elsewhere id mask hlevel, h]
  split
  next heq => cases heq
  next heq => cases heq; exact absurd rfl hro
  next heq => cases heq; exact absurd rfl hpoison
  next heq => cases heq; rfl

end

/-! ### How a move starts (06 R210, R213, R214) -/

/-- A move that has started is the last of the list. -/
def State.addMove (s : State) (m : Move) : State := { s with tier := { s.tier with moves := s.tier.moves ++ [m] } }

section
variable {s : State} {i t : Nat} (c : MoveCause) (pref : Option Nat) (undo : Option (Nat × Nat))

/-- A move to a tier where a copy lies has only the copies above to release. -/
theorem beginMove_releases (h : (s.psetAt i).has t = true) :
    s.beginMove i t c pref undo = .ok (s.addMove ⟨i, t, c, true, false, pref, undo⟩) := if_pos h

variable (hhas : (s.psetAt i).has t = false)
include hhas

theorem beginMove_readOnly (h : t = 2 ∧ s.flm.readOnly = true) : s.beginMove i t c pref undo = .error .readOnly := by
  simp only [State.beginMove, hhas, if_pos h, Bool.false_eq_true, if_false]

variable (hro : ¬ (t = 2 ∧ s.flm.readOnly = true))
include hro

theorem beginMove_poison (h : s.psetBad i = true) : s.beginMove i t c pref undo = .error .poison := by
  simp only [State.beginMove, hhas, if_neg hro, h, Bool.false_eq_true, if_false, if_true]

theorem beginMove_copies (hbad : s.psetBad i = false) (ht : t < 2) (hlevel : (s.psetAt i).level < 2) :
    s.beginMove i t c pref undo = .ok (s.addMove ⟨i, t, c, false, false, pref, undo⟩) := by
  simp only [State.beginMove, hhas, if_neg hro, hbad, if_neg ht.ne, if_neg hlevel.ne, Bool.false_eq_true, if_false]
  rfl

end

/-! ### MOVE_COMMIT (06 R210, R229) -/

/-- A move of page set `p` whose entry has ended. -/
def State.goneMove (s : State) (p : Nat) : Option Move := s.tier.moves.find? (fun m => decide (m.pset = p) && m.gone)

/-- The new copy of a move is there: no longer awaited from flash, and in T2 its units are those of a HOT page set or not. -/
def State.copied (s : State) (p : Nat) (m : Move) : State :=
  let w := (s.updPset p (fun v => v.setHas m.target true)).plate p
  let u := { w with flm := { w.flm with landed := w.flm.landed.filter (fun x => decide (x ≠ s.handleOf p)) } }
  if m.target = 2 then u.hotUnits p (bit (w32 (s.psetAt p).alloc) 3) else u

theorem exec_moveCommit (p : Nat) (s : State) : exec (.moveCommit p) s = execMoveCommit p s := rfl

section
variable {s : State} {p : Nat} {m : Move}

section
variable (hgone : s.goneMove p = some m) {u : State}
  (hu : u = { s with tier := { s.tier with moves := s.tier.moves.filter (fun x => decide (x ≠ m)) } })
include hgone hu

theorem moveCommit_set_gone {id : Nat} (h : m.cause = .set id) : exec (.moveCommit p) s = .next (u.fail id .notFound) := by
  unfold State.goneMove at hgone
  simp only [exec_moveCommit, execMoveCommit, hgone, h, hu]

theorem moveCommit_plan_gone {id : Nat} (h : m.cause = .plan id) : exec (.moveCommit p) s = .next (u.planFail id .notFound) := by
  unfold State.goneMove at hgone
  simp only [exec_moveCommit, execMoveCommit, hgone, h, hu]

/-- No command waits for a move that PUBLISH or pressure has started. -/
theorem moveCommit_other_gone (h : m.cause = .publish ∨ m.cause = .pressure) : exec (.moveCommit p) s = .next u := by
  unfold State.goneMove at hgone
  rcases h with h | h <;> simp only [exec_moveCommit, execMoveCommit, hgone, h, hu]

end

variable (hlive : s.goneMove p = none)
include hlive

theorem moveCommit_owed (h : s.moveOf p = none) : exec (.moveCommit p) s = .next (s.payOwed p) := by
  unfold State.goneMove at hlive
  simp only [exec_moveCommit, execMoveCommit, hlive, h]

variable (hmove : s.moveOf p = some m)
include hmove

theorem moveCommit_waits (h : m.releasing = true ∨ s.moveShut m = true ∨ s.moveReady m = false) :
    exec (.moveCommit p) s = .next s := by
  unfold State.goneMove at hlive
  simp only [exec_moveCommit, execMoveCommit, hlive, hmove, Bool.not_eq_true', if_pos h]

variable (hcopying : m.releasing = false) (hopen : s.moveShut m = false) (hready : s.moveReady m = true)
include hcopying hopen hready

theorem moveCommit_promotes (h : m.target < (s.psetAt p).level) : exec (.moveCommit p) s = .next (
    ((((s.copied p m).updPset p (fun v => { v with level := m.target })).journalTiers p).bump (pg 0x19 + 0x180)).moveDone m) := by
  unfold State.goneMove at hlive
  simp only [exec_moveCommit, execMoveCommit, hlive, hmove, hcopying, hopen, hready, if_pos h, Bool.not_true, Bool.false_eq_true,
    or_self, if_false]
  rfl

/-- A demotion turns to the release of the copies above. -/
theorem moveCommit_demotes (h : (s.psetAt p).level ≤ m.target) {y : State} (hy : y = (s.copied p m).bump (pg 0x19 + 0x184)) :
    exec (.moveCommit p) s = .next { y with tier := { y.tier with
      moves := updIf y.tier.moves (fun x => decide (x = m)) (fun x => { x with releasing := true }) } } := by
  unfold State.goneMove at hlive
  simp only [exec_moveCommit, execMoveCommit, hlive, hmove, hcopying, hopen, hready, if_neg (not_lt.2 h), hy, Bool.not_true,
    Bool.false_eq_true, or_self, if_false]
  rfl

end

/-! ### COPY_RELEASE (06 R207, R211; 11 R412) -/

theorem exec_copyRelease (p : Nat) (s : State) : exec (.copyRelease p) s = execCopyRelease p s := rfl

section
variable {s : State} {p : Nat}

theorem copyRelease_noMove (h : s.moveOf p = none) : exec (.copyRelease p) s = .next s := by
  simp only [exec_copyRelease, execCopyRelease, h]

variable {m : Move} (hmove : s.moveOf p = some m)
include hmove

theorem copyRelease_waits (h : m.releasing = false ∨ s.moveShut m = true ∨ s.viewed p m.target = true ∨
    s.tier.reads.any (fun r => decide (r.pset = p)) = true) : exec (.copyRelease p) s = .next s := by
  simp only [exec_copyRelease, execCopyRelease, hmove, Bool.not_eq_true', if_pos h]

theorem copyRelease_releases (hrel : m.releasing = true) (hopen : s.moveShut m = false) (hview : s.viewed p m.target = false)
    (hread : s.tier.reads.any (fun r => decide (r.pset = p)) = false) :
    exec (.copyRelease p) s = .next ((s.releaseAbove p m.target).moveDone m) := by
  simp only [exec_copyRelease, execCopyRelease, hmove, hrel, hopen, hview, hread, Bool.not_true, Bool.false_eq_true, or_self,
    if_false]

end

/-- What the journal takes is no matter of the page sets. -/
@[simp] theorem psetAt_journalTiers (s : State) (i j : Nat) : (s.journalTiers i).psetAt j = s.psetAt j := by
  unfold State.journalTiers State.dirUpdate
  split
  · split <;> rfl
  · rfl

theorem psetAt_updPset_self (s : State) (i : Nat) (f : PSet → PSet) (h : Sparse.rising s.tier.psets) :
    (s.updPset i f).psetAt i = f (s.psetAt i) := sget_sset_self _ i _ h

theorem psetAt_releaseAbove (s : State) (i t : Nat) (h : Sparse.rising s.tier.psets) : (s.releaseAbove i t).psetAt i =
    { s.psetAt i with t0 := (s.psetAt i).t0 && decide (t = 0), t1 := (s.psetAt i).t1 && decide (t ≤ 1), level := t } := by
  rw [State.releaseAbove, psetAt_journalTiers, psetAt_updPset_self s i _ h]

/-- Settles O12: a SET by what it names and what its charge and its move answer, then a move by its start, its commit and its release. -/
theorem setChangesLevelInSteps : Obligations.SetChangesLevelInSteps := by
  unfold Obligations.SetChangesLevelInSteps
  refine ⟨fun s id l hl hop hph hc hup hmode => ?set, fun s id i alloc mask t v hv ht own hown r hr => ?level,
    fun s id i alloc mask t v hv now hnow spilled hspilled => ?takes, fun s i t c pref undo => ⟨fun ht h => ?starts,
      fun ht2 hro => beginMove_readOnly c pref undo ht2 ⟨rfl, hro⟩, fun hhas hro => beginMove_poison c pref undo hhas hro⟩,
    fun s p hlive => ⟨fun h => ⟨moveCommit_owed hlive h, copyRelease_noMove h⟩, fun m hmove => ⟨moveCommit_waits hlive hmove,
      fun hcopying hopen hready w u hw hu x y hx hy => ?commit, copyRelease_waits hmove, copyRelease_releases hmove⟩⟩,
    psetAt_releaseAbove, fun s p m hgone u hu => ⟨fun id => moveCommit_set_gone hgone hu, fun id => moveCommit_plan_gone hgone hu,
      moveCommit_other_gone hgone hu⟩⟩
  case set =>
    have hnew : s.Fresh id 0x07 l := ⟨hl, hop, hph, hc⟩
    refine ⟨placeSet_badWords hnew hup hmode, fun hwords hmask => ⟨fun e => placeSet_noKey hnew hup hmode hwords hmask,
      fun k form hkey => ⟨placeSet_noEntry hnew hup hmode hwords hmask hkey, fun i e alloc hcur halloc => ?_⟩⟩⟩
    subst halloc
    exact ⟨placeSet_flags hnew hup hmode hwords hmask hkey hcur, placeSet_conflict hnew hup hmode hwords hmask hkey hcur,
      placeSet_level hnew hup hmode hwords hmask hkey hcur⟩
  case level =>
    subst hv ht hown hr
    exact ⟨setLevel_owned id mask, fun hown => ⟨fun u t' => setLevel_takes id mask hown, fun u t' => setLevel_waits id mask hown,
      fun st b => setLevel_refused id mask hown⟩⟩
  case takes =>
    have hcounts : spilled = State.spilledTo alloc t := funext hspilled
    subst hv hnow hcounts
    refine ⟨setTo_here id mask, fun hlevel r hr => ?_⟩
    subst hr
    exact ⟨fun u => setTo_moves hlevel, setTo_readOnly hlevel, setTo_poison hlevel, fun st => setTo_refused hlevel⟩
  case starts =>
    cases hhas : (s.psetAt i).has t with
    | true => exact beginMove_releases c pref undo hhas
    | false =>
      obtain ⟨hlevel, hbad⟩ : (s.psetAt i).level < 2 ∧ s.psetBad i = false := h.resolve_right (by simp [hhas])
      exact beginMove_copies c pref undo hhas (fun h2 => ht.ne h2.1) hbad ht hlevel
  case commit =>
    subst hw hu hx hy
    exact ⟨moveCommit_promotes hlive hmove hcopying hopen hready, fun h =>
      moveCommit_demotes hlive hmove hcopying hopen hready h rfl⟩

end Sys2Proof.Machine

/-! Pressure reclaim and FREE (06 R215, R222, R223, R230): what is seen of the free space, the step that reclaim takes, its retry,
and what FREE gives back. -/

namespace Sys2Proof.Machine

/-! ### PRESSURE_RECLAIM (06 R222; 10 R386) -/

theorem exec_pressureReclaim (t : Nat) (s : State) : exec (.pressureReclaim t) s = execPressureReclaim t s := rfl

theorem pressureReclaim_trims (s : State) : exec (.pressureReclaim 2) s = .next s.trimCapacity := by
  simp only [exec_pressureReclaim, execPressureReclaim, if_true]

/-- Copies that fit the capacity stay. -/
theorem trimCapacity_fits {s : State} (h : s.tierCharge 2 ≤ s.capacity 2) : s.trimCapacity = s := if_pos h

section
variable {s : State} {t : Nat} (ht : t < 2)
include ht

theorem pressureReclaim_waits (h : s.tier.retryAt.any (fun x => decide (x.1 = t)) = true) :
    exec (.pressureReclaim t) s = .next s := by
  simp only [exec_pressureReclaim, execPressureReclaim, if_neg ht.ne, h, if_true]

theorem pressureReclaim_presses (h : s.tier.retryAt.any (fun x => decide (x.1 = t)) = false) :
    exec (.pressureReclaim t) s = .next (s.pressure t) := by
  simp only [exec_pressureReclaim, execPressureReclaim, if_neg ht.ne, h, Bool.false_eq_true, if_false]

end

/-! ### LOW_PCT seen (06 R222, R230) -/

/-- What is seen of LOW_PCT, before an interrupt tells of it. -/
def State.seeLow (s : State) (t : Nat) (low : Bool) : State :=
  { s with tier := if t = 0 then { s.tier with under0 := low } else { s.tier with under1 := low } }

/-- A fall of free space below LOW_PCT raises LOW_T0 or LOW_T1, and reclaim runs from then on. -/
def State.lowSeen (s : State) (t : Nat) (low : Bool) : State :=
  if low then (if s.wasLow t then s.seeLow t low else (s.seeLow t low).raise 0x19 t).setReclaiming t true else s.seeLow t low

@[simp] theorem State.raise_tier (s : State) (p i : Nat) : (s.raise p i).tier = s.tier := by rw [raise_eq]; rfl

@[simp] theorem State.raise_act (s : State) (p i : Nat) : (s.raise p i).act = s.act := (notesOnly_raise s p i).act

theorem wasLow_raise (s : State) (p i t : Nat) : (s.raise p i).wasLow t = s.wasLow t := by
  simp only [State.wasLow, State.raise_tier]

theorem wasLow_seeLow (s : State) (t : Nat) (low : Bool) : (s.seeLow t low).wasLow t = low := by
  unfold State.wasLow State.seeLow
  split <;> rfl

theorem wasLow_setReclaiming (s : State) (t : Nat) (b : Bool) : (s.setReclaiming t b).wasLow t = s.wasLow t := by
  unfold State.wasLow State.setReclaiming
  split <;> rfl

/-- LOW_PCT is noted, with the interrupt where free space has just fallen below it. -/
theorem noteLow_eq (s : State) (t : Nat) : s.noteLow t =
    if (s.freeBelow t (s.watermark t 0) && !s.wasLow t) = true then (s.seeLow t (s.freeBelow t (s.watermark t 0))).raise 0x19 t
    else s.seeLow t (s.freeBelow t (s.watermark t 0)) := rfl

theorem wasLow_noteLow (s : State) (t : Nat) : (s.noteLow t).wasLow t = s.freeBelow t (s.watermark t 0) := by
  rw [noteLow_eq]
  split
  · rw [wasLow_raise, wasLow_seeLow]
  · exact wasLow_seeLow s t _

/-- Reclaim starts with what `noteLow` sees. -/
theorem noteLow_lowSeen (s : State) (t : Nat) :
    (if (s.noteLow t).wasLow t then (s.noteLow t).setReclaiming t true else s.noteLow t) =
      s.lowSeen t (s.freeBelow t (s.watermark t 0)) := by
  rw [wasLow_noteLow, noteLow_eq, State.lowSeen]
  cases s.freeBelow t (s.watermark t 0) <;> cases s.wasLow t <;> rfl

theorem wasLow_lowSeen (s : State) (t : Nat) (low : Bool) : (s.lowSeen t low).wasLow t = low := by
  unfold State.lowSeen
  split
  · rw [wasLow_setReclaiming]
    split
    · exact wasLow_seeLow s t low
    · rw [wasLow_raise, wasLow_seeLow]
  · exact wasLow_seeLow s t low

@[simp] theorem State.setReclaiming_act (s : State) (t : Nat) (b : Bool) : (s.setReclaiming t b).act = s.act := rfl

@[simp] theorem State.seeLow_act (s : State) (t : Nat) (b : Bool) : (s.seeLow t b).act = s.act := rfl

/-- What is seen of the free space changes no configuration register. -/
theorem cfgReg_lowSeen (s : State) (t : Nat) (low : Bool) (a : Nat) : (s.lowSeen t low).cfgReg a = s.cfgReg a := by
  simp only [State.cfgReg, State.lowSeen, apply_ite State.act, State.setReclaiming_act, State.raise_act, State.seeLow_act, ite_self]

/-! ### Pressure (06 R222; 02 R77) -/

theorem pressure_idle {s : State} {t : Nat} (h : 2 ≤ t ∨ s.reached .psa = false) : s.pressure t = s :=
  if_pos (h.imp id fun hdown => by rw [hdown]; rfl)

section
variable {s w : State} {t : Nat} (ht : t < 2) (hup : s.reached .psa = true) {low : Bool}
  (hlow : low = s.freeBelow t (s.watermark t 0)) (hw : w = s.lowSeen t low)
include ht hup hlow hw

/-- Pressure acts on what it has seen of LOW_PCT. -/
theorem pressure_eq : s.pressure t =
    if w.reclaiming t = false then w
    else if w.freeBelow t (w.watermark t 8) = false then w.setReclaiming t false
    else if bit (s.cfgReg (pg 0x19 + 0x100)) 0 = false then w.setReclaiming t low
    else if w.slack .memory = false then w
    else w.reclaimStep t := by
  have hgo : ¬ (1 < t ∨ s.reached .psa = false) := by
    rintro (h | h)
    · omega
    · exact Bool.false_ne_true (h.symm.trans hup)
  have hwas : w.wasLow t = low := by rw [hw, wasLow_lowSeen]
  have hreg : w.cfgReg (pg 0x19 + 0x100) = s.cfgReg (pg 0x19 + 0x100) := by rw [hw, cfgReg_lowSeen]
  simp only [State.pressure, Bool.not_eq_true', if_neg hgo, noteLow_lowSeen, ← hlow, ← hw, hwas, hreg]

theorem pressure_off (h : w.reclaiming t = false) : s.pressure t = w := by rw [pressure_eq ht hup hlow hw, if_pos h]

variable (hrun : w.reclaiming t = true)
include hrun

/-- Reclaim stops at HIGH_PCT. -/
theorem pressure_stops (h : w.freeBelow t (w.watermark t 8) = false) : s.pressure t = w.setReclaiming t false := by
  simp only [pressure_eq ht hup hlow hw, hrun, h, Bool.true_eq_false, if_false, if_true]

variable (hhigh : w.freeBelow t (w.watermark t 8) = true)
include hhigh

/-- Where RECLAIM_EN is 0, reclaim runs as long as free space stands below LOW_PCT, and does nothing. -/
theorem pressure_disabled (h : bit (s.cfgReg (pg 0x19 + 0x100)) 0 = false) : s.pressure t = w.setReclaiming t low := by
  simp only [pressure_eq ht hup hlow hw, hrun, hhigh, h, Bool.true_eq_false, if_false, if_true]

theorem pressure_steps (h : bit (s.cfgReg (pg 0x19 + 0x100)) 0 = true) :
    s.pressure t = if w.slack .memory then w.reclaimStep t else w := by
  simp only [pressure_eq ht hup hlow hw, hrun, hhigh, h, Bool.true_eq_false, if_false]
  cases w.slack .memory <;> rfl

end

/-! ### A step of reclaim (06 R222, R223) -/

/-- The demotion that a step may start: where demotions are allowed, the first whose charge fits. -/
def State.demotion (s : State) (t : Nat) : Option State :=
  if bit (s.cfgReg (pg 0x19 + 0x100)) 1 = true ∧ s.demoteCredit t = true then s.demoteFirst t (s.demotable t) else none

section
variable {s : State} {t : Nat}

theorem reclaimStep_releases {u : State} (h : s.releaseFirst t = some u) : s.reclaimStep t = u := by
  simp only [State.reclaimStep, h]

variable (hcopies : s.releaseFirst t = none)
include hcopies

theorem reclaimStep_demotes {u : State} (h : s.demotion t = some u) : s.reclaimStep t = u := by
  unfold State.demotion at h
  simp only [State.reclaimStep, hcopies, h]

variable (hdemote : s.demotion t = none)
include hdemote

/-- An entry is ended once its end point can pass at once. -/
theorem reclaimStep_evicts {e : Nat × Slot} {r : List (Nat × Slot)}
    (h : s.evictList (fun _ v => decide ((s.psetAt v.ps).level = t)) = e :: r) :
    s.reclaimStep t = if s.endReady then ((s.endNow e.1).countEvicted).bump (pg 0x19 + 0x190) else s := by
  unfold State.demotion at hdemote
  simp only [State.reclaimStep, hcopies, hdemote, h, Bool.not_eq_true', ← Bool.not_eq_true, ite_not]

theorem reclaimStep_stuck (h : s.evictList (fun _ v => decide ((s.psetAt v.ps).level = t)) = []) :
    s.reclaimStep t = State.raise { s with tier := { s.tier with
      retryAt := s.tier.retryAt.filter (fun x => decide (x.1 ≠ t)) ++ [(t, s.clk + 1000000)] } } 0x19 5 := by
  unfold State.demotion at hdemote
  simp only [State.reclaimStep, hcopies, hdemote, h]

end

/-! ### RECLAIM_RETRY (06 R222) -/

theorem exec_reclaimRetry (tier t : Nat) (s : State) : exec (.reclaimRetry tier t) s = execReclaimRetry tier t s := rfl

section
variable {s : State} {tier t : Nat}

theorem reclaimRetry_early (h : s.tier.retryAt.any (fun x => decide (x.1 = tier ∧ x.2 ≤ (s.at_ t).clk)) = false) :
    exec (.reclaimRetry tier t) s = .next (s.at_ t) := by
  simp only [exec_reclaimRetry, execReclaimRetry, State.atTime_tier, h, Bool.false_eq_true, if_false]

theorem reclaimRetry_due (h : s.tier.retryAt.any (fun x => decide (x.1 = tier ∧ x.2 ≤ (s.at_ t).clk)) = true) :
    exec (.reclaimRetry tier t) s = .next (State.pressure { s.at_ t with tier := { s.tier with
      retryAt := s.tier.retryAt.filter (fun x => decide (x.1 ≠ tier)) } } tier) := by
  simp only [exec_reclaimRetry, execReclaimRetry, State.atTime_tier, h, if_true]

end

/-! ### FREE (06 R215) -/

/-- A command is found under its own number. -/
theorem live_id {s : State} {id : Nat} {l : Live} (h : s.live id = some l) : l.id = id := by
  simpa using List.find?_some h

theorem exec_free (id : Nat) (s : State) : exec (.free id) s = execFree id s := rfl

section
variable {s : State} {id : Nat} {l : Live} (hnew : s.Fresh id 0x08 l) (hup : s.reached .psa = true)
include hnew hup

section
variable (hrsv : l.flag 0 = false) (hwords : l.reservedOk 0x601 [0xFFFFFFFF] = true)
include hrsv hwords

theorem free_byHandle : exec (.free id) s = .next (s.freeRsv l) := by
  simp only [exec_free, execFree, hnew.onNew, hup, hrsv, hwords, Bool.not_true, Bool.false_eq_true, if_false, if_true]

theorem free_unknown (h : s.psetOf (l.w 4) = none) : exec (.free id) s = .next (s.fail id .notFound) := by
  simp only [free_byHandle hnew hup hrsv hwords, State.freeRsv, h, live_id hnew.1]

variable {v : PSet} (hv : s.psetOf (l.w 4) = some v)
include hv

/-- The reservation of another tenant, or one that is published, is not there to be freed. -/
theorem free_notOwn (h : v.tenant ≠ l.tenant ∨ v.rstate = .published) : exec (.free id) s = .next (s.fail id .notFound) := by
  simp only [free_byHandle hnew hup hrsv hwords, State.freeRsv, hv, live_id hnew.1]
  split
  · rfl
  next hown => rw [h.resolve_left hown]

variable (hown : v.tenant = l.tenant)
include hown

theorem free_sealed (h : ∃ n, v.rstate = .sealed n) : exec (.free id) s = .next (s.fail id .conflict) := by
  obtain ⟨n, h⟩ := h
  simp only [free_byHandle hnew hup hrsv hwords, State.freeRsv, hv, live_id hnew.1, if_neg (not_not.2 hown), h]

theorem free_unsealed (h : v.rstate = .open_ ∨ v.rstate = .stuck) :
    exec (.free id) s = .next ((s.freePset (psIx (l.w 4))).done id 0 [0, 0, 0, 0]) := by
  simp only [free_byHandle hnew hup hrsv hwords, State.freeRsv, hv, live_id hnew.1, if_neg (not_not.2 hown)]
  rcases h with h | h <;> rw [h]

end

section
variable (hkeyed : l.flag 0 = true) (hwords : l.reservedOk 0x601 [0, 0, 0xFFFFFFFF, 0xFFFFFFFF] = true)
include hkeyed hwords

theorem free_byKey : exec (.free id) s = .next (s.freeKey l) := by
  simp only [exec_free, execFree, hnew.onNew, hup, hkeyed, hwords, Bool.not_true, Bool.false_eq_true, if_false, if_true]

theorem free_noKey {e : Status} (hkey : s.namedKey l false = .error e) : exec (.free id) s = .next (s.fail id e) := by
  simp only [free_byKey hnew hup hkeyed hwords, State.freeKey, hkey, live_id hnew.1]

variable {k : Key} {form : Nat} (hkey : s.namedKey l false = .ok (k, form))
include hkey

theorem free_noEntry (h : s.current k form = none) : exec (.free id) s = .next (s.fail id .notFound) := by
  simp only [free_byKey hnew hup hkeyed hwords, State.freeKey, hkey, h, live_id hnew.1]

variable {i : Nat} {e : Slot} (hcur : s.current k form = some (i, e))
include hcur

theorem free_schedules (h : s.evictable i = true) :
    exec (.free id) s = .next ((s.schedule (.end_ i (.free id))).setRunning id) := by
  simp only [free_byKey hnew hup hkeyed hwords, State.freeKey, hkey, hcur, h, live_id hnew.1, if_true]

theorem free_conflict (h : s.evictable i = false) : exec (.free id) s = .next (s.fail id .conflict) := by
  simp only [free_byKey hnew hup hkeyed hwords, State.freeKey, hkey, hcur, h, live_id hnew.1, Bool.false_eq_true, if_false]

end

end

/-- Settles O13: pressure by what it sees of the free space, a step by its candidates in turn, and FREE by what it names. -/
theorem pressureReclaimAndFree : Obligations.PressureReclaimAndFree := by
  unfold Obligations.PressureReclaimAndFree
  refine ⟨fun s => ⟨pressureReclaim_trims s, trimCapacity_fits⟩, fun s t ht => ⟨pressureReclaim_waits ht, pressureReclaim_presses ht⟩,
    fun s t => ⟨pressure_idle, fun ht hup low v w hlow hv hw => ?pressure⟩,
    fun s t => ⟨fun u => reclaimStep_releases, fun hcopies d hd => ?step⟩, fun s tier t due hdue => ?retry,
    fun s id l hl hop hph hc hup => ?free⟩
  case pressure =>
    have hseen : w = s.lowSeen t low := by rw [hw, hv]; rfl
    exact ⟨pressure_off ht hup hlow hseen, pressure_stops ht hup hlow hseen, fun hrun hhigh =>
      ⟨pressure_disabled ht hup hlow hseen hrun hhigh, pressure_steps ht hup hlow hseen hrun hhigh⟩⟩
  case step =>
    subst hd
    refine ⟨fun u => reclaimStep_demotes hcopies, fun hnone es hes => ?_⟩
    subst hes
    exact ⟨fun e r => reclaimStep_evicts hcopies hnone, reclaimStep_stuck hcopies hnone⟩
  case retry =>
    subst hdue
    exact ⟨reclaimRetry_early, reclaimRetry_due⟩
  case free =>
    have hnew : s.Fresh id 0x08 l := ⟨hl, hop, hph, hc⟩
    exact ⟨fun hrsv hwords => ⟨free_unknown hnew hup hrsv hwords, fun v hv => ⟨free_notOwn hnew hup hrsv hwords hv,
        free_sealed hnew hup hrsv hwords hv, free_unsealed hnew hup hrsv hwords hv⟩⟩,
      fun hkeyed hwords => ⟨fun e => free_noKey hnew hup hkeyed hwords, fun k form hkey =>
        ⟨free_noEntry hnew hup hkeyed hwords hkey, fun i e hcur => ⟨free_schedules hnew hup hkeyed hwords hkey hcur,
          free_conflict hnew hup hkeyed hwords hkey hcur⟩⟩⟩⟩

end Sys2Proof.Machine

/-! Plans (06 R224 to R228; 07 R242, R243, R245): a PLAN_LOAD tested whole, its layers moved down, and the end of a plan. -/

namespace Sys2Proof.Machine

/-! ### The shortfall of a plan (06 R225, R226) -/

/-- A tier is short where the plan adds to it and the smaller room does not hold what it adds. -/
theorem planLack_pos_iff (s : State) (tenant t : Nat) (os : List PlanObj) : 0 < s.planLack tenant os t ↔
    s.planNeed os t ≠ 0 ∧ min (s.rooms tenant t).1 (s.rooms tenant t).2 < (s.planNeed os t : Int) := by
  unfold State.planLack
  dsimp only
  split
  next h => simp [h]
  next h =>
    rw [Int.lt_toNat]
    exact ⟨fun hlack => ⟨h, by omega⟩, fun ⟨_, hmin⟩ => by omega⟩

theorem planShort_any_iff (s : State) (tenant : Nat) (os : List PlanObj) :
    (s.planShort tenant os).any (fun x => decide (0 < x)) = true ↔ ∃ t, t < 3 ∧ 0 < s.planLack tenant os t := by
  simp [State.planShort]

/-! ### The test of a plan (06 R225 to R228) -/

/-- The layers that a plan moves out of a tier: none without SPILL (06 R227). -/
def State.planDown (s : State) (l : Live) (os : List PlanObj) (t : Nat) : Option (List PlanObj × List Nat) :=
  if l.flag 1 then s.planSpill l.tenant os t else some (os, [])

/-- The plan `p`, with `n` layers moved down out of T0 and T1, is what is tested of `os`. -/
def State.PlanMoved (s : State) (l : Live) (os p : List PlanObj) (n : Nat) : Prop :=
  ∃ o1 x y, s.planDown l os 0 = some (o1, x) ∧ s.planDown l o1 1 = some (p, y) ∧ n = (x ++ y).eraseDups.length

/-- Neither a device that takes writes nor a plan that writes nothing into T2 is refused READ_ONLY (06 R214). -/
theorem not_planWrites_readOnly {s : State} {p : List PlanObj} (h : s.flm.readOnly = false ∨ ∀ o ∈ p, s.planCharge o = 0 ∨ o.tier ≠ 2) :
    ¬ (p.any (fun o => decide (s.planCharge o ≠ 0) && decide (o.tier = 2)) = true ∧ s.flm.readOnly = true) := by
  rintro ⟨hany, hro⟩
  obtain ⟨o, ho, hcharge, htier⟩ : ∃ o ∈ p, s.planCharge o ≠ 0 ∧ o.tier = 2 := by simpa using hany
  rcases h with h | h
  · exact Bool.false_ne_true (h.symm.trans hro)
  · exact (h o ho).elim hcharge (fun h2 => h2 htier)

/-- No page set that would change level moves already (06 R212). -/
theorem not_planMoving {s : State} {p : List PlanObj}
    (h : ∀ o ∈ p, (s.psetAt (s.slot o.slot).ps).level = o.tier ∨ s.moveOf (s.slot o.slot).ps = none) :
    ¬ p.any (fun o => decide ((s.psetAt (s.slot o.slot).ps).level ≠ o.tier) && (s.moveOf (s.slot o.slot).ps).isSome) = true := by
  intro hany
  obtain ⟨o, ho, hlevel, hmove⟩ : ∃ o ∈ p, (s.psetAt (s.slot o.slot).ps).level ≠ o.tier ∧
      (s.moveOf (s.slot o.slot).ps).isSome = true := by simpa using hany
  rcases h o ho with h | h
  · exact hlevel h
  · simp [h] at hmove

section
variable {s : State} {l : Live} (m : Model) {os p : List PlanObj} {n : Nat}

theorem planMoved_noSpill (h : l.flag 1 = false) : s.PlanMoved l os os 0 :=
  ⟨os, [], [], by simp [State.planDown, h], by simp [State.planDown, h], rfl⟩

theorem planMoved_spill (h : l.flag 1 = true) {o1 : List PlanObj} {x y : List Nat} (h0 : s.planSpill l.tenant os 0 = some (o1, x))
    (h1 : s.planSpill l.tenant o1 1 = some (p, y)) : s.PlanMoved l os p (x ++ y).eraseDups.length :=
  ⟨o1, x, y, by rw [State.planDown, if_pos h, h0], by rw [State.planDown, if_pos h, h1], rfl⟩

section
variable (hspill : l.flag 1 = true)
include hspill

theorem planFit_refusedT0 (h : s.planSpill l.tenant os 0 = none) : s.planFit l m os = s.planRefuse l.id l.tenant os := by
  simp only [State.planFit, hspill, h, if_true]

theorem planFit_refusedT1 {o1 : List PlanObj} {x : List Nat} (h0 : s.planSpill l.tenant os 0 = some (o1, x))
    (h1 : s.planSpill l.tenant o1 1 = none) : s.planFit l m os = s.planRefuse l.id l.tenant o1 := by
  simp only [State.planFit, hspill, h0, h1, if_true]

end

section
variable (hmoved : s.PlanMoved l os p n)
include hmoved

theorem planFit_short (h : ∃ t, t < 3 ∧ 0 < s.planLack l.tenant p t) : s.planFit l m os = s.planRefuse l.id l.tenant p := by
  obtain ⟨o1, x, y, h0, h1, -⟩ := hmoved
  unfold State.planDown at h0 h1
  simp only [State.planFit, h0, h1, if_pos ((planShort_any_iff s l.tenant p).2 h)]

variable (hroom : ∀ t, t < 3 → s.planLack l.tenant p t = 0)
include hroom

/-- A plan with room in every tier goes on to its moves. -/
theorem planFit_roomy : s.planFit l m os =
    if p.any (fun o => decide (s.planCharge o ≠ 0) && decide (o.tier = 2)) = true ∧ s.flm.readOnly = true then s.fail l.id .readOnly
    else if p.any (fun o => decide ((s.psetAt (s.slot o.slot).ps).level ≠ o.tier) && (s.moveOf (s.slot o.slot).ps).isSome) = true then
      s.fail l.id .conflict
    else if (s.planRequest l.tenant p 3 0).2 = true then
      if p.any (fun o => decide (((s.planRequest l.tenant p 3 0).1.slot o.slot).state ≠ .current)) = true then
        (s.planRequest l.tenant p 3 0).1.fail l.id .notFound
      else (s.planRequest l.tenant p 3 0).1.planStart l m p n
    else (s.planRequest l.tenant p 3 0).1 := by
  have hno : ¬ (s.planShort l.tenant p).any (fun x => decide (0 < x)) = true := by
    rw [planShort_any_iff]
    rintro ⟨t, ht, hlack⟩
    exact hlack.ne' (hroom t ht)
  obtain ⟨o1, x, y, h0, h1, rfl⟩ := hmoved
  unfold State.planDown at h0 h1
  simp only [State.planFit, h0, h1, if_neg hno]
  rcases s.planRequest l.tenant p 3 0 with ⟨u, _ | _⟩ <;> rfl

theorem planFit_readOnly (hro : s.flm.readOnly = true) (h : ∃ o ∈ p, s.planCharge o ≠ 0 ∧ o.tier = 2) :
    s.planFit l m os = s.fail l.id .readOnly := by
  rw [planFit_roomy m hmoved hroom, if_pos ⟨by simpa using h, hro⟩]

variable (hflash : s.flm.readOnly = false ∨ ∀ o ∈ p, s.planCharge o = 0 ∨ o.tier ≠ 2)
include hflash

/-- A page set that moves already takes no second change of level (06 R212). -/
theorem planFit_conflict (h : ∃ o ∈ p, (s.psetAt (s.slot o.slot).ps).level ≠ o.tier ∧ (s.moveOf (s.slot o.slot).ps).isSome = true) :
    s.planFit l m os = s.fail l.id .conflict := by
  rw [planFit_roomy m hmoved hroom, if_neg (not_planWrites_readOnly hflash), if_pos (by simpa using h)]

variable (hstill : ∀ o ∈ p, (s.psetAt (s.slot o.slot).ps).level = o.tier ∨ s.moveOf (s.slot o.slot).ps = none)
include hstill

theorem planFit_waits {u : State} (h : s.planRequest l.tenant p 3 0 = (u, false)) : s.planFit l m os = u := by
  rw [planFit_roomy m hmoved hroom, if_neg (not_planWrites_readOnly hflash), if_neg (not_planMoving hstill), h]
  exact if_neg Bool.false_ne_true

theorem planFit_starts {u : State} (h : s.planRequest l.tenant p 3 0 = (u, true))
    (hcur : ∀ o ∈ p, (u.slot o.slot).state = .current) : s.planFit l m os = u.planStart l m p n := by
  have hall : ¬ p.any (fun o => decide ((u.slot o.slot).state ≠ .current)) = true := by simpa using hcur
  rw [planFit_roomy m hmoved hroom, if_neg (not_planWrites_readOnly hflash), if_neg (not_planMoving hstill), h]
  exact (if_pos rfl).trans (if_neg hall)

end

end

/-! ### PLAN_LOAD (06 R224; 07 R242, R243) -/

/-- A PLAN_LOAD whose words are in order, of 1 to 8192 entries (07 R242). -/
def Live.planWordsOk (l : Live) : Prop :=
  l.reservedOk 3 [0xFFFF, 0, 0xFFFFFFFF, 0x3FFF, 0xFFFFFFFF, 0xFFFFFFFF] = true ∧ l.w 7 ≠ 0 ∧ l.w 7 ≤ 8192

/-- The plan's entries read as those of keys `ks`, under a model that the device knows. -/
def State.PlanReads (s : State) (l : Live) (m : Model) (ks : List (List Byte × Key)) : Prop :=
  s.model (l.w 4) = some m ∧ ∃ bs, s.workRead l.tenant l.port (l.w64 8) (128 * l.w 7) = .ok bs ∧
    (pieces 128 (l.w 7) bs).all planEntryOk = true ∧ s.listKeys (pieces 128 (l.w 7) bs) = .ok ks

/-- A plan with more than 8 objects in a layer, or with a layer that the model does not have (07 R243). -/
def planBad (m : Model) (os : List PlanObj) : Bool :=
  (planSchedule os).any (fun e => decide (8 < e.2.length)) || os.any (fun o => decide (m.layers ≤ o.layer))

theorem exec_planLoad (id : Nat) (s : State) : exec (.planLoad id) s = execPlanLoad id s := rfl

section
variable {s : State} {id : Nat} {l : Live} (hnew : s.Fresh id 0x0B l) (hup : s.reached .psa = true) (hload : l.flag 0 = false)
  (hwords : l.planWordsOk) {m : Model} {ks : List (List Byte × Key)} (hreads : s.PlanReads l m ks)
include hnew hup hload hwords hreads

theorem planLoad_noObjects (h : s.planObjs l.tenant ks = none) : exec (.planLoad id) s = .next (s.fail id .notFound) := by
  obtain ⟨hres, hone, hmax⟩ := hwords
  obtain ⟨hmodel, bs, hread, hsound, hkeys⟩ := hreads
  simp only [exec_planLoad, execPlanLoad, hnew.onNew, hup, hload, hres, hone, not_lt.2 hmax, hmodel, hread, hsound, hkeys, h,
    Bool.not_true, Bool.false_eq_true, or_self, if_false]

variable {os : List PlanObj} (hobjs : s.planObjs l.tenant ks = some os)
include hobjs

theorem planLoad_objects : exec (.planLoad id) s = .next (
    if planBad m os then s.fail id .badCommand else if s.freePlan.isNone then s.fail id .notReady else s.planFit l m os) := by
  obtain ⟨hres, hone, hmax⟩ := hwords
  obtain ⟨hmodel, bs, hread, hsound, hkeys⟩ := hreads
  simp only [exec_planLoad, execPlanLoad, hnew.onNew, hup, hload, hres, hone, not_lt.2 hmax, hmodel, hread, hsound, hkeys, hobjs,
    planBad, Bool.or_eq_true, Bool.not_true, Bool.false_eq_true, or_self, if_false]

theorem planLoad_bad (h : planBad m os = true) : exec (.planLoad id) s = .next (s.fail id .badCommand) := by
  rw [planLoad_objects hnew hup hload hwords hreads hobjs, if_pos h]

variable (hgood : planBad m os = false)
include hgood

theorem planLoad_noSlot (h : s.freePlan = none) : exec (.planLoad id) s = .next (s.fail id .notReady) := by
  simp only [planLoad_objects hnew hup hload hwords hreads hobjs, hgood, h, Option.isNone_none, Bool.false_eq_true, if_false, if_true]

theorem planLoad_tests (h : s.freePlan ≠ none) : exec (.planLoad id) s = .next (s.planFit l m os) := by
  simp only [planLoad_objects hnew hup hload hwords hreads hobjs, hgood, Option.isNone_iff_eq_none, h, Bool.false_eq_true, if_false]

end

/-! ### UNLOAD (07 R245) -/

/-- The plan of a slot ends with its holds, and so does the UNLOAD that waited for its records. -/
def State.unloaded (s : State) (id slot : Nat) : State :=
  let v := s.setPlan slot { s.plan slot with valid := false }
  State.done { v with pfs := { v.pfs with
    holds := v.pfs.holds.filter (fun h => decide (h.plan ≠ slot)),
    unloads := v.pfs.unloads.filter (fun u => decide (u.id ≠ id)) } } id 0 [0, 0, 0, 0]

theorem exec_planUnload (id : Nat) (s : State) : exec (.planUnload id) s = execPlanUnload id s := rfl

section
variable {s : State} {id : Nat}

/-- An UNLOAD that waits goes on once no record of the plan remains. -/
theorem planUnload_awaited {w : Unload} (h : s.pfs.unloads.find? (fun u => decide (u.id = id)) = some w) :
    exec (.planUnload id) s = .next (if s.planBusy w.since w.slot then s else s.unloaded id w.slot) := by
  simp only [exec_planUnload, execPlanUnload, h]
  rfl

variable {l : Live} (hnew : s.Fresh id 0x0B l) (hup : s.reached .psa = true) (hunload : l.flag 0 = true)
  (hfirst : s.pfs.unloads.find? (fun u => decide (u.id = id)) = none)
  (hwords : l.reservedOk 3 [0xFFFF, 0xFFFF, 0xFFFFFFFF, 0x3FFF, 0xFFFFFFFF, 0xFFFFFFFF] = true)
include hnew hup hunload hfirst hwords

theorem planUnload_noPlan (h : s.planOf s.que.nextId l.tenant (l.w 5) = none) :
    exec (.planUnload id) s = .next (s.fail id .notFound) := by
  simp only [exec_planUnload, execPlanUnload, hfirst, hnew.onNew, hup, hunload, hwords, h, Bool.not_true, Bool.false_eq_true, if_false]

theorem planUnload_begins {slot : Nat} (h : s.planOf s.que.nextId l.tenant (l.w 5) = some slot) {u : State}
    (hu : u = State.setRunning { s with pfs := { s.pfs with unloads := s.pfs.unloads ++ [⟨id, slot, s.que.nextId⟩] } } id) :
    exec (.planUnload id) s = .next (if u.planBusy s.que.nextId slot then u else u.unloaded id slot) := by
  subst hu
  simp only [exec_planUnload, execPlanUnload, hfirst, hnew.onNew, hup, hunload, hwords, h, Bool.not_true, Bool.false_eq_true, if_false]
  rfl

end

/-- Settles O15: a PLAN_LOAD by what its entries name, then the plan moved down by its shortfalls, its moves and its request; an
UNLOAD by the records that remain. -/
theorem planLoadAndUnload : Obligations.PlanLoadAndUnload := by
  unfold Obligations.PlanLoadAndUnload
  refine ⟨fun s id l m bs ks hl hop hph hc hup hload hres hone hmax hmodel hread hsound hkeys => ?load,
    fun s tenant t os => planLack_pos_iff s tenant t os, fun s id slot w hw hslot => ?awaited,
    fun s id l hl hop hph hc hup hunload hfirst hwords => ?unload⟩
  case load =>
    have hnew : s.Fresh id 0x0B l := ⟨hl, hop, hph, hc⟩
    have hwords : l.planWordsOk := ⟨hres, hone, hmax⟩
    have hreads : s.PlanReads l m ks := ⟨hmodel, bs, hread, hsound, hkeys⟩
    refine ⟨planLoad_noObjects hnew hup hload hwords hreads, fun os bad hobjs hbad => ?_⟩
    have hbad' : bad = planBad m os := hbad
    subst hbad'
    refine ⟨planLoad_bad hnew hup hload hwords hreads hobjs, planLoad_noSlot hnew hup hload hwords hreads hobjs, fun hgood hslot => ?_⟩
    rw [planLoad_tests hnew hup hload hwords hreads hobjs hgood hslot, ← live_id hl]
    refine ⟨fun hspill h => congrArg _ (planFit_refusedT0 m hspill h),
      fun o1 x hspill h0 h1 => congrArg _ (planFit_refusedT1 m hspill h0 h1), fun p n hp => ?_⟩
    have hmoved : s.PlanMoved l os p n := by
      rcases hp with ⟨hno, rfl, rfl⟩ | ⟨hspill, o1, x, y, h0, h1, rfl⟩
      · exact planMoved_noSpill hno
      · exact planMoved_spill hspill h0 h1
    exact ⟨fun h => congrArg _ (planFit_short m hmoved h), fun hroom =>
      ⟨fun hro h => congrArg _ (planFit_readOnly m hmoved hroom hro h), fun hflash =>
        ⟨fun h => congrArg _ (planFit_conflict m hmoved hroom hflash h), fun hstill =>
          ⟨fun u h => congrArg _ (planFit_waits m hmoved hroom hflash hstill h),
            fun u h hcur => congrArg _ (planFit_starts m hmoved hroom hflash hstill h hcur)⟩⟩⟩⟩
  case awaited =>
    subst hslot
    rw [planUnload_awaited hw]
    exact ⟨fun h => congrArg _ (if_pos h), fun h v hv => hv ▸ congrArg _ (if_neg (by simp [h]))⟩
  case unload =>
    have hnew : s.Fresh id 0x0B l := ⟨hl, hop, hph, hc⟩
    refine ⟨planUnload_noPlan hnew hup hunload hfirst hwords, fun slot u hslot hu => ?_⟩
    rw [planUnload_begins hnew hup hunload hfirst hwords hslot hu]
    exact ⟨fun h => congrArg _ (if_pos h), fun h v hv => hv ▸ congrArg _ (if_neg (by simp [h]))⟩

end Sys2Proof.Machine

/-! Delivery (07 R231 to R242, R252): DELIVER and its version 1 form, from their checks to the result. -/

namespace Sys2Proof.Machine

/-! ### The checks of a DELIVER (07 R231, R233, R242) -/

/-- The loaded plan that a DELIVER names (07 R242): none where it names none. -/
def State.dlvPlan (s : State) (l : Live) : Option Nat :=
  if l.w 9 % 2 ^ 16 = 0 then none else s.planOf l.id l.tenant (l.w 9 % 2 ^ 16)

/-- A DELIVER that names no plan, or a loaded one, is not refused for its plan. -/
theorem not_planMissing {s : State} {l : Live} (h : l.w 9 % 2 ^ 16 = 0 ∨ s.dlvPlan l ≠ none) :
    ¬ (l.w 9 % 2 ^ 16 ≠ 0 ∧
      Option.isNone (if l.w 9 % 2 ^ 16 = 0 then none else s.planOf l.id l.tenant (l.w 9 % 2 ^ 16)) = true) := by
  rintro ⟨hnamed, hnone⟩
  exact h.elim hnamed (fun hplan => hplan (Option.isNone_iff_eq_none.1 hnone))

/-- The keys of the entries that a DELIVER's view holds: those whose layer is sought in its plan (07 R233, R252). -/
def State.foundKeys (s : State) (es : List DEnt) : List (Key × Nat) :=
  (es.filter (fun e => decide (e.st ≠ .failed .notFound))).map (fun e => s.keyOf e.slot)

/-- TC 7 is no traffic class of a DELIVER to a connection (07 R233). -/
theorem dlvTarget_class7 {s : State} {l : Live} (hlinks : s.reached .links = true) (hup : s.reached .psa = true)
    (hconn : l.flag 0 = false) (htc : fld l.flags 4 3 = 7)
    (hwords : l.reservedOk 0x73
      [0xFFFFFF, 0xFFFFFFFF, 0xFFFFFFFF, 0xFFFFFFFF, 0xFFFFFFFF, 0x7FFFFF, 0xFFFFFF80, 0xFFFFFFFF] = true)
    (hacq : s.stk.sync ≠ .acquiring) (hlock : s.stk.sync ≠ .unlocked) : s.dlvTarget l = .error .badCommand := by
  simp only [State.dlvTarget, hlinks, hup, hconn, htc, hwords, hacq, hlock, Bool.not_true, Bool.not_false, Bool.false_eq_true,
    and_false, or_self, true_or, if_false, if_true, ite_self]

/-! ### The start of a DELIVER (07 R233, R252) -/

theorem exec_deliver (id : Nat) (s : State) : exec (.deliver id) s = execDeliver id s := rfl

section
variable {s : State} {id : Nat} {l : Live} (hnew : s.Fresh id 0x0A l)
include hnew

theorem deliver_noTarget {st : Status} (htgt : s.dlvTarget l = .error st) : exec (.deliver id) s = .next (s.dlvFail id st) := by
  simp only [exec_deliver, execDeliver, hnew.onNew, htgt]

variable {tgt : Target} (htgt : s.dlvTarget l = .ok tgt)
include htgt

theorem deliver_noList {st : Status} (hlist : s.dlvList l = .error st) : exec (.deliver id) s = .next (s.dlvFail id st) := by
  simp only [exec_deliver, execDeliver, hnew.onNew, htgt, hlist]

variable {ks : List (List Byte × Key)} (hlist : s.dlvList l = .ok ks)
include hlist

theorem deliver_noPlan (hnamed : l.w 9 % 2 ^ 16 ≠ 0) (hplan : s.dlvPlan l = none) :
    exec (.deliver id) s = .next (s.dlvFail id .notFound) := by
  unfold State.dlvPlan at hplan
  simp only [exec_deliver, execDeliver, hnew.onNew, htgt, hlist, hplan, Option.isNone_none, and_true, if_pos hnamed]

variable (hplan : l.w 9 % 2 ^ 16 = 0 ∨ s.dlvPlan l ≠ none)
include hplan

theorem deliver_noView {u : State} {st : Status} (hview : s.viewFor id l.tenant (l.w 8) = (u, .error st)) :
    exec (.deliver id) s = .next (u.dlvFail id st) := by
  simp only [exec_deliver, execDeliver, hnew.onNew, htgt, hlist, if_neg (not_planMissing hplan), hview]

variable {u : State} {snap : Nat} (hview : s.viewFor id l.tenant (l.w 8) = (u, .ok snap))
include hview

theorem deliver_badPages (hents : u.dlvEntries l.tenant (l.w64 6) snap ks = none) :
    exec (.deliver id) s = .next (u.dlvFail id .badCommand) := by
  simp only [exec_deliver, execDeliver, hnew.onNew, htgt, hlist, if_neg (not_planMissing hplan), hview, hents]

variable {es : List DEnt} (hents : u.dlvEntries l.tenant (l.w64 6) snap ks = some es)
include hents

theorem deliver_unplanned (hnone : s.dlvPlan l = none) : exec (.deliver id) s =
    .next (u.startDlv l { id := id, target := tgt, ents := es, layer := none, point := false }) := by
  unfold State.dlvPlan at hnone
  simp only [exec_deliver, execDeliver, hnew.onNew, htgt, hlist, if_neg (not_planMissing hplan), hview, hents]
  simp only [hnone]

variable {p : Nat} (hsome : s.dlvPlan l = some p)
include hsome

theorem deliver_badLayer {st : Status} (huses : (u.plan p).uses (u.foundKeys es) = .error st) :
    exec (.deliver id) s = .next (u.dlvFail id st) := by
  unfold State.dlvPlan at hsome
  unfold State.foundKeys at huses
  simp only [exec_deliver, execDeliver, hnew.onNew, htgt, hlist, if_neg (not_planMissing hplan), hview, hents]
  simp only [hsome, huses]

theorem deliver_planned {y : Option Nat} (huses : (u.plan p).uses (u.foundKeys es) = .ok y) : exec (.deliver id) s =
    .next (u.startDlv l { id := id, target := tgt, ents := es, layer := y.map (fun y => (p, y)), point := false }) := by
  unfold State.dlvPlan at hsome
  unfold State.foundKeys at huses
  simp only [exec_deliver, execDeliver, hnew.onNew, htgt, hlist, if_neg (not_planMissing hplan), hview, hents]
  simp only [hsome, huses]

end

/-! ### The chunks and the end of a delivery (07 R236 to R238) -/

theorem exec_deliverChunk (id : Nat) (s : State) : exec (.deliverChunk id) s = execDeliverChunk id s := rfl

theorem exec_deliverComplete (id : Nat) (s : State) : exec (.deliverComplete id) s = execDeliverComplete id s := rfl

/-- A delivery ends with its status and its result, and the holds whose layer ends with it are released (07 R238, R250). -/
def State.dlvEnded (s : State) (id : Nat) (l : Live) (d : Dlv) : State :=
  (State.complete { s with pfs := { s.pfs with dlvs := s.pfs.dlvs.filter (fun x => decide (x.id ≠ id)) } } id (dlvStatus d)
    (some (if l.compat then w32 (((d.ents.filter (fun e => decide (e.st = .done))).map (fun e => e.pages)).sum) else 0,
      dlvResult d))).releaseHolds

section
variable {s : State} {id : Nat} {l : Live} (hl : s.live id = some l)
include hl

theorem deliverChunk_reads (hrun : l.phase = .running) : exec (.deliverChunk id) s = .next (s.dlvRead l) := by
  simp only [exec_deliverChunk, execDeliverChunk, State.onRunning, hl, hrun, if_true]

variable {d : Dlv} (hd : s.dlv id = some d)
include hd

theorem deliverComplete_waits (h : d.ents.any (fun e => decide (e.st = .active)) = true) :
    exec (.deliverComplete id) s = .next s := by
  simp only [exec_deliverComplete, execDeliverComplete, hl, hd, h, if_true]

theorem deliverComplete_ends (h : d.ents.any (fun e => decide (e.st = .active)) = false) :
    exec (.deliverComplete id) s = .next (s.dlvEnded id l d) := by
  simp only [exec_deliverComplete, execDeliverComplete, hl, hd, h, Bool.false_eq_true, if_false]
  rfl

end

/-! ### DONE_MASK (07 R238) -/

theorem bit_w32 (n : Nat) {i : Nat} (hi : i < 32) : bit (w32 n) i = n.testBit i := by
  rw [bit, w32, BitVec.getLsbD_ofNat, decide_eq_true hi, Bool.true_and]

/-- The two words of a 64-bit value hold its bits 63:0. -/
theorem bit_split64 (n : Nat) (ws : List Word) {k : Nat} (hk : k < 64) :
    bit ((split64 n ++ ws).getD (k / 32) 0) (k % 32) = n.testBit k := by
  have hmod : k % 32 < 32 := Nat.mod_lt k (by decide)
  rcases (by omega : k / 32 = 0 ∧ k % 32 = k ∨ k / 32 = 1 ∧ k % 32 + 32 = k) with ⟨hword, hbit⟩ | ⟨hword, hbit⟩
  · rw [hword]
    exact (bit_w32 n hmod).trans (congrArg n.testBit hbit)
  · rw [hword]
    exact ((bit_w32 _ hmod).trans (Nat.testBit_div_two_pow n _)).trans (congrArg n.testBit hbit)

/-- The indices of the delivered entries, in rising order. -/
def Dlv.doneAt (d : Dlv) : List Nat := (d.ents.zipIdx.filter (fun e => decide (e.1.st = .done))).map (fun e => e.2)

theorem Dlv.mem_doneAt {d : Dlv} {k : Nat} {e : DEnt} (he : d.ents[k]? = some e) : k ∈ d.doneAt ↔ e.st = .done := by
  simp [Dlv.doneAt, List.mem_zipIdx_iff_getElem?, he]

theorem Dlv.doneAt_sorted (d : Dlv) : d.doneAt.SortedLT := by
  have hsub : d.doneAt.Sublist (d.ents.zipIdx.map Prod.snd) := List.filter_sublist.map _
  rw [List.zipIdx_map_snd] at hsub
  exact ((List.pairwise_lt_range' 1).sublist hsub).sortedLT

/-- DONE_MASK has the bit of an entry set exactly where the entry was delivered. -/
theorem bit_dlvResult {d : Dlv} {k : Nat} {e : DEnt} (hlen : d.ents.length ≤ 64) (he : d.ents[k]? = some e) :
    bit ((dlvResult d).getD (k / 32) 0) (k % 32) = decide (e.st = .done) := by
  have hk : k < 64 := ((List.getElem?_eq_some_iff.1 he).1).trans_le hlen
  have hmask : ((d.ents.zipIdx.filter (fun e => decide (e.1.st = .done))).map (fun e => 2 ^ e.2)).sum
      = (d.doneAt.map (fun i => 2 ^ i)).sum := by
    simp only [Dlv.doneAt, List.map_map]; rfl
  rw [dlvResult, hmask, bit_split64 _ _ hk, Bool.eq_iff_iff, ← Nat.mem_bitIndices,
    Nat.bitIndices_sum_map_two_pow d.doneAt_sorted, Dlv.mem_doneAt he, decide_eq_true_iff]

/-! ### Version 1 (00 R5 to R8; 12 R452) -/

/-- Command `id` is the version 1 command `l`, of opcode `op`, accepted and not yet started. -/
def State.FreshCompat (s : State) (id op : Nat) (l : Live) : Prop :=
  s.live id = some l ∧ l.op = op ∧ l.phase = .accepted ∧ l.compat = true

theorem State.FreshCompat.onCompat {s : State} {id op : Nat} {l : Live} (h : s.FreshCompat id op l) (f : Live → State → State) :
    s.onCompat id op f = f l s := by
  obtain ⟨hlive, hop, hphase, hcompat⟩ := h
  simp only [State.onCompat, hlive, hop, hphase, hcompat, and_self, if_true]

/-- A version 1 DELIVER goes to host memory, not to a connection. -/
abbrev Live.toHost (l : Live) : Bool := bit (l.ws.getD 8 0) 24

/-- The connection that a version 1 DELIVER names. -/
abbrev Live.compatQpn (l : Live) : Nat := fld (l.ws.getD 8 0) 0 24

/-- The first page of its entry's that a version 1 DELIVER sends. -/
abbrev Live.compatFirst (l : Live) : Nat := fld (l.ws.getD 12 0) 0 16

/-- The pages that a version 1 DELIVER asks for; 0 for all from the first on. -/
abbrev Live.compatCount (l : Live) : Nat := fld (l.ws.getD 12 0) 16 16

/-- A version 1 DELIVER whose words are in order, on a device that can take it. -/
structure State.CompatTakes (s : State) (l : Live) : Prop where
  up : s.reached .psa = true
  linked : l.toHost = true ∨ s.reached .links = true
  words : compatReserved l [0x1FFFFFF, 0xFFFFFFFF, 0xFFFFFFFF, 0xFFFFFFFF, 0xFFFFFFFF] = true
  acquired : s.stk.sync ≠ .acquiring
  locked : s.stk.sync ≠ .unlocked

/-- The target is host memory, or a connection that the tenant may send on. -/
def State.CompatTarget (s : State) (l : Live) : Prop :=
  l.toHost = true ∨ (s.qpnOk l.compatQpn = true ∧ ∀ c, s.ctxPeek l.compatQpn = some c → c.state = .reset ∨ c.tenant = l.tenant)

/-- The delivery of a version 1 DELIVER, of the one entry in slot `i` (00 R6; 12 R452). -/
def State.compatDlv (s : State) (l : Live) (id i : Nat) (v : Slot) (multi : Bool) : Dlv :=
  { id := id, target := if l.toHost then .host l.port else .conn l.compatQpn (l.w 9) 0, layer := none, point := false,
    ents := [
      { pset := v.ps, slot := i, first := l.compatFirst,
        pages := if l.compatCount = 0 then (s.psetAt v.ps).pages - l.compatFirst else l.compatCount,
        pageSize := (s.psetAt v.ps).pageSize, addr := l.w64 10, st := if v.poison then .failed .poison else .active,
        staged := 0, acked := 0, multi := multi, handed := false }] }

theorem exec_compatDeliver (id : Nat) (s : State) : exec (.compatDeliver id) s = execCompatDeliver id s := rfl

section
variable {s : State} {id : Nat} {l : Live}

theorem State.CompatTakes.reaches (h : s.CompatTakes l) :
    ¬ ((!s.reached .psa) = true ∨ (!l.toHost) = true ∧ (!s.reached .links) = true) := by
  rcases h.linked with hto | hto <;> simp [h.up, hto]

theorem State.CompatTakes.inSync (h : s.CompatTakes l) : ¬ (s.stk.sync = .acquiring ∨ s.stk.sync = .unlocked) :=
  not_or.2 ⟨h.acquired, h.locked⟩

theorem State.CompatTarget.allowed (h : s.CompatTarget l) : ¬ ((!l.toHost) = true ∧ ((!s.qpnOk l.compatQpn) = true ∨
    (s.ctxPeek l.compatQpn).any (fun c => decide (c.state ≠ .reset ∧ c.tenant ≠ l.tenant)) = true)) := by
  rintro ⟨hconn, hbad⟩
  rcases h with hhost | ⟨hqpn, hctx⟩
  · simp [hhost] at hconn
  · obtain ⟨c, hc, hreset, hten⟩ : ∃ c, s.ctxPeek l.compatQpn = some c ∧ c.state ≠ .reset ∧ c.tenant ≠ l.tenant := by
      simpa [hqpn, Option.any_eq_true] using hbad
    exact (hctx c hc).elim hreset hten

variable (hnew : s.FreshCompat id 0x0A l) (htakes : s.CompatTakes l)
include hnew htakes

theorem compatDeliver_noModel (hmodel : s.model (l.w 4) = none) : exec (.compatDeliver id) s = .next (s.fail id .notFound) := by
  simp only [exec_compatDeliver, execCompatDeliver, hnew.onCompat, if_neg htakes.reaches, htakes.words, if_neg htakes.inSync,
    hmodel, Option.isNone_none, Bool.not_true, Bool.false_eq_true, if_false, if_true]

variable {m : Model} (hmodel : s.model (l.w 4) = some m)
include hmodel

theorem compatDeliver_otherForm (hform : m.keyForm ≠ 0) : exec (.compatDeliver id) s = .next (s.fail id .badCommand) := by
  simp only [exec_compatDeliver, execCompatDeliver, hnew.onCompat, if_neg htakes.reaches, htakes.words, if_neg htakes.inSync,
    hmodel, Option.isNone_some, Option.any_some, decide_eq_true hform, Bool.not_true, Bool.false_eq_true, if_false, if_true]

variable (hform : m.keyForm = 0) (htgt : s.CompatTarget l) {u : State} {snap : Nat}
  (hview : s.viewFor id l.tenant 0 = (u, .ok snap))
include hform htgt hview

theorem compatDeliver_noEntry (hentry : u.probeView (compatKey l) snap = none) :
    exec (.compatDeliver id) s = .next (u.fail id .notFound) := by
  simp only [exec_compatDeliver, execCompatDeliver, hnew.onCompat, if_neg htakes.reaches, htakes.words, if_neg htakes.inSync,
    hmodel, Option.isNone_some, Option.any_some, hform, if_neg htgt.allowed, hview, hentry, ne_eq, not_true, decide_false,
    Bool.not_true, Bool.false_eq_true, if_false]

variable {i : Nat} {v : Slot} {multi : Bool} (hentry : u.probeView (compatKey l) snap = some (i, v, multi))
include hentry

/-- A version 1 DELIVER of a key that its view holds: its pages are tested, and its one entry starts. -/
theorem compatDeliver_entry : exec (.compatDeliver id) s = .next (
    if (u.psetAt v.ps).pages < l.compatFirst + l.compatCount ∨ (u.psetAt v.ps).pages ≤ l.compatFirst then u.fail id .badCommand
    else u.startDlv l (u.compatDlv l id i v multi)) := by
  simp only [exec_compatDeliver, execCompatDeliver, hnew.onCompat, if_neg htakes.reaches, htakes.words, if_neg htakes.inSync,
    hmodel, Option.isNone_some, Option.any_some, hform, if_neg htgt.allowed, hview, hentry, ne_eq, not_true, decide_false,
    Bool.not_true, Bool.false_eq_true, if_false]
  rfl

end

/-- Settles O14: a DELIVER by its checks, its view and the layer of its plan; a delivery by the entries under way; the bits of
DONE_MASK by the delivered indices; a version 1 DELIVER by its model, its key and its pages. -/
theorem deliverStartsReadsAndReports : Obligations.DeliverStartsReadsAndReports := by
  unfold Obligations.DeliverStartsReadsAndReports
  refine ⟨fun s id l hl hop hph hc => ?start, fun s id l d hl hd => ?delivery, fun d k e => bit_dlvResult,
    fun s id l host q first cnt hl hop hph hc hhost hq hfirst hcnt hup hto hwords hacq hlock => ?compat⟩
  case start =>
    have hnew : s.Fresh id 0x0A l := ⟨hl, hop, hph, hc⟩
    refine ⟨fun st => deliver_noTarget hnew, fun tgt st htgt => deliver_noList hnew htgt,
      fun hlinks hup hconn htc hwords hacq hlock =>
        deliver_noTarget hnew (dlvTarget_class7 hlinks hup hconn htc hwords hacq hlock),
      fun tgt ks h plan htgt hlist hh hplan => ?_⟩
    subst hh hplan
    refine ⟨deliver_noPlan hnew htgt hlist, fun hnamed => ⟨fun u st => deliver_noView hnew htgt hlist hnamed,
      fun u snap hview => ⟨deliver_badPages hnew htgt hlist hnamed hview, fun es hents =>
        ⟨deliver_unplanned hnew htgt hlist hnamed hview hents, fun p r hp hr => ?_⟩⟩⟩⟩
    subst hr
    exact ⟨fun st => deliver_badLayer hnew htgt hlist hnamed hview hents hp,
      fun y => deliver_planned hnew htgt hlist hnamed hview hents hp⟩
  case delivery =>
    exact ⟨deliverChunk_reads hl, deliverComplete_waits hl hd, deliverComplete_ends hl hd⟩
  case compat =>
    subst hhost hq hfirst hcnt
    have hnew : s.FreshCompat id 0x0A l := ⟨hl, hop, hph, hc⟩
    have htakes : s.CompatTakes l := ⟨hup, hto, hwords, hacq, hlock⟩
    refine ⟨compatDeliver_noModel hnew htakes, fun m hmodel => compatDeliver_otherForm hnew htakes hmodel,
      fun m hmodel hform htgt u snap hview => ⟨compatDeliver_noEntry hnew htakes hmodel hform htgt hview,
        fun i v multi pages hentry hpages => ?_⟩⟩
    subst hpages
    rw [compatDeliver_entry hnew htakes hmodel hform htgt hview hentry]
    exact ⟨fun hbad => congrArg _ (if_pos hbad),
      fun hlast hfirst => congrArg _ (if_neg (not_or.2 ⟨not_lt.2 hlast, not_le.2 hfirst⟩))⟩

end Sys2Proof.Machine

/-! Prefetch steps (07 R246 to R249): what a step reads, within which limits, and the layers that it holds. -/

namespace Sys2Proof.Machine

/-! ### The start of a step (07 R246) -/

/-- The step that a record of port `p` starts over the layers that its command words name (07 R246). -/
def State.newStep (s : State) (l : Live) (id slot p iid : Nat) : Step :=
  ⟨id, slot, p, ((s.inst iid).map (fun x => x.target)).getD 0, fld (l.ws.getD 4 0) 0 16, l.w 5, 0, false, []⟩

theorem exec_prefetchStep (id : Nat) (s : State) : exec (.prefetchStep id) s = execPrefetchStep id s := rfl

section
variable {s : State} {id p iid idx : Nat} {l : Live} (hnew : s.Fresh id 0x00 l) (hsrc : l.src = .record p iid idx)
include hnew hsrc

theorem prefetchStep_noPlan (hplan : s.planOf l.id l.tenant (fld (l.ws.getD 4 0) 16 16) = none) :
    exec (.prefetchStep id) s = .next (s.fail id .notFound) := by
  simp only [exec_prefetchStep, execPrefetchStep, hnew.onNew, hsrc, hplan]

variable {slot : Nat} (hplan : s.planOf l.id l.tenant (fld (l.ws.getD 4 0) 16 16) = some slot)
include hplan

theorem prefetchStep_badLayers (h : l.w 5 = 0 ∨ (s.plan slot).count < fld (l.ws.getD 4 0) 0 16 + l.w 5) :
    exec (.prefetchStep id) s = .next (s.fail id .badCommand) := by
  simp only [exec_prefetchStep, execPrefetchStep, hnew.onNew, hsrc, hplan, if_pos h]

/-- A step of layers that its plan has starts, and ends at once where prefetch is off (07 R246). -/
theorem prefetchStep_starts (hsome : l.w 5 ≠ 0) (hin : fld (l.ws.getD 4 0) 0 16 + l.w 5 ≤ (s.plan slot).count) {u : State}
    (hu : u = State.setRunning
      { s with pfs := { s.pfs with steps := s.pfs.steps ++ [s.newStep l id slot p iid] } } id) :
    exec (.prefetchStep id) s = .next (
      if bit (s.cfgReg (pg pfsPage + 0x100)) 0 then u.stepCheck id else u.stepEnd id .ok) := by
  subst hu
  simp only [exec_prefetchStep, execPrefetchStep, hnew.onNew, hsrc, hplan, if_neg (not_or.2 ⟨hsome, not_lt.2 hin⟩)]
  rfl

end

/-! ### The reads of a step (07 R247 to R249) -/

/-- A step is found under its own number. -/
theorem step_id {s : State} {id : Nat} {x : Step} (h : s.step_ id = some x) : x.id = id := by
  simpa using List.find?_some h

theorem tooFar_iff {s : State} {x : Step} : s.tooFar x = true ↔
    ∃ c, s.currentLayer x.plan x.port x.target = some c ∧ c + s.cfgFld (pg pfsPage + 0x104) 0 4 < x.next := by
  unfold State.tooFar
  split <;> simp_all

theorem exec_prefetchReadIssue (id : Nat) (s : State) : exec (.prefetchReadIssue id) s = execPrefetchReadIssue id s := rfl

section
variable {s : State} {id : Nat} {x : Step} (hx : s.step_ id = some x)
include hx

theorem prefetchReadIssue_suspended (hshut : s.shut id = true) : exec (.prefetchReadIssue id) s = .next s := by
  simp only [exec_prefetchReadIssue, execPrefetchReadIssue, hx, hshut, if_true]

variable (hopen : s.shut id = false)
include hopen

theorem prefetchReadIssue_allIssued (hall : x.count ≤ x.issued) : exec (.prefetchReadIssue id) s = .next (s.stepCheck id) := by
  simp only [exec_prefetchReadIssue, execPrefetchReadIssue, hx, hopen, if_pos hall, Bool.false_eq_true, if_false]

variable (hmore : x.issued < x.count)
include hmore

theorem prefetchReadIssue_gone (hgone : s.layerCurrent x.plan x.next = false) :
    exec (.prefetchReadIssue id) s = .next ((s.stepNext id).stepCheck id) := by
  simp only [exec_prefetchReadIssue, execPrefetchReadIssue, hx, hopen, not_le.2 hmore, hgone, Bool.not_false, Bool.false_eq_true,
    if_false, if_true]

variable (hcur : s.layerCurrent x.plan x.next = true)
include hcur

theorem prefetchReadIssue_tooFar (hfar : s.tooFar x = true) : exec (.prefetchReadIssue id) s = .next s := by
  simp only [exec_prefetchReadIssue, execPrefetchReadIssue, hx, hopen, not_le.2 hmore, hcur, hfar, Bool.not_true, Bool.false_eq_true,
    if_false, if_true]

variable (hnear : ¬ s.tooFar x = true)
include hnear

theorem prefetchReadIssue_holdFull (hfull : s.holdMax < s.holdNeed (x.plan, x.next)) :
    exec (.prefetchReadIssue id) s = .next (s.raise pfsPage 6) := by
  simp only [exec_prefetchReadIssue, execPrefetchReadIssue, hx, hopen, not_le.2 hmore, hcur, if_neg hnear, if_pos hfull, Bool.not_true,
    Bool.false_eq_true, if_false]

theorem prefetchReadIssue_round (hroom : s.holdNeed (x.plan, x.next) ≤ s.holdMax) : exec (.prefetchReadIssue id) s = .next (
    if (s.readRound x).layerWants x.plan x.next = [] then (s.readRound x).stepNext id else s.readRound x) := by
  simp only [exec_prefetchReadIssue, execPrefetchReadIssue, hx, hopen, not_le.2 hmore, hcur, if_neg hnear, not_lt.2 hroom,
    Bool.not_true, Bool.false_eq_true, if_false]

end

/-! ### Layers that have landed (07 R249) -/

/-- A layer of a step that has landed is held for the step's port and stroke, once, and the step has got it. -/
def State.layerHeld (s : State) (id : Nat) (x : Step) (y : Nat) (used : Bool) : State :=
  { s with pfs := { s.pfs with
      holds := if s.isHold x y then s.pfs.holds else s.pfs.holds ++ [⟨x.plan, y, x.port, x.target, used⟩],
      steps := updIf s.pfs.steps (fun z => decide (z.id = id)) (fun z => { z with got := z.got ++ [y] }) } }

theorem exec_layerResident (id y : Nat) (s : State) : exec (.layerResident id y) s = execLayerResident id y s := rfl

section
variable {s : State} {id y : Nat} {x : Step} (hx : s.step_ id = some x)
include hx

theorem layerResident_waits (h : x.layers.contains y = false ∨ s.layerCurrent x.plan y = true ∧ s.layerReady x.plan y = false) :
    exec (.layerResident id y) s = .next s := by
  rcases h with hother | ⟨hcur, hlack⟩
  · simp only [exec_layerResident, execLayerResident, hx, hother, Bool.not_false, if_true]
  · simp only [exec_layerResident, execLayerResident, hx, hcur, hlack, Bool.not_true, Bool.not_false, Bool.false_eq_true, if_false,
      if_true, ite_self]

variable (hmine : x.layers.contains y = true)
include hmine

theorem layerResident_gone (hgone : s.layerCurrent x.plan y = false) : exec (.layerResident id y) s = .next (s.stepCheck id) := by
  simp only [exec_layerResident, execLayerResident, hx, hmine, hgone, Bool.not_true, Bool.not_false, Bool.false_eq_true, if_false,
    if_true]

variable (hcur : s.layerCurrent x.plan y = true) (hready : s.layerReady x.plan y = true)
include hcur hready

theorem layerResident_again (h : s.layerBytes x.plan y = 0 ∨ x.got.contains y = true) :
    exec (.layerResident id y) s = .next (s.stepCheck id) := by
  simp only [exec_layerResident, execLayerResident, hx, hmine, hcur, hready, if_pos h, Bool.not_true, Bool.false_eq_true, if_false]

variable (hbytes : s.layerBytes x.plan y ≠ 0) (hfirst : x.got.contains y = false)
include hbytes hfirst

theorem layerResident_holdFull (hfull : s.holdMax < s.holdNeed (x.plan, y)) :
    exec (.layerResident id y) s = .next (s.raise pfsPage 6) := by
  simp only [exec_layerResident, execLayerResident, hx, hmine, hcur, hready, hbytes, hfirst, if_pos hfull, Bool.not_true,
    Bool.false_eq_true, or_self, if_false]

theorem layerResident_holds (hroom : s.holdNeed (x.plan, y) ≤ s.holdMax) : exec (.layerResident id y) s =
    .next ((s.layerHeld id x y (decide (s.holdUsers ⟨x.plan, y, x.port, x.target, false⟩ ≠ []))).stepCheck id) := by
  simp only [exec_layerResident, execLayerResident, hx, hmine, hcur, hready, hbytes, hfirst, not_lt.2 hroom, Bool.not_true,
    Bool.false_eq_true, or_self, if_false]
  rfl

end

/-- Settles O16: a step by the plan and the layers that it names; its reads by what stops them, in the order in which the limits
are tested; a layer that lands by whether the step has it to hold. -/
theorem prefetchStepsHoldLayers : Obligations.PrefetchStepsHoldLayers := by
  unfold Obligations.PrefetchStepsHoldLayers
  refine ⟨fun s id p iid idx l hl hop hph hc hsrc => ?start, fun s id x y hx hy => ?issue, fun s id y x hx => ?resident⟩
  case start =>
    have hnew : s.Fresh id 0x00 l := ⟨hl, hop, hph, hc⟩
    refine ⟨prefetchStep_noPlan hnew hsrc, fun slot hplan => ⟨prefetchStep_badLayers hnew hsrc hplan,
      fun hsome hin u hu => ?_⟩⟩
    rw [prefetchStep_starts hnew hsrc hplan hsome hin hu]
    exact ⟨fun hon => congrArg _ (if_pos hon), fun hoff => congrArg _ (if_neg (Bool.eq_false_iff.1 hoff))⟩
  case issue =>
    subst hy
    refine ⟨prefetchReadIssue_suspended hx, prefetchReadIssue_allIssued hx, fun hopen hmore =>
      ⟨prefetchReadIssue_gone hx hopen hmore, fun hcur => ⟨fun c hc hfar => ?far, fun hnear => ?near⟩⟩⟩
    case far => exact prefetchReadIssue_tooFar hx hopen hmore hcur (tooFar_iff.2 ⟨c, hc, hfar⟩)
    case near =>
      have hnot : ¬ s.tooFar x = true := fun h =>
        let ⟨c, hc, hfar⟩ := tooFar_iff.1 h
        not_lt.2 (hnear c hc) hfar
      exact ⟨prefetchReadIssue_holdFull hx hopen hmore hcur hnot, prefetchReadIssue_round hx hopen hmore hcur hnot⟩
  case resident =>
    refine ⟨layerResident_waits hx, layerResident_gone hx, fun hmine hcur hready =>
      ⟨layerResident_again hx hmine hcur hready, fun hbytes hfirst =>
        ⟨layerResident_holdFull hx hmine hcur hready hbytes hfirst, fun used hused hroom => ?_⟩⟩⟩
    subst hused
    exact layerResident_holds hx hmine hcur hready hbytes hfirst hroom

end Sys2Proof.Machine

/-! Replica repair (07 R261 to R263; 13 R496): what is asked for, which answer restores a page, and what follows a failed attempt. -/

namespace Sys2Proof.Machine

/-! ### Requests (07 R262, R263) -/

theorem repairRoute_none {s : State} {r : Repair}
    (h : s.route (s.slot r.slot).key.model = none ∨ bit (s.cfgReg (pg pfsPage + 0x100)) 1 = false) : s.repairRoute r = none := by
  rcases h with h | h
  · simp only [State.repairRoute, h, Option.filter_none]
  · simp only [State.repairRoute, h, Bool.false_and, Option.filter_eq_none_iff, Bool.false_eq_true, not_false_eq_true, implies_true]

theorem repairRoute_some {s : State} {r : Repair} {q : Nat} (hroute : s.route (s.slot r.slot).key.model = some q)
    (hon : bit (s.cfgReg (pg pfsPage + 0x100)) 1 = true) (hqpn : s.qpnOk q = true) : s.repairRoute r = some q := by
  simp only [State.repairRoute, hroute, hon, hqpn, Bool.and_self, Option.filter_some, if_true]

/-- The route of a repair depends on neither the time nor what the time changes. -/
theorem repairRoute_at (s : State) (t : Nat) (r : Repair) : (s.at_ t).repairRoute r = s.repairRoute r := rfl

theorem exec_repairRequest (slot : Nat) (s : State) : exec (.repairRequest slot) s = execRepairRequest slot s := rfl

theorem repairRequest_none {s : State} {slot : Nat} (h : s.pfs.repairs.find? (fun r => decide (r.st = .waiting)) = none) :
    exec (.repairRequest slot) s = .next s := by
  simp only [exec_repairRequest, execRepairRequest, h]

section
variable {s : State} {slot : Nat} {r : Repair} (hr : s.pfs.repairs.find? (fun r => decide (r.st = .waiting)) = some r)
include hr

theorem repairRequest_waits (h : 256 ≤ slot ∨ (s.repairIn slot).isSome = true ∨ s.reached .links = false) :
    exec (.repairRequest slot) s = .next s := by
  simp only [exec_repairRequest, execRepairRequest, hr, Bool.not_eq_true', if_pos h]

variable (hslot : slot < 256) (hfree : s.repairIn slot = none) (hlinks : s.reached .links = true)
include hslot hfree hlinks

theorem repairRequest_needed (h : s.repairRoute r = none) : exec (.repairRequest slot) s = .next (s.repairNeeded r) := by
  simp only [exec_repairRequest, execRepairRequest, hr, not_le.2 hslot, hfree, hlinks, h, Option.isSome_none, Bool.not_true,
    Bool.false_eq_true, or_self, if_false]

theorem repairRequest_sends {q : Nat} (h : s.repairRoute r = some q) :
    exec (.repairRequest slot) s = .next (s.repairSend r slot q) := by
  simp only [exec_repairRequest, execRepairRequest, hr, not_le.2 hslot, hfree, hlinks, h, Option.isSome_none, Bool.not_true,
    Bool.false_eq_true, or_self, if_false]

end

/-! ### Answers (07 R261, R263) -/

theorem exec_repairResponse (slot : Nat) (s : State) : exec (.repairResponse slot) s = execRepairResponse slot s := rfl

/-- An answer is taken out of the inbox and tested by its status and by the check of the page in the repair buffer. -/
theorem repairResponse_tested {s u : State} {slot a : Nat} {r : Repair} {m : Option Word × List Byte} {bs : List Byte}
    (hr : s.repairIn slot = some r) (hsent : r.st = .sent a) (hm : (s.conn r.qpn).inbox.find? (repairAnswer slot) = some m)
    (hbs : bs = s.net.rbuf.rdBytes (2 ^ 21 * slot) (s.psetAt (s.slot r.slot).ps).pageSize)
    (hu : u = s.setConn r.qpn { s.conn r.qpn with inbox := (s.conn r.qpn).inbox.erase m }) : exec (.repairResponse slot) s = .next (
    if fld ((wordsOf m.2).getD 2 0) 0 8 ≠ 0 ∨ some (crc64 bs) ≠ (s.psetAt (s.slot r.slot).ps).checks[r.page]? then u.repairFails r
    else u.repairDone r bs) := by
  subst hbs hu
  simp only [exec_repairResponse, execRepairResponse, hr, hsent, hm]
  rfl

/-! ### Failed attempts (07 R263) -/

theorem repairFails_exhausted {s : State} {r : Repair} (h : s.cfgFld (pg pfsPage + 0x114) 24 8 < r.tries) :
    s.repairFails r = ((s.dropRepair r).count pfsPage 0x198 5).lastPoison r.slot r.page := if_pos h

theorem repairFails_again {s : State} {r : Repair} (h : r.tries ≤ s.cfgFld (pg pfsPage + 0x114) 24 8) :
    s.repairFails r = s.updRepair r (fun x => { x with st := .failed s.clk }) := if_neg (not_lt.2 h)

theorem exec_repairTimeout (slot t : Nat) (s : State) : exec (.repairTimeout slot t) s = execRepairTimeout slot t s := rfl

theorem exec_repairRetry (slot t : Nat) (s : State) : exec (.repairRetry slot t) s = execRepairRetry slot t s := rfl

/-- The repair in a slot does not change with the time. -/
theorem repairIn_at (s : State) (t slot : Nat) : (s.at_ t).repairIn slot = s.repairIn slot := rfl

section
variable {s : State} {slot a : Nat} {r : Repair} (t : Nat) (hr : s.repairIn slot = some r)
include hr

theorem repairTimeout_sent (hsent : r.st = .sent a) : exec (.repairTimeout slot t) s = .next (
    if a + s.cfgFld (pg pfsPage + 0x114) 16 8 * 1000000 ≤ max s.clk t then (s.at_ t).repairFails r else s.at_ t) := by
  simp only [exec_repairTimeout, execRepairTimeout, repairIn_at, hr, hsent]
  rfl

variable (hfailed : r.st = .failed a)
include hfailed

theorem repairRetry_early (h : max s.clk t < a + s.cfgFld (pg pfsPage + 0x114) 0 16 * 1000000) :
    exec (.repairRetry slot t) s = .next (s.at_ t) := by
  simp only [exec_repairRetry, execRepairRetry, repairIn_at, hr, hfailed]
  exact congrArg _ (if_pos h)

theorem repairRetry_sends (h : a + s.cfgFld (pg pfsPage + 0x114) 0 16 * 1000000 ≤ max s.clk t) {q : Nat}
    (hroute : s.repairRoute r = some q) : exec (.repairRetry slot t) s = .next ((s.at_ t).repairSend r slot q) := by
  simp only [exec_repairRetry, execRepairRetry, repairIn_at, hr, hfailed, repairRoute_at, hroute]
  exact congrArg _ (if_neg (not_lt.2 h))

end

/-- Settles O18: a request by the slot and the route; an answer by its status and the page's check; a failed attempt by the tries
that remain; the timer of a repair by its state. -/
theorem replicaRepair : Obligations.ReplicaRepair := by
  unfold Obligations.ReplicaRepair
  refine ⟨fun s slot => repairRequest_none, fun s slot r hr => ?request, fun s slot a r m hr hsent hm v bs u hv hbs hu => ?answer,
    fun s r => ⟨repairFails_exhausted, repairFails_again⟩, fun s slot t a r hr => ⟨fun hsent => ?timeout, fun hfailed => ?retry⟩⟩
  case request =>
    exact ⟨repairRequest_waits hr,
      fun hslot hfree hlinks h => repairRequest_needed hr hslot hfree hlinks (repairRoute_none h),
      fun q hslot hfree hlinks hroute hon hqpn => repairRequest_sends hr hslot hfree hlinks (repairRoute_some hroute hon hqpn)⟩
  case answer =>
    subst hv
    rw [repairResponse_tested hr hsent hm hbs hu]
    exact ⟨fun hok hcheck => congrArg _ (if_neg (not_or.2 ⟨not_not.2 hok, fun hne => hne hcheck.symm⟩)),
      fun h => congrArg _ (if_pos (h.imp_right Ne.symm))⟩
  case timeout =>
    rw [repairTimeout_sent t hr hsent]
    exact ⟨fun hdue => congrArg _ (if_pos hdue), fun hearly => congrArg _ (if_neg (not_le.2 hearly))⟩
  case retry =>
    exact ⟨repairRetry_early t hr hfailed,
      fun hdue q hroute hon hqpn => repairRetry_sends t hr hfailed hdue (repairRoute_some hroute hon hqpn)⟩

end Sys2Proof.Machine

/-! Tiles dealt and replayed (08 R276, R293): two states that the engines' statements do not exclude. -/

namespace Sys2Proof.Machine

/-- A tile of page 0 of page set 0. -/
def homeTile : Tile := { ent := 0, pset := 0, page := 0, head := 0, rows := [(0, 0)], paged := true }

/-! ### A page on a slice that no core has (08 R276) -/

/-- Reset, but that page 0 of page set 0 stands on plate slice 16: the cores are 0 to 15. -/
def strayHome : State := { State.reset with tier := { State.reset.tier with homes := [(0, [16])] } }

/-- A core that the tables do not list reads as one after reset: core 16 counts as live, and takes the tile of its slice. -/
theorem deal_strayHome : (strayHome.deal [homeTile]).map (fun g => g.core) = [16] := by decide

/-- Refutes O19: `deal` follows the slice of a tile's page, and nothing bounds the slices of an arbitrary state by the cores. -/
theorem not_oneOperationRunsOnLiveEngines : ¬ Obligations.OneOperationRunsOnLiveEngines := by
  unfold Obligations.OneOperationRunsOnLiveEngines
  rintro ⟨-, hdeal, -⟩
  obtain ⟨-, -, hlive⟩ := hdeal strayHome [homeTile] (by decide)
  have hcore : 16 ∈ (strayHome.deal [homeTile]).map (fun g => g.core) := by rw [deal_strayHome]; exact List.mem_singleton_self 16
  obtain ⟨g, hg, h16⟩ := List.mem_map.1 hcore
  exact absurd (hlive g hg).1 (by omega)

/-! ### A core that is listed twice (08 R293) -/

/-- An operation whose one tile is with engine 0 of core 0. -/
def homeRun : Running :=
  { op := { id := 0, kind := .attend, tiles := [homeTile] },
    given := [{ n := 0, tile := homeTile, core := 0, eng := 0, startedAt := 0, result := none }],
    at_ := 0, restarted := false, queries := [], lms := [] }

/-- Every core has failed, and a first entry for core 0, which hides its second, says that core 0 works. -/
def twiceListed : State := { State.reset with brn := { State.reset.brn with
  core := (0, { Core.reset with cause := 1 }) :: (List.range 16).map (fun c => (c, { Core.reset with failed := true })),
  run := some homeRun } }

/-- The cause word 0 makes core 0 as after reset, which takes its first entry out of the table: with the second in force no engine
is live, and the operation ends ABORTED. -/
theorem twiceListed_aborts : (twiceListed.failEngineOf 0 0 0).brn.run = none := by decide +kernel

/-- Refutes O20: the clause on the tiles of a failing engine does not ask that the keys of the core table rise. -/
theorem not_failuresReplayOrRestart : ¬ Obligations.FailuresReplayOrRestart := by
  unfold Obligations.FailuresReplayOrRestart
  rintro ⟨-, -, hreplay, -⟩
  obtain ⟨v, hrun, -⟩ := hreplay twiceListed 0 0 0 homeRun (by decide) (by decide) (by decide) (by decide) rfl
    ⟨1, by decide, by decide, by decide⟩
  rw [twiceListed_aborts] at hrun
  exact Option.some_ne_none v hrun.symm

end Sys2Proof.Machine

/-! Self-tests and injected errors of the engines (08 R292, R300; 02 R77). -/

namespace Sys2Proof.Machine

/-! ### Cores and engines: a read after a write -/

theorem core_setCore_self {s : State} (h : s.brn.core.rising) (c : Nat) (v : Core) : (s.setCore c v).core c = v :=
  sget_sset_self _ c v h

theorem core_setCore_new (s : State) (c : Nat) {v : Core} (hv : v ≠ Core.reset) : (s.setCore c v).core c = v := sget_sset_new c hv

theorem core_setCore_ne (s : State) {c k : Nat} (v : Core) (h : k ≠ c) : (s.setCore c v).core k = s.core k := sget_sset_ne v h

theorem engine_setEngine_new (s : State) (c e : Nat) {v : Eng} (hv : v ≠ Eng.reset) : (s.setEngine c e v).engine c e = v :=
  sget_sset_new _ hv

theorem Core.ne_reset_of_inject {v : Core} (h : v.inject = true) : v ≠ Core.reset := by
  rintro rfl
  exact absurd h (by decide)

theorem Eng.ne_reset_of_testing {v : Eng} (h : v.testing.isSome = true) : v ≠ Eng.reset := by
  rintro rfl
  exact absurd h (by decide)

theorem engLive_iff {s : State} {c e : Nat} : s.engLive c e = true ↔ s.engOk c e = true ∧ (s.engine c e).testing = none := by
  simp only [State.engLive, Bool.and_eq_true, Option.isNone_iff_eq_none]

/-! ### PERIODIC_SELF_TEST (08 R292; 02 R77) -/

/-- Time since the engine's last test, or since the reset. -/
def State.selfTestAge (s : State) (c e t : Nat) : Nat := max s.clk t - max (s.engine c e).lastTest s.resetAt

/-- INTERVAL_MS of BRN_TEST, after which a test is due, in ns. -/
def State.selfTestInterval (s : State) : Nat := fld s.brn.test 0 16 * 1000000

/-- The engine's test is due, in slack while no operation is ready, or is overdue. -/
abbrev State.selfTestDue (s : State) (c e t : Nat) : Prop :=
  (s.selfTestInterval ≤ s.selfTestAge c e t ∧ (!(s.at_ t).anyReady) = true ∧ (s.at_ t).slack .engines = true) ∨
    fld s.brn.test 16 8 * s.selfTestInterval ≤ s.selfTestAge c e t

/-- The engine leaves the array for its test. -/
def State.selfTestStart (s : State) (c e t : Nat) : State :=
  (s.at_ t).setEngine c e { s.engine c e with testing := some (max s.clk t) }

theorem exec_periodicSelfTest (c e t : Nat) (s : State) : exec (.periodicSelfTest c e t) s = .next (
    if c < 16 ∧ e < 8 ∧ s.engOk c e = true ∧ (s.engine c e).testing = none ∧ s.brn.run.isNone = true ∧
      s.reached .psa = true ∧ s.selfTestDue c e t then s.selfTestStart c e t else s.at_ t) := rfl

theorem selfTestStart_testing (s : State) (c e t : Nat) : ((s.selfTestStart c e t).engine c e).testing = some (max s.clk t) :=
  congrArg Eng.testing (engine_setEngine_new (s.at_ t) c e (Eng.ne_reset_of_testing rfl))

/-- An engine that is tested is out of the array. -/
theorem selfTestStart_notLive (s : State) (c e t : Nat) : (s.selfTestStart c e t).engLive c e = false := by
  rw [State.engLive, selfTestStart_testing, Option.isNone_some, Bool.and_false]

theorem periodicSelfTest_starts {s : State} {c e t : Nat} (hc : c < 16) (he : e < 8) (hlive : s.engLive c e = true)
    (hrun : s.brn.run = none) (hpsa : s.reached .psa = true) (hdue : s.selfTestDue c e t) :
    exec (.periodicSelfTest c e t) s = .next (s.selfTestStart c e t) := by
  obtain ⟨hok, htest⟩ := engLive_iff.1 hlive
  rw [exec_periodicSelfTest, if_pos ⟨hc, he, hok, htest, Option.isNone_iff_eq_none.2 hrun, hpsa, hdue⟩]

theorem periodicSelfTest_waits {s : State} {c e t : Nat} (hnot : ¬ s.selfTestDue c e t) :
    exec (.periodicSelfTest c e t) s = .next (s.at_ t) := by
  rw [exec_periodicSelfTest, if_neg]
  rintro ⟨-, -, -, -, -, -, hdue⟩
  exact hnot hdue

/-! ### SELF_TEST_END (08 R292) -/

section
variable {s : State} {c e t a : Nat} {pass : Bool} (htest : (s.engine c e).testing = some a)
include htest

theorem selfTestEnd_early (h : max s.clk t < a + 40000) : exec (.selfTestEnd c e t pass) s = .next (s.at_ t) := by
  have htest' : ((s.at_ t).engine c e).testing = some a := htest
  show execSelfTestEnd c e t pass s = _
  simp only [execSelfTestEnd, htest']
  exact congrArg _ (if_neg (not_le.2 h))

theorem selfTestEnd_ends (h : a + 40000 ≤ max s.clk t) {u : State}
    (hu : u = State.bump ((s.at_ t).setEngine c e { s.engine c e with testing := none, lastTest := max s.clk t })
      (pg (brnPage c) + 0x198)) :
    exec (.selfTestEnd c e t pass) s = .next (if pass then u else u.failEngineOf c e 2) := by
  subst hu
  have htest' : ((s.at_ t).engine c e).testing = some a := htest
  show execSelfTestEnd c e t pass s = _
  simp only [execSelfTestEnd, htest']
  exact congrArg _ (if_pos h)

end

/-! ### BRN_INJECT and the tile end that takes the error (08 R300) -/

theorem exec_brnInject (src : Src) (c : Nat) (s : State) : exec (.brnInject src c) s =
    .next (if c < 16 ∧ s.pageOn src (brnPage c) = true then s.setCore c { s.core c with inject := true } else s) := rfl

/-- Cycles of a tile that has ended; none where the model has no time for it. -/
def State.tileCost (s : State) (u : Running) (g : Given) : Option Nat :=
  (s.job u.op.id).bind (fun j => s.tileCycles j u.op.kind g.tile)

/-- A tile of core `c` and its cycles are counted; a time that the model has not is a free value. -/
def State.countTile (s : State) (c : Nat) (cost : Option Nat) : State :=
  let (cycles, s) := match cost with
    | some n => (n, s)
    | none => (Config.freeNat s.free, { s with free := s.free + 1 })
  (s.bump (pg (brnPage c) + 0x188)).bump64 (pg (brnPage c) + 0x180) cycles

/-- The injected error of a core is corrected, counted and logged. -/
def State.takeInject (s : State) (c : Nat) : State :=
  ((s.setCore c { s.core c with inject := false }).count (brnPage c) 0x190 2).rasRecord (brnPage c) 0x01 0 c 0

@[simp] theorem State.countTile_brn (s : State) (c : Nat) (cost : Option Nat) : (s.countTile c cost).brn = s.brn := by
  cases cost <;> rfl

theorem core_of_brn {s t : State} {c : Nat} (h : t.brn.core = s.brn.core) : t.core c = s.core c :=
  congrArg (fun l => sget l Core.reset c) h

/-- The state after the end of tile `g`, of an engine of core `c`, but for an injected error; `v` is what then runs. -/
def State.tileEnded (s : State) (u v : Running) (g : Given) (c : Nat) : State :=
  State.countTile { s with brn := { s.brn with run := some v } } c (s.tileCost u g)

theorem tileEnded_cores (s : State) (u v : Running) (g : Given) (c : Nat) : (s.tileEnded u v g c).brn.core = s.brn.core := by
  rw [State.tileEnded, State.countTile_brn]

/-- A tile end takes the injected error of its core. -/
theorem tileEnd_ends {s : State} {u : Running} {g : Given} {c e : Nat} (hrun : s.brn.run = some u) (hcur : u.current c e = some g) :
    ∃ v, exec (.tileEnd c e) s = .next (if ((s.tileEnded u v g c).core c).inject then (s.tileEnded u v g c).takeInject c
      else s.tileEnded u v g c) :=
  ⟨_, by
    show execTileEnd c e s = _
    simp only [execTileEnd, hrun, hcur]
    rfl⟩

/-- Settles O21: a test by whether it is due and by its time, an injected error by the tile end that takes it. -/
theorem selfTestsAndInjectedErrors : Obligations.SelfTestsAndInjectedErrors := by
  unfold Obligations.SelfTestsAndInjectedErrors
  refine ⟨fun s c e t step age hc he hlive hrun hpsa hstep hage u hu => ?start,
    fun s c e t a p htest => ⟨selfTestEnd_early htest, fun h u hu => selfTestEnd_ends htest h hu⟩,
    fun s src c => ⟨fun h => ?closed, fun hc hpage => ?inject⟩, fun s u g c e hrun hcur hinj hrise => ?taken⟩
  case start =>
    subst hstep hage hu
    refine ⟨fun hover => periodicSelfTest_starts hc he hlive hrun hpsa (.inr hover),
      fun hdue hready hslack => periodicSelfTest_starts hc he hlive hrun hpsa (.inl ⟨hdue, by rw [hready]; rfl, hslack⟩),
      fun hover hnot => periodicSelfTest_waits ?_, selfTestStart_testing s c e t, selfTestStart_notLive s c e t⟩
    rintro (⟨hdue, hready, hslack⟩ | hdue)
    · rcases hnot with h | h | h
      · exact absurd hdue (not_le.2 h)
      · exact absurd hready (by rw [h]; exact Bool.false_ne_true)
      · exact absurd (h.symm.trans hslack) Bool.false_ne_true
    · exact absurd hdue (not_le.2 hover)
  case closed =>
    have hno : ¬ (c < 16 ∧ s.pageOn src (brnPage c) = true) := by
      rintro ⟨hc, hpage⟩
      rcases h with h | h
      · omega
      · exact absurd (h.symm.trans hpage) Bool.false_ne_true
    rw [exec_brnInject, if_neg hno]
  case inject =>
    have hgo : c < 16 ∧ s.pageOn src (brnPage c) = true := ⟨hc, hpage⟩
    rw [exec_brnInject, if_pos hgo]
    exact ⟨_, rfl, core_setCore_new s c (Core.ne_reset_of_inject rfl), fun k hk => core_setCore_ne s _ hk, rfl, rfl⟩
  case taken =>
    obtain ⟨v, hexec⟩ := tileEnd_ends hrun hcur
    have hcores := tileEnded_cores s u v g c
    have hcore : (s.tileEnded u v g c).core c = s.core c := core_of_brn hcores
    rw [hcore, if_pos hinj] at hexec
    exact ⟨_, _, hexec, hcore ▸ core_setCore_self (hcores ▸ hrise) c _, rfl⟩

end Sys2Proof.Machine

/-! The start of ATTEND and ATTEND_SPARSE (09 R304, R305, R307, R311 to R314, R328, R330): the operands that acceptance read, tested
one after the other, and the job that they make. -/

namespace Sys2Proof.Machine

/-! ### The two commands -/

theorem exec_attend (id : Nat) (s : State) : exec (.attend id) s = execAttend id s := rfl
theorem exec_attendSparse (id : Nat) (s : State) : exec (.attendSparse id) s = execAttendSparse id s := rfl

theorem exec_attendCmd {s : State} {id : Nat} {l : Live} {sparse : Bool} (hnew : s.Fresh id (if sparse then 0x0D else 0x0C) l) :
    exec (if sparse then .attendSparse id else .attend id) s = .next (s.attendStart l sparse) := by
  cases sparse with
  | false => exact congrArg _ (hnew.onNew _)
  | true => exact congrArg _ (hnew.onNew _)

/-! ### Conditions outside the operands (08 R296; 09 R328) -/

theorem npaWhen_noEngine {s : State} (l : Live) (par : List Word) (attend : Bool) (hdead : s.liveEngines = 0) :
    s.npaWhen l par attend = some .notReady := by
  simp only [State.npaWhen, hdead, if_true, ite_self]

/-- A command of a queue does not attend before the stroke timer is in step. -/
theorem npaWhen_unsynced {s : State} {l : Live} (par : List Word) {p qs : Nat} (hsrc : l.src = .queue p qs)
    (hsync : s.stk.sync = .unlocked ∨ s.stk.sync = .acquiring) : s.npaWhen l par true = some .notReady := by
  simp only [State.npaWhen, hsrc, decide_eq_true hsync.symm, Bool.and_self, if_true]

/-! ### Requests and the entries that they resolve (09 R311 to R313) -/

section
variable (s : State) (tenant : Nat) (m : Model) (layer : Nat) (es : List RawEnt) (sel : List Nat) (r : Nat × Nat × Nat)

theorem resolveReq_stale : (s.resolveReq tenant m layer es sel r none).1 =
    { limit := r.2.1, reqId := r.2.2, st := .staleProof, res := [], sel := [] } := rfl

/-- With a view, a request fails alone if an entry resolves to nothing, and else holds what each entry resolves to. -/
theorem resolveReq_view (snap : Nat) : (s.resolveReq tenant m layer es sel r (some snap)).1 =
    if ∃ e ∈ es, s.resolveEnt tenant snap e = none then
      { limit := r.2.1, reqId := r.2.2, st := .notFound, res := [], sel := [] }
    else { limit := r.2.1, reqId := r.2.2, st := .ok, sel := sel,
           res := es.filterMap (fun e => (s.resolveEnt tenant snap e).map (fun y => (y.2.1.ps, y.1))) } := by
  simp only [State.resolveReq, apply_ite Prod.fst, List.any_map, List.any_eq_true, Function.comp_apply, Option.isNone_iff_eq_none,
    List.filterMap_map]

/-- A request that is OK holds one resolved entry for each entry. -/
theorem resolveReq_ok {snap : Option Nat} (h : (s.resolveReq tenant m layer es sel r snap).1.st = .ok) :
    (s.resolveReq tenant m layer es sel r snap).1.res.length = es.length := by
  cases snap with
  | none => exact nomatch h
  | some snap =>
    rw [resolveReq_view] at h ⊢
    split at h
    case isTrue => exact nomatch h
    case isFalse hall =>
      rw [if_neg hall]
      refine List.filterMap_length_eq_length.2 fun e he => ?_
      rw [Option.isSome_map]
      exact Option.isSome_iff_ne_none.2 fun hnone => hall ⟨e, he, hnone⟩

/-- A request that has failed holds no entry. -/
theorem resolveReq_failed {snap : Option Nat} (h : (s.resolveReq tenant m layer es sel r snap).1.st ≠ .ok) :
    (s.resolveReq tenant m layer es sel r snap).1.res = [] := by
  cases snap with
  | none => rfl
  | some snap =>
    rw [resolveReq_view] at h ⊢
    split at h
    case isTrue hone => rw [if_pos hone]
    case isFalse => exact absurd rfl h

end

/-! ### The views of the requests, and the job (09 R312 to R314, R330) -/

/-- The requests take their proofs' views, and the command goes on with the snapshots, or ends. -/
def State.withReqViews (s : State) (l : Live) (reqs : List (Nat × Nat × Nat)) (f : State → List (Option Nat) → State) : State :=
  match s.reqViews l none reqs with
  | (u, .error e) => u.npaFail l.id e
  | (u, .ok snaps) => f u snaps

section
variable {s u : State} {l : Live} {reqs : List (Nat × Nat × Nat)} {f : State → List (Option Nat) → State}

theorem withReqViews_error {e : Status} (h : s.reqViews l none reqs = (u, .error e)) : s.withReqViews l reqs f = u.npaFail l.id e := by
  simp only [State.withReqViews, h]

theorem withReqViews_ok {snaps : List (Option Nat)} (h : s.reqViews l none reqs = (u, .ok snaps)) :
    s.withReqViews l reqs f = f u snaps := by
  simp only [State.withReqViews, h]

end

/-- The requests as they resolve, each with whether a key matched more than one form and whether an entry is refused. -/
def State.resolveReqs (s : State) (l : Live) (par : List Word) (sparse : Bool) (m : Model) (es : List RawEnt)
    (reqs : List (Nat × Nat × Nat)) (snaps : List (Option Nat)) : List (Req × Bool × Bool) :=
  (reqs.zip snaps).map (fun r =>
    s.resolveReq l.tenant m (fld (par.getD 0 0) 0 16) es (if sparse then [] else List.range es.length) r.1 r.2)

section
variable {s : State} {l : Live} {par : List Word} {sparse : Bool} {m : Model} {es : List RawEnt}
  {reqs : List (Nat × Nat × Nat)} {snaps : List (Option Nat)}

theorem attendJob_refused (h : (s.resolveReqs l par sparse m es reqs snaps).any (fun x => x.2.2) = true) :
    s.attendJob l par sparse m es reqs snaps = s.npaFail l.id .badCommand := if_pos h

theorem attendJob_starts (h : (s.resolveReqs l par sparse m es reqs snaps).any (fun x => x.2.2) = false) :
    ∃ j ps, s.attendJob l par sparse m es reqs snaps = s.jobStart j ps ∧ j.id = l.id ∧ j.opcode = l.op ∧ j.par = par ∧
      j.model = m.id ∧ j.reqs = (s.resolveReqs l par sparse m es reqs snaps).map (fun x => x.1) :=
  ⟨_, _, if_neg (Bool.not_eq_true _ ▸ h), rfl, rfl, rfl, rfl, rfl⟩

theorem mem_resolveReqs {x : Req × Bool × Bool} (hx : x ∈ s.resolveReqs l par sparse m es reqs snaps) :
    (x.1.st = .ok → x.1.res.length = es.length) ∧ (x.1.st ≠ .ok → x.1.res = []) := by
  obtain ⟨r, -, rfl⟩ := List.mem_map.1 hx
  exact ⟨fun hok => resolveReq_ok (h := hok) .., fun hfailed => resolveReq_failed (h := hfailed) ..⟩

end

/-! ### The parameter block (09 R304, R305, R307, R311) -/

section
variable {s : State} {l : Live} {sparse : Bool}

theorem attendStart_early (hdown : s.reached .psa = false) : s.attendStart l sparse = s.npaFail l.id .notReady := by
  simp only [State.attendStart, hdown, Bool.not_false, if_true]

theorem paramRead_misaligned (halign : l.w64 4 % 64 ≠ 0) : s.paramRead l = .error .badCommand := by
  simp only [State.paramRead, npaWordsOk, decide_eq_false halign, Bool.and_false, Bool.not_false, if_true]

variable (hup : s.reached .psa = true)
include hup

theorem attendStart_unread {e : Status} (hpar : s.paramRead l = .error e) : s.attendStart l sparse = s.npaFail l.id e := by
  simp only [State.attendStart, hup, hpar, Bool.not_true, Bool.false_eq_true, if_false]

variable {par : List Word} (hpar : s.paramRead l = .ok par)
include hpar

theorem attendStart_badBlock (hbad : s.attendCheck par sparse = false) : s.attendStart l sparse = s.npaFail l.id .badCommand := by
  simp only [State.attendStart, hup, hpar, hbad, Bool.not_true, Bool.not_false, Bool.false_eq_true, if_false, if_true]

end

/-- ATTEND or ATTEND_SPARSE `l` has read the parameter block `par`, which passes its checks. -/
def State.AttendPar (s : State) (l : Live) (sparse : Bool) (par : List Word) : Prop :=
  s.reached .psa = true ∧ s.paramRead l = .ok par ∧ s.attendCheck par sparse = true

/-! ### From the parameter block on (09 R305, R309 to R314, R328, R330) -/

section
variable {s : State} {l : Live} {sparse : Bool} {par : List Word} (hpar : s.AttendPar l sparse par)
include hpar

theorem attendStart_outside {e : Status} (hwhen : s.npaWhen l par true = some e) : s.attendStart l sparse = s.npaFail l.id e := by
  obtain ⟨hup, hread, hcheck⟩ := hpar
  simp only [State.attendStart, hup, hread, hcheck, hwhen, Bool.not_true, Bool.false_eq_true, if_false]

variable (hwhen : s.npaWhen l par true = none)
include hwhen

theorem attendStart_reqsError {e : Status} (hreqs : s.reqTable l par = .error e) : s.attendStart l sparse = s.npaFail l.id e := by
  obtain ⟨hup, hread, hcheck⟩ := hpar
  simp only [State.attendStart, hup, hread, hcheck, hwhen, hreqs, Bool.not_true, Bool.false_eq_true, if_false]

variable {reqs : List (Nat × Nat × Nat)} (hreqs : s.reqTable l par = .ok reqs)
include hreqs

theorem attendStart_entsError {e : Status} (hents : s.entList l par false = .error e) : s.attendStart l sparse = s.npaFail l.id e := by
  obtain ⟨hup, hread, hcheck⟩ := hpar
  simp only [State.attendStart, hup, hread, hcheck, hwhen, hreqs, hents, Bool.not_true, Bool.false_eq_true, if_false]

variable {es : List RawEnt} (hents : s.entList l par false = .ok es)
include hents

theorem attendStart_modelError {e : Status} (hmodel : s.entsModel es = .error e) : s.attendStart l sparse = s.npaFail l.id e := by
  obtain ⟨hup, hread, hcheck⟩ := hpar
  simp only [State.attendStart, hup, hread, hcheck, hwhen, hreqs, hents, hmodel, Bool.not_true, Bool.false_eq_true, if_false]

/-- No entry names a model: the requests take their views, and every one of them fails. -/
theorem attendStart_noModel (hmodel : s.entsModel es = .ok none) : s.attendStart l sparse = s.withReqViews l reqs
    (fun u snaps => u.noModel l.id (snaps.map (fun v => if v.isNone then .staleProof else .notFound))) := by
  obtain ⟨hup, hread, hcheck⟩ := hpar
  simp only [State.attendStart, hup, hread, hcheck, hwhen, hreqs, hents, hmodel, Bool.not_true, Bool.false_eq_true, if_false]
  rfl

/-- With the entries' model, the requests take their views and the job starts, if the operands fit the model and their places. -/
theorem attendStart_model {m : Model} (hmodel : s.entsModel es = .ok (some m)) : s.attendStart l sparse =
    if attendModelOk par m sparse es = false ∨ s.attendRoom l par m sparse = false then s.npaFail l.id .badCommand
    else s.withReqViews l reqs (fun u snaps => u.attendJob l par sparse m es reqs snaps) := by
  obtain ⟨hup, hread, hcheck⟩ := hpar
  simp only [State.attendStart, hup, hread, hcheck, hwhen, hreqs, hents, hmodel, Bool.not_true, Bool.false_eq_true, if_false,
    Bool.not_eq_true']
  rfl

end

/-- Settles O22: the two commands run `attendStart`; then its outcomes one by one, in the order in which it tests its operands. -/
theorem attendReadsItsOperandsOnce : Obligations.AttendReadsItsOperandsOnce := by
  unfold Obligations.AttendReadsItsOperandsOnce
  rintro s id l sparse hl hop hph hc c rfl
  rw [exec_attendCmd ⟨hl, hop, hph, hc⟩]
  refine ⟨fun hdown => congrArg _ (attendStart_early hdown),
    fun hup halign => congrArg _ (attendStart_unread hup (paramRead_misaligned halign)),
    fun e hup hread => congrArg _ (attendStart_unread hup hread), fun par hup hread => ⟨fun hbad =>
    congrArg _ (attendStart_badBlock hup hread hbad), fun hcheck => ?_⟩⟩
  have hpar : s.AttendPar l sparse par := ⟨hup, hread, hcheck⟩
  refine ⟨fun e hwhen => congrArg _ (attendStart_outside hpar hwhen), fun p qs hsrc hsync => npaWhen_unsynced par hsrc hsync,
    npaWhen_noEngine l par true, fun hwhen => ⟨fun e hreqs => congrArg _ (attendStart_reqsError hpar hwhen hreqs), fun reqs hreqs =>
    ⟨fun e hents => congrArg _ (attendStart_entsError hpar hwhen hreqs hents), fun es hents => ⟨fun e hmodel =>
    congrArg _ (attendStart_modelError hpar hwhen hreqs hents hmodel), fun hmodel => ?noModel, fun m hmodel => ?model⟩⟩⟩⟩
  case noModel =>
    rw [attendStart_noModel hpar hwhen hreqs hents hmodel]
    exact ⟨fun u e hviews => congrArg _ (withReqViews_error hviews), fun u snaps hviews => congrArg _ (withReqViews_ok hviews)⟩
  case model =>
    rw [attendStart_model hpar hwhen hreqs hents hmodel]
    refine ⟨fun hno => congrArg _ (if_pos hno), fun hfits hroom => ?_⟩
    rw [if_neg (by simp [hfits, hroom])]
    refine ⟨fun u e hviews => congrArg _ (withReqViews_error hviews), fun u snaps rs hviews hrs => ?_⟩
    obtain rfl : rs = u.resolveReqs l par sparse m es reqs snaps := hrs
    rw [withReqViews_ok hviews]
    refine ⟨fun hrefused => congrArg _ (attendJob_refused hrefused), fun hgood => ?_, fun x hx => mem_resolveReqs hx⟩
    obtain ⟨j, ps, hstart, hjob⟩ := attendJob_starts hgood
    exact ⟨j, ps, congrArg _ hstart, hjob⟩

end Sys2Proof.Machine

/-! Results of near-page attention (09 R318 to R322, R325 to R327, R329, R333): records combined, the block that holds them, the
entries that a request selects, and a merge that waits. -/

namespace Sys2Proof.Machine

/-! ### Combination (09 R320, R322) -/

theorem isZero_neutral (d st : Nat) : isZero (Rec.neutral d st).l = true := by
  show isZero 0 = true
  decide

@[simp] theorem combineRec_seen (ftz : Bool) (a b : Rec) : (combineRec ftz a b).seen = a.seen + b.seen := rfl
@[simp] theorem combineRec_st (ftz : Bool) (a b : Rec) : (combineRec ftz a b).st = if a.st = 0 then b.st else a.st := rfl

/-- A record whose l is zero leaves the values of the one after it. -/
theorem combineRec_zero_left (ftz : Bool) {a : Rec} (b : Rec) (ha : isZero a.l = true) :
    combineRec ftz a b = { b with seen := a.seen + b.seen, st := if a.st = 0 then b.st else a.st } := by
  simp only [combineRec, ha, if_true]

/-- A record whose l is zero leaves the values of the one before it. -/
theorem combineRec_zero_right (ftz : Bool) {a b : Rec} (ha : isZero a.l = false) (hb : isZero b.l = true) :
    combineRec ftz a b = { a with seen := a.seen + b.seen, st := if a.st = 0 then b.st else a.st } := by
  simp only [combineRec, ha, hb, Bool.false_eq_true, if_false, if_true]

theorem combineRec_neutral_right (ftz : Bool) {r : Rec} (d : Nat) (hr : isZero r.l = false) :
    combineRec ftz r (Rec.neutral d 0) = r := by
  have hst : (if r.st = 0 then (Rec.neutral d 0).st else r.st) = r.st := ite_eq_right_iff.2 Eq.symm
  rw [combineRec_zero_right ftz hr (isZero_neutral d 0), hst]
  rfl

theorem combineRec_neutral_left (ftz : Bool) (d st : Nat) (r : Rec) :
    combineRec ftz (Rec.neutral d st) r = { r with st := if st = 0 then r.st else st } := by
  rw [combineRec_zero_left ftz r (isZero_neutral d st), show (Rec.neutral d st).seen = 0 from rfl, Nat.zero_add]
  rfl

/-! ### Result blocks (09 R318, R319) -/

@[simp] theorem length_leBytes (k n : Nat) : (leBytes k n).length = k := by
  induction k generalizing n with
  | zero => rfl
  | succ k ih => rw [leBytes, List.length_cons, ih]

@[simp] theorem length_bytesOf (ws : List Word) : (bytesOf ws).length = 4 * ws.length := by
  induction ws with
  | nil => rfl
  | cons w ws ih => rw [bytesOf, List.length_append, length_leBytes, ih, List.length_cons]; omega

@[simp] theorem length_split64 (n : Nat) : (split64 n).length = 2 := rfl

/-- A record is a header of 16 words and one word for each dimension. -/
theorem length_recBytes (r : Rec) (qhead reqId : Nat) : (r.bytes qhead reqId).length = 64 + 4 * r.o.length := by
  simp only [Rec.bytes, length_bytesOf, List.length_append, List.length_cons, List.length_nil, List.length_replicate]
  omega

theorem length_finalizeRec_o (ftz : Bool) (r : Rec) : (finalizeRec ftz r).o.length = r.o.length := List.length_map _

theorem length_blockIx (s : State) (j : Job) : (s.blockIx j).length = j.reqs.length * s.jobQh j := by
  simp [State.blockIx, List.length_flatMap]

/-- The records of a block as they are written: finalized where the command asks for it. -/
def State.finalRecs (s : State) (j : Job) (recs : List Rec) : List Rec :=
  if j.f 16 31 1 = 1 then recs.map (finalizeRec (numFtz s.brn.num)) else recs

theorem length_finalRecs (s : State) (j : Job) (recs : List Rec) : (s.finalRecs j recs).length = recs.length := by
  unfold State.finalRecs
  split
  · exact List.length_map _
  · rfl

theorem finalRecs_dim {s : State} {j : Job} {recs : List Rec} {d : Nat} (hdim : ∀ r ∈ recs, r.o.length = d) :
    ∀ r ∈ s.finalRecs j recs, r.o.length = d := by
  unfold State.finalRecs
  split
  · exact List.forall_mem_map.2 fun r hr => (length_finalizeRec_o _ r).trans (hdim r hr)
  · exact hdim

/-- Records of dimension `d`, written one after another whatever their heads and requests are. -/
theorem length_flatMap_recBytes {β : Type} {d : Nat} (head req : β → Nat) (xs : List (Rec × β)) (hdim : ∀ x ∈ xs, x.1.o.length = d) :
    (xs.flatMap (fun x => x.1.bytes (head x.2) (req x.2))).length = xs.length * (64 + 4 * d) := by
  rw [List.length_flatMap, List.map_congr_left fun x hx => (length_recBytes x.1 _ _).trans (by rw [hdim x hx]), List.map_const',
    List.sum_replicate, smul_eq_mul]

/-- A block is a header of 64 bytes and one record for each request and query head. -/
theorem length_blockOf (s : State) (j : Job) (tag : Nat) {recs : List Rec} (hdim : ∀ r ∈ recs, r.o.length = (s.jobModel j).headDim)
    (hlen : recs.length = j.reqs.length * s.jobQh j) : (s.blockOf j tag recs).1.length = s.blockSize j := by
  have hzip : ((s.finalRecs j recs).zip (s.blockIx j)).length = j.reqs.length * s.jobQh j := by
    rw [List.length_zip, length_finalRecs, length_blockIx, hlen, Nat.min_self]
  have hbody := length_flatMap_recBytes (fun x => x.2) (fun x => ((j.reqs[x.1]?).map (fun q => q.reqId)).getD 0)
    ((s.finalRecs j recs).zip (s.blockIx j)) fun x hx => finalRecs_dim hdim x.1 (List.of_mem_zip hx).1
  rw [hzip] at hbody
  simp only [State.blockOf, State.blockSize, List.length_append, length_bytesOf, length_split64, List.length_cons, List.length_nil,
    List.length_replicate]
  exact congrArg (64 + ·) hbody

/-! ### Selection (09 R333) -/


/-- Entry `i` of `n` is selected whatever its score is: one of the first `first` or of the last `last`. -/
def forcedEntry (n first last i : Nat) : Bool := decide (i < first ∨ n ≤ i + last)

/-- A score with minus infinity in the place of a NaN. -/
def scoreOrNone (score : Nat → Word) (i : Nat) : Word := if (fp (score i)).isNan then negInf else score i

/-- The entries that are not forced and have a score above minus infinity. -/
def rankedEntries (n first last : Nat) (score : Nat → Word) : List Nat :=
  (List.range n).filter (fun i => !forcedEntry n first last i && decide (fp (scoreOrNone score i) ≠ .inf true))

/-- The `k` best of the entries that are not forced. -/
def bestEntries (n first last k : Nat) (score : Nat → Word) : List Nat :=
  (isort (fun a b => (fp (scoreOrNone score b)).le (fp (scoreOrNone score a))) (rankedEntries n first last score)).take k

section
variable {n first last k : Nat} {score : Nat → Word} {i : Nat}

theorem selectEntries_eq : selectEntries n first last k score =
    (List.range n).filter (fun i => forcedEntry n first last i || (bestEntries n first last k score).contains i) := rfl

theorem mem_selectEntries : i ∈ selectEntries n first last k score ↔
    i < n ∧ (forcedEntry n first last i = true ∨ i ∈ bestEntries n first last k score) := by
  rw [selectEntries_eq, List.mem_filter, List.mem_range, Bool.or_eq_true, List.contains_iff_mem]

theorem selectEntries_sorted : (selectEntries n first last k score).Pairwise (· < ·) := List.pairwise_lt_range.filter _

theorem length_bestEntries : (bestEntries n first last k score).length ≤ k := List.length_take_le _ _

theorem fp_negInf : fp negInf = .inf true := by decide

/-- A score that does not count as minus infinity is neither that nor a NaN. -/
theorem scoreOrNone_live (h : fp (scoreOrNone score i) ≠ .inf true) : fp (score i) ≠ .inf true ∧ (fp (score i)).isNan = false := by
  unfold scoreOrNone at h
  split at h
  case isTrue => exact absurd fp_negInf h
  case isFalse hnum => exact ⟨h, Bool.eq_false_of_not_eq_true hnum⟩

theorem bestEntries_live (h : i ∈ bestEntries n first last k score) : fp (score i) ≠ .inf true ∧ (fp (score i)).isNan = false := by
  have hranked : i ∈ rankedEntries n first last score := mem_isort (List.mem_of_mem_take h)
  obtain ⟨-, hlive⟩ := Bool.and_eq_true_iff.1 (List.mem_filter.1 hranked).2
  exact scoreOrNone_live (of_decide_eq_true hlive)

theorem free_selectEntries_subset :
    (selectEntries n first last k score).filter (fun x => !forcedEntry n first last x) ⊆ bestEntries n first last k score := by
  intro x hx
  obtain ⟨hsel, hfree⟩ := List.mem_filter.1 hx
  obtain ⟨-, hforced | hbest⟩ := mem_selectEntries.1 hsel
  · exact absurd hforced (by simpa using hfree)
  · exact hbest

/-- The selected entries that are not forced are among the `k` best, each of them once. -/
theorem length_free_selectEntries_le :
    ((selectEntries n first last k score).filter (fun x => !forcedEntry n first last x)).length ≤ k := by
  have hnodup : ((selectEntries n first last k score).filter (fun x => !forcedEntry n first last x)).Nodup :=
    (selectEntries_sorted.imp Nat.ne_of_lt).filter _
  exact (hnodup.subperm free_selectEntries_subset).length_le.trans length_bestEntries

end

/-! ### A merge that waits (09 R326) -/

theorem exec_mergeTimeout (id t : Nat) (s : State) : exec (.mergeTimeout id t) s = execMergeTimeout id t s := rfl

theorem job_at_ (s : State) (t id : Nat) : (s.at_ t).job id = s.job id := rfl

theorem mergeTimeout_waits {s : State} {id : Nat} (t : Nat) {a n : Nat} {j : Job} (hjob : s.job id = some j)
    (hstage : j.stage = .merge a n) : exec (.mergeTimeout id t) s =
    .next (if a + s.cfgFld (pg npaPage + 0x108) 0 24 * 1000 ≤ max s.clk t then ((s.at_ t).count npaPage 0x198 0).jobEnd id (some .timeout)
      else s.at_ t) := by
  simp only [exec_mergeTimeout, execMergeTimeout, job_at_, hjob, hstage]
  rfl

/-- Settles O24: a neutral record by its l; the block by its records' lengths; a selection by its forced and its best entries; a
merge by its time. -/
theorem resultsCombineAndMerge : Obligations.ResultsCombineAndMerge := by
  unfold Obligations.ResultsCombineAndMerge
  refine ⟨fun ftz r d st hr => ⟨combineRec_neutral_right ftz d hr, combineRec_neutral_left ftz d st r⟩, combineRec_seen,
    fun s j tag recs hdim hlen => length_blockOf s j tag hdim hlen, fun n first last k score i hi => ?select,
    fun s id t a n j hjob hstage => ?merge⟩
  case select =>
    refine ⟨fun hforced => mem_selectEntries.2 ⟨hi, .inl (decide_eq_true hforced)⟩, fun hsel hfree => ?_,
      length_free_selectEntries_le, selectEntries_sorted⟩
    obtain ⟨-, hforced | hbest⟩ := mem_selectEntries.1 hsel
    · exact absurd (of_decide_eq_true hforced) hfree
    · exact bestEntries_live hbest
  case merge =>
    rw [mergeTimeout_waits t hjob hstage]
    exact ⟨fun hdue => congrArg _ (if_pos hdue), fun hearly => congrArg _ (if_neg (not_le.2 hearly))⟩

end Sys2Proof.Machine

/-! Reads from the lower tiers (10 R368, R369, R373; 07 R258 to R260): what a channel starts first, and how a read ends. -/

namespace Sys2Proof.Machine

/-! ### The work that a channel starts (10 R368) -/

/-- What a channel can start below its urgent reads and its foreground relocation: rows 4 and 5, and in slack rows 6 and 7. -/
def State.lowRows (s : State) (ch : Nat) : Option State :=
  (s.readStart ch false).or ((s.progData ch).or (if s.slack .flash then (s.relocStart ch 6).or (s.relocStart ch 7) else none))

theorem findSome?_cons_eq_or {α β : Type} (f : α → Option β) (a : α) (l : List α) : (a :: l).findSome? f = (f a).or (l.findSome? f) := by
  rw [List.findSome?_cons]
  cases f a <;> rfl

/-- The rows of a channel as alternatives in turn: row 3 stands before row 2 while foreground work has time left. -/
theorem flashOpStart_rows (ch : Nat) (s : State) : exec (.flashOpStart ch) s = .next (((s.ringStart ch).or
    ((if s.fgLeft ch then (s.relocStart ch 3).or (s.readStart ch true) else (s.readStart ch true).or (s.relocStart ch 3)).or
      (s.lowRows ch))).getD s) := by
  show Host.Outcome.next (((s.rowOrder ch).findSome? (s.rowStart ch)).getD s) = _
  have hlow : [4, 5, 6, 7].findSome? (s.rowStart ch) = s.lowRows ch := by
    unfold State.lowRows
    by_cases hslack : s.slack .flash = true <;>
      simp only [findSome?_cons_eq_or, List.findSome?_nil, State.rowStart, hslack, Bool.false_eq_true, if_true, if_false, Option.or_none]
  by_cases hleft : s.fgLeft ch = true
  · simp only [State.rowOrder, hleft, if_true, findSome?_cons_eq_or _ 1, findSome?_cons_eq_or _ 2, findSome?_cons_eq_or _ 3, hlow,
      State.rowStart, Option.or_assoc]
  · simp only [State.rowOrder, hleft, Bool.false_eq_true, if_false, findSome?_cons_eq_or _ 1, findSome?_cons_eq_or _ 2,
      findSome?_cons_eq_or _ 3, hlow, State.rowStart, Option.or_assoc]

section
variable {s : State} {ch : Nat} {w : State}

theorem flashOpStart_ring (h : s.ringStart ch = some w) : exec (.flashOpStart ch) s = .next w := by
  simp only [flashOpStart_rows, h, Option.some_or, Option.getD_some]

variable (hring : s.ringStart ch = none)
include hring

theorem flashOpStart_foreground (hleft : s.fgLeft ch = true) (h : s.relocStart ch 3 = some w) :
    exec (.flashOpStart ch) s = .next w := by
  simp only [flashOpStart_rows, hring, hleft, h, if_true, Option.none_or, Option.some_or, Option.getD_some]

theorem flashOpStart_urgent (hturn : s.fgLeft ch = false ∨ s.relocStart ch 3 = none) (h : s.readStart ch true = some w) :
    exec (.flashOpStart ch) s = .next w := by
  rcases hturn with hspent | hreloc
  · simp only [flashOpStart_rows, hring, hspent, h, Bool.false_eq_true, if_false, Option.none_or, Option.some_or, Option.getD_some]
  · simp only [flashOpStart_rows, hring, hreloc, h, Option.or_none, ite_self, Option.none_or, Option.some_or, Option.getD_some]

variable (hurgent : s.readStart ch true = none)
include hurgent

theorem flashOpStart_reloc (h : s.relocStart ch 3 = some w) : exec (.flashOpStart ch) s = .next w := by
  simp only [flashOpStart_rows, hring, hurgent, h, Option.or_none, ite_self, Option.none_or, Option.some_or, Option.getD_some]

variable (hreloc : s.relocStart ch 3 = none)
include hreloc

theorem flashOpStart_low : exec (.flashOpStart ch) s = .next ((s.lowRows ch).getD s) := by
  simp only [flashOpStart_rows, hring, hurgent, hreloc, Option.or_none, ite_self, Option.none_or]

theorem flashOpStart_ahead (h : s.readStart ch false = some w) : exec (.flashOpStart ch) s = .next w := by
  simp only [flashOpStart_low hring hurgent hreloc, State.lowRows, h, Option.some_or, Option.getD_some]

variable (hahead : s.readStart ch false = none)
include hahead

theorem flashOpStart_data (h : s.progData ch = some w) : exec (.flashOpStart ch) s = .next w := by
  simp only [flashOpStart_low hring hurgent hreloc, State.lowRows, hahead, h, Option.none_or, Option.some_or, Option.getD_some]

variable (hdata : s.progData ch = none)
include hdata

theorem flashOpStart_noSlack (hslack : s.slack .flash = false) : exec (.flashOpStart ch) s = .next s := by
  simp only [flashOpStart_low hring hurgent hreloc, State.lowRows, hahead, hdata, hslack, Bool.false_eq_true, if_false, Option.none_or,
    Option.getD_none]

theorem flashOpStart_slack (hslack : s.slack .flash = true) :
    exec (.flashOpStart ch) s = .next (((s.relocStart ch 6).or (s.relocStart ch 7)).getD s) := by
  simp only [flashOpStart_low hring hurgent hreloc, State.lowRows, hahead, hdata, hslack, if_true, Option.none_or]

end

/-! ### Reads of a die (10 R369) -/

/-- The die that a read of a page goes to: that of the page's first slot. -/
def State.readDie (s : State) (r : T2Read) : Nat := ((s.pageLocs r.pset r.page).head?.map s.flm.slotDie).getD 0

/-- An URGENT read may suspend what a die is doing. -/
def State.maySuspend (s : State) (r : T2Read) (die : Nat) (b : Busy) : Bool :=
  r.urgent && s.flmCtrl 4 && (sget s.flm.die Die.absent die).suspend && decide (b.susp < s.cfgFld (pg flmPage + 0x228) 0 4)

section
variable {s : State} {r : T2Read}

theorem readOn_idle (h : sget s.flm.busy none (s.readDie r) = none) : s.readOn r = some (s.startRead r.rid) := by
  unfold State.readDie at h
  simp only [State.readOn, h]

variable {b : Busy} (h : sget s.flm.busy none (s.readDie r) = some b)
include h

theorem readOn_busy (hmay : s.maySuspend r (s.readDie r) b = false) : s.readOn r = none := by
  unfold State.readDie State.maySuspend at *
  simp only [State.readOn, h, hmay, Bool.false_eq_true, if_false]

theorem readOn_suspends (hmay : s.maySuspend r (s.readDie r) b = true) : s.readOn r = some ((State.startRead
    { s with flm := { s.flm with busy := sset s.flm.busy none (s.readDie r) (some { b with susp := b.susp + 1 }) } } r.rid).bump
      (pg (chPage (dieChannel (s.readDie r / 32) (s.readDie r % 32))) + 0x1A4)) := by
  unfold State.readDie State.maySuspend at *
  simp only [State.readOn, h, hmay, if_true]

end

/-! ### Reads that return (10 R373; 07 R259, R260) -/

theorem exec_flashRead (rid : Nat) (os : List ReadOutcome) (s : State) : exec (.flashRead rid os) s = execFlashRead rid os s := rfl

theorem flashRead_unknown {s : State} {rid : Nat} (h : s.read_ rid = none) (os : List ReadOutcome) :
    exec (.flashRead rid os) s = .next s := by
  simp only [exec_flashRead, execFlashRead, h]

section
variable {s : State} {rid : Nat} {r : T2Read} (hread : s.read_ rid = some r) {os : List ReadOutcome}
include hread

theorem flashRead_notStarted (h : r.started = false) : exec (.flashRead rid os) s = .next s := by
  simp only [exec_flashRead, execFlashRead, hread, h, Bool.not_false, if_true]

variable (hstarted : r.started = true) {u : State}
include hstarted

theorem flashRead_lost (hpage : (s.rebuildPage r os).pageRead os r.locs = (u, true)) : exec (.flashRead rid os) s =
    .next (((u.dropRead rid).lostPage r.pset r.page).pageFailed r.pset r.page .poison) := by
  simp only [exec_flashRead, execFlashRead, hread, hstarted, hpage, Bool.not_true, Bool.false_eq_true, if_false, if_true]

theorem flashRead_lands (hpage : (s.rebuildPage r os).pageRead os r.locs = (u, false)) {again : Bool}
    (hagain : again = (r.locs.zip (os ++ List.replicate r.locs.length (.hard 0 0))).any (fun x => s.rebuilt x.1 x.2)) {v : State}
    (hv : v = if again || r.heal then (u.dropRead rid).bump (pg pfsPage + 0x18C) else u.dropRead rid) :
    exec (.flashRead rid os) s = .next (if (v.psetAt r.pset).level < 2 then v else v.cacheAdd r.pset r.page) := by
  subst hv hagain
  simp only [exec_flashRead, execFlashRead, hread, hstarted, hpage, Bool.not_true, Bool.false_eq_true, if_false]

end

/-- A page that the T1 cache has room for lands in it, and no other page is dropped (01 R24). -/
theorem cacheAdd_fits {s : State} {i p : Nat} (hnew : s.cached i p = false)
    (hroom : (((s.pfs.cache ++ [(⟨i, p⟩ : Cached)]).filter (fun c => (s.moveOf c.pset).isNone)).map
      (fun c => (s.psetAt c.pset).pageSize)).sum ≤ s.cacheMax) :
    s.cacheAdd i p = { s with pfs := { s.pfs with cache := s.pfs.cache ++ [{ pset := i, page := p }] } } := by
  simp only [State.cacheAdd, hnew, Bool.false_eq_true, if_false, List.length_append, List.length_singleton]
  exact if_pos hroom

/-! ### Reads that are abandoned (07 R258) -/

theorem exec_t2ReadTimeout (rid t : Nat) (s : State) : exec (.t2ReadTimeout rid t) s = execT2ReadTimeout rid t s := rfl

theorem read_atTime (s : State) (t rid : Nat) : (s.at_ t).read_ rid = s.read_ rid := rfl

theorem t2ReadTimeout_cases {s : State} {rid : Nat} {r : T2Read} (hread : s.read_ rid = some r) (t : Nat) :
    exec (.t2ReadTimeout rid t) s = .next (if r.issuedAt + s.cfgFld (pg pfsPage + 0x110) 0 24 * 1000 ≤ max s.clk t then
      (((s.at_ t).count pfsPage 0x188 1).dropRead rid).pageFailed r.pset r.page .timeout else s.at_ t) := by
  simp only [exec_t2ReadTimeout, execT2ReadTimeout, read_atTime, hread]
  rfl

/-! ### Uncorrectable reads of T0 and T1 (07 R259) -/

theorem exec_t1UncorrectableRead (tier p page : Nat) (s : State) :
    exec (.t1UncorrectableRead tier p page) s = execT1UncorrectableRead tier p page s := rfl

/-- A page that is read in a tier: it is one of its page set's, whose copy there is whole or, in T1, has the page in the cache. -/
def State.readableIn (s : State) (tier p page : Nat) : Bool :=
  decide (tier < 2) && decide (page < (s.psetAt p).pages) && ((s.psetAt p).has tier || (decide (tier = 1) && s.cached p page))

theorem not_readableIn {s : State} {tier p page : Nat} : s.readableIn tier p page = false ↔
    2 ≤ tier ∨ !((s.psetAt p).has tier || (decide (tier = 1) && s.cached p page)) ∨ (s.psetAt p).pages ≤ page := by
  simp only [State.readableIn, Bool.and_eq_false_iff, decide_eq_false_iff_not, not_lt, Bool.not_eq_true']
  tauto

theorem t1UncorrectableRead_elsewhere {s : State} {tier p page : Nat} (h : s.readableIn tier p page = false) :
    exec (.t1UncorrectableRead tier p page) s = .next s := by
  simp only [exec_t1UncorrectableRead, execT1UncorrectableRead, if_pos (not_readableIn.1 h)]

theorem t1UncorrectableRead_heals {s : State} {tier p page : Nat} (h : s.readableIn tier p page = true) {unit : Nat} {w u : State}
    (hunit : unit = if tier = 0 then Config.freeNat s.fresh.1 % 4 else s.fresh.2.stackOf p page)
    (hw : w = s.fresh.2.rasRecord 0x19 0x04 1 unit (psHandle (s.psetAt p).gen p * 2 ^ 32 + page * 2 ^ 21))
    (hu : u = if tier = 0 ∧ (s.psetAt p).t1 = true then w.bump (pg pfsPage + 0x18C) else if (s.psetAt p).t2 = true then w.healPage p page
      else if (s.psetAt p).rstate ≠ .published then w.losePages p [page] else (w.lostPage p page).pageFailed p page .poison) :
    exec (.t1UncorrectableRead tier p page) s = .next (if tier = 1 then u.stackUe unit (p * 2 ^ 11 + page) else u) := by
  subst hu hw hunit
  simp only [exec_t1UncorrectableRead, execT1UncorrectableRead,
    if_neg (fun hn => Bool.false_ne_true ((not_readableIn.2 hn).symm.trans h))]

/-- Settles O17: a channel by its rows in turn, a read by the die that it needs and by its outcome, a timeout by its time, and an
uncorrectable page by the copies that it has left. -/
theorem lowerTierReadsLandOrEnd : Obligations.LowerTierReadsLandOrEnd := by
  unfold Obligations.LowerTierReadsLandOrEnd
  refine ⟨fun s ch => ?rows, fun s r die hdie => ?start, fun s rid os => ?returns, fun s i p => cacheAdd_fits,
    fun s rid t r hread => ?timeout, fun s tier p page v hv here hhere => ?uncorrectable⟩
  case rows =>
    refine ⟨fun w => flashOpStart_ring, fun hring => ⟨fun w => flashOpStart_foreground hring, fun w => flashOpStart_urgent hring,
      fun hurgent => ⟨fun w => flashOpStart_reloc hring hurgent, fun hreloc => ⟨fun w => flashOpStart_ahead hring hurgent hreloc,
        fun hahead => ⟨fun w => flashOpStart_data hring hurgent hreloc hahead, fun hdata =>
          ⟨flashOpStart_noSlack hring hurgent hreloc hahead hdata, fun hslack => ?_⟩⟩⟩⟩⟩⟩
    rw [flashOpStart_slack hring hurgent hreloc hahead hdata hslack]
    refine ⟨fun w h6 => ?_, fun h6 => ⟨fun w h7 => ?_, fun h7 => ?_⟩⟩
    · rw [h6, Option.some_or, Option.getD_some]
    · rw [h6, h7, Option.none_or, Option.getD_some]
    · rw [h6, h7, Option.none_or, Option.getD_none]
  case start =>
    subst hdie
    refine ⟨readOn_idle, fun b hb may hmay => ?_⟩
    subst hmay
    exact ⟨readOn_busy hb, readOn_suspends hb⟩
  case returns =>
    refine ⟨fun h => flashRead_unknown h os, fun r hread => ⟨flashRead_notStarted hread,
      fun again u lost hstarted hagain hpage => ⟨fun hlost => ?_, fun hlost v hv => ?_⟩⟩⟩
    · exact flashRead_lost hread hstarted (hlost ▸ hpage)
    · exact flashRead_lands hread hstarted (hlost ▸ hpage) hagain hv
  case timeout =>
    rw [t2ReadTimeout_cases hread]
    exact ⟨fun hdue => congrArg _ (if_pos hdue), fun hearly => congrArg _ (if_neg (not_le.2 hearly))⟩
  case uncorrectable =>
    subst hv hhere
    exact ⟨t1UncorrectableRead_elsewhere, fun h unit w u => t1UncorrectableRead_heals h⟩

end Sys2Proof.Machine

/-! The flash tables (10 R344, R356): what journaling, counting, a failing die and a page read leave of superblocks and streams. -/

namespace Sys2Proof.Machine

/-! ### Notes and records -/

theorem RasOnly.flm {s t : State} (h : RasOnly s t) : t.flm = s.flm := by rw [h]

@[simp] theorem State.raise_flm (s : State) (p i : Nat) : (s.raise p i).flm = s.flm := (rasOnly_raise s p i).flm

@[simp] theorem State.count_flm (s : State) (p o i : Nat) : (s.count p o i).flm = s.flm := (rasOnly_count s p o i).flm

@[simp] theorem State.rasRecord_flm (s : State) (page cause cls unit info : Nat) : (s.rasRecord page cause cls unit info).flm = s.flm :=
  (rasOnly_rasRecord s page cause cls unit info).flm

@[simp] theorem State.bump64_flm (s : State) (a n : Nat) : (s.bump64 a n).flm = s.flm := rfl

/-- `g` has the superblocks, the streams and the dies of `f`. -/
def Flm.SameTables (f g : Flm) : Prop := g.sb = f.sb ∧ g.stream = f.stream ∧ g.die = f.die

namespace Flm.SameTables
variable {f g h : Flm}

theorem refl (f : Flm) : SameTables f f := ⟨rfl, rfl, rfl⟩

theorem of_eq (e : g = f) : SameTables f g := e ▸ refl f

theorem trans (a : SameTables f g) (b : SameTables g h) : SameTables f h :=
  ⟨b.1.trans a.1, b.2.1.trans a.2.1, b.2.2.trans a.2.2⟩

theorem foldl {α : Type} {F : Flm → α → Flm} (step : ∀ f x, SameTables f (F f x)) (l : List α) (f : Flm) : SameTables f (l.foldl F f) :=
  List.foldlRecOn l F (refl f) fun g hg x _ => hg.trans (step g x)

theorem sbAt (a : SameTables f g) (n : Nat) : g.sbAt n = f.sbAt n := congrArg (sget · Sb.free n) a.1

end Flm.SameTables

open Flm (SameTables)

theorem sameTables_jclose (f : Flm) : SameTables f f.jclose := by
  unfold Flm.jclose
  split <;> exact ⟨rfl, rfl, rfl⟩

theorem sameTables_jroom (f : Flm) (b : JBody) : SameTables f (f.jroom b) := by
  unfold Flm.jroom
  split
  · exact sameTables_jclose f
  · exact .refl f

theorem sameTables_jput (f : Flm) (now : Nat) (b : JBody) : SameTables f (f.jput now b) := by
  unfold Flm.jput
  dsimp only
  split
  · exact (sameTables_jroom f b).trans (sameTables_jclose _)
  · exact sameTables_jroom f b

/-- A record in the journal is no matter of the tables. -/
theorem sameTables_journal (s : State) (b : JBody) : SameTables s.flm (s.journal b).flm := by
  unfold State.journal
  dsimp only
  split
  · exact ⟨rfl, rfl, rfl⟩
  · exact sameTables_jput _ _ _

theorem sameTables_journalSb (s : State) (n : Nat) (st : SbState) : SameTables s.flm (s.journalSb n st).flm := sameTables_journal s _

theorem sameTables_spareCheck (s : State) : SameTables s.flm s.spareCheck.flm := by
  have hcrit : ∀ (u : State) (c : Prop) [Decidable c], u.flm = s.flm →
      SameTables s.flm (if c then ({ u with flm := { u.flm with readOnly := true } }).raise flmPage 7 else u).flm := by
    intro u c _ hu
    split
    · rw [State.raise_flm]
      exact hu ▸ ⟨rfl, rfl, rfl⟩
    · exact .of_eq hu
  unfold State.spareCheck
  dsimp only
  by_cases hnone : s.flm.die = []
  · rw [if_pos hnone]
    exact .refl _
  · rw [if_neg hnone]
    refine hcrit _ _ ?_
    split
    · exact s.raise_flm _ _
    · rfl

theorem sameTables_newExport (s : State) : SameTables s.flm s.newExport.flm := by
  unfold State.newExport
  dsimp only
  split
  · exact .refl _
  · split
    · rw [State.raise_flm]
      exact ⟨rfl, rfl, rfl⟩
    · exact ⟨rfl, rfl, rfl⟩

theorem sameTables_fgEnd (f : Flm) (clk ch : Nat) : SameTables f (f.fgEnd clk ch) := by
  unfold Flm.fgEnd
  split <;> exact ⟨rfl, rfl, rfl⟩

/-- The end of a segment's programs frees dies; it is no matter of the tables. -/
theorem sameTables_progEnd (s : State) (half : Nat) : SameTables s.flm (s.progEnd half).flm := by
  unfold State.progEnd
  dsimp only
  generalize (List.range 32).map (fun k => 32 * half + k) = chs
  exact SameTables.trans (SameTables.foldl (fun f ch => sameTables_fgEnd f s.clk ch) chs s.flm) ⟨rfl, rfl, rfl⟩

/-! ### Superblocks written -/

theorem sbAt_updSb_ne (f : Flm) {n m : Nat} (g : Sb → Sb) (h : n ≠ m) : (f.updSb m g).sbAt n = f.sbAt n := sget_sset_ne _ h

theorem sbAt_updSb_new {f : Flm} {n : Nat} {g : Sb → Sb} (h : g (f.sbAt n) ≠ Sb.free) : (f.updSb n g).sbAt n = g (f.sbAt n) :=
  sget_sset_new n h

theorem sbAt_updSb_self {f : Flm} (h : f.sb.rising) (n : Nat) (g : Sb → Sb) : (f.updSb n g).sbAt n = g (f.sbAt n) :=
  sget_sset_self _ n _ h

/-- The table lists superblock `n`, which has `k` protected segments. -/
def Flm.Holds (f : Flm) (n k : Nat) : Prop := f.sbAt n ≠ Sb.free ∧ (f.sbAt n).segs = k

theorem Flm.SameTables.holds {f g : Flm} {n k : Nat} (h : SameTables f g) (hf : f.Holds n k) : g.Holds n k := by
  unfold Flm.Holds
  rwa [h.sbAt]

/-- A change of any superblock that keeps the listed ones listed, with their segments. -/
theorem holds_updSb {f : Flm} {n k : Nat} (m : Nat) {g : Sb → Sb} (hg : ∀ b, b ≠ Sb.free → g b ≠ Sb.free ∧ (g b).segs = b.segs)
    (h : f.Holds n k) : (f.updSb m g).Holds n k := by
  obtain ⟨hlisted, hsegs⟩ := h
  unfold Flm.Holds
  by_cases hm : n = m
  · subst hm
    rw [sbAt_updSb_new (hg _ hlisted).1]
    exact ⟨(hg _ hlisted).1, (hg _ hlisted).2.trans hsegs⟩
  · rw [sbAt_updSb_ne f g hm]
    exact ⟨hlisted, hsegs⟩

theorem ne_free_of_st {b : Sb} (h : b.st ≠ .free) : b ≠ Sb.free := fun e => h (e ▸ rfl)

theorem ne_free_of_segs {b : Sb} (h : b.segs ≠ 0) : b ≠ Sb.free := fun e => h (e ▸ rfl)

theorem ne_free_of_blocks {b : Sb} (h : b.blocks ≠ []) : b ≠ Sb.free := fun e => h (e ▸ rfl)

theorem holds_scheduleRewrite {s : State} {n k : Nat} (m : Nat) (h : s.flm.Holds n k) : (s.scheduleRewrite m).flm.Holds n k := by
  refine holds_updSb m (fun b hb => ?_) h
  split
  · exact ⟨hb, rfl⟩
  · rename_i hst
    exact ⟨ne_free_of_st (not_or.1 hst).1, rfl⟩

/-- A page read counts for its block; it closes or frees no superblock. -/
theorem holds_noteRead {s : State} {n k : Nat} (m pos c : Nat) (h : s.flm.Holds n k) : (s.noteRead m pos c).flm.Holds n k := by
  unfold State.noteRead
  dsimp only
  rw [State.bump64_flm]
  have hread : (s.flm.updSb m (fun b => if b.st = SbState.free then b else
      { b with reads := sset b.reads 0 pos (sget b.reads 0 pos + c) })).Holds n k := by
    refine holds_updSb m (fun b hb => ?_) h
    split
    · exact ⟨hb, rfl⟩
    · rename_i hst
      exact ⟨ne_free_of_st hst, rfl⟩
  split
  · exact holds_scheduleRewrite m hread
  · exact hread

theorem noteRead_stream (s : State) (m pos c : Nat) : (s.noteRead m pos c).flm.stream = s.flm.stream := by
  unfold State.noteRead
  dsimp only
  split <;> rfl

/-! ### Dies that fail (10 R376) -/

/-- What the values of a table show stays when each is replaced by one that shows the same. -/
theorem sget_map_shows {α β : Type} {f : Nat × α → Nat × α} {o : α → β} (hf : ∀ e, (f e).1 = e.1 ∧ o (f e).2 = o e.2) (d : α) (k : Nat) :
    ∀ l : Sparse α, o (sget (l.map f) d k) = o (sget l d k)
  | [] => rfl
  | e :: r => by
    obtain ⟨hkey, hval⟩ := hf e
    obtain ⟨k', v⟩ := e
    by_cases hk : k = k'
    · simp only [List.map_cons, sget, hkey, hk, if_true, hval]
    · simp only [List.map_cons, sget, hkey, hk, if_false, sget_map_shows hf d k r]

/-- From `f` to `g` superblocks keep their protected segments, streams what they have queued, and the table its order. -/
def Flm.KeepsData (f g : Flm) : Prop :=
  (∀ n, (g.sbAt n).segs = (f.sbAt n).segs) ∧ (∀ k, (sget g.stream Stream.none k).queue = (sget f.stream Stream.none k).queue) ∧
    (f.sb.rising → g.sb.rising)

namespace Flm.KeepsData
variable {f g h : Flm}

theorem trans (a : KeepsData f g) (b : KeepsData g h) : KeepsData f h :=
  ⟨fun n => (b.1 n).trans (a.1 n), fun k => (b.2.1 k).trans (a.2.1 k), fun hr => b.2.2 (a.2.2 hr)⟩

theorem rising (a : KeepsData f g) (hf : f.sb.rising) : g.sb.rising := a.2.2 hf

theorem foldl {α : Type} {F : State → α → State} (step : ∀ s x, KeepsData s.flm (F s x).flm) (l : List α) (s : State) :
    KeepsData s.flm (l.foldl F s).flm :=
  List.foldlRecOn l F (motive := fun t => KeepsData s.flm t.flm) ⟨fun _ => rfl, fun _ => rfl, id⟩ fun t ht x _ => ht.trans (step t x)

end Flm.KeepsData

open Flm (KeepsData)

theorem Flm.SameTables.keepsData {f g : Flm} (h : SameTables f g) : KeepsData f g :=
  ⟨fun n => by rw [h.sbAt], fun k => by rw [h.2.1], fun hr => by rw [h.1]; exact hr⟩

theorem keepsData_of_maps {f g : Flm} {b : Nat × Sb → Nat × Sb} {q : Nat × Stream → Nat × Stream} (hsb : g.sb = f.sb.map b)
    (hb : ∀ e, (b e).1 = e.1 ∧ (b e).2.segs = e.2.segs) (hstream : g.stream = f.stream.map q)
    (hq : ∀ e, (q e).1 = e.1 ∧ (q e).2.queue = e.2.queue) : KeepsData f g := by
  refine ⟨fun n => ?_, fun k => ?_, fun hr => ?_⟩
  · unfold Flm.sbAt
    rw [hsb]
    exact sget_map_shows (o := Sb.segs) hb _ n f.sb
  · rw [hstream]
    exact sget_map_shows (o := Stream.queue) hq _ k f.stream
  · rw [hsb]
    exact rising_map b (fun e => (hb e).1) hr

theorem hurt_segs (b : Sb) (pos c : Nat) : (b.hurt pos c).segs = b.segs := by
  unfold Sb.hurt
  split
  · rfl
  · split <;> rfl

theorem dieFails_dead {s : State} {die : Nat} (h : (sget s.flm.die Die.absent die).st ≠ .live) : s.dieFails die = s := if_pos h

/-- A failing die is FAILED; of the superblocks and streams it leaves the segments and the queues. -/
theorem dieFails_live {s : State} {die : Nat} (h : (sget s.flm.die Die.absent die).st = .live) : KeepsData s.flm (s.dieFails die).flm ∧
    (s.dieFails die).flm.die = (s.flm.updDie die (fun d => { d with st := .failed })).die := by
  unfold State.dieFails
  dsimp only
  rw [if_neg (not_not.2 h)]
  generalize hv : State.journal _ (.dieState die .failed) = v
  have hjournal : SameTables (s.flm.updDie die (fun d => { d with st := .failed })) v.flm := hv ▸ sameTables_journal _ _
  generalize hw : State.rasRecord _ _ _ _ _ _ = w
  have hend := (sameTables_newExport w).trans (sameTables_spareCheck w.newExport)
  have hw' := congrArg State.flm hw
  rw [State.rasRecord_flm, State.raise_flm, State.bump_flm] at hw'
  refine ⟨KeepsData.trans ?_ hend.keepsData, hend.2.2.trans ?_⟩
  · rw [← hw']
    refine KeepsData.trans hjournal.keepsData (keepsData_of_maps rfl (fun e => ?_) rfl fun e => ?_)
    · split
      · exact ⟨rfl, hurt_segs _ _ _⟩
      · exact ⟨rfl, rfl⟩
    · split <;> exact ⟨rfl, rfl⟩
  · rw [← hw']
    exact hjournal.2.2

theorem keepsData_dieFails (s : State) (die : Nat) : KeepsData s.flm (s.dieFails die).flm := by
  by_cases h : (sget s.flm.die Die.absent die).st = .live
  · exact (dieFails_live h).1
  · rw [dieFails_dead h]
    exact (SameTables.refl _).keepsData

theorem keepsData_blockResult (s : State) (die block : Nat) (ok : Bool) : KeepsData s.flm (s.blockResult die block ok).flm := by
  have hfull : ∀ (u : State) (c : Prop) [Decidable c], KeepsData s.flm u.flm → KeepsData s.flm (if c then u.dieFails die else u).flm := by
    intro u c _ hu
    split
    · exact hu.trans (keepsData_dieFails u die)
    · exact hu
  exact hfull _ _ ⟨fun _ => rfl, fun _ => rfl, id⟩

end Sys2Proof.Machine

/-! Programming and the journal (10 R357 to R360, R364, R366): segments that are flushed, wait for credit, pass or fail, and the records
that become durable. -/

namespace Sys2Proof.Machine

open Flm (SameTables KeepsData)

/-! ### Segments that are flushed (10 R358) -/

theorem exec_segmentFlush (k t : Nat) (s : State) : exec (.segmentFlush k t) s = execSegmentFlush k t s := rfl

theorem stream_atTime (s : State) (t k : Nat) : (s.at_ t).stream k = s.stream k := rfl

/-- The segment of stream `k` of which the first slot was queued at `t0` has waited SEGMENT_US at `t`. -/
def State.flushDue (s : State) (t t0 : Nat) : Prop := t0 + s.cfgFld (pg flmPage + 0x224) 0 16 * 1000 ≤ max s.clk t

section
variable {s : State} {k t : Nat}

theorem segmentFlush_empty (h : (s.stream k).since = none) : exec (.segmentFlush k t) s = .next (s.at_ t) := by
  simp only [exec_segmentFlush, execSegmentFlush, stream_atTime, h]

variable {t0 : Nat} (hsince : (s.stream k).since = some t0)
include hsince

theorem segmentFlush_waits (h : ¬ s.flushDue t t0 ∨ s.flm.readOnly = true) : exec (.segmentFlush k t) s = .next (s.at_ t) := by
  simp only [exec_segmentFlush, execSegmentFlush, stream_atTime, hsince]
  exact congrArg _ (if_pos (h.imp_left not_le.1))

variable (hdue : s.flushDue t t0) (hrw : s.flm.readOnly = false) {w : State} (hw : w = (s.at_ t).ensureSb k)
include hdue hrw hw

theorem segmentFlush_due : exec (.segmentFlush k t) s = .next (match (w.stream k).sb with
    | none => w
    | some n => if segData (w.flm.sbAt n) ≤ (w.stream k).queue.length then w
      else (w.setStream k { w.stream k with
        queue := (w.stream k).queue ++ List.replicate (segData (w.flm.sbAt n) - (w.stream k).queue.length) (padSlot w.clk),
        flushed := true }).bump (pg flmPage + 0x2EC)) := by
  subst hw
  simp only [exec_segmentFlush, execSegmentFlush, stream_atTime, hsince]
  exact congrArg _ (if_neg (not_or.2 ⟨not_lt.2 hdue, Bool.eq_false_iff.1 hrw⟩))

theorem segmentFlush_noSb (h : (w.stream k).sb = none) : exec (.segmentFlush k t) s = .next w := by
  simp only [segmentFlush_due hsince hdue hrw hw, h]

variable {n seg : Nat} (hsb : (w.stream k).sb = some n) (hseg : seg = segData (w.flm.sbAt n))
include hsb hseg

theorem segmentFlush_whole (h : seg ≤ (w.stream k).queue.length) : exec (.segmentFlush k t) s = .next w := by
  subst hseg
  simp only [segmentFlush_due hsince hdue hrw hw, hsb, if_pos h]

theorem segmentFlush_pads (h : (w.stream k).queue.length < seg) : exec (.segmentFlush k t) s =
    .next ((w.setStream k { w.stream k with
      queue := (w.stream k).queue ++ List.replicate (seg - (w.stream k).queue.length) (padSlot w.clk),
      flushed := true }).bump (pg flmPage + 0x2EC)) := by
  subst hseg
  simp only [segmentFlush_due hsince hdue hrw hw, hsb, if_neg (not_le.2 h)]

end

/-! ### Segments that wait for credit (10 R370, R372) -/

section
variable {s : State} {ch k : Nat} (hk : k = 3 * (ch / 32)) {first : Bool} (hfirst : first = decide (sget s.flm.prog 0 (ch / 32) = 0))
include hk hfirst

theorem progData_none (h : (first && s.dataShut k) = true ∨ s.progOn ch k false = none) : s.progData ch = none := by
  subst hk hfirst
  rw [Bool.and_eq_true, decide_eq_true_eq] at h
  unfold State.progData
  dsimp only
  rcases h with hshut | hnone
  · exact if_pos hshut
  · rw [hnone]
    exact ite_self _

variable {w : State} (hopen : (first && s.dataShut k) = false) (hon : s.progOn ch k false = some w)
include hopen hon

theorem progData_starts (h : (first && s.creditShort k) = false) : s.progData ch = some w := by
  subst hk hfirst
  rw [Bool.and_eq_false_iff, decide_eq_false_iff_not, ← Bool.not_eq_true, ← not_and_or] at h hopen
  simp only [State.progData, if_neg hopen, hon, if_neg h]

theorem progData_short (h : (first && s.creditShort k) = true) : s.progData ch =
    if (w.stream k).short then none else some ((s.setStream k { s.stream k with short := true }).bump (pg flmPage + 0x2DC)) := by
  subst hk hfirst
  rw [Bool.and_eq_true, decide_eq_true_eq] at h
  rw [Bool.and_eq_false_iff, decide_eq_false_iff_not, ← Bool.not_eq_true, ← not_and_or] at hopen
  simp only [State.progData, if_neg hopen, hon, if_pos h]

end

/-! ### What a program leaves of superblocks and streams (10 R357, R359) -/

theorem stream_setStream_new (s : State) (k : Nat) {v : Stream} (h : v ≠ Stream.none) : (s.setStream k v).stream k = v :=
  sget_sset_new k h

theorem ne_none_of_queue {v : Stream} (h : v.queue ≠ []) : v ≠ Stream.none := fun e => h (e ▸ rfl)

/-- Counting changes no table. -/
theorem foldl_flm {α : Type} {F : State → α → State} (step : ∀ s x, (F s x).flm = s.flm) (l : List α) (s : State) :
    (l.foldl F s).flm = s.flm := foldl_keeps (g := State.flm) step l s

theorem countPrograms_flm (s : State) (n : Nat) : (s.countPrograms n).flm = s.flm := by
  unfold State.countPrograms
  exact foldl_flm (by intros; rfl) _ s

theorem holds_countBack {s : State} {n k : Nat} (m : Nat) (h : s.flm.Holds n k) : (s.countBack m).flm.Holds n k := by
  unfold State.countBack
  exact List.foldlRecOn (motive := fun t : State => t.flm.Holds n k) _ _ h fun _ ht b _ => holds_noteRead m b.1 48 ht

theorem countBack_stream (s : State) (n : Nat) : (s.countBack n).flm.stream = s.flm.stream := by
  unfold State.countBack
  exact foldl_keeps (g := fun s => s.flm.stream) (f := fun s (b : Nat × Nat) => s.noteRead n b.1 48) (fun s b => noteRead_stream s n b.1 48) _ s

theorem keepsData_programResults (s : State) (n : Nat) (bad : List Nat) : KeepsData s.flm (s.programResults n bad).flm := by
  unfold State.programResults
  exact KeepsData.foldl (fun s b => keepsData_blockResult s _ _ _) _ s

theorem sameTables_footAdd (s : State) (h n : Nat) : SameTables s.flm (s.footAdd h n).flm := by
  unfold State.footAdd
  dsimp only
  split <;> exact ⟨rfl, rfl, rfl⟩

theorem sameTables_commitRecord (s : State) (h : Nat) (rest : List WSlot) : SameTables s.flm (s.commitRecord h rest).flm := by
  unfold State.commitRecord
  split
  · exact .refl _
  · split
    · exact .refl _
    · split
      · exact .refl _
      · exact SameTables.trans ⟨rfl, rfl, rfl⟩ (sameTables_journal _ _)

section
variable {n k : Nat}

theorem holds_oldRead {s : State} (h : s.flm.Holds n k) (old : Option Loc) :
    (match old with
      | some l => s.noteRead l.sb (s.flm.slotPos l) 1
      | none => s).flm.Holds n k := by
  cases old with
  | none => exact h
  | some l => exact holds_noteRead _ _ _ h

theorem holds_unitRecord {s : State} (hs : s.flm.Holds n k) (h : Nat) (rest : List WSlot) (narrow last : Prop) [Decidable narrow]
    [Decidable last] (stip broad : JBody) :
    (if narrow then (s.commitRecord h rest).journal stip
      else if last then (s.commitRecord h rest).journal broad else s).flm.Holds n k := by
  have hrec : ∀ b, ((s.commitRecord h rest).journal b).flm.Holds n k := fun b =>
    (sameTables_journal _ b).holds ((sameTables_commitRecord s h rest).holds hs)
  split
  · exact hrec stip
  · split
    · exact hrec broad
    · exact hs

/-- The map records of a segment count the reads of what it relocates; no superblock gains or loses a segment. -/
theorem holds_mapRecords (m : Nat) : ∀ (ws : List WSlot) {s : State} (j : Nat), s.flm.Holds n k → (s.mapRecords m j ws).flm.Holds n k
  | [], _, _, h => h
  | w :: r, s, j, h => by
    unfold State.mapRecords
    refine holds_mapRecords m r (j + 1) ?_
    rcases w.what with _ | ⟨c, a⟩
    · exact h
    · dsimp only
      by_cases hhas : (!s.t2Has c a) = true
      · rw [if_pos hhas]
        exact h
      · rw [if_neg hhas]
        exact holds_unitRecord (holds_oldRead ((sameTables_footAdd s c m).holds h) _) _ _ _ _ _ _

end

theorem sameTables_writeMedia (s : State) (n seg : Nat) (ws : List WSlot) : SameTables s.flm (s.writeMedia n seg ws).flm := by
  unfold State.writeMedia
  dsimp only
  exact ⟨rfl, rfl, rfl⟩

/-- The slots that a stream's segment in superblock `n` takes, with its credit, its counts and its pages (10 R357, R372). -/
def State.segWritten (s : State) (k n : Nat) : State :=
  let now := (s.stream k).queue.take (segData (s.flm.sbAt n))
  let s' := if k % 3 = 0 ∧ s.takesCredit then
    { s with flm := { s.flm with credit := s.flm.credit - 256 * (now.filter (fun w => w.what.isSome)).length } } else s
  (((s'.countPrograms n).countBack n).programResults n []).writeMedia n (s.flm.sbAt n).segs now

/-- One segment more of superblock `n` is protected. -/
def State.segAdded (s : State) (n : Nat) : State :=
  { s with flm := s.flm.updSb n (fun x => { x with segs := x.segs + 1, lastSeq := s.flm.jseq }) }

/-- A superblock is closed, the next in closing order. -/
def State.closeSb (s : State) (n : Nat) : State :=
  State.journalSb { s with flm := { s.flm.updSb n (fun x => { x with st := .closed, closedAt := s.flm.closes }) with
    closes := s.flm.closes + 1 } } n .closed

theorem programOk_eq (s : State) (k n : Nat) : s.programOk k n =
    let full := decide ((s.flm.sbAt n).segs + 1 = s.flm.segsOf (s.flm.sbAt n))
    let v := ((s.segWritten k n).segAdded n).setStream k
      { sb := if full then none else some n, queue := (s.stream k).queue.drop (segData (s.flm.sbAt n)), flushed := false, short := false }
    (if full then v.closeSb n else v).mapRecords n ((s.flm.sbAt n).segs * segData (s.flm.sbAt n))
      ((s.stream k).queue.take (segData (s.flm.sbAt n))) := rfl

theorem segWritten_segs {s : State} {n : Nat} (k : Nat) (hn : s.flm.sbAt n ≠ Sb.free) :
    ((s.segWritten k n).flm.sbAt n).segs = (s.flm.sbAt n).segs := by
  unfold State.segWritten
  dsimp only
  generalize hc : (if k % 3 = 0 ∧ s.takesCredit = true then _ else s : State) = c
  have hcredit : c.flm.sbAt n = s.flm.sbAt n := by
    rw [← hc]
    split <;> rfl
  have hcount : ((c.countPrograms n).countBack n).flm.Holds n (s.flm.sbAt n).segs := by
    refine holds_countBack n ?_
    rw [countPrograms_flm]
    unfold Flm.Holds
    rw [hcredit]
    exact ⟨hn, rfl⟩
  rw [(sameTables_writeMedia _ _ _ _).sbAt, (keepsData_programResults _ n []).1 n, hcount.2]

theorem holds_segAdded (s : State) (n : Nat) : (s.segAdded n).flm.Holds n ((s.flm.sbAt n).segs + 1) := by
  have hne : ({ s.flm.sbAt n with segs := (s.flm.sbAt n).segs + 1, lastSeq := s.flm.jseq } : Sb) ≠ Sb.free :=
    ne_free_of_segs (Nat.succ_ne_zero _)
  unfold Flm.Holds State.segAdded
  rw [sbAt_updSb_new hne]
  exact ⟨hne, rfl⟩

theorem holds_closeSb {s : State} {n k : Nat} (m : Nat) (h : s.flm.Holds n k) : (s.closeSb m).flm.Holds n k := by
  have hclosed : (s.flm.updSb m (fun x => { x with st := .closed, closedAt := s.flm.closes })).Holds n k :=
    holds_updSb m (fun b _ => ⟨ne_free_of_st (fun e => SbState.noConfusion e), rfl⟩) h
  exact (sameTables_journalSb _ m .closed).holds hclosed

theorem holds_setStream {s : State} {n j : Nat} (h : s.flm.Holds n j) (k : Nat) (v : Stream) : (s.setStream k v).flm.Holds n j := h

/-- A segment that is protected is one more of its superblock's (10 R357). -/
theorem programOk_segs {s : State} {n : Nat} (k : Nat) (hn : s.flm.sbAt n ≠ Sb.free) :
    ((s.programOk k n).flm.sbAt n).segs = (s.flm.sbAt n).segs + 1 := by
  rw [programOk_eq, ← segWritten_segs k hn]
  dsimp only
  have hmore := fun v => holds_setStream (holds_segAdded (s.segWritten k n) n) k v
  refine (holds_mapRecords n _ _ ?_).2
  split
  · exact holds_closeSb n (hmore _)
  · exact hmore _

/-- The programs, and where all of them passed the read-back, of a segment that fails, counted. -/
def State.failCounted (s : State) (n : Nat) (bad : List Nat) : State :=
  if bad = [] then (s.countPrograms n).countBack n else s.countPrograms n

theorem failCounted_stream (s : State) (n : Nat) (bad : List Nat) : (s.failCounted n bad).flm.stream = s.flm.stream := by
  unfold State.failCounted
  split
  · rw [countBack_stream, countPrograms_flm]
  · rw [countPrograms_flm]

/-- The superblock of a segment that fails is closed, and the positions that failed are noted (10 R359). -/
def State.sbFailed (s : State) (n : Nat) (all : List Nat) : State :=
  { s with flm := { s.flm.updSb n (fun x =>
    { x with st := .closed, closedAt := s.flm.closes, badPos := (x.badPos ++ all).dedup }) with closes := s.flm.closes + 1 } }

theorem programFail_eq (s : State) (k n : Nat) (bad back : List Nat) : s.programFail k n bad back =
    let v := (s.failCounted n bad).sbFailed n (bad ++ back).dedup
    ((bad ++ back).dedup.foldl (fun s p => s.count (chPage (dieChannel (n / 8192) p)) 0x19C 3)
      ((v.journalSb n .closed).setStream k { v.stream k with sb := none, flushed := false })).programResults n bad := rfl

/-- The data of a failed program stays queued (10 R359). -/
theorem programFail_queue {s : State} {k : Nat} (hq : (s.stream k).queue ≠ []) (n : Nat) (bad back : List Nat) :
    ((s.programFail k n bad back).stream k).queue = (s.stream k).queue := by
  rw [programFail_eq]
  dsimp only
  have hv : ((s.failCounted n bad).sbFailed n (bad ++ back).dedup).stream k = s.stream k :=
    congrArg (sget · Stream.none k) (failCounted_stream s n bad)
  rw [hv]
  refine ((keepsData_programResults _ n bad).2.1 k).trans ?_
  rw [foldl_flm (by intro s p; exact s.count_flm _ _ _)]
  have hset := fun u : State => stream_setStream_new u k (v := { s.stream k with sb := none, flushed := false }) (ne_none_of_queue hq)
  exact (congrArg Stream.queue (hset _)).trans rfl

/-! ### Segments whose program ends (10 R357, R359) -/

theorem exec_segmentProgrammed (k : Nat) (x : SegResult) (s : State) :
    exec (.segmentProgrammed k x) s = execSegmentProgrammed k x s := rfl

theorem segmentProgrammed_other {s : State} {k : Nat} (h : sget s.flm.prog 0 (k / 3) ≠ k + 1) (x : SegResult) :
    exec (.segmentProgrammed k x) s = .next s := by
  simp only [exec_segmentProgrammed, execSegmentProgrammed, if_pos h]

section
variable {s : State} {k : Nat} {x : SegResult} (hprog : sget s.flm.prog 0 (k / 3) = k + 1) {w : State} (hw : w = s.ensureSb k)
include hprog hw

theorem segmentProgrammed_noSb (h : (w.stream k).sb = none) : exec (.segmentProgrammed k x) s = .next w := by
  subst hw
  simp only [exec_segmentProgrammed, execSegmentProgrammed, if_neg (not_not.2 hprog), h]

variable {n seg : Nat} (hsb : (w.stream k).sb = some n) (hseg : seg = segData (w.flm.sbAt n))
include hsb hseg

theorem segmentProgrammed_givenUp (h : (w.stream k).queue.length < seg ∨ seg = 0 ∨ w.flm.readOnly = true) :
    exec (.segmentProgrammed k x) s = .next (w.progEnd (k / 3)) := by
  subst hw hseg
  simp only [exec_segmentProgrammed, execSegmentProgrammed, if_neg (not_not.2 hprog), hsb, if_pos h]

variable (hwhole : seg ≤ (w.stream k).queue.length) (hsome : 0 < seg) (hrw : w.flm.readOnly = false)
include hwhole hsome hrw

theorem segmentProgrammed_cases : exec (.segmentProgrammed k x) s = .next (
    if !w.segStarted k n then w
    else if x.failed = [] ∧ w.backFails x.back = [] then ((w.progEnd (k / 3)).programOk k n).flashSettle w
    else ((w.progEnd (k / 3)).programFail k n x.failed (w.backFails x.back)).flashSettle w) := by
  subst hw hseg
  have hgo : ¬ ((((s.ensureSb k).stream k).queue.length < segData ((s.ensureSb k).flm.sbAt n)) ∨
      segData ((s.ensureSb k).flm.sbAt n) = 0 ∨ (s.ensureSb k).flm.readOnly = true) := by
    simp only [hrw, Bool.false_eq_true, or_false]
    omega
  simp only [exec_segmentProgrammed, execSegmentProgrammed, if_neg (not_not.2 hprog), hsb, if_neg hgo]

theorem segmentProgrammed_notStarted (h : w.segStarted k n = false) : exec (.segmentProgrammed k x) s = .next w := by
  rw [segmentProgrammed_cases hprog hw hsb hseg hwhole hsome hrw, h]
  rfl

variable (hstarted : w.segStarted k n = true)
include hstarted

theorem segmentProgrammed_passes (hfailed : x.failed = []) (hback : w.backFails x.back = []) {u : State} (hu : u = w.progEnd (k / 3)) :
    exec (.segmentProgrammed k x) s = .next ((u.programOk k n).flashSettle w) ∧
      ((u.programOk k n).flm.sbAt n).segs = (w.flm.sbAt n).segs + 1 := by
  subst hu
  have hn : w.flm.sbAt n ≠ Sb.free := fun e => by
    rw [hseg, e] at hsome
    exact absurd hsome (by decide)
  have hend := (sameTables_progEnd w (k / 3)).sbAt n
  refine ⟨?_, ?_⟩
  · rw [segmentProgrammed_cases hprog hw hsb hseg hwhole hsome hrw, hstarted, Bool.not_true, if_neg Bool.false_ne_true,
      if_pos ⟨hfailed, hback⟩]
  · exact (programOk_segs k (by rwa [hend])).trans (by rw [hend])

theorem segmentProgrammed_fails (h : x.failed ≠ [] ∨ w.backFails x.back ≠ []) {u : State} (hu : u = w.progEnd (k / 3)) :
    exec (.segmentProgrammed k x) s = .next ((u.programFail k n x.failed (w.backFails x.back)).flashSettle w) ∧
      ((u.programFail k n x.failed (w.backFails x.back)).stream k).queue = (w.stream k).queue := by
  subst hu
  have hend : (w.progEnd (k / 3)).stream k = w.stream k := congrArg (sget · Stream.none k) (sameTables_progEnd w (k / 3)).2.1
  have hq : (w.stream k).queue ≠ [] := List.ne_nil_of_length_pos (lt_of_lt_of_le hsome hwhole)
  refine ⟨?_, ?_⟩
  · rw [segmentProgrammed_cases hprog hw hsb hseg hwhole hsome hrw, hstarted, Bool.not_true, if_neg Bool.false_ne_true,
      if_neg (not_and_or.2 h)]
  · exact (programFail_queue (by rwa [hend]) n _ _).trans (by rw [hend])

end

/-! ### The journal (10 R360, R364) -/

theorem exec_journalFlush (t : Nat) (s : State) : exec (.journalFlush t) s = execJournalFlush t s := rfl

theorem journalFlush_noPage {s : State} (h : s.flm.jopenAt = none) (t : Nat) : exec (.journalFlush t) s = .next (s.at_ t) := by
  simp only [exec_journalFlush, execJournalFlush, State.atTime_flm, h]

theorem journalFlush_cases {s : State} {t0 : Nat} (h : s.flm.jopenAt = some t0) (t : Nat) : exec (.journalFlush t) s = .next (
    if t0 + s.cfgFld (pg flmPage + 0x224) 16 16 * 1000 ≤ max s.clk t then { s.at_ t with flm := s.flm.jclose } else s.at_ t) := by
  simp only [exec_journalFlush, execJournalFlush, State.atTime_flm, h]
  rfl

theorem exec_journalPageDurable (x : PageResult) (s : State) : exec (.journalPageDurable x) s = execJournalPageDurable x s := rfl

theorem journalPageDurable_none {s : State} (h : s.flm.jpages = []) (x : PageResult) : exec (.journalPageDurable x) s = .next s := by
  simp only [exec_journalPageDurable, execJournalPageDurable, h]

section
variable {s : State} {x : PageResult} {p : JPage} {r : List JPage} (hpages : s.flm.jpages = p :: r) {a b : Bool} {u v w : State}
  (ha : a = (!p.ok0 && x.first && s.flm.ringBusy p.n 0)) (hb : b = (!p.ok1 && x.second && s.flm.ringBusy p.n 1))
  (hu : u = if a then s.ringWrite p 0 else s) (hv : v = if b then u.ringWrite p 1 else u)
  (hw : w = { v with flm := (v.flm.ringFree p.n 0).ringFree p.n 1 })
include hpages ha hb hu hv hw

theorem journalPageDurable_cases : exec (.journalPageDurable x) s = .next (if (p.ok0 || a) && (p.ok1 || b) then
      ((p.recs.foldl (fun s x => s.applyRec x) ((State.jcount { w with flm := { w.flm with jpages := r } }).ringErase (p.n + 1))).flashSettle
        s).discardCheck
    else { w with flm := { w.flm with jpages := { p with ok0 := p.ok0 || a, ok1 := p.ok1 || b } :: r } }) := by
  subst hw hv hu ha hb
  simp only [exec_journalPageDurable, execJournalPageDurable, hpages]

theorem journalPageDurable_durable (h0 : (p.ok0 || a) = true) (h1 : (p.ok1 || b) = true) : exec (.journalPageDurable x) s = .next
    (((p.recs.foldl (fun s x => s.applyRec x) ((State.jcount { w with flm := { w.flm with jpages := r } }).ringErase (p.n + 1))).flashSettle
      s).discardCheck) := by
  rw [journalPageDurable_cases hpages ha hb hu hv hw, h0, h1]
  rfl

theorem journalPageDurable_waits (h : (p.ok0 || a) = false ∨ (p.ok1 || b) = false) : exec (.journalPageDurable x) s =
    .next { w with flm := { w.flm with jpages := { p with ok0 := p.ok0 || a, ok1 := p.ok1 || b } :: r } } := by
  rw [journalPageDurable_cases hpages ha hb hu hv hw, Bool.and_eq_false_iff.2 h]
  rfl

end

/-! ### Checkpoints (10 R366) -/

theorem exec_checkpoint (t : Nat) (s : State) : exec (.checkpoint t) s = execCheckpoint t s := rfl

theorem checkpoint_notDue {s : State} {t : Nat} (h : s.flm.ckptRun = true ∨ s.flashOn = false ∨ (s.at_ t).ckptDue = false) :
    exec (.checkpoint t) s = .next (s.at_ t) := by
  rw [← Bool.not_eq_true', ← Bool.not_eq_true' (s.at_ t).ckptDue] at h
  exact congrArg _ (if_pos h)

theorem checkpoint_due {s : State} {t : Nat} (hrun : s.flm.ckptRun = false) (hon : s.flashOn = true) (hdue : (s.at_ t).ckptDue = true)
    {n seq : Nat} (hn : n = s.flm.ckptN + 1) (hseq : seq = (s.flm.jroom (.ckptBegin n (n % 2))).jseq) :
    exec (.checkpoint t) s = .next ((State.journal
      { s.at_ t with flm := { s.flm.putArea (s.ckptImage n seq) with ckptRun := true, ckptAt := max s.clk t } }
      (.ckptBegin n (n % 2))).journal (.ckptEnd n seq)) := by
  subst hseq hn
  have hgo : ¬ ((s.at_ t).flm.ckptRun = true ∨ (!(s.at_ t).flashOn) = true ∨ (!(s.at_ t).ckptDue) = true) := by
    rw [hdue, show (s.at_ t).flashOn = true from hon, State.atTime_flm, hrun]
    decide
  exact congrArg _ (if_neg hgo)

/-- Settles O25: a flush, a start and an end of a segment by what its stream has queued, the journal by its pages' copies, and a
checkpoint by what makes it due. -/
theorem flashProgramsAndCommits : Obligations.FlashProgramsAndCommits := by
  unfold Obligations.FlashProgramsAndCommits
  refine ⟨fun s k t => ?flush, fun s ch k hk first hfirst => ?credit, fun s k x => ?program, fun s t => ?journal, fun s x => ?page,
    fun s t => ⟨checkpoint_notDue, fun hrun hon hdue n seq => checkpoint_due hrun hon hdue⟩⟩
  case flush =>
    refine ⟨segmentFlush_empty, fun t0 hsince => ⟨fun h => segmentFlush_waits hsince (h.imp_left not_le.2), fun hdue hrw w hw =>
      ⟨segmentFlush_noSb hsince hdue hrw hw, fun n seg hsb hseg => ?_⟩⟩⟩
    exact ⟨segmentFlush_whole hsince hdue hrw hw hsb hseg, segmentFlush_pads hsince hdue hrw hw hsb hseg⟩
  case credit =>
    exact ⟨progData_none hk hfirst, fun w hopen hon => ⟨progData_starts hk hfirst hopen hon, progData_short hk hfirst hopen hon⟩⟩
  case program =>
    refine ⟨fun h => segmentProgrammed_other h x, fun hprog w hw => ⟨segmentProgrammed_noSb hprog hw, fun n seg hsb hseg =>
      ⟨segmentProgrammed_givenUp hprog hw hsb hseg, fun hwhole hsome hrw =>
        ⟨segmentProgrammed_notStarted hprog hw hsb hseg hwhole hsome hrw, fun hstarted u hu => ⟨fun hfailed hback => ?_, fun h => ?_⟩⟩⟩⟩⟩
    · exact segmentProgrammed_passes hprog hw hsb hseg hwhole hsome hrw hstarted hfailed hback hu
    · exact segmentProgrammed_fails hprog hw hsb hseg hwhole hsome hrw hstarted h hu
  case journal =>
    refine ⟨fun h => journalFlush_noPage h t, fun t0 h => ?_⟩
    rw [journalFlush_cases h]
    exact ⟨fun hdue => congrArg _ (if_pos hdue), fun hearly => congrArg _ (if_neg (not_le.2 hearly))⟩
  case page =>
    exact ⟨fun h => journalPageDurable_none h x, fun p r hpages a b u v w ha hb hu hv hw =>
      ⟨journalPageDurable_durable hpages ha hb hu hv hw, journalPageDurable_waits hpages ha hb hu hv hw⟩⟩

end Sys2Proof.Machine

/-! Relocation, erases, scrubbing and failures of flash (10 R355, R361, R362, R370 to R376, R379): which superblock is vacated, what an
erase leaves of one, what a page read counts, and what a failed die or map line becomes. -/

namespace Sys2Proof.Machine

open Flm (SameTables KeepsData)

/-! ### The best of the closed superblocks -/

/-- The better of the best so far and the next under an order; the earlier one on a tie. -/
def better {α : Type} (le : α → α → Bool) (best : Option α) (e : α) : Option α :=
  match best with
  | none => some e
  | some b => if le b e then best else some e

section
variable {α : Type} {le : α → α → Bool} (htotal : ∀ a b, le a b = true ∨ le b a = true)
  (htrans : ∀ a b c, le a b = true → le b c = true → le a c = true)
include htotal htrans

theorem foldl_better_some : ∀ (l : List α) (b : α), ∃ e, l.foldl (better le) (some b) = some e ∧ (e = b ∨ e ∈ l) ∧ le e b = true ∧
    ∀ x ∈ l, le e x = true
  | [], b => ⟨b, rfl, .inl rfl, (htotal b b).elim id id, fun _ h => absurd h List.not_mem_nil⟩
  | x :: r, b => by
    have hnext : ∃ c, better le (some b) x = some c ∧ (c = b ∨ c = x) ∧ le c b = true ∧ le c x = true := by
      by_cases hle : le b x = true
      · exact ⟨b, if_pos hle, .inl rfl, (htotal b b).elim id id, hle⟩
      · exact ⟨x, if_neg hle, .inr rfl, (htotal b x).resolve_left hle, (htotal x x).elim id id⟩
    obtain ⟨c, hc, hfrom, hcb, hcx⟩ := hnext
    obtain ⟨e, he, hmem, hec, hall⟩ := foldl_better_some r c
    refine ⟨e, by rw [List.foldl_cons, hc, he], ?_, htrans e c b hec hcb, List.forall_mem_cons.2 ⟨htrans e c x hec hcx, hall⟩⟩
    rcases hmem with rfl | hmem
    · exact hfrom.imp_right fun heq => List.mem_cons.2 (.inl heq)
    · exact .inr (List.mem_cons_of_mem _ hmem)

theorem foldl_better_none (l : List α) : (l = [] ∧ l.foldl (better le) none = none) ∨
    ∃ e, l.foldl (better le) none = some e ∧ e ∈ l ∧ ∀ x ∈ l, le e x = true := by
  cases l with
  | nil => exact .inl ⟨rfl, rfl⟩
  | cons b r =>
    obtain ⟨e, he, hmem, hb, hall⟩ := foldl_better_some htotal htrans r b
    exact .inr ⟨e, he, List.mem_cons.2 hmem, List.forall_mem_cons.2 ⟨hb, hall⟩⟩

end

theorem pickSb_eq (s : State) (p : Nat × Sb → Bool) (le : Nat × Sb → Nat × Sb → Bool) :
    s.pickSb p le = (s.flm.sb.filter (fun e => decide (e.2.st = .closed) && p e)).foldl (better le) none := by
  unfold State.pickSb
  congr 1
  funext best e
  cases best <;> rfl

/-- The pick under a total order: none where no closed superblock meets `p`, else one that comes before all that do. -/
theorem pickSb_best (s : State) (p : Nat × Sb → Bool) {le : Nat × Sb → Nat × Sb → Bool} (htotal : ∀ a b, le a b = true ∨ le b a = true)
    (htrans : ∀ a b c, le a b = true → le b c = true → le a c = true) :
    ((∀ x ∈ s.flm.sb, ¬ (x.2.st = .closed ∧ p x = true)) ∧ s.pickSb p le = none) ∨
      ∃ e, s.pickSb p le = some e ∧ e ∈ s.flm.sb ∧ e.2.st = .closed ∧ p e = true ∧
        ∀ x ∈ s.flm.sb, x.2.st = .closed → p x = true → le e x = true := by
  have hmem : ∀ x, x ∈ s.flm.sb.filter (fun e => decide (e.2.st = .closed) && p e) ↔ x ∈ s.flm.sb ∧ x.2.st = .closed ∧ p x = true :=
    fun x => by rw [List.mem_filter, Bool.and_eq_true, decide_eq_true_eq]
  rw [pickSb_eq]
  rcases foldl_better_none htotal htrans (s.flm.sb.filter (fun e => decide (e.2.st = .closed) && p e)) with ⟨hnil, hnone⟩ | ⟨e, he, hin, hall⟩
  · exact .inl ⟨fun x hx hp => absurd ((hmem x).2 ⟨hx, hp⟩) (hnil ▸ List.not_mem_nil), hnone⟩
  · obtain ⟨hsb, hclosed, hp⟩ := (hmem e).1 hin
    exact .inr ⟨e, he, hsb, hclosed, hp, fun x hx hc hpx => hall x ((hmem x).2 ⟨hx, hc, hpx⟩)⟩

/-! ### Folding (10 R362) -/

/-- Superblock `a` was closed no later than `b`. -/
def olderSb (a b : Nat × Sb) : Bool := decide (a.2.closedAt ≤ b.2.closedAt)

/-- An SLC superblock of a half. -/
def isSlcOf (half : Nat) (e : Nat × Sb) : Bool := decide (e.1 / 8192 / 32 = half) && !e.2.nativeMode

/-- Folding is wanted: in the foreground, or in slack where it is enabled. -/
def State.foldOn (s : State) : Bool := s.slcBelow 16 || (s.flmCtrl 1 && s.slack .flash && s.slcBelow 8)

theorem exec_folding (half : Nat) (s : State) : exec (.folding half) s = .next (
    if s.flm.readOnly ∨ s.vacating half false ∨ !s.foldOn then s
    else match s.pickSb (isSlcOf half) olderSb with
      | none => s
      | some e => s.vacate e.1 .fold) := rfl

theorem folding_idle {s : State} {half : Nat} (h : s.flm.readOnly = true ∨ s.vacating half false = true ∨ s.foldOn = false ∨
    s.pickSb (isSlcOf half) olderSb = none) : exec (.folding half) s = .next s := by
  rw [exec_folding]
  rcases h with h | h | h | h <;> simp only [h, true_or, or_true, Bool.not_false, if_true, ite_self]

theorem folding_vacates {s : State} {half : Nat} (hrw : s.flm.readOnly = false) (hfree : s.vacating half false = false)
    (hon : s.foldOn = true) {e : Nat × Sb} (hpick : s.pickSb (isSlcOf half) olderSb = some e) :
    exec (.folding half) s = .next (s.vacate e.1 .fold) := by
  simp only [exec_folding, hrw, hfree, hon, hpick, Bool.not_true, Bool.false_eq_true, or_self, if_false]

theorem pickSb_oldest {s : State} {p : Nat × Sb → Bool} {e : Nat × Sb} (h : s.pickSb p olderSb = some e) {x : Nat × Sb}
    (hx : x ∈ s.flm.sb) (hclosed : x.2.st = .closed) (hp : p x = true) : e.2.closedAt ≤ x.2.closedAt := by
  rcases pickSb_best s p (le := olderSb) (fun a b => by simpa only [olderSb, decide_eq_true_eq] using le_total _ _)
    (fun a b c => by simpa only [olderSb, decide_eq_true_eq] using le_trans) with ⟨-, hnone⟩ | ⟨b, hb, -, -, -, hall⟩
  · exact absurd (hnone.symm.trans h) (by simp)
  · obtain rfl : b = e := Option.some.inj (hb.symm.trans h)
    exact of_decide_eq_true (hall x hx hclosed hp)

/-! ### Garbage collection (10 R370, R371) -/

/-- Superblock `a` has fewer valid slots than `b`, or as many and was closed no later. -/
def Flm.emptierSb (f : Flm) (a b : Nat × Sb) : Bool :=
  decide (f.validSlots a.1 < f.validSlots b.1) || (decide (f.validSlots a.1 = f.validSlots b.1) && decide (a.2.closedAt ≤ b.2.closedAt))

theorem emptierSb_iff {f : Flm} {a b : Nat × Sb} : f.emptierSb a b = true ↔ f.validSlots a.1 < f.validSlots b.1 ∨
    (f.validSlots a.1 = f.validSlots b.1 ∧ a.2.closedAt ≤ b.2.closedAt) := by
  simp only [Flm.emptierSb, Bool.or_eq_true, Bool.and_eq_true, decide_eq_true_eq]

/-- A native superblock of a half. -/
def isNativeOf (half : Nat) (e : Nat × Sb) : Bool := decide (e.1 / 8192 / 32 = half) && e.2.nativeMode

theorem isNativeOf_iff {half : Nat} {e : Nat × Sb} : isNativeOf half e = true ↔ e.1 / 8192 / 32 = half ∧ e.2.nativeMode = true := by
  rw [isNativeOf, Bool.and_eq_true, decide_eq_true_eq]

/-- Garbage collection is wanted: in the foreground, or in slack where it is enabled. -/
def State.collectOn (s : State) : Bool := decide (2 ≤ s.flm.mode) || s.slcBelow 16 || (s.flmCtrl 0 && s.slack .flash)

theorem exec_garbageCollection (half : Nat) (s : State) : exec (.garbageCollection half) s = .next (
    if s.flm.readOnly ∨ s.vacating half true ∨ !s.collectOn then s
    else match s.pickSb (isNativeOf half) s.flm.emptierSb with
      | none => s
      | some e => s.vacate e.1 .collect) := rfl

section
variable (s : State) (half : Nat)

/-- What garbage collection would take: nothing where no native superblock of the half is closed, else one with the fewest valid slots. -/
theorem collectPick :
    ((∀ x ∈ s.flm.sb, ¬ (x.2.st = .closed ∧ x.1 / 8192 / 32 = half ∧ x.2.nativeMode = true)) ∧
        s.pickSb (isNativeOf half) s.flm.emptierSb = none) ∨
      ∃ e, s.pickSb (isNativeOf half) s.flm.emptierSb = some e ∧ e ∈ s.flm.sb ∧ e.2.st = .closed ∧ e.1 / 8192 / 32 = half ∧
        e.2.nativeMode = true ∧ ∀ x ∈ s.flm.sb, x.2.st = .closed → x.1 / 8192 / 32 = half → x.2.nativeMode = true →
          s.flm.validSlots e.1 ≤ s.flm.validSlots x.1 := by
  have htotal : ∀ a b, s.flm.emptierSb a b = true ∨ s.flm.emptierSb b a = true := fun a b => by
    rw [emptierSb_iff, emptierSb_iff]
    omega
  have htrans : ∀ a b c, s.flm.emptierSb a b = true → s.flm.emptierSb b c = true → s.flm.emptierSb a c = true := fun a b c => by
    rw [emptierSb_iff, emptierSb_iff, emptierSb_iff]
    omega
  have h := pickSb_best s (isNativeOf half) htotal htrans
  simp only [isNativeOf_iff, emptierSb_iff] at h
  rcases h with h | ⟨e, he, hsb, hclosed, ⟨hhalf, hnative⟩, hall⟩
  · exact .inl h
  · refine .inr ⟨e, he, hsb, hclosed, hhalf, hnative, fun x hx hc hh hn => ?_⟩
    have := hall x hx hc ⟨hh, hn⟩
    omega

variable {s half}

theorem garbageCollection_idle (h : s.flm.readOnly = true ∨ s.vacating half true = true ∨ s.collectOn = false ∨
    (∀ x ∈ s.flm.sb, ¬ (x.2.st = .closed ∧ x.1 / 8192 / 32 = half ∧ x.2.nativeMode = true))) :
    exec (.garbageCollection half) s = .next s := by
  rw [exec_garbageCollection]
  rcases h with h | h | h | hnone
  · simp only [h, true_or, if_true]
  · simp only [h, true_or, or_true, if_true]
  · simp only [h, Bool.not_false, or_true, if_true]
  · rcases collectPick s half with ⟨-, hpick⟩ | ⟨e, -, hsb, hclosed, hhalf, hnative, -⟩
    · simp only [hpick, ite_self]
    · exact absurd ⟨hclosed, hhalf, hnative⟩ (hnone e hsb)

theorem garbageCollection_vacates (hrw : s.flm.readOnly = false) (hfree : s.vacating half true = false) (hon : s.collectOn = true)
    {e : Nat × Sb} (hpick : s.pickSb (isNativeOf half) s.flm.emptierSb = some e) :
    exec (.garbageCollection half) s = .next (s.vacate e.1 .collect) := by
  simp only [exec_garbageCollection, hrw, hfree, hon, hpick, Bool.not_true, Bool.false_eq_true, or_self, if_false]

end

/-! ### Rewrites and rebuilds (10 R374, R376) -/

/-- Relocation in slack may run: the tier is not read-only, and there is slack. -/
def State.mayRelocate (s : State) : Bool := !s.flm.readOnly && s.slack .flash

theorem exec_rewrite (n : Nat) (s : State) : exec (.rewrite n) s = .next (
    if s.flm.readOnly ∨ (s.flm.sbAt n).st ≠ .closed ∨ (s.flm.sbAt n).rewrite = false ∨ !(s.slack .flash) then s
    else (s.vacate n .rewrite).bump (pg flmPage + 0x2CC)) := rfl

theorem exec_dieRebuild (n : Nat) (s : State) : exec (.dieRebuild n) s = .next (
    if s.flm.readOnly ∨ (s.flm.sbAt n).rebuild = false ∨ !(s.slack .flash) then s
    else if (s.flm.sbAt n).st = .meta_ then (s.moveMeta n).getD s
    else if (s.flm.sbAt n).st ≠ .closed then s else s.vacate n .rebuild) := rfl

section
variable {s : State} {n : Nat}

theorem mayRelocate_iff : s.mayRelocate = true ↔ s.flm.readOnly = false ∧ s.slack .flash = true := by
  rw [State.mayRelocate, Bool.and_eq_true, Bool.not_eq_true']

theorem not_mayRelocate (h : s.mayRelocate = false) : s.flm.readOnly = true ∨ s.slack .flash = false := by
  rwa [State.mayRelocate, Bool.and_eq_false_iff, Bool.not_eq_false'] at h

theorem rewrite_vacates (hmay : s.mayRelocate = true) (hclosed : (s.flm.sbAt n).st = .closed) (hdue : (s.flm.sbAt n).rewrite = true) :
    exec (.rewrite n) s = .next ((s.vacate n .rewrite).bump (pg flmPage + 0x2CC)) := by
  obtain ⟨hrw, hslack⟩ := mayRelocate_iff.1 hmay
  simp [exec_rewrite, hrw, hclosed, hdue, hslack]

theorem rewrite_idle (h : s.mayRelocate = false ∨ (s.flm.sbAt n).st ≠ .closed ∨ (s.flm.sbAt n).rewrite = false) :
    exec (.rewrite n) s = .next s := by
  rcases h with h | h | h
  · rcases not_mayRelocate h with h | h <;> simp [exec_rewrite, h]
  · simp [exec_rewrite, h]
  · simp [exec_rewrite, h]

theorem dieRebuild_vacates (hmay : s.mayRelocate = true) (hclosed : (s.flm.sbAt n).st = .closed) (hdue : (s.flm.sbAt n).rebuild = true) :
    exec (.dieRebuild n) s = .next (s.vacate n .rebuild) := by
  obtain ⟨hrw, hslack⟩ := mayRelocate_iff.1 hmay
  simp [exec_dieRebuild, hrw, hclosed, hdue, hslack]

theorem dieRebuild_movesMeta (hmay : s.mayRelocate = true) (hmeta : (s.flm.sbAt n).st = .meta_) (hdue : (s.flm.sbAt n).rebuild = true) :
    exec (.dieRebuild n) s = .next ((s.moveMeta n).getD s) := by
  obtain ⟨hrw, hslack⟩ := mayRelocate_iff.1 hmay
  simp [exec_dieRebuild, hrw, hmeta, hdue, hslack]

theorem dieRebuild_idle (h : s.mayRelocate = false ∨ ((s.flm.sbAt n).st ≠ .closed ∧ (s.flm.sbAt n).st ≠ .meta_) ∨
    (s.flm.sbAt n).rebuild = false) : exec (.dieRebuild n) s = .next s := by
  rcases h with h | ⟨hopen, hmeta⟩ | h
  · rcases not_mayRelocate h with h | h <;> simp [exec_dieRebuild, h]
  · simp [exec_dieRebuild, hopen, hmeta]
  · simp [exec_dieRebuild, h]

end

/-! ### Wear levelling (10 R379) -/

/-- Wear levelling is at work: the spread of the erase counts is beyond SPREAD, or was and is still beyond nine tenths of it. -/
def State.wearOn (s : State) : Bool :=
  decide (s.cfgFld (pg flmPage + 0x210) 0 16 < s.flm.eraseSpread.2 - s.flm.eraseSpread.1) ||
    (s.flm.wear && decide (s.cfgFld (pg flmPage + 0x210) 0 16 * 90 < (s.flm.eraseSpread.2 - s.flm.eraseSpread.1) * 100))

/-- Superblock `a` has a lower mean erase count than `b`, or the same and was closed no later. -/
def Flm.lessWorn (f : Flm) (a b : Nat × Sb) : Bool :=
  decide (f.sbErases a.1 a.2 * b.2.blocks.length < f.sbErases b.1 b.2 * a.2.blocks.length) ||
    (decide (f.sbErases a.1 a.2 * b.2.blocks.length = f.sbErases b.1 b.2 * a.2.blocks.length) && decide (a.2.closedAt ≤ b.2.closedAt))

/-- The device, with what it has found out about wear levelling noted. -/
def State.wearSeen (s : State) : State := { s with flm := { s.flm with wear := s.wearOn } }

theorem exec_wearLevelling (s : State) : exec .wearLevelling s = .next (
    if !s.wearOn ∨ !s.wearSeen.flmCtrl 2 ∨ !(s.wearSeen.slack .flash) ∨ s.wearSeen.flm.readOnly then s.wearSeen
    else match s.wearSeen.pickSb (fun e => e.2.nativeMode) s.wearSeen.flm.lessWorn with
      | none => s.wearSeen
      | some e => (s.wearSeen.vacate e.1 .wear).bump (pg flmPage + 0x2C8)) := rfl

section
variable {s : State}

theorem wearLevelling_idle (h : s.wearOn = false ∨ s.wearSeen.flmCtrl 2 = false ∨ s.wearSeen.slack .flash = false ∨
    s.wearSeen.flm.readOnly = true ∨ s.wearSeen.pickSb (fun e => e.2.nativeMode) s.wearSeen.flm.lessWorn = none) :
    exec .wearLevelling s = .next s.wearSeen := by
  rw [exec_wearLevelling]
  rcases h with h | h | h | h | h <;> simp only [h, Bool.not_false, true_or, or_true, if_true, ite_self]

theorem wearLevelling_vacates (hon : s.wearOn = true) (hctl : s.wearSeen.flmCtrl 2 = true) (hslack : s.wearSeen.slack .flash = true)
    (hrw : s.wearSeen.flm.readOnly = false) {e : Nat × Sb}
    (hpick : s.wearSeen.pickSb (fun e => e.2.nativeMode) s.wearSeen.flm.lessWorn = some e) :
    exec .wearLevelling s = .next ((s.wearSeen.vacate e.1 .wear).bump (pg flmPage + 0x2C8)) := by
  simp only [exec_wearLevelling, hon, hctl, hslack, hrw, hpick, Bool.not_true, Bool.false_eq_true, or_self, if_false]

end

/-! ### What an erase leaves of its superblock (10 R361, R363, R378) -/

theorem keepsData_refl (f : Flm) : KeepsData f f := (SameTables.refl f).keepsData

theorem keepsData_retireBlock (s : State) (die block : Nat) : KeepsData s.flm (s.retireBlock die block).flm := by
  unfold State.retireBlock
  split
  · exact keepsData_refl _
  · exact ⟨fun _ => rfl, fun _ => rfl, id⟩

theorem keepsData_blockErased (s : State) (n pos block : Nat) : KeepsData s.flm (s.blockErased n pos block).flm :=
  ⟨fun _ => rfl, fun _ => rfl, id⟩

theorem keepsData_eraseBlock (s : State) (n pos block : Nat) (bad : Bool) : KeepsData s.flm (s.eraseBlock n pos block bad).flm := by
  have hcount : ∀ u : State, KeepsData s.flm u.flm →
      KeepsData s.flm (if bad then u.count (chPage (dieChannel (n / 8192) pos)) 0x1A0 4 else u).flm := fun u hu => by
    split
    · rwa [State.count_flm]
    · exact hu
  have hretire : ∀ (u : State) (c : Prop) [Decidable c], KeepsData s.flm u.flm →
      KeepsData s.flm (if c then u.retireBlock (32 * (n / 8192) + pos) block else u).flm := fun u c _ hu => by
    split
    · exact hu.trans (keepsData_retireBlock u _ _)
    · exact hu
  exact hretire _ _ (hcount _ ((keepsData_blockErased s n pos block).trans (keepsData_blockResult _ _ _ _)))

theorem keepsData_discardErased (s : State) (n : Nat) (zeroBad : List Nat) : KeepsData s.flm (s.discardErased n zeroBad).flm := by
  have hzero : ∀ c : Prop, ∀ [Decidable c], KeepsData s.flm (if c then
      zeroBad.foldl (fun s p => (s.dieFails (32 * (n / 8192) + p)).count flmPage 0x2E8 12) s else s).flm := fun c _ => by
    split
    · exact KeepsData.foldl (fun s p => by
        rw [State.count_flm]
        exact keepsData_dieFails s _) _ s
    · exact keepsData_refl _
  unfold State.discardErased
  dsimp only
  exact (hzero _).trans ⟨fun _ => rfl, fun _ => rfl, id⟩

theorem countErased_flm (s : State) (b : Sb) : (s.countErased b).flm = s.flm := by
  unfold State.countErased
  split <;> rfl

/-- A superblock that holds nothing and waits for nothing: FREE, or dissolved. -/
def Sb.empty (b : Sb) : Prop := (b.st = .free ∨ b.st = .retired) ∧ b.segs = 0

theorem form_empty {f : Flm} (h : f.sb.rising) (n : Nat) : ((f.form n).sbAt n).empty := by
  have hcleared : (f.updSb n (fun _ => Sb.free)).sb.rising := updSb_rising f n _ h
  unfold Flm.form
  dsimp only
  split
  · rw [sbAt_updSb_self hcleared]
    exact ⟨.inl rfl, rfl⟩
  · rw [sbAt_updSb_self hcleared]
    exact ⟨.inr rfl, rfl⟩

/-- A superblock that joins the SLC pool is as empty as it was. -/
theorem fillSlc_empty {f : Flm} {n : Nat} (row : Nat) (h : (f.sbAt n).empty) : ((f.fillSlc row).sbAt n).empty := by
  unfold Flm.fillSlc
  split
  · exact h
  · split
    · exact h
    · rename_i m _
      by_cases hm : n = m
      · subst hm
        have hne : ({ f.sbAt n with nativeMode := false } : Sb) ≠ Sb.free := fun e => Bool.noConfusion (congrArg Sb.nativeMode e)
        rw [sbAt_updSb_new hne]
        exact h
      · rwa [sbAt_updSb_ne f _ hm]

theorem reform_empty {s : State} (h : s.flm.sb.rising) (n : Nat) : ((s.reform n).flm.sbAt n).empty := by
  have hform := form_empty h n
  have hcut : ∀ (c : Prop) [Decidable c] (m : Sparse Nat),
      SameTables (s.flm.form n) (if c then { s.flm.form n with rowN := m } else s.flm.form n) := fun c _ m => by
    split <;> exact ⟨rfl, rfl, rfl⟩
  unfold State.reform
  dsimp only
  split
  · rw [(sameTables_spareCheck _).sbAt, (sameTables_newExport _).sbAt, (sameTables_journalSb _ _ _).sbAt]
    dsimp only
    rwa [(hcut _ _).sbAt]
  · rw [(sameTables_spareCheck _).sbAt, (sameTables_journalSb _ _ _).sbAt]
    exact fillSlc_empty _ hform

theorem rebuildCheck_sb (s : State) : s.rebuildCheck.flm.sb = s.flm.sb := by
  unfold State.rebuildCheck
  dsimp only
  split
  · rw [(sameTables_newExport _).1, State.raise_flm]
    dsimp only
    rw [updDies_sb]
    exact foldl_keeps (g := fun s => s.flm.sb) (f := fun s k => s.journal (.dieState k .rebuilt))
      (fun s k => (sameTables_journal s _).1) _ s
  · rfl

/-- The blocks of a superblock erased, its credit given, and its raw pages gone: what it is formed again from (10 R361, R372, R383). -/
def State.blocksErased (s : State) (n : Nat) (bad zeroBad : List Nat) : State :=
  let b := s.flm.sbAt n
  let live := b.blocks.filter (fun x => decide ((sget s.flm.die Die.absent (32 * (n / 8192) + x.1)).st = .live))
  let s := live.foldl (fun s x => s.eraseBlock n x.1 x.2 (bad.contains x.1)) s
  let s := if b.was = 0 then s.addCredit (256 * s.flm.slotsOf b) else s
  let s := s.discardErased n (zeroBad.filter (fun p => bad.contains p))
  { s with flm := s.flm.wipe n }

theorem eraseSb_eq (s : State) (n : Nat) (bad zeroBad : List Nat) : s.eraseSb n bad zeroBad =
    (((s.blocksErased n bad zeroBad).countErased (s.flm.sbAt n)).reform n).rebuildCheck := rfl

theorem keepsData_blocksErased (s : State) (n : Nat) (bad zeroBad : List Nat) :
    KeepsData s.flm (s.blocksErased n bad zeroBad).flm := by
  have hcredit : ∀ (u : State) (c : Prop) [Decidable c] (x : Nat), KeepsData s.flm u.flm →
      KeepsData s.flm (if c then u.addCredit x else u).flm := fun u c _ x hu => by
    split
    · exact hu.trans ⟨fun _ => rfl, fun _ => rfl, id⟩
    · exact hu
  have hblocks := KeepsData.foldl (F := fun s (x : Nat × Nat) => s.eraseBlock n x.1 x.2 (bad.contains x.1))
    (fun s x => keepsData_eraseBlock s n _ _ _)
  exact ((hcredit _ _ _ (hblocks _ s)).trans (keepsData_discardErased _ n _)).trans ⟨fun _ => rfl, fun _ => rfl, id⟩

/-- An erased superblock is FREE, or dissolved (10 R361, R378). -/
theorem eraseSb_empty {s : State} (h : s.flm.sb.rising) (n : Nat) (bad zeroBad : List Nat) :
    ((s.eraseSb n bad zeroBad).flm.sbAt n).empty := by
  rw [eraseSb_eq]
  unfold Flm.sbAt
  rw [rebuildCheck_sb]
  refine reform_empty ?_ n
  rw [countErased_flm]
  exact (keepsData_blocksErased s n bad zeroBad).rising h

/-! ### Erases (10 R361) -/

theorem eraseEnd_sb (s : State) (n : Nat) : (s.eraseEnd n).flm.sb = s.flm.sb := by
  unfold State.eraseEnd
  dsimp only
  exact fgEndBlocks_sb _ _ _ _

theorem exec_erase (n : Nat) (bad zeroBad : List Nat) (s : State) : exec (.erase n bad zeroBad) s = .next (
    if !s.mayErase n ∨ !s.eraseStarted n then s else ((s.eraseEnd n).eraseSb n bad zeroBad).flashSettle s) := rfl

theorem mayErase_iff {s : State} {n : Nat} : s.mayErase n = true ↔ (s.flm.sbAt n).st = .eraseBegin ∧ (s.flm.sbAt n).eraseOk = true ∧
    s.flm.validSlots n = 0 ∧ s.sbUnread n = true ∧ s.flm.jfull = false := by
  simp only [State.mayErase, Bool.and_eq_true, decide_eq_true_eq, Bool.not_eq_true', and_assoc]

section
variable {s : State} {n : Nat} {bad zeroBad : List Nat}

theorem erase_waits (h : (s.flm.sbAt n).st ≠ .eraseBegin ∨ (s.flm.sbAt n).eraseOk = false ∨ s.flm.validSlots n ≠ 0 ∨
    s.sbUnread n = false ∨ s.flm.jfull = true ∨ s.eraseStarted n = false) : exec (.erase n bad zeroBad) s = .next s := by
  have hwait : !s.mayErase n ∨ !s.eraseStarted n := by
    rw [Bool.not_eq_true', Bool.not_eq_true', ← Bool.not_eq_true, mayErase_iff]
    rcases h with h | h | h | h | h | h <;> simp [h]
  rw [exec_erase, if_pos hwait]

theorem erase_erases (hmay : s.mayErase n = true) (hstarted : s.eraseStarted n = true) (hrising : s.flm.sb.rising) {u : State}
    (hu : u = (s.eraseEnd n).eraseSb n bad zeroBad) :
    exec (.erase n bad zeroBad) s = .next (u.flashSettle s) ∧ (u.flm.sbAt n).empty := by
  subst hu
  refine ⟨?_, eraseSb_empty (by rwa [eraseEnd_sb]) n bad zeroBad⟩
  simp only [exec_erase, hmay, hstarted, Bool.not_true, Bool.false_eq_true, or_self, if_false]

end

/-! ### Page reads (10 R373, R374) -/

theorem RasOnly.page {s t : State} (h : RasOnly s t) : t.page = s.page := by rw [h]
theorem RasOnly.dir {s t : State} (h : RasOnly s t) : t.dir = s.dir := by rw [h]

/-- `u` is `s` after one read of the block at `pos` of the closed superblock `n`: no byte and no entry has changed. -/
def State.ReadOnce (s : State) (n pos : Nat) (u : State) : Prop :=
  u.page = s.page ∧ u.dir = s.dir ∧ (u.flm.sbAt n).st = .closed ∧
    sget (u.flm.sbAt n).reads 0 pos = sget (s.flm.sbAt n).reads 0 pos + 1

section
variable {s u v : State} {n pos : Nat}

theorem sbAt_scheduleRewrite (h : (s.flm.sbAt n).st = .closed) :
    (s.scheduleRewrite n).flm.sbAt n = { s.flm.sbAt n with rewrite := true } := by
  have hval : (if (s.flm.sbAt n).st = SbState.free ∨ (s.flm.sbAt n).st = SbState.meta_ then s.flm.sbAt n
      else { s.flm.sbAt n with rewrite := true }) = { s.flm.sbAt n with rewrite := true } := by
    rw [h]
    rfl
  refine (sbAt_updSb_new ?_).trans hval
  rw [hval]
  exact ne_free_of_st (fun e => SbState.noConfusion (h.symm.trans e))

theorem State.ReadOnce.scheduleRewrite (h : s.ReadOnce n pos u) :
    s.ReadOnce n pos (u.scheduleRewrite n) ∧ ((u.scheduleRewrite n).flm.sbAt n).rewrite = true := by
  obtain ⟨hpage, hdir, hclosed, hreads⟩ := h
  unfold State.ReadOnce
  rw [sbAt_scheduleRewrite hclosed]
  exact ⟨⟨hpage, hdir, hclosed, hreads⟩, rfl⟩

theorem State.ReadOnce.noted (h : s.ReadOnce n pos u) (hv : RasOnly u v) : s.ReadOnce n pos v := by
  obtain ⟨hpage, hdir, hclosed, hreads⟩ := h
  unfold State.ReadOnce
  rw [hv.flm]
  exact ⟨hv.page.trans hpage, hv.dir.trans hdir, hclosed, hreads⟩

theorem readOnce_noteRead (h : (s.flm.sbAt n).st = .closed) (pos : Nat) : s.ReadOnce n pos (s.noteRead n pos 1) := by
  have hval : (if (s.flm.sbAt n).st = SbState.free then s.flm.sbAt n else
      { s.flm.sbAt n with reads := sset (s.flm.sbAt n).reads 0 pos (sget (s.flm.sbAt n).reads 0 pos + 1) }) =
      { s.flm.sbAt n with reads := sset (s.flm.sbAt n).reads 0 pos (sget (s.flm.sbAt n).reads 0 pos + 1) } := by
    rw [h]
    rfl
  have hsb : (s.flm.updSb n (fun b => if b.st = SbState.free then b else
      { b with reads := sset b.reads 0 pos (sget b.reads 0 pos + 1) })).sbAt n =
      { s.flm.sbAt n with reads := sset (s.flm.sbAt n).reads 0 pos (sget (s.flm.sbAt n).reads 0 pos + 1) } := by
    refine (sbAt_updSb_new ?_).trans hval
    rw [hval]
    exact ne_free_of_st (fun e => SbState.noConfusion (h.symm.trans e))
  have hread : s.ReadOnce n pos { s.bump64 (pg (chPage (dieChannel (n / 8192) pos)) + 0x180) 1 with
      flm := s.flm.updSb n (fun b => if b.st = SbState.free then b else
        { b with reads := sset b.reads 0 pos (sget b.reads 0 pos + 1) }) } := by
    refine ⟨rfl, rfl, ?_, ?_⟩
    · rw [hsb]
      exact h
    · rw [hsb]
      exact sget_sset_new pos (Nat.succ_ne_zero _)
  unfold State.noteRead
  dsimp only
  split
  · exact hread.scheduleRewrite.1
  · exact hread

/-- A hard decode of a live die's page stands, or is one beyond the retries and becomes a soft one (10 R373). -/
theorem slotOutcome_hard {l : Loc} (h : (s.flm.dieAt (l.sb / 8192) (s.flm.rawPos l)).st = .live) (lvl bits : Nat) :
    s.slotOutcome l (.hard lvl bits) = .hard lvl bits ∨ s.slotOutcome l (.hard lvl bits) = .soft bits := by
  unfold State.slotOutcome
  dsimp only
  rw [if_neg (by rw [decide_eq_true_eq]; exact not_not.2 h)]
  split
  · exact .inl rfl
  · exact .inr rfl

theorem slotOutcome_first {l : Loc} (h : (s.flm.dieAt (l.sb / 8192) (s.flm.rawPos l)).st = .live) (bits : Nat) :
    s.slotOutcome l (.hard 0 bits) = .hard 0 bits := by
  unfold State.slotOutcome
  dsimp only
  rw [if_neg (by rw [decide_eq_true_eq]; exact not_not.2 h), if_pos (Nat.zero_le _)]

end

section
variable {s : State} {n slot : Nat} (hclosed : (s.flm.sbAt n).st = .closed)
  (hlive : (s.flm.dieAt (n / 8192) (s.flm.rawPos ⟨n, slot⟩)).st = .live)
include hclosed hlive

/-- A page that a hard decode corrects is not lost; its read counts, and one that took a retry schedules its superblock (10 R374). -/
theorem slotRead_hard (lvl bits : Nat) : ∃ u, s.slotRead ⟨n, slot⟩ (.hard lvl bits) = (u, false) ∧
    s.ReadOnce n (s.flm.rawPos ⟨n, slot⟩) u ∧ (0 < lvl → (u.flm.sbAt n).rewrite = true) := by
  have hread := readOnce_noteRead hclosed (s.flm.rawPos ⟨n, slot⟩)
  have hretried := fun page unit info => (hread.noted
    ((rasOnly_bump (s.noteRead n (s.flm.rawPos ⟨n, slot⟩) 1) (pg page + 0x190) 1).trans
      (rasOnly_rasRecord _ page 0x07 0 unit info))).scheduleRewrite
  unfold State.slotRead
  dsimp only
  rw [decide_eq_false (not_not.2 hlive), if_neg Bool.false_ne_true]
  by_cases hfirst : lvl = 0
  · subst hfirst
    rw [slotOutcome_first (l := ⟨n, slot⟩) hlive]
    dsimp only
    rw [if_pos rfl]
    refine ⟨_, rfl, ?_, fun h => absurd h (lt_irrefl 0)⟩
    split
    · exact hread.scheduleRewrite.1
    · exact hread
  · rcases slotOutcome_hard (l := ⟨n, slot⟩) hlive lvl bits with ho | ho
    · rw [ho]
      dsimp only
      rw [if_neg hfirst]
      exact ⟨_, rfl, (hretried _ _ _).1, fun _ => (hretried _ _ _).2⟩
    · rw [ho]
      exact ⟨_, rfl, (hretried _ _ _).1, fun _ => (hretried _ _ _).2⟩

end

/-! ### Scrubbing (10 R375) -/

/-- A page may be scrubbed: scrubbing is on and there is slack, the page is protected and due, its channel has no work of a higher row,
and its die is idle. -/
def State.mayScrub (u : State) (n slot : Nat) : Bool :=
  u.flmCtrl 3 && u.slack .flash && decide ((u.flm.sbAt n).st = .closed) && (u.flm.sbAt n).guards slot && u.scrubDue (u.flm.sbAt n) slot &&
    [1, 2, 3, 4, 5, 6].all (fun r => (u.rowStart (dieChannel (n / 8192) (u.flm.rawPos ⟨n, slot⟩)) r).isNone) &&
    (sget u.flm.busy none (32 * (n / 8192) + u.flm.rawPos ⟨n, slot⟩)).isNone

/-- The time of a page's scrub noted. -/
def State.scrubNoted (u : State) (n slot : Nat) : State :=
  { u with flm := u.flm.updSb n (fun b => { b with scrubbed := sset b.scrubbed 0 slot (u.clk + 1) }) }

theorem not_mayScrub {u : State} {n slot : Nat} : u.mayScrub n slot = false ↔
    !u.flmCtrl 3 ∨ !(u.slack .flash) ∨ (u.flm.sbAt n).st ≠ .closed ∨ !(u.flm.sbAt n).guards slot ∨
      !u.scrubDue (u.flm.sbAt n) slot ∨
      [1, 2, 3, 4, 5, 6].any (fun r => (u.rowStart (dieChannel (n / 8192) (u.flm.rawPos ⟨n, slot⟩)) r).isSome) ∨
      (sget u.flm.busy none (32 * (n / 8192) + u.flm.rawPos ⟨n, slot⟩)).isSome := by
  simp only [State.mayScrub, ← Option.not_isSome, ← List.not_any_eq_all_not, Bool.and_eq_false_iff, Bool.not_eq_false', Bool.not_eq_true',
    decide_eq_false_iff_not, or_assoc]

theorem exec_flashScrub (n slot t : Nat) (o : ReadOutcome) (s : State) :
    exec (.flashScrub n slot t o) s = execFlashScrub n slot t o s := rfl

section
variable {s u : State} {n slot t : Nat} (hu : u = s.at_ t) {o : ReadOutcome}
include hu

theorem flashScrub_idle (h : u.mayScrub n slot = false) : exec (.flashScrub n slot t o) s = .next u := by
  subst hu
  exact congrArg _ (if_pos (not_mayScrub.1 h))

variable (hmay : u.mayScrub n slot = true) {w : State}
include hmay

theorem flashScrub_reads {lost : Bool} (hread : ((u.scrubNoted n slot).trendAdd ⟨n, slot⟩ o).slotRead ⟨n, slot⟩ o = (w, lost)) :
    exec (.flashScrub n slot t o) s = .next (if lost then
      match if slot < 2 ^ 19 then w.ownerOf ⟨n, slot⟩ else none with
        | none => w
        | some (i, p) => w.lostPage i p
      else w) := by
  subst hu
  have hgo := mt not_mayScrub.2 (fun h => Bool.false_ne_true (h.symm.trans hmay))
  unfold State.scrubNoted at hread
  simp only [exec_flashScrub, execFlashScrub, if_neg hgo, hread]
  cases lost <;> rfl

theorem flashScrub_noPage {lost : Bool} (hread : ((u.scrubNoted n slot).trendAdd ⟨n, slot⟩ o).slotRead ⟨n, slot⟩ o = (w, lost))
    (h : lost = false ∨ 2 ^ 19 ≤ slot ∨ w.ownerOf ⟨n, slot⟩ = none) : exec (.flashScrub n slot t o) s = .next w := by
  rw [flashScrub_reads hu hmay hread]
  rcases h with h | h | h
  · rw [h, if_neg Bool.false_ne_true]
  · rw [if_neg (not_lt.2 h)]
    exact congrArg _ (ite_self w)
  · rw [h, ite_self]
    exact congrArg _ (ite_self w)

theorem flashScrub_losesPage (hread : ((u.scrubNoted n slot).trendAdd ⟨n, slot⟩ o).slotRead ⟨n, slot⟩ o = (w, true))
    (hdata : slot < 2 ^ 19) {i p : Nat} (howner : w.ownerOf ⟨n, slot⟩ = some (i, p)) :
    exec (.flashScrub n slot t o) s = .next (w.lostPage i p) := by
  rw [flashScrub_reads hu hmay hread, if_pos hdata, howner]
  rfl

end

/-! ### Dies and map lines that fail (10 R355, R376) -/

theorem exec_dieFail (die : Nat) (s : State) : exec (.dieFail die) s = .next ((s.dieFails die).flashSettle s) := rfl

theorem dieFails_failed {s : State} {die : Nat} (h : (sget s.flm.die Die.absent die).st = .live) :
    (sget (s.dieFails die).flm.die Die.absent die).st = .failed := by
  have hne : ({ sget s.flm.die Die.absent die with st := .failed } : Die) ≠ Die.absent :=
    fun e => DState.noConfusion (congrArg Die.st e)
  rw [(dieFails_live h).2]
  exact congrArg Die.st (sget_sset_new die hne)

theorem exec_mapRebuild (e : LineRead) (s : State) : exec (.mapRebuild e) s = .next (
    if if e.stip then stipLineOk e.seen else broadLineOk e.seen then s
    else State.rasRecord { s with flm := s.flm.rebuildLine e.stip e.line } flmPage 0x06 0 0 e.line) := rfl

/-- Settles O26: relocation by what it may take and by what stops it, an erase by what its superblock is formed again as, a page read by
its outcome, and the failures by what they leave. -/
theorem flashVacatesErasesAndScrubs : Obligations.FlashVacatesErasesAndScrubs := by
  unfold Obligations.FlashVacatesErasesAndScrubs
  refine ⟨fun s half on hon pick hpick => ?fold, fun s half on hon => ?collect, fun s n may hmay => ?relocate,
    fun s d spread on hd hspread hon u hu pick hpick => ?wear, fun s n bad zeroBad => ?erase,
    fun s n slot t o u b pos hu hb hpos may hmay => ?scrub, fun s n slot lvl bits pos hpos hclosed hlive u lost hread => ?read,
    fun s die => ⟨exec_dieFail die s, dieFails_failed⟩, fun s e ok hok => ?line⟩
  case fold =>
    subst hon hpick
    refine ⟨folding_idle, fun e hrw hfree hon hpick => ⟨folding_vacates hrw hfree hon hpick, fun x hx hclosed hhalf hslc => ?_⟩⟩
    exact pickSb_oldest hpick hx hclosed (by simp [hhalf, hslc])
  case collect =>
    subst hon
    refine ⟨garbageCollection_idle, fun hrw hfree hon ⟨x, hx, hx'⟩ => ?_⟩
    rcases collectPick s half with ⟨hnone, -⟩ | ⟨e, hpick, hsb, hclosed, hhalf, hnative, hall⟩
    · exact absurd hx' (hnone x hx)
    · exact ⟨e, hsb, hclosed, hhalf, hnative, garbageCollection_vacates hrw hfree hon hpick, hall⟩
  case relocate =>
    subst hmay
    exact ⟨rewrite_vacates, dieRebuild_vacates, dieRebuild_movesMeta, rewrite_idle, dieRebuild_idle⟩
  case wear =>
    subst hd hspread hon hu hpick
    exact ⟨wearLevelling_idle (s := s), fun e hon hctl hslack hrw hpick =>
      wearLevelling_vacates (s := s) hon hctl hslack hrw hpick⟩
  case erase =>
    refine ⟨erase_waits, fun hst hok hvalid hunread hfull hstarted hrising u hu => ?_⟩
    exact erase_erases (mayErase_iff.2 ⟨hst, hok, hvalid, hunread, hfull⟩) hstarted hrising hu
  case scrub =>
    have hmay' : may = u.mayScrub n slot := by
      subst hu hb hpos
      exact hmay
    subst hmay'
    refine ⟨flashScrub_idle hu, fun v w lost hmay hv hread => ?_⟩
    subst hv
    refine ⟨flashScrub_noPage hu hmay hread, fun i p hlost hdata howner => ?_⟩
    exact flashScrub_losesPage hu hmay (hlost ▸ hread) hdata howner
  case read =>
    subst hpos
    obtain ⟨v, hv, ⟨hpage, hdir, -, hreads⟩, hdue⟩ := slotRead_hard hclosed hlive lvl bits
    obtain ⟨rfl, rfl⟩ := Prod.mk.inj (hv.symm.trans hread)
    exact ⟨rfl, hpage, hdir, hreads, hdue⟩
  case line =>
    subst hok
    rw [exec_mapRebuild]
    exact ⟨fun hok => congrArg _ (if_pos hok), fun hbad => congrArg _ (if_neg (Bool.eq_false_iff.1 hbad))⟩

end Sys2Proof.Machine

/-! DISCARD (10 R380, R381, R384) and the recovery of the flash tier and the directory (10 R388, R389; 05 R166, R198). -/

namespace Sys2Proof.Machine

/-! ### DISCARD (10 R380, R384) -/

theorem exec_discard (id : Nat) (s : State) : exec (.discard id) s = execDiscard id s := rfl

/-- The parent of a claim that has not passed its commit point is entry `i`. -/
def State.parentClaimed (s : State) (i : Nat) : Bool :=
  s.dir.points.any (fun p => match p.kind with
    | .commit j _ => decide ((s.slot j).parent = some i)
    | _ => false)

/-- A SECURE DISCARD of entry `i` meets a read-only tier that holds a T2 copy of it or of a descendant (10 R384). -/
def State.secureStops (s : State) (l : Live) (i : Nat) : Bool :=
  l.flag 0 && s.flm.readOnly && (s.subtree i).any (fun e => (s.psetAt e.2.ps).t2)

/-- A DISCARD that has retired its entries and waits for their copies to be gone. -/
def State.discardBegun (s : State) (id : Nat) (secure : Bool) : State :=
  State.setRunning { s with flm := { s.flm with
    discards := s.flm.discards ++ [⟨id, secure, [], 0, [], false, false, false, false, false⟩] } } id

section
variable {s : State} {id : Nat} {l : Live} (hnew : s.Fresh id 0x09 l) (hup : s.reached .psa = true)
include hnew hup

theorem discard_badWords (hwords : l.reservedOk 0x601 [0, 0, 0xFFFFFFFF, 0xFFFFFFFF] = false) :
    exec (.discard id) s = .next ((s.fail id .badCommand).discardCheck) := by
  simp only [exec_discard, execDiscard, hnew.onNew, hup, hwords, Bool.not_true, Bool.not_false, Bool.false_eq_true, if_false, if_true]

variable (hwords : l.reservedOk 0x601 [0, 0, 0xFFFFFFFF, 0xFFFFFFFF] = true)
include hwords

theorem discard_noKey {e : Status} (hkey : s.namedKey l true = .error e) : exec (.discard id) s = .next ((s.fail id e).discardCheck) := by
  simp only [exec_discard, execDiscard, hnew.onNew, hup, hwords, hkey, Bool.not_true, Bool.false_eq_true, if_false]

variable {k : Key} {form : Nat} (hkey : s.namedKey l true = .ok (k, form))
include hkey

theorem discard_noEntry (hcur : s.current k form = none) : exec (.discard id) s = .next
    ((s.fail id (if (s.exact k form Slot.resident).isSome then .conflict else .notFound)).discardCheck) := by
  simp only [exec_discard, execDiscard, hnew.onNew, hup, hwords, hkey, hcur, Bool.not_true, Bool.false_eq_true, if_false]

variable {i : Nat} {e : Slot} (hcur : s.current k form = some (i, e))
include hcur

theorem discard_entry : exec (.discard id) s = .next (State.discardCheck (
    if s.parentClaimed i then s.fail id .conflict
    else if l.flag 0 ∧ s.flm.readOnly ∧ (s.subtree i).any (fun e => (s.psetAt e.2.ps).t2) then s.fail id .readOnly
    else (s.startCascade i (.discard id (l.flag 0))).discardBegun id (l.flag 0))) := by
  simp only [exec_discard, execDiscard, hnew.onNew, hup, hwords, hkey, hcur, Bool.not_true, Bool.false_eq_true, if_false]
  rfl

theorem discard_claimed (hclaim : s.parentClaimed i = true) :
    exec (.discard id) s = .next ((s.fail id .conflict).discardCheck) := by
  rw [discard_entry hnew hup hwords hkey hcur, if_pos hclaim]

variable (hfree : s.parentClaimed i = false)
include hfree

theorem discard_readOnly (hstop : s.secureStops l i = true) : exec (.discard id) s = .next ((s.fail id .readOnly).discardCheck) := by
  rw [State.secureStops, Bool.and_eq_true, Bool.and_eq_true, and_assoc] at hstop
  rw [discard_entry hnew hup hwords hkey hcur, hfree, if_neg Bool.false_ne_true, if_pos hstop]

theorem discard_retires (hgo : s.secureStops l i = false) : exec (.discard id) s =
    .next (((s.startCascade i (.discard id (l.flag 0))).discardBegun id (l.flag 0)).discardCheck) := by
  rw [State.secureStops, ← Bool.not_eq_true, Bool.and_eq_true, Bool.and_eq_true, and_assoc] at hgo
  rw [discard_entry hnew hup hwords hkey hcur, hfree, if_neg Bool.false_ne_true, if_neg hgo]

end

/-! ### The secure steps (10 R381) -/

theorem exec_discardRelocation (id : Nat) (s : State) : exec (.discardRelocation id) s = execDiscardRelocation id s := rfl

/-- The DISCARD of a command, changed. -/
def State.updDiscard (s : State) (id : Nat) (f : Discard → Discard) : State :=
  { s with flm := { s.flm with discards := updIf s.flm.discards (fun x => decide (x.id = id)) f } }

section
variable {s : State} {id : Nat} {d : Discard} (hd : s.flm.discards.find? (fun d => decide (d.id = id)) = some d)
include hd

theorem discardRelocation_waits (h : d.secure = false ∨ s.discardGone d = false) : exec (.discardRelocation id) s = .next s := by
  rcases h with h | h <;> simp [exec_discardRelocation, execDiscardRelocation, hd, h]

variable (hsecure : d.secure = true) (hgone : s.discardGone d = true)
include hsecure hgone

theorem discardRelocation_steps : exec (.discardRelocation id) s = .next (
    if !d.asked then (s.updDiscard id (fun d => { d with asked := true })).journal
      (.discardBegin id ((s.live id).elim 0 (·.tag)) (d.psets.filterMap (fun h => sget s.flm.foot none h)))
    else if !d.begun then s
    else if d.sbs ≠ [] then if s.flm.readOnly then s else d.sbs.foldl (fun s n => s.vacateFoot n) s
    else if !d.closing then (s.updDiscard id (fun d => { d with closing := true })).journal
      (.discardEnd id ((s.live id).elim 0 (·.tag)))
    else s.discardCheck) := by
  simp only [exec_discardRelocation, execDiscardRelocation, hd, hsecure, hgone, Bool.not_true, Bool.false_eq_true, or_self, if_false]
  rfl

end

/-! ### Entries that recovery keeps (05 R198) -/

theorem mem_of_mem_keepRooted {e : Nat × Slot} : ∀ {n : Nat} {l : List (Nat × Slot)}, e ∈ keepRooted n l → e ∈ l
  | 0, _, h => h
  | n + 1, l, h => by
    unfold keepRooted at h
    dsimp only at h
    split at h
    · exact h
    · exact (List.mem_filter.1 (mem_of_mem_keepRooted h)).1

/-- An entry of the recovered directory has a durable T2 copy, or is pinned; one of the latter is POISON. -/
theorem recoveredSlots_kept {s : State} {e : Nat × Slot} (h : e ∈ s.recoveredSlots) : e.2.state = .current ∧ e.2.held = false ∧
    ((s.copyOf e.2.pset).isSome = true ∨ (e.2.pin = true ∧ e.2.poison = true)) := by
  unfold State.recoveredSlots at h
  dsimp only at h
  obtain ⟨x, hx, rfl⟩ := List.mem_map.1 h
  obtain ⟨y, -, hy⟩ := List.mem_filterMap.1 (mem_of_mem_keepRooted hx)
  refine ⟨rfl, rfl, ?_⟩
  dsimp only
  cases hcopy : s.copyOf y.2.pset with
  | some c =>
    rw [hcopy] at hy
    dsimp only at hy
    split at hy
    · obtain rfl := Option.some.inj hy
      exact .inl (by rw [hcopy]; rfl)
    · exact absurd hy (by simp)
  | none =>
    rw [hcopy] at hy
    dsimp only at hy
    split at hy
    · obtain rfl := Option.some.inj hy
      refine .inr ⟨‹_›, ?_⟩
      rw [hcopy]
      exact Bool.or_true _
    · exact absurd hy (by simp)

/-! ### The directory after recovery (05 R166, R194, R198) -/

/-- No proof, no point, no move and no cached page, and the next edition is `q`. -/
def State.Clean (q : Nat) (s : State) : Prop :=
  s.dir.proofs = [] ∧ s.dir.seqNext = q ∧ s.dir.points = [] ∧ s.tier.moves = [] ∧ s.pfs.cache = []

section
variable {q : Nat} {s t : State}

theorem State.Clean.congr (h : s.Clean q) (hdir : t.dir = s.dir) (htier : t.tier = s.tier) (hpfs : t.pfs = s.pfs) : t.Clean q := by
  unfold State.Clean
  rwa [hdir, htier, hpfs]

theorem State.Clean.noted (h : s.Clean q) (ht : RasOnly s t) : t.Clean q := h.congr (by rw [ht]) (by rw [ht]) (by rw [ht])

theorem State.Clean.foldl {α : Type} {F : State → α → State} (step : ∀ s x, s.Clean q → (F s x).Clean q) (l : List α) (h : s.Clean q) :
    (l.foldl F s).Clean q := List.foldlRecOn l F h fun t ht x _ => step t x ht

theorem State.Clean.ite {c : Prop} [Decidable c] (hs : s.Clean q) (ht : t.Clean q) : (if c then s else t).Clean q := by
  split
  · exact hs
  · exact ht

theorem State.Clean.putHead (h : s.Clean q) (i : Nat) (v : Slot) : (s.putHead i v).Clean q := by
  unfold State.putHead
  exact .ite h h

theorem State.Clean.setPset (h : s.Clean q) (i : Nat) (v : PSet) : (s.setPset i v).Clean q := h

theorem State.Clean.askRepair (h : s.Clean q) (i p : Nat) : (s.askRepair i p).Clean q := by
  unfold State.askRepair
  exact .ite h (.ite h (State.Clean.noted (s := s.lastPoison i p) h (rasOnly_raise _ _ _)))

theorem footAdd_others (s : State) (h n : Nat) : (s.footAdd h n).dir = s.dir ∧ (s.footAdd h n).tier = s.tier ∧
    (s.footAdd h n).pfs = s.pfs := by
  unfold State.footAdd
  dsimp only
  split <;> exact ⟨rfl, rfl, rfl⟩

theorem State.Clean.forgetSlots (h : s.Clean q) (i : Nat) : (s.forgetSlots i).Clean q := by
  unfold State.forgetSlots
  exact State.Clean.foldl (F := fun s n => s.footAdd i n)
    (fun s n hs => hs.congr (footAdd_others s i n).1 (footAdd_others s i n).2.1 (footAdd_others s i n).2.2) _ h

theorem State.Clean.unmapT2 (h : s.Clean q) (i : Nat) : (s.unmapT2 i).Clean q := by
  unfold State.unmapT2
  exact .ite h (h.forgetSlots i)

theorem State.Clean.journal (h : s.Clean q) (b : JBody) : (s.journal b).Clean q := h

theorem State.Clean.setMark (h : s.Clean q) (m : Nat) : State.Clean q { s with dir := { s.dir with mark := m } } := h

theorem State.Clean.askMark (h : s.Clean q) : s.askMark.Clean q := by
  unfold State.askMark
  exact .ite h ((h.setMark _).journal _)

end

theorem keepOn_seqNext {s : State} (h : s.flm.units ≠ 0) : s.keepOn.dir.seqNext = s.flm.mark + 1 := by
  unfold State.keepOn
  rw [if_neg h]
  rfl

/-- The rebuild empties the proofs, the points, the moves and the cache, and nothing that follows fills them; editions go on above the
durable mark. -/
theorem directoryRebuild_clean (s : State) : ∃ q, s.directoryRebuild.Clean q ∧ (s.flm.units ≠ 0 → q = s.flm.mark + 1) := by
  unfold State.directoryRebuild
  extract_lets slots psets lost orphan newBad newPoison kept dir tier pfs emptied heads sets poisoned marked asked
  have hemptied : emptied.Clean kept.dir.seqNext := ⟨rfl, rfl, rfl, rfl, rfl⟩
  have hheads : heads.Clean kept.dir.seqNext := hemptied.foldl (fun s e h => h.putHead e.1 e.2) slots
  have hsets : sets.Clean kept.dir.seqNext :=
    State.Clean.foldl (F := fun s e => s.setPset e.1 e.2) (fun s e h => h.setPset e.1 e.2) psets hheads
  have hpoisoned : poisoned.Clean kept.dir.seqNext := .ite hsets (hsets.noted ((rasOnly_bump _ _ _).trans (rasOnly_raise _ _ _)))
  have hmarked : marked.Clean kept.dir.seqNext := .ite hpoisoned (hpoisoned.noted ((rasOnly_bump _ _ _).trans (rasOnly_raise _ _ _)))
  have hasked : asked.Clean kept.dir.seqNext :=
    hmarked.foldl (fun s e h => .ite (h.foldl (fun s p h => h.askRepair e.1 p) e.2.badPages) h) slots
  refine ⟨kept.dir.seqNext, (hasked.foldl (fun s i h => h.unmapT2 i) orphan).askMark, fun hunits => ?_⟩
  have hflm := foldl_flm (F := fun (s : State) i => { s with page := s.page.clear (i * 2 ^ 32) (2 ^ 32) }) (fun _ _ => rfl) lost s
  refine (keepOn_seqNext ?_).trans ?_
  · rwa [hflm]
  · rw [hflm]

/-! ### Recovery (10 R388, R389) -/

theorem exec_flashRecovery (f : FlashFound) (s : State) : exec (.flashRecovery f) s = .next (
    if s.start ≠ .flash ∨ s.phaseDone then s
    else
      let w := (((s.flashForm.flashDiscover f).flashReplay).flashCapacity).finishDiscards f.erases
      let v : State := { w with flm := { w.flm with recoverMs := f.ms }, phaseDone := true }
      (v.directoryRebuild.spareCheck).updMode) := rfl

/-- Settles O27: DISCARD by what its key names, its secure steps in turn, the recovery by its phase, and the recovered directory by
what each of its steps keeps. -/
theorem discardAndFlashRecovery : Obligations.DiscardAndFlashRecovery := by
  unfold Obligations.DiscardAndFlashRecovery
  refine ⟨fun s id l hl hop hph hc hup => ?discard, fun s id d hd => ?steps, fun s f => ⟨fun h => ?idle, fun hphase hdone w v hw hv => ?recovers⟩,
    fun v => ?directory⟩
  case discard =>
    have hnew : s.Fresh id 0x09 l := ⟨hl, hop, hph, hc⟩
    refine ⟨discard_badWords hnew hup, fun hwords => ⟨fun e => discard_noKey hnew hup hwords, fun k form hkey =>
      ⟨discard_noEntry hnew hup hwords hkey, fun i e hcur claim hclaim => ?_⟩⟩⟩
    subst hclaim
    refine ⟨discard_claimed hnew hup hwords hkey hcur, fun hfree stop hstop => ?_⟩
    subst hstop
    refine ⟨discard_readOnly hnew hup hwords hkey hcur hfree, fun hgo w hw => ?_⟩
    subst hw
    exact discard_retires hnew hup hwords hkey hcur hfree hgo
  case steps =>
    refine ⟨discardRelocation_waits hd, fun hsecure hgone => ?_⟩
    rw [discardRelocation_steps hd hsecure hgone]
    refine ⟨fun ha => ?_, fun ha hb => ?_, fun ha hb hsbs => ?_, fun ha hb hsbs hc => ?_, fun ha hb hsbs hc => ?_⟩
    · rw [ha]
      rfl
    · rw [ha, hb]
      rfl
    · rw [ha, hb]
      exact congrArg _ (if_pos hsbs)
    · rw [ha, hb, hsbs, hc]
      rfl
    · rw [ha, hb, hsbs, hc]
      rfl
  case idle =>
    rw [exec_flashRecovery, if_pos h]
  case recovers =>
    subst hv hw
    rw [exec_flashRecovery, if_neg (not_or.2 ⟨not_not.2 hphase, Bool.eq_false_iff.1 hdone⟩)]
  case directory =>
    obtain ⟨q, ⟨hproofs, hseq, hpoints, hmoves, hcache⟩, hq⟩ := directoryRebuild_clean v
    exact ⟨hproofs, fun hunits => hseq.trans (hq hunits), hpoints, hmoves, hcache, fun e => recoveredSlots_kept⟩

end Sys2Proof.Machine

/-! What recording an error (16 R570 to R576) leaves of the host ports and of the registers. -/

namespace Sys2Proof.Machine

/-! ### Ports but for their event records -/

/-- A host port but for the CXL event records that it holds (11 R405; 16 R570). -/
def Port.sansEvents (v : Port) : Port := { v with events := [], nextHandle := 0 }

/-- `t` differs from `s` at most in the event records of its ports, in the registers of the RAS block, and in ERR_LOG0 to ERR_LOG3 of
a page; more may differ outside the ports and the registers. -/
def State.NotedOn (page : Nat) (s t : State) : Prop :=
  (∀ p, (t.port p).sansEvents = (s.port p).sansEvents) ∧
    ∀ a, a / 0x1000 ≠ rasPage → (a < pg page + 0x20 ∨ pg page + 0x2C < a) → t.reg a = s.reg a

section
variable {page : Nat} {s t u : State}

theorem State.NotedOn.refl (page : Nat) (s : State) : s.NotedOn page s := ⟨fun _ => rfl, fun _ _ _ => rfl⟩

theorem State.NotedOn.trans (h : s.NotedOn page t) (h' : t.NotedOn page u) : s.NotedOn page u :=
  ⟨fun p => (h'.1 p).trans (h.1 p), fun a ha hp => (h'.2 a ha hp).trans (h.2 a ha hp)⟩

theorem State.NotedOn.ite {c : Prop} [Decidable c] (ht : s.NotedOn page t) (hu : s.NotedOn page u) :
    s.NotedOn page (if c then t else u) := by
  split
  · exact ht
  · exact hu

/-- What keeps ports and registers notes nothing. -/
theorem notedOn_of_eq (h0 : t.port0 = s.port0) (h1 : t.port1 = s.port1) (hr : t.regs = s.regs) : s.NotedOn page t :=
  ⟨fun p => by simp only [State.port, h0, h1], fun a _ _ => reg_of_regs hr a⟩

theorem notedOn_ras (v : Ras) : s.NotedOn page { s with ras := v } := notedOn_of_eq rfl rfl rfl

theorem notedOn_setReg {a : Nat} (ha : a / 0x1000 = rasPage ∨ (pg page + 0x20 ≤ a ∧ a ≤ pg page + 0x2C)) (v : Word) :
    s.NotedOn page (s.setReg a v) :=
  ⟨fun _ => rfl, fun b hb hout => reg_setReg_ne s v (fun e => by subst e; omega)⟩

theorem notedOn_raise (i : Nat) : s.NotedOn page (s.raise rasPage i) := by
  refine ⟨fun p => ?_, fun a ha _ => reg_raise_ne s fun e => ha ?_⟩
  · rw [raise_eq]
    rfl
  · rw [e]
    rfl

theorem notedOn_errLog {r : RasRec} (hr : r.page = page) : s.NotedOn page (s.errLog r) := by
  subst hr
  have hreg : ∀ (w : State) (o : Nat) (v : Word), 0x20 ≤ o → o ≤ 0x2C → w.NotedOn r.page (w.setReg (pg r.page + o) v) :=
    fun w o v hlo hhi => notedOn_setReg (.inr ⟨by omega, by omega⟩) v
  exact (((hreg s 0x20 _ (by decide) (by decide)).trans (hreg _ 0x24 _ (by decide) (by decide))).trans
    (hreg _ 0x28 _ (by decide) (by decide))).trans (hreg _ 0x2C _ (by decide) (by decide))

theorem notedOn_storm (n : Nat) : s.NotedOn page (s.storm n).1 := by
  have hpast : ∀ (w : State) (c : Prop) [Decidable c],
      w.NotedOn page (if c then w.bump (pg rasPage + 0x190) else (w.bump (pg rasPage + 0x190)).raise rasPage 2) := fun w c _ =>
    .ite (notedOn_setReg (.inl rfl) _) ((notedOn_setReg (.inl rfl) _).trans (notedOn_raise 2))
  unfold State.storm
  simp only []
  split <;> split
  · exact (notedOn_ras _).trans (hpast _ _)
  · exact notedOn_ras _
  · exact (notedOn_ras _).trans (hpast _ _)
  · exact notedOn_ras _

theorem notedOn_rasWrite {r : RasRec} (hr : r.page = page) : s.NotedOn page (s.rasWrite r) := by
  unfold State.rasWrite
  simp only []
  split
  case h_1 => exact (notedOn_setReg (a := pg rasPage + 0x18C) (.inl rfl) _).trans (notedOn_raise 3)
  case h_2 log _ =>
    have hlog : s.NotedOn page (({ s with ras := { s.ras with log := log ++ [r], next := s.ras.next + 1 } } : State).errLog r) :=
      (notedOn_of_eq rfl rfl rfl).trans (notedOn_errLog hr)
    exact .ite (hlog.trans (notedOn_raise 0)) (.ite (hlog.trans (notedOn_raise 1)) hlog)

theorem port_setPort (s : State) {p q : Nat} (hp : p < 2) (hq : q < 2) (v : Port) :
    (s.setPort p v).port q = if q = p then v else s.port q := by
  interval_cases p <;> interval_cases q <;> rfl

/-- A port set to a value that differs in its event records only. -/
theorem notedOn_setPort {p : Nat} {v : Port} (hv : v.sansEvents = (s.port p).sansEvents) : s.NotedOn page (s.setPort p v) := by
  refine ⟨fun q => ?_, fun a _ _ => reg_of_regs (State.setPort_regs s p v) a⟩
  unfold State.setPort State.port at *
  by_cases h0 : p = 0 <;> by_cases h1 : q = 0
  · simpa [h0, h1] using hv
  · simp [h0, h1]
  · simp [h0, h1]
  · simpa [h0, h1] using hv

theorem notedOn_cxlEvent (cls seq : Nat) : s.NotedOn page (s.cxlEvent cls seq) := by
  have hone : ∀ (w : State) (p : Nat), w.NotedOn page (if (w.port p).mode = .sld ∨ (w.port p).mode = .mld then
      w.setPort p { w.port p with events := (w.port p).events ++ [{ log := cls, handle := (w.port p).nextHandle, seq := seq }],
                                  nextHandle := (w.port p).nextHandle + 1 } else w) :=
    fun w p => .ite (notedOn_setPort rfl) (.refl _ _)
  exact .ite (.refl _ _) ((hone s 0).trans (hone _ 1))

theorem notedOn_aer : s.NotedOn page s.aer := by
  have hone : ∀ (w : State) (p : Nat), w.NotedOn page (if (w.port p).mode = .down then w else w.send (.aer p)) :=
    fun w p => .ite (.refl _ _) (notedOn_of_eq rfl rfl rfl)
  exact (hone s 0).trans (hone _ 1)

/-- What a record notes once it is written: its CXL event, AER message and platform event. -/
theorem notedOn_rasNew (cause cls unit info : Nat) : s.NotedOn page (s.rasNew page cause cls unit info) := by
  have hreport : ∀ (w : State) (r : RasRec), r.page = page → s.NotedOn page w → s.NotedOn page
      (let v := (w.rasWrite r).cxlEvent cls r.seq
       let v := if cls = 2 then v.aer else v
       if cls ≠ 0 ∧ bit (v.cfgReg (pg rasPage + 0x100)) 1 then { v with ras := { v.ras with plat := v.ras.plat ++ [r] } } else v) := by
    intro w r hr hw
    have hevent := (hw.trans (notedOn_rasWrite hr)).trans (notedOn_cxlEvent cls r.seq)
    have haer : s.NotedOn page (if cls = 2 then ((w.rasWrite r).cxlEvent cls r.seq).aer else (w.rasWrite r).cxlEvent cls r.seq) :=
      .ite (hevent.trans notedOn_aer) hevent
    exact .ite (haer.trans (notedOn_of_eq rfl rfl rfl)) haer
  unfold State.rasNew
  by_cases h0 : cls = 0
  · simp only [if_pos h0]
    split
    · exact notedOn_storm page
    · exact hreport _ _ rfl (notedOn_storm page)
  · simp only [if_neg h0]
    exact hreport _ _ rfl (.refl _ _)

theorem notedOn_rasRecord (s : State) (page cause cls unit info : Nat) : s.NotedOn page (s.rasRecord page cause cls unit info) := by
  have hnote : ∀ w : State, s.NotedOn page w → s.NotedOn page (match w.ras.log.getLast? with
      | some n =>
        if n.page = page ∧ n.cause = cause ∧ n.unit = unit ∧ w.clk < n.at_ + 1000000 then
          State.errLog { w with ras := { w.ras with log := w.ras.log.dropLast ++ [{ n with count := min (n.count + 1) 255 }] } }
            { n with count := min (n.count + 1) 255 }
        else w.rasNew page cause cls unit info
      | none => w.rasNew page cause cls unit info) := by
    intro w hw
    split
    · split
      case isTrue hsame => exact hw.trans ((notedOn_of_eq rfl rfl rfl).trans (notedOn_errLog hsame.1))
      case isFalse => exact hw.trans (notedOn_rasNew _ _ _ _)
    · exact hw.trans (notedOn_rasNew _ _ _ _)
  unfold State.rasRecord
  by_cases h : cls < 3
  · simp only [if_pos h]
    refine hnote _ (notedOn_setReg (.inl ?_) _)
    simp only [pg, rasPage]
    omega
  · simp only [if_neg h]
    exact hnote _ (.refl _ _)

end

end Sys2Proof.Machine

/-! Host ports (11 R392 to R397, R426, R427; 18 R623, R624): training, the identity of functions, loss, and PERST_L. -/

namespace Sys2Proof.Machine

/-! ### A port read after a write -/

theorem port_setPort_other (s : State) {p : Nat} (hp : p < 2) (v : Port) : (s.setPort p v).port (1 - p) = s.port (1 - p) := by
  rw [port_setPort s hp (by omega), if_neg (by omega)]

@[simp] theorem port_raise (s : State) (page i p : Nat) : (s.raise page i).port p = s.port p := by
  rw [raise_eq]
  rfl

/-! ### Interrupts leave MSI-X enabled or disabled (11 R398) -/

theorem msixOn_msix (s : State) (p vec q ld : Nat) : ((s.msix p vec).fn q ld).msixOn = (s.fn q ld).msixOn := by
  unfold State.msix
  simp only []
  split
  · rfl
  case isFalse h =>
    have hon : (s.fn p 0).msixOn = true := by simpa using (not_or.1 (not_or.1 h).2).2
    split
    · by_cases hk : 8 * q + ld = 8 * p + 0
      · have hnew : ∀ l, ({ s.fn p 0 with pba := l } : PciFn) ≠ PciFn.reset := fun l e =>
          absurd (congrArg PciFn.msixOn e) (by simp [hon, PciFn.reset])
        simp only [State.fn, State.setFn, hk] at hnew hon ⊢
        rw [sget_sset_new _ (hnew _), hon]
      · simp only [State.fn, State.setFn, sget_sset_ne _ hk]
    · rfl

theorem msixOn_raise (s : State) (page i p ld : Nat) : ((s.raise page i).fn p ld).msixOn = (s.fn p ld).msixOn := by
  have hone : ∀ (w : State) (q : Nat) (v : Word),
      ((if bit v 8 then w.msix q (fld v 0 8) else w).fn p ld).msixOn = (w.fn p ld).msixOn := by
    intro w q v
    split
    · exact msixOn_msix w q _ p ld
    · rfl
  unfold State.raise State.raiseBits
  simp only []
  split
  · exact (hone _ 1 _).trans (hone _ 0 _)
  · rfl

/-! ### Training (11 R393, R396, R427; 18 R626) -/

theorem trainMode_up (s : State) (p speed width : Nat) (cxl mld : Bool) : s.trainMode p speed width cxl mld ≠ .down := by
  unfold State.trainMode
  simp only []
  split
  · decide
  · split <;> decide

theorem trainMode_pcie (s : State) (p speed width : Nat) (mld : Bool) : s.trainMode p speed width false mld = .pcie :=
  if_pos (.inr (.inr (.inl rfl)))

/-- What a conventional reset of a port touches: queue sets, their registers, the functions, and the SPDM session. -/
theorem portReset_frame (s : State) (p : Nat) : ∃ que regs sec, s.portReset p = { s with
    que := que, regs := regs, sec := sec, fns := s.fns.filter (fun e => decide (e.1 / 8 ≠ p)) } := by
  have hsets : ∀ (l : List Nat) (w : State), ∃ que regs, l.foldl (fun w q => (w.setQset p q QSet.reset).setReg (qsAddr p q + 0x14)
      (w.reg (qsAddr p q + 0x14) &&& 0x1FF00)) w = { w with que := que, regs := regs } := by
    intro l
    induction l with
    | nil => exact fun w => ⟨w.que, w.regs, rfl⟩
    | cons q l ih =>
      intro w
      obtain ⟨que, regs, h⟩ := ih ((w.setQset p q QSet.reset).setReg (qsAddr p q + 0x14) (w.reg (qsAddr p q + 0x14) &&& 0x1FF00))
      exact ⟨que, regs, h⟩
  obtain ⟨que, regs, h⟩ := hsets (List.range 64) s
  refine ⟨que, regs, (s.portReset p).sec, ?_⟩
  unfold State.portReset
  simp only [h]

theorem fn_portReset (s : State) (p : Nat) : (s.portReset p).fn p 0 = PciFn.reset := by
  obtain ⟨que, regs, sec, hreset⟩ := portReset_frame s p
  rw [hreset]
  refine sget_absent fun e he hk => ?_
  have hne := of_decide_eq_true (List.mem_filter.1 he).2
  omega

/-- The port as it is once it has trained. -/
def State.trained (s : State) (p speed width : Nat) (cxl mld : Bool) (ldUp : Nat) : Port :=
  { s.port p with
    mode := s.trainMode p speed width cxl mld, speed := speed, width := width, ctrl := s.cfgReg (pg (hptPage p) + 0x100),
    view := s.cfgReg (pg (hptPage p) + 0x104),
    ldUp := if s.trainMode p speed width cxl mld = .mld then ldUp % 2 ^ fld (s.cfgReg (pg (hptPage p) + 0x100)) 8 4 else 0 }

/-- The port is set as it has trained, and its configuration registers lag no more (11 R396). -/
def State.settlePort (s : State) (p : Nat) (v : Port) : State :=
  { s.setPort p v with cfg := { s.cfg with lag := s.cfg.lag.filter (fun e => decide (e.1 ≠ hptPage p)) } }

theorem exec_linkUp (p speed width : Nat) (cxl mld : Bool) (ldUp : Nat) (s : State) :
    exec (.linkUp p speed width cxl mld ldUp) s = execLinkUp p speed width cxl mld ldUp s := rfl

theorem port_settlePort (s : State) (p : Nat) (v : Port) : (s.settlePort p v).port p = v := port_setPort_eq s p v

theorem port_settlePort_other (s : State) {p : Nat} (hp : p < 2) (v : Port) : (s.settlePort p v).port (1 - p) = s.port (1 - p) :=
  port_setPort_other s hp v

theorem settlePort_frame (s : State) (p : Nat) (v : Port) : (s.settlePort p v).que = s.que ∧ (s.settlePort p v).fns = s.fns ∧
    (s.settlePort p v).regs = s.regs ∧ (s.settlePort p v).dir = s.dir ∧ (s.settlePort p v).ten = s.ten ∧
    (s.settlePort p v).cxl = s.cxl := by
  simp [State.settlePort]

/-- A port that was DOWN is up, as after a conventional reset, and reports it (11 R427). -/
def State.risen (s : State) (p : Nat) (v : Port) : State := ((s.portReset p).settlePort p v).raise (hptPage p) 1

theorem risen_frame (s : State) {p : Nat} (hp : p < 2) (v : Port) : (s.risen p v).port p = v ∧ (s.risen p v).port (1 - p) = s.port (1 - p) ∧
    (s.risen p v).dir = s.dir ∧ (s.risen p v).ten = s.ten ∧ (s.risen p v).cxl = s.cxl := by
  obtain ⟨que, regs, sec, hreset⟩ := portReset_frame s p
  obtain ⟨-, -, -, hdir, hten, hcxl⟩ := settlePort_frame (s.portReset p) p v
  have hother : (s.portReset p).port (1 - p) = s.port (1 - p) := by
    rw [hreset]
    rfl
  rw [hreset] at hdir hten hcxl
  refine ⟨(port_raise _ _ _ p).trans (port_settlePort _ p v),
    (port_raise _ _ _ _).trans ((port_settlePort_other _ hp v).trans hother), ?_⟩
  rw [State.risen, raise_eq, hreset]
  exact ⟨hdir, hten, hcxl⟩

/-- A port that comes up has MSI-X disabled (11 R398, R427). -/
theorem risen_msixOn (s : State) (p : Nat) (v : Port) : ((s.risen p v).fn p 0).msixOn = false := by
  obtain ⟨-, hfns, -⟩ := settlePort_frame (s.portReset p) p v
  rw [State.risen, msixOn_raise]
  simp only [State.fn, hfns]
  exact congrArg PciFn.msixOn (fn_portReset s p)

section
variable {s : State} {p speed width ldUp : Nat} {cxl mld : Bool}

theorem linkUp_idle (h : 2 ≤ p ∨ (s.port p).perst = true ∨ s.start = .verify ∨ linkOk speed width = false) :
    exec (.linkUp p speed width cxl mld ldUp) s = .next s :=
  congrArg Host.Outcome.next (if_pos (by simpa using h))

variable (hp : p < 2) (hfree : (s.port p).perst = false) (hstart : s.start ≠ .verify) (hlink : linkOk speed width = true)
include hp hfree hstart hlink

theorem not_linkUp_idle : ¬ (2 ≤ p ∨ (s.port p).perst = true ∨ s.start = .verify ∨ (!linkOk speed width) = true) := by
  rintro (h | h | h | h)
  · omega
  · exact Bool.false_ne_true (hfree.symm.trans h)
  · exact hstart h
  · rw [hlink] at h
    exact Bool.false_ne_true h

/-- A port that is up has retrained (18 R626). -/
theorem linkUp_retrains (hup : (s.port p).mode ≠ .down) : exec (.linkUp p speed width cxl mld ldUp) s = .next
    (s.settlePort p (s.trained p speed width cxl mld ldUp)) := by
  rw [exec_linkUp, execLinkUp]
  simp only [if_neg (not_linkUp_idle hp hfree hstart hlink), hup, ne_eq, not_false_eq_true, decide_true, if_true]
  simp only [State.settlePort, State.trained, State.setPort_cfg]

theorem linkUp_rises (hdown : (s.port p).mode = .down) : exec (.linkUp p speed width cxl mld ldUp) s = .next
    (s.risen p { s.trained p speed width cxl mld ldUp with waits := [], hdm := [], views := [] }) := by
  have hview : (s.portReset p).cfgReg (pg (hptPage p) + 0x104) = s.cfgReg (pg (hptPage p) + 0x104) := by
    obtain ⟨que, regs, sec, hreset⟩ := portReset_frame s p
    rw [hreset]
    rfl
  rw [exec_linkUp, execLinkUp]
  simp only [if_neg (not_linkUp_idle hp hfree hstart hlink), hdown, ne_eq, not_true_eq_false, decide_false, Bool.false_eq_true, if_false]
  simp only [State.risen, State.settlePort, State.trained, State.setPort_cfg, hview]

end

/-! ### Loss (11 R395, R426) -/

theorem loseProgs_frame (s : State) (p : Nat) : ∃ stk, s.loseProgs p = { s with stk := stk } := by
  have hends : ∀ (l : List Nat) (w : State), ∃ stk, l.foldl (fun w i => w.instEnd i) w = { w with stk := stk } := by
    intro l
    induction l with
    | nil => exact fun w => ⟨w.stk, rfl⟩
    | cons i l ih =>
      intro w
      obtain ⟨stk, h⟩ := ih (w.instEnd i)
      exact ⟨stk, h⟩
  obtain ⟨stk, h⟩ := hends _ _
  exact ⟨stk, h⟩

/-- As the spill port a lost port takes the packets that wait for a context with it (13 R482). -/
def State.spillLost (s : State) (p : Nat) : State :=
  if s.spillOn ∧ s.spillPort = p then ({ s with net := { s.net with miss := [] } } : State).raise xptPage 2 else s

/-- The fabric manager's route over a lost port ends (11 R426, R429). -/
def State.fmLost (s : State) (p : Nat) : State := if fld (s.reg (pg 0x6C + 0x104)) 0 2 = p + 1 then s.setFm 0 else s

/-- The loss is counted and recorded. -/
def State.lossNoted (s : State) (p : Nat) : State := (s.count (hptPage p) 0x1A0 0).rasRecord (hptPage p) 0x0C 2 p 0

/-- A port without its link. -/
def Port.lost (v : Port) : Port :=
  { v with mode := .down, speed := 0, width := 0, ldUp := 0, waits := [], hdm := [], views := [], waitedAt := List.replicate 8 none }

theorem losePort_idle {s : State} {p : Nat} (h : 2 ≤ p ∨ (s.port p).mode = .down) : s.losePort p = s := if_pos h

/-- A loss takes the port's link and the sources of its commands, then what depends on the port, and is noted. -/
theorem losePort_loses {s : State} {p : Nat} (hp : p < 2) (hup : (s.port p).mode ≠ .down) : ∃ w : State,
    s.losePort p = ((w.spillLost p).fmLost p).lossNoted p ∧ w.port p = (s.port p).lost ∧ w.port (1 - p) = s.port (1 - p) ∧
    w.que.live = s.que.live.map (fun l => l.loseTo p) ∧ w.ten.tbl = s.ten.tbl := by
  obtain ⟨stk, hprogs⟩ := loseProgs_frame (s.setPort p (s.port p).lost) p
  have hport : ((s.setPort p (s.port p).lost).loseProgs p).port p = (s.port p).lost := by
    rw [hprogs]
    exact port_setPort_eq s p _
  have hother : ((s.setPort p (s.port p).lost).loseProgs p).port (1 - p) = s.port (1 - p) := by
    rw [hprogs]
    exact port_setPort_other s hp _
  have hque : ((s.setPort p (s.port p).lost).loseProgs p).que = s.que := by
    rw [hprogs]
    exact State.setPort_que s p _
  have htbl : ((s.setPort p (s.port p).lost).loseProgs p).ten.tbl = s.ten.tbl := by
    rw [hprogs]
    exact congrArg Ten.tbl (State.setPort_ten s p _)
  exact ⟨_, (if_neg (not_or.2 ⟨Nat.not_le.2 hp, hup⟩)).trans rfl, hport, hother, congrArg (fun k : Que => k.live.map (fun l => l.loseTo p)) hque,
    htbl⟩

theorem spillLost_port (s : State) (p q : Nat) : (s.spillLost p).port q = s.port q := by
  unfold State.spillLost
  split
  · exact port_raise _ _ _ q
  · rfl

theorem spillLost_tables (s : State) (p : Nat) : (s.spillLost p).que = s.que ∧ (s.spillLost p).ten = s.ten := by
  unfold State.spillLost
  split
  · rw [raise_eq]
    exact ⟨rfl, rfl⟩
  · exact ⟨rfl, rfl⟩

theorem setFm_port (s : State) (v q : Nat) : (s.setFm v).port q = s.port q := by
  unfold State.setFm
  simp only []
  split
  · rfl
  · exact port_raise _ _ _ q

theorem rasOnly_setFm (s : State) (v : Nat) : RasOnly s (s.setFm v) := by
  unfold State.setFm
  simp only []
  split
  · exact .refl s
  · exact (rasOnly_setReg s _ _).trans (rasOnly_raise _ _ _)

theorem fmLost_port (s : State) (p q : Nat) : (s.fmLost p).port q = s.port q := by
  unfold State.fmLost
  split
  · exact setFm_port s 0 q
  · rfl

theorem rasOnly_fmLost (s : State) (p : Nat) : RasOnly s (s.fmLost p) := by
  unfold State.fmLost
  split
  · exact rasOnly_setFm s 0
  · exact .refl s

theorem lossNoted_port (s : State) (p q : Nat) : ((s.lossNoted p).port q).sansEvents = (s.port q).sansEvents := by
  refine ((notedOn_rasRecord _ _ _ _ _ _).1 q).trans (congrArg Port.sansEvents ?_)
  rw [count_eq]
  rfl

theorem rasOnly_lossNoted (s : State) (p : Nat) : RasOnly s (s.lossNoted p) :=
  (rasOnly_count s _ _ _).trans (rasOnly_rasRecord _ _ _ _ _ _)

/-- The ports, the sources of commands and the tenant tables after a loss. -/
theorem losePort_tables {s : State} {p : Nat} (hp : p < 2) (hup : (s.port p).mode ≠ .down) :
    ((s.losePort p).port p).sansEvents = (s.port p).lost.sansEvents ∧
    ((s.losePort p).port (1 - p)).sansEvents = (s.port (1 - p)).sansEvents ∧
    (s.losePort p).que.live = s.que.live.map (fun l => l.loseTo p) ∧ (s.losePort p).ten.tbl = s.ten.tbl := by
  obtain ⟨w, heq, hport, hother, hlive, htbl⟩ := losePort_loses hp hup
  obtain ⟨hque, hten⟩ := spillLost_tables w p
  have hras : RasOnly (w.spillLost p) (((w.spillLost p).fmLost p).lossNoted p) := (rasOnly_fmLost _ p).trans (rasOnly_lossNoted _ p)
  have hports : ∀ q, ((((w.spillLost p).fmLost p).lossNoted p).port q).sansEvents = (w.port q).sansEvents := fun q => by
    rw [lossNoted_port, fmLost_port, spillLost_port]
  rw [heq]
  refine ⟨?_, ?_, ?_, ?_⟩
  · rw [hports, hport]
  · rw [hports, hother]
  · rw [hras, ← hlive, hque]
  · rw [hras, ← htbl, hten]

/-- No command of a lost port is told to one of its queue sets. -/
theorem loseTo_src (l : Live) (p q : Nat) : (l.loseTo p).src ≠ .queue p q := by
  unfold Live.loseTo
  split
  case h_1 p' q' hsrc =>
    split
    · exact Source.noConfusion
    case isFalse hne =>
      rw [hsrc]
      exact fun e => hne (Source.queue.inj e).1
  case h_2 p' tag w1 hsrc =>
    split
    · exact Source.noConfusion
    · rw [hsrc]
      exact Source.noConfusion
  case h_3 hno _ => exact fun e => hno p q e

theorem losePort_mode {s : State} {p : Nat} (hp : p < 2) : ((s.losePort p).port p).mode = .down := by
  by_cases hup : (s.port p).mode = .down
  · rw [losePort_idle (.inr hup), hup]
  · exact congrArg Port.mode (losePort_tables hp hup).1

/-! ### PERST_L (18 R624) -/

theorem exec_perstL {s : State} {p : Nat} (hp : p < 2) : exec (.perstL p) s = .next
    ((s.losePort p).setPort p { (s.losePort p).port p with perst := true }) := congrArg Host.Outcome.next (if_neg (Nat.not_le.2 hp))

theorem exec_perstLRelease {s : State} {p : Nat} (hp : p < 2) : exec (.perstLRelease p) s = .next
    (s.setPort p { s.port p with perst := false }) := congrArg Host.Outcome.next (if_neg (Nat.not_le.2 hp))

/-- Settles O28: training from DOWN and from a link that is up, identities by the mode, a loss by what it takes and what it notes, and
PERST_L by the mark that training tests. -/
theorem portsTrainAndAreLost : Obligations.PortsTrainAndAreLost := by
  unfold Obligations.PortsTrainAndAreLost
  refine ⟨fun s p speed width ldUp cxl mld => ⟨fun hp hfree hstart hlink => ?trains, linkUp_idle⟩,
    fun s p hp => ⟨fun hm ld => ?none, fun hm => ?pcie, fun hm => ?cxl, fun hm ld h0 hld => ?reader⟩,
    fun s p t => ⟨rfl, rfl, losePort_idle, fun hp hup => ?lost⟩, fun s p hp => ⟨?held, ?released⟩⟩
  case trains =>
    have hpcie : cxl = false → s.trainMode p speed width cxl mld = .pcie := by
      rintro rfl
      exact trainMode_pcie s p speed width mld
    by_cases hdown : (s.port p).mode = .down
    · refine ⟨_, linkUp_rises hp hfree hstart hlink hdown, ?_⟩
      obtain ⟨hport, hother, hframe⟩ := risen_frame s hp
        { s.trained p speed width cxl mld ldUp with waits := [], hdm := [], views := [] }
      rw [hport]
      exact ⟨rfl, trainMode_up s p speed width cxl mld, rfl, rfl, rfl, rfl, fun _ => ⟨rfl, rfl, rfl, risen_msixOn s p _⟩,
        fun h => absurd hdown h, hpcie, hother, hframe⟩
    · refine ⟨_, linkUp_retrains hp hfree hstart hlink hdown, ?_⟩
      obtain ⟨hque, hfns, hregs, hdir, hten, hcxl⟩ := settlePort_frame s p (s.trained p speed width cxl mld ldUp)
      rw [port_settlePort, port_settlePort_other s hp]
      exact ⟨rfl, trainMode_up s p speed width cxl mld, rfl, rfl, rfl, rfl, fun h => absurd h hdown, fun _ => ⟨rfl, rfl, hque, hfns, hregs⟩,
        hpcie, rfl, hdir, hten, hcxl⟩
  case none => simp only [State.fnId, if_neg (Nat.not_le.2 hp), hm]
  case pcie => simp only [State.fnId, if_neg (Nat.not_le.2 hp), hm, if_true]
  case cxl => rcases hm with hm | hm <;> simp only [State.fnId, if_neg (Nat.not_le.2 hp), hm, if_true]
  case reader => simp only [State.fnId, if_neg (Nat.not_le.2 hp), hm, if_neg h0.ne', if_pos hld]
  case lost =>
    obtain ⟨hport, hother, hlive, htbl⟩ := losePort_tables hp hup
    obtain ⟨w, heq, -⟩ := losePort_loses hp hup
    refine ⟨congrArg Port.mode hport, congrArg Port.views hport, congrArg Port.hdm hport, congrArg Port.waits hport,
      (congrArg Port.mode hother :), (congrArg Port.hdm hother :), (congrArg Port.views hother :), fun l hl q => ?_, htbl, w.spillLost p, heq⟩
    rw [hlive] at hl
    obtain ⟨l', -, rfl⟩ := List.mem_map.1 hl
    exact loseTo_src l' p q
  case held =>
    refine ⟨_, exec_perstL hp, ?_, ?_, fun speed width cxl mld ldUp => linkUp_idle (.inr (.inl ?_))⟩
    · rw [port_setPort_eq]
      exact losePort_mode hp
    · rw [port_setPort_eq]
    · rw [port_setPort_eq]
  case released => exact ⟨_, exec_perstLRelease hp, port_setPort_eq s p _, port_setPort_other s hp _⟩

end Sys2Proof.Machine

/-! CXL.mem requests (11 R402, R406, R407, R411, R413) and HDM decoders (11 R404): tokens, requests that wait, reads and writes of the
pool, the view window, and decoders that are committed. -/

namespace Sys2Proof.Machine

/-! ### Tokens (11 R413) -/

/-- `t` is `s` but for the tokens of port `p`. -/
def State.TokensOnly (p : Nat) (s t : State) : Prop :=
  ∃ ts at_, t = s.setPort p { s.port p with tokens := ts, filledAt := at_ }

theorem setPort_setPort (s : State) (p : Nat) (v w : Port) : (s.setPort p v).setPort p w = s.setPort p w := by
  unfold State.setPort
  split <;> rfl

theorem setPort_port (s : State) (p : Nat) : s.setPort p (s.port p) = s := by
  unfold State.setPort State.port
  split <;> rfl

section
variable {p : Nat} {s t u : State}

theorem State.TokensOnly.trans (h : s.TokensOnly p t) (h' : t.TokensOnly p u) : s.TokensOnly p u := by
  obtain ⟨ts, at_, rfl⟩ := h
  obtain ⟨ts', at', rfl⟩ := h'
  exact ⟨ts', at', by rw [setPort_setPort, port_setPort_eq]⟩

theorem tokensOnly_fillTokens (s : State) (p : Nat) : s.TokensOnly p (s.fillTokens p) := ⟨_, _, rfl⟩

theorem tokensOnly_takeTokens (s : State) (p l : Nat) : s.TokensOnly p (s.takeTokens p l) := by
  unfold State.takeTokens
  split
  · exact ⟨(s.port p).tokens, (s.port p).filledAt, (setPort_port s p).symm⟩
  · exact ⟨_, (s.port p).filledAt, rfl⟩

/-- Tokens are no part of what a request reads of its port. -/
theorem State.TokensOnly.port (h : s.TokensOnly p t) : (t.port p).view = (s.port p).view ∧ (t.port p).views = (s.port p).views ∧
    (t.port p).waits = (s.port p).waits ∧ (t.port p).waitedAt = (s.port p).waitedAt := by
  obtain ⟨ts, at_, rfl⟩ := h
  rw [port_setPort_eq]
  exact ⟨rfl, rfl, rfl, rfl⟩

/-- Nothing outside the ports depends on tokens. -/
theorem State.TokensOnly.rasOnly (h : s.TokensOnly p t) : RasOnly s t := by
  obtain ⟨ts, at_, rfl⟩ := h
  exact rasOnly_setPort s p _

theorem State.TokensOnly.out (h : s.TokensOnly p t) : t.out = s.out := by
  obtain ⟨ts, at_, rfl⟩ := h
  exact State.setPort_out s p _

theorem State.TokensOnly.viewRead (h : s.TokensOnly p t) (l : Nat) (req : CxlReq) : t.viewRead p l req = s.viewRead p l req := by
  have hviews := h.port.2.1
  have hdir := h.rasOnly.dir
  have hpage := h.rasOnly.page
  cases req with
  | read a => simp only [State.viewRead, State.psetPoison, hviews, hdir, hpage]
  | write a bs => rfl

theorem RasOnly.extentAt (h : RasOnly s t) (a : Nat) : t.extentAt a = s.extentAt a := by
  rw [h]
  rfl

theorem RasOnly.extRevoke (h : RasOnly s t) (x : Nat) : t.extRevoke x = s.extRevoke x := by
  rw [h]
  rfl

theorem RasOnly.extentDead (h : RasOnly s t) (x a : Nat) : t.extentDead x a = s.extentDead x a := by
  rw [h]
  rfl

theorem RasOnly.cxl (h : RasOnly s t) : t.cxl = s.cxl := by rw [h]

end

/-! ### A line of an extent (11 R406, R407) -/

/-- What a CXL.mem read finds at a line of an extent without a revocation, in a stack that lives. -/
theorem cxlRead_extent {s : State} {a x : Nat} {e : List Word} (ha : a < 2 ^ 39) (hext : s.extentAt a = some (x, e))
    (hrev : s.extRevoke x = none) (hdead : s.extentDead x a = false) (p l : Nat) (view : Option ViewRead) (ue old : Bool) :
    s.cxlRead p l a view ue old =
      if (rfld e 0 0 16).testBit (8 * p + l) then
        if ue then (s.cxlUe x a).cxlPoison p l else s.cxlReadOk p l (s.cxl.rdBytes a 64)
      else s.cxlPoison p l := by
  cases hr : (rfld e 0 0 16).testBit (8 * p + l) <;>
    simp only [State.cxlRead, if_neg (Nat.not_le.2 ha), hext, hrev, hdead, hr] <;> rfl

/-- The writer of an extent (11 R407). -/
def isWriter (e : List Word) (g : Nat) : Bool := bit (e.getD 1 0) 4 && decide (rfld e 1 0 4 = g)

theorem isWriter_iff {e : List Word} {g : Nat} : isWriter e g = true ↔ bit (e.getD 1 0) 4 = true ∧ rfld e 1 0 4 = g := by
  simp [isWriter]

/-- A line is written and its 64 bytes are counted. -/
def State.cxlStore (s : State) (p l a : Nat) (bs : List Byte) : State :=
  let s := ({ s with cxl := s.cxl.wrBytes a (bs.take 64) } : State).bump64 (pg (hptPage p) + 0x188) 64
  s.send (.cxlCmp p l (s.devLoad p l))

/-- A store changes the pool's line, what it counts, and the messages sent. -/
theorem cxlStore_eq (s : State) (p l a : Nat) (bs : List Byte) : ∃ regs load, s.cxlStore p l a bs =
    { s with cxl := s.cxl.wrBytes a (bs.take 64), regs := regs, out := .cxlCmp p l load :: s.out } := ⟨_, _, rfl⟩

/-- 64 bytes written at a line are its bytes from then on, and no other byte changes. -/
theorem wrBytes_line {m : Mem} {bs : List Byte} (hwf : m.wf = true) (hlen : bs.length = 64) (a : Nat) :
    (m.wrBytes a (bs.take 64)).wf = true ∧ (∀ i, i < 64 → (m.wrBytes a (bs.take 64)).rd (a + i) = bs.getD i 0) ∧
      ∀ j, ¬ (a ≤ j ∧ j < a + 64) → (m.wrBytes a (bs.take 64)).rd j = m.rd j := by
  rw [List.take_of_length_le hlen.le]
  refine ⟨Mem.wf_wrBytes _ _ _ hwf, fun i hi => ?_, fun j hj => ?_⟩
  · rw [Mem.rd_wrBytes _ _ _ _ hwf, if_pos (by omega), Nat.add_sub_cancel_left]
  · rw [Mem.rd_wrBytes _ _ _ _ hwf, hlen, if_neg hj]

/-- What a CXL.mem write of an LD in READ_MASK does at a line of an extent without a revocation, in a stack that lives. -/
theorem cxlWrite_extent {s : State} {a x p l : Nat} {e : List Word} (ha : a < 2 ^ 39) (hext : s.extentAt a = some (x, e))
    (hrev : s.extRevoke x = none) (hdead : s.extentDead x a = false) (hread : (rfld e 0 0 16).testBit (8 * p + l) = true)
    (bs : List Byte) (old : Bool) :
    s.cxlWrite p l a bs false old = if isWriter e (8 * p + l) then s.cxlStore p l a bs else s.cxlDrop p l a 1 := by
  have hlow : ¬ (2 ^ 39 ≤ a ∧ a < 2 ^ 39 + fld (s.port p).view 0 9 * 2 ^ 30) := fun h => absurd h.1 (Nat.not_le.2 ha)
  cases hw : isWriter e (8 * p + l) <;> rw [isWriter] at hw <;>
    simp only [State.cxlWrite, if_neg hlow, hext, hrev, hdead, hread, hw] <;> rfl

/-! ### Answers -/

theorem cxlPoison_answers (s : State) (p l : Nat) : (s.cxlPoison p l).cxl = s.cxl ∧ (s.cxlPoison p l).page = s.page ∧
    ∃ data load, (s.cxlPoison p l).out.head? = some (.cxlData p l data true load) := by
  have hnotes : RasOnly { s with free := s.free + 64 } (s.cxlPoison p l) := (rasOnly_count _ _ _ _).trans (rasOnly_send _ _)
  exact ⟨hnotes.cxl, hnotes.page, _, _, rfl⟩

theorem cxlReadOk_answers (s : State) (p l : Nat) (bs : List Byte) : (s.cxlReadOk p l bs).cxl = s.cxl ∧
    (s.cxlReadOk p l bs).page = s.page ∧ ∃ load, (s.cxlReadOk p l bs).out = .cxlData p l bs false load :: s.out := ⟨rfl, rfl, _, rfl⟩

theorem regReset_dropCause {p : Nat} (hp : p < 2) : regReset (pg (hptPage p) + 0x148) = 0 := by
  interval_cases p <;> rfl

/-- A dropped write changes no memory and reports its cause and LD (11 R406). -/
theorem cxlDrop_answers (s : State) {p l cause : Nat} (a : Nat) (hp : p < 2) (hl : l < 8) (hcause : 0 < cause) (hbound : cause < 4) :
    (s.cxlDrop p l a cause).cxl = s.cxl ∧ (s.cxlDrop p l a cause).page = s.page ∧
    (∃ load, (s.cxlDrop p l a cause).out.head? = some (.cxlCmp p l load)) ∧
    (s.cxlDrop p l a cause).reg (pg (hptPage p) + 0x148) = w32 (cause * 2 ^ 8 + l) := by
  have hnotes : RasOnly s (s.cxlDrop p l a cause) :=
    ((((rasOnly_setReg s _ _).trans (rasOnly_setReg _ _ _)).trans (rasOnly_setReg _ _ _)).trans (rasOnly_count _ _ _ _)).trans
      ((rasOnly_rasRecord _ _ _ _ _ _).trans (rasOnly_send _ _))
  refine ⟨hnotes.cxl, hnotes.page, ⟨_, rfl⟩, ?_⟩
  have hnew : w32 (cause * 2 ^ 8 + l) ≠ regReset (pg (hptPage p) + 0x148) := by
    rw [regReset_dropCause hp]
    intro h
    have := congrArg BitVec.toNat h
    simp only [w32, BitVec.toNat_ofNat, BitVec.ofNat_eq_ofNat, Nat.zero_mod] at this
    omega
  have hpage : (pg (hptPage p) + 0x148) / 0x1000 ≠ rasPage := by
    simp only [pg, hptPage, rasPage]
    omega
  refine ((notedOn_rasRecord _ (hptPage p) 0x09 0 l a).2 _ hpage (.inr (by omega))).trans ?_
  rw [reg_count_ne _ (by omega) (by omega)]
  exact reg_setReg_new _ _ hnew

/-! ### What no answer with poison reads: the pool -/

/-- The block interrupt message on one port (12 R440). -/
def State.blockIntTo (s : State) (p : Nat) : State :=
  if bit (s.reg (pg (0x48 + 4 * p) + 0x110)) 8 then s.msix p (fld (s.reg (pg (0x48 + 4 * p) + 0x110)) 0 8) else s

/-- The pool's bytes, set. -/
def State.setCxl (y : Mem) (s : State) : State := { s with cxl := y }

section
variable (s : State) (y : Mem)

theorem setPort_setCxl (p : Nat) (v : Port) : (s.setCxl y).setPort p v = (s.setPort p v).setCxl y := by
  unfold State.setPort
  rw [apply_ite (State.setCxl y)]
  rfl

theorem msix_setCxl (p vec : Nat) : (s.setCxl y).msix p vec = (s.msix p vec).setCxl y := by
  unfold State.msix
  simp only [apply_ite (State.setCxl y)]
  rfl

theorem blockInt_setCxl : (s.setCxl y).blockInt = s.blockInt.setCxl y := by
  have hone : ∀ (w : State) (p : Nat), (w.setCxl y).blockIntTo p = (w.blockIntTo p).setCxl y := by
    intro w p
    unfold State.blockIntTo
    rw [apply_ite (State.setCxl y), ← msix_setCxl]
    rfl
  exact (congrArg (fun w => State.blockIntTo w 1) (hone s 0)).trans (hone _ 1)

theorem count_setCxl (page o i : Nat) : (s.setCxl y).count page o i = (s.count page o i).setCxl y := by
  unfold State.count State.raise State.raiseBits
  simp only [apply_ite (State.setCxl y), ← blockInt_setCxl]
  rfl

theorem cxlPoison_setCxl (p l : Nat) : (s.setCxl y).cxlPoison p l = (s.cxlPoison p l).setCxl y := by
  have hcount := count_setCxl { s with free := s.free + 64 } y (hptPage p) 0x190 2
  unfold State.cxlPoison
  simp only []
  rw [show ({ s.setCxl y with free := (s.setCxl y).free + 64 } : State) = ({ s with free := s.free + 64 } : State).setCxl y from rfl, hcount]
  rfl

theorem fillTokens_setCxl (p : Nat) : (s.setCxl y).fillTokens p = (s.fillTokens p).setCxl y := setPort_setCxl s y p _

theorem takeTokens_setCxl (p l : Nat) : (s.setCxl y).takeTokens p l = (s.takeTokens p l).setCxl y := by
  unfold State.takeTokens
  rw [apply_ite (State.setCxl y), ← setPort_setCxl]
  rfl

end

/-! ### CXL_MEM_REQUEST (11 R406, R413) -/

/-- A request has taken its tokens. -/
def State.served (s : State) (p l : Nat) : State := (s.fillTokens p).takeTokens p l

theorem tokensOnly_served (s : State) (p l : Nat) : s.TokensOnly p (s.served p l) :=
  (tokensOnly_fillTokens s p).trans (tokensOnly_takeTokens _ p l)

/-- A request that its LD may make now, ahead of no other: it finds its tokens. -/
def State.MayServe (s : State) (p ld : Nat) : Prop :=
  s.ldOn p ld = true ∧ s.reached .memory = true ∧ (∀ w ∈ (s.port p).waits, w.ld ≠ ld) ∧ (s.fillTokens p).tokensOk p ld = true

theorem ldOn_port {s : State} {p ld : Nat} (h : s.ldOn p ld = true) : p < 2 := by
  rw [State.ldOn, Bool.and_eq_true] at h
  exact of_decide_eq_true h.1

theorem exec_cxlMemRequest (p ld : Nat) (req : CxlReq) (ue : Bool) (s : State) :
    exec (.cxlMemRequest p ld req ue) s = execCxlMemRequest p ld req ue s := rfl

theorem cxlMemRequest_off {s : State} {p ld : Nat} (h : s.ldOn p ld = false ∨ s.reached .memory = false) (req : CxlReq) (ue : Bool) :
    exec (.cxlMemRequest p ld req ue) s = .next s := congrArg Host.Outcome.next (if_pos (by simpa using h))

theorem cxlMemRequest_on {s : State} {p ld : Nat} (hon : s.ldOn p ld = true) (hmem : s.reached .memory = true) (req : CxlReq) (ue : Bool) :
    exec (.cxlMemRequest p ld req ue) s = .next (
      if !(s.fillTokens p).tokensOk p ld ∨ (s.port p).waits.any (fun x => decide (x.ld = ld)) then
        ((s.fillTokens p).setPort p { (s.fillTokens p).port p with
          waits := (s.port p).waits ++ [{ ld := ld, req := req, ue := ue, view := s.viewRead p ld req }],
          waitedAt := ((s.fillTokens p).port p).waitedAt.set ld (some (s.fillTokens p).clk) }).bump (pg (hptPage p) + 0x198)
      else (s.served p ld).cxlAnswer p ld req (s.viewRead p ld req) ue false) := by
  have hfill := tokensOnly_fillTokens s p
  have hwaits := hfill.port.2.2.1
  rw [exec_cxlMemRequest, execCxlMemRequest, if_neg (by simp [hon, hmem])]
  simp only [hwaits, hfill.viewRead]
  rfl

/-- A request waits without its tokens, or behind one that waits (11 R413). -/
theorem cxlMemRequest_waits {s : State} {p ld : Nat} (hon : s.ldOn p ld = true) (hmem : s.reached .memory = true)
    (h : (s.fillTokens p).tokensOk p ld = false ∨ ∃ w ∈ (s.port p).waits, w.ld = ld) (req : CxlReq) (ue : Bool) :
    ∃ u : State, exec (.cxlMemRequest p ld req ue) s = .next u ∧
      (u.port p).waits = (s.port p).waits ++ [{ ld := ld, req := req, ue := ue, view := s.viewRead p ld req }] ∧ u.out = s.out ∧
      u.cxl = s.cxl := by
  refine ⟨_, (cxlMemRequest_on hon hmem req ue).trans (congrArg _ (if_pos (by simpa using h))), ?_, ?_, ?_⟩
  · refine congrArg Port.waits (port_setPort_eq (s.fillTokens p) p _) |>.trans rfl
  · exact (State.setPort_out _ _ _).trans (tokensOnly_fillTokens s p).out
  · exact (State.setPort_cxl _ _ _).trans (tokensOnly_fillTokens s p).rasOnly.cxl

section
variable {s : State} {p ld : Nat} (hserve : s.MayServe p ld)
include hserve

theorem cxlMemRequest_served (req : CxlReq) (ue : Bool) : exec (.cxlMemRequest p ld req ue) s = .next
    ((s.served p ld).cxlAnswer p ld req (s.viewRead p ld req) ue false) := by
  obtain ⟨hon, hmem, hfirst, htok⟩ := hserve
  refine (cxlMemRequest_on hon hmem req ue).trans (congrArg _ (if_neg ?_))
  simpa [htok] using hfirst

theorem State.MayServe.setCxl (y : Mem) : (s.setCxl y).MayServe p ld := by
  obtain ⟨hon, hmem, hfirst, htok⟩ := hserve
  exact ⟨hon, hmem, hfirst, by rw [fillTokens_setCxl]; exact htok⟩

variable {a x : Nat} {e : List Word} (ha : lineOf a < 2 ^ 39) (hext : s.extentAt (lineOf a) = some (x, e))
  (hrev : s.extRevoke x = none) (hdead : s.extentDead x (lineOf a) = false)
include ha hext hrev hdead

/-- A read of an extent's line (11 R406, R407). -/
theorem cxlMemRequest_read (ue : Bool) : exec (.cxlMemRequest p ld (.read a) ue) s = .next (
    if (rfld e 0 0 16).testBit (8 * p + ld) then
      if ue then ((s.served p ld).cxlUe x (lineOf a)).cxlPoison p ld
      else (s.served p ld).cxlReadOk p ld (s.cxl.rdBytes (lineOf a) 64)
    else (s.served p ld).cxlPoison p ld) := by
  have h := (tokensOnly_served s p ld).rasOnly
  rw [cxlMemRequest_served hserve, ← h.cxl]
  exact congrArg _ (cxlRead_extent ha ((h.extentAt _).trans hext) ((h.extRevoke x).trans hrev) ((h.extentDead _ _).trans hdead) p ld _ ue false)

/-- A write of an extent's line by an LD in READ_MASK (11 R406, R407). -/
theorem cxlMemRequest_write (hread : (rfld e 0 0 16).testBit (8 * p + ld) = true) (bs : List Byte) :
    exec (.cxlMemRequest p ld (.write a bs) false) s = .next (
      if isWriter e (8 * p + ld) then (s.served p ld).cxlStore p ld (lineOf a) bs else (s.served p ld).cxlDrop p ld (lineOf a) 1) := by
  have h := (tokensOnly_served s p ld).rasOnly
  rw [cxlMemRequest_served hserve]
  exact congrArg _ (cxlWrite_extent ha ((h.extentAt _).trans hext) ((h.extRevoke x).trans hrev) ((h.extentDead _ _).trans hdead) hread bs false)

theorem cxlMemRequest_stores (hread : (rfld e 0 0 16).testBit (8 * p + ld) = true) (hen : bit (e.getD 1 0) 4 = true)
    (hwriter : rfld e 1 0 4 = 8 * p + ld) (bs : List Byte) :
    ∃ (u : State) (load : Nat), exec (.cxlMemRequest p ld (.write a bs) false) s = .next u ∧
      u.cxl = s.cxl.wrBytes (lineOf a) (bs.take 64) ∧ u.out = .cxlCmp p ld load :: s.out ∧ u.page = s.page ∧ u.host0 = s.host0 ∧
      u.host1 = s.host1 ∧ u.dir = s.dir ∧ u.ten = s.ten ∧
      (bs.length = 64 → s.cxl.wf = true → u.cxl.wf = true ∧ (∀ i, i < 64 → u.cxl.rd (lineOf a + i) = bs.getD i 0) ∧
        (∀ j, ¬ (lineOf a ≤ j ∧ j < lineOf a + 64) → u.cxl.rd j = s.cxl.rd j)) := by
  have h := tokensOnly_served s p ld
  obtain ⟨regs, load, hstore⟩ := cxlStore_eq (s.served p ld) p ld (lineOf a) bs
  refine ⟨_, load, (cxlMemRequest_write hserve ha hext hrev hdead hread bs).trans
    (congrArg _ ((if_pos (isWriter_iff.2 ⟨hen, hwriter⟩)).trans hstore)), ?_⟩
  exact ⟨congrArg (fun m : Mem => m.wrBytes _ _) h.rasOnly.cxl, congrArg _ h.out, h.rasOnly.page, by rw [h.rasOnly], by rw [h.rasOnly], h.rasOnly.dir, by rw [h.rasOnly],
    fun hlen hwf => by simpa only [h.rasOnly.cxl] using wrBytes_line hwf hlen (lineOf a)⟩

theorem cxlMemRequest_dropped (hld : ld < 8) (hread : (rfld e 0 0 16).testBit (8 * p + ld) = true)
    (hwriter : ¬ (bit (e.getD 1 0) 4 = true ∧ rfld e 1 0 4 = 8 * p + ld)) (bs : List Byte) :
    ∃ (u : State) (load : Nat), exec (.cxlMemRequest p ld (.write a bs) false) s = .next u ∧ u.cxl = s.cxl ∧ u.page = s.page ∧
      u.out.head? = some (.cxlCmp p ld load) ∧ u.reg (pg (0x40 + p) + 0x148) = w32 (0x100 + ld) := by
  have h := (tokensOnly_served s p ld).rasOnly
  obtain ⟨hcxl, hpage, ⟨load, hout⟩, hreg⟩ := cxlDrop_answers (s.served p ld) (lineOf a) (ldOn_port hserve.1) hld Nat.one_pos (by decide)
  exact ⟨_, load, (cxlMemRequest_write hserve ha hext hrev hdead hread bs).trans (congrArg _ (if_neg (mt isWriter_iff.1 hwriter))),
    hcxl.trans h.cxl, hpage.trans h.page, hout, hreg⟩

theorem cxlMemRequest_reads (hread : (rfld e 0 0 16).testBit (8 * p + ld) = true) :
    (∃ (u : State) (load : Nat), exec (.cxlMemRequest p ld (.read a) false) s = .next u ∧
      u.out = .cxlData p ld (s.cxl.rdBytes (lineOf a) 64) false load :: s.out ∧ u.cxl = s.cxl ∧ u.page = s.page) ∧
    (∃ (u : State) (load : Nat) (data : List Byte), exec (.cxlMemRequest p ld (.read a) true) s = .next u ∧
      u.out.head? = some (.cxlData p ld data true load)) := by
  have h := tokensOnly_served s p ld
  obtain ⟨hcxl, hpage, load, hout⟩ := cxlReadOk_answers (s.served p ld) p ld (s.cxl.rdBytes (lineOf a) 64)
  obtain ⟨-, -, data, load', hbad⟩ := cxlPoison_answers ((s.served p ld).cxlUe x (lineOf a)) p ld
  exact ⟨⟨_, load, (cxlMemRequest_read hserve ha hext hrev hdead false).trans (congrArg _ (if_pos hread)),
    hout.trans (congrArg _ h.out), hcxl.trans h.rasOnly.cxl, hpage.trans h.rasOnly.page⟩,
    ⟨_, load', data, (cxlMemRequest_read hserve ha hext hrev hdead true).trans (congrArg _ (if_pos hread)), hbad⟩⟩

/-- An LD outside READ_MASK gets poison, whatever the pool holds. -/
theorem cxlMemRequest_poisons (hread : (rfld e 0 0 16).testBit (8 * p + ld) = false) :
    ∃ (u : State) (load : Nat) (data : List Byte), exec (.cxlMemRequest p ld (.read a) false) s = .next u ∧
      u.out.head? = some (.cxlData p ld data true load) ∧ u.cxl = s.cxl ∧ u.page = s.page ∧
      (∀ y, exec (.cxlMemRequest p ld (.read a) false) { s with cxl := y } = .next { u with cxl := y }) := by
  have h := (tokensOnly_served s p ld).rasOnly
  have hno := Bool.eq_false_iff.1 hread
  obtain ⟨hcxl, hpage, data, load, hout⟩ := cxlPoison_answers (s.served p ld) p ld
  refine ⟨_, load, data, (cxlMemRequest_read hserve ha hext hrev hdead false).trans (congrArg _ (if_neg hno)), hout,
    hcxl.trans h.cxl, hpage.trans h.page, fun y => ?_⟩
  refine (cxlMemRequest_read (hserve.setCxl y) ha hext hrev hdead false).trans (congrArg _ ((if_neg hno).trans ?_))
  rw [State.served, fillTokens_setCxl, takeTokens_setCxl, cxlPoison_setCxl]
  rfl

end

/-! ### The view window (11 R409, R411) -/

/-- The 64 bytes that a view mapping shows from offset `o` of the window. -/
def State.viewLine (s : State) (v : ViewMap) (o : Nat) : List Byte := (List.range 64).map (fun i =>
  if o - v.granule * 65536 + i < v.bytes then s.page.rd (pageAddr v.pset v.page (o - v.granule * 65536 + i)) else 0)

theorem touchPset_frame (s : State) (i : Nat) : ∃ dir, s.touchPset i = { s with dir := dir } := by
  have htouch : ∀ (l : List (Nat × Slot)) (w : State), ∃ dir, l.foldl (fun w e => w.touch e.1) w = { w with dir := dir } := by
    intro l
    induction l with
    | nil => exact fun w => ⟨w.dir, rfl⟩
    | cons e l ih =>
      intro w
      obtain ⟨dir, h⟩ := ih (w.touch e.1)
      exact ⟨dir, h⟩
  exact htouch _ s

section
variable {s : State} {p ld a : Nat} (hserve : s.MayServe p ld) (hlo : 2 ^ 39 ≤ lineOf a)
  (hhi : lineOf a < 2 ^ 39 + fld (s.port p).view 0 9 * 2 ^ 30)
include hserve hlo hhi

/-- The window is no memory that a host writes. -/
theorem cxlMemRequest_windowWrite (hld : ld < 8) (bs : List Byte) :
    ∃ (u : State) (load : Nat), exec (.cxlMemRequest p ld (.write a bs) false) s = .next u ∧ u.cxl = s.cxl ∧ u.page = s.page ∧
      u.out.head? = some (.cxlCmp p ld load) ∧ u.reg (pg (0x40 + p) + 0x148) = w32 (0x200 + ld) := by
  have h := tokensOnly_served s p ld
  obtain ⟨hcxl, hpage, ⟨load, hout⟩, hreg⟩ := cxlDrop_answers (s.served p ld) (lineOf a) (ldOn_port hserve.1) hld Nat.two_pos (by decide)
  refine ⟨_, load, (cxlMemRequest_served hserve _ _).trans (congrArg _ (if_pos ⟨hlo, ?_⟩)), hcxl.trans h.rasOnly.cxl,
    hpage.trans h.rasOnly.page, hout, hreg⟩
  rwa [h.port.1]

/-- A granule that a view maps reads as the page set that it shows. -/
theorem cxlMemRequest_windowRead {o : Nat} {v : ViewMap} (ho : o = lineOf a - 2 ^ 39)
    (hview : (s.port p).views.find? (fun v => decide (v.ld = ld ∧ v.granule ≤ o / 65536 ∧ o / 65536 < v.granule + v.count)) = some v)
    (hsound : s.psetPoison v.pset = false) :
    ∃ (u : State) (load : Nat), exec (.cxlMemRequest p ld (.read a) false) s = .next u ∧ u.page = s.page ∧ u.cxl = s.cxl ∧
      u.out = .cxlData p ld (s.viewLine v o) false load :: s.out := by
  have h := tokensOnly_served s p ld
  have hin : o < fld ((s.served p ld).port p).view 0 9 * 2 ^ 30 := by
    rw [h.port.1]
    omega
  have hsees : s.viewRead p ld (.read a) = some { map := v, poison := false, bytes := s.viewLine v o } := by
    simp only [State.viewRead, if_neg (Nat.not_lt.2 hlo), ← ho, hview, Option.map_some, hsound, State.viewLine]
  have hanswer : (s.served p ld).cxlRead p ld (lineOf a) (s.viewRead p ld (.read a)) false false =
      ((s.served p ld).touchPset v.pset).cxlReadOk p ld (s.viewLine v o) := by
    simp only [State.cxlRead, if_pos hlo, ← ho, if_pos hin, hsees, Bool.false_eq_true, if_false]
  obtain ⟨dir, htouch⟩ := touchPset_frame (s.served p ld) v.pset
  obtain ⟨hcxl, hpage, load, hout⟩ := cxlReadOk_answers ((s.served p ld).touchPset v.pset) p ld (s.viewLine v o)
  rw [htouch] at hcxl hpage hout
  rw [htouch] at hanswer
  exact ⟨_, load, (cxlMemRequest_served hserve _ _).trans (congrArg _ hanswer), hpage.trans h.rasOnly.page, hcxl.trans h.rasOnly.cxl,
    hout.trans (congrArg _ h.out)⟩

end

/-! ### CXL_TOKEN_GRANT (11 R413) -/

/-- A waiting request leaves the queue with its tokens. -/
def State.granted (s : State) (p ld : Nat) (w : CxlWait) : State :=
  (s.setPort p { s.port p with
    waits := (s.port p).waits.erase w, waitedAt := (s.port p).waitedAt.set ld (some s.clk) }).takeTokens p ld

theorem cxlTokenGrant_cases {s : State} {p : Nat} (hp : p < 2) (ld t : Nat) :
    exec (.cxlTokenGrant p ld t) s = .next (
      match (s.port p).waits.find? (fun x => decide (x.ld = ld)) with
      | none => (s.at_ t).fillTokens p
      | some w =>
        if !((s.at_ t).fillTokens p).tokensOk p ld then (s.at_ t).fillTokens p
        else
          let v := ((s.at_ t).fillTokens p).granted p ld w
          (v.cxlAnswer p ld w.req w.view w.ue (v.reqOld p ld w.req)).cxlOld p ld) := by
  have hwaits : (((s.at_ t).fillTokens p).port p).waits = (s.port p).waits := (tokensOnly_fillTokens (s.at_ t) p).port.2.2.1
  refine congrArg Host.Outcome.next ((if_neg (Nat.not_le.2 hp)).trans ?_)
  rw [← hwaits]
  rfl

section
variable {s : State} {p ld t : Nat} (hp : p < 2)
include hp

theorem cxlTokenGrant_none (h : (s.port p).waits.find? (fun x => decide (x.ld = ld)) = none) :
    exec (.cxlTokenGrant p ld t) s = .next ((s.at_ t).fillTokens p) := by
  rw [cxlTokenGrant_cases hp, h]

variable {w : CxlWait} (hw : (s.port p).waits.find? (fun x => decide (x.ld = ld)) = some w)
include hw

theorem cxlTokenGrant_waits (htok : ((s.at_ t).fillTokens p).tokensOk p ld = false) :
    exec (.cxlTokenGrant p ld t) s = .next ((s.at_ t).fillTokens p) := by
  rw [cxlTokenGrant_cases hp, hw]
  exact congrArg _ (if_pos (by rw [htok]; rfl))

theorem cxlTokenGrant_answers (htok : ((s.at_ t).fillTokens p).tokensOk p ld = true) : ∃ u v : State,
    exec (.cxlTokenGrant p ld t) s = .next (u.cxlOld p ld) ∧ u = v.cxlAnswer p ld w.req w.view w.ue (v.reqOld p ld w.req) ∧
      (v.port p).waits = (s.port p).waits.erase w := by
  refine ⟨_, ((s.at_ t).fillTokens p).granted p ld w, ?_, rfl, ?_⟩
  · rw [cxlTokenGrant_cases hp, hw]
    exact congrArg _ (if_neg (by rw [htok]; exact Bool.false_ne_true))
  · rw [State.granted, (tokensOnly_takeTokens _ p ld).port.2.2.1, port_setPort_eq]
    exact congrArg (fun l : List CxlWait => l.erase w) (tokensOnly_fillTokens (s.at_ t) p).port.2.2.1

end

/-! ### HDM_COMMIT (11 R404) -/

theorem exec_hdmCommit (p ld dec base size ways gran : Nat) (s : State) : exec (.hdmCommit p ld dec base size ways gran) s = .next (
    if s.ldOn p ld ∧ dec < 4 ∧ [1, 2, 4, 8].contains ways ∧ [256, 512, 1024, 2048, 4096, 8192, 16384].contains gran then
      s.setPort p { s.port p with
        hdm := sset (s.port p).hdm Hdm.none (4 * ld + dec) { committed := true, base := base, size := size, ways := ways, gran := gran } }
    else s) := rfl

theorem hdmCommit_commits {s : State} {p ld dec ways gran : Nat} (hon : s.ldOn p ld = true) (hdec : dec < 4) (hways : ways ∈ [1, 2, 4, 8])
    (hgran : gran ∈ [256, 512, 1024, 2048, 4096, 8192, 16384]) (base size : Nat) :
    ∃ u : State, exec (.hdmCommit p ld dec base size ways gran) s = .next u ∧
      sget (u.port p).hdm Hdm.none (4 * ld + dec) = { committed := true, base := base, size := size, ways := ways, gran := gran } := by
  refine ⟨_, (exec_hdmCommit p ld dec base size ways gran s).trans (congrArg _ (if_pos ⟨hon, hdec, List.contains_iff_mem.2 hways,
    List.contains_iff_mem.2 hgran⟩)), ?_⟩
  rw [port_setPort_eq]
  exact sget_sset_new _ fun e => absurd (congrArg Hdm.committed e) Bool.true_eq_false.mp

theorem hdmCommit_idle {s : State} {ways gran : Nat} (h : ways ∉ [1, 2, 4, 8] ∨ gran ∉ [256, 512, 1024, 2048, 4096, 8192, 16384])
    (p ld dec base size : Nat) : exec (.hdmCommit p ld dec base size ways gran) s = .next s := by
  refine (exec_hdmCommit p ld dec base size ways gran s).trans (congrArg _ (if_neg ?_))
  rintro ⟨-, -, hways, hgran⟩
  exact h.elim (fun h => h (List.contains_iff_mem.1 hways)) (fun h => h (List.contains_iff_mem.1 hgran))

/-- Settles O29: requests by where their line lies and who may access it, the wait for tokens and its end, and decoders by their
interleave. -/
theorem cxlRequestsAreAnswered : Obligations.CxlRequestsAreAnswered := by
  unfold Obligations.CxlRequestsAreAnswered
  refine ⟨fun s p ld a bs hon hmem hld hfirst htok => ?answered,
    fun s p ld req ue => ⟨fun hoff => cxlMemRequest_off hoff req ue, fun hon hmem hwait => cxlMemRequest_waits hon hmem hwait req ue⟩,
    fun s p ld t hp => ⟨cxlTokenGrant_none hp, fun w hw => ⟨cxlTokenGrant_waits hp hw, cxlTokenGrant_answers hp hw⟩⟩,
    fun s p ld dec base size ways gran hon hdec => ⟨fun hways hgran => hdmCommit_commits hon hdec hways hgran base size,
      fun h => hdmCommit_idle h p ld dec base size⟩⟩
  have hserve : s.MayServe p ld := ⟨hon, hmem, hfirst, htok⟩
  exact ⟨fun x e ha hext hrev hdead => ⟨fun hread hen hwriter => cxlMemRequest_stores hserve ha hext hrev hdead hread hen hwriter bs,
      fun hread hwriter => cxlMemRequest_dropped hserve ha hext hrev hdead hld hread hwriter bs,
      fun hread => cxlMemRequest_reads hserve ha hext hrev hdead hread,
      fun hread => cxlMemRequest_poisons hserve ha hext hrev hdead hread⟩,
    fun hlo hhi => ⟨cxlMemRequest_windowWrite hserve hlo hhi hld bs,
      fun o v ho hview hsound => cxlMemRequest_windowRead hserve hlo hhi ho hview hsound⟩⟩

end Sys2Proof.Machine

/-! The CXL mailbox (11 R403, R405) and the CDAT (11 R400): what a logical device answers, and the checksum of a table. -/

namespace Sys2Proof.Machine

/-! ### Bytes -/

/-- The sum of bytes, of which a table's checksum makes a multiple of 256 (11 R400). -/
def byteSum (bs : List Byte) : Nat := (bs.map (fun b => b.toNat)).sum

theorem byteSum_append (a b : List Byte) : byteSum (a ++ b) = byteSum a + byteSum b := by
  rw [byteSum, List.map_append, List.sum_append]
  rfl

theorem byteSum_one (n : Nat) : byteSum (leBytes 1 n) = n % 256 := by
  simp [byteSum, leBytes]

theorem byteSum_zero (k : Nat) : byteSum (leBytes k 0) = 0 := by
  induction k with
  | zero => rfl
  | succ k ih => simpa [byteSum, leBytes] using ih

/-- The checksum byte of a CDAT table completes the sum of the others to a multiple of 256. -/
theorem byteSum_cdatTable (body : List Byte) : byteSum (cdatTable body) % 256 = 0 := by
  have hsum : byteSum (cdatTable body) = byteSum (leBytes 4 (body.length + 16) ++ body) + 1 +
      (256 - (byteSum (leBytes 4 (body.length + 16) ++ body) + 1) % 256) % 256 := by
    simp only [cdatTable, byteSum_append, byteSum_one, byteSum_zero]
    rw [show ∀ l : List Byte, (l.map (fun b => b.toNat)).sum = byteSum l from fun _ => rfl, byteSum_append]
    omega
  omega

/-! ### Bytes that the spec does not give -/

@[simp] theorem length_freeBytes (s : State) (n : Nat) : (s.freeBytes n).1.length = n := by
  simp [State.freeBytes]

/-- Event records take 128 bytes each, and only count free values. -/
theorem eventsBytes_frame (es : List CxlEvent) (s : State) : (s.eventsBytes es).1.length = 128 * es.length ∧
    ∃ n, (s.eventsBytes es).2 = { s with free := n } := by
  induction es generalizing s with
  | nil => exact ⟨rfl, s.free, rfl⟩
  | cons e es ih =>
    obtain ⟨hlen, n, hframe⟩ := ih (s.eventBytes e).2
    refine ⟨?_, n, hframe⟩
    have hone : (s.eventBytes e).1.length = 128 := by simp [State.eventBytes]
    simp only [State.eventsBytes, List.length_append, List.length_cons, hone, hlen]
    omega

/-! ### The commands of the mailbox (11 R403, R405) -/

/-- A command of the mailbox of logical device `ld` of port `p`. -/
inductive MailboxCommand (p ld : Nat) : Instr → Prop where
  | identify : MailboxCommand p ld (.identifyMemoryDevice p ld)
  | health : MailboxCommand p ld (.getHealthInfo p ld)
  | logs : MailboxCommand p ld (.getSupportedLogs p ld)
  | log (u o n : Nat) : MailboxCommand p ld (.getLog p ld u o n)
  | events (g : Nat) : MailboxCommand p ld (.getEventRecords p ld g)
  | clear (g : Nat) (hs : List Nat) : MailboxCommand p ld (.clearEventRecords p ld g hs)
  | other (op : Nat) : MailboxCommand p ld (.mailboxUnsupported p ld op)

/-- A mailbox command is carried out by `f` on a logical device that is on, and does nothing elsewhere. -/
theorem mailboxCommand_onMailbox {p ld : Nat} {c : Instr} (h : MailboxCommand p ld c) :
    ∃ f : State → State, ∀ s, exec c s = .next (s.onMailbox p ld f) := by
  cases h with
  | other op =>
    by_cases hop : mailboxOps.contains op = true
    · exact ⟨id, fun s => congrArg Host.Outcome.next ((if_pos hop).trans (ite_self s).symm)⟩
    · exact ⟨_, fun s => congrArg Host.Outcome.next (if_neg hop)⟩
  | _ => exact ⟨_, fun s => rfl⟩

theorem onMailbox_off {s : State} {p ld : Nat} (h : s.ldOn p ld = false) (f : State → State) : s.onMailbox p ld f = s := by
  rw [State.onMailbox, h]
  rfl

theorem onMailbox_next {s : State} {p ld : Nat} (h : s.ldOn p ld = true) (f : State → State) :
    (.next (s.onMailbox p ld f) : Res) = .next (f s) := congrArg _ (if_pos h)

section
variable {s : State} {p ld : Nat} (hon : s.ldOn p ld = true)
include hon

/-- What IDENTIFY_MEMORY_DEVICE answers: capacities in 256 MiB between bytes that the spec does not give. -/
def State.identity (s : State) (p : Nat) : List Byte :=
  (s.freeBytes 16).1 ++ (leBytes 8 (s.ldBytes p / 2 ^ 28) ++ leBytes 8 (s.ldBytes p / 2 ^ 28) ++ leBytes 8 0 ++ leBytes 8 0) ++
    ((s.freeBytes 16).2.freeBytes 19).1

theorem identifyMemoryDevice_next : exec (.identifyMemoryDevice p ld) s = .next
    (((s.freeBytes 16).2.freeBytes 19).2.send (.mailbox p ld 0x4000 0 (s.identity p))) := by
  refine (onMailbox_next hon _).trans ?_
  simp only [State.identity, List.append_assoc]
  rfl

theorem identifyMemoryDevice_answers : ∃ (u : State) (b : List Byte), exec (.identifyMemoryDevice p ld) s = .next u ∧
    u.out = .mailbox p ld 0x4000 0 b :: s.out ∧
    (b.drop 16).take 32 = leBytes 8 (2048 + 4 * fld (s.port p).view 0 9) ++ leBytes 8 (2048 + 4 * fld (s.port p).view 0 9) ++
      leBytes 8 0 ++ leBytes 8 0 ∧ b.length = 67 := by
  have hunits : s.ldBytes p / 2 ^ 28 = 2048 + 4 * fld (s.port p).view 0 9 := by
    rw [State.ldBytes]
    omega
  refine ⟨_, _, identifyMemoryDevice_next hon, rfl, ?_, ?_⟩
  · rw [State.identity, hunits, List.append_assoc, List.drop_left' (length_freeBytes s 16)]
    exact List.take_left' (by simp)
  · simp [State.identity]

theorem getHealthInfo_answers : ∃ (u : State) (b : List Byte), exec (.getHealthInfo p ld) s = .next u ∧
    u.out = .mailbox p ld 0x4200 0 b :: s.out ∧ b.length = 18 ∧ u.regs = s.regs :=
  ⟨_, _, onMailbox_next hon _, rfl, length_freeBytes s 18, rfl⟩

theorem getLog_answers (u o n : Nat) : exec (.getLog p ld u o n) s = .next (
    if u = celUuid ∧ o + n ≤ celBytes.length then s.send (.mailbox p ld 0x0401 0 ((celBytes.drop o).take n))
    else s.send (.mailbox p ld 0x0401 2 [])) := onMailbox_next hon _

/-- What GET_EVENT_RECORDS answers: a header with the number of records, and the records of the log. -/
def State.eventAnswer (s : State) (es : List CxlEvent) : List Byte :=
  leBytes 20 0 ++ leBytes 2 es.length ++ leBytes 10 0 ++ (s.eventsBytes es).1

theorem getEventRecords_next {g : Nat} {es : List CxlEvent} (hes : es = (s.port p).events.filter (fun e => decide (e.log = g))) :
    exec (.getEventRecords p ld g) s = .next ((s.eventsBytes es).2.send (.mailbox p ld 0x0100 0 (s.eventAnswer es))) := by
  subst hes
  exact onMailbox_next hon _

theorem getEventRecords_answers (g : Nat) : ∃ (u : State) (b : List Byte), exec (.getEventRecords p ld g) s = .next u ∧
    u.out = .mailbox p ld 0x0100 0 b :: s.out ∧
    b.length = 32 + 128 * ((s.port p).events.filter (fun e => decide (e.log = g))).length ∧ u.port p = s.port p := by
  generalize hes : (s.port p).events.filter (fun e => decide (e.log = g)) = es
  obtain ⟨hlen, n, hframe⟩ := eventsBytes_frame es s
  refine ⟨_, s.eventAnswer es, getEventRecords_next hon hes.symm, ?_, ?_, ?_⟩
  · rw [hframe]
    rfl
  · simp only [State.eventAnswer, List.length_append, length_leBytes, hlen]
  · rw [hframe]
    rfl

theorem clearEventRecords_cases (g : Nat) (hs : List Nat) : exec (.clearEventRecords p ld g hs) s = .next (
    if hs.all (fun h => (s.port p).events.any (fun e => decide (e.log = g ∧ e.handle = h))) then
      (s.setPort p { s.port p with
        events := (s.port p).events.filter (fun e => !(decide (e.log = g) && hs.contains e.handle)) }).send (.mailbox p ld 0x0101 0 [])
    else s.send (.mailbox p ld 0x0101 0x0E [])) := onMailbox_next hon _

theorem clearEventRecords_clears {g : Nat} {hs : List Nat}
    (hall : ∀ h ∈ hs, ∃ e ∈ (s.port p).events, e.log = g ∧ e.handle = h) : ∃ u : State, exec (.clearEventRecords p ld g hs) s = .next u ∧
      ∀ e, e ∈ (u.port p).events ↔ e ∈ (s.port p).events ∧ ¬ (e.log = g ∧ e.handle ∈ hs) := by
  refine ⟨_, (clearEventRecords_cases hon g hs).trans (congrArg _ (if_pos (by simpa using hall))), fun e => ?_⟩
  rw [show ∀ (u : State) (o : Out), (u.send o).port p = u.port p from fun _ _ => rfl, port_setPort_eq]
  simp [Decidable.imp_iff_not_or]

theorem clearEventRecords_refused {g : Nat} {hs : List Nat}
    (hmiss : ∃ h ∈ hs, ∀ e ∈ (s.port p).events, ¬ (e.log = g ∧ e.handle = h)) :
    exec (.clearEventRecords p ld g hs) s = .next (s.send (.mailbox p ld 0x0101 0x0E [])) := by
  obtain ⟨h, hmem, hno⟩ := hmiss
  refine (clearEventRecords_cases hon g hs).trans (congrArg _ (if_neg fun hall => ?_))
  obtain ⟨e, he, hnamed⟩ := List.any_eq_true.1 (List.all_eq_true.1 hall h hmem)
  exact hno e he (of_decide_eq_true hnamed)

theorem mailboxUnsupported_answers {op : Nat} (hop : op ∉ mailboxOps) :
    exec (.mailboxUnsupported p ld op) s = .next (s.send (.mailbox p ld op 3 [])) :=
  (congrArg Host.Outcome.next (if_neg (by simpa using hop))).trans (onMailbox_next hon _)

end

/-! ### The CDAT (11 R400) -/

theorem exec_cdat (p ld : Nat) (s : State) : exec (.cdat p ld) s = .next (
    if s.doeOn p ld then s.send (.doe p ld (cdatTable (cdatBody (s.ldBytes p) (fld (s.hptBw p ld) 0 16)))) else s) := rfl

/-- Settles O30: every mailbox command runs on a logical device that is on, by its answer; a CDAT table by its checksum byte. -/
theorem mailboxAndCdatAnswer : Obligations.MailboxAndCdatAnswer := by
  unfold Obligations.MailboxAndCdatAnswer
  refine ⟨fun s p ld hoff c hc => ?off, fun s p ld hon => ⟨identifyMemoryDevice_answers hon, getHealthInfo_answers hon,
    onMailbox_next hon _, fun o n => ⟨fun hin => ?log, fun hout => ?past, fun x hx => ?otherLog⟩, getEventRecords_answers hon,
    fun g hs => clearEventRecords_clears hon, fun g hs => clearEventRecords_refused hon, fun op => mailboxUnsupported_answers hon⟩,
    fun s p ld => ⟨fun hoff => ?noDoe, fun hon => ?doe⟩, byteSum_cdatTable⟩
  case off =>
    have hcmd : MailboxCommand p ld c := by
      rcases hc with rfl | rfl | rfl | ⟨u, o, n, rfl⟩ | ⟨g, rfl⟩ | ⟨g, hs, rfl⟩ | ⟨op, rfl⟩
      · exact .identify
      · exact .health
      · exact .logs
      · exact .log u o n
      · exact .events g
      · exact .clear g hs
      · exact .other op
    obtain ⟨f, hf⟩ := mailboxCommand_onMailbox hcmd
    rw [hf, onMailbox_off hoff]
  case log => rw [getLog_answers hon, if_pos ⟨rfl, hin⟩]
  case past => rw [getLog_answers hon, if_neg fun h => absurd h.2 (Nat.not_le.2 hout)]
  case otherLog => rw [getLog_answers hon, if_neg fun h => hx h.1]
  case noDoe => rw [exec_cdat, if_neg (Bool.eq_false_iff.1 hoff)]
  case doe => rw [exec_cdat, if_pos hon]

end Sys2Proof.Machine

/-! The tenant page (11 R407, R419 to R423, R429): who may use it, its records, and the activation of extents. -/

namespace Sys2Proof.Machine

/-! ### Tables read by key -/

theorem mem_of_sget {α : Type} {d : α} {k : Nat} : ∀ {l : Sparse α}, sget l d k ≠ d → (k, sget l d k) ∈ l
  | [], h => absurd rfl h
  | (k', v) :: r, h => by
    by_cases hk : k = k'
    · subst hk
      simp [sget]
    · simp only [sget, if_neg hk] at h ⊢
      exact List.mem_cons_of_mem _ (mem_of_sget h)

/-- A table without some of its keys reads the default at those, and as before at the others. -/
theorem sget_filter_keys {α : Type} {d : α} {k : Nat} {keep : Nat → Bool} : ∀ {l : Sparse α},
    sget (l.filter (fun e => keep e.1)) d k = if keep k then sget l d k else d
  | [] => by simp [sget]
  | (k', v) :: r => by
    have ih := sget_filter_keys (d := d) (k := k) (keep := keep) (l := r)
    by_cases hk : k = k'
    · subst hk
      cases hkeep : keep k <;> simp_all [sget]
    · cases hkeep : keep k' <;> simp [hkeep, sget, hk, ih]

theorem Mem.rd_clear (m : Mem) (a n j : Nat) : (m.clear a n).rd j = if a ≤ j ∧ j < a + n then 0 else m.rd j := by
  refine (sget_filter_keys (keep := fun k => decide (k < a ∨ a + n ≤ k))).trans ?_
  by_cases hj : a ≤ j ∧ j < a + n
  · rw [if_pos hj, if_neg]
    simpa using hj
  · rw [if_neg hj, if_pos]
    · rfl
    · exact decide_eq_true (by omega)

/-! ### Records of the tenant page -/

theorem record_of_tbl {s t : State} (h : t.ten.tbl = s.ten.tbl) (table i : Nat) : t.record table i = s.record table i := by
  simp only [State.record, h]

theorem record_setRecord_ne (s : State) {table i table' i' : Nat} (r : List Word) (hi : i < 4096) (hi' : i' < 4096)
    (h : (table', i') ≠ (table, i)) : (s.setRecord table i r).record table' i' = s.record table' i' := by
  refine sget_sset_ne _ fun e => h ?_
  obtain ⟨rfl, rfl⟩ : table' = table ∧ i' = i := by omega
  rfl

/-- A record with a bit set is no empty one. -/
theorem record_setRecord_new (s : State) (table i : Nat) {r : List Word} (h : r.all (fun w => decide (w = 0)) = false) :
    (s.setRecord table i r).record table i = r := by
  have hr : r ≠ [] := by
    rintro rfl
    exact Bool.noConfusion h
  simp only [State.record, State.setRecord, h, Bool.false_eq_true, if_false]
  exact sget_sset_new _ hr

theorem getD_zero_of_all {r : List Word} (h : r.all (fun w => decide (w = 0)) = true) : r.getD 0 0 = 0 := by
  cases r with
  | nil => rfl
  | cons w r => exact of_decide_eq_true (Bool.and_eq_true_iff.1 (List.all_cons ▸ h)).1

/-- A record that reads valid after a write of it is the one that was written. -/
theorem record_setRecord_valid {s : State} (hrising : s.ten.tbl.rising) {table i : Nat} {r : List Word}
    (h : rbit ((s.setRecord table i r).record table i) 0 31 = true) : (s.setRecord table i r).record table i = r := by
  cases hzero : r.all (fun w => decide (w = 0)) with
  | false => exact record_setRecord_new s table i hzero
  | true =>
    simp only [State.record, State.setRecord, hzero, if_true, sget_sset_self _ _ _ hrising] at h
    exact absurd h Bool.false_ne_true

/-! ### The routes of the fabric manager (11 R419, R420) -/

section
variable {s : State} {src : Src}

theorem onTen_denied (hon : s.pageOn src 0x6C = true) (hroute : s.fmRoute src = false) (f : State → State) :
    s.onTen src f = s.count 0x6C 0x190 1 := by
  rw [State.onTen, tenPage, hon, hroute]
  rfl

theorem onTen_allowed (hon : s.pageOn src 0x6C = true) (hroute : s.fmRoute src = true) (f : State → State) : s.onTen src f = f s := by
  rw [State.onTen, tenPage, hon, hroute]
  rfl

end

/-! ### Reads and writes of records (11 R421, R423) -/

theorem exec_tenOpRead (src : Src) (s : State) : exec (.tenOpRead src) s = .next (s.onTen src State.tenRead) := rfl
theorem exec_tenOpWrite (src : Src) (s : State) : exec (.tenOpWrite src) s = .next (s.onTen src State.tenWrite) := rfl
theorem exec_tenFm (src : Src) (v : Word) (s : State) : exec (.tenFm src v) s = .next (s.onTen src (fun s => s.tenFmWrite v)) := rfl

theorem tenRead_busy {s : State} (h : s.ten.busy ≠ none) : s.tenRead = s := by
  simp only [State.tenRead, Option.isSome_iff_ne_none.2 h, if_true]

theorem tenWrite_busy {s : State} (h : s.ten.busy ≠ none) : s.tenWrite = s := by
  simp only [State.tenWrite, Option.isSome_iff_ne_none.2 h, if_true]

/-- The state after a write that frees an active extent: its T1 is given up (11 R423). -/
def State.extentFreed (s : State) (t i : Nat) : State :=
  if t = 3 ∧ rfld (s.record t i) 0 30 2 = 1 ∧ rfld s.tenData 0 30 2 = 0 then
    { s with cxl := s.cxl.clear (rfld (s.record t i) 2 0 11 * 2 ^ 28) (extBytes (s.record t i)) } else s

theorem extentFreed_ten (s : State) (t i : Nat) : (s.extentFreed t i).ten = s.ten := by
  unfold State.extentFreed
  split <;> rfl

section
variable {s : State} {t i : Nat} (hfree : s.ten.busy = none) (hsel : s.tenSel = (t, i))
include hfree hsel

theorem tenRead_free : s.tenRead = if tableSize t ≤ i then s.tenResult 1 else (s.setTenData (s.record t i)).tenResult 0 := by
  simp only [State.tenRead, hfree, hsel, Option.isSome_none, Bool.false_eq_true, if_false]

theorem tenWrite_accepted (hcodes : s.tenCodes t i s.tenData = []) : s.tenWrite =
    if t = 3 ∧ rfld (s.record t i) 0 30 2 = 0 ∧ rfld s.tenData 0 30 2 = 1 then
      { s with ten := { s.ten with busy := some (i, s.tenData) } }
    else ((s.extentFreed t i).setRecord t i s.tenData).tenResult 0 := by
  simp only [State.tenWrite, hfree, hsel, hcodes, Option.isSome_none, Bool.false_eq_true, if_false]
  rfl

/-- A refused write reports the lowest code that it meets and changes no record (11 R421). -/
theorem tenWrite_refused (hcodes : s.tenCodes t i s.tenData ≠ []) : s.tenWrite.ten.tbl = s.ten.tbl ∧
    s.tenWrite.ten.result ∈ s.tenCodes t i s.tenData ∧ (∀ c ∈ s.tenCodes t i s.tenData, s.tenWrite.ten.result ≤ c) ∧
    s.tenWrite.cxl = s.cxl := by
  obtain ⟨c, r, hcons⟩ := List.exists_cons_of_ne_nil hcodes
  obtain ⟨hmem, hleast⟩ := List.min?_eq_some_iff.1 (List.min?_cons' (x := c) (xs := r))
  have hten : s.tenWrite.ten.tbl = s.ten.tbl ∧ s.tenWrite.ten.result = r.foldl min c ∧ s.tenWrite.cxl = s.cxl := by
    simp only [State.tenWrite, hfree, hsel, hcons, Option.isSome_none, Bool.false_eq_true, if_false]
    split <;> rw [count_eq] <;> exact ⟨rfl, rfl, rfl⟩
  obtain ⟨htbl, hresult, hcxl⟩ := hten
  rw [hcons, hresult]
  exact ⟨htbl, hmem, hleast, hcxl⟩

end

/-! ### Tenants apart (11 R422) -/

/-- No two valid tenant records share a TENANT_ID or a P_KEY. -/
def State.TenantsApart (s : State) : Prop :=
  ∀ i j, i < 1024 → j < 1024 → i ≠ j → rbit (s.record 0 i) 0 31 = true → rbit (s.record 0 j) 0 31 = true →
    rfld (s.record 0 i) 0 0 16 ≠ rfld (s.record 0 j) 0 0 16 ∧ rfld (s.record 0 i) 1 0 16 ≠ rfld (s.record 0 j) 1 0 16

/-- A tenant record is apart from the valid tenant records at other indices than `i`. -/
def State.ApartFrom (s : State) (i : Nat) (r : List Word) : Prop :=
  ∀ j, j < 1024 → j ≠ i → rbit (s.record 0 j) 0 31 = true →
    rfld (s.record 0 j) 0 0 16 ≠ rfld r 0 0 16 ∧ rfld (s.record 0 j) 1 0 16 ≠ rfld r 1 0 16

theorem State.TenantsApart.of_tbl {s u : State} (h : s.TenantsApart) (htbl : u.ten.tbl = s.ten.tbl) : u.TenantsApart := by
  intro i j
  rw [record_of_tbl htbl, record_of_tbl htbl]
  exact h i j

/-- A valid record stands among the others of its table. -/
theorem record_mem_others {s : State} {t i j : Nat} (hj : j < 4096) (hne : j ≠ i) (hvalid : rbit (s.record t j) 0 31 = true) :
    s.record t j ∈ s.others t i := by
  have hlisted : s.record t j ≠ [] := by
    intro h
    rw [h] at hvalid
    exact Bool.false_ne_true hvalid
  have hmem : (4096 * t + j, s.record t j) ∈ s.ten.tbl := mem_of_sget hlisted
  have hrecords : (j, s.record t j) ∈ s.records t := by
    refine List.mem_map.2 ⟨_, List.mem_filter.2 ⟨hmem, decide_eq_true ?_⟩, ?_⟩
    · show (4096 * t + j) / 4096 = t
      omega
    · show ((4096 * t + j) % 4096, s.record t j) = (j, s.record t j)
      rw [show (4096 * t + j) % 4096 = j by omega]
  refine List.mem_map.2 ⟨_, List.mem_filter.2 ⟨hrecords, ?_⟩, rfl⟩
  simp [hne, hvalid]

/-- A tenant record that no code refuses is apart from the others. -/
theorem apartFrom_of_codes {s : State} {i : Nat} {old new : List Word} (h : s.tenantCodes i old new = [])
    (hvalid : rbit new 0 31 = true) : s.ApartFrom i new := by
  intro j hj hne hother
  have hcode := (List.append_eq_nil_iff.1 h).2
  have hclash : (s.others 0 i).any (fun r => decide (rfld r 0 0 16 = rfld new 0 0 16 ∨ rfld r 1 0 16 = rfld new 1 0 16)) = false := by
    by_contra hany
    rw [if_pos (.inr ⟨hvalid, Bool.not_eq_false _ ▸ hany⟩)] at hcode
    exact List.cons_ne_nil _ _ hcode
  have hpair := List.any_eq_false.1 hclash _ (record_mem_others (by omega) hne hother)
  simpa using hpair

theorem State.TenantsApart.setRecord {s : State} (h : s.TenantsApart) (hrising : s.ten.tbl.rising) {t i : Nat} {new : List Word}
    (hi : i < 1024) (hnew : t = 0 → rbit new 0 31 = true → s.ApartFrom i new) : (s.setRecord t i new).TenantsApart := by
  have hother : ∀ {j}, j < 1024 → (0, j) ≠ (t, i) → (s.setRecord t i new).record 0 j = s.record 0 j := fun hj hne =>
    record_setRecord_ne s new (by omega) (by omega) hne
  have hwritten : ∀ j k, j < 1024 → k < 1024 → j ≠ k → (0, j) = (t, i) → rbit ((s.setRecord t i new).record 0 j) 0 31 = true →
      rbit ((s.setRecord t i new).record 0 k) 0 31 = true →
      rfld ((s.setRecord t i new).record 0 k) 0 0 16 ≠ rfld ((s.setRecord t i new).record 0 j) 0 0 16 ∧
        rfld ((s.setRecord t i new).record 0 k) 1 0 16 ≠ rfld ((s.setRecord t i new).record 0 j) 1 0 16 := by
    intro j k hj hk hne hthis hvalid hvalid'
    obtain ⟨rfl, rfl⟩ := Prod.mk.inj hthis
    have hself := record_setRecord_valid hrising hvalid
    rw [hother hk (fun e => hne (Prod.mk.inj e).2.symm)] at hvalid' ⊢
    rw [hself] at hvalid ⊢
    exact hnew rfl hvalid k hk hne.symm hvalid'
  intro j k hj hk hne hvalid hvalid'
  by_cases hjthis : (0, j) = (t, i)
  · obtain ⟨hid, hkey⟩ := hwritten j k hj hk hne hjthis hvalid hvalid'
    exact ⟨hid.symm, hkey.symm⟩
  · by_cases hkthis : (0, k) = (t, i)
    · exact hwritten k j hk hj hne.symm hkthis hvalid' hvalid
    · rw [hother hj hjthis] at hvalid ⊢
      rw [hother hk hkthis] at hvalid' ⊢
      exact h j k hj hk hne hvalid hvalid'

theorem tenSel_index {s : State} {t i : Nat} (h : s.tenSel = (t, i)) : i < 1024 := by
  obtain ⟨-, rfl⟩ := Prod.mk.inj h
  exact Nat.mod_lt _ (by decide)

/-- A write of the tenant page keeps the tenants apart. -/
theorem State.TenantsApart.tenWrite {s : State} (h : s.TenantsApart) (hrising : s.ten.tbl.rising) : s.tenWrite.TenantsApart := by
  by_cases hbusy : s.ten.busy = none
  case neg => rwa [tenWrite_busy hbusy]
  rcases hsel : s.tenSel with ⟨t, i⟩
  by_cases hcodes : s.tenCodes t i s.tenData = []
  case neg => exact h.of_tbl (tenWrite_refused hbusy hsel hcodes).1
  have hi := tenSel_index hsel
  rw [tenWrite_accepted hbusy hsel hcodes]
  split
  · exact h.of_tbl rfl
  · have hfreed := h.of_tbl (congrArg Ten.tbl (extentFreed_ten s t i))
    refine State.TenantsApart.of_tbl (hfreed.setRecord ?_ hi ?_) rfl
    · rwa [extentFreed_ten]
    · rintro rfl hvalid
      have hold : s.tenantCodes i (s.record 0 i) s.tenData = [] := by
        rwa [State.tenCodes, if_neg (show ¬ tableSize 0 ≤ i from Nat.not_le.2 hi), if_pos rfl] at hcodes
      intro j
      rw [record_of_tbl (congrArg Ten.tbl (extentFreed_ten s 0 i))]
      exact apartFrom_of_codes hold hvalid j

theorem tenOpWrite_apart {s u : State} {src : Src} (hrising : s.ten.tbl.rising) (h : s.TenantsApart)
    (hu : exec (.tenOpWrite src) s = .next u) : u.TenantsApart := by
  obtain rfl : s.onTen src State.tenWrite = u := Host.Outcome.next.inj hu
  unfold State.onTen
  split
  · exact h
  · split
    · exact h.tenWrite hrising
    · refine h.of_tbl ?_
      rw [State.tenDenied, count_eq]

/-! ### Activation (11 R407, R421, R423) -/

theorem extentActivate_idle {s : State} (h : s.ten.busy = none) : exec .extentActivate s = .next s := by
  rw [show exec .extentActivate s = execExtentActivate s from rfl, execExtentActivate, h]

theorem extentActivate_takes {s : State} {i : Nat} {r : List Word} (h : s.ten.busy = some (i, r)) :
    exec .extentActivate s = .next (s.extentTake i r (extBytes r)) := by
  rw [show exec .extentActivate s = execExtentActivate s from rfl, execExtentActivate, h]

theorem freeT1_room {s : State} {b : Nat} (h : b ≤ s.freeSpace 1) (n : Nat) : State.freeT1 n s b = s := by
  cases n with
  | zero => rfl
  | succ n => exact if_pos h

theorem cacheTrim_frame (n : Nat) (s : State) : ∃ pfs, s.cacheTrim n = { s with pfs := pfs } := by
  induction n generalizing s with
  | zero => exact ⟨s.pfs, rfl⟩
  | succ n ih =>
    unfold State.cacheTrim
    simp only []
    split
    · exact ⟨s.pfs, rfl⟩
    · split
      · exact ⟨s.pfs, rfl⟩
      · exact ih _

/-- With room in T1 an activation clears the extent's T1, writes its record and ends. -/
theorem extentTake_room {s : State} {b : Nat} (h : b ≤ s.freeSpace 1) (i : Nat) (r : List Word) : ∃ hlt pfs, s.extentTake i r b =
    { s with cxl := s.cxl.clear (rfld r 2 0 11 * 2 ^ 28) b, hlt := hlt, pfs := pfs,
             ten := { (s.setRecord 3 i r).ten with busy := none, result := 0 } } := by
  unfold State.extentTake
  simp only [freeT1_room h, if_neg (Nat.not_lt.2 h)]
  obtain ⟨pfs, htrim⟩ := cacheTrim_frame s.pfs.cache.length
    { State.setRecord { s with cxl := s.cxl.clear (rfld r 2 0 11 * 2 ^ 28) b } 3 i r with
      hlt := { s.hlt with deadExt := s.hlt.deadExt.filter (fun e => decide (e.1 ≠ i)) } }
  exact ⟨_, pfs, congrArg (fun u : State => ({ u with ten := { u.ten with busy := none, result := 0 } } : State)) htrim⟩

/-- An extent that is going to be active has a record with a bit set. -/
theorem all_zero_of_active {r : List Word} (h : rfld r 0 30 2 = 1) : r.all (fun w => decide (w = 0)) = false := by
  refine Bool.eq_false_iff.2 fun hall => ?_
  rw [rfld, getD_zero_of_all hall] at h
  exact absurd h (by decide)

theorem extentActivate_activates {s : State} {i : Nat} {r : List Word} (hbusy : s.ten.busy = some (i, r))
    (hroom : extBytes r ≤ s.freeSpace 1) (hactive : rfld r 0 30 2 = 1) :
    ∃ u : State, exec .extentActivate s = .next u ∧ u.ten.busy = none ∧ u.ten.result = 0 ∧ u.record 3 i = r ∧
      (∀ a, rfld r 2 0 11 * 2 ^ 28 ≤ a → a < rfld r 2 0 11 * 2 ^ 28 + extBytes r → u.cxl.rd a = 0) ∧
      (∀ a, ¬ (rfld r 2 0 11 * 2 ^ 28 ≤ a ∧ a < rfld r 2 0 11 * 2 ^ 28 + extBytes r) → u.cxl.rd a = s.cxl.rd a) ∧
      u.dir = s.dir ∧ u.tier = s.tier ∧ u.page = s.page := by
  obtain ⟨hlt, pfs, htake⟩ := extentTake_room hroom i r
  exact ⟨_, (extentActivate_takes hbusy).trans (congrArg _ htake), rfl, rfl, record_setRecord_new s 3 i (all_zero_of_active hactive),
    fun a hlo hhi => (Mem.rd_clear _ _ _ a).trans (if_pos ⟨hlo, hhi⟩), fun a ha => (Mem.rd_clear _ _ _ a).trans (if_neg ha), rfl, rfl, rfl⟩

/-- Settles O31: accesses by their route, operations of the window by the codes that they meet, tenants apart as every write keeps them,
and an activation by its room. -/
theorem tenantPageRecords : Obligations.TenantPageRecords := by
  unfold Obligations.TenantPageRecords
  refine ⟨fun s src v hon hroute => ?denied, fun s src hon hroute hfree t i hsel => ?operations,
    fun s u src hrising hapart hu => tenOpWrite_apart hrising hapart hu, fun s src hbusy hon hroute => ?busy,
    fun s => ⟨extentActivate_idle, fun i r => extentActivate_takes,
      fun i r hbusy hi hroom hactive hwf => extentActivate_activates hbusy hroom hactive⟩, fun s src v hon hroute => ?fm⟩
  case denied =>
    rw [exec_tenOpRead, exec_tenOpWrite, exec_tenFm, onTen_denied hon hroute, onTen_denied hon hroute, onTen_denied hon hroute]
    exact ⟨rfl, rfl, rfl⟩
  case operations =>
    rw [exec_tenOpRead, exec_tenOpWrite, onTen_allowed hon hroute, onTen_allowed hon hroute, tenRead_free hfree hsel]
    refine ⟨fun hout => by rw [if_pos hout], fun hin => by rw [if_neg (Nat.not_le.2 hin)],
      fun hcodes => ⟨_, rfl, tenWrite_refused hfree hsel hcodes⟩, fun w hw hcodes hkeep => ?_, fun hcodes ht hwas hnew => ?_⟩
    · have hfreed : s.extentFreed t i = w := by
        rw [hw, State.extentFreed]
        by_cases ht : t = 3
        · subst ht
          rfl
        · rw [if_neg (fun h => ht h.1), if_neg (fun h => ht h.1)]
      have hnot : ¬ (t = 3 ∧ rfld (s.record t i) 0 30 2 = 0 ∧ rfld s.tenData 0 30 2 = 1) := by
        rintro ⟨rfl, hwas, hnew⟩
        exact hkeep rfl hwas hnew
      rw [tenWrite_accepted hfree hsel hcodes, if_neg hnot, hfreed]
      refine ⟨rfl, fun t' i' hi' hi hne => ?_⟩
      refine (record_of_tbl rfl t' i').trans ((record_setRecord_ne w s.tenData (by omega) (by omega) hne).trans ?_)
      exact record_of_tbl (congrArg Ten.tbl (hfreed ▸ extentFreed_ten s t i)) t' i'
    · subst ht
      rw [tenWrite_accepted hfree hsel hcodes, if_pos ⟨rfl, hwas, hnew⟩]
  case busy =>
    rw [exec_tenOpRead, exec_tenOpWrite, onTen_allowed hon hroute, onTen_allowed hon hroute, tenRead_busy hbusy, tenWrite_busy hbusy]
    exact ⟨rfl, rfl⟩
  case fm =>
    rw [exec_tenFm, onTen_allowed hon hroute, State.tenFmWrite]
    exact ⟨fun h => by rw [if_pos h], fun h => by rw [if_neg h]⟩

end Sys2Proof.Machine

/-! The end of a revocation (11 R417): a tenant table that the statement does not exclude. -/

namespace Sys2Proof.Machine

/-- A tenant table that lists host extent 0 twice, each time VALID: no run reaches it, since keys rise in every table of a state that a
run reaches. -/
def extentListedTwice : State := { State.reset with ten := { State.reset.ten with
  tbl := [(4096 * 4, [0x80000000]), (4096 * 4, [0x80000000])] } }

/-- A revocation of host extent 0 with nothing outstanding. -/
def hostRevocation : Revoke := { id := 0, kind := 1, index := 0, clearMask := 0, clearWriter := false, cxl := [], reads := [] }

/-- The end of a command that has ended already, after an interrupt, leaves the tenant page as it is. -/
theorem done_raise_ten {s : State} {id : Nat} (hgone : s.live id = none) (page i : Nat) (w3 : Word) (rs : List Word) :
    ((s.raise page i).done id w3 rs).ten = s.ten := by
  have hlive : (s.raise page i).live id = none := by
    rw [raise_eq]
    exact hgone
  simp only [State.done, State.complete, hlive]
  rw [raise_eq]
  rfl

/-- The record of a host extent without its VALID bit (11 R417). -/
def invalidated (e : List Word) : List Word := [e.getD 0 0 &&& 0x7FFFFFFF] ++ e.drop 1

/-- A host extent's revocation has ended in the tenant page: the record is invalid and the revocation is off the list. -/
def State.hostRevoked (s : State) (r : Revoke) : State :=
  let w := s.setRecord 4 r.index (invalidated (s.record 4 r.index))
  { w with ten := { w.ten with revs := w.ten.revs.filter (fun x => decide (x.id ≠ r.id)) } }

theorem revokeEnd_host {r : Revoke} (hkind : r.kind = 1) (s : State) : s.revokeEnd r =
    ((s.hostRevoked r).raise (hptPage (rfld (s.record 4 r.index) 0 16 1)) 4).done r.id 0 [0, 0, 0, 0] := by
  unfold State.revokeEnd
  simp only [hkind, one_ne_zero, if_false]
  rfl

/-- The end of the revocation writes an empty record, which takes the first of the two entries out of the table: the second stays VALID. -/
theorem revokeEnd_extentListedTwice : rbit ((extentListedTwice.revokeEnd hostRevocation).record 4 0) 0 31 = true := by
  have hgone : (extentListedTwice.hostRevoked hostRevocation).live hostRevocation.id = none := rfl
  rw [revokeEnd_host rfl, record_of_tbl (congrArg Ten.tbl (done_raise_ten hgone _ _ _ _))]
  decide

/-- Refutes O32: the end of a revocation makes a host extent's record invalid only where the tenant table lists it once, and the statement
asks for every state. -/
theorem not_extentsAreRevoked : ¬ Obligations.ExtentsAreRevoked := by
  unfold Obligations.ExtentsAreRevoked
  rintro ⟨-, -, hend, -⟩
  obtain ⟨-, -, -, hhost⟩ := hend extentListedTwice hostRevocation
  exact Bool.noConfusion ((hhost rfl).symm.trans revokeEnd_extentListedTwice)

end Sys2Proof.Machine


/-! What every step keeps (02 R44; 15 R541, R542; 16 R578; 17 R592, R597, R605): the lemmas of the meanings, assembled. -/

namespace Sys2Proof.Machine

/-- Every command but FUSE_DONE keeps what `Keep` says, the phase and the failed stacks unless it may reset the device, the active
bank and the stroke unless it may replace them. -/
theorem keep_exec (c : Instr) (hc : ∀ t, c ≠ .fuseDone t) {z s u : State} (hK : Keep (!mayReplace c) (!mayReset c) z s)
    (e : exec c s = .next u) : Keep (!mayReplace c) (!mayReset c) z u := by
  cases c with
  | sqTail p q v => exact keep_execSqTail p q v s hK e
  | cqHead p q v => exact keep_execCqHead p q v s hK e
  | push p q ws => exact keep_execPush p q ws s hK e
  | commandFetch p => exact keep_execCommandFetch p s hK e
  | deferredCompletion p q => exact keep_execDeferredCompletion p q s hK e
  | coalesceTimer p q t => exact keep_execCoalesceTimer p q t s hK e
  | undefinedOpcode id => exact keep_execUndefinedOpcode id s hK e
  | lookup id => exact keep_execLookup id s hK e
  | hash id => exact keep_execHash id s hK e
  | openProof id => exact keep_execOpenProof id s hK e
  | renew id => exact keep_execRenew id s hK e
  | openView id => exact keep_execOpenView id s hK e
  | closeProof id => exact keep_execCloseProof id s hK e
  | proofLapse slot t => exact keep_execProofLapse slot t s hK e
  | publish id => exact keep_execPublish id s hK e
  | publishClaim id => exact keep_execPublishClaim id s hK e
  | commitPoint val => exact keep_execCommitPoint val s hK e
  | endPoint val => exact keep_execEndPoint val s hK e
  | retire id => exact keep_execRetire id s hK e
  | cascadeStep slot => exact keep_execCascadeStep slot s hK e
  | placeReserve id => exact keep_execPlaceReserve id s hK e
  | placeSet id => exact keep_execPlaceSet id s hK e
  | moveCommit pset => exact keep_execMoveCommit pset s hK e
  | copyRelease pset => exact keep_execCopyRelease pset s hK e
  | reservationLapse pset t => exact keep_execReservationLapse pset t s hK e
  | pressureReclaim tier => exact keep_execPressureReclaim tier s hK e
  | reclaimRetry tier t => exact keep_execReclaimRetry tier t s hK e
  | free id => exact keep_execFree id s hK e
  | discard id => exact keep_execDiscard id s hK e
  | discardRelocation id => exact keep_execDiscardRelocation id s hK e
  | deliver id => exact keep_execDeliver id s hK e
  | deliverChunk id => exact keep_execDeliverChunk id s hK e
  | deliverComplete id => exact keep_execDeliverComplete id s hK e
  | planLoad id => exact keep_execPlanLoad id s hK e
  | planUnload id => exact keep_execPlanUnload id s hK e
  | attend id => exact keep_execAttend id s hK e
  | attendSparse id => exact keep_execAttendSparse id s hK e
  | rerotate id => exact keep_execRerotate id s hK e
  | repackConvert id => exact keep_execRepackConvert id s hK e
  | repackLandmark id => exact keep_execRepackLandmark id s hK e
  | fence id => exact keep_execFence id s hK e
  | fenceDone id => exact keep_execFenceDone id s hK e
  | fenceTimeout id t => exact keep_execFenceTimeout id t s hK e
  | cfgCommit id => exact keep_execCfgCommit id s hK e
  | cfgRollback id => exact keep_execCfgRollback id s hK e
  | cfgCheckEnd t => exact keep_execCfgCheckEnd t s hK e
  | stats id => exact keep_execStats id s hK e
  | extentRevoke id => exact keep_execExtentRevoke id s hK e
  | revokeDrainEnd id => exact keep_execRevokeDrainEnd id s hK e
  | compatLookup id => exact keep_execCompatLookup id s hK e
  | compatDeliver id => exact keep_execCompatDeliver id s hK e
  | compatFree id => exact keep_execCompatFree id s hK e
  | strokeBoundary t => exact keep_execStrokeBoundary t s hK e
  | syncMessage t offset => exact keep_execSyncMessage t offset s hK e
  | syncLoss t => exact keep_execSyncLoss t s hK e
  | holdoverLimit t => exact keep_execHoldoverLimit t s hK e
  | ppsEdge t => exact keep_execPpsEdge t s hK e
  | ppsOut t => exact keep_execPpsOut t s hK e
  | peerDelayRequest n => exact keep_execPeerDelayRequest n s hK e
  | stkPringTail p v => exact keep_execStkPringTail p v s hK e
  | headerFetch p => exact keep_execHeaderFetch p s hK e
  | recordFetch p t => exact keep_execRecordFetch p t s hK e
  | windowOpen c t => exact keep_execWindowOpen c t s hK e
  | recordStart c t => exact keep_execRecordStart c t s hK e
  | windowClose c t => exact keep_execWindowClose c t s hK e
  | programSummary p target => exact keep_execProgramSummary p target s hK e
  | psaInsert slot => exact keep_execPsaInsert slot s hK e
  | psaCompaction slot bank => exact keep_execPsaCompaction slot bank s hK e
  | psaDrain bank slot => exact keep_execPsaDrain bank slot s hK e
  | psaScrubRead t => exact keep_execPsaScrubRead t s e hK
  | scrubLate bank t => exact keep_execScrubLate bank t s hK e
  | psaTempSample t temps => exact keep_execPsaTempSample t temps s hK e
  | bankFailed bank => exact keep_execBankFailed bank s hK e
  | psaForceFail src bank => exact keep_execPsaForceFail src bank s hK e
  | psaInject src bank => exact keep_execPsaInject src bank s hK e
  | psaRehome bank t => exact keep_execPsaRehome bank t s e hK
  | psaRebuild failing => exact keep_execPsaRebuild failing s hK e
  | operationStart => exact keep_execOperationStart s hK e
  | tileEnd core eng => exact keep_execTileEnd core eng s hK e
  | operationBoundary t => exact keep_execOperationBoundary t s hK e
  | engineFail core eng cause => exact keep_execEngineFail core eng cause s hK e
  | engineWatchdog core eng t => exact keep_execEngineWatchdog core eng t s hK e
  | periodicSelfTest core eng t => exact keep_execPeriodicSelfTest core eng t s hK e
  | selfTestEnd core eng t pass => exact keep_execSelfTestEnd core eng t pass s hK e
  | coreFail core cause => exact keep_execCoreFail core cause s hK e
  | failEngine src core mask => exact keep_execFailEngine src core mask s hK e
  | failCore src core => exact keep_execFailCore src core s hK e
  | brnInject src core => exact keep_execBrnInject src core s hK e
  | mergeTimeout id t => exact keep_execMergeTimeout id t s hK e
  | prefetchStep id => exact keep_execPrefetchStep id s hK e
  | prefetchReadIssue id => exact keep_execPrefetchReadIssue id s hK e
  | layerResident id layer => exact keep_execLayerResident id layer s hK e
  | flashOpStart ch => exact keep_execFlashOpStart ch s hK e
  | flashRead rid outcomes => exact keep_execFlashRead rid outcomes s hK e
  | t1UncorrectableRead tier pset page => exact keep_execT1UncorrectableRead tier pset page s hK e
  | t2ReadTimeout rid t => exact keep_execT2ReadTimeout rid t s hK e
  | repairRequest slot => exact keep_execRepairRequest slot s hK e
  | repairResponse slot => exact keep_execRepairResponse slot s hK e
  | repairTimeout slot t => exact keep_execRepairTimeout slot t s hK e
  | repairRetry slot t => exact keep_execRepairRetry slot t s hK e
  | segmentProgrammed stream result => exact keep_execSegmentProgrammed stream result s hK e
  | segmentFlush stream t => exact keep_execSegmentFlush stream t s hK e
  | journalFlush t => exact keep_execJournalFlush t s hK e
  | journalPageDurable result => exact keep_execJournalPageDurable result s hK e
  | checkpoint t => exact keep_execCheckpoint t s hK e
  | erase sb bad zeroBad => exact keep_execErase sb bad zeroBad s hK e
  | folding half => exact keep_execFolding half s hK e
  | garbageCollection half => exact keep_execGarbageCollection half s hK e
  | rewrite sb => exact keep_execRewrite sb s hK e
  | flashScrub sb slot t outcome => exact keep_execFlashScrub sb slot t outcome s hK e
  | wearLevelling => exact keep_execWearLevelling s hK e
  | dieFail die => exact keep_execDieFail die s hK e
  | dieRebuild sb => exact keep_execDieRebuild sb s hK e
  | mapRebuild entry => exact keep_execMapRebuild entry s hK e
  | flashRecovery found => exact keep_execFlashRecovery found s hK e
  | linkUp p speed width cxl mld ldUp => exact keep_execLinkUp p speed width cxl mld ldUp s hK e
  | dlDown p => exact keep_execDlDown p s hK e
  | perstL p => exact keep_execPerstL p s hK e
  | cxlMemRequest p ld req ue => exact keep_execCxlMemRequest p ld req ue s hK e
  | cxlTokenGrant p ld t => exact keep_execCxlTokenGrant p ld t s hK e
  | hdmCommit p ld dec base size ways gran => exact keep_execHdmCommit p ld dec base size ways gran s hK e
  | identifyMemoryDevice p ld => exact keep_execIdentifyMemoryDevice p ld s hK e
  | getHealthInfo p ld => exact keep_execGetHealthInfo p ld s hK e
  | getLog p ld uuid offset len => exact keep_execGetLog p ld uuid offset len s hK e
  | getSupportedLogs p ld => exact keep_execGetSupportedLogs p ld s hK e
  | getEventRecords p ld log => exact keep_execGetEventRecords p ld log s hK e
  | clearEventRecords p ld log handles => exact keep_execClearEventRecords p ld log handles s hK e
  | mailboxUnsupported p ld op => exact keep_execMailboxUnsupported p ld op s hK e
  | tenOpRead src => exact keep_execTenOpRead src s hK e
  | tenOpWrite src => exact keep_execTenOpWrite src s hK e
  | extentActivate => exact keep_execExtentActivate s hK e
  | tenFm src v => exact keep_execTenFm src v s hK e
  | mctpCommand ws => exact keep_execMctpCommand ws s hK e
  | mctpRegisterAccess acc => exact keep_execMctpRegisterAccess acc s hK e
  | qsEnable src p q v => exact keep_execQsEnable src p q v s hK e
  | qsDisable src p q v => exact keep_execQsDisable src p q v s hK e
  | qsDrainEnd p q => exact keep_execQsDrainEnd p q s hK e
  | dmaRun src ch => exact keep_execDmaRun src ch s hK e
  | dmaKick src ch => exact keep_execDmaKick src ch s hK e
  | dmaAbort src ch => exact keep_execDmaAbort src ch s hK e
  | dmaResume src => exact keep_execDmaResume src s hK e
  | descriptorFetch ch => exact keep_execDescriptorFetch ch s hK e
  | burstIssue ch => exact keep_execBurstIssue ch s hK e
  | burstComplete ch => exact keep_execBurstComplete ch s hK e
  | dmaBusError ch cause onFetch => exact keep_execDmaBusError ch cause onFetch s hK e
  | netPortUp n t => exact keep_execNetPortUp n t s hK e
  | netPortDown n => exact keep_execNetPortDown n s hK e
  | loopbackTest n t pass => exact keep_execLoopbackTest n t pass s hK e
  | packetReceive n f => exact keep_execPacketReceive n f s hK e
  | ackDelay qpn t => exact keep_execAckDelay qpn t s hK e
  | ackReceive n f => exact keep_execAckReceive n f s hK e
  | cnpReceive n f => exact keep_execCnpReceive n f s hK e
  | nakReceive n f => exact keep_execNakReceive n f s hK e
  | rnrRetry qpn t => exact keep_execRnrRetry qpn t s hK e
  | retryTimer qpn t => exact keep_execRetryTimer qpn t s hK e
  | packetSend qpn => exact keep_execPacketSend qpn s hK e
  | contextFetch qpn => exact keep_execContextFetch qpn s hK e
  | networkRequest qpn => exact keep_execNetworkRequest qpn s hK e
  | arpRequest n sender target => exact keep_execArpRequest n sender target s hK e
  | neighbourSolicitation n target => exact keep_execNeighbourSolicitation n target s hK e
  | ctxRead src => exact keep_execCtxRead src s hK e
  | ctxWrite src => exact keep_execCtxWrite src s hK e
  | ctxForceError src => exact keep_execCtxForceError src s hK e
  | ctxForceReset src => exact keep_execCtxForceReset src s hK e
  | xptTringTail src p v => exact keep_execXptTringTail src p v s hK e
  | triggerFetch p => exact keep_execTriggerFetch p s hK e
  | counterIdle tag t => exact keep_execCounterIdle tag t s hK e
  | xptTrigDisarm src tag => exact keep_execXptTrigDisarm src tag s hK e
  | gateEvent n t => exact keep_execGateEvent n t s hK e
  | takeover n t => exact keep_execTakeover n t s hK e
  | frameSelect n t => exact keep_execFrameSelect n t s hK e
  | bootSequence kat => exact keep_execBootSequence kat s hK e
  | recoveryLoad src => exact keep_execRecoveryLoad src s hK e
  | recoveryLoadDone => exact keep_execRecoveryLoadDone s hK e
  | mailboxUpdate src => exact keep_execMailboxUpdate src s hK e
  | pldmUpdate image => exact keep_execPldmUpdate image s hK e
  | imageStaged => exact keep_execImageStaged s hK e
  | svnCommit src => exact keep_execSvnCommit src s hK e
  | revoke src slot => exact keep_execRevoke src slot s hK e
  | fuseDone t => exact absurd rfl (hc t)
  | getVersion tr msg => exact keep_execGetVersion tr msg s hK e
  | getCapabilities tr msg => exact keep_execGetCapabilities tr msg s hK e
  | negotiateAlgorithms tr msg => exact keep_execNegotiateAlgorithms tr msg s hK e
  | getDigests tr msg => exact keep_execGetDigests tr msg s hK e
  | getCertificate tr msg => exact keep_execGetCertificate tr msg s hK e
  | challenge tr msg => exact keep_execChallenge tr msg s hK e
  | getMeasurements tr msg => exact keep_execGetMeasurements tr msg s hK e
  | chunkSend tr msg => exact keep_execChunkSend tr msg s hK e
  | chunkGet tr msg => exact keep_execChunkGet tr msg s hK e
  | respondIfReady tr msg => exact keep_execRespondIfReady tr msg s hK e
  | spdmUnsupported tr msg => exact keep_execSpdmUnsupported tr msg s hK e
  | signatureDone => exact keep_execSignatureDone s hK e
  | pathDelaySample t ps => exact keep_execPathDelaySample t ps s hK e
  | ringOscillatorSample t vs => exact keep_execRingOscillatorSample t vs s hK e
  | leakageSample t vs => exact keep_execLeakageSample t vs s hK e
  | refreshMarginTest unit margin => exact keep_execRefreshMarginTest unit margin s hK e
  | replanStart t => exact keep_execReplanStart t s hK e
  | replanNow src => exact keep_execReplanNow src s hK e
  | replanEnd t outs => exact keep_execReplanEnd t outs s hK e
  | failStack src stack => exact keep_execFailStack src stack s hK e
  | stackFail stack => exact keep_execStackFail stack s hK e
  | ceStormEnd page t => exact keep_execCeStormEnd page t s hK e
  | rasLogClear src => exact keep_execRasLogClear src s hK e
  | fatalReset t => exact keep_execFatalReset t s hK e
  | warmReset src v => exact keep_execWarmReset src v s hK e
  | phaseEnd t => exact keep_execPhaseEnd t s hK e
  | intStatusClear src page v => exact keep_execIntStatusClear src page v s hK e
  | intForce src page v => exact keep_execIntForce src page v s hK e
  | counterClear src addr v => exact keep_execCounterClear src addr v s hK e
  | latchingRead src addr => exact keep_execLatchingRead src addr s hK e
  | registerWrite src addr v => exact keep_execRegisterWrite src addr v s hK e
  | telemetryFrame t railsMw coreMa => exact keep_execTelemetryFrame t railsMw coreMa s hK e
  | powerSample t mv => exact keep_execPowerSample t mv s hK e
  | clockRaise t => exact keep_execClockRaise t s hK e
  | telemetryLoss t => exact keep_execTelemetryLoss t s hK e
  | vrmHotL low => exact keep_execVrmHotL low s hK e
  | tempSample t temps => exact keep_execTempSample t temps s hK e
  | thermalComparator => exact keep_execThermalComparator s hK e
  | resetL t => exact keep_execResetL t s hK e
  | pwrGood level t => exact keep_execPwrGood level t s hK e
  | resetRelease t => exact keep_execResetRelease t s hK e
  | sysRefclkLoss t => exact keep_execSysRefclkLoss t s hK e
  | pcieRefclkLoss p t => exact keep_execPcieRefclkLoss p t s hK e
  | netRefclkLoss die t => exact keep_execNetRefclkLoss die t s hK e
  | dieToDieLinkLoss die => exact keep_execDieToDieLinkLoss die s hK e
  | perstLRelease p => exact keep_execPerstLRelease p s hK e
  | sysRefclkReturn t => exact keep_execSysRefclkReturn t s hK e
  | mctpControlMessage cmd msg => exact keep_execMctpControlMessage cmd msg s hK e
  | pldmPlatformEvent => exact keep_execPldmPlatformEvent s hK e
  | activateFirmware msg => exact keep_execActivateFirmware msg s hK e
  | cdat p ld => exact keep_execCdat p ld s hK e

@[simp] theorem State.raise_sec (s : State) (p i : Nat) : (s.raise p i).sec = s.sec := by rw [(notesOnly_raise s p i).1]

/-- The security block when a fuse command has run (15 R542): SVN_COMMIT (1) raises the SVN to the running image's, REVOKE sets the
bit of its slot unless it is refused. -/
def State.burnt (s : State) (cmd k : Nat) : Sec :=
  if cmd = 1 then
    { s.sec with fuseCmd := none, fuse := { s.sec.fuse with svn := max s.sec.fuse.svn s.sec.imageSvn }, fuseResult := 0 }
  else if s.revokeRefused k then { s.sec with fuseCmd := none, fuseResult := 1 }
  else { s.sec with fuseCmd := none, fuse := { s.sec.fuse with revoked := s.sec.fuse.revoked ||| 2 ^ k }, fuseResult := 0 }

theorem fuseDone_burns {s : State} {cmd k a : Nat} (h : s.sec.fuseCmd = some (cmd, k, a)) (t : Nat) :
    exec (.fuseDone t) s = .next (({ s.at_ t with sec := s.burnt cmd k } : State).raise secPage 3) := by
  show execFuseDone t s = _
  have hrefused : ({ s.at_ t with sec := { s.sec with fuseCmd := none } } : State).revokeRefused k = s.revokeRefused k := rfl
  simp only [execFuseDone, State.atTime_sec, h, hrefused, State.burnt]
  split_ifs <;> rfl

theorem fuseDone_idle {s : State} (h : s.sec.fuseCmd = none) (t : Nat) : exec (.fuseDone t) s = .next (s.at_ t) := by
  show execFuseDone t s = _
  simp only [execFuseDone, State.atTime_sec, h]

theorem fuseKeeps_refl (f : Fuse) : f.keeps f := ⟨le_rfl, fun _ h => h, le_rfl, rfl, rfl⟩

/-- A fuse command burns one way: an SVN that is no lower, a revocation bit more. -/
theorem fuseKeeps_burnt (s : State) (cmd k : Nat) : s.sec.fuse.keeps (s.burnt cmd k).fuse := by
  unfold State.burnt
  split_ifs
  · exact ⟨le_max_left _ _, fun _ h => h, le_rfl, rfl, rfl⟩
  · exact fuseKeeps_refl _
  · exact ⟨le_rfl, fun i h => by simp [Nat.testBit_or, h], le_rfl, rfl, rfl⟩

theorem fuseKeeps_fuseDone {t : Nat} {s u : State} (e : exec (.fuseDone t) s = .next u) : s.sec.fuse.keeps u.sec.fuse := by
  cases hcmd : s.sec.fuseCmd with
  | none =>
    rw [fuseDone_idle hcmd] at e
    obtain rfl : s.at_ t = u := by simpa using e
    exact fuseKeeps_refl _
  | some x =>
    obtain ⟨cmd, k, a⟩ := x
    rw [fuseDone_burns hcmd] at e
    obtain rfl : _ = u := by simpa using e
    simpa using fuseKeeps_burnt s cmd k

/-- What every command keeps, FUSE_DONE among them: there the fuses may have moved one way. -/
theorem keep_exec_fuses (c : Instr) {s u : State} (hm : s.memOk = true) (hk : s.keysRise) (e : exec c s = .next u) :
    Keep (!mayReplace c) (!mayReset c) { s with sec := { s.sec with fuse := u.sec.fuse } } u ∧ s.sec.fuse.keeps u.sec.fuse ∧
      ((∀ t, c ≠ .fuseDone t) → u.sec.fuse = s.sec.fuse) := by
  have hs := keep_self hm hk
  by_cases hc : ∃ t, c = .fuseDone t
  · obtain ⟨t, rfl⟩ := hc
    exact ⟨keep_execFuseDone t s (hs.weaken (fun _ => rfl) (fun _ => rfl)) e, fuseKeeps_fuseDone e, fun h => absurd rfl (h t)⟩
  · have hc : ∀ t, c ≠ .fuseDone t := fun t ht => hc ⟨t, ht⟩
    have hu := keep_exec c hc (hs.weaken (fun _ => rfl) (fun _ => rfl)) e
    have hfuse : u.sec.fuse = s.sec.fuse := hu.2.2.1
    refine ⟨?_, ?_, fun _ => hfuse⟩
    · rw [hfuse]; exact hu
    · rw [hfuse]; exact fuseKeeps_refl _

/-- Settles O60: the meanings' `Keep` lemmas, read off for the command at the front. -/
theorem everyStepKeeps : Obligations.EveryStepKeeps := by
  intro s u hm hk hstep
  unfold step at hstep
  split at hstep
  next hnone =>
    obtain rfl : s = u := by simpa using hstep
    exact ⟨hm, hk, le_rfl, fuseKeeps_refl _, fun c r hp => by simp [hnone] at hp⟩
  next c r hpending =>
    obtain ⟨⟨hmem, hqueue, -, hclk, honce, hbanks, htables⟩, hfuse, hfuseEq⟩ :=
      keep_exec_fuses c (s := { s with pending := r }) hm hk hstep
    refine ⟨by simp [State.memOk, hmem], htables, hclk, hfuse, fun c' r' hp => ?_⟩
    obtain ⟨rfl, rfl⟩ : c = c' ∧ r = r' := by simpa [hpending] using hp
    refine ⟨hqueue, hfuseEq, fun hno => honce (by simp [hno]), fun hno => ?_⟩
    obtain ⟨hact, hprev, hedition, harmed, hrun, hstroke, hboundary, htake, -⟩ := hbanks (by simp [hno])
    exact ⟨hact, hprev, hedition, harmed, hrun, hstroke, hboundary, htake⟩

end Sys2Proof.Machine



/-! The machine: what a step runs, and the state after reset (17 R602, R605). -/

namespace Sys2Proof.Machine

/-- Every command answers a next state: the KX7 has no command that stops the machine (00 R17). -/
theorem exec_next (c : Instr) (s : State) : ∃ u : State, exec c s = .next u := by
  cases c <;> exact ⟨_, rfl⟩

/-- Settles O58. -/
theorem stepRunsTheFrontCommand : Obligations.StepRunsTheFrontCommand := by
  refine ⟨fun s c r => rfl, fun s hnone => ?_, exec_next⟩
  simp only [step, hnone]

theorem keysRise_reset : State.reset.keysRise :=
  ⟨rising_nil, rising_nil, rising_nil, rising_nil, rising_nil, rising_nil, rising_nil, rising_nil, rising_nil, rising_nil, rising_nil,
    rising_nil, rising_nil⟩

/-- Settles O59: every table is empty, and an absent entry is the reset value. -/
theorem resetStateIsAsStated : Obligations.ResetStateIsAsStated := by
  refine ⟨rfl, rfl, rfl, fun a => ⟨rfl, rfl, rfl⟩, rfl, rfl, rfl, rfl, fun p q => rfl, fun q => rfl, fun n => rfl, rfl, fun n => rfl, rfl, rfl,
    rfl, rfl, rfl, rfl, rfl, keysRise_reset⟩

end Sys2Proof.Machine


/-! Doorbells (12 R434, R435): the window of BAR2, indices that move, and writes that are ignored. -/

namespace Sys2Proof.Machine

/-! ### The doorbell page of a queue set (11 R398; 12 R434) -/

theorem registerWrite_doorbellPage {s : State} {p q o : Nat} (hq : q < 64) (ho : o < 0x1000) (h4 : o % 4 = 0)
    (hup : s.portDown p = false) (v : Word) : exec (.registerWrite (.port p) (0x100000 + 0x1000 * q + o) v) s =
      .next (if o = 0 then s.dbTail p q v else if o = 4 then s.dbHead p q v else s.dbIgnored p) := by
  show Host.Outcome.next (s.barWrite (.port p) _ v) = _
  have hoff : (0x100000 + 0x1000 * q + o) % 0x1000 = o := by omega
  have hset : (0x100000 + 0x1000 * q + o - 0x100000) / 0x1000 = q := by omega
  have hlo : ¬ 0x100000 + 0x1000 * q + o < 2 ^ 20 := by omega
  have hal : ¬ (0x100000 + 0x1000 * q + o) % 4 ≠ 0 := by omega
  have hhi : 0x100000 + 0x1000 * q + o < 0x140000 := by omega
  simp only [State.barWrite, if_neg hlo, if_neg hal, State.fnWrite, hup, Bool.false_eq_true, if_false, if_pos hhi, hoff, hset]

/-! ### Doorbells and pushes that are ignored (12 R434, R435) -/

theorem dbIgnored_counts (s : State) {p : Nat} (hp : p < 2) :
    s.dbIgnored p = { s with regs := (s.dbIgnored p).regs, fns := (s.dbIgnored p).fns, out := (s.dbIgnored p).out } ∧
      sameRegsBut s (s.dbIgnored p) [pg (0x48 + 4 * p) + 0x194, pg (0x48 + 4 * p) + 0x10] ∧
      (s.dbIgnored p).reg (pg (0x48 + 4 * p) + 0x194) = satAdd (s.reg (pg (0x48 + 4 * p) + 0x194)) 1 := by
  have hreset : regReset (pg (0x48 + 4 * p) + 0x194) = 0 := by interval_cases p <;> decide +kernel
  obtain ⟨hframe, hregs⟩ := notesOnly_count s (0x48 + 4 * p) 0x194 1
  exact ⟨hframe, hregs, reg_count_counter s hreset (by omega)⟩

theorem dbTail_ignored {s : State} {p q : Nat} {v : Word}
    (h : (s.qset p q).state ≠ .enabled ∨ 2 ^ (s.qset p q).sqLog ≤ v.toNat) : s.dbTail p q v = s.dbIgnored p :=
  if_neg (fun ⟨he, hv⟩ => h.elim (fun hn => hn he) (fun hn => by omega))

theorem dbHead_ignored {s : State} {p q : Nat} {v : Word}
    (h : (s.qset p q).state ≠ .enabled ∨ 2 ^ (s.qset p q).cqLog ≤ v.toNat) : s.dbHead p q v = s.dbIgnored p :=
  if_neg (fun ⟨he, hv⟩ => h.elim (fun hn => hn he) (fun hn => by omega))

theorem push_ignored {s : State} {p q : Nat} {ws : List Word} (h : (s.qset p q).state ≠ .enabled ∨ ws.length ≠ 16) :
    exec (.push p q ws) s = .next (s.dbIgnored p) := by
  show execPush p q ws s = _
  simp only [execPush, if_pos h]

/-! ### Indices that move (12 R434, R435) -/

section
variable {s : State} {p q : Nat} (hen : (s.qset p q).state = .enabled)
include hen

theorem dbTail_moves {v : Word} (hv : v.toNat < 2 ^ (s.qset p q).sqLog) :
    s.dbTail p q v = s.setQset p q { s.qset p q with sqTail := v.toNat } := if_pos ⟨hen, hv⟩

/-- CQ_HEAD frees the entries before it: no more than those up to the tail stay written, and a queue set with room is not full. -/
theorem dbHead_frees {v : Word} (hv : v.toNat < 2 ^ (s.qset p q).cqLog) : ∃ x, s.dbHead p q v = s.setQset p q x ∧ x.cqHead = v.toNat ∧
    x.written = ((s.qset p q).cqTail + 2 ^ (s.qset p q).cqLog - v.toNat) % 2 ^ (s.qset p q).cqLog ∧ (x.room ≠ 0 → x.full = false) ∧
    { x with cqHead := (s.qset p q).cqHead, written := (s.qset p q).written, full := (s.qset p q).full } = s.qset p q := by
  refine ⟨_, if_pos ⟨hen, hv⟩, rfl, rfl, fun hroom => ?_, rfl⟩
  simp only [QSet.room] at hroom
  simp only [Bool.and_eq_false_iff, decide_eq_false_iff_not]
  exact .inr (by omega)

theorem push_empty {ws : List Word} (hlen : ws.length = 16) (hempty : (s.qset p q).sqHead = (s.qset p q).sqTail) :
    exec (.push p q ws) s = .next
      ((s.setQset p q { s.qset p q with sqTail := ((s.qset p q).sqTail + 1) % 2 ^ (s.qset p q).sqLog, pushed := some ws }).bump
        (pg (0x48 + 4 * p) + 0x184)) := by
  show execPush p q ws s = _
  simp [execPush, hen, hlen, hempty, quePage]

theorem push_behind {ws : List Word} (hlen : ws.length = 16) (hwork : (s.qset p q).sqHead ≠ (s.qset p q).sqTail) :
    exec (.push p q ws) s = .next
      ((s.setQset p q { s.qset p q with sqTail := ((s.qset p q).sqTail + 1) % 2 ^ (s.qset p q).sqLog }).bump
        (pg (0x48 + 4 * p) + 0x188)) := by
  show execPush p q ws s = _
  simp [execPush, hen, hlen, hwork, quePage]

end

/-- Settles O33. -/
theorem doorbellsMoveRingIndices : Obligations.DoorbellsMoveRingIndices := by
  refine ⟨fun s p q o v hq ho h4 hup => ?_, fun s p q c hp hc => ?_, fun s p q hen => ⟨fun v hv => ?_, fun v hv => ?_, ?_, ?_⟩⟩
  · rw [registerWrite_doorbellPage hq ho h4 hup]
    refine ⟨fun h => by rw [if_pos h]; rfl, fun h => by rw [if_neg (by omega), if_pos h]; rfl, fun h0 h4 => ?_⟩
    rw [if_neg h0, if_neg h4]; rfl
  · have hignored : exec c s = .next (s.dbIgnored p) := by
      obtain ⟨v, rfl, h⟩ | ⟨v, rfl, h⟩ | ⟨ws, rfl, h⟩ := hc
      · exact congrArg Host.Outcome.next (dbTail_ignored h)
      · exact congrArg Host.Outcome.next (dbHead_ignored h)
      · exact push_ignored h
    exact ⟨_, hignored, dbIgnored_counts s hp⟩
  · exact congrArg Host.Outcome.next (dbTail_moves hen hv)
  · obtain ⟨x, hx, hfields⟩ := dbHead_frees hen hv
    exact ⟨x, congrArg Host.Outcome.next hx, hfields⟩
  · exact fun ws hlen hempty => push_empty hen hlen hempty
  · exact fun ws hlen hwork => push_behind hen hlen hwork

end Sys2Proof.Machine


/-! COMMAND_FETCH (12 R436) of an EXTENT_REVOKE (11 R415): a turn whose command the statement's frame does not exclude. -/

namespace Sys2Proof.Machine

/-- An EXTENT_REVOKE of extent 0 in the native format, with PHASE 1. -/
def revokeWords : List Word := 0x80000214 :: List.replicate 15 0

/-- The device is ready, port 0 is up and the fabric manager's route; queue set 0 of port 0 is bound to tenant 7 and enabled, with an
EXTENT_REVOKE pushed at its head; extent 0 is active, and BURST is 1. -/
def revokeQueued : State := { State.reset with
  start := .ready
  port0 := { Port.reset with mode := .pcie }
  regs := [(pg 0x6C + 0x104, 1)]
  act := [(pg 0x48 + 0x10C, 1)]
  ten := { State.reset.ten with tbl := [(4096 * 1, [0x80000007]), (4096 * 3, [0x40000000])] }
  que := { State.reset.que with qs := [(0, { QSet.reset with state := .enabled, sqTail := 1, pushed := some revokeWords })] } }

/-- The revocations that are under way after the turn. -/
def revsAfterFetch (s : State) : Nat :=
  match exec (.commandFetch 0) s with
  | .next t => t.ten.revs.length
  | _ => 0

theorem revsAfterFetch_revokeQueued : revsAfterFetch revokeQueued = 1 := by decide +kernel

/-- Refutes O34: the frame of the accepted command leaves out the tenant tables, where an EXTENT_REVOKE from the fabric manager's
queue set records its revocation in the cycle of its acceptance (11 R415). -/
theorem not_commandAccepted : ¬ Obligations.CommandAccepted := by
  unfold Obligations.CommandAccepted
  rintro ⟨-, -, -, haccept, -⟩
  obtain ⟨t, l, hexec, hframe, -⟩ := haccept revokeQueued 0 revokeWords 7 false (by decide) (by decide +kernel) (by decide)
    (by decide +kernel) (by decide +kernel) (by decide +kernel) (by decide +kernel) (by decide +kernel) (by decide +kernel)
    (by decide +kernel) (by decide)
  have hten : t.ten = revokeQueued.ten := by rw [hframe]
  have hrevs : revsAfterFetch revokeQueued = 0 := by rw [revsAfterFetch, hexec]; simp only [hten]; rfl
  exact absurd (hrevs.symm.trans revsAfterFetch_revokeQueued) (by decide)

end Sys2Proof.Machine


/-! Completion entries (12 R432, R437, R439, R444): what the write of one entry changes, entries that wait, and the coalescing timer. -/

namespace Sys2Proof.Machine

/-! ### Bytes written and read back -/

theorem Mem.rdBytes_congr {m m' : Mem} : ∀ {n a : Nat}, (∀ j, a ≤ j → j < a + n → m.rd j = m'.rd j) → m.rdBytes a n = m'.rdBytes a n
  | 0, _, _ => rfl
  | n + 1, a, h => by
    rw [Mem.rdBytes, Mem.rdBytes, h a le_rfl (by omega),
      Mem.rdBytes_congr (fun j hj hn => h j (by omega) (by omega))]

/-- Bytes that are written are read back. -/
theorem Mem.rdBytes_wrBytes {m : Mem} (hm : m.wf = true) (a : Nat) (bs : List Byte) : (m.wrBytes a bs).rdBytes a bs.length = bs := by
  have hread : ∀ (n k : Nat), k + n = bs.length → (m.wrBytes a bs).rdBytes (a + k) n = bs.drop k := by
    intro n
    induction n with
    | zero => intro k hk; rw [Mem.rdBytes, List.drop_eq_nil_of_le (by omega)]
    | succ n ih =>
      intro k hk
      have hlt : k < bs.length := by omega
      rw [Mem.rdBytes, Mem.rd_wrBytes _ _ _ _ hm, if_pos (by omega), Nat.add_assoc, ih (k + 1) (by omega), Nat.add_sub_cancel_left,
        List.drop_eq_getElem_cons hlt, List.getD_eq_getElem _ _ hlt]
  simpa using hread bs.length 0 (by omega)

/-! ### The write of one completion entry (12 R432, R437, R444) -/

theorem QSet.ne_reset_of_state {v : QSet} (h : v.state ≠ .disabled) : v ≠ QSet.reset := fun e => h (e ▸ rfl)

/-- A queue set that is not DISABLED reads back as it was set. -/
theorem qset_setQset_live {s : State} {p q : Nat} {v : QSet} (h : v.state ≠ .disabled) : (s.setQset p q v).qset p q = v :=
  qset_setQset_eq s (QSet.ne_reset_of_state h)

/-- A queue set with one entry more written at its tail, and `n` entries not signalled since `a`. -/
def QSet.wrote (v : QSet) (n : Nat) (a : Option Nat) : QSet :=
  let wrap := decide (v.cqTail + 1 = 2 ^ v.cqLog)
  { v with cqTail := if wrap then 0 else v.cqTail + 1, cqPhase := if wrap then !v.cqPhase else v.cqPhase, written := v.written + 1,
           unsig := n, unsigAt := a }

/-- The words of an entry, with PHASE and, in the native format, SQ_HEAD in word 2. -/
def QSet.entryWords (v : QSet) (ws : List Word) (native : Bool) : List Word :=
  ws.take 2 ++ [ws.getD 2 0 ||| (if v.cqPhase then 0x80000000 else 0) ||| (if native then w32 (v.sqHead * 2 ^ 16) else 0)]
    ++ (ws.drop 3).take 5

/-- The host memory that the entry reaches. -/
def State.entryPut (s : State) (p q : Nat) (ws : List Word) (native : Bool) : State :=
  s.hostPut p ((s.qset p q).cqBase + 32 * (s.qset p q).cqTail) (bytesOf ((s.qset p q).entryWords ws native))

@[simp] theorem State.hostPut_que (s : State) (p a : Nat) (bs : List Byte) : (s.hostPut p a bs).que = s.que := by
  unfold State.hostPut State.hostWrite
  by_cases h : s.portDown p = true <;> simp [h]

theorem writeCq_eq (s : State) (p q : Nat) (ws : List Word) (native int : Bool) : s.writeCq p q ws native int =
    (let u := s.entryPut p q ws native
     let w := u.setQset p q ((s.qset p q).wrote ((s.qset p q).unsig + 1) (some ((s.qset p q).unsigAt.getD u.clk)))
     if bit (u.reg (qsAddr p q + 0x14)) 16 then
       if int || decide (max (fld (w.reg (qsAddr p q + 0x18)) 0 8) 1 ≤ (s.qset p q).unsig + 1) then w.signal p q else w
     else u.setQset p q ((s.qset p q).wrote (s.qset p q).unsig (s.qset p q).unsigAt)) := rfl

/-- Besides host memory the write of an entry moves the queue set on and counts what is not signalled; a message may leave. -/
theorem writeCq_ways (s : State) (p q : Nat) (ws : List Word) (native int : Bool) : ∃ (n : Nat) (a : Option Nat),
    s.writeCq p q ws native int = (s.entryPut p q ws native).setQset p q ((s.qset p q).wrote n a) ∨
    s.writeCq p q ws native int = ((s.entryPut p q ws native).setQset p q ((s.qset p q).wrote n a)).signal p q := by
  rw [writeCq_eq]
  dsimp only
  split
  · split
    · exact ⟨_, _, .inr rfl⟩
    · exact ⟨_, _, .inl rfl⟩
  · exact ⟨_, _, .inl rfl⟩

/-- A queue set that is not DISABLED moves on by the entry. -/
theorem qset_writeCq {s : State} {p q : Nat} (h : (s.qset p q).state ≠ .disabled) (ws : List Word) (native int : Bool) :
    ∃ (n : Nat) (a : Option Nat), (s.writeCq p q ws native int).qset p q = (s.qset p q).wrote n a := by
  have hset : ∀ n a, ((s.entryPut p q ws native).setQset p q ((s.qset p q).wrote n a)).qset p q = (s.qset p q).wrote n a :=
    fun n a => qset_setQset_live h
  obtain ⟨n, a, hw | hw⟩ := writeCq_ways s p q ws native int
  · exact ⟨n, a, hw ▸ hset n a⟩
  · refine ⟨0, none, ?_⟩
    rw [hw, State.signal]
    dsimp only
    rw [msix_eq, hset]
    exact qset_setQset_live h

/-- `t` is `s` but for queue sets, host memory, pending vectors and the messages sent. -/
def EntryOnly (s t : State) : Prop :=
  t = { s with que := { s.que with qs := t.que.qs }, fns := t.fns, out := t.out, host0 := t.host0, host1 := t.host1 }

theorem EntryOnly.trans {s t u : State} (h : EntryOnly s t) (h' : EntryOnly t u) : EntryOnly s u := by
  unfold EntryOnly at *
  rw [h', h]

theorem entryOnly_setQset (s : State) (p q : Nat) (v : QSet) : EntryOnly s (s.setQset p q v) := rfl

theorem entryOnly_hostPut (s : State) (p a : Nat) (bs : List Byte) : EntryOnly s (s.hostPut p a bs) := by
  unfold EntryOnly State.hostPut State.hostWrite
  cases s.portDown p
  · simp only [Bool.false_eq_true, if_false, State.setHost]
    split <;> rfl
  · rfl

theorem signal_only (s : State) (p q : Nat) : EntryOnly s (s.signal p q) ∧ (s.signal p q).host0 = s.host0 ∧ (s.signal p q).host1 = s.host1 := by
  unfold EntryOnly State.signal
  dsimp only
  rw [msix_eq]
  exact ⟨rfl, rfl, rfl⟩

theorem entryOnly_writeCq (s : State) (p q : Nat) (ws : List Word) (native int : Bool) : EntryOnly s (s.writeCq p q ws native int) ∧
    (s.writeCq p q ws native int).host0 = (s.entryPut p q ws native).host0 ∧
    (s.writeCq p q ws native int).host1 = (s.entryPut p q ws native).host1 := by
  have hput := entryOnly_hostPut s p ((s.qset p q).cqBase + 32 * (s.qset p q).cqTail) (bytesOf ((s.qset p q).entryWords ws native))
  obtain ⟨n, a, hw | hw⟩ := writeCq_ways s p q ws native int
  · rw [hw]
    exact ⟨hput.trans (entryOnly_setQset _ _ _ _), rfl, rfl⟩
  · obtain ⟨honly, h0, h1⟩ := signal_only
      ((s.entryPut p q ws native).setQset p q ((s.qset p q).wrote n a)) p q
    rw [hw]
    exact ⟨(hput.trans (entryOnly_setQset _ _ _ _)).trans honly, h0, h1⟩

/-! ### Entries that wait (12 R437; 05 R188) -/

/-- The queue set whose oldest waiting entry is taken. -/
def State.dequeued (s : State) (p q : Nat) (r : List Wait) : State := s.setQset p q { s.qset p q with waits := r }

section
variable {s : State} {p q : Nat} {w : Wait} {r : List Wait}

theorem deferredCompletion_writes (hwaits : (s.qset p q).waits = w :: r) (hroom : (s.qset p q).room ≠ 0)
    (hstate : (s.qset p q).state ≠ .disabled) : exec (.deferredCompletion p q) s =
      .next (((s.dequeued p q r).writeCq p q w.ws true w.int).closeViews w.id) := by
  show execDeferredCompletion p q s = _
  have h : ¬ ((s.qset p q).room = 0 ∨ (s.qset p q).state = .disabled) := by simp [hroom, hstate]
  simp only [execDeferredCompletion, hwaits, if_neg h, State.dequeued]

theorem deferredCompletion_waits (h : (s.qset p q).waits = [] ∨ (s.qset p q).room = 0 ∨ (s.qset p q).state = .disabled) :
    exec (.deferredCompletion p q) s = .next s := by
  show execDeferredCompletion p q s = _
  unfold execDeferredCompletion
  dsimp only
  split
  next hw => rw [if_pos (h.resolve_left (by simp [hw]))]
  next => rfl

end

/-- The 32 bytes of an entry lie at the tail; nothing else of host memory changes. -/
theorem entryPut_host {s : State} {p q : Nat} (hm : s.memOk = true) (hup : s.portDown p = false) {ws : List Word} (hlen : ws.length = 8)
    (native : Bool) {v : State} (h0 : v.host0 = (s.entryPut p q ws native).host0) (h1 : v.host1 = (s.entryPut p q ws native).host1) :
    sameHostBut s v p ((s.qset p q).cqBase + 32 * (s.qset p q).cqTail) 32 ∧
      (v.host p).rdBytes ((s.qset p q).cqBase + 32 * (s.qset p q).cqTail) 32 = bytesOf ((s.qset p q).entryWords ws native) := by
  have hbytes : (bytesOf ((s.qset p q).entryWords ws native)).length = 32 := by
    simp [QSet.entryWords, hlen]
  have hput : s.entryPut p q ws native = s.setHost p ((s.host p).wrBytes ((s.qset p q).cqBase + 32 * (s.qset p q).cqTail)
      (bytesOf ((s.qset p q).entryWords ws native))) := by
    simp only [State.entryPut, State.hostPut, State.hostWrite, hup, Bool.false_eq_true, if_false]
  have hwf : (s.host p).wf = true := by
    simp only [State.memOk, Bool.and_eq_true] at hm
    unfold State.host
    split
    · exact hm.1.1.1
    · exact hm.1.1.2
  have hhost : v.host p = (s.host p).wrBytes ((s.qset p q).cqBase + 32 * (s.qset p q).cqTail)
      (bytesOf ((s.qset p q).entryWords ws native)) := by
    have : v.host p = (s.entryPut p q ws native).host p := by simp only [State.host, h0, h1]
    rw [this, hput, host_setHost_eq]
  refine ⟨⟨fun j hj => ?_, fun hp => ?_, fun hp => ?_⟩, ?_⟩
  · rw [hhost, Mem.rd_wrBytes _ _ _ _ hwf, hbytes, if_neg hj]
  · rw [h0, hput, State.setHost, if_neg hp]
  · rw [h1, hput, State.setHost, if_pos hp]
  · have := Mem.rdBytes_wrBytes hwf ((s.qset p q).cqBase + 32 * (s.qset p q).cqTail) (bytesOf ((s.qset p q).entryWords ws native))
    rwa [hbytes, ← hhost] at this

/-- Of eight words, the write of an entry changes word 2. -/
theorem entryWords_native (v : QSet) {ws : List Word} (hlen : ws.length = 8) : v.entryWords ws true =
    ws.set 2 (ws.getD 2 0 ||| (if v.cqPhase then 0x80000000 else 0) ||| w32 (v.sqHead * 2 ^ 16)) := by
  match ws, hlen with
  | [a, b, c, d, e, f, g, h], _ => simp [QSet.entryWords]

/-- The end of the proofs of a list of slots takes them, and no other, off the list. -/
theorem endProofs_proofs : ∀ (l : List Proof) (s : State), (l.foldl (fun s p => s.endProof p.slot) s).dir.proofs =
    s.dir.proofs.filter (fun x => l.all (fun p => decide (x.slot ≠ p.slot)))
  | [], s => by simp
  | p :: l, s => by
    rw [List.foldl_cons, endProofs_proofs l, endProof_proofs, List.filter_filter]
    refine List.filter_congr fun x _ => ?_
    rw [List.all_cons, Bool.and_comm]

theorem closeViews_closes {s : State} {id : Nat} (h : s.entryWaits id = false) {p : Proof} (hp : p ∈ (s.closeViews id).dir.proofs) :
    p.implicit ≠ some id := by
  intro himplicit
  rw [State.closeViews, if_neg (by simp [h]), endProofs_proofs, List.mem_filter, List.all_eq_true] at hp
  have := hp.2 p (by simp [hp.1, himplicit])
  simp at this

/-! ### The coalescing timer (12 R439) -/

theorem coalesceTimer_idle {s : State} {p q : Nat} (h : (s.qset p q).unsigAt = none) (t : Nat) :
    exec (.coalesceTimer p q t) s = .next (s.at_ t) := by
  show execCoalesceTimer p q t s = _
  have h : ((s.at_ t).qset p q).unsigAt = none := h
  simp only [execCoalesceTimer, h]

theorem coalesceTimer_counts {s : State} {p q a : Nat} (h : (s.qset p q).unsigAt = some a) (t : Nat) :
    exec (.coalesceTimer p q t) s = .next (if bit (s.reg (qsAddr p q + 0x14)) 16 = true ∧
      a + fld (s.reg (qsAddr p q + 0x18)) 16 16 * 1000 ≤ max s.clk t then (s.at_ t).signal p q else s.at_ t) := by
  show execCoalesceTimer p q t s = _
  have h : ((s.at_ t).qset p q).unsigAt = some a := h
  simp only [execCoalesceTimer, h]
  rfl

/-- Settles O35. -/
theorem waitingCompletionWritten : Obligations.WaitingCompletionWritten := by
  refine ⟨fun s p q w r hm hwaits hroom hstate hup hlen => ?_, fun s id h p hp => closeViews_closes h hp,
    fun s p q h => deferredCompletion_waits h, fun s p q t a ha => ⟨fun hint hdue => ?_, fun h => ?_⟩, fun s p q t h => coalesceTimer_idle h t⟩
  case refine_2 => rw [coalesceTimer_counts ha, if_pos ⟨hint, hdue⟩]; rfl
  case refine_3 =>
    rw [coalesceTimer_counts ha, if_neg (fun ⟨hint, hdue⟩ => h.elim (fun hoff => by simp [hoff] at hint) (fun hearly => by omega))]
  have hset : (s.dequeued p q r).qset p q = { s.qset p q with waits := r } := qset_setQset_live hstate
  obtain ⟨honly, h0, h1⟩ := entryOnly_writeCq (s.dequeued p q r) p q w.ws true w.int
  obtain ⟨n, a, hnext⟩ := qset_writeCq (s := s.dequeued p q r) (p := p) (q := q) (by rw [hset]; exact hstate) w.ws true w.int
  obtain ⟨hsame, hbytes⟩ := entryPut_host (s := s.dequeued p q r) (q := q) hm hup hlen true h0 h1
  rw [hset] at hsame hbytes hnext
  refine ⟨_, deferredCompletion_writes hwaits hroom hstate, (entryOnly_setQset s p q _).trans honly, hsame, ?_, ?_, ?_, ?_⟩
  · rw [hbytes, entryWords_native _ hlen]
  · rw [hnext]; rfl
  · rw [hnext]; rfl
  · rw [hnext]
    split
    next hwrap => simp [QSet.wrote, hwrap]
    next hwrap => simp [QSet.wrote, hwrap]

end Sys2Proof.Machine


/-! The life of a queue set (12 R433) and FENCE (12 R447 to R450). -/

namespace Sys2Proof.Machine

/-! ### QS_CTRL (12 R433, R465) -/

section
variable {s : State} {src : Src} {p q : Nat} {v : Word}

theorem qsEnable_runs (hp : p < 2) (hq : q < 64) (hon : s.pageOn src (0x48 + 4 * p) = true) (hv : bit v 0 = true) :
    exec (.qsEnable src p q v) s = .next (s.qsCtrl p q v) := congrArg Host.Outcome.next (if_pos ⟨hv, hp, hq, hon⟩)

theorem qsDisable_runs (hp : p < 2) (hq : q < 64) (hon : s.pageOn src (0x48 + 4 * p) = true) (hv : bit v 0 = false) :
    exec (.qsDisable src p q v) s = .next (s.qsCtrl p q v) := congrArg Host.Outcome.next (if_pos ⟨hv, hp, hq, hon⟩)

theorem qsCtrl_idle (h : 2 ≤ p ∨ 64 ≤ q ∨ s.pageOn src (0x48 + 4 * p) = false) :
    exec (.qsEnable src p q v) s = .next s ∧ exec (.qsDisable src p q v) s = .next s := by
  have hno : ∀ c : Prop, ¬ (c ∧ p < 2 ∧ q < 64 ∧ s.pageOn src (quePage p) = true) := by
    rintro c ⟨-, hp, hq, hon⟩
    rcases h with h | h | h
    · omega
    · omega
    · rw [quePage, h] at hon; cases hon
  exact ⟨congrArg Host.Outcome.next (if_neg (hno _)), congrArg Host.Outcome.next (if_neg (hno _))⟩

/-- The state with INT_EN and VECTOR stored: every write of QS_CTRL makes it. -/
def State.ctrlStored (s : State) (p q : Nat) (v : Word) : State := s.setReg (qsAddr p q + 0x14) (v &&& 0x1FF01)

theorem qsCtrl_starts (hv : bit v 0 = true) (hst : (s.qset p q).state = .disabled) :
    s.qsCtrl p q v = (s.ctrlStored p q v).qsStart p q := (if_pos hv).trans (if_pos hst)

theorem qsCtrl_enabledAgain (hv : bit v 0 = true) (hst : (s.qset p q).state ≠ .disabled) :
    s.qsCtrl p q v = s.ctrlStored p q v := (if_pos hv).trans (if_neg hst)

theorem qsCtrl_drains (hv : bit v 0 = false) (hst : (s.qset p q).state = .enabled) :
    s.qsCtrl p q v = (s.ctrlStored p q v).setQset p q { s.qset p q with state := .draining, pushed := none } :=
  (if_neg (by simp [hv])).trans (if_pos hst)

theorem qsCtrl_disabledAgain (hv : bit v 0 = false) (hst : (s.qset p q).state ≠ .enabled) :
    s.qsCtrl p q v = s.ctrlStored p q v := (if_neg (by simp [hv])).trans (if_neg hst)

end

/-- A queue set as it is enabled: bases and sizes latched, indices 0, both phases 1. -/
def State.qsLatched (s : State) (p q : Nat) : QSet :=
  { QSet.reset with
    state := .enabled, waits := (s.qset p q).waits
    sqBase := (s.reg (qsAddr p q)).toNat + 2 ^ 32 * (s.reg (qsAddr p q + 4)).toNat
    cqBase := (s.reg (qsAddr p q + 8)).toNat + 2 ^ 32 * (s.reg (qsAddr p q + 0xC)).toNat
    sqLog := fld (s.reg (qsAddr p q + 0x10)) 0 4, cqLog := fld (s.reg (qsAddr p q + 0x10)) 8 4 }

theorem qsStart_latches {s : State} {p q : Nat} (h : s.ringsOk p q = true) : s.qsStart p q = s.setQset p q (s.qsLatched p q) := if_pos h

theorem qsStart_refuses {s : State} {p q : Nat} (h : s.ringsOk p q = false) :
    s.qsStart p q = s.setQset p q { s.qset p q with cfgErr := true } := if_neg (by simp [h])

/-- Settles O36. -/
theorem queueSetLifecycle : Obligations.QueueSetLifecycle := by
  rintro s src p q v w rfl
  refine ⟨fun hp hq hon => ⟨fun hv hst hrings => ?_, fun hv hst hrings => ?_, fun hv hst => ?_, fun hv hst => ?_, fun hv hst => ?_⟩,
    fun h => qsCtrl_idle h, fun hst hres => ?_, fun h => ?_⟩
  · refine ⟨(s.ctrlStored p q v).setQset p q ((s.ctrlStored p q v).qsLatched p q), ?_, rfl, (notesOnly_setReg s _ _).2, ?_⟩
    · rw [qsEnable_runs hp hq hon hv, qsCtrl_starts hv hst, qsStart_latches (s := s.ctrlStored p q v) hrings]
    · rw [qset_setQset_live (by simp [State.qsLatched])]
      exact ⟨rfl, rfl, rfl, rfl, rfl, rfl, rfl, rfl, rfl, rfl, rfl⟩
  · rw [qsEnable_runs hp hq hon hv, qsCtrl_starts hv hst, qsStart_refuses (s := s.ctrlStored p q v) hrings]; rfl
  · rw [qsEnable_runs hp hq hon hv, qsCtrl_enabledAgain hv hst]; rfl
  · rw [qsDisable_runs hp hq hon hv, qsCtrl_drains hv hst]; rfl
  · rw [qsDisable_runs hp hq hon hv, qsCtrl_disabledAgain hv hst]; rfl
  · exact congrArg Host.Outcome.next (if_pos ⟨hst, hres⟩)
  · exact congrArg Host.Outcome.next (if_neg (fun ⟨hst, hres⟩ => h.elim (fun hn => hn hst) (fun hn => hn hres)))

/-! ### FENCE (12 R447 to R450) -/

theorem fence_takes {s : State} {id : Nat} {l : Live} (hl : s.live id = some l) (hop : l.op = 0x10) (hph : l.phase = .accepted)
    (hc : l.compat = false) (hup : s.reached .verify = true)
    (hres : l.reservedOk 0x3F [0xFFFFFFFF, 0xFFFFFFFF, 0xFFFFFFFF, 0xFFFFFFFF, 0xFFFFFFFF, 0xFFFFFFFF, 0xFFFFFF] = true) :
    exec (.fence id) s = .next (State.setRunning
      { s with que := { s.que with fences := s.que.fences ++ [⟨id, s.fenceSet l, l.flag 1,
        if l.w 10 = 0 then none else some (l.at_ + l.w 10 * 1000)⟩] } } id) := by
  show execFence id s = _
  rw [execFence, State.Fresh.onNew ⟨hl, hop, hph, hc⟩]
  simp only [hup, hres, Bool.not_true, Bool.false_eq_true, if_false]

theorem mem_fenceSet {s : State} {l m : Live} (hm : m ∈ s.que.live) (h : fenceTakes l m = true) : Member.cmd m.id ∈ s.fenceSet l :=
  List.mem_append_left _ (List.mem_map_of_mem (List.mem_filter.2 ⟨hm, h⟩))

theorem not_all_members {s : State} {f : Fence} (hsome : ∃ m ∈ f.members, s.memberDone m = false) :
    (f.members.all fun m => s.memberDone m) = false := by
  obtain ⟨m, hm, hdone⟩ := hsome
  exact List.all_eq_false.2 ⟨m, hm, by simp [hdone]⟩

section
variable {s : State} {id : Nat} {f : Fence} (hf : s.que.fences.find? (fun f => decide (f.id = id)) = some f)
include hf

theorem fenceDone_ends (hall : ∀ m ∈ f.members, s.memberDone m = true) :
    exec (.fenceDone id) s = .next ((s.dropFence id).done id 0 [w32 (min f.members.length 0xFFFFFFFF), 0, 0, 0]) := by
  show execFenceDone id s = _
  simp only [execFenceDone, hf, if_pos (List.all_eq_true.2 hall)]

variable (hsome : ∃ m ∈ f.members, s.memberDone m = false)
include hsome

theorem fenceDone_waits : exec (.fenceDone id) s = .next s := by
  show execFenceDone id s = _
  simp only [execFenceDone, hf, not_all_members hsome, Bool.false_eq_true, if_false]

theorem fenceTimeout_ends {t d : Nat} (hd : f.deadline = some d) (hdue : d ≤ max s.clk t) :
    exec (.fenceTimeout id t) s = .next (((s.at_ t).dropFence id).complete id .timeout
      (some (0, [w32 (min f.members.length 0xFFFFFFFF), 0, 0, 0]))) := by
  show execFenceTimeout id t s = _
  have hall : (f.members.all fun m => (s.at_ t).memberDone m) = false := not_all_members hsome
  have hdue : d ≤ (s.at_ t).clk := hdue
  simp only [execFenceTimeout, State.atTime_que, hf, hd, hall, hdue, Bool.not_false, and_self, if_true]

end

/-- Settles O37. -/
theorem fenceWaitsForItsSet : Obligations.FenceWaitsForItsSet := by
  refine fun s id => ⟨fun l hl hop hph hc hup hres => ⟨fence_takes hl hop hph hc hup hres, fun m hm hid => ?_⟩,
    fun f hf => ⟨fenceDone_ends hf, fun hsome => ⟨fenceDone_waits hf hsome, fun t d hd hdue => fenceTimeout_ends hf hsome hd hdue⟩⟩⟩
  refine ⟨fun p q hsrc h => ?_, fun p iid idx hsrc h => ?_, fun p tag w1 hsrc h => ?_, fun n r hsrc h => ?_⟩
  · refine mem_fenceSet hm ?_
    simpa [fenceTakes, hid, hsrc, fenceMask] using h
  all_goals exact mem_fenceSet hm (by simp [fenceTakes, hid, hsrc, h])

end Sys2Proof.Machine


/-! STATS (12 R446) and the version 1 LOOKUP and FREE (00 R6 to R9; 12 R452). -/

namespace Sys2Proof.Machine

/-! ### STATS (12 R446) -/

/-- The reserved bits of a STATS are 0 when words 6 and 7 may hold only the bits of `a`. -/
def Live.statsOk (l : Live) (a : Word) : Bool := l.reservedOk 0x603 [0, 0, a, a, 0xFFFFFFFF, 0xFFFFFFFF]

section
variable {s : State} {id : Nat} {l : Live} (hnew : s.Fresh id 0x13 l)
include hnew

theorem stats_early (hup : s.reached .psa = false) : exec (.stats id) s = .next (s.fail id .notReady) := by
  show execStats id s = _
  rw [execStats, hnew.onNew]
  simp only [hup, Bool.not_false, if_true]

theorem stats_kinds (hup : s.reached .psa = true) : exec (.stats id) s = .next (
    if 2 ≤ fld l.flags 0 2 ∨ l.statsOk (if fld l.flags 0 2 = 1 then 0xFFFFFFFF else 0) = false then s.fail id .badCommand
    else if fld l.flags 0 2 = 0 then s.statsOut l (s.tenantStats l.tenant)
    else match s.namedKey l false with
      | .error e => s.fail id e
      | .ok (k, form) => match s.current k form with
        | none => s.fail id .notFound
        | some (i, v) => s.statsOut l (s.psetStats i v)) := by
  have hwords : l.statsOk (if fld l.flags 0 2 = 1 then 0xFFFFFFFF else 0) = l.reservedOk 0x603
      ([0, 0] ++ (if fld l.flags 0 2 = 1 then [0xFFFFFFFF, 0xFFFFFFFF] else [0, 0]) ++ [0xFFFFFFFF, 0xFFFFFFFF]) := by
    split_ifs <;> rfl
  show execStats id s = _
  rw [execStats, hnew.onNew, hwords]
  simp only [hup, Bool.not_true, Bool.false_eq_true, if_false, Bool.not_eq_true'] <;> rfl

theorem stats_bad (hup : s.reached .psa = true) (h : 2 ≤ fld l.flags 0 2 ∨ (fld l.flags 0 2 = 0 ∧ l.statsOk 0 = false) ∨
    (fld l.flags 0 2 = 1 ∧ l.statsOk 0xFFFFFFFF = false)) : exec (.stats id) s = .next (s.fail id .badCommand) := by
  rw [stats_kinds hnew hup, if_pos]
  rcases h with h | ⟨hkind, h⟩ | ⟨hkind, h⟩
  · exact .inl h
  · rw [hkind]; exact .inr h
  · rw [hkind]; exact .inr h

theorem stats_tenant (hup : s.reached .psa = true) (hkind : fld l.flags 0 2 = 0) (hok : l.statsOk 0 = true) :
    exec (.stats id) s = .next (s.statsOut l (s.tenantStats l.tenant)) := by
  rw [stats_kinds hnew hup, hkind, if_neg (fun h => h.elim (by omega) (fun h => Bool.noConfusion (hok.symm.trans h))), if_pos rfl]

/-- With KIND 1 the key decides. -/
theorem stats_pset (hup : s.reached .psa = true) (hkind : fld l.flags 0 2 = 1) (hok : l.statsOk 0xFFFFFFFF = true) :
    exec (.stats id) s = .next (match s.namedKey l false with
      | .error e => s.fail id e
      | .ok (k, form) => match s.current k form with
        | none => s.fail id .notFound
        | some (i, v) => s.statsOut l (s.psetStats i v)) := by
  rw [stats_kinds hnew hup, hkind, if_neg (fun h => h.elim (by omega) (fun h => Bool.noConfusion (hok.symm.trans h))), if_neg one_ne_zero]

end

theorem statsOut_ungranted {s : State} {l : Live} {ws : List Word} (h : s.hextOk l.tenant l.port (l.w64 8) (4 * ws.length) true = false) :
    s.statsOut l ws = (s.undefHost l.port (l.w64 8) 0).fail l.id .revoked := by
  have hwrite : s.workWrite l.tenant l.port (l.w64 8) (bytesOf ws) = .error .revoked := by
    simp only [State.workWrite, length_bytesOf, h, Bool.not_false, if_true]
  simp only [State.statsOut, hwrite, reduceCtorEq, if_false]

theorem statsOut_granted {s : State} {l : Live} {ws : List Word} (h : s.hextOk l.tenant l.port (l.w64 8) (4 * ws.length) true = true)
    (hup : s.portDown l.port = false) : s.statsOut l ws =
      (s.setHost l.port ((s.host l.port).wrBytes (l.w64 8) (bytesOf ws))).done l.id 0 [w32 (4 * ws.length), 0, 0, 0] := by
  have hwrite : s.workWrite l.tenant l.port (l.w64 8) (bytesOf ws) =
      .ok (s.setHost l.port ((s.host l.port).wrBytes (l.w64 8) (bytesOf ws))) := by
    simp only [State.workWrite, length_bytesOf, h, Bool.not_true, Bool.false_eq_true, if_false, State.hostWrite, hup]
  simp only [State.statsOut, hwrite]

theorem length_tenantStats (s : State) (t : Nat) : (s.tenantStats t).length = 16 := by
  simp [State.tenantStats, List.flatMap, List.range_succ]

theorem length_psetStats (s : State) (i : Nat) (v : Slot) : (s.psetStats i v).length = 8 := by simp [State.psetStats]

/-! ### Version 1 LOOKUP and FREE (00 R6 to R9; 12 R452) -/

/-- What tests and opens a version 1 command before its own work: `f` runs where the model's keys are of one unit. -/
def State.compatTests (s : State) (l : Live) (id : Nat) (f : State) : State :=
  if !s.reached .psa then s.fail id .notReady
  else if !compatReserved l [] then s.fail id .badCommand
  else if (s.model (l.w 4)).isNone then s.fail id .notFound
  else if (s.model (l.w 4)).any (fun m => decide (m.keyForm ≠ 0)) then s.fail id .badCommand
  else f

section
variable {s : State} {id : Nat} {l : Live}

theorem compatLookup_tests (hnew : s.FreshCompat id 0x01 l) : exec (.compatLookup id) s = .next (s.compatTests l id
    (match s.viewFor id l.tenant 0 with
      | (s, .error _) => s.fail id .notReady
      | (s, .ok snap) => match s.lookProbeView (compatKey l) snap with
        | (s, none) => s.fail id .notFound
        | (s, some (i, multi)) =>
          s.complete id (if multi then .multi else .ok) (some (w32 (s.psetAt (s.slot i).ps).pages, [])))) := by
  show execCompatLookup id s = _
  rw [execCompatLookup, hnew.onCompat]
  rfl

theorem compatFree_tests (hnew : s.FreshCompat id 0x08 l) : exec (.compatFree id) s = .next (s.compatTests l id
    (match s.current (compatKey l) 0 with
      | none => s.fail id .notFound
      | some (i, v) =>
        if !v.pin && !v.shared && s.evictable i then (s.schedule (.end_ i (.free id))).setRunning id else s.fail id .conflict)) := by
  show execCompatFree id s = _
  rw [execCompatFree, hnew.onCompat]
  rfl

theorem compatTests_early (hup : s.reached .psa = false) (f : State) : s.compatTests l id f = s.fail id .notReady :=
  if_pos (by simp [hup])

variable (hup : s.reached .psa = true)
include hup

theorem compatTests_words (hbad : compatReserved l [] = false) (f : State) : s.compatTests l id f = s.fail id .badCommand := by
  simp [State.compatTests, hup, hbad]

variable (hok : compatReserved l [] = true)
include hok

theorem compatTests_noModel (hm : s.model (l.w 4) = none) (f : State) : s.compatTests l id f = s.fail id .notFound := by
  simp [State.compatTests, hup, hok, hm]

variable {m : Model} (hm : s.model (l.w 4) = some m)
include hm

theorem compatTests_otherForm (hform : m.keyForm ≠ 0) (f : State) : s.compatTests l id f = s.fail id .badCommand := by
  simp [State.compatTests, hup, hok, hm, hform]

theorem compatTests_passes (hform : m.keyForm = 0) (f : State) : s.compatTests l id f = f := by
  simp [State.compatTests, hup, hok, hm, hform]

end

/-- Settles O38. -/
theorem statsAndVersionOne : Obligations.StatsAndVersionOne := by
  refine ⟨fun s id l hl hph hop hc => ⟨stats_early ⟨hl, hop, hph, hc⟩, ?_⟩,
    fun s l ws n hn => ⟨fun h => statsOut_ungranted (hn ▸ h), fun h hup => hn ▸ statsOut_granted (hn ▸ h) hup⟩,
    fun s t i v => ⟨length_tenantStats s t, length_psetStats s i v⟩, fun s id l hl hph hc op c hcmd hop => ?_,
    fun s id l m hl hph hup hc hok hm hform => ⟨fun hop t => ?_, fun hop => ?_⟩⟩
  · rintro hup ok rfl
    have hnew : s.Fresh id 0x13 l := ⟨hl, hop, hph, hc⟩
    refine ⟨stats_bad hnew hup, stats_tenant hnew hup, fun hkind hok => ⟨fun e he => ?_, fun k form hkey => ⟨fun hnone => ?_, fun i v hcur => ?_⟩⟩⟩
    · rw [stats_pset hnew hup hkind hok, he]
    · rw [stats_pset hnew hup hkind hok, hkey]; simp only [hnone]
    · rw [stats_pset hnew hup hkind hok, hkey]; simp only [hcur]
  · have htests : ∃ f, exec c s = .next (s.compatTests l id f) := by
      obtain ⟨rfl, rfl⟩ | ⟨rfl, rfl⟩ := hcmd
      · exact ⟨_, compatLookup_tests ⟨hl, hop, hph, hc⟩⟩
      · exact ⟨_, compatFree_tests ⟨hl, hop, hph, hc⟩⟩
    obtain ⟨f, hf⟩ := htests
    rw [hf]
    exact ⟨fun hup => congrArg _ (compatTests_early hup f), fun hup => ⟨fun hbad => congrArg _ (compatTests_words hup hbad f), fun hok =>
      ⟨fun hm => congrArg _ (compatTests_noModel hup hok hm f), fun m hm hform => congrArg _ (compatTests_otherForm hup hok hm hform f)⟩⟩⟩
  · rw [compatLookup_tests ⟨hl, hop, hph, hc⟩, compatTests_passes hup hok hm hform]
    refine ⟨fun e hview => by rw [hview], fun snap hview u => ?_⟩
    rw [hview]
    exact ⟨fun h => by simp only [h], fun i multi h => by simp only [h]⟩
  · rw [compatFree_tests ⟨hl, hop, hph, hc⟩, compatTests_passes hup hok hm hform]
    refine ⟨fun h => by rw [h], fun i v h => ?_⟩
    rw [h]
    refine ⟨fun hno => ?_, fun hpin hshared hev => ?_⟩
    · dsimp only
      rw [if_neg]
      rcases hno with hno | hno | hno <;> simp [hno]
    · simp only [hpin, hshared, hev, Bool.not_false, Bool.and_self, if_true]

end Sys2Proof.Machine


/-! DMA channels (12 R460, R461, R463, R466): control, the halt of the engine, and RESUME. -/

namespace Sys2Proof.Machine

/-! ### Control (12 R460, R463, R466) -/

section
variable {s : State} {src : Src} {c : Nat}

theorem dmaControl_runs (hc : c < 64) (hon : s.pageOn src (0x50 + c / 8) = true) :
    exec (.dmaRun src c) s = .next (s.dmaStart c) ∧ exec (.dmaKick src c) s = .next (s.dmaKickCh c) ∧
      exec (.dmaAbort src c) s = .next (s.dmaAbortCh c) :=
  ⟨congrArg Host.Outcome.next (if_pos ⟨hc, hon⟩), congrArg Host.Outcome.next (if_pos ⟨hc, hon⟩),
    congrArg Host.Outcome.next (if_pos ⟨hc, hon⟩)⟩

theorem dmaControl_idle (h : 64 ≤ c ∨ s.pageOn src (0x50 + c / 8) = false) :
    exec (.dmaRun src c) s = .next s ∧ exec (.dmaKick src c) s = .next s ∧ exec (.dmaAbort src c) s = .next s := by
  have hno : ¬ (c < 64 ∧ s.pageOn src (dmaPage c) = true) := by
    rintro ⟨hc, hon⟩
    rcases h with h | h
    · omega
    · rw [dmaPage, h] at hon; cases hon
  exact ⟨congrArg Host.Outcome.next (if_neg hno), congrArg Host.Outcome.next (if_neg hno), congrArg Host.Outcome.next (if_neg hno)⟩

theorem dmaStart_bound (hst : (s.chan c).state = .stopped) (hbound : (s.dmaTenant c).isSome = true) :
    s.dmaStart c = s.setChan c { s.chan c with state := .running, cause := 0, links := 0 } := by
  obtain ⟨t, ht⟩ := Option.isSome_iff_exists.1 hbound
  simp only [State.dmaStart, hst, ne_eq, not_true_eq_false, if_false, ht]

theorem dmaStart_unbound (hst : (s.chan c).state = .stopped) (hnone : s.dmaTenant c = none) :
    s.dmaStart c = s.setChan c { s.chan c with cause := 2 } := by
  simp only [State.dmaStart, hst, ne_eq, not_true_eq_false, if_false, hnone]

theorem dmaStart_again (hst : (s.chan c).state ≠ .stopped) : s.dmaStart c = s := if_pos hst

theorem dmaKickCh_idle (hst : (s.chan c).state = .idle) : s.dmaKickCh c = s.setChan c { s.chan c with state := .running } := if_pos hst

theorem dmaKickCh_other (hst : (s.chan c).state ≠ .idle) : s.dmaKickCh c = s := if_neg hst

theorem dmaAbortCh_empty (hd : (s.chan c).desc = none) : s.dmaAbortCh c = if (s.chan c).state = .halted then s
    else (s.setChan c { s.chan c with state := .stopped, cause := 4 }).raise (0x50 + c / 8) 8 := by
  simp only [State.dmaAbortCh, hd, dmaPage]

theorem dmaAbortCh_desc {d : Desc} (hd : (s.chan c).desc = some d) : s.dmaAbortCh c = if (s.chan c).state ≠ .running then s
    else if d.flight = [] then s.dmaEnd c .aborted true 4 else s.setChan c { s.chan c with desc := some { d with aborting := true } } := by
  simp only [State.dmaAbortCh, hd]

end

/-! ### Every channel at once (12 R461) -/

/-- Every channel of a list takes its image under `f`. -/
def State.mapChans (s : State) (f : Chan → Chan) (l : List Nat) : State := l.foldl (fun s k => s.setChan k (f (s.chan k))) s

theorem mapChans_frame (f : Chan → Chan) : ∀ (l : List Nat) (s : State),
    s.mapChans f l = { s with dma := { s.dma with ch := (s.mapChans f l).dma.ch } }
  | [], _ => rfl
  | k :: l, s => by
    have ih := mapChans_frame f l (s.setChan k (f (s.chan k)))
    exact ih

theorem chan_mapChans_other {f : Chan → Chan} : ∀ {l : List Nat} {s : State} {k : Nat}, k ∉ l → (s.mapChans f l).chan k = s.chan k
  | [], _, _, _ => rfl
  | j :: l, s, k, h => by
    obtain ⟨hj, hl⟩ := not_or.1 (List.mem_cons.not.1 h)
    exact (chan_mapChans_other (s := s.setChan j (f (s.chan j))) hl).trans (chan_setChan_ne s _ hj)

/-- Where a set channel reads back as it was set, every channel of the list has its image. -/
theorem chan_mapChans {f : Chan → Chan} {ok : State → Prop} (hok : ∀ s j, ok s → ok (s.setChan j (f (s.chan j))))
    (hself : ∀ s j, ok s → (s.setChan j (f (s.chan j))).chan j = f (s.chan j)) : ∀ {l : List Nat} {s : State} {k : Nat},
    ok s → l.Nodup → k ∈ l → (s.mapChans f l).chan k = f (s.chan k)
  | [], _, _, _, _, h => by cases h
  | j :: l, s, k, hs, hl, h => by
    obtain ⟨hj, hl⟩ := List.nodup_cons.1 hl
    show ((s.setChan j (f (s.chan j))).mapChans f l).chan k = _
    by_cases hkj : k = j
    · subst hkj
      rw [chan_mapChans_other hj, hself s k hs]
    · have hkl : k ∈ l := (List.mem_cons.1 h).resolve_left hkj
      rw [chan_mapChans hok hself (hok s j hs) hl hkl, chan_setChan_ne s _ hkj]

/-! ### RESUME (12 R461) -/

theorem dmaResume_idle {s : State} {src : Src} (h : s.pageOn src 0x50 = false ∨ s.dma.halted = false) :
    exec (.dmaResume src) s = .next s := by
  show execDmaResume src s = _
  rcases h with h | h <;> simp [execDmaResume, State.dmaResumeAll, h]

/-- The state with the halt over. -/
def State.unhalted (s : State) : State := { s with dma := { s.dma with halted := false } }

theorem dmaResume_stops {s : State} {src : Src} (hon : s.pageOn src 0x50 = true) (hhalted : s.dma.halted = true) :
    exec (.dmaResume src) s = .next (s.unhalted.mapChans (fun v => { v with state := .stopped }) (List.range 64)) :=
  congrArg Host.Outcome.next ((if_pos hon).trans (if_pos hhalted))

theorem chan_dmaResume {s : State} (hrising : Sparse.rising s.dma.ch) {k : Nat} (hk : k < 64) :
    (s.unhalted.mapChans (fun v => { v with state := .stopped }) (List.range 64)).chan k = { s.chan k with state := .stopped } :=
  chan_mapChans (f := fun v => { v with state := .stopped }) (ok := fun s => Sparse.rising s.dma.ch)
    (fun _ _ h => rising_sset _ _ _ h) (fun _ _ h => sget_sset_self _ _ _ h) (s := s.unhalted) hrising List.nodup_range (List.mem_range.2 hk)

/-! ### A host read that draws an error (12 R461) -/

/-- The engine reads host memory: the descriptor fetch of a running channel, or a burst of an H2D descriptor. -/
def State.dmaReading (s : State) (c : Nat) (onFetch : Bool) : Prop :=
  (onFetch = true ∧ (s.chan c).desc = none ∧ (s.chan c).state = .running) ∨
    (onFetch = false ∧ ∃ d, (s.chan c).desc = some d ∧ dmaType d.ws = 0 ∧ d.flight ≠ [])

theorem dmaBusError_halts {s : State} {c cause : Nat} {onFetch : Bool} (h : s.dmaReading c onFetch) (h1 : 1 ≤ cause) (h4 : cause ≤ 4)
    (hrun : s.dma.halted = false) : exec (.dmaBusError c cause onFetch) s = .next (s.dmaHalt c cause onFetch) := by
  show execDmaBusError c cause onFetch s = _
  obtain ⟨hf, hd, hst⟩ | ⟨hf, d, hd, ht, hfl⟩ := h
  · simp [execDmaBusError, hd, hf, hst, h1, h4, hrun]
  · simp [execDmaBusError, hd, hf, ht, hfl, h1, h4, hrun]

theorem dmaBusError_idle {s : State} {c cause : Nat} {onFetch : Bool}
    (h : ¬ s.dmaReading c onFetch ∨ cause = 0 ∨ 4 < cause ∨ s.dma.halted = true) : exec (.dmaBusError c cause onFetch) s = .next s := by
  show execDmaBusError c cause onFetch s = _
  refine congrArg Host.Outcome.next (if_neg ?_)
  rintro ⟨hreading, h1, h4, hrun⟩
  rcases h with h | h | h | h
  · refine h ?_
    unfold State.dmaReading
    split at hreading
    next d hd => exact .inr (by simpa [hd, and_assoc] using hreading)
    next hd => exact .inl (by simpa [hd] using hreading)
  · omega
  · omega
  · rw [hrun] at h; cases h

/-- The state in which every channel is about to halt: the work of each has ended, and the engine names cause and channel. -/
def State.dmaHalting (s : State) (c cause : Nat) (onFetch : Bool) : State :=
  let u := s.dmaHaltAll (fun k d =>
    if cause = 4 then decide (dmaType d.ws = 0) && decide (d.flight ≠ []) else !onFetch && decide (k = c))
  let v := if onFetch then u.setChan c { u.chan c with cause := 1 } else u
  { v with dma := { v.dma with halted := true, cause := cause, errCh := c } }

theorem dmaHalt_eq (s : State) (c cause : Nat) (onFetch : Bool) : s.dmaHalt c cause onFetch =
    ((s.dmaHalting c cause onFetch).mapChans (fun v => { v with state := .halted }) (List.range 64)).count 0x50 0x188 9 := rfl

theorem count_dma (s : State) (p o i : Nat) : (s.count p o i).dma = s.dma := by rw [count_eq]

theorem chan_dmaHalt {s : State} {c cause k : Nat} {onFetch : Bool} (hk : k < 64) : (s.dmaHalt c cause onFetch).chan k =
    { (s.dmaHalting c cause onFetch).chan k with state := .halted } := by
  rw [dmaHalt_eq, chan_of_ch (congrArg Dma.ch (count_dma _ _ _ _))]
  exact chan_mapChans (f := fun v => { v with state := .halted }) (ok := fun _ => True) (fun _ _ _ => trivial)
    (fun s j _ => chan_setChan_eq s (fun h => by injection h with h; cases h)) trivial List.nodup_range (List.mem_range.2 hk)

theorem dmaHalt_dma (s : State) (c cause : Nat) (onFetch : Bool) : (s.dmaHalt c cause onFetch).dma.halted = true ∧
    (s.dmaHalt c cause onFetch).dma.cause = cause ∧ (s.dmaHalt c cause onFetch).dma.errCh = c := by
  rw [dmaHalt_eq, count_dma, mapChans_frame]
  exact ⟨rfl, rfl, rfl⟩

theorem dmaHalt_busHalt (s : State) (c cause : Nat) (onFetch : Bool) :
    bit ((s.dmaHalt c cause onFetch).reg (pg 0x50 + 0x10)) 9 = true := by
  rw [dmaHalt_eq, State.count]
  exact bit_raise _ (by omega) (by decide +kernel) (by decide +kernel)

/-- The channel whose descriptor fetch drew the error names FETCH. -/
theorem chan_dmaHalting_fetch (s : State) (c cause : Nat) : ((s.dmaHalting c cause true).chan c).cause = 1 := by
  obtain ⟨u, hu⟩ : ∃ u : State, (s.dmaHalting c cause true).chan c = (u.setChan c { u.chan c with cause := 1 }).chan c := ⟨_, rfl⟩
  rw [hu, chan_setChan_eq u (fun h => by injection h with _ h; cases h)]

/-- Settles O39. -/
theorem dmaChannelControl : Obligations.DmaChannelControl := by
  refine ⟨fun s src c hc hon => ?_, fun s src c h => dmaControl_idle h, fun s src => ⟨dmaResume_idle, fun hon hhalted hrising => ?_⟩,
    fun s c cause onFetch reading hreading => ?_⟩
  · obtain ⟨hrun, hkick, habort⟩ := dmaControl_runs hc hon
    rw [hrun, hkick, habort]
    refine ⟨fun hst hb => congrArg _ (dmaStart_bound hst hb), fun hst hn => congrArg _ (dmaStart_unbound hst hn),
      fun hst => congrArg _ (dmaStart_again hst), fun hst => congrArg _ (dmaKickCh_idle hst), fun hst => congrArg _ (dmaKickCh_other hst),
      fun hd => ?_, fun d hd => ?_⟩
    · rw [dmaAbortCh_empty hd]
      exact ⟨fun hst => by rw [if_pos hst], fun hst => by rw [if_neg hst]⟩
    · rw [dmaAbortCh_desc hd]
      refine ⟨fun hst => by rw [if_pos hst], fun hst => ?_⟩
      rw [if_neg (by simp [hst])]
      exact ⟨fun hfl => by rw [if_pos hfl], fun hfl => by rw [if_neg hfl]⟩
  · exact ⟨_, dmaResume_stops hon hhalted, mapChans_frame _ _ _, fun k hk => chan_dmaResume hrising hk⟩
  · obtain rfl : reading = s.dmaReading c onFetch := hreading
    refine ⟨fun h h1 h4 hrun => ?_, dmaBusError_idle⟩
    obtain ⟨hhalted, hcause, hch⟩ := dmaHalt_dma s c cause onFetch
    refine ⟨_, dmaBusError_halts h h1 h4 hrun, hhalted, hcause, hch, fun k hk => by rw [chan_dmaHalt hk], dmaHalt_busHalt s c cause onFetch, ?_⟩
    rintro rfl hc
    rw [chan_dmaHalt hc]
    exact chan_dmaHalting_fetch s c cause

end Sys2Proof.Machine


/-! DMA descriptors and bursts (12 R455 to R460): what a descriptor fetch finds, how bursts are issued, and how they land. -/

namespace Sys2Proof.Machine

theorem Chan.ne_reset_of_state {v : Chan} (h : v.state ≠ .stopped) : v ≠ Chan.reset := fun e => h (e ▸ rfl)

theorem Chan.ne_reset_of_desc {v : Chan} {d : Desc} (h : v.desc = some d) : v ≠ Chan.reset := fun e => by
  rw [e] at h; cases h

/-! ### DESCRIPTOR_FETCH (12 R455, R460) -/

theorem descriptorFetch_idle {s : State} {c : Nat} (h : (s.chan c).state ≠ .running ∨ (s.chan c).desc.isSome = true ∨ s.dma.halted = true) :
    exec (.descriptorFetch c) s = .next s := congrArg Host.Outcome.next (if_pos h)

section
variable {s : State} {c : Nat} (hst : (s.chan c).state = .running) (hdesc : (s.chan c).desc = none) (hrun : s.dma.halted = false)
include hst hdesc hrun

theorem descriptorFetch_unbound (hnone : s.dmaTenant c = none) :
    exec (.descriptorFetch c) s = .next (s.setChan c { s.chan c with state := .stopped, cause := 2 }) := by
  show execDescriptorFetch c s = _
  simp only [execDescriptorFetch, hst, hdesc, hrun, hnone, ne_eq, not_true_eq_false, Option.isSome_none, Bool.false_eq_true, or_self, if_false]

theorem descriptorFetch_fetches {tenant : Nat} (ht : s.dmaTenant c = some tenant) :
    exec (.descriptorFetch c) s = .next (State.dmaFetch 66 s c tenant) := by
  show execDescriptorFetch c s = _
  simp only [execDescriptorFetch, hst, hdesc, hrun, ht, ne_eq, not_true_eq_false, Option.isSome_none, Bool.false_eq_true, or_self, if_false]

end

theorem dmaFetch_busError {s : State} {c : Nat} (hbad : s.hostReadBad (s.dmaPort c) (s.chan c).next 32 = true) (n tenant : Nat) :
    State.dmaFetch (n + 1) s c tenant = s.dmaHalt c (if s.portDown (s.dmaPort c) then 4 else 1) true := by
  simp only [State.dmaFetch, State.hostRead, hbad, if_true]

/-- What a fetch makes of the descriptor it has read. -/
theorem dmaFetch_reads {s : State} {c : Nat} (hgood : s.hostReadBad (s.dmaPort c) (s.chan c).next 32 = false) {ws : List Word}
    (hws : wordsOf ((s.host (s.dmaPort c)).rdBytes (s.chan c).next 32) = ws) (n tenant : Nat) :
    State.dmaFetch (n + 1) s c tenant =
      if !dmaBit ws 31 then s.setChan c { s.chan c with state := .idle }
      else if dmaType ws ≠ 2 then s.dmaTake c tenant (s.chan c).next ws
      else if linkBad ws then (s.setChan c { s.chan c with next := (s.chan c).next + 32 }).dmaReport c (s.chan c).next ws .badCommand 0
      else if (s.chan c).links = 64 then
        let u := (s.dmaReport c (s.chan c).next ws .linkLoop 0).bump (pg 0x50 + 0x18C)
        u.setChan c { u.chan c with state := .stopped, cause := 3, next := (u.chan c).next + 32 }
      else State.dmaFetch n (s.setChan c { s.chan c with next := wd64 ws 2, links := (s.chan c).links + 1 }) c tenant := by
  rw [State.dmaFetch]
  simp only [State.hostRead, hgood, Bool.false_eq_true, if_false, hws]

/-- A channel with a data descriptor fetched from its NEXT. -/
def Chan.took (v : Chan) (ws : List Word) : Chan :=
  { v with next := v.next + 32, fetched := v.fetched + 1, links := 0, residue := dmaLen ws }

/-- The state with a data descriptor fetched. -/
def State.dmaFetched (s : State) (c : Nat) (ws : List Word) : State := s.setChan c ((s.chan c).took ws)

theorem dmaTake_refused {s : State} {c tenant : Nat} {ws : List Word} {st : Status} (h : (s.dmaFetched c ws).dmaCheck c tenant ws = some st) :
    s.dmaTake c tenant (s.chan c).next ws = (s.dmaFetched c ws).dmaReport c (s.chan c).next ws st (dmaLen ws) := by
  simp only [State.dmaFetched, Chan.took] at h ⊢
  simp only [State.dmaTake, h]

/-- A descriptor as it is taken up. -/
def State.dmaTaken (s : State) (c tenant : Nat) (ws : List Word) : Desc :=
  ⟨(s.chan c).fetched + 1, (s.chan c).next, ws, dmaLen ws, 0, [], false, false, s.que.nextId, tenant, false⟩

/-- A descriptor that passes its checks is taken up; a D2H descriptor with a proof holds the snapshot and the page set. -/
theorem dmaTake_taken {s : State} {c tenant : Nat} {ws : List Word} (hst : (s.chan c).state = .running)
    (h : (s.dmaFetched c ws).dmaCheck c tenant ws = none) : ∃ t, s.dmaTake c tenant (s.chan c).next ws = t ∧
      t = { s with dma := { s.dma with ch := t.dma.ch }, dir := t.dir, tier := t.tier } ∧
      (dmaType ws = 0 → t.dir = s.dir ∧ t.tier = s.tier) ∧
      t.chan c = { (s.chan c).took ws with desc := some (s.dmaTaken c tenant ws) } := by
  have hchan : (s.dmaFetched c ws).chan c = (s.chan c).took ws :=
    chan_setChan_eq s (Chan.ne_reset_of_state (by simp [Chan.took, hst]))
  obtain ⟨u, hu⟩ : ∃ u : State, u = (s.dmaFetched c ws).setChan c { (s.dmaFetched c ws).chan c with desc := some (s.dmaTaken c tenant ws) } :=
    ⟨_, rfl⟩
  have hframe : u = { s with dma := { s.dma with ch := u.dma.ch } } := by rw [hu]; rfl
  have htaken : u.chan c = { (s.chan c).took ws with desc := some (s.dmaTaken c tenant ws) } := by
    rw [hu, chan_setChan_eq _ (Chan.ne_reset_of_desc (d := s.dmaTaken c tenant ws) rfl), hchan]
  have htake : s.dmaTake c tenant (s.chan c).next ws =
      match (if dmaType ws = 1 ∧ wd ws 6 ≠ 0 then u.dmaEntry tenant ws else none), u.proofOf tenant (wd ws 6) with
      | some _, some p => { u.holdSnapshot (dmaReader c) p.snapshot with
          tier := { u.tier with reads := u.tier.reads ++ [{ id := dmaReader c, pset := psIx (dmaPset ws) }] } }
      | _, _ => u := by
    have hnum : ((s.dmaFetched c ws).chan c).fetched = (s.chan c).fetched + 1 := by rw [hchan]; rfl
    unfold State.dmaTaken at hu
    rw [hu, ← hnum]
    simp only [State.dmaFetched, Chan.took] at h ⊢
    simp only [State.dmaTake, h] <;> rfl
  refine ⟨_, rfl, ?_, fun h0 => ?_, ?_⟩
  · rw [htake]
    split
    · conv_lhs => rw [hframe]
      conv_rhs => rw [hframe]
      rfl
    · conv_lhs => rw [hframe]
      conv_rhs => rw [hframe]
  · have hnot : ¬ (dmaType ws = 1 ∧ wd ws 6 ≠ 0) := by omega
    rw [htake, if_neg hnot, hframe]
    exact ⟨rfl, rfl⟩
  · rw [htake]
    split <;> exact htaken

@[simp] theorem msix_dma (s : State) (p vec : Nat) : (s.msix p vec).dma = s.dma := by rw [msix_eq]

@[simp] theorem raise_dma (s : State) (p i : Nat) : (s.raise p i).dma = s.dma := by rw [(notesOnly_raise s p i).1]

@[simp] theorem hostPut_dma (s : State) (p a : Nat) (bs : List Byte) : (s.hostPut p a bs).dma = s.dma := by
  rw [entryOnly_hostPut s p a bs]

/-- The write-back of a descriptor sets its channel's last status and residue. -/
theorem chan_dmaReport {s : State} {c : Nat} (hst : (s.chan c).state ≠ .stopped) (addr : Nat) (ws : List Word) (st : Status) (residue : Nat) :
    (s.dmaReport c addr ws st residue).chan c = { s.chan c with last := st.code, residue := residue } := by
  obtain ⟨u, hu⟩ : ∃ u : State, u = (s.dmaWriteBack c addr ws st residue).bump (dmaAddr c + 0x18) := ⟨_, rfl⟩
  have hdma : u.dma = s.dma := by rw [hu]; exact hostPut_dma _ _ _ _
  have hchan : u.chan c = s.chan c := chan_of_ch (congrArg Dma.ch hdma) c
  have hrep : (s.dmaReport c addr ws st residue).dma = (u.setChan c { u.chan c with last := st.code, residue := residue }).dma := by
    simp only [State.dmaReport, ← hu, State.dmaMsg]
    split_ifs <;> simp only [msix_dma, raise_dma]
  rw [chan_of_ch (congrArg Dma.ch hrep), chan_setChan_eq _ (Chan.ne_reset_of_state (by rw [hchan]; exact hst)), hchan]

/-! ### BURST_ISSUE (12 R456) -/

section
variable {s : State} {c : Nat} {d : Desc} (hd : (s.chan c).desc = some d)
include hd

theorem burstIssue_idle (h : (s.chan c).state ≠ .running ∨ d.aborting = true ∨ d.count = 0) : exec (.burstIssue c) s = .next s := by
  show execBurstIssue c s = _
  simp only [execBurstIssue, hd, if_pos h]

/-- A burst is issued unless something stops it or its page must come from T2 first. -/
theorem burstIssue_runs (hst : (s.chan c).state = .running) (hab : d.aborting = false) (hcount : d.count ≠ 0) :
    exec (.burstIssue c) s = .next (match s.burstStop c d with
      | some st => if d.flight = [] then s.dmaEnd c st false 0 else s
      | none =>
        if dmaType d.ws = 1 ∧ !s.pageReady (psIx (dmaPset d.ws)) (dmaPg d.ws) then s.needPages (psIx (dmaPset d.ws)) [dmaPg d.ws] false false
        else s.setChan c { s.chan c with
          residue := d.count - burstLen (s.cfgFld (pg 0x50 + 0x108) 0 13) d,
          desc := some { d with count := d.count - burstLen (s.cfgFld (pg 0x50 + 0x108) 0 13) d,
                                flight := d.flight ++ [burstLen (s.cfgFld (pg 0x50 + 0x108) 0 13) d] } }) := by
  show execBurstIssue c s = _
  have hgo : ¬ ((s.chan c).state ≠ .running ∨ d.aborting = true ∨ d.count = 0) := by simp [hst, hab, hcount]
  simp only [execBurstIssue, hd, if_neg hgo] <;> rfl

end

/-! ### BURST_COMPLETE (12 R458, R459) -/

section
variable {s : State} {c n : Nat} {d : Desc} {r : List Nat} (hd : (s.chan c).desc = some d) (hfl : d.flight = n :: r)
  (hup : s.portDown (s.dmaPort c) = false) (hlost : d.lost = false)
include hd hfl hup hlost

/-- How the oldest burst lands while its port is up. -/
theorem burstComplete_lands : exec (.burstComplete c) s = .next (
    if dmaType d.ws = 0 ∧ s.hostReadBad (s.dmaPort c) (wd64 d.ws 2 + (if dmaBit d.ws 23 then 0 else d.landed)) n = true then
      s.dmaHalt c 1 false
    else if s.dmaShut d then (s.setChan c { s.chan c with desc := some { d with flight := [] } }).dmaEnd c .conflict d.aborting 4
    else ((((s.dmaMove c d n).setChan c { s.chan c with desc := some { d with landed := d.landed + n, flight := r } }).bump64
      (pg 0x50 + 0x180) n).dmaHalf c { d with landed := d.landed + n, flight := r }).dmaLanded c) := by
  show execBurstComplete c s = _
  simp [execBurstComplete, hd, hfl, hup, hlost]

end

theorem dmaHalf_without {s : State} {c : Nat} {d : Desc} (h : dmaBit d.ws 26 = false) : s.dmaHalf c d = s := if_neg (by simp [h])

theorem dmaLanded_eq {s : State} {c : Nat} {d : Desc} (hd : (s.chan c).desc = some d) : s.dmaLanded c =
    if d.flight ≠ [] then s else if d.count = 0 then s.dmaEnd c .ok d.aborting 4 else if d.aborting then s.dmaEnd c .aborted true 4 else s := by
  simp only [State.dmaLanded, hd]

theorem burst_noDesc {s : State} {c : Nat} (hd : (s.chan c).desc = none) :
    exec (.burstIssue c) s = .next s ∧ exec (.burstComplete c) s = .next s := by
  constructor
  · show execBurstIssue c s = _
    simp only [execBurstIssue, hd]
  · show execBurstComplete c s = _
    simp only [execBurstComplete, hd]

/-- Settles O40. -/
theorem dmaDescriptorRuns : Obligations.DmaDescriptorRuns := by
  refine ⟨fun s c h => descriptorFetch_idle h, fun s c hst hdesc hrun hnone => descriptorFetch_unbound hst hdesc hrun hnone,
    fun s c tenant hst hrun ht hdesc => ⟨fun hbad => ?_, fun hgood ws hws => ⟨fun hown => ?_, fun hown htype v hv => ?_, fun hown htype hlink => ?_,
      fun hown htype hlink hloop => ?_⟩⟩, fun s c d hd => ⟨burstIssue_idle hd, fun hst hab hcount => ⟨fun st hstop => ?_,
      fun n hstop hpage hn => ?_, fun hstop htype hpage => ?_⟩⟩,
    fun s c d n r hd hfl hup hlost => ⟨fun h0 hbad => ?_, fun h0 hgood hshut => ?_, fun hgood hshut x v hx hv => ?_⟩, fun s c hd => burst_noDesc hd⟩
  · rw [descriptorFetch_fetches hst hdesc hrun ht, dmaFetch_busError hbad]
  · rw [descriptorFetch_fetches hst hdesc hrun ht, dmaFetch_reads hgood hws, if_pos (by simp [hown])]
  · obtain rfl : v = s.dmaFetched c ws := hv
    rw [descriptorFetch_fetches hst hdesc hrun ht, dmaFetch_reads hgood hws, if_neg (by simp [hown]), if_pos htype]
    refine ⟨fun st hcheck => by rw [dmaTake_refused hcheck], fun hcheck => ?_⟩
    obtain ⟨t, htake, htaken⟩ := dmaTake_taken hst hcheck
    exact ⟨t, congrArg _ htake, htaken⟩
  · rw [descriptorFetch_fetches hst hdesc hrun ht, dmaFetch_reads hgood hws, if_neg (by simp [hown]), if_neg (by simp [htype]), if_pos hlink]
  · rw [descriptorFetch_fetches hst hdesc hrun ht, dmaFetch_reads hgood hws, if_neg (by simp [hown]), if_neg (by simp [htype]),
      if_neg (by simp [hlink]), if_pos hloop]
    refine ⟨_, rfl, ?_⟩
    dsimp only
    rw [chan_setChan_eq _ (fun h => by injection h with _ h; cases h)]
    have hrep : ((s.dmaReport c (s.chan c).next ws .linkLoop 0).bump (pg 0x50 + 0x18C)).chan c = _ :=
      chan_dmaReport (by simp [hst]) (s.chan c).next ws .linkLoop 0
    rw [hrep]
    exact ⟨rfl, rfl, rfl, rfl⟩
  · rw [burstIssue_runs hd hst hab hcount, hstop]
  · rw [burstIssue_runs hd hst hab hcount, hstop]
    have hno : ¬ (dmaType d.ws = 1 ∧ (!s.pageReady (psIx (dmaPset d.ws)) (dmaPg d.ws)) = true) := by
      rintro ⟨h1, hnot⟩
      rcases hpage with h0 | hready
      · omega
      · simp [hready] at hnot
    rw [hn]
    dsimp only
    rw [if_neg hno]
    rfl
  · rw [burstIssue_runs hd hst hab hcount, hstop]
    dsimp only
    rw [if_pos ⟨htype, by simp [hpage]⟩]
  · rw [burstComplete_lands hd hfl hup hlost, if_pos ⟨h0, hbad⟩]
  · rw [burstComplete_lands hd hfl hup hlost, if_neg (by simp [hgood]), if_pos hshut]
  · have hlands : exec (.burstComplete c) s = .next ((v.dmaHalf c x).dmaLanded c) := by
      rw [burstComplete_lands hd hfl hup hlost, if_neg (fun ⟨h0, hbad⟩ => by rw [hgood h0] at hbad; cases hbad),
        if_neg (by simp [hshut]), hv, hx]
    have hx' : (v.chan c).desc = some x := by
      have hchan : v.chan c = { s.chan c with desc := some x } := by
        rw [hv]; exact chan_setChan_eq _ (Chan.ne_reset_of_desc (d := x) rfl)
      rw [hchan]
    have hflight : x.flight = r := by rw [hx]
    have hcount : x.count = d.count := by rw [hx]
    have hab : x.aborting = d.aborting := by rw [hx]
    have hbit : dmaBit d.ws 26 = false → v.dmaHalf c x = v := fun h => dmaHalf_without (by rw [hx]; exact h)
    refine ⟨hlands, fun h26 hr h0 => ?_, fun h26 h => ?_⟩
    · rw [hlands, hbit h26, dmaLanded_eq hx', hflight, hcount, hab, if_neg (by simp [hr]), if_pos h0]
    · rw [hlands, hbit h26, dmaLanded_eq hx', hflight, hcount, hab]
      by_cases hr : r = []
      · obtain ⟨h0, hno⟩ := h.resolve_left (by simp [hr])
        rw [if_neg (by simp [hr]), if_neg h0, if_neg (by simp [hno])]
      · rw [if_pos hr]

end Sys2Proof.Machine


/-! Network ports, the context window, and address answers (13 R469, R470, R472, R478, R480). -/

namespace Sys2Proof.Machine

/-! ### The network's tables under an access -/

@[simp] theorem State.raise_net (s : State) (p i : Nat) : (s.raise p i).net = s.net := by rw [raise_eq]; rfl

@[simp] theorem State.count_net (s : State) (p o i : Nat) : (s.count p o i).net = s.net := by rw [count_eq]

@[simp] theorem State.raise_page (s : State) (p i : Nat) : (s.raise p i).page = s.page := by rw [raise_eq]; rfl

theorem RasOnly.net {s t : State} (h : RasOnly s t) : t.net = s.net := by rw [h]

@[simp] theorem State.rasRecord_net (s : State) (page cause cls unit info : Nat) :
    (s.rasRecord page cause cls unit info).net = s.net := (rasOnly_rasRecord s page cause cls unit info).net

theorem netPort_of_net {s t : State} (h : t.net = s.net) (n : Nat) : t.netPort n = s.netPort n :=
  congrArg (fun x : Net => sget x.port NetPort.reset n) h

theorem gate_of_net {s t : State} (h : t.net = s.net) (n : Nat) : t.gate n = s.gate n :=
  congrArg (fun x : Net => sget x.gate Gate.reset n) h

theorem ctx_of_net {s t : State} (h : t.net = s.net) (q : Nat) : t.ctx q = s.ctx q :=
  congrArg (fun x : Net => sget x.ctx Ctx.none (q - 0x100000)) h

theorem conn_of_net {s t : State} (h : t.net = s.net) (q : Nat) : t.conn q = s.conn q :=
  congrArg (fun x : Net => sget x.conn Conn.none (q - 0x100000)) h

section
variable (s : State) {n m q r : Nat}

theorem netPort_setNetPort_new {v : NetPort} (hv : v ≠ NetPort.reset) : (s.setNetPort n v).netPort n = v := sget_sset_new n hv

theorem netPort_setNetPort_ne (v : NetPort) (h : m ≠ n) : (s.setNetPort n v).netPort m = s.netPort m := sget_sset_ne v h

theorem netPort_setNetPort_self (v : NetPort) (h : Sparse.rising s.net.port) : (s.setNetPort n v).netPort n = v :=
  sget_sset_self _ n v h

theorem gate_setGate_self (v : Gate) (h : Sparse.rising s.net.gate) : (s.setGate n v).gate n = v := sget_sset_self _ n v h

theorem ctx_setCtx_new {v : Ctx} (hv : v ≠ Ctx.none) : (s.setCtx q v).ctx q = v := sget_sset_new _ hv

theorem ctx_setCtx_ne (v : Ctx) (h : r - 0x100000 ≠ q - 0x100000) : (s.setCtx q v).ctx r = s.ctx r := sget_sset_ne v h

@[simp] theorem ctx_setConn (v : Conn) : (s.setConn q v).ctx r = s.ctx r := rfl

@[simp] theorem conn_setCtx (v : Ctx) : (s.setCtx q v).conn r = s.conn r := rfl

theorem rising_gate_settleCredit (h : Sparse.rising s.net.gate) : Sparse.rising (s.settleCredit n).net.gate :=
  rising_sset _ _ _ h

end

theorem NetPort.ne_reset_of_up {v : NetPort} (h : v.up = true) : v ≠ NetPort.reset := by rintro rfl; cases h

theorem NetPort.ne_reset_of_tested {v : NetPort} {t : Nat} (h : v.testAt = some t) : v ≠ NetPort.reset := by rintro rfl; cases h

theorem Ctx.ne_none_of_state {c : Ctx} (h : c.state ≠ .reset) : c ≠ Ctx.none := by rintro rfl; exact h rfl

/-! ### Ports (13 R469, R470) -/

section
variable {s : State} {n t : Nat}

/-- A port that may come up: it exists, is enabled, and has neither failed nor lost its die. -/
theorem netPortUp_comes (hup : (s.netPort n).up = false) (hf : (s.netPort n).failed = false) (hl : (s.netPort n).lost = false)
    (hn : n < 2 * s.fusedDies) (hr : s.reached .psa = true) (hen : bit (s.cfgReg (pg (0x60 + n) + 0x100)) 31 = true) :
    exec (.netPortUp n t) s = .next ((((s.at_ t).settleCredit n).setNetPort n { s.netPort n with up := true }).raise (netPage n) 1) := by
  refine congrArg Host.Outcome.next (if_neg ?_)
  show ¬ ((!decide (n < 2 * s.fusedDies)) = true ∨ (s.netPort n).up = true ∨ (s.netPort n).failed = true ∨ (s.netPort n).lost = true ∨
    (!s.reached .psa) = true ∨ (!bit (s.cfgReg (pg (0x60 + n) + 0x100)) 31) = true)
  simp [hup, hf, hl, hn, hr, hen]

theorem netPortUp_idle (h : 2 * s.fusedDies ≤ n ∨ (s.netPort n).failed = true ∨ s.reached .psa = false ∨
    bit (s.cfgReg (pg (0x60 + n) + 0x100)) 31 = false) : exec (.netPortUp n t) s = .next (s.at_ t) := by
  refine congrArg Host.Outcome.next (if_pos ?_)
  show (!decide (n < 2 * s.fusedDies)) = true ∨ (s.netPort n).up = true ∨ (s.netPort n).failed = true ∨ (s.netPort n).lost = true ∨
    (!s.reached .psa) = true ∨ (!bit (s.cfgReg (pg (0x60 + n) + 0x100)) 31) = true
  rcases h with h | h | h | h
  · simp [Nat.not_lt.2 h]
  · simp [h]
  · simp [h]
  · simp [h]

theorem loopbackTest_idle (ok : Bool) (h : 2 * s.fusedDies ≤ n ∨ s.reached .psa = false ∨ (s.at_ t).testDue n = false) :
    exec (.loopbackTest n t ok) s = .next (s.at_ t) := by
  refine congrArg Host.Outcome.next (if_pos ?_)
  show (!decide (n < 2 * s.fusedDies)) = true ∨ (s.netPort n).up = true ∨ (s.netPort n).failed = true ∨ (s.netPort n).lost = true ∨
    (!s.reached .psa) = true ∨ (!(s.at_ t).testDue n) = true
  rcases h with h | h | h
  · simp [Nat.not_lt.2 h]
  · simp [h]
  · simp [h]

/-- What a loopback test leaves of its port: the verdict, and when it was tested. -/
def State.tested (s : State) (n : Nat) (pass : Bool) : NetPort :=
  { s.netPort n with testAt := some s.clk, failed := !pass,
                     downAt := if (s.netPort n).testAt.isNone then s.clk else (s.netPort n).downAt }

theorem loopbackTest_runs (pass : Bool) (hup : (s.netPort n).up = false) (hf : (s.netPort n).failed = false)
    (hl : (s.netPort n).lost = false) (hn : n < 2 * s.fusedDies) (hr : s.reached .psa = true) (hd : (s.at_ t).testDue n = true) :
    exec (.loopbackTest n t pass) s = .next (
      let u := (s.at_ t).setNetPort n ((s.at_ t).tested n pass)
      if pass then u else (u.raise (netPage n) 3).rasRecord (netPage n) 0x0C 2 n 0) := by
  refine congrArg Host.Outcome.next (if_neg ?_)
  show ¬ ((!decide (n < 2 * s.fusedDies)) = true ∨ (s.netPort n).up = true ∨ (s.netPort n).failed = true ∨ (s.netPort n).lost = true ∨
    (!s.reached .psa) = true ∨ (!(s.at_ t).testDue n) = true)
  simp [hup, hf, hl, hn, hr, hd]

theorem netPort_tested (pass : Bool) : ((s.at_ t).setNetPort n ((s.at_ t).tested n pass)).netPort n = (s.at_ t).tested n pass :=
  netPort_setNetPort_new _ (NetPort.ne_reset_of_tested (t := (s.at_ t).clk) rfl)

theorem netDown_discards (hp : Sparse.rising s.net.port) (hg : Sparse.rising s.net.gate) :
    ((s.netDown n).netPort n).up = false ∧ ((s.netDown n).gate n).queue = [] := by
  have hnet : ∀ u : State, ((u.count (netPage n) 0x19C 0).rasRecord (netPage n) 0x0C 2 n 0).net = u.net := fun u => by simp
  constructor
  · rw [State.netDown, netPort_of_net (hnet _) n]
    exact congrArg NetPort.up (netPort_setNetPort_self (s.settleCredit n) _ hp)
  · rw [State.netDown, gate_of_net (hnet _) n]
    exact congrArg Gate.queue (gate_setGate_self ((s.settleCredit n).setNetPort n _) _ (rising_gate_settleCredit s hg))

end

/-! ### The context window (13 R480) -/

/-- What a command of the context window does with the context that it names. -/
def ctxOpOf : Instr → State → Nat → State
  | .ctxRead _ => State.ctxReadOp
  | .ctxWrite _ => State.ctxWriteOp
  | .ctxForceError _ => State.ctxErrorOp
  | _ => State.ctxResetOp

/-- The commands of the context window. -/
def IsCtxOp (src : Src) (c : Instr) : Prop :=
  c = .ctxRead src ∨ c = .ctxWrite src ∨ c = .ctxForceError src ∨ c = .ctxForceReset src

section
variable {s v : State} {src : Src} {c : Instr}

theorem exec_ctxOp (hc : IsCtxOp src c) : exec c s = .next (s.ctxOp src (ctxOpOf c)) := by
  rcases hc with rfl | rfl | rfl | rfl <;> rfl

theorem ctxOp_off (f : State → Nat → State) (h : s.pageOn src 0x64 = false) : s.ctxOp src f = s := if_pos (by simp [xptPage, h])

theorem ctxOp_refused (f : State → Nat → State) (hon : s.pageOn src 0x64 = true)
    (h : s.qpnOk s.ctxSel = false ∨ s.bringCtx s.ctxSel = none) : s.ctxOp src f = s.ctxDone 3 := by
  have hon' : ¬ (!s.pageOn src xptPage) = true := by simp [xptPage, hon]
  refine (if_neg hon').trans ?_
  by_cases hq : s.qpnOk s.ctxSel = true
  · have hnone : s.bringCtx s.ctxSel = none := h.resolve_left (by simp [hq])
    refine (if_neg (by simp [hq])).trans ?_
    rw [hnone]
  · exact if_pos (by simp [hq])

theorem ctxOp_runs (f : State → Nat → State) (hon : s.pageOn src 0x64 = true) (hq : s.qpnOk s.ctxSel = true)
    (hv : s.bringCtx s.ctxSel = some v) : s.ctxOp src f = f v s.ctxSel := by
  refine (if_neg (by simp [xptPage, hon])).trans ((if_neg (by simp [hq])).trans ?_)
  rw [hv]

theorem bringCtx_unspilled (q : Nat) (h : s.spillOn = false) : s.bringCtx q = some s := by
  have hhere : s.ctxHere q = true := by simp [State.ctxHere, h]
  have huse : s.useCtx q = s := if_neg (by simp [h])
  rw [State.bringCtx, if_pos hhere, huse]

/-- The fold that CTX_READ does: word `i` of the window takes word `i` of the context. -/
def State.putWindow (s : State) (ws : List Word) (l : List Nat) : State :=
  l.foldl (fun s i => s.setReg (pg xptPage + 0x400 + 4 * i) (ws.getD i 0)) s

theorem putWindow_frame (ws : List Word) : ∀ (l : List Nat) (s : State), s.putWindow ws l = { s with regs := (s.putWindow ws l).regs }
  | [], _ => rfl
  | i :: l, s => putWindow_frame ws l (s.setReg (pg xptPage + 0x400 + 4 * i) (ws.getD i 0))

theorem reg_putWindow_other (ws : List Word) {i : Nat} : ∀ (l : List Nat) (s : State), i ∉ l →
    (s.putWindow ws l).reg (pg xptPage + 0x400 + 4 * i) = s.reg (pg xptPage + 0x400 + 4 * i)
  | [], _, _ => rfl
  | j :: l, s, h => by
    obtain ⟨hj, hl⟩ : i ≠ j ∧ i ∉ l := by simpa using h
    exact (reg_putWindow_other ws l _ hl).trans (reg_setReg_ne _ _ (by omega))

theorem reg_putWindow (ws : List Word) {i : Nat} : ∀ (l : List Nat) (s : State), l.Nodup → s.regs.rising → i ∈ l →
    (s.putWindow ws l).reg (pg xptPage + 0x400 + 4 * i) = ws.getD i 0
  | [], _, _, _, h => absurd h (by simp)
  | j :: l, s, hnd, hs, h => by
    obtain ⟨hj, hnd⟩ := List.nodup_cons.1 hnd
    have hs' : (s.setReg (pg xptPage + 0x400 + 4 * j) (ws.getD j 0)).regs.rising := rising_sset _ _ _ hs
    rcases List.mem_cons.1 h with rfl | hl
    · exact (reg_putWindow_other ws l _ hj).trans (sget_sset_self _ _ _ hs)
    · exact reg_putWindow ws l _ hnd hs' hl

theorem putWindow_done (ws : List Word) (l : List Nat) (s : State) : (s.putWindow ws l).ctxDone 0 =
    { s with regs := ((s.putWindow ws l).ctxDone 0).regs, net := { s.net with ctxResult := 0 } } := by
  conv_lhs => rw [putWindow_frame]
  rfl

theorem reg_ctxDone (s : State) (r a : Nat) : (s.ctxDone r).reg a = s.reg a := rfl

theorem ctxReadOp_eq (q : Nat) : v.ctxReadOp q = (v.putWindow (ctxWords (v.ctx q) (v.conn q)) (List.range 64)).ctxDone 0 := rfl

theorem ctxReadOp_reads {q i : Nat} (hr : v.regs.rising) (hi : i < 64) :
    (v.ctxReadOp q).reg (pg 0x64 + 0x400 + 4 * i) = (ctxWords (v.ctx q) (v.conn q)).getD i 0 := by
  rw [ctxReadOp_eq, reg_ctxDone]
  exact reg_putWindow _ (List.range 64) v List.nodup_range hr (List.mem_range.2 hi)

theorem ctxWriteOp_refused {q : Nat} (h : (v.ctx q).state ≠ .reset ∨ ctxWindowBad v.ctxWindow = true ∨
    v.tenantOfPKey (fld (v.ctxWindow.getD 1 0) 16 16) = none) : v.ctxWriteOp q = v.ctxDone 3 := by
  unfold State.ctxWriteOp
  dsimp only
  cases ht : v.tenantOfPKey (fld (v.ctxWindow.getD 1 0) 16 16) with
  | none => rfl
  | some t =>
    refine if_pos ?_
    rcases h with h | h | h
    · exact .inl h
    · exact .inr h
    · rw [ht] at h; cases h

/-- The context that CTX_WRITE makes of the window: READY, at the PSNs that the window names, with W = INIT. -/
def State.windowCtx (s : State) (t : Nat) : Ctx :=
  { Ctx.none with ws := s.ctxWindow, state := .ready, tenant := t, sqPsn := fld (s.ctxWindow.getD 12 0) 0 24,
                  una := fld (s.ctxWindow.getD 12 0) 0 24, epsn := fld (s.ctxWindow.getD 20 0) 0 24,
                  window := 256 * fld (s.xptReg 0x108) 24 8 }

theorem ctxWriteOp_writes {q t : Nat} (hst : (v.ctx q).state = .reset) (hok : ctxWindowBad v.ctxWindow = false)
    (ht : v.tenantOfPKey (fld (v.ctxWindow.getD 1 0) 16 16) = some t) :
    v.ctxWriteOp q = ((v.setCtx q (v.windowCtx t)).setConn q
      { Conn.none with nxt := fld (v.ctxWindow.getD 12 0) 0 24, msgs := (v.conn q).msgs }).ctxDone 0 := by
  unfold State.ctxWriteOp
  dsimp only
  rw [ht]
  exact if_neg (by simp [hst, hok])

theorem useCtx_act (s : State) (q : Nat) : (s.useCtx q).act = s.act := by unfold State.useCtx; split <;> rfl

theorem hostPut_act (s : State) (p a : Nat) (bs : List Byte) : (s.hostPut p a bs).act = s.act := by
  unfold State.hostPut State.hostWrite
  by_cases h : s.portDown p = true
  · rw [if_pos h]
  · rw [if_neg h]; dsimp only; unfold State.setHost; split <;> rfl

theorem evictCtx_act (h : s.evictCtx = some v) : v.act = s.act := by
  unfold State.evictCtx at h
  split at h
  · injection h with h; rw [← h]
  · split at h
    · cases h
    · injection h with h
      rw [← h]
      exact hostPut_act s _ _ _

theorem bringCtx_act {q : Nat} (h : s.bringCtx q = some v) : v.act = s.act := by
  unfold State.bringCtx at h
  split at h
  · injection h with h; rw [← h]; exact useCtx_act s q
  · split at h
    · rename_i c w _ hw
      injection h with h
      have hev : s.evictCtx = some w := by
        by_cases hd : s.portDown s.spillPort = true
        · rw [if_pos hd] at hw; cases hw
        · rwa [if_neg hd] at hw
      rw [← h, useCtx_act]
      exact evictCtx_act (v := w) hev
    · cases h

end

/-! ### Address answers (13 R472) -/

section
variable {s : State} {n : Nat}

theorem arpRequest_answers {a b : Word} (hn : n < 2 * s.fusedDies) (hb : b ≠ 0)
    (hp : ∃ p, p < 2 * s.fusedDies ∧ s.reg (pg (0x60 + p) + 0x110) = b) :
    exec (.arpRequest n a b) s = .next (s.enqFrame n 7 (64 + s.vlanTag n) (.arp b)) := by
  refine congrArg Host.Outcome.next (if_pos ⟨decide_eq_true hn, hb, List.any_eq_true.2 ?_⟩)
  obtain ⟨p, hlt, hreg⟩ := hp
  exact ⟨p, List.mem_range.2 hlt, decide_eq_true hreg⟩

theorem arpRequest_idle {a b : Word} (h : 2 * s.fusedDies ≤ n ∨ b = 0 ∨
    (∀ p, p < 2 * s.fusedDies → s.reg (pg (0x60 + p) + 0x110) ≠ b)) : exec (.arpRequest n a b) s = .next s := by
  refine congrArg Host.Outcome.next (if_neg ?_)
  rintro ⟨hn, hb, hany⟩
  obtain ⟨p, hp, hreg⟩ := List.any_eq_true.1 hany
  rcases h with h | h | h
  · exact absurd (of_decide_eq_true hn) (by omega)
  · exact hb h
  · exact h p (List.mem_range.1 hp) (of_decide_eq_true hreg)

theorem solicitation_answers {v6 : List Word} (hn : n < 2 * s.fusedDies) (hv : ∃ w ∈ v6, w ≠ 0)
    (hp : ∃ p, p < 2 * s.fusedDies ∧ s.ipv6 p = v6) :
    exec (.neighbourSolicitation n v6) s = .next (s.enqFrame n 7 (90 + s.vlanTag n) (.advert v6)) := by
  obtain ⟨w, hw, hne⟩ := hv
  obtain ⟨p, hlt, hreg⟩ := hp
  exact congrArg Host.Outcome.next (if_pos ⟨decide_eq_true hn, List.any_eq_true.2 ⟨w, hw, decide_eq_true hne⟩,
    List.any_eq_true.2 ⟨p, List.mem_range.2 hlt, decide_eq_true hreg⟩⟩)

theorem solicitation_idle {v6 : List Word} (h : 2 * s.fusedDies ≤ n ∨ (∀ w ∈ v6, w = 0) ∨
    (∀ p, p < 2 * s.fusedDies → s.ipv6 p ≠ v6)) : exec (.neighbourSolicitation n v6) s = .next s := by
  refine congrArg Host.Outcome.next (if_neg ?_)
  rintro ⟨hn, hv, hany⟩
  obtain ⟨w, hw, hne⟩ := List.any_eq_true.1 hv
  obtain ⟨p, hp, hreg⟩ := List.any_eq_true.1 hany
  rcases h with h | h | h
  · exact absurd (of_decide_eq_true hn) (by omega)
  · exact of_decide_eq_true hne (h w hw)
  · exact h p (List.mem_range.1 hp) (of_decide_eq_true hreg)

end

/-- Settles O41. -/
theorem networkPortsAndContexts : Obligations.NetworkPortsAndContexts := by
  refine ⟨fun s n t hup hf hl => ⟨fun hn hr hen => ?_, fun h => netPortUp_idle (h.imp_right .inr), fun h ok => loopbackTest_idle ok h,
      fun hn hr hd => ⟨?_, ?_⟩⟩,
    fun s n => ⟨fun h => congrArg Host.Outcome.next (if_neg (by simp [h])), fun h =>
      ⟨congrArg Host.Outcome.next (if_pos h), netDown_discards⟩⟩,
    fun s src c hc => ⟨fun h => ?_, fun hon h => ?_, fun q _ h => bringCtx_unspilled q h, fun hon q v hq hok hv => ?_⟩,
    fun s n a b v6 => ⟨fun hn hb hp => ⟨_, arpRequest_answers hn hb hp⟩, arpRequest_idle,
      fun hn hv hp => ⟨_, solicitation_answers hn hv hp⟩, solicitation_idle⟩⟩
  · refine ⟨_, netPortUp_comes hup hf hl hn hr hen, ?_, fun m hm => ?_, by rw [State.raise_page]; rfl, by rw [State.raise_net]; rfl,
      by rw [State.raise_net]; rfl⟩
    · rw [netPort_of_net (State.raise_net _ _ _) n, netPort_setNetPort_new _ (NetPort.ne_reset_of_up (by rfl))]
    · rw [netPort_of_net (State.raise_net _ _ _) m]
      exact netPort_setNetPort_ne _ _ hm
  · have hfailed : (((((s.at_ t).setNetPort n ((s.at_ t).tested n false)).raise (netPage n) 3).rasRecord (netPage n) 0x0C 2 n 0).netPort
        n).failed = true := by
      rw [netPort_of_net ((State.rasRecord_net _ _ _ _ _ _).trans (State.raise_net _ _ _)) n, netPort_tested]; rfl
    exact ⟨_, loopbackTest_runs false hup hf hl hn hr hd, hfailed, fun k => netPortUp_idle (.inr (.inl hfailed))⟩
  · refine ⟨_, loopbackTest_runs true hup hf hl hn hr hd, ?_⟩
    dsimp only
    rw [if_pos rfl, netPort_tested]
    exact ⟨rfl, hup, rfl⟩
  · rw [exec_ctxOp hc, ctxOp_off _ h]
  · rw [exec_ctxOp hc, ctxOp_refused _ hon h]
  · subst hq
    rw [exec_ctxOp hc, ctxOp_runs _ hon hok hv]
    refine ⟨?_, ?_, ?_, ?_, ?_⟩
    · rintro rfl
      exact ⟨v.ctxReadOp s.ctxSel, rfl, putWindow_done _ _ v, fun hr i hi => ctxReadOp_reads hr hi⟩
    · rintro rfl h
      exact congrArg _ (ctxWriteOp_refused h)
    · rintro rfl hst hwok t ht
      have hctx : (v.setCtx s.ctxSel (v.windowCtx t)).ctx s.ctxSel = v.windowCtx t :=
        ctx_setCtx_new v (Ctx.ne_none_of_state (fun h => by cases h))
      have hx : s.xptReg 0x108 = v.xptReg 0x108 := by rw [State.xptReg, State.xptReg, State.cfgReg, State.cfgReg, bringCtx_act hv]
      refine ⟨_, congrArg _ (ctxWriteOp_writes hst hwok ht), ?_⟩
      show ((v.setCtx s.ctxSel (v.windowCtx t)).ctx s.ctxSel).state = _ ∧ ((v.setCtx s.ctxSel (v.windowCtx t)).ctx s.ctxSel).tenant = t ∧
        ((v.setCtx s.ctxSel (v.windowCtx t)).ctx s.ctxSel).ws = _ ∧ ((v.setCtx s.ctxSel (v.windowCtx t)).ctx s.ctxSel).una =
          ((v.setCtx s.ctxSel (v.windowCtx t)).ctx s.ctxSel).sqPsn ∧ ((v.setCtx s.ctxSel (v.windowCtx t)).ctx s.ctxSel).sqPsn = _ ∧
        ((v.setCtx s.ctxSel (v.windowCtx t)).ctx s.ctxSel).window = _ ∧ 0 = 0 ∧
        (∀ r, r - 0x100000 ≠ s.ctxSel - 0x100000 → (v.setCtx s.ctxSel (v.windowCtx t)).ctx r = v.ctx r)
      rw [hctx, hx]
      exact ⟨rfl, rfl, rfl, rfl, rfl, rfl, rfl, fun r hr => ctx_setCtx_ne v _ hr⟩
    · rintro rfl; rfl
    · rintro rfl; rfl

end Sys2Proof.Machine


/-! Reception of packets (13 R471, R474, R477, R482, R483, R487). -/

namespace Sys2Proof.Machine

/-! ### What an acknowledgement changes (13 R487, R488) -/

/-- `t` is `s` but for registers, gates, contexts and connections: what sending a packet may change. -/
def SendOnly (s t : State) : Prop :=
  t = { s with regs := t.regs, net := { s.net with gate := t.net.gate, ctx := t.net.ctx, conn := t.net.conn } }

namespace SendOnly

variable {s t u : State}

theorem refl (s : State) : SendOnly s s := rfl

theorem trans (h : SendOnly s t) (h' : SendOnly t u) : SendOnly s u := by
  unfold SendOnly at *
  rw [h', h]

theorem page (h : SendOnly s t) : t.page = s.page := by rw [h]
theorem rbuf (h : SendOnly s t) : t.net.rbuf = s.net.rbuf := by rw [h]
theorem tags (h : SendOnly s t) : t.net.tags = s.net.tags := by rw [h]

end SendOnly

theorem sendOnly_setCtx (s : State) (q : Nat) (v : Ctx) : SendOnly s (s.setCtx q v) := rfl
theorem sendOnly_setConn (s : State) (q : Nat) (v : Conn) : SendOnly s (s.setConn q v) := rfl
theorem sendOnly_setGate (s : State) (n : Nat) (v : Gate) : SendOnly s (s.setGate n v) := rfl
theorem sendOnly_bump (s : State) (a n : Nat) : SendOnly s (s.bump a n) := rfl
theorem sendOnly_bump64 (s : State) (a n : Nat) : SendOnly s (s.bump64 a n) := rfl

theorem sendOnly_enqFrame (s : State) (n cls len : Nat) (w : Wire) : SendOnly s (s.enqFrame n cls len w) := by
  unfold State.enqFrame
  split
  · exact sendOnly_setGate _ _ _
  · exact .refl s

theorem sendOnly_emit (s : State) (q cls : Nat) (f : Frame) : SendOnly s (s.emit q cls f).1 := by
  unfold State.emit
  dsimp only
  split
  · exact .refl s
  · split
    · exact .refl s
    · exact (((sendOnly_setConn s q _).trans (sendOnly_setCtx _ q _)).trans (sendOnly_bump64 _ _ _)).trans
        (sendOnly_enqFrame _ _ _ _ _)

theorem sendOnly_sendAeth (s : State) (q psn nak us : Nat) (becn : Bool) : SendOnly s (s.sendAeth q psn nak us becn).1 :=
  sendOnly_emit s q _ _

theorem sendOnly_sendAck (s : State) (q : Nat) : SendOnly s (s.sendAck q) := by
  have h := sendOnly_sendAeth s q (psnSub (s.ctx q).epsn 1) 0 0
    ((s.conn q).ces.any (fun p => decide (psnSub (s.ctx q).epsn p ≠ 0 ∧ psnSub (s.ctx q).epsn p < 2 ^ 23)))
  unfold State.sendAck
  dsimp only
  split
  · next heq => rw [heq] at h; exact h.trans (sendOnly_setConn _ _ _)
  · next heq => rw [heq] at h; exact h

theorem sendOnly_inDup (s : State) (q : Nat) : SendOnly s (s.inDup q) :=
  ((sendOnly_setCtx s q _).trans (sendOnly_bump _ _ _)).trans (sendOnly_sendAck _ q)

/-! ### A request packet by its PSN (13 R487) -/

section
variable {s : State} {q : Nat} {f : Frame}

theorem inPacket_duplicate (h : 2 ^ 23 ≤ psnSub f.psn (s.ctx q).epsn) : s.inPacket q f = s.inDup q := if_pos h

theorem inPacket_beyond (hs : (s.ctx q).spray = true) (h : 256 ≤ psnSub f.psn (s.ctx q).epsn)
    (h' : psnSub f.psn (s.ctx q).epsn < 2 ^ 23) : s.inPacket q f = s.bump (pg 0x64 + 0x1BC) :=
  (if_neg (by omega)).trans ((if_neg (by omega)).trans ((if_pos hs).trans (if_pos h)))

/-- A packet ahead on an unsprayed connection is answered with a NAK, once. -/
theorem inPacket_ahead (hs : (s.ctx q).spray = false) (h : 1 ≤ psnSub f.psn (s.ctx q).epsn)
    (h' : psnSub f.psn (s.ctx q).epsn < 2 ^ 23) : s.inPacket q f = if (s.conn q).naked then s else
      let r := s.sendAeth q (s.ctx q).epsn 1 0 false
      if r.2 then r.1.setConn q { r.1.conn q with naked := true } else r.1 :=
  (if_neg (by omega)).trans ((if_neg (by omega)).trans (if_neg (by simp [hs])))

theorem sendOnly_ahead (hs : (s.ctx q).spray = false) (h : 1 ≤ psnSub f.psn (s.ctx q).epsn)
    (h' : psnSub f.psn (s.ctx q).epsn < 2 ^ 23) : SendOnly s (s.inPacket q f) := by
  rw [inPacket_ahead hs h h']
  have haeth := sendOnly_sendAeth s q (s.ctx q).epsn 1 0 false
  dsimp only
  split
  · exact .refl s
  · split
    · exact haeth.trans (sendOnly_setConn _ _ _)
    · exact haeth

/-! ### A packet at its context (13 R477) -/

theorem inCtx_reset (h : (s.ctx q).state = .reset) : s.inCtx q f = s.bump (pg 0x64 + 0x1B8) := if_pos h

theorem inCtx_error (h : (s.ctx q).state = .error) : s.inCtx q f = s :=
  (if_neg (by simp [h])).trans (if_pos (by simp [Ctx.live, h]))

theorem inCtx_otherKey (hl : (s.ctx q).live = true)
    (hk : f.pkey % 2 ^ 15 ≠ (s.ctx q).fld 1 16 15 ∨ f.pkey / 2 ^ 15 % 2 = 0) : s.inCtx q f = s.bump (pg 0x64 + 0x1B8) := by
  have hst : (s.ctx q).state ≠ .reset := fun h => by simp [Ctx.live, h] at hl
  exact (if_neg hst).trans ((if_neg (by simp [hl])).trans (if_pos hk))

end

/-! ### A frame at its port (13 R471, R477, R482) -/

section
variable {s v : State} {n : Nat} {f : Frame}

theorem rxFrame_down (h : (s.netPort n).up = false) : s.rxFrame n f = s := if_pos (by simp [h])

theorem rxFrame_bad (hup : (s.netPort n).up = true) (hv : v = s.bump64 (pg (0x60 + n) + 0x180) 1)
    (h : f.fcsOk = false ∨ 9216 < f.len ∨ f.addrOk = false) : s.rxFrame n f = v.bump (pg (0x60 + n) + 0x198) := by
  subst hv
  exact (if_neg (by simp [hup])).trans (if_pos (h.imp (fun h => by simp [h]) (.imp_right (fun h => by simp [h]))))

/-- Where a sound frame that is not policed goes. -/
theorem rxFrame_sound (hup : (s.netPort n).up = true) (hv : v = s.bump64 (pg (0x60 + n) + 0x180) 1) (hf : f.fcsOk = true)
    (hlen : f.len ≤ 9216) (ha : f.addrOk = true) (hp : bit (v.gateReg n 0x100) 2 = false) : s.rxFrame n f =
      if !f.roce ∨ !f.icrcOk ∨ !v.xptOn then v
      else if !v.qpnOk f.qpn then v.bump (pg xptPage + 0x1B8)
      else if v.ctxHere f.qpn then v.inCtx f.qpn f
      else if v.portDown v.spillPort then v.raise xptPage 2
      else if 512 ≤ v.net.miss.length then v.count xptPage 0x1CC 4
      else { v with net := { v.net with miss := v.net.miss ++ [(f.qpn, n, f)] } } := by
  have hpol : (s.bump64 (pg (netPage n) + 0x180) 1).police n f = (v, true) := by
    rw [hv] at hp ⊢
    exact if_pos (by simp [hp, netPage])
  have hgood : ¬ (f.fcsOk = false ∨ 9216 < f.len ∨ f.addrOk = false) := by simp [hf, ha]; omega
  simp only [State.rxFrame, hup, Bool.not_true, Bool.false_eq_true, if_false, Bool.not_eq_true', hgood, hpol]

end

/-! ### The window and EPSN (13 R483, R486) -/

theorem windowUp_bounds {ai w : Nat} (hw : w ≤ 65536) : w ≤ windowUp ai w ∧ windowUp ai w ≤ 65536 := by
  unfold windowUp
  generalize ai * 65536 / w = x
  omega

theorem windowUps_bounds (ai : Nat) : ∀ n w : Nat, 0 < w → w ≤ 65536 → w ≤ windowUps ai n w ∧ windowUps ai n w ≤ 65536
  | 0, _, _, hw => ⟨Nat.le_refl _, hw⟩
  | n + 1, w, h0, hw => by
    obtain ⟨hlo, hhi⟩ := windowUp_bounds (ai := ai) hw
    obtain ⟨hlo', hhi'⟩ := windowUps_bounds ai n (windowUp ai w) (by omega) hhi
    exact ⟨hlo.trans hlo', hhi'⟩

theorem psnAdd_zero {e : Nat} (h : e < 2 ^ 24) : psnAdd e 0 = e := Nat.mod_eq_of_lt h

theorem psnAdd_one_add (e k : Nat) : psnAdd (psnAdd e 1) k = psnAdd e (k + 1) := by
  unfold psnAdd
  omega

/-- EPSN advances over exactly the run of landed packets at the low end of the bitmap. -/
theorem slideEpsn_run : ∀ n e b k : Nat, k ≤ n → e < 2 ^ 24 → (∀ i, i < k → b.testBit i = true) → b.testBit k = false →
    slideEpsn n e b = (psnAdd e k, b / 2 ^ k)
  | 0, e, b, k, hk, he, _, _ => by
    obtain rfl : k = 0 := by omega
    rw [psnAdd_zero he, pow_zero, Nat.div_one]; rfl
  | n + 1, e, b, 0, _, he, _, h0 => by
    have hbit : ¬ b % 2 = 1 := by simpa [Nat.testBit_zero] using h0
    rw [psnAdd_zero he, pow_zero, Nat.div_one]
    exact if_neg hbit
  | n + 1, e, b, k + 1, hk, _, hall, hend => by
    have hbit : b % 2 = 1 := by simpa [Nat.testBit_zero] using hall 0 (by omega)
    refine (if_pos hbit).trans ?_
    rw [slideEpsn_run n (psnAdd e 1) (b / 2) k (by omega) (Nat.mod_lt _ (by decide))
      (fun i hi => by rw [← Nat.testBit_succ]; exact hall (i + 1) (by omega)) (by rwa [← Nat.testBit_succ]),
      psnAdd_one_add, Nat.div_div_eq_div_mul, ← Nat.pow_succ']

/-! ### The fetch of a context (13 R481, R482) -/

section
variable {s u : State} {q : Nat}

theorem contextFetch_here (h : s.ctxHere q = true) : exec (.contextFetch q) s = .next s := congrArg Host.Outcome.next (if_pos (.inl h))

theorem contextFetch_brings (hh : s.ctxHere q = false) (hq : s.qpnOk q = true) (hm : (s.conn q).msgs ≠ [])
    (hu : s.bringCtx q = some u) : exec (.contextFetch q) s =
      .next ((s.net.miss.filter (fun x => decide (x.1 = q))).foldl (fun s x => s.inCtx q x.2.2)
        { u with net := { u.net with miss := u.net.miss.filter (fun x => decide (x.1 ≠ q)) } }) := by
  refine congrArg Host.Outcome.next ((if_neg (by simp [hh, hq, hm])).trans ?_)
  rw [hu]

end

/-- Settles O42. -/
theorem packetsAreReceivedInOrder : Obligations.PacketsAreReceivedInOrder := by
  refine ⟨fun s n f h => congrArg Host.Outcome.next (rxFrame_down h), fun s n f hup v hv =>
      ⟨fun h => congrArg Host.Outcome.next (rxFrame_bad hup hv h), fun hf hlen ha hp => ?_⟩,
    fun s n f => ⟨fun h1 h2 h3 => congrArg Host.Outcome.next (if_pos ⟨h1, h2, h3⟩), fun h1 h2 => congrArg Host.Outcome.next (if_pos ⟨h1, h2⟩),
      fun h1 h2 h3 => congrArg Host.Outcome.next (if_pos ⟨h1, h2, h3⟩),
      fun h => ⟨congrArg Host.Outcome.next (if_neg (fun hc => h hc.2.1)), congrArg Host.Outcome.next (if_neg (fun hc => h hc.2.1))⟩,
      fun h => congrArg Host.Outcome.next (if_neg (fun hc => h hc.2))⟩,
    fun s q f => ⟨inCtx_reset, inCtx_error, inCtx_otherKey, fun d hd => ?_⟩,
    slideEpsn_run, windowUps_bounds, fun s q => ⟨contextFetch_here, fun u => contextFetch_brings⟩⟩
  · have hrx : exec (.packetReceive n f) s = .next (s.rxFrame n f) := rfl
    rw [hrx, rxFrame_sound hup hv hf hlen ha hp]
    refine ⟨fun h => ?_, fun hr hi hx => ⟨fun hq => ?_, fun hq hh => ?_, fun hq hh hd hm => ?_⟩⟩
    · rw [if_pos (by simpa [Bool.not_eq_true'] using h)]
    · rw [if_neg (by simp [hr, hi, hx]), if_pos (by simp [hq])]; rfl
    · rw [if_neg (by simp [hr, hi, hx]), if_neg (by simp [hq]), if_pos hh]
    · rw [if_neg (by simp [hr, hi, hx]), if_neg (by simp [hq]), if_neg (by simp [hh]), if_neg (by simp [hd]), if_neg (by omega)]
  · subst hd
    refine ⟨fun h => ?_, inPacket_beyond, fun hs h h' => ?_⟩
    · rw [inPacket_duplicate h]
      have hdup := sendOnly_inDup s q
      exact ⟨hdup.page, hdup.rbuf, hdup.tags⟩
    · have hnak := sendOnly_ahead hs h h'
      exact ⟨hnak.page, hnak.rbuf, fun hn => by rw [inPacket_ahead hs h h', if_pos hn]⟩

end Sys2Proof.Machine


/-! Packets sent, timers and delayed acknowledgements (13 R483, R488, R502, R503). -/

namespace Sys2Proof.Machine

/-! ### PACKET_SEND (13 R483) -/

section
variable {s : State} {q : Nat} {m : Msg}

/-- What PACKET_SEND asks of a connection before it looks at its messages. -/
def State.maySend (s : State) (q : Nat) : Prop :=
  s.qpnOk q = true ∧ s.ctxHere q = true ∧ (s.ctx q).live = true ∧ (s.conn q).rnrUntil = none ∧
    psnSub (s.conn q).nxt (s.ctx q).una < min 256 ((s.ctx q).window / 256)

theorem packetSend_shut (h : min 256 ((s.ctx q).window / 256) ≤ psnSub (s.conn q).nxt (s.ctx q).una ∨ (s.ctx q).live = false ∨
    (s.conn q).rnrUntil.isSome = true ∨ s.qpnOk q = false) : exec (.packetSend q) s = .next s := by
  refine congrArg Host.Outcome.next ?_
  by_cases hcan : (!s.qpnOk q) = true ∨ (!s.ctxHere q) = true ∨ (!(s.ctx q).live) = true ∨ (s.conn q).rnrUntil.isSome = true
  · exact if_pos hcan
  · refine (if_neg hcan).trans (if_pos ?_)
    rcases h with h | h | h | h
    · exact h
    · exact absurd (.inr (.inr (.inl (by simp [h])))) hcan
    · exact absurd (.inr (.inr (.inr h))) hcan
    · exact absurd (.inl (by simp [h])) hcan

/-- PACKET_SEND past its first tests. -/
theorem packetSend_may (h : s.maySend q) : exec (.packetSend q) s = .next (
    if (s.conn q).nxt ≠ (s.ctx q).sqPsn then (s.useCtx q).resend q
    else match (s.conn q).msgAt (s.ctx q) (s.ctx q).sqPsn with
      | some (m, f, i) => if m.staged (s.ctx q) i then (s.useCtx q).sendNew q m f i else s.useCtx q
      | none =>
        match (s.conn q).msgs.find? (fun m => m.first.isNone) with
        | none => s.useCtx q
        | some m =>
          if 4 ≤ ((s.conn q).msgs.filter (fun m => m.first.isSome)).length ∨ !(s.useCtx q).mayPin q ∨ !m.staged (s.ctx q) 0 ∨
              (s.useCtx q).msgShut m then s.useCtx q
          else (s.useCtx q).sendNew q m (s.ctx q).sqPsn 0) := by
  obtain ⟨hq, hh, hl, hr, hw⟩ := h
  have hcan : ¬ ((!s.qpnOk q) = true ∨ (!s.ctxHere q) = true ∨ (!(s.ctx q).live) = true ∨ (s.conn q).rnrUntil.isSome = true) := by
    simp [hq, hh, hl, hr]
  exact congrArg Host.Outcome.next ((if_neg hcan).trans (if_neg (by omega)))

theorem packetSend_again (h : s.maySend q) (hn : (s.conn q).nxt ≠ (s.ctx q).sqPsn) :
    exec (.packetSend q) s = .next ((s.useCtx q).resend q) := by rw [packetSend_may h, if_pos hn]

theorem packetSend_open {f i : Nat} (h : s.maySend q) (hn : (s.conn q).nxt = (s.ctx q).sqPsn)
    (hm : (s.conn q).msgAt (s.ctx q) (s.ctx q).sqPsn = some (m, f, i)) :
    exec (.packetSend q) s = .next (if m.staged (s.ctx q) i then (s.useCtx q).sendNew q m f i else s.useCtx q) := by
  rw [packetSend_may h, if_neg (by simp [hn]), hm]

theorem packetSend_none (h : s.maySend q) (hn : (s.conn q).nxt = (s.ctx q).sqPsn)
    (hm : (s.conn q).msgAt (s.ctx q) (s.ctx q).sqPsn = none) (hall : ∀ m ∈ (s.conn q).msgs, m.first.isSome = true) :
    exec (.packetSend q) s = .next (s.useCtx q) := by
  have hfind : (s.conn q).msgs.find? (fun m => m.first.isNone) = none :=
    List.find?_eq_none.2 (fun m hmem => by have := hall m hmem; cases hf : m.first <;> simp [hf] at this ⊢)
  rw [packetSend_may h, if_neg (by simp [hn]), hm, hfind]

theorem msgShut_useCtx : (s.useCtx q).msgShut m = s.msgShut m := by
  unfold State.useCtx
  split <;> rfl

/-- The first message that has not begun is begun, when four are not open yet, it may be pinned, is staged and is not shut. -/
theorem packetSend_begin {pre post : List Msg} (h : s.maySend q) (hn : (s.conn q).nxt = (s.ctx q).sqPsn)
    (hm : (s.conn q).msgAt (s.ctx q) (s.ctx q).sqPsn = none) (hsplit : (s.conn q).msgs = pre ++ m :: post)
    (hpre : ∀ x ∈ pre, x.first.isSome = true) (hfirst : m.first = none) : exec (.packetSend q) s = .next (
      if 4 ≤ ((s.conn q).msgs.filter (fun m => m.first.isSome)).length ∨ (s.useCtx q).mayPin q = false ∨ m.staged (s.ctx q) 0 = false ∨
          s.msgShut m = true then s.useCtx q
      else (s.useCtx q).sendNew q m (s.ctx q).sqPsn 0) := by
  have hfind : (s.conn q).msgs.find? (fun m => m.first.isNone) = some m := by
    have hno : pre.find? (fun m => m.first.isNone) = none :=
      List.find?_eq_none.2 (fun x hx => by have := hpre x hx; cases hf : x.first <;> simp [hf] at this ⊢)
    rw [hsplit, List.find?_append, hno]
    simp [hfirst]
  rw [packetSend_may h, if_neg (by simp [hn]), hm, hfind]
  simp only [Bool.not_eq_true', msgShut_useCtx]

end

/-! ### The packets of a message (13 R474 to R476) -/

/-- Pieces of `p` elements, one after the other, are the front of the list. -/
theorem flatMap_pieces {α : Type} (l : List α) (p : Nat) :
    ∀ n : Nat, (List.range n).flatMap (fun k => (l.drop (k * p)).take p) = l.take (n * p)
  | 0 => by simp
  | n + 1 => by
    rw [List.range_succ, List.flatMap_append, flatMap_pieces l p n, List.flatMap_singleton, Nat.add_mul, Nat.one_mul, List.take_add]

theorem Ctx.pmtu_pos (c : Ctx) : 0 < c.pmtu := Nat.mul_pos (by decide) (Nat.two_pow_pos _)

theorem Msg.total_le_packets (m : Msg) {p : Nat} (hp : 0 < p) : m.total ≤ m.packets p * p := by
  have h : ceilDiv' m.total p ≤ m.packets p := Nat.le_max_right _ _
  rw [Nat.mul_comm]
  exact (ceilDiv'_le_iff hp).1 h

/-- The packets of a staged message carry its bytes. -/
theorem payloads_msgFrame (c : Ctx) (m : Msg) (f : Nat) (h : m.data.length = m.total) :
    (List.range (m.packets c.pmtu)).flatMap (fun k => (msgFrame c m f k).payload) = m.data := by
  have hpiece : ∀ k, (msgFrame c m f k).payload = (m.data.drop (k * c.pmtu)).take c.pmtu := fun k => by
    show (m.data.drop (k * c.pmtu)).take (min c.pmtu (m.total - k * c.pmtu)) = _
    rw [← List.take_take, List.take_of_length_le (l := m.data.drop (k * c.pmtu)) (by simp [h])]
  simp only [hpiece]
  rw [flatMap_pieces]
  exact List.take_of_length_le (by rw [h]; exact m.total_le_packets c.pmtu_pos)

theorem opOf_last {write imm : Bool} {k n : Nat} (hk : k < n) : opLast (opOf write imm k n) = true ↔ k + 1 = n := by
  by_cases h1 : n = 1
  · have hk0 : k + 1 = n := by omega
    cases write <;> cases imm <;> simp [opLast, opOf, h1, show k = 0 by omega]
  · by_cases h0 : k = 0
    · cases write <;> simp [opLast, opOf, h1, h0, Ne.symm h1]
    · by_cases hl : k + 1 = n <;> cases write <;> cases imm <;> simp [opLast, opOf, h1, h0, hl]

theorem opOf_first {write imm : Bool} {k n : Nat} (hk : k < n) : opFirst (opOf write imm k n) = true ↔ k = 0 := by
  by_cases h1 : n = 1
  · cases write <;> cases imm <;> simp [opFirst, opOf, h1, show k = 0 by omega]
  · by_cases h0 : k = 0
    · cases write <;> simp [opFirst, opOf, h1, h0]
    · by_cases hl : k + 1 = n <;> cases write <;> cases imm <;> simp [opFirst, opOf, h1, h0, hl]

theorem msgFrame_place (c : Ctx) (m : Msg) (f : Nat) {k : Nat} (hk : k < m.packets c.pmtu) :
    (msgFrame c m f k).psn = psnAdd f k ∧ ((msgFrame c m f k).ackReq = true ↔ k + 1 = m.packets c.pmtu) ∧
      (opLast (msgFrame c m f k).op = true ↔ k + 1 = m.packets c.pmtu) ∧ (opFirst (msgFrame c m f k).op = true ↔ k = 0) ∧
      (k + 1 ≠ m.packets c.pmtu → (msgFrame c m f k).imm = none) :=
  ⟨rfl, decide_eq_true_iff, opOf_last hk, opOf_first hk, fun h => if_neg (by simp [h])⟩

/-! ### Timers (13 R488, R502, R503) -/

section
variable {s : State} {q t : Nat}

/-- The context after a timeout that leaves retries: RETRY, one more retry used, W = INIT. -/
def State.retried (s : State) (q : Nat) : Ctx :=
  { s.ctx q with state := .retry, retries := (s.ctx q).retries + 1, window := 256 * fld (s.xptReg 0x108) 24 8 }

/-- The connection after a timeout that leaves retries: it resends from UNA_PSN. -/
def State.resent (s : State) (q : Nat) : Conn :=
  { s.conn q with nxt := (s.ctx q).una, rnrUntil := none,
                  retryTo := if (s.ctx q).state = .retry then (s.conn q).retryTo else (s.ctx q).sqPsn }

theorem ctx_at : (s.at_ t).ctx q = s.ctx q := rfl

theorem conn_at : (s.at_ t).conn q = s.conn q := rfl

theorem retryTimer_early {e : Nat} (he : (s.ctx q).timer = some e) (h : max s.clk t < e) :
    exec (.retryTimer q t) s = .next (s.at_ t) := by
  show execRetryTimer q t s = _
  simp only [execRetryTimer, ctx_at, he]
  exact congrArg _ (if_pos (.inl h))

theorem retryTimer_idle (h : (s.ctx q).timer = none ∨ (s.ctx q).live = false) : exec (.retryTimer q t) s = .next (s.at_ t) := by
  show execRetryTimer q t s = _
  cases he : (s.ctx q).timer with
  | none => simp only [execRetryTimer, ctx_at, he]
  | some e =>
    have hl : (s.ctx q).live = false := h.resolve_left (by simp [he])
    simp only [execRetryTimer, ctx_at, he]
    exact congrArg _ (if_pos (.inr (by simp [hl])))

theorem retryTimer_expires {e : Nat} (he : (s.ctx q).timer = some e) (hl : (s.ctx q).live = true) (h : e ≤ max s.clk t) :
    exec (.retryTimer q t) s = .next (
      let u := (s.at_ t).bump (pg 0x64 + 0x1AC)
      if (s.ctx q).fld 0 9 3 ≤ (s.ctx q).retries then (u.count 0x64 0x1B0 1).connError q .timeout
      else (u.setCtx q { u.retried q with timer := u.timerFrom (u.retried q) }).setConn q (u.resent q)) := by
  have hno : ¬ ((s.at_ t).clk < e ∨ (!(s.ctx q).live) = true) := by simp [hl, State.at_]; omega
  show execRetryTimer q t s = _
  simp only [execRetryTimer, ctx_at, he]
  exact congrArg _ (if_neg hno)

theorem Conn.ne_none_of_msgs {k : Conn} (h : k.msgs ≠ []) : k ≠ Conn.none := by rintro rfl; exact h rfl

theorem conn_setConn_new (s : State) {q : Nat} {k : Conn} (h : k ≠ Conn.none) : (s.setConn q k).conn q = k := sget_sset_new _ h

theorem rnrRetry_none (h : (s.conn q).rnrUntil = none) : exec (.rnrRetry q t) s = .next (s.at_ t) := by
  show execRnrRetry q t s = _
  simp only [execRnrRetry, conn_at, h]

theorem rnrRetry_waits {a : Nat} (h : (s.conn q).rnrUntil = some a) : exec (.rnrRetry q t) s =
    .next (if a ≤ max s.clk t then (s.at_ t).setConn q { s.conn q with rnrUntil := none } else s.at_ t) := by
  show execRnrRetry q t s = _
  simp only [execRnrRetry, conn_at, h]
  rfl

theorem ackDelay_none (h : (s.conn q).uncovAt = none) : exec (.ackDelay q t) s = .next (s.at_ t) := by
  show execAckDelay q t s = _
  simp only [execAckDelay, conn_at, h]

theorem ackDelay_waits {a : Nat} (h : (s.conn q).uncovAt = some a) : exec (.ackDelay q t) s =
    .next (if a + fld (s.xptReg 0x10C) 8 8 * 1000 ≤ max s.clk t ∧ (s.ctx q).live = true then (s.at_ t).sendAck q else s.at_ t) := by
  show execAckDelay q t s = _
  simp only [execAckDelay, conn_at, h]
  rfl

end

/-- Settles O43. -/
theorem sendingHoldsWindowAndTimers : Obligations.SendingHoldsWindowAndTimers := by
  refine ⟨fun s q => packetSend_shut, fun s q hq hh hl hr hw => ?_, fun c m f h => ⟨payloads_msgFrame c m f h, fun k => msgFrame_place c m f⟩,
    fun s q t e he hl => ⟨retryTimer_early he, fun hx hleft => ?_, fun hx hused => ?_⟩,
    fun s q t => ⟨retryTimer_idle, rnrRetry_none, fun h => ?_⟩, fun s q t a ha hm => ⟨fun hx => ?_, fun hx => ?_⟩,
    fun s q t a ha => ⟨fun hx hl => ?_, fun hx => ?_⟩⟩
  · have hmay : s.maySend q := ⟨hq, hh, hl, hr, hw⟩
    refine ⟨packetSend_again hmay, fun hn => ⟨fun m f i => packetSend_open hmay hn, fun hno =>
      ⟨packetSend_none hmay hn hno, fun m pre post hsplit hpre hfirst => ?_⟩⟩⟩
    rw [packetSend_begin hmay hn hno hsplit hpre hfirst]
    refine ⟨fun h => by rw [if_pos h], fun h4 hpin hst hshut => by rw [if_neg (by simp [hpin, hst, hshut]; omega)]⟩
  · refine ⟨_, retryTimer_expires he hl hx, ?_⟩
    dsimp only
    rw [if_neg (by omega)]
    have hctx := ctx_setCtx_new ((s.at_ t).bump (pg 0x64 + 0x1AC)) (q := q)
      (v := { ((s.at_ t).bump (pg 0x64 + 0x1AC)).retried q with
        timer := ((s.at_ t).bump (pg 0x64 + 0x1AC)).timerFrom (((s.at_ t).bump (pg 0x64 + 0x1AC)).retried q) })
      (Ctx.ne_none_of_state (fun h => by cases h))
    rw [ctx_setConn, hctx]
    refine ⟨rfl, rfl, rfl, rfl, rfl, fun hm => ?_⟩
    rw [conn_setConn_new (k := ((s.at_ t).bump (pg 0x64 + 0x1AC)).resent q) _ (Conn.ne_none_of_msgs hm)]
    exact ⟨rfl, rfl⟩
  · rw [retryTimer_expires he hl hx]
    exact congrArg _ (if_pos hused)
  · cases hu : (s.conn q).uncovAt with
    | none => exact ackDelay_none hu
    | some a =>
      have hl : (s.ctx q).live = false := h.resolve_left (by simp [hu])
      rw [ackDelay_waits hu, if_neg (by simp [hl])]
  · rw [rnrRetry_waits ha, if_pos hx]
    exact ⟨_, rfl, conn_setConn_new _ (Conn.ne_none_of_msgs hm), rfl⟩
  · rw [rnrRetry_waits ha, if_neg (by omega)]
  · rw [ackDelay_waits ha, if_pos ⟨hx, hl⟩]
  · rw [ackDelay_waits ha, if_neg (by omega)]

end Sys2Proof.Machine


/-! Network requests, trigger entries and tag counters (13 R493, R494, R497 to R501). -/

namespace Sys2Proof.Machine

/-! ### Network requests (13 R493, R494) -/

section
variable {s : State} {q : Nat} {r : NetReq}

/-- The state with a request marked as decoded. -/
def State.reqTaken (s : State) (r : NetReq) : State :=
  { s with net := { s.net with reqs := updIf s.net.reqs (fun x => decide (x.rid = r.rid)) (fun x => { x with decoded := true }) } }

/-- The oldest complete request of a connection that is not decoded yet. -/
def State.nextReqOf (s : State) (q : Nat) : Option NetReq :=
  s.net.reqs.find? (fun r => decide (r.qpn = q) && r.bytes.isSome && !r.decoded)

theorem networkRequest_none (h : s.nextReqOf q = none) : exec (.networkRequest q) s = .next s := by
  rw [State.nextReqOf] at h
  show execNetworkRequest q s = _
  simp only [execNetworkRequest, h]

theorem networkRequest_some {bs : List Byte} (h : s.nextReqOf q = some r) (hb : r.bytes = some bs) :
    exec (.networkRequest q) s = .next (
      if bs.length < 64 ∨ 8256 < bs.length ∨ netOpOk (wordsOf (bs.take 64)) = false then
        ((s.reqTaken r).accept (.net q r.rid) (s.ctx q).tenant false (wordsOf (bs.take 64)) (wd64 (wordsOf (bs.take 64)) 2)).fail
          s.que.nextId .badCommand
      else (s.reqTaken r).acceptRun (.net q r.rid) (s.ctx q).tenant false (wordsOf (bs.take 64)) (wd64 (wordsOf (bs.take 64)) 2)
        none) := by
  rw [State.nextReqOf] at h
  show execNetworkRequest q s = _
  simp only [execNetworkRequest, h, hb, Option.getD_some, Bool.not_eq_true']
  rfl

end

/-! ### Trigger rings (13 R497) -/

section
variable {s : State} {p n h t : Nat}

theorem triggerFetch_idle (hr : s.tring p = (n, h, t))
    (hno : 2 ≤ p ∨ n < 4 ∨ 12 < n ∨ h = t ∨ 1024 ≤ s.net.armed.length ∨ s.portDown p = true) :
    exec (.triggerFetch p) s = .next s := by
  show execTriggerFetch p s = _
  simp only [execTriggerFetch, hr]
  exact congrArg _ (if_pos hno)

/-- The state once the entry at the head of a trigger ring is taken. -/
def State.ringNext (s : State) (p n h : Nat) : State := s.setReg (tringAt p + 0xC) (w32 ((h + 1) % 2 ^ n))

/-- What becomes of a trigger entry that was read. -/
def State.entryRead (v : State) (p : Nat) (ws : List Word) : State :=
  match v.binding p (fld (ws.getD 1 0) 24 6), tringOk ws with
  | some (tenant, _), true =>
    State.tagTest { v with net := { v.net with
      armed := v.net.armed ++ [{ n := v.net.nextArm, port := p, tenant := tenant, ws := ws }], nextArm := v.net.nextArm + 1 } } (wd ws 0)
  | _, _ => (v.tringEnd p ws .badCommand).raise xptPage 5

/-- Address of the entry at the head of a trigger ring. -/
def State.ringHead (s : State) (p h : Nat) : Nat := (s.reg (tringAt p)).toNat + 2 ^ 32 * (s.reg (tringAt p + 4)).toNat + 128 * h

theorem triggerFetch_reads (hr : s.tring p = (n, h, t)) (hp : p < 2) (h4 : 4 ≤ n) (h12 : n ≤ 12) (hup : s.portDown p = false) (hne : h ≠ t)
    (hroom : s.net.armed.length < 1024) : exec (.triggerFetch p) s = .next (match s.hostRead p (s.ringHead p h) 128 with
      | none => s.ringNext p n h
      | some bs => (s.ringNext p n h).entryRead p (wordsOf bs)) := by
  have hno : ¬ (2 ≤ p ∨ n < 4 ∨ 12 < n ∨ h = t ∨ 1024 ≤ s.net.armed.length ∨ s.portDown p = true) := by
    simp [hup, hne]; omega
  show execTriggerFetch p s = _
  simp only [execTriggerFetch, hr]
  refine congrArg _ ((if_neg hno).trans ?_)
  cases hb : s.hostRead p (s.ringHead p h) 128 with
  | none =>
    rw [State.ringHead] at hb
    simp only [hb]
    rfl
  | some bs =>
    rw [State.ringHead] at hb
    simp only [hb]
    rfl

theorem entryRead_armed {v : State} {ws : List Word} {tenant : Nat} {c : Bool}
    (hb : v.binding p (fld (ws.getD 1 0) 24 6) = some (tenant, c)) (hok : tringOk ws = true) : v.entryRead p ws =
      State.tagTest { v with net := { v.net with
        armed := v.net.armed ++ [{ n := v.net.nextArm, port := p, tenant := tenant, ws := ws }], nextArm := v.net.nextArm + 1 } }
        (wd ws 0) := by
  simp only [State.entryRead, hb, hok]

theorem entryRead_refused {v : State} {ws : List Word} (h : tringOk ws = false ∨ v.binding p (fld (ws.getD 1 0) 24 6) = none) :
    v.entryRead p ws = (v.tringEnd p ws .badCommand).raise 0x64 5 := by
  unfold State.entryRead
  split
  · next hb hok =>
    rcases h with h | h
    · rw [h] at hok; cases hok
    · rw [h] at hb; cases hb
  · rfl

end

/-! ### Tag counters (13 R499) -/

section
variable {s : State} {tag : Nat}

/-- The count of a tag among the counters of a list. -/
def tagCountIn (l : List TagCnt) (tag : Nat) : Nat := ((l.find? (fun t => decide (t.tag = tag))).map TagCnt.count).getD 0

theorem tagCount_eq (s : State) (tag : Nat) : s.tagCount tag = tagCountIn s.net.tags tag := rfl

/-- The count of a tag in the list headed by another's counter, and by its own. -/
theorem tagCountIn_cons (x : TagCnt) (l : List TagCnt) (tag : Nat) :
    tagCountIn (x :: l) tag = if x.tag = tag then x.count else tagCountIn l tag := by
  unfold tagCountIn
  by_cases h : x.tag = tag <;> simp [h]

theorem tagCountIn_absent : ∀ {l : List TagCnt}, tag ∉ l.map (fun t => t.tag) → tagCountIn l tag = 0
  | [], _ => rfl
  | x :: l, h => by
    obtain ⟨hx, hl⟩ : tag ≠ x.tag ∧ tag ∉ l.map (fun t => t.tag) := by simpa using h
    rw [tagCountIn_cons, if_neg (Ne.symm hx), tagCountIn_absent hl]

/-- What `tagTake` leaves of the counters. -/
def takeIn (l : List TagCnt) (tag n clk : Nat) : List TagCnt :=
  (updIf l (fun t => decide (t.tag = tag)) (fun t => { t with count := t.count - n, at_ := clk })).filter (fun t => decide (t.count ≠ 0))

theorem takeIn_cons (x : TagCnt) (l : List TagCnt) (tag n clk : Nat) : takeIn (x :: l) tag n clk =
    if x.tag = tag then (if x.count - n = 0 then takeIn l tag n clk else { x with count := x.count - n, at_ := clk } :: takeIn l tag n clk)
    else if x.count = 0 then takeIn l tag n clk else x :: takeIn l tag n clk := by
  unfold takeIn updIf
  by_cases h : x.tag = tag
  · by_cases h0 : x.count - n = 0 <;> simp [h, h0]
  · by_cases h0 : x.count = 0 <;> simp [h, h0]

theorem mem_tags_takeIn {n clk a : Nat} : ∀ {l : List TagCnt}, a ∈ (takeIn l tag n clk).map (fun t => t.tag) → a ∈ l.map (fun t => t.tag)
  | [], h => h
  | x :: l, h => by
    have ih := mem_tags_takeIn (n := n) (clk := clk) (a := a) (l := l)
    rw [takeIn_cons] at h
    split at h <;> split at h
    · exact List.mem_cons_of_mem _ (ih h)
    · exact (List.mem_cons.1 h).elim (fun e => e ▸ List.mem_cons_self) (fun e => List.mem_cons_of_mem _ (ih e))
    · exact List.mem_cons_of_mem _ (ih h)
    · exact (List.mem_cons.1 h).elim (fun e => e ▸ List.mem_cons_self) (fun e => List.mem_cons_of_mem _ (ih e))

theorem tagCountIn_takeIn (n clk : Nat) : ∀ {l : List TagCnt}, (l.map (fun t => t.tag)).Nodup →
    tagCountIn (takeIn l tag n clk) tag = tagCountIn l tag - n
  | [], _ => (Nat.zero_sub n).symm
  | x :: l, hnd => by
    obtain ⟨hx, hl⟩ := List.nodup_cons.1 hnd
    have ih := tagCountIn_takeIn n clk hl
    rw [takeIn_cons, tagCountIn_cons]
    by_cases h : x.tag = tag
    · have habs : tagCountIn (takeIn l tag n clk) tag = 0 := tagCountIn_absent (fun hm => hx (by
      dsimp only; rw [h]; exact mem_tags_takeIn hm))
      by_cases h0 : x.count - n = 0
      · rw [if_pos h, if_pos h0, if_pos h, habs, h0]
      · rw [if_pos h, if_neg h0, if_pos h, tagCountIn_cons, if_pos h]
    · by_cases h0 : x.count = 0
      · rw [if_neg h, if_pos h0, if_neg h, ih]
      · rw [if_neg h, if_neg h0, if_neg h, tagCountIn_cons, if_neg h, ih]

theorem tagCountIn_takeIn_other {n clk a : Nat} (ha : a ≠ tag) : ∀ {l : List TagCnt}, 0 < tagCountIn l a →
    tagCountIn (takeIn l tag n clk) a = tagCountIn l a
  | [], h => absurd h (by simp [tagCountIn])
  | x :: l, hpos => by
    have ih := tagCountIn_takeIn_other (n := n) (clk := clk) ha (l := l)
    rw [tagCountIn_cons] at hpos
    rw [takeIn_cons, tagCountIn_cons]
    by_cases hxa : x.tag = a
    · have hxt : x.tag ≠ tag := hxa ▸ ha
      rw [if_pos hxa] at hpos
      rw [if_neg hxt, if_neg (by omega), if_pos hxa, tagCountIn_cons, if_pos hxa]
    · rw [if_neg hxa] at hpos
      have ih := ih hpos
      rw [if_neg hxa]
      split <;> split
      · exact ih
      · rw [tagCountIn_cons, if_neg hxa, ih]
      · exact ih
      · rw [tagCountIn_cons, if_neg hxa, ih]

theorem tagTest_noWaiter (h : s.waiters tag = []) : s.tagTest tag = s := by rw [State.tagTest, h]; rfl

theorem tagCountIn_append (l : List TagCnt) (x : TagCnt) (h : tag ∉ l.map (fun t => t.tag)) (hx : x.tag = tag) :
    tagCountIn (l ++ [x]) tag = x.count := by
  induction l with
  | nil => exact (tagCountIn_cons x [] tag).trans (if_pos hx)
  | cons y l ih =>
    obtain ⟨hy, hl⟩ : tag ≠ y.tag ∧ tag ∉ l.map (fun t => t.tag) := by simpa using h
    rw [List.cons_append, tagCountIn_cons, if_neg (Ne.symm hy), ih hl]

theorem tagCountIn_updIf {l : List TagCnt} {f : TagCnt → TagCnt} (hf : ∀ t, (f t).tag = t.tag) (hc : ∀ t, (f t).count = t.count + 1)
    (h : l.any (fun t => decide (t.tag = tag)) = true) :
    tagCountIn (updIf l (fun t => decide (t.tag = tag)) f) tag = tagCountIn l tag + 1 := by
  obtain ⟨x, hx, hxt⟩ := List.any_eq_true.1 h
  obtain ⟨y, hy⟩ := Option.isSome_iff_exists.1 ((List.find?_isSome (p := fun t : TagCnt => decide (t.tag = tag))).2
    ⟨x, hx, hxt⟩)
  have hyt := List.find?_some hy
  unfold tagCountIn
  rw [find?_updIf (fun t _ => by rw [hf]) l, hy]
  simp [of_decide_eq_true hyt, hc]

/-- An arrival on a tag that nobody waits for stays counted. -/
theorem arrival_counts (hw : s.waiters tag = []) (hroom : s.net.tags.length < 4096) :
    (s.arrival tag).tagCount tag = s.tagCount tag + 1 ∧ (s.arrival tag).net.armed = s.net.armed := by
  unfold State.arrival
  by_cases hany : s.net.tags.any (fun t => decide (t.tag = tag)) = true
  · rw [if_pos hany]
    dsimp only
    rw [tagTest_noWaiter (by exact hw)]
    exact ⟨tagCountIn_updIf (fun _ => rfl) (fun _ => rfl) hany, rfl⟩
  · rw [if_neg hany, if_pos hroom]
    dsimp only
    rw [tagTest_noWaiter (by exact hw)]
    have habs : tag ∉ s.net.tags.map (fun t => t.tag) := by
      intro hm
      obtain ⟨x, hx, hxt⟩ := List.mem_map.1 hm
      exact hany (List.any_eq_true.2 ⟨x, hx, decide_eq_true hxt⟩)
    refine ⟨?_, rfl⟩
    rw [tagCount_eq, tagCount_eq, tagCountIn_absent habs]
    exact tagCountIn_append _ _ habs rfl

theorem counterIdle_goes {t : Nat} {x : TagCnt} (hx : s.net.tags.find? (fun x => decide (x.tag = tag)) = some x) :
    exec (.counterIdle tag t) s = .next (if x.at_ + fld (s.xptReg 0x118) 0 16 * 1000000 ≤ max s.clk t then
      ({ s.at_ t with net := { s.net with tags := s.net.tags.filter (fun y => decide (y.tag ≠ tag)) } } : State).bump (pg 0x64 + 0x1D4)
      else s.at_ t) := by
  have hx' : (s.at_ t).net.tags.find? (fun x => decide (x.tag = tag)) = some x := hx
  show execCounterIdle tag t s = _
  simp only [execCounterIdle, hx']
  rfl

theorem counterIdle_absent {t : Nat} (hx : s.net.tags.find? (fun x => decide (x.tag = tag)) = none) :
    exec (.counterIdle tag t) s = .next (s.at_ t) := by
  have hx' : (s.at_ t).net.tags.find? (fun x => decide (x.tag = tag)) = none := hx
  show execCounterIdle tag t s = _
  simp only [execCounterIdle, hx']

end

/-! ### Disarming (13 R501) -/

theorem EntryOnly.net {s t : State} (h : EntryOnly s t) : t.net = s.net := by rw [h]

theorem postCq_net (s : State) (id p q : Nat) (ws : List Word) (int : Bool) : (s.postCq id p q ws int).net = s.net := by
  unfold State.postCq
  dsimp only
  split
  · rfl
  · exact (entryOnly_writeCq s p q ws true int).1.net

theorem endWords_net (s : State) (op n : Nat) : (s.endWords op n).2.net = s.net := by
  unfold State.endWords
  split <;> rfl

theorem tringEnd_net (s : State) (p : Nat) (ws : List Word) (st : Status) : (s.tringEnd p ws st).net = s.net := by
  unfold State.tringEnd
  dsimp only
  split
  · exact (postCq_net _ _ _ _ _ _).trans (endWords_net s _ _)
  · rfl

theorem foldl_tringEnd_net (p : Nat) (st : Status) : ∀ (l : List Armed) (s : State),
    (l.foldl (fun s a => s.tringEnd p a.ws st) s).net = s.net
  | [], _ => rfl
  | a :: l, s => (foldl_tringEnd_net p st l _).trans (tringEnd_net s p a.ws st)

/-- A disarm takes exactly the port's own entries of the tag. -/
theorem mem_armed_trigDisarm (s : State) (p : Nat) (tag : Word) (a : Armed) :
    a ∈ (s.trigDisarm p tag).net.armed ↔ a ∈ s.net.armed ∧ ¬ (a.port = p ∧ wd a.ws 0 = tag.toNat) := by
  have harmed : (s.trigDisarm p tag).net.armed = s.net.armed.filter (fun a =>
      !(s.net.armed.filter (fun a => decide (a.port = p ∧ wd a.ws 0 = tag.toNat))).contains a) :=
    congrArg Net.armed (foldl_tringEnd_net p .aborted _ _)
  rw [harmed]
  simp only [List.mem_filter, Bool.not_eq_true', ← Bool.not_eq_true, List.contains_iff_mem, decide_eq_true_eq]
  tauto

/-- Settles O44. -/
theorem requestsAndTriggers : Obligations.RequestsAndTriggers := by
  refine ⟨fun s q => networkRequest_none, fun s q r hr bs ws w hb hws hw => ⟨fun ⟨hlo, hhi, hok⟩ => ?_, fun h => ?_⟩,
    fun s src p v hon hp => congrArg Host.Outcome.next (if_pos ⟨hon, hp⟩),
    fun s src p v h => congrArg Host.Outcome.next (if_neg (fun ⟨hon, hp⟩ => h.elim (fun h => by rw [xptPage, h] at hon; cases hon) (by omega))),
    fun s p n h t base hp hr h4 h12 hup hbase => ⟨fun hno => ?_, fun hne hroom hread => ?_, fun bs hne hroom hread v hv => ?_⟩,
    fun s p n h t hr hno => ?_, fun s tag => arrival_counts, fun s tag n hle hnd => ⟨tagCountIn_takeIn n s.clk hnd, fun x hx => tagCountIn_takeIn_other hx⟩,
    fun s tag t x hx => ⟨fun hold => ?_, fun hyoung => ?_⟩, fun s tag t => counterIdle_absent,
    fun s tag => ⟨rfl, fun p hon => ⟨congrArg Host.Outcome.next (if_neg (by simp [xptPage, hon])), mem_armed_trigDisarm s p tag⟩⟩⟩
  · subst hws hw
    rw [networkRequest_some hr hb, if_neg (by simp [hok]; omega)]
    rfl
  · subst hws hw
    rw [networkRequest_some hr hb, if_pos h]
    rfl
  · exact triggerFetch_idle hr (.inr (.inr (.inr (hno.imp_right .inl))))
  · subst hbase
    rw [triggerFetch_reads hr hp h4 h12 hup hne hroom, State.ringHead, hread]
    rfl
  · subst hbase hv
    rw [triggerFetch_reads hr hp h4 h12 hup hne hroom, State.ringHead, hread]
    exact ⟨fun tenant c hb hok => congrArg _ (entryRead_armed hb hok), fun h => congrArg _ (entryRead_refused h)⟩
  · rcases hno with hno | hno | hno | hno
    · exact triggerFetch_idle hr (.inl hno)
    · exact triggerFetch_idle hr (.inr (.inl hno))
    · exact triggerFetch_idle hr (.inr (.inr (.inl hno)))
    · exact triggerFetch_idle hr (.inr (.inr (.inr (.inr (.inr hno)))))
  · rw [counterIdle_goes hx, if_pos hold]
    refine ⟨_, rfl, tagCountIn_absent (l := s.net.tags.filter (fun y => decide (y.tag ≠ tag))) (fun hm => ?_), rfl⟩
    obtain ⟨y, hy, hyt⟩ := List.mem_map.1 hm
    exact of_decide_eq_true (List.mem_filter.1 hy).2 hyt
  · rw [counterIdle_goes hx, if_neg (by omega)]

end Sys2Proof.Machine


/-! Egress gates: the operating list, selection, credit and takeover (14 R508 to R525), and the bytes of a packet's headers (13 R476). -/

namespace Sys2Proof.Machine

/-! ### The operating list (14 R513, R515, R519) -/

section
variable (g : GateOp) (t : Int)

theorem GateOp.at_guard {g : GateOp} {t : Int} (h : g.pos t < g.guard_ * 10) :
    g.at_ t = (0x80, (entryAt g.list 0 0 (g.pos t)).1, true) := if_pos h

theorem GateOp.at_entry {g : GateOp} {t : Int} (h : g.guard_ * 10 ≤ g.pos t) :
    g.at_ t = ((entryAt g.list 0 0 (g.pos t)).2 % 128 + 128, (entryAt g.list 0 0 (g.pos t)).1, false) := if_neg (by omega)

/-- Gates of an entry with class 7 held open. -/
theorem testBit_withClass7 (x c : Nat) : (x % 128 + 128).testBit c = if c = 7 then true else decide (c < 7) && x.testBit c := by
  have h : x % 128 + 128 = 2 ^ 7 + x % 2 ^ 7 := by omega
  rw [h]
  by_cases hc : c < 7
  · rw [Nat.testBit_two_pow_add_gt hc, Nat.testBit_mod_two_pow]
    simp [show ¬ c = 7 by omega]
  · by_cases h7 : c = 7
    · subst h7
      rw [Nat.testBit_two_pow_add_eq, Nat.testBit_mod_two_pow]; rfl
    · have hlt : 2 ^ 7 + x % 2 ^ 7 < 2 ^ c := by
        have : (2 : Nat) ^ 8 ≤ 2 ^ c := Nat.pow_le_pow_right (by decide) (by omega)
        omega
      rw [Nat.testBit_lt_two_pow hlt]
      simp [h7, hc]

theorem GateOp.at_class7 : (g.at_ t).1.testBit 7 = true := by
  by_cases h : g.pos t < g.guard_ * 10
  · rw [GateOp.at_guard h]
    exact Nat.testBit_two_pow_self (n := 7)
  · rw [GateOp.at_entry (by omega), testBit_withClass7]; rfl

theorem GateOp.at_below {c : Nat} (h : g.guard_ * 10 ≤ g.pos t) (hc : c < 7) :
    (g.at_ t).1.testBit c = (entryAt g.list 0 0 (g.pos t)).2.testBit c := by
  rw [GateOp.at_entry h, testBit_withClass7, if_neg (by omega)]
  simp [hc]

/-- A takeover time is a cycle start of the new list, the first at or after the boundary once the base has passed. -/
theorem takeoverAt_spec {g : GateOp} {b : Int} (hc : 0 < g.cycle) : b ≤ (takeoverAt g b).1 ∧
    ((takeoverAt g b).1 - g.base) % ((g.cycle * 10 : Nat) : Int) = 0 ∧ (g.base < b → (takeoverAt g b).1 < b + (g.cycle * 10 : Nat)) ∧
    (takeoverAt g b).2 = decide (g.base < b) := by
  by_cases hb : b ≤ g.base
  · rw [takeoverAt, if_pos hb]
    exact ⟨hb, by simp, fun h => absurd h (by omega), by simp [hb]⟩
  · have hpos : (0 : Int) < ((g.cycle * 10 : Nat) : Int) := by omega
    have hlo := Int.emod_nonneg (b - g.base) (ne_of_gt hpos)
    have hhi := Int.emod_lt_of_pos (b - g.base) hpos
    have hdiv := Int.mul_ediv_add_emod (b - g.base) ((g.cycle * 10 : Nat) : Int)
    have hp : (g.pos b : Int) = (b - g.base) % ((g.cycle * 10 : Nat) : Int) := Int.toNat_of_nonneg hlo
    rw [takeoverAt, if_neg hb]
    dsimp only
    by_cases h0 : g.pos b = 0
    · have hn : g.nextStart b = b := if_pos h0
      rw [hn]
      refine ⟨le_refl b, ?_, fun _ => by omega, by simp; omega⟩
      rw [← hp, h0]; rfl
    · have hn : g.nextStart b = b + ((g.cycle * 10 - g.pos b : Nat) : Int) := if_neg h0
      rw [hn]
      refine ⟨by omega, ?_, fun _ => by omega, by simp; omega⟩
      have hcast : b + ((g.cycle * 10 - g.pos b : Nat) : Int) - g.base =
          ((g.cycle * 10 : Nat) : Int) * ((b - g.base) / ((g.cycle * 10 : Nat) : Int) + 1) := by
        rw [Int.mul_add, Int.mul_one]
        omega
      rw [hcast]
      exact Int.mul_emod_right _ _

end

/-! ### Selection (14 R510, R517, R525) -/

section
variable {s : State} {n t a : Nat}

theorem frameSelect_busy (h : (s.at_ t).linkFree n = none) : exec (.frameSelect n t) s = .next (s.at_ t) := by
  show execFrameSelect n t s = _
  simp only [execFrameSelect, h]

/-- The state in which a class is chosen: gates refreshed, heads that fit no window dropped, waits counted. -/
def State.selecting (s : State) (n a : Nat) : State :=
  let w := s.gateRefresh n
  let r := stripHeads (w.oversize n) [] (w.gate n).queue
  let x := w.setGate n { w.gate n with queue := r.1 }
  (if r.2 = 0 then x else (x.bump (pg (gatePage n) + 0x184) r.2).raise (gatePage n) 2).countWaits n a

/-- The frame that FRAME_SELECT would send from a state. -/
def State.chosen (s : State) (n a : Nat) : Option EgFrame :=
  ([7, 6, 5, 4, 3, 2, 1, 0].find? (s.eligible n a)).bind (s.gate n).head

theorem frameSelect_runs {o : Option EgFrame} (h : (s.at_ t).linkFree n = some a) (hup : (s.netPort n).up = true)
    (ho : ((s.at_ t).selecting n a).chosen n a = o) :
    exec (.frameSelect n t) s = .next (o.elim ((s.at_ t).selecting n a) (((s.at_ t).selecting n a).transmit n a)) := by
  have hup' : ((s.at_ t).netPort n).up = true := hup
  show execFrameSelect n t s = _
  unfold State.chosen State.selecting at ho
  unfold execFrameSelect State.selecting
  dsimp only at ho ⊢
  rw [h]
  dsimp only
  rw [if_neg (by simp [hup'])]
  generalize stripHeads (((s.at_ t).gateRefresh n).oversize n) [] (((s.at_ t).gateRefresh n).gate n).queue = r at ho ⊢
  obtain ⟨q, k⟩ := r
  dsimp only at ho ⊢
  rw [ho]
  cases o with
  | none => dsimp only [Option.elim]
  | some f => dsimp only [Option.elim]

theorem frameSelect_down (hup : (s.netPort n).up = false) : exec (.frameSelect n t) s = .next (s.at_ t) := by
  have hup' : ((s.at_ t).netPort n).up = false := hup
  cases h : (s.at_ t).linkFree n with
  | none => exact frameSelect_busy h
  | some a =>
    show execFrameSelect n t s = _
    simp only [execFrameSelect, h, hup', Bool.not_false, if_true]

/-- The highest class for which `p` holds. -/
theorem find?_classes {p : Nat → Bool} {c : Nat} (hc : c < 8) (hp : p c = true) (h : ∀ d, c < d → d < 8 → p d = false) :
    [7, 6, 5, 4, 3, 2, 1, 0].find? p = some c := by
  rw [List.find?_eq_some_iff_append]
  refine ⟨hp, (List.range' (c + 1) (7 - c)).reverse, (List.range c).reverse, ?_, fun d hd => ?_⟩
  · interval_cases c <;> rfl
  · obtain ⟨hlo, hhi⟩ := List.mem_range'_1.1 (List.mem_reverse.1 hd)
    rw [h d (by omega) (by omega)]; rfl

theorem eligible_spec {c : Nat} (h : s.eligible n a c = true) : (s.gate n).open_.testBit c = true ∧
    (bit (s.gateReg n (0x200 + 16 * c)) 31 = true → 0 ≤ (s.gate n).credit.getD c 0) ∧
    ∃ f, (s.gate n).head c = some f ∧ s.frameFits n a f = true := by
  unfold State.eligible at h
  dsimp only at h
  split at h
  · cases h
  · next f hf =>
    simp only [Bool.and_eq_true, Bool.or_eq_true, Bool.not_eq_true', decide_eq_true_eq] at h
    obtain ⟨⟨hopen, hfit⟩, hcredit⟩ := h
    exact ⟨hopen, fun hb => hcredit.resolve_left (by simp [hb]), f, hf, hfit⟩

/-- Without its head frame a class has its other frames; another class has all of its own. -/
theorem filter_dropHead (c d : Nat) : ∀ q : List EgFrame, (dropHead c q).filter (fun f => decide (f.cls = d)) =
    if d = c then (q.filter (fun f => decide (f.cls = c))).tail else q.filter (fun f => decide (f.cls = d))
  | [] => by simp [dropHead]
  | f :: r => by
    have ih := filter_dropHead c d r
    by_cases hf : f.cls = c
    · by_cases hd : d = c
      · simp [dropHead, hf, hd]
      · simp [dropHead, hf, hd, Ne.symm hd]
    · by_cases hd : d = c
      · rw [if_pos hd] at ih ⊢
        subst hd
        simp [dropHead, hf, ih]
      · rw [if_neg hd] at ih ⊢
        simp [dropHead, hf, List.filter_cons, ih]

theorem creditAfter_bounds (s : State) (n c dt : Nat) (x : Int) : s.creditAfter n c false dt x = x ∧
    (bit (s.gateReg n (0x200 + 16 * c)) 31 = true → s.creditAfter n c true dt x ≤ (fld (s.gateReg n (0x204 + 16 * c)) 0 24 * 640000 : Nat)) :=
  ⟨if_neg (by simp), fun h => (if_pos (by simp [h])).trans_le (min_le_left _ _)⟩

end

/-! ### Headers of a sprayed packet (13 R475, R476) -/

theorem length_beBytes (k n : Nat) : (beBytes k n).length = k := by rw [beBytes, List.length_reverse, length_leBytes]

theorem ofLe_leBytes : ∀ k n : Nat, ofLe (leBytes k n) = n % 256 ^ k
  | 0, n => (Nat.mod_one n).symm
  | k + 1, n => by
    have h : ofLe (leBytes (k + 1) n) = n % 256 + 256 * ofLe (leBytes k (n / 256)) := by
      rw [leBytes, ofLe, BitVec.toNat_ofNat]
    rw [h, ofLe_leBytes k, Nat.pow_succ', Nat.mod_mul]

theorem length_frameBth (f : Frame) : (frameBth f).length = 12 := by simp [frameBth, length_beBytes]

/-- A sprayed request packet is its BTH, its message extension header, and the rest. -/
theorem frameBytes_sprayed {f : Frame} (hop : f.op ≠ 0x11) (hp : f.pktCount ≠ 0) :
    ∃ rest, frameBytes f = frameBth f ++ (frameMxh f ++ rest) := by
  unfold frameBytes
  rw [if_neg hop]
  simp only [hp, ne_eq, not_false_eq_true, decide_true, if_true, List.append_assoc]
  exact ⟨_, rfl⟩

theorem mxh_spells {f : Frame} (hc : f.pktCount < 2 ^ 24) (hf : f.firstPsn < 2 ^ 24) :
    ofLe (frameMxh f).reverse = f.firstPsn * 2 ^ 40 + f.pktCount * 2 ^ 8 := by
  rw [frameMxh, beBytes, List.reverse_reverse, ofLe_leBytes]
  omega

theorem frameBytes_header {f : Frame} (hop : f.op ≠ 0x11) (hp : f.pktCount ≠ 0) (hc : f.pktCount < 2 ^ 24) (hf : f.firstPsn < 2 ^ 24) :
    (frameBytes f).length = 20 + ((frameBytes f).drop 20).length ∧
      ofLe (((frameBytes f).drop 12).take 8).reverse / 2 ^ 40 = f.firstPsn ∧
      ofLe (((frameBytes f).drop 12).take 8).reverse / 2 ^ 8 % 2 ^ 24 = f.pktCount := by
  obtain ⟨rest, hbytes⟩ := frameBytes_sprayed hop hp
  have hm : (frameMxh f).length = 8 := length_beBytes _ _
  have hmxh : ((frameBytes f).drop 12).take 8 = frameMxh f := by
    rw [hbytes, ← length_frameBth f, List.drop_left, ← hm, List.take_left]
  refine ⟨?_, ?_, ?_⟩
  · rw [List.length_drop, hbytes]
    simp only [List.length_append, length_frameBth, hm]
    omega
  · rw [hmxh, mxh_spells hc hf]; omega
  · rw [hmxh, mxh_spells hc hf]; omega

/-! ### Takeover (14 R520) -/

section
variable {s : State} {n t : Nat}

theorem gateRefresh_frame (s : State) (n : Nat) : s.gateRefresh n = { s with net := { s.net with gate := (s.gateRefresh n).net.gate } } := rfl

theorem gate_settleCredit (h : Sparse.rising s.net.gate) :
    ∃ a c, (s.settleCredit n).gate n = { s.gate n with at_ := a, credit := c } := ⟨_, _, gate_setGate_self s _ h⟩

/-- A refresh of the gates leaves the list in operation, a takeover that is pending, and the queue. -/
theorem gate_gateRefresh (h : Sparse.rising s.net.gate) : ((s.gateRefresh n).gate n).op = (s.gate n).op ∧
    ((s.gateRefresh n).gate n).pend = (s.gate n).pend ∧ ((s.gateRefresh n).gate n).queue = (s.gate n).queue := by
  obtain ⟨a, c, hset⟩ := gate_settleCredit (n := n) h
  have hg := gate_setGate_self (s.settleCredit n) (n := n) { (s.settleCredit n).gate n with
    open_ := ((s.settleCredit n).gateNow n).1, entry := ((s.settleCredit n).gateNow n).2.1, inGuard := ((s.settleCredit n).gateNow n).2.2,
    hold := match ((s.settleCredit n).gate n).hold with
      | some h => if (s.settleCredit n).local_ < h then some h else none
      | none => none } (rising_gate_settleCredit s h)
  have hgate : (s.gateRefresh n).gate n = _ := hg
  rw [hgate, hset]
  exact ⟨rfl, rfl, rfl⟩

/-- What the new list leaves of a gate. -/
theorem gate_gateTake (h : Sparse.rising s.net.gate) : ((s.gateTake n).gate n).op = s.gateOf n ∧ ((s.gateTake n).gate n).pend = none ∧
    ((s.gateTake n).gate n).queue = (s.gate n).queue ∧ (∀ e ∈ (s.gateTake n).cfg.lag, e.1 ≠ gatePage n) := by
  have hr : Sparse.rising (({ s with cfg := { s.cfg with lag := s.cfg.lag.filter (fun e => decide (e.1 ≠ gatePage n)) } } : State).setGate n
    { s.gate n with op := s.gateOf n, pend := none, hold := none }).net.gate := rising_sset _ _ _ h
  obtain ⟨hop, hpend, hq⟩ := gate_gateRefresh (n := n) hr
  have hself := gate_setGate_self ({ s with cfg := { s.cfg with lag := s.cfg.lag.filter (fun e => decide (e.1 ≠ gatePage n)) } } : State)
    (n := n) { s.gate n with op := s.gateOf n, pend := none, hold := none } h
  rw [hself] at hop hpend hq
  exact ⟨hop, hpend, hq, fun e he => of_decide_eq_true (List.mem_filter.1 he).2⟩

theorem takeover_none (h : (s.gate n).pend = none) : exec (.takeover n t) s = .next (s.at_ t) := by
  have h' : ((s.at_ t).gate n).pend = none := h
  show execTakeover n t s = _
  simp only [execTakeover, h']

theorem takeover_early {p : Int} (h : (s.gate n).pend = some p) (he : (s.at_ t).local_ < p) : exec (.takeover n t) s = .next (s.at_ t) := by
  have h' : ((s.at_ t).gate n).pend = some p := h
  show execTakeover n t s = _
  simp only [execTakeover, h', he, if_true]

/-- A takeover that is counted, and counted again where its base had passed. -/
def State.takeoverNoted (s : State) (n : Nat) : State :=
  let s := (s.bump (pg (gatePage n) + 0x18C)).raise (gatePage n) 0
  if (s.gate n).basePassed then s.bump (pg (gatePage n) + 0x190) else s

theorem takeoverNoted_net (s : State) (n : Nat) : (s.takeoverNoted n).net = s.net ∧ (s.takeoverNoted n).cfg = s.cfg := by
  have h : ((s.bump (pg (gatePage n) + 0x18C)).raise (gatePage n) 0).net = s.net ∧
      ((s.bump (pg (gatePage n) + 0x18C)).raise (gatePage n) 0).cfg = s.cfg := by rw [raise_eq]; exact ⟨rfl, rfl⟩
  unfold State.takeoverNoted
  dsimp only
  split
  · exact h
  · exact h

theorem takeover_takes {p : Int} (h : (s.gate n).pend = some p) (hp : p ≤ (s.at_ t).local_) :
    exec (.takeover n t) s = .next ((((s.at_ t).settleCredit n).gateTake n).takeoverNoted n) := by
  have h' : ((s.at_ t).gate n).pend = some p := h
  show execTakeover n t s = _
  simp only [execTakeover, h', Int.not_lt.2 hp, if_false]
  rfl

end

/-- Settles O45. -/
theorem gatesSelectAndTakeOver : Obligations.GatesSelectAndTakeOver := by
  refine ⟨fun g t => ⟨g.at_class7 t, fun h => by rw [GateOp.at_guard h]; exact ⟨rfl, rfl⟩, fun h c hc => g.at_below t h hc⟩,
    fun s n t => ⟨fun hn => ⟨congrArg Host.Outcome.next (if_pos (decide_eq_true hn)), rfl, rfl⟩,
      fun hn => congrArg Host.Outcome.next (if_neg (fun h => absurd (of_decide_eq_true h) (by
        show ¬ n < 2 * s.fusedDies; omega)))⟩,
    fun s n t a => ⟨frameSelect_down, frameSelect_busy, fun h hup w x v q k hw hstrip hx hv => ?_⟩,
    fun f => frameBytes_header, fun s n a c => eligible_spec, filter_dropHead, creditAfter_bounds, fun g b => takeoverAt_spec,
    fun s n t => ⟨takeover_none, fun p hpend => ⟨takeover_early hpend, fun hp hr => ?_⟩⟩⟩
  · have hsel : (s.at_ t).selecting n a = v := by
      rw [hv, hx]
      subst hw
      simp only [State.selecting, hstrip]
      rfl
    have hrun := fun {o} => frameSelect_runs (o := o) h hup
    rw [hsel] at hrun
    refine ⟨fun hno => ?_, fun c f hc he hhi hf => ⟨?_, rfl⟩⟩
    · have hlt : ∀ c ∈ [7, 6, 5, 4, 3, 2, 1, 0], c < 8 := by decide
      have hfind : [7, 6, 5, 4, 3, 2, 1, 0].find? (v.eligible n a) = none :=
        List.find?_eq_none.2 (fun c hc => by rw [hno c (hlt c hc)]; simp)
      exact hrun (o := none) (by rw [State.chosen, hfind]; rfl)
    · exact hrun (o := some f) (by rw [State.chosen, find?_classes hc he hhi]; exact hf)
  · obtain ⟨a, c, hset⟩ := gate_settleCredit (s := s.at_ t) (n := n) hr
    obtain ⟨hop, hnone, hq, hlag⟩ := gate_gateTake (s := (s.at_ t).settleCredit n) (n := n) (rising_gate_settleCredit _ hr)
    obtain ⟨hnet, hcfg⟩ := takeoverNoted_net (((s.at_ t).settleCredit n).gateTake n) n
    refine ⟨_, takeover_takes hpend hp, ?_⟩
    rw [gate_of_net hnet n, hcfg]
    refine ⟨hop, hnone, hq.trans ?_, hlag⟩
    rw [hset]; rfl

end Sys2Proof.Machine


/-! The boot sequence and recovery (15 R535 to R537, R543 to R547, R550, R553). -/

namespace Sys2Proof.Machine

/-! ### Image checks (15 R536) -/

section
variable {s : State} {img : List Byte} {n k : Nat}

theorem imgCheck_header (h : imgHeaderOk img n = false) : s.imgCheck img n = .error 2 := if_pos (by simp [h])

theorem imgCheck_noKey (h : imgHeaderOk img n = true) (hk : s.sec.fuse.slotOf img = none) : s.imgCheck img n = .error 3 := by
  refine (if_neg (by simp [h])).trans ?_
  rw [hk]

/-- An image of a known key, by its signature, its SVN and its part. -/
theorem imgCheck_key (h : imgHeaderOk img n = true) (hk : s.sec.fuse.slotOf img = some k) : s.imgCheck img n =
    if !Config.slhVerify256s (imgKey img) (imgSlice img 0 (imgLen img)) (imgSlice img (imgLen img) sigBytes) then .error 4
    else if imgFld img 3 8 8 < s.sec.fuse.svn then .error 5
    else if imgFld img 1 16 16 ≠ 0x7A07 ∨ Config.siliconRev < imgFld img 1 8 8 then .error 6 else .ok k := by
  refine (if_neg (by simp [h])).trans ?_
  rw [hk]

theorem slotOf_spec {f : Fuse} (h : f.slotOf img = some k) : f.revoked.testBit k = false ∧ k < 4 := by
  have hp := List.find?_some h
  have hm := List.mem_of_find?_eq_some h
  simp only [Bool.and_eq_true, Bool.not_eq_true'] at hp
  exact ⟨hp.1, List.mem_range.1 hm⟩

theorem imgCheck_of_sec {u : State} (h : u.sec.fuse = s.sec.fuse) : u.imgCheck img n = s.imgCheck img n := by
  unfold State.imgCheck
  rw [h]

end

/-! ### What the start of an image leaves alone -/

@[simp] theorem State.raise_start (s : State) (p i : Nat) : (s.raise p i).start = s.start := by rw [raise_eq]; rfl

theorem enterPhase_sec (s : State) (p : Startup) : (s.enterPhase p).sec = s.sec := State.raise_sec _ _ _

theorem enterPhase_start (s : State) (p : Startup) : (s.enterPhase p).start = p := State.raise_start _ _ _

theorem foldl_sec {α : Type} (f : State → α → State) (hf : ∀ s x, (f s x).sec = s.sec) : ∀ (l : List α) (s : State), (l.foldl f s).sec = s.sec
  | [], _ => rfl
  | x :: l, s => (foldl_sec f hf l (f s x)).trans (hf s x)

theorem boardStart_sec (s : State) (img : List Byte) : (s.boardStart img).sec = s.sec := by
  unfold State.boardStart
  split
  · rfl
  · dsimp only
    refine (foldl_sec _ (fun s n => foldl_sec _ (fun s o => ?_) _ s) _ _).trans ?_
    · split <;> rfl
    · split <;> rfl

/-- The identity that an image gives the part (15 R553): none once it is DECOMMISSIONED. -/
def State.identified (s : State) (meas : List (List Byte)) : Sec :=
  if s.sec.fuse.life = 2 then { s.sec with alias_ := none, chain := none }
  else { s.sec with alias_ := some (s.sec.fuse.aliasSeeds (fwid meas)),
                    chain := s.certChain (s.sec.fuse.aliasSeeds (fwid meas)) (fwid meas) }

/-- The security block once an image runs. -/
def State.imageRun (s : State) (img : List Byte) (slot source : Nat) : Sec :=
  { s.identified (measurements s.sec.fuse img slot) with
    source := source, cause := 0, version := (imgWord img 4).toNat, imageSvn := imgFld img 3 8 8, keySlot := slot,
    meas := measurements s.sec.fuse img slot }

theorem runImage_start (s : State) (img : List Byte) (slot source : Nat) : (s.runImage img slot source).start = .memory :=
  enterPhase_start _ _

theorem runImage_sec (s : State) (img : List Byte) (slot source : Nat) : (s.runImage img slot source).sec = s.imageRun img slot source := by
  unfold State.runImage
  rw [enterPhase_sec, boardStart_sec]
  unfold State.imageRun State.identified
  by_cases hl : s.sec.fuse.life = 2
  · rw [if_pos hl, if_pos hl]
  · rw [if_neg hl, if_neg hl]
    dsimp only
    split
    · rw [State.raise_sec]; rfl
    · rfl

/-- The fields of the security block that running an image sets, and those that it keeps. -/
theorem imageRun_spec (s : State) (img : List Byte) (slot source : Nat) : (s.imageRun img slot source).source = source ∧
    (s.imageRun img slot source).cause = 0 ∧ (s.imageRun img slot source).keySlot = slot ∧
    (s.imageRun img slot source).meas = measurements s.sec.fuse img slot ∧ (s.imageRun img slot source).fuse = s.sec.fuse ∧
    (s.imageRun img slot source).nor = s.sec.nor ∧ (s.imageRun img slot source).rcvState = s.sec.rcvState := by
  unfold State.imageRun State.identified
  split_ifs <;> exact ⟨rfl, rfl, rfl, rfl, rfl, rfl, rfl⟩

theorem imageRun_decommissioned {s : State} {img : List Byte} {slot source : Nat} (h : s.sec.fuse.life = 2) :
    (s.imageRun img slot source).alias_ = none ∧ (s.imageRun img slot source).chain = none := by
  rw [State.imageRun, State.identified, if_pos h]
  exact ⟨rfl, rfl⟩

theorem imageRun_identified {s : State} {img : List Byte} {slot source : Nat} (h : s.sec.fuse.life ≠ 2) :
    (s.imageRun img slot source).alias_ = some (s.sec.fuse.aliasSeeds (fwid (measurements s.sec.fuse img slot))) := by
  rw [State.imageRun, State.identified, if_neg h]

theorem length_measurements (f : Fuse) (img : List Byte) (slot : Nat) : (measurements f img slot).length = 9 := by
  simp [measurements]

/-! ### BOOT_SEQUENCE (15 R535 to R537) -/

section
variable {s : State}

theorem bootSequence_idle (kat : Bool) (h : s.start ≠ .verify ∨ s.held = true) : exec (.bootSequence kat) s = .next s :=
  congrArg Host.Outcome.next (if_pos h)

theorem bootSequence_katFails (hst : s.start = .verify) (hh : s.held = false) : exec (.bootSequence false) s =
    .next { s with sec := { s.sec with halted := true, cause := 7, source := 3 } } :=
  congrArg Host.Outcome.next ((if_neg (by simp [hst, hh])).trans (if_pos rfl))

/-- The state while the image is checked: SPI_MODE reports the flash's read mode. -/
def State.spiSet (s : State) : State := { s with sec := { s.sec with spi := s.sec.nor.mode } }

theorem bootSequence_checks (hst : s.start = .verify) (hh : s.held = false) {r : Except Nat Nat}
    (hr : (if s.sec.nor.mode = 0 then .error 1 else s.imgCheck s.sec.nor.image 4194304) = r) :
    exec (.bootSequence true) s = .next (match r with
      | .error c => ({ s.spiSet with sec := { s.spiSet.sec with cause := c, source := 3 } } : State).enterPhase .recovery
      | .ok k => s.spiSet.runImage s.sec.nor.image k 0) := by
  refine congrArg Host.Outcome.next ((if_neg (by simp [hst, hh])).trans ((if_neg (by simp)).trans ?_))
  have hr' : (if s.sec.nor.mode = 0 then .error 1 else s.spiSet.imgCheck s.sec.nor.image 4194304) = r := hr
  show (match (if s.sec.nor.mode = 0 then .error 1 else s.spiSet.imgCheck s.sec.nor.image 4194304 : Except Nat Nat) with
    | .error c => _ | .ok k => _) = _
  rw [hr']
  cases r <;> rfl

end

/-! ### The recovery mailbox (15 R544 to R547) -/

section
variable {s : State} {src : Src} {p : Nat}

theorem pageOn_recovery (hst : s.start = .recovery) (h : s.pageOn src p = true) : p = 0 ∨ p = 1 ∨ p = 0x70 := by
  unfold State.pageOn at h
  simp only [hst, ne_eq, not_true_eq_false, decide_false, Bool.false_or, Bool.and_eq_true, Bool.or_eq_true, decide_eq_true_eq] at h
  obtain ⟨⟨_, hp⟩, _⟩ := h
  omega

@[simp] theorem rcvMode_sec (m : Nat) : (s.rcvMode m).sec = s.sec := rfl

theorem rcvMode_rcvAddr (m : Nat) : (s.rcvMode m).rcvAddr = s.rcvAddr := by
  have h : ∀ o, o ≠ 0x120 → (s.rcvMode m).reg (pg secPage + o) = s.reg (pg secPage + o) := fun o ho => reg_setReg_ne _ _ (by omega)
  unfold State.rcvAddr
  rw [h 0x128 (by decide), h 0x12C (by decide), h 0x130 (by decide)]

theorem recoveryLoad_runs (hon : s.pageOn src 0x70 = true) : exec (.recoveryLoad src) s = .next ((s.rcvMode 0).rcvGo src) :=
  congrArg Host.Outcome.next (if_neg (by simp [secPage, hon]))

theorem rcvGo_denied (h : s.start ≠ .recovery ∨ s.sec.load.isSome = true ∨ src = .mctp) : s.rcvGo src = s.secDeny := by
  cases src with
  | mctp => rfl
  | port p => exact if_pos (h.imp_right (fun h => h.resolve_right (by simp)))

theorem rcvGo_length (hst : s.start = .recovery) (hl : s.sec.load = none) (h : loadLenOk s.rcvAddr.2 = false) :
    s.rcvGo (.port p) = s.rcvFail p 9 := (if_neg (by simp [hst, hl])).trans (if_pos (by simp [h]))

theorem rcvGo_starts (hst : s.start = .recovery) (hl : s.sec.load = none) (h : loadLenOk s.rcvAddr.2 = true) :
    s.rcvGo (.port p) = s.startLoad p false := (if_neg (by simp [hst, hl])).trans (if_neg (by simp [h]))

/-- The load that a GO starts: its image is what is read then. -/
def State.loadOf (s : State) (p : Nat) (update : Bool) : Load :=
  { port := p, update := update, writeBack := bit (s.reg (pg secPage + 0x120)) 1, image := s.hostRead p s.rcvAddr.1 s.rcvAddr.2 }

theorem startLoad_sec (s : State) (p : Nat) (update : Bool) : (s.startLoad p update).sec =
    { s.sec with load := some (s.loadOf p update), rcvState := 1, rcvOwner := p, rcvCause := 0 } := rfl

theorem rcvMode_image (m : Nat) (update : Bool) : ((s.rcvMode m).loadOf p update).image = s.hostRead p s.rcvAddr.1 s.rcvAddr.2 := by
  rw [State.loadOf, rcvMode_rcvAddr]; rfl

/-- The state once a recovery load has passed its checks: WRITE_BACK puts the image into the flash. -/
def State.loadTaken (s : State) (l : Load) (img : List Byte) : State :=
  { s with sec := { s.sec with nor := if l.writeBack then { s.sec.nor with image := img } else s.sec.nor, load := none, rcvState := 2,
                               rcvCause := 0 } }

/-- What the end of a recovery load does with an image that was read. -/
def State.loadChecked (s : State) (l : Load) (img : List Byte) : State :=
  match s.imgCheck img img.length with
  | .error c => s.rcvFail l.port c
  | .ok k =>
    if l.writeBack ∧ (s.sec.nor.broken ∨ s.sec.nor.mode = 0) then (s.spoil img.length).rcvFail l.port 10
    else (s.loadTaken l img).runImage img k (1 + l.port)

section
variable {l : Load} {img : List Byte} {k : Nat}

theorem recoveryLoadDone_unread (hl : s.sec.load = some l) (hu : l.update = false) (hst : s.start = .recovery) (hi : l.image = none) :
    exec .recoveryLoadDone s = .next (s.rcvFail l.port 8) := by
  show execRecoveryLoadDone s = _
  unfold execRecoveryLoadDone
  rw [hl]
  dsimp only
  rw [if_neg (by simp [hu, hst]), hi]

theorem recoveryLoadDone_read (hl : s.sec.load = some l) (hu : l.update = false) (hst : s.start = .recovery) (hi : l.image = some img) :
    exec .recoveryLoadDone s = .next (s.loadChecked l img) := by
  show execRecoveryLoadDone s = _
  unfold execRecoveryLoadDone
  rw [hl]
  dsimp only
  rw [if_neg (by simp [hu, hst]), hi]
  rfl

theorem loadChecked_fails {c : Nat} (h : s.imgCheck img img.length = .error c) : s.loadChecked l img = s.rcvFail l.port c := by
  delta State.loadChecked
  rw [h]

theorem loadChecked_broken (h : s.imgCheck img img.length = .ok k) (hw : l.writeBack = true) (hb : s.sec.nor.broken = true) :
    s.loadChecked l img = (s.spoil img.length).rcvFail l.port 10 := by
  delta State.loadChecked
  rw [h]
  exact if_pos ⟨hw, .inl hb⟩

theorem loadChecked_runs (h : s.imgCheck img img.length = .ok k)
    (hw : l.writeBack = false ∨ s.sec.nor.broken = false ∧ s.sec.nor.mode ≠ 0) : s.loadChecked l img = (s.loadTaken l img).runImage img k (1 + l.port) := by
  delta State.loadChecked
  rw [h]
  refine if_neg ?_
  rintro ⟨hw', hb⟩
  rcases hw with hw | ⟨hbr, hm⟩
  · rw [hw] at hw'; cases hw'
  · rcases hb with hb | hb
    · rw [hbr] at hb; cases hb
    · exact hm hb

end

end

/-- Settles O46. -/
theorem bootChecksTheImage : Obligations.BootChecksTheImage := by
  refine ⟨fun s img n => ⟨imgCheck_header, fun h => ⟨imgCheck_noKey h, fun k hk => ?_⟩⟩,
    fun s kat => ⟨bootSequence_idle kat, fun hst hh => ⟨?_, fun c hc => ?_, fun k hm hk => ?_⟩⟩,
    fun s src p => pageOn_recovery, fun s src hon => ⟨fun h => ?_, fun p hsrc hst hl => ?_⟩,
    fun s l hl hu hst => ⟨recoveryLoadDone_unread hl hu hst, fun img hi => ?_⟩⟩
  · obtain ⟨hrev, hlt⟩ := slotOf_spec hk
    refine ⟨hrev, hlt, ?_⟩
    rintro v rfl
    rw [imgCheck_key h hk]
    refine ⟨fun hv => if_pos (by simpa [sigBytes] using hv), fun hv => ?_⟩
    rw [if_neg (by simpa [sigBytes] using hv)]
    refine ⟨fun hsvn => if_pos hsvn, fun hsvn => ?_⟩
    rw [if_neg (by omega)]
    by_cases hp : imgFld img 1 16 16 = 0x7A07 ∧ imgFld img 1 8 8 ≤ Config.siliconRev
    · rw [if_pos hp, if_neg (by omega)]
    · rw [if_neg hp, if_pos (by omega)]
  · exact ⟨_, bootSequence_katFails hst hh, rfl, rfl, fun k => bootSequence_idle k (.inr rfl)⟩
  · have hr : (if s.sec.nor.mode = 0 then .error 1 else s.imgCheck s.sec.nor.image 4194304) = (.error c : Except Nat Nat) := by
      rcases hc with ⟨h0, rfl⟩ | ⟨h0, hc⟩
      · exact if_pos h0
      · rw [if_neg h0, hc]
    refine ⟨_, bootSequence_checks hst hh hr, ?_⟩
    dsimp only
    rw [enterPhase_start, enterPhase_sec]
    exact ⟨rfl, rfl, rfl, rfl, rfl⟩
  · have hr : (if s.sec.nor.mode = 0 then .error 1 else s.imgCheck s.sec.nor.image 4194304) = (.ok k : Except Nat Nat) := by
      rw [if_neg hm, hk]
    refine ⟨_, bootSequence_checks hst hh hr, ?_⟩
    dsimp only
    rw [runImage_start, runImage_sec]
    obtain ⟨hsource, hcause, hslot, hmeas, hfuse, _, _⟩ := imageRun_spec s.spiSet s.sec.nor.image k 0
    refine ⟨rfl, hcause, hsource, hslot, hmeas, by rw [hmeas, length_measurements], hfuse, fun hl => imageRun_decommissioned hl, fun hl => ?_⟩
    rw [hmeas]
    exact imageRun_identified hl
  · exact (recoveryLoad_runs hon).trans (congrArg _ (rcvGo_denied (s := s.rcvMode 0) h))
  · subst hsrc
    refine ⟨fun hlen => ?_, fun hlen => ⟨_, (s.rcvMode 0).loadOf p false, recoveryLoad_runs hon, ?_⟩⟩
    · exact (recoveryLoad_runs hon).trans (congrArg _ (rcvGo_length (s := s.rcvMode 0) hst hl (by rw [rcvMode_rcvAddr]; exact hlen)))
    · rw [rcvGo_starts (s := s.rcvMode 0) hst hl (by rw [rcvMode_rcvAddr]; exact hlen), startLoad_sec]
      exact ⟨rfl, rfl, rfl, rcvMode_image 0 false, rfl⟩
  · refine ⟨fun c hc => by rw [recoveryLoadDone_read hl hu hst hi, loadChecked_fails hc], fun k hk => ⟨fun hw hb => ?_, fun hw => ?_, fun hw hb hm => ?_⟩⟩
    · rw [recoveryLoadDone_read hl hu hst hi, loadChecked_broken hk hw hb]
      exact ⟨_, rfl, rfl, rfl, rfl, rfl⟩
    · rw [recoveryLoadDone_read hl hu hst hi, loadChecked_runs hk (.inl hw)]
      refine ⟨_, rfl, runImage_start _ _ _ _, ?_⟩
      rw [runImage_sec]
      obtain ⟨hsource, _, _, _, _, hnor, hrcv⟩ := imageRun_spec (s.loadTaken l img) img k (1 + l.port)
      exact ⟨hsource, by rw [hnor]; exact if_neg (by simp [hw]), hrcv⟩
    · rw [recoveryLoadDone_read hl hu hst hi, loadChecked_runs hk (.inr ⟨hb, hm⟩)]
      refine ⟨_, rfl, runImage_start _ _ _ _, ?_⟩
      rw [runImage_sec]
      obtain ⟨_, _, _, _, _, hnor, _⟩ := imageRun_spec (s.loadTaken l img) img k (1 + l.port)
      rw [hnor]
      exact if_pos hw

end Sys2Proof.Machine


/-! Updates and fuse commands (15 R534, R542, R548, R549). -/

namespace Sys2Proof.Machine

/-! ### The update mailbox (15 R548, R549) -/

section
variable {s : State} {src : Src} {p : Nat}

theorem mailboxUpdate_runs (hon : s.pageOn src 0x70 = true) : exec (.mailboxUpdate src) s = .next ((s.rcvMode 1).updGo src) :=
  congrArg Host.Outcome.next (if_neg (by simp [secPage, hon]))

theorem fmRoute_rcvMode (m : Nat) : (s.rcvMode m).fmRoute src = s.fmRoute src := by
  unfold State.fmRoute
  cases src with
  | mctp => rfl
  | port p =>
    dsimp only
    rw [show (s.rcvMode m).reg (pg 0x6C + 0x104) = s.reg (pg 0x6C + 0x104) from reg_setReg_ne _ _ (by decide)]

theorem updGo_denied (h : (∀ p, src ≠ .port p) ∨ s.fmRoute src = false ∨ s.sec.load.isSome = true ∨ s.reached .memory = false) :
    s.updGo src = s.secDeny := by
  cases src with
  | mctp => rfl
  | port p => exact if_pos ((h.resolve_left (fun h => h p rfl)).imp (fun h => by simp [h]) (.imp_right (fun h => by simp [h])))

section
variable (hfm : s.fmRoute (.port p) = true) (hl : s.sec.load = none) (hr : s.reached .memory = true)
include hfm hl hr

theorem updGo_busy (hu : s.updating = true) : s.updGo (.port p) = (s.rcvFail p 11).bump (pg secPage + 0x188) :=
  (if_neg (by simp [hfm, hl, hr])).trans (if_pos hu)

theorem updGo_starts (hu : s.updating = false) (hlen : loadLenOk s.rcvAddr.2 = true) : s.updGo (.port p) =
    ({ s with sec := { s.sec with updState := 1, updSource := 1, updCause := 0 } } : State).startLoad p true :=
  (if_neg (by simp [hfm, hl, hr])).trans ((if_neg (by simp [hu])).trans (if_neg (by
    show ¬ (!loadLenOk s.rcvAddr.2) = true
    simp [hlen])))

end

/-! ### PLDM and the staged image (15 R549) -/

theorem pldmUpdate_busy {img : List Byte} (hon : s.mctpOn = true) (hu : s.updating = true) :
    exec (.pldmUpdate img) s = .next ((s.bump (pg 0x70 + 0x188)).send (.mctp 1 [0x81])) :=
  congrArg Host.Outcome.next ((if_neg (by simp [hon])).trans (if_pos hu))

theorem pldmUpdate_starts {img : List Byte} (hon : s.mctpOn = true) (hu : s.updating = false) : exec (.pldmUpdate img) s =
    .next (({ s with sec := { s.sec with updState := 1, updSource := 0, updCause := 0, updImage := img } } : State).send (.mctp 1 [0x00])) :=
  congrArg Host.Outcome.next ((if_neg (by simp [hon])).trans (if_neg (by simp [hu])))

/-- The mailbox's report of an update that ends keeps everything but the load and its status. -/
theorem rcvEnd_eq (s : State) (c : Nat) : s.rcvEnd c = { s with sec := { s.sec with
    load := (s.rcvEnd c).sec.load, rcvState := (s.rcvEnd c).sec.rcvState, rcvOwner := (s.rcvEnd c).sec.rcvOwner,
    rcvCause := (s.rcvEnd c).sec.rcvCause } } := by
  unfold State.rcvEnd
  split
  · rfl
  · split <;> rfl

theorem rcvEnd_start (s : State) (c : Nat) : (s.rcvEnd c).start = s.start := by rw [rcvEnd_eq]

/-- A failed update names its cause and leaves the flash alone. -/
theorem updFail_rcvEnd (s : State) (c d : Nat) : ((s.rcvEnd d).updFail c).sec.updState = 5 ∧ ((s.rcvEnd d).updFail c).sec.updCause = c ∧
    ((s.rcvEnd d).updFail c).sec.nor = s.sec.nor ∧ ((s.rcvEnd d).updFail c).start = s.start := by
  have hnor : (s.rcvEnd d).sec.nor = s.sec.nor := by rw [rcvEnd_eq]
  unfold State.updFail
  rw [State.raise_sec, State.raise_start]
  exact ⟨rfl, rfl, hnor, rcvEnd_start s d⟩

/-- An image that is installed: it is in the flash, and the update is done. -/
def State.installed (s : State) (img : List Byte) : State :=
  { s with sec := { s.sec with nor := { s.sec.nor with image := img }, updState := 4, updCause := 0, updImage := [] } }

theorem installed_spec (s : State) (img : List Byte) : (((s.rcvEnd 0).installed img).raise secPage 1).sec.updState = 4 ∧
    (((s.rcvEnd 0).installed img).raise secPage 1).sec.nor = { s.sec.nor with image := img } ∧
    (((s.rcvEnd 0).installed img).raise secPage 1).sec.meas = s.sec.meas ∧
    (((s.rcvEnd 0).installed img).raise secPage 1).sec.keySlot = s.sec.keySlot ∧
    (((s.rcvEnd 0).installed img).raise secPage 1).start = s.start ∧
    (((s.rcvEnd 0).installed img).raise secPage 1).sec.fuse = s.sec.fuse := by
  have hsec : (s.rcvEnd 0).sec.nor = s.sec.nor ∧ (s.rcvEnd 0).sec.meas = s.sec.meas ∧ (s.rcvEnd 0).sec.keySlot = s.sec.keySlot ∧
      (s.rcvEnd 0).sec.fuse = s.sec.fuse := by rw [rcvEnd_eq]; exact ⟨rfl, rfl, rfl, rfl⟩
  obtain ⟨hnor, hmeas, hkey, hfuse⟩ := hsec
  rw [State.raise_sec, State.raise_start]
  refine ⟨rfl, ?_, hmeas, hkey, rcvEnd_start s 0, hfuse⟩
  rw [← hnor]; rfl

theorem imageStaged_idle (h : s.sec.updState ≠ 1) : exec .imageStaged s = .next s := congrArg Host.Outcome.next (if_pos h)

theorem imageStaged_unread (h : s.sec.updState = 1) (hb : s.updBytes = none) :
    exec .imageStaged s = .next ((s.rcvEnd 8).updFail 8) := by
  refine congrArg Host.Outcome.next ((if_neg (by simp [h])).trans ?_)
  rw [hb]

theorem imageStaged_fails {img : List Byte} {c : Nat} (h : s.sec.updState = 1) (hb : s.updBytes = some img)
    (hc : s.imgCheck img img.length = .error c) : exec .imageStaged s = .next ((s.rcvEnd c).updFail c) := by
  refine congrArg Host.Outcome.next ((if_neg (by simp [h])).trans ?_)
  rw [hb]
  dsimp only
  rw [hc]

theorem imageStaged_installs {img : List Byte} {k : Nat} (h : s.sec.updState = 1) (hb : s.updBytes = some img)
    (hk : s.imgCheck img img.length = .ok k) (hbr : s.sec.nor.broken = false) (hm : s.sec.nor.mode ≠ 0) :
    exec .imageStaged s = .next (((s.rcvEnd 0).installed img).raise secPage 1) := by
  refine congrArg Host.Outcome.next ((if_neg (by simp [h])).trans ?_)
  rw [hb]
  dsimp only
  rw [hk]
  exact if_neg (by simp [hbr, hm])

/-! ### Fuse commands (15 R542) -/

theorem fuseStart_denied {cmd k : Nat} (h : s.fmRoute src = false) : s.fuseStart src cmd k = s.count 0x70 0x18C 0 := if_pos (by simp [h])

theorem fuseStart_begins {cmd k : Nat} (h : s.fmRoute src = true) (hn : s.sec.fuseCmd = none) :
    s.fuseStart src cmd k = { s with sec := { s.sec with fuseCmd := some (cmd, k % 4, s.clk) } } :=
  (if_neg (by simp [h])).trans (if_neg (by simp [hn]))

theorem fuseCommand_runs (k : Nat) (hon : s.pageOn src 0x70 = true) : exec (.svnCommit src) s = .next (s.fuseStart src 1 0) ∧
    exec (.revoke src k) s = .next (s.fuseStart src 2 k) :=
  ⟨congrArg Host.Outcome.next (if_neg (by simp [secPage, hon])), congrArg Host.Outcome.next (if_neg (by simp [secPage, hon]))⟩

end

theorem burnt_commit (s : State) (k : Nat) : s.burnt 1 k =
    { s.sec with fuseCmd := none, fuse := { s.sec.fuse with svn := max s.sec.fuse.svn s.sec.imageSvn }, fuseResult := 0 } := if_pos rfl

theorem burnt_refused {s : State} {k : Nat} (h : s.revokeRefused k = true) :
    s.burnt 2 k = { s.sec with fuseCmd := none, fuseResult := 1 } := (if_neg (by decide)).trans (if_pos h)

theorem burnt_revoked {s : State} {k : Nat} (h : s.revokeRefused k = false) : s.burnt 2 k =
    { s.sec with fuseCmd := none, fuse := { s.sec.fuse with revoked := s.sec.fuse.revoked ||| 2 ^ k }, fuseResult := 0 } :=
  (if_neg (by decide)).trans (if_neg (by simp [h]))

theorem burnt_fuseCmd (s : State) (cmd k : Nat) : (s.burnt cmd k).fuseCmd = none := by
  unfold State.burnt
  split_ifs <;> rfl

/-- A REVOKE that is not refused names another slot than the running key's, and another slot stays. -/
theorem revokeRefused_false {s : State} {k : Nat} (h : s.revokeRefused k = false) : (s.sec.source ≠ 3 → s.sec.keySlot ≠ k) ∧
    ∃ j, j < 4 ∧ j ≠ k ∧ (s.sec.fuse.keys.getD j none).isSome = true ∧ s.sec.fuse.revoked.testBit j = false := by
  unfold State.revokeRefused at h
  simp only [Bool.or_eq_false_iff, Bool.and_eq_false_iff, decide_eq_false_iff_not, Bool.not_eq_false', List.any_eq_true, List.mem_range,
    Bool.and_eq_true, decide_eq_true_eq, Bool.not_eq_true'] at h
  obtain ⟨hrun, j, hj, ⟨hne, hsome⟩, hrev⟩ := h
  exact ⟨fun hs => hrun.resolve_left (fun hn => hn hs), j, hj, hne, hsome, hrev⟩

/-- Settles O47. -/
theorem updatesAndFuseCommands : Obligations.UpdatesAndFuseCommands := by
  refine ⟨fun s src hon w hw => ⟨fun h => ?_, fun p hsrc hfm hl hr => ?_⟩,
    fun s img hon => ⟨pldmUpdate_busy hon, fun hu => ⟨_, pldmUpdate_starts hon hu, rfl, rfl, rfl⟩⟩,
    fun s => ⟨imageStaged_idle, fun h => ⟨fun hb => ?_, fun img hb => ⟨fun c hc => ?_, fun k hk hbr hm =>
      ⟨_, imageStaged_installs h hb hk hbr hm, installed_spec s img⟩⟩⟩⟩,
    fun s m hon => ⟨_, Config.freeByte (s.free + 0), Config.freeByte (s.free + 1), congrArg Host.Outcome.next (if_neg (by simp [hon])), rfl, rfl, rfl⟩,
    fun s src k hon => ?_, fun s t cmd k a hcmd => ⟨_, fuseDone_burns hcmd t, ?_⟩, fun s t => fun h => fuseDone_idle h t⟩
  · subst hw
    exact (mailboxUpdate_runs hon).trans (congrArg _ (updGo_denied (s := s.rcvMode 1) (h.imp_right (.imp_left (fun h => by
      rw [fmRoute_rcvMode]; exact h)))))
  · subst hw hsrc
    have hfm' : (s.rcvMode 1).fmRoute (.port p) = true := by rw [fmRoute_rcvMode]; exact hfm
    rw [mailboxUpdate_runs hon]
    refine ⟨fun hu => congrArg _ (updGo_busy (s := s.rcvMode 1) hfm' hl hr hu), fun hu hlen =>
      ⟨_, (s.rcvMode 1).loadOf p true, rfl, ?_⟩⟩
    rw [updGo_starts (s := s.rcvMode 1) hfm' hl hr hu (by rw [rcvMode_rcvAddr]; exact hlen), startLoad_sec]
    exact ⟨rfl, rfl, rcvMode_image 1 true, rfl, rfl, rfl⟩
  · obtain ⟨hst, hcause, hnor, _⟩ := updFail_rcvEnd s 8 8
    exact ⟨_, imageStaged_unread h hb, hst, hcause, hnor⟩
  · exact ⟨_, imageStaged_fails h hb hc, updFail_rcvEnd s c c⟩
  · obtain ⟨hsvn, hrev⟩ := fuseCommand_runs k hon
    rw [hsvn, hrev]
    exact ⟨fun h => ⟨congrArg _ (fuseStart_denied h), congrArg _ (fuseStart_denied h)⟩,
      fun h hn => ⟨congrArg _ (fuseStart_begins h hn), congrArg _ (fuseStart_begins h hn)⟩⟩
  · rw [State.raise_sec]
    refine ⟨burnt_fuseCmd s cmd k, fuseKeeps_burnt s cmd k, ?_, ?_⟩
    · rintro rfl
      exact ⟨congrArg Sec.fuse (burnt_commit s k), congrArg Sec.fuseResult (burnt_commit s k)⟩
    · rintro rfl
      refine ⟨fun h => ⟨(congrArg Sec.fuse (burnt_refused h)).trans rfl, congrArg Sec.fuseResult (burnt_refused h)⟩, fun h => ?_⟩
      obtain ⟨hrun, j, hj, hne, hsome, hclear⟩ := revokeRefused_false h
      have hfuse : (s.burnt 2 k).fuse.revoked = s.sec.fuse.revoked ||| 2 ^ k := by rw [burnt_revoked h]
      refine ⟨?_, congrArg Sec.fuseResult (burnt_revoked h), congrArg (fun x => x.fuse.svn) (burnt_revoked h), hrun, j, hj, hne, hsome, ?_⟩
      · show (s.burnt 2 k).fuse.revoked.testBit k = true
        rw [hfuse, Nat.testBit_or, Nat.testBit_two_pow_self, Bool.or_true]
      · show (s.burnt 2 k).fuse.revoked.testBit j = false
        rw [hfuse, Nat.testBit_or, hclear, Nat.testBit_two_pow_of_ne (Ne.symm hne)]; rfl

end Sys2Proof.Machine


/-! The SPDM responder (15 R543, R554 to R558). -/

namespace Sys2Proof.Machine

/-! ### Transports and replies -/

section
variable {s : State} {tr : Nat} {m r : List Byte}

theorem spdm_setSpdm_new (s : State) {v : Spdm} (h : v ≠ Spdm.none) : (s.setSpdm tr v).spdm tr = v := sget_sset_new tr h

theorem Spdm.ne_none_of_stage {v : Spdm} (h : v.stage ≠ 0) : v ≠ Spdm.none := by rintro rfl; exact h rfl

theorem spdmSize_ge (tr : Nat) : 1024 ≤ spdmSize tr := by unfold spdmSize; split <;> decide

theorem spdmReply_short (s : State) (h : m.length ≤ 1024) : s.spdmReply tr m = s.spdmSend tr m := if_pos (h.trans (spdmSize_ge tr))

theorem spdmReply_signs (s : State) (tr : Nat) (m : List Byte) : (s.spdmReply tr m).sec.signs = s.sec.signs := by
  unfold State.spdmReply
  split <;> rfl

/-! ### A request and its answer (15 R555) -/

/-- The state in which a request is answered: it is counted. -/
def State.asked (s : State) : State := s.bump (pg secPage + 0x180)

theorem spdmRow_off {ok : Bool} (h : s.spdmOn tr = false) : s.spdmRow tr m ok = s := if_pos (by simp [h])

theorem spdmRow_now {ok : Bool} {t : State} (hon : s.spdmOn tr = true) (hok : ok = true) (ha : s.asked.spdmAnswer tr m = (t, .now r)) :
    s.spdmRow tr m ok = t.spdmReply tr r := by
  rw [State.asked] at ha
  unfold State.spdmRow State.spdmResponse
  rw [if_neg (by simp [hon, hok])]
  dsimp only
  rw [ha]

theorem spdmRow_sign {ok : Bool} {t u : State} (hon : s.spdmOn tr = true) (hok : ok = true)
    (ha : s.asked.spdmAnswer tr m = (t, .sign r)) (hq : t.spdmQueue tr (mb m 1) r = (u, none)) : s.spdmRow tr m ok = u := by
  rw [State.asked] at ha
  unfold State.spdmRow State.spdmResponse
  rw [if_neg (by simp [hon, hok])]
  dsimp only
  rw [ha]
  dsimp only
  rw [hq]

/-- The requests that are answered only after negotiation, by their codes. -/
def negotiatedAnswer (code : Nat) (tr : Nat) (m : List Byte) (s : State) : State × Ans :=
  if code = 0x81 then s.spdmDigests tr m
  else if code = 0x82 then s.spdmCert tr m
  else if code = 0x83 then s.spdmChallenge tr m
  else if code = 0xE0 then s.spdmMeas tr m
  else s.spdmReady tr m

theorem spdmAnswer_negotiated (h : mb m 1 ∈ [0x81, 0x82, 0x83, 0xE0, 0xFF]) :
    s.spdmAnswer tr m = s.spdmNegotiated tr m (negotiatedAnswer (mb m 1) tr m) := by
  simp only [List.mem_cons, List.not_mem_nil, or_false] at h
  unfold State.spdmAnswer negotiatedAnswer
  rcases h with h | h | h | h | h <;> simp [h]

theorem spdmAnswer_version (h : mb m 1 = 0x84) : s.spdmAnswer tr m = s.spdmVersion tr m := if_pos h

theorem spdmAnswer_caps (h : mb m 1 = 0xE1) : s.spdmAnswer tr m = s.spdmCaps tr m := by simp [State.spdmAnswer, h]

theorem spdmAnswer_algs (h : mb m 1 = 0xE3) : s.spdmAnswer tr m = s.spdmAlgs tr m := by simp [State.spdmAnswer, h]

theorem spdmAnswer_unknown (h : mb m 1 ∉ spdmCodes) : s.spdmAnswer tr m = (s, .now ((s.spdm tr).unsupported m)) := by
  simp only [spdmCodes, List.mem_cons, List.not_mem_nil, or_false, not_or] at h
  simp [State.spdmAnswer, h]

/-- A negotiated request, in each state of its transport. -/
theorem spdmNegotiated_cases (f : State → State × Ans) :
    (s.sec.fuse.life = 2 → s.spdmNegotiated tr m f = (s, .now ((s.spdm tr).unsupported m))) ∧
    (s.sec.fuse.life ≠ 2 → (s.spdm tr).stage < 3 → s.spdmNegotiated tr m f = (s, .now ((s.spdm tr).error 0x04 0 []))) ∧
    (s.sec.fuse.life ≠ 2 → 3 ≤ (s.spdm tr).stage → mb m 0 ≠ (s.spdm tr).ver →
      s.spdmNegotiated tr m f = (s, .now ((s.spdm tr).error 0x41 0 []))) ∧
    (s.sec.fuse.life ≠ 2 → 3 ≤ (s.spdm tr).stage → mb m 0 = (s.spdm tr).ver → s.spdmNegotiated tr m f = f s) := by
  refine ⟨fun h => if_pos h, fun h h3 => (if_neg h).trans (if_pos h3), fun h h3 hv => (if_neg h).trans ((if_neg (by omega)).trans (if_pos hv)),
    fun h h3 hv => (if_neg h).trans ((if_neg (by omega)).trans (if_neg (by simp [hv])))⟩

/-! ### Negotiation (15 R555, R556) -/

theorem spdmVersion_answers (h0 : mb m 0 = 0x10) (hlen : 4 ≤ m.length) : s.spdmVersion tr m =
    ((State.setSpdm { s with sec := { s.sec with signs := s.sec.signs.filter (fun x => decide (x.tr ≠ tr)) } } tr
      { Spdm.none with stage := 1, vca := m ++ [0x10, 0x04, 0, 0, 0, 2, 0x00, 0x12, 0x00, 0x13] }),
      .now [0x10, 0x04, 0, 0, 0, 2, 0x00, 0x12, 0x00, 0x13]) := (if_neg (by omega)).trans (if_neg (by simp [h0]))

theorem spdmCaps_answers (hst : (s.spdm tr).stage ≠ 0) (h0 : mb m 0 = 0x12 ∨ mb m 0 = 0x13) (hlen : 20 ≤ m.length) :
    ∃ vca r, r.length = 20 ∧ s.spdmCaps tr m = (s.setSpdm tr { s.spdm tr with stage := 2, ver := mb m 0, vca := vca }, .now r) := by
  refine ⟨_, _, ?_, (if_neg hst).trans ((if_neg (by omega)).trans (if_neg (by omega)))⟩
  simp only [List.length_append, length_leBytes, List.length_cons, List.length_nil]

theorem spdmAlgs_agrees (hst : 2 ≤ (s.spdm tr).stage) (hlen : 32 ≤ m.length) (hok : algOk m = true) :
    ∃ vca r, r.length = 40 ∧ s.spdmAlgs tr m = (s.setSpdm tr { s.spdm tr with stage := 3, vca := vca }, .now r) := by
  refine ⟨_, _, ?_, (if_neg (by omega)).trans (if_neg (by simp [hok]; omega))⟩
  simp only [List.length_append, length_leBytes, List.length_cons, List.length_nil, List.length_replicate, extAsym]

theorem spdmAlgs_disagrees (hst : 2 ≤ (s.spdm tr).stage) (hok : algOk m = false) :
    s.spdmAlgs tr m = (s, .now (s.spdm tr).invalid) := (if_neg (by omega)).trans (if_pos (.inr (by simp [hok])))

/-! ### Digests, certificates, challenges and measurements (15 R554, R555, R557) -/

theorem spdmDigests_none (h : s.sec.chain = none) : s.spdmDigests tr m =
    (s.spdmLog tr m [by8 (s.spdm tr).ver, 0x01, if (s.spdm tr).ver = 0x13 then 1 else 0, 0],
      .now [by8 (s.spdm tr).ver, 0x01, if (s.spdm tr).ver = 0x13 then 1 else 0, 0]) := by
  unfold State.spdmDigests
  dsimp only
  rw [h]

theorem spdmCert_none (h : s.sec.chain = none) : s.spdmCert tr m = (s, .now (s.spdm tr).invalid) := by
  unfold State.spdmCert
  dsimp only
  rw [h]

/-- The part of a certificate chain that a request names. -/
def certPart (c : List (List Byte)) (m : List Byte) : List Byte := ((chainBytes c).drop (mn m 4 2)).take (min (mn m 6 2) (spdmMax - 8))

/-- The CERTIFICATE response with a part of a chain. -/
def certReply (ver : Nat) (c : List (List Byte)) (m : List Byte) : List Byte :=
  [by8 ver, 0x02, 0, 0] ++ leBytes 2 (certPart c m).length
    ++ leBytes 2 (min ((chainBytes c).length - mn m 4 2 - (certPart c m).length) 0xFFFF) ++ certPart c m

theorem spdmCert_some {c : List (List Byte)} (h : s.sec.chain = some c) : s.spdmCert tr m =
    if m.length < 8 ∨ mb m 2 % 16 ≠ 0 ∨ (chainBytes c).length ≤ mn m 4 2 then (s, .now (s.spdm tr).invalid)
    else (s.spdmLog tr m (certReply (s.spdm tr).ver c m), .now (certReply (s.spdm tr).ver c m)) := by
  unfold State.spdmCert
  dsimp only
  rw [h]
  rfl

theorem spdmChallenge_signs {c : List (List Byte)} (h : s.sec.chain = some c) (hlen : 44 ≤ m.length) (h2 : mb m 2 = 0) (h3 : mb m 3 = 0) :
    ∃ r, s.spdmChallenge tr m = ((s.freeBytes 32).2.spdmLog tr m r, .sign r) := by
  have hctx : (if (s.spdm tr).ver = 0x13 then 8 else 0) ≤ 8 := by split <;> omega
  unfold State.spdmChallenge
  dsimp only
  rw [h]
  dsimp only
  rw [if_neg (by simp [h2, h3]; omega)]
  exact ⟨_, rfl⟩

/-- A signing request with none before it waits for its signature alone. -/
theorem spdmQueue_empty (code : Nat) (h : s.sec.signs = []) : ∃ x : SignReq, x.tr = tr ∧ x.code = code ∧
    s.spdmQueue tr code r = ({ s with sec := { s.sec with signs := [x] } }, none) := by
  refine ⟨⟨tr, code, r, sha3_512 (Config.spdmTranscript code ((s.spdm tr).vca ++ (s.spdm tr).log))⟩, rfl, rfl, ?_⟩
  unfold State.spdmQueue
  dsimp only
  rw [h]
  rfl

theorem spdmMeas_one {i : Nat} (h1 : 1 ≤ i) (h9 : i ≤ 9) (h3 : mb m 3 = i) (h2 : (mb m 2).testBit 0 = false) (hlen : 12 ≤ m.length) :
    ∃ tail : List Byte, tail.length ≤ 42 ∧ s.spdmMeas tr m =
      ((s.freeBytes 32).2.spdmLog tr m
          ([by8 (s.spdm tr).ver, 0x60, 0, 0, 1] ++ leBytes 3 (s.measOf i).length ++ s.measOf i ++ tail),
        .now ([by8 (s.spdm tr).ver, 0x60, 0, 0, 1] ++ leBytes 3 (s.measOf i).length ++ s.measOf i ++ tail)) := by
  have hctx : (if (s.spdm tr).ver = 0x13 then 8 else 0) ≤ 8 := by split <;> omega
  refine ⟨(s.freeBytes 32).1 ++ [0, 0] ++ (m.drop 4).take (if (s.spdm tr).ver = 0x13 then 8 else 0), ?_, ?_⟩
  · simp only [State.freeBytes, List.length_append, List.length_map, List.length_range, List.length_cons, List.length_nil, List.length_take]
    omega
  · unfold State.spdmMeas
    simp only [h2, h3, Bool.false_eq_true, if_false, false_and, or_false]
    rw [if_neg (by omega), if_neg (by omega), if_neg (by omega), if_neg (by omega)]
    simp only [List.flatMap_singleton, List.append_assoc]
    rfl

/-! ### A request that waited, chunks, and signatures (15 R555, R558) -/

theorem spdmReady_done (hl : (s.spdm tr).later = some (mb m 2, mb m 3)) (hd : (s.spdm tr).done = some r) :
    s.spdmReady tr m = (s.setSpdm tr { s.spdm tr with later := none, done := none }, .now r) := by
  unfold State.spdmReady
  dsimp only
  rw [if_neg (by simp [hl]), hd]

theorem chunkSend_runs (hon : s.spdmOn tr = true) (h1 : mb m 1 = 0x85) (hlife : s.sec.fuse.life ≠ 2) : exec (.chunkSend tr m) s =
    .next (if (s.spdm tr).stage < 2 then s.asked.spdmReply tr ((s.spdm tr).error 0x04 0 []) else s.asked.chunkTake tr m) :=
  congrArg Host.Outcome.next ((if_neg (by simp [hon, h1])).trans (if_neg hlife))

/-- What is left of a large response once a chunk of it is sent. -/
def Chunk.after (g : Chunk) (room : Nat) : Option Chunk :=
  if g.bytes.drop room = [] then none else some { g with seq := g.seq + 1, bytes := g.bytes.drop room }

theorem Chunk.after_spec {g g' : Chunk} {room : Nat} (h : g.after room = some g') : g'.seq = g.seq + 1 ∧ g'.bytes = g.bytes.drop room := by
  unfold Chunk.after at h
  split at h
  · cases h
  · injection h with h
    rw [← h]
    exact ⟨rfl, rfl⟩

section
variable (hon : s.spdmOn tr = true) (h1 : mb m 1 = 0x86) (hlife : s.sec.fuse.life ≠ 2) (hst : 2 ≤ (s.spdm tr).stage)
include hon h1 hlife hst

theorem chunkGet_none (hg : (s.spdm tr).get = none) : exec (.chunkGet tr m) s = .next (s.asked.spdmReply tr ((s.spdm tr).error 0x04 0 [])) := by
  have hg' : (s.asked.spdm tr).get = none := hg
  refine congrArg Host.Outcome.next ((if_neg (by simp [hon, h1])).trans ((if_neg hlife).trans ((if_neg (Nat.not_lt.2 hst)).trans ?_)))
  rw [State.asked] at hg'
  rw [hg']
  rfl

theorem chunkGet_some {g : Chunk} (hg : (s.spdm tr).get = some g) (hh : g.handle = mb m 3) (hn : g.seq = mn m 4 2) :
    ∃ r, exec (.chunkGet tr m) s = .next ((s.asked.setSpdm tr { s.spdm tr with
      get := g.after (spdmSize tr - (if mn m 4 2 = 0 then 16 else 12)) }).spdmSend tr r) := by
  have hg' : (s.asked.spdm tr).get = some g := hg
  rw [State.asked] at hg'
  have hst' : ¬ ((s.bump (pg secPage + 0x180)).spdm tr).stage < 2 := Nat.not_lt.2 hst
  have hlife' : ¬ (s.bump (pg secPage + 0x180)).sec.fuse.life = 2 := hlife
  show ∃ r, execChunkGet tr m s = _
  unfold execChunkGet
  dsimp only
  rw [if_neg (by simp [hon, h1]), if_neg hlife', if_neg hst', hg']
  dsimp only
  rw [if_neg (by simp [hh, hn])]
  simp only [decide_eq_true_eq, ← hn]
  exact ⟨_, rfl⟩

end

theorem signatureDone_serves {a : List Byte} {x : SignReq} {xs : List SignReq} (hs : s.sec.signs = x :: xs) (ha : s.sec.alias_ = some a) :
    ∃ u : State, exec .signatureDone s = .next u ∧ u.sec.signs = xs ∧ ((s.spdm x.tr).later = none →
      u = (State.bump { s with sec := { s.sec with signs := xs } } (pg 0x70 + 0x184)).spdmReply x.tr (x.resp ++ Config.slhSign256f a x.tbs)) := by
  show ∃ u : State, execSignatureDone s = .next u ∧ _
  simp only [execSignatureDone, hs, ha]
  cases hl : (s.spdm x.tr).later with
  | none =>
    have hl' : ((State.bump { s with sec := { s.sec with signs := xs, alias_ := some a } } (pg secPage + 0x184)).spdm x.tr).later = none := hl
    simp only [hl']
    refine ⟨_, rfl, spdmReply_signs _ _ _, fun _ => ?_⟩
    rw [← ha]; rfl
  | some y =>
    have hl' : ((State.bump { s with sec := { s.sec with signs := xs, alias_ := some a } } (pg secPage + 0x184)).spdm x.tr).later = some y := hl
    simp only [hl']
    split
    · exact ⟨_, rfl, rfl, fun h => by cases h⟩
    · exact ⟨_, rfl, spdmReply_signs _ _ _, fun h => by cases h⟩

end

/-- A request that is answered only after negotiation is sent with its code. -/
def IsNegotiated (tr : Nat) (m : List Byte) (c : Instr) : Prop :=
  (mb m 1 = 0x81 ∧ c = .getDigests tr m) ∨ (mb m 1 = 0x82 ∧ c = .getCertificate tr m) ∨ (mb m 1 = 0x83 ∧ c = .challenge tr m) ∨
    (mb m 1 = 0xE0 ∧ c = .getMeasurements tr m) ∨ (mb m 1 = 0xFF ∧ c = .respondIfReady tr m)

section
variable {tr : Nat} {m r : List Byte} {s t : State} {c : Instr}

theorem exec_negotiated (s : State) (hc : IsNegotiated tr m c) :
    mb m 1 ∈ [0x81, 0x82, 0x83, 0xE0, 0xFF] ∧ exec c s = .next (s.spdmRow tr m true) := by
  rcases hc with ⟨h, rfl⟩ | ⟨h, rfl⟩ | ⟨h, rfl⟩ | ⟨h, rfl⟩ | ⟨h, rfl⟩
  all_goals exact ⟨by simp [h], congrArg (fun b => Host.Outcome.next (s.spdmRow tr m b)) (decide_eq_true h)⟩

/-- A negotiated request of the negotiated version that is answered at once. -/
theorem negotiated_now (hlife : s.sec.fuse.life ≠ 2) (hst : 3 ≤ (s.spdm tr).stage) (hver : mb m 0 = (s.spdm tr).ver)
    (hon : s.spdmOn tr = true) (hc : IsNegotiated tr m c) (ha : negotiatedAnswer (mb m 1) tr m s.asked = (t, .now r)) :
    exec c s = .next (t.spdmReply tr r) := by
  obtain ⟨hmem, hexec⟩ := exec_negotiated s hc
  obtain ⟨_, _, _, hruns⟩ := spdmNegotiated_cases (s := s.asked) (tr := tr) (m := m) (negotiatedAnswer (mb m 1) tr m)
  rw [hexec, spdmRow_now hon rfl ((spdmAnswer_negotiated hmem).trans ((hruns hlife hst hver).trans ha))]

theorem negotiatedAnswer_digests (h : mb m 1 = 0x81) : negotiatedAnswer (mb m 1) tr m s = s.spdmDigests tr m := if_pos h

theorem negotiatedAnswer_cert (h : mb m 1 = 0x82) : negotiatedAnswer (mb m 1) tr m s = s.spdmCert tr m := by simp [negotiatedAnswer, h]

theorem negotiatedAnswer_challenge (h : mb m 1 = 0x83) : negotiatedAnswer (mb m 1) tr m s = s.spdmChallenge tr m := by
  simp [negotiatedAnswer, h]

theorem negotiatedAnswer_meas (h : mb m 1 = 0xE0) : negotiatedAnswer (mb m 1) tr m s = s.spdmMeas tr m := by simp [negotiatedAnswer, h]

theorem negotiatedAnswer_ready (h : mb m 1 = 0xFF) : negotiatedAnswer (mb m 1) tr m s = s.spdmReady tr m := by simp [negotiatedAnswer, h]

end

/-- Settles O48. -/
theorem spdmResponderAnswers : Obligations.SpdmResponderAnswers := by
  refine ⟨fun s tr m hoff c hc => ?_, fun s tr m hon v w hv hw => ⟨fun h1 h0 hlen => ?_, fun h1 hst h0 hlen => ?_, fun h1 hst hlen => ?_,
    fun c hc => ?_, fun hlife hst hver => ⟨fun h1 hch => ?_, fun h1 hch => ?_, fun c all off part hch hall hoff h1 hpart r hr => ?_,
      fun c hch h1 hlen h2 h3 hs => ?_, fun i h1 hi h9 h3 h2 hlen hmeas => ?_, fun r h1 hl hd => ?_⟩, fun h1 => ?_,
    fun h1 hlife => ⟨fun hst => ?_, fun hst => ?_⟩, fun h1 hlife hst => ⟨fun hg => ?_, fun g hg hh hn => ?_⟩⟩,
    fun s a x xs hs ha => signatureDone_serves hs ha⟩
  · have hrow : ∀ ok, s.spdmRow tr m ok = s := fun ok => spdmRow_off hoff
    simp only [List.mem_cons, List.not_mem_nil, or_false] at hc
    rcases hc with rfl | rfl | rfl | rfl | rfl | rfl | rfl | rfl | rfl | rfl | rfl
    iterate 9 · exact congrArg Host.Outcome.next (hrow _)
    iterate 2 · exact congrArg Host.Outcome.next (if_pos (.inl (by simp [hoff])))
  · refine ⟨_, congrArg Host.Outcome.next (spdmRow_now hon (decide_eq_true h1)
      ((spdmAnswer_version h1).trans (spdmVersion_answers h0 hlen))), ?_⟩
    rw [spdmReply_short _ (by decide)]
    exact ⟨congrArg Spdm.stage (spdm_setSpdm_new _ (Spdm.ne_none_of_stage (by simp))), rfl⟩
  · subst hv
    obtain ⟨vca, r, hrlen, hans⟩ := spdmCaps_answers (s := s.asked) hst h0 hlen
    refine ⟨_, congrArg Host.Outcome.next (spdmRow_now hon (decide_eq_true h1) ((spdmAnswer_caps h1).trans hans)), ?_⟩
    rw [spdmReply_short _ (by omega)]
    have hset := spdm_setSpdm_new s.asked (tr := tr) (v := { s.spdm tr with stage := 2, ver := mb m 0, vca := vca })
      (Spdm.ne_none_of_stage (by simp))
    exact ⟨congrArg Spdm.stage hset, congrArg Spdm.ver hset⟩
  · subst hv
    by_cases hok : algOk m = true
    · obtain ⟨vca, r, hrlen, hans⟩ := spdmAlgs_agrees (s := s.asked) hst hlen hok
      refine ⟨_, congrArg Host.Outcome.next (spdmRow_now hon (decide_eq_true h1) ((spdmAnswer_algs h1).trans hans)), ?_⟩
      rw [spdmReply_short _ (by omega), if_pos hok]
      exact congrArg Spdm.stage (spdm_setSpdm_new s.asked (tr := tr) (v := { s.spdm tr with stage := 3, vca := vca })
        (Spdm.ne_none_of_stage (by simp)))
    · have hans := spdmAlgs_disagrees (s := s.asked) (tr := tr) (m := m) hst (by simpa using hok)
      refine ⟨_, congrArg Host.Outcome.next (spdmRow_now hon (decide_eq_true h1) ((spdmAnswer_algs h1).trans hans)), ?_⟩
      rw [spdmReply_short _ (by simp [Spdm.invalid, Spdm.error]), if_neg hok]
      rfl
  · subst hv hw
    obtain ⟨hmem, hexec⟩ := exec_negotiated s hc
    obtain ⟨hdecom, hearly, hver, _⟩ := spdmNegotiated_cases (s := s.asked) (tr := tr) (m := m) (negotiatedAnswer (mb m 1) tr m)
    rw [hexec]
    exact ⟨fun h => congrArg _ (spdmRow_now hon rfl ((spdmAnswer_negotiated hmem).trans (hdecom h))),
      fun h h3 => congrArg _ (spdmRow_now hon rfl ((spdmAnswer_negotiated hmem).trans (hearly h h3))),
      fun h h3 h0 => congrArg _ (spdmRow_now hon rfl ((spdmAnswer_negotiated hmem).trans (hver h h3 h0)))⟩
  · subst hv hw
    exact negotiated_now hlife hst hver hon (.inl ⟨h1, rfl⟩) ((negotiatedAnswer_digests h1).trans (spdmDigests_none hch))
  · subst hv hw
    exact negotiated_now hlife hst hver hon (.inr (.inl ⟨h1, rfl⟩)) ((negotiatedAnswer_cert h1).trans (spdmCert_none hch))
  · subst hv hw hall hoff hpart hr
    have hans := (negotiatedAnswer_cert (s := s.asked) (tr := tr) h1).trans (spdmCert_some hch)
    refine ⟨fun h8 h2 hin => negotiated_now hlife hst hver hon (.inr (.inl ⟨h1, rfl⟩)) (hans.trans (if_neg (by omega))), fun hbad =>
      negotiated_now hlife hst hver hon (.inr (.inl ⟨h1, rfl⟩)) (hans.trans (if_pos hbad))⟩
  · subst hv hw
    obtain ⟨r, hr⟩ := spdmChallenge_signs (s := s.asked) (tr := tr) hch hlen h2 h3
    obtain ⟨x, hx, hcode, hq⟩ := spdmQueue_empty (s := (s.asked.freeBytes 32).2.spdmLog tr m r) (tr := tr) (r := r) (mb m 1) hs
    obtain ⟨hmem, hexec⟩ := exec_negotiated (tr := tr) s (.inr (.inr (.inl ⟨h1, rfl⟩)))
    obtain ⟨_, _, _, hruns⟩ := spdmNegotiated_cases (s := s.asked) (tr := tr) (m := m) (negotiatedAnswer (mb m 1) tr m)
    refine ⟨_, x, hexec.trans (congrArg _ (spdmRow_sign hon rfl ((spdmAnswer_negotiated hmem).trans
      ((hruns hlife hst hver).trans ((negotiatedAnswer_challenge h1).trans hr))) hq)), rfl, hx, hcode.trans h1, rfl⟩
  · subst hv hw
    obtain ⟨tail, htail, hans⟩ := spdmMeas_one (s := s.asked) (tr := tr) hi h9 h3 h2 hlen
    refine ⟨_, tail, negotiated_now hlife hst hver hon (.inr (.inr (.inr (.inl ⟨h1, rfl⟩)))) ((negotiatedAnswer_meas h1).trans hans), ?_⟩
    have hmeas' : (s.asked.measOf i).length ≤ 900 := hmeas
    rw [spdmReply_short _ (by simp only [List.length_append, length_leBytes, List.length_cons, List.length_nil]; omega)]
    rfl
  · subst hv hw
    exact negotiated_now hlife hst hver hon (.inr (.inr (.inr (.inr ⟨h1, rfl⟩)))) ((negotiatedAnswer_ready h1).trans (spdmReady_done hl hd))
  · subst hv hw
    exact congrArg Host.Outcome.next (spdmRow_now hon (by simpa using h1) (spdmAnswer_unknown h1))
  · subst hv hw
    rw [chunkSend_runs hon h1 hlife, if_pos hst]; rfl
  · subst hv hw
    rw [chunkSend_runs hon h1 hlife, if_neg (by omega)]; rfl
  · subst hv hw
    exact chunkGet_none hon h1 hlife hst hg
  · subst hv
    obtain ⟨r, hr⟩ := chunkGet_some hon h1 hlife hst hg hh hn
    refine ⟨_, hr, fun g' hg' => ?_⟩
    have hset := spdm_setSpdm_new s.asked (tr := tr) (v := { s.spdm tr with
      get := g.after (spdmSize tr - (if mn m 4 2 = 0 then 16 else 12)) }) (Spdm.ne_none_of_stage (by show (s.spdm tr).stage ≠ 0; omega))
    exact Chunk.after_spec ((congrArg Spdm.get hset).symm.trans hg')

end Sys2Proof.Machine


/-! Health monitors (16 R561, R562). -/

namespace Sys2Proof.Machine

section
variable {s : State} {t : Nat} {ps : List Int} {vs : List Nat}

theorem samples_idle (h : s.mctpOn = false ∨ s.hltCtrl 0 = false) : exec (.pathDelaySample t ps) s = .next (s.at_ t) ∧
    exec (.ringOscillatorSample t vs) s = .next (s.at_ t) ∧ exec (.leakageSample t vs) s = .next (s.at_ t) := by
  have hno : (!(s.at_ t).mctpOn) = true ∨ (!(s.at_ t).hltCtrl 0) = true := by
    rcases h with h | h
    · exact .inl (by show (!s.mctpOn) = true; simp [h])
    · exact .inr (by show (!s.hltCtrl 0) = true; simp [h])
  exact ⟨congrArg Host.Outcome.next (if_pos hno), congrArg Host.Outcome.next (if_pos hno), congrArg Host.Outcome.next (if_pos hno)⟩

/-- The monitors run. -/
theorem samples_on (hon : s.mctpOn = true) (hen : s.hltCtrl 0 = true) :
    ¬ ((!(s.at_ t).mctpOn) = true ∨ (!(s.at_ t).hltCtrl 0) = true) := by
  show ¬ ((!s.mctpOn) = true ∨ (!s.hltCtrl 0) = true)
  simp [hon, hen]

/-! ### Slack (16 R562) -/

/-- A state with another table of lowest slacks. -/
def State.withSlack (s : State) (l : Sparse (Option Int)) : State := { s with hlt := { s.hlt with slack := l } }

/-- The lowest reduced slack of a monitor once a sample of it is noted. -/
def State.slackAfter (s : State) (i : Nat) (p : Int) (old : Option Int) : Int :=
  match old with
  | none => s.reduced i p
  | some o => min o (s.reduced i p)

/-- The table of lowest slacks once the samples of the listed monitors are noted. -/
def State.slackTable (s : State) (ps : List Int) (l : List Nat) (tbl : Sparse (Option Int)) : Sparse (Option Int) :=
  l.foldl (fun tbl i => match ps[i]? with
    | none => tbl
    | some p => sset tbl none i (some (s.slackAfter i p (sget tbl none i)))) tbl

theorem noteSlack_fold (s : State) (ps : List Int) : ∀ (l : List Nat) (tbl : Sparse (Option Int)),
    l.foldl (fun s i =>
      match ps[i]? with
      | none => s
      | some p =>
        let x := s.reduced i p
        let y := match sget s.hlt.slack none i with
          | none => x
          | some o => min o x
        { s with hlt := { s.hlt with slack := sset s.hlt.slack none i (some y) } }) (s.withSlack tbl) =
      s.withSlack (s.slackTable ps l tbl)
  | [], _ => rfl
  | i :: l, tbl => by
    rw [List.foldl_cons, State.slackTable, List.foldl_cons]
    cases hp : ps[i]? with
    | none => exact noteSlack_fold s ps l tbl
    | some p => exact noteSlack_fold s ps l _

theorem noteSlack_eq (s : State) (ps : List Int) : s.noteSlack ps = s.withSlack (s.slackTable ps (List.range 64) s.hlt.slack) :=
  noteSlack_fold s ps (List.range 64) s.hlt.slack

theorem sget_slackTable_other (s : State) (ps : List Int) {i : Nat} : ∀ {l : List Nat} {tbl : Sparse (Option Int)},
    i ∉ l ∨ ps[i]? = none → sget (s.slackTable ps l tbl) none i = sget tbl none i
  | [], _, _ => rfl
  | j :: l, tbl, h => by
    have hl : i ∉ l ∨ ps[i]? = none := h.imp_left (fun h => fun hm => h (List.mem_cons_of_mem _ hm))
    rw [State.slackTable, List.foldl_cons]
    refine (sget_slackTable_other s ps hl).trans ?_
    cases hp : ps[j]? with
    | none => rfl
    | some p =>
      refine sget_sset_ne _ (fun e => ?_)
      rcases h with h | h
      · exact h (e ▸ List.mem_cons_self)
      · rw [e, hp] at h; cases h

theorem sget_slackTable (s : State) {ps : List Int} {i : Nat} {p : Int} (hp : ps[i]? = some p) :
    ∀ {l : List Nat} {tbl : Sparse (Option Int)}, l.Nodup → i ∈ l →
      sget (s.slackTable ps l tbl) none i = some (s.slackAfter i p (sget tbl none i))
  | [], _, _, h => absurd h List.not_mem_nil
  | j :: l, tbl, hnd, h => by
    obtain ⟨hj, hnd⟩ := List.nodup_cons.1 hnd
    rw [State.slackTable, List.foldl_cons]
    by_cases hij : i = j
    · subst hij
      rw [hp]
      exact (sget_slackTable_other s ps (.inl hj)).trans (sget_sset_new i (by simp))
    · refine (sget_slackTable s hp hnd ((List.mem_cons.1 h).resolve_left hij)).trans ?_
      cases hpj : ps[j]? with
      | none => rfl
      | some p' => dsimp only; rw [sget_sset_ne _ hij]

theorem pathDelaySample_runs (hon : s.mctpOn = true) (hen : s.hltCtrl 0 = true) : exec (.pathDelaySample t ps) s =
    .next (if s.hltCtrl 2 then ((s.at_ t).noteSlack ps).fastGuard ps else (s.at_ t).noteSlack ps) := by
  refine congrArg Host.Outcome.next ((if_neg (samples_on hon hen)).trans ?_)
  rw [noteSlack_eq]
  rfl

/-- No monitor below FAST_PS: the fast guard does nothing. -/
theorem fastGuard_calm (h : ∀ i x, i < 64 → ps[i]? = some x → (s.hltMargin 8 : Int) ≤ x) : s.fastGuard ps = s := by
  have hlow : (List.range 64).filter (s.tooFast ps) = [] := by
    refine List.filter_eq_nil_iff.2 (fun i hi => ?_)
    unfold State.tooFast
    cases hp : ps[i]? with
    | none => simp
    | some x => simpa using h i x (List.mem_range.1 hi) hp
  unfold State.fastGuard
  dsimp only
  rw [hlow]

/-! ### Oscillators, leakage and refresh margins (16 R561) -/

/-- `sampleAll` over a list of places. -/
def samplePlaces (vs : List Nat) (l : List Nat) (tbl : Sparse Nat) : Sparse Nat :=
  l.foldl (fun tbl i => match vs[i]? with
    | some v => sset tbl 0 i (v % 65536)
    | none => tbl) tbl

theorem rising_samplePlaces (vs : List Nat) : ∀ (l : List Nat) (tbl : Sparse Nat), tbl.rising → (samplePlaces vs l tbl).rising
  | [], _, h => h
  | i :: l, tbl, h => by
    rw [samplePlaces, List.foldl_cons]
    refine rising_samplePlaces vs l _ ?_
    cases hv : vs[i]? with
    | none => exact h
    | some v => exact rising_sset _ _ _ h

theorem sget_samplePlaces_other (vs : List Nat) {i : Nat} : ∀ {l : List Nat} {tbl : Sparse Nat}, i ∉ l →
    sget (samplePlaces vs l tbl) 0 i = sget tbl 0 i
  | [], _, _ => rfl
  | j :: l, tbl, h => by
    obtain ⟨hj, hl⟩ : i ≠ j ∧ i ∉ l := by simpa using h
    rw [samplePlaces, List.foldl_cons]
    refine (sget_samplePlaces_other vs hl).trans ?_
    cases hv : vs[j]? with
    | none => rfl
    | some v => exact sget_sset_ne _ hj

theorem sget_samplePlaces (vs : List Nat) {i : Nat} : ∀ {l : List Nat} {tbl : Sparse Nat}, tbl.rising → l.Nodup → i ∈ l →
    sget (samplePlaces vs l tbl) 0 i = if i < vs.length then vs.getD i 0 % 65536 else sget tbl 0 i
  | [], _, _, _, h => absurd h List.not_mem_nil
  | j :: l, tbl, hr, hnd, h => by
    obtain ⟨hj, hnd⟩ := List.nodup_cons.1 hnd
    rw [samplePlaces, List.foldl_cons]
    by_cases hij : i = j
    · subst hij
      refine (sget_samplePlaces_other vs hj).trans ?_
      by_cases hlen : i < vs.length
      · rw [List.getElem?_eq_getElem hlen, if_pos hlen]
        refine (sget_sset_self _ _ _ hr).trans ?_
        rw [List.getD_eq_getElem?_getD, List.getElem?_eq_getElem hlen]; rfl
      · rw [List.getElem?_eq_none (by omega), if_neg hlen]
    · have hi := (List.mem_cons.1 h).resolve_left hij
      cases hv : vs[j]? with
      | none => exact sget_samplePlaces vs hr hnd hi
      | some v =>
        refine (sget_samplePlaces vs (rising_sset _ _ _ hr) hnd hi).trans ?_
        rw [sget_sset_ne _ hij]

theorem sget_sampleAll {tbl : Sparse Nat} (vs : List Nat) (hr : tbl.rising) (n i : Nat) :
    sget (sampleAll tbl n vs) 0 i = if i < n ∧ i < vs.length then vs.getD i 0 % 65536 else sget tbl 0 i := by
  by_cases hi : i < n
  · refine (sget_samplePlaces vs hr List.nodup_range (List.mem_range.2 hi)).trans ?_
    by_cases hlen : i < vs.length
    · rw [if_pos hlen, if_pos ⟨hi, hlen⟩]
    · rw [if_neg hlen, if_neg (fun h => hlen h.2)]
  · rw [if_neg (fun h => hi h.1)]
    exact sget_samplePlaces_other vs (fun h => hi (List.mem_range.1 h))

/-- What the refresh-margin test asks of a memory. -/
def State.testable (s : State) (u : Nat) : Prop :=
  s.mctpOn = true ∧ s.hltCtrl 0 = true ∧ s.reached .memory = true ∧ s.slack .memory = true ∧ s.memLive u = true ∧ sget s.hlt.margin none u = none

theorem refreshMarginTest_keeps {u m : Nat} (h : s.testable u) :
    exec (.refreshMarginTest u m) s = .next { s with hlt := { s.hlt with margin := sset s.hlt.margin none u (some m) } } := by
  obtain ⟨hon, hen, hr, hsl, hlive, hnone⟩ := h
  exact congrArg Host.Outcome.next (if_neg (by simp [hon, hen, hr, hsl, hlive, hnone]))

theorem refreshMarginTest_idle {u m : Nat} (h : s.mctpOn = false ∨ s.hltCtrl 0 = false ∨ s.reached .memory = false ∨ s.slack .memory = false ∨
    s.memLive u = false ∨ (∃ x, sget s.hlt.margin none u = some x)) : exec (.refreshMarginTest u m) s = .next s := by
  refine congrArg Host.Outcome.next (if_pos ?_)
  rcases h with h | h | h | h | h | ⟨x, h⟩ <;> simp [h]

end

/-- Settles O49. -/
theorem monitorsKeepWhatTheyMeasure : Obligations.MonitorsKeepWhatTheyMeasure := by
  refine ⟨fun s t ps vs => samples_idle, fun s t ps hon hen w hw => ⟨fun h => ?_, ?_, fun i x hi hx y hy => ?_, fun i h => ?_⟩,
    fun s t vs hon hen hro hleak => ⟨⟨_, congrArg Host.Outcome.next (if_neg (samples_on hon hen)), sget_sampleAll vs hro 64⟩,
      ⟨_, congrArg Host.Outcome.next (if_neg (samples_on hon hen)), sget_sampleAll vs hleak 20⟩⟩,
    fun s u m => ⟨fun hon hen hr hsl hlive hnone => ⟨_, refreshMarginTest_keeps ⟨hon, hen, hr, hsl, hlive, hnone⟩, sget_sset_new u (by simp),
      fun k hk => sget_sset_ne _ hk⟩, refreshMarginTest_idle⟩⟩
  · subst hw
    rw [pathDelaySample_runs hon hen]
    rcases h with h | h
    · rw [if_neg (by simp [h])]
    · have hcalm : ((s.at_ t).noteSlack ps).fastGuard ps = (s.at_ t).noteSlack ps := by
        refine fastGuard_calm (fun i x hi hx => ?_)
        rw [noteSlack_eq]
        exact h i x hi hx
      rw [hcalm, ite_self]
  · exact ⟨_, hw.trans (noteSlack_eq _ _)⟩
  · subst hw hy
    rw [noteSlack_eq]
    refine (sget_slackTable (s.at_ t) hx List.nodup_range (List.mem_range.2 hi)).trans ?_
    show some ((s.at_ t).slackAfter i x (sget s.hlt.slack none i)) = _
    cases sget s.hlt.slack none i <;> rfl
  · subst hw
    rw [noteSlack_eq]
    exact sget_slackTable_other (s.at_ t) ps (h.imp_left (fun h hm => absurd (List.mem_range.1 hm) (by omega)))

end Sys2Proof.Machine


/-! The RAS log (16 R574 to R576). -/

namespace Sys2Proof.Machine

/-! ### What a new record leaves of the RAS block -/

@[simp] theorem State.aer_ras (s : State) : s.aer.ras = s.ras := by
  have hone : ∀ (w : State) (p : Nat), (if (w.port p).mode = .down then w else w.send (.aer p)).ras = w.ras := fun w p => by
    split <;> rfl
  exact (hone _ 1).trans (hone s 0)

theorem storm_ras (s : State) (page : Nat) : (s.storm page).1.ras = { s.ras with storms := (s.storm page).1.ras.storms } := by
  unfold State.storm
  dsimp only
  split <;> split
  · split
    · rfl
    · rw [State.raise_ras]; rfl
  · rfl
  · split
    · rfl
    · rw [State.raise_ras]; rfl
  · rfl

/-- What a log keeps when a record is to be appended (16 R575): all of it below 1,024 records, else all but its oldest CORRECTED one;
none when it has no such record. -/
def logRoom (l : List RasRec) : Option (List RasRec) :=
  if l.length < 1024 then some l else (l.find? (fun x => decide (x.cls = 0))).map (fun x => l.filter (fun y => decide (y.seq ≠ x.seq)))

/-- The RAS block once a record is appended, where there is room. -/
def Ras.put (v : Ras) (r : RasRec) : Ras := (logRoom v.log).elim v (fun l => { v with log := l ++ [r], next := v.next + 1 })

theorem rasWrite_lost {s : State} {r : RasRec} (h : logRoom s.ras.log = none) :
    s.rasWrite r = (s.bump (pg rasPage + 0x18C)).raise rasPage 3 := by
  unfold logRoom at h
  split at h
  · cases h
  · next hfull =>
    have hfind : s.ras.log.find? (fun x => decide (x.cls = 0)) = none := Option.map_eq_none_iff.1 h
    unfold State.rasWrite
    dsimp only
    rw [if_neg hfull, hfind]

theorem rasWrite_put {s : State} {r : RasRec} {l : List RasRec} (h : logRoom s.ras.log = some l) :
    (s.rasWrite r).ras = { s.ras with log := l ++ [r], next := s.ras.next + 1 } := by
  have hreport : ∀ w : State, (if r.cls = 1 then w.raise rasPage 0 else if r.cls = 2 then w.raise rasPage 1 else w).ras = w.ras := fun w => by
    split
    · exact State.raise_ras _ _ _
    · split
      · exact State.raise_ras _ _ _
      · rfl
  unfold logRoom at h
  unfold State.rasWrite
  dsimp only
  split at h
  · next hroom =>
    obtain rfl : s.ras.log = l := by injection h
    rw [if_pos hroom]
    dsimp only
    rw [hreport]; rfl
  · next hfull =>
    obtain ⟨x, hx, hl⟩ := Option.map_eq_some_iff.1 h
    rw [if_neg hfull, hx]
    dsimp only
    rw [hl, hreport]; rfl

theorem rasWrite_ras (s : State) (r : RasRec) : (s.rasWrite r).ras = s.ras.put r := by
  cases h : logRoom s.ras.log with
  | none => rw [rasWrite_lost h, State.raise_ras, Ras.put, h]; rfl
  | some l => rw [rasWrite_put h, Ras.put, h]; rfl

/-- The record of an error that does not merge. -/
def State.newRec (s : State) (page cause cls unit info : Nat) : RasRec :=
  { seq := s.ras.next % 2 ^ 32, cls := cls, page := page, cause := cause, count := 1, stroke := s.rasTime.1, offset := s.rasTime.2,
    unit := unit, info := info, at_ := s.clk }

/-- A record of class 1 to 3 becomes a platform event where those are on. -/
def State.platNoted (s : State) (r : RasRec) : State :=
  if r.cls ≠ 0 ∧ bit (s.cfgReg (pg rasPage + 0x100)) 1 then { s with ras := { s.ras with plat := s.ras.plat ++ [r] } } else s

theorem platNoted_ras (s : State) (r : RasRec) : (s.platNoted r).ras = { s.ras with plat := (s.platNoted r).ras.plat } := by
  unfold State.platNoted
  split <;> rfl

/-- What a class makes of a record beside the log. -/
def State.reported (w : State) (r : RasRec) : State :=
  (if r.cls = 2 then ((w.rasWrite r).cxlEvent r.cls r.seq).aer else (w.rasWrite r).cxlEvent r.cls r.seq).platNoted r

theorem reported_ras (w : State) (r : RasRec) : (w.reported r).ras = { w.ras.put r with plat := (w.reported r).ras.plat } := by
  have haer : ∀ u : State, (if r.cls = 2 then u.aer else u).ras = u.ras := fun u => by
    split
    · exact State.aer_ras u
    · rfl
  unfold State.reported
  rw [platNoted_ras, haer, State.cxlEvent_ras, rasWrite_ras]

theorem rasNew_severe {s : State} {page cause cls unit info : Nat} (h : cls ≠ 0) :
    s.rasNew page cause cls unit info = s.reported (s.newRec page cause cls unit info) := by
  unfold State.rasNew
  dsimp only
  rw [if_neg h]
  rfl

theorem rasNew_corrected {s : State} {page cause unit info : Nat} : s.rasNew page cause 0 unit info =
    if (s.storm page).2 then (s.storm page).1 else (s.storm page).1.reported (s.newRec page cause 0 unit info) := by
  unfold State.rasNew
  dsimp only
  rw [if_pos rfl]
  rfl

/-- A new record joins the log, unless a storm of its page suppresses it; storms and platform events aside nothing else changes. -/
theorem rasNew_ras (s : State) (page cause cls unit info : Nat) : ∃ st pl,
    (s.rasNew page cause cls unit info).ras = { s.ras with storms := st, plat := pl } ∧ cls = 0 ∨
    (s.rasNew page cause cls unit info).ras = { s.ras.put (s.newRec page cause cls unit info) with storms := st, plat := pl } := by
  by_cases h : cls = 0
  · subst h
    rw [rasNew_corrected]
    by_cases hgone : (s.storm page).2 = true
    · rw [if_pos hgone]
      exact ⟨_, _, .inl ⟨storm_ras s page, rfl⟩⟩
    · rw [if_neg hgone]
      refine ⟨(s.storm page).1.ras.storms, ((s.storm page).1.reported (s.newRec page cause 0 unit info)).ras.plat, .inr ?_⟩
      rw [reported_ras, storm_ras]
      unfold Ras.put
      dsimp only
      cases logRoom s.ras.log <;> rfl
  · rw [rasNew_severe h]
    refine ⟨s.ras.storms, (s.reported (s.newRec page cause cls unit info)).ras.plat, .inr ((reported_ras _ _).trans ?_)⟩
    unfold Ras.put
    cases logRoom s.ras.log <;> rfl

/-! ### An occurrence: merged or new (16 R574) -/

section
variable {s : State} {page cause cls unit info : Nat}

/-- The state once an occurrence of a class is counted. -/
def State.counted (s : State) (cls : Nat) : State := if cls < 3 then s.bump (pg rasPage + 0x180 + 4 * cls) else s

theorem counted_eq (s : State) (cls : Nat) : s.counted cls = { s with regs := (s.counted cls).regs } := by
  unfold State.counted
  split <;> rfl

theorem counted_ras (s : State) (cls : Nat) : (s.counted cls).ras = s.ras := by rw [counted_eq]

theorem counted_clk (s : State) (cls : Nat) : (s.counted cls).clk = s.clk := by rw [counted_eq]

theorem counted_newRec (s : State) (cls : Nat) : (s.counted cls).newRec page cause cls unit info = s.newRec page cause cls unit info := by
  rw [counted_eq]; rfl

/-- The newest record is of the same page, cause and unit, and its first occurrence is less than 1 ms ago. -/
def State.merges (s : State) (page cause unit : Nat) (n : RasRec) : Prop :=
  n.page = page ∧ n.cause = cause ∧ n.unit = unit ∧ s.clk < n.at_ + 1000000

theorem rasRecord_merges {n : RasRec} (hn : s.ras.log.getLast? = some n) (h : s.merges page cause unit n) :
    (s.rasRecord page cause cls unit info).ras =
      { s.ras with log := s.ras.log.dropLast ++ [{ n with count := min (n.count + 1) 255 }] } := by
  have hn' : (s.counted cls).ras.log.getLast? = some n := by rw [counted_ras]; exact hn
  have h' : n.page = page ∧ n.cause = cause ∧ n.unit = unit ∧ (s.counted cls).clk < n.at_ + 1000000 := by rw [counted_clk]; exact h
  have hras := counted_ras s cls
  unfold State.counted at hn' h' hras
  unfold State.rasRecord
  dsimp only
  rw [hn']
  dsimp only
  rw [if_pos h', State.errLog_ras, hras]

theorem rasRecord_new (h : ∀ n, s.ras.log.getLast? = some n → ¬ s.merges page cause unit n) :
    s.rasRecord page cause cls unit info = (s.counted cls).rasNew page cause cls unit info := by
  unfold State.rasRecord
  show (match (s.counted cls).ras.log.getLast? with | some n => _ | none => _) = _
  rw [counted_ras]
  cases hn : s.ras.log.getLast? with
  | none => rfl
  | some n =>
    refine if_neg (fun hm => h n hn ?_)
    have hclk := counted_clk s cls
    obtain ⟨h1, h2, h3, h4⟩ := hm
    exact ⟨h1, h2, h3, hclk ▸ h4⟩

/-- What an error makes of the RAS block: a merged record, a suppressed one, or a new one. -/
theorem rasRecord_ras (s : State) (page cause cls unit info : Nat) :
    (∃ n, s.ras.log.getLast? = some n ∧ (s.rasRecord page cause cls unit info).ras =
      { s.ras with log := s.ras.log.dropLast ++ [{ n with count := min (n.count + 1) 255 }] }) ∨
    ∃ st pl, (s.rasRecord page cause cls unit info).ras = { s.ras with storms := st, plat := pl } ∨
      (s.rasRecord page cause cls unit info).ras = { s.ras.put (s.newRec page cause cls unit info) with storms := st, plat := pl } := by
  by_cases h : ∃ n, s.ras.log.getLast? = some n ∧ s.merges page cause unit n
  · obtain ⟨n, hn, hm⟩ := h
    exact .inl ⟨n, hn, rasRecord_merges hn hm⟩
  · rw [rasRecord_new (fun n hn hm => h ⟨n, hn, hm⟩)]
    obtain ⟨st, pl, hnew⟩ := rasNew_ras (s.counted cls) page cause cls unit info
    rw [counted_ras, counted_newRec] at hnew
    exact .inr ⟨st, pl, hnew.imp_left And.left⟩

/-- Recording an error is not yet the reset that follows a FATAL one. -/
theorem fatal_rasRecord (s : State) (page cause cls unit info : Nat) : (s.rasRecord page cause cls unit info).ras.fatal = s.ras.fatal := by
  have hput : ∀ r, (s.ras.put r).fatal = s.ras.fatal := fun r => by
    unfold Ras.put
    cases logRoom s.ras.log <;> rfl
  rcases rasRecord_ras s page cause cls unit info with ⟨n, _, h⟩ | ⟨st, pl, h | h⟩
  · rw [h]
  · rw [h]
  · rw [h]
    exact hput _

end

/-! ### A full log (16 R575) -/

section
variable {l pre post : List RasRec} {x r : RasRec}

theorem logRoom_below (h : l.length < 1024) : logRoom l = some l := if_pos h

theorem logRoom_severe (hlen : 1024 ≤ l.length) (h : ∀ x ∈ l, x.cls ≠ 0) : logRoom l = none := by
  have hfind : l.find? (fun x => decide (x.cls = 0)) = none := List.find?_eq_none.2 (fun x hx => by simp [h x hx])
  rw [logRoom, if_neg (by omega), hfind]; rfl

theorem logRoom_full (hlen : 1024 ≤ l.length) (hl : l = pre ++ x :: post) (hx : x.cls = 0) (hpre : ∀ y ∈ pre, y.cls ≠ 0)
    (hseq : l.Pairwise (fun a b => a.seq ≠ b.seq)) : logRoom l = some (pre ++ post) := by
  have hfind : l.find? (fun x => decide (x.cls = 0)) = some x := by
    rw [hl, List.find?_append, List.find?_eq_none.2 (fun y hy => by simp [hpre y hy])]
    simp [hx]
  rw [hl, List.pairwise_append] at hseq
  obtain ⟨_, hpost, hcross⟩ := hseq
  have hfront : pre.filter (fun y => decide (y.seq ≠ x.seq)) = pre :=
    List.filter_eq_self.2 (fun y hy => decide_eq_true (hcross y hy x List.mem_cons_self))
  have hback : post.filter (fun y => decide (y.seq ≠ x.seq)) = post :=
    List.filter_eq_self.2 (fun y hy => decide_eq_true (Ne.symm ((List.pairwise_cons.1 hpost).1 y hy)))
  rw [logRoom, if_neg (by omega), hfind, Option.map_some, hl, List.filter_append, hfront,
    List.filter_cons_of_neg (by simp), hback]

/-- A record of class 1 to 3 is never given up. -/
theorem mem_logRoom {l' : List RasRec} (hl : logRoom l = some l') (hx : x ∈ l) (hcls : 1 ≤ x.cls)
    (hseq : l.Pairwise (fun a b => a.seq ≠ b.seq)) : x ∈ l' := by
  unfold logRoom at hl
  split at hl
  · injection hl with hl
    rwa [← hl]
  · obtain ⟨y, hy, rfl⟩ := Option.map_eq_some_iff.1 hl
    have hy0 : y.cls = 0 := of_decide_eq_true (List.find?_some (p := fun x : RasRec => decide (x.cls = 0)) hy)
    have hne : x ≠ y := fun e => by rw [e] at hcls; omega
    have hsymm : Std.Symm (fun a b : RasRec => a.seq ≠ b.seq) := ⟨fun _ _ => Ne.symm⟩
    exact List.mem_filter.2 ⟨hx, decide_eq_true (hseq.forall hx (List.mem_of_find?_eq_some hy) hne)⟩

theorem mem_put {v : Ras} (hx : x ∈ v.log) (hcls : 1 ≤ x.cls) (hseq : v.log.Pairwise (fun a b => a.seq ≠ b.seq)) : x ∈ (v.put r).log := by
  unfold Ras.put
  cases h : logRoom v.log with
  | none => exact hx
  | some l => exact List.mem_append_left _ (mem_logRoom h hx hcls hseq)

end

/-- Settles O53. -/
theorem rasLogKeepsSevereRecords : Obligations.RasLogKeepsSevereRecords := by
  refine ⟨fun s page cause cls unit info n hn h1 h2 h3 h4 => congrArg Ras.log (rasRecord_merges hn ⟨h1, h2, h3, h4⟩),
    fun s page cause cls unit info hcls hlen hno => ?_, fun s r hlen hsev => ?_, fun s r x pre post hlen hl hx hpre hseq => ?_,
    fun s page cause cls unit info x hx hcls hseq => ?_,
    fun s src => ⟨fun h => congrArg Host.Outcome.next (if_pos (by simp [rasPage, h])), fun h => congrArg Host.Outcome.next (if_neg (by simp [rasPage, h]))⟩,
    fun s page t => ⟨_, rfl, rfl, rfl, fun x hx => ?_, fun x hx hp => List.mem_filter.2 ⟨hx, decide_eq_true (.inl hp)⟩⟩⟩
  · have hput := reported_ras (s.counted cls) (s.newRec page cause cls unit info)
    rw [counted_ras, Ras.put, logRoom_below hlen] at hput
    refine ⟨s.newRec page cause cls unit info, ?_⟩
    rw [rasRecord_new hno, rasNew_severe (by omega), counted_newRec, hput]
    exact ⟨rfl, rfl, rfl, rfl, rfl, rfl, rfl, rfl, rfl⟩
  · rw [rasWrite_lost (logRoom_severe hlen hsev)]
    refine ⟨State.raise_ras _ _ _, ?_, bit_raise _ (by decide) (by decide) (by decide)⟩
    exact (reg_raise_ne _ (by decide)).trans (reg_bump_one _ (by decide))
  · rw [rasWrite_ras, Ras.put, logRoom_full hlen hl hx hpre hseq]; rfl
  · rcases rasRecord_ras s page cause cls unit info with ⟨n, hn, h⟩ | ⟨st, pl, h | h⟩
    · have hsplit : s.ras.log.dropLast ++ [n] = s.ras.log := List.dropLast_append_getLast? n hn
      rw [h]
      rw [← hsplit] at hx
      rcases List.mem_append.1 hx with hx | hx
      · exact ⟨x, List.mem_append_left _ hx, rfl, rfl, rfl, rfl, rfl, rfl, .inl rfl⟩
      · obtain rfl := List.mem_singleton.1 hx
        exact ⟨_, List.mem_append_right _ (List.mem_singleton_self _), rfl, rfl, rfl, rfl, rfl, rfl, .inr rfl⟩
    · rw [h]
      exact ⟨x, hx, rfl, rfl, rfl, rfl, rfl, rfl, .inl rfl⟩
    · rw [h]
      exact ⟨x, mem_put hx hcls hseq, rfl, rfl, rfl, rfl, rfl, rfl, .inl rfl⟩
  · obtain ⟨hmem, hkept⟩ := List.mem_filter.1 hx
    exact ⟨hmem, fun hp => (of_decide_eq_true hkept).resolve_left (fun h => h hp)⟩

end Sys2Proof.Machine


/-! The fast guard (16 R569). -/

namespace Sys2Proof.Machine

/-! ### Which monitors are too fast -/

section
variable {s : State} {ps : List Int} {i : Nat} {x : Int}

/-- The monitors below FAST_PS in a sample. -/
def State.low (s : State) (ps : List Int) : List Nat := (List.range 64).filter (s.tooFast ps)

theorem tooFast_of_lt (hx : ps[i]? = some x) (h : x < (s.hltMargin 8 : Int)) : s.tooFast ps i = true := by
  unfold State.tooFast
  rw [hx]
  exact decide_eq_true h

theorem tooFast_of_le (h : ∀ y, ps[i]? = some y → (s.hltMargin 8 : Int) ≤ y) : s.tooFast ps i = false := by
  unfold State.tooFast
  cases hp : ps[i]? with
  | none => rfl
  | some y => exact decide_eq_false (Int.not_lt.2 (h y hp))

/-- The first monitor of a kind that is too fast. -/
theorem low_find?_some {q : Nat → Bool} (hi : i < 64) (hf : s.tooFast ps i = true) (hq : q i = true)
    (h : ∀ k, k < i → s.tooFast ps k = false ∨ q k = false) : (s.low ps).find? q = some i := by
  rw [State.low, List.find?_filter, List.find?_range_eq_some]
  refine ⟨by simp [hf, hq], List.mem_range.2 hi, fun k hk => ?_⟩
  rcases h k hk with h | h <;> simp [h]

theorem low_find?_none {q : Nat → Bool} (h : ∀ k, k < 64 → s.tooFast ps k = false ∨ q k = false) : (s.low ps).find? q = none := by
  rw [State.low, List.find?_filter, List.find?_range_eq_none]
  intro k hk
  rcases h k hk with h | h <;> simp [h]

theorem low_head (hi : i < 64) (hf : s.tooFast ps i = true) (h : ∀ k, k < i → s.tooFast ps k = false) :
    ∃ rest, s.low ps = i :: rest := by
  have hhead : (s.low ps).head? = some i := by
    rw [State.low, List.head?_filter, List.find?_range_eq_some]
    exact ⟨hf, List.mem_range.2 hi, fun k hk => by simp [h k hk]⟩
  exact List.head?_eq_some_iff.1 hhead

/-! ### A fast-guard event -/

/-- A state with another health block. -/
def State.withHlt (s : State) (v : Hlt) : State := { s with hlt := v }

/-- The health block with a re-plan that runs since `t` at the latest. -/
def Hlt.planned (v : Hlt) (t : Nat) : Hlt := { v with running := some (v.running.getD t) }

theorem startReplan_eq (s : State) : s.startReplan = s.withHlt (s.hlt.planned s.clk) := by
  unfold State.startReplan State.withHlt Hlt.planned
  cases h : s.hlt.running with
  | none => rfl
  | some r =>
    rw [if_pos (show (some r).isSome = true from rfl), Option.getD_some, ← h]

theorem RasOnly.hlt {s t : State} (h : RasOnly s t) : t.hlt = s.hlt := by rw [h]

/-- A fast-guard event starts a re-plan, or leaves the one that runs; the rest is counted and recorded. -/
theorem guardEvent_spec (s : State) (unit info : Nat) : ∃ w : State, RasOnly s w ∧ w.ras.fatal = s.ras.fatal ∧
    s.guardEvent unit info = w.withHlt (s.hlt.planned s.clk) := by
  have hrec := rasOnly_rasRecord (s.count hltPage 0x184 1) hltPage 0x0D 0 unit info
  have honly : RasOnly s ((s.count hltPage 0x184 1).rasRecord hltPage 0x0D 0 unit info) := (rasOnly_count s _ _ _).trans hrec
  refine ⟨_, honly, ?_, ?_⟩
  · rw [fatal_rasRecord, count_eq]
  · rw [State.guardEvent, startReplan_eq, honly.hlt, honly.clk]

/-! ### Raises of VCORE and of the floor -/

/-- VCORE 10 mV up, at most to 850, before the event is counted. -/
def State.vcoreUp (s : State) : State :=
  (s.setVcore (min (s.hlt.vcore + 10) 850)).withHlt { (s.setVcore (min (s.hlt.vcore + 10) 850)).hlt with raised := true }

theorem fastGuard_raises (hlow : ∃ rest, s.low ps = i :: rest) (hv : s.hlt.vcore < 850) :
    s.fastGuard ps = s.vcoreUp.guardEvent i (min (s.hlt.vcore + 10) 850) := by
  obtain ⟨rest, hlow⟩ := hlow
  rw [State.low] at hlow
  unfold State.fastGuard
  dsimp only
  rw [hlow]
  exact if_pos hv

theorem fastGuard_top (hlow : ∃ rest, s.low ps = i :: rest) (hv : 850 ≤ s.hlt.vcore) {a b : Option Nat}
    (ha : (s.low ps).find? (fun i => !coreMonitor i) = a) (hb : (s.low ps).find? coreMonitor = b) : s.fastGuard ps =
      let w := a.elim s s.raiseFloor
      b.elim w (fun i => (w.guardEvent i 850).fatalError hltPage 0x0F i ((ps.getD i 0) % 2 ^ 64).toNat) := by
  obtain ⟨rest, hlow⟩ := hlow
  rw [State.low] at hlow ha hb
  unfold State.fastGuard
  dsimp only
  rw [ha, hb, hlow]
  dsimp only
  rw [if_neg (by omega)]
  cases a <;> cases b <;> rfl

/-- The engines' configuration, applied core by core, touches the engines alone. -/
theorem foldl_setCore_brn (f : State → Nat → Core) : ∀ (l : List Nat) (s : State),
    l.foldl (fun s c => s.setCore c (f s c)) s = { s with brn := (l.foldl (fun s c => s.setCore c (f s c)) s).brn }
  | [], _ => rfl
  | c :: l, s => foldl_setCore_brn f l (s.setCore c (f s c))

theorem brnApply_keeps (s : State) : s.brnApply.hlt = s.hlt ∧ s.brnApply.cfg.edition = s.cfg.edition := by
  unfold State.brnApply
  dsimp only
  split
  · rw [foldl_setCore_brn]
    exact ⟨rfl, rfl⟩
  · exact ⟨rfl, rfl⟩

/-- A change of step touches, of health, the setpoint alone. -/
theorem clockStep_keeps (s : State) : (∃ v a, s.clockStep.hlt = { s.hlt with vcore := v, settleAt := a }) ∧ s.clockStep.cfg = s.cfg := by
  have hcount : ∀ b : Brn, (State.count { s with brn := b } (brnPage 0) 0x234 4).hlt = s.hlt ∧
      (State.count { s with brn := b } (brnPage 0) 0x234 4).cfg = s.cfg := fun b => by rw [count_eq]; exact ⟨rfl, rfl⟩
  unfold State.clockStep
  dsimp only
  split
  · exact ⟨⟨_, _, rfl⟩, rfl⟩
  · split
    · exact ⟨⟨_, _, rfl⟩, rfl⟩
    · split
      · exact ⟨⟨_, _, rfl⟩, rfl⟩
      · obtain ⟨hhlt, hcfg⟩ := hcount { s.brn with step := max s.brn.gov s.brn.cap }
        split
        · rw [State.setVcore, hhlt]
          exact ⟨⟨_, _, rfl⟩, hcfg⟩
        · rw [hhlt]
          exact ⟨⟨_, _, rfl⟩, hcfg⟩

/-- What a change of clocks between operations leaves of health and configuration. -/
theorem betweenOps_keeps (s : State) : (∃ v a, s.betweenOps.hlt = { s.hlt with vcore := v, settleAt := a }) ∧
    s.betweenOps.cfg.edition = s.cfg.edition := by
  obtain ⟨hhlt, hed⟩ := brnApply_keeps s
  obtain ⟨⟨v, a, hstep⟩, hcfg⟩ := clockStep_keeps s.brnApply
  unfold State.betweenOps
  split
  · rw [hstep, hcfg, hhlt]
    exact ⟨⟨v, a, rfl⟩, hed⟩
  · exact ⟨⟨_, _, rfl⟩, rfl⟩

/-- The floor one step up, in the active bank, before the event is counted. -/
def State.floorUp (s : State) : State :=
  { s with hlt := { s.hlt with floor := min (s.hlt.floor + 1) 8, floorDue := true }, act := floorBank s.act (min (s.hlt.floor + 1) 8),
           cfg := { s.cfg with lag := if s.cfg.lag.any (fun e => decide (e.1 = 0x20)) then s.cfg.lag
                                      else sset s.cfg.lag 0 0x20 (s.cfg.edition + 1) } }

theorem raiseFloor_eq (s : State) (i : Nat) :
    s.raiseFloor i = (((s.floorUp.raise hltPage 2).guardEvent i (min (s.hlt.floor + 1) 8)).cfgNow).betweenOps := rfl

/-- A raise of the floor while a stroke runs. -/
theorem raiseFloor_spec (i : Nat) (hr : s.stk.running = true) : (s.raiseFloor i).hlt.floor = min (s.hlt.floor + 1) 8 ∧
    (s.raiseFloor i).hlt.floorDue = true ∧ (s.raiseFloor i).act = floorBank s.act (min (s.hlt.floor + 1) 8) ∧
    (s.raiseFloor i).prev = s.prev ∧ (s.raiseFloor i).pend = s.pend ∧ (s.raiseFloor i).cfg.edition = s.cfg.edition ∧
    (s.raiseFloor i).hlt.running = some (s.hlt.running.getD s.clk) ∧ (s.raiseFloor i).ras.fatal = s.ras.fatal := by
  obtain ⟨w, hw, hfatal, hevent⟩ := guardEvent_spec (s.floorUp.raise hltPage 2) i (min (s.hlt.floor + 1) 8)
  have hrw : RasOnly s.floorUp w := (rasOnly_raise _ _ _).trans hw
  have hhlt : (s.floorUp.raise hltPage 2).hlt.planned (s.floorUp.raise hltPage 2).clk = s.floorUp.hlt.planned s.clk := by
    rw [(rasOnly_raise s.floorUp hltPage 2).hlt, (rasOnly_raise s.floorUp hltPage 2).clk]; rfl
  rw [hhlt] at hevent
  have hnow : (w.withHlt (s.floorUp.hlt.planned s.clk)).cfgNow = w.withHlt (s.floorUp.hlt.planned s.clk) := by
    refine if_pos ?_
    show w.stk.running = true
    rw [hrw]; exact hr
  rw [raiseFloor_eq, hevent, hnow]
  obtain ⟨⟨v, a, hops⟩, hed⟩ := betweenOps_keeps (w.withHlt (s.floorUp.hlt.planned s.clk))
  have hclock := (clockOnly_betweenOps (w.withHlt (s.floorUp.hlt.planned s.clk))).1
  refine ⟨by rw [hops]; rfl, by rw [hops]; rfl, ?_, ?_, ?_, ?_, by rw [hops]; rfl, ?_⟩
  · rw [hclock]; show w.act = _; rw [hrw]; rfl
  · rw [hclock]; show w.prev = _; rw [hrw]; rfl
  · rw [hclock]; show w.pend = _; rw [hrw]; rfl
  · rw [hed]; show w.cfg.edition = _; rw [hrw]; rfl
  · rw [hclock]
    show w.ras.fatal = s.ras.fatal
    rw [hfatal, State.raise_ras]; rfl

/-- A FATAL error of another cause than a thermal trip names the first. -/
theorem fatalError_first (s : State) {page cause unit info : Nat} (h : cause ≠ 0x11) :
    (s.fatalError page cause unit info).ras.fatal = match s.ras.fatal with
      | none => some (cause, info, s.clk)
      | some f => some f := by
  cases hf : s.ras.fatal with
  | none => exact fatalError_fatal s page cause unit info (.inl hf)
  | some f =>
    have hrec : (s.rasRecord page cause 3 unit info).ras.fatal = some f := (fatal_rasRecord s page cause 3 unit info).trans hf
    unfold State.fatalError
    dsimp only
    rw [if_pos ⟨by rw [hrec]; rfl, h⟩]
    exact hrec

end

/-! ### A sample -/

/-- The state in which the fast guard looks at a sample. -/
def State.sampling (s : State) (t : Nat) (ps : List Int) : State := (s.at_ t).withSlack ((s.at_ t).slackTable ps (List.range 64) s.hlt.slack)

theorem pathDelaySample_guards {s : State} {t : Nat} {ps : List Int} (hon : s.mctpOn = true) (hen : s.hltCtrl 0 = true)
    (hfast : s.hltCtrl 2 = true) : exec (.pathDelaySample t ps) s = .next ((s.sampling t ps).fastGuard ps) := by
  rw [pathDelaySample_runs hon hen, if_pos hfast, noteSlack_eq]
  rfl

/-- Settles O50. -/
theorem fastGuardActs : Obligations.FastGuardActs := by
  intro s t i ps x hon hen hfast hi hx hlt hfirst
  rw [pathDelaySample_guards hon hen hfast]
  have hf : (s.sampling t ps).tooFast ps i = true := tooFast_of_lt hx hlt
  have hbelow : ∀ k, k < i → (s.sampling t ps).tooFast ps k = false := fun k hk => tooFast_of_le (fun y hy => hfirst k y hk hy)
  have hhead := low_head hi hf hbelow
  refine ⟨fun hv => ?_, fun hv h48 hcore hr => ?_, fun hv h48 => ?_⟩
  · rw [fastGuard_raises hhead hv]
    obtain ⟨w, hw, hfatal, hevent⟩ := guardEvent_spec (s.sampling t ps).vcoreUp i (min ((s.sampling t ps).hlt.vcore + 10) 850)
    refine ⟨_, rfl, ?_⟩
    rw [hevent]
    refine ⟨rfl, rfl, rfl, rfl, rfl, ?_, ?_, hfatal⟩
    · show w.act = s.act
      rw [hw]; rfl
    · show w.brn = s.brn
      rw [hw]; rfl
  · have hengine : ((s.sampling t ps).low ps).find? (fun i => !coreMonitor i) = some i :=
      low_find?_some hi hf (by simp [coreMonitor]; omega) (fun k hk => .inl (hbelow k hk))
    have hnone : ((s.sampling t ps).low ps).find? coreMonitor = none := by
      refine low_find?_none (fun k hk => ?_)
      by_cases hk48 : 48 ≤ k
      · exact .inl (tooFast_of_le (fun y hy => hcore k y hk48 hk hy))
      · exact .inr (decide_eq_false hk48)
    rw [fastGuard_top hhead hv hengine hnone]
    exact ⟨_, rfl, raiseFloor_spec (s := s.sampling t ps) i hr⟩
  · have hengine : ((s.sampling t ps).low ps).find? (fun i => !coreMonitor i) = none := by
      refine low_find?_none (fun k hk => ?_)
      by_cases hk48 : 48 ≤ k
      · exact .inr (by simp [coreMonitor, hk48])
      · exact .inl (hbelow k (by omega))
    have hcore : ((s.sampling t ps).low ps).find? coreMonitor = some i :=
      low_find?_some hi hf (decide_eq_true h48) (fun k hk => .inl (hbelow k hk))
    rw [fastGuard_top hhead hv hengine hcore]
    obtain ⟨w, hw, hfatal, hevent⟩ := guardEvent_spec (s.sampling t ps) i 850
    have hdata : ps.getD i 0 = x := by rw [List.getD_eq_getElem?_getD, hx]; rfl
    refine ⟨_, rfl, ?_⟩
    dsimp only [Option.elim]
    rw [hevent, hdata, fatalError_first _ (by decide), (rasOnly_fatalError _ _ _ _ _).hlt]
    refine ⟨rfl, rfl, rfl, ?_⟩
    show (match w.ras.fatal with | none => some (0x0F, (x % 2 ^ 64).toNat, w.clk) | some f => some f) = _
    rw [hfatal, hw.clk]
    rfl

end Sys2Proof.Machine


/-! The margin re-plan (16 R563, R564). -/

namespace Sys2Proof.Machine

/-! ### Triggers (16 R563) -/

section
variable {s : State} {t : Nat} {src : Src}

theorem startReplan_idle (h : s.hlt.running = none) : s.startReplan = { s with hlt := { s.hlt with running := some s.clk } } :=
  if_neg (by simp [h])

theorem startReplan_running (h : s.hlt.running.isSome = true) : s.startReplan = s := if_pos h

theorem replanStart_starts (hon : s.mctpOn = true) (hen : s.hltCtrl 1 = true) (htr : (s.at_ t).replanTrigger = true)
    (hr : s.hlt.running = none) :
    exec (.replanStart t) s = .next { s.at_ t with hlt := { s.hlt with running := some (s.at_ t).clk } } :=
  congrArg Host.Outcome.next ((if_pos ⟨hon, hen, htr⟩).trans (startReplan_idle (s := s.at_ t) hr))

theorem replanStart_idle (h : s.mctpOn = false ∨ s.hltCtrl 1 = false ∨ (s.at_ t).replanTrigger = false ∨ s.hlt.running.isSome = true) :
    exec (.replanStart t) s = .next (s.at_ t) := by
  refine congrArg Host.Outcome.next ?_
  by_cases hgo : (s.at_ t).mctpOn = true ∧ (s.at_ t).hltCtrl 1 = true ∧ (s.at_ t).replanTrigger = true
  · obtain ⟨hon, hen, htr⟩ := hgo
    have hrun : s.hlt.running.isSome = true := by
      rcases h with h | h | h | h
      · exact absurd (hon.symm.trans h) (by simp)
      · exact absurd (hen.symm.trans h) (by simp)
      · exact absurd (htr.symm.trans h) (by simp)
      · exact h
    exact (if_pos ⟨hon, hen, htr⟩).trans (startReplan_running (s := s.at_ t) hrun)
  · exact if_neg hgo

/-- A monitor has drifted by more than TRIGGER since the last re-plan. -/
def State.drifted (s : State) (i : Nat) : Bool :=
  match sget s.hlt.slack none i, sget s.hlt.slackBase none i with
  | some x, some b => decide (x < b - (s.hltMargin 16 : Int))
  | _, _ => false

theorem drifted_iff {i : Nat} : s.drifted i = true ↔
    ∃ x b, sget s.hlt.slack none i = some x ∧ sget s.hlt.slackBase none i = some b ∧ (s.hltMargin 16 : Int) < b - x := by
  unfold State.drifted
  cases hx : sget s.hlt.slack none i with
  | none => simp
  | some x =>
    cases hb : sget s.hlt.slackBase none i with
    | none => simp
    | some b =>
      simp only [decide_eq_true_eq, Option.some.injEq, exists_eq_left', exists_and_left]
      omega

/-- A memory's refresh margin no longer meets the ratio. -/
def State.thin (s : State) (e : Nat × Option Nat) : Bool :=
  match e.2 with
  | some m => s.memLive e.1 && !s.marginOk m (sget s.hlt.refresh 0 e.1)
  | none => false

theorem thin_iff {e : Nat × Option Nat} : s.thin e = true ↔
    ∃ m, e.2 = some m ∧ s.memLive e.1 = true ∧ m * 2 ^ sget s.hlt.refresh 0 e.1 < 100 * s.minRatio := by
  unfold State.thin
  cases h : e.2 with
  | none => simp
  | some m => simp [State.marginOk]

theorem replanTrigger_eq (s : State) : s.replanTrigger =
    (decide (s.hlt.lastAt + s.cfgFld (pg 0x78 + 0x104) 0 16 * 3600000000000 ≤ s.clk) || (List.range 64).any s.drifted ||
      s.hlt.margin.any s.thin ||
      s.hlt.trend.any (fun e => decide (e.2.base * 100 + s.cfgFld (pg 0x78 + 0x110) 0 8 * s.flm.geom.ldpc * 256 < e.2.mean * 100))) := rfl

theorem replanNow_runs (hon : s.pageOn src 0x78 = true) (hen : s.hltCtrl 1 = true) : exec (.replanNow src) s = .next s.startReplan :=
  congrArg Host.Outcome.next ((if_neg (by simp [hltPage, hon])).trans (if_pos hen))

theorem replanNow_idle (h : s.pageOn src 0x78 = false ∨ s.hltCtrl 1 = false ∨ s.hlt.running.isSome = true) :
    exec (.replanNow src) s = .next s := by
  by_cases hon : s.pageOn src 0x78 = true
  · by_cases hen : s.hltCtrl 1 = true
    · rw [replanNow_runs hon hen, startReplan_running ((h.resolve_left (by simp [hon])).resolve_left (by simp [hen]))]
    · exact congrArg Host.Outcome.next ((if_neg (by simp [hltPage, hon])).trans (if_neg hen))
  · exact congrArg Host.Outcome.next (if_pos (by simp [hltPage, hon]))

end

/-! ### The setpoint of a step, the floor, and the multipliers (16 R564) -/

section
variable {s : State} {step v : Nat}

theorem mem_setpoints : v ∈ setpoints ↔ v % 5 = 0 ∧ 650 ≤ v ∧ v ≤ 850 := by
  unfold setpoints
  rw [List.mem_map]
  constructor
  · rintro ⟨k, hk, rfl⟩
    have := List.mem_range.1 hk
    omega
  · rintro ⟨h5, hlo, hhi⟩
    exact ⟨(v - 650) / 5, List.mem_range.2 (by omega), by omega⟩

theorem setpoints_rise : setpoints.Pairwise (fun a b => a < b) := by
  unfold setpoints
  rw [List.pairwise_map]
  exact List.pairwise_lt_range.imp (fun h => by omega)

theorem all_monitors {p : Nat → Bool} : (List.range 64).all p = true ↔ ∀ i, i < 64 → p i = true := by
  simp [List.all_eq_true]

theorem not_all_monitors {p : Nat → Bool} : (List.range 64).all p = false ↔ ∃ i, i < 64 ∧ p i = false := by
  simp [List.all_eq_false]

theorem planVf_some (h : s.planVf step = some v) : v % 5 = 0 ∧ 650 ≤ v ∧ v ≤ 850 ∧ (∀ i, i < 64 → s.guardOk v step i = true) ∧
    ∀ w, w % 5 = 0 → 650 ≤ w → w < v → ∃ i, i < 64 ∧ s.guardOk w step i = false := by
  obtain ⟨hok, pre, post, hsplit, hpre⟩ := List.find?_eq_some_iff_append.1 h
  obtain ⟨h5, hlo, hhi⟩ := mem_setpoints.1 (List.mem_of_find?_eq_some h)
  refine ⟨h5, hlo, hhi, all_monitors.1 hok, fun w hw5 hwlo hwv => not_all_monitors.1 ?_⟩
  have hw : w ∈ setpoints := mem_setpoints.2 ⟨hw5, hwlo, by omega⟩
  have hrise := setpoints_rise
  rw [hsplit] at hw hrise
  have hpost : w ∉ v :: post := fun hm => by
    rcases List.mem_cons.1 hm with rfl | hm
    · omega
    · have := (List.pairwise_cons.1 (List.pairwise_append.1 hrise).2.1).1 w hm
      omega
  simpa using hpre w ((List.mem_append.1 hw).resolve_right hpost)

theorem planVf_none (h : s.planVf step = none) {w : Nat} (h5 : w % 5 = 0) (hlo : 650 ≤ w) (hhi : w ≤ 850) :
    ∃ i, i < 64 ∧ s.guardOk w step i = false :=
  not_all_monitors.1 (by simpa using List.find?_eq_none.1 h w (mem_setpoints.2 ⟨h5, hlo, hhi⟩))

theorem guardOk_iff {mv i : Nat} {x : Int} (hx : sget s.hlt.slack none i = some x) : s.guardOk mv step i = true ↔
    (s.hltMargin 0 : Int) ≤ Config.predictSlack i x mv (if 48 ≤ i then 0 else step) := by
  unfold State.guardOk
  rw [hx]
  simp [coreMonitor]

theorem planRefresh_iff {u m c : Nat} (hm : sget s.hlt.margin none u = some m) : s.planRefresh u = some c ↔
    (c < 3 ∧ 100 * s.minRatio ≤ m * 2 ^ c ∧ ∀ d, d < c → m * 2 ^ d < 100 * s.minRatio) := by
  unfold State.planRefresh
  rw [hm]
  dsimp only
  rw [List.find?_range_eq_some]
  simp only [State.marginOk, decide_eq_true_eq, List.mem_range, Bool.not_eq_true', decide_eq_false_iff_not, not_le]
  tauto

theorem planOuts_vf (outs : List Nat) {k : Nat} (hk : k < 9) : (s.planOuts outs).vf[k]? = some ((s.planVf k).getD 850) := by
  simp [State.planOuts, hk]

theorem planOuts_floor (outs : List Nat) {k : Nat} (hk : k < 9) (hv : s.planVf k = some v) (h : ∀ j, j < k → s.planVf j = none) :
    (s.planOuts outs).floor = k := by
  have hfind : (List.range 9).find? (fun k => (s.planVf k).isSome) = some k := by
    rw [List.find?_range_eq_some]
    exact ⟨by simp [hv], List.mem_range.2 hk, fun j hj => by simp [h j hj]⟩
  show ((List.range 9).find? (fun k => (s.planVf k).isSome)).getD s.hlt.floor = k
  rw [hfind]; rfl

end

/-! ### The end of a re-plan (16 R564, R565) -/

section
variable {s : State} {t : Nat} {outs : List Nat}

/-- Memories whose refresh margin no multiplier meets. -/
def State.beyondRefresh (s : State) : List Nat := (List.range 12).filter (fun u => s.memLive u && (s.planRefresh u).isNone)

/-- Core-clock monitors that miss the guard at 850 mV. -/
def State.beyondGuard (s : State) : List Nat := (List.range 64).filter (fun i => coreMonitor i && !s.guardOk 850 0 i)

/-- The health block when a re-plan has ended: its outputs wait, and what was measured for it starts again. -/
def State.replanned (s : State) (outs : List Nat) : Hlt :=
  { s.hlt with
    running := none, ready := some (s.planOuts outs), ageCrit := false, slackBase := s.hlt.slack, slack := [], margin := [],
    trend := s.hlt.trend.filterMap (fun (e : Nat × Trend) =>
      let x : Trend := { e.2 with base := e.2.mean, bits := 0, words := 0 }
      if x = Trend.none then none else some (e.1, x)) }

/-- AGE_CRIT raised for plate layers, then for a core-clock path. -/
def State.critical (s : State) (layers cores : List Nat) : State :=
  match cores with
  | i :: _ => (layers.foldl (fun s u => s.ageCrit u 4) s).ageCrit i 0
  | [] => layers.foldl (fun s u => s.ageCrit u 4) s

theorem replanEnd_none (h : s.hlt.running = none) : exec (.replanEnd t outs) s = .next (s.at_ t) :=
  congrArg Host.Outcome.next (if_pos (by show s.hlt.running.isNone = true; simp [h]))

/-- A re-plan ends, with the stacks that it fails. -/
theorem replanEnd_some (h : s.hlt.running.isSome = true) : exec (.replanEnd t outs) s = .next
    ((((s.at_ t).beyondRefresh.filter (fun u => decide (4 ≤ u))).foldl (fun s u => s.failStack (u - 4))
      (((s.at_ t).withHlt ((s.at_ t).replanned outs)).critical ((s.at_ t).beyondRefresh.filter (fun u => decide (u < 4)))
        (s.at_ t).beyondGuard)).cfgNow) := by
  refine congrArg Host.Outcome.next ((if_neg ?_).trans ?_)
  · show ¬ s.hlt.running.isNone = true
    cases hr : s.hlt.running <;> simp [hr] at h ⊢
  · unfold State.critical
    show State.cfgNow (List.foldl _ (match (s.at_ t).beyondGuard with | i :: _ => _ | [] => _) _) = _
    cases (s.at_ t).beyondGuard <;> rfl

/-- A state whose AGE_CRIT may have been raised: registers, the log, and what they report may differ too. -/
def CritOnly (s t : State) : Prop := RasOnly (s.withHlt t.hlt) t ∧ t.hlt = { s.hlt with ageCrit := t.hlt.ageCrit }

theorem CritOnly.refl (s : State) : CritOnly s s := ⟨RasOnly.refl s, rfl⟩

theorem CritOnly.trans {u : State} (h : CritOnly s u) {v : State} (h' : CritOnly u v) : CritOnly s v := by
  obtain ⟨hr, hh⟩ := h
  obtain ⟨hr', hh'⟩ := h'
  refine ⟨?_, by rw [hh', hh]⟩
  unfold RasOnly State.withHlt at *
  rw [hr', hr]

theorem critOnly_ageCrit (s : State) (unit info : Nat) : CritOnly s (s.ageCrit unit info) ∧ (s.ageCrit unit info).hlt.ageCrit = true := by
  have honly : RasOnly (s.withHlt { s.hlt with ageCrit := true }) (s.ageCrit unit info) :=
    (rasOnly_raise _ _ _).trans (rasOnly_rasRecord _ _ _ _ _ _)
  have hhlt : (s.ageCrit unit info).hlt = { s.hlt with ageCrit := true } := honly.hlt
  refine ⟨⟨?_, by rw [hhlt]⟩, by rw [hhlt]⟩
  rw [hhlt]
  exact honly

theorem critOnly_layers : ∀ (l : List Nat) (s : State), CritOnly s (l.foldl (fun s u => s.ageCrit u 4) s) ∧
    (l.foldl (fun s u => s.ageCrit u 4) s).hlt.ageCrit = (s.hlt.ageCrit || !l.isEmpty)
  | [], s => ⟨.refl s, by simp⟩
  | u :: l, s => by
    obtain ⟨hone, hcrit⟩ := critOnly_ageCrit s u 4
    obtain ⟨hrest, hall⟩ := critOnly_layers l (s.ageCrit u 4)
    exact ⟨hone.trans hrest, by rw [List.foldl_cons, hall, hcrit]; simp⟩

theorem critOnly_critical (s : State) (layers cores : List Nat) : CritOnly s (s.critical layers cores) ∧
    (s.critical layers cores).hlt.ageCrit = (s.hlt.ageCrit || !layers.isEmpty || !cores.isEmpty) := by
  obtain ⟨hlayers, hcrit⟩ := critOnly_layers layers s
  cases cores with
  | nil => exact ⟨hlayers, by simpa [State.critical] using hcrit⟩
  | cons i l =>
    obtain ⟨hone, hset⟩ := critOnly_ageCrit (layers.foldl (fun s u => s.ageCrit u 4) s) i 0
    exact ⟨hlayers.trans hone, by simpa [State.critical] using hset⟩

theorem mem_beyondRefresh {u : Nat} : u ∈ s.beyondRefresh ↔ u < 12 ∧ s.memLive u = true ∧ s.planRefresh u = none := by
  simp [State.beyondRefresh]

theorem mem_beyondGuard {i : Nat} : i ∈ s.beyondGuard ↔ i < 64 ∧ 48 ≤ i ∧ s.guardOk 850 0 i = false := by
  simp [State.beyondGuard, coreMonitor]

theorem memLive_layer {u : Nat} (h : u < 4) : s.memLive u = true := by
  simp [State.memLive, h, Nat.lt_of_lt_of_le h (Nat.le_add_right 4 _)]

theorem not_isEmpty_iff {l : List Nat} : (!l.isEmpty) = true ↔ ∃ x, x ∈ l := by
  cases l <;> simp

end

/-- Settles O51. -/
theorem replanChoosesTheLowest : Obligations.ReplanChoosesTheLowest := by
  refine ⟨fun s t => ⟨replanStart_starts, replanStart_idle⟩, fun s => ?_,
    fun s src => ⟨replanNow_idle, fun hon hen hr => (replanNow_runs hon hen).trans (congrArg _ (startReplan_idle hr))⟩,
    fun s step v => planVf_some, fun s step h w => planVf_none h, fun s mv step i x => guardOk_iff, fun s u m c => planRefresh_iff,
    fun s outs k hk => ⟨planOuts_vf outs hk, fun ⟨v, hv⟩ => planOuts_floor outs hk hv⟩, fun s t outs => ⟨replanEnd_none, fun hrun hstk hno => ?_⟩⟩
  · rw [replanTrigger_eq]
    simp only [Bool.or_eq_true, decide_eq_true_eq, List.any_eq_true, List.mem_range, drifted_iff, thin_iff, or_assoc]
    simp only [← exists_and_left]
  · have hstacks : (s.at_ t).beyondRefresh.filter (fun u => decide (4 ≤ u)) = [] := by
      refine List.filter_eq_nil_iff.2 (fun u hu => ?_)
      obtain ⟨h12, hlive, hnone⟩ := mem_beyondRefresh.1 hu
      intro h4
      have := hno u (of_decide_eq_true h4) h12 hlive
      rw [show s.planRefresh u = none from hnone] at this
      cases this
    obtain ⟨⟨honly, hhlt⟩, hcrit⟩ := critOnly_critical ((s.at_ t).withHlt ((s.at_ t).replanned outs))
      ((s.at_ t).beyondRefresh.filter (fun u => decide (u < 4))) (s.at_ t).beyondGuard
    refine ⟨_, replanEnd_some hrun, ?_⟩
    rw [hstacks, List.foldl_nil]
    generalize ((s.at_ t).withHlt ((s.at_ t).replanned outs)).critical ((s.at_ t).beyondRefresh.filter (fun u => decide (u < 4)))
      (s.at_ t).beyondGuard = u at honly hhlt hcrit
    have hnow : u.cfgNow = u := if_pos (by rw [honly]; exact hstk)
    rw [hnow]
    refine ⟨by rw [hhlt]; rfl, by rw [hhlt]; rfl, by rw [hhlt]; rfl, by rw [hhlt]; rfl, by rw [hhlt]; rfl, by rw [honly]; rfl, by rw [honly]; rfl,
      by rw [honly]; rfl, by rw [hhlt]; rfl, by rw [hhlt]; rfl, by rw [hhlt]; rfl, ?_⟩
    have hfalse : ((s.at_ t).withHlt ((s.at_ t).replanned outs)).hlt.ageCrit = false := rfl
    rw [hcrit, hfalse, Bool.false_or, Bool.or_eq_true, not_isEmpty_iff, not_isEmpty_iff]
    refine or_congr ⟨?_, ?_⟩ ⟨?_, ?_⟩
    · rintro ⟨m, hm⟩
      obtain ⟨hm, h4⟩ := List.mem_filter.1 hm
      exact ⟨m, of_decide_eq_true h4, (mem_beyondRefresh.1 hm).2.2⟩
    · rintro ⟨m, h4, hm⟩
      exact ⟨m, List.mem_filter.2 ⟨mem_beyondRefresh.2 ⟨by omega, memLive_layer h4, hm⟩, decide_eq_true h4⟩⟩
    · rintro ⟨i, hi⟩
      obtain ⟨h64, h48, hg⟩ := mem_beyondGuard.1 hi
      exact ⟨i, h48, h64, hg⟩
    · rintro ⟨i, h48, h64, hg⟩
      exact ⟨i, mem_beyondGuard.2 ⟨h64, h48, hg⟩⟩

end Sys2Proof.Machine


/-! Failed memory stacks (16 R578, R579). -/

namespace Sys2Proof.Machine

section
variable {s : State} {src : Src} {k : Nat}

theorem failStack_idle (h : s.fusedStacks ≤ k ∨ k ∈ s.hlt.dead) : s.failStack k = s :=
  if_pos (h.imp_right List.contains_iff_mem.2)

/-- The state with a stack more failed, and what was open in it, before its pages are looked after. -/
def State.stackDead (s : State) (k : Nat) (exts : List (Nat × Nat)) : State :=
  s.withHlt { s.hlt with dead := s.hlt.dead ++ [k], deadExt := s.hlt.deadExt ++ exts }

/-- What a state keeps of the failed stacks that another has. -/
theorem Keep.dead {b : Bool} {z u : State} (h : Keep b true z u) : z.hlt.dead <+: u.hlt.dead := (h.2.2.2.2.1 rfl).2.1

/-- A stack that fails joins the failed ones; looking after its pages takes none of them away. -/
theorem failStack_keeps (hm : s.memOk = true) (hk : s.keysRise) (hlt : k < s.fusedStacks) (hnew : k ∉ s.hlt.dead) :
    ∃ exts, Keep true true (s.stackDead k exts) (s.failStack k) := by
  have hno : ¬ (s.fusedStacks ≤ k ∨ s.hlt.dead.contains k = true) := by
    rintro (h | h)
    · omega
    · exact hnew (List.contains_iff_mem.1 h)
  unfold State.failStack
  rw [if_neg hno]
  dsimp only
  refine ⟨((s.records 3).filter (fun e => decide (rfld e.2 0 30 2 ≠ 0))).map (fun (e : Nat × List Word) => (e.1, k)), ?_⟩
  have hself := keep_self (s := s.stackDead k
    (((s.records 3).filter (fun e => decide (rfld e.2 0 30 2 ≠ 0))).map (fun (e : Nat × List Word) => (e.1, k)))) hm hk
  exact keep_stackPsa _ k (keep_stackDir _ k (keep_foldl _ _ _
    (keep_stackCache _ _ (keep_rasRecord _ _ _ _ _ _ (keep_raise _ _ _ (keep_fresh _ hself))))
    (fun w e hw => keep_stackPset w e.1 e.2 hw)))

theorem failStack_dead (hm : s.memOk = true) (hk : s.keysRise) (hlt : k < s.fusedStacks) (hnew : k ∉ s.hlt.dead) :
    k ∈ (s.failStack k).hlt.dead ∧ s.hlt.dead <+: (s.failStack k).hlt.dead := by
  obtain ⟨exts, hkeep⟩ := failStack_keeps hm hk hlt hnew
  have hprefix : s.hlt.dead ++ [k] <+: (s.failStack k).hlt.dead := hkeep.dead
  exact ⟨hprefix.subset (List.mem_append_right _ (List.mem_singleton_self k)), (List.prefix_append _ _).trans hprefix⟩

/-! ### The T1 cache (16 R579) -/

theorem foldl_cache {α : Type} (f : State → α → State) (hf : ∀ s x, (f s x).pfs.cache = s.pfs.cache) :
    ∀ (l : List α) (s : State), (l.foldl f s).pfs.cache = s.pfs.cache
  | [], _ => rfl
  | x :: l, s => (foldl_cache f hf l (f s x)).trans (hf s x)

theorem needPages_cache (s : State) (i : Nat) (ps : List Nat) (urgent pfs : Bool) : (s.needPages i ps urgent pfs).pfs.cache = s.pfs.cache := by
  unfold State.needPages
  refine foldl_cache _ (fun w p => ?_) ps s
  dsimp only
  split
  · rfl
  · split <;> rfl

theorem stackCache_cache (s : State) (lost : List Cached) : (s.stackCache lost).pfs.cache = s.pfs.cache.filter (fun c => !lost.contains c) := by
  unfold State.stackCache
  exact foldl_cache _ (fun w h => foldl_cache _ (fun v c => needPages_cache v _ _ _ _) _ w) _ _

/-! ### Uncorrectable reads (16 R578) -/

theorem stackUe_few {row : Nat}
    (h : (s.hlt.ues.filter (fun e => decide (e.1 = k ∧ s.clk < e.2.2 + 1000000000))).length < 15) : (s.stackUe k row).hlt.dead = s.hlt.dead := by
  unfold State.stackUe
  dsimp only
  rw [if_neg]
  rw [List.filter_append, List.filter_filter, List.length_append]
  have hold : (s.hlt.ues.filter (fun e => decide (e.1 = k) && decide (s.clk < e.2.2 + 1000000000 ∧ (e.1, e.2.1) ≠ (k, row)))).length ≤
      (s.hlt.ues.filter (fun e => decide (e.1 = k ∧ s.clk < e.2.2 + 1000000000))).length := by
    refine (List.monotone_filter_right _ (fun e he => ?_)).length_le
    simp only [Bool.and_eq_true, decide_eq_true_eq] at he ⊢
    exact ⟨he.1, he.2.1⟩
  have hnew : ([(k, row, s.clk)].filter (fun e => decide (e.1 = k))).length ≤ 1 := List.length_filter_le _ _
  omega

end

/-- Settles O52. -/
theorem stacksFailOnce : Obligations.StacksFailOnce := by
  refine ⟨fun s src k => ⟨fun h => congrArg Host.Outcome.next (if_pos (by simp [hltPage, h])),
      fun h => congrArg Host.Outcome.next (if_neg (by simp [hltPage, h]))⟩,
    fun s k => ⟨fun h => congrArg Host.Outcome.next (if_pos h), fun h h' => congrArg Host.Outcome.next (if_neg (by simp [h, h']))⟩,
    fun s k => ⟨failStack_idle, failStack_dead⟩, fun s lost c hc => ?_, fun s k row u hu => ⟨fun hm hk => ?_, fun h => ?_⟩⟩
  · rw [stackCache_cache] at hc
    obtain ⟨hmem, hkept⟩ := List.mem_filter.1 hc
    exact ⟨hmem, by simpa using hkept⟩
  · subst hu
    exact (keep_stackUe s k row (keep_self hm hk)).dead
  · subst hu
    exact stackUe_few h

end Sys2Proof.Machine


/-! Accesses to the register pages (17 R586, R588 to R592, R595; 11 R398, R419): what one word written or read does. -/

namespace Sys2Proof.Machine

/-! ### The way of an access to its page -/

theorem pageThere_ten {s : State} {page i : Nat} (h : s.pageThere page = some (.ten, i)) : page = tenPage := by
  unfold State.pageThere pageBlock at h; unfold tenPage; grind (splits := 80)

section
variable {s : State} {src : Src} {a i : Nat} {b : Block}

/-- A write that is aligned, in BAR0, to a page that answers its source. -/
theorem bar0Write_reached (v : Word) (h4 : a % 4 = 0) (hlt : a < 2 ^ 20) (hp : s.pageThere (a / 0x1000) = some (b, i))
    (hten : b = .ten → s.fmRoute src = true) (hon : s.pageOn src (a / 0x1000) = true) :
    s.bar0Write src a v = s.pageWrite src b i a v := by
  have hgo : ¬ (a % 4 ≠ 0 ∨ 2 ^ 20 ≤ a ∨ (!s.pageOn src (a / 0x1000)) = true) := by rw [hon]; simp; omega
  unfold State.bar0Write
  dsimp only
  rw [if_neg hgo, hp]
  by_cases hb : b = .ten
  · subst hb
    rw [pageThere_ten hp] at hon
    dsimp only
    unfold State.onTen
    rw [hon, hten rfl]
    rfl
  · split
    · next h => cases h
    · next h => cases h; exact absurd rfl hb
    · next h => cases h; rfl

/-- A write that is misaligned, outside BAR0, or to a page that does not answer or is not there. -/
theorem bar0Write_missed (v : Word) (h : a % 4 ≠ 0 ∨ 2 ^ 20 ≤ a ∨ s.pageOn src (a / 0x1000) = false ∨ s.pageThere (a / 0x1000) = none) :
    s.bar0Write src a v = s := by
  unfold State.bar0Write
  dsimp only
  by_cases hgo : a % 4 ≠ 0 ∨ 2 ^ 20 ≤ a ∨ (!s.pageOn src (a / 0x1000)) = true
  · exact if_pos hgo
  · have hp : s.pageThere (a / 0x1000) = none := by
      simp only [Bool.not_eq_true', not_or] at hgo
      tauto
    rw [if_neg hgo, hp]

/-- The port of a host that a page answers has not lost its link. -/
theorem portUp_of_pageOn {page p : Nat} (hon : s.pageOn (.port p) page = true) : s.portDown p = false := by
  unfold State.pageOn at hon
  simp only [Bool.and_eq_true, Bool.not_eq_true'] at hon
  exact hon.2

/-- A read of a page that answers its source. -/
theorem bar0Read_reached (h4 : a % 4 = 0) (hlt : a < 2 ^ 20) (hp : s.pageThere (a / 0x1000) = some (b, i))
    (hten : b = .ten → s.fmRoute src = true) (hon : s.pageOn src (a / 0x1000) = true) :
    s.bar0Read src a = (s.latchFrom a).send (.regRead src a (s.readVal a)) := by
  have ha : a / 4 * 4 = a := by omega
  have hbar : s.bar0On = true := by
    unfold State.pageOn at hon
    simp only [Bool.and_eq_true] at hon
    exact hon.1.1
  have hroute : ¬ (a / 0x1000 = tenPage ∧ (!s.fmRoute src) = true ∧ 8 ≤ a % 0x1000) := by
    rintro ⟨hpage, hno, _⟩
    have hb : b = .ten := by
      rw [hpage] at hp
      exact (congrArg Prod.fst (Option.some.inj hp)).symm
    rw [hten hb] at hno
    exact absurd hno (by decide)
  unfold State.bar0Read
  dsimp only
  rw [ha, if_neg, hon, if_neg (by decide), if_neg hroute]
  rintro (h | h | h)
  · omega
  · rw [hbar] at h
    exact absurd h (by decide)
  · cases src with
    | mctp => exact Bool.false_ne_true h
    | port p => exact Bool.false_ne_true ((portUp_of_pageOn hon).symm.trans h)

end

theorem barWrite_bar0 (s : State) (src : Src) {a : Nat} (v : Word) (h : a < 2 ^ 20) : s.barWrite src a v = s.bar0Write src a v :=
  if_pos h

theorem barRead_bar0 (s : State) (src : Src) {a : Nat} (h : a < 2 ^ 20) : s.barRead src a = s.bar0Read src a := if_pos h

/-- Over MCTP an access reaches BAR0 alone. -/
theorem barWrite_mctp (s : State) (a : Nat) (v : Word) : s.barWrite .mctp a v = s.bar0Write .mctp a v := by
  by_cases h : a < 2 ^ 20
  · exact barWrite_bar0 s _ v h
  · exact (if_neg h).trans (bar0Write_missed v (.inr (.inl (by omega)))).symm

theorem barRead_mctp (s : State) (a : Nat) : s.barRead .mctp a = s.bar0Read .mctp a := by
  by_cases h : a < 2 ^ 20
  · exact barRead_bar0 s _ h
  · have hge : 2 ^ 20 ≤ a / 4 * 4 := by omega
    exact (if_neg h).trans (if_pos (.inl hge)).symm

theorem fnWrite_above (s : State) (p a : Nat) (v : Word) (h : 0x1C8000 ≤ a) : s.fnWrite p a v = s := by
  unfold State.fnWrite fnTop
  split
  · rfl
  · rw [if_neg (by omega), if_neg (by omega), if_neg (by omega)]

/-- A write that no register takes (17 R586; log 195). -/
theorem registerWrite_missed (s : State) (src : Src) (a : Nat) (v : Word)
    (h : a % 4 ≠ 0 ∨ 0x1C8000 ≤ a ∨ (2 ^ 20 ≤ a ∧ src = .mctp) ∨
      (a < 2 ^ 20 ∧ (s.pageOn src (a / 0x1000) = false ∨ s.pageThere (a / 0x1000) = none))) :
    exec (.registerWrite src a v) s = .next s := by
  refine congrArg Host.Outcome.next (?_ : s.barWrite src a v = s)
  by_cases hlt : a < 2 ^ 20
  · rw [barWrite_bar0 s src v hlt]
    refine bar0Write_missed v ?_
    rcases h with h | h | ⟨h, _⟩ | ⟨_, h | h⟩
    · exact .inl h
    · omega
    · omega
    · exact .inr (.inr (.inl h))
    · exact .inr (.inr (.inr h))
  · refine (if_neg hlt).trans ?_
    cases src with
    | mctp => rfl
    | port p =>
      dsimp only
      split
      · rfl
      · exact fnWrite_above s p a v (by
          rcases h with h | h | ⟨_, h⟩ | ⟨h, _⟩
          · contradiction
          · exact h
          · cases h
          · contradiction)

/-! ### MSI-X (11 R398) -/

theorem fn_setFn_self (s : State) (p ld : Nat) (f : PciFn) (h : s.fns.rising) : (s.setFn p ld f).fn p ld = f :=
  sget_sset_self _ _ _ h

/-- Sending what is pending changes the pending bits and the record of the messages alone. -/
theorem msixFlush_spec (s : State) (p : Nat) (h : s.fns.rising) :
    (∃ pba, (s.msixFlush p).fn p 0 = { s.fn p 0 with pba := pba }) ∧ (s.msixFlush p).regs = s.regs := by
  have hsend : ∀ (g : Nat → Out) (l : List Nat) (u : State),
      (l.foldl (fun s v => s.send (g v)) u).fns = u.fns ∧ (l.foldl (fun s v => s.send (g v)) u).regs = u.regs := by
    intro g l
    induction l with
    | nil => exact fun u => ⟨rfl, rfl⟩
    | cons v l ih => exact fun u => ih (u.send (g v))
  unfold State.msixFlush
  dsimp only
  split
  · exact ⟨⟨_, rfl⟩, rfl⟩
  · obtain ⟨hfns, hregs⟩ := hsend (fun v => .msix p v ((s.fn p 0).vec v).addr ((s.fn p 0).vec v).data)
      ((s.fn p 0).pba.filter (fun v => !(s.fn p 0).holds v)).reverse
      (s.setFn p 0 { s.fn p 0 with pba := (s.fn p 0).pba.filter (s.fn p 0).holds })
    refine ⟨⟨(s.fn p 0).pba.filter (s.fn p 0).holds, ?_⟩, hregs⟩
    exact (congrArg (fun l => sget l PciFn.reset (8 * p + 0)) hfns).trans (fn_setFn_self s p 0 _ h)

theorem fnId_isSome {s : State} {p : Nat} (h : s.portDown p = false) : (s.fnId p 0).isSome = true := by
  have hup := of_decide_eq_false h
  unfold State.fnId
  dsimp only
  rw [if_neg (fun hp => hup (.inl hp))]
  split
  · next hmode => exact absurd (.inr hmode) hup
  · rfl
  · rfl
  · rfl

/-- A function with the data word of a vector set. -/
def PciFn.withData (f : PciFn) (k : Nat) (v : Word) : PciFn := { f with vecs := sset f.vecs MsixVec.reset k { f.vec k with data := v } }

theorem PciFn.vec_withData (f : PciFn) (k : Nat) (v : Word) (h : f.vecs.rising) :
    (f.withData k v).vec k = { f.vec k with data := v } := sget_sset_self _ _ _ h

/-- A function with a vector pending. -/
def PciFn.withPending (f : PciFn) (vec : Nat) : PciFn := { f with pba := if f.pba.contains vec then f.pba else vec :: f.pba }

theorem PciFn.mem_withPending (f : PciFn) (vec : Nat) : vec ∈ (f.withPending vec).pba := by
  unfold PciFn.withPending
  dsimp only
  split
  · next hc => exact List.contains_iff_mem.mp hc
  · exact List.mem_cons_self

/-- A write of a data word of the MSI-X table. -/
theorem registerWrite_msixData (s : State) (p k : Nat) (v : Word) (hup : s.portDown p = false) (hk : k < 256)
    (hf : s.fns.rising) (hv : (s.fn p 0).vecs.rising) :
    ∃ u : State, exec (.registerWrite (.port p) (0x140000 + 16 * k + 8) v) s = .next u ∧ ((u.fn p 0).vec k).data = v ∧
      ((u.fn p 0).vec k).masked = ((s.fn p 0).vec k).masked ∧ (u.fn p 0).msixOn = (s.fn p 0).msixOn ∧ u.regs = s.regs := by
  have hld : (0x140000 + 16 * k + 8 - 0x140000) / 0x10000 = 0 := by omega
  have hoff : (0x140000 + 16 * k + 8) % 0x10000 = 16 * k + 8 := by omega
  have hk16 : (16 * k + 8) / 16 = k := by omega
  have hw : (16 * k + 8) % 16 / 4 = 2 := by omega
  have hwrite : s.barWrite (.port p) (0x140000 + 16 * k + 8) v = (s.setFn p 0 ((s.fn p 0).withData k v)).msixFlush p := by
    refine (if_neg (by omega)).trans ((if_neg (by omega)).trans ?_)
    unfold State.fnWrite
    rw [hup, if_neg (by decide), if_neg (by omega), if_pos (by omega)]
    dsimp only
    rw [hld, fnId_isSome hup, if_pos rfl, hoff]
    unfold State.bar4Write
    rw [if_neg (by omega)]
    dsimp only
    rw [hk16, hw]
    rfl
  obtain ⟨⟨pba, hfn⟩, hregs⟩ := msixFlush_spec (s.setFn p 0 ((s.fn p 0).withData k v)) p (rising_sset _ _ _ hf)
  rw [fn_setFn_self s p 0 _ hf] at hfn
  have hvec := (s.fn p 0).vec_withData k v hv
  refine ⟨_, congrArg Host.Outcome.next hwrite, ?_, ?_, ?_, hregs⟩
  · rw [hfn]; exact congrArg MsixVec.data hvec
  · rw [hfn]; exact Eq.trans (congrArg MsixVec.masked hvec) rfl
  · rw [hfn]; rfl

/-- The message of a vector, by the enable and the masks of its function. -/
theorem msix_spec (s : State) (p vec : Nat) (hup : s.portDown p = false) (hst : s.start ≠ .recovery) :
    ((s.fn p 0).msixOn = false → s.msix p vec = s) ∧
    ((s.fn p 0).msixOn = true → (s.fn p 0).holds vec = false →
      s.msix p vec = s.send (.msix p vec ((s.fn p 0).vec vec).addr ((s.fn p 0).vec vec).data)) ∧
    ((s.fn p 0).msixOn = true → (s.fn p 0).holds vec = true → vec ∈ ((s.msix p vec).fn p 0).pba ∧ (s.msix p vec).out = s.out) := by
  have hgo : (s.fn p 0).msixOn = true → ¬ (s.portDown p = true ∨ s.start = .recovery ∨ (!(s.fn p 0).msixOn) = true) := by
    intro hon
    rw [hup, hon]
    simp [hst]
  refine ⟨fun hoff => if_pos (.inr (.inr (by simp [hoff]))), fun hon hh => (if_neg (hgo hon)).trans (if_neg (by simp [hh])), fun hon hh => ?_⟩
  have heq : s.msix p vec = s.setFn p 0 ((s.fn p 0).withPending vec) := (if_neg (hgo hon)).trans (if_pos hh)
  have hmem := (s.fn p 0).mem_withPending vec
  have hne : (s.fn p 0).withPending vec ≠ PciFn.reset := fun he =>
    absurd ((congrArg PciFn.pba he) ▸ hmem : vec ∈ PciFn.reset.pba) List.not_mem_nil
  rw [heq]
  exact ⟨(congrArg PciFn.pba (sget_sset_new (8 * p + 0) hne)) ▸ hmem, rfl⟩

/-! ### The common header and the counters (17 R588, R590) -/

theorem reg_setReg_self (s : State) (a : Nat) (v : Word) (h : s.regs.rising) : (s.setReg a v).reg a = v := sget_sset_self _ _ _ h

/-- INT_STATUS after the bits written 1 are cleared. -/
theorem clearInt_eq (s : State) (page : Nat) (v : Word) :
    s.clearInt page v = { s.setReg (pg page + 0x10) (s.reg (pg page + 0x10) &&& ~~~v) with
      fns := (s.clearInt page v).fns, out := (s.clearInt page v).out } := by
  unfold State.clearInt
  dsimp only
  split
  · conv_lhs => rw [blockInt_eq]
  · rfl

/-- What a write of one register, with the messages it sends, is to the state. -/
theorem setReg_messages {s u : State} {a : Nat} {w : Word} {f : Sparse PciFn} {o : List Out} (hr : s.regs.rising)
    (h : u = { s.setReg a w with fns := f, out := o }) :
    u = { s with regs := u.regs, fns := u.fns, out := u.out } ∧ u.reg a = w ∧ sameRegsBut s u [a] := by
  subst h
  refine ⟨rfl, reg_setReg_self s a w hr, fun c hc => reg_setReg_ne s w ?_⟩
  simpa using hc

theorem pg_mod (page off : Nat) (h : off < 0x1000) : (pg page + off) % 0x1000 = off := by unfold pg; omega

theorem pg_div (page off : Nat) (h : off < 0x1000) : (pg page + off) / 0x1000 = page := by unfold pg; omega

section
variable {s : State} {src : Src} {page i : Nat} {b : Block}

/-- A write of a word of a page's header. -/
theorem headWrite_reached (off : Nat) (v : Word) (h4 : off % 4 = 0) (hoff : off < 0x1000) (hpg : page < 256)
    (hp : s.pageThere page = some (b, i)) (hten : b = .ten → s.fmRoute src = true) (hon : s.pageOn src page = true) :
    s.bar0Write src (pg page + off) v = s.pageWrite src b i (pg page + off) v :=
  bar0Write_reached v (by unfold pg; omega) (by unfold pg; omega) (by rw [pg_div page off hoff]; exact hp) hten
    (by rw [pg_div page off hoff]; exact hon)

theorem pageWrite_intStatus (v : Word) : s.pageWrite src b i (pg page + 0x10) v = s.clearInt page v := by
  unfold State.pageWrite
  dsimp only
  rw [pg_mod page 0x10 (by decide), pg_div page 0x10 (by decide), if_pos rfl]

theorem pageWrite_intForce (v : Word) : s.pageWrite src b i (pg page + 0x18) v = s.raiseBits page v := by
  unfold State.pageWrite
  dsimp only
  rw [pg_mod page 0x18 (by decide), pg_div page 0x18 (by decide), if_neg (by decide), if_neg (by decide), if_pos rfl]

/-- INT_STATUS written, and forced. -/
theorem intStatus_spec (v : Word) (hpg : page < 256) (hp : s.pageThere page = some (b, i)) (hten : b = .ten → s.fmRoute src = true)
    (hon : s.pageOn src page = true) (hr : s.regs.rising) :
    (∃ u : State, exec (.intStatusClear src page v) s = .next u ∧ u = { s with regs := u.regs, fns := u.fns, out := u.out } ∧
      u.reg (pg page + 0x10) = s.reg (pg page + 0x10) &&& ~~~v ∧ sameRegsBut s u [pg page + 0x10]) ∧
    (∃ u : State, exec (.intForce src page v) s = .next u ∧ u = { s with regs := u.regs, fns := u.fns, out := u.out } ∧
      u.reg (pg page + 0x10) = s.reg (pg page + 0x10) ||| (v &&& intMask page) ∧ sameRegsBut s u [pg page + 0x10]) :=
  ⟨⟨_, congrArg Host.Outcome.next ((headWrite_reached 0x10 v (by decide) (by decide) hpg hp hten hon).trans (pageWrite_intStatus v)),
      setReg_messages hr (clearInt_eq s page v)⟩,
    ⟨_, congrArg Host.Outcome.next ((headWrite_reached 0x18 v (by decide) (by decide) hpg hp hten hon).trans (pageWrite_intForce v)),
      setReg_messages hr (raiseBits_eq s page v)⟩⟩

end

/-- The registers that clear counters stand at two offsets of a page. -/
theorem clearRanges_off {a : Nat} (h : clearRanges a ≠ []) : a % 0x1000 = 0x1FC ∨ a % 0x1000 = 0x2FC := by
  by_contra hno
  rw [not_or] at hno
  refine h ?_
  unfold clearRanges
  dsimp only
  split
  · rfl
  · rw [if_neg hno.1, if_neg hno.2]

/-- A register that the counter clear at `a` sets to its reset value. -/
def clearedBy (a c : Nat) : Bool :=
  (clearRanges a).any (fun r => decide (c / 0x1000 = a / 0x1000 ∧ r.1 ≤ c % 0x1000 ∧ c % 0x1000 ≤ r.2))

theorem reg_clearCounters (s : State) (a c : Nat) :
    (s.clearCounters a).reg c = if clearedBy a c then regReset c else s.reg c := by
  refine (sget_filter_keys (keep := fun k => !clearedBy a k)).trans ?_
  cases clearedBy a c <;> rfl

section
variable {s : State} {src : Src} {a i : Nat} {b : Block}

/-- A write that reaches a register of the block. -/
theorem pageWrite_block (v : Word) (hoff : 0x100 ≤ a % 0x1000) (hc : clearRanges a = []) :
    s.pageWrite src b i a v = s.blockWrite src b i a (a % 0x1000) v := by
  unfold State.pageWrite
  dsimp only
  rw [if_neg (by omega), if_neg (by omega), if_neg (by omega), if_neg (by omega), if_neg (not_not_intro hc)]

theorem pageWrite_clear (v : Word) (hc : clearRanges a ≠ []) :
    s.pageWrite src b i a v = if bit v 0 then s.clearCounters a else s := by
  have hoff := clearRanges_off hc
  unfold State.pageWrite
  dsimp only
  rw [if_neg (by omega), if_neg (by omega), if_neg (by omega), if_neg (by omega), if_pos hc]

theorem counterClear_spec (v : Word) (h4 : a % 4 = 0) (hlt : a < 2 ^ 20) (hp : s.pageThere (a / 0x1000) = some (b, i))
    (hten : b = .ten → s.fmRoute src = true) (hon : s.pageOn src (a / 0x1000) = true) (hc : clearRanges a ≠ []) :
    exec (.counterClear src a v) s = .next (if bit v 0 then s.clearCounters a else s) :=
  congrArg Host.Outcome.next ((if_neg hc).trans ((bar0Write_reached v h4 hlt hp hten hon).trans (pageWrite_clear v hc)))

/-! ### Stored registers (17 R588, R592, R595) -/

/-- A page without actions stores what is written to its registers. -/
theorem blockWrite_plain (v : Word) (off : Nat)
    (hb : b ∈ [Block.cfg, .psa, .dir, .tier, .pfs, .npa, .flm, .hpt, .net, .pwr]) : s.blockWrite src b i a off v = s.storeReg a v := by
  simp only [List.mem_cons, List.not_mem_nil, or_false] at hb
  rcases hb with rfl | rfl | rfl | rfl | rfl | rfl | rfl | rfl | rfl | rfl <;> rfl

theorem registerWrite_stores (v : Word) (h4 : a % 4 = 0) (hlt : a < 2 ^ 20) (hoff : 0x100 ≤ a % 0x1000)
    (hp : s.pageThere (a / 0x1000) = some (b, i)) (hb : b ∈ [Block.cfg, .psa, .dir, .tier, .pfs, .npa, .flm, .hpt, .net, .pwr])
    (hon : s.pageOn src (a / 0x1000) = true) (hc : clearRanges a = []) :
    exec (.registerWrite src a v) s = .next (s.storeReg a v) := by
  have hten : b = .ten → s.fmRoute src = true := by rintro rfl; exact absurd hb (by decide)
  exact congrArg Host.Outcome.next ((barWrite_bar0 s src v hlt).trans ((bar0Write_reached v h4 hlt hp hten hon).trans
    ((pageWrite_block v hoff hc).trans (blockWrite_plain v _ hb))))

end

theorem storeReg_plain {s : State} {a : Nat} {d : RegDef} (v : Word) (hd : regDef a = some d) (hc : d.cfg = false) :
    s.storeReg a v = s.setReg a (v &&& d.mask) := by
  unfold State.storeReg
  rw [hd]
  dsimp only
  rw [hc]
  rfl

/-- A configuration register takes a write in the pending bank; a frozen bank refuses it. -/
theorem storeReg_cfg {s : State} {a : Nat} {d : RegDef} (v : Word) (hd : regDef a = some d) (hc : d.cfg = true) :
    s.storeReg a v = if s.frozen then s.cfgRefuse else { s with pend := sset s.pend d.reset a (v &&& d.mask) } := by
  unfold State.storeReg
  rw [hd]
  dsimp only
  rw [hc]
  rfl

theorem regReset_of_regDef {a : Nat} {d : RegDef} (hd : regDef a = some d) : regReset a = d.reset := by
  unfold regReset
  rw [hd]

theorem storeReg_pending {s : State} {a : Nat} {d : RegDef} (v : Word) (hd : regDef a = some d) (hc : d.cfg = true)
    (h1 : s.cfg.check = none) (h2 : s.cfg.armed = none) (hr : s.pend.rising) :
    s.storeReg a v = { s with pend := (s.storeReg a v).pend } ∧ (s.storeReg a v).pendReg a = v &&& d.mask ∧
      ∀ c, c ≠ a → (s.storeReg a v).pendReg c = s.pendReg c := by
  have hfree : s.frozen = false := by unfold State.frozen; rw [h1, h2]; rfl
  rw [storeReg_cfg v hd hc, hfree, if_neg (by decide), ← regReset_of_regDef hd]
  exact ⟨rfl, sget_sset_self _ _ _ hr, fun c hca => sget_sset_ne _ hca⟩

theorem storeReg_frozen {s : State} {a : Nat} {d : RegDef} (v : Word) (hd : regDef a = some d) (hc : d.cfg = true)
    (h : s.cfg.check.isSome = true ∨ s.cfg.armed.isSome = true) : s.storeReg a v = s.count 0x02 0x18C 2 := by
  have hfrozen : s.frozen = true := by unfold State.frozen; rwa [Bool.or_eq_true]
  rw [storeReg_cfg v hd hc, hfrozen, if_pos rfl]
  rfl

theorem cfgRefused_reset : regReset (pg 0x02 + 0x18C) = 0 := by decide +kernel

/-! ### Reads (17 R590) -/

/-- A read of a LO word keeps the HI word as it stands. -/
theorem latchFrom_spec (s : State) (a : Nat) (hl : latchesHi a = true) (hr : s.latch.rising) :
    s.latchFrom a = { s with latch := (s.latchFrom a).latch } ∧
      sget (s.latchFrom a).latch (latchReset (a + 4)) (a + 4) = s.liveVal (a + 4) := by
  have h4 : sget (sset s.latch (latchReset (a + 4)) (a + 4) (s.liveVal (a + 4))) (latchReset (a + 4)) (a + 4) = s.liveVal (a + 4) :=
    sget_sset_self _ _ _ hr
  unfold State.latchFrom
  dsimp only
  rw [hl, if_neg (by decide)]
  split
  · exact ⟨rfl, (sget_sset_ne _ (by omega)).trans h4⟩
  · exact ⟨rfl, h4⟩

theorem latchFrom_plain (s : State) (a : Nat) (hl : latchesHi a = false) : s.latchFrom a = s := if_pos (by rw [hl]; rfl)

theorem mctpRegisterAccess_spec (s : State) (a : Nat) (v : Word) (h : s.mctpOn = true) :
    exec (.mctpRegisterAccess (.write a v)) s = exec (.registerWrite .mctp a v) s ∧
      exec (.mctpRegisterAccess (.read a)) s = exec (.latchingRead .mctp a) s := by
  have hgo : ¬ ((!s.mctpOn) = true) := by rw [h]; decide
  exact ⟨congrArg Host.Outcome.next ((if_neg hgo).trans (barWrite_mctp s a v).symm),
    congrArg Host.Outcome.next ((if_neg hgo).trans (barRead_mctp s a).symm)⟩

/-- Settles O54: every access goes through `barWrite` or `barRead`, whose branches the lemmas above give one by one. -/
theorem registersTakeAccesses : Obligations.RegistersTakeAccesses := by
  refine ⟨registerWrite_missed, fun s p k v _ hup hk hf hv => registerWrite_msixData s p k v hup hk hf hv, msix_spec,
    fun s src page i b v hpg hp hten hon hr => intStatus_spec v hpg hp hten hon hr, ?_,
    fun s src a v hc => congrArg Host.Outcome.next (if_pos hc), ?_, ?_,
    fun s hm acc => congrArg Host.Outcome.next (if_pos (by rw [hm]; rfl)), mctpRegisterAccess_spec⟩
  · intro s src a i b v h4 hlt hp hten hon hc
    rw [counterClear_spec v h4 hlt hp hten hon hc]
    refine ⟨fun hv => by rw [hv]; rfl, fun hv => ⟨s.clearCounters a, by rw [hv]; rfl, rfl, rfl, rfl, reg_clearCounters s a⟩⟩
  · intro s src a i b v d h4 hlt hoff hp hb hon hc hd
    rw [registerWrite_stores v h4 hlt hoff hp hb hon hc]
    refine ⟨fun hcfg hr => ⟨by rw [storeReg_plain v hd hcfg], reg_setReg_self s a _ hr⟩,
      fun hcfg h1 h2 hr => ⟨_, rfl, storeReg_pending v hd hcfg h1 h2 hr⟩, fun hcfg hfr => ⟨_, rfl, ?_⟩⟩
    rw [storeReg_frozen v hd hcfg hfr]
    exact ⟨by rw [count_eq], by rw [count_eq], reg_count_counter s cfgRefused_reset (by decide)⟩
  · intro s src a i b h4 hlt hp hten hon
    have hread : exec (.latchingRead src a) s = .next ((s.latchFrom a).send (.regRead src a (s.readVal a))) :=
      congrArg Host.Outcome.next ((barRead_bar0 s src hlt).trans (bar0Read_reached h4 hlt hp hten hon))
    rw [hread]
    refine ⟨fun hl => by rw [latchFrom_plain s a hl], fun hl hr => ⟨_, rfl, ?_, (latchFrom_spec s a hl hr).2⟩⟩
    rw [(latchFrom_spec s a hl hr).1]
    rfl

end Sys2Proof.Machine


/-! Commits and rollbacks of configuration values, and the editions they form (17 R593 to R601; 16 R565). -/

namespace Sys2Proof.Machine

/-! ### Acceptance (17 R593, R599) -/

/-- The state in which the last commit or rollback ended with the code `n`. -/
def State.lastCode (s : State) (n : Nat) : State := { s with cfg := { s.cfg with last := n } }

section
variable {s : State} {l : Live} {rb : Bool}

theorem cfgAccept_early (h : s.reached .verify = false ∨ s.start = .recovery) :
    s.cfgAccept l rb = (s.lastCode Status.notReady.code).fail l.id .notReady := by
  have hgo : (!s.reached .verify) = true ∨ s.start = .recovery := h.imp (fun hv => by rw [hv]; rfl) id
  exact if_pos hgo

/-- A commit or rollback at a time when one is taken. -/
theorem cfgAccept_ready (hv : s.reached .verify = true) (hst : s.start ≠ .recovery) :
    s.cfgAccept l rb =
      if !(l.reservedOk 0 []) then ((s.lastCode Status.badCommand.code).count 0x02 0x188 1).fail l.id .badCommand
      else if s.cfg.check.isSome ∨ s.cfg.armed.isSome ∨ (rb ∧ !s.cfg.prevValid) then
        ((s.lastCode Status.conflict.code).count 0x02 0x188 1).fail l.id .conflict
      else State.setRunning { s with cfg := { s.cfg with check := some { id := l.id, rollback := rb, at_ := s.clk } } } l.id := by
  have hgo : ¬ ((!s.reached .verify) = true ∨ s.start = .recovery) := by rw [hv]; simp [hst]
  exact if_neg hgo

/-- The two commands take the same way. -/
theorem exec_cfgAccept {id : Nat} {c : Instr} (hlive : s.live id = some l) (hph : l.phase = .accepted) (hcp : l.compat = false)
    (hc : (rb = false ∧ l.op = 0x11 ∧ c = .cfgCommit id) ∨ (rb = true ∧ l.op = 0x12 ∧ c = .cfgRollback id)) :
    exec c s = .next (s.cfgAccept l rb) := by
  rcases hc with ⟨rfl, hop, rfl⟩ | ⟨rfl, hop, rfl⟩
  · exact congrArg Host.Outcome.next (State.Fresh.onNew ⟨hlive, hop, hph, hcp⟩ _)
  · exact congrArg Host.Outcome.next (State.Fresh.onNew ⟨hlive, hop, hph, hcp⟩ _)

end

/-! ### The end of a commit or rollback (17 R601) -/

/-- No check runs, nothing is armed, and the last commit or rollback ended with the code `n`. -/
def State.cfgClosed (s : State) (n : Nat) : State := { s with cfg := { s.cfg with check := none, armed := none, last := n } }

theorem cfgEnd_refused (s : State) (c : Check) {st : Status} (h : st ≠ .ok) :
    s.cfgEnd c st = ((s.cfgClosed st.code).count 0x02 0x188 1).fail c.id st := if_neg h

theorem cfgEnd_ok (s : State) (c : Check) : s.cfgEnd c .ok =
    ((s.cfgClosed Status.ok.code).bump (pg 0x02 + (if c.rollback then 0x184 else 0x180))).complete c.id .ok
      (some (0, split64 s.cfg.edition ++ split64 s.cfg.applied)) := rfl

/-- What a `Keep` without a new edition says of the banks. -/
theorem Keep.banks {r : Bool} {z s : State} (h : Keep true r z s) :
    s.act = z.act ∧ s.prev = z.prev ∧ s.cfg.edition = z.cfg.edition ∧ s.cfg.armed = z.cfg.armed := by
  obtain ⟨_, _, _, _, _, hbanks, _⟩ := h
  obtain ⟨hact, hprev, hed, harm, _⟩ := hbanks rfl
  exact ⟨hact, hprev, hed, harm⟩

/-- Whatever a state came from, it is a state to come from. -/
theorem Keep.restart {b r : Bool} {z s : State} (h : Keep b r z s) : Keep true true s s := by
  obtain ⟨hmem, _, _, _, _, _, htab⟩ := h
  exact ⟨hmem, rfl, rfl, le_rfl, fun _ => ⟨le_rfl, List.prefix_rfl, fun hr => ⟨hr, le_rfl⟩⟩,
    fun _ => ⟨rfl, rfl, rfl, rfl, rfl, rfl, rfl, rfl, rfl, rfl⟩, htab⟩

theorem Keep.closed {s : State} (h : Keep true true s s) (n : Nat) : Keep true true (s.cfgClosed n) (s.cfgClosed n) := by
  obtain ⟨hmem, _, _, _, _, _, htab⟩ := h
  exact ⟨hmem, rfl, rfl, le_rfl, fun _ => ⟨le_rfl, List.prefix_rfl, fun hr => ⟨hr, le_rfl⟩⟩,
    fun _ => ⟨rfl, rfl, rfl, rfl, rfl, rfl, rfl, rfl, rfl, rfl⟩, htab⟩

/-- The end of a commit or rollback leaves the banks and the edition, and nothing armed. -/
theorem cfgEnd_banks {s : State} (c : Check) (st : Status) (hK : Keep true true s s) :
    (s.cfgEnd c st).act = s.act ∧ (s.cfgEnd c st).prev = s.prev ∧ (s.cfgEnd c st).cfg.edition = s.cfg.edition ∧
      (s.cfgEnd c st).cfg.armed = none := by
  by_cases h : st = .ok
  · subst h
    rw [cfgEnd_ok]
    exact (keep_complete _ _ _ _ (keep_bump _ _ _ (hK.closed _))).banks
  · rw [cfgEnd_refused s c h]
    exact (keep_fail _ _ _ (keep_count _ _ _ _ (hK.closed _))).banks

/-! ### What is settled before a new edition (11 R413; 14 R529) -/

/-- A state that differs in its ports alone. -/
def PortsOnly (s t : State) : Prop := t = { s with net := t.net, port0 := t.port0, port1 := t.port1 }

theorem PortsOnly.trans {s t u : State} (h : PortsOnly s t) (h' : PortsOnly t u) : PortsOnly s u := by
  unfold PortsOnly at *
  rw [h', h]

theorem portsOnly_fillTokens (s : State) (p : Nat) : PortsOnly s (s.fillTokens p) := by
  unfold State.fillTokens PortsOnly State.setPort
  dsimp only
  split <;> rfl

theorem portsOnly_gateSettle (s : State) (n : Nat) : PortsOnly s (s.gateSettle n) := rfl

/-- Credits and tokens settled at the old rates, before an edition. -/
def State.settled (s : State) : State := s.netPorts.foldl (fun s n => s.gateSettle n) ((s.fillTokens 0).fillTokens 1)

theorem portsOnly_settled (s : State) : PortsOnly s s.settled :=
  List.foldlRecOn s.netPorts _ (motive := PortsOnly s) ((portsOnly_fillTokens s 0).trans (portsOnly_fillTokens _ 1))
    fun t ht n _ => ht.trans (portsOnly_gateSettle t n)

theorem keep_settled {β ρ : Bool} {z s : State} (hK : Keep β ρ z s) : Keep β ρ z s.settled :=
  keep_foldl _ _ _ (keep_fillTokens _ _ (keep_fillTokens _ _ hK)) (fun s n h => keep_gateSettle s n h)

/-! ### A re-plan joins (16 R565, R566) -/

theorem rasOnly_foldl {α : Type} {f : State → α → State} (hf : ∀ s a, RasOnly s (f s a)) (l : List α) (s : State) :
    RasOnly s (l.foldl f s) :=
  List.foldlRecOn l f (motive := RasOnly s) (RasOnly.refl s) fun t ht a _ => ht.trans (hf t a)

/-- A re-plan's outputs stand in the health block; the rest is counted and recorded. -/
theorem replanApply_ras (s : State) (o : Outs) :
    ∃ h : Hlt, h.floor = o.floor ∧ RasOnly { s with hlt := h } (s.replanApply o) := by
  have hfloor : ∀ u : State, RasOnly u (if s.hlt.floor = o.floor then u else u.raise 0x78 2) := by
    intro u
    split
    · exact RasOnly.refl u
    · exact rasOnly_raise u _ _
  have hrec : ∀ u : State, RasOnly u (if s.hlt.floor < o.floor then u.rasRecord 0x78 0x0D 0 0 o.floor else u) := by
    intro u
    split
    · exact rasOnly_rasRecord u _ _ _ _ _
    · exact RasOnly.refl u
  refine ⟨_, ?_, (((((rasOnly_bump _ _ _).trans (rasOnly_bump _ _ _)).trans (hfloor _)).trans (hrec _)).trans
    (rasOnly_foldl (fun s u => rasOnly_rasRecord s _ _ _ u _) _ _)).trans (rasOnly_count _ _ _ _)⟩
  rfl

theorem replanApply_spec (s : State) (o : Outs) : (s.replanApply o).hlt.floor = o.floor ∧ (s.replanApply o).act = s.act ∧
    (s.replanApply o).prev = s.prev ∧ (s.replanApply o).cfg = s.cfg := by
  obtain ⟨h, hfloor, hras⟩ := replanApply_ras s o
  rw [hras]
  exact ⟨hfloor, rfl, rfl, rfl⟩

theorem replanJoin_spec (s : State) : s.replanJoin.act = floorBank s.act (match s.hlt.ready with | some o => o.floor | none => s.hlt.floor) ∧
    s.replanJoin.prev = s.prev ∧ s.replanJoin.cfg = s.cfg := by
  unfold State.replanJoin
  cases hr : s.hlt.ready with
  | none => exact ⟨rfl, rfl, rfl⟩
  | some o =>
    obtain ⟨hfloor, hact, hprev, hcfg⟩ := replanApply_spec s o
    dsimp only
    exact ⟨by rw [hfloor, hact], hprev, hcfg⟩

theorem newEdition_spec (s : State) (lag : List Nat) (joined : Bool) : (s.newEdition lag joined).act = s.act ∧
    (s.newEdition lag joined).prev = s.prev ∧ (s.newEdition lag joined).cfg.edition = s.cfg.edition + 1 := by
  unfold State.newEdition
  rw [raise_eq]
  exact ⟨rfl, rfl, rfl⟩

theorem newGrid_spec (s : State) (grid : Bool) (take : Option Grid) : (s.newGrid grid take).act = s.act ∧
    (s.newGrid grid take).prev = s.prev ∧ (s.newGrid grid take).cfg = s.cfg := by
  unfold State.newGrid
  split
  · exact ⟨rfl, rfl, rfl⟩
  · split
    · exact ⟨rfl, rfl, rfl⟩
    · split <;> exact ⟨rfl, rfl, rfl⟩

theorem switchBanks_spec (s : State) (c : Check) : (s.switchBanks c).act = floorBank (s.checkBank c) s.hlt.floor ∧
    (s.switchBanks c).prev = s.act ∧ (s.switchBanks c).cfg = s.cfg := by
  unfold State.switchBanks
  dsimp only
  split <;> exact ⟨rfl, rfl, rfl⟩

/-! ### The boundary (17 R596, R599, R601) -/

/-- The bank switched, with what a re-plan brings. -/
def State.switched (s : State) (c : Check) : State := if s.replanDue then (s.switchBanks c).replanJoin else s.switchBanks c

theorem keep_switched {ρ : Bool} {z s : State} (c : Check) (hK : Keep false ρ z s) : Keep false ρ z (s.switched c) := by
  unfold State.switched
  split
  · exact keep_replanJoin _ (keep_switchBanks _ _ hK)
  · exact keep_switchBanks _ _ hK

theorem switched_spec (s : State) (c : Check) : (s.switched c).prev = s.act ∧ (s.switched c).cfg = s.cfg ∧
    (s.replanDue = false → (s.switched c).act = floorBank (s.checkBank c) s.hlt.floor) := by
  obtain ⟨hact, hprev, hcfg⟩ := switchBanks_spec s c
  unfold State.switched
  split
  · next h =>
    obtain ⟨_, hjprev, hjcfg⟩ := replanJoin_spec (s.switchBanks c)
    exact ⟨hjprev.trans hprev, hjcfg.trans hcfg, fun hno => absurd h (by rw [hno]; decide)⟩
  · exact ⟨hprev, hcfg, fun _ => hact⟩

theorem cfgApply_eq (s : State) (c : Check) (grid : Bool) (take : Option Grid) : s.cfgApply c grid take =
    ((((s.settled.switched c).newEdition (s.settled.lagPages (s.settled.checkBank c) s.settled.stk.running) s.settled.replanDue).newGrid
      grid take).cfgHooks s.settled).cfgEnd c .ok := rfl

/-- A commit or rollback that applies. -/
theorem cfgApply_spec {s : State} (c : Check) (grid : Bool) (take : Option Grid) (hK : Keep true true s s) :
    (s.cfgApply c grid take).cfg.armed = none ∧ (s.cfgApply c grid take).prev = s.act ∧
      (s.cfgApply c grid take).cfg.edition = s.cfg.edition + 1 ∧
      (s.replanDue = false → (s.cfgApply c grid take).act = floorBank (s.checkBank c) s.hlt.floor) := by
  have hK0 : Keep false true s s := hK.weaken (fun h => nomatch h) id
  have hset := portsOnly_settled s
  obtain ⟨hsprev, hscfg, hsact⟩ := switched_spec s.settled c
  have hKs := keep_switched c (keep_settled hK0)
  rw [cfgApply_eq]
  generalize hlag : s.settled.lagPages (s.settled.checkBank c) s.settled.stk.running = lag
  obtain ⟨heact, heprev, heed⟩ := newEdition_spec (s.settled.switched c) lag s.settled.replanDue
  obtain ⟨hgact, hgprev, hgcfg⟩ := newGrid_spec ((s.settled.switched c).newEdition lag s.settled.replanDue) grid take
  have hKg := (keep_newGrid _ grid take (keep_newEdition _ lag s.settled.replanDue hKs)).restart
  have hKh := keep_cfgHooks _ s.settled hKg
  obtain ⟨hhact, hhprev, hhed, _⟩ := hKh.banks
  obtain ⟨hdact, hdprev, hded, hdarm⟩ := cfgEnd_banks c .ok hKh.restart
  have hsettled : s.settled.act = s.act ∧ s.settled.cfg = s.cfg ∧ s.settled.replanDue = s.replanDue ∧
      floorBank (s.settled.checkBank c) s.settled.hlt.floor = floorBank (s.checkBank c) s.hlt.floor := by
    rw [hset]
    exact ⟨rfl, rfl, rfl, rfl⟩
  obtain ⟨htact, htcfg, htdue, htbank⟩ := hsettled
  refine ⟨hdarm, ?_, ?_, fun hdue => ?_⟩
  · rw [hdprev, hhprev, hgprev, heprev, hsprev, htact]
  · rw [hded, hhed, hgcfg, heed, hscfg, htcfg]
  · rw [hdact, hhact, hgact, heact, hsact (htdue.trans hdue), htbank]

/-- An edition without a commit. -/
theorem editionAlone_spec {s : State} (hK : Keep true true s s) : s.editionAlone.prev = s.act ∧
    s.editionAlone.cfg.edition = s.cfg.edition + 1 ∧
    s.editionAlone.act = floorBank s.act (match s.hlt.ready with | some o => o.floor | none => s.hlt.floor) := by
  have hK0 : Keep false true s s := hK.weaken (fun h => nomatch h) id
  have hKj := keep_replanJoin _ (keep_prevAct s hK0)
  obtain ⟨hjact, hjprev, hjcfg⟩ := replanJoin_spec { s with prev := s.act }
  unfold State.editionAlone
  dsimp only
  generalize State.replanJoin { s with prev := s.act } = t at *
  obtain ⟨heact, heprev, heed⟩ := newEdition_spec t (t.lagPages t.act t.stk.running) true
  obtain ⟨hhact, hhprev, hhed, _⟩ := (keep_cfgHooks _ s (keep_newEdition t (t.lagPages t.act t.stk.running) true hKj).restart).banks
  exact ⟨by rw [hhprev, heprev, hjprev], by rw [hhed, heed, hjcfg], by rw [hhact, heact, hjact]⟩

/-- What stops a commit at its boundary. -/
def State.cfgStopped (s : State) (c : Check) (b : Int) : Prop :=
  s.widthClash (s.checkBank c) = true ∨ (gridNew s.act (s.checkBank c) = true ∧ s.stk.running = true ∧
    s.gridTake (s.checkBank c) s.stk.stroke b = none)

/-- The takeover of a commit's grid. -/
def State.cfgTake (s : State) (c : Check) (b : Int) : Option Grid :=
  if gridNew s.act (s.checkBank c) ∧ s.stk.running then s.gridTake (s.checkBank c) s.stk.stroke b else none

theorem cfgStopped_iff (s : State) (c : Check) (b : Int) : s.cfgStopped c b ↔
    (gridNew s.act (s.checkBank c) = true ∧ s.stk.running = true ∧ (s.cfgTake c b).isNone = true) ∨ s.widthClash (s.checkBank c) = true := by
  unfold State.cfgStopped State.cfgTake
  by_cases h : gridNew s.act (s.checkBank c) = true ∧ s.stk.running = true
  · rw [if_pos h, Option.isNone_iff_eq_none]
    tauto
  · tauto

theorem cfgBoundary_armed {s : State} {c : Check} (b : Int) (h : s.cfg.armed = some c) : s.cfgBoundary b =
    if (gridNew s.act (s.checkBank c) = true ∧ s.stk.running = true ∧ (s.cfgTake c b).isNone = true) ∨ s.widthClash (s.checkBank c) = true then
      if s.replanDue then (s.cfgEnd c .conflict).editionAlone else s.cfgEnd c .conflict
    else s.cfgApply c (gridNew s.act (s.checkBank c)) (s.cfgTake c b) := by
  unfold State.cfgBoundary
  rw [h]
  rfl

theorem cfgBoundary_stopped {s : State} {c : Check} {b : Int} (h : s.cfg.armed = some c) (hstop : s.cfgStopped c b)
    (hdue : s.replanDue = false) : s.cfgBoundary b = s.cfgEnd c .conflict := by
  rw [cfgBoundary_armed b h, if_pos ((cfgStopped_iff s c b).mp hstop), if_neg (by rw [hdue]; decide)]

theorem cfgBoundary_applies {s : State} {c : Check} {b : Int} (h : s.cfg.armed = some c) (hgo : ¬ s.cfgStopped c b) :
    s.cfgBoundary b = s.cfgApply c (gridNew s.act (s.checkBank c)) (s.cfgTake c b) := by
  rw [cfgBoundary_armed b h, if_neg (fun hs => hgo ((cfgStopped_iff s c b).mpr hs))]

theorem cfgBoundary_replan {s : State} {o : Outs} (b : Int) (h : s.cfg.armed = none) (ho : s.hlt.ready = some o) :
    s.cfgBoundary b = s.editionAlone := by
  have hdue : s.replanDue = true := by
    unfold State.replanDue
    rw [ho]
    rfl
  unfold State.cfgBoundary
  rw [h]
  dsimp only
  rw [if_pos hdue]

/-! ### The end of a check (17 R593, R594, R597) -/

section
variable {s : State} {c : Check} (t : Nat)

theorem cfgCheckEnd_bad {p o : Nat} (h : s.cfg.check = some c)
    (hbad : firstBad (fun a => sget (s.checkBank c) (regReset a) a) = some (p, o)) :
    exec (.cfgCheckEnd t) s = .next (State.cfgEnd { s.at_ t with cfg := { s.cfg with fail := w32 (2 ^ 31 + p * 2 ^ 16 + o) } } c .badCommand) := by
  have hbad' : firstBad (fun a => sget ((s.at_ t).checkBank c) (regReset a) a) = some (p, o) := hbad
  show execCfgCheckEnd t s = _
  unfold execCfgCheckEnd
  dsimp only
  rw [State.atTime_cfg, h]
  dsimp only
  rw [hbad']

/-- The commit or rollback whose check has passed is armed. -/
def State.armedWith (s : State) (c : Check) : State := { s with cfg := { s.cfg with check := none, armed := some c } }

theorem cfgCheckEnd_good (h : s.cfg.check = some c) (hgood : firstBad (fun a => sget (s.checkBank c) (regReset a) a) = none) :
    exec (.cfgCheckEnd t) s = .next ((s.at_ t).armedWith c).cfgNow := by
  have hgood' : firstBad (fun a => sget ((s.at_ t).checkBank c) (regReset a) a) = none := hgood
  show execCfgCheckEnd t s = _
  unfold execCfgCheckEnd
  dsimp only
  rw [State.atTime_cfg, h]
  dsimp only
  rw [hgood']
  rfl

theorem cfgCheckEnd_idle (h : s.cfg.check = none) : exec (.cfgCheckEnd t) s = .next (s.at_ t) := by
  show execCfgCheckEnd t s = _
  unfold execCfgCheckEnd
  dsimp only
  rw [State.atTime_cfg, h]

end

/-- Settles O55: an edition is formed by `cfgApply` or `editionAlone`, and what runs after its bank has been switched keeps the
banks and the edition (`Keep`). -/
theorem editionsReplaceTheBanks : Obligations.EditionsReplaceTheBanks := by
  refine ⟨?_, ?_, ?_, ?_, ?_, ?_, ?_⟩
  · rintro s id l rb c hlive hph hcp hc w rfl
    obtain rfl := live_id hlive
    rw [exec_cfgAccept hlive hph hcp hc]
    refine ⟨fun h => by rw [cfgAccept_early h]; rfl, fun hv hst => ?_⟩
    rw [cfgAccept_ready hv hst]
    refine ⟨fun hres => by rw [hres]; rfl, fun hres => ?_⟩
    rw [hres, if_neg (by decide)]
    refine ⟨fun hbusy => by rw [if_pos (by simpa using hbusy)]; rfl, fun h1 h2 h3 => ?_⟩
    rw [if_neg]
    · exact ⟨_, rfl, rfl, rfl, rfl, rfl⟩
    · rw [h1, h2]
      rintro (h | h | ⟨hrb, hno⟩)
      · exact Bool.noConfusion h
      · exact Bool.noConfusion h
      · rw [h3 hrb] at hno
        exact Bool.noConfusion hno
  · exact fun s t h => cfgCheckEnd_idle t h
  · intro s t c p o h hm hk hbad
    rw [cfgCheckEnd_bad t h hbad]
    have hK : Keep true true (s.at_ t) (s.at_ t) := keep_self hm hk
    obtain ⟨hact, hprev, hed, _⟩ := cfgEnd_banks (s := { s.at_ t with cfg := { s.cfg with fail := w32 (2 ^ 31 + p * 2 ^ 16 + o) } })
      c .badCommand hK
    exact ⟨_, rfl, rfl, hact, hprev, hed⟩
  · refine fun g p o => ⟨fun h => ⟨?_, List.mem_of_find?_eq_some h⟩, fun h r hr => ?_⟩
    · have hbad := List.find?_some (p := fun r : Nat × Nat => limitBad g r.1 r.2) h
      exact hbad
    · simpa using List.find?_eq_none.mp h r hr
  · intro s t c h hgood
    rw [cfgCheckEnd_good t h hgood]
    exact ⟨fun hrun => congrArg Host.Outcome.next (if_pos hrun),
      fun hrun => congrArg Host.Outcome.next (if_neg (by simpa [State.armedWith, State.at_] using hrun))⟩
  · rintro s b c h hm hk u rfl
    have hK := keep_self hm hk
    refine ⟨fun hstop hdue => ?_, fun hw hg => ?_⟩
    · rw [cfgBoundary_stopped h hstop hdue]
      obtain ⟨hact, hprev, hed, _⟩ := cfgEnd_banks c .conflict hK
      exact ⟨rfl, hact, hprev, hed⟩
    · have hgo : ¬ s.cfgStopped c b := by
        rintro (hs | ⟨h1, h2, h3⟩)
        · rw [hs] at hw; exact Bool.noConfusion hw
        · rw [h1, h2, h3] at hg
          simp at hg
      rw [cfgBoundary_applies h hgo]
      exact cfgApply_spec c _ _ hK
  · intro s b o h ho hm hk
    rw [cfgBoundary_replan b h ho]
    obtain ⟨hprev, hed, hact⟩ := editionAlone_spec (keep_self hm hk)
    rw [ho] at hact
    exact ⟨hprev, hact, hed⟩

end Sys2Proof.Machine


/-! Resets, start-up phases, and lost clocks and dies (17 R602, R605, R607; 16 R571, R577; 18 R618 to R633). -/

namespace Sys2Proof.Machine

/-! ### Cold reset (17 R602) -/

/-- What a cold reset leaves, beyond the hold. -/
theorem coldReset_spec (s : State) (cause : Nat) (u : State) (hu : u = s.coldReset cause) :
    u.start = .verify ∧ u.reg (pg 0x00 + 0x108) = w32 cause ∧
      sameRegsBut State.reset u [pg 0x00 + 0x108] ∧ u.act = [] ∧ u.pend = [] ∧ u.prev = [] ∧ u.latch = [] ∧ u.cfg = State.reset.cfg ∧
      u.que = State.reset.que ∧ u.dma = State.reset.dma ∧ u.ten = State.reset.ten ∧ u.psa = State.reset.psa ∧ u.pfs = State.reset.pfs ∧
      u.npa = State.reset.npa ∧ u.brn = State.reset.brn ∧ u.stk = State.reset.stk ∧ u.net = State.reset.net ∧ u.ras = State.reset.ras ∧ u.cxl = [] ∧
      u.dir.slots = s.dir.slots ∧ u.dir.proofs = [] ∧ u.tier.moves = [] ∧ u.sec.fuse = s.sec.fuse ∧ u.flm = s.flm.afterReset ∧
      u.host0 = s.host0 ∧ u.host1 = s.host1 ∧ u.out = s.out ∧ u.pending = s.pending := by
  subst hu
  refine ⟨rfl, reg_setReg_self s.resetBase _ _ List.Pairwise.nil, fun a ha => ?_, rfl, rfl, rfl, rfl, rfl, rfl, rfl, rfl, rfl, rfl, rfl, rfl, rfl,
    rfl, rfl, rfl, rfl, rfl, rfl, rfl, rfl, rfl, rfl, rfl, rfl⟩
  exact reg_setReg_ne s.resetBase _ (by simpa using ha)

/-- The four events that reset cold hold the device. -/
theorem coldReset_holds (s : State) (t : Nat) :
    ∀ p ∈ [(Instr.resetL t, 1), (.pwrGood false t, 0), (.sysRefclkLoss t, 1), (.thermalComparator, 0)],
      ∃ v : State, exec p.1 s = .next (v.coldReset p.2) ∧ (v.coldReset p.2).held = true ∧ v.dir = s.dir ∧ v.sec = s.sec ∧ v.flm = s.flm ∧
        v.host0 = s.host0 ∧ v.host1 = s.host1 ∧ v.out = s.out ∧ v.pending = s.pending := by
  intro p hp
  simp only [List.mem_cons, List.not_mem_nil, or_false] at hp
  rcases hp with rfl | rfl | rfl | rfl
  · exact ⟨_, rfl, by simp [State.held, State.coldReset, State.resetBase, State.setReg], rfl, rfl, rfl, rfl, rfl, rfl, rfl⟩
  · exact ⟨_, rfl, by simp [State.held, State.coldReset, State.resetBase, State.setReg], rfl, rfl, rfl, rfl, rfl, rfl, rfl⟩
  · exact ⟨_, rfl, by simp [State.held, State.coldReset, State.resetBase, State.setReg], rfl, rfl, rfl, rfl, rfl, rfl, rfl⟩
  · exact ⟨_, rfl, by simp [State.held, State.coldReset, State.resetBase, State.setReg], rfl, rfl, rfl, rfl, rfl, rfl, rfl⟩

/-! ### The blocks take the kept bank (17 R602, R603) -/

theorem rising_setReg {s : State} (a : Nat) (v : Word) (h : s.regs.rising) : (s.setReg a v).regs.rising := rising_sset _ _ _ h

theorem rising_raise {s : State} (page i : Nat) (h : s.regs.rising) : (s.raise page i).regs.rising := by
  rw [raise_eq]
  exact rising_setReg _ _ h

theorem rising_count {s : State} (page off i : Nat) (h : s.regs.rising) : (s.count page off i).regs.rising :=
  rising_raise page i (rising_setReg _ _ h)

/-- `t` is `s` but for what a new bank touches: engines, gates, tokens, setpoints and where the edition governs. -/
def BankOnly (s t : State) : Prop :=
  t = { s with brn := t.brn, cfg := t.cfg, hlt := t.hlt, regs := t.regs, fns := t.fns, out := t.out, net := t.net, port0 := t.port0, port1 := t.port1 } ∧
    (t.cfg.edition = s.cfg.edition ∧ t.cfg.check = s.cfg.check ∧ t.cfg.armed = s.cfg.armed) ∧
    sameRegsBut s t [pg (brnPage 0) + 0x234, pg (brnPage 0) + 0x10] ∧ (s.regs.rising → t.regs.rising)

theorem BankOnly.refl (s : State) : BankOnly s s := ⟨rfl, ⟨rfl, rfl, rfl⟩, fun _ _ => rfl, id⟩

theorem BankOnly.trans {s t u : State} (h : BankOnly s t) (h' : BankOnly t u) : BankOnly s u := by
  obtain ⟨heq, ⟨hed, hck, harm⟩, hregs, hrise⟩ := h
  obtain ⟨heq', ⟨hed', hck', harm'⟩, hregs', hrise'⟩ := h'
  exact ⟨by rw [heq', heq], ⟨hed'.trans hed, hck'.trans hck, harm'.trans harm⟩, fun a ha => (hregs' a ha).trans (hregs a ha),
    fun hr => hrise' (hrise hr)⟩

theorem bankOnly_brnApply (s : State) : BankOnly s s.brnApply := by
  unfold State.brnApply
  dsimp only
  split
  · rw [foldl_setCore_brn]
    exact ⟨rfl, ⟨rfl, rfl, rfl⟩, fun _ _ => rfl, id⟩
  · exact .refl s

theorem rising_clockStep (s : State) (h : s.regs.rising) : s.clockStep.regs.rising := by
  unfold State.clockStep
  dsimp only
  split
  · exact h
  · split
    · exact h
    · split
      · exact h
      · split
        · exact rising_count (s := { s with brn := { s.brn with step := max s.brn.gov s.brn.cap } }) _ _ _ h
        · exact rising_count (s := { s with brn := { s.brn with step := max s.brn.gov s.brn.cap } }) _ _ _ h

theorem bankOnly_clockStep (s : State) : BankOnly s s.clockStep := by
  obtain ⟨heq, hregs⟩ := clockOnly_clockStep s
  obtain ⟨_, hcfg⟩ := clockStep_keeps s
  exact ⟨by rw [heq], ⟨by rw [hcfg], by rw [hcfg], by rw [hcfg]⟩, hregs, rising_clockStep s⟩

theorem bankOnly_betweenOps (s : State) : BankOnly s s.betweenOps := by
  unfold State.betweenOps
  split
  · exact (bankOnly_brnApply s).trans (bankOnly_clockStep _)
  · exact .refl s

theorem bankOnly_setGate (s : State) (n : Nat) (g : Gate) : BankOnly s (s.setGate n g) := ⟨rfl, ⟨rfl, rfl, rfl⟩, fun _ _ => rfl, id⟩

theorem bankOnly_lag (s : State) (l : Sparse Nat) : BankOnly s { s with cfg := { s.cfg with lag := l } } :=
  ⟨rfl, ⟨rfl, rfl, rfl⟩, fun _ _ => rfl, id⟩

theorem bankOnly_gateFill (s old : State) (n : Nat) : BankOnly s (s.gateFill old n) := by
  unfold State.gateFill
  exact bankOnly_setGate s n _

theorem bankOnly_gateRefresh (s : State) (n : Nat) : BankOnly s (s.gateRefresh n) := by
  have hcredit : BankOnly s (s.settleCredit n) := by
    unfold State.settleCredit
    exact bankOnly_setGate s n _
  unfold State.gateRefresh
  exact hcredit.trans (bankOnly_setGate _ n _)

theorem bankOnly_gateTake (s : State) (n : Nat) : BankOnly s (s.gateTake n) := by
  unfold State.gateTake
  exact ((bankOnly_lag s _).trans (bankOnly_setGate _ n _)).trans (bankOnly_gateRefresh _ n)

theorem bankOnly_fullTokens (s : State) (p : Nat) : BankOnly s (s.fullTokens p) := by
  unfold State.fullTokens State.setPort
  split <;> exact ⟨rfl, ⟨rfl, rfl, rfl⟩, fun _ _ => rfl, id⟩

/-- The grid and the spill region of the active bank, before the engines and the gates take theirs. -/
def State.gridStart (s : State) : State :=
  { s with
    stk := { s.stk with epoch := (gridOf s.act).1, period := (gridOf s.act).2 },
    net := { s.net with spill := s.cfgReg (pg 0x64 + 0x120),
                        spillBase := (s.cfgReg (pg 0x64 + 0x124)).toNat + 2 ^ 32 * (s.cfgReg (pg 0x64 + 0x128)).toNat },
    cfg := { s.cfg with lag := [(0x20, 1)] } }

/-- No page reports an older edition. -/
def State.lagClear (s : State) : State := { s with cfg := { s.cfg with lag := [] } }

theorem bankStart_eq (s : State) : s.bankStart =
    (s.gridStart.betweenOps.lagClear).netPorts.foldl (fun u n => (u.gateFill { s.gridStart.betweenOps.lagClear with act := [] } n).gateTake n)
      s.gridStart.betweenOps.lagClear := rfl

theorem bankOnly_bankStart (s : State) : BankOnly s.gridStart s.bankStart := by
  rw [bankStart_eq]
  have hlag : BankOnly s.gridStart s.gridStart.betweenOps.lagClear :=
    (bankOnly_betweenOps s.gridStart).trans (bankOnly_lag _ [])
  exact List.foldlRecOn _ _ (motive := BankOnly s.gridStart) hlag fun t ht n _ =>
    (ht.trans (bankOnly_gateFill t _ n)).trans (bankOnly_gateTake _ n)

/-! ### Warm reset (17 R602, R607; 16 R571) -/

/-- The registers that keep their values through a warm reset. -/
def warmRegs : List Nat := [pg 0x00 + 0x10C, pg 0x79 + 0x140, pg 0x79 + 0x144, pg 0x6C + 0x100, pg 0x6C + 0x104]

/-- A warm reset before the blocks take the kept bank. -/
def State.warmBase (s : State) : State :=
  { s.resetBase with
    act := s.act, pend := s.pend, prev := s.prev, latch := s.cfgLatch,
    regs := s.regs.filter (fun e => warmRegs.contains e.1),
    cfg := { s.resetBase.cfg with edition := s.cfg.edition, prevEdition := s.cfg.prevEdition, prevValid := s.cfg.prevValid,
                                  applied := s.cfg.applied },
    ten := { s.resetBase.ten with tbl := s.ten.tbl },
    hlt := { s.resetBase.hlt with vf := s.hlt.vf, floor := s.hlt.floor, refresh := s.hlt.refresh, slackBase := s.hlt.slackBase,
                                  vcore := s.hlt.vf.getD 0 0x2EE, settleAt := s.clk + 20000, lastAt := s.hlt.lastAt,
                                  trend := s.hlt.trend.map (fun (e : Nat × Trend) => (e.1, { e.2 with bits := 0, words := 0 })) } }

/-- A warm reset before its cause is reported. -/
def State.warmStart (s : State) : State := (s.warmBase.bankStart.fullTokens 0).fullTokens 1

theorem warmReset_eq (s : State) (cause : Nat) : s.warmReset cause =
    ((s.warmStart.setReg (pg 0x00 + 0x108) (w32 cause)).bump (pg 0x00 + 0x10C)).raise 0x00 2 := rfl

theorem bankOnly_warmStart (s : State) : BankOnly s.warmBase.gridStart s.warmStart :=
  ((bankOnly_bankStart s.warmBase).trans (bankOnly_fullTokens _ 0)).trans (bankOnly_fullTokens _ 1)

theorem rising_warmStart {s : State} (h : s.regs.rising) : s.warmStart.regs.rising := by
  obtain ⟨_, _, _, hrise⟩ := bankOnly_warmStart s
  exact hrise (rising_filter _ h)

theorem reg_warmStart (s : State) {a : Nat} (ha : a ∈ warmRegs) : s.warmStart.reg a = s.reg a := by
  obtain ⟨_, _, hregs, _⟩ := bankOnly_warmStart s
  have hother : a ∉ [pg (brnPage 0) + 0x234, pg (brnPage 0) + 0x10] := by
    simp only [warmRegs, List.mem_cons, List.not_mem_nil, or_false] at ha
    rcases ha with rfl | rfl | rfl | rfl | rfl <;> decide
  have hbase : s.warmBase.gridStart.reg a = s.reg a :=
    (sget_filter_keys (keep := fun k => warmRegs.contains k)).trans (if_pos (List.contains_iff_mem.mpr ha))
  exact (hregs a hother).trans hbase

/-- What a warm reset keeps stands before its cause is reported. -/
theorem warmKept_warmStart (s : State) : s.warmKept s.warmStart := by
  obtain ⟨heq, ⟨hed, hck, harm⟩, _, _⟩ := bankOnly_warmStart s
  have hget : ∀ {α : Type} (f : State → α), f s.warmStart = f { s.warmBase.gridStart with
      brn := s.warmStart.brn, cfg := s.warmStart.cfg, hlt := s.warmStart.hlt, regs := s.warmStart.regs, fns := s.warmStart.fns,
      out := s.warmStart.out, net := s.warmStart.net, port0 := s.warmStart.port0, port1 := s.warmStart.port1 } := fun f => congrArg f heq
  exact ⟨hget State.start, hget State.act, hget State.pend, hget State.prev, hed, hck, harm, hget State.ten,
    reg_warmStart s (by decide), reg_warmStart s (by decide), hget State.que, hget State.dma, hget State.psa, hget State.pfs, hget State.npa,
    hget State.ras, hget State.cxl, hget (fun u => u.stk.sync), hget (fun u => u.stk.running), hget (fun u => u.stk.insts),
    hget (fun u => u.dir.slots), hget (fun u => u.dir.proofs), hget (fun u => u.tier.moves), hget (fun u => u.sec.fuse), hget State.flm,
    hget State.host0, hget State.host1, hget State.pending⟩

theorem pwrTrip_warmStart (s : State) : s.warmStart.pwr.trip = s.pwr.trip := by
  obtain ⟨heq, _, _, _⟩ := bankOnly_warmStart s
  exact (congrArg (fun u : State => u.pwr.trip) heq).trans rfl

/-- Registers written after the reset, other than the tenant page's, leave what it keeps. -/
theorem warmKept_setReg {s u : State} {a : Nat} (v : Word) (h : s.warmKept u) (h1 : a ≠ pg 0x6C + 0x100) (h2 : a ≠ pg 0x6C + 0x104) :
    s.warmKept (u.setReg a v) := by
  obtain ⟨hstart, hact, hpend, hprev, hed, hck, harm, hten, hreg1, hreg2, hrest⟩ := h
  exact ⟨hstart, hact, hpend, hprev, hed, hck, harm, hten, (reg_setReg_ne u v h1.symm).trans hreg1, (reg_setReg_ne u v h2.symm).trans hreg2, hrest⟩

theorem warmKept_raise {s u : State} {page i : Nat} (h : s.warmKept u) (h1 : pg page + 0x10 ≠ pg 0x6C + 0x100) (h2 : pg page + 0x10 ≠ pg 0x6C + 0x104) :
    s.warmKept (u.raise page i) := by
  rw [raise_eq]
  exact warmKept_setReg _ h h1 h2

theorem resetCount_reset : regReset (pg 0x00 + 0x10C) = 0 := by decide +kernel

/-- A warm reset keeps what it keeps, counts, and reports its cause. -/
theorem warmReset_spec (s : State) (cause : Nat) : s.warmKept (s.warmReset cause) ∧
    (s.warmReset cause).reg (pg 0x00 + 0x10C) = satAdd (s.reg (pg 0x00 + 0x10C)) 1 ∧
    (s.warmReset cause).pwr.trip = s.pwr.trip ∧
    (s.regs.rising → (s.warmReset cause).regs.rising ∧ (s.warmReset cause).reg (pg 0x00 + 0x108) = w32 cause) := by
  rw [warmReset_eq]
  refine ⟨warmKept_raise (warmKept_setReg _ (warmKept_setReg _ (warmKept_warmStart s) (by decide) (by decide)) (by decide) (by decide))
    (by decide) (by decide), ?_, ?_, fun hr => ⟨rising_raise _ _ (rising_setReg _ _ (rising_setReg _ _ (rising_warmStart hr))), ?_⟩⟩
  · rw [reg_raise_ne _ (by decide), reg_bump_one _ resetCount_reset, reg_setReg_ne _ _ (by decide), reg_warmStart s (by decide)]
  · rw [raise_eq]
    exact pwrTrip_warmStart s
  · rw [reg_raise_ne _ (by decide), reg_bump_ne _ _ (by decide), reg_setReg_self _ _ _ (rising_warmStart hr)]

section
variable {s : State} {src : Src}

theorem exec_warmReset_reached (v : Word) (h : s.pageOn src 0x00 = true) : exec (.warmReset src v) s = .next (s.glbCtrl src v) :=
  congrArg Host.Outcome.next (if_neg (by rw [h]; decide))

theorem glbCtrl_denied (v : Word) (h : s.fmRoute src = false ∨ fld v 20 12 ≠ 0xA5C) : s.glbCtrl src v = s.count 0x6C 0x190 1 :=
  if_pos (h.imp (fun hf => by rw [hf]; rfl) id)

theorem glbCtrl_allowed {v : Word} (hf : s.fmRoute src = true) (hk : fld v 20 12 = 0xA5C) :
    s.glbCtrl src v = if bit v 0 then s.warmReset 2 else s :=
  if_neg (by rw [hf]; simp [hk])

end

/-! ### A FATAL error (16 R571) -/

theorem fatalReset_none (s : State) (t : Nat) (h : s.ras.fatal = none) : exec (.fatalReset t) s = .next (s.at_ t) := by
  show execFatalReset t s = _
  unfold execFatalReset
  dsimp only
  rw [State.atTime_ras, h]

/-- The platform event that a reset after a FATAL error sends first. -/
def State.fatalSent (s : State) : State :=
  match s.ras.plat.find? (fun r => decide (r.cls = 3)) with
  | some r => if decide (s.start ≠ .verify) && decide (s.start ≠ .recovery) then s.platSend r else s
  | none => s

theorem fatalSent_eq (s : State) : s.fatalSent = { s with out := s.fatalSent.out } := by
  unfold State.fatalSent
  split
  · split <;> rfl
  · rfl

/-- A message that leaves first changes nothing of what a reset keeps. -/
theorem warmReset_fatalSent (s : State) (cause : Nat) : s.warmKept (s.fatalSent.warmReset cause) ∧
    (s.fatalSent.warmReset cause).pwr.trip = s.pwr.trip ∧
    (s.regs.rising → (s.fatalSent.warmReset cause).regs.rising ∧ (s.fatalSent.warmReset cause).reg (pg 0x00 + 0x108) = w32 cause) := by
  obtain ⟨hkept, _, htrip, hregs⟩ := warmReset_spec s.fatalSent cause
  generalize s.fatalSent.warmReset cause = u at *
  rw [fatalSent_eq] at hkept htrip hregs
  exact ⟨hkept, htrip, hregs⟩

theorem exec_fatalReset {s : State} {cause info tm : Nat} (t : Nat) (h : s.ras.fatal = some (cause, info, tm)) : exec (.fatalReset t) s = .next
    (((((s.at_ t).fatalSent.warmReset 3).setReg (pg 0x79 + 0x140) (w32 (2 ^ 31 + cause))).setReg (pg 0x79 + 0x144) (w32 info)).raise 0x79 4) := by
  show execFatalReset t s = _
  unfold execFatalReset
  dsimp only
  rw [State.atTime_ras, h]
  rfl

theorem fatalReset_spec (s : State) (t cause info tm : Nat) (h : s.ras.fatal = some (cause, info, tm)) :
    ∃ u : State, exec (.fatalReset t) s = .next u ∧ s.warmKept u ∧ u.pwr.trip = s.pwr.trip ∧
      (s.regs.rising → u.reg (pg 0x00 + 0x108) = 3 ∧ u.reg (pg 0x79 + 0x140) = w32 (2 ^ 31 + cause) ∧ u.reg (pg 0x79 + 0x144) = w32 info) := by
  obtain ⟨hkept, htrip, hregs⟩ : s.warmKept ((s.at_ t).fatalSent.warmReset 3) ∧ _ := warmReset_fatalSent (s.at_ t) 3
  refine ⟨_, exec_fatalReset t h, warmKept_raise (warmKept_setReg _ (warmKept_setReg _ hkept (by decide) (by decide)) (by decide) (by decide))
    (by decide) (by decide), ?_, fun hr => ?_⟩
  · rw [raise_eq]
    exact htrip
  · obtain ⟨hrise, hcause⟩ := hregs hr
    refine ⟨?_, ?_, ?_⟩
    · rw [reg_raise_ne _ (by decide), reg_setReg_ne _ _ (by decide), reg_setReg_ne _ _ (by decide), hcause]
      rfl
    · rw [reg_raise_ne _ (by decide), reg_setReg_ne _ _ (by decide), reg_setReg_self _ _ _ hrise]
    · rw [reg_raise_ne _ (by decide), reg_setReg_self _ _ _ (rising_setReg _ _ hrise)]

/-! ### Start-up phases (17 R605, R607) -/

theorem nextPhase_val {s : State} {p : Startup} (h : s.nextPhase = some p) : s.start.val + 1 = p.val := by
  unfold State.nextPhase at h
  split at h
  · next hs => cases h; rw [hs]; rfl
  · next hs => split at h <;> cases h; rw [hs]; rfl
  · next hs => split at h <;> cases h; rw [hs]; rfl
  · next hs => cases h; rw [hs]; rfl
  · cases h

/-- The state in which a phase has begun, and how long the one before took is reported. -/
def State.phaseBegun (s : State) (p : Startup) : State :=
  (s.setReg (pg 0x00 + 0x110 + 4 * (s.start.val - 2)) (w32 ((s.clk - s.phaseAt) / 1000000))).enterPhase p

theorem exec_phaseEnd {s : State} {p : Startup} (t : Nat) (hh : s.held = false) (hp : s.nextPhase = some p) :
    exec (.phaseEnd t) s = .next (if p = .ready then ((s.at_ t).phaseBegun p).raise 0x00 1 else (s.at_ t).phaseBegun p) := by
  have hh' : (s.at_ t).held = false := hh
  have hp' : (s.at_ t).nextPhase = some p := hp
  show execPhaseEnd t s = _
  unfold execPhaseEnd
  dsimp only
  rw [hh', if_neg (by decide), hp']
  rfl

theorem exec_phaseEnd_stays {s : State} (t : Nat) (h : s.held = true ∨ s.nextPhase = none) : exec (.phaseEnd t) s = .next (s.at_ t) := by
  show execPhaseEnd t s = _
  unfold execPhaseEnd
  dsimp only
  rcases h with h | h
  · have h' : (s.at_ t).held = true := h
    rw [if_pos h']
  · have h' : (s.at_ t).nextPhase = none := h
    rw [h']
    dsimp only
    rw [ite_self]

/-- What a phase that begins changes. -/
theorem phaseBegun_spec (s : State) (p : Startup) : (s.phaseBegun p) = { s with
      start := p, phaseAt := s.clk, phaseDone := false,
      regs := (s.phaseBegun p).regs, fns := (s.phaseBegun p).fns, out := (s.phaseBegun p).out } ∧
    (s.regs.rising → (s.phaseBegun p).reg (pg 0x00 + 0x110 + 4 * (s.start.val - 2)) = w32 ((s.clk - s.phaseAt) / 1000000)) := by
  have hne : pg 0x00 + 0x110 + 4 * (s.start.val - 2) ≠ pg 0x00 + 0x10 := by omega
  refine ⟨?_, fun hr => ?_⟩
  · unfold State.phaseBegun State.enterPhase
    exact (notesOnly_raise _ _ _).1
  · unfold State.phaseBegun State.enterPhase
    rw [reg_raise_ne _ hne]
    exact reg_setReg_self s _ _ hr

theorem phaseEnd_spec {s : State} {p : Startup} (t : Nat) (hh : s.held = false) (hp : s.nextPhase = some p) :
    ∃ u : State, exec (.phaseEnd t) s = .next u ∧
      u = { s.at_ t with start := p, phaseAt := (s.at_ t).clk, phaseDone := false, regs := u.regs, fns := u.fns, out := u.out } ∧ s.start.val + 1 = p.val ∧
      (s.regs.rising → u.reg (pg 0x00 + 0x110 + 4 * (s.start.val - 2)) = w32 (((s.at_ t).clk - s.phaseAt) / 1000000)) := by
  have hne : pg 0x00 + 0x110 + 4 * (s.start.val - 2) ≠ pg 0x00 + 0x10 := by omega
  obtain ⟨heq, hreg⟩ := phaseBegun_spec (s.at_ t) p
  rw [exec_phaseEnd t hh hp]
  by_cases hready : p = .ready
  · refine ⟨_, rfl, ?_, nextPhase_val hp, fun hr => ?_⟩
    · rw [if_pos hready]
      exact (notesOnly_raise _ _ _).1.trans (by rw [heq])
    · rw [if_pos hready, reg_raise_ne _ hne]
      exact hreg hr
  · rw [if_neg hready]
    exact ⟨_, rfl, heq, nextPhase_val hp, hreg⟩

/-! ### Lost clocks and dies (18 R623; 16 R577) -/

section
variable {f : State → Nat → State} {R : NetPort → NetPort → Prop}

/-- A step that is taken for both ports of a die touches them alone. -/
theorem bothPorts (hr : ∀ s n, Sparse.rising s.net.port → Sparse.rising (f s n).net.port)
    (hne : ∀ s n m, m ≠ n → (f s n).netPort m = s.netPort m)
    (hself : ∀ s n, Sparse.rising s.net.port → R (s.netPort n) ((f s n).netPort n)) (s : State) (die : Nat) (h : Sparse.rising s.net.port) :
    (∀ n, n / 2 = die → R (s.netPort n) (([2 * die, 2 * die + 1].foldl f s).netPort n)) ∧
      ∀ n, n / 2 ≠ die → ([2 * die, 2 * die + 1].foldl f s).netPort n = s.netPort n := by
  show (∀ n, n / 2 = die → R (s.netPort n) ((f (f s (2 * die)) (2 * die + 1)).netPort n)) ∧
    ∀ n, n / 2 ≠ die → (f (f s (2 * die)) (2 * die + 1)).netPort n = s.netPort n
  refine ⟨fun n hn => ?_, fun n hn => (hne _ _ n (by omega)).trans (hne _ _ n (by omega))⟩
  have hcases : n = 2 * die ∨ n = 2 * die + 1 := by omega
  rcases hcases with rfl | rfl
  · rw [hne _ _ _ (by omega)]
    exact hself s _ h
  · have hstep := hself (f s (2 * die)) (2 * die + 1) (hr s _ h)
    rwa [hne s _ _ (by omega)] at hstep

end

theorem netDown_net (s : State) (n : Nat) : (s.netDown n).net =
    (((s.settleCredit n).setNetPort n { s.netPort n with up := false, downAt := s.clk }).setGate n
      { ((s.settleCredit n).setNetPort n { s.netPort n with up := false, downAt := s.clk }).gate n with queue := [], busy := 0 }).net := by
  unfold State.netDown
  dsimp only
  rw [State.rasRecord_net, State.count_net]
  rfl

theorem rising_port_netDown {s : State} (n : Nat) (h : Sparse.rising s.net.port) : Sparse.rising (s.netDown n).net.port := by
  rw [netDown_net]
  exact rising_sset _ _ _ h

theorem netPort_netDown_ne (s : State) {n m : Nat} (h : m ≠ n) : (s.netDown n).netPort m = s.netPort m := by
  rw [netPort_of_net (netDown_net s n) m]
  exact netPort_setNetPort_ne (s.settleCredit n) _ h

theorem netPort_netDown_self {s : State} (n : Nat) (h : Sparse.rising s.net.port) :
    (s.netDown n).netPort n = { s.netPort n with up := false, downAt := s.clk } := by
  rw [netPort_of_net (netDown_net s n) n]
  exact netPort_setNetPort_self (s.settleCredit n) _ h

/-- A port goes down when its clock is lost. -/
def State.clockLost (s : State) (n : Nat) : State := if (s.netPort n).up then s.netDown n else s

/-- A port whose die is lost. -/
def State.dieLost (s : State) (n : Nat) : State :=
  if (s.netPort n).lost then s
  else
    let s := if (s.netPort n).up then s.netDown n else s.rasRecord (netPage n) 0x0C 2 n 0
    s.setNetPort n { s.netPort n with lost := true }

theorem netRefclkLoss_ports (s : State) (die : Nat) (h : Sparse.rising s.net.port) :
    (∀ n, n / 2 = die → (([2 * die, 2 * die + 1].foldl State.clockLost s).netPort n).up = false ∧
      (([2 * die, 2 * die + 1].foldl State.clockLost s).netPort n).lost = (s.netPort n).lost) ∧
      ∀ n, n / 2 ≠ die → ([2 * die, 2 * die + 1].foldl State.clockLost s).netPort n = s.netPort n := by
  refine bothPorts (R := fun v w => w.up = false ∧ w.lost = v.lost) ?_ ?_ ?_ s die h
  · intro s n h
    unfold State.clockLost
    split
    · exact rising_port_netDown n h
    · exact h
  · intro s n m hm
    unfold State.clockLost
    split
    · exact netPort_netDown_ne s hm
    · rfl
  · intro s n h
    unfold State.clockLost
    split
    · rw [netPort_netDown_self n h]
      exact ⟨rfl, rfl⟩
    · next hup => exact ⟨by simpa using hup, rfl⟩

/-- The port of a lost die, before it is marked. -/
def State.dieDown (s : State) (n : Nat) : State := if (s.netPort n).up then s.netDown n else s.rasRecord (netPage n) 0x0C 2 n 0

theorem rising_port_dieDown {s : State} (n : Nat) (h : Sparse.rising s.net.port) : Sparse.rising (s.dieDown n).net.port := by
  unfold State.dieDown
  split
  · exact rising_port_netDown n h
  · rw [State.rasRecord_net]
    exact h

theorem netPort_dieDown_ne (s : State) {n m : Nat} (h : m ≠ n) : (s.dieDown n).netPort m = s.netPort m := by
  unfold State.dieDown
  split
  · exact netPort_netDown_ne s h
  · exact netPort_of_net (State.rasRecord_net s _ _ _ _ _) m

theorem dieLost_eq (s : State) (n : Nat) : s.dieLost n =
    if (s.netPort n).lost then s else (s.dieDown n).setNetPort n { (s.dieDown n).netPort n with lost := true } := rfl

theorem dieToDieLinkLoss_ports (s : State) (die : Nat) (h : Sparse.rising s.net.port) :
    (∀ n, n / 2 = die → (([2 * die, 2 * die + 1].foldl State.dieLost s).netPort n).lost = true) ∧
      ∀ n, n / 2 ≠ die → ([2 * die, 2 * die + 1].foldl State.dieLost s).netPort n = s.netPort n := by
  refine bothPorts (R := fun _ w => w.lost = true) ?_ ?_ ?_ s die h
  · intro s n h
    rw [dieLost_eq]
    split
    · exact h
    · exact rising_sset _ _ _ (rising_port_dieDown n h)
  · intro s n m hm
    rw [dieLost_eq]
    split
    · rfl
    · exact (netPort_setNetPort_ne _ _ hm).trans (netPort_dieDown_ne s hm)
  · intro s n h
    rw [dieLost_eq]
    split
    · next hlost => exact hlost
    · exact congrArg NetPort.lost (netPort_setNetPort_self _ _ (rising_port_dieDown n h))

/-- Settles O56: a cold reset starts from `State.reset`; a warm reset touches of what it keeps only what the kept bank governs (`BankOnly`). -/
theorem resetsStartOver : Obligations.ResetsStartOver := by
  refine ⟨?_, ?_, ?_, ?_, ?_, ?_⟩
  · intro s t p hp
    obtain ⟨v, hexec, hheld, hdir, hsec, hflm, hh0, hh1, hout, hpend⟩ := coldReset_holds s t p hp
    have hspec := coldReset_spec v p.2 _ rfl
    rw [hdir, hsec, hflm, hh0, hh1, hout, hpend] at hspec
    exact ⟨_, hexec, hheld, hspec⟩
  · intro s t
    refine ⟨fun h => ?_, fun h => ?_, fun h => ?_, fun h1 h2 h3 => ?_, fun h => ?_, fun h => ?_⟩
    · exact congrArg Host.Outcome.next ((if_pos rfl).trans (if_neg (show ¬ s.pwr.pwrBad = true by rw [h]; decide)))
    · exact congrArg Host.Outcome.next ((if_pos rfl).trans (if_pos (show s.pwr.pwrBad = true from h)))
    · refine congrArg Host.Outcome.next (if_neg (show ¬ (s.pwr.resetLow = true ∧ (!s.pwr.pwrBad) = true ∧
        s.pwr.heldAt + 100000 ≤ (s.at_ t).clk) from ?_))
      rintro ⟨h1, h2, h3⟩
      simp only [Bool.not_eq_true'] at h2
      rcases h with h | h | h
      · rw [h] at h1; exact Bool.noConfusion h1
      · rw [h] at h2; exact Bool.noConfusion h2
      · omega
    · exact congrArg Host.Outcome.next (if_pos (show s.pwr.resetLow = true ∧ (!s.pwr.pwrBad) = true ∧
        s.pwr.heldAt + 100000 ≤ (s.at_ t).clk from ⟨h1, by rw [h2]; rfl, h3⟩))
    · exact congrArg Host.Outcome.next (if_neg (show ¬ s.pwr.clkLost = true by rw [h]; decide))
    · exact congrArg Host.Outcome.next (if_pos (show s.pwr.clkLost = true from h))
  · intro s src v
    refine ⟨fun h => congrArg Host.Outcome.next (if_pos (by rw [h]; rfl)), fun hon h => ?_, fun hon hf hk hv => ?_, fun hon hf hk hv => ?_⟩
    · rw [exec_warmReset_reached v hon, glbCtrl_denied v h]
    · rw [exec_warmReset_reached v hon, glbCtrl_allowed hf hk, hv]
      rfl
    · obtain ⟨hkept, hcount, _, hcause⟩ := warmReset_spec s 2
      refine ⟨s.warmReset 2, ?_, hkept, hcount, fun hr => (hcause hr).2⟩
      rw [exec_warmReset_reached v hon, glbCtrl_allowed hf hk, hv]
      rfl
  · exact fun s t => ⟨fatalReset_none s t, fatalReset_spec s t⟩
  · intro s t
    exact ⟨fun h => exec_phaseEnd_stays t h, fun p hh hp => phaseEnd_spec t hh hp⟩
  · intro s die t
    refine ⟨fun h => ⟨congrArg Host.Outcome.next (if_pos h), congrArg Host.Outcome.next (if_pos h)⟩, fun h hk => ?_⟩
    have hno : ¬ s.fusedDies ≤ die := by omega
    have hport : Sparse.rising s.net.port := by
      obtain ⟨_, _, _, _, _, _, _, _, _, hport, _⟩ := hk
      exact hport
    exact ⟨⟨_, congrArg Host.Outcome.next (if_neg hno), netRefclkLoss_ports (s.at_ t) die hport⟩,
      ⟨_, congrArg Host.Outcome.next (if_neg hno), dieToDieLinkLoss_ports s die hport⟩⟩

end Sys2Proof.Machine
